-- ==== Sys2Proof/Word.lean ====
section
/-! DEFINITION. The word types of the LX96: a register word (R4), a 64-bit register, one 64-byte line (R156), and a byte. -/

namespace Sys2Proof

/-- A 32-bit register (R4). -/
abbrev Word := BitVec 32

/-- A 64-bit register (R4). -/
abbrev DWord := BitVec 64

/-- One 64-byte line: the 512 bits of a data flit (R156). -/
abbrev Line := BitVec 512

/-- One byte. -/
abbrev Byte := BitVec 8

end Sys2Proof
end

