-- ==== Sys2Proof/Machine/Sparse.lean ====
section
/-! DEFINITION. Sparse maps from numbers (addresses, instance numbers) to plain data, as lists of pairs in one canonical form: keys strictly
rising, and no entry equal to what an unlisted key reads as. Also bit fields of registers and a few list helpers. -/

namespace Sys2Proof.Machine

/-- A sparse map: (key, value) pairs, keys strictly rising; an unlisted key reads as the map's default. -/
abbrev SMap (α : Type) := List (Nat × α)

/-- The value at key `k`; `d` is what an unlisted key reads as. -/
def smGet {α : Type} (d : α) : SMap α → Nat → α
  | [], _ => d
  | (j, v) :: m, k => if j = k then v else smGet d m k

/-- The map with `(k, v)` put in its place. -/
def smPut {α : Type} (k : Nat) (v : α) : SMap α → SMap α
  | [] => [(k, v)]
  | (j, w) :: m => if k < j then (k, v) :: (j, w) :: m else if k = j then (k, v) :: m else (j, w) :: smPut k v m

/-- The map with no entry at `k`. -/
def smDel {α : Type} (k : Nat) : SMap α → SMap α
  | [] => []
  | (j, w) :: m => if j = k then smDel k m else (j, w) :: smDel k m

/-- The map with `v` at key `k`; `d` is what an unlisted `k` reads as, so writing `d` removes the entry. (DESIGN CHOICE, assumption 7) -/
def smSet {α : Type} [DecidableEq α] (d : α) (m : SMap α) (k : Nat) (v : α) : SMap α :=
  if v = d then smDel k m else smPut k v m

/-- The map without the keys that `p` names. -/
def smClear {α : Type} (p : Nat → Bool) : SMap α → SMap α
  | [] => []
  | (j, w) :: m => if p j then smClear p m else (j, w) :: smClear p m

/-- The map with every value replaced by `f` of its key and itself. -/
def smMap {α : Type} [DecidableEq α] (d : α) (f : Nat → α → α) : SMap α → SMap α
  | [] => []
  | (j, w) :: m => if f j w = d then smMap d f m else (j, f j w) :: smMap d f m

/-- Every key of the list is above `k`, in strictly rising order. -/
def smRising {α : Type} : Option Nat → SMap α → Bool
  | _, [] => true
  | lo, (j, _) :: m => (match lo with | none => true | some l => decide (l < j)) && smRising (some j) m

/-- The canonical form: keys strictly rising, and no entry equal to what an unlisted key reads as. (DESIGN CHOICE, assumption 7) -/
def smWf {α : Type} [DecidableEq α] (d : Nat → α) (m : SMap α) : Bool :=
  smRising none m && m.all (fun e => decide (e.2 ≠ d e.1))

/-- A bit field of a register: its least significant bit and its width. -/
structure Fld where
  lo : Nat
  width : Nat
  deriving DecidableEq, Repr

/-- The field's value in the register value `v`. -/
def Fld.get (f : Fld) (v : Nat) : Nat := v / 2 ^ f.lo % 2 ^ f.width

/-- The register value `v` with the field set to `x` (cut to the field's width). -/
def Fld.set (f : Fld) (v x : Nat) : Nat :=
  v % 2 ^ f.lo + x % 2 ^ f.width * 2 ^ f.lo + v / 2 ^ (f.lo + f.width) * 2 ^ (f.lo + f.width)

/-- Bit `k` of a number. -/
def bitAt (v k : Nat) : Bool := v.testBit k

/-- One or nought. -/
def b2n (b : Bool) : Nat := if b then 1 else 0

/-- The list with the element at `n` changed. -/
def listModify {α : Type} (f : α → α) : List α → Nat → List α
  | [], _ => []
  | x :: xs, 0 => f x :: xs
  | x :: xs, n + 1 => x :: listModify f xs n

/-- The list with the element at `n` replaced. -/
def listSet {α : Type} (l : List α) (n : Nat) (v : α) : List α := listModify (fun _ => v) l n

/-- The element at `n`, or `d` where the list is shorter. -/
def listGet {α : Type} (d : α) : List α → Nat → α
  | [], _ => d
  | x :: _, 0 => x
  | _ :: xs, n + 1 => listGet d xs n

/-- The list without its element at `n`. -/
def listDrop {α : Type} : List α → Nat → List α
  | [], _ => []
  | _ :: xs, 0 => xs
  | x :: xs, n + 1 => x :: listDrop xs n

/-- A saturating increment at the top of a `w`-bit counter. -/
def satInc (w v : Nat) : Nat := if v + 1 < 2 ^ w then v + 1 else 2 ^ w - 1

/-- A saturating sum at the top of a `w`-bit counter. -/
def satAdd (w v n : Nat) : Nat := if v + n < 2 ^ w then v + n else 2 ^ w - 1

end Sys2Proof.Machine
end

