-- ==== Sys2Proof/Machine/StEddy.lean ====
section
/-! DEFINITION. The data of the Eddy engines: instructions as the four slots of a bundle hold them (Tables EDY-5 to EDY-9), an engine's
architectural state (R87–R95), its queues, transfers and run state (Programming the Eddy array). -/

namespace Sys2Proof.Machine

/-- R104: the element types of the type field T. -/
inductive ETy where
  | i8
  | i16
  | i32
  | bf16
  | fp32
  | u8
  deriving DecidableEq, Repr

/-- R104: the conditions of the cond field. -/
inductive Cond where
  | eq
  | ne
  | lt
  | ge
  | ltu
  | geu
  deriving DecidableEq, Repr

/-- Table EDY-6, 0x01–0x0B: the scalar operations. -/
inductive SOp where
  | add
  | sub
  | and
  | or
  | xor
  | shl
  | shr
  | sra
  | mul
  | min
  | max
  deriving DecidableEq, Repr

/-- Table EDY-6: an instruction of slot S. -/
inductive SInsn where
  | nop
  | alu (op : SOp) (sat : Bool) (sd sa sb : Nat)
  | aluImm (op : SOp) (sat : Bool) (sd sa : Nat) (imm : Int)
  | movi (sd : Nat) (imm : Int)
  | movhi (sd imm : Nat)
  | cmp (pd : Nat) (cond : Cond) (sa sb : Nat)
  | cmpImm (pd : Nat) (cond : Cond) (sa : Nat) (imm : Int)
  | plog (pd pa pb f : Nat)
  | movc (s idx : Nat)
  | movtc (s idx : Nat)
  | br (target : Nat)
  | brr (s : Nat)
  | call (target : Nat)
  | loop (target : Nat)
  | lock (region : Nat)
  | unlock
  | fence
  | trap (code : Nat)
  | done
  deriving DecidableEq, Repr

/-- Table EDY-7: the memory accesses of slot L. -/
inductive LOp where
  | ld
  | st
  | vld
  | vst
  | vldp
  | vstp
  | vldb
  deriving DecidableEq, Repr

/-- Table EDY-7: an instruction of slot L. -/
inductive LInsn where
  | nop
  | mem (op : LOp) (rd base : Nat) (pi : Bool) (off : Int)
  | sget (vd half : Nat)
  | sput (vd half : Nat)
  | xreq (base : Nat)
  | xwait (n : Nat)
  deriving DecidableEq, Repr

/-- Table EDY-8, 0x01–0x06: the elementwise arithmetic of slot V; VABS has no second operand. -/
inductive VOp where
  | add
  | sub
  | min
  | max
  | abs
  | mul
  deriving DecidableEq, Repr

/-- Table EDY-8: the bitwise operations and the shifts of slot V. -/
inductive VBit where
  | and
  | or
  | xor
  | shl
  | shr
  | sra
  deriving DecidableEq, Repr

/-- Table EDY-8: an instruction of slot V. -/
inductive VInsn where
  | nop
  | arith (op : VOp) (sat : Bool) (ty : ETy) (vd va vb : Nat)
  | logic (op : VBit) (vd va vb : Nat)
  | shift (op : VBit) (ty : ETy) (vd va amount : Nat)
  | cmp (ty : ETy) (cond : Cond) (vd va vb : Nat)
  | sel (ty : ETy) (vd va vb : Nat)
  | bcst (ty : ETy) (vd s : Nat)
  | mov (vd va : Nat)
  | ext (ty : ETy) (vd va k : Nat)
  | movs (ty : ETy) (sd va idx : Nat)
  | srs (sat : Bool) (ty : ETy) (vd acc sh : Nat) (hi : Bool)
  | mova (ty : ETy) (acc va : Nat) (hi : Bool)
  | cvt (sat : Bool) (src dst : ETy) (hi : Bool) (vd va : Nat)
  | twld (va : Nat)
  | twst (vd : Nat)
  deriving DecidableEq, Repr

/-- Table EDY-9: an instruction of slot M. -/
inductive MInsn where
  | nop
  | mac (broadcast sat : Bool) (ty : ETy) (acc vx vy g : Nat) (z n : Bool)
  | ftap (sat : Bool) (ty : ETy) (acc ss : Nat) (mv : Bool) (vc g : Nat) (z n : Bool)
  | aclr (acc : Nat)
  | aadd (sat : Bool) (ty : ETy) (acc as : Nat) (z : Bool)
  | asend (acc : Nat)
  | arecv (sat : Bool) (ty : ETy) (acc : Nat) (z : Bool)
  deriving DecidableEq, Repr

/-- Table EDP-1: the run states. -/
inductive RunState where
  | off
  | stopped
  | running
  | done
  | faulted
  | halted
  deriving DecidableEq, Repr

/-- Table EDP-1: the STATE codes. -/
def RunState.code : RunState → Nat
  | .off => 0
  | .stopped => 1
  | .running => 2
  | .done => 3
  | .faulted => 4
  | .halted => 5

/-- Table EDP-3: the transfer status codes. -/
inductive XStatus where
  | pending
  | ok
  | badDesc
  | poisoned
  | unreachable
  | refused
  | dmemUncorr
  | aborted
  deriving DecidableEq, Repr

/-- Table EDP-3: the codes. -/
def XStatus.code : XStatus → Nat
  | .pending => 0
  | .ok => 1
  | .badDesc => 2
  | .poisoned => 3
  | .unreachable => 4
  | .refused => 5
  | .dmemUncorr => 6
  | .aborted => 7

/-- R150–R152: one outstanding transfer: the descriptor's address and its 32 bytes as read when XREQ issued, whether that read met a
double-bit error, whether the transfer has begun, the lines asked of the Millrace (`sent`), answered or refused (`answered`) and moved
(`moved`), the lines received and not yet written (line, value, poison), and the first outcome other than OK. -/
structure Xfer where
  desc : Nat
  raw : Nat
  descBad : Bool
  begun : Bool
  sent : Nat
  answered : Nat
  moved : Nat
  got : List (Nat × Nat × Bool)
  status : XStatus
  deriving DecidableEq, Repr

/-- R115: a posted store to a neighbour's data memory: the memory's engine, the first 32-bit word, and the words. -/
structure Posted where
  mem : Nat
  word : Nat
  vals : List (BitVec 32)
  deriving DecidableEq, Repr

/-- R87, R92–R95: the registers of an engine that START clears. `p` is the eight physical predicates; `v` the 32 physical vector registers;
an accumulator is 32 lanes of 48 bits, lane 0 lowest. -/
structure EddyRegs where
  s : SMap (BitVec 32)
  v : SMap (BitVec 512)
  p : BitVec 8
  acc : SMap (BitVec 1536)
  tw : BitVec 1024
  estat : BitVec 4
  lc : BitVec 32
  ec : BitVec 32
  rrb : Nat
  cycle : BitVec 32
  deriving DecidableEq, Repr

/-- R130, Table EDY-2: the registers at engine start. -/
def EddyRegs.start : EddyRegs := ⟨[], [], 1, [], 0, 0, 0, 0, 0, 0⟩

/-- R117, R142–R148: the queues of an engine: the cascade input (accumulator value and cycles until it is visible), the stream, stimulus
and capture queues, oldest first, and the stimulus staging word. -/
structure EddyQueues where
  casc : List (Nat × Nat)
  inQ : List (BitVec 256)
  outQ : List (BitVec 256)
  stimQ : List (BitVec 256)
  capQ : List (BitVec 256)
  stim : BitVec 256
  deriving DecidableEq, Repr

/-- Empty queues. -/
def EddyQueues.empty : EddyQueues := ⟨[], [], [], [], [], 0⟩

/-- The issue logic: the interlock's ready times by resource (R102), the cycles still to pass after a taken branch (R103), the watchdog
(R138–R140), the values START applied from EDDY_CFG (R126), the lock held, asked for and its hold count (R119–R122), and what is pending
at the next bundle boundary. -/
structure EddyIssue where
  now : Nat
  ready : SMap Nat
  hold : Nat
  waiting : Bool
  wdog : Nat
  wdogLimit : Nat
  lockLimit : Nat
  compat : Bool
  excIrq : Bool
  held : Option Nat
  lockReq : Option Nat
  holdCount : Nat
  startReq : Bool
  stopReq : Bool
  haltReq : Bool
  stepLeft : Nat
  xport : Option Nat
  deriving DecidableEq, Repr

/-- The issue logic of an engine that has not started. -/
def EddyIssue.idle : EddyIssue :=
  ⟨0, [], 0, false, 0, 0, 128, false, true, none, none, 0, false, false, false, 0, none⟩

/-- One engine: its claiming stall (R88), run state, PC, the two program banks of 128-bit bundles with their states (Table STL-3) and the
live one (R235), the staging bundle (R136: bundle address, words by index), data memory by 32-bit word, and the parts above.
`lockedBy` is the engine that holds this engine's data memory, `lockNext` the round-robin pointer of LOCK. -/
structure Eddy where
  owner : Option Nat
  run : RunState
  pc : Nat
  progA : SMap (BitVec 128)
  progB : SMap (BitVec 128)
  stateA : Nat
  stateB : Nat
  liveB : Bool
  stage : Option (Nat × SMap Nat)
  data : SMap (BitVec 32)
  regs : EddyRegs
  queues : EddyQueues
  issue : EddyIssue
  xfers : List Xfer
  posted : List Posted
  lockedBy : Option Nat
  lockNext : Nat
  deriving DecidableEq, Repr

/-- An engine at reset: OFF, its banks BLANK. (DESIGN CHOICE, assumption 186) -/
def Eddy.reset : Eddy :=
  ⟨none, .off, 0, [], [], 0, 0, false, none, [], .start, .empty, .idle, [], [], none, 0⟩

/-- What the environment decides when a bundle issues: the error bits in the fetched bundle (R116: 0, 1 or more), the bits upsets have
flipped in data-memory words as (engine, 64-bit word, mask), and whether the L slot's banks are granted in this cycle (R114). -/
structure IssueEnv where
  pmemErr : Nat
  upsets : List (Nat × Nat × Nat)
  grant : Bool
  deriving DecidableEq, Repr

end Sys2Proof.Machine
end

