-- ==== Sys2Proof/Machine/StMem.lean ====
section
/-! DEFINITION. The data of the HBM and CXL memory ports and the Sluice: stored lines, key slots, and each port's zeroing queue and walker
(HBM, CXL memory and the Sluice). Ports are numbered 16k + p for HBMP_k_p and 64 + n for MEM_CXL_n. -/

namespace Sys2Proof.Machine

/-- One stored 64-byte line: its plaintext, the key it was last encrypted under (`kid` is the serial number of the slot's load, 0 for a
plaintext line or a line as zeroed under its region's key) and whether it is poison (R211). (DESIGN CHOICE, assumption 63) -/
structure HLine where
  plain : BitVec 512
  kid : Nat
  poison : Bool
  deriving DecidableEq, Repr

/-- A line as zeroing leaves it (R218). (DESIGN CHOICE, assumption 65) -/
def HLine.zero : HLine := ⟨0, 0, false⟩

/-- R204: what a key slot holds: the keys K1, K2 and KT, and the serial number of the load. -/
structure KeySlot where
  k1 : BitVec 256
  k2 : BitVec 256
  kt : BitVec 256
  kid : Nat
  deriving DecidableEq, Repr

/-- An EMPTY slot holds zeros. -/
def KeySlot.empty : KeySlot := ⟨0, 0, 0, 0⟩

/-- R218, R220: a port's queue of regions to zero and to walk, the region at work first, and the sector the walker holds: the lines it read
as poison or found faulty. -/
structure PortWork where
  zeroQ : List Nat
  walkQ : List Nat
  held : Option (List Nat)
  downLogged : Bool
  deriving DecidableEq, Repr

/-- A port with nothing queued. -/
def PortWork.idle : PortWork := ⟨[], [], none, false⟩

/-- What the stack reports of a line (R209, R210): a corrected error, an uncorrectable one, or a tag that does not verify. -/
inductive LineFault where
  | corrected
  | uncorr
  | tagFail
  deriving DecidableEq, Repr

/-- Memory and the Sluice: lines keyed 2^40 × port + physical line, key slots by index (their state is in SLUICE_SLOT_k), the next serial
number of a key load, and each port's queues. -/
structure Mem where
  lines : SMap HLine
  slots : SMap KeySlot
  nextKid : Nat
  work : SMap PortWork
  deriving DecidableEq, Repr

/-- Memory in which nothing has been written. -/
def Mem.reset : Mem := ⟨[], [], 1, []⟩

end Sys2Proof.Machine
end

