-- ==== Sys2Proof/Machine/StFabric.lean ====
section
/-! DEFINITION. The fabric's data: configurations of tiles, BM36, Ponds and fabric MAC blocks as an image gives them (Logic tiles, cells and
fabric memories), the state those blocks hold, tributaries and their ownership map (Routing), and the two configuration planes of a shed. -/

namespace Sys2Proof.Machine

/-- Table LGC-3: the modes of an M-tile. An L-tile is always in `logic`. -/
inductive MMode where
  | logic
  | m64
  | m32
  | m64w
  | m64d
  | m64q
  | shift32
  deriving DecidableEq, Repr

/-- Table LGC-2: the D source of a flip-flop; `direct` is DX for KA and DY for KB. KA has no `carry` and KB no `f`. -/
inductive DSel where
  | f
  | h
  | y
  | carry
  | direct
  deriving DecidableEq, Repr

/-- R28: the enable of a flip-flop. -/
inductive EnSel where
  | always
  | en0
  | en1
  deriving DecidableEq, Repr

/-- R28, R29: one flip-flop's settings. -/
structure FfCfg where
  dsel : DSel
  ensel : EnSel
  trstUse : Bool
  trstVal : Bool
  inv : Bool
  deriving DecidableEq, Repr

/-- R24–R27, R32, R33: one cell. `table` holds the 64 bits; `isMem` says that the table serves the tile's memory mode. -/
structure CellCfg where
  table : Nat
  half : Bool
  genDx : Bool
  isMem : Bool
  chain : Bool
  ka : FfCfg
  kb : FfCfg
  deriving DecidableEq, Repr

/-- R26: the source of the carry-in of cell 0. -/
inductive CarrySrc where
  | zero
  | one
  | dx0
  | below
  deriving DecidableEq, Repr

/-- R26, R28, R31: one tile; `clk` is one of the shed's 16 spine clocks (R78). -/
structure TileCfg where
  clk : Nat
  clkInv : Bool
  async : Bool
  carryIn : CarrySrc
  mode : MMode
  cells : List CellCfg
  deriving DecidableEq, Repr

/-- A flip-flop that takes H on every edge. -/
def FfCfg.blank : FfCfg := ⟨.h, .always, false, false, false⟩

/-- A cell with a zero table. -/
def CellCfg.blank : CellCfg := ⟨0, false, false, false, false, .blank, .blank⟩

/-- A tile whose frames are zero. -/
def TileCfg.blank : TileCfg := ⟨0, false, false, .zero, .logic, List.replicate 8 .blank⟩

/-- Table LGC-4: the modes of a BM36. -/
inductive BmMode where
  | dual
  | wide
  | fifo
  | fifo1clk
  | pair
  deriving DecidableEq, Repr

/-- R37: what a port shows during its own write. -/
inductive WMode where
  | showNew
  | showOld
  | holdOut
  deriving DecidableEq, Repr

/-- R36–R43: one BM36; a FIFO's organisation is `widthA`. -/
structure BmCfg where
  mode : BmMode
  widthA : Nat
  widthB : Nat
  clkA : Nat
  clkB : Nat
  wmodeA : WMode
  wmodeB : WMode
  opipeA : Bool
  opipeB : Bool
  ecc : Bool
  headout : Bool
  nfLevel : Nat
  neLevel : Nat
  deriving DecidableEq, Repr

/-- R45, R47: one Pond site; `cascade` is the number of sites of a cascade that begins at this site (0: none). -/
structure PondCfg where
  clk : Nat
  org36 : Bool
  ecc : Bool
  opipe : Bool
  cascade : Nat
  deriving DecidableEq, Repr

/-- R48–R51: one fabric MAC block. -/
structure FmbCfg where
  clk : Nat
  xpipe : Bool
  wpipe : Bool
  gpipe : Bool
  mpipe : Bool
  apipe : Bool
  sat : Bool
  konst : Int
  xChain : Bool
  wChain : Bool
  deriving DecidableEq, Repr

/-- What the frames of one plane configure in one shed (R235): the logic, the hard blocks, the enabled driver and tap slots with their
device clocks (R70, R71), the sheds into which it drives segments across a boundary, the two candidate inputs of each spine clock (R406) and
the spine clocks whose select a user signal drives. -/
structure ShedCfg where
  tiles : SMap TileCfg
  bms : SMap BmCfg
  ponds : SMap PondCfg
  fmbs : SMap FmbCfg
  drivers : List (Nat × Nat)
  taps : List (Nat × Nat)
  into : List Nat
  spines : List (Nat × Nat)
  usrSel : Nat
  deriving DecidableEq, Repr

/-- A plane all of whose frames are zero. -/
def ShedCfg.blank : ShedCfg := ⟨[], [], [], [], [], [], [], [], 0⟩

/-- One plane of one shed: its configuration and its save area, 16 flip-flops a tile (R235). -/
structure Plane where
  cfg : ShedCfg
  save : SMap Nat
  deriving DecidableEq, Repr

/-- A plane with zero frames and a zero save area. -/
def Plane.blank : Plane := ⟨.blank, []⟩

/-- R36–R44: the state of one BM36: its 512 physical words of 72 bits, the output registers, and the FIFO's pointers, synchronisers and
flags. `wrst` and `rrst` count the edges for which each domain still ignores its side (R43). -/
structure Bm where
  mem : SMap Nat
  outA : Nat
  outB : Nat
  pipeA : Nat
  pipeB : Nat
  eccFix : Bool
  eccBad : Bool
  wptr : Nat
  rptr : Nat
  wsync1 : Nat
  wsync2 : Nat
  rsync1 : Nat
  rsync2 : Nat
  wrst : Nat
  rrst : Nat
  full : Bool
  nearFull : Bool
  empty : Bool
  emptyPre : Bool
  nearEmpty : Bool
  overrun : Bool
  underrun : Bool
  deriving DecidableEq, Repr

/-- A BM36 with zero contents, its FIFO as at the end of reset (R53, R250). -/
def Bm.zero : Bm :=
  ⟨[], 0, 0, 0, 0, false, false, 0, 0, 0, 0, 0, 0, 0, 0, false, false, true, true, true, false, false⟩

/-- R45: the state of one Pond: 4 096 words of 72 bits and the words on their way to each port's output, the next to appear first. -/
structure Pond where
  mem : SMap Nat
  pipeA : List Nat
  pipeB : List Nat
  outA : Nat
  outB : Nat
  eccFix : Bool
  eccBad : Bool
  deriving DecidableEq, Repr

/-- A Pond with zero contents. -/
def Pond.zero : Pond := ⟨[], [], [], 0, 0, false, false⟩

/-- R48–R50: the registers of one fabric MAC block. -/
structure Fmb where
  xr : Int
  wr : Int
  gr : Int
  mr : Int
  acc : Int
  ovf : Bool
  deriving DecidableEq, Repr

/-- A fabric MAC block whose registers hold 0 (R53). -/
def Fmb.zero : Fmb := ⟨0, 0, 0, 0, 0, false⟩

/-- One tributary: Tolmor's map entry (owner, live and background driver tap), the select latches DRV_A and DRV_B, one bit a tap, and the
Riverbed register. -/
structure Trib where
  owner : Option Nat
  live : Option Nat
  bg : Option Nat
  drvA : Nat
  drvB : Nat
  reg : Bool
  deriving DecidableEq, Repr

/-- An unowned tributary with no driver. -/
def Trib.none : Trib := ⟨Option.none, Option.none, Option.none, 0, 0, false⟩

/-- R55: where a yard's scrubber stands: the shed, the frame and whether the background plane's frame is next; whether an uncorrectable
word has been found since start (R60). -/
structure ScrubPos where
  shed : Nat
  frame : Nat
  bg : Bool
  uncorrSeen : Bool
  deriving DecidableEq, Repr

/-- The scrubber at the start of a pass. -/
def ScrubPos.start : ScrubPos := ⟨0, 0, false, false⟩

/-- The fabric. Sheds are numbered 48y + s. Tiles are keyed 8192 × shed + tile, blocks 64 × shed + index, planes 2 × shed + plane; the
`drive` and `land` registers are one 960-bit number a shed (R70); `snap` is the slot snapshot each bundle's far side presents (R74),
keyed 256y + b; `upsets` holds the flipped bits of a configuration word, keyed ((2 × shed + plane) × 2304 + frame) × 64 + word;
`liveFlip` marks a shed whose live-plane latch is upset (R83). -/
structure Fabric where
  planes : SMap Plane
  ffs : SMap Nat
  bms : SMap Bm
  ponds : SMap Pond
  fmbs : SMap Fmb
  tribs : SMap Trib
  drive : SMap Nat
  land : SMap Nat
  snap : SMap Nat
  upsets : SMap Nat
  liveFlip : SMap Bool
  scrub : SMap ScrubPos
  memUncorr : SMap Bool
  deriving DecidableEq, Repr

/-- The fabric at start: every plane BLANK, every register 0 (R53, Configuration at start). -/
def Fabric.reset : Fabric := ⟨[], [], [], [], [], [], [], [], [], [], [], [], []⟩

/-- The fabric-routed inputs of one cell: the pattern on L0–L5 (L0 least significant) and the direct inputs. -/
structure CellIn where
  l : Nat
  dx : Bool
  dy : Bool
  deriving DecidableEq, Repr

/-- The routed inputs of a tile at an edge: its eight cells, its control set, and CY of cell 7 of the tile below. -/
structure TileIn where
  cells : List CellIn
  en0 : Bool
  en1 : Bool
  trst : Bool
  below : Bool
  deriving DecidableEq, Repr

/-- The routed inputs of one port of a BM36 or Pond: `upset` is the set of bits that upsets have flipped in the word it reads (R59). -/
structure PortIn where
  en : Bool
  we : Bool
  lanes : Nat
  addr : Nat
  data : Nat
  upset : Nat
  deriving DecidableEq, Repr

/-- R38: whether the other port, on another clock, accesses the same word within the collision window, and how. -/
inductive Collide where
  | no
  | withRead
  | withWrite
  deriving DecidableEq, Repr

/-- The routed inputs of a BM36. `frst` is the FIFO reset as the clocked domain sees it, `syncMet` whether the synchroniser's first stage
caught the newest pointer, `collide` what the other clock's port does to the same word within the collision window (R38). -/
structure BmIn where
  a : PortIn
  b : PortIn
  frst : Bool
  syncMet : Bool
  collide : Collide
  deriving DecidableEq, Repr

/-- R48: the PRE field of FCTL. -/
inductive FmbPre where
  | x
  | g
  | xPlusG
  | xMinusG
  deriving DecidableEq, Repr

/-- R48: the ZSEL field of FCTL. -/
inductive FmbZ where
  | zero
  | acc
  | n
  | accCi
  deriving DecidableEq, Repr

/-- The routed inputs of a fabric MAC block: operands, addend and FCTL. -/
structure FmbIn where
  en : Bool
  x : Int
  w : Int
  g : Int
  n : Int
  pre : FmbPre
  zsel : FmbZ
  ksel : Nat
  deriving DecidableEq, Repr

/-- What an active edge clocks, with the inputs that routing presents there. `tileAsync` is a tile whose TRST is 1 with no edge.
`pin` gives what the shed presents to a pin cell (PIN_O or TXD, PIN_OE, BITSLIP) and the bits its pad received since the last edge. -/
inductive ElemIn where
  | tile (shed tile : Nat) (inp : TileIn)
  | tileAsync (shed tile : Nat)
  | bm (shed block : Nat) (inp : BmIn)
  | pond (shed site : Nat) (a b : PortIn)
  | fmb (shed block : Nat) (inp : FmbIn)
  | drive (shed slot : Nat) (d : Bool)
  | river (trib : Nat)
  | landing (shed slot : Nat)
  | pin (bank pin out : Nat) (oe : Bool) (inp : Nat) (slip : Bool)
  deriving DecidableEq, Repr

/-- The clock whose edge it is: a shed's spine clock (R78), one of the 32 device clocks (R71), or a yard's YPAGE (R425, R429). -/
inductive ClockId where
  | spine (shed k : Nat)
  | device (k : Nat)
  | ypage (y : Nat)
  deriving DecidableEq, Repr

/-- R56, R59, R83: what an upset flips: a configuration bit, a DRV_A (0) or DRV_B (1) select latch, or a live-plane latch. -/
inductive UpsetAt where
  | word (shed plane frame word bit : Nat)
  | select (trib tap ab : Nat)
  | livePlane (shed : Nat)
  deriving DecidableEq, Repr

end Sys2Proof.Machine
end

