-- ==== Sys2Proof/Machine/StMil.lean ====
section
/-! DEFINITION. The data of the Millrace: packets by header flit and data flits (R156–R158), endpoint interfaces with their queues, trackers,
and the mesh's channels (The Millrace network-on-chip). -/

namespace Sys2Proof.Machine

/-- Table MIL-3: the fields of the header flit. -/
def hDST : Fld := ⟨0, 10⟩
/-- Header field SRC. -/
def hSRC : Fld := ⟨10, 10⟩
/-- Header field STALL. -/
def hSTALL : Fld := ⟨20, 5⟩
/-- Header field KEY. -/
def hKEY : Fld := ⟨25, 7⟩
/-- Header field QOS. -/
def hQOS : Fld := ⟨32, 2⟩
/-- Header field ORD. -/
def hORD : Fld := ⟨34, 1⟩
/-- Header field DEV. -/
def hDEV : Fld := ⟨35, 1⟩
/-- Header field TYPE. -/
def hTYPE : Fld := ⟨36, 4⟩
/-- Header field LINES. -/
def hLINES : Fld := ⟨40, 3⟩
/-- Header field TAG. -/
def hTAG : Fld := ⟨48, 10⟩
/-- Header field ADDR. -/
def hADDR : Fld := ⟨64, 64⟩
/-- Header field BE. -/
def hBE : Fld := ⟨128, 64⟩
/-- Header field STATUS. -/
def hSTATUS : Fld := ⟨192, 4⟩
/-- Header field EXT. -/
def hEXT : Fld := ⟨256, 256⟩
/-- The reserved fields of the header. -/
def hReserved : List Fld := [⟨43, 5⟩, ⟨58, 6⟩, ⟨196, 60⟩]

/-- A header flit. -/
abbrev Header := BitVec 512

/-- A field of a header. -/
def hget (h : Header) (f : Fld) : Nat := f.get h.toNat

/-- The header with a field set. -/
def hset (h : Header) (f : Fld) (v : Nat) : Header := BitVec.ofNat 512 (f.set h.toNat v)

/-- Table MIL-4: TYPE codes. -/
def tRD : Nat := 0x0
/-- TYPE WR. -/
def tWR : Nat := 0x1
/-- TYPE MSG. -/
def tMSG : Nat := 0x2
/-- TYPE REG_RD. -/
def tREG_RD : Nat := 0x4
/-- TYPE REG_WR. -/
def tREG_WR : Nat := 0x5
/-- TYPE RD_RSP. -/
def tRD_RSP : Nat := 0x8
/-- TYPE WR_RSP. -/
def tWR_RSP : Nat := 0x9
/-- TYPE MSG_RSP. -/
def tMSG_RSP : Nat := 0xA
/-- TYPE REG_RSP. -/
def tREG_RSP : Nat := 0xC

/-- Table MIL-9: STATUS codes. -/
def stOK : Nat := 0
/-- STATUS POISONED. -/
def stPOISONED : Nat := 1
/-- STATUS UNREACHABLE. -/
def stUNREACHABLE : Nat := 2
/-- STATUS REFUSED_OWNER. -/
def stREFUSED_OWNER : Nat := 3
/-- STATUS BAD_DEST. -/
def stBAD_DEST : Nat := 4
/-- STATUS BAD_ADDR. -/
def stBAD_ADDR : Nat := 5
/-- STATUS TIMEOUT. -/
def stTIMEOUT : Nat := 6
/-- STATUS DROPPED. -/
def stDROPPED : Nat := 7
/-- STATUS TAG_BUSY. -/
def stTAG_BUSY : Nat := 8
/-- STATUS BAD_PKT. -/
def stBAD_PKT : Nat := 9

/-- The endpoint ID of Tolmor (R154). -/
def epTolmor : Nat := 0x194

/-- What a hardened requester does with the completion of a request: the lines of an engine's transfer, an access of a host link
(`tag` is the link's own), a lane bridge's message, a Skeja or Ethernet delivery's unit, Tolmor's own copy
engine, or nothing of its own (a tenant design's request). -/
inductive Origin where
  | tenant
  | engine (n desc line lines : Nat)
  | host (port tag : Nat)
  | lane (lane : Nat)
  | deliver (ep unit : Nat)
  | tolmor
  deriving DecidableEq, Repr

/-- Where a packet is: in an IN queue, at a router (entered by input port `inp`, Table RTR_ECC_LAST), or in an OUT queue. -/
inductive Place where
  | inQ
  | router (r inp : Nat)
  | outQ
  deriving DecidableEq, Repr

/-- One packet: its header flit, the data flits it has so far with their POISON bits, whether its tail has been offered (`eop`) and whether
that tail is a TRUNC tail, where it is, the flits its endpoint has taken from an OUT queue, whether its requester's tracker has accepted it,
the engine q that issues it (R160), and the downstream virtual channel it holds (router, direction, channel, vc). -/
structure Pkt where
  hdr : Header
  flits : List (BitVec 512 × Bool)
  eop : Bool
  trunc : Bool
  place : Place
  taken : Nat
  accepted : Bool
  origin : Origin
  eng : Option Nat
  holds : Option Nat
  deriving DecidableEq, Repr

/-- A packet table entry that is not in use. -/
def Pkt.none : Pkt := ⟨0, [], true, false, .inQ, 0, false, .tenant, Option.none, Option.none⟩

/-- One endpoint interface (R173–R182): the packets of its four queues, oldest first; the current packet of each side; the causes that mark
it unreachable (R189: bit 0 the die, bit 1 a bundle, bit 2 its own chapter); DRAIN, pending flushes, and whether flits still offered up to
TX_EOP are discarded (bit 0 REQ_IN, bit 1 RSP_IN). -/
structure Ep where
  reqIn : List Nat
  rspIn : List Nat
  reqOut : List Nat
  rspOut : List Nat
  curIn : Option Nat
  curOut : Option Nat
  unreach : Nat
  drain : Bool
  flushIn : Bool
  flushOut : Bool
  skipIn : Nat
  deriving DecidableEq, Repr

/-- An endpoint interface with empty queues. -/
def Ep.reset : Ep := ⟨[], [], [], [], none, none, 0, false, false, false, 0⟩

/-- One outstanding request of a tracker (R184): its header as injected, whether a swap fenced it (R248), and what awaits it. -/
structure Track where
  hdr : Header
  fenced : Bool
  origin : Origin
  deriving DecidableEq, Repr

/-- The state of one output channel of a router: the deficit counters D[0]–D[2] of R170 and, for each class, whether RSP sent last. -/
structure OutChan where
  d0 : Nat
  d1 : Nat
  d2 : Nat
  last : Nat
  rr : Nat
  deriving DecidableEq, Repr

/-- An output channel that has sent nothing. -/
def OutChan.reset : OutChan := ⟨0, 0, 0, 0, 0⟩

/-- The Millrace: packets by number (`next` is the next free number), endpoints by ID, trackers keyed 1024 × endpoint + TAG, and output
channels keyed 8 × router + 2 × direction + channel. -/
structure Mil where
  pkts : SMap Pkt
  next : Nat
  eps : SMap Ep
  track : SMap Track
  chans : SMap OutChan
  deriving DecidableEq, Repr

/-- An idle mesh. -/
def Mil.reset : Mil := ⟨[], 0, [], [], []⟩

/-- What reaches an ingress: the packet at the head of the IN queue of a network (0 REQ, 1 RSP), a header a tenant design offers with the
flits that follow it so far, or further flits of the packet it is offering; `eop` says that TX_EOP came with the last of them. -/
inductive IngressOp where
  | queued (vn : Nat)
  | header (hdr : Header) (flits : List (BitVec 512 × Bool)) (eop : Bool)
  | more (flits : List (BitVec 512 × Bool)) (eop : Bool)
  deriving DecidableEq, Repr

/-- What happens at an egress: a packet arrives from the mesh, or the endpoint takes `flits` flits of the packet presented under the
RX_READY bits `ready` (R175). -/
inductive EgressOp where
  | arrive (pkt : Nat)
  | present (ready flits : Nat)
  deriving DecidableEq, Repr

end Sys2Proof.Machine
end

