-- ==== Sys2Proof/Machine/StPorts.lean ====
section
/-! DEFINITION. The data of the port controllers beside their registers: PCIe functions and outstanding TLPs, units in assembly and in delivery,
and the Skeja transports (PCIe, CXL, Ethernet and Skeja ports). -/

namespace Sys2Proof.Machine

/-- One PCIe port: the PCIE_FN_ASSIGN word of each assigned function (R350), the PCIE_FN_LAYOUT word in effect of each PF (R349), and the
requests whose TLPs await a completion, by TLP tag (R347). -/
structure Pcie where
  assign : SMap Nat
  layout : SMap Nat
  tlps : SMap Header
  deriving DecidableEq, Repr

/-- A port with no function but PF0 and nothing outstanding. -/
def Pcie.reset : Pcie := ⟨[], [], []⟩

/-- R362: a unit that a MAC or transport is receiving from a requester: its station or channel, LEN, the bytes so far, and whether it is
refused (R363, R369). -/
structure Part where
  key : Nat
  len : Nat
  bytes : List Nat
  refused : Bool
  deriving DecidableEq, Repr

/-- R364, R369: a unit in delivery: its number, the port that delivers it, its station or channel, DEST, the bytes, how many have been sent, and
the MSGs outstanding. -/
structure DUnit where
  id : Nat
  ep : Nat
  key : Nat
  dest : Nat
  bytes : List Nat
  off : Nat
  out : Nat
  deriving DecidableEq, Repr

/-- Table PRT-5: a Skeja frame: its header fields and its payload in the clear; a CONTROL frame's payload returns credits as (channel, frames)
(R369). -/
structure SkFrame where
  type : Nat
  cls : Nat
  epoch0 : Nat
  kgen : Nat
  chan : Nat
  frag : Nat
  last : Bool
  seq : Nat
  ack : Nat
  payload : List Nat
  credits : List (Nat × Nat)
  deriving DecidableEq, Repr

/-- A message waiting to be sent, or partly sent: its number, path, class, the remote channel, its bytes and how many have been sent. -/
structure SkMsg where
  id : Nat
  path : Nat
  cls : Nat
  chan : Nat
  bytes : List Nat
  off : Nat
  deriving DecidableEq, Repr

/-- One path of a transport (R366–R373): whether the handshake runs, the next SEQ, the retry buffer (message number and frame, oldest first), the
next SEQ expected, whether the present gap has been answered with a NAK, the consecutive tag failures, the data key's and the management key's
epoch and frame counter, and the received bytes of the message in progress of each channel. -/
structure SkPath where
  handshake : Bool
  seq : Nat
  retry : List (Nat × SkFrame)
  rxNext : Nat
  nakSent : Bool
  fails : Nat
  dataEpoch : Nat
  dataCtr : Nat
  mgmtEpoch : Nat
  mgmtCtr : Nat
  rx : SMap (List Nat)
  deriving DecidableEq, Repr

/-- A path that is down. -/
def SkPath.reset : SkPath := ⟨false, 0, [], 0, false, 0, 0, 0, 0, 0, []⟩

/-- One transport: its two paths, the messages to send, the frames sent and not yet credited by path × 64 + remote channel, the key
generations it sends and receives under, the slot of a binding that waits for the peer, the slot of the binding before, the shares of classes
1–3 left (R369), and the next message number. -/
structure Skj where
  native : SkPath
  udp : SkPath
  tx : List SkMsg
  used : SMap Nat
  kgenTx : Nat
  kgenRx : Nat
  newSlot : Option Nat
  oldSlot : Option Nat
  share : List Nat
  nextMsg : Nat
  deriving DecidableEq, Repr

/-- A transport with no path and no binding. -/
def Skj.reset : Skj := ⟨SkPath.reset, SkPath.reset, [], [], 0, 0, none, none, [0, 0, 0], 0⟩

/-- The ports: the PCIe ports, units in assembly keyed 1024 × endpoint + SRC, units in delivery in order with the next number, the frames that
wait in each MAC's transmit buffer while its link is down, and the Skeja transports. -/
structure Ports where
  pcie : SMap Pcie
  parts : SMap (Option Part)
  units : List DUnit
  nextUnit : Nat
  ethTx : SMap (List (List Nat))
  skj : SMap Skj
  deriving DecidableEq, Repr

/-- Ports with nothing in them. -/
def Ports.reset : Ports := ⟨[], [], [], 0, [], []⟩

/-- What a completion brings for a TLP of a PCIe or CXL port (R347): lines with their poison, an Unsupported Request or Completer Abort, or
nothing in time. -/
inductive TlpEnd where
  | ok (lines : List (BitVec 512 × Bool))
  | unsupported
  | timeout
  deriving DecidableEq, Repr

/-- What a PCIe port knows of a request's function and link that no register of the part holds (R347, R355, R357): the function has Bus Master
Enable set and is not in function-level reset, the translation succeeds, and IDE on the link is in the insecure state. (DESIGN CHOICE, assumptions 138, 145) -/
structure PcieEnv where
  ready : Bool
  translated : Bool
  insecure : Bool
  deriving DecidableEq, Repr

/-- A host's, or a downstream device's, access: its own tag, the byte address, whether it writes, the byte enables within the line, and the
line's data. -/
structure HostAcc where
  tag : Nat
  addr : Nat
  write : Bool
  be : Nat
  data : BitVec 512
  deriving DecidableEq, Repr

/-- What links train to: a PCIe port's GEN, WIDTH, CXL, FLIT, IDE and PTM; an Ethernet link with or without auto-negotiation; or a native Skeja
link. -/
inductive LinkEvent where
  | pcie (n gen width : Nat) (cxl flit ide ptm : Bool)
  | eth (k : Nat) (an : Bool)
  | skeja (k : Nat)
  deriving DecidableEq, Repr

/-- A link that goes down. -/
inductive LinkName where
  | pcie (n : Nat)
  | eth (k : Nat)
  | skeja (k : Nat)
  deriving DecidableEq, Repr

/-- R416: what resets a port: PERST#, a hot reset on the link, or a function-level reset of function f. -/
inductive PortReset where
  | perst
  | hot
  | flr (f : Nat)
  deriving DecidableEq, Repr

end Sys2Proof.Machine
end

