-- ==== Sys2Proof/Machine/StStall.lean ====
section
/-! DEFINITION. The data of stalls: manifests and claim lists, Butar images as Tolmor reads them, loaded images, and the progress of a swap
(Stalls, sheds and configuration planes). -/

namespace Sys2Proof.Machine

/-- Table STL-6: one entry of a manifest or claim list. -/
inductive ManEntry where
  | shed (i : Nat)
  | engine (n startPc : Nat) (autostart compat : Bool) (qosDef qosMax : Nat)
  | fabricPort (e conn qosDef qosMax : Nat)
  | region (port size : Nat) (sect tag : Bool)
  | lane (i : Nat)
  | pin (i : Nat)
  | reach (e : Nat)
  deriving DecidableEq, Repr

/-- R241: a record of a MEM_FRAMES section: kind (0 BM36, 1 Pond), block, first physical word, the 72-bit words. -/
structure MemRec where
  kind : Nat
  block : Nat
  word : Nat
  words : List Nat
  deriving DecidableEq, Repr

/-- R240, Table STL-5: a section after decryption. A FRAMES section carries the configuration its frames spell, the frame indexes its
records name, and whether its records have the stated form; `other` is a section of a TYPE the table does not list. -/
inductive Section where
  | frames (target : Nat) (cfg : ShedCfg) (indexes : List Nat) (formed : Bool)
  | memFrames (target : Nat) (recs : List MemRec) (formed : Bool)
  | eddyProg (n : Nat) (bundles : List (BitVec 128)) (formed : Bool)
  | eddyData (n : Nat) (bytes : List Nat)
  | other (type target : Nat)
  deriving DecidableEq, Repr

/-- R238, R239: a Butar image as Tolmor's copy finds it: the bytes of its plaintext header, the number of bytes copied, whether the
signature verifies under the SIGNER key, whether the GCM tag verifies, and the manifest bytes and sections that decryption gives. (DESIGN CHOICE, assumption 87) -/
structure ButarIn where
  header : List Nat
  copied : Nat
  sigOk : Bool
  gcmOk : Bool
  manifest : List Nat
  sections : List Section
  deriving DecidableEq, Repr

/-- A loaded image (R243): its TENANT, the hash of its signer's key, data key slot, manifest entries, the regions created for it as (port, region), and the fill of its
MEM_FRAMES (shed, record) and EDDY_DATA (engine, bytes) sections. -/
structure Image where
  tenant : Nat
  signer : Nat
  slot : Nat
  entries : List ManEntry
  regions : List (Nat × Nat)
  memFill : List (Nat × MemRec)
  dataFill : List (Nat × List Nat)
  deriving DecidableEq, Repr

/-- The steps of a running swap (Table STL-8) as they are completed, with what the swap is: whether it is fresh, whether it parks the stall, the
strobe's Tide value, the cause the stall was FAULTED with, the cause recorded since the strobe with its shed (384: none). `group` marks
a start bundle's swap (R257). -/
structure SwapRun where
  fresh : Bool
  park : Bool
  at_ : Nat
  was : Nat
  exchanged : Bool
  zeroed : Bool
  quiet : Bool
  cause : Nat
  shed : Nat
  group : Bool
  deriving DecidableEq, Repr

/-- A load in progress (R243): the image being written, its sections, and whether every manifest entry and section is well formed (check 8). -/
structure LoadRun where
  image : Image
  sections : List Section
  formed : Bool
  deriving DecidableEq, Repr

/-- One stall beside its page registers: the view whose mailbox controls it (0–3 host, 4 manager, 5 JTAG), its live and background images,
an armed swap (the alarm, FRESH), a running swap or fill, a load in progress, whether the stall was created by a start bundle, and the
resources it claims that have no table of their own: fabric ports, lanes, pins, REACH endpoints, and the quota of each port in 2 MiB units; and
the settings of its pins that Tolmor keeps with the background image, as (pin, PIN_CFG, GPIO_OUT bit, GPIO_OE bit) (R432). -/
structure Stall where
  control : Option Nat
  live : Option Image
  bg : Option Image
  armed : Option (Nat × Bool)
  swap : Option SwapRun
  load : Option LoadRun
  ports : List Nat
  lanes : List Nat
  pins : List Nat
  reach : List Nat
  quota : List (Nat × Nat)
  bgPins : List (Nat × Nat × Bool × Bool)
  deriving DecidableEq, Repr

/-- A FREE stall. -/
def Stall.free : Stall := ⟨none, none, none, none, none, none, [], [], [], [], [], []⟩

end Sys2Proof.Machine
end

