-- ==== Sys2Proof/Machine/StTide.lean ====
section
/-! DEFINITION. The data of the Tide unit, its alarms, the management tree and FANOUT (Tide, the cluster and the Tally). -/

namespace Sys2Proof.Machine

/-- R490: the previous applied sample: its source, the counter's REFCLK pair, its offset, the part of the offset that slewing has removed
since (in 10^-9 ns) and the counter ticks since. -/
structure TideSample where
  source : Nat
  pair : Nat
  o : Int
  removed : Int
  ticks : Nat
  deriving DecidableEq, Repr

/-- The Tide unit beside its registers (R288–R293, R490): the counter in ns, its value before the last counter tick and its fraction in
10^-9 ns, whether its REFCLK pair is lost, the offset still to be slewed away in 10^-9 ns, the samples counted toward LOCKED, the previous applied sample, the counter ticks since start,
the period of each stall alarm (4n + j) that SET_ALARM gave, the stall-alarm signals of each stall (R299), the t1, t2 and t3 of the
worker's exchange in progress (R305), and the ROOT_STATE that the parent last reported. -/
structure Tide where
  now : Nat
  last : Nat
  frac : Nat
  pairLost : Bool
  slew : Int
  locks : Nat
  prev : Option TideSample
  ticks : Nat
  periods : SMap Nat
  signals : SMap Nat
  t1 : Option Nat
  t2 : Option Nat
  t3 : Option Nat
  parentRoot : Option Nat
  deriving DecidableEq, Repr

/-- Tide in NONE, stopped at 0. -/
def Tide.reset : Tide := ⟨0, 0, 0, false, 0, 0, none, 0, [], [], none, none, none, none⟩

/-- Table TID-5: the contents of a management message. The identifier of a CMD, CPL or RETURN is 4096 × the FANOUT's number + the entry index; a
CMD also carries the buffer and the number of bytes its FANOUT asks back, where it does. (DESIGN CHOICE, assumption 124) -/
inductive Mgmt where
  | hello (node level rootState : Nat)
  | join (serial : Nat) (path : List Nat)
  | joinAck (path : List Nat) (node : Option Nat)
  | sync (t1 : Nat)
  | delayReq
  | delayRsp (t4 : Nat)
  | cmd (fan node scope : Nat) (words : List Nat) (ret : Option (Nat × Nat))
  | cpl (fan node serial : Nat) (w0 w1 data : Nat)
  | stage (fan buffer offset : Nat) (data : List Nat) (targets : List Nat)
  | ret (fan node offset : Nat) (data : List Nat)
  deriving DecidableEq, Repr

/-- R310: one target of one entry of a FANOUT in progress: its NODE_ID, entry index, whether a path to it existed, the SERIAL and final
completion it returned, and the bytes returned. -/
structure FanTarget where
  node : Nat
  entry : Nat
  reached : Bool
  serial : Nat
  cpl : Option (Nat × Nat × Nat)
  back : List Nat
  deriving DecidableEq, Repr

/-- R307: a FANOUT in progress: its identifier, its ticket, RETURN_BUF and RETURN_MAX where it asks them, RESULT_LOC, and its targets. -/
structure Fan where
  id : Nat
  box : Nat
  ticket : Nat
  ret : Option (Nat × Nat)
  result : List Nat
  targets : List FanTarget
  deriving DecidableEq, Repr

/-- The tree beside its registers: on the manager, the joined workers' NODE_IDs with their SERIALs; the FANOUTs in
progress and the next identifier; on a worker, the FANOUT identifier of the command in MBOX_MGR's buffer with what it asks back, the slot on
which its JOIN went up, and the FANOUT whose staged data it could not hold (R309). -/
structure Tree where
  workers : SMap Nat
  fans : List Fan
  nextFan : Nat
  mgrCmd : Option (Nat × Option (Nat × Nat))
  joining : Option Nat
  badStage : Option Nat
  deriving DecidableEq, Repr

/-- A tree with nobody joined. -/
def Tree.reset : Tree := ⟨[], [], 0, none, none, none⟩

end Sys2Proof.Machine
end

