-- ==== Sys2Proof/Machine/StTol.lean ====
section
/-! DEFINITION. The data of Tolmor: mailboxes, completions, deferred jobs, OTP, sessions, tests and the event log (The Tolmor controller). -/

namespace Sys2Proof.Machine

/-- Table TMC-7: a location descriptor. -/
structure Loc where
  kind : Nat
  rgn : Nat
  port : Nat
  len : Nat
  addr : Nat
  deriving DecidableEq, Repr

/-- R274: what the copy engine finds at a location it reads. -/
inductive LocIn where
  | bytes (l : List Nat)
  | poisoned
  | failed
  deriving DecidableEq, Repr

/-- R278: what Tolmor's SPDM responder answers: the response's bytes, and the session it opens or closes. -/
structure SpdmEnd where
  response : List Nat
  opens : Option Nat
  closes : Option Nat
  deriving DecidableEq, Repr

/-- What Tolmor's engines find while it takes a command: the contents of the locations that lie outside the device (the request's, and the staged
data of a FANOUT), a Butar image, whether a signature verifies, the SHA-384 of the public key in a token or payload, the keys that RFC 3394 unwraps (none:
the integrity check fails), the SPDM response, and the bytes of the signature that Tolmor makes. (DESIGN CHOICE, assumption 87) -/
structure CmdEnv where
  loc : LocIn
  loc2 : LocIn
  image : ButarIn
  sigOk : Bool
  keyHash : Nat
  keys : Option (BitVec 256 × BitVec 256 × BitVec 256)
  spdm : SpdmEnd
  sig : List Nat
  deriving DecidableEq, Repr

/-- Table TMC-5: a completion entry. -/
structure Cpl where
  w0 : Nat
  w1 : Nat
  data : Nat
  deriving DecidableEq, Repr

/-- What a deferred command still waits for: bytes to be written to a location; a slot to be EMPTY; a region to be READY, or to be finished
under its new key; an image to be loaded; a swap to end; a stall to be destroyed; a claim list or lane table that waits for a running test;
the regions of a stall to be re-encrypted (R277); a port's change of role; FANOUT; a test or calibration (queued or running). -/
inductive JobKind where
  | plain
  | write (loc : Loc) (bytes : List Nat) (data : Nat)
  | retireKey (slot : Nat)
  | createRegion (port i : Nat)
  | rekeyRegion (port i : Nat)
  | loadImage (stall : Nat)
  | swapStall (stall : Nat)
  | destroyStall (stall : Nat)
  | createStall (stall : Nat) (list : List Nat)
  | rekeyStall (stall slot : Nat)
  | laneMap (table : List Nat)
  | portRole (port role : Nat)
  | fanout (id : Nat)
  | test (kind index limit : Nat) (running : Bool)
  deriving DecidableEq, Repr

/-- R269: a deferred command: its mailbox, SEQ, opcode and ticket, whether its mailbox has been emptied since (R272, R303), what it waits for,
its CODE and DATA once they are decided, and the FANOUT that carried it. -/
structure Job where
  box : Nat
  seq : Nat
  op : Nat
  ticket : Nat
  orphan : Bool
  kind : JobKind
  result : Option (Nat × Nat)
  fan : Option (Nat × Option (Nat × Nat))
  deriving DecidableEq, Repr

/-- A mailbox beside its registers: its completions in order, those beyond the sixteenth kept in SRAM (R271), and the last ticket given. -/
structure MBox where
  cpls : List Cpl
  lastTicket : Nat
  deriving DecidableEq, Repr

/-- A mailbox that has seen no command. -/
def MBox.reset : MBox := ⟨[], 0⟩

/-- Table TMC-2: an OTP signer entry. -/
structure Signer where
  hash : Nat
  valid : Bool
  revoked : Bool
  deriving DecidableEq, Repr

/-- An unprogrammed signer entry. -/
def Signer.blank : Signer := ⟨0, false, false⟩

/-- Table TMC-2: the OTP fields that the device's use programs or reads; the repair entries are in `repair`. -/
structure Otp where
  ownerRoot : Nat
  adminPort : Nat
  signers : SMap Signer
  deriving DecidableEq, Repr

/-- An OTP in which nothing beyond SERIAL and DEVICE_SEED is programmed. (DESIGN CHOICE, assumption 111) -/
def Otp.blank : Otp := ⟨0, 0, []⟩

/-- Table TMC-10: an event log entry. -/
structure LogEntry where
  tide : Nat
  seq : Nat
  source : Nat
  code : Nat
  index : Nat
  detail : Nat
  deriving DecidableEq, Repr

/-- Tolmor beside its registers: the six mailboxes (0–3 host, 4 manager, 5 JTAG), the mailbox served last (R270), the jobs, oldest first, the
controlling mailbox of each key slot (class K), the open SPDM sessions as (session, mailbox), the staging buffers (R309), the event log,
oldest first, and the records of event registers not yet copied into it, keyed 65536 × SOURCE + INDEX (R286). -/
structure Tol where
  boxes : SMap MBox
  served : Nat
  jobs : List Job
  keyBox : SMap (Option Nat)
  sessions : List (Nat × Nat)
  staged : SMap (List Nat)
  log : List LogEntry
  unlogged : SMap Nat
  outCore : Option Nat
  deriving DecidableEq, Repr

/-- Tolmor after reset. (DESIGN CHOICE, assumption 187) -/
def Tol.reset : Tol := ⟨[], 5, [], [], [], [], [], [], none⟩

end Sys2Proof.Machine
end

