-- ==== Sys2Proof/Machine/StOut.lean ====
section
/-! DEFINITION. Who asks for a register access (R164, R468), and what the block shows to the outside. -/

namespace Sys2Proof.Machine

/-- R164, R468: the requester of a register access: Tolmor itself (VIEW DEVICE), the HOST view of port n, the manager view, the JTAG view,
STALL_n through the stall window, and a debug access whose subject is DEVICE or STALL_n. -/
inductive Req where
  | tolmor
  | host (n : Nat)
  | mgr
  | jtag
  | stall (n : Nat)
  | dbgDevice
  | dbgStall (n : Nat)
  deriving DecidableEq, Repr

/-- How an access of a host, or of a device below a root port, completes: success, with poison, or Unsupported Request. -/
inductive HostEnd where
  | ok
  | poisoned
  | unsupported
  deriving DecidableEq, Repr

/-- What the block shows to the outside, in the order it happens. -/
inductive Out where
  | regData (req : Req) (addr val : Nat)
  | regUnreachable (req : Req) (addr : Nat)
  | streamWord (engine : Nat) (word : BitVec 256)
  | laneLine (lane : Nat) (line : BitVec 512)
  | mgmt (slot : Nat) (m : Mgmt)
  | locWrite (box : Nat) (loc : Loc) (bytes : List Nat)
  | localFlits (ep : Nat) (hdr : Header) (flits : List (BitVec 512 × Bool)) (abort : Bool)
  | tlp (port tag : Nat) (hdr : Header) (lines : List (BitVec 512 × Bool))
  | pageRequest (port func addr : Nat)
  | hostCpl (port tag : Nat) (status : HostEnd) (lines : List (BitVec 512 × Bool))
  | ptm (port tide : Nat)
  | msix (port : Nat)
  | ethFrame (k : Nat) (bytes : List Nat)
  | skeja (k path slot epoch ctr : Nat) (f : SkFrame)
  | skejaCheck (k slot : Nat)
  deriving DecidableEq, Repr

end Sys2Proof.Machine
end

