-- ==== Sys2Proof/Machine/StClock.lean ====
section
/-! DEFINITION. The data of the clocks beside their registers (Clocks, resets and power states). -/

namespace Sys2Proof.Machine

/-- The clocks: the levels of CLKSEL[k] of a shed, the spines of a shed whose switch was forced (R408), the levels of DRST[k] of a shed (R409),
the PLL outputs that do not run (32 bits a yard, 8 for the device clocks), the locked grid PLLs, the FMEAS_CTL value of the running count,
whether no clock runs because no pair remains for FIXREF (R414) or VCC_AUX or VCC_RB is out of range (R479), the banks whose VCCIO is out of
range (R479), and whether a junction has reached 100 °C (THERM_ALERT_N) or 110 °C (THERM_TRIP_N) (R486). -/
structure Clk where
  clksel : SMap Nat
  forced : SMap Nat
  drst : SMap Nat
  stopped : SMap Nat
  gridLock : Nat
  fmeas : Nat
  dark : Bool
  ioLost : Nat
  alert : Bool
  trip : Bool
  deriving DecidableEq, Repr

/-- The clocks after reset: no PLL is enabled. -/
def Clk.reset : Clk := ⟨[], [], [], [], 0, 0, false, 0, false, false⟩

/-- R411, R412: the clock that a detector flags: an output of a yard's PLLs, a device clock, a yard or grid PLL that lost lock, a fixed domain
in the order of Table CLK-2, or a yard's copy of FIXREF. -/
inductive ClockLost where
  | out (y o : Nat)
  | dclk (k : Nat)
  | pll (y i : Nat)
  | gpll (i : Nat)
  | fixed (d : Nat)
  | yardRef (y : Nat)
  deriving DecidableEq, Repr

/-- Table ELE-4: the rails, by what their loss does. -/
inductive Rail where
  | core
  | yard (y : Nat)
  | ford (f : Nat)
  | hbm (k : Nat)
  | io (b : Nat)
  deriving DecidableEq, Repr

end Sys2Proof.Machine
end

