-- ==== Sys2Proof/Machine/StD2D.lean ====
section
/-! DEFINITION. The data of the weir bundles, the repair log and the boundary-scan chain beside their registers (Weirs and die-to-die links). -/

namespace Sys2Proof.Machine

/-- Table WEI-3: a repair log entry; `sram` says that it is held in Riverbed SRAM alone. -/
structure RepairEntry where
  kind : Nat
  origin : Nat
  index : Nat
  lane : Nat
  tide : Nat
  sram : Bool
  deriving DecidableEq, Repr

/-- R375–R385: one bundle, or one half of an engine group's, beside its registers: whether it runs NARROW; the sequence number its receiver expects
next; the MIL flits (data, SB) that its transmitter holds, oldest first, of which the next to be sent is at place `send`; how often the oldest has
failed in succession; SNAP of the next TRIB flit; the logical lane being shadowed; whether a lane check runs; and the lane checks in NARROW that
found no failed lane in succession. -/
structure Weir where
  narrow : Bool
  rxNext : Nat
  retry : List (Nat × Nat)
  send : Nat
  failRun : Nat
  snap : Nat
  shadow : Option Nat
  checking : Bool
  emptyChecks : Nat
  deriving DecidableEq, Repr

/-- A bundle that has carried nothing. -/
def Weir.reset : Weir := ⟨false, 0, [], 0, 0, 0, none, false, 0⟩

/-- The TAP instructions of Table WEI-7. -/
inductive TapIr where
  | idcode
  | sample
  | extest
  | extestPulse
  | extestTrain
  | highz
  | clamp
  | mbox
  | bypass
  deriving DecidableEq, Repr

/-- One TAP: its instruction, its boundary register, and whether R397 turned its last instruction into BYPASS. -/
structure Tap where
  ir : TapIr
  bsr : Nat
  refused : Bool
  deriving DecidableEq, Repr

/-- A TAP in Test-Logic-Reset: IDCODE is selected. -/
def Tap.reset : Tap := ⟨.idcode, 0, false⟩

/-- R457: the JTAG mailbox: STATUS of the last access and the data of the last completed read. -/
structure JtagBox where
  status : Nat
  data : Nat
  deriving DecidableEq, Repr

/-- R381, R390: what training and discovery find: the lanes of bundles that show an error, as (256y + b, lane); the forwarded clocks that are
absent, as (256y + b, bits of C0 and C1); the modules that fail, as 6f + m; and the GT/s of the others. -/
structure TrainEnv where
  lanes : List (Nat × Nat)
  clocks : List (Nat × Nat)
  modules : List Nat
  rate : Nat
  deriving DecidableEq, Repr

/-- The die-to-die side: bundles keyed 2 × (256y + b) + half, where half 1 is the Riverbed-to-yard half of an engine group's, the repair log, oldest first, the entries that Tolmor has still to fuse (R386), TAPs in chain order (0 the Riverbed, 1 + y a yard, 9 + f a ford), and the
JTAG mailbox. -/
structure D2D where
  weirs : SMap Weir
  repair : List RepairEntry
  unfused : List RepairEntry
  taps : SMap Tap
  jtag : JtagBox
  deriving DecidableEq, Repr

/-- No bundle has carried anything, and no repair is recorded. -/
def D2D.reset : D2D := ⟨[], [], [], [], ⟨0, 0⟩⟩

end Sys2Proof.Machine
end

