-- ==== Sys2Proof/Machine/StStart.lean ====
section
/-! DEFINITION. What the start sequence finds (R417, Table CLK-6). -/

namespace Sys2Proof.Machine

/-- What the device finds at a start: the levels of MGPIO_0–63 (Table PIN-4), the reference pairs that are present, the dies that answer
identification, as (die, SUPPLIER, DIE_REV), the fords that meet the first two conditions of R390, what training finds (R381, R390), the HBM
ports of which a pseudo-channel fails training (R194), the lanes whose calibration fails (R331), and the images of the start bundle that it reads
(R257). -/
structure StartEnv where
  pads : Nat
  pairs : Nat
  dies : List (Nat × Nat × Nat)
  fords : List Nat
  train : TrainEnv
  badPorts : List Nat
  badLanes : List Nat
  bundle : List ButarIn
  deriving DecidableEq, Repr

end Sys2Proof.Machine
end

