-- ==== Sys2Proof/Machine/StTally.lean ====
section
/-! DEFINITION. The data of the Tally: leaves, open intervals, nodes and closed records (Tide, the cluster and the Tally). -/

namespace Sys2Proof.Machine

/-- R311: one 48-bit leaf, its two copies, and the value it had at the last checkpoint (R314). -/
structure Leaf where
  a : Nat
  b : Nat
  ckpt : Nat
  deriving DecidableEq, Repr

/-- A leaf that has counted nothing. -/
def Leaf.zero : Leaf := ⟨0, 0, 0⟩

/-- R312: the open interval of a stall: its number since the stall was created, its TENANT, the Tide and the counter tick at which the
span in the present epoch begins, whether it began in an earlier epoch, and the FLAGS and BOUND gathered so far. -/
structure Interval where
  number : Nat
  tenant : Nat
  start : Nat
  tick : Nat
  carried : Bool
  flags : Nat
  bound : List Nat
  deriving DecidableEq, Repr

/-- Table TID-9: a closed meter record. -/
structure MeterRec where
  stall : Nat
  flags : Nat
  interval : Nat
  epoch : Nat
  tenant : Nat
  start : Nat
  stop : Nat
  counts : List Nat
  bound : List Nat
  sheds : Nat
  engines : Nat
  ticks : Nat
  deriving DecidableEq, Repr

/-- The Tally: leaves keyed (4096 × KIND + unit) × 32 + stall, the open interval of each stall that exists, the nodes (yards 0–7, Riverbed 8)
and roots (9) keyed (8 × node + KIND) × 32 + stall, the epochs closed and held, oldest
first, the records, oldest first, the epoch now open, and the counter tick of the last checkpoint (R314). -/
structure Tally where
  leaves : SMap Leaf
  opened : SMap Interval
  nodes : SMap Nat
  records : List MeterRec
  closed : List Nat
  epoch : Nat
  ckptAt : Nat
  deriving DecidableEq, Repr

/-- A Tally that has counted nothing. -/
def Tally.reset : Tally := ⟨[], [], [], [], [], 0, 0⟩

/-- The key of a leaf. -/
def leafKey (kind unit stall : Nat) : Nat := (4096 * kind + unit) * 32 + stall

/-- A leaf `n` up, in both copies. -/
def Leaf.up (n : Nat) (l : Leaf) : Leaf := { l with a := (l.a + n) % 2 ^ 48, b := (l.b + n) % 2 ^ 48 }

/-- A leaf of the Tally counts `n`. -/
def Tally.count (t : Tally) (kind unit stall n : Nat) : Tally :=
  let k := leafKey kind unit stall
  { t with leaves := smSet Leaf.zero t.leaves k ((smGet Leaf.zero t.leaves k).up n) }

/-- R315: what the Tally finds at a leaf (KIND, unit, stall): copy A or B or both fail parity, or copy B reads `v` with good parity. -/
inductive LeafFault where
  | copyA (kind unit stall : Nat)
  | copyB (kind unit stall : Nat)
  | both (kind unit stall : Nat)
  | bReads (kind unit stall v : Nat)
  deriving DecidableEq, Repr

end Sys2Proof.Machine
end

