-- ==== Sys2Proof/Syntax.lean ====
section
/-! DEFINITION. The commands of the block: one constructor for each row of the command table, with the row's operands. -/

namespace Sys2Proof

open Machine

/-- A command. What an operand means is said where its meaning is defined (`Machine/Cmd*.lean`). -/
inductive Instr where
  /-- R7: A write to a register field that has no row of its own updates it according to its access type, owner and lock rules. -/
  | regWrite (req : Req) (addr size value : Nat)
  /-- R8: A non-debug read of a register with RC fields returns them and then clears every RC field of that register. -/
  | rcRead (req : Req) (addr size : Nat)
  /-- R5: An 8-bit or 16-bit access reads the addressed bytes, or is ignored as a write and increments ERR_COUNT. -/
  | narrowAccess (req : Req) (addr : Nat) (half : Bool) (write : Option Nat)
  /-- R6: A read of the low word of a 64-bit register captures the whole register for the next high-word read from the same view. -/
  | reg64LowRead (req : Req) (addr : Nat)
  /-- R6: A write of the low word of a 64-bit RW register is held in a staging word. -/
  | reg64LowWrite (req : Req) (addr value : Nat)
  /-- R6: A write of the high word commits it with the staged or current low word at one instant. -/
  | reg64HighWrite (req : Req) (addr value : Nat)
  /-- R465: PAGE_CTRL.SOFT_RST returns IRQ_RAW, IRQ_EN, ERR_FIRST and ERR_COUNT to their reset values. -/
  | softRst (req : Req) (page : Nat) (enable : Bool)
  /-- R460: A write of 1 to an IRQ_FORCE bit sets the matching IRQ_RAW bit. -/
  | irqForce (req : Req) (page bits : Nat)
  /-- R466: A write of 1 to LOCK.LOCKED makes the page refuse body writes from anyone but Tolmor. -/
  | lockPage (req : Req) (page : Nat)
  /-- R461: A W1C of ERR_FIRST.VALID clears the recorded fields so that the next refused access is recorded. -/
  | errFirstClear (req : Req) (page : Nat)
  /-- R470: Tolmor re-bases a stall-window access for the packet's stall, then serves it, reads 0, refuses it or completes it UNREACHABLE.
  -/
  | stallWindow (stall addr size : Nat) (write : Option Nat) (upset : Nat)
  /-- R472: A routed page summary that rises has its page index pushed into each routed view's aggregation queue, or is lost and sets OVF.
  -/
  | summaryPush
  /-- R473: MSI-X vector 0 of PF0 is sent when the aggregation queue leaves empty, OVF sets, or EN or the link comes up with entries held.
  -/
  | msixSend (view : Nat)
  /-- R472: A write of 1 to AGG_POP removes the head entry of the aggregation queue. -/
  | aggPop (req : Req) (view : Nat)
  /-- R417: A DEVICE reset resets every die and page and runs the start sequence up to mailbox acceptance. -/
  | deviceReset (env : StartEnv)
  /-- R476: Every rail reaching range declares power-good and causes the POWER reset, which senses OTP and reloads repair fuses. -/
  | powerGood (env : StartEnv)
  /-- R416: SYS_RST_N held low for at least 1 µs causes a DEVICE reset, and its rise starts the start sequence and samples the straps. -/
  | sysRst (env : StartEnv)
  /-- R55: Every 64 ns the yard scrubber reads one frame, checks each word and writes back a corrected single-bit error. -/
  | scrubVisit (yard : Nat)
  /-- R56: GAP_MS after a pass ends, the scrubber begins its next pass. -/
  | scrubStart (yard : Nat)
  /-- R43: FRST asserts asynchronously in both domains of a BM36 FIFO and empties it, clearing OVERRUN and UNDERRUN. -/
  | fifoReset (shed block : Nat)
  /-- R83: The Riverbed blocks extra effective driver bits of a tributary, records the contention and faults the involved sheds. -/
  | tribContention (trib : Nat)
  /-- R130: A write of 1 to EDDY_RUN.START in a stopped state is accepted, or is ignored and counted. -/
  | start (req : Req) (n : Nat)
  /-- R130: Once no transfer is outstanding, an accepted START clears the engine state, applies EDDY_CFG and enters RUNNING at
  EDDY_START_PC. -/
  | startExecute (n : Nat)
  /-- R131: A write of 1 to EDDY_RUN.STOP while RUNNING requests an end of issue at the next bundle boundary. -/
  | stop (req : Req) (n : Nat)
  /-- R131: At the first allowed bundle boundary the engine ends issue, enters STOPPED and sets IRQ_RAW[2]. -/
  | stopEffect (n : Nat)
  /-- R132: A write of 1 to EDDY_RUN.RESUME in STOPPED or DONE continues issue with state unchanged and reloads the watchdog. -/
  | resume (req : Req) (n : Nat)
  /-- R139: A write of 1 to EDDY_RUN.KICK reloads the watchdog of a RUNNING engine. -/
  | kick (req : Req) (n : Nat)
  /-- R126: A write to EDDY_CFG is stored for the next start if the engine is stopped, and otherwise ignored and counted. -/
  | eddyCfgWrite (req : Req) (n value : Nat)
  /-- R99: An engine issues one bundle whose slot instructions read their operands before issue and act together. -/
  | bundleIssue (n : Nat) (env : IssueEnv)
  /-- R119: When no other engine holds the memory, LOCK is granted in round-robin order and the hold count begins. -/
  | lockGrant (mem : Nat)
  /-- R122: When the hold count reaches LOCK_LIMIT before UNLOCK, the bundle due then raises LOCK_TIMEOUT. -/
  | lockTimeout (n : Nat) (env : IssueEnv)
  /-- R140: When WDOG_CNT reaches 0, the bundle due raises WATCHDOG unless its issue reloads the count. -/
  | watchdog (n : Nat) (env : IssueEnv)
  /-- R136: A write to EDDY_MEM_DATA writes a data-memory word or a program staging word, committing a bundle on word 3, and may advance
  WORD. -/
  | memDataWrite (req : Req) (n value upset : Nat)
  /-- R137: A read of EDDY_MEM_DATA returns the corrected word and sets MEM_ERR on a double-bit error. -/
  | memDataRead (req : Req) (n upset : Nat)
  /-- R144: STREAM_CTL.FLUSH_IN empties the input queue, the stimulus queue and the staging word, aborting a STREAM_IN transfer. -/
  | streamFlushIn (req : Req) (n : Nat)
  /-- R144: STREAM_CTL.FLUSH_OUT empties the output and capture queues, aborting a STREAM_OUT transfer. -/
  | streamFlushOut (req : Req) (n : Nat)
  /-- R148: A write of 1 to CAP_POP removes the head capture word. -/
  | capPop (req : Req) (n : Nat)
  /-- R146: A write changing IN_SRC or OUT_DST is accepted in OFF or stopped states and discards no word, else ignored and counted. -/
  | streamSource (req : Req) (n value : Nat)
  /-- R147: A write to STIM_IN_k fills the staging word, and a write to STIM_IN_7 commits it to the stimulus queue when there is room. -/
  | stimIn (req : Req) (n k value : Nat)
  /-- R142: A stream word moves from the fabric or stimulus queue into the engine's input queue. -/
  | streamIn (n : Nat) (word : BitVec 256)
  /-- R143: A stream word leaves the engine's output queue to the fabric or the capture queue. -/
  | streamOut (n : Nat)
  /-- R150: The engine begins a queued transfer, checking its descriptor and ending it with BAD_DESC or DMEM_UNCORR where it fails. -/
  | transferBegin (n : Nat)
  /-- R142: One line of a transfer moves between data memory and the Millrace or a stream queue when its bank is granted. -/
  | transferLine (n i : Nat) (upsets : List (Nat × Nat × Nat))
  /-- R151: After its last line, a transfer writes its final STATUS, counting non-OK outcomes in XPORT_ERR and IRQ_RAW[3]. -/
  | transferComplete (n i : Nat) (upsets : List (Nat × Nat × Nat))
  /-- R489: An ingress takes a header, stamps identity fields and either admits the packet to the mesh or completes it locally after its
  checks. -/
  | ingress (ep : Nat) (op : IngressOp)
  /-- R166: A router takes a header flit, corrects or discards ECC errors, and routes it adaptively or by XY onto a virtual channel. -/
  | routerHeader (pkt : Nat) (errs : List (Nat × Bool))
  /-- R188: A destination interface takes a packet, refusing requests at fabric and engine ports not owned by the packet's stall. -/
  | egress (ep : Nat) (op : EgressOp)
  /-- R197: A RD request at its destination is checked and its lines are read and returned in an RD_RSP. -/
  | rd (ep pkt : Nat) (faults : List (Nat × LineFault)) (env : PcieEnv)
  /-- R199: A WR request at its destination is checked and its lines are written, merged or poisoned, answered by a WR_RSP. -/
  | wr (ep pkt : Nat) (faults : List (Nat × LineFault)) (env : PcieEnv)
  /-- R362: A MSG packet carrying a unit or lane-bridge lines is taken by its destination and answered by MSG_RSP. -/
  | msg (ep pkt : Nat) (faults : List (Nat × LineFault)) (env : PcieEnv)
  /-- R164: A register agent identifies the requester of a REG_RD and reads the page under its owner rules, answering REG_RSP. -/
  | regRd (ep pkt upset : Nat)
  /-- R164: A register agent identifies the requester of a REG_WR and writes the page under its owner rules, answering REG_RSP OK. -/
  | regWr (ep pkt upset : Nat)
  /-- R184: A requester's tracker accepts an RD_RSP matching an outstanding tag and source, or discards it as LATE. -/
  | rdRsp (ep : Nat)
  /-- R184: A requester's tracker accepts a WR_RSP matching an outstanding tag and source, or discards it as LATE. -/
  | wrRsp (ep : Nat)
  /-- R184: A requester's tracker accepts a MSG_RSP matching an outstanding tag and source, or discards it as LATE. -/
  | msgRsp (ep : Nat)
  /-- R184: A requester's tracker accepts a REG_RSP matching an outstanding tag and source, or discards it as LATE. -/
  | regRsp (ep : Nat)
  /-- R185: The tracker completes a request with TIMEOUT when REQ_TIMEOUT µs pass without a response, and frees a fenced tag. -/
  | timeout (ep tag : Nat)
  /-- R177: When a later flit does not enter the IN queue within 64 ns, the ingress ends the packet with a TRUNC tail. -/
  | flitGap (ep : Nat)
  /-- R179: EPQ_CTL.FLUSH_IN requests a flush of the IN side at its next packet boundary. -/
  | flushIn (req : Req) (ep : Nat)
  /-- R179: EPQ_CTL.FLUSH_OUT requests a flush of the OUT side at its next packet boundary and ends DRAIN. -/
  | flushOut (req : Req) (ep : Nat)
  /-- R179: At the side's packet boundary every other queued packet is discarded under R178 and IRQ_RAW[2] sets. -/
  | flushEffect (ep : Nat) (out : Bool)
  /-- R180: DROP_REST_IN discards the unsent flits of the IN side's current packet and ends it with a TRUNC tail. -/
  | dropRestIn (req : Req) (ep : Nat)
  /-- R180: DROP_REST_OUT discards the untaken flits of the OUT side's current packet and presents one RX_ABORT flit. -/
  | dropRestOut (req : Req) (ep : Nat)
  /-- R181: TX_ABORT with a flit offered ends the current packet as DROP_REST_IN, or removes an unsent packet. -/
  | txAbort (ep : Nat)
  /-- R182: An OUT side whose full queue has not moved for EGR_STALL × 64 ns enters DRAIN and discards its flits. -/
  | drain (ep : Nat) (rsp : Bool)
  /-- R182: DRAIN ends when the interface is connected with RX_READY = 0b11. -/
  | drainEnd (ep : Nat)
  /-- R189: Within 1 µs every tracker completes its outstanding requests to an unreachable endpoint with UNREACHABLE. -/
  | sweep (dst : Nat)
  /-- R194: A fatal pseudo-channel interface error marks its HBM port unreachable until the next start. -/
  | hbmError (port : Nat)
  /-- R218: RGN_CMD.CREATE moves a FREE region to INIT and queues it for zeroing. -/
  | create (req : Req) (port region : Nat)
  /-- R218: When a region's zeroing completes it enters READY and IRQ_RAW[2] sets, and the next queued region starts. -/
  | zeroingEnd (port : Nat)
  /-- R218: RGN_CMD.DESTROY frees the region at once and abandons its zeroing or walk. -/
  | destroy (req : Req) (port region : Nat)
  /-- R220: RGN_CMD.REKEY moves a READY region to WALK with WM 0 and queues it for the walker. -/
  | rekey (req : Req) (port region : Nat)
  /-- R220: At least GAP × 100 ns after the last sector start, the walker takes sector WM and reads it under KEY_CUR. -/
  | walkTake (port : Nat) (faults : List (Nat × LineFault))
  /-- R220: When the walker's last write of a sector is performed WM increments, held writes proceed, and the last sector enters SETTLE. -/
  | walkDone (port : Nat)
  /-- R223: RGN_CMD.FINISH in SETTLE sets KEY_CUR to KEY_NEXT, WM to 0 and the region READY. -/
  | finish (req : Req) (port region : Nat)
  /-- R225: A RETIRING slot with no references or users left is zeroised within 1 µs and enters EMPTY. -/
  | slotZeroise (slot : Nat) (frames : Bool)
  /-- R216: A write lowering WARN to or below a slot's count sets that slot's WORN. -/
  | wearWarn (req : Req) (value : Nat)
  /-- R228: While a CXL link is down its region requests complete POISONED, walker and zeroing pause, and the first is logged. -/
  | cxlLinkDown (n : Nat)
  /-- R249: A spine clock not in its low phase by 50 ns is forced off and SAVE_SUSPECT sets. -/
  | clockForceOff (stall : Nat)
  /-- R249: Each shed's chain saves the live flip-flops and restores or zeroes them from the background save area. -/
  | ffExchange (stall : Nat) (bad : List Nat)
  /-- R250: Block memories, FMB registers and engine data memories of the swapping stall are zeroed. -/
  | swapZeroing (stall : Nat)
  /-- R248: When no packet of the stall injected before t0 to its own ports remains in the mesh, step 5 ends. -/
  | meshQuiet (stall : Nat)
  /-- R247: After steps 3 to 5 the plane select flips, program banks switch, engine pages reset and endpoint settings and tributary map
  apply. -/
  | planeFlip (stall : Nat)
  /-- R251: When the fill completes the stall is released LIVE, or FAULTED when a cause was recorded. -/
  | fillEnd (stall : Nat)
  /-- R243: The loader finishes writing an accepted image, marking its planes LOADED, or undoes a refused one. -/
  | loadEnd (stall : Nat)
  /-- R272: MB_DOORBELL.RING hands the command buffer to Tolmor, or is ignored and counted when busy or not accepting. -/
  | ring (req : Req) (box : Nat)
  /-- R270: Tolmor takes one rung mailbox's command in round-robin order, checks authority and format, and posts its immediate completion.
  -/
  | commandTake (env : CmdEnv)
  /-- R269: Deferred work ends and Tolmor posts the final completion with the command's SEQ and ticket. -/
  | deferredEnd (box ticket : Nat) (copied : Bool)
  /-- R271: A write of 1 to MB_CPL_POP removes the head completion and lets a held completion post. -/
  | cplPop (req : Req) (box : Nat)
  /-- R310: Once every target replies or TIMEOUT_MS passes, FANOUT writes its result records and completes. -/
  | fanoutEnd (id : Nat) (timeout copied : Bool)
  /-- R281: A queued test or calibration begins when its target meets the quiet window. -/
  | testStart (kind index : Nat)
  /-- R281: A test or calibration finishes and completes DONE or TEST_FAILED. -/
  | testEnd (kind index : Nat) (ok : Bool) (data : Nat)
  /-- R281: A queued request whose QUEUE_LIMIT passes first completes EXPIRED. -/
  | expired (box ticket : Nat)
  /-- R262: A core that disagrees with the others is isolated and reset, and Tolmor runs in DUAL. -/
  | lockstepDisagree (core : Option Nat)
  /-- R262: The reset core rejoins with the copied state and Tolmor returns to TRIPLE. -/
  | tripleRestore
  /-- R259: Every 10 ms the firmware scrubs Tolmor's SRAM. -/
  | sramScrub (uncorr : Bool)
  /-- R286: Tolmor copies a block's event record into the event log within 20 µs of its IRQ, or counts it in LOG_MISSED. -/
  | eventLogCopy (source index : Nat)
  /-- R290: A TIDE_IN frame with a good CRC gives a Tide sample. -/
  | tideIn (value crc age : Nat) (first : Bool)
  /-- R289: A PTM response to the port gives a Tide sample. -/
  | ptmExchange (port value age : Nat)
  /-- R289: When no valid sample arrives within the source's limit, Tide enters HOLDOVER. -/
  | sourceLost
  /-- R291: After HOLDOVER_MS in HOLDOVER, Tide enters LOST and armed swaps are abandoned. -/
  | holdoverExpire
  /-- R292: A Tide freeze ends after |o| ns and the counter runs again. -/
  | freezeEnd
  /-- R296: An armed alarm fires at the first tick with Tide ≥ T and performs its action, re-arming if periodic. -/
  | alarmFire
  /-- R299: STALL_ALARM_CTL.ARM arms a stall alarm at STALL_ALARM_T_j, or is ignored and counted. -/
  | arm (req : Req) (stall j : Nat) (signal : Bool)
  /-- R299: STALL_ALARM_CTL.DISARM disarms a stall alarm. -/
  | disarm (req : Req) (stall j : Nat)
  /-- R299: A W1C of STALL_ALARM_CTL.FIRED clears the bit and drops STALL_ALARM[j]. -/
  | firedClear (req : Req) (stall j : Nat)
  /-- R294: A change of TIDE_CFG.REFCLK moves the counter to another pair and enters HOLDOVER. -/
  | tideRefclk (req : Req) (pair : Nat)
  /-- R302: Every 1 ms the manager and joined workers of level 0 to 2 send HELLO on their child slots. -/
  | helloSend
  /-- R302: A received HELLO is answered with JOIN by an unjoined worker, or keeps a joined worker's parent alive. -/
  | hello (seen : List (Nat × Nat × Nat × Nat))
  /-- R302: A JOIN is forwarded to the manager, which answers JOIN_ACK. -/
  | join (slot serial : Nat) (path : List Nat)
  /-- R302: A JOIN_ACK assigns the worker its NODE_ID or refuses the join. -/
  | joinAck (slot : Nat) (path : List Nat) (node : Option Nat)
  /-- R303: A worker whose parent link goes down or hears no HELLO for 10 ms leaves the tree and empties MBOX_MGR. -/
  | treeLeave
  /-- R305: Every 1 ms a parent sends SYNC to each joined child and stamps t1. -/
  | syncSend
  /-- R305: A worker stamps t2 on SYNC and sends DELAY_REQ stamping t3. -/
  | sync (slot t1 : Nat)
  /-- R305: A parent stamps t4 on DELAY_REQ and returns it in DELAY_RSP. -/
  | delayReq (slot : Nat)
  /-- R305: A worker computes its offset from the exchange and applies the sample. -/
  | delayRsp (slot t4 : Nat)
  /-- R308: A CMD message is forwarded toward its targets and placed in each target's MBOX_MGR. -/
  | cmd (slot fan node scope : Nat) (words : List Nat) (ret : Option (Nat × Nat))
  /-- R310: A CPL message carries a target's final completion up to the manager. -/
  | cpl (slot fan node serial w0 w1 data : Nat)
  /-- R309: A STAGE message is forwarded and its data stored into a staging buffer. -/
  | stage (slot fan buffer offset : Nat) (data targets : List Nat)
  /-- R310: A RETURN message carries part of a staged buffer up to the manager. -/
  | ret (slot fan node offset : Nat) (data : List Nat)
  /-- R313: At an epoch boundary every leaf is sampled and restarted and each open interval yields a record. -/
  | epochClose
  /-- R314: Every 2^20 ns the Tally reads every leaf, checks both copies and recomputes nodes and roots. -/
  | checkpoint (faults : List LeafFault) (suspects : List (Nat × Nat))
  /-- R412: A lost REFCLK pair sets REF_LOST and affects its lanes, Tide, FIXREF and referencing PLLs. -/
  | refclkLoss (pair : Nat)
  /-- R400: The fixed PLLs relock to the new FIXREF pair and HOLD clears. -/
  | fixrefHoldEnd
  /-- R413: After a pair has been present for 100 µs the PLLs referencing it relock. -/
  | refclkReturn (pair : Nat)
  /-- R414: With no FIXREF, the device waits until a pair has been present for 1 ms and then performs a device reset. -/
  | refReturn (env : StartEnv)
  /-- R412: A detector flags a lost PLL output, device clock or fixed domain, with results by clock kind. -/
  | clockLoss (clock : ClockLost) (env : StartEnv)
  /-- R406: A change of a spine clock's select starts the glitch-free handshake and sets PEND. -/
  | spineSel (req : Req) (shed value : Nat)
  /-- R406: A change of the user CLKSEL[k] signal starts the handshake for a spine with USR_SEL. -/
  | clksel (shed k : Nat) (level : Bool)
  /-- R406: The multiplexer passes the new input, clears PEND and sets IRQ_RAW[1]. -/
  | spineSwitch (shed k : Nat)
  /-- R408: SPINE_CMD.FORCE abandons a pending handshake, drives the spine low and sets NEEDS_RST. -/
  | force (req : Req) (shed k : Nat)
  /-- R409: SPINE_CMD.DRST asserts the domain reset DRST[k] at once. -/
  | drst (req : Req) (shed k : Nat)
  /-- R409: At the eighth rising edge of the spine clock DRST[k] falls and NEEDS_RST clears. -/
  | drstRelease (shed k : Nat)
  /-- R401: A write to PLL_CFG or PLL_OUT is applied or ignored and counted when it breaks a limit or touches a clock in use. -/
  | pllCfgWrite (req : Req) (yard pll : Nat) (out : Option Nat) (value : Nat)
  /-- R415: FMEAS_CTL.START begins counting the edges of a chosen clock. -/
  | fmeasStart (req : Req) (value : Nat)
  /-- R415: At the end of the window FMEAS_CNT holds the count and IRQ_RAW[2] sets. -/
  | fmeasEnd (edges : Nat)
  /-- R419: Every 100 µs or on a tolerance change Tolmor chooses and enters the deepest allowed power state. -/
  | powerEval
  /-- R419: A write to PCIE_LTOL changes the host's latency tolerance and triggers a power-state choice. -/
  | ltolWrite (req : Req) (port value : Nat)
  /-- R420: A wake event starts the exit from NAP or SLEEP at once. -/
  | wake
  /-- R420: When every effect of the state is undone the exit ends and EXITING clears. -/
  | exitComplete
  /-- R326: A lane in WAIT_SIGNAL detects signal and enters CDR. -/
  | signalDetect (lane : Nat)
  /-- R326: Clock recovery locks and the lane enters POLARITY. -/
  | cdrLock (lane : Nat)
  /-- R327: The lane finds its receive polarity and enters ADAPT_INIT. -/
  | polarity (lane : Nat) (inverse : Bool)
  /-- R326: The eye meets its threshold and the lane enters ALIGN, or UP for FABRIC and TEST lanes. -/
  | adaptDone (lane eye : Nat)
  /-- R328: The protocol controller orders and deskews the group and the lane enters UP. -/
  | alignDone (lane logical : Nat)
  /-- R326: A lane exceeding the longest stay of CDR, POLARITY or ADAPT_INIT returns to WAIT_SIGNAL. -/
  | stageTimeout (lane : Nat)
  /-- R326: A lane whose signal is lost or whose clock recovery unlocks returns to WAIT_SIGNAL. -/
  | signalLoss (lane : Nat) (unlock : Bool)
  /-- R330: A lane calibration ends, returning to WAIT_SIGNAL or LOOPBACK, or setting CAL_FAIL and staying OFF. -/
  | calibrationEnd (lane : Nat) (ok : Bool)
  /-- R335: PRBS_CTL.INJECT inverts one transmitted bit. -/
  | inject (req : Req) (lane : Nat)
  /-- R335: PRBS_CTL.CLEAR zeroes PRBS_ERR and PRBS_BITS together. -/
  | prbsClear (req : Req) (lane : Nat)
  /-- R335: The checker locks after 2 048 consecutive bits agree with its prediction. -/
  | prbsLock (lane : Nat)
  /-- R335: The checker loses lock after 256 errors in 2 048 bits, sets LOST and seeds again. -/
  | prbsLost (lane bits errs : Nat)
  /-- R339: A write to LANE_FAB_CFG enables a FABRIC lane at a rate or holds it in WAIT_SIGNAL. -/
  | fabCfgWrite (req : Req) (lane value : Nat)
  /-- R339: A write to LANE_TX_EQ sets transmit weights, or is ignored and counted when they sum above 63. -/
  | txEqWrite (req : Req) (lane value : Nat)
  /-- R341: The bridge sends 4 packed received lines as a MSG to the lane's fabric port DEST. -/
  | bridgeSend (lane : Nat) (lines : List (BitVec 512))
  /-- R341: 200 ns after the first bit of the oldest held line the bridge sends the lines it holds. -/
  | bridgeTimer (lane : Nat) (lines : List (BitVec 512))
  /-- R344: A PCIe, Ethernet or Skeja link completes training and comes up. -/
  | linkUp (ev : LinkEvent)
  /-- R348: A port's link goes down and its link requests complete POISONED. -/
  | linkDown (link : LinkName)
  /-- R416: PERST#, hot reset or FLR resets the port's configuration and link and empties its mailbox. -/
  | hotReset (port : Nat) (kind : PortReset)
  /-- R351: A host access to BAR0 of an assigned function becomes a request to its fabric port. -/
  | bar0 (port func : Nat) (acc : HostAcc)
  /-- R352: A host access to PF0 BAR2 becomes a request through the lowest matching window. -/
  | bar2 (port : Nat) (acc : HostAcc)
  /-- R354: A downstream request in the root-port role maps through an inbound window onto a Millrace target. -/
  | inbound (port : Nat) (acc : HostAcc)
  /-- R355: A host CXL.mem access maps through PCIE_HDM onto a HOST region or returns poison. -/
  | cxlMem (port : Nat) (acc : HostAcc)
  /-- R356: In the root-port role the port answers a PTM request with Tide. -/
  | ptmRequest (port : Nat)
  /-- R350: A write to PCIE_FN_ASSIGN assigns a function to a stall's fabric port, or is ignored and counted. -/
  | fnAssignWrite (req : Req) (port value : Nat)
  /-- R349: A write to PCIE_FN_LAYOUT sets a PF's layout, or is ignored when TotalVFs exceed 2 048. -/
  | fnLayoutWrite (req : Req) (port pf value : Nat)
  /-- R352: A write to a BAR2 or inbound window is applied or ignored and counted when its target is not allowed. -/
  | windowWrite (req : Req) (inbound : Bool) (port j part value : Nat)
  /-- R354: A change of the hierarchy owner clears VALID of every inbound window. -/
  | rpOwnerWrite (req : Req) (port value : Nat)
  /-- R361: A received frame is checked and delivered to matching stations, or handed to Skeja, or discarded. -/
  | ethReceive (mac : Nat) (frame : List Nat) (fcsOk : Bool)
  /-- R361: A write making a station valid is ignored and counted when DEST is not a port the stall claims. -/
  | stnCfgWrite (req : Req) (mac j value : Nat)
  /-- R372: The transport sends a frame under its key, advancing the counter and epoch. -/
  | skejaSend (k path : Nat)
  /-- R367: A received frame is checked, acknowledged or NAKed, and complete messages are delivered. -/
  | skejaReceive (k path : Nat) (frame : SkFrame) (fecOk tagOk : Bool)
  /-- R367: A NAK makes the sender resend from the acknowledged sequence onward. -/
  | nak (k path ack : Nat)
  /-- R368: A UDP frame not acknowledged within RTO_US is resent. -/
  | udpTimeout (k frames : Nat)
  /-- R370: At path-up the ends run the management-key handshake. -/
  | pathUp (k path : Nat)
  /-- R370: The handshake agrees a management key, or fails and leaves the path down with AUTH_FAIL. -/
  | handshakeEnd (k path : Nat) (ok : Bool)
  /-- R371: When the peer's check value matches, the sender switches to the new slot, toggles KGEN and restarts at epoch 0. -/
  | checkMatch (k : Nat)
  /-- R373: A path goes down and its unacknowledged frames are discarded. -/
  | pathDown (k path : Nat)
  /-- R380: A MIL flit is received, checked and delivered in order, or triggers a NAK and resend. -/
  | weirMil (bundle half data sb err : Nat) (fix : Option Nat)
  /-- R378: A TRIB flit is presented, or discarded with the lost flits counted in TRIB_LOST. -/
  | weirTrib (bundle skip err : Nat) (fix : Option Nat)
  /-- R382: Every 1 024 flits the shadowing spare moves to the next logical lane. -/
  | shadowAdvance (bundle half : Nat)
  /-- R383: A lane-check request makes the transmitter send 64 LCHK flits. -/
  | lchkReq (bundle half errs : Nat)
  /-- R383: The check fails noisy lanes, maps spares or narrows or retires the bundle. -/
  | laneCheckEnd (bundle half : Nat) (errs : List (Nat × Nat)) (persists : Bool)
  /-- R385: Loss of a bundle's forwarded clocks retires it. -/
  | clocksLost (bundle bits : Nat)
  /-- R386: Tolmor fuses a repair entry within 1 ms, or keeps it in SRAM when fuses are full. -/
  | repairFuse
  /-- R390: A failed UCIe module takes its lanes to OFF, or quarantines the ford for module 0. -/
  | ucieFail (ford module : Nat)
  /-- R393: The Riverbed cuts off a yard or ford on a trigger and makes its endpoints unreachable. -/
  | quarantine (die cause : Nat)
  /-- R394: At least 1 ms after quarantine, with triggers cleared, Tolmor re-admits the die. -/
  | readmission (die supplier rev : Nat) (admitted : Bool) (env : TrainEnv)
  /-- R479: A rail out of range after power-good resets, quarantines or disables as Table ELE-4 gives. -/
  | railLoss (rail : Rail) (back : Bool)
  /-- R486: A junction at 110 °C closes gates, floats pins, idles lanes and drives THERM_TRIP_N low. -/
  | thermTrip
  /-- R396: TAP instruction IDCODE selects the die's identification register. -/
  | idcode (tap : Nat)
  /-- R396: TAP instruction SAMPLE/PRELOAD selects the boundary register. -/
  | samplePreload (tap value : Nat)
  /-- R397: TAP instruction EXTEST drives pins from the boundary register or acts as BYPASS. -/
  | extest (tap : Nat)
  /-- R397: TAP instruction EXTEST_PULSE tests ford lanes. -/
  | extestPulse (tap : Nat)
  /-- R397: TAP instruction EXTEST_TRAIN tests ford lanes. -/
  | extestTrain (tap : Nat)
  /-- R397: TAP instruction HIGHZ floats the die's pins. -/
  | highz (tap : Nat)
  /-- R397: TAP instruction CLAMP holds pins at the boundary register's values. -/
  | clamp (tap : Nat)
  /-- R396: TAP instruction BYPASS selects the one-bit bypass register. -/
  | bypass (tap : Nat)
  /-- R457: TAP instruction MBOX selects the 66-bit JTAG mailbox data register. -/
  | mbox (tap : Nat)
  /-- R457: At Update-DR, OP 1 starts a read in view 5. -/
  | jtagRead (addr : Nat)
  /-- R457: At Update-DR, OP 2 starts a write in view 5. -/
  | jtagWrite (addr value : Nat)
  /-- R442: Test-Logic-Reset of the TAP ends the JTAG view's grant. -/
  | testLogicReset
  /-- R430: A write changing PIN_CFG.FUNC sets SW_PEND and starts a pin function switch. -/
  | func (req : Req) (pin code : Nat)
  /-- R430: At the new pin clock's edge the switch takes effect and the hold latch drives the old values. -/
  | switchEdge (pin : Nat)
  /-- R430: After two cycles of hold the new function drives the pad and SW_PEND clears. -/
  | holdEnd (pin : Nat)
  /-- R431: With no new pin clock edge within 1 µs the switch runs on YPAGE_b edges and SW_LATE sets. -/
  | swLate (pin : Nat)
  /-- R429: GPIO_SET sets the owned GPIO_OUT bits. -/
  | gpioSet (req : Req) (bank : Nat) (hi : Bool) (bits : Nat)
  /-- R429: GPIO_CLR clears the owned GPIO_OUT bits. -/
  | gpioClr (req : Req) (bank : Nat) (hi : Bool) (bits : Nat)
  /-- R429: GPIO_TGL inverts the owned GPIO_OUT bits. -/
  | gpioTgl (req : Req) (bank : Nat) (hi : Bool) (bits : Nat)
  /-- R434: A pin-interrupt line event sets PIRQ_PEND and IRQ_RAW of PIN_IRQ. -/
  | pinEvent (line : Nat) (pad : Bool)
  /-- R437: An I2C transaction returns the register at the given address, or 0. -/
  | i2cRead (addr : Nat)
  /-- R442: When Tide passes NOT_AFTER the view's grant ends. -/
  | grantExpire (view : Nat)
  /-- R442: DBG_GRANT.END ends the grant, releasing halts and freeing rings and captures. -/
  | endGrant (view : Nat)
  /-- R444: DBG_ACC_CTL.GO with WRITE 0 reads a register as the grant's subject with no side effect. -/
  | peek (view stall : Nat)
  /-- R445: DBG_ACC_CTL.GO with WRITE 1 writes a register with the grant's subject's authority. -/
  | poke (view stall : Nat)
  /-- R446: DBG_E_CMD HALT requests a halt of a RUNNING engine at its next bundle boundary. -/
  | halt (view n : Nat)
  /-- R446: At the bundle boundary the engine ends issue and enters HALTED. -/
  | engineHalt (n : Nat)
  /-- R449: A deferred halt still pending at cycle 256 of a lock is forced, releasing the lock. -/
  | lockBroken (n : Nat)
  /-- R448: DBG_E_CMD RELEASE returns a HALTED engine to RUNNING with its watchdog restored. -/
  | releaseEngine (view n : Nat)
  /-- R448: DBG_E_CMD STEP releases the engine for COUNT bundles and halts it again. -/
  | step (view n count : Nat)
  /-- R452: CAP_CTL.FIRE triggers a fabric capture of the named stall. -/
  | fire (view : Nat)
  /-- R452: A pulse on DBG_TRIG triggers a fabric capture while ARM is set. -/
  | dbgTrig (shed : Nat)
  /-- R452: In SNAP mode clocks restart and gates reopen within 200 ns of the trigger. -/
  | snapEnd (view : Nat) (forced : Bool)
  /-- R452: CAP_CTL.RESUME ends a HOLD capture stop. -/
  | capResume (view : Nat)
  /-- R454: A write to RING_CTL allocates a trace ring for a covered stall or frees it. -/
  | ringCtlWrite (req : Req) (r value : Nat)
  /-- R30: An active edge of a spine clock or device clock updates the flip-flops, M-tile writes, BM36, FIFO, Pond, FMB, tributary and pin-
  cell registers that it clocks. -/
  | clockEdge (clk : ClockId) (falling : Bool) (elems : List ElemIn)
  /-- R56: An upset flips a bit of a configuration plane, a select latch or a live-plane latch, and user logic behaves as the upset bit
  dictates. -/
  | upset (bit : UpsetAt)
  /-- R325: A lost REFCLK pair returns, clearing REF_LOST behaviour, starting lane bring-up at WAIT_SIGNAL and restarting a stopped Tide
  counter. -/
  | pairReturn (pair : Nat)
  /-- R347: A completion for a TLP sent by a PCIe or CXL port arrives from the link, or times out, and the port returns the RD_RSP or WR_RSP
  with OK, BAD_ADDR or POISONED. -/
  | tlpCompletion (port tag : Nat) (result : TlpEnd)
  /-- R401: A fabric or grid PLL that was enabled, reconfigured or lost lock with a healthy reference acquires lock and its outputs run. -/
  | pllLock (yard pll : Nat)
  /-- R486: A junction reaching 100 °C drives THERM_ALERT_N low, and its fall below 97 °C releases it. -/
  | thermAlert (hot : Bool)
  deriving DecidableEq, Repr

end Sys2Proof
end

