-- ==== Sys2Proof/Machine/FabricElems.lean ====
section
/-! DEFINITION. What one active clock edge does to a tile, a BM36, a Pond and a fabric MAC block: their next state from their configuration,
their state and their routed inputs (Logic tiles, cells and fabric memories). -/

namespace Sys2Proof.Machine

/-- The signed value of the low `n` bits of `x`. -/
def wrapS (n : Nat) (x : Int) : Int :=
  let m := x % (2 ^ n : Int)
  if m < (2 ^ (n - 1) : Int) then m else m - (2 ^ n : Int)

/-- `w` with `len` bits from bit `lo` replaced by `v`. -/
def putBits (w lo len v : Nat) : Nat := Fld.set ⟨lo, len⟩ w v

/-- `len` bits of `w` from bit `lo`. -/
def getBits (w lo len : Nat) : Nat := Fld.get ⟨lo, len⟩ w

/-- The number of 1 bits among the low `n` bits of `v`. -/
def popCount : Nat → Nat → Nat
  | 0, _ => 0
  | n + 1, v => v % 2 + popCount n (v / 2)

/-- The number of the lowest 1 bit among the low `n` bits of `v` (counted from `k`), or `n + k` when there is none. -/
def lowBit : Nat → Nat → Nat → Nat
  | 0, k, _ => k
  | n + 1, k, v => if v % 2 = 1 then k else lowBit n (k + 1) (v / 2)

/-! ### Tiles -/

/-- The cell at index `c`, or a cell with a zero table. -/
def TileCfg.cell (t : TileCfg) (c : Nat) : CellCfg :=
  listGet ⟨0, false, false, false, false, ⟨.h, .always, false, false, false⟩, ⟨.h, .always, false, false, false⟩⟩ t.cells c

/-- The inputs of cell `c`. -/
def TileIn.cell (i : TileIn) (c : Nat) : CellIn := listGet ⟨0, false, false⟩ i.cells c

/-- Table LGC-3: the address at which the table of cell `c` is read. -/
def readPattern (t : TileCfg) (i : TileIn) (c : Nat) : Nat :=
  match t.mode with
  | .m64w => (i.cell 0).l
  | .m64d => if c < 4 then (i.cell 0).l else (i.cell c).l
  | .m64q => if c < 2 then (i.cell 0).l else (i.cell c).l
  | _ => (i.cell c).l

/-- R31, R32: whether the table of cell `c` serves the tile's memory mode. -/
def cellIsMem (t : TileCfg) (c : Nat) : Bool :=
  match t.mode with
  | .logic => false
  | .m64w => true
  | .m64d => true
  | .m64q => true
  | _ => (t.cell c).isMem

/-- R24, Table LGC-3: the F output of cell `c`. -/
def cellF (t : TileCfg) (i : TileIn) (c : Nat) : Bool :=
  let p := readPattern t i c
  let k := t.cell c
  if cellIsMem t c then
    match t.mode with
    | .m32 => bitAt k.table (32 + p % 32)
    | .shift32 => bitAt k.table (p % 32)
    | _ => bitAt k.table (p % 64)
  else if k.half then bitAt k.table (32 + p % 32) else bitAt k.table (p % 64)

/-- R24, Table LGC-3: the H output of cell `c`: the low half of the table, L5 disregarded. -/
def cellH (t : TileCfg) (i : TileIn) (c : Nat) : Bool :=
  bitAt (t.cell c).table (readPattern t i c % 32)

/-- R25: CY from the propagate term F, the generate term and CI. -/
def cellCy (t : TileCfg) (i : TileIn) (c : Nat) (ci : Bool) : Bool :=
  if cellF t i c then ci else if (t.cell c).genDx then (i.cell c).dx else cellH t i c

/-- R26: the carry into cell `c`. -/
def carryInto (t : TileCfg) (i : TileIn) : Nat → Bool
  | 0 =>
    match t.carryIn with
    | .zero => false
    | .one => true
    | .dx0 => (i.cell 0).dx
    | .below => i.below
  | c + 1 => cellCy t i c (carryInto t i c)

/-- R25: the Y output of cell `c`. -/
def cellY (t : TileCfg) (i : TileIn) (c : Nat) : Bool := xor (cellF t i c) (carryInto t i c)

/-- Table LGC-2: the D input of KA (`kb = false`) or KB of cell `c`. -/
def ffD (t : TileCfg) (i : TileIn) (c : Nat) (kb : Bool) : Bool :=
  let k := t.cell c
  match (if kb then k.kb else k.ka).dsel with
  | .f => cellF t i c
  | .h => cellH t i c
  | .y => cellY t i c
  | .carry => cellCy t i c (carryInto t i c)
  | .direct => if kb then (i.cell c).dy else (i.cell c).dx

/-- R28: whether the flip-flop's enable is 1. -/
def ffEnabled (f : FfCfg) (i : TileIn) : Bool :=
  match f.ensel with
  | .always => true
  | .en0 => i.en0
  | .en1 => i.en1

/-- R29, R30: the stored bit after an active edge: TRST first, then the enabled D, else the held bit. -/
def ffNext (f : FfCfg) (i : TileIn) (d b : Bool) : Bool :=
  if f.trstUse && i.trst then xor f.trstVal f.inv
  else if ffEnabled f i then xor d f.inv
  else b

/-- The stored bits of cells `n - 1`, …, 0 after an active edge; KA of cell c is bit 2c and KB bit 2c + 1. -/
def tileFfs (t : TileCfg) (i : TileIn) (ffs : Nat) : Nat → Nat
  | 0 => 0
  | c + 1 =>
    tileFfs t i ffs c
      + b2n (ffNext (t.cell c).ka i (ffD t i c false) (bitAt ffs (2 * c))) * 2 ^ (2 * c)
      + b2n (ffNext (t.cell c).kb i (ffD t i c true) (bitAt ffs (2 * c + 1))) * 2 ^ (2 * c + 1)

/-- R30, ASYNC mode: the stored bits of cells `n - 1`, …, 0 while TRST is 1 and no edge falls. -/
def tileAsyncFfs (t : TileCfg) (ffs : Nat) : Nat → Nat
  | 0 => 0
  | c + 1 =>
    let ka := (t.cell c).ka
    let kb := (t.cell c).kb
    tileAsyncFfs t ffs c
      + b2n (if t.async && ka.trstUse then xor ka.trstVal ka.inv else bitAt ffs (2 * c)) * 2 ^ (2 * c)
      + b2n (if t.async && kb.trstUse then xor kb.trstVal kb.inv else bitAt ffs (2 * c + 1)) * 2 ^ (2 * c + 1)

/-- Table LGC-3, R33: the table of cell `c` after a write edge (EN1 = 1). -/
def cellWrite (t : TileCfg) (i : TileIn) (c : Nat) : Nat :=
  let tb := (t.cell c).table
  let a0 := (i.cell 0).l % 64
  if cellIsMem t c then
    match t.mode with
    | .logic => tb
    | .m64 => putBits tb ((i.cell c).l % 64) 1 (b2n (i.cell c).dx)
    | .m32 =>
      putBits (putBits tb ((i.cell c).l % 32) 1 (b2n (i.cell c).dx)) (32 + (i.cell c).l % 32) 1 (b2n (i.cell c).dy)
    | .m64w => putBits tb a0 1 (b2n (i.cell c).dx)
    | .m64d => putBits tb a0 1 (b2n (i.cell (c % 4)).dx)
    | .m64q => putBits tb a0 1 (b2n (i.cell (c % 2)).dx)
    | .shift32 =>
      let d := if c ≠ 0 ∧ (t.cell c).chain then bitAt (t.cell (c - 1)).table 31 else (i.cell c).dx
      (tb * 2 + b2n d) % 2 ^ 32
  else tb

/-- The cells of the tile after an edge, from cell `c` on. -/
def cellsWrite (t : TileCfg) (i : TileIn) : Nat → List CellCfg → List CellCfg
  | _, [] => []
  | c, k :: ks => { k with table := cellWrite t i c } :: cellsWrite t i (c + 1) ks

/-- R31: the tile after an active edge: in a memory mode EN1 = 1 writes every memory table. -/
def tileWrite (t : TileCfg) (i : TileIn) : TileCfg :=
  if i.en1 && t.mode ≠ .logic then { t with cells := cellsWrite t i 0 t.cells } else t

/-! ### BM36 and Pond words -/

/-- R241: logical word `a` of width `w` in a memory of 72-bit physical words. -/
def readWord (mem : SMap Nat) (w a : Nat) : Nat :=
  if w ≤ 4 then getBits (smGet 0 mem (a * w / 64)) (a * w % 64) w
  else
    let l := w / 9
    let p := smGet 0 mem (a * l / 8)
    let lane := a * l % 8
    getBits p (8 * lane) (8 * l) + getBits p (64 + lane) l * 2 ^ (8 * l)

/-- One byte lane of a physical word and its extra bit replaced by those of the logical value `v`, lane by lane (R241). -/
def writeLanes (p lane l v mask : Nat) : Nat → Nat
  | 0 => p
  | n + 1 =>
    let q := writeLanes p lane l v mask n
    if bitAt mask n then
      putBits (putBits q (8 * (lane + n)) 8 (getBits v (8 * n) 8)) (64 + lane + n) 1 (getBits v (8 * l + n) 1)
    else q

/-- R241: the memory with logical word `a` of width `w` written under the byte-lane enables `mask`. -/
def writeWord (mem : SMap Nat) (w a v mask : Nat) : SMap Nat :=
  if w ≤ 4 then
    smSet 0 mem (a * w / 64) (putBits (smGet 0 mem (a * w / 64)) (a * w % 64) w v)
  else
    let l := w / 9
    smSet 0 mem (a * l / 8) (writeLanes (smGet 0 mem (a * l / 8)) (a * l % 8) l v mask l)

/-- R39: a read in an ECC organisation: the data, ECC_FIX and ECC_BAD, from the stored 64 bits and the bits upsets have flipped. (DESIGN CHOICE, assumption 30) -/
def eccRead (ecc : Bool) (stored upset : Nat) : Nat × Bool × Bool :=
  if ecc then
    if popCount 72 upset = 0 then (stored % 2 ^ 64, false, false)
    else if popCount 72 upset = 1 then (stored % 2 ^ 64, true, false)
    else (Nat.xor (stored % 2 ^ 64) (upset % 2 ^ 64), false, true)
  else (Nat.xor stored upset, false, false)

/-- What an edge of a block memory reports to the shed's error registers (R39): the word's address and whether it was uncorrectable. -/
structure MemEvent where
  bad : Bool
  block : Nat
  addr : Nat
  deriving DecidableEq, Repr

/-- The number of logical words of width `w` in one BM36 (Table LGC-4). -/
def bmDepth (w : Nat) : Nat := if w ≤ 4 then 32768 / w else 4608 / w

/-- R37: the value a port's output takes on an edge: the word read, or during its own write what WMODE chooses. -/
def portShow (m : WMode) (we : Bool) (old new out : Nat) : Nat :=
  if we then (match m with | .showNew => new | .showOld => old | .holdOut => out) else old

/-- R37: the output and the OPIPE register after an edge on which the read stage takes `v`. -/
def portPipe (opipe : Bool) (v pipe : Nat) : Nat × Nat := if opipe then (pipe, v) else (v, v)

/-- DUAL, PAIR and WIDE reads and writes of one block on an edge that clocks port A (`ea`), port B (`eb`) or both (R37, R38).
`fv` is the unpredictable value of a collision. -/
def bmPorts (c : BmCfg) (s : Bm) (i : BmIn) (ea eb : Bool) (fv : Nat) : Bm × Bool :=
  let wa := if c.mode = .wide then 72 else c.widthA
  let wb := if c.mode = .wide then 72 else c.widthB
  let a := i.a.addr % bmDepth wa
  let b := i.b.addr % bmDepth wb
  let writeA := ea && i.a.en && i.a.we
  let writeB := eb && i.b.en && i.b.we && c.mode ≠ .wide
  let dA := if c.ecc && c.mode = .wide then i.a.data % 2 ^ 64 else i.a.data
  let oldA := Nat.xor (readWord s.mem wa a) (if c.mode = .wide then 0 else i.a.upset)
  let rb := eccRead (c.ecc && c.mode = .wide) (readWord s.mem wb b) i.b.upset
  let mem1 := if writeB then writeWord s.mem wb b (if i.collide = .withWrite then fv else i.b.data) i.b.lanes else s.mem
  let mem2 := if writeA then writeWord mem1 wa a (if i.collide = .withWrite then fv else dA) i.a.lanes else mem1
  let showA := portShow c.wmodeA i.a.we oldA (readWord (writeWord s.mem wa a i.a.data i.a.lanes) wa a) s.outA
  let showB := portShow c.wmodeB i.b.we rb.1 (readWord (writeWord s.mem wb b i.b.data i.b.lanes) wb b) s.outB
  let vA := if !i.a.we && i.collide = .withWrite then fv % 2 ^ wa else showA
  let vB := if !i.b.we && i.collide = .withWrite then fv % 2 ^ wb else showB
  let readsA := ea && i.a.en && c.mode ≠ .wide
  let readsB := eb && i.b.en && (c.mode = .wide || !i.b.we || c.mode = .dual || c.mode = .pair)
  let pA := portPipe c.opipeA (if readsA then vA else s.pipeA) s.pipeA
  let pB := portPipe c.opipeB (if readsB then vB else s.pipeB) s.pipeB
  let eccB := eb && i.b.en && c.mode = .wide
  ({ s with
      mem := mem2
      outA := if writeA && i.collide = .withRead then s.outA else if ea && (readsA || c.opipeA) then pA.1 else s.outA
      pipeA := if ea && (readsA || c.opipeA) then pA.2 else s.pipeA
      outB := if eb && (readsB || c.opipeB) then pB.1 else if writeA && i.collide = .withRead then fv % 2 ^ wb else s.outB
      pipeB := if eb && (readsB || c.opipeB) then pB.2 else s.pipeB
      eccFix := if eccB then rb.2.1 else s.eccFix
      eccBad := if eccB then rb.2.2 else s.eccBad },
   eccB && (rb.2.1 || rb.2.2))

/-! ### The BM36 FIFO (R40–R44) -/

/-- The number of words between two pointers that count modulo twice the depth. -/
def fifoFill (depth w r : Nat) : Nat := (w + 2 * depth - r) % (2 * depth)

/-- R43: FRST empties the FIFO in both domains at once and clears OVERRUN and UNDERRUN; each domain ignores its side until 4 edges
after the release reaches it. -/
def bmFifoReset (s : Bm) : Bm :=
  { s with
    wptr := 0, rptr := 0, wsync1 := 0, wsync2 := 0, rsync1 := 0, rsync2 := 0, wrst := 4, rrst := 4
    full := true, empty := true, emptyPre := true, nearEmpty := true, nearFull := false, overrun := false, underrun := false }

/-- R40, R41: a write-clock edge. `rp` is the read pointer before the edge. -/
def bmFifoWrite (c : BmCfg) (s : Bm) (i : BmIn) (rp : Nat) : Bm :=
  let depth := bmDepth c.widthA
  if i.frst then bmFifoReset s
  else if 0 < s.wrst then { s with wrst := s.wrst - 1, full := decide (1 < s.wrst) }
  else
    let take := i.a.we && !s.full
    let wp := if take then (s.wptr + 1) % (2 * depth) else s.wptr
    let seen := if c.mode = .fifo1clk then s.rptr else s.wsync2
    let fill := fifoFill depth wp seen
    { s with
      mem := if take then writeWord s.mem c.widthA (s.wptr % depth) (if c.ecc then i.a.data % 2 ^ 64 else i.a.data) (2 ^ 8 - 1) else s.mem
      wptr := wp
      full := decide (depth ≤ fill)
      nearFull := decide (c.nfLevel ≤ fill)
      overrun := s.overrun || (i.a.we && s.full)
      wsync2 := s.wsync1
      wsync1 := if i.syncMet then rp else s.wsync1 }

/-- R40–R42: a read-clock edge. `wp` is the write pointer before the edge. -/
def bmFifoRead (c : BmCfg) (s : Bm) (i : BmIn) (wp : Nat) : Bm × Bool :=
  let depth := bmDepth c.widthA
  if i.frst then (bmFifoReset s, false)
  else if 0 < s.rrst then ({ s with rrst := s.rrst - 1 }, false)
  else
    let take := i.b.en && !s.empty
    let rp := if take then (s.rptr + 1) % (2 * depth) else s.rptr
    let seen := if c.mode = .fifo1clk then s.wptr else s.rsync2
    let fill := fifoFill depth seen rp
    let pre := decide (fill = 0)
    let empty := pre || (c.headout && s.emptyPre)
    let at_ := if c.headout then rp else s.rptr
    let r := eccRead c.ecc (readWord s.mem c.widthA (at_ % depth)) i.b.upset
    let present := if c.headout then !empty else take
    let v := if present then r.1 else s.pipeB
    let p := if c.headout then ((if present then r.1 else s.outB), v) else portPipe c.opipeB v s.pipeB
    ({ s with
        rptr := rp
        empty := empty
        emptyPre := pre
        nearEmpty := decide (fill ≤ c.neLevel)
        underrun := s.underrun || (i.b.en && s.empty)
        rsync2 := s.rsync1
        rsync1 := if i.syncMet then wp else s.rsync1
        outB := if present || c.opipeB then p.1 else s.outB
        pipeB := p.2
        eccFix := if present then r.2.1 else s.eccFix
        eccBad := if present then r.2.2 else s.eccBad },
     present && (r.2.1 || r.2.2))

/-- One block on an edge that clocks port A, port B or both. A single-clock FIFO writes, then reads, then sets both sides' flags exactly. -/
def bmEdge (c : BmCfg) (s : Bm) (i : BmIn) (ea eb : Bool) (fv : Nat) : Bm × Bool :=
  match c.mode with
  | .fifo =>
    let s1 := if ea then bmFifoWrite c s i s.rptr else s
    if eb then bmFifoRead c s1 i s.wptr else (s1, false)
  | .fifo1clk =>
    if ea then
      let s1 := bmFifoWrite c s i s.rptr
      let (s2, e) := bmFifoRead c s1 i s.wptr
      let fill := fifoFill (bmDepth c.widthA) s2.wptr s2.rptr
      if 0 < s2.wrst ∨ 0 < s.wrst then (s2, e)
      else ({ s2 with full := decide (bmDepth c.widthA ≤ fill), nearFull := decide (c.nfLevel ≤ fill) }, e)
    else (s, false)
  | _ => bmPorts c s i ea eb fv

/-! ### Ponds (R45–R47) -/

/-- The number of logical words of one Pond. -/
def pondDepth (c : PondCfg) : Nat := if c.org36 then 8192 else 4096

/-- The width of a Pond's logical word. -/
def pondWidth (c : PondCfg) : Nat := if c.org36 then 36 else 72

/-- R45, R47: the number of edges from a read to its data. -/
def pondLatency (c : PondCfg) : Nat := 2 + b2n c.opipe + (if c.cascade = 0 then 0 else 1)

/-- A pipeline of `n - 1` stages: entry 0 is empty, `v + 1` a word; what leaves becomes the output. -/
def pipeStep (n : Nat) (pipe : List Nat) (v : Nat) (out : Nat) : List Nat × Nat :=
  let q := pipe ++ [v]
  if q.length < n then (q, out) else (q.tail, if q.headD 0 = 0 then out else q.headD 0 - 1)

/-! ### Fabric MAC blocks (R48–R51) -/

/-- R48: the 27-bit multiplicand. (DEDUCED, assumption 41) -/
def fmbMultiplicand (p : FmbPre) (x g : Int) : Int :=
  match p with
  | .x => x
  | .g => g
  | .xPlusG => wrapS 27 (x + g)
  | .xMinusG => wrapS 27 (x - g)

/-- R50: the accumulator value stored for the exact result `r`, and OVF. -/
def fmbLimit (sat : Bool) (r : Int) : Int × Bool :=
  let hi : Int := 2 ^ 57 - 1
  let lo : Int := -(2 ^ 57)
  if hi < r then (if sat then hi else wrapS 58 r, true)
  else if r < lo then (if sat then lo else wrapS 58 r, true)
  else (r, false)

/-- R48, R49: an edge of a fabric MAC block; `ci` is ACC_CI, `xci` and `wci` the operand chain from the block below. -/
def fmbEdge (c : FmbCfg) (s : Fmb) (i : FmbIn) (ci xci wci : Int) : Fmb :=
  if i.en then
    let x := wrapS 27 (if c.xChain then xci else i.x)
    let w := wrapS 24 (if c.wChain then wci else i.w)
    let g := wrapS 27 i.g
    let m := fmbMultiplicand i.pre (if c.xpipe then s.xr else x) (if c.gpipe then s.gr else g)
    let prod := m * (if c.wpipe then s.wr else w)
    let z : Int :=
      match i.zsel with
      | .zero => 0
      | .acc => if c.apipe then s.acc else 0
      | .n => wrapS 58 i.n
      | .accCi => ci
    let k : Int := if i.ksel = 1 then c.konst else if i.ksel = 2 then -c.konst else 0
    let r := fmbLimit c.sat ((if c.mpipe then s.mr else prod) + z + k)
    { xr := x, wr := w, gr := g, mr := prod, acc := r.1, ovf := r.2 }
  else s

end Sys2Proof.Machine
end

