-- ==== Sys2Proof/Machine/EddyFp.lean ====
section
/-! DEFINITION. The arithmetic of the Eddy engines: integer narrowing and saturation (R109), floating point (R111), and the flags they set. -/

namespace Sys2Proof.Machine

/-- ESTAT bits (Table EDY-2): SATF. -/
def flSat : Nat := 1
/-- ESTAT bit WRAPF. -/
def flWrap : Nat := 2
/-- ESTAT bit FPOVF. -/
def flOvf : Nat := 4
/-- ESTAT bit FPINV. -/
def flInv : Nat := 8

/-- The number of bits of an element (R91). -/
def ETy.bits : ETy → Nat
  | .i8 => 8
  | .u8 => 8
  | .i16 => 16
  | .bf16 => 16
  | .i32 => 32
  | .fp32 => 32

/-- The number of elements in one vector register. -/
def ETy.count (t : ETy) : Nat := 512 / t.bits

/-- Whether the type is floating point. -/
def ETy.isFp : ETy → Bool
  | .bf16 => true
  | .fp32 => true
  | _ => false

/-- The least and the greatest value of an integer type. -/
def ETy.range (t : ETy) : Int × Int :=
  match t with
  | .u8 => (0, 255)
  | _ => (-(2 ^ (t.bits - 1)), 2 ^ (t.bits - 1) - 1)

/-- The bit pattern of the low `n` bits of an integer. -/
def bitsOf (n : Nat) (x : Int) : Nat := (x % (2 ^ n : Int)).toNat

/-- The integer a bit pattern of type `t` stands for. -/
def ETy.toInt (t : ETy) (x : Nat) : Int := if t = .u8 then (x : Int) else wrapS t.bits x

/-- R109: an exact result narrowed to `[lo, hi]` in `n` bits: clamped with SATF, or wrapped with WRAPF. -/
def narrowTo (sat : Bool) (n : Nat) (lo hi x : Int) : Nat × Nat :=
  if x < lo then (if sat then (bitsOf n lo, flSat) else (bitsOf n x, flWrap))
  else if hi < x then (if sat then (bitsOf n hi, flSat) else (bitsOf n x, flWrap))
  else (bitsOf n x, 0)

/-- R109 for an element of an integer type. -/
def narrow (sat : Bool) (t : ETy) (x : Int) : Nat × Nat := narrowTo sat t.bits t.range.1 t.range.2 x

/-- R109 for an accumulator lane of 48 bits. -/
def narrowLane (sat : Bool) (x : Int) : Nat × Nat := narrowTo sat 48 (-(2 ^ 47)) (2 ^ 47 - 1) x

/-! ### Floating point (R111) -/

/-- A floating-point operand, subnormals already read as zero: `fin s m e` is (−1)^s · m · 2^e, a zero when m = 0. -/
inductive Fp where
  | nan
  | inf (s : Bool)
  | fin (s : Bool) (m : Nat) (e : Int)
  deriving DecidableEq, Repr

/-- The value of an fp32 pattern; subnormals read as zero of the same sign. -/
def fpOf32 (w : Nat) : Fp :=
  let s := bitAt w 31
  let e : Nat := w / 2 ^ 23 % 256
  let f := w % 2 ^ 23
  if e = 255 then (if f = 0 then .inf s else .nan)
  else if e = 0 then .fin s 0 0
  else .fin s (2 ^ 23 + f) ((e : Int) - 150)

/-- The value of a pattern of a floating-point type. -/
def fpOf (t : ETy) (w : Nat) : Fp := if t = .bf16 then fpOf32 (w * 2 ^ 16) else fpOf32 w

/-- The format of a floating-point type: the precision with the leading 1. -/
def ETy.prec (t : ETy) : Nat := if t = .bf16 then 8 else 24

/-- The pattern of sign, exponent field and fraction. -/
def fpPattern (t : ETy) (s : Bool) (e f : Nat) : Nat :=
  b2n s * 2 ^ (t.bits - 1) + e * 2 ^ (t.prec - 1) + f

/-- The canonical NaN. -/
def fpNan (t : ETy) : Nat := fpPattern t false 255 (2 ^ (t.prec - 2))

/-- The number of bits of a number. -/
def bitLen (m : Nat) : Nat := if m = 0 then 0 else Nat.log2 m + 1

/-- A mantissa rounded to nearest even at `p` bits with the exponent unbounded, then normalised to exactly `p` bits. -/
def roundMant (p m : Nat) (e : Int) : Nat × Int :=
  let len := bitLen m
  if len ≤ p then (m * 2 ^ (p - len), e - ((p - len : Nat) : Int))
  else
    let sh := len - p
    let q := m / 2 ^ sh
    let r := m % 2 ^ sh
    let half := 2 ^ (sh - 1)
    let q' := if half < r ∨ (r = half ∧ q % 2 = 1) then q + 1 else q
    if q' = 2 ^ p then (2 ^ (p - 1), e + sh + 1) else (q', e + sh)

/-- R109, R111: a result rounded to the type: subnormal after rounding gives zero of the same sign; a finite overflow gives the largest
finite value with SATF (`sat`) or infinity with FPOVF; a NaN gives the canonical NaN with FPINV. -/
def fpPut (sat : Bool) (t : ETy) (x : Fp) : Nat × Nat :=
  match x with
  | .nan => (fpNan t, flInv)
  | .inf s => (fpPattern t s 255 0, 0)
  | .fin s m e =>
    if m = 0 then (fpPattern t s 0 0, 0)
    else
      let r := roundMant t.prec m e
      let ex := r.2 + (t.prec : Int) - 1
      if ex < -126 then (fpPattern t s 0 0, 0)
      else if 127 < ex then
        if sat then (fpPattern t s 254 (2 ^ (t.prec - 1) - 1), flSat) else (fpPattern t s 255 0, flOvf)
      else (fpPattern t s (ex + 127).toNat (r.1 - 2 ^ (t.prec - 1)), 0)

/-- The signed mantissa at exponent `e0 ≤ e`. -/
def fpAlign (s : Bool) (m : Nat) (e e0 : Int) : Int :=
  let v : Int := (m * 2 ^ (e - e0).toNat : Nat)
  if s then -v else v

/-- The exact sum: ∞ − ∞ is a NaN; an exact zero is +0 unless both operands are −0. -/
def fpAdd (a b : Fp) : Fp :=
  match a, b with
  | .nan, _ => .nan
  | _, .nan => .nan
  | .inf s, .inf t => if s = t then .inf s else .nan
  | .inf s, .fin _ _ _ => .inf s
  | .fin _ _ _, .inf t => .inf t
  | .fin s m e, .fin t n f =>
    if m = 0 ∧ n = 0 then .fin (s && t) 0 0
    else if m = 0 then .fin t n f
    else if n = 0 then .fin s m e
    else
      let e0 := min e f
      let x := fpAlign s m e e0 + fpAlign t n f e0
      if x = 0 then .fin false 0 0 else .fin (decide (x < 0)) x.natAbs e0

/-- The operand with its sign changed. -/
def fpNeg : Fp → Fp
  | .nan => .nan
  | .inf s => .inf !s
  | .fin s m e => .fin (!s) m e

/-- The exact product: 0 × ∞ is a NaN. -/
def fpMul (a b : Fp) : Fp :=
  match a, b with
  | .nan, _ => .nan
  | _, .nan => .nan
  | .inf s, .inf t => .inf (xor s t)
  | .inf s, .fin t n _ => if n = 0 then .nan else .inf (xor s t)
  | .fin s m _, .inf t => if m = 0 then .nan else .inf (xor s t)
  | .fin s m e, .fin t n f => if m = 0 ∨ n = 0 then .fin (xor s t) 0 0 else .fin (xor s t) (m * n) (e + f)

/-- Whether the operand is a NaN. -/
def Fp.isNan : Fp → Bool
  | .nan => true
  | _ => false

/-- Whether the sign of the operand is negative. -/
def Fp.sign : Fp → Bool
  | .nan => false
  | .inf s => s
  | .fin s _ _ => s

/-- `a < b` for operands that are not NaNs; `zeroOrder` puts −0 below +0 (VMIN, VMAX). -/
def fpLt (zeroOrder : Bool) (a b : Fp) : Bool :=
  match a, b with
  | .nan, _ => false
  | _, .nan => false
  | .inf s, .inf t => s && !t
  | .inf s, .fin _ _ _ => s
  | .fin _ _ _, .inf t => !t
  | .fin s m e, .fin t n f =>
    if m = 0 ∧ n = 0 then zeroOrder && s && !t
    else
      let e0 := min e f
      decide (fpAlign s m e e0 < fpAlign t n f e0)

/-- R110, R111: a finite value rounded to an integer: ties toward +∞ natively, toward zero with ROUND_COMPAT (Table EDY-11). -/
def fpToInt (compat : Bool) (s : Bool) (m : Nat) (e : Int) : Int :=
  let v : Int := if s then -(m : Int) else m
  if 0 ≤ e then v * 2 ^ e.toNat
  else
    let d : Int := 2 ^ (-e).toNat
    if compat then (if s then -((m : Int) / d) else (m : Int) / d)
    else (2 * v + d) / (2 * d)

/-! ### One element of a vector operation -/

/-- Table EDY-8: one element of VADD to VMUL with R109 and R111. -/
def elemArith (op : VOp) (sat : Bool) (t : ETy) (a b : Nat) : Nat × Nat :=
  if t.isFp then
    let x := fpOf t a
    let y := fpOf t b
    match op with
    | .add => fpPut sat t (fpAdd x y)
    | .sub => fpPut sat t (fpAdd x (fpNeg y))
    | .mul => fpPut sat t (fpMul x y)
    | .min => fpPut sat t (if x.isNan || y.isNan then .nan else if fpLt true y x then y else x)
    | .max => fpPut sat t (if x.isNan || y.isNan then .nan else if fpLt true x y then y else x)
    | .abs => fpPut sat t (if x.sign then fpNeg x else x)
  else
    let x := t.toInt a
    let y := t.toInt b
    match op with
    | .add => narrow sat t (x + y)
    | .sub => narrow sat t (x - y)
    | .mul => narrow sat t (x * y)
    | .min => (bitsOf t.bits (min x y), 0)
    | .max => (bitsOf t.bits (max x y), 0)
    | .abs => narrow sat t (if x < 0 then -x else x)

/-- Whether the condition holds of two integers with their unsigned patterns. -/
def condHolds (c : Cond) (x y : Int) (ux uy : Nat) : Bool :=
  match c with
  | .eq => decide (x = y)
  | .ne => decide (x ≠ y)
  | .lt => decide (x < y)
  | .ge => decide (y ≤ x)
  | .ltu => decide (ux < uy)
  | .geu => decide (uy ≤ ux)

/-- Table EDY-8, R111: one element of VCMP: whether it holds, and the flags. -/
def elemCmp (t : ETy) (c : Cond) (a b : Nat) : Bool × Nat :=
  if t.isFp then
    let x := fpOf t a
    let y := fpOf t b
    if x.isNan || y.isNan then (decide (c = .ne), flInv)
    else
      let lt := fpLt false x y
      let gt := fpLt false y x
      match c with
      | .eq => (!lt && !gt, 0)
      | .ne => (lt || gt, 0)
      | .lt => (lt, 0)
      | .ge => (!lt, 0)
      | .ltu => (false, 0)
      | .geu => (false, 0)
  else (condHolds c (t.toInt a) (t.toInt b) a b, 0)

/-- Table EDY-8: one element of VSHL, VSHR or VSRA by the amount `k`. -/
def elemShift (op : VBit) (t : ETy) (a k : Nat) : Nat :=
  match op with
  | .shl => if t.bits ≤ k then 0 else a * 2 ^ k % 2 ^ t.bits
  | .sra => if t = .u8 then a / 2 ^ k else bitsOf t.bits (wrapS t.bits a / (2 ^ min k (t.bits - 1) : Int))
  | _ => a / 2 ^ k

/-- R111: one element of VCVT. -/
def elemCvt (sat compat : Bool) (src dst : ETy) (a : Nat) : Nat × Nat :=
  if src.isFp then
    if dst.isFp then fpPut sat dst (fpOf src a)
    else
      match fpOf src a with
      | .nan => (0, flInv)
      | .inf s => (bitsOf dst.bits (if s then dst.range.1 else dst.range.2), if sat then flSat else flWrap)
      | .fin s m e => narrow sat dst (fpToInt compat s m e)
  else if dst.isFp then
    let x := src.toInt a
    fpPut sat dst (.fin (decide (x < 0)) x.natAbs 0)
  else narrow sat dst (src.toInt a)

/-- R110, Table EDY-11: an accumulator lane rounded at shift `sh`. -/
def srsRound (compat : Bool) (a : Int) (sh : Nat) : Int :=
  if sh = 0 then a
  else if compat then a / (2 ^ sh : Int)
  else (a + 2 ^ (sh - 1)) / (2 ^ sh : Int)

/-- Element `i` of width `e` bits (R91). -/
def elemAt (e x i : Nat) : Nat := x / 2 ^ (e * i) % 2 ^ e

/-- The vector whose elements 0 … n − 1 are `f`. -/
def packElems (e : Nat) (f : Nat → Nat) : Nat → Nat
  | 0 => 0
  | n + 1 => packElems e f n + f n % 2 ^ e * 2 ^ (e * n)

/-- The union of the flags of elements 0 … n − 1. -/
def joinFlags (f : Nat → Nat) : Nat → Nat
  | 0 => 0
  | n + 1 => Nat.lor (joinFlags f n) (f n)

/-- The sum of f 0 … f (n − 1). -/
def sumInt (f : Nat → Int) : Nat → Int
  | 0 => 0
  | n + 1 => sumInt f n + f n

/-! ### Multiply-accumulate lanes (R106–R108) -/

/-- Table EDY-10: the lanes L. -/
def ETy.lanes (t : ETy) : Nat := if t = .fp32 then 16 else 32

/-- Table EDY-10: the products a lane P. -/
def ETy.products (t : ETy) : Nat :=
  match t with
  | .i8 => 4
  | .u8 => 4
  | .i16 => 2
  | _ => 1

/-- Table EDY-10: the range of g. -/
def ETy.groups (t : ETy) : Nat := if t = .bf16 then 32 else 16

/-- Table EDY-10: X is unsigned for uint8. -/
def ETy.xInt (t : ETy) (x : Nat) : Int := t.toInt x

/-- Table EDY-10: Y is signed for every integer type. -/
def ETy.yInt (t : ETy) (y : Nat) : Int := wrapS t.bits y

/-- R107: one lane: `base` is the lane's 48 bits, x and y the elements of its P products. -/
def macLane (sat : Bool) (t : ETy) (z neg : Bool) (base : Nat) (x y : Nat → Nat) : Nat × Nat :=
  if t.isFp then
    let p := fpMul (fpOf t (x 0)) (fpOf t (y 0))
    let q := if neg then fpNeg p else p
    fpPut sat .fp32 (if z then q else fpAdd (fpOf32 (base % 2 ^ 32)) q)
  else
    let d := sumInt (fun j => t.xInt (x j) * t.yInt (y j)) t.products
    let d' := if neg then -d else d
    narrowLane sat (if z then d' else wrapS 48 base + d')

end Sys2Proof.Machine
end

