-- ==== Sys2Proof/Machine/EddyDecode.lean ====
section
/-! DEFINITION. Decoding the four slot words of an Eddy bundle (R98, R104, R105), what each instruction writes, and the checks made on the
encoding whatever the guard (R100, R101, R121). -/

namespace Sys2Proof.Machine

/-- R104: the type codes; 0b110 and 0b111 are reserved. -/
def tyOf (t : Nat) : Option ETy :=
  match t with
  | 0 => some .i8
  | 1 => some .i16
  | 2 => some .i32
  | 3 => some .bf16
  | 4 => some .fp32
  | 5 => some .u8
  | _ => none

/-- R104: the condition codes; 0b110 and 0b111 are reserved. -/
def condOf (c : Nat) : Option Cond :=
  match c with
  | 0 => some .eq
  | 1 => some .ne
  | 2 => some .lt
  | 3 => some .ge
  | 4 => some .ltu
  | 5 => some .geu
  | _ => none

/-- The bits hi … lo of a slot word. -/
def slotBits (w hi lo : Nat) : Nat := w / 2 ^ lo % 2 ^ (hi - lo + 1)

/-- Table EDY-6: the operation of a register form, 0x01–0x0B. -/
def sopOf (op : Nat) : Option SOp :=
  match op with
  | 1 => some .add
  | 2 => some .sub
  | 3 => some .and
  | 4 => some .or
  | 5 => some .xor
  | 6 => some .shl
  | 7 => some .shr
  | 8 => some .sra
  | 9 => some .mul
  | 10 => some .min
  | 11 => some .max
  | _ => none

/-- Table EDY-6: whether the operation is marked saturating. -/
def SOp.saturates : SOp → Bool
  | .add => true
  | .sub => true
  | .mul => true
  | _ => false

/-- `some x` when the encoding holds, `none` (ILLEGAL_INSN) when it does not. -/
def whenB {α : Type} (b : Bool) (x : α) : Option α := if b then some x else none

/-- Table EDY-6: slot S; `none` is ILLEGAL_INSN (R105). -/
def decodeS (w : Nat) : Option SInsn :=
  let op := slotBits w 28 23
  let sat := bitAt w 22
  let sd := slotBits w 21 18
  let sa := slotBits w 17 14
  if op = 0x00 then whenB (w % 2 ^ 23 = 0) .nop
  else if op ≤ 0x0B then
    match sopOf op with
    | some o => whenB ((!sat || o.saturates) && slotBits w 9 0 = 0) (.alu o sat sd sa (slotBits w 13 10))
    | none => none
  else if op = 0x11 then some (.aluImm .add sat sd sa (wrapS 14 (slotBits w 13 0)))
  else if 0x13 ≤ op ∧ op ≤ 0x18 then
    match sopOf (op - 0x10) with
    | some o => whenB (!sat) (.aluImm o false sd sa (wrapS 14 (slotBits w 13 0)))
    | none => none
  else if sat then none
  else if op = 0x20 then whenB (slotBits w 17 16 = 0) (.movi sd (wrapS 16 (slotBits w 15 0)))
  else if op = 0x21 then whenB (slotBits w 17 16 = 0) (.movhi sd (slotBits w 15 0))
  else if op = 0x24 then
    match condOf (slotBits w 18 16) with
    | some c =>
      if bitAt w 11 then some (.cmpImm (slotBits w 21 19) c (slotBits w 15 12) (wrapS 11 (slotBits w 10 0)))
      else whenB (slotBits w 10 4 = 0) (.cmp (slotBits w 21 19) c (slotBits w 15 12) (slotBits w 3 0))
    | none => none
  else if op = 0x25 then
    whenB (slotBits w 10 0 = 0) (.plog (slotBits w 21 19) (slotBits w 18 16) (slotBits w 15 13) (slotBits w 12 11))
  else if op = 0x30 then whenB (slotBits w 21 11 = 0) (.br (slotBits w 10 0))
  else if op = 0x32 then whenB (slotBits w 21 11 = 0) (.call (slotBits w 10 0))
  else if op = 0x34 then whenB (slotBits w 21 11 = 0) (.loop (slotBits w 10 0))
  else if slotBits w 13 8 ≠ 0 then none
  else
    let idx := slotBits w 17 14
    let code := slotBits w 7 0
    if op = 0x28 then whenB (decide (idx < 8)) (.movc sd idx)
    else if op = 0x29 then whenB (decide (idx < 8 ∧ idx ≠ 4 ∧ idx ≠ 5 ∧ idx ≠ 6)) (.movtc sd idx)
    else if op = 0x31 then some (.brr sd)
    else if op = 0x35 then whenB (decide (code < 5)) (.lock code)
    else if op = 0x36 then some .unlock
    else if op = 0x3A then some .fence
    else if op = 0x3E then some (.trap code)
    else if op = 0x3F then some .done
    else none

/-- Table EDY-7: the access size in bytes. -/
def LOp.size : LOp → Nat
  | .ld => 4
  | .st => 4
  | .vldb => 4
  | .vld => 64
  | .vst => 64
  | .vldp => 128
  | .vstp => 128

/-- Whether the access is a store. -/
def LOp.isStore : LOp → Bool
  | .st => true
  | .vst => true
  | .vstp => true
  | _ => false

/-- Table EDY-7: the memory access of an opcode. -/
def lopOf (op : Nat) : Option LOp :=
  match op with
  | 1 => some .ld
  | 2 => some .st
  | 3 => some .vld
  | 4 => some .vst
  | 5 => some .vldp
  | 6 => some .vstp
  | 7 => some .vldb
  | _ => none

/-- Table EDY-7: slot L. LD with PI = 1 and rd equal to the base writes one register twice (R100). -/
def decodeL (w : Nat) : Option LInsn :=
  let op := slotBits w 28 23
  let rd := slotBits w 21 17
  let base := slotBits w 16 13
  let pi := bitAt w 12
  let off := slotBits w 11 0
  if op = 0x00 then whenB (w % 2 ^ 23 = 0) .nop
  else if bitAt w 22 then none
  else
    match lopOf op with
    | some o =>
      let scalar := decide (o = .ld ∨ o = .st)
      let pair := decide (o = .vldp ∨ o = .vstp)
      whenB ((!scalar || decide (rd < 16)) && (!pair || rd % 2 = 0) && !(decide (o = .ld) && pi && decide (rd = base)))
        (.mem o rd base pi (wrapS 12 off))
    | none =>
      if op = 0x10 then whenB (base = 0 && !pi && decide (off < 2)) (.sget rd off)
      else if op = 0x11 then whenB (base = 0 && !pi && decide (off < 2)) (.sput rd off)
      else if op = 0x18 then whenB (rd = 0 && !pi && off = 0) (.xreq base)
      else if op = 0x19 then whenB (rd = 0 && base = 0 && !pi && decide (off < 64)) (.xwait off)
      else none

/-- Table EDY-8: the elementwise operation of an opcode 0x01–0x06. -/
def vopOf (op : Nat) : Option VOp :=
  match op with
  | 1 => some .add
  | 2 => some .sub
  | 3 => some .min
  | 4 => some .max
  | 5 => some .abs
  | 6 => some .mul
  | _ => none

/-- Table EDY-8: whether the operation is marked saturating. -/
def VOp.saturates : VOp → Bool
  | .min => false
  | .max => false
  | _ => true

/-- Table EDY-8: the bitwise operation (0x07–0x09) or shift (0x0A–0x0C) of an opcode. -/
def vbitOf (op : Nat) : Option VBit :=
  match op with
  | 7 => some .and
  | 8 => some .or
  | 9 => some .xor
  | 10 => some .shl
  | 11 => some .shr
  | 12 => some .sra
  | _ => none

/-- Table EDY-8: slot V in the VR and VA formats. -/
def decodeV (w : Nat) : Option VInsn :=
  let op := slotBits w 28 23
  let sat := bitAt w 22
  let vd := slotBits w 21 17
  let va := slotBits w 16 12
  let vb := slotBits w 11 7
  let f := slotBits w 3 0
  let t0 := slotBits w 6 4
  if op = 0x00 then whenB (w % 2 ^ 23 = 0) .nop
  else
    match tyOf t0 with
    | none => none
    | some ty =>
      match vopOf op, vbitOf op with
      | some o, _ =>
        whenB ((!sat || o.saturates) && (decide (o ≠ .abs) || (vb = 0 && decide (ty ≠ .u8)))) (.arith o sat ty vd va vb)
      | none, some b =>
        if op ≤ 9 then whenB (!sat && t0 = 0) (.logic b vd va vb)
        else whenB (!sat && !ty.isFp) (.shift b ty vd va vb)
      | none, none =>
        if op = 0x18 then
          let sh := slotBits w 14 9
          whenB (slotBits w 8 7 = 0 && slotBits w 2 0 = 0 && decide (ty ≠ .u8) && decide (sh ≤ 47) && (!ty.isFp || sh = 0))
            (.srs sat ty vd (slotBits w 16 15) sh (bitAt w 3))
        else if op = 0x1A then
          match tyOf (f % 8) with
          | some d => whenB (decide (d ≠ ty) && vb = 0) (.cvt sat ty d (bitAt f 3) vd va)
          | none => none
        else if sat then none
        else if op = 0x10 then
          match condOf (f % 8) with
          | some c => whenB (!ty.isFp || decide (c ≠ .ltu ∧ c ≠ .geu)) (.cmp ty c vd va vb)
          | none => none
        else if op = 0x11 then some (.sel ty vd va vb)
        else if op = 0x14 then whenB (decide (va < 16)) (.bcst ty vd va)
        else if op = 0x15 then whenB (t0 = 0) (.mov vd va)
        else if op = 0x16 then whenB (va % 2 = 0) (.ext ty vd va (vb + 32 * (f % 2)))
        else if op = 0x17 then
          whenB (decide (vd < 16) && decide (vb + 32 * (f % 2) < ty.count)) (.movs ty vd va (vb + 32 * (f % 2)))
        else if op = 0x19 then
          whenB (slotBits w 8 7 = 0 && slotBits w 2 0 = 0 && slotBits w 14 9 = 0) (.mova ty (slotBits w 16 15) vd (bitAt w 3))
        else if op = 0x1C then whenB (t0 = 0 && vd = 0 && vb = 0 && va % 2 = 0) (.twld va)
        else if op = 0x1D then whenB (t0 = 0 && va = 0 && vb = 0 && vd % 2 = 0) (.twst vd)
        else none

/-- Table EDY-10: the types a multiply-accumulate accepts. -/
def ETy.macOk (t : ETy) : Bool := decide (t ≠ .i32)

/-- Table EDY-10: whether X is a register pair. -/
def ETy.macPair (t : ETy) : Bool := !t.isFp

/-- Table EDY-9: slot M. -/
def decodeM (w : Nat) : Option MInsn :=
  let op := slotBits w 28 23
  let sat := bitAt w 22
  let acc := slotBits w 21 20
  let x := slotBits w 19 15
  let y := slotBits w 14 10
  let g := slotBits w 9 5
  let t0 := slotBits w 4 2
  let z := bitAt w 1
  let n := bitAt w 0
  if op = 0x00 then whenB (w % 2 ^ 23 = 0) .nop
  else
    match tyOf t0 with
    | none => none
    | some ty =>
      if op = 0x01 then
        whenB (ty.macOk && decide (g < ty.groups) && (!ty.macPair || x % 2 = 0)) (.mac true sat ty acc x y g z n)
      else if op = 0x02 then
        whenB (ty.macOk && g = 0 && (!ty.macPair || (x % 2 = 0 && y % 2 = 0))) (.mac false sat ty acc x y 0 z n)
      else if op = 0x03 then
        whenB (ty.macOk && decide (g < ty.groups) && (bitAt w 15 || slotBits w 19 16 = 0))
          (.ftap sat ty acc (slotBits w 19 16) (bitAt w 15) y g z n)
      else if slotBits w 17 5 ≠ 0 ∨ n then none
      else
        let as := slotBits w 19 18
        if op = 0x04 then whenB (!sat && t0 = 0 && as = 0) (.aclr acc)
        else if op = 0x05 then whenB (decide (ty = .i32 ∨ ty = .fp32)) (.aadd sat ty acc as z)
        else if op = 0x06 then whenB (!sat && t0 = 0 && as = 0) (.asend acc)
        else if op = 0x07 then whenB (decide (ty = .i32 ∨ ty = .fp32) && as = 0) (.arecv sat ty acc z)
        else none

/-- The four slot words of a bundle, slot S first (Table EDY-3). -/
def slotWord (b : BitVec 128) (k : Nat) : Nat := b.toNat / 2 ^ (32 * k) % 2 ^ 32

/-- The guard field QP of a slot word (R104). -/
def slotQp (w : Nat) : Nat := slotBits w 31 29

/-! ### What each instruction writes (R100) -/

/-- The scalar registers an instruction writes, post-incremented bases and s15 of CALL included. -/
def SInsn.dstS : SInsn → List Nat
  | .alu _ _ sd _ _ => [sd]
  | .aluImm _ _ sd _ _ => [sd]
  | .movi sd _ => [sd]
  | .movhi sd _ => [sd]
  | .movc s _ => [s]
  | .call _ => [15]
  | _ => []

/-- The scalar registers slot L writes. -/
def LInsn.dstS : LInsn → List Nat
  | .mem o rd base pi _ => (if o = .ld then [rd] else []) ++ (if pi then [base] else [])
  | _ => []

/-- The vector registers slot L writes, a pair as both. -/
def LInsn.dstV : LInsn → List Nat
  | .mem .vld rd _ _ _ => [rd]
  | .mem .vldb rd _ _ _ => [rd]
  | .mem .vldp rd _ _ _ => [rd, rd + 1]
  | .sget vd _ => [vd]
  | _ => []

/-- The scalar register slot V writes: a VMOVS destination. -/
def VInsn.dstS : VInsn → List Nat
  | .movs _ sd _ _ => [sd]
  | _ => []

/-- The vector registers slot V writes, a pair as both. -/
def VInsn.dstV : VInsn → List Nat
  | .arith _ _ _ vd _ _ => [vd]
  | .logic _ vd _ _ => [vd]
  | .shift _ _ vd _ _ => [vd]
  | .cmp _ _ vd _ _ => [vd]
  | .sel _ vd _ _ => [vd]
  | .bcst _ vd _ => [vd]
  | .mov vd _ => [vd]
  | .ext _ vd _ _ => [vd]
  | .srs _ _ vd _ _ _ => [vd]
  | .cvt _ _ _ _ vd _ => [vd]
  | .twst vd => [vd, vd + 1]
  | _ => []

/-- The accumulator slot V writes. -/
def VInsn.dstAcc : VInsn → List Nat
  | .mova _ acc _ _ => [acc]
  | _ => []

/-- The accumulator slot M writes. -/
def MInsn.dstAcc : MInsn → List Nat
  | .mac _ _ _ acc _ _ _ _ _ => [acc]
  | .ftap _ _ acc _ _ _ _ _ _ => [acc]
  | .aclr acc => [acc]
  | .aadd _ _ acc _ _ => [acc]
  | .arecv _ _ acc _ => [acc]
  | _ => []

/-- Whether two lists share an element. -/
def meets (a b : List Nat) : Bool := a.any (fun x => b.contains x)

/-- A decoded bundle. -/
structure Bundle where
  s : SInsn
  l : LInsn
  v : VInsn
  m : MInsn
  deriving DecidableEq, Repr

/-- R100: two slots name the same destination. -/
def Bundle.clash (b : Bundle) : Bool :=
  meets b.s.dstS b.l.dstS || meets b.s.dstS b.v.dstS || meets b.l.dstS b.v.dstS || meets b.l.dstV b.v.dstV
    || meets b.v.dstAcc b.m.dstAcc
    || (match b.v, b.m with
        | .twld _, .ftap _ _ _ _ true _ _ _ _ => true
        | _, _ => false)

/-- R121: whether an instruction other than an access is forbidden while a lock is held. -/
def SInsn.noLock : SInsn → Bool
  | .br _ => true
  | .brr _ => true
  | .call _ => true
  | .loop _ => true
  | .lock _ => true
  | .done => true
  | _ => false

/-- R121: the stream and transfer instructions forbidden while a lock is held. -/
def LInsn.noLock : LInsn → Bool
  | .sget _ _ => true
  | .sput _ _ => true
  | .xreq _ => true
  | .xwait _ => true
  | _ => false

/-- R121: the cascade instructions forbidden while a lock is held. -/
def MInsn.noLock : MInsn → Bool
  | .asend _ => true
  | .arecv _ _ _ _ => true
  | _ => false

/-- A slot's instruction, a NOP where it does not decode. -/
def slotOr {α : Type} (d : α) (o : Option α) : α := o.getD d

/-- The bundle with a NOP in every slot that does not decode. -/
def decodeBundle (b : BitVec 128) : Bundle :=
  ⟨slotOr .nop (decodeS (slotWord b 0)), slotOr .nop (decodeL (slotWord b 1)), slotOr .nop (decodeV (slotWord b 2)),
    slotOr .nop (decodeM (slotWord b 3))⟩

/-- The lowest slot whose word does not decode (ILLEGAL_INSN, R105). -/
def illegalSlot (b : BitVec 128) : Option Nat :=
  if (decodeS (slotWord b 0)).isNone then some 0
  else if (decodeL (slotWord b 1)).isNone then some 1
  else if (decodeV (slotWord b 2)).isNone then some 2
  else if (decodeM (slotWord b 3)).isNone then some 3
  else none

end Sys2Proof.Machine
end

