-- ==== Sys2Proof/Machine/EddyExec.lean ====
section
/-! DEFINITION. Issuing one Eddy bundle: registers and rotation (R91–R97), the interlock (R102), exceptions (R124), what each slot does
(Tables EDY-6 to EDY-9), and the cycle an engine spends (R138, R134). Everything here is on the engines alone, keyed by EDDY_n. -/

namespace Sys2Proof.Machine

/-- Engine `n`. -/
def eddyAt (es : SMap Eddy) (n : Nat) : Eddy := smGet Eddy.reset es n

/-- The engines with engine `n` replaced. -/
def eddyPut (es : SMap Eddy) (n : Nat) (e : Eddy) : SMap Eddy := smSet Eddy.reset es n e

/-! ### Registers -/

/-- R96: the physical vector register of a logical one. -/
def vPhys (rrb r : Nat) : Nat := if r < 16 then r else 16 + (r - 16 + rrb) % 16

/-- R96: the physical predicate of a logical one. -/
def pPhys (rrb k : Nat) : Nat := if k < 4 then k else 4 + (k - 4 + rrb) % 4

/-- Scalar register `r` as a number. -/
def EddyRegs.getS (g : EddyRegs) (r : Nat) : Nat := (smGet (0 : BitVec 32) g.s r).toNat

/-- The registers with scalar register `r` written. -/
def EddyRegs.setS (g : EddyRegs) (r v : Nat) : EddyRegs := { g with s := smSet 0 g.s r (BitVec.ofNat 32 v) }

/-- Logical vector register `r` as a number. -/
def EddyRegs.getV (g : EddyRegs) (r : Nat) : Nat := (smGet (0 : BitVec 512) g.v (vPhys g.rrb r)).toNat

/-- The registers with physical vector register `r` written. -/
def EddyRegs.putV (g : EddyRegs) (r v : Nat) : EddyRegs := { g with v := smSet 0 g.v r (BitVec.ofNat 512 v) }

/-- R91: a register pair as one number of 1 024 bits. -/
def EddyRegs.getPair (g : EddyRegs) (r : Nat) : Nat := g.getV r + g.getV (r + 1) * 2 ^ 512

/-- R92: logical predicate `k`; p0 reads 1. -/
def EddyRegs.getP (g : EddyRegs) (k : Nat) : Bool := k = 0 || bitAt g.p.toNat (pPhys g.rrb k)

/-- The registers with physical predicate `k` written; a write to p0 has no effect. -/
def EddyRegs.putP (g : EddyRegs) (k : Nat) (b : Bool) : EddyRegs :=
  if k = 0 then g else { g with p := BitVec.ofNat 8 (putBits g.p.toNat k 1 (b2n b)) }

/-- Accumulator `a` as a number of 32 × 48 bits. -/
def EddyRegs.getAcc (g : EddyRegs) (a : Nat) : Nat := (smGet (0 : BitVec 1536) g.acc a).toNat

/-- The registers with accumulator `a` written. -/
def EddyRegs.setAcc (g : EddyRegs) (a v : Nat) : EddyRegs := { g with acc := smSet 0 g.acc a (BitVec.ofNat 1536 v) }

/-- The registers with the sticky flags of ESTAT joined. -/
def EddyRegs.flag (g : EddyRegs) (f : Nat) : EddyRegs := { g with estat := g.estat ||| BitVec.ofNat 4 f }

/-- c7: PRED, bit k the logical pk (Table EDY-2). -/
def EddyRegs.pred (g : EddyRegs) : Nat :=
  packElems 1 (fun k => b2n (g.getP k)) 8

/-- The registers with logical predicates 1 … n − 1 taken from the bits of `v`. -/
def EddyRegs.setPred (g : EddyRegs) (v : Nat) : Nat → EddyRegs
  | 0 => g
  | n + 1 => (EddyRegs.setPred g v n).putP (pPhys g.rrb n) (bitAt v n)

/-! ### Neighbours (R90, R112, R113) -/

/-- The engine whose data memory region `r` of engine `n` names, if R90 says it exists. -/
def regionEngine (n r : Nat) : Option Nat :=
  let er := n % 64 / 8
  let ec := n % 8
  match r with
  | 0 => some n
  | 1 => if 0 < ec then some (n - 1) else none
  | 2 => if ec < 7 then some (n + 1) else none
  | 3 => if 0 < er then some (n - 8) else none
  | 4 => if er < 7 then some (n + 8) else none
  | _ => none

/-- Whether engines `a` and `b` belong to one stall. -/
def sameStall (es : SMap Eddy) (a b : Nat) : Bool :=
  (eddyAt es a).owner.isSome && decide ((eddyAt es a).owner = (eddyAt es b).owner)

/-! ### Exceptions -/

/-- An exception: CAUSE (Table EDY-13), the slot where the spec gives one, and EDDY_EXC_INFO. -/
structure Exc where
  cause : Nat
  slot : Option Nat
  info : Nat
  deriving DecidableEq, Repr

/-- What the engine's memories met when a bundle issued: for each data memory, the number of words corrected (R116). -/
abbrev Corrections := List (Nat × Nat)

/-- The bits upsets have flipped in 64-bit word `w` of the data memory of engine `m`. -/
def upsetOf (env : List (Nat × Nat × Nat)) (m w : Nat) : Nat :=
  match env with
  | [] => 0
  | (m', w', mask) :: rest => if m' = m ∧ w' = w then mask else upsetOf rest m w

/-- Whether any of the `k` 64-bit words from `w` holds a double-bit error. -/
def anyDouble (env : List (Nat × Nat × Nat)) (m w : Nat) : Nat → Bool
  | 0 => false
  | k + 1 => decide (2 ≤ popCount 64 (upsetOf env m (w + k))) || anyDouble env m w k

/-- How many of the `k` 64-bit words from `w` hold a single-bit error. -/
def countSingle (env : List (Nat × Nat × Nat)) (m w : Nat) : Nat → Nat
  | 0 => 0
  | k + 1 => b2n (decide (popCount 64 (upsetOf env m (w + k)) = 1)) + countSingle env m w k

/-- R116: the errors in the bits of a 64-bit word outside its 32-bit half `h`. -/
def otherHalf (mask h : Nat) : Nat := if h % 2 = 0 then mask / 2 ^ 32 else mask % 2 ^ 32

/-- Table EDY-7: the data address of an access: base alone when PI = 1, base plus the scaled offset otherwise. -/
def accessAddr (g : EddyRegs) (op : LOp) (base : Nat) (pi : Bool) (off : Int) : Nat :=
  if pi then g.getS base else bitsOf 32 ((g.getS base : Int) + off * op.size)

/-- R112, R113, R116: the exception of an access of slot L at address `a`. (DEDUCED, assumption 44) -/
def accessExc (es : SMap Eddy) (n : Nat) (env : IssueEnv) (op : LOp) (a : Nat) : Option Exc :=
  if a % op.size ≠ 0 ∨ 2 ^ 20 ≤ a then some ⟨3, some 1, a % 2 ^ 20⟩
  else
    match regionEngine n (a / 2 ^ 17) with
    | none => some ⟨4, some 1, a⟩
    | some m =>
      if m ≠ n ∧ !sameStall es n m then some ⟨5, some 1, a⟩
      else
        let w := a % 2 ^ 17 / 8
        let bad :=
          match op with
          | .st => decide (2 ≤ popCount 32 (otherHalf (upsetOf env.upsets m w) (a / 4)))
          | .vst => false
          | .vstp => false
          | _ => anyDouble env.upsets m w ((op.size + 7) / 8)
        if bad then some ⟨9, some 1, a⟩ else none

/-- R118: whether the cascade between engine `n` and its neighbour at region `r` is refused. -/
def cascRefused (es : SMap Eddy) (n r : Nat) : Bool :=
  match regionEngine n r with
  | none => true
  | some m => !sameStall es n m

/-- R119, R105: the exception of a LOCK of region `r` whose guard holds. -/
def lockExc (es : SMap Eddy) (n r : Nat) : Option Exc :=
  match regionEngine n r with
  | none => some ⟨4, some 0, r⟩
  | some m => if m ≠ n ∧ !sameStall es n m then some ⟨5, some 0, r⟩ else none

/-- Whether R121 applies: a lock is held and the LOCK that took it has issued. -/
def Eddy.inLock (e : Eddy) : Bool := e.issue.held.isSome && e.issue.lockReq.isNone

/-- R121: LOCK_ILLEGAL of an access to a region other than the locked one. -/
def lockedElsewhere (e : Eddy) (n a : Nat) : Bool :=
  e.inLock && decide (regionEngine n (a / 2 ^ 17 % 8) ≠ e.issue.held)

/-- The guard of slot `k` (R101). -/
def guardOf (g : EddyRegs) (b : BitVec 128) (k : Nat) : Bool := g.getP (slotQp (slotWord b k))

/-- The exception slot S raises. -/
def excS (es : SMap Eddy) (n : Nat) (b : BitVec 128) : Option Exc :=
  let e := eddyAt es n
  let w := slotWord b 0
  match decodeS w with
  | none => some ⟨1, some 0, w⟩
  | some i =>
    if e.inLock && i.noLock then some ⟨7, some 0, w⟩
    else if guardOf e.regs b 0 then
      match i with
      | .trap code => some ⟨0x0B, some 0, code⟩
      | .lock r => lockExc es n r
      | _ => none
    else none

/-- The exception slot L raises. (DEDUCED, assumption 44) -/
def excL (es : SMap Eddy) (n : Nat) (env : IssueEnv) (b : BitVec 128) : Option Exc :=
  let e := eddyAt es n
  let w := slotWord b 1
  match decodeL w with
  | none => some ⟨1, some 1, w⟩
  | some i =>
    if e.inLock && i.noLock then some ⟨7, some 1, w⟩
    else
      match i with
      | .mem op _ base pi off =>
        let a := accessAddr e.regs op base pi off
        if lockedElsewhere e n a then some ⟨7, some 1, w⟩
        else if guardOf e.regs b 1 then accessExc es n env op a
        else none
      | .xreq base =>
        let a := e.regs.getS base
        if guardOf e.regs b 1 ∧ (a % 32 ≠ 0 ∨ 2 ^ 17 ≤ a) then some ⟨3, some 1, a % 2 ^ 20⟩ else none
      | _ => none

/-- The exception slot V raises. -/
def excV (b : BitVec 128) : Option Exc :=
  if (decodeV (slotWord b 2)).isNone then some ⟨1, some 2, slotWord b 2⟩ else none

/-- The exception slot M raises. -/
def excM (es : SMap Eddy) (n : Nat) (b : BitVec 128) : Option Exc :=
  let e := eddyAt es n
  let w := slotWord b 3
  match decodeM w with
  | none => some ⟨1, some 3, w⟩
  | some i =>
    if e.inLock && i.noLock then some ⟨7, some 3, w⟩
    else if guardOf e.regs b 3 then
      match i with
      | .asend _ => if cascRefused es n 2 then some ⟨6, some 3, 0⟩ else none
      | .arecv _ _ _ _ => if cascRefused es n 1 then some ⟨6, some 3, 1⟩ else none
      | _ => none
    else none

/-- The first of a list of candidates. -/
def firstSome {α : Type} : List (Option α) → Option α
  | [] => none
  | some a :: _ => some a
  | none :: l => firstSome l

/-- R124: the exception of the bundle due: PMEM_UNCORR, then ILLEGAL_BUNDLE, then the lowest slot. (DEDUCED, assumption 36) -/
def bundleExc (es : SMap Eddy) (n : Nat) (env : IssueEnv) (b : BitVec 128) : Option Exc :=
  if 2 ≤ env.pmemErr then some ⟨0x0A, some 0, (eddyAt es n).pc⟩
  else if (decodeBundle b).clash then some ⟨2, some 0, 0⟩
  else firstSome [excS es n b, excL es n env b, excV b, excM es n b]

/-! ### The interlock (R102, Table EDY-4)

Resources are keyed: scalar r is r, physical vector r is 100 + r, physical predicate k is 200 + k, accumulator a is 300 + a for slot M and
310 + a for VSRS and ASEND, the tap window 320 for FTAP and 321 for TWST. -/

/-- The keys slot S reads and writes. -/
def usesS (rrb : Nat) : SInsn → List Nat
  | .alu _ _ sd sa sb => [sd, sa, sb]
  | .aluImm _ _ sd sa _ => [sd, sa]
  | .movi sd _ => [sd]
  | .movhi sd _ => [sd]
  | .cmp pd _ sa sb => [200 + pPhys rrb pd, sa, sb]
  | .cmpImm pd _ sa _ => [200 + pPhys rrb pd, sa]
  | .plog pd pa pb _ => [200 + pPhys rrb pd, 200 + pPhys rrb pa, 200 + pPhys rrb pb]
  | .movc s _ => [s]
  | .movtc s _ => [s]
  | .brr s => [s]
  | .call _ => [15]
  | _ => []

/-- The keys slot L reads and writes. -/
def usesL (rrb : Nat) : LInsn → List Nat
  | .mem op rd base _ _ =>
    base :: (match op with
      | .ld => [rd]
      | .st => [rd]
      | .vldp => [100 + vPhys rrb rd, 100 + vPhys rrb (rd + 1)]
      | .vstp => [100 + vPhys rrb rd, 100 + vPhys rrb (rd + 1)]
      | _ => [100 + vPhys rrb rd])
  | .sget vd _ => [100 + vPhys rrb vd]
  | .sput vd _ => [100 + vPhys rrb vd]
  | .xreq base => [base]
  | _ => []

/-- The keys slot V reads and writes. -/
def usesV (rrb : Nat) : VInsn → List Nat
  | .arith _ _ _ vd va vb => [100 + vPhys rrb vd, 100 + vPhys rrb va, 100 + vPhys rrb vb]
  | .logic _ vd va vb => [100 + vPhys rrb vd, 100 + vPhys rrb va, 100 + vPhys rrb vb]
  | .shift _ _ vd va _ => [100 + vPhys rrb vd, 100 + vPhys rrb va]
  | .cmp _ _ vd va vb => [100 + vPhys rrb vd, 100 + vPhys rrb va, 100 + vPhys rrb vb]
  | .sel _ vd va vb => [100 + vPhys rrb vd, 100 + vPhys rrb va, 100 + vPhys rrb vb]
  | .bcst _ vd s => [100 + vPhys rrb vd, s]
  | .mov vd va => [100 + vPhys rrb vd, 100 + vPhys rrb va]
  | .ext _ vd va _ => [100 + vPhys rrb vd, 100 + vPhys rrb va, 100 + vPhys rrb (va + 1)]
  | .movs _ sd va _ => [sd, 100 + vPhys rrb va]
  | .srs _ _ vd acc _ _ => [100 + vPhys rrb vd, 310 + acc]
  | .mova _ acc va _ => [300 + acc, 310 + acc, 100 + vPhys rrb va]
  | .cvt _ _ _ _ vd va => [100 + vPhys rrb vd, 100 + vPhys rrb va]
  | .twld va => [320, 321, 100 + vPhys rrb va, 100 + vPhys rrb (va + 1)]
  | .twst vd => [321, 100 + vPhys rrb vd, 100 + vPhys rrb (vd + 1)]
  | .nop => []

/-- The keys slot M reads and writes. -/
def usesM (rrb : Nat) : MInsn → List Nat
  | .mac bc _ ty acc vx vy _ _ _ =>
    [300 + acc, 100 + vPhys rrb vx, 100 + vPhys rrb vy]
      ++ (if ty.macPair then (100 + vPhys rrb (vx + 1)) :: (if bc then [] else [100 + vPhys rrb (vy + 1)]) else [])
  | .ftap _ _ acc ss mv vc _ _ _ => [300 + acc, 320, 100 + vPhys rrb vc] ++ (if mv then [ss] else [])
  | .aclr acc => [300 + acc]
  | .aadd _ _ acc as _ => [300 + acc, 300 + as]
  | .asend acc => [310 + acc]
  | .arecv _ _ acc _ => [300 + acc]
  | .nop => []

/-- Every register the bundle reads or writes, its guards included. -/
def Bundle.uses (b : Bundle) (rrb : Nat) (word : BitVec 128) : List Nat :=
  usesS rrb b.s ++ usesL rrb b.l ++ usesV rrb b.v ++ usesM rrb b.m
    ++ [200 + pPhys rrb (slotQp (slotWord word 0)), 200 + pPhys rrb (slotQp (slotWord word 1)),
        200 + pPhys rrb (slotQp (slotWord word 2)), 200 + pPhys rrb (slotQp (slotWord word 3))]

/-- R102: every one of the keys is ready at cycle `now`. -/
def allReady (ready : SMap Nat) (now : Nat) (keys : List Nat) : Bool :=
  keys.all (fun k => decide (smGet 0 ready k ≤ now))

/-- The results of slot S with their latencies. -/
def latS (rrb : Nat) : SInsn → List (Nat × Nat)
  | .alu op _ sd _ _ => [(sd, if op = .mul then 3 else 1)]
  | .cmp pd _ _ _ => [(200 + pPhys rrb pd, 1)]
  | .cmpImm pd _ _ _ => [(200 + pPhys rrb pd, 1)]
  | .plog pd _ _ _ => [(200 + pPhys rrb pd, 1)]
  | i => i.dstS.map (fun r => (r, 1))

/-- The results of slot L with their latencies; `far` says that the access is to a neighbour. (DEDUCED, assumption 42) -/
def latL (rrb : Nat) (far : Bool) : LInsn → List (Nat × Nat)
  | .mem op rd base pi off =>
    let n := if far then 6 else 4
    (if pi then [(base, 1)] else []) ++ (if op = .ld then [(rd, n)] else [])
      ++ (LInsn.mem op rd base pi off).dstV.map (fun r => (100 + vPhys rrb r, n))
  | i => i.dstV.map (fun r => (100 + vPhys rrb r, 2))

/-- The results of slot V with their latencies. -/
def latV (rrb : Nat) (i : VInsn) : List (Nat × Nat) :=
  match i with
  | .movs _ sd _ _ => [(sd, 2)]
  | .mova _ acc _ _ => [(300 + acc, 3), (310 + acc, 3)]
  | .twld _ => [(320, 2), (321, 2)]
  | .arith .mul _ _ vd _ _ => [(100 + vPhys rrb vd, 3)]
  | .cvt _ _ _ _ vd _ => [(100 + vPhys rrb vd, 3)]
  | .srs _ _ vd _ _ _ => [(100 + vPhys rrb vd, 3)]
  | i => i.dstV.map (fun r => (100 + vPhys rrb r, 2))

/-- The results of slot M with their latencies. (DEDUCED, assumption 42) -/
def latM : MInsn → List (Nat × Nat)
  | .mac _ _ ty acc _ _ _ _ _ => [(300 + acc, if ty.isFp then 2 else 1), (310 + acc, 4)]
  | .ftap _ ty acc _ mv _ _ _ _ =>
    [(300 + acc, if ty.isFp then 2 else 1), (310 + acc, 4)] ++ (if mv then [(320, 1), (321, 1)] else [])
  | .aclr acc => [(300 + acc, 1), (310 + acc, 4)]
  | .aadd _ ty acc _ _ => [(300 + acc, if ty.isFp then 2 else 1), (310 + acc, 4)]
  | .arecv _ ty acc _ => [(300 + acc, if ty.isFp then 2 else 1), (310 + acc, 4)]
  | _ => []

/-- The ready times after results with the given latencies issue at cycle `now`. (DEDUCED, assumption 39) -/
def setReady (now : Nat) (ready : SMap Nat) (l : List (Nat × Nat)) : SMap Nat :=
  l.foldl (fun m (k, d) => smSet 0 m k (now + d)) ready

/-! ### Slot S -/

/-- Table EDY-6: the scalar result with its flags. -/
def scalarOp (op : SOp) (sat : Bool) (a b : Nat) : Nat × Nat :=
  let x := wrapS 32 a
  let y := wrapS 32 b
  match op with
  | .add => narrow sat .i32 (x + y)
  | .sub => narrow sat .i32 (x - y)
  | .mul => narrow sat .i32 (x * y)
  | .and => (Nat.land a b, 0)
  | .or => (Nat.lor a b, 0)
  | .xor => (Nat.xor a b, 0)
  | .shl => (a * 2 ^ (b % 32) % 2 ^ 32, 0)
  | .shr => (a / 2 ^ (b % 32), 0)
  | .sra => (bitsOf 32 (x / (2 ^ (b % 32) : Int)), 0)
  | .min => (bitsOf 32 (min x y), 0)
  | .max => (bitsOf 32 (max x y), 0)

/-- PLOG's f field. -/
def plogOp (f : Nat) (a b : Bool) : Bool :=
  match f with
  | 0 => a && b
  | 1 => a || b
  | 2 => xor a b
  | _ => a && !b

/-- Table EDY-2: the value of control register `idx`. -/
def readControl (n : Nat) (e : Eddy) (idx : Nat) : Nat :=
  match idx with
  | 0 => e.regs.estat.toNat
  | 1 => e.regs.lc.toNat
  | 2 => e.regs.ec.toNat
  | 3 => e.regs.rrb
  | 4 => n
  | 5 => e.regs.cycle.toNat
  | 6 => b2n e.issue.compat
  | _ => e.regs.pred

/-- Table EDY-2: a write of a control register. (DEDUCED, assumption 39) -/
def writeControl (g : EddyRegs) (idx v : Nat) : EddyRegs :=
  match idx with
  | 0 => { g with estat := BitVec.ofNat 4 v }
  | 1 => { g with lc := BitVec.ofNat 32 v }
  | 2 => { g with ec := BitVec.ofNat 32 v }
  | 3 => { g with rrb := v % 16 }
  | 7 => g.setPred v 8
  | _ => g

/-- R97: the loop registers and the PC after LOOP; `old` is the state before the bundle. -/
def loopStep (old cur : EddyRegs) (pc target : Nat) : EddyRegs × Nat :=
  let rrb := (old.rrb + 15) % 16
  if old.lc ≠ 0 then ({ cur with lc := old.lc - 1, rrb := rrb }.putP (pPhys rrb 4) true, target)
  else if 1 < old.ec.toNat then ({ cur with ec := old.ec - 1, rrb := rrb }.putP (pPhys rrb 4) false, target)
  else ({ cur with ec := 0 }, (pc + 1) % 2048)

/-- Whether a LOOP leaves its loop (R139). -/
def loopLeaves (g : EddyRegs) : Bool := g.lc = 0 && decide (g.ec.toNat ≤ 1)

/-- Slot S on the registers: `old` is the engine before the bundle, `cur` the registers it writes into. The second
result is the next PC, the third whether two cycles pass without issue (R103). -/
def runS (n : Nat) (old : Eddy) (cur : EddyRegs) (i : SInsn) : EddyRegs × Nat × Bool :=
  let g := old.regs
  let next := (old.pc + 1) % 2048
  match i with
  | .alu op sat sd sa sb =>
    let r := scalarOp op sat (g.getS sa) (g.getS sb)
    ((cur.setS sd r.1).flag r.2, next, false)
  | .aluImm op sat sd sa imm =>
    let r := scalarOp op sat (g.getS sa) (bitsOf 32 imm)
    ((cur.setS sd r.1).flag r.2, next, false)
  | .movi sd imm => (cur.setS sd (bitsOf 32 imm), next, false)
  | .movhi sd imm => (cur.setS sd (imm * 2 ^ 16 + g.getS sd % 2 ^ 16), next, false)
  | .cmp pd c sa sb =>
    (cur.putP (pPhys g.rrb pd)
      (condHolds c (wrapS 32 (g.getS sa)) (wrapS 32 (g.getS sb)) (g.getS sa) (g.getS sb)), next, false)
  | .cmpImm pd c sa imm =>
    (cur.putP (pPhys g.rrb pd) (condHolds c (wrapS 32 (g.getS sa)) imm (g.getS sa) (bitsOf 32 imm)), next, false)
  | .plog pd pa pb f => (cur.putP (pPhys g.rrb pd) (plogOp f (g.getP pa) (g.getP pb)), next, false)
  | .movc s idx => (cur.setS s (readControl n old idx), next, false)
  | .movtc s idx => (writeControl cur idx (g.getS s), next, false)
  | .br t => (cur, t, true)
  | .brr s => (cur, g.getS s % 2048, true)
  | .call t => (cur.setS 15 next, t, true)
  | .loop t =>
    let r := loopStep g cur old.pc t
    (r.1, r.2, false)
  | _ => (cur, next, false)

/-! ### Slot V -/

/-- VCVT (R111): the pattern of the destination register. -/
def cvtVector (sat compat : Bool) (src dst : ETy) (hi : Bool) (va vd : Nat) : Nat × Nat :=
  let es := src.count
  let ed := dst.count
  if es < ed then
    let first := if hi then ed / 2 else 0
    let r := fun j => elemCvt sat compat src dst (elemAt src.bits va j)
    (packElems dst.bits (fun i => if first ≤ i ∧ i < first + es then (r (i - first)).1 else elemAt dst.bits vd i) ed,
      joinFlags (fun j => (r j).2) es)
  else
    let first := if ed < es ∧ hi then es / 2 else 0
    let r := fun i => elemCvt sat compat src dst (elemAt src.bits va (first + i))
    (packElems dst.bits (fun i => (r i).1) ed, joinFlags (fun i => (r i).2) ed)

/-- VSRS (R110): the pattern of the destination register. -/
def srsVector (sat compat : Bool) (ty : ETy) (acc sh : Nat) (hi : Bool) (vd : Nat) : Nat × Nat :=
  let lane := fun k => elemAt 48 acc k
  let one := fun k =>
    if ty = .fp32 then (lane k % 2 ^ 32, 0)
    else if ty = .bf16 then fpPut sat .bf16 (fpOf32 (lane k % 2 ^ 32))
    else narrow sat ty (srsRound compat (wrapS 48 (lane k)) sh)
  if ty = .i8 then
    let first := if hi then 32 else 0
    (packElems 8 (fun i => if first ≤ i ∧ i < first + 32 then (one (i - first)).1 else elemAt 8 vd i) 64,
      joinFlags (fun k => (one k).2) 32)
  else
    let first := if ty.bits = 32 ∧ hi then 16 else 0
    (packElems ty.bits (fun i => (one (first + i)).1) ty.count, joinFlags (fun i => (one (first + i)).2) ty.count)

/-- VMOVA (R107): the accumulator's lanes, and the flags. -/
def movaLanes (ty : ETy) (va acc : Nat) (hi : Bool) : Nat × Nat :=
  match ty with
  | .i32 => (packElems 48 (fun k => if k / 16 = b2n hi then bitsOf 48 (wrapS 32 (elemAt 32 va (k % 16))) else elemAt 48 acc k) 32, 0)
  | .fp32 => (packElems 48 (fun k => if k / 16 = b2n hi then elemAt 32 va (k % 16) else elemAt 48 acc k) 32, 0)
  | .bf16 =>
    let r := fun k => fpPut false .fp32 (fpOf .bf16 (elemAt 16 va k))
    (packElems 48 (fun k => (r k).1) 32, joinFlags (fun k => (r k).2) 32)
  | .i16 => (packElems 48 (fun k => bitsOf 48 (wrapS 16 (elemAt 16 va k))) 32, 0)
  | _ =>
    let first := if hi then 32 else 0
    (packElems 48 (fun k => bitsOf 48 (ty.toInt (elemAt 8 va (first + k)))) 32, 0)

/-- Slot V on the registers: reads `g`, the registers before the bundle, and writes `cur`. -/
def runV (compat : Bool) (g cur : EddyRegs) (i : VInsn) : EddyRegs :=
  match i with
  | .nop => cur
  | .arith op sat ty vd va vb =>
    let r := fun j => elemArith op sat ty (elemAt ty.bits (g.getV va) j) (elemAt ty.bits (g.getV vb) j)
    (cur.putV (vPhys g.rrb vd) (packElems ty.bits (fun j => (r j).1) ty.count)).flag (joinFlags (fun j => (r j).2) ty.count)
  | .logic op vd va vb =>
    cur.putV (vPhys g.rrb vd)
      (match op with
       | .and => Nat.land (g.getV va) (g.getV vb)
       | .or => Nat.lor (g.getV va) (g.getV vb)
       | _ => Nat.xor (g.getV va) (g.getV vb))
  | .shift op ty vd va k =>
    cur.putV (vPhys g.rrb vd) (packElems ty.bits (fun j => elemShift op ty (elemAt ty.bits (g.getV va) j) k) ty.count)
  | .cmp ty c vd va vb =>
    let r := fun j => elemCmp ty c (elemAt ty.bits (g.getV va) j) (elemAt ty.bits (g.getV vb) j)
    (cur.putV (vPhys g.rrb vd) (packElems ty.bits (fun j => if (r j).1 then 2 ^ ty.bits - 1 else 0) ty.count)).flag
      (joinFlags (fun j => (r j).2) ty.count)
  | .sel ty vd va vb =>
    cur.putV (vPhys g.rrb vd)
      (packElems ty.bits
        (fun j => if bitAt (elemAt ty.bits (g.getV vb) j) (ty.bits - 1) then elemAt ty.bits (g.getV va) j
          else elemAt ty.bits (g.getV vd) j) ty.count)
  | .bcst ty vd s => cur.putV (vPhys g.rrb vd) (packElems ty.bits (fun _ => g.getS s) ty.count)
  | .mov vd va => cur.putV (vPhys g.rrb vd) (g.getV va)
  | .ext ty vd va k =>
    cur.putV (vPhys g.rrb vd)
      (packElems ty.bits (fun j => if j + k < 2 * ty.count then elemAt ty.bits (g.getPair va) (j + k) else 0) ty.count)
  | .movs ty sd va idx => cur.setS sd (bitsOf 32 (ty.toInt (elemAt ty.bits (g.getV va) idx)))
  | .srs sat ty vd acc sh hi =>
    let r := srsVector sat compat ty (g.getAcc acc) sh hi (g.getV vd)
    (cur.putV (vPhys g.rrb vd) r.1).flag r.2
  | .mova ty acc va hi =>
    let r := movaLanes ty (g.getV va) (g.getAcc acc) hi
    (cur.setAcc acc r.1).flag r.2
  | .cvt sat src dst hi vd va =>
    let r := cvtVector sat compat src dst hi (g.getV va) (g.getV vd)
    (cur.putV (vPhys g.rrb vd) r.1).flag r.2
  | .twld va => { cur with tw := BitVec.ofNat 1024 (g.getPair va) }
  | .twst vd =>
    (cur.putV (vPhys g.rrb vd) (g.tw.toNat % 2 ^ 512)).putV (vPhys g.rrb (vd + 1)) (g.tw.toNat / 2 ^ 512)

/-! ### Slot M -/

/-- The accumulator whose lanes below `lanes` are `f` and whose others keep `old`. -/
def accLanes (lanes old : Nat) (f : Nat → Nat) : Nat :=
  packElems 48 (fun k => if k < lanes then f k else elemAt 48 old k) 32

/-- R108: the tap window after a move: every element goes down P places and the top P come from ss. -/
def twMove (ty : ETy) (tw ss : Nat) : Nat :=
  let n := 1024 / ty.bits
  let p := ty.products
  packElems ty.bits (fun i => if i + p < n then elemAt ty.bits tw (i + p) else elemAt ty.bits ss (i + p - n)) n

/-- AADD and ARECV: lane by lane addition, or with Z = 1 a move (Table EDY-9, R109). (DEDUCED, assumption 40) -/
def accAdd (sat : Bool) (ty : ETy) (z : Bool) (a b : Nat) : Nat × Nat :=
  if z then (if ty = .fp32 then packElems 48 (fun k => elemAt 48 b k % 2 ^ 32) 32 else b, 0)
  else
    let r := fun k =>
      if ty = .fp32 then fpPut sat .fp32 (fpAdd (fpOf32 (elemAt 48 a k % 2 ^ 32)) (fpOf32 (elemAt 48 b k % 2 ^ 32)))
      else narrowLane sat (wrapS 48 (elemAt 48 a k) + wrapS 48 (elemAt 48 b k))
    (packElems 48 (fun k => (r k).1) 32, joinFlags (fun k => (r k).2) 32)

/-- Slot M on the registers; `head` is the cascade entry an ARECV takes. (DEDUCED, assumption 40) -/
def runM (g cur : EddyRegs) (head : Nat) (i : MInsn) : EddyRegs :=
  match i with
  | .nop => cur
  | .mac bc sat ty acc vx vy gr z n =>
    let x := if ty.macPair then g.getPair vx else g.getV vx
    let y := if ty.macPair && !bc then g.getPair vy else g.getV vy
    let old := g.getAcc acc
    let r := fun k => macLane sat ty z n (elemAt 48 old k) (fun j => elemAt ty.bits x (ty.products * k + j))
      (fun j => elemAt ty.bits y (ty.products * (if bc then gr else k) + j))
    (cur.setAcc acc (accLanes ty.lanes old (fun k => (r k).1))).flag (joinFlags (fun k => (r k).2) ty.lanes)
  | .ftap sat ty acc ss mv vc gr z n =>
    let tw := g.tw.toNat
    let old := g.getAcc acc
    let r := fun k => macLane sat ty z n (elemAt 48 old k) (fun j => elemAt ty.bits tw (k + j))
      (fun j => elemAt ty.bits (g.getV vc) (ty.products * gr + j))
    let cur' := (cur.setAcc acc (accLanes ty.lanes old (fun k => (r k).1))).flag (joinFlags (fun k => (r k).2) ty.lanes)
    if mv then { cur' with tw := BitVec.ofNat 1024 (twMove ty tw (g.getS ss)) } else cur'
  | .aclr acc => cur.setAcc acc 0
  | .aadd sat ty acc as z =>
    let r := accAdd sat ty z (g.getAcc acc) (g.getAcc as)
    (cur.setAcc acc r.1).flag r.2
  | .asend _ => cur
  | .arecv sat ty acc z =>
    let r := accAdd sat ty z (g.getAcc acc) head
    (cur.setAcc acc r.1).flag r.2

/-! ### Slot L -/

/-- `k` 32-bit words of a data memory from word `w`, the lowest first, as one number. -/
def readData (data : SMap (BitVec 32)) (w : Nat) : Nat → Nat
  | 0 => 0
  | k + 1 => readData data w k + (smGet (0 : BitVec 32) data (w + k)).toNat * 2 ^ (32 * k)

/-- A data memory with 32-bit words written from word `w`. -/
def writeData (data : SMap (BitVec 32)) (w : Nat) : List (BitVec 32) → SMap (BitVec 32)
  | [] => data
  | v :: vs => writeData (smSet 0 data w v) (w + 1) vs

/-- The 32-bit words of a number, the lowest first. -/
def wordsOf : Nat → Nat → List (BitVec 32)
  | 0, _ => []
  | k + 1, v => BitVec.ofNat 32 v :: wordsOf k (v / 2 ^ 32)

/-- The words a store writes. -/
def storeWords (g : EddyRegs) (op : LOp) (rd : Nat) : List (BitVec 32) :=
  match op with
  | .st => wordsOf 1 (g.getS rd)
  | .vst => wordsOf 16 (g.getV rd)
  | .vstp => wordsOf 32 (g.getPair rd)
  | _ => []

/-- A load's result in the registers. -/
def loadResult (g cur : EddyRegs) (op : LOp) (rd v : Nat) : EddyRegs :=
  match op with
  | .ld => cur.setS rd v
  | .vld => cur.putV (vPhys g.rrb rd) v
  | .vldp => (cur.putV (vPhys g.rrb rd) (v % 2 ^ 512)).putV (vPhys g.rrb (rd + 1)) (v / 2 ^ 512)
  | .vldb => cur.putV (vPhys g.rrb rd) (packElems 32 (fun _ => v) 16)
  | _ => cur

/-- The half of a 512-bit register replaced by a stream word. -/
def putHalf (v half w : Nat) : Nat := putBits v (256 * half) 256 w

/-! ### Posted stores (R115) -/

/-- Posted stores whose memory no other engine has locked, done in order; what must still wait. -/
def drainPosted (n : Nat) (es : SMap Eddy) : List Posted → SMap Eddy × List Posted
  | [] => (es, [])
  | p :: ps =>
    let t := eddyAt es p.mem
    if t.lockedBy = none ∨ t.lockedBy = some n then
      drainPosted n (eddyPut es p.mem { t with data := writeData t.data p.word p.vals }) ps
    else (es, p :: ps)

/-- The engines after engine `n` has done the posted stores it can. -/
def settlePosted (es : SMap Eddy) (n : Nat) : SMap Eddy :=
  let r := drainPosted n es (eddyAt es n).posted
  eddyPut r.1 n { eddyAt r.1 n with posted := r.2 }

/-! ### One bundle -/

/-- R102, R115, R119, R120, R143–R150: whether the bundle waits for a memory, a queue, a lock or a transfer. (DESIGN CHOICE, assumption 35) -/
def bundleWaits (es : SMap Eddy) (n : Nat) (env : IssueEnv) (capFull : Bool) (b : BitVec 128) : Bool :=
  let e := eddyAt es n
  let d := decodeBundle b
  let streamIn := e.xfers.any (fun x => decide (x.raw % 8 = 2))
  let streamOut := e.xfers.any (fun x => decide (x.raw % 8 = 3))
  !allReady e.issue.ready e.issue.now (d.uses e.regs.rrb b)
  || (guardOf e.regs b 0 &&
      (match d.s with
       | .lock r => decide (e.issue.held = none ∨ e.issue.held ≠ regionEngine n r)
       | .fence => !e.posted.isEmpty
       | _ => false))
  || (guardOf e.regs b 1 &&
      (match d.l with
       | .mem op _ base pi off =>
         match regionEngine n (accessAddr e.regs op base pi off / 2 ^ 17) with
         | none => false
         | some m =>
           !env.grant || (decide (m ≠ n) && e.posted.any (fun p => p.mem = m) && !op.isStore)
             || (decide (m = n ∨ !op.isStore) && decide ((eddyAt es m).lockedBy ≠ none ∧ (eddyAt es m).lockedBy ≠ some n))
       | .sget _ _ => e.queues.inQ.isEmpty || streamIn
       | .sput _ _ => decide (16 ≤ e.queues.outQ.length) || capFull || streamOut
       | .xreq _ => decide (8 ≤ e.xfers.length) || decide (e.lockedBy ≠ none)
       | .xwait k => decide (k < e.xfers.length)
       | .nop => false))
  || (guardOf e.regs b 3 &&
      (match d.m with
       | .asend _ => decide (2 ≤ (eddyAt es (n + 1)).queues.casc.length)
       | .arecv _ _ _ _ => (match e.queues.casc with | (_, 0) :: _ => false | _ => true)
       | _ => false))

/-- R139: whether issuing the bundle reloads the watchdog. -/
def bundleReloads (g : EddyRegs) (b : BitVec 128) : Bool :=
  let d := decodeBundle b
  (guardOf g b 0 && (match d.s with | .loop _ => loopLeaves g | _ => false))
  || (guardOf g b 1 && d.l.noLock)
  || (guardOf g b 3 && d.m.noLock)

/-- The transfer XREQ queues: the descriptor as it stands (R150). -/
def newXfer (env : IssueEnv) (e : Eddy) (n a : Nat) : Xfer :=
  ⟨a, readData e.data (a / 4) 8, anyDouble env.upsets n (a / 8) 4, false, 0, 0, 0, [], .pending⟩

/-- R151: a STATUS write of descriptor `a`: merged into its 64-bit word, or abandoned when that word holds a double-bit error. -/
def writeStatus (upsets : List (Nat × Nat × Nat)) (n : Nat) (e : Eddy) (a v : Nat) : Eddy × Bool :=
  if 2 ≤ popCount 32 (otherHalf (upsetOf upsets n ((a + 0x18) / 8)) ((a + 0x18) / 4)) then (e, false)
  else ({ e with data := smSet 0 e.data ((a + 0x18) / 4) (BitVec.ofNat 32 v) }, true)

/-- Slot L on the engines: `old` is the state before the bundle, `es` as the other slots have left it. -/
def runL (old : SMap Eddy) (n : Nat) (env : IssueEnv) (es : SMap Eddy) (i : LInsn) : SMap Eddy :=
  let e := eddyAt old n
  let c := eddyAt es n
  let g := e.regs
  match i with
  | .nop => es
  | .mem op rd base pi off =>
    let a := accessAddr g op base pi off
    let w := a % 2 ^ 17 / 4
    match regionEngine n (a / 2 ^ 17) with
    | none => es
    | some m =>
      let regs1 := if op.isStore then c.regs else loadResult g c.regs op rd (readData (eddyAt old m).data w (op.size / 4))
      let regs2 := if pi then regs1.setS base (bitsOf 32 ((g.getS base : Int) + off * op.size)) else regs1
      let c1 := { c with regs := regs2 }
      let c2 :=
        if op.isStore then
          if m = n then { c1 with data := writeData c1.data w (storeWords g op rd) }
          else { c1 with posted := c1.posted ++ [⟨m, w, storeWords g op rd⟩] }
        else c1
      eddyPut es n c2
  | .sget vd half =>
    match e.queues.inQ with
    | [] => es
    | w :: q =>
      eddyPut es n { c with
        regs := c.regs.putV (vPhys g.rrb vd) (putHalf (g.getV vd) half w.toNat)
        queues := { c.queues with inQ := q } }
  | .sput vd half =>
    eddyPut es n { c with queues := { c.queues with outQ := c.queues.outQ ++ [BitVec.ofNat 256 (g.getV vd / 2 ^ (256 * half))] } }
  | .xreq base =>
    let a := g.getS base
    let r := writeStatus env.upsets n c a 0
    eddyPut es n { r.1 with xfers := r.1.xfers ++ [newXfer env e n a] }
  | .xwait _ => es

/-- The cascade after slot M: ASEND pushes to col+1, visible 2 cycles later; ARECV takes the head (R117). -/
def runCascade (old : SMap Eddy) (n : Nat) (es : SMap Eddy) (i : MInsn) : SMap Eddy :=
  match i with
  | .asend acc =>
    let t := eddyAt es (n + 1)
    eddyPut es (n + 1) { t with queues := { t.queues with casc := t.queues.casc ++ [((eddyAt old n).regs.getAcc acc, 2)] } }
  | .arecv _ _ _ _ =>
    let c := eddyAt es n
    eddyPut es n { c with queues := { c.queues with casc := c.queues.casc.tail } }
  | _ => es

/-- R116: the words a load or a merging store corrected: the memory's engine and how many. (DEDUCED, assumption 43) -/
def bundleCorrections (es : SMap Eddy) (n : Nat) (env : IssueEnv) (b : BitVec 128) : Corrections :=
  let e := eddyAt es n
  if guardOf e.regs b 1 then
    match (decodeBundle b).l with
    | .mem op _ base pi off =>
      let a := accessAddr e.regs op base pi off
      match regionEngine n (a / 2 ^ 17) with
      | none => []
      | some m =>
        match op with
        | .st => [(m, b2n (decide (popCount 32 (otherHalf (upsetOf env.upsets m (a % 2 ^ 17 / 8)) (a / 4)) = 1)))]
        | .vst => []
        | .vstp => []
        | _ => [(m, countSingle env.upsets m (a % 2 ^ 17 / 8) ((op.size + 7) / 8))]
    | .xreq base => [(n, countSingle env.upsets n (e.regs.getS base / 8) 4)]
    | _ => []
  else []

/-- Every slot of a bundle that issues, each reading the state before it (R99); the engine's PC moves on. -/
def issueBundle (old : SMap Eddy) (n : Nat) (env : IssueEnv) (b : BitVec 128) : SMap Eddy :=
  let e := eddyAt old n
  let d := decodeBundle b
  let gS := guardOf e.regs b 0
  let iS := if gS then d.s else .nop
  let iL := if guardOf e.regs b 1 then d.l else .nop
  let iV := if guardOf e.regs b 2 then d.v else .nop
  let iM := if guardOf e.regs b 3 then d.m else .nop
  let head := match e.queues.casc with | (v, _) :: _ => v | [] => 0
  let rS := runS n e e.regs iS
  let regs1 := runM e.regs (runV e.issue.compat e.regs rS.1 iV) head iM
  let es1 := eddyPut old n { e with regs := regs1, pc := rS.2.1 }
  let es2 := runL old n env es1 iL
  let es3 := runCascade old n es2 iM
  let c := eddyAt es3 n
  let far := match d.l with
    | .mem op _ base pi off => decide (accessAddr e.regs op base pi off / 2 ^ 17 ≠ 0)
    | _ => false
  let ready := setReady e.issue.now e.issue.ready
    (latS e.regs.rrb iS ++ latL e.regs.rrb far iL ++ latV e.regs.rrb iV ++ latM iM)
  let iss := c.issue
  let iss1 := { iss with
    ready := ready
    hold := if rS.2.2 then 2 else 0
    waiting := false
    lockReq := none
    wdog := if bundleReloads e.regs b then iss.wdogLimit else iss.wdog
    stepLeft := iss.stepLeft - 1 }
  match iS with
  | .unlock =>
    let es4 := eddyPut es3 n { c with issue := { iss1 with held := none, holdCount := 0 } }
    match iss.held with
    | none => es4
    | some m => eddyPut es4 m { eddyAt es4 m with lockedBy := none }
  | _ => eddyPut es3 n { c with issue := iss1 }

/-- R124: every exception releases a held lock; the engine stops in FAULTED with the bundle cancelled. -/
def releaseLock (es : SMap Eddy) (n : Nat) : SMap Eddy :=
  let e := eddyAt es n
  let es1 := eddyPut es n { e with issue := { e.issue with held := none, lockReq := none, holdCount := 0 } }
  match e.issue.held with
  | none => es1
  | some m => eddyPut es1 m { eddyAt es1 m with lockedBy := none }

/-- The engine stopped in FAULTED by an exception. -/
def faultEngine (es : SMap Eddy) (n : Nat) : SMap Eddy :=
  let es1 := releaseLock es n
  let e := eddyAt es1 n
  eddyPut es1 n { e with run := .faulted, issue := { e.issue with waiting := false, xport := none, stopReq := false, haltReq := false, stepLeft := 0 } }

/-- The queue after one cycle: each entry one cycle nearer to being visible (R117). -/
def cascTick (q : List (Nat × Nat)) : List (Nat × Nat) := q.map (fun e => (e.1, e.2 - 1))

/-- One cycle of a RUNNING engine: CYCLE, the interlock's clock, the lock's hold count and the watchdog (R134, R122, R138). -/
def cycleEngine (e : Eddy) : Eddy :=
  { e with
    regs := { e.regs with cycle := e.regs.cycle + 1 }
    queues := { e.queues with casc := cascTick e.queues.casc }
    issue := { e.issue with
      now := e.issue.now + 1
      hold := e.issue.hold - 1
      holdCount := if e.issue.held.isSome then e.issue.holdCount + 1 else 0
      wdog := e.issue.wdog - 1 } }

/-- The live program bank (R235). -/
def Eddy.prog (e : Eddy) : SMap (BitVec 128) := if e.liveB then e.progB else e.progA

/-- The bundle due to issue. -/
def Eddy.bundle (e : Eddy) : BitVec 128 := smGet 0 e.prog e.pc

/-- R122, R152, R140: LOCK_TIMEOUT, XPORT and WATCHDOG, which the bundle due raises when it raises nothing else. `hold` is the hold time at this
cycle, 0 in the cycle in which LOCK issues. (DEDUCED, assumption 36) -/
def dueExc (e : Eddy) (hold : Nat) (wouldReload : Bool) : Option Exc :=
  if e.issue.held.isSome ∧ max e.issue.lockLimit 16 ≤ hold then some ⟨8, none, hold⟩
  else
    match e.issue.xport with
    | some a => some ⟨0x0D, none, a⟩
    | none =>
      if e.issue.wdogLimit ≠ 0 ∧ e.issue.wdog = 0 ∧ !wouldReload then some ⟨0x0C, some 0, e.issue.wdogLimit⟩
      else none

/-- What a cycle of an engine came to. -/
inductive Issued where
  | idle
  | waits
  | excepts (x : Exc) (pc : Nat)
  | issues (pc : Nat) (word : BitVec 128) (isDone : Bool)
  deriving DecidableEq, Repr

/-- LOCK asked for: the engine contends for the memory of the region (R119). (DEDUCED, assumption 45) -/
def askLock (e : Eddy) (n : Nat) (b : BitVec 128) : Option Nat :=
  match (decodeBundle b).s with
  | .lock r => if guardOf e.regs b 0 ∧ e.issue.held = none then regionEngine n r else e.issue.lockReq
  | _ => e.issue.lockReq

/-- One cycle in which the bundle due of RUNNING engine `n` issues, waits or raises an exception; first the engine's posted stores settle.
`capFull` says that SPUT words go to a full capture queue (R148). -/
def issueCycle (es0 : SMap Eddy) (n : Nat) (env : IssueEnv) (capFull : Bool) : SMap Eddy × Issued :=
  let es := settlePosted es0 n
  let e := eddyAt es n
  if e.run ≠ .running then (es0, .idle)
  else if 0 < e.issue.hold then (eddyPut es n (cycleEngine e), .waits)
  else
    let c := cycleEngine e
    let b := e.bundle
    let esC := eddyPut es n { c with issue := { c.issue with hold := 0 } }
    match bundleExc es n env b with
    | some x => (faultEngine esC n, .excepts x e.pc)
    | none =>
      let waits := bundleWaits es n env capFull b
      match dueExc c e.issue.holdCount (!waits && bundleReloads e.regs b) with
      | some x => (faultEngine esC n, .excepts x e.pc)
      | none =>
        if waits then
          (eddyPut es n { c with issue := { c.issue with waiting := true, lockReq := askLock e n b } }, .waits)
        else
          let isDone := decide ((decodeBundle b).s = .done) && guardOf e.regs b 0
          let esI := issueBundle es n env b
          let i := eddyAt esI n
          let i' := cycleEngine i
          let i'' := { i' with
            run := if isDone then .done else i.run
            issue := { i'.issue with hold := i.issue.hold, wdog := if bundleReloads e.regs b then i.issue.wdogLimit else i'.issue.wdog } }
          (eddyPut esI n i'', .issues e.pc b isDone)

/-- R130: an accepted START: registers, control registers and cascade queue cleared, EDDY_CFG applied, the watchdog reloaded, RUNNING. -/
def startEngine (e : Eddy) (startPc lockLimit wdogLimit : Nat) (compat excIrq : Bool) : Eddy :=
  { e with
    run := .running
    pc := startPc
    regs := .start
    queues := { e.queues with casc := [] }
    issue := { EddyIssue.idle with wdog := wdogLimit, wdogLimit := wdogLimit, lockLimit := lockLimit, compat := compat, excIrq := excIrq } }

end Sys2Proof.Machine
end

