-- ==== Sys2Proof/Config.lean ====
section
/-! DEFINITION. What an implementation fixes and the spec leaves open: constants with no body, so that no proof can see a value. -/

namespace Sys2Proof

/-- The free values: the n-th value the spec leaves open in a run. A use cuts it to the width it needs. -/
opaque Config.freeValue : Nat → Nat

/-- TOL_INFO.ROM_REV: the ROM's revision (the register map gives "ROM value"). -/
opaque Config.romRev : Nat

/-- TOL_SERIAL.SERIAL: the serial number in the OTP fuses (the register map gives "OTP value"). (DESIGN CHOICE, assumption 111) -/
opaque Config.serial : Nat

/-- The keys that Tolmor derives from DEVICE_SEED (R204, R257): K1, K2 and KT (j = 0, 1, 2) of key slot k. -/
opaque Config.seedKey : Nat → Nat → BitVec 256

end Sys2Proof
end

