-- ==== Sys2Proof/Machine/PageMap.lean ====
section
/-! DEFINITION. The page kinds of Table MAP-1 (R459), where their pages lie (R3, R19), and the page an address falls in. -/

namespace Sys2Proof.Machine

/-- The kinds of page of Table MAP-1. -/
inductive PageKind where
  | tolmorCtl
  | tideCtl
  | tallyCtl
  | pkgInv
  | dieCtl
  | tribCtl
  | treeCtl
  | mbox
  | tideAlarm
  | clkCtl
  | stall
  | tideStall
  | pinIrq
  | pinSched
  | mgpio
  | irqAgg
  | shedMem
  | shedTrib
  | shedCfg
  | shedClk
  | wb
  | yardClk
  | yardScrub
  | pinBank
  | eddy
  | eddyIo
  | milCtl
  | milRtr
  | milEp
  | milEpcfg
  | sluiceCtl
  | hbmp
  | memCxl
  | pcieCtl
  | pcieHost
  | eth
  | skeja
  | ucie
  | lane
  | dbgSess
  | dbgRing
  | dbgEddy
  deriving DecidableEq, Repr

/-- Where the pages of a kind lie: instance `n2 * i + j` at `base + i * s1 + j * s2`, with `i < n1` and `j < n2`. -/
structure PageGeom where
  type : Nat
  base : Nat
  n1 : Nat
  s1 : Nat
  n2 : Nat
  s2 : Nat
  deriving DecidableEq, Repr

/-- Table MAP-1: TYPE and the addresses of each page kind. HBMP has 64 pages; its layout goes on at MEM_CXL_0 and MEM_CXL_1 (Table MEM-8), which its
instances 64 and 65 name. -/
def PageKind.geom : PageKind → PageGeom
  | .tolmorCtl => ⟨0x01, 0x00001000, 1, 0x0, 1, 0x0⟩
  | .tideCtl => ⟨0x02, 0x00002000, 1, 0x0, 1, 0x0⟩
  | .tallyCtl => ⟨0x03, 0x00003000, 1, 0x0, 1, 0x0⟩
  | .pkgInv => ⟨0x04, 0x00004000, 1, 0x0, 1, 0x0⟩
  | .dieCtl => ⟨0x05, 0x00005000, 1, 0x0, 1, 0x0⟩
  | .tribCtl => ⟨0x06, 0x00006000, 1, 0x0, 1, 0x0⟩
  | .treeCtl => ⟨0x07, 0x00007000, 1, 0x0, 1, 0x0⟩
  | .mbox => ⟨0x08, 0x00008000, 1, 0x0, 6, 0x1000⟩
  | .tideAlarm => ⟨0x09, 0x0000e000, 1, 0x0, 1, 0x0⟩
  | .clkCtl => ⟨0x0a, 0x0000f000, 1, 0x0, 1, 0x0⟩
  | .stall => ⟨0x0b, 0x00010000, 1, 0x0, 32, 0x1000⟩
  | .tideStall => ⟨0x0c, 0x00060000, 1, 0x0, 32, 0x1000⟩
  | .pinIrq => ⟨0x0d, 0x00048000, 1, 0x0, 1, 0x0⟩
  | .pinSched => ⟨0x0e, 0x00049000, 1, 0x0, 1, 0x0⟩
  | .mgpio => ⟨0x0f, 0x0004a000, 1, 0x0, 1, 0x0⟩
  | .irqAgg => ⟨0x10, 0x00050000, 1, 0x0, 4, 0x1000⟩
  | .shedMem => ⟨0x20, 0x01004000, 8, 0x800000, 48, 0x20000⟩
  | .shedTrib => ⟨0x21, 0x01005000, 8, 0x800000, 48, 0x20000⟩
  | .shedCfg => ⟨0x22, 0x01006000, 8, 0x800000, 48, 0x20000⟩
  | .shedClk => ⟨0x23, 0x01007000, 8, 0x800000, 48, 0x20000⟩
  | .wb => ⟨0x24, 0x01600000, 8, 0x800000, 256, 0x1000⟩
  | .yardClk => ⟨0x25, 0x01701000, 1, 0x0, 8, 0x800000⟩
  | .yardScrub => ⟨0x26, 0x01702000, 1, 0x0, 8, 0x800000⟩
  | .pinBank => ⟨0x27, 0x01703000, 1, 0x0, 8, 0x800000⟩
  | .eddy => ⟨0x30, 0x05000000, 1, 0x0, 512, 0x2000⟩
  | .eddyIo => ⟨0x31, 0x05001000, 1, 0x0, 512, 0x2000⟩
  | .milCtl => ⟨0x40, 0x09000000, 1, 0x0, 1, 0x0⟩
  | .milRtr => ⟨0x41, 0x09010000, 1, 0x0, 192, 0x1000⟩
  | .milEp => ⟨0x42, 0x09200000, 1, 0x0, 405, 0x1000⟩
  | .milEpcfg => ⟨0x43, 0x09600000, 1, 0x0, 405, 0x1000⟩
  | .sluiceCtl => ⟨0x50, 0x0a000000, 1, 0x0, 1, 0x0⟩
  | .hbmp => ⟨0x51, 0x0a010000, 1, 0x40000, 64, 0x1000⟩
  | .memCxl => ⟨0x52, 0x0a050000, 1, 0x0, 2, 0x1000⟩
  | .pcieCtl => ⟨0x60, 0x0b000000, 1, 0x0, 4, 0x1000⟩
  | .pcieHost => ⟨0x61, 0x0b008000, 1, 0x0, 4, 0x1000⟩
  | .eth => ⟨0x62, 0x0b010000, 1, 0x0, 8, 0x1000⟩
  | .skeja => ⟨0x63, 0x0b020000, 1, 0x0, 8, 0x1000⟩
  | .ucie => ⟨0x64, 0x0b030000, 1, 0x0, 4, 0x1000⟩
  | .lane => ⟨0x65, 0x0b800000, 4, 0x40000, 40, 0x1000⟩
  | .dbgSess => ⟨0x70, 0x0c000000, 1, 0x0, 6, 0x1000⟩
  | .dbgRing => ⟨0x71, 0x0c010000, 1, 0x0, 8, 0x1000⟩
  | .dbgEddy => ⟨0x72, 0x0c100000, 1, 0x0, 512, 0x1000⟩

/-- All page kinds, in TYPE order. -/
def allPageKinds : List PageKind :=
  [.tolmorCtl, .tideCtl, .tallyCtl, .pkgInv, .dieCtl, .tribCtl, .treeCtl, .mbox,
   .tideAlarm, .clkCtl, .stall, .tideStall, .pinIrq, .pinSched, .mgpio, .irqAgg,
   .shedMem, .shedTrib, .shedCfg, .shedClk, .wb, .yardClk, .yardScrub, .pinBank,
   .eddy, .eddyIo, .milCtl, .milRtr, .milEp, .milEpcfg, .sluiceCtl, .hbmp,
   .memCxl, .pcieCtl, .pcieHost, .eth, .skeja, .ucie, .lane, .dbgSess,
   .dbgRing, .dbgEddy]

/-- The base address of instance `i` of a page kind (Table MAP-1). -/
def PageKind.addr (k : PageKind) (i : Nat) : Nat :=
  let g := k.geom
  g.base + i / g.n2 * g.s1 + i % g.n2 * g.s2

/-- The instance of the kind whose page has the base address `p`, if there is one. -/
def PageKind.instOf (k : PageKind) (p : Nat) : Option Nat :=
  let g := k.geom
  if p < g.base then none else
    let d := p - g.base
    let i := if g.s1 = 0 then 0 else d / g.s1
    let d' := d - i * g.s1
    let j := if g.s2 = 0 then 0 else d' / g.s2
    if i < g.n1 ∧ j < g.n2 ∧ i * g.s1 + j * g.s2 = d then some (g.n2 * i + j) else none

/-- The first of the kinds that has a page at base address `p`, with the page's instance. -/
def findPage (p : Nat) : List PageKind → Option (PageKind × Nat)
  | [] => none
  | k :: ks =>
    match k.instOf p with
    | some i => some (k, i)
    | none => findPage p ks

/-- The implemented page an address falls in (R459), or none (R3). -/
def pageOf (addr : Nat) : Option (PageKind × Nat) :=
  findPage (addr / 4096 * 4096) allPageKinds

end Sys2Proof.Machine
end

