-- ==== Sys2Proof/Machine/RegNames.lean ====
section
/-! DEFINITION. The addresses of the registers and the places of their fields, by the names of the spec's register tables.
An `r` name takes the page's instance (Table MAP-1) and the register's own indices; a header register takes the page's base address.
An `f` name is a field's least significant bit and its width. -/

namespace Sys2Proof.Machine

def rPKG_DIE_INFO (page : Nat) (d : Nat) : Nat := PageKind.addr .pkgInv page + 0x040 + 0x4 * d
def rSCRUB_CTRL (page : Nat) : Nat := PageKind.addr .yardScrub page + 0x040
def rSCRUB_STAT (page : Nat) : Nat := PageKind.addr .yardScrub page + 0x044
def rSCRUB_CORR (page : Nat) : Nat := PageKind.addr .yardScrub page + 0x048
def rSCRUB_UNCORR (page : Nat) : Nat := PageKind.addr .yardScrub page + 0x04c
def rSCRUB_LAST (page : Nat) : Nat := PageKind.addr .yardScrub page + 0x050
def rMEM_CORR (page : Nat) : Nat := PageKind.addr .shedMem page + 0x040
def rMEM_UNCORR (page : Nat) : Nat := PageKind.addr .shedMem page + 0x044
def rMEM_LAST (page : Nat) : Nat := PageKind.addr .shedMem page + 0x048
def rFIFO_OVR_LO (page : Nat) : Nat := PageKind.addr .shedMem page + 0x050
def rFIFO_OVR_HI (page : Nat) : Nat := PageKind.addr .shedMem page + 0x054
def rTRIB_CONT_LAST (page : Nat) : Nat := PageKind.addr .tribCtl page + 0x040
def rTRIB_CONT_TAPS (page : Nat) : Nat := PageKind.addr .tribCtl page + 0x044
def rTRIB_CONT_COUNT (page : Nat) : Nat := PageKind.addr .tribCtl page + 0x048
def rTRIB_QUERY (page : Nat) : Nat := PageKind.addr .tribCtl page + 0x050
def rTRIB_QUERY_OWNER (page : Nat) : Nat := PageKind.addr .tribCtl page + 0x054
def rTRIB_QUERY_EFF (page : Nat) : Nat := PageKind.addr .tribCtl page + 0x058
def rTRIB_REFUSE_LAST (page : Nat) : Nat := PageKind.addr .tribCtl page + 0x060
def rTRIB_REFUSE_ID (page : Nat) : Nat := PageKind.addr .tribCtl page + 0x064
def rTRIB_CFG (page : Nat) : Nat := PageKind.addr .shedTrib page + 0x040
def rTRIB_STAT (page : Nat) : Nat := PageKind.addr .shedTrib page + 0x044
def rTRIB_LOST (page : Nat) : Nat := PageKind.addr .shedTrib page + 0x048
def rEDDY_CFG (page : Nat) : Nat := PageKind.addr .eddy page + 0x040
def rEDDY_EXC (page : Nat) : Nat := PageKind.addr .eddy page + 0x044
def rEDDY_EXC_INFO (page : Nat) : Nat := PageKind.addr .eddy page + 0x048
def rEDDY_DMEM_CORR (page : Nat) : Nat := PageKind.addr .eddy page + 0x04c
def rEDDY_RUN (page : Nat) : Nat := PageKind.addr .eddy page + 0x050
def rEDDY_STAT (page : Nat) : Nat := PageKind.addr .eddy page + 0x054
def rEDDY_START_PC (page : Nat) : Nat := PageKind.addr .eddy page + 0x058
def rEDDY_MEM_ADDR (page : Nat) : Nat := PageKind.addr .eddy page + 0x064
def rEDDY_MEM_DATA (page : Nat) : Nat := PageKind.addr .eddy page + 0x068
def rEDDY_WDOG_LIMIT (page : Nat) : Nat := PageKind.addr .eddy page + 0x05c
def rEDDY_WDOG_CNT (page : Nat) : Nat := PageKind.addr .eddy page + 0x060
def rSTREAM_CTL (page : Nat) : Nat := PageKind.addr .eddyIo page + 0x040
def rSTREAM_STAT (page : Nat) : Nat := PageKind.addr .eddyIo page + 0x044
def rSTIM_IN (page : Nat) (k : Nat) : Nat := PageKind.addr .eddyIo page + 0x050 + 0x4 * k
def rCAP_OUT (page : Nat) (k : Nat) : Nat := PageKind.addr .eddyIo page + 0x070 + 0x4 * k
def rXPORT_ERR (page : Nat) : Nat := PageKind.addr .eddyIo page + 0x090
def rMIL_QOS_WEIGHT (page : Nat) : Nat := PageKind.addr .milCtl page + 0x040
def rMIL_TIMER (page : Nat) : Nat := PageKind.addr .milCtl page + 0x044
def rRTR_ECC (page : Nat) : Nat := PageKind.addr .milRtr page + 0x040
def rRTR_ECC_LAST (page : Nat) : Nat := PageKind.addr .milRtr page + 0x044
def rEPQ_CTL (page : Nat) : Nat := PageKind.addr .milEp page + 0x040
def rEPQ_STAT (page : Nat) : Nat := PageKind.addr .milEp page + 0x044
def rEP_OUTSTANDING (page : Nat) : Nat := PageKind.addr .milEp page + 0x048
def rEP_ERR_CNT (page : Nat) : Nat := PageKind.addr .milEp page + 0x04c
def rEP_ERR_LAST (page : Nat) : Nat := PageKind.addr .milEp page + 0x050
def rEP_CFG (page : Nat) : Nat := PageKind.addr .milEpcfg page + 0x040
def rEP_REACH (page : Nat) (k : Nat) : Nat := PageKind.addr .milEpcfg page + 0x080 + 0x4 * k
def rSLUICE_WEAR_WARN (page : Nat) : Nat := PageKind.addr .sluiceCtl page + 0x040
def rSLUICE_SLOT (page : Nat) (k : Nat) : Nat := PageKind.addr .sluiceCtl page + 0x100 + 0x4 * k
def rSLUICE_WEAR (page : Nat) (k : Nat) : Nat := PageKind.addr .sluiceCtl page + 0x400 + 0x8 * k
def rHBMP_STAT (page : Nat) : Nat := PageKind.addr .hbmp page + 0x040
def rHBMP_ERR (page : Nat) : Nat := PageKind.addr .hbmp page + 0x044
def rHBMP_EVT_LAST (page : Nat) : Nat := PageKind.addr .hbmp page + 0x048
def rHBMP_EVT_LINE (page : Nat) : Nat := PageKind.addr .hbmp page + 0x04c
def rHBMP_WALK (page : Nat) : Nat := PageKind.addr .hbmp page + 0x050
def rRGN_CFG (page : Nat) (i : Nat) : Nat := PageKind.addr .hbmp page + 0x100 + 0x20 * i
def rRGN_MAP (page : Nat) (i : Nat) : Nat := PageKind.addr .hbmp page + 0x104 + 0x20 * i
def rRGN_KEY (page : Nat) (i : Nat) : Nat := PageKind.addr .hbmp page + 0x108 + 0x20 * i
def rRGN_WM (page : Nat) (i : Nat) : Nat := PageKind.addr .hbmp page + 0x10c + 0x20 * i
def rRGN_SALT (page : Nat) (i : Nat) : Nat := PageKind.addr .hbmp page + 0x110 + 0x20 * i
def rRGN_CMD (page : Nat) (i : Nat) : Nat := PageKind.addr .hbmp page + 0x114 + 0x20 * i
def rSTALL_STAT (page : Nat) : Nat := PageKind.addr .stall page + 0x040
def rSTALL_SWAP_AT (page : Nat) : Nat := PageKind.addr .stall page + 0x048
def rSTALL_SWAP_LAST (page : Nat) : Nat := PageKind.addr .stall page + 0x050
def rSTALL_SWAP_DUR (page : Nat) : Nat := PageKind.addr .stall page + 0x058
def rSTALL_FAULT_AT (page : Nat) : Nat := PageKind.addr .stall page + 0x05c
def rPLANE_STAT (page : Nat) : Nat := PageKind.addr .shedCfg page + 0x040
def rMB_DOORBELL (page : Nat) : Nat := PageKind.addr .mbox page + 0x040
def rMB_STAT (page : Nat) : Nat := PageKind.addr .mbox page + 0x044
def rMB_CPL_POP (page : Nat) : Nat := PageKind.addr .mbox page + 0x048
def rMB_CPL (page : Nat) (k : Nat) : Nat := PageKind.addr .mbox page + 0x050 + 0x4 * k
def rMB_CMD (page : Nat) (k : Nat) : Nat := PageKind.addr .mbox page + 0x100 + 0x4 * k
def rTOL_STAT (page : Nat) : Nat := PageKind.addr .tolmorCtl page + 0x040
def rTOL_INFO (page : Nat) : Nat := PageKind.addr .tolmorCtl page + 0x044
def rTOL_SERIAL (page : Nat) : Nat := PageKind.addr .tolmorCtl page + 0x048
def rLOG_NEXT (page : Nat) : Nat := PageKind.addr .tolmorCtl page + 0x050
def rLOG_MISSED (page : Nat) : Nat := PageKind.addr .tolmorCtl page + 0x054
def rTIDE_NOW (page : Nat) : Nat := PageKind.addr .tideCtl page + 0x040
def rTIDE_STAT (page : Nat) : Nat := PageKind.addr .tideCtl page + 0x048
def rTIDE_OFFSET (page : Nat) : Nat := PageKind.addr .tideCtl page + 0x04c
def rTIDE_FREQ (page : Nat) : Nat := PageKind.addr .tideCtl page + 0x050
def rTIDE_CFG (page : Nat) : Nat := PageKind.addr .tideCtl page + 0x054
def rTIDE_IN_DELAY (page : Nat) : Nat := PageKind.addr .tideCtl page + 0x058
def rTIDE_ASYM (page : Nat) (k : Nat) : Nat := PageKind.addr .tideCtl page + 0x080 + 0x4 * k
def rSTALL_ALARM_CTL (page : Nat) : Nat := PageKind.addr .tideStall page + 0x040
def rSTALL_ALARM_T (page : Nat) (j : Nat) : Nat := PageKind.addr .tideStall page + 0x080 + 0x8 * j
def rTREE_STAT (page : Nat) : Nat := PageKind.addr .treeCtl page + 0x040
def rTREE_LINKS (page : Nat) : Nat := PageKind.addr .treeCtl page + 0x044
def rTREE_WORKERS (page : Nat) : Nat := PageKind.addr .treeCtl page + 0x048
def rTALLY_EPOCH (page : Nat) : Nat := PageKind.addr .tallyCtl page + 0x040
def rTALLY_ERR (page : Nat) : Nat := PageKind.addr .tallyCtl page + 0x048
def rTALLY_LAST (page : Nat) : Nat := PageKind.addr .tallyCtl page + 0x04c
def rLANE_CFG (page : Nat) : Nat := PageKind.addr .lane page + 0x040
def rLANE_STAT (page : Nat) : Nat := PageKind.addr .lane page + 0x044
def rLANE_ASSIGN (page : Nat) : Nat := PageKind.addr .lane page + 0x048
def rLANE_ADAPT (page : Nat) : Nat := PageKind.addr .lane page + 0x04c
def rLANE_FAB_CFG (page : Nat) : Nat := PageKind.addr .lane page + 0x050
def rLANE_TX_EQ (page : Nat) : Nat := PageKind.addr .lane page + 0x054
def rFAB_STAT (page : Nat) : Nat := PageKind.addr .lane page + 0x058
def rPRBS_CTL (page : Nat) : Nat := PageKind.addr .lane page + 0x060
def rPRBS_STAT (page : Nat) : Nat := PageKind.addr .lane page + 0x064
def rPCIE_STAT (page : Nat) : Nat := PageKind.addr .pcieCtl page + 0x040
def rPCIE_RP_OWNER (page : Nat) : Nat := PageKind.addr .pcieCtl page + 0x044
def rPCIE_FN_LAYOUT (page : Nat) (p : Nat) : Nat := PageKind.addr .pcieCtl page + 0x080 + 0x4 * p
def rPCIE_LTOL (page : Nat) : Nat := PageKind.addr .pcieHost page + 0x040
def rPCIE_LTR_SENT (page : Nat) : Nat := PageKind.addr .pcieHost page + 0x04c
def rPCIE_ERR (page : Nat) : Nat := PageKind.addr .pcieHost page + 0x050
def rPCIE_HDM (page : Nat) (j : Nat) : Nat := PageKind.addr .pcieHost page + 0x400 + 0x8 * j
def rETH_CFG (page : Nat) : Nat := PageKind.addr .eth page + 0x040
def rETH_STAT (page : Nat) : Nat := PageKind.addr .eth page + 0x044
def rETH_ERR (page : Nat) : Nat := PageKind.addr .eth page + 0x060
def rSKJ_STAT (page : Nat) : Nat := PageKind.addr .skeja page + 0x040
def rSKJ_ERR (page : Nat) : Nat := PageKind.addr .skeja page + 0x080
def rSKJ_CHAN (page : Nat) (c : Nat) : Nat := PageKind.addr .skeja page + 0x100 + 0x4 * c
def rWB_STAT (page : Nat) : Nat := PageKind.addr .wb page + 0x040
def rWB_LANE_FAIL (page : Nat) (w : Nat) : Nat := PageKind.addr .wb page + 0x044 + 0x4 * w
def rWB_SPARE_MAP (page : Nat) : Nat := PageKind.addr .wb page + 0x050
def rWB_ERR (page : Nat) : Nat := PageKind.addr .wb page + 0x054
def rWB_CFG (page : Nat) : Nat := PageKind.addr .wb page + 0x058
def rDIE_STATE (page : Nat) (d : Nat) : Nat := PageKind.addr .dieCtl page + 0x040 + 0x4 * d
def rREPAIR_STAT (page : Nat) : Nat := PageKind.addr .dieCtl page + 0x080
def rUCIE_MOD (page : Nat) (m : Nat) : Nat := PageKind.addr .ucie page + 0x040 + 0x4 * m
def rPLL_STAT (page : Nat) : Nat := PageKind.addr .yardClk page + 0x100
def rREF_STAT (page : Nat) : Nat := PageKind.addr .clkCtl page + 0x040
def rREF_LOST (page : Nat) : Nat := PageKind.addr .clkCtl page + 0x044
def rFMEAS_CTL (page : Nat) : Nat := PageKind.addr .clkCtl page + 0x1c0
def rFMEAS_CNT (page : Nat) : Nat := PageKind.addr .clkCtl page + 0x1c4
def rRST_CAUSE (page : Nat) : Nat := PageKind.addr .clkCtl page + 0x1d0
def rPWR_CFG (page : Nat) : Nat := PageKind.addr .clkCtl page + 0x200
def rPWR_STAT (page : Nat) : Nat := PageKind.addr .clkCtl page + 0x204
def rSPINE_CMD (page : Nat) : Nat := PageKind.addr .shedClk page + 0x048
def rSPINE_STAT (page : Nat) : Nat := PageKind.addr .shedClk page + 0x04c
def rSPINE_LOSS (page : Nat) : Nat := PageKind.addr .shedClk page + 0x050
def rSPINE_CFG (page : Nat) : Nat := PageKind.addr .shedClk page + 0x054
def rPIN_CFG (page : Nat) (n : Nat) : Nat := PageKind.addr .pinBank page + 0x100 + 0x4 * n
def rSCHED_SKIP (page : Nat) : Nat := PageKind.addr .pinBank page + 0x070
def rPIRQ_SEL (page : Nat) (n : Nat) : Nat := PageKind.addr .pinIrq page + 0x040 + 0x4 * n
def rPIRQ_PEND (page : Nat) : Nat := PageKind.addr .pinIrq page + 0x080
def rSTRAP (page : Nat) : Nat := PageKind.addr .mgpio page + 0x058
def rENG_CFG (page : Nat) (q : Nat) : Nat := PageKind.addr .milEpcfg page + 0x100 + 0x4 * q
def rENG_REACH (page : Nat) (q k : Nat) : Nat := PageKind.addr .milEpcfg page + 0x200 + 0x80 * q + 0x4 * k
def rSTALL_TENANT_LIVE (page : Nat) : Nat := PageKind.addr .stall page + 0x060
def rSTALL_TENANT_BG (page : Nat) : Nat := PageKind.addr .stall page + 0x068
def rALARM_FIRED_LO (page : Nat) : Nat := PageKind.addr .tideAlarm page + 0x040
def rALARM_FIRED_HI (page : Nat) : Nat := PageKind.addr .tideAlarm page + 0x044
def rALARM_ACT (page : Nat) (k : Nat) : Nat := PageKind.addr .tideAlarm page + 0x100 + 0x10 * k
def rALARM_STAT (page : Nat) (k : Nat) : Nat := PageKind.addr .tideAlarm page + 0x104 + 0x10 * k
def rALARM_T (page : Nat) (k : Nat) : Nat := PageKind.addr .tideAlarm page + 0x108 + 0x10 * k
def rPRBS_ERR (page : Nat) : Nat := PageKind.addr .lane page + 0x068
def rPRBS_BITS (page : Nat) : Nat := PageKind.addr .lane page + 0x070
def rWIN_SRC (page : Nat) (j : Nat) : Nat := PageKind.addr .pcieHost page + 0x800 + 0x20 * j
def rWIN_CFG (page : Nat) (j : Nat) : Nat := PageKind.addr .pcieHost page + 0x808 + 0x20 * j
def rWIN_TGT (page : Nat) (j : Nat) : Nat := PageKind.addr .pcieHost page + 0x80c + 0x20 * j
def rWIN_DST (page : Nat) (j : Nat) : Nat := PageKind.addr .pcieHost page + 0x810 + 0x20 * j
def rIWIN_SRC (page : Nat) (j : Nat) : Nat := PageKind.addr .pcieCtl page + 0x100 + 0x20 * j
def rIWIN_CFG (page : Nat) (j : Nat) : Nat := PageKind.addr .pcieCtl page + 0x108 + 0x20 * j
def rIWIN_TGT (page : Nat) (j : Nat) : Nat := PageKind.addr .pcieCtl page + 0x10c + 0x20 * j
def rIWIN_DST (page : Nat) (j : Nat) : Nat := PageKind.addr .pcieCtl page + 0x110 + 0x20 * j
def rPCIE_FN_SEL (page : Nat) : Nat := PageKind.addr .pcieHost page + 0x044
def rPCIE_FN_ASSIGN (page : Nat) : Nat := PageKind.addr .pcieHost page + 0x048
def rETH_MAC (page : Nat) : Nat := PageKind.addr .eth page + 0x048
def rETH_IP (page : Nat) (i : Nat) : Nat := PageKind.addr .eth page + 0x050 + 0x4 * i
def rETH_STN_CFG (page : Nat) (j : Nat) : Nat := PageKind.addr .eth page + 0x100 + 0x10 * j
def rETH_STN_MAC (page : Nat) (j : Nat) : Nat := PageKind.addr .eth page + 0x108 + 0x10 * j
def rSKJ_UDP (page : Nat) : Nat := PageKind.addr .skeja page + 0x044
def rSKJ_UDP_PORT (page : Nat) : Nat := PageKind.addr .skeja page + 0x048
def rSKJ_UDP_PEER (page : Nat) (i : Nat) : Nat := PageKind.addr .skeja page + 0x050 + 0x4 * i
def rSKJ_UDP_NH (page : Nat) : Nat := PageKind.addr .skeja page + 0x060
def rPLL_CFG (page : Nat) (i : Nat) : Nat := PageKind.addr .yardClk page + 0x040 + 0x4 * i
def rGPLL_CFG (page : Nat) (i : Nat) : Nat := PageKind.addr .clkCtl page + 0x080 + 0x20 * i
def rPLL_OUT (page : Nat) (i j : Nat) : Nat := PageKind.addr .yardClk page + 0x080 + 0x10 * i + 0x4 * j
def rGPLL_OUT (page : Nat) (i j : Nat) : Nat := PageKind.addr .clkCtl page + 0x084 + 0x20 * i + 0x4 * j
def rOUT_LOST (page : Nat) : Nat := PageKind.addr .yardClk page + 0x104
def rDCLK_LOST (page : Nat) : Nat := PageKind.addr .clkCtl page + 0x180
def rSPINE_SEL (page : Nat) : Nat := PageKind.addr .shedClk page + 0x040
def rSPINE_GATE (page : Nat) : Nat := PageKind.addr .shedClk page + 0x044
def rGPIO_OUT_LO (page : Nat) : Nat := PageKind.addr .pinBank page + 0x040
def rGPIO_OUT_HI (page : Nat) : Nat := PageKind.addr .pinBank page + 0x044
def rGPIO_SET_LO (page : Nat) : Nat := PageKind.addr .pinBank page + 0x048
def rGPIO_SET_HI (page : Nat) : Nat := PageKind.addr .pinBank page + 0x04c
def rGPIO_CLR_LO (page : Nat) : Nat := PageKind.addr .pinBank page + 0x050
def rGPIO_CLR_HI (page : Nat) : Nat := PageKind.addr .pinBank page + 0x054
def rGPIO_TGL_LO (page : Nat) : Nat := PageKind.addr .pinBank page + 0x058
def rGPIO_TGL_HI (page : Nat) : Nat := PageKind.addr .pinBank page + 0x05c
def rGPIO_OE_LO (page : Nat) : Nat := PageKind.addr .pinBank page + 0x060
def rGPIO_OE_HI (page : Nat) : Nat := PageKind.addr .pinBank page + 0x064
def rGPIO_IN_LO (page : Nat) : Nat := PageKind.addr .pinBank page + 0x068
def rGPIO_IN_HI (page : Nat) : Nat := PageKind.addr .pinBank page + 0x06c
def rSCHED_CFG (page : Nat) (k : Nat) : Nat := PageKind.addr .pinSched page + 0x100 + 0x20 * k
def rSCHED_MASK (page : Nat) (k : Nat) : Nat := PageKind.addr .pinSched page + 0x108 + 0x20 * k
def rSCHED_VAL (page : Nat) (k : Nat) : Nat := PageKind.addr .pinSched page + 0x110 + 0x20 * k
def rMGPIO_OUT (page : Nat) : Nat := PageKind.addr .mgpio page + 0x040
def rMGPIO_OE (page : Nat) : Nat := PageKind.addr .mgpio page + 0x048
def rMGPIO_IN (page : Nat) : Nat := PageKind.addr .mgpio page + 0x050
def rDBG_GRANT (page : Nat) : Nat := PageKind.addr .dbgSess page + 0x040
def rDBG_STALLS (page : Nat) : Nat := PageKind.addr .dbgSess page + 0x044
def rDBG_NONCE (page : Nat) : Nat := PageKind.addr .dbgSess page + 0x048
def rDBG_NAFTER (page : Nat) : Nat := PageKind.addr .dbgSess page + 0x050
def rDBG_ACC_ADDR (page : Nat) : Nat := PageKind.addr .dbgSess page + 0x058
def rDBG_ACC_DATA (page : Nat) : Nat := PageKind.addr .dbgSess page + 0x05c
def rDBG_ACC_CTL (page : Nat) : Nat := PageKind.addr .dbgSess page + 0x060
def rCAP_CTL (page : Nat) : Nat := PageKind.addr .dbgSess page + 0x070
def rCAP_STAT (page : Nat) : Nat := PageKind.addr .dbgSess page + 0x074
def rCAP_SEL (page : Nat) : Nat := PageKind.addr .dbgSess page + 0x078
def rCAP_DATA (page : Nat) : Nat := PageKind.addr .dbgSess page + 0x07c
def rDBG_E_CMD (page : Nat) : Nat := PageKind.addr .dbgEddy page + 0x040
def rDBG_E_STAT (page : Nat) : Nat := PageKind.addr .dbgEddy page + 0x044
def rDBG_E_REGSEL (page : Nat) : Nat := PageKind.addr .dbgEddy page + 0x048
def rDBG_E_DATA (page : Nat) : Nat := PageKind.addr .dbgEddy page + 0x04c
def rWP_CFG (page : Nat) (k : Nat) : Nat := PageKind.addr .dbgEddy page + 0x080 + 0x20 * k
def rWP_ADDR (page : Nat) (k : Nat) : Nat := PageKind.addr .dbgEddy page + 0x084 + 0x20 * k
def rWP_AMASK (page : Nat) (k : Nat) : Nat := PageKind.addr .dbgEddy page + 0x088 + 0x20 * k
def rWP_DATA (page : Nat) (k : Nat) : Nat := PageKind.addr .dbgEddy page + 0x090 + 0x20 * k
def rRING_CTL (page : Nat) : Nat := PageKind.addr .dbgRing page + 0x040
def rRING_STAT (page : Nat) : Nat := PageKind.addr .dbgRing page + 0x044
def rRING_RD (page : Nat) : Nat := PageKind.addr .dbgRing page + 0x048
def rRING_DATA (page : Nat) (w : Nat) : Nat := PageKind.addr .dbgRing page + 0x050 + 0x4 * w
def rCXL_SIZE (page : Nat) (i : Nat) : Nat := PageKind.addr .memCxl page + 0x118 + 0x20 * i
def rCXL_BASE (page : Nat) (i : Nat) : Nat := PageKind.addr .memCxl page + 0x11c + 0x20 * i
def rAGG_CFG (page : Nat) : Nat := PageKind.addr .irqAgg page + 0x040
def rAGG_STAT (page : Nat) : Nat := PageKind.addr .irqAgg page + 0x044
def rAGG_HEAD (page : Nat) : Nat := PageKind.addr .irqAgg page + 0x048
def rAGG_POP (page : Nat) : Nat := PageKind.addr .irqAgg page + 0x04c
def rAGG_GROUP (page : Nat) : Nat := PageKind.addr .irqAgg page + 0x050
def rPAGE_ID (page : Nat) : Nat := page + 0x000
def rPAGE_VER (page : Nat) : Nat := page + 0x004
def rPAGE_CTRL (page : Nat) : Nat := page + 0x008
def rPAGE_STAT (page : Nat) : Nat := page + 0x00c
def rIRQ_RAW (page : Nat) : Nat := page + 0x010
def rIRQ_EN (page : Nat) : Nat := page + 0x014
def rIRQ_FORCE (page : Nat) : Nat := page + 0x018
def rIRQ_STAT (page : Nat) : Nat := page + 0x01c
def rERR_FIRST (page : Nat) : Nat := page + 0x020
def rERR_COUNT (page : Nat) : Nat := page + 0x024
def rOWNER (page : Nat) : Nat := page + 0x028
def rLOCK (page : Nat) : Nat := page + 0x02c
def rTIDE_STALL_NOW (page : Nat) : Nat := PageKind.addr .tideStall page + 0x048

def fPKG_DIE_INFO_PRESENT : Fld := ⟨31, 1⟩
def fPKG_DIE_INFO_KIND : Fld := ⟨28, 3⟩
def fPKG_DIE_INFO_SUPPLIER : Fld := ⟨20, 8⟩
def fPKG_DIE_INFO_DIE_REV : Fld := ⟨12, 8⟩
def fPKG_DIE_INFO_INDEX : Fld := ⟨8, 4⟩
def fSCRUB_CTRL_GAP_MS : Fld := ⟨8, 8⟩
def fSCRUB_CTRL_BG_PLANES : Fld := ⟨1, 1⟩
def fSCRUB_CTRL_EN : Fld := ⟨0, 1⟩
def fSCRUB_STAT_PASS_COUNT : Fld := ⟨8, 24⟩
def fSCRUB_STAT_SHED : Fld := ⟨2, 6⟩
def fSCRUB_STAT_PLANE : Fld := ⟨1, 1⟩
def fSCRUB_STAT_ACTIVE : Fld := ⟨0, 1⟩
def fSCRUB_CORR_COUNT : Fld := ⟨0, 32⟩
def fSCRUB_UNCORR_COUNT : Fld := ⟨0, 16⟩
def fSCRUB_LAST_BIT : Fld := ⟨32, 7⟩
def fSCRUB_LAST_UNCORR : Fld := ⟨31, 1⟩
def fSCRUB_LAST_SHED : Fld := ⟨25, 6⟩
def fSCRUB_LAST_PLANE : Fld := ⟨24, 1⟩
def fSCRUB_LAST_FRAME : Fld := ⟨12, 12⟩
def fSCRUB_LAST_WORD : Fld := ⟨6, 6⟩
def fMEM_CORR_COUNT : Fld := ⟨0, 16⟩
def fMEM_UNCORR_COUNT : Fld := ⟨0, 16⟩
def fMEM_LAST_UNCORR : Fld := ⟨31, 1⟩
def fMEM_LAST_KIND : Fld := ⟨30, 1⟩
def fMEM_LAST_BLOCK : Fld := ⟨24, 6⟩
def fMEM_LAST_ADDR : Fld := ⟨0, 13⟩
def fFIFO_OVR_LO_OVERRUN : Fld := ⟨0, 32⟩
def fFIFO_OVR_HI_OVERRUN : Fld := ⟨0, 28⟩
def fTRIB_CONT_LAST_VALID : Fld := ⟨31, 1⟩
def fTRIB_CONT_LAST_TRIB_ID : Fld := ⟨16, 15⟩
def fTRIB_CONT_LAST_WIN_TAP : Fld := ⟨11, 5⟩
def fTRIB_CONT_LAST_EXP_TAP : Fld := ⟨6, 5⟩
def fTRIB_CONT_LAST_EXP_NONE : Fld := ⟨5, 1⟩
def fTRIB_CONT_LAST_OWNER : Fld := ⟨0, 5⟩
def fTRIB_CONT_TAPS_TAPS : Fld := ⟨0, 24⟩
def fTRIB_CONT_COUNT_COUNT : Fld := ⟨0, 16⟩
def fTRIB_QUERY_TRIB_ID : Fld := ⟨0, 15⟩
def fTRIB_QUERY_OWNER_OWNED : Fld := ⟨31, 1⟩
def fTRIB_QUERY_OWNER_STALL : Fld := ⟨26, 5⟩
def fTRIB_QUERY_OWNER_LIVE_VALID : Fld := ⟨25, 1⟩
def fTRIB_QUERY_OWNER_LIVE_TAP : Fld := ⟨20, 5⟩
def fTRIB_QUERY_OWNER_BG_VALID : Fld := ⟨19, 1⟩
def fTRIB_QUERY_OWNER_BG_TAP : Fld := ⟨14, 5⟩
def fTRIB_QUERY_EFF_EFF : Fld := ⟨0, 24⟩
def fTRIB_REFUSE_LAST_VALID : Fld := ⟨31, 1⟩
def fTRIB_REFUSE_LAST_REASON : Fld := ⟨28, 3⟩
def fTRIB_REFUSE_LAST_STALL : Fld := ⟨23, 5⟩
def fTRIB_REFUSE_LAST_YARD : Fld := ⟨20, 3⟩
def fTRIB_REFUSE_LAST_SHED : Fld := ⟨14, 6⟩
def fTRIB_REFUSE_ID_TRIB_ID : Fld := ⟨0, 15⟩
def fTRIB_CFG_LOST_ACT : Fld := ⟨0, 1⟩
def fTRIB_STAT_CONTENTION : Fld := ⟨8, 1⟩
def fTRIB_STAT_RETIRED : Fld := ⟨4, 4⟩
def fTRIB_STAT_NARROW : Fld := ⟨0, 4⟩
def fTRIB_LOST_COUNT : Fld := ⟨0, 16⟩
def fEDDY_CFG_LOCK_LIMIT : Fld := ⟨8, 10⟩
def fEDDY_CFG_EXC_IRQ : Fld := ⟨1, 1⟩
def fEDDY_CFG_ROUND_COMPAT : Fld := ⟨0, 1⟩
def fEDDY_EXC_VALID : Fld := ⟨31, 1⟩
def fEDDY_EXC_CAUSE : Fld := ⟨26, 5⟩
def fEDDY_EXC_SLOT : Fld := ⟨24, 2⟩
def fEDDY_EXC_PC : Fld := ⟨0, 11⟩
def fEDDY_EXC_INFO_INFO : Fld := ⟨0, 32⟩
def fEDDY_DMEM_CORR_PMEM_CORR : Fld := ⟨16, 16⟩
def fEDDY_DMEM_CORR_DMEM_CORR : Fld := ⟨0, 16⟩
def fEDDY_RUN_KICK : Fld := ⟨3, 1⟩
def fEDDY_RUN_RESUME : Fld := ⟨2, 1⟩
def fEDDY_RUN_STOP : Fld := ⟨1, 1⟩
def fEDDY_RUN_START : Fld := ⟨0, 1⟩
def fEDDY_STAT_PC : Fld := ⟨16, 11⟩
def fEDDY_STAT_BG_BANK : Fld := ⟨13, 3⟩
def fEDDY_STAT_LIVE_BANK : Fld := ⟨12, 1⟩
def fEDDY_STAT_WAITING : Fld := ⟨8, 1⟩
def fEDDY_STAT_XOUT : Fld := ⟨4, 4⟩
def fEDDY_STAT_LOCK_HELD : Fld := ⟨3, 1⟩
def fEDDY_STAT_STATE : Fld := ⟨0, 3⟩
def fEDDY_START_PC_PC : Fld := ⟨0, 11⟩
def fEDDY_MEM_ADDR_AUTOINC : Fld := ⟨31, 1⟩
def fEDDY_MEM_ADDR_MEM_ERR : Fld := ⟨30, 1⟩
def fEDDY_MEM_ADDR_SPACE : Fld := ⟨29, 1⟩
def fEDDY_MEM_ADDR_WRAPPED : Fld := ⟨28, 1⟩
def fEDDY_MEM_ADDR_WORD : Fld := ⟨0, 15⟩
def fEDDY_MEM_DATA_DATA : Fld := ⟨0, 32⟩
def fEDDY_WDOG_LIMIT_LIMIT : Fld := ⟨0, 32⟩
def fEDDY_WDOG_CNT_COUNT : Fld := ⟨0, 32⟩
def fSTREAM_CTL_CAP_POP : Fld := ⟨10, 1⟩
def fSTREAM_CTL_FLUSH_OUT : Fld := ⟨9, 1⟩
def fSTREAM_CTL_FLUSH_IN : Fld := ⟨8, 1⟩
def fSTREAM_CTL_OUT_DST : Fld := ⟨1, 1⟩
def fSTREAM_CTL_IN_SRC : Fld := ⟨0, 1⟩
def fSTREAM_STAT_CAP_LVL : Fld := ⟨24, 4⟩
def fSTREAM_STAT_STIM_LVL : Fld := ⟨16, 4⟩
def fSTREAM_STAT_OUT_LVL : Fld := ⟨8, 5⟩
def fSTREAM_STAT_IN_LVL : Fld := ⟨0, 5⟩
def fSTIM_IN_DATA : Fld := ⟨0, 32⟩
def fCAP_OUT_DATA : Fld := ⟨0, 32⟩
def fXPORT_ERR_COUNT : Fld := ⟨0, 16⟩
def fMIL_QOS_WEIGHT_W2 : Fld := ⟨16, 8⟩
def fMIL_QOS_WEIGHT_W1 : Fld := ⟨8, 8⟩
def fMIL_QOS_WEIGHT_W0 : Fld := ⟨0, 8⟩
def fMIL_TIMER_EGR_STALL : Fld := ⟨16, 16⟩
def fMIL_TIMER_REQ_TIMEOUT : Fld := ⟨0, 16⟩
def fRTR_ECC_UNCORR : Fld := ⟨16, 16⟩
def fRTR_ECC_CORR : Fld := ⟨0, 16⟩
def fRTR_ECC_LAST_VALID : Fld := ⟨31, 1⟩
def fRTR_ECC_LAST_UNCORR : Fld := ⟨30, 1⟩
def fRTR_ECC_LAST_HEADER : Fld := ⟨29, 1⟩
def fRTR_ECC_LAST_INPUT : Fld := ⟨26, 3⟩
def fRTR_ECC_LAST_CH : Fld := ⟨25, 1⟩
def fRTR_ECC_LAST_VC : Fld := ⟨22, 3⟩
def fEPQ_CTL_DROP_REST_OUT : Fld := ⟨11, 1⟩
def fEPQ_CTL_DROP_REST_IN : Fld := ⟨10, 1⟩
def fEPQ_CTL_FLUSH_OUT : Fld := ⟨9, 1⟩
def fEPQ_CTL_FLUSH_IN : Fld := ⟨8, 1⟩
def fEPQ_CTL_CT_OUT : Fld := ⟨4, 3⟩
def fEPQ_CTL_CT_IN : Fld := ⟨0, 3⟩
def fEPQ_STAT_UNREACH : Fld := ⟨31, 1⟩
def fEPQ_STAT_DRAIN : Fld := ⟨30, 1⟩
def fEPQ_STAT_FLUSH_OUT_PEND : Fld := ⟨29, 1⟩
def fEPQ_STAT_FLUSH_IN_PEND : Fld := ⟨28, 1⟩
def fEPQ_STAT_RSP_OUT_LVL : Fld := ⟨18, 6⟩
def fEPQ_STAT_REQ_OUT_LVL : Fld := ⟨12, 6⟩
def fEPQ_STAT_RSP_IN_LVL : Fld := ⟨6, 6⟩
def fEPQ_STAT_REQ_IN_LVL : Fld := ⟨0, 6⟩
def fEP_OUTSTANDING_COUNT : Fld := ⟨0, 11⟩
def fEP_ERR_CNT_TIMEOUT : Fld := ⟨24, 8⟩
def fEP_ERR_CNT_DROPPED : Fld := ⟨16, 8⟩
def fEP_ERR_CNT_REFUSED : Fld := ⟨8, 8⟩
def fEP_ERR_CNT_LATE : Fld := ⟨0, 8⟩
def fEP_ERR_LAST_VALID : Fld := ⟨31, 1⟩
def fEP_ERR_LAST_STATUS : Fld := ⟨27, 4⟩
def fEP_ERR_LAST_PEER : Fld := ⟨17, 10⟩
def fEP_ERR_LAST_TAG : Fld := ⟨7, 10⟩
def fEP_CFG_VALID : Fld := ⟨31, 1⟩
def fEP_CFG_DEV : Fld := ⟨30, 1⟩
def fEP_CFG_OWNED : Fld := ⟨29, 1⟩
def fEP_CFG_STALL : Fld := ⟨24, 5⟩
def fEP_CFG_KEY : Fld := ⟨17, 7⟩
def fEP_CFG_QOS_DEF : Fld := ⟨15, 2⟩
def fEP_CFG_QOS_MAX : Fld := ⟨13, 2⟩
def fEP_REACH_ALLOW : Fld := ⟨0, 32⟩
def fSLUICE_WEAR_WARN_WARN : Fld := ⟨0, 32⟩
def fSLUICE_SLOT_STATE : Fld := ⟨30, 2⟩
def fSLUICE_SLOT_WORN : Fld := ⟨29, 1⟩
def fSLUICE_SLOT_DEVICE : Fld := ⟨28, 1⟩
def fSLUICE_SLOT_LINK_REFS : Fld := ⟨12, 4⟩
def fSLUICE_SLOT_RGN_REFS : Fld := ⟨0, 12⟩
def fSLUICE_WEAR_LINES : Fld := ⟨0, 48⟩
def fHBMP_STAT_UNREACH : Fld := ⟨31, 1⟩
def fHBMP_STAT_TRAINED : Fld := ⟨30, 1⟩
def fHBMP_STAT_WALK_ACTIVE : Fld := ⟨29, 1⟩
def fHBMP_STAT_WALK_RGN : Fld := ⟨24, 5⟩
def fHBMP_STAT_WALK_QUEUE : Fld := ⟨16, 5⟩
def fHBMP_STAT_INIT_ACTIVE : Fld := ⟨15, 1⟩
def fHBMP_ERR_POISON_NEW : Fld := ⟨24, 8⟩
def fHBMP_ERR_POISON_RD : Fld := ⟨16, 8⟩
def fHBMP_ERR_CORR : Fld := ⟨0, 16⟩
def fHBMP_EVT_LAST_VALID : Fld := ⟨31, 1⟩
def fHBMP_EVT_LAST_CODE : Fld := ⟨28, 3⟩
def fHBMP_EVT_LAST_RGN : Fld := ⟨23, 5⟩
def fHBMP_EVT_LAST_SRC : Fld := ⟨13, 10⟩
def fHBMP_EVT_LINE_LINE : Fld := ⟨0, 29⟩
def fHBMP_WALK_GAP : Fld := ⟨0, 8⟩
def fRGN_CFG_STATE : Fld := ⟨29, 3⟩
def fRGN_CFG_OWNER_KIND : Fld := ⟨27, 2⟩
def fRGN_CFG_OWNER_ID : Fld := ⟨22, 5⟩
def fRGN_CFG_CRYPT : Fld := ⟨21, 1⟩
def fRGN_CFG_TAG : Fld := ⟨20, 1⟩
def fRGN_CFG_SECT : Fld := ⟨19, 1⟩
def fRGN_MAP_SIZE : Fld := ⟨16, 11⟩
def fRGN_MAP_BASE : Fld := ⟨0, 11⟩
def fRGN_KEY_KEY_NEXT : Fld := ⟨8, 7⟩
def fRGN_KEY_KEY_CUR : Fld := ⟨0, 7⟩
def fRGN_WM_WM : Fld := ⟨0, 27⟩
def fRGN_SALT_SALT : Fld := ⟨0, 32⟩
def fRGN_CMD_FINISH : Fld := ⟨3, 1⟩
def fRGN_CMD_REKEY : Fld := ⟨2, 1⟩
def fRGN_CMD_DESTROY : Fld := ⟨1, 1⟩
def fRGN_CMD_CREATE : Fld := ⟨0, 1⟩
def fSTALL_STAT_STATE : Fld := ⟨29, 3⟩
def fSTALL_STAT_CAUSE : Fld := ⟨25, 4⟩
def fSTALL_STAT_ARMED : Fld := ⟨24, 1⟩
def fSTALL_STAT_BG_READY : Fld := ⟨23, 1⟩
def fSTALL_STAT_BG_SAVED : Fld := ⟨22, 1⟩
def fSTALL_STAT_SAVE_SUSPECT : Fld := ⟨21, 1⟩
def fSTALL_STAT_FAULTS : Fld := ⟨0, 16⟩
def fSTALL_SWAP_AT_T : Fld := ⟨0, 64⟩
def fSTALL_SWAP_LAST_T : Fld := ⟨0, 64⟩
def fSTALL_SWAP_DUR_FILL_US : Fld := ⟨16, 16⟩
def fSTALL_SWAP_DUR_SWAP_NS : Fld := ⟨0, 16⟩
def fSTALL_FAULT_AT_VALID : Fld := ⟨31, 1⟩
def fSTALL_FAULT_AT_CAUSE : Fld := ⟨27, 4⟩
def fSTALL_FAULT_AT_YARD : Fld := ⟨24, 3⟩
def fSTALL_FAULT_AT_SHED : Fld := ⟨18, 6⟩
def fPLANE_STAT_OWNED : Fld := ⟨31, 1⟩
def fPLANE_STAT_STALL : Fld := ⟨26, 5⟩
def fPLANE_STAT_LIVE_PLANE : Fld := ⟨25, 1⟩
def fPLANE_STAT_A_STATE : Fld := ⟨22, 3⟩
def fPLANE_STAT_A_SAVED : Fld := ⟨21, 1⟩
def fPLANE_STAT_B_STATE : Fld := ⟨18, 3⟩
def fPLANE_STAT_B_SAVED : Fld := ⟨17, 1⟩
def fPLANE_STAT_GATED : Fld := ⟨16, 1⟩
def fPLANE_STAT_CAUSE : Fld := ⟨12, 4⟩
def fMB_DOORBELL_RING : Fld := ⟨0, 1⟩
def fMB_STAT_DEAD : Fld := ⟨31, 1⟩
def fMB_STAT_ACCEPTING : Fld := ⟨30, 1⟩
def fMB_STAT_BUSY : Fld := ⟨29, 1⟩
def fMB_STAT_TICKETS : Fld := ⟨8, 6⟩
def fMB_STAT_CPL_LVL : Fld := ⟨0, 5⟩
def fMB_CPL_POP_POP : Fld := ⟨0, 1⟩
def fMB_CPL_WORD : Fld := ⟨0, 32⟩
def fMB_CMD_WORD : Fld := ⟨0, 32⟩
def fTOL_STAT_MODE : Fld := ⟨30, 2⟩
def fTOL_STAT_OUT_CORE : Fld := ⟨28, 2⟩
def fTOL_STAT_DISAGREE : Fld := ⟨0, 16⟩
def fTOL_INFO_ROM_REV : Fld := ⟨16, 16⟩
def fTOL_INFO_ROLE : Fld := ⟨14, 2⟩
def fTOL_INFO_ADMIN : Fld := ⟨11, 3⟩
def fTOL_SERIAL_SERIAL : Fld := ⟨0, 64⟩
def fLOG_NEXT_SEQ : Fld := ⟨0, 32⟩
def fLOG_MISSED_COUNT : Fld := ⟨0, 16⟩
def fTIDE_NOW_TIDE : Fld := ⟨0, 64⟩
def fTIDE_STAT_STATE : Fld := ⟨29, 3⟩
def fTIDE_STAT_SOURCE : Fld := ⟨26, 3⟩
def fTIDE_STAT_FROZEN : Fld := ⟨25, 1⟩
def fTIDE_STAT_ROOT_STATE : Fld := ⟨22, 3⟩
def fTIDE_STAT_STEPS : Fld := ⟨0, 16⟩
def fTIDE_OFFSET_O : Fld := ⟨0, 32⟩
def fTIDE_FREQ_PPB : Fld := ⟨0, 32⟩
def fTIDE_CFG_HOLDOVER_MS : Fld := ⟨24, 8⟩
def fTIDE_CFG_LOCK_NS : Fld := ⟨16, 8⟩
def fTIDE_CFG_RESYNC_NS : Fld := ⟨4, 12⟩
def fTIDE_CFG_REFCLK : Fld := ⟨0, 2⟩
def fTIDE_IN_DELAY_NS : Fld := ⟨0, 16⟩
def fTIDE_ASYM_A : Fld := ⟨0, 16⟩
def fSTALL_ALARM_CTL_SIGNAL : Fld := ⟨16, 4⟩
def fSTALL_ALARM_CTL_LATE : Fld := ⟨12, 4⟩
def fSTALL_ALARM_CTL_FIRED : Fld := ⟨8, 4⟩
def fSTALL_ALARM_CTL_DISARM : Fld := ⟨4, 4⟩
def fSTALL_ALARM_CTL_ARM : Fld := ⟨0, 4⟩
def fSTALL_ALARM_T_T : Fld := ⟨0, 64⟩
def fTREE_STAT_ROLE : Fld := ⟨29, 3⟩
def fTREE_STAT_LEVEL : Fld := ⟨27, 2⟩
def fTREE_STAT_PARENT : Fld := ⟨23, 4⟩
def fTREE_STAT_NODE_ID : Fld := ⟨0, 16⟩
def fTREE_LINKS_CHILDREN : Fld := ⟨16, 16⟩
def fTREE_LINKS_EN : Fld := ⟨0, 16⟩
def fTREE_WORKERS_COUNT : Fld := ⟨0, 11⟩
def fTALLY_EPOCH_E : Fld := ⟨0, 64⟩
def fTALLY_ERR_UNCERTAIN : Fld := ⟨24, 8⟩
def fTALLY_ERR_SUSPECT : Fld := ⟨16, 8⟩
def fTALLY_ERR_COPY_FIX : Fld := ⟨0, 16⟩
def fTALLY_LAST_VALID : Fld := ⟨31, 1⟩
def fTALLY_LAST_EVENT : Fld := ⟨29, 2⟩
def fTALLY_LAST_STALL : Fld := ⟨24, 5⟩
def fTALLY_LAST_KIND : Fld := ⟨21, 3⟩
def fTALLY_LAST_INDEX : Fld := ⟨10, 11⟩
def fLANE_CFG_RX_POL : Fld := ⟨6, 2⟩
def fLANE_CFG_TX_INV : Fld := ⟨5, 1⟩
def fLANE_CFG_LOOP : Fld := ⟨0, 3⟩
def fLANE_STAT_STAGE : Fld := ⟨28, 4⟩
def fLANE_STAT_REF_LOST : Fld := ⟨27, 1⟩
def fLANE_STAT_CAL_FAIL : Fld := ⟨26, 1⟩
def fLANE_STAT_SIG_DET : Fld := ⟨25, 1⟩
def fLANE_STAT_CDR_LOCK : Fld := ⟨24, 1⟩
def fLANE_STAT_RX_INV : Fld := ⟨23, 1⟩
def fLANE_STAT_LOGICAL : Fld := ⟨17, 6⟩
def fLANE_ASSIGN_LOGICAL : Fld := ⟨16, 8⟩
def fLANE_ASSIGN_INST : Fld := ⟨8, 8⟩
def fLANE_ASSIGN_PROTO : Fld := ⟨0, 8⟩
def fLANE_ADAPT_EYE_MV : Fld := ⟨16, 16⟩
def fLANE_ADAPT_UPDATES : Fld := ⟨0, 16⟩
def fLANE_FAB_CFG_EN : Fld := ⟨31, 1⟩
def fLANE_FAB_CFG_DEST : Fld := ⟨18, 10⟩
def fLANE_FAB_CFG_RATE_MBPS : Fld := ⟨0, 18⟩
def fLANE_TX_EQ_PRE : Fld := ⟨12, 6⟩
def fLANE_TX_EQ_MAIN : Fld := ⟨6, 6⟩
def fLANE_TX_EQ_POST : Fld := ⟨0, 6⟩
def fFAB_STAT_RX_DROP : Fld := ⟨16, 16⟩
def fFAB_STAT_TX_IDLE : Fld := ⟨0, 16⟩
def fPRBS_CTL_INJECT : Fld := ⟨11, 1⟩
def fPRBS_CTL_CLEAR : Fld := ⟨10, 1⟩
def fPRBS_CTL_CHK_EN : Fld := ⟨9, 1⟩
def fPRBS_CTL_GEN_EN : Fld := ⟨8, 1⟩
def fPRBS_CTL_CHK_PAT : Fld := ⟨4, 4⟩
def fPRBS_CTL_GEN_PAT : Fld := ⟨0, 4⟩
def fPRBS_STAT_LOCK : Fld := ⟨31, 1⟩
def fPRBS_STAT_LOST : Fld := ⟨30, 1⟩
def fPCIE_STAT_ROLE : Fld := ⟨31, 1⟩
def fPCIE_STAT_LINK_UP : Fld := ⟨30, 1⟩
def fPCIE_STAT_CXL : Fld := ⟨29, 1⟩
def fPCIE_STAT_FLIT : Fld := ⟨28, 1⟩
def fPCIE_STAT_IDE : Fld := ⟨27, 1⟩
def fPCIE_STAT_GEN : Fld := ⟨24, 3⟩
def fPCIE_STAT_WIDTH : Fld := ⟨19, 5⟩
def fPCIE_STAT_PTM : Fld := ⟨18, 1⟩
def fPCIE_RP_OWNER_KIND : Fld := ⟨6, 2⟩
def fPCIE_RP_OWNER_ID : Fld := ⟨0, 5⟩
def fPCIE_FN_LAYOUT_EN : Fld := ⟨31, 1⟩
def fPCIE_FN_LAYOUT_BAR_LOG2 : Fld := ⟨24, 6⟩
def fPCIE_FN_LAYOUT_TOTAL_VFS : Fld := ⟨0, 12⟩
def fPCIE_LTOL_US : Fld := ⟨0, 16⟩
def fPCIE_LTR_SENT_REQ : Fld := ⟨31, 1⟩
def fPCIE_LTR_SENT_NS : Fld := ⟨0, 16⟩
def fPCIE_ERR_POISONED : Fld := ⟨24, 8⟩
def fPCIE_ERR_REFUSED : Fld := ⟨16, 8⟩
def fPCIE_ERR_UR : Fld := ⟨0, 16⟩
def fPCIE_HDM_VALID : Fld := ⟨63, 1⟩
def fPCIE_HDM_PORT : Fld := ⟨56, 7⟩
def fPCIE_HDM_RGN : Fld := ⟨51, 5⟩
def fPCIE_HDM_DPA_BASE : Fld := ⟨0, 32⟩
def fETH_CFG_RATE : Fld := ⟨28, 4⟩
def fETH_CFG_FEC : Fld := ⟨26, 2⟩
def fETH_CFG_AN : Fld := ⟨25, 1⟩
def fETH_CFG_SKJ_EN : Fld := ⟨24, 1⟩
def fETH_CFG_SKJ_PORT : Fld := ⟨0, 16⟩
def fETH_STAT_LINK_UP : Fld := ⟨31, 1⟩
def fETH_STAT_CFG_ERR : Fld := ⟨30, 1⟩
def fETH_STAT_AN_DONE : Fld := ⟨29, 1⟩
def fETH_ERR_NOMATCH : Fld := ⟨24, 8⟩
def fETH_ERR_TX_REFUSED : Fld := ⟨16, 8⟩
def fETH_ERR_RX_DROP : Fld := ⟨8, 8⟩
def fETH_ERR_FCS : Fld := ⟨0, 8⟩
def fSKJ_STAT_NATIVE_UP : Fld := ⟨31, 1⟩
def fSKJ_STAT_UDP_UP : Fld := ⟨30, 1⟩
def fSKJ_STAT_MGMT_KEYED : Fld := ⟨29, 1⟩
def fSKJ_STAT_DATA_KEYED : Fld := ⟨28, 1⟩
def fSKJ_STAT_SWITCH_PEND : Fld := ⟨27, 1⟩
def fSKJ_STAT_EXHAUSTED : Fld := ⟨26, 1⟩
def fSKJ_STAT_AUTH_FAIL : Fld := ⟨25, 1⟩
def fSKJ_STAT_SLOT : Fld := ⟨18, 7⟩
def fSKJ_STAT_EPOCH : Fld := ⟨0, 16⟩
def fSKJ_ERR_AUTH : Fld := ⟨24, 8⟩
def fSKJ_ERR_DELIVER_DROP : Fld := ⟨16, 8⟩
def fSKJ_ERR_RETRY : Fld := ⟨0, 16⟩
def fSKJ_CHAN_VALID : Fld := ⟨31, 1⟩
def fSKJ_CHAN_PATH : Fld := ⟨30, 1⟩
def fSKJ_CHAN_CLASS : Fld := ⟨28, 2⟩
def fSKJ_CHAN_REMOTE : Fld := ⟨22, 6⟩
def fSKJ_CHAN_STALL : Fld := ⟨17, 5⟩
def fSKJ_CHAN_DEST : Fld := ⟨0, 10⟩
def fWB_STAT_STATE : Fld := ⟨29, 3⟩
def fWB_STAT_KIND : Fld := ⟨27, 2⟩
def fWB_STAT_SPARES_FREE : Fld := ⟨24, 3⟩
def fWB_STAT_SHADOW : Fld := ⟨16, 7⟩
def fWB_STAT_CLK_OK : Fld := ⟨0, 2⟩
def fWB_LANE_FAIL_FAIL : Fld := ⟨0, 32⟩
def fWB_SPARE_MAP_MAP : Fld := ⟨0, 32⟩
def fWB_ERR_CRC_FAIL : Fld := ⟨16, 16⟩
def fWB_ERR_SHADOW_FIX : Fld := ⟨8, 8⟩
def fWB_ERR_LCHK : Fld := ⟨0, 8⟩
def fWB_CFG_ERR_LIMIT : Fld := ⟨0, 16⟩
def fDIE_STATE_STATE : Fld := ⟨30, 2⟩
def fDIE_STATE_CAUSE : Fld := ⟨27, 3⟩
def fDIE_STATE_QCOUNT : Fld := ⟨0, 16⟩
def fREPAIR_STAT_OVERFLOW : Fld := ⟨31, 1⟩
def fREPAIR_STAT_USED : Fld := ⟨0, 12⟩
def fUCIE_MOD_UP : Fld := ⟨31, 1⟩
def fUCIE_MOD_RATE : Fld := ⟨25, 6⟩
def fUCIE_MOD_REPAIRED : Fld := ⟨8, 8⟩
def fUCIE_MOD_RETRIES : Fld := ⟨0, 8⟩
def fPLL_STAT_ENABLED : Fld := ⟨16, 5⟩
def fPLL_STAT_IN_USE : Fld := ⟨8, 8⟩
def fPLL_STAT_LOCK : Fld := ⟨0, 8⟩
def fREF_STAT_HOLD : Fld := ⟨11, 1⟩
def fREF_STAT_FIXREF : Fld := ⟨8, 3⟩
def fREF_STAT_OK : Fld := ⟨0, 8⟩
def fREF_LOST_LOST : Fld := ⟨0, 8⟩
def fFMEAS_CTL_START : Fld := ⟨31, 1⟩
def fFMEAS_CTL_BUSY : Fld := ⟨30, 1⟩
def fFMEAS_CTL_CLASS : Fld := ⟨27, 3⟩
def fFMEAS_CTL_INDEX : Fld := ⟨14, 13⟩
def fFMEAS_CTL_WIN_US : Fld := ⟨0, 14⟩
def fFMEAS_CNT_COUNT : Fld := ⟨0, 32⟩
def fRST_CAUSE_CAUSE : Fld := ⟨0, 3⟩
def fPWR_CFG_DEFAULT_TOL : Fld := ⟨16, 16⟩
def fPWR_CFG_MAX_STATE : Fld := ⟨0, 2⟩
def fPWR_STAT_STATE : Fld := ⟨30, 2⟩
def fPWR_STAT_TARGET : Fld := ⟨28, 2⟩
def fPWR_STAT_EXITING : Fld := ⟨27, 1⟩
def fPWR_STAT_TOL_US : Fld := ⟨0, 16⟩
def fSPINE_CMD_DRST : Fld := ⟨16, 16⟩
def fSPINE_CMD_FORCE : Fld := ⟨0, 16⟩
def fSPINE_STAT_PEND : Fld := ⟨16, 16⟩
def fSPINE_STAT_INPUT : Fld := ⟨0, 16⟩
def fSPINE_LOSS_NEEDS_RST : Fld := ⟨16, 16⟩
def fSPINE_LOSS_LOST : Fld := ⟨0, 16⟩
def fSPINE_CFG_USR_SEL : Fld := ⟨16, 16⟩
def fSPINE_CFG_LOSS_ACT : Fld := ⟨0, 16⟩
def fPIN_CFG_SW_PEND : Fld := ⟨31, 1⟩
def fPIN_CFG_SW_LATE : Fld := ⟨30, 1⟩
def fPIN_CFG_SREF : Fld := ⟨13, 4⟩
def fPIN_CFG_PCLK : Fld := ⟨9, 4⟩
def fPIN_CFG_IN_EN : Fld := ⟨8, 1⟩
def fPIN_CFG_SLEW : Fld := ⟨7, 1⟩
def fPIN_CFG_DRIVE : Fld := ⟨5, 2⟩
def fPIN_CFG_PULL : Fld := ⟨3, 2⟩
def fPIN_CFG_FUNC : Fld := ⟨0, 3⟩
def fSCHED_SKIP_COUNT : Fld := ⟨0, 16⟩
def fPIRQ_SEL_MODE : Fld := ⟨4, 3⟩
def fPIRQ_SEL_BANK : Fld := ⟨0, 3⟩
def fPIRQ_PEND_LEVEL : Fld := ⟨16, 16⟩
def fPIRQ_PEND_PEND : Fld := ⟨0, 16⟩
def fSTRAP_BOOT_SRC : Fld := ⟨2, 3⟩
def fSTRAP_ROLE_SEL : Fld := ⟨0, 2⟩
def fENG_CFG_VALID : Fld := ⟨31, 1⟩
def fENG_CFG_DEV : Fld := ⟨30, 1⟩
def fENG_CFG_OWNED : Fld := ⟨29, 1⟩
def fENG_CFG_STALL : Fld := ⟨24, 5⟩
def fENG_CFG_KEY : Fld := ⟨17, 7⟩
def fENG_CFG_QOS_DEF : Fld := ⟨15, 2⟩
def fENG_CFG_QOS_MAX : Fld := ⟨13, 2⟩
def fENG_REACH_ALLOW : Fld := ⟨0, 32⟩
def fSTALL_TENANT_LIVE_TENANT : Fld := ⟨0, 64⟩
def fSTALL_TENANT_BG_TENANT : Fld := ⟨0, 64⟩
def fALARM_FIRED_LO_FIRED : Fld := ⟨0, 32⟩
def fALARM_FIRED_HI_FIRED : Fld := ⟨0, 32⟩
def fALARM_ACT_ACTION : Fld := ⟨0, 32⟩
def fALARM_STAT_ARMED : Fld := ⟨31, 1⟩
def fALARM_STAT_LATE : Fld := ⟨30, 1⟩
def fALARM_T_T : Fld := ⟨0, 64⟩
def fPRBS_ERR_COUNT : Fld := ⟨0, 48⟩
def fPRBS_BITS_COUNT : Fld := ⟨0, 48⟩
def fWIN_SRC_BASE : Fld := ⟨21, 43⟩
def fWIN_CFG_VALID : Fld := ⟨31, 1⟩
def fWIN_CFG_CFG : Fld := ⟨30, 1⟩
def fWIN_CFG_SIZE : Fld := ⟨0, 24⟩
def fWIN_TGT_FUNC : Fld := ⟨16, 12⟩
def fWIN_TGT_EP : Fld := ⟨0, 10⟩
def fWIN_DST_ADDR : Fld := ⟨0, 64⟩
def fIWIN_SRC_BASE : Fld := ⟨21, 43⟩
def fIWIN_CFG_VALID : Fld := ⟨31, 1⟩
def fIWIN_CFG_CFG : Fld := ⟨30, 1⟩
def fIWIN_CFG_SIZE : Fld := ⟨0, 24⟩
def fIWIN_TGT_FUNC : Fld := ⟨16, 12⟩
def fIWIN_TGT_EP : Fld := ⟨0, 10⟩
def fIWIN_DST_ADDR : Fld := ⟨0, 64⟩
def fPCIE_FN_SEL_F : Fld := ⟨0, 12⟩
def fPCIE_FN_ASSIGN_VALID : Fld := ⟨31, 1⟩
def fPCIE_FN_ASSIGN_STALL : Fld := ⟨24, 5⟩
def fPCIE_FN_ASSIGN_TARGET : Fld := ⟨0, 10⟩
def fETH_MAC_MAC : Fld := ⟨0, 48⟩
def fETH_IP_ADDR : Fld := ⟨0, 32⟩
def fETH_STN_CFG_VALID : Fld := ⟨31, 1⟩
def fETH_STN_CFG_MC : Fld := ⟨30, 1⟩
def fETH_STN_CFG_VLAN_EN : Fld := ⟨29, 1⟩
def fETH_STN_CFG_STALL : Fld := ⟨24, 5⟩
def fETH_STN_CFG_VID : Fld := ⟨12, 12⟩
def fETH_STN_CFG_DEST : Fld := ⟨0, 10⟩
def fETH_STN_MAC_MAC : Fld := ⟨0, 48⟩
def fSKJ_UDP_EN : Fld := ⟨31, 1⟩
def fSKJ_UDP_RTO_US : Fld := ⟨16, 15⟩
def fSKJ_UDP_MTU : Fld := ⟨0, 16⟩
def fSKJ_UDP_PORT_PEER_PORT : Fld := ⟨0, 16⟩
def fSKJ_UDP_PEER_ADDR : Fld := ⟨0, 32⟩
def fSKJ_UDP_NH_MAC : Fld := ⟨0, 48⟩
def fPLL_CFG_EN : Fld := ⟨31, 1⟩
def fPLL_CFG_REF : Fld := ⟨28, 3⟩
def fPLL_CFG_N : Fld := ⟨25, 3⟩
def fPLL_CFG_M : Fld := ⟨16, 9⟩
def fGPLL_CFG_EN : Fld := ⟨31, 1⟩
def fGPLL_CFG_REF : Fld := ⟨28, 3⟩
def fGPLL_CFG_N : Fld := ⟨25, 3⟩
def fGPLL_CFG_M : Fld := ⟨16, 9⟩
def fPLL_OUT_EN : Fld := ⟨31, 1⟩
def fPLL_OUT_WIN : Fld := ⟨28, 3⟩
def fPLL_OUT_PHASE_ALIGN : Fld := ⟨27, 1⟩
def fPLL_OUT_D : Fld := ⟨0, 10⟩
def fGPLL_OUT_EN : Fld := ⟨31, 1⟩
def fGPLL_OUT_WIN : Fld := ⟨28, 3⟩
def fGPLL_OUT_PHASE_ALIGN : Fld := ⟨27, 1⟩
def fGPLL_OUT_D : Fld := ⟨0, 10⟩
def fOUT_LOST_LOST : Fld := ⟨0, 32⟩
def fDCLK_LOST_LOST : Fld := ⟨0, 32⟩
def fSPINE_SEL_SEL : Fld := ⟨0, 16⟩
def fSPINE_GATE_GATE : Fld := ⟨0, 16⟩
def fGPIO_OUT_LO_OUT : Fld := ⟨0, 32⟩
def fGPIO_OUT_HI_OUT : Fld := ⟨0, 16⟩
def fGPIO_SET_LO_SET : Fld := ⟨0, 32⟩
def fGPIO_SET_HI_SET : Fld := ⟨0, 16⟩
def fGPIO_CLR_LO_CLR : Fld := ⟨0, 32⟩
def fGPIO_CLR_HI_CLR : Fld := ⟨0, 16⟩
def fGPIO_TGL_LO_TGL : Fld := ⟨0, 32⟩
def fGPIO_TGL_HI_TGL : Fld := ⟨0, 16⟩
def fGPIO_OE_LO_OE : Fld := ⟨0, 32⟩
def fGPIO_OE_HI_OE : Fld := ⟨0, 16⟩
def fGPIO_IN_LO_IN : Fld := ⟨0, 32⟩
def fGPIO_IN_HI_IN : Fld := ⟨0, 16⟩
def fSCHED_CFG_VALID : Fld := ⟨31, 1⟩
def fSCHED_CFG_BANK : Fld := ⟨4, 3⟩
def fSCHED_CFG_OP : Fld := ⟨0, 2⟩
def fSCHED_MASK_MASK : Fld := ⟨0, 48⟩
def fSCHED_VAL_VAL : Fld := ⟨0, 48⟩
def fMGPIO_OUT_OUT : Fld := ⟨0, 64⟩
def fMGPIO_OE_OE : Fld := ⟨0, 64⟩
def fMGPIO_IN_IN : Fld := ⟨0, 64⟩
def fDBG_GRANT_VALID : Fld := ⟨31, 1⟩
def fDBG_GRANT_LEVEL : Fld := ⟨29, 2⟩
def fDBG_GRANT_END : Fld := ⟨28, 1⟩
def fDBG_GRANT_PWR_EMU : Fld := ⟨27, 1⟩
def fDBG_STALLS_STALLS : Fld := ⟨0, 32⟩
def fDBG_NONCE_NONCE : Fld := ⟨0, 64⟩
def fDBG_NAFTER_NOT_AFTER : Fld := ⟨0, 64⟩
def fDBG_ACC_ADDR_ADDR : Fld := ⟨0, 28⟩
def fDBG_ACC_DATA_DATA : Fld := ⟨0, 32⟩
def fDBG_ACC_CTL_GO : Fld := ⟨31, 1⟩
def fDBG_ACC_CTL_WRITE : Fld := ⟨30, 1⟩
def fDBG_ACC_CTL_STALL : Fld := ⟨25, 5⟩
def fDBG_ACC_CTL_BUSY : Fld := ⟨24, 1⟩
def fDBG_ACC_CTL_RESULT : Fld := ⟨20, 4⟩
def fCAP_CTL_ARM : Fld := ⟨31, 1⟩
def fCAP_CTL_FIRE : Fld := ⟨30, 1⟩
def fCAP_CTL_RESUME : Fld := ⟨29, 1⟩
def fCAP_CTL_HOLD : Fld := ⟨28, 1⟩
def fCAP_CTL_STALL : Fld := ⟨0, 5⟩
def fCAP_STAT_STOPPED : Fld := ⟨31, 1⟩
def fCAP_STAT_SUSPECT : Fld := ⟨30, 1⟩
def fCAP_STAT_VALID : Fld := ⟨29, 1⟩
def fCAP_SEL_SHED : Fld := ⟨12, 13⟩
def fCAP_SEL_WORD : Fld := ⟨0, 12⟩
def fCAP_DATA_DATA : Fld := ⟨0, 32⟩
def fDBG_E_CMD_COUNT : Fld := ⟨24, 8⟩
def fDBG_E_CMD_OP : Fld := ⟨0, 3⟩
def fDBG_E_STAT_HALTED : Fld := ⟨31, 1⟩
def fDBG_E_STAT_DEFER : Fld := ⟨30, 1⟩
def fDBG_E_STAT_LOCK_BROKEN : Fld := ⟨29, 1⟩
def fDBG_E_STAT_SWAPPED : Fld := ⟨28, 1⟩
def fDBG_E_STAT_WP_HIT : Fld := ⟨24, 4⟩
def fDBG_E_STAT_VIEW : Fld := ⟨21, 3⟩
def fDBG_E_STAT_WP_PC : Fld := ⟨0, 11⟩
def fDBG_E_REGSEL_SEL : Fld := ⟨0, 15⟩
def fDBG_E_DATA_DATA : Fld := ⟨0, 32⟩
def fWP_CFG_COUNT : Fld := ⟨24, 8⟩
def fWP_CFG_ACT : Fld := ⟨4, 4⟩
def fWP_CFG_KIND : Fld := ⟨0, 3⟩
def fWP_ADDR_ADDR : Fld := ⟨0, 20⟩
def fWP_AMASK_ADDR_MASK : Fld := ⟨0, 20⟩
def fWP_DATA_DATA : Fld := ⟨0, 32⟩
def fWP_DATA_DATA_MASK : Fld := ⟨32, 32⟩
def fRING_CTL_EN : Fld := ⟨31, 1⟩
def fRING_CTL_WRAP : Fld := ⟨30, 1⟩
def fRING_CTL_STALL : Fld := ⟨0, 5⟩
def fRING_STAT_LOST : Fld := ⟨16, 16⟩
def fRING_STAT_LEVEL : Fld := ⟨0, 13⟩
def fRING_RD_IDX : Fld := ⟨0, 12⟩
def fRING_DATA_DATA : Fld := ⟨0, 32⟩
def fCXL_SIZE_SIZE : Fld := ⟨0, 23⟩
def fCXL_BASE_BASE : Fld := ⟨0, 23⟩
def fAGG_CFG_SUB_DEVICE : Fld := ⟨1, 1⟩
def fAGG_CFG_EN : Fld := ⟨0, 1⟩
def fAGG_STAT_OVF : Fld := ⟨31, 1⟩
def fAGG_STAT_LEVEL : Fld := ⟨0, 9⟩
def fAGG_HEAD_VALID : Fld := ⟨31, 1⟩
def fAGG_HEAD_PAGE : Fld := ⟨0, 16⟩
def fAGG_POP_POP : Fld := ⟨0, 1⟩
def fAGG_GROUP_GROUP : Fld := ⟨0, 21⟩
def fPAGE_ID_TYPE : Fld := ⟨24, 8⟩
def fPAGE_ID_INSTANCE : Fld := ⟨0, 16⟩
def fPAGE_VER_MAJOR : Fld := ⟨8, 8⟩
def fPAGE_VER_MINOR : Fld := ⟨0, 8⟩
def fPAGE_CTRL_SOFT_RST : Fld := ⟨1, 1⟩
def fPAGE_CTRL_ENABLE : Fld := ⟨0, 1⟩
def fPAGE_STAT_LOCKED : Fld := ⟨3, 1⟩
def fPAGE_STAT_UP : Fld := ⟨2, 1⟩
def fPAGE_STAT_IRQ : Fld := ⟨1, 1⟩
def fPAGE_STAT_ERR : Fld := ⟨0, 1⟩
def fIRQ_RAW_ERR : Fld := ⟨31, 1⟩
def fIRQ_RAW_RAW : Fld := ⟨0, 31⟩
def fIRQ_EN_EN : Fld := ⟨0, 32⟩
def fIRQ_FORCE_FORCE : Fld := ⟨0, 32⟩
def fIRQ_STAT_STAT : Fld := ⟨0, 32⟩
def fERR_FIRST_VALID : Fld := ⟨31, 1⟩
def fERR_FIRST_CAUSE : Fld := ⟨28, 3⟩
def fERR_FIRST_SRC : Fld := ⟨25, 3⟩
def fERR_FIRST_STALL : Fld := ⟨20, 5⟩
def fERR_FIRST_SELF : Fld := ⟨19, 1⟩
def fERR_FIRST_OFFSET : Fld := ⟨0, 12⟩
def fERR_COUNT_COUNT : Fld := ⟨0, 16⟩
def fOWNER_KIND : Fld := ⟨6, 2⟩
def fOWNER_ID : Fld := ⟨0, 5⟩
def fLOCK_LOCKED : Fld := ⟨0, 1⟩
def fTIDE_STALL_NOW_NOW : Fld := ⟨0, 64⟩

end Sys2Proof.Machine
end

