-- ==== Sys2Proof/Machine/RegTable.lean ====
section
/-! DEFINITION. The register tables of the spec as data: for each page kind, every register's offset, repetition, width and fields with
their access types and reset values (R4, R7, R9, R460). -/

namespace Sys2Proof.Machine

/-- The access types of Table SCP-4 (R7). -/
inductive Acc where
  | rw
  | ro
  | wo
  | w1c
  | w1s
  | rc
  deriving DecidableEq, Repr

/-- One field of a register: its bits, access type and reset value. -/
structure FieldDef where
  hi : Nat
  lo : Nat
  acc : Acc
  reset : Nat
  deriving DecidableEq, Repr

/-- One register or array of registers of a page: its offset, the (count, stride) of each index, whether it is 64 bits wide (R4), its fields. -/
structure RegDef where
  off : Nat
  dims : List (Nat × Nat)
  wide : Bool
  fields : List FieldDef
  deriving DecidableEq, Repr

/-- The common header of every page (R460, Table MAP-2). -/
def regsHeader : List RegDef :=
  [⟨0x000, [], false, [⟨31, 24, .ro, 0⟩, ⟨15, 0, .ro, 0⟩]⟩,
   ⟨0x004, [], false, [⟨15, 8, .ro, 1⟩, ⟨7, 0, .ro, 0⟩]⟩,
   ⟨0x008, [], false, [⟨1, 1, .wo, 0⟩, ⟨0, 0, .rw, 1⟩]⟩,
   ⟨0x00c, [], false, [⟨3, 3, .ro, 0⟩, ⟨2, 2, .ro, 0⟩, ⟨1, 1, .ro, 0⟩, ⟨0, 0, .ro, 0⟩]⟩,
   ⟨0x010, [], false, [⟨31, 31, .w1c, 0⟩, ⟨30, 0, .w1c, 0⟩]⟩,
   ⟨0x014, [], false, [⟨31, 0, .rw, 0⟩]⟩,
   ⟨0x018, [], false, [⟨31, 0, .wo, 0⟩]⟩,
   ⟨0x01c, [], false, [⟨31, 0, .ro, 0⟩]⟩,
   ⟨0x020, [], false, [⟨31, 31, .w1c, 0⟩, ⟨30, 28, .ro, 0⟩, ⟨27, 25, .ro, 0⟩, ⟨24, 20, .ro, 0⟩, ⟨19, 19, .ro, 0⟩, ⟨11, 0, .ro, 0⟩]⟩,
   ⟨0x024, [], false, [⟨15, 0, .rc, 0⟩]⟩,
   ⟨0x028, [], false, [⟨7, 6, .ro, 0⟩, ⟨4, 0, .ro, 0⟩]⟩,
   ⟨0x02c, [], false, [⟨0, 0, .w1s, 0⟩]⟩]

/-- The body registers of page TOLMOR_CTL. -/
def regsTolmorCtl : List RegDef :=
  [⟨0x040, [], false, [⟨31, 30, .ro, 3⟩, ⟨29, 28, .ro, 0⟩, ⟨15, 0, .ro, 0⟩]⟩,
   ⟨0x044, [], false, [⟨31, 16, .ro, 0⟩, ⟨15, 14, .ro, 0⟩, ⟨13, 11, .ro, 0⟩]⟩,
   ⟨0x048, [], true, [⟨63, 0, .ro, 0⟩]⟩,
   ⟨0x050, [], false, [⟨31, 0, .ro, 0⟩]⟩,
   ⟨0x054, [], false, [⟨15, 0, .rc, 0⟩]⟩]

/-- The body registers of page TIDE_CTL. -/
def regsTideCtl : List RegDef :=
  [⟨0x040, [], true, [⟨63, 0, .ro, 0⟩]⟩,
   ⟨0x048, [], false, [⟨31, 29, .ro, 0⟩, ⟨28, 26, .ro, 7⟩, ⟨25, 25, .ro, 0⟩, ⟨24, 22, .ro, 0⟩, ⟨15, 0, .ro, 0⟩]⟩,
   ⟨0x04c, [], false, [⟨31, 0, .ro, 0⟩]⟩,
   ⟨0x050, [], false, [⟨31, 0, .ro, 0⟩]⟩,
   ⟨0x054, [], false, [⟨31, 24, .rw, 100⟩, ⟨23, 16, .rw, 20⟩, ⟨15, 4, .rw, 1000⟩, ⟨1, 0, .rw, 0⟩]⟩,
   ⟨0x058, [], false, [⟨15, 0, .rw, 0⟩]⟩,
   ⟨0x080, [(16, 0x4)], false, [⟨15, 0, .rw, 0⟩]⟩]

/-- The body registers of page TALLY_CTL. -/
def regsTallyCtl : List RegDef :=
  [⟨0x040, [], true, [⟨63, 0, .ro, 0⟩]⟩,
   ⟨0x048, [], false, [⟨31, 24, .rc, 0⟩, ⟨23, 16, .rc, 0⟩, ⟨15, 0, .rc, 0⟩]⟩,
   ⟨0x04c, [], false, [⟨31, 31, .ro, 0⟩, ⟨30, 29, .ro, 0⟩, ⟨28, 24, .ro, 0⟩, ⟨23, 21, .ro, 0⟩, ⟨20, 10, .ro, 0⟩]⟩]

/-- The body registers of page PKG_INV. -/
def regsPkgInv : List RegDef :=
  [⟨0x040, [(17, 0x4)], false, [⟨31, 31, .ro, 0⟩, ⟨30, 28, .ro, 0⟩, ⟨27, 20, .ro, 0⟩, ⟨19, 12, .ro, 0⟩, ⟨11, 8, .ro, 0⟩]⟩]

/-- The body registers of page DIE_CTL. -/
def regsDieCtl : List RegDef :=
  [⟨0x040, [(12, 0x4)], false, [⟨31, 30, .ro, 0⟩, ⟨29, 27, .ro, 0⟩, ⟨15, 0, .ro, 0⟩]⟩,
   ⟨0x080, [], false, [⟨31, 31, .ro, 0⟩, ⟨11, 0, .ro, 0⟩]⟩]

/-- The body registers of page TRIB_CTL. -/
def regsTribCtl : List RegDef :=
  [⟨0x040, [], false, [⟨31, 31, .ro, 0⟩, ⟨30, 16, .ro, 0⟩, ⟨15, 11, .ro, 0⟩, ⟨10, 6, .ro, 0⟩, ⟨5, 5, .ro, 0⟩, ⟨4, 0, .ro, 0⟩]⟩,
   ⟨0x044, [], false, [⟨23, 0, .ro, 0⟩]⟩,
   ⟨0x048, [], false, [⟨15, 0, .rc, 0⟩]⟩,
   ⟨0x050, [], false, [⟨14, 0, .rw, 0⟩]⟩,
   ⟨0x054, [], false, [⟨31, 31, .ro, 0⟩, ⟨30, 26, .ro, 0⟩, ⟨25, 25, .ro, 0⟩, ⟨24, 20, .ro, 0⟩, ⟨19, 19, .ro, 0⟩, ⟨18, 14, .ro, 0⟩]⟩,
   ⟨0x058, [], false, [⟨23, 0, .ro, 0⟩]⟩,
   ⟨0x060, [], false, [⟨31, 31, .ro, 0⟩, ⟨30, 28, .ro, 0⟩, ⟨27, 23, .ro, 0⟩, ⟨22, 20, .ro, 0⟩, ⟨19, 14, .ro, 0⟩]⟩,
   ⟨0x064, [], false, [⟨14, 0, .ro, 0⟩]⟩]

/-- The body registers of page TREE_CTL. -/
def regsTreeCtl : List RegDef :=
  [⟨0x040, [], false, [⟨31, 29, .ro, 0⟩, ⟨28, 27, .ro, 0⟩, ⟨26, 23, .ro, 0⟩, ⟨15, 0, .ro, 0⟩]⟩,
   ⟨0x044, [], false, [⟨31, 16, .ro, 0⟩, ⟨15, 0, .rw, 65535⟩]⟩,
   ⟨0x048, [], false, [⟨10, 0, .ro, 0⟩]⟩]

/-- The body registers of page MBOX_x. -/
def regsMbox : List RegDef :=
  [⟨0x040, [], false, [⟨0, 0, .wo, 0⟩]⟩,
   ⟨0x044, [], false, [⟨31, 31, .ro, 0⟩, ⟨30, 30, .ro, 0⟩, ⟨29, 29, .ro, 0⟩, ⟨13, 8, .ro, 0⟩, ⟨4, 0, .ro, 0⟩]⟩,
   ⟨0x048, [], false, [⟨0, 0, .wo, 0⟩]⟩,
   ⟨0x050, [(4, 0x4)], false, [⟨31, 0, .ro, 0⟩]⟩,
   ⟨0x100, [(64, 0x4)], false, [⟨31, 0, .rw, 0⟩]⟩]

/-- The body registers of page TIDE_ALARM. -/
def regsTideAlarm : List RegDef :=
  [⟨0x040, [], false, [⟨31, 0, .w1c, 0⟩]⟩,
   ⟨0x044, [], false, [⟨31, 0, .w1c, 0⟩]⟩,
   ⟨0x100, [(64, 0x10)], false, [⟨31, 0, .ro, 0⟩]⟩,
   ⟨0x104, [(64, 0x10)], false, [⟨31, 31, .ro, 0⟩, ⟨30, 30, .ro, 0⟩]⟩,
   ⟨0x108, [(64, 0x10)], true, [⟨63, 0, .ro, 0⟩]⟩]

/-- The body registers of page CLK_CTL. -/
def regsClkCtl : List RegDef :=
  [⟨0x040, [], false, [⟨11, 11, .ro, 0⟩, ⟨10, 8, .ro, 4⟩, ⟨7, 0, .ro, 0⟩]⟩,
   ⟨0x044, [], false, [⟨7, 0, .w1c, 0⟩]⟩,
   ⟨0x080, [(8, 0x20)], false, [⟨31, 31, .rw, 0⟩, ⟨30, 28, .rw, 4⟩, ⟨27, 25, .rw, 4⟩, ⟨24, 16, .rw, 200⟩]⟩,
   ⟨0x084, [(8, 0x20), (4, 0x4)], false, [⟨31, 31, .rw, 0⟩, ⟨30, 28, .ro, 0⟩, ⟨27, 27, .rw, 0⟩, ⟨9, 0, .rw, 25⟩]⟩,
   ⟨0x180, [], false, [⟨31, 0, .w1c, 0⟩]⟩,
   ⟨0x1c0, [], false, [⟨31, 31, .wo, 0⟩, ⟨30, 30, .ro, 0⟩, ⟨29, 27, .rw, 0⟩, ⟨26, 14, .rw, 0⟩, ⟨13, 0, .rw, 1⟩]⟩,
   ⟨0x1c4, [], false, [⟨31, 0, .ro, 0⟩]⟩,
   ⟨0x1d0, [], false, [⟨2, 0, .ro, 0⟩]⟩,
   ⟨0x200, [], false, [⟨31, 16, .rw, 0⟩, ⟨1, 0, .rw, 3⟩]⟩,
   ⟨0x204, [], false, [⟨31, 30, .ro, 0⟩, ⟨29, 28, .ro, 0⟩, ⟨27, 27, .ro, 0⟩, ⟨15, 0, .ro, 0⟩]⟩]

/-- The body registers of page STALL_n. -/
def regsStall : List RegDef :=
  [⟨0x040, [], false, [⟨31, 29, .ro, 0⟩, ⟨28, 25, .ro, 0⟩, ⟨24, 24, .ro, 0⟩, ⟨23, 23, .ro, 0⟩, ⟨22, 22, .ro, 0⟩, ⟨21, 21, .ro, 0⟩, ⟨15, 0, .ro, 0⟩]⟩,
   ⟨0x048, [], true, [⟨63, 0, .ro, 0⟩]⟩,
   ⟨0x050, [], true, [⟨63, 0, .ro, 0⟩]⟩,
   ⟨0x058, [], false, [⟨31, 16, .ro, 0⟩, ⟨15, 0, .ro, 0⟩]⟩,
   ⟨0x05c, [], false, [⟨31, 31, .ro, 0⟩, ⟨30, 27, .ro, 0⟩, ⟨26, 24, .ro, 0⟩, ⟨23, 18, .ro, 0⟩]⟩,
   ⟨0x060, [], true, [⟨63, 0, .ro, 0⟩]⟩,
   ⟨0x068, [], true, [⟨63, 0, .ro, 0⟩]⟩]

/-- The body registers of page TIDE_STALL_n. -/
def regsTideStall : List RegDef :=
  [⟨0x040, [], false, [⟨19, 16, .rw, 0⟩, ⟨15, 12, .ro, 0⟩, ⟨11, 8, .w1c, 0⟩, ⟨7, 4, .wo, 0⟩, ⟨3, 0, .w1s, 0⟩]⟩,
   ⟨0x048, [], true, [⟨63, 0, .ro, 0⟩]⟩,
   ⟨0x080, [(4, 0x8)], true, [⟨63, 0, .rw, 0⟩]⟩]

/-- The body registers of page PIN_IRQ. -/
def regsPinIrq : List RegDef :=
  [⟨0x040, [(16, 0x4)], false, [⟨6, 4, .rw, 0⟩, ⟨2, 0, .rw, 0⟩]⟩,
   ⟨0x080, [], false, [⟨31, 16, .ro, 0⟩, ⟨15, 0, .w1c, 0⟩]⟩]

/-- The body registers of page PIN_SCHED. -/
def regsPinSched : List RegDef :=
  [⟨0x100, [(32, 0x20)], false, [⟨31, 31, .rw, 0⟩, ⟨6, 4, .rw, 0⟩, ⟨1, 0, .rw, 0⟩]⟩,
   ⟨0x108, [(32, 0x20)], true, [⟨47, 0, .rw, 0⟩]⟩,
   ⟨0x110, [(32, 0x20)], true, [⟨47, 0, .rw, 0⟩]⟩]

/-- The body registers of page MGPIO. -/
def regsMgpio : List RegDef :=
  [⟨0x040, [], true, [⟨63, 0, .rw, 0⟩]⟩,
   ⟨0x048, [], true, [⟨63, 0, .rw, 0⟩]⟩,
   ⟨0x050, [], true, [⟨63, 0, .ro, 0⟩]⟩,
   ⟨0x058, [], false, [⟨4, 2, .ro, 0⟩, ⟨1, 0, .ro, 0⟩]⟩]

/-- The body registers of page IRQ_AGG_v. -/
def regsIrqAgg : List RegDef :=
  [⟨0x040, [], false, [⟨1, 1, .rw, 0⟩, ⟨0, 0, .rw, 1⟩]⟩,
   ⟨0x044, [], false, [⟨31, 31, .w1c, 0⟩, ⟨8, 0, .ro, 0⟩]⟩,
   ⟨0x048, [], false, [⟨31, 31, .ro, 0⟩, ⟨15, 0, .ro, 0⟩]⟩,
   ⟨0x04c, [], false, [⟨0, 0, .wo, 0⟩]⟩,
   ⟨0x050, [], false, [⟨20, 0, .ro, 0⟩]⟩]

/-- The body registers of page SHED_MEM_y_s. -/
def regsShedMem : List RegDef :=
  [⟨0x040, [], false, [⟨15, 0, .rc, 0⟩]⟩,
   ⟨0x044, [], false, [⟨15, 0, .rc, 0⟩]⟩,
   ⟨0x048, [], false, [⟨31, 31, .ro, 0⟩, ⟨30, 30, .ro, 0⟩, ⟨29, 24, .ro, 0⟩, ⟨12, 0, .ro, 0⟩]⟩,
   ⟨0x050, [], false, [⟨31, 0, .ro, 0⟩]⟩,
   ⟨0x054, [], false, [⟨27, 0, .ro, 0⟩]⟩]

/-- The body registers of page SHED_TRIB_y_s. -/
def regsShedTrib : List RegDef :=
  [⟨0x040, [], false, [⟨0, 0, .rw, 1⟩]⟩,
   ⟨0x044, [], false, [⟨8, 8, .ro, 0⟩, ⟨7, 4, .ro, 0⟩, ⟨3, 0, .ro, 0⟩]⟩,
   ⟨0x048, [], false, [⟨15, 0, .rc, 0⟩]⟩]

/-- The body registers of page SHED_CFG_y_s. -/
def regsShedCfg : List RegDef :=
  [⟨0x040, [], false, [⟨31, 31, .ro, 0⟩, ⟨30, 26, .ro, 0⟩, ⟨25, 25, .ro, 0⟩, ⟨24, 22, .ro, 0⟩, ⟨21, 21, .ro, 0⟩, ⟨20, 18, .ro, 0⟩, ⟨17, 17, .ro, 0⟩, ⟨16, 16, .ro, 1⟩, ⟨15, 12, .ro, 0⟩]⟩]

/-- The body registers of page SHED_CLK_y_s. -/
def regsShedClk : List RegDef :=
  [⟨0x040, [], false, [⟨15, 0, .rw, 0⟩]⟩,
   ⟨0x044, [], false, [⟨15, 0, .rw, 0⟩]⟩,
   ⟨0x048, [], false, [⟨31, 16, .wo, 0⟩, ⟨15, 0, .wo, 0⟩]⟩,
   ⟨0x04c, [], false, [⟨31, 16, .ro, 0⟩, ⟨15, 0, .ro, 0⟩]⟩,
   ⟨0x050, [], false, [⟨31, 16, .ro, 0⟩, ⟨15, 0, .w1c, 0⟩]⟩,
   ⟨0x054, [], false, [⟨31, 16, .ro, 0⟩, ⟨15, 0, .rw, 65535⟩]⟩]

/-- The body registers of page WB_y_b. -/
def regsWb : List RegDef :=
  [⟨0x040, [], false, [⟨31, 29, .ro, 0⟩, ⟨28, 27, .ro, 0⟩, ⟨26, 24, .ro, 0⟩, ⟨22, 16, .ro, 127⟩, ⟨1, 0, .ro, 0⟩]⟩,
   ⟨0x044, [(3, 0x4)], false, [⟨31, 0, .ro, 0⟩]⟩,
   ⟨0x050, [], false, [⟨31, 0, .ro, 0⟩]⟩,
   ⟨0x054, [], false, [⟨31, 16, .rc, 0⟩, ⟨15, 8, .rc, 0⟩, ⟨7, 0, .rc, 0⟩]⟩,
   ⟨0x058, [], false, [⟨15, 0, .rw, 64⟩]⟩]

/-- The body registers of page YARD_CLK_y. -/
def regsYardClk : List RegDef :=
  [⟨0x040, [(8, 0x4)], false, [⟨31, 31, .rw, 0⟩, ⟨30, 28, .rw, 4⟩, ⟨27, 25, .rw, 4⟩, ⟨24, 16, .rw, 200⟩]⟩,
   ⟨0x080, [(8, 0x10), (4, 0x4)], false, [⟨31, 31, .rw, 0⟩, ⟨30, 28, .ro, 0⟩, ⟨27, 27, .rw, 0⟩, ⟨9, 0, .rw, 25⟩]⟩,
   ⟨0x100, [], false, [⟨20, 16, .ro, 0⟩, ⟨15, 8, .ro, 0⟩, ⟨7, 0, .ro, 0⟩]⟩,
   ⟨0x104, [], false, [⟨31, 0, .w1c, 0⟩]⟩]

/-- The body registers of page YARD_SCRUB_y. -/
def regsYardScrub : List RegDef :=
  [⟨0x040, [], false, [⟨15, 8, .rw, 0⟩, ⟨1, 1, .rw, 1⟩, ⟨0, 0, .rw, 1⟩]⟩,
   ⟨0x044, [], false, [⟨31, 8, .ro, 0⟩, ⟨7, 2, .ro, 0⟩, ⟨1, 1, .ro, 0⟩, ⟨0, 0, .ro, 0⟩]⟩,
   ⟨0x048, [], false, [⟨31, 0, .rc, 0⟩]⟩,
   ⟨0x04c, [], false, [⟨15, 0, .rc, 0⟩]⟩,
   ⟨0x050, [], true, [⟨38, 32, .ro, 0⟩, ⟨31, 31, .ro, 0⟩, ⟨30, 25, .ro, 0⟩, ⟨24, 24, .ro, 0⟩, ⟨23, 12, .ro, 0⟩, ⟨11, 6, .ro, 0⟩]⟩]

/-- The body registers of page PIN_BANK_b. -/
def regsPinBank : List RegDef :=
  [⟨0x040, [], false, [⟨31, 0, .rw, 0⟩]⟩,
   ⟨0x044, [], false, [⟨15, 0, .rw, 0⟩]⟩,
   ⟨0x048, [], false, [⟨31, 0, .w1s, 0⟩]⟩,
   ⟨0x04c, [], false, [⟨15, 0, .w1s, 0⟩]⟩,
   ⟨0x050, [], false, [⟨31, 0, .w1c, 0⟩]⟩,
   ⟨0x054, [], false, [⟨15, 0, .w1c, 0⟩]⟩,
   ⟨0x058, [], false, [⟨31, 0, .wo, 0⟩]⟩,
   ⟨0x05c, [], false, [⟨15, 0, .wo, 0⟩]⟩,
   ⟨0x060, [], false, [⟨31, 0, .rw, 0⟩]⟩,
   ⟨0x064, [], false, [⟨15, 0, .rw, 0⟩]⟩,
   ⟨0x068, [], false, [⟨31, 0, .ro, 0⟩]⟩,
   ⟨0x06c, [], false, [⟨15, 0, .ro, 0⟩]⟩,
   ⟨0x070, [], false, [⟨15, 0, .rc, 0⟩]⟩,
   ⟨0x100, [(48, 0x4)], false, [⟨31, 31, .ro, 0⟩, ⟨30, 30, .w1c, 0⟩, ⟨16, 13, .rw, 0⟩, ⟨12, 9, .rw, 0⟩, ⟨8, 8, .rw, 0⟩, ⟨7, 7, .rw, 0⟩, ⟨6, 5, .rw, 0⟩, ⟨4, 3, .rw, 0⟩, ⟨2, 0, .rw, 0⟩]⟩]

/-- The body registers of page EDDY_n. -/
def regsEddy : List RegDef :=
  [⟨0x040, [], false, [⟨17, 8, .rw, 128⟩, ⟨1, 1, .rw, 1⟩, ⟨0, 0, .rw, 0⟩]⟩,
   ⟨0x044, [], false, [⟨31, 31, .w1c, 0⟩, ⟨30, 26, .ro, 0⟩, ⟨25, 24, .ro, 0⟩, ⟨10, 0, .ro, 0⟩]⟩,
   ⟨0x048, [], false, [⟨31, 0, .ro, 0⟩]⟩,
   ⟨0x04c, [], false, [⟨31, 16, .rc, 0⟩, ⟨15, 0, .rc, 0⟩]⟩,
   ⟨0x050, [], false, [⟨3, 3, .wo, 0⟩, ⟨2, 2, .wo, 0⟩, ⟨1, 1, .wo, 0⟩, ⟨0, 0, .wo, 0⟩]⟩,
   ⟨0x054, [], false, [⟨26, 16, .ro, 0⟩, ⟨15, 13, .ro, 0⟩, ⟨12, 12, .ro, 0⟩, ⟨8, 8, .ro, 0⟩, ⟨7, 4, .ro, 0⟩, ⟨3, 3, .ro, 0⟩, ⟨2, 0, .ro, 0⟩]⟩,
   ⟨0x058, [], false, [⟨10, 0, .rw, 0⟩]⟩,
   ⟨0x05c, [], false, [⟨31, 0, .rw, 16777216⟩]⟩,
   ⟨0x060, [], false, [⟨31, 0, .ro, 0⟩]⟩,
   ⟨0x064, [], false, [⟨31, 31, .rw, 0⟩, ⟨30, 30, .w1c, 0⟩, ⟨29, 29, .rw, 0⟩, ⟨28, 28, .w1c, 0⟩, ⟨14, 0, .rw, 0⟩]⟩,
   ⟨0x068, [], false, [⟨31, 0, .rw, 0⟩]⟩]

/-- The body registers of page EDDY_IO_n. -/
def regsEddyIo : List RegDef :=
  [⟨0x040, [], false, [⟨10, 10, .wo, 0⟩, ⟨9, 9, .wo, 0⟩, ⟨8, 8, .wo, 0⟩, ⟨1, 1, .rw, 0⟩, ⟨0, 0, .rw, 0⟩]⟩,
   ⟨0x044, [], false, [⟨27, 24, .ro, 0⟩, ⟨19, 16, .ro, 0⟩, ⟨12, 8, .ro, 0⟩, ⟨4, 0, .ro, 0⟩]⟩,
   ⟨0x050, [(8, 0x4)], false, [⟨31, 0, .wo, 0⟩]⟩,
   ⟨0x070, [(8, 0x4)], false, [⟨31, 0, .ro, 0⟩]⟩,
   ⟨0x090, [], false, [⟨15, 0, .rc, 0⟩]⟩]

/-- The body registers of page MIL_CTL. -/
def regsMilCtl : List RegDef :=
  [⟨0x040, [], false, [⟨23, 16, .rw, 8⟩, ⟨15, 8, .rw, 4⟩, ⟨7, 0, .rw, 1⟩]⟩,
   ⟨0x044, [], false, [⟨31, 16, .rw, 16⟩, ⟨15, 0, .rw, 100⟩]⟩]

/-- The body registers of page MIL_RTR_c_r. -/
def regsMilRtr : List RegDef :=
  [⟨0x040, [], false, [⟨31, 16, .rc, 0⟩, ⟨15, 0, .rc, 0⟩]⟩,
   ⟨0x044, [], false, [⟨31, 31, .ro, 0⟩, ⟨30, 30, .ro, 0⟩, ⟨29, 29, .ro, 0⟩, ⟨28, 26, .ro, 0⟩, ⟨25, 25, .ro, 0⟩, ⟨24, 22, .ro, 0⟩]⟩]

/-- The body registers of page MIL_EP_e. -/
def regsMilEp : List RegDef :=
  [⟨0x040, [], false, [⟨11, 11, .wo, 0⟩, ⟨10, 10, .wo, 0⟩, ⟨9, 9, .wo, 0⟩, ⟨8, 8, .wo, 0⟩, ⟨6, 4, .rw, 1⟩, ⟨2, 0, .rw, 1⟩]⟩,
   ⟨0x044, [], false, [⟨31, 31, .ro, 0⟩, ⟨30, 30, .ro, 0⟩, ⟨29, 29, .ro, 0⟩, ⟨28, 28, .ro, 0⟩, ⟨23, 18, .ro, 0⟩, ⟨17, 12, .ro, 0⟩, ⟨11, 6, .ro, 0⟩, ⟨5, 0, .ro, 0⟩]⟩,
   ⟨0x048, [], false, [⟨10, 0, .ro, 0⟩]⟩,
   ⟨0x04c, [], false, [⟨31, 24, .rc, 0⟩, ⟨23, 16, .rc, 0⟩, ⟨15, 8, .rc, 0⟩, ⟨7, 0, .rc, 0⟩]⟩,
   ⟨0x050, [], false, [⟨31, 31, .ro, 0⟩, ⟨30, 27, .ro, 0⟩, ⟨26, 17, .ro, 0⟩, ⟨16, 7, .ro, 0⟩]⟩]

/-- The body registers of page MIL_EPCFG_e. -/
def regsMilEpcfg : List RegDef :=
  [⟨0x040, [], false, [⟨31, 31, .rw, 0⟩, ⟨30, 30, .rw, 0⟩, ⟨29, 29, .rw, 0⟩, ⟨28, 24, .rw, 0⟩, ⟨23, 17, .rw, 0⟩, ⟨16, 15, .rw, 0⟩, ⟨14, 13, .rw, 0⟩]⟩,
   ⟨0x080, [(32, 0x4)], false, [⟨31, 0, .rw, 0⟩]⟩,
   ⟨0x100, [(4, 0x4)], false, [⟨31, 31, .rw, 0⟩, ⟨30, 30, .rw, 0⟩, ⟨29, 29, .rw, 0⟩, ⟨28, 24, .rw, 0⟩, ⟨23, 17, .rw, 0⟩, ⟨16, 15, .rw, 0⟩, ⟨14, 13, .rw, 0⟩]⟩,
   ⟨0x200, [(4, 0x80), (32, 0x4)], false, [⟨31, 0, .rw, 0⟩]⟩]

/-- The body registers of page SLUICE_CTL. -/
def regsSluiceCtl : List RegDef :=
  [⟨0x040, [], false, [⟨31, 0, .rw, 65536⟩]⟩,
   ⟨0x100, [(128, 0x4)], false, [⟨31, 30, .ro, 0⟩, ⟨29, 29, .ro, 0⟩, ⟨28, 28, .ro, 0⟩, ⟨15, 12, .ro, 0⟩, ⟨11, 0, .ro, 0⟩]⟩,
   ⟨0x400, [(128, 0x8)], true, [⟨47, 0, .ro, 0⟩]⟩]

/-- The body registers of page HBMP_k_p. -/
def regsHbmp : List RegDef :=
  [⟨0x040, [], false, [⟨31, 31, .ro, 0⟩, ⟨30, 30, .ro, 0⟩, ⟨29, 29, .ro, 0⟩, ⟨28, 24, .ro, 0⟩, ⟨20, 16, .ro, 0⟩, ⟨15, 15, .ro, 0⟩]⟩,
   ⟨0x044, [], false, [⟨31, 24, .rc, 0⟩, ⟨23, 16, .rc, 0⟩, ⟨15, 0, .rc, 0⟩]⟩,
   ⟨0x048, [], false, [⟨31, 31, .ro, 0⟩, ⟨30, 28, .ro, 0⟩, ⟨27, 23, .ro, 0⟩, ⟨22, 13, .ro, 0⟩]⟩,
   ⟨0x04c, [], false, [⟨28, 0, .ro, 0⟩]⟩,
   ⟨0x050, [], false, [⟨7, 0, .rw, 10⟩]⟩,
   ⟨0x100, [(32, 0x20)], false, [⟨31, 29, .ro, 0⟩, ⟨28, 27, .rw, 0⟩, ⟨26, 22, .rw, 0⟩, ⟨21, 21, .rw, 0⟩, ⟨20, 20, .rw, 0⟩, ⟨19, 19, .rw, 0⟩]⟩,
   ⟨0x104, [(32, 0x20)], false, [⟨26, 16, .rw, 0⟩, ⟨10, 0, .rw, 0⟩]⟩,
   ⟨0x108, [(32, 0x20)], false, [⟨14, 8, .rw, 0⟩, ⟨6, 0, .rw, 0⟩]⟩,
   ⟨0x10c, [(32, 0x20)], false, [⟨26, 0, .ro, 0⟩]⟩,
   ⟨0x110, [(32, 0x20)], false, [⟨31, 0, .rw, 0⟩]⟩,
   ⟨0x114, [(32, 0x20)], false, [⟨3, 3, .wo, 0⟩, ⟨2, 2, .wo, 0⟩, ⟨1, 1, .wo, 0⟩, ⟨0, 0, .wo, 0⟩]⟩]

/-- The body registers of page MEM_CXL_n. -/
def regsMemCxl : List RegDef :=
  [⟨0x040, [], false, [⟨31, 31, .ro, 0⟩, ⟨30, 30, .ro, 0⟩, ⟨29, 29, .ro, 0⟩, ⟨28, 24, .ro, 0⟩, ⟨20, 16, .ro, 0⟩, ⟨15, 15, .ro, 0⟩]⟩,
   ⟨0x044, [], false, [⟨31, 24, .rc, 0⟩, ⟨23, 16, .rc, 0⟩, ⟨15, 0, .rc, 0⟩]⟩,
   ⟨0x048, [], false, [⟨31, 31, .ro, 0⟩, ⟨30, 28, .ro, 0⟩, ⟨27, 23, .ro, 0⟩, ⟨22, 13, .ro, 0⟩]⟩,
   ⟨0x04c, [], false, [⟨28, 0, .ro, 0⟩]⟩,
   ⟨0x050, [], false, [⟨7, 0, .rw, 10⟩]⟩,
   ⟨0x100, [(32, 0x20)], false, [⟨31, 29, .ro, 0⟩, ⟨28, 27, .rw, 0⟩, ⟨26, 22, .rw, 0⟩, ⟨21, 21, .rw, 0⟩, ⟨20, 20, .rw, 0⟩, ⟨19, 19, .rw, 0⟩]⟩,
   ⟨0x104, [(32, 0x20)], false, [⟨26, 16, .rw, 0⟩, ⟨10, 0, .rw, 0⟩]⟩,
   ⟨0x108, [(32, 0x20)], false, [⟨14, 8, .rw, 0⟩, ⟨6, 0, .rw, 0⟩]⟩,
   ⟨0x10c, [(32, 0x20)], false, [⟨26, 0, .ro, 0⟩]⟩,
   ⟨0x110, [(32, 0x20)], false, [⟨31, 0, .rw, 0⟩]⟩,
   ⟨0x114, [(32, 0x20)], false, [⟨3, 3, .wo, 0⟩, ⟨2, 2, .wo, 0⟩, ⟨1, 1, .wo, 0⟩, ⟨0, 0, .wo, 0⟩]⟩,
   ⟨0x118, [(32, 0x20)], false, [⟨22, 0, .rw, 0⟩]⟩,
   ⟨0x11c, [(32, 0x20)], false, [⟨22, 0, .rw, 0⟩]⟩]

/-- The body registers of page PCIE_CTL_n. -/
def regsPcieCtl : List RegDef :=
  [⟨0x040, [], false, [⟨31, 31, .ro, 0⟩, ⟨30, 30, .ro, 0⟩, ⟨29, 29, .ro, 0⟩, ⟨28, 28, .ro, 0⟩, ⟨27, 27, .ro, 0⟩, ⟨26, 24, .ro, 0⟩, ⟨23, 19, .ro, 0⟩, ⟨18, 18, .ro, 0⟩]⟩,
   ⟨0x044, [], false, [⟨7, 6, .rw, 0⟩, ⟨4, 0, .rw, 0⟩]⟩,
   ⟨0x080, [(16, 0x4)], false, [⟨31, 31, .rw, 0⟩, ⟨29, 24, .rw, 21⟩, ⟨11, 0, .rw, 0⟩]⟩,
   ⟨0x100, [(16, 0x20)], true, [⟨63, 21, .rw, 0⟩]⟩,
   ⟨0x108, [(16, 0x20)], false, [⟨31, 31, .rw, 0⟩, ⟨30, 30, .rw, 0⟩, ⟨23, 0, .rw, 0⟩]⟩,
   ⟨0x10c, [(16, 0x20)], false, [⟨27, 16, .rw, 0⟩, ⟨9, 0, .rw, 0⟩]⟩,
   ⟨0x110, [(16, 0x20)], true, [⟨63, 0, .rw, 0⟩]⟩]

/-- The body registers of page PCIE_HOST_n. -/
def regsPcieHost : List RegDef :=
  [⟨0x040, [], false, [⟨15, 0, .rw, 0⟩]⟩,
   ⟨0x044, [], false, [⟨11, 0, .rw, 0⟩]⟩,
   ⟨0x048, [], false, [⟨31, 31, .rw, 0⟩, ⟨28, 24, .rw, 0⟩, ⟨9, 0, .rw, 0⟩]⟩,
   ⟨0x04c, [], false, [⟨31, 31, .ro, 0⟩, ⟨15, 0, .ro, 0⟩]⟩,
   ⟨0x050, [], false, [⟨31, 24, .rc, 0⟩, ⟨23, 16, .rc, 0⟩, ⟨15, 0, .rc, 0⟩]⟩,
   ⟨0x400, [(32, 0x8)], true, [⟨63, 63, .rw, 0⟩, ⟨62, 56, .rw, 0⟩, ⟨55, 51, .rw, 0⟩, ⟨31, 0, .rw, 0⟩]⟩,
   ⟨0x800, [(16, 0x20)], true, [⟨63, 21, .rw, 0⟩]⟩,
   ⟨0x808, [(16, 0x20)], false, [⟨31, 31, .rw, 0⟩, ⟨30, 30, .rw, 0⟩, ⟨23, 0, .rw, 0⟩]⟩,
   ⟨0x80c, [(16, 0x20)], false, [⟨27, 16, .rw, 0⟩, ⟨9, 0, .rw, 0⟩]⟩,
   ⟨0x810, [(16, 0x20)], true, [⟨63, 0, .rw, 0⟩]⟩]

/-- The body registers of page ETH_n. -/
def regsEth : List RegDef :=
  [⟨0x040, [], false, [⟨31, 28, .rw, 9⟩, ⟨27, 26, .rw, 3⟩, ⟨25, 25, .rw, 1⟩, ⟨24, 24, .rw, 0⟩, ⟨15, 0, .rw, 51104⟩]⟩,
   ⟨0x044, [], false, [⟨31, 31, .ro, 0⟩, ⟨30, 30, .ro, 0⟩, ⟨29, 29, .ro, 0⟩]⟩,
   ⟨0x048, [], true, [⟨47, 0, .rw, 0⟩]⟩,
   ⟨0x050, [(4, 0x4)], false, [⟨31, 0, .rw, 0⟩]⟩,
   ⟨0x060, [], false, [⟨31, 24, .rc, 0⟩, ⟨23, 16, .rc, 0⟩, ⟨15, 8, .rc, 0⟩, ⟨7, 0, .rc, 0⟩]⟩,
   ⟨0x100, [(32, 0x10)], false, [⟨31, 31, .rw, 0⟩, ⟨30, 30, .rw, 0⟩, ⟨29, 29, .rw, 0⟩, ⟨28, 24, .rw, 0⟩, ⟨23, 12, .rw, 0⟩, ⟨9, 0, .rw, 0⟩]⟩,
   ⟨0x108, [(32, 0x10)], true, [⟨47, 0, .rw, 0⟩]⟩]

/-- The body registers of page SKEJA_n. -/
def regsSkeja : List RegDef :=
  [⟨0x040, [], false, [⟨31, 31, .ro, 0⟩, ⟨30, 30, .ro, 0⟩, ⟨29, 29, .ro, 0⟩, ⟨28, 28, .ro, 0⟩, ⟨27, 27, .ro, 0⟩, ⟨26, 26, .ro, 0⟩, ⟨25, 25, .ro, 0⟩, ⟨24, 18, .ro, 0⟩, ⟨15, 0, .ro, 0⟩]⟩,
   ⟨0x044, [], false, [⟨31, 31, .rw, 0⟩, ⟨30, 16, .rw, 50⟩, ⟨15, 0, .rw, 1500⟩]⟩,
   ⟨0x048, [], false, [⟨15, 0, .rw, 51104⟩]⟩,
   ⟨0x050, [(4, 0x4)], false, [⟨31, 0, .rw, 0⟩]⟩,
   ⟨0x060, [], true, [⟨47, 0, .rw, 0⟩]⟩,
   ⟨0x080, [], false, [⟨31, 24, .rc, 0⟩, ⟨23, 16, .rc, 0⟩, ⟨15, 0, .rc, 0⟩]⟩,
   ⟨0x100, [(64, 0x4)], false, [⟨31, 31, .rw, 0⟩, ⟨30, 30, .rw, 0⟩, ⟨29, 28, .rw, 1⟩, ⟨27, 22, .rw, 0⟩, ⟨21, 17, .rw, 0⟩, ⟨9, 0, .rw, 0⟩]⟩]

/-- The body registers of page UCIE_f. -/
def regsUcie : List RegDef :=
  [⟨0x040, [(6, 0x4)], false, [⟨31, 31, .ro, 0⟩, ⟨30, 25, .ro, 0⟩, ⟨15, 8, .ro, 0⟩, ⟨7, 0, .ro, 0⟩]⟩]

/-- The body registers of page LANE_f_ll. -/
def regsLane : List RegDef :=
  [⟨0x040, [], false, [⟨7, 6, .rw, 0⟩, ⟨5, 5, .rw, 0⟩, ⟨2, 0, .rw, 0⟩]⟩,
   ⟨0x044, [], false, [⟨31, 28, .ro, 1⟩, ⟨27, 27, .ro, 0⟩, ⟨26, 26, .ro, 0⟩, ⟨25, 25, .ro, 0⟩, ⟨24, 24, .ro, 0⟩, ⟨23, 23, .ro, 0⟩, ⟨22, 17, .ro, 63⟩]⟩,
   ⟨0x048, [], false, [⟨23, 16, .ro, 0⟩, ⟨15, 8, .ro, 0⟩, ⟨7, 0, .ro, 0⟩]⟩,
   ⟨0x04c, [], false, [⟨31, 16, .ro, 0⟩, ⟨15, 0, .ro, 0⟩]⟩,
   ⟨0x050, [], false, [⟨31, 31, .rw, 0⟩, ⟨27, 18, .rw, 0⟩, ⟨17, 0, .rw, 0⟩]⟩,
   ⟨0x054, [], false, [⟨17, 12, .rw, 0⟩, ⟨11, 6, .rw, 63⟩, ⟨5, 0, .rw, 0⟩]⟩,
   ⟨0x058, [], false, [⟨31, 16, .rc, 0⟩, ⟨15, 0, .rc, 0⟩]⟩,
   ⟨0x060, [], false, [⟨11, 11, .wo, 0⟩, ⟨10, 10, .wo, 0⟩, ⟨9, 9, .rw, 0⟩, ⟨8, 8, .rw, 0⟩, ⟨7, 4, .rw, 5⟩, ⟨3, 0, .rw, 5⟩]⟩,
   ⟨0x064, [], false, [⟨31, 31, .ro, 0⟩, ⟨30, 30, .w1c, 0⟩]⟩,
   ⟨0x068, [], true, [⟨47, 0, .ro, 0⟩]⟩,
   ⟨0x070, [], true, [⟨47, 0, .ro, 0⟩]⟩]

/-- The body registers of page DBG_SESS_v. -/
def regsDbgSess : List RegDef :=
  [⟨0x040, [], false, [⟨31, 31, .ro, 0⟩, ⟨30, 29, .ro, 0⟩, ⟨28, 28, .wo, 0⟩, ⟨27, 27, .rw, 0⟩]⟩,
   ⟨0x044, [], false, [⟨31, 0, .ro, 0⟩]⟩,
   ⟨0x048, [], true, [⟨63, 0, .ro, 0⟩]⟩,
   ⟨0x050, [], true, [⟨63, 0, .ro, 0⟩]⟩,
   ⟨0x058, [], false, [⟨27, 0, .rw, 0⟩]⟩,
   ⟨0x05c, [], false, [⟨31, 0, .rw, 0⟩]⟩,
   ⟨0x060, [], false, [⟨31, 31, .wo, 0⟩, ⟨30, 30, .rw, 0⟩, ⟨29, 25, .rw, 0⟩, ⟨24, 24, .ro, 0⟩, ⟨23, 20, .ro, 0⟩]⟩,
   ⟨0x070, [], false, [⟨31, 31, .rw, 0⟩, ⟨30, 30, .wo, 0⟩, ⟨29, 29, .wo, 0⟩, ⟨28, 28, .rw, 0⟩, ⟨4, 0, .rw, 0⟩]⟩,
   ⟨0x074, [], false, [⟨31, 31, .ro, 0⟩, ⟨30, 30, .ro, 0⟩, ⟨29, 29, .ro, 0⟩]⟩,
   ⟨0x078, [], false, [⟨24, 12, .rw, 0⟩, ⟨11, 0, .rw, 0⟩]⟩,
   ⟨0x07c, [], false, [⟨31, 0, .ro, 0⟩]⟩]

/-- The body registers of page DBG_RING_r. -/
def regsDbgRing : List RegDef :=
  [⟨0x040, [], false, [⟨31, 31, .rw, 0⟩, ⟨30, 30, .rw, 0⟩, ⟨4, 0, .rw, 0⟩]⟩,
   ⟨0x044, [], false, [⟨31, 16, .rc, 0⟩, ⟨12, 0, .ro, 0⟩]⟩,
   ⟨0x048, [], false, [⟨11, 0, .rw, 0⟩]⟩,
   ⟨0x050, [(8, 0x4)], false, [⟨31, 0, .ro, 0⟩]⟩]

/-- The body registers of page DBG_EDDY_n. -/
def regsDbgEddy : List RegDef :=
  [⟨0x040, [], false, [⟨31, 24, .wo, 0⟩, ⟨2, 0, .wo, 0⟩]⟩,
   ⟨0x044, [], false, [⟨31, 31, .ro, 0⟩, ⟨30, 30, .ro, 0⟩, ⟨29, 29, .w1c, 0⟩, ⟨28, 28, .w1c, 0⟩, ⟨27, 24, .w1c, 0⟩, ⟨23, 21, .ro, 7⟩, ⟨10, 0, .ro, 0⟩]⟩,
   ⟨0x048, [], false, [⟨14, 0, .rw, 0⟩]⟩,
   ⟨0x04c, [], false, [⟨31, 0, .rw, 0⟩]⟩,
   ⟨0x080, [(4, 0x20)], false, [⟨31, 24, .rw, 0⟩, ⟨7, 4, .rw, 0⟩, ⟨2, 0, .rw, 0⟩]⟩,
   ⟨0x084, [(4, 0x20)], false, [⟨19, 0, .rw, 0⟩]⟩,
   ⟨0x088, [(4, 0x20)], false, [⟨19, 0, .rw, 0⟩]⟩,
   ⟨0x090, [(4, 0x20)], true, [⟨31, 0, .rw, 0⟩, ⟨63, 32, .rw, 0⟩]⟩]

/-- The registers of a page kind, the header first. -/
def PageKind.regs : PageKind → List RegDef
  | .tolmorCtl => regsHeader ++ regsTolmorCtl
  | .tideCtl => regsHeader ++ regsTideCtl
  | .tallyCtl => regsHeader ++ regsTallyCtl
  | .pkgInv => regsHeader ++ regsPkgInv
  | .dieCtl => regsHeader ++ regsDieCtl
  | .tribCtl => regsHeader ++ regsTribCtl
  | .treeCtl => regsHeader ++ regsTreeCtl
  | .mbox => regsHeader ++ regsMbox
  | .tideAlarm => regsHeader ++ regsTideAlarm
  | .clkCtl => regsHeader ++ regsClkCtl
  | .stall => regsHeader ++ regsStall
  | .tideStall => regsHeader ++ regsTideStall
  | .pinIrq => regsHeader ++ regsPinIrq
  | .pinSched => regsHeader ++ regsPinSched
  | .mgpio => regsHeader ++ regsMgpio
  | .irqAgg => regsHeader ++ regsIrqAgg
  | .shedMem => regsHeader ++ regsShedMem
  | .shedTrib => regsHeader ++ regsShedTrib
  | .shedCfg => regsHeader ++ regsShedCfg
  | .shedClk => regsHeader ++ regsShedClk
  | .wb => regsHeader ++ regsWb
  | .yardClk => regsHeader ++ regsYardClk
  | .yardScrub => regsHeader ++ regsYardScrub
  | .pinBank => regsHeader ++ regsPinBank
  | .eddy => regsHeader ++ regsEddy
  | .eddyIo => regsHeader ++ regsEddyIo
  | .milCtl => regsHeader ++ regsMilCtl
  | .milRtr => regsHeader ++ regsMilRtr
  | .milEp => regsHeader ++ regsMilEp
  | .milEpcfg => regsHeader ++ regsMilEpcfg
  | .sluiceCtl => regsHeader ++ regsSluiceCtl
  | .hbmp => regsHeader ++ regsHbmp
  | .memCxl => regsHeader ++ regsMemCxl
  | .pcieCtl => regsHeader ++ regsPcieCtl
  | .pcieHost => regsHeader ++ regsPcieHost
  | .eth => regsHeader ++ regsEth
  | .skeja => regsHeader ++ regsSkeja
  | .ucie => regsHeader ++ regsUcie
  | .lane => regsHeader ++ regsLane
  | .dbgSess => regsHeader ++ regsDbgSess
  | .dbgRing => regsHeader ++ regsDbgRing
  | .dbgEddy => regsHeader ++ regsDbgEddy

/-- The start of the element of the (nested) array that offset `d` falls in, if it falls in one of `size` bytes. -/
def RegDef.elem (size : Nat) : List (Nat × Nat) → Nat → Option Nat
  | [], d => if d < size then some 0 else none
  | (count, stride) :: ds, d =>
    if d / stride < count then
      match RegDef.elem size ds (d % stride) with
      | some e => some (d / stride * stride + e)
      | none => none
    else none

/-- The offset of the element of the register that holds page offset `o`, if one does. -/
def RegDef.hit (r : RegDef) (o : Nat) : Option Nat :=
  if o < r.off then none else
    match RegDef.elem (if r.wide then 8 else 4) r.dims (o - r.off) with
    | some e => some (r.off + e)
    | none => none

/-- The register of the list that holds page offset `o`, with the offset of its first byte. -/
def findReg (o : Nat) : List RegDef → Option (RegDef × Nat)
  | [] => none
  | r :: rs =>
    match r.hit o with
    | some e => some (r, e)
    | none => findReg o rs

/-- The whole register's reset value, from its fields (R9). -/
def RegDef.resetVal (r : RegDef) : Nat :=
  r.fields.foldr (fun f n => n + f.reset * 2 ^ f.lo) 0

end Sys2Proof.Machine
end

