-- ==== Sys2Proof/Machine/StDbg.lean ====
section
/-! DEFINITION. The data of the debug hub beside its registers (Debug and trace). -/

namespace Sys2Proof.Machine

/-- The debug hub. `caps` is the stall each view's capture stops, as 2 × stall + HOLD; `areas` the flip-flops of a captured tile, keyed
8192 × shed + tile, and `areaView` the view (plus 1) whose capture a shed's area holds (R452, R453). `hits` counts the matches of a watchpoint
since it last acted and `wpView` is the view (plus 1) that armed it, keyed 4 × engine + k (R451); `seen` marks an engine whose due bundle has been
matched; `deferred` counts the cycles of a deferral (R449) and `halter` is the view (plus 1) that halts an engine. `rings` holds the entries of a
ring, oldest first, each a 32-byte number, and `ringView` the view (plus 1) that allocated it (R454). -/
structure Dbg where
  caps : SMap (Option Nat)
  areas : SMap Nat
  areaView : SMap Nat
  hits : SMap Nat
  wpView : SMap Nat
  seen : SMap Bool
  deferred : SMap Nat
  halter : SMap Nat
  rings : SMap (List Nat)
  ringView : SMap Nat
  deriving DecidableEq, Repr

/-- A debug hub in which no grant has been made. -/
def Dbg.reset : Dbg := ⟨[], [], [], [], [], [], [], [], [], []⟩

end Sys2Proof.Machine
end

