-- ==== Sys2Proof/Machine/StLane.lean ====
section
/-! DEFINITION. The data of a transceiver lane beside its registers (Transceiver lanes). -/

namespace Sys2Proof.Machine

/-- One lane: a LANE_CFG value held while it calibrates (R330), whether its calibration at start has ended and how, the lane bridge's transmit
buffer and the fraction of a line already sent in units of 1/1000 bit (R340), the received lines with the receive byte count at their first
byte, the receive byte count modulo 2^48, and the MSGs outstanding (R341). -/
structure LaneSt where
  heldCfg : Option Nat
  calEnded : Option Bool
  tx : List (BitVec 512)
  txBits : Nat
  rx : List (Nat × BitVec 512)
  rxCount : Nat
  msgs : Nat
  deriving DecidableEq, Repr

/-- A lane with empty buffers. -/
def LaneSt.reset : LaneSt := ⟨none, none, [], 0, [], 0, 0⟩

end Sys2Proof.Machine
end

