-- ==== Sys2Proof/Machine/StPins.lean ====
section
/-! DEFINITION. The data of the user pin cells beside their registers (Pins, the pin multiplexer and GPIO). -/

namespace Sys2Proof.Machine

/-- R430: where a pin stands in a change of its function. -/
inductive PinPhase where
  | steady
  | pending
  | hold
  deriving DecidableEq, Repr

/-- One pin cell (R424–R430): the function in effect (PIN_CFG.FUNC is the one asked for), its phase, the hold latch's output value and enable,
whether its GPIO_IN bit is held, the FABRIC registers, and the serialiser: the word being sent and the two behind it, the received bits not yet
a word, the two received words behind RXD, and RXD. -/
structure PinCell where
  func : Nat
  phase : PinPhase
  latchOut : Bool
  latchOe : Bool
  inHeld : Bool
  o : Bool
  oe : Bool
  i : Bool
  tx0 : Nat
  tx1 : Nat
  tx2 : Nat
  rxBits : List Bool
  rx1 : Nat
  rx2 : Nat
  rxd : Nat
  deriving DecidableEq, Repr

/-- A pin that is OFF. -/
def PinCell.reset : PinCell := ⟨0, .steady, false, false, false, false, false, false, 0, 0, 0, [], 0, 0, 0⟩

end Sys2Proof.Machine
end

