-- ==== Sys2Proof/Machine/State.lean ====
section
/-! DEFINITION. The state of the LX96 as plain data: every register word, the parts that registers do not show, and the commands that wait. -/

namespace Sys2Proof.Machine

/-- R6: what one view holds of one page: the captured high word of the 64-bit register at an address, and the staged low word. -/
structure ViewBuf where
  capture : Option (Nat × Nat)
  staged : Option (Nat × Nat)
  deriving DecidableEq, Repr

/-- Nothing captured and nothing staged. -/
def ViewBuf.empty : ViewBuf := ⟨none, none⟩

/-- Interrupt aggregation (R472, R473): the queue of page indexes of each host view, oldest first; whether a view's present non-empty episode
has had its message; and the indexes of the pages whose summary has risen and has not been pushed. -/
structure Agg where
  queues : SMap (List Nat)
  sent : SMap Bool
  rises : List Nat
  deriving DecidableEq, Repr

/-- No entry and no rise. -/
def Agg.reset : Agg := ⟨[], [], []⟩

/-- The machine. `regs` holds the 32-bit register words by address, an unlisted word reading as its reset value (R9); `views` the captures and
staged words, keyed 65536 × view + page index (views as `viewNo` numbers them); `out` what the block has shown to the outside, oldest first;
`fresh` the number of free values used (the model's own field); `pending` the commands that wait, first in, first out. -/
structure State where
  regs : SMap (BitVec 32)
  views : SMap ViewBuf
  agg : Agg
  fab : Fabric
  eddies : SMap Eddy
  mil : Mil
  mem : Mem
  stalls : SMap Stall
  tally : Tally
  tide : Tide
  tree : Tree
  tol : Tol
  otp : Otp
  clk : Clk
  pins : SMap PinCell
  lanes : SMap LaneSt
  dbg : Dbg
  d2d : D2D
  ports : Ports
  out : List Out
  fresh : Nat
  pending : List Instr
  deriving DecidableEq, Repr

/-- The machine right after reset, before the start sequence: every register at its reset value (R9), every memory and queue empty, the fuses
as they leave the factory. (DESIGN CHOICE, assumptions 156, 186) -/
def State.reset : State where
  regs := []
  views := []
  agg := Agg.reset
  fab := Fabric.reset
  eddies := []
  mil := Mil.reset
  mem := Mem.reset
  stalls := []
  tally := Tally.reset
  tide := Tide.reset
  tree := Tree.reset
  tol := Tol.reset
  otp := Otp.blank
  clk := Clk.reset
  pins := []
  lanes := []
  dbg := Dbg.reset
  d2d := D2D.reset
  ports := Ports.reset
  out := []
  fresh := 0
  pending := []

/-- Why a step can stop with a fault: for no reason. The spec gives every command of the block an effect, or no effect, in every state, and every
address of its memories reads as something; the type has no constructor. Safe. -/
inductive Fault where
  deriving DecidableEq, Repr

/-- Why a command can be refused. -/
inductive Refusal where
  /-- The command has no meaning in this model. No arm of `exec` answers it once every command has its meaning; safe, since the machine stops. -/
  | notModelled (mnemonic : String)
  deriving DecidableEq, Repr

end Sys2Proof.Machine
end

