-- ==== Sys2Proof/Machine/Ops.lean ====
section
/-! DEFINITION. The named operations over the state: register words and fields, page events and errors, free values, outputs, and access to
the parts of the state by instance. -/

namespace Sys2Proof.Machine

/-! ### Registers -/

/-- R17, R337: the default grouping of LANE_f_ll: LOGICAL, INST and PROTO codes of LANE_ASSIGN. -/
def laneAssignReset (i : Nat) : Nat :=
  let ll := i % 40
  let v := fun (logical inst proto : Nat) => logical * 2 ^ 16 + inst * 2 ^ 8 + proto
  if ll < 16 then v ll 0 1
  else if ll < 24 then v (ll - 16) 0 2
  else if ll < 32 then v (ll - 24) 1 2
  else if ll < 36 then v (ll - 32) 0 3
  else v (ll - 36) 1 3

/-- The reset value of a register of a page instance, where the register map's reset is not one value for every instance. -/
def regResetSpecial (k : PageKind) (inst off : Nat) : Option Nat :=
  if off = 0 then some (k.geom.type * 2 ^ 24 + inst)
  else
    match k with
    | .lane => if off = 0x048 then some (laneAssignReset inst) else none
    | .tolmorCtl => if off = 0x044 then some (Sys2Proof.Config.romRev % 2 ^ 16 * 2 ^ 16) else if off = 0x048 then some (Sys2Proof.Config.serial % 2 ^ 64) else none
    | .pcieCtl => if off = 0x080 then some (2 ^ 31 + 0x1E * 2 ^ 24) else none
    | _ => none

/-- The word at address `a` after reset (R9): its part of its register's reset value, or 0 where no register lies (R3). (DESIGN CHOICE, assumption 6) -/
def regReset (a : Nat) : BitVec 32 :=
  match pageOf a with
  | none => 0
  | some (k, i) =>
    match findReg (a % 4096) k.regs with
    | none => 0
    | some (r, e) =>
      let v := (regResetSpecial k i e).getD r.resetVal
      BitVec.ofNat 32 (v / 2 ^ (8 * (a % 4096 - e)))

/-- The register word at address `a`. (DESIGN CHOICE, assumption 6) -/
def State.word (s : State) (a : Nat) : BitVec 32 := smGet (regReset a) s.regs a

/-- R471: the summary of the page at base `p`: ENABLE = 1 and IRQ_RAW AND IRQ_EN is not 0. -/
def State.summary (s : State) (p : Nat) : Bool :=
  decide (fPAGE_CTRL_ENABLE.get (s.word (rPAGE_CTRL p)).toNat = 1) && decide (s.word (rIRQ_RAW p) &&& s.word (rIRQ_EN p) ≠ 0)

/-- The state with the register word at address `a` written. A page whose summary rises is noted, to be pushed (R472). -/
def State.setWord (s : State) (a : Nat) (v : BitVec 32) : State :=
  let t := { s with regs := smSet (regReset a) s.regs a v }
  let o := a % 4096
  if o = 0x008 ∨ o = 0x010 ∨ o = 0x014 then
    let p := a - o
    if t.summary p && !s.summary p then { t with agg := { t.agg with rises := t.agg.rises ++ [p / 4096] } } else t
  else t

/-- A 32-bit register as a number. -/
def State.rd32 (s : State) (a : Nat) : Nat := (s.word a).toNat

/-- A 64-bit register as a number: the low word at the lower address (R4). -/
def State.rd64 (s : State) (a : Nat) : Nat := s.rd32 a + s.rd32 (a + 4) * 2 ^ 32

/-- A 32-bit register written. -/
def State.wr32 (s : State) (a v : Nat) : State := s.setWord a (BitVec.ofNat 32 v)

/-- A 64-bit register written. -/
def State.wr64 (s : State) (a v : Nat) : State := (s.wr32 a v).wr32 (a + 4) (v / 2 ^ 32)

/-- A field of a register of one word or, where the field reaches above bit 31, of two. -/
def State.fget (s : State) (a : Nat) (f : Fld) : Nat :=
  if f.lo + f.width ≤ 32 then f.get (s.rd32 a) else f.get (s.rd64 a)

/-- A field of a register written. -/
def State.fset (s : State) (a : Nat) (f : Fld) (v : Nat) : State :=
  if f.lo + f.width ≤ 32 then s.wr32 a (f.set (s.rd32 a) v) else s.wr64 a (f.set (s.rd64 a) v)

/-- Whether a one-bit field is 1. -/
def State.flag (s : State) (a : Nat) (f : Fld) : Bool := decide (s.fget a f = 1)

/-- A counting field one up, saturating at its top. -/
def State.finc (s : State) (a : Nat) (f : Fld) : State := s.fset a f (satInc f.width (s.fget a f))

/-- A counting field `n` up, saturating at its top. -/
def State.fadd (s : State) (a : Nat) (f : Fld) (n : Nat) : State := s.fset a f (satAdd f.width (s.fget a f) n)

/-- Bit `k` of a register set to `b`. -/
def State.setBit (s : State) (a k : Nat) (b : Bool) : State := s.fset a ⟨k, 1⟩ (b2n b)

/-- Bit `k` of a register. -/
def State.bit (s : State) (a k : Nat) : Bool := s.flag a ⟨k, 1⟩

/-- The registers of the page at base `p` back at their reset values, those named by `keep` (by offset) excepted. -/
def State.resetPage (s : State) (p : Nat) (keep : Nat → Bool) : State :=
  { s with regs := smClear (fun a => decide (a / 4096 * 4096 = p) && !keep (a % 4096)) s.regs }

/-! ### Page events and errors -/

/-- An event sets bit `k` of IRQ_RAW of the page (R460). -/
def State.irq (s : State) (page k : Nat) : State := s.setBit (rIRQ_RAW page) k true

/-- The SRC code of ERR_FIRST and the stall recorded with it (R461, Table MAP-2). -/
def Req.src : Req → Nat × Nat
  | .tolmor => (0, 0)
  | .host n => (n, 0)
  | .mgr => (4, 0)
  | .jtag => (5, 0)
  | .stall n => (6, n)
  | .dbgDevice => (7, 0)
  | .dbgStall _ => (7, 0)

/-- ERR_FIRST causes (Table MAP-2): NOT_OWNER. -/
def causeNotOwner : Nat := 1
/-- ERR_FIRST cause WIDTH. -/
def causeWidth : Nat := 2
/-- ERR_FIRST cause LOCKED. -/
def causeLocked : Nat := 3
/-- ERR_FIRST cause RULE. -/
def causeRule : Nat := 4

/-- R461: a refused access: ERR_COUNT, IRQ_RAW[31], and ERR_FIRST where it is not VALID. (DEDUCED, assumption 12) -/
def State.refuse (s : State) (req : Req) (addr cause : Nat) : State :=
  let page := addr / 4096 * 4096
  let s1 := (s.finc (rERR_COUNT page) fERR_COUNT_COUNT).irq page 31
  if s1.flag (rERR_FIRST page) fERR_FIRST_VALID then s1
  else
    s1.wr32 (rERR_FIRST page)
      (2 ^ 31 + cause * 2 ^ 28 + req.src.1 * 2 ^ 25 + req.src.2 * 2 ^ 20 + b2n (decide (req = .tolmor)) * 2 ^ 19 + addr % 4096)

/-! ### Free values and outputs -/

/-- The next free value, cut to `w` bits. (DESIGN CHOICE, assumption 8) -/
def State.freeNat (s : State) (w : Nat) : Nat := Sys2Proof.Config.freeValue s.fresh % 2 ^ w

/-- The state after a free value has been used. (DESIGN CHOICE, assumption 8) -/
def State.useFree (s : State) : State := { s with fresh := s.fresh + 1 }

/-- Something the outside sees. -/
def State.emit (s : State) (o : Out) : State := { s with out := s.out ++ [o] }

/-! ### The event log (R286) -/

/-- Tolmor writes an entry of the event log; the oldest of 1 024 is overwritten. In DEAD it writes none (R263). -/
def State.logEvent (s : State) (source code index detail : Nat) : State :=
  if s.fget (rTOL_STAT 0) fTOL_STAT_MODE = 2 then s
  else
    let seq := s.rd32 (rLOG_NEXT 0)
    let e : LogEntry := ⟨s.tide.now, seq, source, code, index, detail⟩
    let l := s.tol.log ++ [e]
    { s.wr32 (rLOG_NEXT 0) (seq + 1) with tol := { s.tol with log := if 1024 < l.length then l.tail else l } }

/-- A block has put a new record into its event registers, which Tolmor will copy into the event log. -/
def State.eventRecord (s : State) (source index : Nat) : State :=
  let k := 65536 * source + index
  { s with tol := { s.tol with unlogged := smSet 0 s.tol.unlogged k (smGet 0 s.tol.unlogged k + 1) } }

/-- The deferred commands that `p` names, where nothing has decided them yet, will complete with a CODE of Table TMC-6 and DATA. -/
def State.endJobs (s : State) (p : Job → Bool) (code data : Nat) : State :=
  { s with tol := { s.tol with jobs := s.tol.jobs.map (fun j => if p j && j.result.isNone then { j with result := some (code, data) } else j) } }

/-! ### The parts of the state by instance -/

/-- Engine n. -/
def State.eddy (s : State) (n : Nat) : Eddy := smGet Eddy.reset s.eddies n

/-- Engine n replaced. -/
def State.setEddy (s : State) (n : Nat) (e : Eddy) : State := { s with eddies := smSet Eddy.reset s.eddies n e }

/-- Stall n. -/
def State.stall (s : State) (n : Nat) : Stall := smGet Stall.free s.stalls n

/-- Stall n replaced. -/
def State.setStall (s : State) (n : Nat) (t : Stall) : State := { s with stalls := smSet Stall.free s.stalls n t }

/-- Endpoint e. -/
def State.ep (s : State) (e : Nat) : Ep := smGet Ep.reset s.mil.eps e

/-- Endpoint e replaced. -/
def State.setEp (s : State) (e : Nat) (x : Ep) : State := { s with mil := { s.mil with eps := smSet Ep.reset s.mil.eps e x } }

/-- Packet `i`. -/
def State.pkt (s : State) (i : Nat) : Pkt := smGet Pkt.none s.mil.pkts i

/-- Packet `i` replaced. -/
def State.setPkt (s : State) (i : Nat) (p : Pkt) : State := { s with mil := { s.mil with pkts := smSet Pkt.none s.mil.pkts i p } }

/-- Packet `i` gone. -/
def State.delPkt (s : State) (i : Nat) : State := s.setPkt i Pkt.none

/-- A new packet, and its number. -/
def State.newPkt (s : State) (p : Pkt) : State × Nat :=
  ({ s with mil := { s.mil with pkts := smSet Pkt.none s.mil.pkts s.mil.next p, next := s.mil.next + 1 } }, s.mil.next)

/-- The tracker entry of a tag of an endpoint, if it is outstanding or fenced. -/
def State.trackAt (s : State) (e tag : Nat) : Option Track :=
  match s.mil.track.find? (fun x => x.1 = 1024 * e + tag) with
  | some (_, t) => some t
  | none => none

/-- A tracker entry put in. -/
def State.putTrack (s : State) (e tag : Nat) (t : Track) : State :=
  { s with mil := { s.mil with track := smPut (1024 * e + tag) t s.mil.track } }

/-- A tracker entry freed. -/
def State.dropTrack (s : State) (e tag : Nat) : State :=
  { s with mil := { s.mil with track := smDel (1024 * e + tag) s.mil.track } }

/-! ### Debug: captures and trace rings -/

/-- The debug hub replaced. -/
def State.setDbg (s : State) (d : Dbg) : State := { s with dbg := d }

/-- R452: whether a fabric capture stops stall n. -/
def State.captured (s : State) (n : Nat) : Bool := s.dbg.caps.any (fun x => match x.2 with | some c => decide (c / 2 = n) | none => false)

/-- A capture stop of stall n is over: its views' CAP_STAT.STOPPED clears. -/
def State.capForget (s : State) (n : Nat) : State :=
  (List.range 6).foldl (fun t v =>
    match smGet none t.dbg.caps v with
    | some c => if c / 2 = n then (t.setDbg { t.dbg with caps := smSet none t.dbg.caps v none }).fset (rCAP_STAT v) fCAP_STAT_STOPPED 0 else t
    | none => t) s

/-- Table DBG-5: a trace entry without its Tide. -/
def traceEntry (kind src index pc wp addr data : Nat) : Nat :=
  kind * 2 ^ 64 + src * 2 ^ 72 + index % 2 ^ 16 * 2 ^ 80 + pc % 2 ^ 16 * 2 ^ 96 + wp % 2 ^ 8 * 2 ^ 112 + addr % 2 ^ 32 * 2 ^ 128 + data % 2 ^ 32 * 2 ^ 160

/-- R454: an entry goes into ring r: a full ring overwrites its oldest entry in WRAP mode, and counts the new one in LOST in STOP mode. (DESIGN CHOICE, assumption 185) -/
def State.ringPush (s : State) (r e : Nat) : State :=
  let l := smGet [] s.dbg.rings r
  if l.length < 4096 then
    let s1 := (s.setDbg { s.dbg with rings := smSet [] s.dbg.rings r (l ++ [e]) }).fset (rRING_STAT r) fRING_STAT_LEVEL (l.length + 1)
    if l.length = 4095 then s1.irq (PageKind.dbgRing.addr r) 0 else s1
  else if s.flag (rRING_CTL r) fRING_CTL_WRAP then s.setDbg { s.dbg with rings := smSet [] s.dbg.rings r (l.tail ++ [e]) }
  else s.finc (rRING_STAT r) fRING_STAT_LOST

/-- R454: an event of stall n, in every ring that traces it, with the Tide at which it occurs. -/
def State.trace (s : State) (n entry : Nat) : State :=
  (List.range 8).foldl (fun t r =>
    if t.flag (rRING_CTL r) fRING_CTL_EN && decide (t.fget (rRING_CTL r) fRING_CTL_STALL = n) then t.ringPush r (entry + t.tide.now % 2 ^ 64) else t) s

end Sys2Proof.Machine
end

