-- ==== Sys2Proof/Machine/Topology.lean ====
section
/-! DEFINITION. Where the dies, sheds, engines, endpoints and register agents of the package lie (R10–R19, R154, R163). Routers are numbered
16r + c, sheds 48y + s. -/

namespace Sys2Proof.Machine

/-- R12: the router that serves a shed. -/
def shedRouter (shed : Nat) : Nat :=
  let y := shed / 48
  let sr := shed % 48 / 4
  let c := 4 * (y % 4) + shed % 48 % 4
  let r := if y / 4 = 0 then 11 - sr else 12 + sr
  16 * (r / 2) + c

/-- The yard over a router. -/
def routerYard (rt : Nat) : Nat := 4 * (rt / 16 / 6) + rt % 16 / 4

/-- R12: the fabric-port index fp of a router within its yard. -/
def routerFp (rt : Nat) : Nat :=
  let r := rt / 16
  let lr := if r < 6 then 5 - r else r - 6
  4 * lr + rt % 4

/-- The router of fabric port fp of yard y. -/
def fpRouter (y fp : Nat) : Nat :=
  let lr := fp / 4
  16 * (if y / 4 = 0 then 5 - lr else 6 + lr) + 4 * (y % 4) + fp % 4

/-- R14: the router of engine port i (0–127). -/
def enginePortRouter (i : Nat) : Nat :=
  let y := i / 16
  let g := i % 16
  fpRouter y (4 * (g / 8) + g % 4)

/-- R15: the router of HBM port i (16k + p). -/
def hbmPortRouter (i : Nat) : Nat :=
  let k := i / 16
  16 * (if k < 2 then 0 else 11) + 8 * (k % 2) + i % 16 / 2

/-- Table PKG-2: the router row of an Ethernet port. -/
def ethRow (n : Nat) : Nat := listGet 0 [3, 4, 8, 7, 3, 4, 8, 7] n

/-- Table PKG-2: the router row of a Skeja port. -/
def skejaRow (n : Nat) : Nat := listGet 0 [1, 5, 10, 6, 1, 5, 10, 6] n

/-- R154, R10–R16: the router an endpoint attaches to. -/
def epRouter (e : Nat) : Nat :=
  if e < 0xC0 then e
  else if e < 0x140 then enginePortRouter (e - 0xC0)
  else if e < 0x180 then hbmPortRouter (e - 0x140)
  else if e < 0x184 then 16 * (if (e - 0x180) % 2 = 0 then 2 else 9) + (if e - 0x180 < 2 then 0 else 15)
  else if e < 0x18C then 16 * ethRow (e - 0x184) + (if e - 0x184 < 4 then 0 else 15)
  else if e < 0x194 then 16 * skejaRow (e - 0x18C) + (if e - 0x18C < 4 then 0 else 15)
  else 16 * 6 + 7

/-- R155: the IDs that name no endpoint. -/
def epReserved (e : Nat) : Bool := decide (0x195 ≤ e)

/-- Table MIL-1: fabric ports. -/
def isFabricPort (e : Nat) : Bool := decide (e < 0xC0)

/-- Table MIL-1: engine ports. -/
def isEnginePort (e : Nat) : Bool := decide (0xC0 ≤ e) && decide (e < 0x140)

/-- Table MIL-1: HBM ports. -/
def isHbmPort (e : Nat) : Bool := decide (0x140 ≤ e) && decide (e < 0x180)

/-- Table MIL-1: PCIe ports. -/
def isPciePort (e : Nat) : Bool := decide (0x180 ≤ e) && decide (e < 0x184)

/-- Table MIL-1: Ethernet ports. -/
def isEthPort (e : Nat) : Bool := decide (0x184 ≤ e) && decide (e < 0x18C)

/-- Table MIL-1: Skeja ports. -/
def isSkejaPort (e : Nat) : Bool := decide (0x18C ≤ e) && decide (e < 0x194)

/-- The yard that holds a fabric or engine port. -/
def epYard (e : Nat) : Option Nat :=
  if isFabricPort e then some (routerYard e) else if isEnginePort e then some ((e - 0xC0) / 16) else none

/-- The place of an endpoint among the local interfaces of its router (RTR_ECC_LAST.INPUT − 4), in order of endpoint ID. (DEDUCED, assumption 58) -/
def epLocal (e : Nat) : Nat := ((List.range e).filter (fun x => epRouter x = epRouter e)).length

/-- Table PKG-3: the endpoint whose Millrace channels weir bundle b of yard y carries, if it carries any. -/
def bundleEp (y b : Nat) : Option Nat :=
  if b < 192 then none else if b < 240 then some (fpRouter y ((b - 192) / 2)) else some (0xC0 + 16 * y + (b - 240))

/-- Table PKG-3: the bundles that carry an endpoint's Millrace channels, as (yard, bundle). -/
def epBundles (e : Nat) : List (Nat × Nat) :=
  if isFabricPort e then [(routerYard e, 192 + 2 * routerFp e), (routerYard e, 193 + 2 * routerFp e)]
  else if isEnginePort e then [((e - 0xC0) / 16, 240 + (e - 0xC0) % 16)] else []

/-- The dies of Table PKG-1 that hold register pages. -/
inductive Holder where
  | riverbed
  | yard (y : Nat)
  | ford (f : Nat)
  deriving DecidableEq, Repr

/-- R19, Table PKG-4: the die that holds the pages at an address outside the stall window. -/
def holderOf (a : Nat) : Holder :=
  if a < 0x01000000 then .riverbed
  else if a < 0x05000000 then
    let y := (a - 0x01000000) / 0x800000
    let o := (a - 0x01000000) % 0x800000
    if o < 0x600000 then .yard y else if o < 0x700000 then .riverbed else .yard y
  else if a < 0x05400000 then .yard ((a - 0x05000000) / 0x80000)
  else if 0x0B800000 ≤ a ∧ a < 0x0B900000 ∧ (a - 0x0B800000) % 0x40000 < 0x28000 then .ford ((a - 0x0B800000) / 0x40000)
  else .riverbed

/-- R3: the stall window. -/
def inWindow (a : Nat) : Bool := decide (0x0D000000 ≤ a) && decide (a < 0x10000000)

/-- R163, Table MIL-5: the endpoint a register access is addressed to. -/
def agentOf (a : Nat) : Nat :=
  if inWindow a then 0x194
  else match holderOf a with
    | .riverbed => 0x194
    | .yard y => if 0x05000000 ≤ a then 0xC0 + (a - 0x05000000) / 0x2000 / 4 else fpRouter y 0
    | .ford f => 0x180 + f

end Sys2Proof.Machine
end

