-- ==== Sys2Proof/Machine/Millrace.lean ====
section
/-! DEFINITION. The Millrace: stamping and checks at an ingress (R159–R163, R489), routing and arbitration (R165–R170, R186), the egress
(R174–R176, R188), trackers and completions (R178, R183–R185, R191), flushes, drains and unreachable endpoints (R179–R182, R189). -/

namespace Sys2Proof.Machine

/-! ### Headers and packets -/

/-- R158: codes 0x8–0xF travel on the RSP network. -/
def isRsp (h : Header) : Bool := decide (8 ≤ hget h hTYPE)

/-- REG_RD and REG_WR. -/
def isReg (h : Header) : Bool := decide (hget h hTYPE = tREG_RD) || decide (hget h hTYPE = tREG_WR)

/-- R183: the response TYPE of a request. -/
def rspTypeOf (t : Nat) : Nat :=
  if t = tRD then tRD_RSP else if t = tMSG then tMSG_RSP else if t = tREG_RD ∨ t = tREG_WR then tREG_RSP else tWR_RSP

/-- R158: the header of a response to request `h`: its TAG, QOS, ORD, STALL and KEY, to the request's SRC, from the request's DST. It is
device traffic (R161: class 3 is carried only by packets with DEV = 1) until an ingress stamps it. (DEDUCED, assumption 53) -/
def rspHdr (h : Header) (status lines : Nat) : Header :=
  hset (hset (hset (hset (hset (hset (hset (hset (hset (hset (hset 0 hDST (hget h hSRC)) hSRC (hget h hDST)) hSTALL (hget h hSTALL))
    hKEY (hget h hKEY)) hQOS (hget h hQOS)) hORD (hget h hORD)) hTYPE (rspTypeOf (hget h hTYPE))) hLINES lines) hTAG (hget h hTAG))
    hSTATUS status) hDEV 1

/-- Table MIL-3: a header whose ADDR, BE and EXT no rule states: they are taken from the free value `v`. (DESIGN CHOICE, assumption 52) -/
def openFields (v : Nat) (h : Header) : Header := hset (hset (hset h hADDR v) hBE (v / 2 ^ 64)) hEXT (v / 2 ^ 128)

/-- A response to request `h` whose ADDR, BE and EXT are the next free value. (DESIGN CHOICE, assumption 52) -/
def State.openRsp (s : State) (h : Header) (status lines : Nat) : Header :=
  openFields (Sys2Proof.Config.freeValue s.fresh) (rspHdr h status lines)

/-- The number of flits of a packet that exist so far, its header among them. (DESIGN CHOICE, assumption 51) -/
def Pkt.nflits (p : Pkt) : Nat := 1 + p.flits.length

/-- A whole packet. -/
def mkPkt (hdr : Header) (flits : List (BitVec 512 × Bool)) (place : Place) (accepted : Bool) (origin : Origin) : Pkt :=
  { hdr := hdr, flits := flits, eop := true, trunc := false, place := place, taken := 0, accepted := accepted, origin := origin,
    eng := none, holds := none }

/-- A queue of an endpoint's IN side. -/
def Ep.inQ (x : Ep) (rsp : Bool) : List Nat := if rsp then x.rspIn else x.reqIn

/-- A queue of an endpoint's OUT side. -/
def Ep.outQ (x : Ep) (rsp : Bool) : List Nat := if rsp then x.rspOut else x.reqOut

/-- An IN queue replaced. -/
def Ep.setIn (x : Ep) (rsp : Bool) (q : List Nat) : Ep := if rsp then { x with rspIn := q } else { x with reqIn := q }

/-- An OUT queue replaced. -/
def Ep.setOut (x : Ep) (rsp : Bool) (q : List Nat) : Ep := if rsp then { x with rspOut := q } else { x with reqOut := q }

/-- The flits of a queue that its reader has not yet taken. -/
def State.qLevel (s : State) (q : List Nat) : Nat := q.foldl (fun n i => n + ((s.pkt i).nflits - (s.pkt i).taken)) 0

/-- A packet put at the end of an IN queue. -/
def State.pushIn (s : State) (e : Nat) (p : Pkt) : State :=
  let (s1, i) := s.newPkt { p with place := .inQ }
  s1.setEp e ((s1.ep e).setIn (isRsp p.hdr) ((s1.ep e).inQ (isRsp p.hdr) ++ [i]))

/-- A packet put at the end of an OUT queue. -/
def State.pushOut (s : State) (e : Nat) (p : Pkt) : State :=
  let (s1, i) := s.newPkt { p with place := .outQ }
  s1.setEp e ((s1.ep e).setOut (isRsp p.hdr) ((s1.ep e).outQ (isRsp p.hdr) ++ [i]))

/-- A packet taken out of every queue of an endpoint. -/
def State.unqueue (s : State) (e i : Nat) : State :=
  let x := s.ep e
  let keep := fun (q : List Nat) => q.filter (fun j => j ≠ i)
  s.setEp e { x with reqIn := keep x.reqIn, rspIn := keep x.rspIn, reqOut := keep x.reqOut, rspOut := keep x.rspOut,
                     curIn := if x.curIn = some i then none else x.curIn,
                     curOut := if x.curOut = some i then none else x.curOut }

/-- A packet gone from its endpoint and from the packet table. -/
def State.killPkt (s : State) (e i : Nat) : State := (s.unqueue e i).delPkt i

/-- A request's header as its endpoint's own logic gives it: BE has no meaning in a RD or MSG (Table MIL-3) and is a free value. -/
def State.reqHdr (s : State) (h : Header) : Header :=
  if hget h hTYPE = tRD ∨ hget h hTYPE = tMSG then hset h hBE (Sys2Proof.Config.freeValue s.fresh) else h

/-- A packet's header arriving whole at an endpoint's REQ_IN from the endpoint's own logic: the request waits to be taken by the ingress. -/
def State.sendReq (s : State) (e : Nat) (hdr : Header) (flits : List (BitVec 512 × Bool)) (origin : Origin) : State :=
  s.useFree.pushIn e (mkPkt (s.reqHdr hdr) flits .inQ false origin)

/-- A response queued by an endpoint's own logic, to be stamped by its ingress (R160). -/
def State.sendRsp (s : State) (e : Nat) (hdr : Header) (flits : List (BitVec 512 × Bool)) : State :=
  s.pushIn e (mkPkt hdr flits .inQ false .tenant)

/-- A response that the Millrace or a register agent injects at an endpoint, with the identity of its request (R158, R178). -/
def State.injectRsp (s : State) (e : Nat) (hdr : Header) : State := s.pushIn e (mkPkt hdr [] .inQ true .tenant)

/-- R183: a header-only response that the Millrace makes for request `h` and injects at endpoint e. -/
def State.madeRsp (s : State) (e : Nat) (h : Header) (status : Nat) : State := s.useFree.injectRsp e (s.openRsp h status 0)

/-! ### Completions -/

/-- R191: a completion presented at endpoint e of a request with header `h`: EP_ERR_CNT, EP_ERR_LAST and IRQ_RAW[0]. -/
def State.noteCompletion (s : State) (e peer tag status : Nat) : State :=
  if status = stOK then s else
    let s1 :=
      if status = stTIMEOUT then s.finc (rEP_ERR_CNT e) fEP_ERR_CNT_TIMEOUT
      else if status = stDROPPED then s.finc (rEP_ERR_CNT e) fEP_ERR_CNT_DROPPED
      else if status = stREFUSED_OWNER ∨ status = stBAD_DEST ∨ status = stTAG_BUSY ∨ status = stBAD_PKT then
        s.finc (rEP_ERR_CNT e) fEP_ERR_CNT_REFUSED
      else s
    (s1.wr32 (rEP_ERR_LAST e) (2 ^ 31 + status % 16 * 2 ^ 27 + peer % 1024 * 2 ^ 17 + tag % 1024 * 2 ^ 7)).irq (PageKind.milEp.addr e) 0

/-- A response discarded as LATE. -/
def State.late (s : State) (e : Nat) : State := s.finc (rEP_ERR_CNT e) fEP_ERR_CNT_LATE

/-- R183: a response generated by the Millrace and presented at the requester's own interface. -/
def State.completeLocal (s : State) (e : Nat) (h : Header) (origin : Origin) (status : Nat) : State :=
  (s.useFree.pushOut e { mkPkt (s.openRsp h status 0) [] .outQ true origin with accepted := true }).noteCompletion e (hget h hDST) (hget h hTAG) status

/-- The completion of an outstanding request by the tracker (R185, R189): nothing is presented for a fenced entry, which is only freed (R248). -/
def State.completeTracked (s : State) (e tag status : Nat) : State :=
  match s.trackAt e tag with
  | none => s
  | some t => if t.fenced then s.dropTrack e tag else (s.dropTrack e tag).completeLocal e t.hdr t.origin status

/-! ### Identity -/

/-- R160: the configuration word that stamps a packet: ENG_CFG_q of the engine that issues it, else EP_CFG. -/
def State.idWord (s : State) (e : Nat) (p : Pkt) : Nat :=
  match p.eng with
  | some q => s.rd32 (rENG_CFG e q)
  | none => s.rd32 (rEP_CFG e)

/-- R160: a class clamped for an endpoint with DEV = 0. (DEDUCED, assumption 54) -/
def clampQos (max q : Nat) : Nat := if min q max = 3 then 2 else min q max

/-- R160, R161, R164: the header as the ingress of endpoint e stamps it. A response keeps the class of its request (R158), at most 2 where
DEV = 0 (R161). A lane bridge's packet carries the identity of its lane's claim. (DEDUCED, assumption 54) -/
def State.stamp (s : State) (e : Nat) (p : Pkt) : Header :=
  let h := hset p.hdr hSRC e
  match p.origin with
  | .lane _ => hset h hDEV 0
  | _ =>
    let w := s.idWord e p
    let dev := fEP_CFG_DEV.get w
    let h := hset h hDEV dev
    let h := if isRsp h && decide (dev = 1) then h else hset (hset h hSTALL (fEP_CFG_STALL.get w)) hKEY (fEP_CFG_KEY.get w)
    let h := if isReg h then hset h hORD 1 else h
    if dev = 1 then
      if isRsp h then h else if e = epTolmor ∨ isReg h then hset h hQOS 3 else h
    else
      let q := match p.eng with
        | some _ => fEP_CFG_QOS_DEF.get w
        | none => hget h hQOS
      hset h hQOS (clampQos (if isRsp h then 2 else fEP_CFG_QOS_MAX.get w) q)

/-- R162: whether a packet of endpoint e may reach `dst`. -/
def State.reaches (s : State) (e dst : Nat) (p : Pkt) : Bool :=
  match p.origin with
  | .lane _ => true
  | _ =>
    match p.eng with
    | some q => s.bit (rENG_REACH e q (dst / 32)) (dst % 32)
    | none => s.bit (rEP_REACH e (dst / 32)) (dst % 32)

/-! ### The checks of an ingress (R489) -/

/-- Table MIL-4: the byte enables a REG packet may carry. -/
def regBe : List Nat := [1, 2, 4, 8, 16, 32, 64, 128, 0x03, 0x0C, 0x30, 0xC0, 0x0F, 0xF0, 0xFF]

/-- R157: whether every reserved field is 0. -/
def reservedZero (h : Header) : Bool := hReserved.all (fun f => decide (hget h f = 0))

/-- R158, Table MIL-4: whether LINES is in the range of its TYPE; a reserved TYPE has none. -/
def linesOk (h : Header) : Bool :=
  let t := hget h hTYPE
  let n := hget h hLINES
  if t = tRD ∨ t = tWR then decide (1 ≤ n ∧ n ≤ 4)
  else if t = tMSG ∨ t = tMSG_RSP then decide (n ≤ 4)
  else if t = tREG_RD ∨ t = tREG_WR ∨ t = tWR_RSP ∨ t = tREG_RSP then decide (n = 0)
  else if t = tRD_RSP then
    if hget h hSTATUS = stOK ∨ hget h hSTATUS = stPOISONED then decide (1 ≤ n ∧ n ≤ 4) else decide (n = 0)
  else false

/-- R159: whether a stamped header of endpoint e has one of the faults that complete it with BAD_PKT. (DEDUCED, assumption 55) -/
def badFormat (e : Nat) (h : Header) : Bool :=
  !linesOk h || !reservedZero h || (!isRsp h && decide (hget h hSTATUS ≠ 0)) ||
  (isReg h &&
    (!regBe.contains (hget h hBE) || decide (hget h hADDR % 8 ≠ 0) ||
     (decide (e ≠ epTolmor) && decide ((Fld.mk 320 13).get h.toNat ≠ 0)) ||
     (decide (hget h hDEV = 1) && decide (e ≠ epTolmor) && !isPciePort e)))

/-- Whether an endpoint is unreachable (R189). -/
def State.unreachable (s : State) (e : Nat) : Bool := decide ((s.ep e).unreach ≠ 0)

/-- R189, R387: whether a packet with header `h` finds endpoint e unreachable. Register traffic still reaches a yard's agent, at fabric port fp 0,
while only the retirement of its bundles keeps other packets from it. -/
def State.unreachFor (s : State) (e : Nat) (h : Header) : Bool :=
  s.unreachable e && !(isReg h && isFabricPort e && decide (e = fpRouter (routerYard e) 0) && decide ((s.ep e).unreach = 2))

/-- R489: the status with which the ingress of endpoint e completes a stamped request, if a check fails. -/
def State.ingressCheck (s : State) (e : Nat) (p : Pkt) (h : Header) : Option Nat :=
  let dst := hget h hDST
  if badFormat e h then some stBAD_PKT
  else if epReserved dst then some stBAD_DEST
  else if hget h hDEV = 0 ∧ isReg h ∧ ¬ inWindow (hget h hADDR % 2 ^ 28) then some stREFUSED_OWNER
  else if hget h hDEV = 0 ∧ ¬ s.reaches e dst p then some stREFUSED_OWNER
  else if (s.trackAt e (hget h hTAG)).isSome then some stTAG_BUSY
  else if s.unreachFor dst h then some stUNREACHABLE
  else none

/-- The lowest tag of an endpoint that is neither outstanding nor fenced, of the first `n`. (DESIGN CHOICE, assumption 56) -/
def State.freeTag (s : State) (e : Nat) : Nat → Option Nat
  | 0 => none
  | n + 1 =>
    match State.freeTag s e n with
    | some t => some t
    | none => if (s.trackAt e n).isNone then some n else none

/-- Whether the interface allocates its own tags: a hardened endpoint, or an engine port (Completions and errors). -/
def ownTags (p : Pkt) : Bool := decide (p.origin ≠ .tenant)

/-- The ingress takes the header of packet i: it stamps it and makes its checks (R160, R489). (DESIGN CHOICE, assumption 56) -/
def State.takeHeader (s : State) (e i : Nat) : State :=
  let p0 := s.pkt i
  let tag? := if isRsp p0.hdr || !ownTags p0 then some (hget p0.hdr hTAG) else s.freeTag e 1024
  match tag? with
  | none => s
  | some tag =>
    let p := { p0 with hdr := hset p0.hdr hTAG tag }
    let h := s.stamp e p
    if isRsp h then
      if badFormat e h || epReserved (hget h hDST) || (decide (hget h hDEV = 0) && !s.reaches e (hget h hDST) p) then
        (s.killPkt e i).late e
      else s.setPkt i { p with hdr := h, accepted := true }
    else
      match s.ingressCheck e p h with
      | some st => (s.killPkt e i).completeLocal e h p.origin st
      | none => (s.setPkt i { p with hdr := h, accepted := true }).putTrack e tag { hdr := h, fenced := false, origin := p.origin }

/-- R176: a cut-through threshold. -/
def clampCt (v : Nat) : Nat := if v = 0 then 1 else if 5 < v then 5 else v

/-- R311: bytes injected under the packet's stall, counted by the flit. (DEDUCED, assumption 131) -/
def State.meterLink (s : State) (e stall flits : Nat) : State :=
  { s with tally := s.tally.count 3 e stall (64 * flits) }

/-- R176: the packet at the head of an IN queue enters the mesh once CT_IN of its flits, or its tail, are in the queue and the side has no
current packet. -/
def State.tryEnter (s : State) (e : Nat) (rsp : Bool) : State :=
  let x := s.ep e
  match x.inQ rsp with
  | [] => s
  | i :: q =>
    let p := s.pkt i
    if !p.accepted || x.curIn.isSome then s
    else if clampCt (s.fget (rEPQ_CTL e) fEPQ_CTL_CT_IN) ≤ p.nflits ∨ p.eop then
      let s1 := s.setPkt i { p with place := .router (epRouter e) (4 + epLocal e) }
      let s2 := s1.setEp e { (x.setIn rsp q) with curIn := if p.eop then none else some i }
      s2.meterLink e (hget p.hdr hSTALL) p.nflits
    else s

/-- Whether an endpoint may inject (R162): VALID of the word that stamps its packets. A register agent's or Millrace-made response is
always sent. -/
def State.mayInject (s : State) (e : Nat) (p : Pkt) : Bool :=
  p.accepted || decide (fEP_CFG_VALID.get (s.idWord e p) = 1) || (match p.origin with | .lane _ => true | _ => false)

/-- The packet an ingress is still taking flits of, if there is one. -/
def State.openIn (s : State) (e : Nat) : Option Nat :=
  match (s.ep e).curIn with
  | some i => some i
  | none => ((s.ep e).reqIn ++ (s.ep e).rspIn).find? (fun i => !(s.pkt i).eop)

/-- R173: whether a fabric port's tenant interface is connected: its owner is LIVE, no capture stops it, and the port may inject. -/
def State.portConnected (s : State) (e : Nat) : Bool :=
  let w := s.rd32 (rEP_CFG e)
  decide (fEP_CFG_VALID.get w = 1) && decide (fEP_CFG_OWNED.get w = 1) &&
    decide (s.fget (rSTALL_STAT (fEP_CFG_STALL.get w)) fSTALL_STAT_STATE = 2) && !s.captured (fEP_CFG_STALL.get w)

/-- PACKET_INGRESS (R489): the ingress of endpoint e takes what reaches it. -/
def State.ingress (s : State) (e : Nat) : IngressOp → State
  | .queued vn =>
    match (s.ep e).inQ (decide (vn = 1)) with
    | [] => s
    | i :: _ =>
      let p := s.pkt i
      if !s.mayInject e p then s
      else (if p.accepted then s else s.takeHeader e i).tryEnter e (decide (vn = 1))
  | .header hdr flits eop =>
    let rsp := isRsp hdr
    if !isFabricPort e || !s.portConnected e || decide ((s.ep e).skipIn ≠ 0) || (s.openIn e).isSome ||
        decide (32 ≤ s.qLevel ((s.ep e).inQ rsp)) then s
    else
      let p := { mkPkt hdr flits .inQ false .tenant with eop := eop }
      let i := s.mil.next
      let s1 := (s.pushIn e p).takeHeader e i
      if i ∈ (s1.ep e).inQ rsp then s1.tryEnter e rsp
      else s1.setEp e { s1.ep e with skipIn := b2n (!eop) }
  | .more flits eop =>
    if (s.ep e).skipIn ≠ 0 then s.setEp e { s.ep e with skipIn := b2n (!eop) }
    else
      match s.openIn e with
      | none => s
      | some i =>
        let p := s.pkt i
        let s1 := s.setPkt i { p with flits := p.flits ++ flits, eop := eop }
        if (s.ep e).curIn = some i then
          (if eop then s1.setEp e { s1.ep e with curIn := none } else s1).meterLink e (hget p.hdr hSTALL) flits.length
        else s1.tryEnter e (isRsp p.hdr)

/-! ### Discarding (R178–R181) -/

/-- A packet of the mesh, or of its destination's OUT side, ends with a TRUNC tail. At the egress, a packet whose header has been taken
is ended with one RX_ABORT flit, and any other is removed without presentation (R180). (DESIGN CHOICE, assumption 62) -/
def State.truncate (s : State) (i : Nat) : State :=
  let p := s.pkt i
  match p.place with
  | .outQ =>
    let d := hget p.hdr hDST
    if (s.ep d).curOut = some i then
      ((s.killPkt d i).useFree).emit (.localFlits d p.hdr [(BitVec.ofNat 512 (Sys2Proof.Config.freeValue s.fresh), false)] true)
    else s.killPkt d i
  | _ => s.setPkt i { p with eop := true, trunc := true }

/-- R178 on an IN side: packet i, still in a queue of endpoint e, is discarded. A request completes locally with DROPPED; a response is
replaced by a header-only response with STATUS DROPPED. -/
def State.discardIn (s : State) (e i : Nat) : State :=
  let p := s.pkt i
  let s1 := if p.eop then s else s.setEp e { s.ep e with skipIn := 1 }
  if isRsp p.hdr then
    s1.setPkt i { p with hdr := hset (hset p.hdr hSTATUS stDROPPED) hLINES 0, flits := [], eop := true }
  else
    let s2 := if p.accepted then s1.dropTrack e (hget p.hdr hTAG) else s1
    (s2.killPkt e i).completeLocal e (if p.accepted then p.hdr else s.stamp e p) p.origin stDROPPED

/-- R178 on an OUT side: packet i, in a queue of endpoint e, is discarded. A request is answered with DROPPED; a response is replaced by a
header-only response with STATUS DROPPED; a truncated packet draws no response. -/
def State.discardOut (s : State) (e i : Nat) : State :=
  let p := s.pkt i
  if p.trunc then s.killPkt e i
  else if isRsp p.hdr then
    if p.flits = [] ∧ hget p.hdr hSTATUS = stDROPPED then s
    else
      let h := hset (hset p.hdr hSTATUS stDROPPED) hLINES 0
      let s1 := (s.unqueue e i).setPkt i { p with hdr := h, flits := [], eop := true, taken := 0 }
      let s2 := s1.setEp e ((s1.ep e).setOut true ((s1.ep e).rspOut ++ [i]))
      if p.accepted then s2.noteCompletion e (hget p.hdr hSRC) (hget p.hdr hTAG) stDROPPED else s2
  else (s.killPkt e i).madeRsp e p.hdr stDROPPED

/-- DROP_REST_IN (R180): the IN side's current packet ends in the mesh with a TRUNC tail and is completed under R178. -/
def State.dropRestIn (s : State) (e : Nat) : State :=
  match (s.ep e).curIn with
  | none => s
  | some i =>
    let p := s.pkt i
    let s1 := (s.truncate i).setEp e { s.ep e with curIn := none, skipIn := 1 }
    if isRsp p.hdr then s1.injectRsp e (hset (hset p.hdr hSTATUS stDROPPED) hLINES 0)
    else
      match s1.trackAt e (hget p.hdr hTAG) with
      | none => s1
      | some t => (s1.dropTrack e (hget p.hdr hTAG)).completeLocal e t.hdr t.origin stDROPPED

/-- DROP_REST_OUT (R180): the flits of the OUT side's current packet that are not yet taken are discarded, and the endpoint is presented one
flit with RX_EOP and RX_ABORT and undefined data. (DESIGN CHOICE, assumption 62) -/
def State.dropRestOut (s : State) (e : Nat) : State :=
  match (s.ep e).curOut with
  | none => s
  | some i =>
    let p := s.pkt i
    let s1 := s.useFree.emit (.localFlits e p.hdr [(BitVec.ofNat 512 (Sys2Proof.Config.freeValue s.fresh), false)] true)
    (s1.setEp e { s1.ep e with curOut := none }).discardOut e i

/-- TX_ABORT (R181): as DROP_REST_IN for a packet whose header has entered the mesh; a packet still queued is removed and completed
under R178. The flit offered with TX_ABORT ends the packet. -/
def State.txAbort (s : State) (e : Nat) : State :=
  match (s.ep e).curIn with
  | some _ => (s.dropRestIn e).setEp e { (s.dropRestIn e).ep e with skipIn := 0 }
  | none =>
    match s.openIn e with
    | none => s
    | some i =>
      let s1 := s.discardIn e i
      s1.setEp e { s1.ep e with skipIn := 0 }

/-- Every packet of a list discarded, but for the current one and register traffic bound for an agent. (DEDUCED, assumption 57) -/
def State.discardAll (s : State) (f : State → Nat → State) (cur : Option Nat) (keepReg : Bool) (q : List Nat) : State :=
  q.foldl (fun t i => if cur = some i || (keepReg && isReg (t.pkt i).hdr) then t else f t i) s

/-- FLUSH_TAKES_EFFECT (R179): a pending flush at its side's packet boundary: every queued packet of the side is discarded, and IRQ_RAW[2]
sets. The OUT side leaves DRAIN (R182). -/
def State.flushEffect (s : State) (e : Nat) (out : Bool) : State :=
  let x := s.ep e
  if out then
    if !x.flushOut || x.curOut.isSome then s
    else
      let s1 := s.discardAll (fun t i => t.discardOut e i) none true (x.reqOut ++ x.rspOut)
      (s1.setEp e { s1.ep e with flushOut := false }).irq (PageKind.milEp.addr e) 2
  else
    if !x.flushIn || x.curIn.isSome then s
    else
      let s1 := s.discardAll (fun t i => t.discardIn e i) none false (x.reqIn ++ x.rspIn)
      (s1.setEp e { s1.ep e with flushIn := false }).irq (PageKind.milEp.addr e) 2

/-- FLUSH_IN (R179, R181): it takes effect at once where the side has no current packet. -/
def State.flushIn (s : State) (e : Nat) : State := (s.setEp e { s.ep e with flushIn := true }).flushEffect e false

/-- FLUSH_OUT (R179, R181, R182): as FLUSH_IN for the OUT side; it ends DRAIN. -/
def State.flushOut (s : State) (e : Nat) : State := (s.setEp e { s.ep e with flushOut := true, drain := false }).flushEffect e true

/-- DRAIN (R182): every flit queued for the endpoint is discarded, a packet partly taken is ended as DROP_REST_OUT does, and IRQ_RAW[1]
sets. The queue named must be full. -/
def State.enterDrain (s : State) (e : Nat) (rsp : Bool) : State :=
  let x := s.ep e
  if x.drain || decide (s.qLevel (x.outQ rsp) < 32) then s
  else
    let s1 := s.dropRestOut e
    let s2 := s1.discardAll (fun t i => t.discardOut e i) none true ((s1.ep e).reqOut ++ (s1.ep e).rspOut)
    (s2.setEp e { s2.ep e with drain := true }).irq (PageKind.milEp.addr e) 1

/-- DRAIN_END (R182): the interface is connected with RX_READY = 0b11. A hardened endpoint is always connected. -/
def State.drainEnd (s : State) (e : Nat) : State :=
  if !(s.ep e).drain || (isFabricPort e && !s.portConnected e) then s else s.setEp e { s.ep e with drain := false }

/-- INGRESS_FLIT_GAP (R177): no later flit of the current packet came within 64 ns: it ends as DROP_REST_IN does, and IRQ_RAW[3] sets. (DESIGN CHOICE, assumption 2) -/
def State.flitGap (s : State) (e : Nat) : State :=
  if (s.ep e).curIn.isNone then s else (s.dropRestIn e).irq (PageKind.milEp.addr e) 3

/-! ### Routers -/

/-- The directions of Table RTR_ECC_LAST.INPUT: 0 north, 1 east, 2 south, 3 west. -/
def oppDir (d : Nat) : Nat := (d + 2) % 4

/-- The router next to router rt in a direction, where there is one. -/
def neighbour (rt d : Nat) : Option Nat :=
  let c := rt % 16
  let r := rt / 16
  if d = 0 then if r < 11 then some (rt + 16) else none
  else if d = 1 then if c < 15 then some (rt + 1) else none
  else if d = 2 then if 0 < r then some (rt - 16) else none
  else if 0 < c then some (rt - 1) else none

/-- R165: the virtual channel of a packet: VN and CLS. -/
def vcOf (h : Header) : Nat := 4 * b2n (isRsp h) + hget h hQOS

/-- The key of a downstream virtual channel: output direction `d` and channel `ch` of router `rt`, virtual channel `vc`. -/
def vcKey (rt d ch vc : Nat) : Nat := ((rt * 4 + d) * 2 + ch) * 8 + vc

/-- The packet that holds a downstream virtual channel (R165). -/
def State.vcHolder (s : State) (k : Nat) : Option Nat :=
  match s.mil.pkts.find? (fun x => x.2.holds = some k) with
  | some x => some x.1
  | none => none

/-- R165: the credits of a downstream virtual channel: the free slots of its 4-flit buffer. -/
def State.credits (s : State) (k : Nat) : Nat :=
  match s.vcHolder k with
  | none => 4
  | some i => 4 - (s.pkt i).nflits

/-- R166: one productive output considered: its credits, the remaining offset in its direction, the order of preference of the direction,
the direction and the channel. -/
structure OutChoice where
  cred : Nat
  offset : Nat
  pref : Nat
  dir : Nat
  ch : Nat
  deriving DecidableEq, Repr

/-- R166: whether choice `a` is taken before choice `b`: more credits, then the larger remaining offset, then east before north before
south, then CH0. -/
def OutChoice.before (a b : OutChoice) : Bool :=
  if a.cred ≠ b.cred then decide (b.cred < a.cred)
  else if a.offset ≠ b.offset then decide (b.offset < a.offset)
  else if a.pref ≠ b.pref then decide (a.pref < b.pref)
  else decide (a.ch < b.ch)

/-- R166, R167: the output a packet takes at router rt, as (direction, channel); none at its destination router. -/
def State.route (s : State) (rt : Nat) (h : Header) : Option (Nat × Nat) :=
  let d := epRouter (hget h hDST)
  let c := rt % 16
  let r := rt / 16
  let dc := d % 16
  let dr := d / 16
  if d = rt then none
  else if hget h hORD = 1 then
    let ch := (hget h hSRC % 2 + hget h hDST % 2) % 2
    if c < dc then some (1, ch) else if dc < c then some (3, ch) else if r < dr then some (0, ch) else some (2, ch)
  else
    let vc := vcOf h
    if dc < c then
      some (3, if s.credits (vcKey rt 3 0 vc) < s.credits (vcKey rt 3 1 vc) then 1 else 0)
    else
      let mk := fun (dir offset pref ch : Nat) => OutChoice.mk (s.credits (vcKey rt dir ch vc)) offset pref dir ch
      let cands :=
        (if c < dc then [mk 1 (dc - c) 0 0, mk 1 (dc - c) 0 1] else []) ++
        (if r < dr then [mk 0 (dr - r) 1 0, mk 0 (dr - r) 1 1] else []) ++
        (if dr < r then [mk 2 (r - dr) 2 0, mk 2 (r - dr) 2 1] else [])
      match cands.foldl (fun b x => match b with | none => some x | some y => if x.before y then some x else some y)
          (none : Option OutChoice) with
      | some x => some (x.dir, x.ch)
      | none => none

/-- Output channel (rt, d, ch). -/
def State.chan (s : State) (rt d ch : Nat) : OutChan := smGet OutChan.reset s.mil.chans (8 * rt + 2 * d + ch)

/-- Output channel (rt, d, ch) replaced. -/
def State.setChan (s : State) (rt d ch : Nat) (x : OutChan) : State :=
  { s with mil := { s.mil with chans := smSet OutChan.reset s.mil.chans (8 * rt + 2 * d + ch) x } }

/-- D[k] of R170. -/
def OutChan.d (x : OutChan) (k : Nat) : Nat := if k = 0 then x.d0 else if k = 1 then x.d1 else x.d2

/-- D[k] of R170 replaced. -/
def OutChan.setD (x : OutChan) (k v : Nat) : OutChan :=
  if k = 0 then { x with d0 := v } else if k = 1 then { x with d1 := v } else { x with d2 := v }

/-- R170: the weights W[k]; 0 acts as 1. -/
def State.qosWeight (s : State) (k : Nat) : Nat :=
  let w := s.fget (rMIL_QOS_WEIGHT 0) ⟨8 * k, 8⟩
  if w = 0 then 1 else w

/-- R170: the deficit counters before a flit of one of the ready virtual channels is sent: refilled when no ready class 0–2 has one left. -/
def State.refill (s : State) (x : OutChan) (ready : List Nat) : OutChan :=
  if ready.any (fun vc => decide (vc % 4 < 3) && decide (0 < x.d (vc % 4))) then x
  else ((x.setD 0 (s.qosWeight 0)).setD 1 (s.qosWeight 1)).setD 2 (s.qosWeight 2)

/-- R170: the virtual channel that an output channel serves, of the ready ones, and the counters after its refill. -/
def State.arbitrate (s : State) (x : OutChan) (ready : List Nat) : Option (Nat × OutChan) :=
  if ready.contains 7 then some (7, x)
  else if ready.contains 3 then some (3, x)
  else if ready.isEmpty then none
  else
    let x1 := s.refill x ready
    let has := fun k => decide (0 < x1.d k) && (ready.contains k || ready.contains (4 + k))
    let pick := fun k =>
      if ready.contains k && ready.contains (4 + k) then (if x1.last.testBit k then k else 4 + k)
      else if ready.contains k then k else 4 + k
    if has 2 then some (pick 2, x1) else if has 1 then some (pick 1, x1) else if has 0 then some (pick 0, x1) else none

/-- R170: the counters after `n` flits of a virtual channel have been sent. -/
def State.spend (s : State) (vc : Nat) : Nat → OutChan → OutChan
  | 0, x => x
  | n + 1, x =>
    if vc % 4 = 3 then x
    else
      let x1 := s.refill x [vc]
      let x2 := x1.setD (vc % 4) (x1.d (vc % 4) - 1)
      State.spend s vc n { x2 with last := (Fld.mk (vc % 4) 1).set x2.last (vc / 4) }

/-- The input port by which a packet entered the router it is at. -/
def Pkt.inPort (p : Pkt) : Nat := match p.place with | .router _ i => i | _ => 0

/-- The router a packet is at. -/
def Pkt.atRouter (p : Pkt) : Option Nat := match p.place with | .router r _ => some r | _ => Option.none

/-- R168: the flow whose packets keep their order. -/
def sameFlow (a b : Header) : Bool :=
  decide (hget a hORD = 1) && decide (hget b hORD = 1) && decide (hget a hSRC = hget b hSRC) && decide (hget a hDST = hget b hDST) &&
  decide (isRsp a = isRsp b) && decide (hget a hQOS = hget b hQOS)

/-- R168: whether an earlier packet of the same ordered flow is still at the same router. -/
def State.behindFlow (s : State) (i : Nat) : Bool :=
  let p := s.pkt i
  s.mil.pkts.any (fun x => decide (x.1 < i) && decide (x.2.atRouter = p.atRouter) && sameFlow x.2.hdr p.hdr)

/-- The packets at router rt that want output (d, ch) and whose downstream virtual channel is free. -/
def State.contenders (s : State) (rt d ch : Nat) : List Nat :=
  (s.mil.pkts.filter (fun x => decide (x.2.atRouter = some rt) && decide (s.route rt x.2.hdr = some (d, ch)) &&
    (s.vcHolder (vcKey rt d ch (vcOf x.2.hdr))).isNone && !s.behindFlow x.1)).map (fun x => x.1)

/-- R170, R248: the virtual channel as which a router arbitrates a packet: from the strobe of a swap until the mesh is quiet, a packet with DEV = 0
of the swapping stall counts as class 3. (DEDUCED, assumption 59) -/
def State.arbVc (s : State) (h : Header) : Nat :=
  let boosted := match (s.stall (hget h hSTALL)).swap with | some w => !w.quiet | none => false
  if boosted && decide (hget h hDEV = 0) then 4 * b2n (isRsp h) + 3 else vcOf h

/-- R165: of the packets waiting for one virtual channel, the one whose turn it is, round-robin over input ports. -/
def State.turn (s : State) (rr : Nat) (l : List Nat) : Option Nat :=
  l.foldl (fun b i => match b with
    | none => some i
    | some j => if ((s.pkt i).inPort + 8 - rr) % 8 < ((s.pkt j).inPort + 8 - rr) % 8 then some i else some j) none

/-- R186: the record of a flit error at a router. -/
def State.flitErr (s : State) (rt : Nat) (p : Pkt) (isHdr double : Bool) : State :=
  let s1 := if double then (s.finc (rRTR_ECC rt) fRTR_ECC_UNCORR).irq (PageKind.milRtr.addr rt) 0 else s.finc (rRTR_ECC rt) fRTR_ECC_CORR
  if !double && s.flag (rRTR_ECC_LAST rt) fRTR_ECC_LAST_UNCORR then s1
  else
    let ch := match p.holds with | some k => k / 8 % 2 | none => 0
    s1.wr32 (rRTR_ECC_LAST rt) (2 ^ 31 + b2n double * 2 ^ 30 + b2n isHdr * 2 ^ 29 + p.inPort % 8 * 2 ^ 26 + ch * 2 ^ 25 + vcOf p.hdr * 2 ^ 22)

/-- A packet lost in the mesh: later flits of it are discarded. -/
def State.losePkt (s : State) (i : Nat) : State :=
  let e := hget (s.pkt i).hdr hSRC
  let s1 := if (s.ep e).curIn = some i then s.setEp e { s.ep e with curIn := none, skipIn := 1 } else s
  s1.delPkt i

/-- R186: flit errors of packet i at its router, as (flit, double): corrected and counted; a double-bit error in the header discards the
packet, and in another flit sets its POISON bit. -/
def State.flitErrs (s : State) (rt i : Nat) : List (Nat × Bool) → State
  | [] => s
  | (f, double) :: es =>
    let p := s.pkt i
    if f < p.nflits then
      let s1 := s.flitErr rt p (decide (f = 0)) double
      if double && decide (f = 0) then s1.losePkt i
      else if double then State.flitErrs (s1.setPkt i { p with flits := listModify (fun x => (x.1, true)) p.flits (f - 1) }) rt i es
      else State.flitErrs s1 rt i es
    else State.flitErrs s rt i es

/-- ROUTER_HEADER (R166): router handling of packet i: flit errors, then one hop on the output that R166 or R167 chooses, when that output
serves it (R165, R170). At its destination router the packet waits for the egress. (DESIGN CHOICE, assumption 51) -/
def State.routerHop (s : State) (i : Nat) (errs : List (Nat × Bool)) : State :=
  match (s.pkt i).atRouter with
  | none => s
  | some rt =>
    let s1 := s.flitErrs rt i errs
    let p := s1.pkt i
    if p.atRouter ≠ some rt then s1
    else
      match s1.route rt p.hdr with
      | none => s1
      | some (d, ch) =>
        match neighbour rt d with
        | none => s1
        | some rt' =>
          let cs := s1.contenders rt d ch
          let x := s1.chan rt d ch
          match s1.arbitrate x (cs.map (fun j => s1.arbVc (s1.pkt j).hdr)) with
          | none => s1
          | some (vc, x1) =>
            if vc ≠ s1.arbVc p.hdr ∨ s1.turn x.rr (cs.filter (fun j => s1.arbVc (s1.pkt j).hdr = vc)) ≠ some i then s1
            else
              let x2 := { s1.spend vc p.nflits x1 with rr := (p.inPort + 1) % 8 }
              (s1.setPkt i { p with place := .router rt' (oppDir d), holds := some (vcKey rt d ch (vcOf p.hdr)) }).setChan rt d ch x2

/-! ### The egress -/

/-- R188: whether a fabric or engine port refuses a request, and with which status. -/
def State.egressRefusal (s : State) (e : Nat) (h : Header) : Option Nat :=
  let w := s.rd32 (rEP_CFG e)
  if isFabricPort e || isEnginePort e then
    if hget h hDEV ≠ 1 ∧ ¬ (fEP_CFG_OWNED.get w = 1 ∧ fEP_CFG_STALL.get w = hget h hSTALL) then some stREFUSED_OWNER
    else if isEnginePort e && !isReg h then some stBAD_ADDR
    else none
  else none

/-- R232, R248: whether a fabric port's owner is frozen, so that its OUT side discards. -/
def State.portFrozen (s : State) (e : Nat) : Bool :=
  let w := s.rd32 (rEP_CFG e)
  isFabricPort e && decide (fEP_CFG_OWNED.get w = 1) && !decide (s.fget (rSTALL_STAT (fEP_CFG_STALL.get w)) fSTALL_STAT_STATE = 2)

/-- A packet arrives from the mesh at its destination interface (R176, R180, R182, R188, R189, R248). (DEDUCED, assumption 57) -/
def State.arrive (s : State) (e i : Nat) : State :=
  let p := s.pkt i
  let rsp := isRsp p.hdr
  let x := s.ep e
  if p.atRouter ≠ some (epRouter e) ∨ hget p.hdr hDST ≠ e ∨ s.behindFlow i then s
  else if p.trunc then s.delPkt i
  else if s.unreachFor e p.hdr || (rsp && decide (x.unreach ≠ 0)) then
    let s1 := s.losePkt i
    if rsp then s1
    else (s1.useFree.newPkt (mkPkt (s1.openRsp p.hdr stUNREACHABLE 0) [] (.router (epRouter e) (4 + epLocal e)) true .tenant)).1
  else
    match (if rsp then none else s.egressRefusal e p.hdr) with
    | some st => (s.losePkt i).madeRsp e p.hdr st
    | none =>
      if 32 ≤ s.qLevel (x.outQ rsp) ∧ ¬ x.drain then s
      else
        let s1 := (s.setPkt i { p with place := .outQ, holds := Option.none, accepted := false, origin := .tenant }).setEp e (x.setOut rsp (x.outQ rsp ++ [i]))
        if (x.drain || (s.portFrozen e && !rsp)) && !isReg p.hdr then
          let s2 := if p.eop then s1 else s1.truncate i
          if p.eop then s2.discardOut e i else s2
        else s1

/-- R175: the packet an egress presents: the current one; else the head of RSP_OUT when the response bit of RX_READY is 1, else the head
of REQ_OUT when the request bit is. REG packets go to the register agent instead; a response is presented once the tracker has accepted it. -/
def State.presented (s : State) (e ready : Nat) : Option Nat :=
  let x := s.ep e
  let ct := clampCt (s.fget (rEPQ_CTL e) fEPQ_CTL_CT_OUT)
  match x.curOut with
  | some i => some i
  | none =>
    let whole := fun i => decide (ct ≤ (s.pkt i).nflits) || (s.pkt i).eop
    let r := x.rspOut.find? (fun i => (s.pkt i).accepted)
    let q := x.reqOut.find? (fun i => !isReg (s.pkt i).hdr)
    match (if ready.testBit 1 then r else none), (if ready.testBit 0 then q else none) with
    | some i, q' => if whole i then some i else (match q' with | some j => if whole j then some j else none | none => none)
    | none, some j => if whole j then some j else none
    | none, none => none

/-- The endpoint takes `n` flits of the presented packet (R175). -/
def State.present (s : State) (e ready n : Nat) : State :=
  if isFabricPort e && !s.portConnected e then s else
    match s.presented e ready with
    | none => s
    | some i =>
      let p := s.pkt i
      let all := (p.hdr, false) :: p.flits
      let k := min n (p.nflits - p.taken)
      if k = 0 then s
      else
        let s1 := s.emit (.localFlits e p.hdr ((all.drop p.taken).take k) false)
        if p.taken + k = p.nflits ∧ p.eop then s1.killPkt e i
        else (s1.setPkt i { p with taken := p.taken + k }).setEp e { s1.ep e with curOut := some i }

/-- PACKET_EGRESS (R188). A fabric port presents packets to the fabric; what arrives at a hardened endpoint is taken by its own commands. -/
def State.egress (s : State) (e : Nat) : EgressOp → State
  | .arrive i => s.arrive e i
  | .present ready n => if isFabricPort e then s.present e ready n else s

/-! ### Responses at the requester (R184) -/

/-- The first response of a TYPE in RSP_OUT of endpoint e that a hardened requester or the tracker has not dealt with. -/
def State.nextRsp (s : State) (e type : Nat) : Option Nat :=
  (s.ep e).rspOut.find? (fun i =>
    decide (hget (s.pkt i).hdr hTYPE = type) && (!(s.pkt i).accepted || decide ((s.pkt i).origin ≠ .tenant)))

/-- R184, R185, R248: the tracker of endpoint e checks response i: it accepts it, or discards it as LATE. -/
def State.trackRsp (s : State) (e i : Nat) : State :=
  let p := s.pkt i
  let tag := hget p.hdr hTAG
  if p.accepted then s
  else
    match s.trackAt e tag with
    | none => (s.killPkt e i).late e
    | some t =>
      if hget p.hdr hSRC ≠ hget t.hdr hDST then (s.killPkt e i).late e
      else if t.fenced then ((s.killPkt e i).dropTrack e tag).late e
      else ((s.setPkt i { p with accepted := true, origin := t.origin }).dropTrack e tag).noteCompletion e (hget t.hdr hDST) tag
        (hget p.hdr hSTATUS)

/-! ### Requests at the responder -/

/-- A request of a TYPE in REQ_OUT of endpoint e, whole and not truncated. -/
def State.reqAt (s : State) (e i type : Nat) : Bool :=
  (s.ep e).reqOut.contains i && decide (hget (s.pkt i).hdr hTYPE = type) && (s.pkt i).eop && !(s.pkt i).trunc

/-- R200: whether a request must wait for an earlier one: an ordered request from the same requester in the same class. -/
def State.orderedBehind (s : State) (e i : Nat) : Bool :=
  (s.ep e).reqOut.any (fun j => decide (j < i) && sameFlow (s.pkt j).hdr (s.pkt i).hdr)

/-- A responder has answered request i with a response of its own (R158); EXT is `ext` where the responder's chapter states it. -/
def State.answer (s : State) (e i status lines : Nat) (ext : Option Nat) (flits : List (BitVec 512 × Bool)) : State :=
  let h := s.openRsp (s.pkt i).hdr status lines
  (s.killPkt e i).useFree.sendRsp e (match ext with | some v => hset h hEXT v | none => h) flits

/-- A register agent has answered request i (R164): its response keeps the identity of the request, and carries a
read value in EXT[63:0] (Table MIL-4). -/
def State.agentAnswer (s : State) (e i status : Nat) (val : Option Nat) : State :=
  let h := s.openRsp (s.pkt i).hdr status 0
  (s.killPkt e i).useFree.injectRsp e (match val with | some v => hset h ⟨256, 64⟩ v | none => h)

/-! ### Unreachable endpoints (R189) -/

/-- An endpoint marked unreachable by a cause: its queues are emptied and the packet it was injecting ends with a TRUNC tail. -/
def State.markUnreach (s : State) (e cause : Nat) : State :=
  let x := s.ep e
  let s1 := match x.curIn with
    | some i => s.truncate i
    | none => s
  let s2 := (x.reqIn ++ x.rspIn ++ x.reqOut ++ x.rspOut).foldl (fun t i => t.delPkt i) s1
  s2.setEp e { x with reqIn := [], rspIn := [], reqOut := [], rspOut := [], curIn := none, curOut := none,
                      unreach := (Fld.mk cause 1).set x.unreach 1 }

/-- A cause that marks an endpoint unreachable is gone. -/
def State.clearUnreach (s : State) (e cause : Nat) : State :=
  s.setEp e { s.ep e with unreach := (Fld.mk cause 1).set (s.ep e).unreach 0 }

/-- The outstanding requests addressed to an unreachable endpoint `dst`, as (endpoint, tag). -/
def State.tracksTo (s : State) (dst : Nat) : List (Nat × Nat) :=
  (s.mil.track.filter (fun x => decide (hget x.2.hdr hDST = dst) && s.unreachFor dst x.2.hdr)).map (fun x => (x.1 / 1024, x.1 % 1024))

/-- UNREACH_TRACKER_SWEEP (R189): every tracker completes its outstanding requests addressed to an unreachable endpoint. -/
def State.sweep (s : State) (dst : Nat) : State :=
  (s.tracksTo dst).foldl (fun t x => t.completeTracked x.1 x.2 stUNREACHABLE) s

/-! ### Read-only registers (R191) -/

/-- EPQ_STAT. -/
def State.epqStat (s : State) (e : Nat) : Nat :=
  let x := s.ep e
  let lvl := fun q => min 32 (s.qLevel q)
  b2n (decide (x.unreach ≠ 0)) * 2 ^ 31 + b2n x.drain * 2 ^ 30 + b2n x.flushOut * 2 ^ 29 + b2n x.flushIn * 2 ^ 28 +
  lvl x.rspOut * 2 ^ 18 + lvl x.reqOut * 2 ^ 12 + lvl x.rspIn * 2 ^ 6 + lvl x.reqIn

/-- EP_OUTSTANDING. -/
def State.epOutstanding (s : State) (e : Nat) : Nat :=
  (s.mil.track.filter (fun x => x.1 / 1024 = e ∧ ¬ x.2.fenced)).length

end Sys2Proof.Machine
end

