-- ==== Sys2Proof/Machine/Memory.lean ====
section
/-! DEFINITION. HBM, CXL memory and the Sluice: request checks (R197), reads and writes with encryption, tags and poison (R199, R206–R215),
wear (R216), region commands and states (R217–R224), key slots (R204, R205, R225). Port 16k + p is HBMP_k_p, port 64 + n is MEM_CXL_n. -/

namespace Sys2Proof.Machine

/-- The endpoint a memory port answers at: the HBM port's own, or PCIE_n for MEM_CXL_n (R227). -/
def memEp (port : Nat) : Nat := if port < 64 then 0x140 + port else 0x180 + (port - 64)

/-- The memory port a request to endpoint e with address `addr` reaches, if it reaches one (R227: ADDR[63] at a PCIe port). -/
def memPortOf (e addr : Nat) : Option Nat :=
  if isHbmPort e then some (e - 0x140)
  else if isPciePort e ∧ addr.testBit 63 then some (64 + (e - 0x180)) else none

/-- A region's STATE (Table MEM-6). -/
def State.rgnState (s : State) (port i : Nat) : Nat := s.fget (rRGN_CFG port i) fRGN_CFG_STATE

/-- A region's size in 2 MiB units. -/
def State.rgnSize (s : State) (port i : Nat) : Nat :=
  if port < 64 then s.fget (rRGN_MAP port i) fRGN_MAP_SIZE else s.fget (rCXL_SIZE (port - 64) i) fCXL_SIZE_SIZE

/-- A region's base in 2 MiB units. -/
def State.rgnBase (s : State) (port i : Nat) : Nat :=
  if port < 64 then s.fget (rRGN_MAP port i) fRGN_MAP_BASE else s.fget (rCXL_BASE (port - 64) i) fCXL_BASE_BASE

/-- Whether a region is encrypted. -/
def State.rgnCrypt (s : State) (port i : Nat) : Bool := s.flag (rRGN_CFG port i) fRGN_CFG_CRYPT

/-- Whether a region has integrity tags. -/
def State.rgnTag (s : State) (port i : Nat) : Bool := s.flag (rRGN_CFG port i) fRGN_CFG_TAG

/-- KEY_CUR. -/
def State.keyCur (s : State) (port i : Nat) : Nat := s.fget (rRGN_KEY port i) fRGN_KEY_KEY_CUR

/-- KEY_NEXT. -/
def State.keyNext (s : State) (port i : Nat) : Nat := s.fget (rRGN_KEY port i) fRGN_KEY_KEY_NEXT

/-- WM. -/
def State.rgnWm (s : State) (port i : Nat) : Nat := s.fget (rRGN_WM port i) fRGN_WM_WM

/-- R206: the lines of a sector. -/
def State.sectorLines (s : State) (port i : Nat) : Nat := if s.flag (rRGN_CFG port i) fRGN_CFG_SECT then 8 else 64

/-- R220: a region's sector count. -/
def State.sectorCount (s : State) (port i : Nat) : Nat := s.rgnSize port i * 32768 / s.sectorLines port i

/-- R195: the key in the stored-line map of logical line `l` of a region. -/
def State.lineKey (s : State) (port i l : Nat) : Nat := 2 ^ 40 * port + 32768 * s.rgnBase port i + l

/-- R219: the slot that serves logical line `l`. -/
def State.slotFor (s : State) (port i l : Nat) : Nat :=
  if (s.rgnState port i = 3 ∨ s.rgnState port i = 4) ∧ l / s.sectorLines port i < s.rgnWm port i then s.keyNext port i
  else s.keyCur port i

/-- The work of a port's zeroing and walker. -/
def State.portWork (s : State) (port : Nat) : PortWork := smGet PortWork.idle s.mem.work port

/-- HBMP_STAT follows the walker's and the zeroing's queues. -/
def State.syncStat (s : State) (port : Nat) : State :=
  let w := s.portWork port
  let v := s.rd32 (rHBMP_STAT port)
  let v := fHBMP_STAT_WALK_ACTIVE.set v (b2n (!w.walkQ.isEmpty))
  let v := fHBMP_STAT_WALK_RGN.set v (listGet 0 w.walkQ 0)
  let v := fHBMP_STAT_WALK_QUEUE.set v (w.walkQ.length - 1)
  s.wr32 (rHBMP_STAT port) (fHBMP_STAT_INIT_ACTIVE.set v (b2n (!w.zeroQ.isEmpty)))

/-- The work of a port replaced. -/
def State.setPortWork (s : State) (port : Nat) (w : PortWork) : State :=
  ({ s with mem := { s.mem with work := smSet PortWork.idle s.mem.work port w } } : State).syncStat port

/-- A stored line. (DESIGN CHOICE, assumption 65) -/
def State.line (s : State) (k : Nat) : HLine := smGet HLine.zero s.mem.lines k

/-- A stored line replaced. -/
def State.setLine (s : State) (k : Nat) (v : HLine) : State := { s with mem := { s.mem with lines := smSet HLine.zero s.mem.lines k v } }

/-- A key slot's keys. -/
def State.slot (s : State) (k : Nat) : KeySlot := smGet KeySlot.empty s.mem.slots k

/-- A key slot's STATE (Table MEM-4). -/
def State.slotState (s : State) (k : Nat) : Nat := s.fget (rSLUICE_SLOT 0 k) fSLUICE_SLOT_STATE

/-! ### Wear (R216) -/

/-- WORN sets when the count is at or above WARN × 2^20 lines and WARN is not 0. -/
def State.wearCheck (s : State) (k : Nat) : State :=
  let warn := s.fget (rSLUICE_WEAR_WARN 0) fSLUICE_WEAR_WARN_WARN
  if warn ≠ 0 ∧ warn * 2 ^ 20 ≤ s.fget (rSLUICE_WEAR 0 k) fSLUICE_WEAR_LINES ∧ ¬ s.flag (rSLUICE_SLOT 0 k) fSLUICE_SLOT_WORN then
    ((s.fset (rSLUICE_SLOT 0 k) fSLUICE_SLOT_WORN 1).irq (PageKind.sluiceCtl.addr 0) 0).eventRecord 9 k
  else s

/-- `n` lines encrypted under slot k. (DESIGN CHOICE, assumption 67) -/
def State.wearUp (s : State) (k n : Nat) : State := (s.fadd (rSLUICE_WEAR 0 k) fSLUICE_WEAR_LINES n).wearCheck k

/-- SLUICE_WEAR_WARN_WRITE: the new WARN is compared with every loaded slot's count. -/
def State.wearWarnWritten (s : State) : State :=
  (List.range 128).foldl (fun t k => if t.slotState k = 0 then t else t.wearCheck k) s

/-! ### Events (R209, R212) -/

/-- Table MEM-7. -/
def evUNCORR : Nat := 1
/-- TAG_FAIL. -/
def evTAG_FAIL : Nat := 2
/-- MERGE_FAIL. -/
def evMERGE_FAIL : Nat := 3
/-- POISON_IN. -/
def evPOISON_IN : Nat := 4
/-- WALK_POISON. -/
def evWALK_POISON : Nat := 5
/-- LINK_DOWN. -/
def evLINK_DOWN : Nat := 6

/-- A logged memory event: HBMP_EVT_LAST, HBMP_EVT_LINE and IRQ_RAW[0]. -/
def State.memLog (s : State) (port code i src l : Nat) : State :=
  (((s.wr32 (rHBMP_EVT_LAST port) (2 ^ 31 + code * 2 ^ 28 + i % 32 * 2 ^ 23 + src % 1024 * 2 ^ 13)).wr32 (rHBMP_EVT_LINE port)
    (l % 2 ^ 29)).irq (PageKind.hbmp.addr port) 0).eventRecord 1 port

/-- R211, R212: line `l` of a region becomes poison by a logged event. -/
def State.poisonEvent (s : State) (port code i src l : Nat) : State :=
  ((s.setLine (s.lineKey port i l) ⟨BitVec.ofNat 512 ((2 ^ 512 - 1) / 255 * 0xA5), 0, true⟩).finc (rHBMP_ERR port)
    fHBMP_ERR_POISON_NEW).memLog port code i src l

/-- R209: a corrected line. -/
def State.lineCorrected (s : State) (port : Nat) : State :=
  (s.finc (rHBMP_ERR port) fHBMP_ERR_CORR).irq (PageKind.hbmp.addr port) 3

/-- R211: the data of a poisoned line. (DESIGN CHOICE, assumption 72) -/
def poisonData : BitVec 512 := BitVec.ofNat 512 ((2 ^ 512 - 1) / 255 * 0xA5)

/-- Whether a stored line was last written under the key that now serves it (R206, R219). -/
def State.keyMatches (s : State) (port i l : Nat) : Bool :=
  let r := s.line (s.lineKey port i l)
  !s.rgnCrypt port i || decide (r.kid = 0) || decide (r.kid = (s.slot (s.slotFor port i l)).kid)

/-- What a read of line `l` finds: a fault that the stack reports (a tag fault only where the region has tags), or a tag that fails because
the line lies under another key. (DESIGN CHOICE, assumption 66) -/
def State.lineFault (s : State) (port i l : Nat) (fault : Option LineFault) : Option LineFault :=
  match fault with
  | some .tagFail => if s.rgnTag port i then some .tagFail else none
  | some f => some f
  | none => if s.rgnTag port i && !s.keyMatches port i l then some .tagFail else none

/-! ### Requests -/

/-- R197: whether a region accepts a key. -/
def State.keyAccepted (s : State) (port i key : Nat) : Bool :=
  let st := s.rgnState port i
  (decide (st = 2) && decide (key = s.keyCur port i)) ||
  (decide (st = 3 ∨ st = 4) && (decide (key = s.keyCur port i) || decide (key = s.keyNext port i)))

/-- The region of a request. -/
def reqRgn (h : Header) : Nat := hget h hADDR / 2 ^ 35 % 32

/-- The first logical line of a request. -/
def reqLine (h : Header) : Nat := hget h hADDR % 2 ^ 35 / 64

/-- Table MEM-2: the status of the first check a request fails at a memory port. -/
def State.memCheck (s : State) (port : Nat) (h : Header) : Option Nat :=
  let i := reqRgn h
  let a := hget h hADDR
  let hi := if port < 64 then a / 2 ^ 40 else a % 2 ^ 63 / 2 ^ 40
  let cfg := s.rd32 (rRGN_CFG port i)
  let kind := fRGN_CFG_OWNER_KIND.get cfg
  let id := fRGN_CFG_OWNER_ID.get cfg
  if hget h hTYPE ≠ tRD ∧ hget h hTYPE ≠ tWR then some stBAD_ADDR
  else if hi ≠ 0 ∨ a % 64 ≠ 0 ∨ s.rgnState port i = 0 ∨ s.rgnSize port i * 32768 < reqLine h + hget h hLINES then some stBAD_ADDR
  else if ¬ (hget h hSRC = epTolmor ∨
      (kind = 2 ∧ hget h hDEV = 0 ∧ hget h hSTALL = id ∧ s.keyAccepted port i (hget h hKEY)) ∨
      (kind = 1 ∧ hget h hSRC = 0x180 + id ∧ hget h hDEV = 1 ∧ (s.keyAccepted port i (hget h hKEY) ∨ ¬ s.rgnCrypt port i))) then
    some stREFUSED_OWNER
  else if s.rgnState port i = 1 then some stREFUSED_OWNER
  else none

/-- R203: bytes metered under a request's stall. (DEDUCED, assumption 69) -/
def State.meterMem (s : State) (port : Nat) (h : Header) (lines : Nat) : State :=
  if hget h hDEV = 1 then s else { s with tally := s.tally.count 2 port (hget h hSTALL) (64 * lines) }

/-- R211–R214: one line read for a request: its data, and whether it is poisoned. (DESIGN CHOICE, assumption 64) -/
def State.readLine (s : State) (port i src l : Nat) (fault : Option LineFault) : State × (BitVec 512 × Bool) :=
  let r := s.line (s.lineKey port i l)
  if r.poison then (s.finc (rHBMP_ERR port) fHBMP_ERR_POISON_RD, (poisonData, true))
  else
    match s.lineFault port i l fault with
    | some .uncorr => (s.poisonEvent port evUNCORR i src l, (poisonData, true))
    | some .tagFail => (s.poisonEvent port evTAG_FAIL i src l, (poisonData, true))
    | f =>
      let s1 := if f = some .corrected then s.lineCorrected port else s
      if s1.keyMatches port i l then (s1, (r.plain, false))
      else (s1.useFree, (BitVec.ofNat 512 (Sys2Proof.Config.freeValue s1.fresh), false))

/-- The lines of an RD, in line order. -/
def State.readLines (s : State) (port i src : Nat) (faults : List (Nat × LineFault)) :
    List Nat → State × List (BitVec 512 × Bool)
  | [] => (s, [])
  | l :: ls =>
    let (s1, d) := s.readLine port i src l (faults.lookup l)
    let (s2, ds) := State.readLines s1 port i src faults ls
    (s2, d :: ds)

/-- R199: bytes merged under byte enables. -/
def mergeBytes (be : Nat) (old new : BitVec 512) : BitVec 512 :=
  let m := (List.range 64).foldl (fun acc k => if be.testBit k then acc + 0xFF * 2 ^ (8 * k) else acc) 0
  let mask := BitVec.ofNat 512 m
  (old &&& ~~~mask) ||| (new &&& mask)

/-- A line stored under the slot that R219 chooses, counted as one line encrypted (R216). (DESIGN CHOICE, assumption 63) -/
def State.storeLine (s : State) (port i l : Nat) (d : BitVec 512) : State :=
  if s.rgnCrypt port i then
    let k := s.slotFor port i l
    (s.setLine (s.lineKey port i l) ⟨d, (s.slot k).kid, false⟩).wearUp k 1
  else s.setLine (s.lineKey port i l) ⟨d, 0, false⟩

/-- R199, R212–R215: one line of a WR: the state, and whether the line became or stayed poison under the rules for partial writes. (DESIGN CHOICE, assumption 64) -/
def State.writeLine (s : State) (port i src l be : Nat) (d : BitVec 512 × Bool) (fault : Option LineFault) : State × Bool :=
  if be = 0 then (s, false)
  else if d.2 then (s.poisonEvent port evPOISON_IN i src l, false)
  else if be = 2 ^ 64 - 1 then (s.storeLine port i l d.1, false)
  else
    let r := s.line (s.lineKey port i l)
    if r.poison then (s.finc (rHBMP_ERR port) fHBMP_ERR_POISON_RD, true)
    else
      match s.lineFault port i l fault with
      | some .uncorr => (s.poisonEvent port evMERGE_FAIL i src l, true)
      | some .tagFail => (s.poisonEvent port evMERGE_FAIL i src l, true)
      | f =>
        let s1 := if f = some .corrected then s.lineCorrected port else s
        if s1.keyMatches port i l then (s1.storeLine port i l (mergeBytes be r.plain d.1), false)
        else (s1.useFree.storeLine port i l (mergeBytes be (BitVec.ofNat 512 (Sys2Proof.Config.freeValue s1.fresh)) d.1), false)

/-- The lines of a WR with their data flits. -/
def State.writeLines (s : State) (port i src be : Nat) (faults : List (Nat × LineFault)) :
    List (Nat × (BitVec 512 × Bool)) → State × Bool
  | [] => (s, false)
  | (l, d) :: ls =>
    let (s1, b) := s.writeLine port i src l be d (faults.lookup l)
    let (s2, b2) := State.writeLines s1 port i src be faults ls
    (s2, b || b2)

/-- R227, R228: whether the CXL link below MEM_CXL_n is up, in the root-port role. -/
def State.cxlUp (s : State) (n : Nat) : Bool :=
  s.flag (rPCIE_STAT n) fPCIE_STAT_LINK_UP && s.flag (rPCIE_STAT n) fPCIE_STAT_CXL && s.flag (rPCIE_STAT n) fPCIE_STAT_ROLE

/-- Whether a memory port can reach its memory: an HBM port always, a CXL table while its link is up (R228). -/
def State.memUp (s : State) (port : Nat) : Bool := decide (port < 64) || s.cxlUp (port - 64)

/-- R228: the first request after the link went down is logged. -/
def State.linkDownLog (s : State) (port : Nat) (h : Header) : State :=
  let w := s.portWork port
  if w.downLogged then s
  else (s.setPortWork port { w with downLogged := true }).memLog port evLINK_DOWN (reqRgn h) (hget h hSRC) (reqLine h)

/-- R221: whether a write touches the sector that the walker holds. -/
def State.writeHeld (s : State) (port : Nat) (h : Header) : Bool :=
  let w := s.portWork port
  match w.held, w.walkQ with
  | some _, i :: _ =>
    let n := s.sectorLines port i
    let wm := s.rgnWm port i
    decide (reqRgn h = i) && decide (hget h hBE ≠ 0) &&
      decide (reqLine h < (wm + 1) * n) && decide (wm * n < reqLine h + hget h hLINES)
  | _, _ => false

/-- R200: whether two requests touch a common line. -/
def linesMeet (a b : Header) : Bool :=
  decide (hget a hADDR / 2 ^ 35 = hget b hADDR / 2 ^ 35) && decide (reqLine a < reqLine b + hget b hLINES) &&
    decide (reqLine b < reqLine a + hget a hLINES)

/-- R200: whether request i of endpoint e waits for an earlier one. -/
def State.memBehind (s : State) (e i : Nat) : Bool :=
  (s.ep e).reqOut.any (fun j => decide (j < i) &&
    (sameFlow (s.pkt j).hdr (s.pkt i).hdr || linesMeet (s.pkt j).hdr (s.pkt i).hdr))

/-- R197–R203, R227: a memory port performs and answers request i of endpoint e. `faults` are the errors the stack (or the CXL device)
reports of the lines it reads. Responses carry EXT = 0 (R196). -/
def State.memRequest (s : State) (e port i : Nat) (faults : List (Nat × LineFault)) : State :=
  let p := s.pkt i
  let h := p.hdr
  let n := hget h hLINES
  let rg := reqRgn h
  let ls := (List.range n).map (fun k => reqLine h + k)
  if s.memBehind e i then s
  else
    match s.memCheck port h with
    | some st => s.answer e i st 0 (some 0) []
    | none =>
      if !s.memUp port then
        let s1 := s.linkDownLog port h
        if hget h hTYPE = tRD then
          (s1.answer e i stPOISONED n (some 0) (ls.map (fun _ => (poisonData, true)))).meterMem port h n
        else (s1.answer e i stPOISONED 0 (some 0) []).meterMem port h (if hget h hBE = 0 then 0 else n)
      else if hget h hTYPE = tRD then
        let (s1, d) := s.readLines port rg (hget h hSRC) faults ls
        (s1.answer e i (if d.any (fun x => x.2) then stPOISONED else stOK) n (some 0) d).meterMem port h n
      else if s.writeHeld port h then s
      else
        let (s1, b) := s.writeLines port rg (hget h hSRC) (hget h hBE) faults (ls.zip p.flits)
        (s1.answer e i (if b then stPOISONED else stOK) 0 (some 0) []).meterMem port h (if hget h hBE = 0 then 0 else n)

/-! ### Region commands (R217–R224, R230) -/

/-- References to a slot counted up or down (R205). (DEDUCED, assumption 69) -/
def State.rgnRef (s : State) (k : Nat) (up : Bool) : State :=
  let n := s.fget (rSLUICE_SLOT 0 k) fSLUICE_SLOT_RGN_REFS
  s.fset (rSLUICE_SLOT 0 k) fSLUICE_SLOT_RGN_REFS (if up then n + 1 else n - 1)

/-- A region's STATE written. -/
def State.setRgnState (s : State) (port i v : Nat) : State := s.fset (rRGN_CFG port i) fRGN_CFG_STATE v

/-- Whether CREATE is allowed: from FREE, with SIZE ≥ 1 and, where the region is encrypted, a LOADED slot (R195, R205, R217). (DEDUCED, assumption 68) -/
def State.canCreate (s : State) (port i : Nat) : Bool :=
  decide (s.rgnState port i = 0) && decide (1 ≤ s.rgnSize port i) && (!s.rgnCrypt port i || decide (s.slotState (s.keyCur port i) = 1))

/-- CREATE (R218): INIT, queued for zeroing. -/
def State.rgnCreate (s : State) (port i : Nat) : State :=
  let w := s.portWork port
  (((s.setRgnState port i 1).wr32 (rRGN_WM port i) 0).rgnRef (s.keyCur port i) true).setPortWork port { w with zeroQ := w.zeroQ ++ [i] }

/-- DESTROY (R218): FREE at once; zeroing or a walk in progress is abandoned. -/
def State.rgnDestroy (s : State) (port i : Nat) : State :=
  let st := s.rgnState port i
  if st = 0 then s
  else
    let w := s.portWork port
    let s1 := s.rgnRef (s.keyCur port i) false
    let s2 := if st = 3 ∨ st = 4 then s1.rgnRef (s.keyNext port i) false else s1
    ((s2.setRgnState port i 0).wr32 (rRGN_WM port i) 0).setPortWork port
      { w with zeroQ := w.zeroQ.filter (fun j => j ≠ i), walkQ := w.walkQ.filter (fun j => j ≠ i),
               held := if w.walkQ.head? = some i then none else w.held }

/-- R220: whether REKEY is allowed. -/
def State.canRekey (s : State) (port i : Nat) : Bool :=
  decide (s.rgnState port i = 2) && decide (s.slotState (s.keyNext port i) = 1) && decide (s.keyNext port i ≠ s.keyCur port i)

/-- REKEY (R220): WALK, WM 0, queued for the walker. -/
def State.rgnRekey (s : State) (port i : Nat) : State :=
  let w := s.portWork port
  (((s.setRgnState port i 3).wr32 (rRGN_WM port i) 0).rgnRef (s.keyNext port i) true).setPortWork port { w with walkQ := w.walkQ ++ [i] }

/-- FINISH (R223): KEY_CUR becomes KEY_NEXT, WM 0, READY. -/
def State.rgnFinish (s : State) (port i : Nat) : State :=
  ((((s.rgnRef (s.keyCur port i) false).fset (rRGN_KEY port i) fRGN_KEY_KEY_CUR (s.keyNext port i)).wr32 (rRGN_WM port i) 0).setRgnState
    port i 2)

/-- R230: a write of `v` to RGN_CMD_i by Tolmor; a refused one is ignored and counted. -/
def State.rgnCmd (s : State) (req : Req) (port i v : Nat) : State :=
  let refuse := s.refuse req (rRGN_CMD port i) causeRule
  if v % 16 = 0 then s
  else if v % 16 = 1 then (if s.canCreate port i then s.rgnCreate port i else refuse)
  else if v % 16 = 2 then s.rgnDestroy port i
  else if v % 16 = 4 then (if s.canRekey port i then s.rgnRekey port i else refuse)
  else if v % 16 = 8 then (if s.rgnState port i = 4 then s.rgnFinish port i else refuse)
  else refuse

/-- R195: whether two regions of a port overlap. -/
def State.rgnOverlap (s : State) (port i j : Nat) : Bool :=
  decide (0 < s.rgnSize port i) && decide (s.rgnBase port i < s.rgnBase port j + s.rgnSize port j) && decide (s.rgnBase port j < s.rgnBase port i + s.rgnSize port i)

/-- R195, R208, R227: whether region i, as it would stand in `s`, keeps the conditions on its registers. -/
def State.rgnConditions (s : State) (port i : Nat) : Bool :=
  let cfg := s.rd32 (rRGN_CFG port i)
  (decide (fRGN_CFG_OWNER_KIND.get cfg ≠ 2) || decide (fRGN_CFG_CRYPT.get cfg = 1)) &&
  (decide (fRGN_CFG_TAG.get cfg = 0) || (decide (fRGN_CFG_CRYPT.get cfg = 1) && decide (port < 64))) &&
  decide (s.rgnBase port i + s.rgnSize port i ≤ if port < 64 then 1152 else 2 ^ 23) &&
  (List.range 32).all (fun j => j == i || decide (s.rgnState port j = 0) || !s.rgnOverlap port i j)

/-- R218: the lines of a region as zeroing leaves them. -/
def State.zeroRegion (s : State) (port i : Nat) : State :=
  let lo := s.lineKey port i 0
  { s with mem := { s.mem with lines := smClear (fun k => decide (lo ≤ k ∧ k < lo + 32768 * s.rgnSize port i)) s.mem.lines } }

/-- ZEROING_END (R218): the region at work is READY, and the next one starts. Zeroing pauses while the CXL link is down (R228). (DESIGN CHOICE, assumption 67) -/
def State.zeroingEnd (s : State) (port : Nat) : State :=
  let w := s.portWork port
  match w.zeroQ with
  | [] => s
  | i :: q =>
    if !s.memUp port then s
    else
      let s1 := (s.zeroRegion port i).setRgnState port i 2
      let s2 := if s.rgnCrypt port i then s1.wearUp (s.keyCur port i) (32768 * s.rgnSize port i) else s1
      (s2.irq (PageKind.hbmp.addr port) 2).setPortWork port { w with zeroQ := q }

/-- R220, R222: the lines of the sector the walker reads, with the errors the stack reports: the lines found poison or faulty. -/
def State.walkLines (s : State) (port i : Nat) (faults : List (Nat × LineFault)) : List Nat → State × List Nat
  | [] => (s, [])
  | l :: ls =>
    let r := s.line (s.lineKey port i l)
    let (s1, bad) :=
      if r.poison then (s, true)
      else
        match s.lineFault port i l (faults.lookup l) with
        | some .uncorr => (s.poisonEvent port evWALK_POISON i 0x3FF l, true)
        | some .tagFail => (s.poisonEvent port evWALK_POISON i 0x3FF l, true)
        | some .corrected => (s.lineCorrected port, false)
        | none => (s, false)
    let (s2, m) := State.walkLines s1 port i faults ls
    (s2, if bad then l :: m else m)

/-- WALK_SECTOR_TAKE (R220): the walker takes sector WM of the first queued region and reads it under KEY_CUR. -/
def State.walkTake (s : State) (port : Nat) (faults : List (Nat × LineFault)) : State :=
  let w := s.portWork port
  match w.held, w.walkQ with
  | none, i :: _ =>
    if !s.memUp port then s
    else
      let n := s.sectorLines port i
      let (s1, bad) := s.walkLines port i faults ((List.range n).map (fun k => s.rgnWm port i * n + k))
      s1.setPortWork port { w with held := some bad }
  | _, _ => s

/-- WALK_SECTOR_DONE (R220): the sector is written back under KEY_NEXT and WM rises; the last sector enters SETTLE. -/
def State.walkDone (s : State) (port : Nat) : State :=
  let w := s.portWork port
  match w.held, w.walkQ with
  | some bad, i :: q =>
    if !s.memUp port then s
    else
      let n := s.sectorLines port i
      let wm := s.rgnWm port i
      let kid := (s.slot (s.keyNext port i)).kid
      let lo := s.lineKey port i (wm * n)
      let s1 := s.mem.lines.foldl (fun t x =>
        if decide (lo ≤ x.1 ∧ x.1 < lo + n) && !x.2.poison && decide (x.2.kid ≠ 0) then t.setLine x.1 { x.2 with kid := kid } else t) s
      let s2 := (if s.rgnCrypt port i then s1.wearUp (s.keyNext port i) (n - bad.length) else s1).wr32 (rRGN_WM port i) (wm + 1)
      if wm + 1 < s.sectorCount port i then s2.setPortWork port { w with held := none }
      else ((s2.setRgnState port i 4).irq (PageKind.hbmp.addr port) 1).setPortWork port { w with held := none, walkQ := q }
  | _, _ => s

/-- HBM_INTERFACE_ERROR (R194): the port is unreachable until the next start. -/
def State.hbmIfError (s : State) (port : Nat) : State :=
  if 64 ≤ port then s
  else
    (((s.fset (rHBMP_STAT port) fHBMP_STAT_TRAINED 0).fset (rHBMP_STAT port) fHBMP_STAT_UNREACH 1).markUnreach (0x140 + port) 2)

/-- CXL_LINK_DOWN (R228). -/
def State.cxlLinkDown (s : State) (n : Nat) : State :=
  let s1 := s.fset (rPCIE_STAT n) fPCIE_STAT_LINK_UP 0
  s1.setPortWork (64 + n) { s1.portWork (64 + n) with downLogged := false }

/-! ### Key slots (R204, R205, R225) -/

/-- LOAD_KEY: three keys into an EMPTY slot, which becomes LOADED with its wear counter and WORN clear. -/
def State.loadSlot (s : State) (k : Nat) (k1 k2 kt : BitVec 256) (device : Bool) : State :=
  let s1 : State := { s with mem := { s.mem with
    slots := smSet KeySlot.empty s.mem.slots k ⟨k1, k2, kt, s.mem.nextKid⟩, nextKid := s.mem.nextKid + 1 } }
  (s1.wr64 (rSLUICE_WEAR 0 k) 0).wr32 (rSLUICE_SLOT 0 k) (2 ^ 30 + b2n device * 2 ^ 28)

/-- RETIRE_KEY: a LOADED slot is RETIRING. -/
def State.retireSlot (s : State) (k : Nat) : State := s.fset (rSLUICE_SLOT 0 k) fSLUICE_SLOT_STATE 2

/-- R225: whether the walker or the zeroing is at work under a slot. -/
def State.slotBusy (s : State) (k : Nat) : Bool :=
  s.mem.work.any (fun x =>
    (match x.2.held, x.2.walkQ with
      | some _, i :: _ => decide (s.keyCur x.1 i = k) || decide (s.keyNext x.1 i = k)
      | _, _ => false) ||
    (match x.2.zeroQ with | i :: _ => decide (s.keyCur x.1 i = k) | [] => false))

/-- SLOT_ZEROISE (R225): a RETIRING slot with no references and no user is zeroised and enters EMPTY; IRQ_RAW[1] of SLUICE_CTL. `frames`
says whether a Skeja transport still uses the slot. -/
def State.slotZeroise (s : State) (k : Nat) (frames : Bool) : State :=
  if s.slotState k ≠ 2 ∨ s.fget (rSLUICE_SLOT 0 k) fSLUICE_SLOT_RGN_REFS ≠ 0 ∨ s.fget (rSLUICE_SLOT 0 k) fSLUICE_SLOT_LINK_REFS ≠ 0 ∨
      s.slotBusy k ∨ frames ∨ k = 0 then s
  else
    let s1 : State := { s with mem := { s.mem with slots := smDel k s.mem.slots } }
    (((s1.wr64 (rSLUICE_WEAR 0 k) 0).wr32 (rSLUICE_SLOT 0 k) 0).irq (PageKind.sluiceCtl.addr 0) 1).eventRecord 9 k

end Sys2Proof.Machine
end

