-- ==== Sys2Proof/Machine/StallCore.lean ====
section
/-! DEFINITION. What a stall holds and how it is frozen and faulted: claims (R234), planes (R235), freezing (R232, R247 steps 1 and 2,
R248) and faults (R253–R255). -/

namespace Sys2Proof.Machine

/-! ### States -/

/-- Table STL-1: FREE. -/
def stFREE : Nat := 0
/-- Table STL-1: EMPTY. -/
def stEMPTY : Nat := 1
/-- Table STL-1: LIVE. -/
def stLIVE : Nat := 2
/-- Table STL-1: SWAPPING. -/
def stSWAPPING : Nat := 3
/-- Table STL-1: FILL. -/
def stFILL : Nat := 4
/-- Table STL-1: FAULTED. -/
def stFAULTED : Nat := 5
/-- Table STL-1: DIE_LOST. -/
def stDIE_LOST : Nat := 6

/-- Table STL-3: BLANK. -/
def plBLANK : Nat := 0
/-- Table STL-3: LOADING. -/
def plLOADING : Nat := 1
/-- Table STL-3: LOADED. -/
def plLOADED : Nat := 2
/-- Table STL-3: INVALID. -/
def plINVALID : Nat := 3
/-- Table STL-3: LIVE. -/
def plLIVE : Nat := 4

/-- Table STL-11: fault causes. -/
def cCFG_UNCORR : Nat := 1
/-- Fault cause TRIB_LOST. -/
def cTRIB_LOST : Nat := 2
/-- Fault cause TRIB_NARROW. -/
def cTRIB_NARROW : Nat := 3
/-- Fault cause TRIB_CONTENTION. -/
def cTRIB_CONTENTION : Nat := 4
/-- Fault cause BUNDLE_RETIRED. -/
def cBUNDLE_RETIRED : Nat := 5
/-- Fault cause SAVE_UNCORR. -/
def cSAVE_UNCORR : Nat := 6
/-- Fault cause CLOCK_LOST. -/
def cCLOCK_LOST : Nat := 7
/-- Fault cause DIE_LOST. -/
def cDIE_LOST : Nat := 8
/-- Fault cause FREEZE. -/
def cFREEZE : Nat := 9

/-- A stall's state. -/
def State.stallState (s : State) (n : Nat) : Nat := s.fget (rSTALL_STAT n) fSTALL_STAT_STATE

/-- A stall's state written. -/
def State.setStallState (s : State) (n v : Nat) : State := s.fset (rSTALL_STAT n) fSTALL_STAT_STATE v

/-! ### Claims -/

/-- The stall that claims a shed. -/
def State.shedOwner (s : State) (sh : Nat) : Option Nat :=
  let w := s.rd32 (rPLANE_STAT sh)
  if fPLANE_STAT_OWNED.get w = 1 then some (fPLANE_STAT_STALL.get w) else none

/-- The sheds a stall claims. -/
def State.shedsOf (s : State) (n : Nat) : List Nat := (List.range 384).filter (fun sh => s.shedOwner sh = some n)

/-- The engines a stall claims. -/
def State.enginesOf (s : State) (n : Nat) : List Nat := (s.eddies.filter (fun x => x.2.owner = some n)).map (fun x => x.1)

/-- The stall whose claims include `p`, of the first `k` stalls. -/
def State.claimant (s : State) (p : Stall → Bool) : Nat → Option Nat
  | 0 => none
  | k + 1 =>
    match State.claimant s p k with
    | some n => some n
    | none => if p (s.stall k) then some k else none

/-- The stall that claims a lane (R233). -/
def State.laneOwner (s : State) (l : Nat) : Option Nat := s.claimant (fun t => t.lanes.contains l) 32

/-- The stall that claims a user I/O pin (R233). -/
def State.pinOwner (s : State) (p : Nat) : Option Nat := s.claimant (fun t => t.pins.contains p) 32

/-- The stall that claims a fabric port (R233). -/
def State.portOwner (s : State) (e : Nat) : Option Nat := s.claimant (fun t => t.ports.contains e) 32

/-! ### Planes -/

/-- The plane a shed's PLANE_STAT shows as live. -/
def State.livePlane (s : State) (sh : Nat) : Nat := s.fget (rPLANE_STAT sh) fPLANE_STAT_LIVE_PLANE

/-- The background plane of a shed. -/
def State.bgPlane (s : State) (sh : Nat) : Nat := 1 - s.livePlane sh

/-- The STATE field of a plane. -/
def planeFld (p : Nat) : Fld := if p = 0 then fPLANE_STAT_A_STATE else fPLANE_STAT_B_STATE

/-- The SAVED field of a plane. -/
def savedFld (p : Nat) : Fld := if p = 0 then fPLANE_STAT_A_SAVED else fPLANE_STAT_B_SAVED

/-- A plane's state (Table STL-3). -/
def State.planeState (s : State) (sh p : Nat) : Nat := s.fget (rPLANE_STAT sh) (planeFld p)

/-- A plane's state written. -/
def State.setPlaneState (s : State) (sh p v : Nat) : State := s.fset (rPLANE_STAT sh) (planeFld p) v

/-- A plane's SAVED bit. -/
def State.planeSaved (s : State) (sh p : Nat) : Bool := s.flag (rPLANE_STAT sh) (savedFld p)

/-- A plane's SAVED bit written. -/
def State.setPlaneSaved (s : State) (sh p : Nat) (b : Bool) : State := s.fset (rPLANE_STAT sh) (savedFld p) (b2n b)

/-- The contents of a plane. -/
def State.plane (s : State) (sh p : Nat) : Plane := smGet Plane.blank s.fab.planes (2 * sh + p)

/-- The contents of a plane replaced. -/
def State.setPlane (s : State) (sh p : Nat) (x : Plane) : State :=
  { s with fab := { s.fab with planes := smSet Plane.blank s.fab.planes (2 * sh + p) x } }

/-- The live configuration of a shed; an upset live-plane latch shows the other plane (R83). -/
def State.liveCfg (s : State) (sh : Nat) : ShedCfg :=
  (s.plane sh ((s.livePlane sh + b2n (smGet false s.fab.liveFlip sh)) % 2)).cfg

/-- Whether a shed's isolation gates are closed. -/
def State.gated (s : State) (sh : Nat) : Bool := s.flag (rPLANE_STAT sh) fPLANE_STAT_GATED

/-- A shed's isolation gates and spine clocks closed or opened (R232). -/
def State.setGated (s : State) (sh : Nat) (b : Bool) : State := s.fset (rPLANE_STAT sh) fPLANE_STAT_GATED (b2n b)

/-- The bank of an engine that is in the background: B when A is live. -/
def Eddy.bgState (e : Eddy) : Nat := if e.liveB then e.stateA else e.stateB

/-- The background bank's state written. -/
def Eddy.setBgState (e : Eddy) (v : Nat) : Eddy := if e.liveB then { e with stateA := v } else { e with stateB := v }

/-- The live bank's state written. -/
def Eddy.setLiveState (e : Eddy) (v : Nat) : Eddy := if e.liveB then { e with stateB := v } else { e with stateA := v }

/-- The background bank replaced. -/
def Eddy.setBgProg (e : Eddy) (p : SMap (BitVec 128)) : Eddy := if e.liveB then { e with progA := p } else { e with progB := p }

/-- R235: the states of the background planes and banks of a stall. (DEDUCED, assumption 73) -/
def State.bgStates (s : State) (n : Nat) : List Nat :=
  (s.shedsOf n).map (fun sh => s.planeState sh (s.bgPlane sh)) ++ (s.enginesOf n).map (fun e => (s.eddy e).bgState)

/-! ### Freezing (R232; Table STL-8, steps 1 and 2; R248) -/

/-- Step 1 for an engine: it ends issue and releases any lock; its transfers and stream queues are abandoned. A swap strobe takes it out of
HALTED; a fault leaves it there (R450). -/
def Eddy.freeze (strobe : Bool) (e : Eddy) : Eddy :=
  { e with run := (if e.run = .running ∨ (strobe ∧ e.run = .halted) then .stopped else e.run), queues := .empty, xfers := [],
           issue := { e.issue with startReq := false, stopReq := false, haltReq := false, stepLeft := 0, waiting := false, xport := none } }

/-- Step 1 for engine m. At a strobe a HALTED engine's SWAPPED sets, and HALTED, DEFER and the controller clear (R450). -/
def State.freezeEngine (s : State) (strobe : Bool) (m : Nat) : State :=
  let halted := decide ((s.eddy m).run = .halted)
  let s1 : State := { s with eddies := releaseLock s.eddies m }
  let s2 := (s1.setEddy m ((s1.eddy m).freeze strobe)).fset (rDBG_E_STAT m) fDBG_E_STAT_DEFER 0
  let s3 := s2.setDbg { s2.dbg with deferred := smDel m s2.dbg.deferred }
  if halted && strobe then
    (((s3.setDbg { s3.dbg with halter := smDel m s3.dbg.halter }).fset (rDBG_E_STAT m) fDBG_E_STAT_SWAPPED 1).fset (rDBG_E_STAT m)
      fDBG_E_STAT_HALTED 0).fset (rDBG_E_STAT m) fDBG_E_STAT_VIEW 7
  else s3

/-- Whether an origin is an engine of the list. -/
def Origin.isEngineOf (es : List Nat) : Origin → Bool
  | .engine n _ _ _ => es.contains n
  | _ => false

/-- R248: the outstanding tracker entries of a stall's fabric ports and engines are fenced. -/
def State.fence (s : State) (ports engines : List Nat) : State :=
  s.mil.track.foldl (fun t x =>
    if ports.contains (x.1 / 1024) || x.2.origin.isEngineOf engines then t.putTrack (x.1 / 1024) (x.1 % 1024) { x.2 with fenced := true }
    else t) s

/-- Step 1 for a fabric port: a current packet ends with a TRUNC tail, the tenant's packets not yet in the mesh are gone, and the OUT side
discards what it holds. (DEDUCED, assumption 60) -/
def State.freezePort (s : State) (e : Nat) : State :=
  let s1 := match (s.ep e).curIn with
    | some i => (s.truncate i).setEp e { s.ep e with curIn := none }
    | none => s
  let s2 := (s1.ep e).reqIn.foldl (fun t i => t.killPkt e i) s1
  let s3 := (s2.ep e).rspIn.foldl (fun t i =>
    let h := (t.pkt i).hdr
    if hget h hTYPE = tREG_RSP ∨ 2 ≤ hget h hSTATUS then t else t.killPkt e i) s2
  let s4 := s3.dropRestOut e
  let s5 := s4.discardAll (fun t i => t.discardOut e i) none true ((s4.ep e).reqOut)
  let s6 := (s5.ep e).rspOut.foldl (fun t i => t.killPkt e i) s5
  s6.setEp e { s6.ep e with skipIn := 0, flushIn := false, flushOut := false, drain := false }

/-- Step 1 for an engine port: the packets that the engines have queued and the responses they have not taken are gone. -/
def State.freezeEnginePackets (s : State) (engines : List Nat) : State :=
  s.mil.pkts.foldl (fun t x =>
    if x.2.origin.isEngineOf engines && (decide (x.2.place = .inQ) || decide (x.2.place = .outQ)) then
      match x.2.origin with
      | .engine n _ _ _ => t.killPkt (0xC0 + n / 4) x.1
      | _ => t
    else t) s

/-- R232, steps 1 and 2 of Table STL-8: the stall is frozen, by a swap strobe or a fault; a capture stop of the stall ends with it (R452). -/
def State.freeze (s : State) (n : Nat) (strobe : Bool) : State :=
  let engines := s.enginesOf n
  let ports := (s.stall n).ports
  let s1 := (s.shedsOf n).foldl (fun t sh => t.setGated sh true) s
  let s2 := engines.foldl (fun t m => t.freezeEngine strobe m) s1
  let s3 := s2.fence ports engines
  let s4 := s3.freezeEnginePackets engines
  let s5 : State := { s4 with lanes := smMap LaneSt.reset (fun l x => if (s.stall n).lanes.contains l then { x with tx := [] } else x) s4.lanes }
  (ports.foldl (fun t e => t.freezePort e) s5).capForget n

/-! ### Faults (R253, Table STL-10) -/

/-- A cause raised in a shed, or in none, of stall n. A LIVE or FILL stall freezes and is FAULTED; during a swap the cause is recorded for
release; in a FAULTED stall it is counted. (DEDUCED, assumptions 76, 83) -/
def State.raiseFault (s : State) (n cause : Nat) (shed : Option Nat) : State :=
  let st := s.stallState n
  if st ≠ stLIVE ∧ st ≠ stFILL ∧ st ≠ stSWAPPING ∧ st ≠ stFAULTED then s
  else
    let s1 := s.finc (rSTALL_STAT n) fSTALL_STAT_FAULTS
    let s2 := match shed with
      | some sh => if s1.fget (rPLANE_STAT sh) fPLANE_STAT_CAUSE = 0 then s1.fset (rPLANE_STAT sh) fPLANE_STAT_CAUSE cause else s1
      | none => s1
    let at_ := 2 ^ 31 + cause * 2 ^ 27 + (match shed with | some sh => sh / 48 * 2 ^ 24 + sh % 48 * 2 ^ 18 | none => 0x3F * 2 ^ 18)
    if st = stFAULTED then s2
    else
      let s3 := ((s2.wr32 (rSTALL_FAULT_AT n) at_).irq (PageKind.stall.addr n) 1).eventRecord 2 n
      if st = stSWAPPING then
        match (s.stall n).swap with
        | some w => if w.cause = 0 then s3.setStall n { s3.stall n with swap := some { w with cause := cause, shed := shed.getD 384 } } else s2
        | none => s2
      else
        let s4 := (s3.freeze n false).setStallState n stFAULTED
        let s5 := s4.setStall n { s4.stall n with swap := none }
        (s5.fset (rSTALL_STAT n) fSTALL_STAT_CAUSE cause).endJobs (fun j => decide (j.kind = .swapStall n)) 3 cause

/-- A cause raised in a shed: its stall faults, if it has one. -/
def State.shedFault (s : State) (sh cause : Nat) : State :=
  match s.shedOwner sh with
  | some n => s.raiseFault n cause (some sh)
  | none => s

end Sys2Proof.Machine
end

