-- ==== Sys2Proof/Machine/Fabric.lean ====
section
/-! DEFINITION. The fabric at work: clocked elements (R28–R51), memory error registers (R61, R62), configuration scrubbing and upsets
(R55–R60), and tributaries with their three registers, ownership and contention (R69–R75, R83, R84). -/

namespace Sys2Proof.Machine

/-! ### Memory errors of a shed (R61, R62) -/

/-- An ECC event of block `e.block` of a shed; `kind` is 0 for a BM36 and 1 for a Pond. -/
def State.memEvent (s : State) (sh kind block addr : Nat) (bad : Bool) : State :=
  let pg := PageKind.shedMem.addr sh
  let seen := smGet false s.fab.memUncorr sh
  let s1 := if bad then s.finc (rMEM_UNCORR sh) fMEM_UNCORR_COUNT else (s.finc (rMEM_CORR sh) fMEM_CORR_COUNT).irq pg 1
  let s2 := if bad || !seen then
      s1.wr32 (rMEM_LAST sh) (b2n bad * 2 ^ 31 + kind * 2 ^ 30 + block % 64 * 2 ^ 24 + addr % 2 ^ 13) else s1
  if bad && !seen then
    ({ s2 with fab := { s2.fab with memUncorr := smSet false s2.fab.memUncorr sh true } } : State).irq pg 0
  else s2

/-- R61: the mirror of a FIFO's OVERRUN flag. -/
def State.setFifoOvr (s : State) (sh block : Nat) (b : Bool) : State :=
  if block < 32 then s.setBit (rFIFO_OVR_LO sh) block b else s.setBit (rFIFO_OVR_HI sh) (block - 32) b

/-! ### Blocks by shed -/

/-- The flip-flops of a tile. -/
def State.ffs (s : State) (sh tile : Nat) : Nat := smGet 0 s.fab.ffs (8192 * sh + tile)

/-- The flip-flops of a tile written. -/
def State.setFfs (s : State) (sh tile v : Nat) : State :=
  { s with fab := { s.fab with ffs := smSet 0 s.fab.ffs (8192 * sh + tile) v } }

/-- A BM36. -/
def State.bm (s : State) (sh b : Nat) : Bm := smGet Bm.zero s.fab.bms (64 * sh + b)

/-- A BM36 replaced. -/
def State.setBm (s : State) (sh b : Nat) (x : Bm) : State := { s with fab := { s.fab with bms := smSet Bm.zero s.fab.bms (64 * sh + b) x } }

/-- A Pond. -/
def State.pond (s : State) (sh b : Nat) : Pond := smGet Pond.zero s.fab.ponds (64 * sh + b)

/-- A Pond replaced. -/
def State.setPond (s : State) (sh b : Nat) (x : Pond) : State :=
  { s with fab := { s.fab with ponds := smSet Pond.zero s.fab.ponds (64 * sh + b) x } }

/-- A fabric MAC block. -/
def State.fmb (s : State) (sh b : Nat) : Fmb := smGet Fmb.zero s.fab.fmbs (64 * sh + b)

/-- A fabric MAC block replaced. -/
def State.setFmb (s : State) (sh b : Nat) (x : Fmb) : State :=
  { s with fab := { s.fab with fmbs := smSet Fmb.zero s.fab.fmbs (64 * sh + b) x } }

/-- A tributary's entry. -/
def State.trib (s : State) (t : Nat) : Trib := smGet Trib.none s.fab.tribs t

/-- A tributary's entry replaced. -/
def State.setTrib (s : State) (t : Nat) (x : Trib) : State := { s with fab := { s.fab with tribs := smSet Trib.none s.fab.tribs t x } }

/-- The configuration of a block, if the list of the shed's configuration has one. -/
def cfgAt {α : Type} (m : SMap α) (k : Nat) : Option α := (m.find? (fun x => x.1 = k)).map (fun x => x.2)

/-! ### Tributaries (R68–R70) -/

/-- R11: the global column of a shed. -/
def shedCol (sh : Nat) : Nat := 4 * (sh / 48 % 4) + sh % 48 % 4

/-- R11: the global row of a shed. -/
def shedRow (sh : Nat) : Nat := if sh / 48 / 4 = 0 then 11 - sh % 48 / 4 else 12 + sh % 48 / 4

/-- R11: the shed at a global column and row. -/
def shedAt (c r : Nat) : Nat :=
  if r < 12 then 48 * (c / 4) + 4 * (11 - r) + c % 4 else 48 * (4 + c / 4) + 4 * (r - 12) + c % 4

/-- R69, R70: the tributary of slot k of a shed. -/
def slotTrib (sh k : Nat) : Nat := if k < 384 then shedRow sh * 512 + k else 0x4000 + shedCol sh * 1024 + (k - 384)

/-- R69: whether a TRIB_ID names a tributary. -/
def tribExists (t : Nat) : Bool :=
  if t < 0x4000 then decide (t / 512 < 24) && decide (t % 512 < 384) else decide (t < 0x8000) && decide (t % 1024 < 576)

/-- The number of taps of a tributary. -/
def tribTaps (t : Nat) : Nat := if t < 0x4000 then 16 else 24

/-- The shed at a tap of a tributary. -/
def tapShed (t tap : Nat) : Nat := if t < 0x4000 then shedAt tap (t / 512) else shedAt (t / 1024 % 16) tap

/-- The tap of a shed on slot k's tributary. -/
def slotTap (sh k : Nat) : Nat := if k < 384 then shedCol sh else shedRow sh

/-- The slot of a tributary in the sheds it passes. -/
def tribSlot (t : Nat) : Nat := if t < 0x4000 then t % 512 else 384 + t % 1024

/-- The plane in use in a shed as the Riverbed's select sees it (R83). -/
def State.selPlane (s : State) (sh : Nat) : Nat := (s.livePlane sh + b2n (smGet false s.fab.liveFlip sh)) % 2

/-- R83: whether tap k's effective driver bit is set. -/
def State.effBit (s : State) (t k : Nat) : Bool :=
  let e := s.trib t
  if s.selPlane (tapShed t k) = 0 then e.drvA.testBit k else e.drvB.testBit k

/-- The taps whose effective driver bits are set. -/
def State.effTaps (s : State) (t : Nat) : List Nat := (List.range (tribTaps t)).filter (fun k => s.effBit t k)

/-- R84: whether a shed is in a swap. -/
def State.inSwap (s : State) (sh : Nat) : Bool :=
  match s.shedOwner sh with
  | some n => decide (s.stallState n = stSWAPPING) || decide (s.stallState n = stFILL)
  | none => false

/-- R83: whether tap k belongs to a shed of the tributary's owner. -/
def State.tapOwned (s : State) (t k : Nat) : Bool := (s.trib t).owner.isSome && decide (s.shedOwner (tapShed t k) = (s.trib t).owner)

/-- R83: the tap that wins the select. -/
def State.winTap (s : State) (t : Nat) : Option Nat := (s.effTaps t).find? (fun k => s.tapOwned t k)

/-- The bundle (256y + b) that carries a driver slot (`tap = false`) or a tap slot of a shed (Table RTE-4). -/
def slotBundle (sh k : Nat) (tap : Bool) : Nat := 256 * (sh / 48) + 4 * (sh % 48) + 2 * b2n tap + k / 480

/-- The value a bundle's far side presents for a slot (R74). -/
def State.snapBit (s : State) (sh k : Nat) (tap : Bool) : Bool := (smGet 0 s.fab.snap (slotBundle sh k tap)).testBit (k % 480)

/-- R73, R83: the value at the Riverbed register's input: the winning tap's slot, held at 0 while its gates are closed. -/
def State.selValue (s : State) (t : Nat) : Bool :=
  match s.winTap t with
  | some k => !s.gated (tapShed t k) && s.snapBit (tapShed t k) (tribSlot t) false
  | none => false

/-- R71: whether a shed's slot is enabled with device clock k as a driver or as a tap. -/
def slotOn (l : List (Nat × Nat)) (slot clk : Nat) : Bool := l.contains (slot, clk)

/-- R71: whether the registers of a tributary run on device clock k: the driver in use, or a tap of its owner, is configured so. -/
def State.tribOnClock (s : State) (t clk : Nat) : Bool :=
  (List.range (tribTaps t)).any (fun k =>
    s.tapOwned t k && (slotOn (s.liveCfg (tapShed t k)).drivers (tribSlot t) clk || slotOn (s.liveCfg (tapShed t k)).taps (tribSlot t) clk))

/-- The snapshot that a tributary bundle of shed `sh` sends (R74): its drive registers, or the Riverbed registers of its tap slots. -/
def State.snapshotOf (s : State) (sh i : Nat) : Nat :=
  let lo := 480 * (i % 2)
  if i < 2 then (smGet 0 s.fab.drive sh) / 2 ^ lo % 2 ^ 480
  else (List.range 480).foldl (fun n j => n + b2n (s.trib (slotTrib sh (lo + j))).reg * 2 ^ j) 0

/-! ### Active edges -/

/-- Whether spine clock k of a shed reaches the shed's logic: the shed is not gated and the spine is not gated (R232, SPINE_GATE). (DEDUCED, assumption 34) -/
def State.spineOn (s : State) (sh k : Nat) : Bool := !s.gated sh && !s.bit (rSPINE_GATE sh) k

/-- Whether a block's clock k is the clock whose edge it is. -/
def onSpine (clk : ClockId) (falling : Bool) (sh k : Nat) : Bool := decide (clk = .spine sh k) && !falling

/-- One port of a Pond or cascade on an edge (R45–R47): what enters the pipeline (0 nothing, v + 1 the word read), with ECC flags. -/
def pondRead (c : PondCfg) (mem : SMap Nat) (p : PortIn) (a : Nat) : Nat × Bool × Bool :=
  if p.en && !p.we then
    let r := eccRead c.ecc (readWord mem (pondWidth c) a) p.upset
    (r.1 + 1, r.2.1, r.2.2)
  else (0, false, false)

/-- A Pond, or a cascade whose site this is, on an edge: both ports read the old contents, then B and then A are written (R46). -/
def State.pondEdge (s : State) (sh site : Nat) (c : PondCfg) (a b : PortIn) : State :=
  let d := pondDepth c
  let at_ := fun (p : PortIn) => if c.cascade = 0 then (site, p.addr % d) else (site + p.addr / d % c.cascade, p.addr % d)
  let w := pondWidth c
  let pa := at_ a
  let pb := at_ b
  let ra := pondRead c (s.pond sh pa.1).mem a pa.2
  let rb := pondRead c (s.pond sh pb.1).mem b pb.2
  let put := fun (t : State) (p : PortIn) (x : Nat × Nat) =>
    if p.en && p.we then
      t.setPond sh x.1 { t.pond sh x.1 with
        mem := writeWord (t.pond sh x.1).mem w x.2 (if c.ecc then p.data % 2 ^ 64 else p.data) p.lanes }
    else t
  let s1 := put (put s b pb) a pa
  let x := s1.pond sh site
  let qa := pipeStep (pondLatency c) x.pipeA ra.1 x.outA
  let qb := pipeStep (pondLatency c) x.pipeB rb.1 x.outB
  let s2 := s1.setPond sh site { x with pipeA := qa.1, outA := qa.2, pipeB := qb.1, outB := qb.2,
                                        eccFix := ra.2.1 || rb.2.1, eccBad := ra.2.2 || rb.2.2 }
  let s3 := if ra.2.1 || ra.2.2 then s2.memEvent sh 1 pa.1 pa.2 ra.2.2 else s2
  if rb.2.1 || rb.2.2 then s3.memEvent sh 1 pb.1 pb.2 rb.2.2 else s3

/-- The word address a BM36 port reads, for MEM_LAST. -/
def bmReadAddr (c : BmCfg) (x : Bm) (i : BmIn) : Nat :=
  match c.mode with
  | .fifo => x.rptr % bmDepth c.widthA
  | .fifo1clk => x.rptr % bmDepth c.widthA
  | _ => i.b.addr % bmDepth (if c.mode = .wide then 72 else c.widthB)

/-- A BM36 on an edge that clocks port A, port B or both. (DESIGN CHOICE, assumption 31) -/
def State.bmClock (s : State) (sh b : Nat) (c : BmCfg) (i : BmIn) (ea eb : Bool) : State :=
  let x := s.bm sh b
  let fv := s.freeNat 72
  let r := bmEdge c x i ea eb fv
  let s1 := (if i.collide = .no then s else s.useFree).setBm sh b r.1
  let s2 := if r.2 then s1.memEvent sh 0 b (bmReadAddr c x i) r.1.eccBad else s1
  if r.1.overrun = x.overrun then s2 else s2.setFifoOvr sh b r.1.overrun

/-- R24–R51, R71, R73: one clocked element on an active edge; `s` is the state before the edge, `t` the state being built. (DESIGN CHOICE, assumption 29) -/
def State.clockElem (s t : State) (clk : ClockId) (falling : Bool) : ElemIn → State
  | .tile sh tile i =>
    let c := smGet TileCfg.blank (s.liveCfg sh).tiles tile
    if decide (clk = .spine sh c.clk) && decide (falling = c.clkInv) && s.spineOn sh c.clk then
      let t1 := t.setFfs sh tile (tileFfs c i (s.ffs sh tile) 8)
      let p := s.livePlane sh
      let x := t1.plane sh p
      t1.setPlane sh p { x with cfg := { x.cfg with tiles := smSet TileCfg.blank x.cfg.tiles tile (tileWrite c i) } }
    else t
  | .tileAsync sh tile =>
    let c := smGet TileCfg.blank (s.liveCfg sh).tiles tile
    if s.gated sh then t else t.setFfs sh tile (tileAsyncFfs c (s.ffs sh tile) 8)
  | .bm sh b i =>
    match cfgAt (s.liveCfg sh).bms b with
    | some c =>
      let ea := onSpine clk falling sh c.clkA && s.spineOn sh c.clkA
      let eb := onSpine clk falling sh c.clkB && s.spineOn sh c.clkB
      if ea || eb then t.bmClock sh b c i ea eb else t
    | none => t
  | .pond sh site a b =>
    match cfgAt (s.liveCfg sh).ponds site with
    | some c => if onSpine clk falling sh c.clk && s.spineOn sh c.clk then t.pondEdge sh site c a b else t
    | none => t
  | .fmb sh b i =>
    match cfgAt (s.liveCfg sh).fmbs b with
    | some c =>
      if onSpine clk falling sh c.clk && s.spineOn sh c.clk then
        let lo := if b = 0 then Fmb.zero else s.fmb sh (b - 1)
        t.setFmb sh b (fmbEdge c (s.fmb sh b) i lo.acc lo.xr lo.wr)
      else t
    | none => t
  | .drive sh slot d =>
    match clk with
    | .device k =>
      if slotOn (s.liveCfg sh).drivers slot k && !falling && !s.gated sh then
        { t with fab := { t.fab with drive := smSet 0 t.fab.drive sh (putBits (smGet 0 t.fab.drive sh) slot 1 (b2n d)) } }
      else t
    | _ => t
  | .river tr =>
    match clk with
    | .device k => if s.tribOnClock tr k && !falling then t.setTrib tr { t.trib tr with reg := s.selValue tr } else t
    | _ => t
  | .landing sh slot =>
    match clk with
    | .device k =>
      if slotOn (s.liveCfg sh).taps slot k && !falling && !s.gated sh then
        let own := (s.trib (slotTrib sh slot)).owner
        let v := own.isSome && decide (own = s.shedOwner sh) && s.snapBit sh slot true
        { t with fab := { t.fab with land := smSet 0 t.fab.land sh (putBits (smGet 0 t.fab.land sh) slot 1 (b2n v)) } }
      else t
    | _ => t
  | .pin _ _ _ _ _ _ => t

/-- FIFO_RESET (R43, R61): FRST of a BM36 FIFO asserts. -/
def State.fifoReset (s : State) (sh b : Nat) : State :=
  match cfgAt (s.liveCfg sh).bms b with
  | some c =>
    if c.mode = .fifo ∨ c.mode = .fifo1clk then (s.setBm sh b (bmFifoReset (s.bm sh b))).setFifoOvr sh b false else s
  | none => s

/-! ### Upsets and scrubbing (R55–R60) -/

/-- The key of a configuration word: shed, plane, frame and word. (DESIGN CHOICE, assumption 27) -/
def wordKey (sh p frame word : Nat) : Nat := ((2 * sh + p) * 2304 + frame) * 64 + word

/-- The M-tile, as tile 96 × column + row (R453), and the LUT whose contents a word of frames 0–359 holds: M-tiles in column order, eight words each. (DESIGN CHOICE, assumption 27) -/
def wordLut (frame word : Nat) : Nat × Nat :=
  let m := (frame * 64 + word) / 8
  (96 * (2 * (m / 96) + 1) + m % 96, (frame * 64 + word) % 8)

/-- R55: whether a configuration word holds a LUT of an M-tile in a memory mode. -/
def State.wordIsMem (s : State) (sh p frame word : Nat) : Bool :=
  decide (frame < 360) && cellIsMem (smGet TileCfg.blank (s.plane sh p).cfg.tiles (wordLut frame word).1) (wordLut frame word).2

/-- The data bits of a LUT's word flipped where `mask` has ones. -/
def State.flipLut (s : State) (sh p frame word mask : Nat) : State :=
  if frame < 360 then
    let (tile, lut) := wordLut frame word
    let x := s.plane sh p
    let c := smGet TileCfg.blank x.cfg.tiles tile
    let c' := { c with cells := listModify (fun k => { k with table := Nat.xor k.table (mask % 2 ^ 64) }) c.cells lut }
    s.setPlane sh p { x with cfg := { x.cfg with tiles := smSet TileCfg.blank x.cfg.tiles tile c' } }
  else s

/-- The bits of a configuration word that upsets have flipped. -/
def State.upsetMask (s : State) (k : Nat) : Nat := smGet 0 s.fab.upsets k

/-- The flipped bits of a configuration word written. -/
def State.setUpset (s : State) (k v : Nat) : State := { s with fab := { s.fab with upsets := smSet 0 s.fab.upsets k v } }

/-- CONFIGURATION_UPSET (R56, R59, R83): a bit of a configuration word, a select latch or a live-plane latch flips. (DESIGN CHOICE, assumption 30) -/
def State.upset (s : State) : UpsetAt → State
  | .word sh p frame word bit =>
    if sh < 384 ∧ p < 2 ∧ frame < 2304 ∧ word < 64 ∧ bit < 72 then
      let s1 := s.flipLut sh p frame word (2 ^ bit)
      if s.wordIsMem sh p frame word then s1
      else
        let k := wordKey sh p frame word
        s1.setUpset k (Nat.xor (s1.upsetMask k) (2 ^ bit))
    else s
  | .select t tap ab =>
    if tribExists t ∧ tap < tribTaps t then
      let e := s.trib t
      if ab = 0 then s.setTrib t { e with drvA := Nat.xor e.drvA (2 ^ tap) } else s.setTrib t { e with drvB := Nat.xor e.drvB (2 ^ tap) }
    else s
  | .livePlane sh =>
    if sh < 384 then { s with fab := { s.fab with liveFlip := smSet false s.fab.liveFlip sh (!smGet false s.fab.liveFlip sh) } } else s

/-- A yard's scrubber. -/
def State.scrubPos (s : State) (y : Nat) : ScrubPos := smGet ScrubPos.start s.fab.scrub y

/-- A yard's scrubber moved. -/
def State.setScrubPos (s : State) (y : Nat) (p : ScrubPos) : State :=
  { s with fab := { s.fab with scrub := smSet ScrubPos.start s.fab.scrub y p } }

/-- R58, R60: one word that the scrubber reads with upset bits. -/
def State.scrubWord (s : State) (y sh p frame word : Nat) : State :=
  let k := wordKey sh p frame word
  let m := s.upsetMask k
  let pg := PageKind.yardScrub.addr y
  let pos := s.scrubPos y
  let last := fun (uncorr : Bool) (bit : Nat) =>
    bit * 2 ^ 32 + b2n uncorr * 2 ^ 31 + sh % 48 * 2 ^ 25 + p * 2 ^ 24 + frame * 2 ^ 12 + word * 2 ^ 6
  if m = 0 then s
  else if popCount 72 m = 1 then
    let s1 := ((s.flipLut sh p frame word m).setUpset k 0).finc (rSCRUB_CORR y) fSCRUB_CORR_COUNT
    if pos.uncorrSeen then s1.irq pg 0 else s1.wr64 (rSCRUB_LAST y) (last false (lowBit 72 0 m))
  else
    let s1 := ((s.finc (rSCRUB_UNCORR y) fSCRUB_UNCORR_COUNT).wr64 (rSCRUB_LAST y) (last true 0)).irq pg 0
    let s2 := s1.setScrubPos y { pos with uncorrSeen := true }
    if p = s.livePlane sh then s2.shedFault sh cCFG_UNCORR
    else if s2.planeState sh p = plLOADED then s2.setPlaneState sh p plINVALID else s2

/-- R55: the words of a frame that hold upset bits, M-tile memories excepted. -/
def State.frameWords (s : State) (sh p frame : Nat) : List Nat :=
  ((s.fab.upsets.filter (fun x => x.1 / 64 = wordKey sh p frame 0 / 64)).map (fun x => x.1 % 64)).filter
    (fun w => !s.wordIsMem sh p frame w)

/-- R55: whether the scrubber visits a background plane: a fully loaded one, while BG_PLANES is 1. -/
def State.scrubsBg (s : State) (y sh : Nat) : Bool :=
  s.flag (rSCRUB_CTRL y) fSCRUB_CTRL_BG_PLANES && decide (s.planeState sh (s.bgPlane sh) = plLOADED)

/-- The scrubber's registers after it has moved to `p`, and the end of a pass (R56). (DESIGN CHOICE, assumption 28) -/
def State.scrubMove (s : State) (y : Nat) (p : ScrubPos) : State :=
  if p.shed < 48 then
    let sh := 48 * y + p.shed
    let s1 := (s.setScrubPos y p).fset (rSCRUB_STAT y) fSCRUB_STAT_SHED p.shed
    s1.fset (rSCRUB_STAT y) fSCRUB_STAT_PLANE (if p.bg then s.bgPlane sh else s.livePlane sh)
  else
    let s1 := s.setScrubPos y { p with shed := 0, frame := 0, bg := false }
    let n := s1.fget (rSCRUB_STAT y) fSCRUB_STAT_PASS_COUNT
    s1.wr32 (rSCRUB_STAT y) ((n + 1) % 2 ^ 24 * 2 ^ 8)

/-- R393: whether yard y runs, that is, is not quarantined or absent; the scrubber of another stops. -/
def State.yardRuns (s : State) (y : Nat) : Bool := decide (s.fget (rDIE_STATE 0 y) fDIE_STATE_STATE = 0)

/-- SCRUB_FRAME_VISIT (R55–R58): the yard's scrubber visits its next frame. (DESIGN CHOICE, assumption 28) -/
def State.scrubVisit (s : State) (y : Nat) : State :=
  if !s.flag (rSCRUB_CTRL y) fSCRUB_CTRL_EN || !s.flag (rSCRUB_STAT y) fSCRUB_STAT_ACTIVE || !s.yardRuns y then s
  else
    let pos := s.scrubPos y
    let sh := 48 * y + pos.shed
    if s.inSwap sh then s.scrubMove y { pos with shed := pos.shed + 1, frame := 0, bg := false }
    else
      let p := if pos.bg then s.bgPlane sh else s.livePlane sh
      let s1 := if s.planeState sh p = plLOADING then s
        else (s.frameWords sh p pos.frame).foldl (fun t w => t.scrubWord y sh p pos.frame w) s
      let pos1 := s1.scrubPos y
      if !pos.bg && s.scrubsBg y sh then s1.scrubMove y { pos1 with bg := true }
      else if pos.frame + 1 < 2304 then s1.scrubMove y { pos1 with frame := pos.frame + 1, bg := false }
      else s1.scrubMove y { pos1 with shed := pos.shed + 1, frame := 0, bg := false }

/-- SCRUB_PASS_START (R56). -/
def State.scrubStart (s : State) (y : Nat) : State :=
  if !s.flag (rSCRUB_CTRL y) fSCRUB_CTRL_EN || s.flag (rSCRUB_STAT y) fSCRUB_STAT_ACTIVE || !s.yardRuns y then s
  else
    let s1 := s.setScrubPos y { s.scrubPos y with shed := 0, frame := 0, bg := false }
    s1.wr32 (rSCRUB_STAT y) (s1.fget (rSCRUB_STAT y) fSCRUB_STAT_PASS_COUNT * 2 ^ 8 + s1.livePlane (48 * y) * 2 + 1)

/-! ### Contention (R83, R84) -/

/-- The taps the one-hot check looks at: those not in a swap. -/
def State.checkedTaps (s : State) (t : Nat) : List Nat := (s.effTaps t).filter (fun k => !s.inSwap (tapShed t k))

/-- The checked taps that the select blocks. -/
def State.blockedTaps (s : State) (t : Nat) : List Nat :=
  let win := (s.checkedTaps t).find? (fun k => s.tapOwned t k)
  (s.checkedTaps t).filter (fun k => win ≠ some k)

/-- TRIB_CONTENTION (R83, R85): where a set driver bit is blocked, the event is recorded and the sheds involved fault. -/
def State.contention (s : State) (t : Nat) : State :=
  if s.blockedTaps t = [] then s
  else
    let e := s.trib t
    let win := ((s.checkedTaps t).find? (fun k => s.tapOwned t k)).getD 0x1F
    let rec_ := 2 ^ 31 + t % 2 ^ 15 * 2 ^ 16 + win * 2 ^ 11 + e.live.getD 0 * 2 ^ 6 + b2n e.live.isNone * 2 ^ 5 + e.owner.getD 0
    let taps := (s.effTaps t).foldl (fun n k => n + 2 ^ k) 0
    let s1 := (((s.wr32 (rTRIB_CONT_LAST 0) rec_).wr32 (rTRIB_CONT_TAPS 0) taps).finc (rTRIB_CONT_COUNT 0)
      fTRIB_CONT_COUNT_COUNT).irq (PageKind.tribCtl.addr 0) 0
    let sheds := (List.range (tribTaps t)).filter (fun k =>
      (s.checkedTaps t).contains k ||
      (s.tapOwned t k && (s.liveCfg (tapShed t k)).taps.any (fun x => x.1 = tribSlot t)))
    sheds.foldl (fun u k => (u.fset (rTRIB_STAT (tapShed t k)) fTRIB_STAT_CONTENTION 1).shedFault (tapShed t k) cTRIB_CONTENTION) s1

/-! ### Lost flits and narrow bundles (R74, R75, R86) -/

/-- The shed that owns a tributary bundle. -/
def bundleShed (y b : Nat) : Nat := 48 * y + b / 4

/-- R74: `n` flits of a tributary bundle are lost: they are counted and TRIB_CFG.LOST_ACT acts. -/
def State.tribLost (s : State) (y b n : Nat) : State :=
  let sh := bundleShed y b
  let s1 := (s.fadd (rTRIB_LOST sh) fTRIB_LOST_COUNT n).irq (PageKind.shedTrib.addr sh) 0
  if s1.flag (rTRIB_CFG sh) fTRIB_CFG_LOST_ACT then s1.shedFault sh cTRIB_LOST else s1

/-- R75, R86: a tributary bundle enters narrow mode. -/
def State.tribNarrow (s : State) (y b : Nat) : State :=
  let sh := bundleShed y b
  let s1 := (s.setBit (rTRIB_STAT sh) (b % 4) true).irq (PageKind.shedTrib.addr sh) 1
  if s1.flag (rTRIB_CFG sh) fTRIB_CFG_LOST_ACT then s1.shedFault sh cTRIB_NARROW else s1

/-- TRIB_QUERY_OWNER: the map entry of the tributary that TRIB_QUERY names. -/
def State.tribQueryOwner (s : State) : Nat :=
  let t := s.fget (rTRIB_QUERY 0) fTRIB_QUERY_TRIB_ID
  let e := s.trib t
  if tribExists t then
    b2n e.owner.isSome * 2 ^ 31 + e.owner.getD 0 * 2 ^ 26 + b2n e.live.isSome * 2 ^ 25 + e.live.getD 0 * 2 ^ 20 +
      b2n e.bg.isSome * 2 ^ 19 + e.bg.getD 0 * 2 ^ 14
  else 0

/-- TRIB_QUERY_EFF. -/
def State.tribQueryEff (s : State) : Nat :=
  let t := s.fget (rTRIB_QUERY 0) fTRIB_QUERY_TRIB_ID
  if tribExists t then (s.effTaps t).foldl (fun n k => n + 2 ^ k) 0 else 0

end Sys2Proof.Machine
end

