-- ==== Sys2Proof/Machine/Clocks.lean ====
section
/-! DEFINITION. Clocks and power states: PLLs (R401, R402, R405), spine clocks (R406–R409), losses (R411–R414), the frequency counter (R415)
and power states (R418–R420). -/

namespace Sys2Proof.Machine

/-- The clock data replaced. -/
def State.setClk (s : State) (c : Clk) : State := { s with clk := c }

/-! ### PLLs: yard y = 0–7, or 8 for the grid PLLs -/

/-- The page of yard y's PLLs, or of the grid PLLs. -/
def clkPage (y : Nat) : Nat := if y < 8 then PageKind.yardClk.addr y else PageKind.clkCtl.addr 0

/-- PLL_CFG_i of yard y or GPLL_CFG_i. -/
def pllCfg (y i : Nat) : Nat := if y < 8 then rPLL_CFG y i else rGPLL_CFG 0 i

/-- PLL_OUT_i_j of yard y or GPLL_OUT_i_j. -/
def pllOut (y i j : Nat) : Nat := if y < 8 then rPLL_OUT y i j else rGPLL_OUT 0 i j

/-- OUT_LOST of yard y or DCLK_LOST. -/
def lostReg (y : Nat) : Nat := if y < 8 then rOUT_LOST y else rDCLK_LOST 0

/-- The frequency of a reference pair in units of 10 kHz. -/
def refFreq (pair : Nat) : Nat := if pair < 4 then 10000 else 15625

/-- R401: whether a PLL_CFG value keeps M and the VCO within their limits. -/
def pllCfgOk (v : Nat) : Bool :=
  let m := fPLL_CFG_M.get v
  let n := fPLL_CFG_N.get v + 1
  let f := refFreq (fPLL_CFG_REF.get v)
  decide (8 ≤ m) && decide (400000 * n ≤ f * m) && decide (f * m ≤ 800000 * n)

/-- R401: whether output divider D keeps its limits and places f_out between 10 and 1 200 MHz under a PLL_CFG value. -/
def pllDivOk (cfg d : Nat) : Bool :=
  let m := fPLL_CFG_M.get cfg
  let n := fPLL_CFG_N.get cfg + 1
  let f := refFreq (fPLL_CFG_REF.get cfg)
  decide (5 ≤ d) && decide (d ≤ 800) && decide (1000 * n * d ≤ f * m) && decide (f * m ≤ 120000 * n * d)

/-- R411: the detector window of an output: the code of the shortest window of at least 2.5 periods. -/
def pllWin (cfg d : Nat) : Nat :=
  let fm := refFreq (fPLL_CFG_REF.get cfg) * fPLL_CFG_M.get cfg
  let need := 250000 * (fPLL_CFG_N.get cfg + 1) * d
  if need ≤ 16 * fm then 0 else if need ≤ 32 * fm then 1 else if need ≤ 64 * fm then 2 else if need ≤ 128 * fm then 3 else 4

/-- R405: whether a shed's plane selects a spine candidate as an input. -/
def cfgSelects (c : ShedCfg) (cand : Nat) : Bool := c.spines.any (fun x => decide (x.1 = cand) || decide (x.2 = cand))

/-- The planes of a shed that count for R405: the live plane, and a LOADED background plane. -/
def State.countedCfgs (s : State) (sh : Nat) : List ShedCfg :=
  (if s.planeState sh (s.livePlane sh) = plLIVE then [s.liveCfg sh] else []) ++
    (if s.planeState sh (s.bgPlane sh) = plLOADED then [(s.plane sh (s.bgPlane sh)).cfg] else [])

/-- R405: whether output o (4i + j) of yard y, or device clock o, is in use. -/
def State.outInUse (s : State) (y o : Nat) : Bool :=
  if y < 8 then (List.range 48).any (fun k => (s.countedCfgs (48 * y + k)).any (fun c => cfgSelects c o))
  else (List.range 384).any (fun sh =>
    (s.countedCfgs sh).any (fun c =>
      cfgSelects c (32 + o) || c.drivers.any (fun x => x.2 = o) || c.taps.any (fun x => x.2 = o)))

/-- R405: whether a PLL is in use. -/
def State.pllInUse (s : State) (y i : Nat) : Bool := (List.range 4).any (fun j => s.outInUse y (4 * i + j))

/-- Whether an output is enabled. -/
def State.outEnabled (s : State) (y o : Nat) : Bool := s.flag (pllOut y (o / 4) (o % 4)) fPLL_OUT_EN

/-- The number of outputs enabled in yard y. -/
def State.outsEnabled (s : State) (y : Nat) : Nat := ((List.range 32).filter (fun o => s.outEnabled y o)).length

/-- Whether a PLL is locked. -/
def State.pllLocked (s : State) (y i : Nat) : Bool := if y < 8 then s.bit (rPLL_STAT y) i else s.clk.gridLock.testBit i

/-- A PLL's lock. -/
def State.setLock (s : State) (y i : Nat) (b : Bool) : State :=
  if y < 8 then s.setBit (rPLL_STAT y) i b else s.setClk { s.clk with gridLock := putBits s.clk.gridLock i 1 (b2n b) }

/-- PLL_STAT of yard y: LOCK as it stands, with IN_USE and ENABLED. -/
def State.pllStat (s : State) (y : Nat) : Nat :=
  min 31 (s.outsEnabled y) * 2 ^ 16 + (List.range 8).foldl (fun n i => n + b2n (s.pllInUse y i) * 2 ^ (8 + i)) 0 +
    fPLL_STAT_LOCK.get (s.rd32 (rPLL_STAT y))

/-- The outputs of yard y, or the device clocks, that do not run although enabled. -/
def State.stoppedOuts (s : State) (y : Nat) : Nat := smGet 0 s.clk.stopped y

/-- An output marked stopped or running. -/
def State.setStopped (s : State) (y o : Nat) (b : Bool) : State :=
  s.setClk { s.clk with stopped := smSet 0 s.clk.stopped y (putBits (s.stoppedOuts y) o 1 (b2n b)) }

/-- Whether an output runs: enabled, its PLL locked, and not stopped. -/
def State.outRuns (s : State) (y o : Nat) : Bool :=
  s.outEnabled y o && s.pllLocked y (o / 4) && !(s.stoppedOuts y).testBit o && !s.clk.dark

/-- Whether a spine candidate of a shed runs (R401, R402). -/
def State.candRuns (s : State) (sh cand : Nat) : Bool := if cand < 32 then s.outRuns (sh / 48) cand else s.outRuns 8 (cand - 32)

/-- PLL_CFG_WRITE on PLL_CFG_i or GPLL_CFG_i (R401, R405). (DEDUCED, assumption 167) -/
def State.pllCfgWrite (s : State) (req : Req) (y i v : Nat) : State :=
  let a := pllCfg y i
  let v := v / 2 ^ 16 % 2 ^ 16 * 2 ^ 16
  let outs := (List.range 4).filter (fun j => s.outEnabled y (4 * i + j))
  if v = s.rd32 a then s
  else if s.pllInUse y i || !pllCfgOk v || !outs.all (fun j => pllDivOk v (s.fget (pllOut y i j) fPLL_OUT_D)) then s.refuse req a causeRule
  else
    let s1 := (s.wr32 a v).setLock y i false
    (List.range 4).foldl (fun t j => t.fset (pllOut y i j) fPLL_OUT_WIN (pllWin v (t.fget (pllOut y i j) fPLL_OUT_D))) s1

/-- PLL_CFG_WRITE on PLL_OUT_i_j or GPLL_OUT_i_j (R401, R405). (DEDUCED, assumption 167) -/
def State.pllOutWrite (s : State) (req : Req) (y i j v : Nat) : State :=
  let a := pllOut y i j
  let cfg := s.rd32 (pllCfg y i)
  let d := fPLL_OUT_D.get v
  let new := fPLL_OUT_EN.get v * 2 ^ 31 + pllWin cfg d * 2 ^ 28 + fPLL_OUT_PHASE_ALIGN.get v * 2 ^ 27 + d
  let en := decide (fPLL_OUT_EN.get v = 1)
  if new = s.rd32 a then s
  else if s.outInUse y (4 * i + j) || !pllDivOk cfg d ||
      (decide (y < 8) && en && !s.outEnabled y (4 * i + j) && decide (12 ≤ s.outsEnabled y)) then s.refuse req a causeRule
  else s.wr32 a new

/-- PLL_LOCK (R401): an enabled PLL with a healthy reference acquires lock and its outputs run. -/
def State.pllLock (s : State) (y i : Nat) : State :=
  let cfg := s.rd32 (pllCfg y i)
  if fPLL_CFG_EN.get cfg = 1 ∧ s.bit (rREF_STAT 0) (fPLL_CFG_REF.get cfg) then
    (List.range 4).foldl (fun t j => t.setStopped y (4 * i + j) false) (s.setLock y i true)
  else s

/-! ### Spine clocks -/

/-- USR_SEL of a shed, from its live plane. -/
def State.usrSel (s : State) (sh : Nat) : Nat := (s.liveCfg sh).usrSel % 2 ^ 16

/-- SPINE_CFG, with USR_SEL from the live plane. -/
def State.spineCfg (s : State) (sh : Nat) : Nat := s.usrSel sh * 2 ^ 16 + s.fget (rSPINE_CFG sh) fSPINE_CFG_LOSS_ACT

/-- The select of spine k (R406): CLKSEL[k] where the frames set USR_SEL, else SPINE_SEL. -/
def State.spineSelect (s : State) (sh k : Nat) : Bool :=
  if (s.usrSel sh).testBit k then (smGet 0 s.clk.clksel sh).testBit k else s.bit (rSPINE_SEL sh) k

/-- The candidate at input `b` of spine k. -/
def State.spineInput (s : State) (sh k : Nat) (b : Bool) : Option Nat :=
  ((s.liveCfg sh).spines[k]?).map (fun x => if b then x.2 else x.1)

/-- The candidate in use by spine k, where the live plane names one. -/
def State.inputInUse (s : State) (sh k : Nat) : Option Nat :=
  if s.planeState sh (s.livePlane sh) = plLIVE then s.spineInput sh k (s.bit (rSPINE_STAT sh) k) else none

/-- R406: spine k's select against what it was: a change starts or restarts the handshake. -/
def State.spineSelected (s : State) (sh k : Nat) (old : Bool) : State :=
  if s.spineSelect sh k = old then s
  else
    let s1 := s.setClk { s.clk with forced := smSet 0 s.clk.forced sh (putBits (smGet 0 s.clk.forced sh) k 1 0) }
    s1.setBit (rSPINE_STAT sh) (16 + k) true

/-- SPINE_SEL (R406): a write of SPINE_SEL. -/
def State.spineSelWrite (s : State) (sh v : Nat) : State :=
  let s1 := s.wr32 (rSPINE_SEL sh) (v % 2 ^ 16)
  (List.range 16).foldl (fun t k => t.spineSelected sh k (s.spineSelect sh k)) s1

/-- CLKSEL (R406): the user logic changes CLKSEL[k]. -/
def State.clkselChange (s : State) (sh k : Nat) (b : Bool) : State :=
  let s1 := s.setClk { s.clk with clksel := smSet 0 s.clk.clksel sh (putBits (smGet 0 s.clk.clksel sh) k 1 (b2n b)) }
  s1.spineSelected sh k (s.spineSelect sh k)

/-- SPINE_SWITCH_COMPLETE (R406–R408): with both inputs running, or the new one alone after FORCE, the new input passes. -/
def State.spineSwitch (s : State) (sh k : Nat) : State :=
  let sel := s.spineSelect sh k
  let runs := fun (b : Bool) => match s.spineInput sh k b with | some c => s.candRuns sh c | none => false
  if !s.bit (rSPINE_STAT sh) (16 + k) || !runs sel || !((smGet 0 s.clk.forced sh).testBit k || runs (s.bit (rSPINE_STAT sh) k)) then s
  else
    let s1 := s.setClk { s.clk with forced := smSet 0 s.clk.forced sh (putBits (smGet 0 s.clk.forced sh) k 1 0) }
    ((s1.setBit (rSPINE_STAT sh) (16 + k) false).setBit (rSPINE_STAT sh) k sel).irq (PageKind.shedClk.addr sh) 1

/-- FORCE (R408): a pending handshake is abandoned and NEEDS_RST[k] sets. -/
def State.spineForce (s : State) (sh k : Nat) : State :=
  if s.bit (rSPINE_STAT sh) (16 + k) then
    let s1 := s.setClk { s.clk with forced := smSet 0 s.clk.forced sh (putBits (smGet 0 s.clk.forced sh) k 1 1) }
    (s1.setBit (rSPINE_LOSS sh) (16 + k) true).irq (PageKind.shedClk.addr sh) 2
  else s

/-- DRST (R409): DRST[k] asserts at once. -/
def State.drstSet (s : State) (sh k : Nat) (b : Bool) : State :=
  s.setClk { s.clk with drst := smSet 0 s.clk.drst sh (putBits (smGet 0 s.clk.drst sh) k 1 (b2n b)) }

/-- A write of SPINE_CMD (R408, R409). -/
def State.spineCmd (s : State) (sh v : Nat) : State :=
  let s1 := (List.range 16).foldl (fun t k => if v.testBit k then t.spineForce sh k else t) s
  (List.range 16).foldl (fun t k => if v.testBit (16 + k) then t.drstSet sh k true else t) s1

/-- DRST_RELEASE (R409): at the eighth rising edge of spine clock k DRST[k] falls and NEEDS_RST[k] clears. -/
def State.drstRelease (s : State) (sh k : Nat) : State :=
  if (smGet 0 s.clk.drst sh).testBit k then (s.drstSet sh k false).setBit (rSPINE_LOSS sh) (16 + k) false else s

/-! ### Losses (R411–R413) -/

/-- A lost candidate in the sheds of a list: LOST[k] where a spine uses it as its input; the stall faults where LOSS_ACT[k] is 1 or `always`. -/
def State.spinesLose (s : State) (sheds : List Nat) (cand : Nat) (always : Bool) : State :=
  sheds.foldl (fun t sh =>
    (List.range 16).foldl (fun u k =>
      if u.inputInUse sh k = some cand then
        let u1 := (u.setBit (rSPINE_LOSS sh) k true).irq (PageKind.shedClk.addr sh) 0
        if always || u1.bit (rSPINE_CFG sh) k then u1.shedFault sh cCLOCK_LOST else u1
      else u) t) s

/-- The stalls that own a tributary whose registers run on device clock k. -/
def State.dclkStalls (s : State) (k : Nat) : List Nat :=
  (List.range 32).filter (fun n => s.fab.tribs.any (fun x => decide (x.2.owner = some n) && s.tribOnClock x.1 k))

/-- R412: output o of yard y, or device clock o, is lost; `always` where its reference is lost too (R413). -/
def State.outLost (s : State) (y o : Nat) (always : Bool) : State :=
  let s1 := ((s.setStopped y o true).setBit (lostReg y) o true).irq (clkPage y) (if y < 8 then 0 else 1)
  if y < 8 then s1.spinesLose ((List.range 48).map (fun k => 48 * y + k)) o always
  else
    let s2 := s1.spinesLose (List.range 384) (32 + o) always
    (s2.dclkStalls o).foldl (fun t n => t.raiseFault n cCLOCK_LOST none) s2

/-- R411, R413: a PLL loses lock: its enabled outputs count as lost. -/
def State.pllLost (s : State) (y i : Nat) (always : Bool) : State :=
  let s1 := s.setLock y i false
  let s2 := if y < 8 then s1.irq (clkPage y) 1 else s1
  (List.range 4).foldl (fun t j => if t.outEnabled y (4 * i + j) then t.outLost y (4 * i + j) always else t) s2

/-- R400: the first healthy pair of the order, from the mask of present pairs. -/
def firstPair (ok : Nat) : Option Nat := [4, 5, 6, 7, 0, 1, 2, 3].find? (fun k => ok.testBit k)

/-- R399, R400, R413: reference pair k is lost: REF_LOST, FIXREF, and the PLLs that reference it. -/
def State.pairLoses (s : State) (k : Nat) : State :=
  let s1 := (((s.setBit (rREF_STAT 0) k false).setBit (rREF_LOST 0) k true).irq (PageKind.clkCtl.addr 0) 0)
  let s2 :=
    if s1.fget (rREF_STAT 0) fREF_STAT_FIXREF = k then
      match firstPair (s1.fget (rREF_STAT 0) fREF_STAT_OK) with
      | some p => (s1.fset (rREF_STAT 0) fREF_STAT_FIXREF p).fset (rREF_STAT 0) fREF_STAT_HOLD 1
      | none => s1.setClk { s1.clk with dark := true }
    else s1
  (List.range 9).foldl (fun t y => (List.range 8).foldl (fun u i =>
    if u.flag (pllCfg y i) fPLL_CFG_EN && decide (u.fget (pllCfg y i) fPLL_CFG_REF = k) then u.pllLost y i true else u) t) s2

/-- R413: when pair k has been present for 100 µs the PLLs that reference it relock. -/
def State.pairRelocks (s : State) (k : Nat) : State :=
  if s.bit (rREF_STAT 0) k then
    (List.range 9).foldl (fun t y => (List.range 8).foldl (fun u i =>
      if decide (u.fget (pllCfg y i) fPLL_CFG_REF = k) then u.pllLock y i else u) t) s
  else s

/-- FIXREF_HOLD_END (R400): the fixed PLLs have relocked. -/
def State.holdEnds (s : State) : State := s.fset (rREF_STAT 0) fREF_STAT_HOLD 0

/-- R411: a W1C write of `v` to a loss flag register whose flags set again while the loss persists. -/
def State.clearLost (s : State) (a v persisting : Nat) : State :=
  s.wr32 a (Nat.lor (Nat.land (s.rd32 a) (2 ^ 32 - 1 - v % 2 ^ 32)) persisting)

/-- The spines of a shed whose input in use does not run. -/
def State.spinesDown (s : State) (sh : Nat) : Nat :=
  (List.range 16).foldl (fun n k => n + b2n (match s.inputInUse sh k with | some c => !s.candRuns sh c | none => false) * 2 ^ k) 0

/-! ### The frequency counter (R415) -/

/-- A write of FMEAS_CTL. -/
def State.fmeasWrite (s : State) (req : Req) (v : Nat) : State :=
  let busy := s.flag (rFMEAS_CTL 0) fFMEAS_CTL_BUSY
  let s1 := s.wr32 (rFMEAS_CTL 0) (v % 2 ^ 30 + b2n busy * 2 ^ 30)
  if fFMEAS_CTL_START.get v = 1 then
    if busy then s1.refuse req (rFMEAS_CTL 0) causeRule
    else (s1.fset (rFMEAS_CTL 0) fFMEAS_CTL_BUSY 1).setClk { s1.clk with fmeas := v % 2 ^ 30 }
  else s1

/-- R415: whether the clock that a running count names is known to be stopped. -/
def State.fmeasStopped (s : State) : Bool :=
  let c := fFMEAS_CTL_CLASS.get s.clk.fmeas
  let i := fFMEAS_CTL_INDEX.get s.clk.fmeas
  if c = 0 then !s.bit (rREF_STAT 0) i
  else if c = 1 then !s.outRuns (i / 32) (i % 32)
  else if c = 2 then !s.outRuns 8 i
  else if c = 3 then s.clk.dark
  else s.gated (i / 16) || s.bit (rSPINE_GATE (i / 16)) (i % 16)

/-- FMEAS_END (R415): the window ends with `edges` rising edges counted. -/
def State.fmeasEnd (s : State) (edges : Nat) : State :=
  if s.flag (rFMEAS_CTL 0) fFMEAS_CTL_BUSY then
    (((s.fset (rFMEAS_CTL 0) fFMEAS_CTL_BUSY 0).wr32 (rFMEAS_CNT 0) (if s.fmeasStopped then 0 else min edges (2 ^ 32 - 1))).irq
      (PageKind.clkCtl.addr 0) 2)
  else s

/-! ### Power states (R418–R421) -/

/-- Table CLK-7: the exit latency of a state, in µs. -/
def exitLatency (st : Nat) : Nat := listGet 0 [0, 2, 50, 15000] st

/-- Table CLK-7: the entry conditions of NAP. -/
def State.napAllowed (s : State) : Bool :=
  (List.range 32).all (fun n => decide (s.stallState n ≠ stLIVE) && decide (s.stallState n ≠ stFILL) && decide (s.stallState n ≠ stSWAPPING)) &&
  s.eddies.all (fun x => decide (x.2.run ≠ .running) && decide (x.2.run ≠ .halted)) &&
  (List.range 66).all (fun p => (List.range 32).all (fun i => decide (s.rgnState p i ≠ 1) && decide (s.rgnState p i ≠ 3))) &&
  s.tol.jobs.all (fun j => match j.kind with | .test _ _ _ running => !running | _ => true)

/-- Table CLK-7: whether the entry conditions of a state hold. -/
def State.powerAllowed (s : State) (st : Nat) : Bool :=
  if st ≤ 1 then true
  else s.napAllowed && (decide (st = 2) || decide (s.fget (rTOL_INFO 0) fTOL_INFO_ROLE = 0))

/-- R419: the effective tolerance L: the least PCIE_LTOL over the ports in the endpoint role with their link up, else DEFAULT_TOL. -/
def State.tolerance (s : State) (ports : List Nat) : Nat :=
  match ports with
  | [] => s.fget (rPWR_CFG 0) fPWR_CFG_DEFAULT_TOL
  | l :: ls => ls.foldl min l

/-- R419: the deepest state allowed under tolerance L. -/
def State.powerChoice (s : State) (l : Nat) : Nat :=
  let ok := fun st => decide (st ≤ s.fget (rPWR_CFG 0) fPWR_CFG_MAX_STATE) && decide (exitLatency st ≤ l) && s.powerAllowed st
  if ok 3 then 3 else if ok 2 then 2 else if ok 1 then 1 else 0

/-- The device's power state. -/
def State.powerState (s : State) : Nat := s.fget (rPWR_STAT 0) fPWR_STAT_STATE

/-- The exit from the present state toward `st` begins (R420). -/
def State.exitBegin (s : State) (st : Nat) : State :=
  (s.fset (rPWR_STAT 0) fPWR_STAT_TARGET st).fset (rPWR_STAT 0) fPWR_STAT_EXITING 1

/-- R419: Tolmor chooses and enters a state under tolerance L. In DEAD the device stays in RUN (R421). -/
def State.powerEval (s : State) (l : Nat) : State :=
  if s.fget (rTOL_STAT 0) fTOL_STAT_MODE = 2 then s
  else
    let s1 := s.fset (rPWR_STAT 0) fPWR_STAT_TOL_US (min l (2 ^ 16 - 1))
    if s1.flag (rPWR_STAT 0) fPWR_STAT_EXITING then s1
    else
      let st := s1.powerChoice l
      if s1.powerState < st then
        ((s1.fset (rPWR_STAT 0) fPWR_STAT_TARGET st).fset (rPWR_STAT 0) fPWR_STAT_STATE st).irq (PageKind.clkCtl.addr 0) 3
      else if st < s1.powerState then s1.exitBegin st
      else s1.fset (rPWR_STAT 0) fPWR_STAT_TARGET st

/-- WAKE (R420): the exit from NAP or SLEEP starts at once. (DEDUCED, assumptions 22, 168) -/
def State.wake (s : State) : State := if 2 ≤ s.powerState then s.exitBegin 0 else s

/-- EXIT_COMPLETE (R420): every effect of the state is undone. -/
def State.exitComplete (s : State) : State :=
  if s.flag (rPWR_STAT 0) fPWR_STAT_EXITING then
    ((s.fset (rPWR_STAT 0) fPWR_STAT_STATE (s.fget (rPWR_STAT 0) fPWR_STAT_TARGET)).fset (rPWR_STAT 0) fPWR_STAT_EXITING 0).irq
      (PageKind.clkCtl.addr 0) 3
  else s

/-- R456: whether a LEVEL 3 grant with PWR_EMU holds. (DEDUCED, assumption 20) -/
def State.pwrEmu (s : State) : Bool :=
  (List.range 6).any (fun v => decide (s.fget (rDBG_GRANT v) ⟨29, 3⟩ = 7) && s.flag (rDBG_GRANT v) fDBG_GRANT_PWR_EMU)

/-- R420, R456: whether blocks stand stopped, in NAP or SLEEP or leaving one of them, with their effects applied. -/
def State.asleep (s : State) : Bool := decide (2 ≤ s.powerState) && !s.pwrEmu

end Sys2Proof.Machine
end

