-- ==== Sys2Proof/Machine/Pins.lean ====
section
/-! DEFINITION. User pins, pin-interrupt lines, scheduled I/O and management GPIO (R423–R438). Pins are numbered 48 × bank + pin. -/

namespace Sys2Proof.Machine

/-- A pin cell. -/
def State.pinCell (s : State) (p : Nat) : PinCell := smGet PinCell.reset s.pins p

/-- A pin cell replaced. -/
def State.setPinCell (s : State) (p : Nat) (c : PinCell) : State := { s with pins := smSet PinCell.reset s.pins p c }

/-- PIN_CFG of a pin. -/
def pinCfg (p : Nat) : Nat := rPIN_CFG (p / 48) (p % 48)

/-- The address of a bank register pair (its _LO register at `lo`) that holds a pin's bit, and the bit. -/
def pinBit (lo p : Nat) : Nat × Nat := if p % 48 < 32 then (lo, p % 48) else (lo + 4, p % 48 - 32)

/-- A pin's bit of a bank register pair. -/
def State.bankBit (s : State) (lo p : Nat) : Bool := s.bit (pinBit lo p).1 (pinBit lo p).2

/-- A pin's bit of a bank register pair written. -/
def State.setBankBit (s : State) (lo p : Nat) (b : Bool) : State := s.setBit (pinBit lo p).1 (pinBit lo p).2 b

/-- Whether a requester is the admin host: the mailbox of TOL_INFO.ADMIN (Table TMC-3). -/
def State.isAdmin (s : State) : Req → Bool
  | .host n => decide (s.fget (rTOL_INFO 0) fTOL_INFO_ADMIN = n)
  | .mgr => decide (s.fget (rTOL_INFO 0) fTOL_INFO_ADMIN = 4)
  | _ => false

/-- R428: whether a requester owns a pin. -/
def State.ownsPin (s : State) (req : Req) (p : Nat) : Bool :=
  match req with
  | .tolmor => true
  | .dbgDevice => true
  | .stall n => decide (s.pinOwner p = some n)
  | .dbgStall n => decide (s.pinOwner p = some n)
  | r => s.isAdmin r && decide (s.pinOwner p = none)

/-- The pins of a bank that a requester owns, as a 48-bit mask. -/
def State.ownedPins (s : State) (req : Req) (b : Nat) : Nat :=
  (List.range 48).foldl (fun m k => m + b2n (s.ownsPin req (48 * b + k)) * 2 ^ k) 0

/-- R426: whether the fabric side of a pin is connected: its owning stall owns SHED_b_n, which is live. -/
def State.pinConnected (s : State) (p : Nat) : Bool :=
  match s.pinOwner p with
  | some n => decide (s.shedOwner p = some n) && decide (s.stallState n = stLIVE) && !s.gated p
  | none => false

/-- R432: whether a claimed pin floats because its stall is frozen or a capture stops it (R452). -/
def State.pinFrozen (s : State) (p : Nat) : Bool :=
  match s.pinOwner p with
  | some n => decide (s.stallState n ≠ stLIVE) || s.captured n
  | none => false

/-- The output value and output enable that the function in effect gives a pad: one bit, or the word a serialiser sends. -/
def State.funcOut (s : State) (p : Nat) : Nat × Bool :=
  let c := s.pinCell p
  if c.func = 1 then (b2n (s.bankBit (rGPIO_OUT_LO (p / 48)) p), s.bankBit (rGPIO_OE_LO (p / 48)) p)
  else if c.func = 2 then (b2n c.o, c.oe && s.pinConnected p)
  else if c.func = 3 ∨ c.func = 4 then (c.tx0, c.oe && s.pinConnected p)
  else (0, false)

/-- R432: the TAP instruction that overrides a pin's cell, with the pin's bit of the boundary register. (DEDUCED, assumption 178) -/
def State.tapPin (s : State) (p : Nat) : Option (TapIr × Nat) :=
  let t := smGet Tap.reset s.d2d.taps (1 + p / 48)
  if t.ir = .highz ∨ t.ir = .extest ∨ t.ir = .clamp then some (t.ir, t.bsr / 2 ^ (p % 48) % 2) else none

/-- What a pad is driven with, or none where it floats (R414, R425, R430, R432, R479, R486). (DEDUCED, assumption 179) -/
def State.padOut (s : State) (p : Nat) : Option Nat :=
  let c := s.pinCell p
  if s.clk.dark || s.clk.trip || s.clk.ioLost.testBit (p / 48) then none
  else if s.fget (rDIE_STATE 0 (p / 48)) fDIE_STATE_STATE ≠ 0 then none
  else if let some x := s.tapPin p then (if x.1 = .highz then none else some x.2)
  else if s.pinFrozen p then none
  else if c.phase = .hold then (if c.latchOe then some (b2n c.latchOut) else none)
  else if (s.funcOut p).2 then some (s.funcOut p).1 else none

/-! ### Writes (R425, R426, R428–R430) -/

/-- FUNC (R430): a write of `v` to PIN_CFG of a pin. -/
def State.pinCfgWrite (s : State) (req : Req) (p v : Nat) : State :=
  let a := pinCfg p
  let old := s.rd32 a
  let bad := s.refuse req a causeRule
  let f := fPIN_CFG_FUNC.get v
  let owner := match req with
    | .stall n => decide (s.shedOwner p = some n)
    | .dbgStall n => decide (s.shedOwner p = some n)
    | .tolmor => true
    | .dbgDevice => true
    | _ => false
  if v % 2 ^ 17 = old % 2 ^ 17 ∧ v / 2 ^ 30 % 2 = 0 then s
  else if !s.ownsPin req p || decide (5 ≤ f) || (decide (2 ≤ f) && decide (f ≠ fPIN_CFG_FUNC.get old) && !owner) then bad
  else
    let late := fPIN_CFG_SW_LATE.get old = 1 ∧ fPIN_CFG_SW_LATE.get v = 0
    let s1 := s.wr32 a (v % 2 ^ 17 + b2n (decide late) * 2 ^ 30 + fPIN_CFG_SW_PEND.get old * 2 ^ 31)
    let c := s1.pinCell p
    if f ≠ c.func ∧ c.phase = .steady then (s1.fset a fPIN_CFG_SW_PEND 1).setPinCell p { c with phase := .pending } else s1

/-- SWITCH_EDGE (R430): the switch takes effect and the hold latch drives the old values. -/
def State.switchEdge (s : State) (p : Nat) : State :=
  let c := s.pinCell p
  if c.phase = .pending then
    let o := s.funcOut p
    let new := s.fget (pinCfg p) fPIN_CFG_FUNC
    s.setPinCell p { c with func := new, phase := .hold, latchOut := decide (o.1 % 2 = 1), latchOe := o.2,
                            inHeld := if new = 1 then false else if c.func = 1 then true else c.inHeld }
  else s

/-- HOLD_END (R430): the new function drives the pad; a FUNC written during the hold begins its switch. -/
def State.holdEnd (s : State) (p : Nat) : State :=
  let c := s.pinCell p
  if c.phase = .hold then
    if s.fget (pinCfg p) fPIN_CFG_FUNC = c.func then (s.setPinCell p { c with phase := .steady }).fset (pinCfg p) fPIN_CFG_SW_PEND 0
    else s.setPinCell p { c with phase := .pending }
  else s

/-- SW_LATE (R431): the switch runs on YPAGE_b. -/
def State.swLate (s : State) (p : Nat) : State :=
  if (s.pinCell p).phase = .pending then (s.fset (pinCfg p) fPIN_CFG_SW_LATE 1).irq (PageKind.pinBank.addr (p / 48)) 0 else s

/-- R428, R429: a new value for a bank's GPIO_OUT or GPIO_OE (`lo` is its _LO register), of which only the pins of `mask` (48 bits) change where
the requester owns them; a change to another pin is counted. -/
def State.bankWrite (s : State) (req : Req) (b lo a : Nat) (mask new : Nat) : State :=
  let own := s.ownedPins req b
  let old := s.rd32 lo + s.rd32 (lo + 4) % 2 ^ 16 * 2 ^ 32
  let want := Nat.lor (Nat.land old (2 ^ 48 - 1 - mask)) (Nat.land new mask)
  let keep := Nat.lor (Nat.land old (2 ^ 48 - 1 - own)) (Nat.land want own)
  let s1 := (s.wr32 lo keep).wr32 (lo + 4) (keep / 2 ^ 32)
  if keep = want then s1 else s1.refuse req a causeNotOwner

/-- R428, R429: a write of `v` to the GPIO register at offset `off` of a bank. -/
def State.gpioWrite (s : State) (req : Req) (b off v : Nat) : State :=
  let out := rGPIO_OUT_LO b
  let a := PageKind.pinBank.addr b + off
  let hi := off / 4 % 2
  let mask := if hi = 0 then 2 ^ 32 - 1 else (2 ^ 16 - 1) * 2 ^ 32
  let w := v % 2 ^ 32 * 2 ^ (32 * hi) % 2 ^ 48
  let old := s.rd32 out + s.rd32 (out + 4) % 2 ^ 16 * 2 ^ 32
  if off / 8 = 8 then s.bankWrite req b out a mask w
  else if off / 8 = 9 then s.bankWrite req b out a w w
  else if off / 8 = 10 then s.bankWrite req b out a w 0
  else if off / 8 = 11 then s.bankWrite req b out a w (Nat.xor old w)
  else if off / 8 = 12 then s.bankWrite req b (rGPIO_OE_LO b) a mask w
  else s

/-- R428: a read of a GPIO register or PIN_CFG of a bank, cut to the pins the reader owns. -/
def State.bankRead (s : State) (req : Req) (b off : Nat) : Nat :=
  let own := s.ownedPins req b
  let cut := fun (x : Nat) => Nat.land x (own / 2 ^ (32 * (off / 4 % 2)))
  if 0x100 ≤ off then (if own.testBit ((off - 0x100) / 4) then s.rd32 (PageKind.pinBank.addr b + off) else 0)
  else if off / 8 = 8 ∨ off / 8 = 9 ∨ off / 8 = 10 then cut (s.rd32 (rGPIO_OUT_LO b + off % 8 / 4 * 4))
  else if off / 8 = 11 then 0
  else cut (s.rd32 (PageKind.pinBank.addr b + off))

/-! ### Clock edges (R425, R427, R429) -/

/-- A list of bits as a number, the first in bit 0. -/
def bitsNat : List Bool → Nat
  | [] => 0
  | b :: bs => b2n b + 2 * bitsNat bs

/-- R427: a serialiser's registers on an edge of PCLK: TXD is taken, the received bits join those before, and whole words move toward RXD. (DESIGN CHOICE, assumption 32) -/
def PinCell.serdes (c : PinCell) (w out : Nat) (oe : Bool) (inp : Nat) (slip : Bool) : PinCell :=
  let bits := c.rxBits ++ (List.range w).map (fun k => inp.testBit k)
  let bits := if slip then bits.tail else bits
  let c1 := { c with tx0 := c.tx1, tx1 := c.tx2, tx2 := out % 2 ^ w, oe := oe }
  if w ≤ bits.length then { c1 with rxBits := bits.drop w, rxd := c.rx1, rx1 := c.rx2, rx2 := bitsNat (bits.take w) }
  else { c1 with rxBits := bits, rxd := c.rx1, rx1 := c.rx2 }

/-- A pin cell on an edge: of its PCLK in FABRIC and the serialiser functions, of YPAGE_b for GPIO_IN. (DEDUCED, assumption 179) -/
def State.pinEdge (s t : State) (clk : ClockId) (falling : Bool) (b n out : Nat) (oe : Bool) (inp : Nat) (slip : Bool) : State :=
  let p := 48 * b + n
  let c := s.pinCell p
  let cfg := s.rd32 (pinCfg p)
  let inp := if s.clk.ioLost.testBit b then 0 else inp
  let inEn := decide (fPIN_CFG_IN_EN.get cfg = 1)
  let pad := if inEn then inp else 0
  match clk with
  | .spine sh k =>
    if sh = p ∧ k = fPIN_CFG_PCLK.get cfg ∧ s.pinConnected p ∧ s.spineOn sh k ∧ falling = false then
      if c.func = 2 then t.setPinCell p { t.pinCell p with o := decide (out % 2 = 1), oe := oe, i := decide (pad % 2 = 1) }
      else if c.func = 3 then t.setPinCell p ((t.pinCell p).serdes 8 out oe pad slip)
      else if c.func = 4 then t.setPinCell p ((t.pinCell p).serdes 16 out oe pad slip)
      else t
    else t
  | .ypage y => if y = b ∧ inEn ∧ !c.inHeld then t.setBankBit (rGPIO_IN_LO b) p (decide (inp % 2 = 1)) else t
  | .device _ => t

/-- ACTIVE_CLOCK_EDGE (R30): every element that the edge clocks takes its new state from the state before the edge. (DESIGN CHOICE, assumption 29) -/
def State.clockEdge (s : State) (clk : ClockId) (falling : Bool) (elems : List ElemIn) : State :=
  elems.foldl (fun t e =>
    match e with
    | .pin b n out oe inp slip => s.pinEdge t clk falling b n out oe inp slip
    | e => s.clockElem t clk falling e) s

/-! ### The settings of a stall's pins (R432) -/

/-- The settings of a pin: PIN_CFG without the switch bits, GPIO_OUT and GPIO_OE. -/
def State.pinSettings (s : State) (p : Nat) : Nat × Nat × Bool × Bool :=
  (p, s.rd32 (pinCfg p) % 2 ^ 17, s.bankBit (rGPIO_OUT_LO (p / 48)) p, s.bankBit (rGPIO_OE_LO (p / 48)) p)

/-- The settings of a pin applied at once. -/
def State.applyPin (s : State) (x : Nat × Nat × Bool × Bool) : State :=
  let p := x.1
  let s1 := ((s.wr32 (pinCfg p) x.2.1).setBankBit (rGPIO_OUT_LO (p / 48)) p x.2.2.1).setBankBit (rGPIO_OE_LO (p / 48)) p x.2.2.2
  s1.setPinCell p { PinCell.reset with func := x.2.1 % 8 }

/-- A pin at its reset settings. -/
def State.resetPin (s : State) (p : Nat) : State := s.applyPin (p, 0, false, false)

/-- R432: at release the settings of the outgoing image are kept and those of the incoming one apply. -/
def State.swapPins (s : State) (n : Nat) (fresh : Bool) : State :=
  let t := s.stall n
  let old := t.pins.map (fun p => s.pinSettings p)
  let s1 := t.pins.foldl (fun u p => u.resetPin p) s
  let s2 := if fresh then s1 else t.bgPins.foldl (fun u x => u.applyPin x) s1
  s2.setStall n { s2.stall n with bgPins := old }

/-! ### Pin-interrupt lines (R434) -/

/-- PIN_EVENT (R434): the pad that line n watches is at `pad`. -/
def State.pinEvent (s : State) (n : Nat) (pad : Bool) : State :=
  let sel := s.rd32 (rPIRQ_SEL 0 n)
  let p := 48 * fPIRQ_SEL_BANK.get sel + n
  let mode := fPIRQ_SEL_MODE.get sel
  let old := s.bit (rPIRQ_PEND 0) (16 + n)
  let new := pad && !s.clk.ioLost.testBit (fPIRQ_SEL_BANK.get sel) && s.flag (pinCfg p) fPIN_CFG_IN_EN && (s.pinOwner p).isNone
  let s1 := s.setBit (rPIRQ_PEND 0) (16 + n) new
  let event := (decide (mode = 1 ∨ mode = 3) && !old && new) || (decide (mode = 2 ∨ mode = 3) && old && !new) ||
    (decide (mode = 4) && new) || (decide (mode = 5) && !new)
  if event then (s1.setBit (rPIRQ_PEND 0) n true).irq (PageKind.pinIrq.addr 0) n else s1

/-! ### Scheduled I/O (R435) -/

/-- SCHED_IO (R435): slot k acts on the GPIO pins of its bank that no stall claims; the others count once each in SCHED_SKIP. -/
def State.schedIo (s : State) (k : Nat) : State :=
  let cfg := s.rd32 (rSCHED_CFG 0 k)
  if fSCHED_CFG_VALID.get cfg = 0 then s
  else
    let b := fSCHED_CFG_BANK.get cfg
    let mask := s.rd64 (rSCHED_MASK 0 k)
    let val := s.rd64 (rSCHED_VAL 0 k)
    (List.range 48).foldl (fun t i =>
      let p := 48 * b + i
      if !mask.testBit i then t
      else if (t.pinCell p).func = 1 ∧ t.pinOwner p = none then
        let old := t.bankBit (rGPIO_OUT_LO b) p
        let new := if fSCHED_CFG_OP.get cfg = 0 then val.testBit i else if fSCHED_CFG_OP.get cfg = 1 then true
          else if fSCHED_CFG_OP.get cfg = 2 then false else !old
        t.setBankBit (rGPIO_OUT_LO b) p new
      else (t.finc (rSCHED_SKIP b) fSCHED_SKIP_COUNT).irq (PageKind.pinBank.addr b) 1) s

/-! ### Management GPIO (R436) -/

/-- The management pins that Table PIN-4 fixes. (DEDUCED, assumption 180) -/
def State.mgpioFixed (s : State) : Nat :=
  0xDF + (if s.fget (rSTRAP 0) fSTRAP_BOOT_SRC = 1 ∧ ¬ s.flag (rMB_STAT 0) fMB_STAT_ACCEPTING then 0xF00 else 0)

/-- A write to half `h` of MGPIO_OUT or MGPIO_OE at address `a`: the fixed pins' bits are ignored. -/
def State.mgpioWrite (s : State) (a h v : Nat) : State :=
  let fixed := s.mgpioFixed / 2 ^ (32 * h) % 2 ^ 32
  s.wr32 a (Nat.lor (Nat.land (s.rd32 a) fixed) (Nat.land v (2 ^ 32 - 1 - fixed)))

/-- A read of half `h` of MGPIO_OUT or MGPIO_OE: the fixed pins' bits read their pad. (DEDUCED, assumption 180) -/
def State.mgpioRead (s : State) (a h : Nat) : Nat :=
  let fixed := s.mgpioFixed / 2 ^ (32 * h) % 2 ^ 32
  Nat.lor (Nat.land (s.rd32 a) (2 ^ 32 - 1 - fixed)) (Nat.land (s.rd32 (rMGPIO_IN 0 + 4 * h)) fixed)

end Sys2Proof.Machine
end

