-- ==== Sys2Proof/Machine/Lanes.lean ====
section
/-! DEFINITION. Transceiver lanes (R323–R343): stages, calibration, loopbacks, PRBS, the lane assignment table and the lane bridge. Lanes are
numbered 40f + ll. -/

namespace Sys2Proof.Machine

/-- A lane's data. -/
def State.lane (s : State) (l : Nat) : LaneSt := smGet LaneSt.reset s.lanes l

/-- A lane's data replaced. -/
def State.setLane (s : State) (l : Nat) (x : LaneSt) : State := { s with lanes := smSet LaneSt.reset s.lanes l x }

/-- Table LAN-2: a lane's stage. -/
def State.stage (s : State) (l : Nat) : Nat := s.fget (rLANE_STAT l) fLANE_STAT_STAGE

/-- Stage codes. -/
def sgOFF : Nat := 0
/-- CAL. -/
def sgCAL : Nat := 1
/-- WAIT_SIGNAL. -/
def sgWAIT : Nat := 2
/-- CDR. -/
def sgCDR : Nat := 3
/-- POLARITY. -/
def sgPOLARITY : Nat := 4
/-- ADAPT_INIT. -/
def sgADAPT : Nat := 5
/-- ALIGN. -/
def sgALIGN : Nat := 6
/-- UP. -/
def sgUP : Nat := 7
/-- LOOPBACK. -/
def sgLOOPBACK : Nat := 8

/-- R336: the protocol codes of a lane. -/
def prOFF : Nat := 0
/-- PCIE. -/
def prPCIE : Nat := 1
/-- ETH. -/
def prETH : Nat := 2
/-- SKEJA. -/
def prSKEJA : Nat := 3
/-- FABRIC. -/
def prFABRIC : Nat := 4
/-- TEST. -/
def prTEST : Nat := 5

/-- A lane's protocol. -/
def State.laneProto (s : State) (l : Nat) : Nat := s.fget (rLANE_ASSIGN l) fLANE_ASSIGN_PROTO

/-- A lane's instance. -/
def State.laneInst (s : State) (l : Nat) : Nat := s.fget (rLANE_ASSIGN l) fLANE_ASSIGN_INST

/-- The lanes of lane l's group: those of its ford with its protocol and instance. -/
def State.laneGroup (s : State) (l : Nat) : List Nat :=
  ((List.range 40).map (fun k => 40 * (l / 40) + k)).filter (fun k => decide (s.laneProto k = s.laneProto l) && decide (s.laneInst k = s.laneInst l))

/-- R326: a change of stage. SIG_DET and CDR_LOCK are 0 below the stages that set them. (DEDUCED, assumption 152) -/
def State.setStage (s : State) (l st : Nat) : State :=
  let s1 := s.fset (rLANE_STAT l) fLANE_STAT_STAGE st
  let s2 := if st ≤ sgWAIT then (s1.fset (rLANE_STAT l) fLANE_STAT_SIG_DET 0).fset (rLANE_STAT l) fLANE_STAT_CDR_LOCK 0 else s1
  if st = s.stage l then s2 else s2.irq (PageKind.lane.addr l) 0

/-- Table LAN-1: whether a lane runs at a rate in Mb/s. -/
def laneRateOk (l mbps : Nat) : Bool :=
  (decide (1250 ≤ mbps) && decide (mbps ≤ 112000)) || (decide (32 ≤ l % 40) && decide (212500 ≤ mbps) && decide (mbps ≤ 224000))

/-- R339: whether a FABRIC lane may bring up. -/
def State.fabLaneOn (s : State) (l : Nat) : Bool :=
  let c := s.rd32 (rLANE_FAB_CFG l)
  decide (fLANE_FAB_CFG_EN.get c = 1) && laneRateOk l (fLANE_FAB_CFG_RATE_MBPS.get c)

/-- LOOP in effect: reserved codes act as 0 (R332). -/
def loopOf (cfg : Nat) : Nat := if fLANE_CFG_LOOP.get cfg ≤ 3 then fLANE_CFG_LOOP.get cfg else 0

/-- LOOP in effect in a lane. -/
def State.laneLoop (s : State) (l : Nat) : Nat := loopOf (s.rd32 (rLANE_CFG l))

/-! ### Bring-up (R326–R328) -/

/-- SIGNAL_DETECT. A FABRIC lane that is not enabled stays in WAIT_SIGNAL. -/
def State.signalDetect (s : State) (l : Nat) : State :=
  if s.stage l = sgWAIT ∧ (s.laneProto l ≠ prFABRIC ∨ s.fabLaneOn l) then
    ((s.setStage l sgCDR).fset (rLANE_STAT l) fLANE_STAT_SIG_DET 1).fset (rLANE_ADAPT l) fLANE_ADAPT_UPDATES 0
  else s

/-- CDR_LOCK. -/
def State.cdrLock (s : State) (l : Nat) : State :=
  if s.stage l = sgCDR then (s.setStage l sgPOLARITY).fset (rLANE_STAT l) fLANE_STAT_CDR_LOCK 1 else s

/-- POLARITY (R327): `inverse` says that the inverse of the expected pattern matches; a forced setting does not examine it. -/
def State.polarity (s : State) (l : Nat) (inverse : Bool) : State :=
  if s.stage l = sgPOLARITY then
    let pol := s.fget (rLANE_CFG l) fLANE_CFG_RX_POL
    let inv := if pol = 1 then false else if pol = 2 then true else inverse
    (s.setStage l sgADAPT).fset (rLANE_STAT l) fLANE_STAT_RX_INV (b2n inv)
  else s

/-- ADAPT_INIT_DONE: the eye, in mV, meets its threshold. -/
def State.adaptDone (s : State) (l eye : Nat) : State :=
  if s.stage l = sgADAPT then
    let p := s.laneProto l
    (s.setStage l (if p = prFABRIC ∨ p = prTEST then sgUP else sgALIGN)).fset (rLANE_ADAPT l) fLANE_ADAPT_EYE_MV (min eye (2 ^ 16 - 1))
  else s

/-- ALIGN_DONE (R328, R331, R333): the controller has placed the lane at `logical`; every lane of the group is in ALIGN or UP with LOOP 0. -/
def State.alignDone (s : State) (l logical : Nat) : State :=
  if s.stage l = sgALIGN ∧ (s.laneGroup l).all (fun k => decide (s.stage k = sgALIGN ∨ s.stage k = sgUP) && decide (s.laneLoop k = 0)) then
    (s.setStage l sgUP).fset (rLANE_STAT l) fLANE_STAT_LOGICAL logical
  else s

/-- STAGE_TIMEOUT. -/
def State.stageTimeout (s : State) (l : Nat) : State :=
  if s.stage l = sgCDR ∨ s.stage l = sgPOLARITY ∨ s.stage l = sgADAPT then s.setStage l sgWAIT else s

/-- SIGNAL_LOSS: the signal is lost, or (`unlock`) clock recovery unlocks in ADAPT_INIT, ALIGN or UP. -/
def State.signalLoss (s : State) (l : Nat) (unlock : Bool) : State :=
  let st := s.stage l
  if (if unlock then sgADAPT ≤ st else sgCDR ≤ st) ∧ st ≤ sgUP then s.setStage l sgWAIT else s

/-- The stage a lane enters when nothing holds it in OFF or CAL: LOOPBACK when LOOP is set, else WAIT_SIGNAL. -/
def State.laneBegin (s : State) (l : Nat) : State := s.setStage l (if s.laneLoop l = 0 then sgWAIT else sgLOOPBACK)

/-- R330, R331: a lane leaves CAL with its calibration passed or failed; a held LANE_CFG applies. -/
def State.leaveCal (s : State) (l : Nat) (ok : Bool) : State :=
  let x := s.lane l
  let s1 := match x.heldCfg with
    | some v => s.wr32 (rLANE_CFG l) v
    | none => s
  let s2 := s1.setLane l { x with heldCfg := none, calEnded := none }
  if ok then
    let s3 := s2.fset (rLANE_STAT l) fLANE_STAT_CAL_FAIL 0
    if s3.laneProto l = prOFF then s3.setStage l sgOFF else s3.laneBegin l
  else
    (((s2.fset (rLANE_STAT l) fLANE_STAT_CAL_FAIL 1).setStage l sgOFF).irq (PageKind.lane.addr l) 2).logEvent 6 2 l 0

/-- CALIBRATION_END (R330). At start no lane of a ford leaves CAL before every lane of it has run. -/
def State.calEnd (s : State) (l : Nat) (ok : Bool) : State :=
  if s.stage l ≠ sgCAL then s
  else if s.fget (rTOL_STAT 0) fTOL_STAT_MODE = 3 then
    let s1 := s.setLane l { s.lane l with calEnded := some ok }
    let ford := (List.range 40).map (fun k => 40 * (l / 40) + k)
    if ford.all (fun k => decide (s1.stage k ≠ sgCAL) || (s1.lane k).calEnded.isSome) then
      ford.foldl (fun t k => if t.stage k = sgCAL then t.leaveCal k ((t.lane k).calEnded.getD true) else t) s1
    else s1
  else s.leaveCal l ok

/-- R330: a lane begins a full calibration: it is idle in OFF or WAIT_SIGNAL, or in LOOPBACK. -/
def State.laneIdle (s : State) (l : Nat) : Bool := decide (s.stage l = sgOFF) || decide (s.stage l = sgWAIT) || decide (s.stage l = sgLOOPBACK)

/-- R325: the lanes of ford f that take HREF_f (`host`) or NREF_f lose it. (DEDUCED, assumption 159) -/
def State.laneRefLost (s : State) (f : Nat) (host : Bool) : State :=
  (List.range 40).foldl (fun t k =>
    let l := 40 * f + k
    if t.laneProto l ≠ prOFF ∧ decide (t.laneProto l = prPCIE) = host then
      ((t.setStage l sgOFF).fset (rLANE_STAT l) fLANE_STAT_REF_LOST 1).irq (PageKind.lane.addr l) 1
    else t) s

/-- R325: the pair returns. -/
def State.laneRefReturns (s : State) (f : Nat) (host : Bool) : State :=
  (List.range 40).foldl (fun t k =>
    let l := 40 * f + k
    if t.flag (rLANE_STAT l) fLANE_STAT_REF_LOST && decide (decide (t.laneProto l = prPCIE) = host) then
      let t1 := t.fset (rLANE_STAT l) fLANE_STAT_REF_LOST 0
      if t1.flag (rLANE_STAT l) fLANE_STAT_CAL_FAIL then t1 else t1.laneBegin l
    else t) s

/-! ### Register writes (R332, R333, R335, R339) -/

/-- R333: whether a LANE_CFG write of `v` takes the group's link down. -/
def State.loopDropsLink (s : State) (l v : Nat) : Bool :=
  decide (s.stage l ≠ sgCAL) && decide (loopOf v ≠ s.laneLoop l) && decide (1 ≤ s.laneProto l) && decide (s.laneProto l ≤ 3) &&
    (s.laneGroup l).any (fun k => decide (s.stage k = sgALIGN ∨ s.stage k = sgUP))

/-- A write of `v` to LANE_CFG (R330, R332, R333); the group's link is taken down beside it. (DEDUCED, assumption 152) -/
def State.laneCfgWrite (s : State) (l v : Nat) : State :=
  let v := v % 256 / 32 * 32 + v % 8
  if s.stage l = sgCAL then s.setLane l { s.lane l with heldCfg := some v }
  else
    let drops := s.loopDropsLink l v
    let old := s.laneLoop l
    let s1 := s.wr32 (rLANE_CFG l) v
    let s2 := if drops then
        (s.laneGroup l).foldl (fun t k => if k ≠ l ∧ t.stage k = sgUP then t.setStage k sgALIGN else t) s1
      else s1
    if s2.stage l = sgOFF ∨ s2.laneLoop l = old then s2
    else s2.laneBegin l

/-- A write of `v` to LANE_FAB_CFG (R339): a FABRIC lane that is disabled, unsupported or re-rated waits for a signal. -/
def State.fabCfgWrite (s : State) (l v : Nat) : State :=
  let v := if s.laneProto l = prFABRIC ∧ s.laneOwner l = none then v % 2 ^ 31 else v
  let v := v / 2 ^ 31 % 2 * 2 ^ 31 + v % 2 ^ 28
  let old := s.rd32 (rLANE_FAB_CFG l)
  let s1 := s.wr32 (rLANE_FAB_CFG l) v
  if s.laneProto l = prFABRIC ∧ sgWAIT < s.stage l ∧ s.stage l ≤ sgUP ∧
      (!s1.fabLaneOn l ∨ fLANE_FAB_CFG_RATE_MBPS.get v ≠ fLANE_FAB_CFG_RATE_MBPS.get old) then s1.setStage l sgWAIT
  else s1

/-- A write of `v` to LANE_TX_EQ: weights that sum to more than 63 are ignored and counted. -/
def State.txEqWrite (s : State) (req : Req) (l v : Nat) : State :=
  if 63 < fLANE_TX_EQ_PRE.get v + fLANE_TX_EQ_MAIN.get v + fLANE_TX_EQ_POST.get v then s.refuse req (rLANE_TX_EQ l) causeRule
  else s.wr32 (rLANE_TX_EQ l) (v % 2 ^ 18)

/-- R334: whether a lane's checker counts. -/
def State.checkerRuns (s : State) (l : Nat) : Bool :=
  s.flag (rPRBS_CTL l) fPRBS_CTL_CHK_EN && (decide (s.stage l = sgLOOPBACK) || (decide (s.laneProto l = prTEST) && decide (s.stage l ≠ sgCAL)))

/-- R334: whether a lane's generator drives the transmit words. -/
def State.generatorRuns (s : State) (l : Nat) : Bool :=
  s.flag (rPRBS_CTL l) fPRBS_CTL_GEN_EN &&
    ((decide (s.stage l = sgLOOPBACK) && decide (s.laneLoop l = 1 ∨ s.laneLoop l = 2)) || decide (s.laneProto l = prTEST))

/-- CLEAR (R335). -/
def State.prbsClear (s : State) (l : Nat) : State := (s.wr64 (rPRBS_ERR l) 0).wr64 (rPRBS_BITS l) 0

/-- INJECT (R335): one transmitted bit is inverted; in a loopback of the transmit words the lane's own locked checker counts it. -/
def State.prbsInject (s : State) (l : Nat) : State :=
  if s.generatorRuns l && s.checkerRuns l && decide (s.stage l = sgLOOPBACK) && s.flag (rPRBS_STAT l) fPRBS_STAT_LOCK then
    s.finc (rPRBS_ERR l) fPRBS_ERR_COUNT
  else s

/-- A write of `v` to PRBS_CTL. -/
def State.prbsCtlWrite (s : State) (l v : Nat) : State :=
  let s1 := s.wr32 (rPRBS_CTL l) (v % 2 ^ 10)
  let s2 := if fPRBS_CTL_CHK_EN.get v = 0 then s1.fset (rPRBS_STAT l) fPRBS_STAT_LOCK 0 else s1
  let s3 := if fPRBS_CTL_CLEAR.get v = 1 then s2.prbsClear l else s2
  if fPRBS_CTL_INJECT.get v = 1 then s3.prbsInject l else s3

/-- PRBS_LOCK (R335): 2 048 consecutive bits agree. -/
def State.prbsLock (s : State) (l : Nat) : State := if s.checkerRuns l then s.fset (rPRBS_STAT l) fPRBS_STAT_LOCK 1 else s

/-- PRBS_LOST (R335): 256 of 2 048 bits disagree; `bits` were counted since the last count, `errs` of them wrong. (DESIGN CHOICE, assumption 151) -/
def State.prbsLost (s : State) (l bits errs : Nat) : State :=
  if s.checkerRuns l && s.flag (rPRBS_STAT l) fPRBS_STAT_LOCK then
    ((((s.fadd (rPRBS_BITS l) fPRBS_BITS_COUNT bits).fadd (rPRBS_ERR l) fPRBS_ERR_COUNT errs).fset (rPRBS_STAT l) fPRBS_STAT_LOCK 0).fset
      (rPRBS_STAT l) fPRBS_STAT_LOST 1).irq (PageKind.lane.addr l) 3
  else s

/-! ### The lane assignment table (R336–R338) -/

/-- Entry l of a table of 640 bytes: PROTO, INST, LOGICAL and byte 3. -/
def mapEntry (t : List Nat) (l : Nat) : Nat × Nat × Nat × Nat :=
  (listGet 0 t (4 * l), listGet 0 t (4 * l + 1), listGet 0 t (4 * l + 2), listGet 0 t (4 * l + 3))

/-- Table LAN-5: whether one instance of ford f obeys its rule. -/
def mapGroupOk (t : List Nat) (f proto inst : Nat) : Bool :=
  let lanes := (List.range 40).filter (fun ll => decide ((mapEntry t (40 * f + ll)).1 = proto) && decide ((mapEntry t (40 * f + ll)).2.1 = inst))
  match lanes with
  | [] => true
  | first :: _ =>
    let w := lanes.length
    decide (lanes = (List.range w).map (fun k => first + k)) &&
    (if proto = prPCIE then decide (first = 0) && [1, 2, 4, 8, 16].contains w
     else if proto = prETH then [1, 2, 4, 8].contains w && decide (first % w = 0)
     else [2, 4].contains w && decide (first % w = 0) && decide (32 ≤ first)) &&
    lanes.all (fun ll => decide ((mapEntry t (40 * f + ll)).2.2.1 = ll - first))

/-- R336, R337: whether a table is well formed and obeys Table LAN-5. -/
def laneMapOk (t : List Nat) : Bool :=
  decide (t.length = 640) &&
  (List.range 160).all (fun l =>
    let e := mapEntry t l
    decide (e.2.2.2 = 0) && decide (e.1 ≤ 5) &&
    (if e.1 = prPCIE then decide (e.2.1 = 0) else if e.1 = prETH ∨ e.1 = prSKEJA then decide (e.2.1 ≤ 1)
     else decide (e.2.1 = 0) && decide (e.2.2.1 = 0))) &&
  (List.range 4).all (fun f => mapGroupOk t f prPCIE 0 && mapGroupOk t f prETH 0 && mapGroupOk t f prETH 1 && mapGroupOk t f prSKEJA 0 &&
    mapGroupOk t f prSKEJA 1)

/-- An entry of a table as LANE_ASSIGN shows it. -/
def mapWord (t : List Nat) (l : Nat) : Nat :=
  let e := mapEntry t l
  e.2.2.1 * 2 ^ 16 + e.2.1 * 2 ^ 8 + e.1

/-- R338: the lanes whose entry a table changes. -/
def State.changedLanes (s : State) (t : List Nat) : List Nat :=
  (List.range 160).filter (fun l => decide (mapWord t l ≠ s.rd32 (rLANE_ASSIGN l) % 2 ^ 24))

/-- R338, steps 2 to 4, for one lane. -/
def State.remapLane (s : State) (t : List Nat) (l : Nat) : State :=
  let s1 := s.setStage l sgOFF
  let s2 := ((s1.wr32 (rLANE_CFG l) (s1.rd32 (rLANE_CFG l) / 8 * 8)).wr32 (rLANE_FAB_CFG l) 0).wr32 (rPRBS_CTL l) 0x55
  let s3 := s2.wr32 (rLANE_ASSIGN l) (mapWord t l)
  if s3.laneProto l = prOFF ∨ s3.flag (rLANE_STAT l) fLANE_STAT_CAL_FAIL then s3 else s3.laneBegin l

/-! ### The lane bridge (R340–R342) -/

/-- Whether a lane's owner is LIVE. -/
def State.laneLive (s : State) (l : Nat) : Bool :=
  match s.laneOwner l with
  | some n => decide (s.stallState n = stLIVE)
  | none => false

/-- Received lines reach the bridge: they are held in the receive buffer of 1 024 lines, or discarded and counted. (DEDUCED, assumption 153) -/
def State.bridgeReceive (s : State) (l : Nat) (lines : List (BitVec 512)) : State :=
  if s.laneProto l ≠ prFABRIC ∨ s.stage l ≠ sgUP then s
  else
    lines.foldl (fun t d =>
      let x := t.lane l
      let up := { x with rxCount := (x.rxCount + 64) % 2 ^ 48 }
      if t.laneLive l && decide (x.rx.length < 1024) then t.setLane l { up with rx := x.rx ++ [(x.rxCount, d)] }
      else (t.setLane l { up with rx := if t.laneLive l then x.rx else [] }).finc (rFAB_STAT l) fFAB_STAT_RX_DROP) s

/-- The first lines of the receive buffer, at most `n`, that follow one another without a gap. (DEDUCED, assumption 153) -/
def takeRun : Nat → List (Nat × BitVec 512) → List (Nat × BitVec 512)
  | 0, _ => []
  | _ + 1, [] => []
  | _ + 1, [x] => [x]
  | n + 1, x :: y :: r => if y.1 = (x.1 + 64) % 2 ^ 48 then x :: takeRun n (y :: r) else [x]

/-- R341: the header of the MSG that carries lines received by lane l. -/
def State.bridgeHdr (s : State) (l count lines owner : Nat) : Header :=
  hset (hset (hset (hset (hset (hset 0 hDST (s.fget (rLANE_FAB_CFG l) fLANE_FAB_CFG_DEST)) hTYPE tMSG) hLINES lines) hSTALL owner) hQOS 1)
    hADDR (2 ^ 62 + l % 40 * 2 ^ 56 + count)

/-- R341: the bridge sends the lines it holds, at most four, as one MSG; a MSG whose DEST the owner does not claim is discarded and counted. -/
def State.bridgeSend (s : State) (l : Nat) : State :=
  let x := s.lane l
  let run := takeRun 4 x.rx
  match s.laneOwner l, run with
  | some n, (c, _) :: _ =>
    if 16 ≤ x.msgs then s
    else
      let s1 := s.setLane l { x with rx := x.rx.drop run.length }
      let dest := s.fget (rLANE_FAB_CFG l) fLANE_FAB_CFG_DEST
      if (s.stall n).ports.contains dest && isFabricPort dest then
        (s1.setLane l { s1.lane l with msgs := x.msgs + 1 }).sendReq (0x180 + l / 40) (s.bridgeHdr l c run.length n)
          (run.map (fun y => (y.2, false))) (.lane l)
      else s1.fadd (rFAB_STAT l) fFAB_STAT_RX_DROP run.length
  | _, _ => s

/-- LANE_BRIDGE_RX_SEND (R341): lines are received; four packed lines leave as a MSG. -/
def State.bridgeRx (s : State) (l : Nat) (lines : List (BitVec 512)) : State :=
  let s1 := s.bridgeReceive l lines
  if 4 ≤ (s1.lane l).rx.length then s1.bridgeSend l else s1

/-- LANE_BRIDGE_RX_TIMER (R341): 200 ns after the first bit of the oldest held line the bridge sends the lines it holds. -/
def State.bridgeTimer (s : State) (l : Nat) (lines : List (BitVec 512)) : State := (s.bridgeReceive l lines).bridgeSend l

/-- The bridge's MSG is answered. -/
def State.bridgeRsp (s : State) (l : Nat) : State := s.setLane l { s.lane l with msgs := (s.lane l).msgs - 1 }

/-- R340: whether a MSG is for the lane bridge, and the lane it names. -/
def bridgeMsg (e : Nat) (h : Header) : Option Nat :=
  if isPciePort e && decide (hget h hADDR / 2 ^ 62 = 1) then some (hget h hADDR / 2 ^ 56 % 64) else none

/-- R340: the bridge's answer to a MSG for lane ll of PCIE_f's ford: none while the buffer lacks room. -/
def State.bridgeStatus (s : State) (e : Nat) (h : Header) (ll : Nat) : Option Nat :=
  let l := 40 * (e - 0x180) + ll
  if 39 < ll ∨ hget h hADDR % 2 ^ 56 ≠ 0 ∨ s.laneProto l ≠ prFABRIC ∨ hget h hTYPE ≠ tMSG ∨ hget h hLINES = 0 ∨ 4 < hget h hLINES then
    some stBAD_ADDR
  else if hget h hDEV = 1 ∨ s.laneOwner l ≠ some (hget h hSTALL) then some stREFUSED_OWNER
  else if 1024 < (s.lane l).tx.length + hget h hLINES then none
  else some stOK

/-- R340: the lines of an accepted MSG enter the transmit buffer, which is empty while the owner is not LIVE (R342). -/
def State.bridgeTake (s : State) (l : Nat) (lines : List (BitVec 512)) : State :=
  if s.laneLive l then s.setLane l { s.lane l with tx := (s.lane l).tx ++ lines } else s

/-- R340: 1 ns of transmission of every FABRIC lane that is UP: a line leaves the buffer, or a line's worth of idle pattern is counted; after THERM_TRIP every
transmitter is in electrical idle (R486). (DESIGN CHOICE, assumption 154) -/
def State.laneTick (s : State) : State :=
  if s.clk.trip then s
  else (List.range 160).foldl (fun t l =>
    if t.laneProto l = prFABRIC ∧ t.stage l = sgUP then
      let x := t.lane l
      let bits := x.txBits + t.fget (rLANE_FAB_CFG l) fLANE_FAB_CFG_RATE_MBPS
      if bits < 512000 then t.setLane l { x with txBits := bits }
      else
        match x.tx with
        | d :: ds => (t.setLane l { x with txBits := bits - 512000, tx := ds }).emit (.laneLine l d)
        | [] => (t.setLane l { x with txBits := bits - 512000 }).finc (rFAB_STAT l) fFAB_STAT_TX_IDLE
    else t) s

end Sys2Proof.Machine
end

