-- ==== Sys2Proof/Machine/Engines.lean ====
section
/-! DEFINITION. The Eddy engines of the device: run-state commands (R129–R134), bundle issue with its exceptions and counters (R99, R124–R127),
locks (R119–R122), the memory port (R135–R137), streams (R142–R148) and engine-port transfers (R149–R152). -/

namespace Sys2Proof.Machine

/-- The engines replaced. -/
def State.setEddies (s : State) (es : SMap Eddy) : State := { s with eddies := es }

/-- R129: the stopped states. -/
def Eddy.isStopped (e : Eddy) : Bool := decide (e.run = .stopped) || decide (e.run = .done) || decide (e.run = .faulted)

/-- R13, R142: the shed that engine n borders. -/
def engineShed (n : Nat) : Nat := 48 * (n / 64) + n % 8 / 2

/-- R143: whether the fabric side of an engine's stream ports is connected. -/
def State.streamConnected (s : State) (n : Nat) : Bool :=
  match (s.eddy n).owner with
  | some t => decide (s.shedOwner (engineShed n) = some t) && decide (s.stallState t = stLIVE) && !s.gated (engineShed n)
  | none => false

/-- R148: whether SPUT meets a full capture queue. -/
def State.capFull (s : State) (n : Nat) : Bool :=
  s.flag (rSTREAM_CTL n) fSTREAM_CTL_OUT_DST && decide (8 ≤ (s.eddy n).queues.capQ.length)

/-! ### Bundle issue -/

/-- R124, R127: an exception recorded in EDDY_EXC and EDDY_EXC_INFO; the slot is a free value where the spec gives none. (DESIGN CHOICE, assumption 37) -/
def State.recordExc (s : State) (n : Nat) (x : Exc) (pc : Nat) (excIrq : Bool) : State :=
  if s.flag (rEDDY_EXC n) fEDDY_EXC_VALID then s
  else
    let slot := x.slot.getD (s.freeNat 2)
    let s1 := if x.slot.isNone then s.useFree else s
    let s2 := (s1.wr32 (rEDDY_EXC n) (2 ^ 31 + x.cause % 32 * 2 ^ 26 + slot % 4 * 2 ^ 24 + pc % 2048)).wr32 (rEDDY_EXC_INFO n) x.info
    if excIrq then s2.irq (PageKind.eddy.addr n) 0 else s2

/-- R116: corrected words counted at their memories. (DEDUCED, assumption 43) -/
def State.countCorr (s : State) : Corrections → State
  | [] => s
  | (m, k) :: cs => State.countCorr (s.fadd (rEDDY_DMEM_CORR m) fEDDY_DMEM_CORR_DMEM_CORR k) cs

/-- R311: array cycles in RUNNING, metered. -/
def State.meterCycles (s : State) (n k : Nat) : State :=
  match (s.eddy n).owner with
  | some t => { s with tally := s.tally.count 1 n t k }
  | none => s

/-- Whether a stop or a halt waits at this bundle boundary: one is requested and no lock is held (R131, R449). -/
def Eddy.boundaryDue (e : Eddy) : Bool := (e.issue.stopReq || e.issue.haltReq) && e.issue.held.isNone

/-- One cycle of engine n in which its due bundle issues, waits or raises an exception. (DESIGN CHOICE, assumption 35) -/
def State.issueEngine (s : State) (n : Nat) (env : IssueEnv) : State × Issued :=
  let e := s.eddy n
  if e.run ≠ .running ∨ e.boundaryDue then (s, .idle)
  else
    let b := e.bundle
    let corr := bundleCorrections s.eddies n env b
    let r := issueCycle s.eddies n env (s.capFull n)
    let s1 := (s.setEddies r.1).meterCycles n 1
    let s2 := if env.pmemErr = 1 then s1.finc (rEDDY_DMEM_CORR n) fEDDY_DMEM_CORR_PMEM_CORR else s1
    match r.2 with
    | .excepts x pc => (s2.recordExc n x pc e.issue.excIrq, r.2)
    | .issues _ _ isDone =>
      let s3 := s2.countCorr corr
      (if isDone then s3.irq (PageKind.eddy.addr n) 1 else s3, r.2)
    | _ => (s2, r.2)

/-- R122: whether the hold time of engine n has reached LOCK_LIMIT at this cycle. (DEDUCED, assumption 38) -/
def State.lockDue (s : State) (n : Nat) : Bool :=
  let i := (s.eddy n).issue
  i.held.isSome && decide (max i.lockLimit 16 ≤ i.holdCount)

/-- R140: whether WDOG_CNT of engine n reaches 0 in this cycle. (DEDUCED, assumption 38) -/
def State.wdogDue (s : State) (n : Nat) : Bool :=
  let i := (s.eddy n).issue
  decide (i.wdogLimit ≠ 0) && decide (i.wdog ≤ 1)

/-- LOCK_GRANT (R119): the memory of engine m goes to the next contender in round-robin order. (DEDUCED, assumption 45) -/
def State.lockGrant (s : State) (m : Nat) : State :=
  let t := s.eddy m
  if t.lockedBy.isSome then s
  else
    let want := fun k => decide ((s.eddy k).run = .running) && decide ((s.eddy k).issue.lockReq = some m) && (s.eddy k).issue.held.isNone
    let order := ((List.range 5).map (fun r => regionEngine m r)).filterMap (fun x => x)
    let cands := order.filter want
    let pick := match cands.find? (fun k => decide (t.lockNext ≤ k)) with
      | some k => some k
      | none => cands.head?
    match pick with
    | none => s
    | some k =>
      let s1 := s.setEddy m { t with lockedBy := some k, lockNext := k + 1 }
      let e := s1.eddy k
      s1.setEddy k { e with issue := { e.issue with held := some m, holdCount := 0 } }

/-! ### Run-state commands (R130–R132, R139) -/

/-- START (R130): accepted in a stopped state. -/
def State.engineStart (s : State) (n : Nat) : State :=
  s.setEddy n { s.eddy n with issue := { (s.eddy n).issue with startReq := true } }

/-- START_EXECUTE (R130): once no transfer is outstanding. -/
def State.startExecute (s : State) (n : Nat) : State :=
  let e := s.eddy n
  if !e.issue.startReq || !e.isStopped || !e.xfers.isEmpty then s
  else
    let cfg := s.rd32 (rEDDY_CFG n)
    s.setEddy n (startEngine e (s.fget (rEDDY_START_PC n) fEDDY_START_PC_PC) (fEDDY_CFG_LOCK_LIMIT.get cfg) (s.rd32 (rEDDY_WDOG_LIMIT n))
      (decide (fEDDY_CFG_ROUND_COMPAT.get cfg = 1)) (decide (fEDDY_CFG_EXC_IRQ.get cfg = 1)))

/-- STOP (R131): while RUNNING, an end of issue is requested. -/
def State.engineStop (s : State) (n : Nat) : State :=
  let e := s.eddy n
  if e.run = .running then s.setEddy n { e with issue := { e.issue with stopReq := true } } else s

/-- STOP_TAKES_EFFECT (R131). -/
def State.stopEffect (s : State) (n : Nat) : State :=
  let e := s.eddy n
  if e.run = .running ∧ e.issue.stopReq ∧ e.issue.held.isNone then
    (s.setEddy n { e with run := .stopped, issue := { e.issue with stopReq := false, waiting := false, lockReq := none } }).irq
      (PageKind.eddy.addr n) 2
  else s

/-- The watchdog reloaded from EDDY_WDOG_LIMIT (R139). -/
def State.reloadWdog (s : State) (n : Nat) : State :=
  let e := s.eddy n
  let l := s.rd32 (rEDDY_WDOG_LIMIT n)
  s.setEddy n { e with issue := { e.issue with wdog := l, wdogLimit := l } }

/-- RESUME (R132): accepted in STOPPED and DONE. -/
def State.engineResume (s : State) (n : Nat) : State :=
  (s.setEddy n { s.eddy n with run := .running, issue := { (s.eddy n).issue with startReq := false, stopReq := false } }).reloadWdog n

/-- KICK (R139). -/
def State.engineKick (s : State) (n : Nat) : State := if (s.eddy n).run = .running then s.reloadWdog n else s

/-- R130–R132, R139: a write of `v` to EDDY_RUN. -/
def State.eddyRun (s : State) (req : Req) (n v : Nat) : State :=
  let e := s.eddy n
  let bad := fun (t : State) => t.refuse req (rEDDY_RUN n) causeRule
  let s1 :=
    if 1 < popCount 3 (v % 8) then bad s
    else if v.testBit 0 then (if e.isStopped then s.engineStart n else bad s)
    else if v.testBit 1 then s.engineStop n
    else if v.testBit 2 then (if e.run = .stopped ∨ e.run = .done then s.engineResume n else bad s)
    else s
  if v.testBit 3 then s1.engineKick n else s1

/-- EDDY_STAT. -/
def State.eddyStat (s : State) (n : Nat) : Nat :=
  let e := s.eddy n
  e.pc % 2048 * 2 ^ 16 + e.bgState % 8 * 2 ^ 13 + b2n e.liveB * 2 ^ 12 + b2n (e.issue.waiting && decide (e.run = .running)) * 2 ^ 8 +
    min 8 e.xfers.length * 2 ^ 4 + b2n e.issue.held.isSome * 2 ^ 3 + e.run.code

/-- EDDY_WDOG_CNT (R138). -/
def State.wdogCnt (s : State) (n : Nat) : Nat :=
  let i := (s.eddy n).issue
  if i.wdogLimit = 0 then 0 else i.wdog

/-! ### The memory port (R135–R137) -/

/-- The word index after a write to EDDY_MEM_DATA, with WRAPPED (R135). -/
def State.memAdvance (s : State) (n : Nat) : State :=
  let a := s.rd32 (rEDDY_MEM_ADDR n)
  let last := if fEDDY_MEM_ADDR_SPACE.get a = 1 then 8191 else 32767
  let w := fEDDY_MEM_ADDR_WORD.get a
  if fEDDY_MEM_ADDR_AUTOINC.get a = 1 then
    if w = last then (s.fset (rEDDY_MEM_ADDR n) fEDDY_MEM_ADDR_WORD 0).fset (rEDDY_MEM_ADDR n) fEDDY_MEM_ADDR_WRAPPED 1
    else s.fset (rEDDY_MEM_ADDR n) fEDDY_MEM_ADDR_WORD (w + 1)
  else s

/-- The live program bank replaced. -/
def Eddy.setProg (e : Eddy) (p : SMap (BitVec 128)) : Eddy := if e.liveB then { e with progB := p } else { e with progA := p }

/-- R136: word `w` of program memory written into the staging bundle; a write to word 3 commits it. -/
def Eddy.progWrite (e : Eddy) (w v : Nat) : Eddy :=
  let b := w / 4
  let staged : SMap Nat := match e.stage with
    | some (b', m) => if b' = b then m else []
    | none => []
  let staged := smPut (w % 4) v staged
  if w % 4 = 3 then
    let old := (smGet (0 : BitVec 128) e.prog b).toNat
    let word := fun k => smGet (old / 2 ^ (32 * k) % 2 ^ 32) staged k
    { e.setProg (smSet 0 e.prog b (BitVec.ofNat 128 (word 0 + word 1 * 2 ^ 32 + word 2 * 2 ^ 64 + word 3 * 2 ^ 96))) with stage := none }
  else { e with stage := some (b, staged) }

/-- EDDY_MEM_DATA_WRITE (R135–R137). `upset` is the bits flipped in the other half of the 64-bit word. (DEDUCED, assumption 48; DESIGN CHOICE, assumption 49) -/
def State.memDataWrite (s : State) (req : Req) (n v upset : Nat) : State :=
  let e := s.eddy n
  let a := s.rd32 (rEDDY_MEM_ADDR n)
  let w := fEDDY_MEM_ADDR_WORD.get a
  let bad := s.refuse req (rEDDY_MEM_DATA n) causeRule
  if fEDDY_MEM_ADDR_SPACE.get a = 1 then
    if 8191 < w ∨ ¬ (e.isStopped ∨ e.run = .off) then bad
    else (s.setEddy n (e.progWrite w v)).memAdvance n
  else if e.run = .off then bad
  else if e.lockedBy.isSome then s
  else if 2 ≤ popCount 32 upset then (s.fset (rEDDY_MEM_ADDR n) fEDDY_MEM_ADDR_MEM_ERR 1).memAdvance n
  else
    let s1 := if popCount 32 upset = 1 then s.finc (rEDDY_DMEM_CORR n) fEDDY_DMEM_CORR_DMEM_CORR else s
    (s1.setEddy n { e with data := smSet 0 e.data w (BitVec.ofNat 32 v) }).memAdvance n

/-- The value EDDY_MEM_DATA_READ returns. -/
def State.memDataValue (s : State) (n upset : Nat) : Nat :=
  let e := s.eddy n
  let a := s.rd32 (rEDDY_MEM_ADDR n)
  let w := fEDDY_MEM_ADDR_WORD.get a
  if fEDDY_MEM_ADDR_SPACE.get a = 1 then
    if 8191 < w then 0 else (smGet (0 : BitVec 128) e.prog (w / 4)).toNat / 2 ^ (32 * (w % 4)) % 2 ^ 32
  else if e.run = .off then 0
  else
    let v := (smGet (0 : BitVec 32) e.data w).toNat
    if 2 ≤ popCount 64 upset then Nat.xor v (upset / 2 ^ (32 * (w % 2)) % 2 ^ 32) else v

/-- EDDY_MEM_DATA_READ (R135–R137): its effect on the state. `upset` is the bits flipped in the 64-bit word. (DEDUCED, assumption 48) -/
def State.memDataRead (s : State) (req : Req) (n upset : Nat) : State :=
  let e := s.eddy n
  let a := s.rd32 (rEDDY_MEM_ADDR n)
  let bad := s.refuse req (rEDDY_MEM_DATA n) causeRule
  if fEDDY_MEM_ADDR_SPACE.get a = 1 then (if 8191 < fEDDY_MEM_ADDR_WORD.get a then bad else s)
  else if e.run = .off then bad
  else if 2 ≤ popCount 64 upset then s.fset (rEDDY_MEM_ADDR n) fEDDY_MEM_ADDR_MEM_ERR 1
  else if popCount 64 upset = 1 then s.finc (rEDDY_DMEM_CORR n) fEDDY_DMEM_CORR_DMEM_CORR
  else s

/-! ### Streams (R142–R148) -/

/-- The queues of an engine replaced. -/
def State.setQueues (s : State) (n : Nat) (q : EddyQueues) : State := s.setEddy n { s.eddy n with queues := q }

/-- The stream transfers of one direction (OP 2 in, 3 out) that have begun end with ABORTED (Table EDP-3). -/
def Eddy.abortStreams (e : Eddy) (op : Nat) : Eddy :=
  { e with xfers := e.xfers.map (fun x => if x.raw % 8 = op ∧ x.begun ∧ x.status = .pending then { x with status := .aborted } else x) }

/-- STREAM_FLUSH_IN (R144). -/
def State.flushStreamIn (s : State) (n : Nat) : State :=
  let q := (s.eddy n).queues
  let s1 := s.setQueues n { q with inQ := [], stimQ := [], stim := 0 }
  s1.setEddy n ((s1.eddy n).abortStreams 2)

/-- STREAM_FLUSH_OUT (R144). -/
def State.flushStreamOut (s : State) (n : Nat) : State :=
  let q := (s.eddy n).queues
  let s1 := s.setQueues n { q with outQ := [], capQ := [] }
  s1.setEddy n ((s1.eddy n).abortStreams 3)

/-- CAP_POP (R148). -/
def State.capPop (s : State) (n : Nat) : State :=
  let q := (s.eddy n).queues
  s.setQueues n { q with capQ := q.capQ.tail }

/-- R144, R146, R148: a write of `v` to STREAM_CTL. A poke changes a source while HALTED too (R455). -/
def State.streamCtl (s : State) (req : Req) (n v : Nat) : State :=
  let e := s.eddy n
  let old := s.rd32 (rSTREAM_CTL n) % 4
  let s1 :=
    if v % 4 = old then s
    else if e.isStopped ∨ e.run = .off ∨ (e.run = .halted ∧ req.src.1 = 7) then s.wr32 (rSTREAM_CTL n) (v % 4)
    else s.refuse req (rSTREAM_CTL n) causeRule
  let s2 := if v.testBit 8 then s1.flushStreamIn n else s1
  let s3 := if v.testBit 9 then s2.flushStreamOut n else s2
  if v.testBit 10 then s3.capPop n else s3

/-- STIM_IN_WRITE (R147). -/
def State.stimWrite (s : State) (req : Req) (n k v : Nat) : State :=
  let q := (s.eddy n).queues
  let w := BitVec.ofNat 256 (putBits q.stim.toNat (32 * k) 32 v)
  if k = 7 then
    if q.stimQ.length < 8 then s.setQueues n { q with stimQ := q.stimQ ++ [w], stim := 0 }
    else (s.setQueues n { q with stim := w }).refuse req (rSTIM_IN n 7) causeRule
  else s.setQueues n { q with stim := w }

/-- STREAM_IN_WORD (R142, R146): a word enters the input queue: `w` from the fabric, or the head of the stimulus queue. -/
def State.streamInWord (s : State) (n : Nat) (w : BitVec 256) : State :=
  let q := (s.eddy n).queues
  if 16 ≤ q.inQ.length then s
  else if s.flag (rSTREAM_CTL n) fSTREAM_CTL_IN_SRC then
    match q.stimQ with
    | [] => s
    | x :: xs => s.setQueues n { q with inQ := q.inQ ++ [x], stimQ := xs }
  else if s.streamConnected n then s.setQueues n { q with inQ := q.inQ ++ [w] } else s

/-- STREAM_OUT_WORD (R143, R146): a word leaves the output queue for the fabric or the capture queue. (DEDUCED, assumption 50) -/
def State.streamOutWord (s : State) (n : Nat) : State :=
  let q := (s.eddy n).queues
  match q.outQ with
  | [] => s
  | x :: xs =>
    if s.flag (rSTREAM_CTL n) fSTREAM_CTL_OUT_DST then
      if q.capQ.length < 8 then s.setQueues n { q with outQ := xs, capQ := q.capQ ++ [x] } else s
    else if s.streamConnected n then (s.setQueues n { q with outQ := xs }).emit (.streamWord n x) else s

/-- STREAM_STAT. -/
def State.streamStat (s : State) (n : Nat) : Nat :=
  let q := (s.eddy n).queues
  q.capQ.length * 2 ^ 24 + q.stimQ.length * 2 ^ 16 + q.outQ.length * 2 ^ 8 + q.inQ.length

/-- CAP_OUT_k (R148). -/
def State.capOut (s : State) (n k : Nat) : Nat :=
  match (s.eddy n).queues.capQ with
  | [] => 0
  | x :: _ => x.toNat / 2 ^ (32 * k) % 2 ^ 32

/-! ### Engine-port transfers (R149–R152) -/

/-- A 32-bit word of a descriptor. -/
def Xfer.word (x : Xfer) (k : Nat) : Nat := x.raw / 2 ^ (32 * k) % 2 ^ 32

/-- OP. -/
def Xfer.op (x : Xfer) : Nat := x.word 0 % 8

/-- LINES. -/
def Xfer.lines (x : Xfer) : Nat := x.word 0 / 2 ^ 16 % 2 ^ 12

/-- LOCAL. -/
def Xfer.loc (x : Xfer) : Nat := x.word 1

/-- REMOTE. -/
def Xfer.remote (x : Xfer) : Nat := x.word 4 + x.word 5 * 2 ^ 32

/-- R150: whether the engine refuses the descriptor. -/
def Xfer.badDesc (x : Xfer) : Bool :=
  decide (x.word 0 / 2 ^ 28 ≠ 0) || decide (x.word 0 / 2 ^ 5 % 2 ^ 11 ≠ 0) || decide (4 ≤ x.op) ||
  decide (x.loc % 64 ≠ 0) || decide (x.loc / 2 ^ 17 ≠ 0) || decide (x.word 2 / 2 ^ 10 ≠ 0) || decide (x.word 3 ≠ 0) ||
  (decide (x.op < 2) && decide (x.remote % 64 ≠ 0)) || decide (x.lines = 0) || decide (2048 < x.lines) ||
  decide (2 ^ 17 < x.loc + 64 * x.lines)

/-- A transfer of an engine replaced. -/
def State.setXfer (s : State) (n i : Nat) (x : Xfer) : State := s.setEddy n { s.eddy n with xfers := listSet (s.eddy n).xfers i x }

/-- TRANSFER_BEGIN (R150, R152): the first queued transfer that has not begun, in XREQ order. -/
def State.transferBegin (s : State) (n : Nat) : State :=
  match (s.eddy n).xfers.findIdx? (fun x => !x.begun) with
  | none => s
  | some i =>
    match (s.eddy n).xfers[i]? with
    | none => s
    | some x =>
      s.setXfer n i { x with begun := true, status := if x.descBad then .dmemUncorr else if x.badDesc then .badDesc else .pending }

/-- Whether an earlier stream transfer of the same direction is outstanding (R152). -/
def Eddy.streamBehind (e : Eddy) (i op : Nat) : Bool := (e.xfers.take i).any (fun x => decide (x.op = op))

/-- The header of a Millrace packet of a transfer's line. (DESIGN CHOICE, assumption 46) -/
def xferHdr (x : Xfer) (k : Nat) (type : Nat) : Header :=
  hset (hset (hset (hset (hset (hset 0 hDST (x.word 2 % 1024)) hTYPE type) hLINES 1) hORD (x.word 0 / 8 % 2)) hADDR (x.remote + 64 * k))
    hBE (if type = tWR then 2 ^ 64 - 1 else 0)

/-- A packet queued at the engine port of engine n. -/
def State.enginePacket (s : State) (n : Nat) (h : Header) (flits : List (BitVec 512 × Bool)) (o : Origin) : State :=
  s.useFree.pushIn (0xC0 + n / 4) { mkPkt (s.reqHdr h) flits .inQ false o with eng := some (n % 4) }

/-- A 64-byte line of data memory. -/
def Eddy.lineAt (e : Eddy) (a : Nat) : BitVec 512 := BitVec.ofNat 512 (readData e.data (a / 4) 16)

/-- TRANSFER_LINE (R142, R150, R151): one line of transfer i of engine n moves. `upsets` are the bits flipped in data-memory words. A locked
data memory gives the external path no access (R120). (DESIGN CHOICE, assumption 46) -/
def State.transferLine (s : State) (n i : Nat) (upsets : List (Nat × Nat × Nat)) : State :=
  let e := s.eddy n
  match e.xfers[i]? with
  | none => s
  | some x =>
    let at_ := x.loc + 64 * x.moved
    let out := x.loc + 64 * x.sent
    if !x.begun || decide (e.lockedBy.isSome) then s
    else if x.op = 0 then
      match x.got with
      | (k, v, poison) :: rest =>
        if poison then s.setXfer n i { x with got := rest }
        else
          let s1 := s.setXfer n i { x with got := rest, moved := x.moved + 1 }
          s1.setEddy n { s1.eddy n with data := writeData (s1.eddy n).data ((x.loc + 64 * k) / 4) (wordsOf 16 v) }
      | [] =>
        if (x.status = .pending ∨ x.status = .poisoned) ∧ x.sent < x.lines ∧ (s.qLevel ((s.ep (0xC0 + n / 4)).reqIn) < 32) then
          (s.setXfer n i { x with sent := x.sent + 1 }).enginePacket n (xferHdr x x.sent tRD) [] (.engine n x.desc x.sent 1)
        else s
    else if x.status ≠ .pending then s
    else if x.op = 1 then
      if x.lines ≤ x.sent ∨ 31 ≤ s.qLevel ((s.ep (0xC0 + n / 4)).reqIn) then s
      else if anyDouble upsets n (out / 8) 8 then s.setXfer n i { x with status := .dmemUncorr }
      else
        ((s.setXfer n i { x with sent := x.sent + 1 }).fadd (rEDDY_DMEM_CORR n) fEDDY_DMEM_CORR_DMEM_CORR
          (countSingle upsets n (out / 8) 8)).enginePacket n (xferHdr x x.sent tWR) [(e.lineAt out, false)] (.engine n x.desc x.sent 1)
    else if x.lines ≤ x.moved ∨ e.streamBehind i x.op then s
    else if x.op = 2 then
      match e.queues.inQ with
      | a :: b :: q =>
        let s1 := (s.setXfer n i { x with moved := x.moved + 1 }).setQueues n { e.queues with inQ := q }
        s1.setEddy n { s1.eddy n with data := writeData (s1.eddy n).data (at_ / 4) (wordsOf 16 (a.toNat + b.toNat * 2 ^ 256)) }
      | _ => s
    else
      if 14 < e.queues.outQ.length then s
      else if anyDouble upsets n (at_ / 8) 8 then s.setXfer n i { x with status := .dmemUncorr }
      else
        let v := (e.lineAt at_).toNat
        (((s.setXfer n i { x with moved := x.moved + 1 }).setQueues n
          { e.queues with outQ := e.queues.outQ ++ [BitVec.ofNat 256 v, BitVec.ofNat 256 (v / 2 ^ 256)] }).fadd (rEDDY_DMEM_CORR n)
          fEDDY_DMEM_CORR_DMEM_CORR (countSingle upsets n (at_ / 8) 8))

/-- Table MIL-9: the transfer status that a completion's STATUS gives. -/
def xferStatusOf (st : Nat) : XStatus :=
  if st = stOK then .ok
  else if st = stPOISONED then .poisoned
  else if st = stUNREACHABLE ∨ st = stBAD_DEST ∨ st = stTIMEOUT then .unreachable
  else .refused

/-- The completion of a packet of a transfer, handed to the engine: lines received, or lines written (R151, R187). (DEDUCED, assumption 47) -/
def State.engineRsp (s : State) (n desc line : Nat) (h : Header) (flits : List (BitVec 512 × Bool)) : State :=
  match (s.eddy n).xfers.findIdx? (fun x => decide (x.desc = desc) && x.begun && decide (x.answered < x.sent)) with
  | none => s
  | some i =>
    match (s.eddy n).xfers[i]? with
    | none => s
    | some x =>
      let st := xferStatusOf (hget h hSTATUS)
      let worse := fun (c : XStatus) (new : XStatus) => if c = .pending ∨ (c = .poisoned ∧ new ≠ .poisoned) then new else c
      let x1 := { x with answered := x.answered + 1 }
      if x.op = 0 then
        match flits with
        | (d, p) :: _ =>
          s.setXfer n i { x1 with got := x1.got ++ [(line, d.toNat, p)], status := if p then worse x.status .poisoned else x.status }
        | [] => s.setXfer n i { x1 with status := if st = .ok then x.status else worse x.status st }
      else s.setXfer n i { x1 with moved := if st = .ok then x.moved + 1 else x.moved, status := if st = .ok then x.status else worse x.status st }

/-- R151: whether a transfer has ended: nothing more of it will move. (DEDUCED, assumption 47) -/
def Xfer.ended (x : Xfer) : Bool :=
  x.begun && decide (x.answered = x.sent) && x.got.isEmpty &&
    (match x.status with
     | .pending => if x.op < 2 then decide (x.sent = x.lines) else decide (x.moved = x.lines)
     | .poisoned => decide (x.sent = x.lines)
     | _ => true)

/-- TRANSFER_COMPLETE (R151, R152): transfer i of engine n writes its final STATUS. -/
def State.transferComplete (s : State) (n i : Nat) (upsets : List (Nat × Nat × Nat)) : State :=
  let e := s.eddy n
  match e.xfers[i]? with
  | none => s
  | some x =>
    if !x.ended || e.lockedBy.isSome || (decide (2 ≤ x.op) && decide (x.op < 4) && e.streamBehind i x.op) then s
    else
      let st := if x.status = .pending then XStatus.ok else x.status
      let r := writeStatus upsets n e x.desc (st.code + x.moved * 2 ^ 16)
      let s1 := s.setEddy n { r.1 with xfers := listDrop r.1.xfers i }
      if st = .ok ∧ r.2 then s1
      else
        let s2 := (s1.finc (rXPORT_ERR n) fXPORT_ERR_COUNT).irq (PageKind.eddy.addr n) 3
        let e2 := s2.eddy n
        if (x.descBad ∨ x.word 0 / 16 % 2 = 1) ∧ e2.run = .running then
          s2.setEddy n { e2 with issue := { e2.issue with xport := some x.desc } }
        else s2

/-! ### Cycles that pass (R134, R138, R122) -/

/-- One array cycle of every RUNNING engine in which no bundle issues. -/
def State.idleCycle (s : State) : State :=
  s.eddies.foldl (fun t x =>
    if x.2.run = .running then
      let t1 := t.setEddies (settlePosted t.eddies x.1)
      (t1.setEddy x.1 (cycleEngine (t1.eddy x.1))).meterCycles x.1 1
    else t) s

/-- Posted stores go on being written whatever the run state (R131, R133). -/
def State.drainAll (s : State) : State := s.eddies.foldl (fun t x => t.setEddies (settlePosted t.eddies x.1)) s

end Sys2Proof.Machine
end

