-- ==== Sys2Proof/Machine/Debug.lean ====
section
/-! DEFINITION. Debug and trace: grants and what they cover (R439–R443), halts, steps and engine state (R446–R450), watchpoints (R451), fabric
capture (R452, R453) and trace rings (R454). -/

namespace Sys2Proof.Machine

/-! ### Grants (R439–R443) -/

/-- The debug view a requester uses: 0–3 host, 4 manager path, 5 JTAG. -/
def Req.view : Req → Option Nat
  | .host n => some n
  | .mgr => some 4
  | .jtag => some 5
  | _ => none

/-- The level of a view's grant. -/
def State.grantLevel (s : State) (v : Nat) : Nat :=
  let w := s.rd32 (rDBG_GRANT v)
  if fDBG_GRANT_VALID.get w = 1 then fDBG_GRANT_LEVEL.get w else 0

/-- R439, R443: whether a view's grant covers a stall, or an engine no stall claims, at a level. -/
def State.covers (s : State) (v : Nat) (n : Option Nat) (lvl : Nat) : Bool :=
  let l := s.grantLevel v
  decide (l = 3) || (decide (lvl ≤ l) && (match n with | some n => (s.rd32 (rDBG_STALLS v)).testBit n | none => false))

/-- The same for a requester: a debug access with the subject DEVICE is covered, one with a stall as its subject reaches no debug page. -/
def State.reqCovers (s : State) (req : Req) (n : Option Nat) (lvl : Nat) : Bool :=
  match req with
  | .tolmor => true
  | .dbgDevice => true
  | _ => match req.view with | some v => s.covers v n lvl | none => false

/-- The ring frees: EN = 0 and its entries are gone. (DESIGN CHOICE, assumption 185) -/
def State.ringFree (s : State) (r : Nat) : State :=
  ((s.setDbg { s.dbg with rings := smDel r s.dbg.rings, ringView := smDel r s.dbg.ringView }).fset (rRING_CTL r) fRING_CTL_EN 0).fset
    (rRING_STAT r) fRING_STAT_LEVEL 0

/-- The stall of an engine has an event of the engine for its rings. -/
def State.traceEngine (s : State) (m kind pc wp addr data : Nat) : State :=
  match (s.eddy m).owner with
  | some n => s.trace n (traceEntry kind 0 m pc wp addr data)
  | none => s

/-- Whether an engine's stall is LIVE. -/
def State.engineLive (s : State) (m : Nat) : Bool :=
  match (s.eddy m).owner with | some n => decide (s.stallState n = stLIVE) | none => false

/-- R448: a HALTED engine returns to RUNNING, to halt again after `steps` bundles where that is not 0; its watchdog count is raised to 1 024. The
engine of a stall that is no longer LIVE comes to STOPPED. -/
def State.releaseEngine (s : State) (m steps : Nat) : State :=
  let e := s.eddy m
  if e.run ≠ .halted then s
  else
    let wd := if e.issue.wdogLimit ≠ 0 ∧ e.issue.wdog < 1024 then 1024 else e.issue.wdog
    let s1 := s.setEddy m { e with
      run := if s.engineLive m then .running else .stopped
      issue := { e.issue with wdog := wd, stepLeft := steps, haltReq := false, stopReq := false } }
    (((s1.setDbg { s1.dbg with halter := smDel m s1.dbg.halter }).fset (rDBG_E_STAT m) fDBG_E_STAT_HALTED 0)).traceEngine m 3 e.pc 0 0 0

/-- R442: the engines that a view halted, or was about to halt, are let go. -/
def State.releaseAll (s : State) (v : Nat) : State :=
  let mine := (s.dbg.halter.filter (fun x => x.2 = v + 1)).map (fun x => x.1)
  let s1 := mine.foldl (fun t m =>
    if (t.eddy m).run = .halted then t.releaseEngine m 0
    else (t.setEddy m { t.eddy m with issue := { (t.eddy m).issue with haltReq := false, stepLeft := 0 } }).fset (rDBG_E_STAT m) fDBG_E_STAT_DEFER 0) s
  let s2 := s1.setDbg { s1.dbg with halter := smClear (fun m => mine.contains m) s1.dbg.halter,
                                     deferred := smClear (fun m => mine.contains m) s1.dbg.deferred }
  (List.range 512).foldl (fun t m => if t.fget (rDBG_E_STAT m) fDBG_E_STAT_VIEW = v then t.fset (rDBG_E_STAT m) fDBG_E_STAT_VIEW 7 else t) s2

/-- R442: a view's watchpoints are disarmed. -/
def State.disarmView (s : State) (v : Nat) : State :=
  let mine := (s.dbg.wpView.filter (fun x => x.2 = v + 1)).map (fun x => x.1)
  let s1 := mine.foldl (fun t k => t.fset (rWP_CFG (k / 4) (k % 4)) fWP_CFG_KIND 0) s
  s1.setDbg { s1.dbg with wpView := smClear (fun k => mine.contains k) s1.dbg.wpView, hits := smClear (fun k => mine.contains k) s1.dbg.hits }

/-- R442, R453: a view's capture areas are zeroed. -/
def State.zeroAreas (s : State) (v : Nat) : State :=
  let mine := fun sh => decide (smGet 0 s.dbg.areaView sh = v + 1)
  (s.setDbg { s.dbg with areas := smClear (fun k => mine (k / 8192)) s.dbg.areas, areaView := smClear mine s.dbg.areaView }).fset
    (rCAP_STAT v) fCAP_STAT_VALID 0

/-- R452: a capture stop of view v ends: the gates of the stall's sheds reopen while the stall is LIVE. -/
def State.captureEnd (s : State) (v : Nat) : State :=
  match smGet none s.dbg.caps v with
  | none => s
  | some c =>
    let n := c / 2
    let s1 := (s.setDbg { s.dbg with caps := smSet none s.dbg.caps v none }).fset (rCAP_STAT v) fCAP_STAT_STOPPED 0
    if s1.stallState n = stLIVE ∧ ¬ s1.captured n then (s1.shedsOf n).foldl (fun t sh => t.setGated sh false) s1 else s1

/-- R442: view v's grant ends. (DESIGN CHOICE, assumption 91) -/
def State.endGrant (s : State) (v : Nat) : State :=
  if s.flag (rDBG_GRANT v) fDBG_GRANT_VALID then
    let s1 := ((s.releaseAll v).captureEnd v).disarmView v
    let s2 := (List.range 8).foldl (fun t r => if smGet 0 t.dbg.ringView r = v + 1 then t.ringFree r else t) s1
    let s3 := (s2.zeroAreas v).fset (rCAP_CTL v) fCAP_CTL_ARM 0
    (((s3.wr32 (rDBG_GRANT v) 0).wr32 (rDBG_STALLS v) 0).wr64 (rDBG_NAFTER v) 0).irq (PageKind.dbgSess.addr v) 0
  else s

/-- R442: the grants that name stall n end: a swap strobe, DESTROY_STALL or DIE_LOST of it. A LEVEL 3 grant names no stall. -/
def State.endGrantsOf (s : State) (n : Nat) : State :=
  (List.range 6).foldl (fun t v => if (t.rd32 (rDBG_STALLS v)).testBit n then t.endGrant v else t) s

/-- GRANT_EXPIRE (R442): Tide has passed NOT_AFTER. -/
def State.grantExpire (s : State) (v : Nat) : State := if s.rd64 (rDBG_NAFTER v) < s.tide.now then s.endGrant v else s

/-- R441, R442: a new grant of view v replaces any earlier one. -/
def State.newGrant (s : State) (v level stalls notAfter : Nat) : State :=
  (((s.endGrant v).wr32 (rDBG_GRANT v) (2 ^ 31 + level % 4 * 2 ^ 29)).wr32 (rDBG_STALLS v) stalls).wr64 (rDBG_NAFTER v) notAfter

/-- R441: Tolmor writes a fresh value to DBG_NONCE. (DEDUCED, assumption 98; DESIGN CHOICE, assumption 99) -/
def State.newNonce (s : State) (v : Nat) : State := (s.wr64 (rDBG_NONCE v) (s.freeNat 64)).useFree

/-! ### Halts (R446–R450) -/

/-- Whether a halt of engine m is pending or in force. -/
def State.haltPending (s : State) (m : Nat) : Bool := (s.eddy m).issue.haltReq

/-- R446: a halt of a RUNNING engine is requested by view v; it is deferred while a lock is held (R449). -/
def State.haltAsk (s : State) (v m : Nat) : State :=
  let e := s.eddy m
  if e.run = .running ∧ s.engineLive m then
    let s1 := s.setEddy m { e with issue := { e.issue with haltReq := true } }
    let s2 := s1.setDbg { s1.dbg with halter := smSet 0 s1.dbg.halter m (v + 1) }
    if e.issue.held.isSome then s2.fset (rDBG_E_STAT m) fDBG_E_STAT_DEFER 1 else s2
  else s

/-- R446, R134: engine m enters HALTED; a STOP of the same boundary yields. (DEDUCED, assumption 182) -/
def State.enterHalted (s : State) (m : Nat) : State :=
  let e := s.eddy m
  let s1 := s.setEddy m { e with
    run := .halted
    issue := { e.issue with haltReq := false, stopReq := false, waiting := false, lockReq := none, stepLeft := 0 } }
  let s2 := s1.setDbg { s1.dbg with deferred := smDel m s1.dbg.deferred }
  ((((s2.fset (rDBG_E_STAT m) fDBG_E_STAT_HALTED 1).fset (rDBG_E_STAT m) fDBG_E_STAT_DEFER 0).irq (PageKind.dbgEddy.addr m) 0)).traceEngine m 2 e.pc 0 0 0

/-- ENGINE_HALT (R446): at a bundle boundary with no lock held a pending halt takes effect. -/
def State.engineHalt (s : State) (m : Nat) : State :=
  let e := s.eddy m
  if e.run = .running ∧ e.issue.haltReq ∧ e.issue.held.isNone then s.enterHalted m else s

/-- LOCK_BROKEN (R449): at cycle 256 of a deferral the lock is released and the engine halts. -/
def State.lockBroken (s : State) (m : Nat) : State :=
  let e := s.eddy m
  if e.run = .running ∧ e.issue.haltReq ∧ e.issue.held.isSome ∧ 256 ≤ smGet 0 s.dbg.deferred m then
    let s1 := s.setEddies (releaseLock s.eddies m)
    (((s1.fset (rDBG_E_STAT m) fDBG_E_STAT_LOCK_BROKEN 1).irq (PageKind.dbgEddy.addr m) 1).traceEngine m 6 e.pc 0 0 0).enterHalted m
  else s

/-- R446, R448: a write of `v` to DBG_E_CMD of engine m by a view. -/
def State.dbgCmd (s : State) (req : Req) (m v : Nat) : State :=
  let bad := fun (t : State) => t.refuse req (rDBG_E_CMD m) causeRule
  match req.view with
  | none => bad s
  | some w =>
    if !s.covers w (s.eddy m).owner 2 then bad s
    else
      let ctl := s.fget (rDBG_E_STAT m) fDBG_E_STAT_VIEW
      if ctl ≠ 7 ∧ ctl ≠ w then bad s
      else
        let s1 := s.fset (rDBG_E_STAT m) fDBG_E_STAT_VIEW w
        let op := fDBG_E_CMD_OP.get v
        let e := s1.eddy m
        if op = 1 then (if e.run = .running ∧ s1.engineLive m then s1.haltAsk w m else bad s1)
        else if op = 2 then s1.releaseEngine m 0
        else if op = 3 ∧ fDBG_E_CMD_COUNT.get v ≠ 0 then
          let s2 := s1.releaseEngine m (fDBG_E_CMD_COUNT.get v)
          if e.run = .halted then s2.setDbg { s2.dbg with halter := smSet 0 s2.dbg.halter m (w + 1) } else s2
        else s1

/-- R447: whether the engine's state is readable through DBG_E_DATA. -/
def Eddy.inspectable (e : Eddy) : Bool := e.isStopped || decide (e.run = .halted)

/-- Table DBG-4: the word that a selection of engine m's state reads. -/
def Eddy.selWord (m sel : Nat) (e : Eddy) : Nat :=
  let file := sel / 2 ^ 12 % 8
  let reg := sel / 2 ^ 7 % 32
  let word := sel % 64
  match file with
  | 0 => if reg < 16 then e.regs.getS reg else 0
  | 1 => (smGet (0 : BitVec 512) e.regs.v reg).toNat / 2 ^ (32 * (word % 16)) % 2 ^ 32
  | 2 => e.regs.p.toNat
  | 3 => if reg < 8 then readControl m e reg else 0
  | 4 => let l := e.regs.getAcc (reg % 4) / 2 ^ (48 * (word / 2)) % 2 ^ 48
         if word % 2 = 0 then l % 2 ^ 32 else l / 2 ^ 32
  | 5 => e.regs.tw.toNat / 2 ^ (32 * (word % 32)) % 2 ^ 32
  | 6 => e.pc
  | _ => 0

/-- Table DBG-4: a selection of an engine's state written. -/
def Eddy.selWrite (sel v : Nat) (e : Eddy) : Eddy :=
  let reg := sel / 2 ^ 7 % 32
  let word := sel % 64
  let g := e.regs
  match sel / 2 ^ 12 % 8 with
  | 0 => if reg < 16 then { e with regs := g.setS reg v } else e
  | 1 => { e with regs := g.putV reg (putBits (smGet (0 : BitVec 512) g.v reg).toNat (32 * (word % 16)) 32 v) }
  | 2 => { e with regs := { g with p := BitVec.ofNat 8 (v / 2 * 2 + 1) } }
  | 3 => { e with regs := writeControl g reg v }
  | 4 =>
    let a := g.getAcc (reg % 4)
    let a1 := if word % 2 = 0 then putBits a (48 * (word / 2)) 32 v else putBits a (48 * (word / 2) + 32) 16 v
    { e with regs := g.setAcc (reg % 4) a1 }
  | 5 => { e with regs := { g with tw := BitVec.ofNat 1024 (putBits g.tw.toNat (32 * (word % 32)) 32 v) } }
  | 6 => { e with pc := v % 2048 }
  | _ => e

/-- R447: a write of `v` to DBG_E_DATA. -/
def State.dbgDataWrite (s : State) (req : Req) (m v : Nat) : State :=
  let sel := s.rd32 (rDBG_E_REGSEL m)
  let bad := s.refuse req (rDBG_E_DATA m) causeRule
  if !s.reqCovers req (s.eddy m).owner 2 || !(s.eddy m).inspectable then bad
  else if sel / 2 ^ 12 % 8 = 3 ∧ 4 ≤ sel / 2 ^ 7 % 32 ∧ sel / 2 ^ 7 % 32 ≤ 6 then bad
  else s.setEddy m ((s.eddy m).selWrite sel v)

/-- The value DBG_E_DATA reads: in RUNNING and OFF, where the spec gives none, a free value. (DESIGN CHOICE, assumption 184) -/
def State.dbgDataValue (s : State) (m : Nat) : Nat :=
  if (s.eddy m).inspectable then (s.eddy m).selWord m (s.rd32 (rDBG_E_REGSEL m)) else s.freeNat 32

/-! ### Fabric capture (R452, R453) -/

/-- R452: view v's capture of stall n is triggered. (DEDUCED, assumption 181) -/
def State.captureTrigger (s : State) (v : Nat) : State :=
  let ctl := s.rd32 (rCAP_CTL v)
  let n := fCAP_CTL_STALL.get ctl
  if fCAP_CTL_ARM.get ctl ≠ 1 ∨ !s.covers v (some n) 2 ∨ s.stallState n ≠ stLIVE ∨ s.captured n then s
  else
    let hold := fCAP_CTL_HOLD.get ctl
    let sheds := s.shedsOf n
    let s1 := s.fset (rCAP_CTL v) fCAP_CTL_ARM 0
    let s2 := sheds.foldl (fun t sh => t.setGated sh true) s1
    let mine := fun k => sheds.contains (k / 8192)
    let old := smClear mine s2.dbg.areas
    let area := s2.fab.ffs.foldl (fun m x => if mine x.1 then smSet 0 m x.1 x.2 else m) old
    let s3 := s2.setDbg { s2.dbg with
      areas := area
      areaView := sheds.foldl (fun m sh => smSet 0 m sh (v + 1)) s2.dbg.areaView
      caps := smSet none s2.dbg.caps v (some (2 * n + hold)) }
    let s4 := (((s3.fset (rCAP_STAT v) fCAP_STAT_STOPPED 1).fset (rCAP_STAT v) fCAP_STAT_SUSPECT 0).fset (rCAP_STAT v) fCAP_STAT_VALID 1).irq
      (PageKind.dbgSess.addr v) 1
    let s5 := s4.trace n (traceEntry 7 2 n 0 0 0 0)
    if hold = 1 then (s5.enginesOf n).foldl (fun t m => t.haltAsk v m) s5 else s5

/-- DBG_TRIG (R452): a pulse at the tributary interface of a shed. -/
def State.dbgTrig (s : State) (sh : Nat) : State :=
  match s.shedOwner sh with
  | none => s
  | some n =>
    let s1 := s.trace n (traceEntry 8 1 sh 0 0 0 0)
    (List.range 6).foldl (fun t v => if t.fget (rCAP_CTL v) fCAP_CTL_STALL = n then t.captureTrigger v else t) s1

/-- CAPTURE_SNAP_END (R452): in SNAP mode clocks restart and gates reopen; `forced` says that a clock was forced off. -/
def State.snapEnd (s : State) (v : Nat) (forced : Bool) : State :=
  match smGet none s.dbg.caps v with
  | some c => if c % 2 = 0 then (s.fset (rCAP_STAT v) fCAP_STAT_SUSPECT (b2n forced)).captureEnd v else s
  | none => s

/-- CAP_RESUME (R452): the end of a HOLD stop. -/
def State.capResume (s : State) (v : Nat) : State :=
  match smGet none s.dbg.caps v with
  | some c => if c % 2 = 1 then s.captureEnd v else s
  | none => s

/-- R452: a write of `v` to CAP_CTL of view w. (DEDUCED, assumption 181) -/
def State.capCtlWrite (s : State) (w v : Nat) : State :=
  let s1 := s.wr32 (rCAP_CTL w) (v % 2 ^ 32 / 2 ^ 31 * 2 ^ 31 + fCAP_CTL_HOLD.get v * 2 ^ 28 + fCAP_CTL_STALL.get v)
  let s2 := if fCAP_CTL_RESUME.get v = 1 then s1.capResume w else s1
  if fCAP_CTL_FIRE.get v = 1 then s2.captureTrigger w else s2

/-- CAP_DATA (R453): the selected word of the capture area, where the view's own capture fills it. -/
def State.capData (s : State) (v : Nat) : Nat :=
  let sel := s.rd32 (rCAP_SEL v)
  let sh := fCAP_SEL_SHED.get sel
  let w := fCAP_SEL_WORD.get sel
  if smGet 0 s.dbg.areaView sh = v + 1 ∧ w < 2880 then
    smGet 0 s.dbg.areas (8192 * sh + 2 * w) % 2 ^ 16 + smGet 0 s.dbg.areas (8192 * sh + 2 * w + 1) % 2 ^ 16 * 2 ^ 16
  else 0

/-! ### Watchpoints (R451) -/

/-- The COUNT-th match of watchpoint k of engine m, at bundle `pc`, acts. -/
def State.wpMatch (s : State) (m k pc addr data : Nat) : State :=
  let cfg := s.rd32 (rWP_CFG m k)
  let key := 4 * m + k
  let hits := smGet 0 s.dbg.hits key + 1
  if hits < fWP_CFG_COUNT.get cfg then s.setDbg { s.dbg with hits := smSet 0 s.dbg.hits key hits }
  else
    let s1 := s.setDbg { s.dbg with hits := smSet 0 s.dbg.hits key 0 }
    let act := fWP_CFG_ACT.get cfg
    let v := smGet 0 s1.dbg.wpView key - 1
    let s2 := ((s1.setBit (rDBG_E_STAT m) (24 + k) true).fset (rDBG_E_STAT m) fDBG_E_STAT_WP_PC pc).irq (PageKind.dbgEddy.addr m) 2
    let s3 := if act.testBit 0 then s2.traceEngine m 1 pc k addr data else s2
    let s4 := if act.testBit 1 then s3.haltAsk v m else s3
    let s5 := if act.testBit 2 then (match (s4.eddy m).owner with | some n => (s4.enginesOf n).foldl (fun t j => t.haltAsk v j) s4 | none => s4) else s4
    if act.testBit 3 then
      match (s5.eddy m).owner with
      | some n => if s5.fget (rCAP_CTL v) fCAP_CTL_STALL = n then s5.captureTrigger v else s5
      | none => s5
    else s5

/-- R451: the watchpoints of KIND PC against the bundle due of engine m. (DEDUCED, assumption 182) -/
def State.wpPc (s : State) (m pc : Nat) : State :=
  (List.range 4).foldl (fun t k =>
    let match_ := Nat.land (Nat.xor pc (t.rd32 (rWP_ADDR m k))) (t.rd32 (rWP_AMASK m k)) % 2 ^ 11
    if t.fget (rWP_CFG m k) fWP_CFG_KIND = 1 ∧ match_ = 0 then t.wpMatch m k pc 0 0 else t) s

/-- The access of a bundle's L slot, as whether it stores and its words with their addresses. -/
def bundleAccess (es : SMap Eddy) (n : Nat) (b : BitVec 128) : Option (Bool × List (Nat × Nat)) :=
  let e := eddyAt es n
  if guardOf e.regs b 1 then
    match (decodeBundle b).l with
    | .mem op rd base pi off =>
      let a := accessAddr e.regs op base pi off
      match regionEngine n (a / 2 ^ 17) with
      | none => none
      | some m =>
        let w := a % 2 ^ 17 / 4
        let vals := if op.isStore then storeWords e.regs op rd else wordsOf (op.size / 4) (readData (eddyAt es m).data w (op.size / 4))
        some (op.isStore, (List.range vals.length).map (fun j => (a + 4 * j, (listGet 0 vals j).toNat)))
    | _ => none
  else none

/-- The first word of an access that watchpoint k of engine m matches. -/
def State.wpWord (s : State) (m k : Nat) (words : List (Nat × Nat)) : Option (Nat × Nat) :=
  let d := s.rd64 (rWP_DATA m k)
  words.find? (fun x => decide (Nat.land (Nat.xor x.1 (s.rd32 (rWP_ADDR m k))) (s.rd32 (rWP_AMASK m k)) % 2 ^ 20 = 0) &&
    decide (Nat.land (Nat.xor x.2 (d % 2 ^ 32)) (d / 2 ^ 32) = 0))

/-- R451: the watchpoints on data against an access that has issued at bundle `pc`. -/
def State.wpData (s : State) (m pc : Nat) : Option (Bool × List (Nat × Nat)) → State
  | none => s
  | some (store, words) =>
    (List.range 4).foldl (fun t k =>
      let kind := t.fget (rWP_CFG m k) fWP_CFG_KIND
      if kind = 4 ∨ (kind = 2 ∧ ¬ store) ∨ (kind = 3 ∧ store) then
        match t.wpWord m k words with
        | some (a, v) => t.wpMatch m k pc a v
        | none => t
      else t) s

/-- A write of `v` to WP_CFG_k of engine m (R451): a LEVEL 1 grant may set TRACE alone. -/
def State.wpCfgWrite (s : State) (req : Req) (m k v : Nat) : State :=
  if 1 < fWP_CFG_ACT.get v ∧ !s.reqCovers req (s.eddy m).owner 2 then s.refuse req (rWP_CFG m k) causeRule
  else
    let w := match req.view with | some w => w + 1 | none => 0
    let s1 := s.wr32 (rWP_CFG m k) (fWP_CFG_COUNT.get v * 2 ^ 24 + fWP_CFG_ACT.get v * 2 ^ 4 + fWP_CFG_KIND.get v)
    s1.setDbg { s1.dbg with wpView := smSet 0 s1.dbg.wpView (4 * m + k) (if fWP_CFG_KIND.get v = 0 then 0 else w),
                             hits := smSet 0 s1.dbg.hits (4 * m + k) 0 }

/-! ### Issue under the debugger -/

/-- R449, R448: after a cycle of engine m: a deferral counts on, and a step that has ended asks for its halt. -/
def State.afterCycle (s : State) (m : Nat) (stepped : Bool) : State :=
  let s1 := if stepped then s.haltAsk (smGet 0 s.dbg.halter m - 1) m else s
  let e := s1.eddy m
  if e.run = .running ∧ e.issue.haltReq then
    if e.issue.held.isSome then
      (s1.setDbg { s1.dbg with deferred := smSet 0 s1.dbg.deferred m (smGet 0 s1.dbg.deferred m + 1) }).fset (rDBG_E_STAT m) fDBG_E_STAT_DEFER 1
    else s1
  else if smGet 0 s1.dbg.deferred m ≠ 0 ∨ s1.flag (rDBG_E_STAT m) fDBG_E_STAT_DEFER then
    (s1.setDbg { s1.dbg with deferred := smDel m s1.dbg.deferred }).fset (rDBG_E_STAT m) fDBG_E_STAT_DEFER 0
  else s1

/-- BUNDLE_ISSUE (R99, R134, R448–R451): one cycle of engine m with its watchpoints, its step count and its trace. At cycle 256 of a deferral no
bundle issues. -/
def State.dbgIssue (s : State) (m : Nat) (env : IssueEnv) : State :=
  let e := s.eddy m
  if e.run ≠ .running ∨ 256 ≤ smGet 0 s.dbg.deferred m then s
  else
    let fresh := decide (e.issue.hold = 0) && !smGet false s.dbg.seen m
    let s1 := if fresh then (s.setDbg { s.dbg with seen := smSet false s.dbg.seen m true }).wpPc m e.pc else s
    let access := bundleAccess s1.eddies m e.bundle
    let r := s1.issueEngine m env
    match r.2 with
    | .issues pc _ isDone =>
      let s2 := r.1.setDbg { r.1.dbg with seen := smSet false r.1.dbg.seen m false }
      let s3 := s2.wpData m pc access
      let s4 := if isDone then
          (s3.setEddy m { s3.eddy m with issue := { (s3.eddy m).issue with haltReq := false, stepLeft := 0 } }).traceEngine m 5 pc 0 0 0
        else s3
      s4.afterCycle m (decide (e.issue.stepLeft = 1) && !isDone)
    | .excepts x pc =>
      (((r.1.setDbg { r.1.dbg with seen := smSet false r.1.dbg.seen m false }).traceEngine m 4 pc 0 0 x.cause)).afterCycle m false
    | .waits => r.1.afterCycle m false
    | .idle => r.1

/-- The engines' array cycle in which no bundle issues, deferrals counting on (R449). -/
def State.idleEngines (s : State) : State :=
  s.idleCycle.eddies.foldl (fun t x => if 256 ≤ smGet 0 t.dbg.deferred x.1 then t else t.afterCycle x.1 false) s.idleCycle

/-! ### Rings (R454) -/

/-- RING_CTL_WRITE (R454): a write of `v` to RING_CTL of ring r. -/
def State.ringCtlWrite (s : State) (req : Req) (r v : Nat) : State :=
  let cur := s.rd32 (rRING_CTL r)
  let bad := s.refuse req (rRING_CTL r) causeRule
  if fRING_CTL_EN.get cur = 1 then
    if !s.reqCovers req (some (fRING_CTL_STALL.get cur)) 1 then bad
    else if fRING_CTL_EN.get v = 0 then s.ringFree r
    else s.fset (rRING_CTL r) fRING_CTL_WRAP (fRING_CTL_WRAP.get v)
  else if !s.reqCovers req (some (fRING_CTL_STALL.get v)) 1 then bad
  else
    let s1 := s.wr32 (rRING_CTL r) (v % 2 ^ 32 / 2 ^ 30 * 2 ^ 30 + fRING_CTL_STALL.get v)
    let w := match req.view with | some w => w + 1 | none => 0
    if fRING_CTL_EN.get v = 1 then s1.setDbg { s1.dbg with ringView := smSet 0 s1.dbg.ringView r w } else s1

/-- RING_DATA_w: word w of the entry RING_RD selects. -/
def State.ringData (s : State) (r w : Nat) : Nat :=
  listGet 0 (smGet [] s.dbg.rings r) (s.fget (rRING_RD r) fRING_RD_IDX) / 2 ^ (32 * w) % 2 ^ 32

end Sys2Proof.Machine
end

