-- ==== Sys2Proof/Machine/Mailbox.lean ====
section
/-! DEFINITION. The mailboxes of Tolmor (R265–R272): the command buffer, RING, tickets, the completion queue and its emptying. -/

namespace Sys2Proof.Machine

/-- Tolmor replaced. -/
def State.setTol (s : State) (t : Tol) : State := { s with tol := t }

/-- Mailbox b (0–3 host, 4 manager, 5 JTAG). -/
def State.mbox (s : State) (b : Nat) : MBox := smGet MBox.reset s.tol.boxes b

/-- Mailbox b replaced. -/
def State.setMbox (s : State) (b : Nat) (x : MBox) : State := s.setTol { s.tol with boxes := smSet MBox.reset s.tol.boxes b x }

/-- R263: whether Tolmor is DEAD. -/
def State.dead (s : State) : Bool := decide (s.fget (rTOL_STAT 0) fTOL_STAT_MODE = 2)

/-- R269: the tickets of mailbox b that are outstanding. -/
def State.ticketsOut (s : State) (b : Nat) : List Nat := (s.tol.jobs.filter (fun j => j.box = b)).map (fun j => j.ticket)

/-- R269: the first ticket from `t` up, of `fuel` tries, that is neither 0 nor outstanding. -/
def freeTicket (used : List Nat) : Nat → Nat → Nat
  | 0, t => t
  | fuel + 1, t => if t = 0 ∨ used.contains t then freeTicket used fuel ((t + 1) % 65536) else t

/-- R269: the next ticket of mailbox b. -/
def State.nextTicket (s : State) (b : Nat) : Nat := freeTicket (s.ticketsOut b) 40 (((s.mbox b).lastTicket + 1) % 65536)

/-- R268: a completion entry: SEQ, OPCODE, CODE, FINAL, TICKET and DATA. -/
def mkCpl (seq op code : Nat) (final : Bool) (ticket data : Nat) : Cpl :=
  ⟨seq % 65536 * 65536 + op % 256 * 256 + code % 256, b2n final * 65536 + ticket % 65536, data % 2 ^ 64⟩

/-- R271: Tolmor posts a completion into mailbox b; the queue's page event occurs as it enters the queue of 16. (DEDUCED, assumptions 93, 126) -/
def State.postCpl (s : State) (b : Nat) (c : Cpl) : State :=
  let l := (s.mbox b).cpls
  let s1 := s.setMbox b { s.mbox b with cpls := l ++ [c] }
  if l.length < 16 then s1.irq (PageKind.mbox.addr b) 0 else s1

/-- MB_CPL_POP (R271): the head completion goes, and a completion kept in SRAM enters the queue. (DEDUCED, assumption 93) -/
def State.cplPop (s : State) (b : Nat) : State :=
  let l := (s.mbox b).cpls
  let s1 := s.setMbox b { s.mbox b with cpls := l.tail }
  if 16 < l.length then s1.irq (PageKind.mbox.addr b) 0 else s1

/-- MB_STAT of mailbox b: its stored bits with TICKETS and CPL_LVL. -/
def State.mbStat (s : State) (b : Nat) : Nat :=
  fMB_STAT_TICKETS.set (fMB_STAT_CPL_LVL.set (s.rd32 (rMB_STAT b)) (min 16 (s.mbox b).cpls.length)) (min 32 (s.ticketsOut b).length)

/-- MB_CPL_k of mailbox b: word k of the head completion. -/
def State.mbCpl (s : State) (b k : Nat) : Nat :=
  match (s.mbox b).cpls with
  | [] => 0
  | c :: _ => if k = 0 then c.w0 else if k = 1 then c.w1 else c.data / 2 ^ (32 * (k - 2)) % 2 ^ 32

/-- RING (R266, R272): the command buffer is handed to Tolmor, or the write is ignored and counted. -/
def State.ring (s : State) (req : Req) (b : Nat) : State :=
  if s.flag (rMB_STAT b) fMB_STAT_ACCEPTING && !s.flag (rMB_STAT b) fMB_STAT_BUSY then s.fset (rMB_STAT b) fMB_STAT_BUSY 1
  else s.refuse req (rMB_DOORBELL b) causeRule

/-- R272: a write to MB_CMD_k, ignored and counted while BUSY. -/
def State.mbCmdWrite (s : State) (req : Req) (b k v : Nat) : State :=
  if s.flag (rMB_STAT b) fMB_STAT_BUSY then s.refuse req (rMB_CMD b k) causeRule else s.wr32 (rMB_CMD b k) v

/-- R272, R303: mailbox b's command buffer and completion queue are emptied, and its outstanding tickets are orphaned. (DEDUCED, assumptions 90, 92) -/
def State.emptyBox (s : State) (b : Nat) : State :=
  let s1 := (List.range 64).foldl (fun t k => t.wr32 (rMB_CMD b k) 0) (s.fset (rMB_STAT b) fMB_STAT_BUSY 0)
  (s1.setMbox b { s1.mbox b with cpls := [] }).setTol
    { (s1.setMbox b { s1.mbox b with cpls := [] }).tol with
      jobs := s1.tol.jobs.map (fun j => if j.box = b then { j with orphan := true } else j) }

/-- R272: the SPDM sessions of mailbox b close. -/
def State.closeSessions (s : State) (b : Nat) : State :=
  s.setTol { s.tol with sessions := s.tol.sessions.filter (fun x => x.2 ≠ b) }

/-- The word k of the command in mailbox b's buffer. -/
def State.cmdWord (s : State) (b k : Nat) : Nat := s.rd32 (rMB_CMD b k)

/-! ### Final completions (R269, R272, R310) -/

/-- A management message goes out on a link slot (R300). (DESIGN CHOICE, assumption 129) -/
def State.sendMgmt (s : State) (slot : Nat) (m : Mgmt) : State := s.emit (.mgmt slot m)

/-- The parent slot of a worker. -/
def State.parentSlot (s : State) : Nat := s.fget (rTREE_STAT 0) fTREE_STAT_PARENT

/-- The device's NODE_ID. -/
def State.nodeId (s : State) : Nat := s.fget (rTREE_STAT 0) fTREE_STAT_NODE_ID

/-- `k` bytes of a list from `off`, with zeros beyond its end. -/
def bytesAt (l : List Nat) (off k : Nat) : List Nat := (List.range k).map (fun i => listGet 0 l (off + i))

/-- R310: the first `n` bytes of a staged buffer go up in RETURN messages of up to 16 KiB. (DEDUCED, assumption 127) -/
def State.sendReturn (s : State) (fan buffer n : Nat) : State :=
  let l := smGet [] s.tol.staged buffer
  (List.range ((n + 16383) / 16384)).foldl (fun t k =>
    t.sendMgmt t.parentSlot (.ret fan t.nodeId (16384 * k) (bytesAt l (16384 * k) (min 16384 (n - 16384 * k))))) s

/-- R310: a target's final completion goes up to the manager, and then what its FANOUT asks back. (DEDUCED, assumption 126) -/
def State.fanReply (s : State) (fan : Nat × Option (Nat × Nat)) (c : Cpl) : State :=
  let s1 := s.sendMgmt s.parentSlot (.cpl fan.1 s.nodeId (s.rd64 (rTOL_SERIAL 0)) c.w0 c.w1 c.data)
  match fan.2 with
  | some (b, n) => s1.sendReturn fan.1 b n
  | none => s1

/-- R269, R272: Tolmor posts the final completion of a deferred command, in its mailbox or, where the mailbox has been emptied since, in the
event log with source ORPHAN. In DEAD it posts nothing (R263). (DEDUCED, assumption 90) -/
def State.finishJob (s : State) (j : Job) (code data : Nat) : State :=
  let s1 := s.setTol { s.tol with jobs := s.tol.jobs.filter (fun x => !(decide (x.box = j.box) && decide (x.ticket = j.ticket))) }
  let c := mkCpl j.seq j.op code true j.ticket data
  if s.dead then s
  else if j.orphan then s1.logEvent 8 code j.box (c.w0 + c.w1 * 2 ^ 32 + c.data * 2 ^ 64)
  else
    let s2 := s1.postCpl j.box c
    match j.fan with
    | some f => s2.fanReply f c
    | none => s2

/-- R274: a location descriptor from its four words, where no reserved bit is set. -/
def parseLoc (w0 w1 w2 w3 : Nat) : Option Loc :=
  if w0 / 2 ^ 2 % 2 ^ 6 = 0 ∧ w0 / 2 ^ 23 = 0 ∧ w0 % 4 < 3 then
    some ⟨w0 % 4, w0 / 2 ^ 8 % 2 ^ 8, w0 / 2 ^ 16 % 2 ^ 7, w1, w2 + w3 * 2 ^ 32⟩
  else none

/-- R274: whether mailbox b may name a location of this KIND. -/
def locAllowed (b kind : Nat) : Bool := if b < 4 then decide (kind < 2) else decide (b = 4) && decide (kind = 2)

end Sys2Proof.Machine
end

