-- ==== Sys2Proof/Machine/Meter.lean ====
section
/-! DEFINITION. The Tally (R311–R321): intervals, checkpoints, epochs and records. -/

namespace Sys2Proof.Machine

/-- The Tally replaced. -/
def State.setTally (s : State) (t : Tally) : State := { s with tally := t }

/-- R311: the die node of a leaf: its yard, or 8 for the Riverbed. (DESIGN CHOICE, assumption 130) -/
def leafNode (kind unit : Nat) : Nat :=
  if kind = 0 then unit / 48
  else if kind = 1 then unit / 64
  else if kind = 4 then (if unit < 384 then unit / 48 else (unit - 384) / 64)
  else 8

/-- Table TID-8: the largest rate of a leaf, in tenths per ns. -/
def leafRate (kind unit : Nat) : Nat :=
  if kind = 0 then 10
  else if kind = 1 then 16
  else if kind = 2 then 768
  else if kind = 3 then (if isFabricPort unit then 320 else if isEnginePort unit then 160 else 1280)
  else if unit < 384 then 30 else 5

/-- The KIND, unit and stall of a leaf's key. (DESIGN CHOICE, assumption 130) -/
def leafOf (k : Nat) : Nat × Nat × Nat := (k / 32 / 4096, k / 32 % 4096, k % 32)

/-- A leaf. -/
def State.leaf (s : State) (k : Nat) : Leaf := smGet Leaf.zero s.tally.leaves k

/-- A leaf replaced. -/
def State.setLeaf (s : State) (k : Nat) (l : Leaf) : State :=
  s.setTally { s.tally with leaves := smSet Leaf.zero s.tally.leaves k l }

/-- The keys of the leaves of a stall. -/
def State.leavesOf (s : State) (n : Nat) : List Nat := (s.tally.leaves.filter (fun x => x.1 % 32 = n)).map (fun x => x.1)

/-- The open interval of a stall. -/
def State.openInterval (s : State) (n : Nat) : Option Interval := (s.tally.opened.find? (fun x => x.1 = n)).map (fun x => x.2)

/-- The open interval of a stall replaced. -/
def State.setInterval (s : State) (n : Nat) (i : Interval) : State := s.setTally { s.tally with opened := smPut n i s.tally.opened }

/-- The flags gathered in every open interval (Table TID-9). -/
def State.flagIntervals (s : State) (f : Nat) : State :=
  s.setTally { s.tally with opened := s.tally.opened.map (fun x => (x.1, { x.2 with flags := Nat.lor x.2.flags f })) }

/-- Whether ROOT_STATE is not LOCKED. -/
def State.rootUnlocked (s : State) : Bool := decide (s.fget (rTIDE_STAT 0) fTIDE_STAT_ROOT_STATE ≠ 2)

/-- An event in TALLY_LAST: EVENT, STALL, KIND and INDEX. A COPY_FIX is recorded only while nothing worse has been. -/
def State.tallyLast (s : State) (event stall kind index : Nat) : State :=
  if event = 0 ∧ s.flag (rTALLY_LAST 0) fTALLY_LAST_VALID ∧ s.fget (rTALLY_LAST 0) fTALLY_LAST_EVENT ≠ 0 then s
  else s.wr32 (rTALLY_LAST 0) (2 ^ 31 + event % 4 * 2 ^ 29 + stall % 32 * 2 ^ 24 + kind % 8 * 2 ^ 21 + index % 2048 * 2 ^ 10)

/-- The INDEX of a leaf in TALLY_LAST. -/
def leafIndex (kind unit : Nat) : Nat := if kind = 4 ∧ 384 ≤ unit then unit - 384 else unit

/-- R315: a leaf whose count is lost: it goes on from its checkpoint value, and its interval is UNCERTAIN with BOUND for its KIND. -/
def State.leafLost (s : State) (k : Nat) : State :=
  let (kind, unit, stall) := leafOf k
  let l := s.leaf k
  let s1 := s.setLeaf k { l with a := l.ckpt, b := l.ckpt }
  let s2 := match s1.openInterval stall with
    | some i =>
      let more := (leafRate kind unit * (s.tide.ticks - s.tally.ckptAt) + 9) / 10
      s1.setInterval stall { i with flags := Nat.lor i.flags 1, bound := listModify (fun b => b + more) i.bound kind }
    | none => s1
  ((s2.finc (rTALLY_ERR 0) fTALLY_ERR_UNCERTAIN).tallyLast 2 stall kind (leafIndex kind unit)).irq (PageKind.tallyCtl.addr 0) 0

/-- R315: one copy fails parity; the other is used and the failed copy rewritten. -/
def State.leafFix (s : State) (k : Nat) (useA : Bool) : State :=
  let (kind, unit, stall) := leafOf k
  let l := s.leaf k
  ((s.setLeaf k (if useA then { l with b := l.a } else { l with a := l.b })).finc (rTALLY_ERR 0) fTALLY_ERR_COPY_FIX).tallyLast 0 stall
    kind (leafIndex kind unit)

/-- R315: what the Tally does with a faulty leaf. -/
def State.leafFault (s : State) : LeafFault → State
  | .copyA kind unit stall => s.leafFix (leafKey kind unit stall) false
  | .copyB kind unit stall => s.leafFix (leafKey kind unit stall) true
  | .both kind unit stall => s.leafLost (leafKey kind unit stall)
  | .bReads kind unit stall v =>
    if v % 2 ^ 48 = (s.leaf (leafKey kind unit stall)).a then s else s.leafLost (leafKey kind unit stall)

/-- The sum of a stall's leaves of a KIND. -/
def State.leafSum (s : State) (kind stall : Nat) : Nat :=
  s.tally.leaves.foldl (fun n x => if x.1 / 32 / 4096 = kind ∧ x.1 % 32 = stall then n + x.2.a else n) 0

/-- R314: the nodes and roots recomputed from the leaves. -/
def State.recomputeNodes (s : State) : State :=
  s.setTally { s.tally with
    nodes := s.tally.leaves.foldl (fun m x =>
      let (kind, unit, stall) := leafOf x.1
      let k := fun node => (8 * node + kind) * 32 + stall
      let up := fun (m : SMap Nat) (j : Nat) => smSet 0 m j (smGet 0 m j + x.2.a)
      up (up m (k (leafNode kind unit))) (k 9)) [] }

/-- R316: an uncorrectable node or root of a stall: it is SUSPECT and rebuilt. -/
def State.nodeSuspect (s : State) (node stall : Nat) : State :=
  let s1 := match s.openInterval stall with
    | some i => s.setInterval stall { i with flags := Nat.lor i.flags 2 }
    | none => s
  ((s1.finc (rTALLY_ERR 0) fTALLY_ERR_SUSPECT).tallyLast 1 stall 7 node).irq (PageKind.tallyCtl.addr 0) 1

/-- R314–R316: the Tally reads every leaf, checks both copies, keeps the value read as the checkpoint value, and recomputes the nodes.
`suspects` are the uncorrectable nodes and roots found, as (node, stall). -/
def State.checkpoint (s : State) (faults : List LeafFault) (suspects : List (Nat × Nat)) : State :=
  let s1 := faults.foldl (fun t f => t.leafFault f) s
  let s2 := suspects.foldl (fun t x => t.nodeSuspect x.1 x.2) s1
  let s3 := s2.setTally { s2.tally with leaves := smMap Leaf.zero (fun _ l => { l with ckpt := l.a }) s2.tally.leaves }
  (s3.setTally { s3.tally with ckptAt := s3.tide.ticks }).recomputeNodes

/-! ### Intervals and records (R312, R313, R318, R319) -/

/-- An interval of stall n opens with a TENANT (R312). (DEDUCED, assumption 134) -/
def State.openNew (s : State) (n number tenant : Nat) : State :=
  s.setInterval n ⟨number, tenant, s.tide.now, s.tide.ticks, false, 4 * b2n s.rootUnlocked, [0, 0, 0, 0, 0]⟩

/-- The record of stall n's open interval, ending at `stop`, with its ENERGY_NJ count, and OPEN_END where it continues. (DEDUCED, assumption 132) -/
def State.meterRecord (s : State) (n : Nat) (i : Interval) (stop energy : Nat) (goesOn : Bool) : MeterRec :=
  { stall := n
    flags := Nat.lor i.flags (4 * b2n s.rootUnlocked + 64 * b2n i.carried + 128 * b2n goesOn)
    interval := i.number
    epoch := s.tally.epoch
    tenant := i.tenant
    start := i.start
    stop := stop
    counts := ((List.range 4).map (fun k => s.leafSum k n)) ++ [energy]
    bound := i.bound
    sheds := (s.shedsOf n).length
    engines := (s.enginesOf n).length
    ticks := s.tide.ticks - i.tick }

/-- R318: a record stored; when the store is full the oldest epoch goes. In DEAD no record is stored (R321). -/
def State.storeRecord (s : State) (r : MeterRec) : State :=
  if s.fget (rTOL_STAT 0) fTOL_STAT_MODE = 2 then s
  else
    let l := s.tally.records ++ [r]
    match l with
    | [] => s
    | x :: _ =>
      if 2 ^ 28 < 320 * l.length then
        s.setTally { s.tally with records := l.filter (fun y => y.epoch ≠ x.epoch), closed := s.tally.closed.filter (fun e => e ≠ x.epoch) }
      else s.setTally { s.tally with records := l }

/-- The leaves of stall n start again from 0. (DEDUCED, assumption 134) -/
def State.restartLeaves (s : State) (n : Nat) : State :=
  s.setTally { s.tally with leaves := smClear (fun k => decide (k % 32 = n)) s.tally.leaves }

/-- The record of stall n's open interval is stored. (DESIGN CHOICE, assumption 133) -/
def State.recordInterval (s : State) (n stop : Nat) (goesOn : Bool) : State :=
  match s.openInterval n with
  | some i => (s.storeRecord (s.meterRecord n i stop (s.freeNat 48) goesOn)).useFree.restartLeaves n
  | none => s

/-- R312: stall n's interval closes, and one with `tenant` opens where one is given. -/
def State.closeInterval (s : State) (n : Nat) (tenant : Option Nat) : State :=
  match s.openInterval n with
  | none => s
  | some i =>
    let s1 := s.recordInterval n s.tide.now false
    match tenant with
    | some t => s1.openNew n (i.number + 1) t
    | none => s1.setTally { s1.tally with opened := smDel n s1.tally.opened }

/-- R313: whether the open epoch's end has been reached. -/
def State.epochDue (s : State) : Bool := decide (s.tally.epoch < s.tide.now / 2 ^ 30)

/-- TALLY_EPOCH_CLOSE (R313, R314): the epoch ends: every open interval yields a record and continues, every leaf restarts from 0, and
TALLY_EPOCH names the newest closed epoch. A step past several boundaries closes them all. -/
def State.closeEpoch (s : State) : State :=
  if !s.epochDue then s
  else
    let e := s.tally.epoch
    let e' := s.tide.now / 2 ^ 30
    let stop := (e + 1) * 2 ^ 30
    let s1 := s.checkpoint [] []
    let s2 := s1.tally.opened.foldl (fun t x => t.recordInterval x.1 stop true) s1
    let s3 := s2.setTally { s2.tally with
      leaves := []
      nodes := []
      opened := s2.tally.opened.map (fun x =>
        (x.1, { x.2 with start := e' * 2 ^ 30, tick := s2.tide.ticks, carried := true, flags := 4 * b2n s2.rootUnlocked, bound := [0, 0, 0, 0, 0] }))
      epoch := e' }
    let held := (s3.tally.closed ++ (List.range (min (e' - e) 64)).map (fun k => e' - min (e' - e) 64 + k))
    let held := held.drop (held.length - 64)
    let s4 := if s3.fget (rTOL_STAT 0) fTOL_STAT_MODE = 2 then s3
      else s3.setTally { s3.tally with closed := held, records := s3.tally.records.filter (fun r => held.contains r.epoch || decide (e' ≤ r.epoch)) }
    (s4.wr64 (rTALLY_EPOCH 0) (e' - 1)).irq (PageKind.tallyCtl.addr 0) 2

/-- R311: one counter tick of every claimed shed. -/
def State.meterTick (s : State) : State :=
  (List.range 384).foldl (fun t sh =>
    match t.shedOwner sh with
    | some n => t.setTally (t.tally.count 0 sh n 1)
    | none => t) s

/-- R317: the leaves of a quarantined yard are lost, and the open intervals that hold them carry DIE_LOST. -/
def State.leavesQuarantined (s : State) (yard : Nat) : State :=
  let keys := (s.tally.leaves.filter (fun x => leafNode (leafOf x.1).1 (leafOf x.1).2.1 = yard)).map (fun x => x.1)
  keys.foldl (fun t k =>
    let t1 := t.leafLost k
    match t1.openInterval (k % 32) with
    | some i => t1.setInterval (k % 32) { i with flags := Nat.lor i.flags 16 }
    | none => t1) s

/-! ### READ_METERS (R320) -/

/-- A number as `n` little-endian bytes. -/
def leBytes : Nat → Nat → List Nat
  | 0, _ => []
  | n + 1, v => v % 256 :: leBytes n (v / 256)

/-- R319: a meter record as bytes. -/
def MeterRec.bytes (r : MeterRec) : List Nat :=
  leBytes 2 1 ++ [r.stall, r.flags] ++ leBytes 4 r.interval ++ leBytes 8 r.epoch ++ leBytes 8 r.tenant ++ leBytes 8 r.start ++ leBytes 8 r.stop ++
    (r.counts.map (leBytes 8)).flatten ++ (r.bound.map (leBytes 8)).flatten ++ leBytes 2 r.sheds ++ leBytes 2 r.engines ++ leBytes 4 0 ++
    leBytes 8 r.ticks ++ leBytes 24 0

/-- R320: the held epoch whose low 32 bits are `w`, if it has closed. -/
def State.heldEpoch (s : State) (w : Nat) : Option Nat := s.tally.closed.find? (fun e => e % 2 ^ 32 = w)

/-- R320: the report of a stall for an epoch, without its signature. -/
def State.meterReport (s : State) (n e : Nat) : List Nat :=
  let rs := s.tally.records.filter (fun r => decide (r.stall = n) && decide (r.epoch = e))
  leBytes 4 0x54544C59 ++ leBytes 2 1 ++ [n, rs.foldl (fun f r => Nat.lor f r.flags) 0] ++ leBytes 8 (s.rd64 (rTOL_SERIAL 0)) ++ leBytes 8 e ++
    leBytes 4 rs.length ++ leBytes 2 (s.fget (rTOL_INFO 0) fTOL_INFO_ROM_REV) ++ leBytes 2 (s.fget (rTREE_STAT 0) fTREE_STAT_NODE_ID) ++
    leBytes 8 s.tide.now ++ leBytes 24 0 ++ (rs.map MeterRec.bytes).flatten

end Sys2Proof.Machine
end

