-- ==== Sys2Proof/Machine/Stalls.lean ====
section
/-! DEFINITION. Stalls: claims and creation (R233, R234), Butar images and their checks (R238–R242), loading (R243, R244) with the tributary map
(R80–R82), swaps (R245–R252), die loss (R254), re-keying (R277) and destruction (R256). -/

namespace Sys2Proof.Machine

/-! ### Manifests and claim lists (R240, Table STL-6) -/

/-- A little-endian number. -/
def leNat : List Nat → Nat
  | [] => 0
  | b :: bs => b % 256 + 256 * leNat bs

/-- Whether every byte from offset `k` is 0. -/
def zeroFrom (k : Nat) (l : List Nat) : Bool := (l.drop k).all (fun b => decide (b = 0))

/-- Table STL-6: the entry that 16 bytes spell in a manifest, or in a claim list. -/
def parseEntry (claim : Bool) (b : List Nat) : Option ManEntry :=
  let x := fun k => listGet 0 b k
  let idx := x 2 + 256 * x 3
  if x 1 ≠ 0 then none
  else if x 0 = 1 then (if idx < 384 ∧ zeroFrom 4 b then some (.shed idx) else none)
  else if x 0 = 2 then
    if 512 ≤ idx ∨ ¬ zeroFrom 8 b then none
    else if claim then (if zeroFrom 4 b then some (.engine idx 0 false false 0 0) else none)
    else if x 5 < 8 ∧ x 6 < 4 ∧ x 7 < 16 then
      some (.engine idx (x 4 + 256 * x 5) ((x 6).testBit 0) ((x 6).testBit 1) (x 7 % 4) (x 7 / 4))
    else none
  else if x 0 = 3 then
    if 0xC0 ≤ idx ∨ ¬ zeroFrom 6 b ∨ 1 < x 4 ∨ 15 < x 5 ∨ (claim ∧ ¬ zeroFrom 4 b) then none
    else some (.fabricPort idx (x 4) (x 5 % 4) (x 5 / 4))
  else if x 0 = 4 then
    if 66 ≤ idx ∨ ¬ zeroFrom 8 b ∨ 3 < x 7 ∨ (claim ∧ x 7 ≠ 0) then none
    else some (.region idx (x 4 + 256 * x 5 + 65536 * x 6) ((x 7).testBit 0) ((x 7).testBit 1))
  else if x 0 = 5 then (if idx < 160 ∧ zeroFrom 4 b then some (.lane idx) else none)
  else if x 0 = 6 then (if idx < 384 ∧ zeroFrom 4 b then some (.pin idx) else none)
  else if x 0 = 7 then (if 0x180 ≤ idx ∧ idx < 0x194 ∧ zeroFrom 4 b then some (.reach idx) else none)
  else none

/-- R240: the entries of a manifest or claim list that parse, and whether the whole list is well formed. (DEDUCED, assumption 84) -/
def parseManifest (claim : Bool) (l : List Nat) : List ManEntry × Bool :=
  let n := leNat (l.take 4)
  let parsed := (List.range (min n 4096)).map (fun i => parseEntry claim ((l.drop (32 + 16 * i)).take 16))
  (parsed.filterMap (fun x => x),
   decide (1 ≤ n) && decide (n ≤ 4096) && decide (l.length = 32 + 16 * n) && ((l.take 32).drop 4).all (fun b => decide (b = 0)) &&
     parsed.all (fun x => x.isSome))

/-- The sheds a list of entries names. -/
def entrySheds (es : List ManEntry) : List Nat := es.filterMap (fun e => match e with | .shed i => some i | _ => none)

/-- The engines a list of entries names. -/
def entryEngines (es : List ManEntry) : List Nat := es.filterMap (fun e => match e with | .engine n _ _ _ _ _ => some n | _ => none)

/-- The fabric ports a list of entries names. -/
def entryPorts (es : List ManEntry) : List Nat := es.filterMap (fun e => match e with | .fabricPort n _ _ _ => some n | _ => none)

/-- The lanes a list of entries names. -/
def entryLanes (es : List ManEntry) : List Nat := es.filterMap (fun e => match e with | .lane i => some i | _ => none)

/-- The pins a list of entries names. -/
def entryPins (es : List ManEntry) : List Nat := es.filterMap (fun e => match e with | .pin i => some i | _ => none)

/-- The port endpoints a list of entries names. -/
def entryReach (es : List ManEntry) : List Nat := es.filterMap (fun e => match e with | .reach i => some i | _ => none)

/-- The sizes of the REGION entries on a port, together. -/
def entryRegions (es : List ManEntry) (port : Nat) : Nat :=
  es.foldl (fun n e => match e with | .region p z _ _ => if p = port then n + z else n | _ => n) 0

/-- The ports that REGION entries name. -/
def entryRegionPorts (es : List ManEntry) : List Nat := es.filterMap (fun e => match e with | .region p _ _ _ => some p | _ => none)

/-! ### Retired resources -/

/-- Whether weir bundle 256y + b is retired, now or by the repair log (R386, R2). -/
def State.bundleRetired (s : State) (k : Nat) : Bool :=
  decide (s.fget (rWB_STAT k) fWB_STAT_STATE = 4) || s.d2d.repair.any (fun r => decide (r.kind = 3) && decide (r.index = k))

/-- Whether a fabric or engine port's bundles include a retired one. -/
def State.epRetired (s : State) (e : Nat) : Bool := (epBundles e).any (fun x => s.bundleRetired (256 * x.1 + x.2))

/-- Whether PKG_DIE_INFO_d reads PRESENT = 1. -/
def State.diePresent (s : State) (d : Nat) : Bool := s.flag (rPKG_DIE_INFO 0 d) fPKG_DIE_INFO_PRESENT

/-! ### Claims (R233, R234, Table STL-2) -/

/-- The sheds a router serves (R12). -/
def routerSheds (rt : Nat) : List Nat := (List.range 384).filter (fun sh => shedRouter sh = rt)

/-- The quota of a stall on a port. -/
def Stall.quotaOf (t : Stall) (port : Nat) : Nat := (t.quota.filter (fun x => x.1 = port)).foldl (fun n x => n + x.2) 0

/-- The capacity of a port in 2 MiB units that regions of no stall hold. -/
def State.heldOutside (s : State) (port : Nat) : Nat :=
  (List.range 32).foldl (fun n i => if s.rgnState port i ≠ 0 ∧ s.fget (rRGN_CFG port i) fRGN_CFG_OWNER_KIND ≠ 2 then n + s.rgnSize port i else n) 0

/-- The capacity of a port in 2 MiB units (R195, R227). (DEDUCED, assumption 102) -/
def portCapacity (port : Nat) : Nat := if port < 64 then 1152 else 2 ^ 23

/-- R233: whether one entry of a claim list may be claimed. -/
def State.claimEntryOk (s : State) (es : List ManEntry) : ManEntry → Bool
  | .shed i => (s.shedOwner i).isNone && s.diePresent (i / 48)
  | .engine n _ _ _ _ _ => decide ((s.eddy n).owner = none) && s.diePresent (n / 64) && !s.epRetired (0xC0 + n / 4)
  | .fabricPort e _ _ _ =>
    (s.portOwner e).isNone && s.diePresent (routerYard e) && !s.epRetired e && (routerSheds e).any (fun sh => (entrySheds es).contains sh)
  | .region p _ _ _ =>
    let others := (List.range 32).foldl (fun n k => n + (s.stall k).quotaOf p) 0
    decide (others + entryRegions es p + s.heldOutside p ≤ portCapacity p) && s.diePresent (if p < 64 then 12 + p / 16 else 8 + (p - 64))
  | .lane i => (s.laneOwner i).isNone && decide (s.laneProto i = prFABRIC) && s.diePresent (8 + i / 40)
  | .pin i => (s.pinOwner i).isNone && s.diePresent (i / 48)
  | .reach _ => true

/-- R233: whether a claim list may be claimed whole. -/
def State.claimOk (s : State) (es : List ManEntry) : Bool := es.all (fun e => s.claimEntryOk es e)

/-- The registers of a fabric port that follow its stall, at their reset values. -/
def State.resetPort (s : State) (e : Nat) : State :=
  ((s.wr32 (rEPQ_CTL e) 0x11).wr32 (rEP_ERR_CNT e) 0).wr32 (rEP_ERR_LAST e) 0

/-- EP_CFG of a fabric port that a stall claims, before an image names it (R256). -/
def claimedCfg (n : Nat) : Nat := 2 ^ 29 + n * 2 ^ 24

/-- CREATE_STALL (R231, R234): stall n holds the claims of a list, controlled by view `control`; it is EMPTY. -/
def State.createStall (s : State) (n control : Nat) (es : List ManEntry) : State :=
  let s1 := s.resetPage (PageKind.stall.addr n) (fun o => decide (o < 0x040))
  let s2 := s1.resetPage (PageKind.tideStall.addr n) (fun o => decide (o < 0x040))
  let s3 := (entrySheds es).foldl (fun t sh =>
    ((t.wr32 (rPLANE_STAT sh) (2 ^ 31 + n * 2 ^ 26 + 2 ^ 16)).wr32 (rTRIB_CFG sh) 0).resetPage (PageKind.shedClk.addr sh) (fun o => decide (o < 0x040))) s2
  let s4 := (entryEngines es).foldl (fun t m =>
    (((t.setEddy m { Eddy.reset with owner := some n, run := .stopped }).resetPage (PageKind.eddy.addr m) (fun o => decide (o < 0x040))).resetPage
      (PageKind.eddyIo.addr m) (fun o => decide (o < 0x040))).wr32 (rENG_CFG (0xC0 + m / 4) (m % 4)) (claimedCfg n)) s3
  let s5 := (entryPorts es).foldl (fun t e => (t.resetPort e).wr32 (rEP_CFG e) (claimedCfg n)) s4
  let s6 := (s5.setStall n { Stall.free with
    control := some control
    ports := (entryPorts es).eraseDups
    lanes := (entryLanes es).eraseDups
    pins := (entryPins es).eraseDups
    reach := (entryReach es).eraseDups
    quota := (entryRegionPorts es).eraseDups.map (fun p => (p, entryRegions es p)) }).setStallState n stEMPTY
  s6.openNew n 0 0

/-! ### Images (R238–R242) -/

/-- A field of the Butar header (Table STL-4). -/
def ButarIn.fld (b : ButarIn) (off len : Nat) : Nat := leNat ((b.header.drop off).take len)

/-- SIGNER, big-endian. -/
def ButarIn.signer (b : ButarIn) : Nat := leNat ((b.header.drop 0x30).take 48).reverse

/-- Check 2 of Table STL-7: the header, with FLAGS 0, or 1 in a start bundle. -/
def ButarIn.headerOk (b : ButarIn) (start : Bool) : Bool :=
  decide (b.header.length = 256) && decide (b.fld 0 4 = 0x42555452) && decide (b.fld 4 2 = 1) && decide (b.fld 6 2 = b2n start) &&
  decide (b.fld 8 8 = b.copied) && decide (b.fld 0x18 4 % 16 = 0) && (if start then decide (b.fld 0x2C 4 < 32) else decide (b.fld 0x2C 4 = 0)) &&
  zeroFrom 0x60 b.header

/-- R239: whether a signer's hash is enrolled. -/
def State.enrolled (s : State) (hash : Nat) : Bool := s.otp.signers.any (fun x => x.2.valid && !x.2.revoked && decide (x.2.hash = hash))

/-- R239: whether a slot is the data key slot of an image of a stall other than n. -/
def State.slotElsewhere (s : State) (n slot : Nat) : Bool :=
  (List.range 32).any (fun m => decide (m ≠ n) &&
    ((match (s.stall m).live with | some i => decide (i.slot = slot) | none => false) ||
     (match (s.stall m).bg with | some i => decide (i.slot = slot) | none => false)))

/-- The Ponds of a shed: 14 in the sheds of local rows 0–3, 13 in the others. -/
def pondCount (sh : Nat) : Nat := if sh % 48 / 4 < 4 then 14 else 13

/-- Check 8: whether a section is well formed (R240, R241). -/
def sectionFormed : Section → Bool
  | .frames _ _ ix formed => formed && ix.all (fun i => decide (i < 2304))
  | .memFrames t recs formed => formed && recs.all (fun r =>
      (decide (r.kind = 0) && decide (r.block < 60) && decide (r.word + r.words.length ≤ 512)) ||
      (decide (r.kind = 1) && decide (r.block < pondCount t) && decide (r.word + r.words.length ≤ 4096)))
  | .eddyProg _ b formed => formed && decide (b.length ≤ 2048)
  | .eddyData _ b => decide (b.length ≤ 131072)
  | .other _ _ => false

/-- Check 6: whether a section's TARGET is a shed or engine of the manifest; a section of another TYPE is left to check 8. -/
def sectionNamed (es : List ManEntry) : Section → Bool
  | .frames t _ _ _ => (entrySheds es).contains t
  | .memFrames t _ _ => (entrySheds es).contains t
  | .eddyProg n _ _ => (entryEngines es).contains n
  | .eddyData n _ => (entryEngines es).contains n
  | .other _ _ => true

/-- Check 6: whether a stall has claimed the resource of a manifest entry. -/
def State.entryClaimed (s : State) (n : Nat) : ManEntry → Bool
  | .shed i => decide (s.shedOwner i = some n)
  | .engine m _ _ _ _ _ => decide ((s.eddy m).owner = some n)
  | .fabricPort e _ _ _ => (s.stall n).ports.contains e
  | .region p _ _ _ => (s.stall n).quota.any (fun x => x.1 = p)
  | .lane i => (s.stall n).lanes.contains i
  | .pin i => (s.stall n).pins.contains i
  | .reach e => (s.stall n).reach.contains e

/-- Check 6 of Table STL-7. -/
def State.imageOwned (s : State) (n : Nat) (es : List ManEntry) (secs : List Section) : Bool :=
  let live := match (s.stall n).live with | some i => i.entries | none => []
  es.all (fun e => s.entryClaimed n e) && secs.all (fun x => sectionNamed es x) &&
  (entryRegionPorts es).all (fun p => decide (entryRegions es p + entryRegions live p ≤ (s.stall n).quotaOf p))

/-- Check 1 of Table STL-7. -/
def State.loadable (s : State) (n : Nat) (replace : Bool) : Bool :=
  let st := s.stallState n
  let busy := (s.shedsOf n).any (fun sh => decide (s.planeState sh (s.bgPlane sh) = plLOADED) || s.planeSaved sh (s.bgPlane sh)) ||
    (s.enginesOf n).any (fun e => decide ((s.eddy e).bgState = plLOADED))
  (decide (st = stEMPTY) || decide (st = stLIVE) || decide (st = stFAULTED)) && (s.stall n).armed.isNone && (s.stall n).swap.isNone &&
  (s.stall n).load.isNone && (replace || !busy)

/-- Table TMC-6: completion codes. -/
def ccDONE : Nat := 0x00
/-- PENDING. -/
def ccPENDING : Nat := 0x01
/-- ABANDONED. -/
def ccABANDONED : Nat := 0x02
/-- FAULTED. -/
def ccFAULTED : Nat := 0x03
/-- DIE_LOST. -/
def ccDIE_LOST : Nat := 0x04
/-- EXPIRED. -/
def ccEXPIRED : Nat := 0x05
/-- CANCELLED. -/
def ccCANCELLED : Nat := 0x06
/-- TEST_FAILED. -/
def ccTEST_FAILED : Nat := 0x07
/-- REFUSED_FORMAT. -/
def ccFORMAT : Nat := 0x10
/-- REFUSED_OWNER. -/
def ccOWNER : Nat := 0x11
/-- REFUSED_STATE. -/
def ccSTATE : Nat := 0x12
/-- REFUSED_SIG. -/
def ccSIG : Nat := 0x13
/-- REFUSED_KEY. -/
def ccKEY : Nat := 0x14
/-- REFUSED_ROUTE. -/
def ccROUTE : Nat := 0x15
/-- REFUSED_TIME. -/
def ccTIME : Nat := 0x16
/-- REFUSED_AUTH. -/
def ccAUTH : Nat := 0x17
/-- REFUSED_BUSY. -/
def ccBUSY : Nat := 0x18
/-- BAD_OPCODE. -/
def ccOPCODE : Nat := 0x19
/-- POISONED. -/
def ccPOISONED : Nat := 0x20
/-- COPY_FAILED. -/
def ccCOPY : Nat := 0x21

/-- Checks 2 to 6 of Table STL-7: the code of the first that fails. (DEDUCED, assumptions 77, 84) -/
def State.loadCheck (s : State) (n : Nat) (b : ButarIn) (imageSlot dataSlot : Nat) (start : Bool) : Option Nat :=
  let m := parseManifest false b.manifest
  if !b.headerOk start then some ccFORMAT
  else if !b.sigOk || !s.enrolled b.signer then some ccSIG
  else if s.slotState imageSlot ≠ 1 ∨ (imageSlot = 0 ∧ ¬ start) ∨ s.slotState dataSlot ≠ 1 ∨ dataSlot = 0 ∨ s.slotElsewhere n dataSlot then some ccKEY
  else if !b.gcmOk then some ccSIG
  else if !s.imageOwned n m.1 b.sections then some ccOWNER
  else none

/-! ### The tributary map (R80–R82) -/

/-- The tributary slots a shed's configuration enables: the slot, its clock, and whether it is a driver slot. -/
def cfgSlots (c : ShedCfg) : List (Nat × Nat × Bool) := c.drivers.map (fun x => (x.1, x.2, true)) ++ c.taps.map (fun x => (x.1, x.2, false))

/-- The planes of stall n that hold an image: live planes, and background planes while there is a background image. -/
def State.imagePlanes (s : State) (n : Nat) : List (Nat × ShedCfg) :=
  (s.shedsOf n).flatMap (fun sh =>
    (if s.planeState sh (s.livePlane sh) = plLIVE then [(sh, (s.plane sh (s.livePlane sh)).cfg)] else []) ++
    (if (s.stall n).bg.isSome ∧ s.planeState sh (s.bgPlane sh) ≠ plBLANK ∧ s.planeState sh (s.bgPlane sh) ≠ plLOADING then
       [(sh, (s.plane sh (s.bgPlane sh)).cfg)] else []))

/-- R82: every tributary of stall n that neither image drives or taps becomes unowned. (DEDUCED, assumption 33) -/
def State.tribRelease (s : State) (n : Nat) : State :=
  let used := (s.imagePlanes n).flatMap (fun x => (cfgSlots x.2).map (fun y => slotTrib x.1 y.1))
  { s with fab := { s.fab with
      tribs := smMap Trib.none (fun t x => if x.owner = some n ∧ ¬ used.contains t then { x with owner := none, live := none, bg := none } else x) s.fab.tribs } }

/-- The DRV bits of plane p at the tap of a shed cleared on every tributary. (DEDUCED, assumption 33) -/
def State.clearDrv (s : State) (sh p : Nat) : State :=
  { s with fab := { s.fab with
      tribs := smMap Trib.none (fun t x =>
        let k := if t < 0x4000 then shedCol sh else shedRow sh
        if tapShed t k = sh then
          (if p = 0 then { x with drvA := (Fld.mk k 1).set x.drvA 0 } else { x with drvB := (Fld.mk k 1).set x.drvB 0 })
        else x) s.fab.tribs } }

/-- R82, R243: the slots of an accepted configuration enter the map: stall n owns their tributaries, and its drivers are background drivers. -/
def State.enterSlots (s : State) (n sh p : Nat) (c : ShedCfg) : State :=
  (cfgSlots c).foldl (fun t x =>
    let tr := slotTrib sh x.1
    let k := slotTap sh x.1
    let e := { t.trib tr with owner := some n }
    if x.2.2 then
      let e1 := { e with bg := some k }
      t.setTrib tr (if p = 0 then { e1 with drvA := (Fld.mk k 1).set e1.drvA 1 } else { e1 with drvB := (Fld.mk k 1).set e1.drvB 1 })
    else t.setTrib tr e) s

/-- R80, Table RTE-6: the reason a slot of stall n's image is refused; `all` lists the image's slots as (shed, slot, clock, driver). (DESIGN CHOICE, assumption 88) -/
def State.slotRefusal (s : State) (n : Nat) (all : List (Nat × Nat × Nat × Bool)) (x : Nat × Nat × Nat × Bool) : Option Nat :=
  let sh := x.1
  let t := slotTrib sh x.2.1
  let e := s.trib t
  if e.owner.isSome ∧ e.owner ≠ some n then some 2
  else if x.2.2.2 ∧ (e.bg.isSome ∨ 1 < (all.filter (fun y => y.2.2.2 && decide (slotTrib y.1 y.2.1 = t))).length) then some 1
  else if 32 ≤ x.2.2.1 ∨ all.any (fun y => decide (slotTrib y.1 y.2.1 = t) && decide (y.2.2.1 ≠ x.2.2.1)) then some 3
  else if s.bundleRetired (slotBundle sh x.2.1 (!x.2.2.2)) then some 5
  else none

/-- Check 7 (R80): the first refusal of an image's frames: its REASON, shed and tributary. (DESIGN CHOICE, assumption 88) -/
def State.routeRefusal (s : State) (n : Nat) (im : Image) (secs : List Section) : Option (Nat × Nat × Nat) :=
  let cfgs := secs.filterMap (fun x => match x with | .frames t c _ _ => some (t, c) | _ => none)
  let all := cfgs.flatMap (fun x => (cfgSlots x.2).map (fun y => (x.1, y.1, y.2.1, y.2.2)))
  match all.findSome? (fun x => (s.slotRefusal n all x).map (fun r => (r, x.1, slotTrib x.1 x.2.1))) with
  | some r => some r
  | none => cfgs.findSome? (fun x => if x.2.into.all (fun sh => (entrySheds im.entries).contains sh) then none else some (4, x.1, 0))

/-! ### Regions created by Tolmor (R218, R243) -/

/-- Whether `size` units from `base` are free on a port. -/
def State.baseFree (s : State) (port base size : Nat) : Bool :=
  decide (base + size ≤ portCapacity port) &&
  (List.range 32).all (fun j => decide (s.rgnState port j = 0) || decide (base + size ≤ s.rgnBase port j) || decide (s.rgnBase port j + s.rgnSize port j ≤ base))

/-- The lowest base at which `size` units are free: 0 or the end of a region. (DESIGN CHOICE, assumption 71) -/
def State.findBase (s : State) (port size : Nat) : Option Nat :=
  let ends := ((List.range 32).filter (fun j => s.rgnState port j ≠ 0)).map (fun j => s.rgnBase port j + s.rgnSize port j)
  (0 :: ends).foldl (fun b x => if s.baseFree port x size then (match b with | some y => some (min x y) | none => some x) else b) none

/-- A region placed on a port at the lowest free index and base, with a fresh salt, and created: the state and the index. (DESIGN CHOICE, assumptions 70, 71) -/
def State.placeRegion (s : State) (port kind id size slot : Nat) (crypt tag sect : Bool) : Option (State × Nat) :=
  match (List.range 32).find? (fun i => s.rgnState port i = 0), s.findBase port size with
  | some i, some base =>
    let s1 := s.wr32 (rRGN_CFG port i) (kind * 2 ^ 27 + id * 2 ^ 22 + b2n crypt * 2 ^ 21 + b2n tag * 2 ^ 20 + b2n sect * 2 ^ 19)
    let s2 := if port < 64 then s1.wr32 (rRGN_MAP port i) (size * 2 ^ 16 + base)
      else (s1.wr32 (rCXL_SIZE (port - 64) i) size).wr32 (rCXL_BASE (port - 64) i) base
    let s3 := ((s2.wr32 (rRGN_KEY port i) slot).wr32 (rRGN_SALT port i) (s2.freeNat 32)).useFree
    if s3.canCreate port i then some (s3.rgnCreate port i, i) else none
  | _, _ => none

/-- R243: the regions of an image, created under its data key slot; none where one cannot be placed. -/
def State.placeRegions (s : State) (n slot : Nat) : List ManEntry → Option (State × List (Nat × Nat))
  | [] => some (s, [])
  | .region p z sect tag :: es =>
    match s.placeRegion p 2 n z slot true tag sect with
    | none => none
    | some (s1, i) => (s1.placeRegions n slot es).map (fun x => (x.1, (p, i) :: x.2))
  | _ :: es => s.placeRegions n slot es

/-! ### Loading (R243, R244) -/

/-- The state of stall n's background planes and banks: those a list of entries names become `v`, the others BLANK with zero contents. -/
def State.markBg (s : State) (n v : Nat) (es : List ManEntry) : State :=
  let s1 := (s.shedsOf n).foldl (fun t sh =>
    let p := t.bgPlane sh
    let t1 := t.setPlaneSaved sh p false
    if (entrySheds es).contains sh then t1.setPlaneState sh p v
    else ((t1.setPlaneState sh p plBLANK).setPlane sh p Plane.blank).clearDrv sh p) s
  (s1.enginesOf n).foldl (fun t m =>
    if (entryEngines es).contains m then t.setEddy m ((t.eddy m).setBgState v)
    else t.setEddy m (((t.eddy m).setBgState plBLANK).setBgProg [])) s1

/-- The regions of an image destroyed. -/
def State.dropRegions (s : State) (l : List (Nat × Nat)) : State := l.foldl (fun t x => t.rgnDestroy x.1 x.2) s

/-- R244, R82: the background image of stall n is discarded. (DEDUCED, assumption 78) -/
def State.discardBg (s : State) (n : Nat) : State :=
  match (s.stall n).bg with
  | none => s
  | some im =>
    let s1 := (s.dropRegions im.regions).setStall n { s.stall n with bg := none, bgPins := [] }
    let s2 := (s1.shedsOf n).foldl (fun t sh => t.clearDrv sh (t.bgPlane sh)) s1
    let s3 : State := { s2 with fab := { s2.fab with tribs := smMap Trib.none (fun _ x => if x.owner = some n then { x with bg := none } else x) s2.fab.tribs } }
    (s3.tribRelease n).wr64 (rSTALL_TENANT_BG n) 0

/-- An accepted image begins to be written (R243): the previous background image is discarded and the named planes are LOADING. (DEDUCED, assumption 78) -/
def State.loadBegin (s : State) (n : Nat) (b : ButarIn) (dataSlot : Nat) : State :=
  let m := parseManifest false b.manifest
  let mem := b.sections.flatMap (fun x => match x with | .memFrames t recs _ => recs.map (fun r => (t, r)) | _ => [])
  let data := b.sections.filterMap (fun x => match x with | .eddyData e l => some (e, l) | _ => none)
  let im : Image := ⟨b.fld 0x10 8, b.signer, dataSlot, m.1, [], mem, data⟩
  let formed := m.2 && decide (b.manifest.length = b.fld 0x18 4) && decide (b.sections.length = b.fld 0x1C 4) && b.sections.all sectionFormed
  let s1 := (s.discardBg n).markBg n plLOADING m.1
  s1.setStall n { s1.stall n with load := some ⟨im, b.sections, formed⟩ }

/-- A load is over without its image (R243, R81): every plane it wrote is INVALID. -/
def State.loadUndo (s : State) (n : Nat) : State :=
  match (s.stall n).load with
  | none => s
  | some r => (s.markBg n plINVALID r.image.entries).setStall n { s.stall n with load := none, bg := none }

/-- One accepted FRAMES section written into the background plane (R243). (DEDUCED, assumption 85) -/
def State.writeFrames (s : State) (n sh : Nat) (c : ShedCfg) : State :=
  let p := s.bgPlane sh
  (s.setPlane sh p ⟨c, []⟩).enterSlots n sh p c

/-- R243: the sections of an accepted image in their planes and banks, and the named planes LOADED. -/
def State.writeImage (s : State) (n : Nat) (r : LoadRun) : State :=
  let s1 := (s.shedsOf n).foldl (fun t sh =>
    let p := t.bgPlane sh
    let t1 := (t.setPlane sh p Plane.blank).clearDrv sh p
    { t1 with fab := { t1.fab with upsets := smClear (fun k => decide (k / 64 / 2304 = 2 * sh + p)) t1.fab.upsets } }) s
  let s2 := (s1.enginesOf n).foldl (fun t m => t.setEddy m ((t.eddy m).setBgProg [])) s1
  let s3 := r.sections.foldl (fun t x =>
    match x with
    | .frames sh c _ _ => t.writeFrames n sh c
    | .eddyProg m bs _ =>
      t.setEddy m ((t.eddy m).setBgProg ((List.range bs.length).foldl (fun q i => smSet 0 q i (listGet 0 bs i)) []))
    | _ => t) s2
  s3.markBg n plLOADED r.image.entries

/-- LOAD_END (R243): checks 7 and 8 of Table STL-7, and the end of the load: the image in place, or the load undone. (DEDUCED, assumption 77) -/
def State.loadEnd (s : State) (n : Nat) : State :=
  match (s.stall n).load with
  | none => s
  | some r =>
    let job := fun (j : Job) => decide (j.kind = .loadImage n)
    let page := PageKind.stall.addr n
    match s.routeRefusal n r.image r.sections with
    | some (reason, sh, t) =>
      let s1 := ((s.loadUndo n).wr32 (rTRIB_REFUSE_LAST 0) (2 ^ 31 + reason * 2 ^ 28 + n * 2 ^ 23 + sh / 48 * 2 ^ 20 + sh % 48 * 2 ^ 14)).wr32
        (rTRIB_REFUSE_ID 0) (if reason = 4 then 0 else t)
      (((s1.irq (PageKind.tribCtl.addr 0) 1).eventRecord 4 0).irq page 2).endJobs job ccROUTE 0
    | none =>
      if !r.formed then ((s.loadUndo n).irq page 2).endJobs job ccFORMAT 0
      else
        match s.placeRegions n r.image.slot r.image.entries with
        | none => ((s.loadUndo n).irq page 2).endJobs job ccOWNER 0
        | some (s1, rs) =>
          let s2 := s1.writeImage n r
          let s3 := (s2.setStall n { s2.stall n with load := none, bg := some { r.image with regions := rs } }).tribRelease n
          ((s3.wr64 (rSTALL_TENANT_BG n) r.image.tenant).irq page 2).endJobs job ccDONE 0

/-! ### Arming a swap (R245, R246) -/

/-- R245: the plane condition. (DEDUCED, assumption 73) -/
def State.bgReady (s : State) (n : Nat) : Bool :=
  (s.bgStates n).all (fun x => decide (x = plLOADED)) || (s.bgStates n).all (fun x => decide (x = plBLANK))

/-- R245: whether the swap parks the stall. (DEDUCED, assumption 81) -/
def State.parks (s : State) (n : Nat) : Bool :=
  (s.bgStates n).all (fun x => decide (x = plBLANK)) && (!(s.bgStates n).isEmpty || (s.stall n).bg.isNone)

/-- BG_SAVED: the next swap without FRESH restores saved state. -/
def State.bgSaved (s : State) (n : Nat) : Bool := (s.shedsOf n).any (fun sh => s.planeSaved sh (s.bgPlane sh))

/-- A swap of stall n is armed at T on device alarm 32 + n. -/
def State.armSwap (s : State) (n at_ : Nat) (fresh : Bool) : State :=
  let k := 32 + n
  let s1 := ((s.wr32 (rALARM_ACT 0 k) 1).wr64 (rALARM_T 0 k) at_).wr32 (rALARM_STAT 0 k) (2 ^ 31)
  let s2 := (s1.fset (rSTALL_STAT n) fSTALL_STAT_ARMED 1).wr64 (rSTALL_SWAP_AT n) at_
  s2.setStall n { s2.stall n with armed := some (at_, fresh) }

/-- The swap armed for stall n is disarmed. -/
def State.disarmSwap (s : State) (n : Nat) : State :=
  let s1 := ((s.fset (rALARM_STAT 0 (32 + n)) fALARM_STAT_ARMED 0).wr64 (rALARM_T 0 (32 + n)) 0).fset (rSTALL_STAT n) fSTALL_STAT_ARMED 0
  (s1.wr64 (rSTALL_SWAP_AT n) 0).setStall n { s1.stall n with armed := none }

/-- The swap armed for stall n is abandoned with DATA `reason` (R246, R276, R298). -/
def State.abandonSwap (s : State) (n reason : Nat) : State :=
  if (s.stall n).armed.isNone then s
  else ((s.disarmSwap n).irq (PageKind.stall.addr n) 3).endJobs (fun j => decide (j.kind = .swapStall n)) ccABANDONED reason

/-! ### The swap (R247–R251) -/

/-- R299: at a strobe every stall alarm whose T is at or after the swap's is disarmed, and every FIRED bit and signal clears. -/
def State.swapAlarms (s : State) (n at_ : Nat) : State :=
  let ctl := s.rd32 (rSTALL_ALARM_CTL n)
  let keep := (List.range 4).foldl (fun m j => if ctl.testBit j && decide (s.rd64 (rSTALL_ALARM_T n j) < at_) then m + 2 ^ j else m) 0
  let s1 := (s.wr32 (rSTALL_ALARM_CTL n) (ctl / 2 ^ 12 * 2 ^ 12 + keep))
  { s1 with tide := { s1.tide with signals := smDel n s1.tide.signals } }

/-- The swap strobe begins the swap of stall n (steps 1 and 2 of Table STL-8). -/
def State.swapStart (s : State) (n at_ : Nat) (fresh group : Bool) : State :=
  let st := s.stallState n
  let was := if st = stFAULTED then s.fget (rSTALL_STAT n) fSTALL_STAT_CAUSE else 0
  let s1 := s.setStall n { s.stall n with
    armed := none, swap := some ⟨fresh, s.parks n, s.tide.ticks, was, false, false, false, 0, 384, group⟩ }
  let s2 := (((s1.setStallState n stSWAPPING).fset (rSTALL_STAT n) fSTALL_STAT_CAUSE 0).fset (rSTALL_STAT n) fSTALL_STAT_SAVE_SUSPECT 0).wr64
    (rSTALL_SWAP_LAST n) at_
  let s3 := (s2.trace n (traceEntry 9 2 n 0 0 0 0)).freeze n true
  let s4 := (s3.endGrantsOf n).swapAlarms n at_
  let tenant := match (s4.stall n).bg with | some im => if s.parks n then 0 else im.tenant | none => 0
  s4.closeInterval n (some tenant)

/-- The strobe of an armed swap (R246, R247). -/
def State.strobe (s : State) (n : Nat) : State :=
  match (s.stall n).armed with
  | none => s
  | some (at_, fresh) => if s.bgReady n then (s.disarmSwap n).swapStart n at_ fresh false else s.abandonSwap n 0

/-- A running swap's record replaced. -/
def State.setSwap (s : State) (n : Nat) (w : SwapRun) : State := s.setStall n { s.stall n with swap := some w }

/-- SPINE_CLOCK_FORCE_OFF (R249): a spine clock of stall n is forced off in step 2. -/
def State.forceOff (s : State) (n : Nat) : State :=
  match (s.stall n).swap with
  | some w => if w.exchanged then s else s.fset (rSTALL_STAT n) fSTALL_STAT_SAVE_SUSPECT 1
  | none => s

/-- The flip-flops of a shed as (tile, bits). -/
def State.shedFfs (s : State) (sh : Nat) : SMap Nat := (s.fab.ffs.filter (fun x => x.1 / 8192 = sh)).map (fun x => (x.1 % 8192, x.2))

/-- The flip-flops of a shed replaced. -/
def State.setShedFfs (s : State) (sh : Nat) (m : SMap Nat) : State :=
  let cleared := smClear (fun k => decide (k / 8192 = sh)) s.fab.ffs
  { s with fab := { s.fab with ffs := m.foldl (fun f x => if x.1 < 8192 then smSet 0 f (8192 * sh + x.1) (smGet 0 m x.1) else f) cleared } }

/-- R249: the exchange in one shed; `bad` says that a word of the save area was uncorrectable. (DEDUCED, assumption 79) -/
def State.exchangeShed (s : State) (sh : Nat) (fresh bad : Bool) : State :=
  let p := s.livePlane sh
  let q := s.bgPlane sh
  let old := s.shedFfs sh
  let s1 := if s.planeState sh p = plLIVE then (s.setPlane sh p { s.plane sh p with save := old }).setPlaneSaved sh p true else s
  if s1.planeSaved sh q ∧ ¬ fresh then s1.setShedFfs sh (if bad then [] else (s1.plane sh q).save)
  else (s1.setShedFfs sh []).setPlaneSaved sh q false

/-- FLIP_FLOP_EXCHANGE (R249): step 3 in every shed of stall n; `bad` lists sheds whose save area held an uncorrectable word. -/
def State.exchange (s : State) (n : Nat) (bad : List Nat) : State :=
  match (s.stall n).swap with
  | none => s
  | some w =>
    if w.exchanged then s
    else
      let restores := fun sh => s.planeSaved sh (s.bgPlane sh) && !w.fresh
      let hit := bad.filter (fun sh => restores sh && decide (s.shedOwner sh = some n))
      let s1 := (s.shedsOf n).foldl (fun t sh => t.exchangeShed sh w.fresh (bad.contains sh)) s
      let s2 := s1.setSwap n { w with exchanged := true }
      match hit with
      | sh :: _ => s2.raiseFault n cSAVE_UNCORR (some sh)
      | [] => s2

/-- R250: the block memories, FMB registers and FIFO flags of a list of sheds, and the data memories of a list of engines, zeroed. -/
def State.zeroBlocks (s : State) (sheds engines : List Nat) : State :=
  let gone := fun k => sheds.contains (k / 64)
  let s1 : State := { s with fab := { s.fab with bms := smClear gone s.fab.bms, ponds := smClear gone s.fab.ponds, fmbs := smClear gone s.fab.fmbs } }
  let s2 := sheds.foldl (fun t sh => (t.wr32 (rFIFO_OVR_LO sh) 0).wr32 (rFIFO_OVR_HI sh) 0) s1
  engines.foldl (fun t m => t.setEddy m { t.eddy m with data := [] }) s2

/-- SWAP_ZEROING (R250): step 4. -/
def State.swapZero (s : State) (n : Nat) : State :=
  match (s.stall n).swap with
  | none => s
  | some w => if w.zeroed then s else (s.zeroBlocks (s.shedsOf n) (s.enginesOf n)).setSwap n { w with zeroed := true }

/-- R248: whether a packet of stall n to a fabric or engine port of its own remains in the mesh. -/
def State.meshBusy (s : State) (n : Nat) : Bool :=
  let own := (s.stall n).ports ++ (s.enginesOf n).map (fun m => 0xC0 + m / 4)
  s.mil.pkts.any (fun x => x.2.atRouter.isSome && decide (hget x.2.hdr hSTALL = n) && decide (hget x.2.hdr hDEV = 0) &&
    own.contains (hget x.2.hdr hSRC) && own.contains (hget x.2.hdr hDST))

/-- MESH_QUIET (R248): step 5 ends once the mesh holds no such packet. -/
def State.meshQuiet (s : State) (n : Nat) : State :=
  match (s.stall n).swap with
  | none => s
  | some w => if w.quiet || s.meshBusy n then s else s.setSwap n { w with quiet := true }

/-- A shed's planes change places: the outgoing image's plane becomes LOADED, or INVALID under R255, and a LOADED incoming one LIVE. (DEDUCED, assumptions 76, 80, 81) -/
def State.flipShed (s : State) (sh : Nat) (bad : Bool) : State :=
  let p := s.livePlane sh
  let q := s.bgPlane sh
  let s1 := if s.planeState sh p = plLIVE then
      (let t := s.setPlaneState sh p (if bad then plINVALID else plLOADED)
       if bad then t.setPlaneSaved sh p false else t)
    else s
  let s2 := if s1.planeState sh q = plLOADED then s1.setPlaneState sh q plLIVE else s1
  s2.fset (rPLANE_STAT sh) fPLANE_STAT_LIVE_PLANE q

/-- An engine's banks change places, and its registers, queues and issue state are as START leaves them (R250). -/
def Eddy.flip (e : Eddy) (bad : Bool) : Eddy :=
  let live := if e.liveB then e.stateB else e.stateA
  let e1 := if live = plLIVE then e.setLiveState (if bad then plINVALID else plLOADED) else e
  let e2 := if e1.bgState = plLOADED then e1.setBgState plLIVE else e1
  { e2 with liveB := !e.liveB, run := .stopped, pc := 0, regs := .start, queues := .empty, issue := .idle, xfers := [], stage := none }

/-- R248, R340: the endpoints the reach masks of an image admit. -/
def State.imageReach (s : State) (n : Nat) (im : Image) : List Nat :=
  entryPorts im.entries ++ (entryEngines im.entries).map (fun m => 0xC0 + m / 4) ++
  im.regions.map (fun x => memEp x.1) ++ entryReach im.entries ++
  ((entryLanes im.entries).filter (fun l => (s.stall n).lanes.contains l)).map (fun l => 0x180 + l / 40) ++ [epTolmor]

/-- Word k of the reach mask that admits a list of endpoints. -/
def reachWord (l : List Nat) (k : Nat) : Nat := (List.range 32).foldl (fun m b => m + b2n (l.contains (32 * k + b)) * 2 ^ b) 0

/-- EP_CFG or ENG_CFG_q as an image's entry sets it: VALID, OWNED, STALL, KEY, QOS_DEF and QOS_MAX. -/
def stallCfg (n key qd qm : Nat) : Nat := 2 ^ 31 + 2 ^ 29 + n * 2 ^ 24 + key * 2 ^ 17 + qd * 2 ^ 15 + qm * 2 ^ 13

/-- R160, R248: the settings of one engine of stall n for an incoming image. -/
def State.engineSettings (s : State) (n m : Nat) (im : Option Image) : State :=
  let e := 0xC0 + m / 4
  let q := m % 4
  let s1 := (s.resetPage (PageKind.eddy.addr m) (fun o => decide (o < 0x040))).resetPage (PageKind.eddyIo.addr m) (fun o => decide (o < 0x040))
  let entry : Option ManEntry := match im with | some i => i.entries.find? (fun x : ManEntry => match x with | ManEntry.engine k _ _ _ _ _ => decide (k = m) | _ => false) | none => none
  match im, entry with
  | some i, some (ManEntry.engine _ pc _ compat qd qm) =>
    let s2 := ((s1.fset (rEDDY_START_PC m) fEDDY_START_PC_PC pc).fset (rEDDY_CFG m) fEDDY_CFG_ROUND_COMPAT (b2n compat)).wr32 (rENG_CFG e q)
      (stallCfg n i.slot qd qm)
    (List.range 13).foldl (fun t k => t.wr32 (rENG_REACH e q k) (reachWord (s.imageReach n i) k)) s2
  | _, _ => (List.range 13).foldl (fun t k => t.wr32 (rENG_REACH e q k) 0) (s1.wr32 (rENG_CFG e q) (claimedCfg n))

/-- R248: the settings of one fabric port of stall n for an incoming image. -/
def State.portSettings (s : State) (n e : Nat) (im : Option Image) : State :=
  let s1 := s.wr32 (rEPQ_CTL e) 0x11
  let entry : Option ManEntry := match im with | some i => i.entries.find? (fun x : ManEntry => match x with | ManEntry.fabricPort k _ _ _ => decide (k = e) | _ => false) | none => none
  match im, entry with
  | some i, some (ManEntry.fabricPort _ _ qd qm) =>
    (List.range 13).foldl (fun t k => t.wr32 (rEP_REACH e k) (reachWord (s.imageReach n i) k)) (s1.wr32 (rEP_CFG e) (stallCfg n i.slot qd qm))
  | _, _ => (List.range 13).foldl (fun t k => t.wr32 (rEP_REACH e k) 0) (s1.wr32 (rEP_CFG e) (claimedCfg n))

/-- R82: the taps of every entry of stall n change places. -/
def State.flipTaps (s : State) (n : Nat) : State :=
  { s with fab := { s.fab with tribs := smMap Trib.none (fun _ x => if x.owner = some n then { x with live := x.bg, bg := x.live } else x) s.fab.tribs } }

/-- Step 6 of Table STL-8. -/
def State.flipAll (s : State) (n : Nat) (w : SwapRun) : State :=
  let bad := decide (w.was = cCFG_UNCORR) || decide (w.was = cTRIB_CONTENTION)
  let t := s.stall n
  let inc := if w.park then none else t.bg
  let s1 := (s.shedsOf n).foldl (fun u sh => u.flipShed sh bad) s
  let s2 := (s1.enginesOf n).foldl (fun u m => (u.setEddy m ((u.eddy m).flip bad)).engineSettings n m inc) s1
  let s3 := t.ports.foldl (fun u e => u.portSettings n e inc) s2
  let s4 := (s3.setStall n { s3.stall n with live := inc, bg := t.live }).flipTaps n
  ((s4.wr64 (rSTALL_TENANT_LIVE n) (match inc with | some i => i.tenant | none => 0)).wr64
    (rSTALL_TENANT_BG n) (match t.live with | some i => i.tenant | none => 0))

/-- R251, R252: stall n is released: FAULTED where a cause was recorded since the strobe, EMPTY where the swap parks it, and LIVE otherwise. (DESIGN CHOICE, assumption 82) -/
def State.release (s : State) (n : Nat) (w : SwapRun) : State :=
  let ns := s.tide.ticks - w.at_
  let s1 := (s.setStall n { s.stall n with swap := none }).irq (PageKind.stall.addr n) 0
  let job := fun (j : Job) => decide (j.kind = .swapStall n)
  if w.cause ≠ 0 then ((s1.setStallState n stFAULTED).fset (rSTALL_STAT n) fSTALL_STAT_CAUSE w.cause).endJobs job ccFAULTED w.cause
  else if w.park then (s1.setStallState n stEMPTY).swapPins n w.fresh |>.endJobs job ccDONE (ns % 2 ^ 32)
  else
    let s2 := ((s1.setStallState n stLIVE).swapPins n w.fresh)
    let s3 := (s2.shedsOf n).foldl (fun t sh => t.setGated sh false) s2
    let autos : List Nat := match (s3.stall n).live with
      | some i => i.entries.filterMap (fun x : ManEntry => match x with | ManEntry.engine m _ true _ _ _ => some m | _ => none)
      | none => []
    (autos.foldl (fun t m => t.engineStart m) s3).endJobs job ccDONE (ns % 2 ^ 32)

/-- Whether a swap enters FILL (R251). -/
def State.fills (s : State) (n : Nat) (w : SwapRun) : Bool :=
  w.fresh && (match (s.stall n).live with | some i => !i.memFill.isEmpty || !i.dataFill.isEmpty | none => false)

/-- PLANE_FLIP (R247): steps 6 and 7, once steps 3 to 5 are done: the flip, and then release or FILL. (DESIGN CHOICE, assumptions 2, 82) -/
def State.planeFlip (s : State) (n : Nat) : State :=
  match (s.stall n).swap with
  | none => s
  | some w =>
    if !(w.exchanged && w.zeroed && w.quiet) || decide (s.stallState n ≠ stSWAPPING) then s
    else
      let s1 := (s.flipAll n w).fset (rSTALL_SWAP_DUR n) fSTALL_SWAP_DUR_SWAP_NS (min (s.tide.ticks - w.at_) (2 ^ 16 - 1))
      if s1.fills n w then s1.setStallState n stFILL else s1.release n w

/-- R251, R241: the fill of an image written into block memories and data memories. -/
def State.writeFill (s : State) (i : Image) : State :=
  let s1 := i.memFill.foldl (fun t x =>
    let put := fun (m : SMap Nat) => (List.range x.2.words.length).foldl (fun m k => smSet 0 m (x.2.word + k) (listGet 0 x.2.words k % 2 ^ 72)) m
    if x.2.kind = 0 then t.setBm x.1 x.2.block { t.bm x.1 x.2.block with mem := put (t.bm x.1 x.2.block).mem }
    else t.setPond x.1 x.2.block { t.pond x.1 x.2.block with mem := put (t.pond x.1 x.2.block).mem }) s
  i.dataFill.foldl (fun t x =>
    t.setEddy x.1 { t.eddy x.1 with
      data := (List.range ((x.2.length + 3) / 4)).foldl (fun m k => smSet 0 m k (BitVec.ofNat 32 (leNat ((x.2.drop (4 * k)).take 4)))) (t.eddy x.1).data }) s1

/-- FILL_END (R251): the fill is complete and the stall is released. -/
def State.fillEnd (s : State) (n : Nat) : State :=
  match (s.stall n).swap with
  | none => s
  | some w =>
    if s.stallState n ≠ stFILL then s
    else
      let us := (s.tide.ticks - w.at_ - s.fget (rSTALL_SWAP_DUR n) fSTALL_SWAP_DUR_SWAP_NS) / 1000
      let s1 := match (s.stall n).live with | some i => s.writeFill i | none => s
      (s1.fset (rSTALL_SWAP_DUR n) fSTALL_SWAP_DUR_FILL_US (min us (2 ^ 16 - 1))).release n w

/-- R257: a start bundle's stall swaps with no alarm, all steps at once. -/
def State.swapAtStart (s : State) (n : Nat) : State :=
  ((((((s.swapStart n 0 true true).exchange n []).swapZero n).meshQuiet n).planeFlip n).fillEnd n)

/-! ### Die loss, re-keying, freezing and destruction -/

/-- R254: whether a stall claims a resource on die d (0–7 yards, 8–11 fords). -/
def State.claimsOn (s : State) (n d : Nat) : Bool :=
  if d < 8 then
    (s.shedsOf n).any (fun sh => sh / 48 = d) || (s.enginesOf n).any (fun m => m / 64 = d) || (s.stall n).ports.any (fun e => routerYard e = d)
  else (s.stall n).lanes.any (fun l => l / 40 = d - 8)

/-- R254, Table STL-10: stall n enters DIE_LOST and freezes. (DEDUCED, assumption 83) -/
def State.dieLost (s : State) (n : Nat) : State :=
  let st := s.stallState n
  if st = stFREE ∨ st = stDIE_LOST then s
  else
    let jobs := fun (j : Job) => match j.kind with
      | .swapStall k => decide (k = n)
      | .loadImage k => decide (k = n)
      | .rekeyStall k _ => decide (k = n)
      | _ => false
    let s1 := (((s.disarmSwap n).loadUndo n).freeze n false).endJobs jobs ccDIE_LOST 0
    let s2 := (s1.setStall n { s1.stall n with swap := none }).finc (rSTALL_STAT n) fSTALL_STAT_FAULTS
    let s3 := if st = stFAULTED then s2
      else (s2.fset (rSTALL_STAT n) fSTALL_STAT_CAUSE cDIE_LOST).wr32 (rSTALL_FAULT_AT n) (2 ^ 31 + cDIE_LOST * 2 ^ 27 + 0x3F * 2 ^ 18)
    (((s3.setStallState n stDIE_LOST).endGrantsOf n).irq (PageKind.stall.addr n) 1).eventRecord 2 n

/-- R277: REKEY_STALL begins: every region of the live image walks to the new slot. -/
def State.rekeyBegin (s : State) (n slot : Nat) : State :=
  match (s.stall n).live with
  | none => s
  | some i => i.regions.foldl (fun t x =>
      let t1 := t.fset (rRGN_KEY x.1 x.2) fRGN_KEY_KEY_NEXT slot
      if t1.canRekey x.1 x.2 then t1.rgnRekey x.1 x.2 else t1) s

/-- R224: whether every region of the live image has settled under the new slot, or is FREE. -/
def State.rekeySettled (s : State) (n slot : Nat) : Bool :=
  match (s.stall n).live with
  | none => true
  | some i => i.regions.all (fun x => decide (s.rgnState x.1 x.2 = 4) || decide (s.rgnState x.1 x.2 = 0) || decide (s.keyCur x.1 x.2 = slot))

/-- R224, R277: the end of REKEY_STALL: endpoints stamp the new index, the regions FINISH, and the image's data key slot is the new one. -/
def State.rekeyEnd (s : State) (n slot : Nat) : State :=
  match (s.stall n).live with
  | none => s
  | some i =>
    let s1 := (s.stall n).ports.foldl (fun t e => if fEP_CFG_VALID.get (t.rd32 (rEP_CFG e)) = 1 then t.fset (rEP_CFG e) fEP_CFG_KEY slot else t) s
    let s2 := (s1.enginesOf n).foldl (fun t m =>
      let a := rENG_CFG (0xC0 + m / 4) (m % 4)
      if fENG_CFG_VALID.get (t.rd32 a) = 1 then t.fset a fENG_CFG_KEY slot else t) s1
    let s3 := i.regions.foldl (fun t x => if t.rgnState x.1 x.2 = 4 then t.rgnFinish x.1 x.2 else t) s2
    s3.setStall n { s3.stall n with live := some { i with slot := slot } }

/-- FREEZE_STALL (R253). -/
def State.freezeStall (s : State) (n : Nat) : State := s.raiseFault n cFREEZE none

/-- The stall alarms of stall n disarmed (R299), its signals low. -/
def State.clearAlarms (s : State) (n : Nat) : State :=
  let s1 := s.wr32 (rSTALL_ALARM_CTL n) (s.rd32 (rSTALL_ALARM_CTL n) / 16 * 16)
  { s1 with tide := { s1.tide with signals := smDel n s1.tide.signals, periods := smClear (fun k => decide (k / 4 = n)) s1.tide.periods } }

/-- DESTROY_STALL (R256): the stall is frozen, its state and both images are gone, and every claim is released. (DEDUCED, assumption 75) -/
def State.destroyStall (s : State) (n : Nat) : State :=
  let sheds := s.shedsOf n
  let engines := s.enginesOf n
  let t := s.stall n
  let s1 := (((s.abandonSwap n 2).loadUndo n).freeze n false).endGrantsOf n
  let s2 := s1.endJobs (fun j => match j.kind with | .loadImage k => decide (k = n) | .rekeyStall k _ => decide (k = n) | _ => false) ccABANDONED 2
  let s3 := s2.zeroBlocks sheds engines
  let s4 := (match t.live with | some i => s3.dropRegions i.regions | none => s3)
  let s5 := (match t.bg with | some i => s4.dropRegions i.regions | none => s4).closeInterval n none
  let s6 := sheds.foldl (fun u sh =>
    (((((u.setShedFfs sh []).setPlane sh 0 Plane.blank).setPlane sh 1 Plane.blank).clearDrv sh 0).clearDrv sh 1).wr32 (rPLANE_STAT sh) (2 ^ 16)) s5
  let s7 : State := { s6 with fab := { s6.fab with
      tribs := smMap Trib.none (fun _ x => if x.owner = some n then { x with owner := none, live := none, bg := none } else x) s6.fab.tribs
      upsets := smClear (fun k => sheds.contains (k / 64 / 2304 / 2)) s6.fab.upsets } }
  let s8 := engines.foldl (fun u m =>
    (List.range 13).foldl (fun v k => v.wr32 (rENG_REACH (0xC0 + m / 4) (m % 4) k) 0) ((u.setEddy m Eddy.reset).wr32 (rENG_CFG (0xC0 + m / 4) (m % 4)) 0)) s7
  let s9 := t.ports.foldl (fun u e => (List.range 13).foldl (fun v k => v.wr32 (rEP_REACH e k) 0) (u.wr32 (rEP_CFG e) 0)) s8
  let s10 := t.lanes.foldl (fun u l => (u.fabCfgWrite l 0).wr32 (rLANE_TX_EQ l) (regReset (rLANE_TX_EQ l)).toNat) s9
  let s11 := t.pins.foldl (fun u p => u.resetPin p) s10
  let s12 := ((((s11.clearAlarms n).fset (rSTALL_STAT n) fSTALL_STAT_CAUSE 0).fset (rSTALL_STAT n) fSTALL_STAT_FAULTS 0).wr64 (rSTALL_TENANT_LIVE n) 0).wr64 (rSTALL_TENANT_BG n) 0
  (s12.setStall n Stall.free).setStallState n stFREE

end Sys2Proof.Machine
end

