-- ==== Sys2Proof/Machine/Tide.lean ====
section
/-! DEFINITION. Tide (R288–R299, R490): the counter, samples, states, and the device and stall alarms. -/

namespace Sys2Proof.Machine

/-- The Tide unit replaced. -/
def State.setTide (s : State) (t : Tide) : State := { s with tide := t }

/-- Table TID-2: the Tide state. -/
def State.tideState (s : State) : Nat := s.fget (rTIDE_STAT 0) fTIDE_STAT_STATE

/-- A number cut to the range −m to m. -/
def clampInt (m x : Int) : Int := if x < -m then -m else if m < x then m else x

/-- A 32-bit field as a signed number. -/
def signed32 (v : Nat) : Int := if v < 2 ^ 31 then v else (v : Int) - 2 ^ 32

/-- A signed number as a 32-bit field. -/
def field32 (x : Int) : Nat := (x % 2 ^ 32).toNat

/-! ### The counter -/

/-- R288, R292, R293: whether the counter runs. (DEDUCED, assumption 121) -/
def State.tideRuns (s : State) : Bool := decide (s.tideState ≠ 0) && !s.tide.pairLost && !s.flag (rTIDE_STAT 0) fTIDE_STAT_FROZEN

/-- One tick of the counter: 1 ns, with the frequency correction and at most 100 ppm of slewing (R288, R292). -/
def Tide.tick (ppb : Int) (t : Tide) : Tide :=
  let adj := clampInt 100000 t.slew
  let total := ((t.frac : Int) + 1000000000 + ppb + adj).toNat
  { t with
    last := t.now
    now := (t.now + total / 1000000000) % 2 ^ 64
    frac := total % 1000000000
    slew := t.slew - adj
    ticks := t.ticks + 1
    prev := t.prev.map (fun p => { p with removed := p.removed + adj, ticks := p.ticks + 1 }) }

/-- A counter tick of the device: Tide moves on, and every claimed shed's leaf counts (R311). (DEDUCED, assumption 121) -/
def State.tideTick (s : State) : State :=
  if s.tideRuns then (s.setTide (s.tide.tick (signed32 (s.rd32 (rTIDE_FREQ 0))))).meterTick else s

/-! ### States (R291) -/

/-- R292: the order of the states, best first; NONE counts as worst. (DEDUCED, assumption 116) -/
def tideRank (st : Nat) : Nat := if st = 2 then 0 else if st = 1 then 1 else if st = 3 then 2 else if st = 4 then 3 else 4

/-- R292: ROOT_STATE is the worse of the device's state and the one its parent reports; while it is not LOCKED open intervals carry HOLDOVER. (DEDUCED, assumption 116) -/
def State.updateRoot (s : State) : State :=
  let root := match s.tide.parentRoot with
    | some p => if tideRank s.tideState < tideRank p then p else s.tideState
    | none => s.tideState
  let s1 := s.fset (rTIDE_STAT 0) fTIDE_STAT_ROOT_STATE root
  if root = 2 then s1 else s1.flagIntervals 4

/-- R298: every armed swap is disarmed and abandoned. -/
def State.abandonSwaps (s : State) : State := (List.range 32).foldl (fun t n => t.abandonSwap n 3) s

/-- A change of the Tide state, with its page events; entry into LOST abandons the armed swaps (R298). -/
def State.enterTide (s : State) (st : Nat) : State :=
  if s.tideState = st then s
  else
    let s1 := (s.fset (rTIDE_STAT 0) fTIDE_STAT_STATE st).irq (PageKind.tideCtl.addr 0) 0
    let s2 := s1.updateRoot.setTide { s1.updateRoot.tide with locks := 0 }
    if st = 4 then (s2.irq (PageKind.tideCtl.addr 0) 2).abandonSwaps else s2

/-! ### Alarms (R295–R299) -/

/-- The first instant after `now` that lies a whole number of periods of `p` ns after `t`. -/
def nextPeriod (t p now : Nat) : Nat := if now < t then t + p else t + p * ((now - t) / p + 1)

/-- R295, R296: device alarm k fires. (DEDUCED, assumption 120) -/
def State.fireDevice (s : State) (k : Nat) (late : Bool) : State :=
  let act := s.rd32 (rALARM_ACT 0 k)
  let code := act % 256
  let t := s.rd64 (rALARM_T 0 k)
  let per := act / 65536 * 1000
  let s1 := if per = 0 then (s.fset (rALARM_STAT 0 k) fALARM_STAT_ARMED 0).wr64 (rALARM_T 0 k) 0 else s.wr64 (rALARM_T 0 k) (nextPeriod t per s.tide.now)
  let s2 := (s1.fset (rALARM_STAT 0 k) fALARM_STAT_LATE (b2n late)).setBit (rALARM_FIRED_LO 0 + k / 32 * 4) (k % 32) true
  if code = 0 then s2.irq (PageKind.tideAlarm.addr 0) 0
  else if code = 1 then s2.strobe (k - 32)
  else s2.schedIo (act / 256 % 256)

/-- R295, R299: stall alarm j of stall n fires. -/
def State.fireStall (s : State) (n j : Nat) (late : Bool) : State :=
  let c := rSTALL_ALARM_CTL n
  let t := s.rd64 (rSTALL_ALARM_T n j)
  let per := smGet 0 s.tide.periods (4 * n + j) * 1000
  let s1 := if per = 0 then s.setBit c j false else s.wr64 (rSTALL_ALARM_T n j) (nextPeriod t per s.tide.now)
  let s2 := ((s1.setBit c (12 + j) late).setBit c (8 + j) true).irq (PageKind.tideStall.addr n) 0
  if s2.bit c (16 + j) then s2.setTide { s2.tide with signals := smSet 0 s2.tide.signals n (Nat.lor (smGet 0 s2.tide.signals n) (2 ^ j)) } else s2

/-- The armed alarms as (T, order among those of one tick, number), stall alarm j of stall n being 0x100 + 4n + j (R296). -/
def State.armedAlarms (s : State) : List (Nat × Nat × Nat) :=
  ((List.range 64).filter (fun k => s.flag (rALARM_STAT 0 k) fALARM_STAT_ARMED)).map
      (fun k => (s.rd64 (rALARM_T 0 k), if s.rd32 (rALARM_ACT 0 k) % 256 = 1 then 0 else 1, k)) ++
    ((List.range 128).filter (fun i => s.bit (rSTALL_ALARM_CTL (i / 4)) (i % 4))).map
      (fun i => (s.rd64 (rSTALL_ALARM_T (i / 4) (i % 4)), 2, 0x100 + i))

/-- Whether `x` comes before `y`: by T, then by R296's order, then by number. (DEDUCED, assumption 117) -/
def alarmBefore (x y : Nat × Nat × Nat) : Bool :=
  decide (x.1 < y.1) || (decide (x.1 = y.1) && (decide (x.2.1 < y.2.1) || (decide (x.2.1 = y.2.1) && decide (x.2.2 < y.2.2))))

/-- The first of the alarms due, those with T up to Tide. At one counter tick, those whose T the tick passed come in R296's order, whatever
their T; after a step (`stepped`) they come in order of T (R297). (DEDUCED, assumption 117) -/
def State.nextAlarm (s : State) (stepped : Bool) : Option (Nat × Nat × Nat) :=
  let due := s.armedAlarms.filter (fun x => x.1 ≤ s.tide.now)
  let key := fun (x : Nat × Nat × Nat) => if !stepped && decide (s.tide.last < x.1) then (s.tide.now, x.2.1, x.2.2) else x
  due.foldl (fun b x => match b with
    | none => some x
    | some y => if alarmBefore (key x) (key y) then some x else b) none

/-- The alarm numbered `a` fires. -/
def State.fireAlarm (s : State) (a : Nat) (late : Bool) : State :=
  if a < 64 then s.fireDevice a late else s.fireStall ((a - 0x100) / 4) ((a - 0x100) % 4) late

/-- ALARM_FIRE (R296): an epoch close due at the tick comes first, then the first alarm due. -/
def State.alarmFire (s : State) : State :=
  match s.nextAlarm false with
  | none => s
  | some x => s.closeEpoch.fireAlarm x.2.2 false

/-- R297: after a step every alarm whose T it passed fires, in ascending order of T, with LATE. -/
def State.fireAll : Nat → State → State
  | 0, s => s
  | k + 1, s =>
    match s.nextAlarm true with
    | none => s
    | some x => State.fireAll k (s.fireAlarm x.2.2 true)

/-- STALL_ALARM_CTL of stall n written (R299). (DEDUCED, assumption 118) -/
def State.stallAlarmWrite (s : State) (req : Req) (n v : Nat) : State :=
  let c := rSTALL_ALARM_CTL n
  let one := fun (x : State × Bool) (j : Nat) =>
    let t := x.1
    let t := if v.testBit (8 + j) then
        (t.setBit c (8 + j) false).setTide { t.tide with signals := smSet 0 t.tide.signals n (smGet 0 t.tide.signals n - (if (smGet 0 t.tide.signals n).testBit j then 2 ^ j else 0)) }
      else t
    let armed := t.bit c j
    let arm := v.testBit j
    let disarm := v.testBit (4 + j)
    let newSig := v.testBit (16 + j) != t.bit c (16 + j)
    if arm && disarm then (t, true)
    else if armed then
      if newSig then (t, true)
      else if disarm then (t.setBit c j false, x.2)
      else (t, x.2)
    else if arm && (decide (t.tideState = 0) || decide (t.rd64 (rSTALL_ALARM_T n j) ≤ t.tide.now + 1000)) then (t, true)
    else
      let t1 := t.setBit c (16 + j) (v.testBit (16 + j))
      if arm then ((t1.setBit c j true).setTide { t1.tide with periods := smSet 0 t1.tide.periods (4 * n + j) 0 }, x.2) else (t1, x.2)
  let r := (List.range 4).foldl one (s, false)
  if r.2 then r.1.refuse req c causeRule else r.1

/-- STALL_ALARM_T_j of stall n written (R299). -/
def State.stallAlarmT (s : State) (req : Req) (n j v : Nat) : State :=
  if s.bit (rSTALL_ALARM_CTL n) j then s.refuse req (rSTALL_ALARM_T n j) causeRule else s.wr64 (rSTALL_ALARM_T n j) v

/-- R295, Table TMC-8: the checks and effect of SET_ALARM; the refusal's code, or the state with the alarm armed. -/
def State.setAlarm (s : State) (a act at_ : Nat) : Nat ⊕ State :=
  let code := act % 256
  let dev := decide (a < 64)
  if !(code = 0 || (code = 2 && dev) || (code = 3 && !dev)) then .inl ccFORMAT
  else if dev then
    if 32 ≤ a || s.flag (rALARM_STAT 0 a) fALARM_STAT_ARMED then .inl ccSTATE
    else if s.tideState = 0 || at_ < s.tide.now + 10000 then .inl ccTIME
    else .inr (((s.wr32 (rALARM_ACT 0 a) act).wr64 (rALARM_T 0 a) at_).fset (rALARM_STAT 0 a) fALARM_STAT_ARMED 1)
  else
    let n := (a - 0x100) / 4
    let j := (a - 0x100) % 4
    let c := rSTALL_ALARM_CTL n
    if s.bit c j then .inl ccSTATE
    else if s.tideState = 0 || at_ < s.tide.now + 10000 then .inl ccTIME
    else
      let s1 := ((s.wr64 (rSTALL_ALARM_T n j) at_).setBit c (16 + j) (decide (code = 3))).setBit c j true
      .inr (s1.setTide { s1.tide with periods := smSet 0 s1.tide.periods (4 * n + j) (act / 65536) })

/-- R295: CLEAR_ALARM disarms the alarm. -/
def State.clearAlarm (s : State) (a : Nat) : Nat ⊕ State :=
  if a < 64 then
    if 32 ≤ a then .inl ccSTATE else .inr ((s.fset (rALARM_STAT 0 a) fALARM_STAT_ARMED 0).wr64 (rALARM_T 0 a) 0)
  else .inr (s.setBit (rSTALL_ALARM_CTL ((a - 0x100) / 4)) ((a - 0x100) % 4) false)

/-! ### Samples (R291, R292, R490) -/

/-- R490: the frequency correction after a slewed sample from `src` with offset `o`. (DEDUCED, assumption 115) -/
def State.updateFreq (s : State) (src pair : Nat) (o : Int) : State :=
  match s.tide.prev with
  | some p =>
    if p.source = src ∧ p.pair = pair ∧ p.ticks ≠ 0 then
      let drift := Int.tdiv ((o - p.o) * 1000000000 + p.removed) p.ticks
      s.wr32 (rTIDE_FREQ 0) (field32 (clampInt 100000 (signed32 (s.rd32 (rTIDE_FREQ 0)) + drift)))
    else s
  | none => s

/-- R292: a step or freeze is counted, flagged in the open intervals (Table TID-9) and raises its page event. -/
def State.countStep (s : State) : State :=
  ((s.finc (rTIDE_STAT 0) fTIDE_STAT_STEPS).irq (PageKind.tideCtl.addr 0) 1).flagIntervals 8

/-- R292: the correction of a sample's offset: slewing, a step, or a freeze. (DEDUCED, assumption 115) -/
def State.correct (s : State) (src : Nat) (o : Int) : State :=
  let pair := s.fget (rTIDE_CFG 0) fTIDE_CFG_REFCLK
  let resync : Int := s.fget (rTIDE_CFG 0) fTIDE_CFG_RESYNC_NS
  if -resync ≤ o ∧ o ≤ resync then
    let s1 := s.updateFreq src pair o
    s1.setTide { s1.tide with slew := o * 1000000000, prev := some ⟨src, pair, o, 0, 0⟩ }
  else if resync < o then
    let s1 := s.countStep
    let s2 := s1.setTide { s1.tide with last := s1.tide.now, now := (s1.tide.now + o.toNat) % 2 ^ 64, slew := 0, prev := some ⟨src, pair, 0, 0, 0⟩ }
    State.fireAll 192 s2.closeEpoch
  else (s.countStep.setTide { s.countStep.tide with slew := 0, prev := none }).fset (rTIDE_STAT 0) fTIDE_STAT_FROZEN 1

/-- R291: the state after a sample with offset `o`. -/
def State.judge (s : State) (o : Int) : State :=
  let lock : Int := max 1 (s.fget (rTIDE_CFG 0) fTIDE_CFG_LOCK_NS)
  let st := s.tideState
  let within := decide (-lock ≤ o ∧ o ≤ lock)
  if st = 1 then
    if !within then s.setTide { s.tide with locks := 0 }
    else if s.tide.locks + 1 = 4 then s.enterTide 2
    else s.setTide { s.tide with locks := s.tide.locks + 1 }
  else if st = 2 then (if o < -(2 * lock) ∨ 2 * lock < o then s.enterTide 1 else s)
  else s.enterTide 1

/-- TIDE_SAMPLE (R291–R293): a valid sample from `src` with offset `o`. While the pair is lost it is ignored; in NONE it sets Tide. (DEDUCED, assumption 114) -/
def State.tideSample (s : State) (src : Nat) (o : Int) : State :=
  if s.tide.pairLost then s
  else if s.tideState = 0 then
    let pair := s.fget (rTIDE_CFG 0) fTIDE_CFG_REFCLK
    let v := ((s.tide.now : Int) + o).toNat % 2 ^ 64
    ((s.setTide { s.tide with now := v, last := v, frac := 0, slew := 0, prev := some ⟨src, pair, 0, 0, 0⟩ }).enterTide 1).closeEpoch
  else
    let s1 := s.wr32 (rTIDE_OFFSET 0) (field32 (if o < -(2 ^ 31) then -(2 ^ 31) else if 2 ^ 31 - 1 < o then 2 ^ 31 - 1 else o))
    (s1.judge o).correct src o

/-- The Tide source in use. -/
def State.tideSource (s : State) : Nat := s.fget (rTIDE_STAT 0) fTIDE_STAT_SOURCE

/-- R290: the CRC of 64 bits, most significant first, with polynomial 0x1021. -/
def crc16 : Nat → Nat → Nat → Nat
  | 0, _, c => c
  | k + 1, v, c =>
    let top := c / 2 ^ 15 % 2
    let c1 := c * 2 % 2 ^ 16
    crc16 k v (if (v.testBit k).toNat = top then c1 else Nat.xor c1 0x1021)

/-- R265: TOL_INFO.ROLE: 0 standalone, 1 manager, 2 worker. -/
def State.role (s : State) : Nat := s.fget (rTOL_INFO 0) fTOL_INFO_ROLE

/-- TIDE_IN_FRAME (R290, R294): a frame with Tide value `v` and CRC `c`, whose first sync bit was `age` ns ago. Within 1 ms of the start of the
Tide unit (`first`) it makes TIDE_IN the source of a device that is not a worker and has none. (DEDUCED, assumption 113) -/
def State.tideInFrame (s : State) (v c age : Nat) (first : Bool) : State :=
  if c ≠ crc16 64 v 0xFFFF then s
  else
    let s1 := if first && decide (s.tideSource = 7) && decide (s.role ≠ 2) then s.fset (rTIDE_STAT 0) fTIDE_STAT_SOURCE 5 else s
    if s1.tideSource ≠ 5 then s1
    else s1.tideSample 5 (((v % 2 ^ 64 + s1.rd32 (rTIDE_IN_DELAY 0) + age : Nat) : Int) - s1.tide.now)

/-- R289, R294: whether port n can give PTM samples: its link is up, it is in the endpoint role and PTM is enabled on it. -/
def State.ptmReady (s : State) (n : Nat) : Bool :=
  s.flag (rPCIE_STAT n) fPCIE_STAT_LINK_UP && !s.flag (rPCIE_STAT n) fPCIE_STAT_ROLE && s.flag (rPCIE_STAT n) fPCIE_STAT_PTM

/-- PTM_EXCHANGE (R289, R290): a PTM response on port n gave the PTM Master Time `v`, `age` ns ago. (DEDUCED, assumption 113) -/
def State.ptmExchange (s : State) (n v age : Nat) : State :=
  if s.tideSource = 1 + n && s.ptmReady n then s.tideSample (1 + n) (((v + age : Nat) : Int) - s.tide.now) else s

/-- SOURCE_LOST (R289, R291). -/
def State.sourceLost (s : State) : State := if s.tideState = 1 ∨ s.tideState = 2 then s.enterTide 3 else s

/-- HOLDOVER_EXPIRE (R291, R298). -/
def State.holdoverExpire (s : State) : State := if s.tideState = 3 then s.enterTide 4 else s

/-- FREEZE_END (R292). (DESIGN CHOICE, assumption 119) -/
def State.freezeEnd (s : State) : State := s.fset (rTIDE_STAT 0) fTIDE_STAT_FROZEN 0

/-- R293: a network REFCLK pair is lost; a valid Tide on it enters LOST and the counter stops. -/
def State.tidePairLost (s : State) (r : Nat) : State :=
  if s.fget (rTIDE_CFG 0) fTIDE_CFG_REFCLK ≠ r then s
  else
    let s1 := s.setTide { s.tide with pairLost := true, prev := none }
    if s1.tideState = 0 then s1 else s1.enterTide 4

/-- R293: a network REFCLK pair returns. -/
def State.tidePairBack (s : State) (r : Nat) : State :=
  if s.fget (rTIDE_CFG 0) fTIDE_CFG_REFCLK = r then s.setTide { s.tide with pairLost := false } else s

/-- TIDE_CFG_REFCLK (R294): TIDE_CFG written; a change of REFCLK moves the counter to another pair and enters HOLDOVER. -/
def State.tideCfgWrite (s : State) (v : Nat) : State :=
  let old := s.fget (rTIDE_CFG 0) fTIDE_CFG_REFCLK
  let new := fTIDE_CFG_REFCLK.get v
  let s1 := s.wr32 (rTIDE_CFG 0) (v / 16 * 16 + new)
  if new = old then s1
  else
    let lost := !s1.bit (rREF_STAT 0) (4 + new)
    let s2 := s1.setTide { s1.tide with pairLost := lost }
    if s2.tideState = 0 then s2 else s2.enterTide (if lost then 4 else 3)

/-- SET_TIDE_SOURCE (R294): the refusal's code, or the state with the source named. -/
def State.setTideSource (s : State) (src : Nat) : Nat ⊕ State :=
  if (src = 0 && s.role ≠ 2) || (src ≠ 0 && s.role = 2) || src = s.tideSource ||
      (1 ≤ src && src ≤ 4 && (s.flag (rPCIE_STAT (src - 1)) fPCIE_STAT_ROLE || !s.flag (rPCIE_STAT (src - 1)) fPCIE_STAT_PTM)) then .inl ccSTATE
  else
    let s1 := s.fset (rTIDE_STAT 0) fTIDE_STAT_SOURCE src
    .inr (if s1.tideState = 0 then s1 else s1.enterTide 3)

end Sys2Proof.Machine
end

