-- ==== Sys2Proof/Machine/Tree.lean ====
section
/-! DEFINITION. The management tree (R300–R305) and FANOUT (R307–R310). -/

namespace Sys2Proof.Machine

/-- The tree replaced. -/
def State.setTree (s : State) (t : Tree) : State := { s with tree := t }

/-- TREE_STAT.ROLE: 0 standalone, 1 manager, 2 relay, 3 leaf, 4 unjoined, 5 refused. -/
def State.treeRole (s : State) : Nat := s.fget (rTREE_STAT 0) fTREE_STAT_ROLE

/-- The device's level in the tree. -/
def State.level (s : State) : Nat := s.fget (rTREE_STAT 0) fTREE_STAT_LEVEL

/-- Whether the device is a joined worker. -/
def State.joined (s : State) : Bool := decide (s.treeRole = 2) || decide (s.treeRole = 3)

/-- R300: whether slot k takes part: its bit of EN is 1 and its link is up. A standalone device has no tree. -/
def State.slotUp (s : State) (k : Nat) : Bool :=
  decide (k < 16) && decide (s.treeRole ≠ 0) && s.bit (rTREE_LINKS 0) k &&
    (if k < 8 then s.flag (rSKJ_STAT k) fSKJ_STAT_NATIVE_UP else s.flag (rSKJ_STAT (k - 8)) fSKJ_STAT_UDP_UP)

/-- Whether a child is joined on slot k. -/
def State.childOn (s : State) (k : Nat) : Bool := s.bit (rTREE_LINKS 0) (16 + k)

/-- Whether slot k is the parent slot of a joined worker and takes part. -/
def State.fromParent (s : State) (k : Nat) : Bool := s.joined && decide (s.parentSlot = k) && s.slotUp k

/-- Whether slot k leads to a joined child and takes part. -/
def State.fromChild (s : State) (k : Nat) : Bool := s.childOn k && s.slotUp k

/-- R301: the NODE_ID of the path of slots from the manager down. -/
def nodeOf : List Nat → Nat
  | [] => 0
  | [a] => 2 ^ 14 + a * 2 ^ 8
  | [a, b] => 2 * 2 ^ 14 + a * 2 ^ 8 + b * 2 ^ 4
  | a :: b :: c :: _ => 3 * 2 ^ 14 + a * 2 ^ 8 + b * 2 ^ 4 + c

/-- The level of a NODE_ID. -/
def nodeLevel (n : Nat) : Nat := n / 2 ^ 14 % 4

/-- The slot at level `l` (1–3) of a NODE_ID. -/
def nodeSlot (n l : Nat) : Nat := n / 2 ^ (4 * (3 - l)) % 16

/-- Whether node `n` lies in the subtree of `t`, `t` included. -/
def inSubtree (t n : Nat) : Bool :=
  decide (nodeLevel t ≤ nodeLevel n) && (List.range (nodeLevel t)).all (fun i => decide (nodeSlot t (i + 1) = nodeSlot n (i + 1)))

/-! ### Joining and leaving (R302, R303) -/

/-- HELLO_SEND (R302): the manager, and a joined worker of level 0–2, sends HELLO on every slot that takes part but its parent's. -/
def State.helloSend (s : State) : State :=
  if s.treeRole = 1 ∨ (s.joined ∧ s.level ≤ 2) then
    (List.range 16).foldl (fun t k =>
      if s.slotUp k && !(s.joined && decide (s.parentSlot = k)) then
        t.sendMgmt k (.hello s.nodeId s.level (s.fget (rTIDE_STAT 0) fTIDE_STAT_ROOT_STATE))
      else t) s
  else s

/-- HELLO (R302, R292): the HELLOs of one counter tick, as (slot, NODE_ID, LEVEL, ROOT_STATE). -/
def State.hello (s : State) (l : List (Nat × Nat × Nat × Nat)) : State :=
  let l := l.filter (fun x => s.slotUp x.1)
  if s.treeRole = 4 ∧ s.tree.joining.isNone then
    match l.foldl (fun b x => match b with
      | none => some x
      | some y => if x.2.2.1 < y.2.2.1 ∨ (x.2.2.1 = y.2.2.1 ∧ x.1 < y.1) then some x else b) (none : Option (Nat × Nat × Nat × Nat)) with
    | some x => (s.setTree { s.tree with joining := some x.1 }).sendMgmt x.1 (.join (s.rd64 (rTOL_SERIAL 0)) [])
    | none => s
  else
    match l.find? (fun x => s.fromParent x.1) with
    | some x => (s.setTide { s.tide with parentRoot := some x.2.2.2 }).updateRoot
    | none => s

/-- A child joins on slot k: CHILDREN, the role of relay, and the page event. (DEDUCED, assumption 122) -/
def State.childJoins (s : State) (k : Nat) : State :=
  let s1 := (s.setBit (rTREE_LINKS 0) (16 + k) true).irq (PageKind.treeCtl.addr 0) 1
  if s1.treeRole = 3 then s1.fset (rTREE_STAT 0) fTREE_STAT_ROLE 2 else s1

/-- A child is gone from slot k; the manager forgets the workers below it. (DEDUCED, assumption 123) -/
def State.childLeaves (s : State) (k : Nat) : State :=
  if !s.childOn k then s
  else
    let s1 := (s.setBit (rTREE_LINKS 0) (16 + k) false).irq (PageKind.treeCtl.addr 0) 1
    let s2 := if s1.treeRole = 2 ∧ s1.fget (rTREE_LINKS 0) fTREE_LINKS_CHILDREN = 0 then s1.fset (rTREE_STAT 0) fTREE_STAT_ROLE 3 else s1
    if s2.treeRole = 1 then
      let w := smClear (fun n => decide (nodeSlot n 1 = k)) s2.tree.workers
      (s2.setTree { s2.tree with workers := w }).fset (rTREE_WORKERS 0) fTREE_WORKERS_COUNT w.length
    else s2

/-- JOIN_ACK goes down slot k with the rest of its path; where the path ends there, the child is joined. -/
def State.ackDown (s : State) (k : Nat) (path : List Nat) (node : Option Nat) : State :=
  let s1 := s.sendMgmt k (.joinAck path node)
  if path.isEmpty && node.isSome then s1.childJoins k else s1

/-- JOIN (R302) from slot k, with the joining worker's SERIAL and the path of slots below. (DEDUCED, assumption 122) -/
def State.join (s : State) (k serial : Nat) (path : List Nat) : State :=
  if !s.slotUp k ∨ 3 < path.length + 1 then s
  else if s.treeRole = 1 then
    let w := smClear (fun n => decide (smGet (2 ^ 64) s.tree.workers n = serial)) s.tree.workers
    if 2047 ≤ w.length then s.ackDown k path none
    else
      let node := nodeOf (k :: path)
      let w1 := smPut node serial w
      ((s.setTree { s.tree with workers := w1 }).fset (rTREE_WORKERS 0) fTREE_WORKERS_COUNT w1.length).ackDown k path (some node)
  else if s.joined then s.sendMgmt s.parentSlot (.join serial (k :: path))
  else s

/-- JOIN_ACK (R301, R302) from slot k: for this worker where the path is empty, else for a worker below. -/
def State.joinAck (s : State) (k : Nat) (path : List Nat) (node : Option Nat) : State :=
  match path with
  | [] =>
    if s.treeRole = 4 ∧ s.tree.joining = some k then
      let s1 := s.setTree { s.tree with joining := none }
      match node with
      | some n =>
        s1.wr32 (rTREE_STAT 0) (3 * 2 ^ 29 + nodeLevel n * 2 ^ 27 + k * 2 ^ 23 + n) |>.irq (PageKind.treeCtl.addr 0) 0
      | none => s1.fset (rTREE_STAT 0) fTREE_STAT_ROLE 5
    else s
  | c :: rest => if s.fromParent k then s.ackDown c rest node else s

/-- TREE_LEAVE (R303): the parent link is down, or 10 ms have passed without a HELLO. (DEDUCED, assumption 123) -/
def State.treeLeave (s : State) : State :=
  if s.treeRole = 4 then s.setTree { s.tree with joining := none }
  else if !s.joined then s
  else
    let s1 := ((s.wr32 (rTREE_STAT 0) (4 * 2 ^ 29)).fset (rTREE_LINKS 0) fTREE_LINKS_CHILDREN 0).irq (PageKind.treeCtl.addr 0) 0
    let s2 := s1.setTide { s1.tide with t1 := none, t2 := none, t3 := none, parentRoot := none }
    let s3 := (s2.sourceLost.updateRoot.emptyBox 4).endGrant 4
    s3.setTree { s3.tree with joining := none, mgrCmd := none, badStage := none }

/-! ### The exchange (R305) -/

/-- SYNC_SEND: SYNC goes to each joined child, stamped with t1. -/
def State.syncSend (s : State) : State :=
  (List.range 16).foldl (fun t k => if s.fromChild k then t.sendMgmt k (.sync s.tide.now) else t) s

/-- SYNC from slot k: the worker stamps t2, sends DELAY_REQ and stamps t3. (DEDUCED, assumption 128) -/
def State.sync (s : State) (k t1 : Nat) : State :=
  if s.fromParent k then
    (s.setTide { s.tide with t1 := some t1, t2 := some s.tide.now, t3 := some s.tide.now }).sendMgmt k .delayReq
  else s

/-- DELAY_REQ from slot k: the parent stamps t4 and returns it. (DEDUCED, assumption 128) -/
def State.delayReq (s : State) (k : Nat) : State := if s.fromChild k then s.sendMgmt k (.delayRsp s.tide.now) else s

/-- A 16-bit field as a signed number. -/
def signed16 (v : Nat) : Int := if v < 2 ^ 15 then v else (v : Int) - 2 ^ 16

/-- DELAY_RSP from slot k: the worker computes θ and applies the sample o = −θ. -/
def State.delayRsp (s : State) (k t4 : Nat) : State :=
  if !s.fromParent k then s
  else
    match s.tide.t1, s.tide.t2, s.tide.t3 with
    | some t1, some t2, some t3 =>
      let a := signed16 (s.fget (rTIDE_ASYM 0 k) fTIDE_ASYM_A)
      let theta := Int.fdiv (((t2 : Int) - t1) - ((t4 : Int) - t3) - a) 2
      let s1 := s.setTide { s.tide with t1 := none, t2 := none, t3 := none }
      if s1.tideSource = 0 then s1.tideSample 0 (-theta) else s1
    | _, _, _ => s

/-! ### FANOUT (R307–R310) -/

/-- A FANOUT request of Table TID-7: where staged data comes from and its buffer, what is asked back, where the results go, and the entries. -/
structure FanReq where
  timeout : Nat
  stage : Loc
  stageBuf : Nat
  ret : Option (Nat × Nat)
  result : Loc
  resultWords : List Nat
  entries : List (Nat × Nat × List Nat)
  deriving DecidableEq, Repr

/-- The little-endian number at `off` of a list of bytes. -/
def leAt (l : List Nat) (off n : Nat) : Nat := leNat (bytesAt l off n)

/-- Whether bytes `off` to `off + n − 1` are all 0. -/
def zeroAt (l : List Nat) (off n : Nat) : Bool := (bytesAt l off n).all (fun b => decide (b = 0))

/-- The four words of a location at `off`. -/
def locAt (l : List Nat) (off : Nat) : List Nat := [leAt l off 4, leAt l (off + 4) 4, leAt l (off + 8) 4, leAt l (off + 12) 4]

/-- A location from a list of its four words. -/
def locOf : List Nat → Option Loc
  | [a, b, c, d] => parseLoc a b c d
  | _ => none

/-- R307: the request read from its location, where it is well formed and mailbox b may name its locations. (DEDUCED, assumption 127) -/
def parseFan (b : Nat) (l : List Nat) : Option FanReq :=
  let n := leAt l 0 4
  let rmax := leAt l 0x1C 4
  let sbuf := leAt l 0x18 1
  let rbuf := leAt l 0x19 1
  let entry := fun e => (leAt l (0x40 + 272 * e) 2, leAt l (0x42 + 272 * e) 1, (List.range 64).map (fun k => leAt l (0x50 + 272 * e + 4 * k) 4))
  match locOf (locAt l 0x08), locOf (locAt l 0x20) with
  | some st, some res =>
    if 1 ≤ n && n ≤ 4096 && 0x40 + 272 * n ≤ l.length && 1 ≤ leAt l 4 4 && leAt l 4 4 ≤ 600000 && zeroAt l 0x1A 2 && zeroAt l 0x30 16 &&
        sbuf < 16 && (rbuf < 16 || rbuf = 0xFF) && rmax % 64 = 0 && locAllowed b st.kind && locAllowed b res.kind &&
        (List.range n).all (fun e => leAt l (0x42 + 272 * e) 1 < 2 && zeroAt l (0x43 + 272 * e) 13) then
      some ⟨leAt l 4 4, st, sbuf, if rbuf = 0xFF then none else some (rbuf, rmax), res, locAt l 0x20, (List.range n).map entry⟩
    else none
  | _, _ => none

/-- R307, R310: the targets of an entry, in NODE_ID order, each with whether a path to it exists. -/
def State.fanTargets (s : State) (e target scope : Nat) : List FanTarget :=
  let known := fun (n : Nat) => s.tree.workers.any (fun x => x.1 = n) && s.fromChild (nodeSlot n 1)
  let one := fun (n : Nat) => (⟨n, e, known n, smGet 0 s.tree.workers n, none, []⟩ : FanTarget)
  if scope = 0 then [one target]
  else (s.tree.workers.filter (fun x => inSubtree target x.1)).map (fun x => one x.1)

/-- A list cut into pieces of 16 KiB, each with its offset, of `fuel` pieces at most. -/
def pieces : Nat → Nat → List Nat → List (Nat × List Nat)
  | 0, _, _ => []
  | fuel + 1, off, l => if l.isEmpty then [] else (off, l.take 16384) :: pieces fuel (off + 16384) (l.drop 16384)

/-- R308: FANOUT begins: the staged data goes down each path that leads to a target, and then each entry's CMD. -/
def State.fanBegin (s : State) (box ticket : Nat) (r : FanReq) (staged : List Nat) : State :=
  let id := s.tree.nextFan
  let targets := ((List.range r.entries.length).map (fun e =>
    let x := listGet (0, 0, []) r.entries e
    s.fanTargets e x.1 x.2.1)).flatten
  let nodes := (targets.filter (fun t => t.reached)).map (fun t => t.node)
  let s1 := s.setTree { s.tree with fans := s.tree.fans ++ [⟨id, box, ticket, r.ret, r.resultWords, targets⟩], nextFan := id + 1 }
  let s2 := (pieces (staged.length / 16384 + 1) 0 staged).foldl (fun t p =>
    (List.range 16).foldl (fun t k =>
      let below := nodes.filter (fun n => decide (nodeSlot n 1 = k))
      if below.isEmpty then t else t.sendMgmt k (.stage (4096 * id) r.stageBuf p.1 p.2 below)) t) s1
  (List.range r.entries.length).foldl (fun t e =>
    let x := listGet (0, 0, []) r.entries e
    (List.range 16).foldl (fun t k =>
      if targets.any (fun y => decide (y.entry = e) && y.reached && decide (nodeSlot y.node 1 = k)) then
        t.sendMgmt k (.cmd (4096 * id + e) x.1 x.2.1 x.2.2 r.ret)
      else t) t) s2

/-- R308, R309: a target places a CMD in MBOX_MGR as if written there; a target that could not hold the staged data does not take it and its
result carries COPY_FAILED. -/
def State.fanTake (s : State) (fan : Nat) (words : List Nat) (ret : Option (Nat × Nat)) : State :=
  if s.tree.badStage = some (fan / 4096) then
    if s.dead then s
    else s.fanReply (fan, none) (mkCpl (listGet 0 words 0 / 65536) (listGet 0 words 0) ccCOPY true 0 0)
  else
    let ok := s.flag (rMB_STAT 4) fMB_STAT_ACCEPTING && !s.flag (rMB_STAT 4) fMB_STAT_BUSY
    let s1 := ((List.range 64).foldl (fun t k => t.mbCmdWrite .mgr 4 k (listGet 0 words k)) s).ring .mgr 4
    if ok then s1.setTree { s1.tree with mgrCmd := some (fan, ret) } else s1

/-- CMD (R308) from slot k: forwarded to the children on the paths to its targets, and placed where this worker is a target. (DEDUCED, assumption 125) -/
def State.cmd (s : State) (k fan node scope : Nat) (words : List Nat) (ret : Option (Nat × Nat)) : State :=
  if !s.fromParent k then s
  else
    let me := s.nodeId
    let forAll := decide (scope = 1) && inSubtree node me
    let s1 := (List.range 16).foldl (fun t c =>
      let below := inSubtree me node && decide (nodeLevel me < nodeLevel node) && decide (nodeSlot node (nodeLevel me + 1) = c)
      if s.fromChild c && (forAll || below) then t.sendMgmt c (.cmd fan node scope words ret) else t) s
    if node = me ∨ forAll then s1.fanTake fan words ret else s1

/-- CPL (R310) from slot k: forwarded up, or recorded by the manager. -/
def State.cpl (s : State) (k fan node serial w0 w1 data : Nat) : State :=
  if !s.fromChild k then s
  else if s.joined then s.sendMgmt s.parentSlot (.cpl fan node serial w0 w1 data)
  else
    s.setTree { s.tree with fans := s.tree.fans.map (fun f =>
      if f.id = fan / 4096 then
        { f with targets := f.targets.map (fun t =>
            if t.node = node ∧ t.entry = fan % 4096 ∧ t.cpl.isNone then { t with serial := serial, cpl := some (w0, w1, data) } else t) }
      else f) }

/-- R309: the bytes that the staging buffers would hold with buffer `b` of `n` bytes. -/
def State.stagedTotal (s : State) (b n : Nat) : Nat := s.tol.staged.foldl (fun m x => if x.1 = b then m else m + x.2.length) n

/-- STAGE (R308, R309) from slot k: forwarded on the paths to its targets, and stored where this worker is one. -/
def State.stageMsg (s : State) (k fan buffer off : Nat) (data targets : List Nat) : State :=
  if !s.fromParent k then s
  else
    let me := s.nodeId
    let s1 := (List.range 16).foldl (fun t c =>
      let below := targets.filter (fun n => inSubtree me n && decide (nodeLevel me < nodeLevel n) && decide (nodeSlot n (nodeLevel me + 1) = c))
      if s.fromChild c && !below.isEmpty then t.sendMgmt c (.stage fan buffer off data below) else t) s
    if !targets.contains me then s1
    else
      let old := if off = 0 then [] else smGet [] s1.tol.staged buffer
      let new := bytesAt old 0 off ++ data
      if buffer < 16 ∧ new.length ≤ 2 ^ 28 ∧ s1.stagedTotal buffer new.length ≤ 2 ^ 30 then
        s1.setTol { s1.tol with staged := smSet [] s1.tol.staged buffer new }
      else s1.setTree { s1.tree with badStage := some (fan / 4096) }

/-- RETURN (R310) from slot k: forwarded up, or put into the target's bytes by the manager. -/
def State.retMsg (s : State) (k fan node off : Nat) (data : List Nat) : State :=
  if !s.fromChild k then s
  else if s.joined then s.sendMgmt s.parentSlot (.ret fan node off data)
  else
    s.setTree { s.tree with fans := s.tree.fans.map (fun f =>
      if f.id = fan / 4096 then
        { f with targets := f.targets.map (fun t =>
            if t.node = node ∧ t.entry = fan % 4096 then { t with back := bytesAt t.back 0 off ++ data ++ t.back.drop (off + data.length) } else t) }
      else f) }

/-- R310: a result record. -/
def FanTarget.record (t : FanTarget) : List Nat :=
  leBytes 2 t.node ++ leBytes 2 t.entry ++ [if !t.reached then 2 else if t.cpl.isSome then 0 else 1, 0, 0, 0] ++ leBytes 8 t.serial ++
    (match t.cpl with
     | some c => leBytes 4 c.1 ++ leBytes 4 c.2.1 ++ leBytes 8 c.2.2
     | none => leBytes 16 0)

/-- R310: the whole result of a FANOUT. -/
def Fan.result_ (f : Fan) : List Nat :=
  (f.targets.map FanTarget.record).flatten ++
    (match f.ret with
     | some (_, n) => (f.targets.map (fun t => bytesAt t.back 0 n)).flatten
     | none => [])

end Sys2Proof.Machine
end

