-- ==== Sys2Proof/Machine/PciePorts.lean ====
section
/-! DEFINITION. The PCIe and CXL ports (R344–R358): requests to a port, functions, windows, host accesses, roles, links and resets. -/

namespace Sys2Proof.Machine

/-- The ports replaced. -/
def State.setPorts (s : State) (p : Ports) : State := { s with ports := p }

/-- PCIE_n beside its registers. -/
def State.pcie (s : State) (n : Nat) : Pcie := smGet Pcie.reset s.ports.pcie n

/-- PCIE_n replaced. -/
def State.setPcie (s : State) (n : Nat) (x : Pcie) : State := s.setPorts { s.ports with pcie := smSet Pcie.reset s.ports.pcie n x }

/-- R345: whether port n is in the root-port role. -/
def State.isRoot (s : State) (n : Nat) : Bool := s.flag (rPCIE_STAT n) fPCIE_STAT_ROLE

/-- Whether the link of port n is up. -/
def State.pcieUp (s : State) (n : Nat) : Bool := s.flag (rPCIE_STAT n) fPCIE_STAT_LINK_UP

/-- A request answered by its responder once it is no longer in a queue. -/
def State.answerHdr (s : State) (e : Nat) (h : Header) (status lines : Nat) (flits : List (BitVec 512 × Bool)) : State :=
  s.useFree.sendRsp e (s.openRsp h status lines) flits

/-! ### Functions (R349, R350) -/

/-- R349: the layout word in effect of PF p. -/
def State.layoutWord (s : State) (n p : Nat) : Nat := smGet 0 (s.pcie n).layout p

/-- Whether PF p exists: PF0 always does. -/
def State.pfExists (s : State) (n p : Nat) : Bool := decide (p = 0) || decide (fPCIE_FN_LAYOUT_EN.get (s.layoutWord n p) = 1)

/-- R349: the VFs of port n. (DEDUCED, assumption 141) -/
def State.vfCount (s : State) (n : Nat) : Nat :=
  (List.range 16).foldl (fun m p => if s.pfExists n p then m + fPCIE_FN_LAYOUT_TOTAL_VFS.get (s.layoutWord n p) else m) 0

/-- Whether function f of port n exists. -/
def State.fnExists (s : State) (n f : Nat) : Bool := if f < 16 then s.pfExists n f else decide (f - 16 < s.vfCount n)

/-- PCIE_FN_LAYOUT_WRITE (R349): ignored where the TotalVFs of all ports would exceed 2 048. (DEDUCED, assumption 141) -/
def State.fnLayoutWrite (s : State) (req : Req) (n p v : Nat) : State :=
  let a := rPCIE_FN_LAYOUT n p
  let total := (List.range 64).foldl (fun m i =>
    m + (if i = 16 * n + p then fPCIE_FN_LAYOUT_TOTAL_VFS.get v else s.fget (rPCIE_FN_LAYOUT (i / 16) (i % 16)) fPCIE_FN_LAYOUT_TOTAL_VFS)) 0
  if 2048 < total then s.refuse req a causeRule
  else
    let w := fPCIE_FN_LAYOUT_EN.set 0 (if p = 0 then 1 else fPCIE_FN_LAYOUT_EN.get v)
    s.wr32 a (fPCIE_FN_LAYOUT_TOTAL_VFS.set (fPCIE_FN_LAYOUT_BAR_LOG2.set w (fPCIE_FN_LAYOUT_BAR_LOG2.get v)) (fPCIE_FN_LAYOUT_TOTAL_VFS.get v))

/-- R349: the layout registers of port n take effect. -/
def State.layoutTakes (s : State) (n : Nat) : State :=
  s.setPcie n { s.pcie n with layout := (List.range 16).foldl (fun m p => smSet 0 m p (s.rd32 (rPCIE_FN_LAYOUT n p))) [] }

/-- The PCIE_FN_ASSIGN word of function f. -/
def State.fnAssign (s : State) (n f : Nat) : Nat := smGet 0 (s.pcie n).assign f

/-- PCIE_FN_ASSIGN as it reads: the word of the function that PCIE_FN_SEL chooses. -/
def State.fnAssignRead (s : State) (n : Nat) : Nat := s.fnAssign n (s.fget (rPCIE_FN_SEL n) fPCIE_FN_SEL_F)

/-- PCIE_FN_ASSIGN_WRITE (R350). -/
def State.fnAssignWrite (s : State) (req : Req) (n v : Nat) : State :=
  let f := s.fget (rPCIE_FN_SEL n) fPCIE_FN_SEL_F
  let st := fPCIE_FN_ASSIGN_STALL.get v
  let tg := fPCIE_FN_ASSIGN_TARGET.get v
  if f = 0 || !s.fnExists n f || decide ((s.stall st).control ≠ some n) || !((s.stall st).ports.contains tg && isFabricPort tg) then
    s.refuse req (rPCIE_FN_ASSIGN n) causeRule
  else
    s.setPcie n { s.pcie n with
      assign := smSet 0 (s.pcie n).assign f (fPCIE_FN_ASSIGN_VALID.get v * 2 ^ 31 + st * 2 ^ 24 + tg) }

/-- R358: PCIE_LTR_SENT of port n: a requirement of 2 µs while a LIVE stall has an assigned function on the port or reaches it. -/
def State.ltrSent (s : State) (n : Nat) : Nat :=
  let assigned := fun t => (s.pcie n).assign.any (fun x => decide (fPCIE_FN_ASSIGN_VALID.get x.2 = 1) && decide (fPCIE_FN_ASSIGN_STALL.get x.2 = t))
  if (List.range 32).any (fun t => decide (s.stallState t = stLIVE) && (assigned t || (s.stall t).reach.contains (0x180 + n))) then 2 ^ 31 + 2000 else 0

/-! ### Requests to a port (R346–R348, R355, R357) -/

/-- R346: the fields of EXT of a request of kind 0b00. -/
def extFUNC (h : Header) : Nat := hget h hEXT % 2 ^ 12
/-- EXT[17:16] SPACE. -/
def extSPACE (h : Header) : Nat := hget h hEXT / 2 ^ 16 % 4
/-- EXT[18] AT. -/
def extAT (h : Header) : Bool := (hget h hEXT).testBit 18

/-- R346: whether a request of kind 0b00 breaks the rules of Table PRT-2 at port n. -/
def State.pcieBadReq (s : State) (n : Nat) (h : Header) : Bool :=
  let sp := extSPACE h
  let ep01 := decide (n < 2) && !s.isRoot n
  let bytes := ((List.range 64).filter (fun k => (hget h hBE).testBit k)).length
  decide (hget h hEXT / 2 ^ 12 % 16 ≠ 0) || decide (hget h hEXT / 2 ^ 19 ≠ 0) || decide (sp = 3) ||
  (decide (sp = 1) && (!s.isRoot n || decide (hget h hLINES ≠ 1) || decide (4 < bytes))) || (decide (sp = 2) && !ep01) || (extAT h && !ep01)

/-- R347: whether port n accepts a request of kind 0b00. (DESIGN CHOICE, assumption 138) -/
def State.pcieAccepts (s : State) (n : Nat) (h : Header) (env : PcieEnv) : Bool :=
  if s.isRoot n then
    let o := s.rd32 (rPCIE_RP_OWNER n)
    (decide (fPCIE_RP_OWNER_KIND.get o = 1) && decide (hget h hSRC = 0x180 + fPCIE_RP_OWNER_ID.get o) && decide (hget h hDEV = 1)) ||
    (decide (fPCIE_RP_OWNER_KIND.get o = 2) && decide (hget h hDEV = 0) && decide (hget h hSTALL = fPCIE_RP_OWNER_ID.get o))
  else
    let w := s.fnAssign n (extFUNC h)
    env.ready && (decide (hget h hDEV = 1) ||
      (decide (fPCIE_FN_ASSIGN_VALID.get w = 1) && decide (fPCIE_FN_ASSIGN_STALL.get w = hget h hSTALL)))

/-- R348, R357: a request completed POISONED: a read returns poison data. -/
def State.pciePoison (s : State) (n : Nat) (h : Header) : State :=
  let k := if hget h hTYPE = tRD then hget h hLINES else 0
  (s.answerHdr (0x180 + n) h stPOISONED k ((List.range k).map (fun _ => (poisonData, true)))).finc (rPCIE_ERR n) fPCIE_ERR_POISONED

/-- A free TLP tag of port n, of the first `k`. -/
def State.freeTlp (s : State) (n : Nat) : Nat → Option Nat
  | 0 => none
  | k + 1 => match State.freeTlp s n k with
    | some t => some t
    | none => if (s.pcie n).tlps.any (fun x => x.1 = k) then none else some k

/-- R347: the header that a TLP carries: in the endpoint role a request with DEV = 1 uses PF0. -/
def State.tlpHdr (s : State) (n : Nat) (h : Header) : Header :=
  if s.isRoot n || decide (hget h hDEV = 0) then h else hset h hEXT (hget h hEXT / 2 ^ 12 * 2 ^ 12)

/-- PCIE_LINK_REQUEST (R346–R348, R355, R357): port n takes request i of its endpoint, RD or WR, of kind 0b00. A read, and a write to
configuration space, waits for its completion; another write completes OK once its TLP is sent. (DEDUCED, assumptions 135, 137; DESIGN CHOICE, assumption 136) -/
def State.pcieRequest (s : State) (n i : Nat) (env : PcieEnv) : State :=
  let e := 0x180 + n
  let p := s.pkt i
  let h := p.hdr
  if s.orderedBehind e i then s
  else if !s.pcieUp n || env.insecure then (s.killPkt e i).pciePoison n h
  else if s.pcieBadReq n h then s.answer e i stBAD_ADDR 0 none []
  else if !s.pcieAccepts n h env then (s.answer e i stREFUSED_OWNER 0 none []).finc (rPCIE_ERR n) fPCIE_ERR_REFUSED
  else if extAT h && !env.translated then
    (s.answer e i stBAD_ADDR 0 none []).emit (.pageRequest n (extFUNC (s.tlpHdr n h)) (hget h hADDR % 2 ^ 62))
  else if hget h hTYPE = tWR ∧ extSPACE h ≠ 1 then (s.answer e i stOK 0 none []).emit (.tlp n 1024 (s.tlpHdr n h) p.flits)
  else
    match s.freeTlp n 1024 with
    | none => s
    | some t =>
      let s1 := s.killPkt e i
      (s1.setPcie n { s1.pcie n with tlps := smPut t h (s1.pcie n).tlps }).emit (.tlp n t (s.tlpHdr n h) p.flits)

/-- TLP_COMPLETION (R347): the completion of the TLP with tag t, or its timeout. -/
def State.tlpCompletion (s : State) (n t : Nat) (c : TlpEnd) : State :=
  match (s.pcie n).tlps.find? (fun x => x.1 = t) with
  | none => s
  | some (_, h) =>
    let s1 := s.setPcie n { s.pcie n with tlps := smDel t (s.pcie n).tlps }
    let e := 0x180 + n
    match c with
    | .unsupported => s1.answerHdr e h stBAD_ADDR 0 []
    | .timeout => s1.pciePoison n h
    | .ok lines =>
      if hget h hTYPE ≠ tRD then s1.answerHdr e h stOK 0 []
      else
        let ls := (List.range (hget h hLINES)).map (fun k => listGet (poisonData, true) lines k)
        if ls.any (fun x => x.2) then (s1.answerHdr e h stPOISONED ls.length ls).finc (rPCIE_ERR n) fPCIE_ERR_POISONED
        else s1.answerHdr e h stOK ls.length ls

/-! ### Accesses from the link (R351, R352, R354–R356) -/

/-- An access that completes with Unsupported Request. -/
def State.hostUR (s : State) (n tag : Nat) : State := (s.emit (.hostCpl n tag .unsupported [])).finc (rPCIE_ERR n) fPCIE_ERR_UR

/-- The request of endpoint PCIE_n for an access from its link: one line at `addr` of endpoint `dst`, with EXT `ext`. -/
def State.hostReq (s : State) (n dst addr ext : Nat) (a : HostAcc) : State :=
  let h := hset (hset (hset (hset 0 hDST dst) hLINES 1) hADDR (addr / 64 * 64)) hEXT ext
  if a.write then s.sendReq (0x180 + n) (hset (hset h hTYPE tWR) hBE a.be) [(a.data, false)] (.host n a.tag)
  else s.sendReq (0x180 + n) (hset h hTYPE tRD) [] (.host n a.tag)

/-- R163, R351: a register access of the host on port n through PF0's BAR0: the 8-byte location of `addr`, `be` naming bytes in it. (DEDUCED, assumption 142) -/
def State.hostReg (s : State) (n : Nat) (a : HostAcc) : State :=
  let addr := a.addr % 2 ^ 28 / 8 * 8
  let h := hset (hset (hset 0 hDST (agentOf addr)) hADDR addr) hBE (a.be % 256)
  if a.write then s.sendReq (0x180 + n) (hset (hset h hTYPE tREG_WR) hEXT (a.data.toNat % 2 ^ 64)) [] (.host n a.tag)
  else s.sendReq (0x180 + n) (hset h hTYPE tREG_RD) [] (.host n a.tag)

/-- BAR0_ACCESS (R351): an access to BAR0 of function f. PF0's BAR0 is the register space. (DEDUCED, assumption 142) -/
def State.bar0 (s : State) (n f : Nat) (a : HostAcc) : State :=
  if !s.pcieUp n || s.isRoot n then s
  else if f = 0 then s.hostReg n a
  else
    let w := s.fnAssign n f
    if fPCIE_FN_ASSIGN_VALID.get w = 0 then s.hostUR n a.tag else s.hostReq n (fPCIE_FN_ASSIGN_TARGET.get w) a.addr f a

/-- A window's registers: SRC, CFG, TGT and DST of window j, of BAR2 or inbound. -/
def winRegs (inbound : Bool) (n j : Nat) : Nat × Nat × Nat × Nat :=
  if inbound then (rIWIN_SRC n j, rIWIN_CFG n j, rIWIN_TGT n j, rIWIN_DST n j) else (rWIN_SRC n j, rWIN_CFG n j, rWIN_TGT n j, rWIN_DST n j)

/-- R352: the lowest window that holds bus address or BAR2 offset `a`. -/
def State.winAt (s : State) (inbound : Bool) (n a : Nat) : Option Nat :=
  (List.range 16).find? (fun j =>
    let r := winRegs inbound n j
    let cfg := s.rd32 r.2.1
    let src := s.rd64 r.1 / 2 ^ 21 * 2 ^ 21
    decide (fWIN_CFG_VALID.get cfg = 1) && decide (src ≤ a) && decide (a < src + fWIN_CFG_SIZE.get cfg * 2 ^ 21))

/-- R352, R354: an access inside a window becomes a request to the window's target; outside every window it is an Unsupported Request. -/
def State.winAccess (s : State) (inbound : Bool) (n : Nat) (a : HostAcc) : State :=
  match s.winAt inbound n a.addr with
  | none => s.hostUR n a.tag
  | some j =>
    let r := winRegs inbound n j
    let tgt := s.rd32 r.2.2.1
    let ext := fWIN_TGT_FUNC.get tgt + fWIN_CFG_CFG.get (s.rd32 r.2.1) * 2 ^ 16
    s.hostReq n (fWIN_TGT_EP.get tgt) ((s.rd64 r.2.2.2 + (a.addr - s.rd64 r.1 / 2 ^ 21 * 2 ^ 21)) % 2 ^ 64) ext a

/-- BAR2_ACCESS (R352). -/
def State.bar2 (s : State) (n : Nat) (a : HostAcc) : State := if !s.pcieUp n || s.isRoot n then s else s.winAccess false n a

/-- INBOUND_REQUEST (R354). -/
def State.inbound (s : State) (n : Nat) (a : HostAcc) : State := if s.pcieUp n && s.isRoot n then s.winAccess true n a else s

/-- Whether a region is a HOST region of port n. -/
def State.hostRegion (s : State) (n port i : Nat) : Bool :=
  decide (s.rgnState port i ≠ 0) && decide (s.fget (rRGN_CFG port i) fRGN_CFG_OWNER_KIND = 1) &&
    decide (s.fget (rRGN_CFG port i) fRGN_CFG_OWNER_ID = n)

/-- R352: whether an endpoint and target address name a HOST region of port n. -/
def State.winRegion (s : State) (n ep dst : Nat) : Bool :=
  match memPortOf ep dst with
  | some port => decide (dst / 2 ^ 40 % 2 ^ 23 = 0) && s.hostRegion n port (dst / 2 ^ 35 % 32)
  | none => false

/-- R352, R354: whether the target of a window of port n is allowed. (DEDUCED, assumption 140) -/
def State.winAllowed (s : State) (inbound : Bool) (n cfg tgt dst : Nat) : Bool :=
  let ep := fWIN_TGT_EP.get tgt
  let kind0 := isPciePort ep && decide (dst / 2 ^ 62 = 0)
  if inbound then
    let o := s.rd32 (rPCIE_RP_OWNER n)
    let id := fPCIE_RP_OWNER_ID.get o
    (decide (fPCIE_RP_OWNER_KIND.get o = 1) && decide (ep = 0x180 + id) && kind0 && !s.isRoot id && decide (fWIN_CFG_CFG.get cfg = 0) &&
      decide (fWIN_TGT_FUNC.get tgt = 0)) ||
    (decide (fPCIE_RP_OWNER_KIND.get o = 2) && isFabricPort ep && (s.stall id).ports.contains ep)
  else
    s.winRegion n ep dst ||
    (kind0 && s.isRoot (ep - 0x180) && decide (s.fget (rPCIE_RP_OWNER (ep - 0x180)) fPCIE_RP_OWNER_KIND = 1) &&
      decide (s.fget (rPCIE_RP_OWNER (ep - 0x180)) fPCIE_RP_OWNER_ID = n)) ||
    (isFabricPort ep && (match s.portOwner ep with | some t => decide ((s.stall t).control = some n) | none => false))

/-- WINDOW_WRITE (R352, R354): register `k` of window j (0 SRC, 1 CFG, 2 TGT, 3 DST) written with `v`; a write that leaves the window VALID
with a target that is not allowed is ignored and counted. (DEDUCED, assumption 140) -/
def State.winWrite (s : State) (req : Req) (inbound : Bool) (n j k v : Nat) : State :=
  let r := winRegs inbound n j
  let cfg := if k = 1 then v % 2 ^ 24 + v / 2 ^ 30 % 4 * 2 ^ 30 else s.rd32 r.2.1
  let tgt := if k = 2 then fWIN_TGT_EP.get v + fWIN_TGT_FUNC.get v * 2 ^ 16 else s.rd32 r.2.2.1
  let dst := if k = 3 then v / 2 ^ 21 * 2 ^ 21 else s.rd64 r.2.2.2
  let a := if k = 0 then r.1 else if k = 1 then r.2.1 else if k = 2 then r.2.2.1 else r.2.2.2
  if fWIN_CFG_VALID.get cfg = 1 ∧ ¬ s.winAllowed inbound n cfg tgt dst then s.refuse req a causeRule
  else if k = 0 then s.wr64 a (v / 2 ^ 21 * 2 ^ 21)
  else if k = 1 then s.wr32 a cfg
  else if k = 2 then s.wr32 a tgt
  else s.wr64 a dst

/-- PCIE_RP_OWNER_WRITE (R354): a change of the owner clears VALID of every inbound window. -/
def State.rpOwnerWrite (s : State) (n v : Nat) : State :=
  let w := v % 2 ^ 8 - v / 2 ^ 5 % 2 * 2 ^ 5
  let s1 := s.wr32 (rPCIE_RP_OWNER n) w
  if s.rd32 (rPCIE_RP_OWNER n) = w then s1 else (List.range 16).foldl (fun t j => t.fset (rIWIN_CFG n j) fIWIN_CFG_VALID 0) s1

/-- R355: the lowest PCIE_HDM entry that maps device physical address `a`, as (port, region, offset). (DEDUCED, assumption 144) -/
def State.hdmAt (s : State) (n a : Nat) : Option (Nat × Nat × Nat) :=
  (List.range 32).findSome? (fun j =>
    let v := s.rd64 (rPCIE_HDM n j)
    let port := fPCIE_HDM_PORT.get v
    let i := fPCIE_HDM_RGN.get v
    let base := fPCIE_HDM_DPA_BASE.get v * 2 ^ 21
    if fPCIE_HDM_VALID.get v = 1 ∧ port < 64 ∧ s.hostRegion n port i ∧ base ≤ a ∧ a < base + s.rgnSize port i * 2 ^ 21 then some (port, i, a - base)
    else none)

/-- CXL_MEM_ACCESS (R226, R355): a CXL.mem access of the host on port n. -/
def State.cxlMem (s : State) (n : Nat) (a : HostAcc) : State :=
  if !s.pcieUp n || s.isRoot n || !s.flag (rPCIE_STAT n) fPCIE_STAT_CXL then s
  else
    match s.hdmAt n a.addr with
    | some (port, i, off) => s.hostReq n (0x140 + port) (i * 2 ^ 35 + off) 0 a
    | none =>
      let s1 := s.finc (rPCIE_ERR n) fPCIE_ERR_POISONED
      if a.write then s1 else s1.emit (.hostCpl n a.tag .poisoned [(poisonData, true)])

/-- R351: a response to a request that an access from the link of port n became. -/
def State.hostRsp (s : State) (n tag : Nat) (h : Header) (flits : List (BitVec 512 × Bool)) : State :=
  let st := hget h hSTATUS
  if st = stOK then
    s.emit (.hostCpl n tag .ok (if hget h hTYPE = tREG_RSP then [(BitVec.ofNat 512 (hget h hEXT % 2 ^ 64), false)] else flits))
  else if st = stPOISONED then s.emit (.hostCpl n tag .poisoned flits)
  else s.hostUR n tag

/-- PTM_REQUEST (R356): in the root-port role the port answers with Tide, and gives no answer while Tide is NONE. -/
def State.ptmRequest (s : State) (n : Nat) : State :=
  if s.pcieUp n && s.isRoot n && decide (s.tideState ≠ 0) then s.emit (.ptm n s.tide.now) else s

/-! ### Links, roles and resets (R272, R345, R348, R416) -/

/-- MAILBOX_RESET (R272, R442): MBOX_PCIE_n is emptied, its sessions close, its tickets are orphaned, and the view's grant ends. (DESIGN CHOICE, assumption 91) -/
def State.mailboxReset (s : State) (n : Nat) : State := ((s.emptyBox n).closeSessions n).endGrant n

/-- R348: the requests whose TLPs are outstanding complete POISONED. -/
def State.tlpsLost (s : State) (n : Nat) : State :=
  (s.pcie n).tlps.foldl (fun t x => (t.setPcie n { t.pcie n with tlps := smDel x.1 (t.pcie n).tlps }).pciePoison n x.2) s

/-- The link of PCIE_n is no longer up: its status, its outstanding requests, and the layout of its functions (R349). -/
def State.pcieLinkOff (s : State) (n : Nat) : State :=
  let up := s.pcieUp n
  let s1 := s.wr32 (rPCIE_STAT n) (fPCIE_STAT_ROLE.set 0 (s.fget (rPCIE_STAT n) fPCIE_STAT_ROLE))
  let s2 := (s1.tlpsLost n).layoutTakes n
  if up then (s2.irq (PageKind.pcieCtl.addr n) 0).setPortWork (64 + n) { s2.portWork (64 + n) with downLogged := false } else s2

/-- The lanes of an instance of ford f. -/
def State.instLanes (s : State) (f proto inst : Nat) : List Nat :=
  ((List.range 40).map (fun ll => 40 * f + ll)).filter (fun l =>
    decide (s.laneProto l = proto) && decide (s.fget (rLANE_ASSIGN l) fLANE_ASSIGN_INST = inst))

/-- Whether an instance has lanes and they are all UP. -/
def State.instUp (s : State) (f proto inst : Nat) : Bool :=
  let ls := s.instLanes f proto inst
  !ls.isEmpty && ls.all (fun l => decide (s.stage l = sgUP))

/-- LINK_UP of PCIE_n (R344): it has trained on `width` of its lanes. CXL is on PCIE_0 and PCIE_1 only; IDE and a partner's PTM in the endpoint
role only (R356, R357). -/
def State.pcieLinkUp (s : State) (n gen width : Nat) (cxl flit ide ptm : Bool) : State :=
  let lanes := (s.instLanes n prPCIE 0).filter (fun l => decide (s.stage l = sgUP))
  let root := s.isRoot n
  if lanes.length < width ∨ !(List.contains [1, 2, 4, 8, 16] width) ∨ gen < 1 ∨ 6 < gen ∨ s.pcieUp n then s
  else
    (s.wr32 (rPCIE_STAT n) (b2n root * 2 ^ 31 + 2 ^ 30 + b2n (cxl && decide (n < 2)) * 2 ^ 29 + b2n flit * 2 ^ 28 + b2n (ide && !root) * 2 ^ 27 +
      gen * 2 ^ 24 + width * 2 ^ 19 + b2n (ptm && !root) * 2 ^ 18)).irq (PageKind.pcieCtl.addr n) 0

/-- LINK_DOWN of PCIE_n (R272, R348). -/
def State.pcieLinkDown (s : State) (n : Nat) : State := if s.pcieUp n then (s.pcieLinkOff n).mailboxReset n else s

/-- HOT_RESET (R272, R416) of PCIE_n in the endpoint role: PERST# also clears PCIE_LTOL and PCIE_ERR; a function-level reset reaches the mailbox
only on function 0. (DEDUCED, assumption 143) -/
def State.portReset (s : State) (n : Nat) (k : PortReset) : State :=
  if s.isRoot n then s
  else
    match k with
    | .flr f => if f = 0 then s.mailboxReset n else s
    | .hot => ((s.pcieLinkOff n).mailboxReset n).irq (PageKind.pcieCtl.addr n) 1
    | .perst => ((((s.pcieLinkOff n).mailboxReset n).irq (PageKind.pcieCtl.addr n) 1).wr32 (rPCIE_LTOL n) 0).wr32 (rPCIE_ERR n) 0

/-- R345: whether SET_PORT_ROLE of port n is refused. -/
def State.roleRefused (s : State) (n role : Nat) : Bool :=
  decide (b2n (s.isRoot n) = role) || decide (s.fget (rTOL_INFO 0) fTOL_INFO_ADMIN = n) ||
  (List.range 32).any (fun t => decide (s.stallState t ≠ stFREE) && decide ((s.stall t).control = some n)) ||
  (List.range 128).any (fun k => decide (smGet none s.tol.keyBox k = some n) && decide (s.slotState k = 1)) ||
  (List.range 66).any (fun port => (List.range 32).any (fun i => s.hostRegion n port i)) ||
  (decide (n < 2) && (List.range 32).any (fun i => decide (s.rgnState (64 + n) i ≠ 0))) ||
  (s.pcie n).assign.any (fun x => decide (fPCIE_FN_ASSIGN_VALID.get x.2 = 1)) || decide (s.tideSource = 1 + n)

/-- R345: port n takes its link down, empties its mailbox and enters the new role. -/
def State.enterRole (s : State) (n role : Nat) : State :=
  let s1 := ((s.pcieLinkOff n).mailboxReset n).fset (rPCIE_STAT n) fPCIE_STAT_ROLE role
  s1.fset (rMB_STAT n) fMB_STAT_ACCEPTING (if role = 0 ∧ s1.fget (rTOL_STAT 0) fTOL_STAT_MODE < 2 then 1 else 0)

end Sys2Proof.Machine
end

