-- ==== Sys2Proof/Machine/NetPorts.lean ====
section
/-! DEFINITION. The Ethernet MACs (R359–R365) and the Skeja transports (R366–R373). ETH_k is endpoint 0x184 + k, SKEJA_k 0x18C + k. -/

namespace Sys2Proof.Machine

/-! ### Units (R362, R364, R369) -/

/-- R362: a unit in delivery goes out as MSGs of up to four lines in offset order; a MAC keeps at most 16 outstanding per station (R364). -/
def State.sendUnit : Nat → State → DUnit → State × DUnit
  | 0, s, u => (s, u)
  | fuel + 1, s, u =>
    if u.bytes.length ≤ u.off || (isEthPort u.ep && decide (16 ≤ u.out)) then (s, u)
    else
      let n := min 256 (u.bytes.length - u.off)
      let lines := (n + 63) / 64
      let data := (List.range lines).map (fun k => (BitVec.ofNat 512 (leNat (bytesAt u.bytes (u.off + 64 * k) 64)), false))
      let h := hset (hset (hset (hset (hset 0 hDST u.dest) hTYPE tMSG) hLINES lines) hORD 1) hEXT
        (u.bytes.length + u.off * 2 ^ 16 + u.key * 2 ^ 32)
      State.sendUnit fuel (s.sendReq u.ep h data (.deliver u.ep u.id)) { u with off := u.off + n, out := u.out + 1 }

/-- Whether a unit waits for an earlier one of the same port to the same endpoint (R362). -/
def unitWaits (earlier : List DUnit) (u : DUnit) : Bool :=
  earlier.any (fun v => decide (v.ep = u.ep) && decide (v.dest = u.dest) && decide (v.off < v.bytes.length))

/-- Every unit in delivery sends what it may. -/
def State.pumpUnits : State → List DUnit → List DUnit → State × List DUnit
  | s, _, [] => (s, [])
  | s, earlier, u :: us =>
    if unitWaits earlier u then
      let r := State.pumpUnits s (earlier ++ [u]) us
      (r.1, u :: r.2)
    else
      let x := State.sendUnit 80 s u
      let r := State.pumpUnits x.1 (earlier ++ [x.2]) us
      (r.1, x.2 :: r.2)

/-- The units in delivery send what they may. -/
def State.pump (s : State) : State :=
  let r := State.pumpUnits s [] s.ports.units
  r.1.setPorts { r.1.ports with units := r.2 }

/-- A unit begins delivery from port `ep` for station or channel `key`. -/
def State.deliver (s : State) (ep key dest : Nat) (bytes : List Nat) : State :=
  (s.setPorts { s.ports with
    units := s.ports.units ++ [⟨s.ports.nextUnit, ep, key, dest, bytes, 0, 0⟩], nextUnit := s.ports.nextUnit + 1 }).pump

/-- The bytes of the units that endpoint `ep` still delivers. -/
def State.unitBytes (s : State) (ep : Nat) : Nat := (s.ports.units.filter (fun u => u.ep = ep)).foldl (fun n u => n + u.bytes.length) 0

/-- The LEN, OFFSET and INDEX of a unit packet (Table PRT-4). -/
def unitExt (h : Header) : Nat × Nat × Nat := (hget h hEXT % 2 ^ 16, hget h hEXT / 2 ^ 16 % 2 ^ 16, hget h hEXT / 2 ^ 32 % 2 ^ 6)

/-- R362: whether a packet has the form of a unit packet whose LEN lies in the range its port allows. -/
def unitFormed (h : Header) (lo hi : Nat) : Bool :=
  let x := unitExt h
  decide (hget h hADDR = 0) && decide (hget h hORD = 1) && decide (hget h hEXT / 2 ^ 38 = 0) && decide (lo ≤ x.1) && decide (x.1 ≤ hi) &&
    decide (x.2.1 < x.1) && decide (1 ≤ hget h hLINES) && decide (64 * hget h hLINES < x.1 - x.2.1 + 64)

/-- The bytes that a unit packet carries. -/
def unitBytesOf (h : Header) (flits : List (BitVec 512 × Bool)) : List Nat :=
  let x := unitExt h
  ((flits.map (fun f => leBytes 64 f.1.toNat)).flatten).take (x.1 - x.2.1)

/-- The unit in assembly at endpoint e from SRC `src`. -/
def State.partOf (s : State) (e src : Nat) : Option Part := smGet none s.ports.parts (1024 * e + src)

/-- The unit in assembly replaced or ended. -/
def State.setPart (s : State) (e src : Nat) (p : Option Part) : State :=
  s.setPorts { s.ports with parts := smSet none s.ports.parts (1024 * e + src) p }

/-- The bytes in assembly at endpoint e. -/
def State.partBytes (s : State) (e : Nat) : Nat :=
  s.ports.parts.foldl (fun n x => if x.1 / 1024 = e then (match x.2 with | some p => n + p.bytes.length | none => n) else n) 0

/-! ### Ethernet -/

/-- Table PRT-3: lanes, whether the lanes must lie within LANE_f_32–39, and the FEC variants, of each RATE. -/
def ethRates : List (Nat × Bool × List Nat) :=
  [(1, false, [0, 1]), (1, false, [0, 1, 2]), (4, false, [0, 1]), (2, false, [3]), (4, false, [2]), (1, false, [3]), (2, false, [3]),
   (4, false, [3]), (2, true, [3]), (8, false, [3]), (4, true, [3])]

/-- R359: whether ETH_k's configuration and lanes agree with Table PRT-3. -/
def State.ethOk (s : State) (k : Nat) : Bool :=
  let cfg := s.rd32 (rETH_CFG k)
  let lanes := s.instLanes (k / 2) prETH (k % 2)
  match listGet none (ethRates.map some) (fETH_CFG_RATE.get cfg) with
  | none => false
  | some (w, high, fec) => decide (lanes.length = w) && fec.contains (fETH_CFG_FEC.get cfg) && (!high || lanes.all (fun l => decide (32 ≤ l % 40)))

/-- Whether ETH_k's link is up. -/
def State.ethUp (s : State) (k : Nat) : Bool := s.flag (rETH_STAT k) fETH_STAT_LINK_UP

/-- The station configuration word of station j of ETH_k, and its address. -/
def State.station (s : State) (k j : Nat) : Nat × Nat := (s.rd32 (rETH_STN_CFG k j), s.rd64 (rETH_STN_MAC k j) % 2 ^ 48)

/-- A number from bytes, most significant first. -/
def beNat (l : List Nat) : Nat := l.foldl (fun n b => n * 256 + b) 0

/-- The VLAN tag of a frame, if it has one: its VID. -/
def frameVid (f : List Nat) : Option Nat := if beNat (bytesAt f 12 2) = 0x8100 then some (beNat (bytesAt f 14 2) % 2 ^ 12) else none

/-- R361: whether a frame's VLAN matches a station. -/
def vlanMatches (cfg : Nat) (f : List Nat) : Bool :=
  if fETH_STN_CFG_VLAN_EN.get cfg = 1 then decide (frameVid f = some (fETH_STN_CFG_VID.get cfg)) else (frameVid f).isNone

/-- R361: the stations of ETH_k that receive a frame. -/
def State.stationsFor (s : State) (k : Nat) (f : List Nat) : List Nat :=
  let dst := beNat (bytesAt f 0 6)
  let valid := (List.range 32).filter (fun j =>
    decide (fETH_STN_CFG_VALID.get (s.station k j).1 = 1) && vlanMatches (s.station k j).1 f)
  if (listGet 0 f 0) % 2 = 1 then valid.filter (fun j => decide (fETH_STN_CFG_MC.get (s.station k j).1 = 1))
  else (valid.filter (fun j => decide ((s.station k j).2 = dst))).take 1

/-- R365: whether a frame is a UDP datagram for Skeja on ETH_k. (DESIGN CHOICE, assumption 149) -/
def State.skejaDatagram (s : State) (k : Nat) (f : List Nat) : Bool :=
  let cfg := s.rd32 (rETH_CFG k)
  let ip := s.rd32 (rETH_IP k 0) * 2 ^ 96 + s.rd32 (rETH_IP k 1) * 2 ^ 64 + s.rd32 (rETH_IP k 2) * 2 ^ 32 + s.rd32 (rETH_IP k 3)
  let port := fETH_CFG_SKJ_PORT.get cfg
  let ty := beNat (bytesAt f 12 2)
  let v4 := decide (ty = 0x0800) && decide (listGet 0 f 14 / 16 = 4) && decide (listGet 0 f 23 = 17) &&
    decide (0xFFFF * 2 ^ 32 + beNat (bytesAt f 30 4) = ip) && decide (beNat (bytesAt f (14 + 4 * (listGet 0 f 14 % 16) + 2) 2) = port)
  let v6 := decide (ty = 0x86DD) && decide (listGet 0 f 20 = 17) && decide (beNat (bytesAt f 38 16) = ip) && decide (beNat (bytesAt f 56 2) = port)
  decide (fETH_CFG_SKJ_EN.get cfg = 1) && (v4 || v6)

/-- ETH_FRAME_RECEIVE (R360, R361, R364, R365): a frame, its FCS removed, and whether that FCS was good. PAUSE and PFC frames are discarded; a
Skeja datagram goes to transport k, which takes its frames one by one. -/
def State.ethReceive (s : State) (k : Nat) (f : List Nat) (fcsOk : Bool) : State :=
  let f := f.map (fun b => b % 256)
  if !s.ethUp k ∨ f.length < 60 ∨ 9212 < f.length then s
  else if !fcsOk then s.finc (rETH_ERR k) fETH_ERR_FCS
  else if beNat (bytesAt f 12 2) = 0x8808 ∨ s.skejaDatagram k f then s
  else
    match s.stationsFor k f with
    | [] => s.finc (rETH_ERR k) fETH_ERR_NOMATCH
    | js => js.foldl (fun t j =>
        if 512 * 1024 < t.unitBytes (0x184 + k) + f.length then t.finc (rETH_ERR k) fETH_ERR_RX_DROP
        else t.deliver (0x184 + k) j (fETH_STN_CFG_DEST.get (t.station k j).1) f) s

/-- R363: the checks of a frame's first packet: the station's owner, its address and its VLAN. -/
def State.stationAccepts (s : State) (k j : Nat) (h : Header) (first : List Nat) : Bool :=
  let x := s.station k j
  decide (j < 32) && decide (fETH_STN_CFG_VALID.get x.1 = 1) && decide (hget h hDEV = 0) && decide (hget h hSTALL = fETH_STN_CFG_STALL.get x.1) &&
    decide (beNat (bytesAt first 6 6) = x.2) && vlanMatches x.1 first

/-- A frame of a stall leaves the MAC's transmit buffer, or waits there while the link is down. (DEDUCED, assumption 146) -/
def State.ethSend (s : State) (k : Nat) (f : List Nat) : State :=
  if s.ethUp k then s.emit (.ethFrame k f)
  else s.setPorts { s.ports with ethTx := smSet [] s.ports.ethTx k (smGet [] s.ports.ethTx k ++ [f]) }

/-- The bytes in ETH_k's transmit buffer. -/
def State.ethTxBytes (s : State) (k : Nat) : Nat :=
  (smGet [] s.ports.ethTx k).foldl (fun n f => n + f.length) 0 + s.partBytes (0x184 + k)

/-- ETH_FRAME_TRANSMIT (R362, R363): ETH_k takes MSG i. (DEDUCED, assumption 146) -/
def State.ethTake (s : State) (k i : Nat) : State :=
  let e := 0x184 + k
  let h := (s.pkt i).hdr
  let x := unitExt h
  let src := hget h hSRC
  let new := unitBytesOf h (s.pkt i).flits
  let expected := match s.partOf e src with | some p => p.bytes.length | none => 0
  if s.orderedBehind e i then s
  else if hget h hTYPE ≠ tMSG ∨ !unitFormed h 60 9212 then s.answer e i stBAD_ADDR 0 none []
  else if x.2.1 ≠ expected then (s.setPart e src none).answer e i stBAD_ADDR 0 none []
  else
    let p : Part := match s.partOf e src with
      | some p => p
      | none => ⟨x.2.2, x.1, [], !s.stationAccepts k x.2.2 h new⟩
    if p.len ≠ x.1 ∨ p.key ≠ x.2.2 then (s.setPart e src none).answer e i stBAD_ADDR 0 none []
    else if !p.refused && decide (256 * 1024 < s.ethTxBytes k + new.length) then s
    else
      let all := p.bytes ++ new
      let done := decide (all.length = p.len)
      let s1 := s.setPart e src (if done then none else some { p with bytes := all })
      if p.refused then
        (if expected = 0 then s1.finc (rETH_ERR k) fETH_ERR_TX_REFUSED else s1).answer e i stREFUSED_OWNER 0 none []
      else
        let s2 := s1.answer e i stOK 0 none []
        if done then s2.ethSend k all else s2

/-- ETH_STN_CFG_WRITE (R361). -/
def State.stnCfgWrite (s : State) (req : Req) (k j v : Nat) : State :=
  let dest := fETH_STN_CFG_DEST.get v
  if fETH_STN_CFG_VALID.get v = 1 ∧ ¬ ((s.stall (fETH_STN_CFG_STALL.get v)).ports.contains dest ∧ isFabricPort dest) then
    s.refuse req (rETH_STN_CFG k j) causeRule
  else s.wr32 (rETH_STN_CFG k j) (v % 2 ^ 10 + v / 2 ^ 12 * 2 ^ 12)

/-! ### Skeja: sending (R366–R369, R372) -/

/-- Transport k. -/
def State.skj (s : State) (k : Nat) : Skj := smGet Skj.reset s.ports.skj k

/-- Transport k replaced. -/
def State.setSkj (s : State) (k : Nat) (x : Skj) : State := s.setPorts { s.ports with skj := smSet Skj.reset s.ports.skj k x }

/-- A path of a transport: 0 native, 1 UDP. -/
def Skj.path (x : Skj) (p : Nat) : SkPath := if p = 0 then x.native else x.udp

/-- A path of a transport replaced. -/
def Skj.setPath (x : Skj) (p : Nat) (y : SkPath) : Skj := if p = 0 then { x with native := y } else { x with udp := y }

/-- The SKJ_STAT bit of a path. -/
def upFld (p : Nat) : Fld := if p = 0 then fSKJ_STAT_NATIVE_UP else fSKJ_STAT_UDP_UP

/-- Whether a path of transport k is up. -/
def State.pathUp (s : State) (k p : Nat) : Bool := s.flag (rSKJ_STAT k) (upFld p)

/-- The slot bound to transport k. -/
def State.skjSlot (s : State) (k : Nat) : Nat := s.fget (rSKJ_STAT k) fSKJ_STAT_SLOT

/-- R367: one SEQ before another. -/
def seqPred (n : Nat) : Nat := (n + 2 ^ 24 - 1) % 2 ^ 24

/-- The channel word of channel c of transport k. -/
def State.chanWord (s : State) (k c : Nat) : Nat := s.rd32 (rSKJ_CHAN k c)

/-- The class of a channel: 0 acts as 1. -/
def chanClass (w : Nat) : Nat := if fSKJ_CHAN_CLASS.get w = 0 then 1 else fSKJ_CHAN_CLASS.get w

/-- A CONTROL or NAK frame goes out on a path under the management key; past its last epoch the path runs the handshake again (R372). -/
def State.skjControl (s : State) (k p type : Nat) (credits : List (Nat × Nat)) : State :=
  let x := s.skj k
  let y := x.path p
  let f : SkFrame := ⟨type, 0, y.mgmtEpoch % 2, 0, 0, 0, false, y.seq, seqPred y.rxNext, [], credits⟩
  let ctr := y.mgmtCtr + 1
  let y1 := if ctr < 2 ^ 32 then { y with mgmtCtr := ctr }
    else if y.mgmtEpoch = 65535 then { y with mgmtCtr := 0, handshake := true }
    else { y with mgmtCtr := 0, mgmtEpoch := y.mgmtEpoch + 1 }
  (s.setSkj k (x.setPath p y1)).emit (.skeja k p (s.skjSlot k) y.mgmtEpoch y.mgmtCtr f)

/-- R369: the message of class `cls` of path p that may send its next frame: the first of its channel, with credit for it. -/
def Skj.nextMsgOf (x : Skj) (p cls : Nat) : Option SkMsg :=
  x.tx.find? (fun m => decide (m.path = p) && decide (m.cls = cls) && decide (smGet 0 x.used (64 * p + m.chan) < 128) &&
    !(x.tx.any (fun n => decide (n.id < m.id) && decide (n.path = p) && decide (n.chan = m.chan))))

/-- R369: the share of a class: 8, 4 or 1 for classes 3, 2 and 1. -/
def classShare (cls : Nat) : Nat := if cls = 3 then 8 else if cls = 2 then 4 else 1

/-- R369: the message that sends the next frame of path p, and the shares left after it. -/
def Skj.choose (x : Skj) (p : Nat) : Option (SkMsg × List Nat) :=
  let ready := [3, 2, 1].filter (fun c => (x.nextMsgOf p c).isSome)
  let share := if ready.any (fun c => decide (0 < listGet 0 x.share (c - 1))) then x.share else [classShare 1, classShare 2, classShare 3]
  match ready.find? (fun c => decide (0 < listGet 0 share (c - 1))) with
  | none => none
  | some c => (x.nextMsgOf p c).map (fun m => (m, listModify (fun v => v - 1) share (c - 1)))

/-- SKEJA_FRAME_SEND (R366–R369, R372): the next data frame of path p leaves under the data key, and stays in the retry buffer. (DEDUCED, assumption 148) -/
def State.skjSend (s : State) (k p : Nat) : State :=
  let x := s.skj k
  let y := x.path p
  if !s.pathUp k p || !s.flag (rSKJ_STAT k) fSKJ_STAT_DATA_KEYED || s.flag (rSKJ_STAT k) fSKJ_STAT_EXHAUSTED || decide (1024 ≤ y.retry.length) then s
  else
    match x.choose p with
    | none => s
    | some (m, share) =>
      let n := min 256 (m.bytes.length - m.off)
      let last := decide (m.off + n = m.bytes.length)
      let f : SkFrame := ⟨0, m.cls, y.dataEpoch % 2, x.kgenTx, m.chan, m.off / 256, last, y.seq, seqPred y.rxNext, bytesAt m.bytes m.off n, []⟩
      let wrap := decide (2 ^ 32 ≤ y.dataCtr + 1)
      let spent := wrap && decide (y.dataEpoch = 65535)
      let y1 := { y with seq := (y.seq + 1) % 2 ^ 24, retry := y.retry ++ [(m.id, f)],
                         dataCtr := if wrap then 0 else y.dataCtr + 1,
                         dataEpoch := if wrap && !spent then y.dataEpoch + 1 else y.dataEpoch }
      let x1 := { x.setPath p y1 with
        tx := if last then x.tx.filter (fun t => t.id ≠ m.id) else x.tx.map (fun t => if t.id = m.id then { t with off := t.off + n } else t)
        used := smSet 0 x.used (64 * p + m.chan) (smGet 0 x.used (64 * p + m.chan) + 1)
        share := share }
      let s1 := ((s.setSkj k x1).emit (.skeja k p (s.skjSlot k) y.dataEpoch y.dataCtr f)).wearUp (s.skjSlot k) 4
      let s2 := s1.fset (rSKJ_STAT k) fSKJ_STAT_EPOCH y1.dataEpoch
      if spent then (s2.fset (rSKJ_STAT k) fSKJ_STAT_EXHAUSTED 1).irq (PageKind.skeja.addr k) 2 else s2

/-- R367, R368: the first `n` unacknowledged frames of a path are sent again, each counted in RETRY. -/
def State.resend (s : State) (k p n : Nat) : State :=
  (((s.skj k).path p).retry.take n).foldl (fun t x =>
    (t.emit (.skeja k p (t.skjSlot k) ((t.skj k).path p).dataEpoch 0 x.2)).finc (rSKJ_ERR k) fSKJ_ERR_RETRY) s

/-- R367: the frames up to SEQ `ack` are acknowledged, where `ack` is the SEQ of a frame in the retry buffer. -/
def SkPath.acked (y : SkPath) (ack : Nat) : SkPath :=
  if y.retry.any (fun x => decide (x.2.seq = ack)) then
    { y with retry := (y.retry.dropWhile (fun x => decide (x.2.seq ≠ ack))).tail }
  else y

/-- NAK (R367): the sender resends from the NAK's ACK onward. -/
def State.nak (s : State) (k p ack : Nat) : State :=
  if !s.pathUp k p then s
  else
    let x := s.skj k
    (s.setSkj k (x.setPath p ((x.path p).acked ack))).resend k p 1024

/-- UDP_RESEND_TIMEOUT (R368): RTO_US has passed for the `n` oldest unacknowledged frames. -/
def State.udpTimeout (s : State) (k n : Nat) : State := if s.pathUp k 1 then s.resend k 1 n else s

/-- SKEJA_MESSAGE_SEND (R362, R369): transport k takes MSG i. -/
def State.skjTake (s : State) (k i : Nat) : State :=
  let e := 0x18C + k
  let h := (s.pkt i).hdr
  let x := unitExt h
  let src := hget h hSRC
  let new := unitBytesOf h (s.pkt i).flits
  let w := s.chanWord k x.2.2
  let expected := match s.partOf e src with | some p => p.bytes.length | none => 0
  let held := (s.skj k).tx.foldl (fun n m => n + (m.bytes.length - m.off)) 0 + s.partBytes e
  if s.orderedBehind e i then s
  else if hget h hTYPE ≠ tMSG ∨ !unitFormed h 1 16384 then s.answer e i stBAD_ADDR 0 none []
  else if x.2.1 ≠ expected then (s.setPart e src none).answer e i stBAD_ADDR 0 none []
  else
    let p : Part := match s.partOf e src with
      | some p => p
      | none => ⟨x.2.2, x.1, [], !(decide (fSKJ_CHAN_VALID.get w = 1) && decide (hget h hDEV = 0) && decide (hget h hSTALL = fSKJ_CHAN_STALL.get w) &&
          s.flag (rSKJ_STAT k) fSKJ_STAT_DATA_KEYED)⟩
    if p.len ≠ x.1 ∨ p.key ≠ x.2.2 then (s.setPart e src none).answer e i stBAD_ADDR 0 none []
    else if !p.refused && decide (512 * 1024 < held + new.length) then s
    else
      let all := p.bytes ++ new
      let done := decide (all.length = p.len)
      let s1 := s.setPart e src (if done then none else some { p with bytes := all })
      if p.refused then s1.answer e i stREFUSED_OWNER 0 none []
      else
        let s2 := s1.answer e i stOK 0 none []
        if !done then s2
        else
          let t := s2.skj k
          s2.setSkj k { t with tx := t.tx ++ [⟨t.nextMsg, fSKJ_CHAN_PATH.get w, chanClass w, fSKJ_CHAN_REMOTE.get w, all, 0⟩], nextMsg := t.nextMsg + 1 }

/-! ### Skeja: receiving (R367, R369, R371) -/

/-- R369: whether channel c of transport k may deliver: it is valid and its DEST is a fabric port of its stall. (DESIGN CHOICE, assumption 147) -/
def State.chanDelivers (s : State) (k c : Nat) : Bool :=
  let w := s.chanWord k c
  let d := fSKJ_CHAN_DEST.get w
  decide (fSKJ_CHAN_VALID.get w = 1) && isFabricPort d && s.flag (rEP_CFG d) fEP_CFG_OWNED &&
    decide (s.fget (rEP_CFG d) fEP_CFG_STALL = fSKJ_CHAN_STALL.get w)

/-- R369: credits for `n` frames of channel c return to the sender of path p. (DESIGN CHOICE, assumption 147) -/
def State.returnCredit (s : State) (k p c n : Nat) : State := if n = 0 then s else s.skjControl k p 1 [(c, n)]

/-- R371: once both ends send under the new generation, the old slot's LINK_REFS falls by 1. -/
def State.releaseOld (s : State) (k : Nat) : State :=
  let x := s.skj k
  match x.oldSlot with
  | some o =>
    if x.kgenTx = x.kgenRx then
      let n := s.fget (rSLUICE_SLOT 0 o) fSLUICE_SLOT_LINK_REFS
      (s.setSkj k { x with oldSlot := none }).fset (rSLUICE_SLOT 0 o) fSLUICE_SLOT_LINK_REFS (n - 1)
    else s
  | none => s

/-- R369: a data frame received in order: its bytes join its channel's message; a complete message is delivered, or discarded and counted. -/
def State.skjData (s : State) (k p : Nat) (f : SkFrame) : State :=
  let x := s.skj k
  let y := x.path p
  let got := (if f.frag = 0 then [] else smGet [] y.rx f.chan) ++ f.payload.take 256
  let fits := decide (f.frag * 256 = got.length - min 256 f.payload.length)
  if !f.last then s.setSkj k (x.setPath p { y with rx := smSet [] y.rx f.chan got })
  else
    let s1 := s.setSkj k (x.setPath p { y with rx := smSet [] y.rx f.chan [] })
    let s2 := if fits && s1.chanDelivers k f.chan && decide (got.length ≤ 16384) && !got.isEmpty then
        s1.deliver (0x18C + k) f.chan (fSKJ_CHAN_DEST.get (s1.chanWord k f.chan)) got
      else s1.finc (rSKJ_ERR k) fSKJ_ERR_DELIVER_DROP
    s2.returnCredit k p f.chan (f.frag + 1)

/-- PATH_DOWN (R373): the unacknowledged frames of the path go, and the messages they belonged to count in DELIVER_DROP. A link slot of the
management tree on the path no longer leads to a child. -/
def State.pathDown (s : State) (k p : Nat) : State :=
  if !s.pathUp k p then s.setSkj k ((s.skj k).setPath p { (s.skj k).path p with handshake := false })
  else
    let x := s.skj k
    let y := x.path p
    let ids := (y.retry.map (fun r => r.1)).eraseDups
    let x1 := { x.setPath p { y with retry := [], rx := [], handshake := false, nakSent := false, fails := 0 } with
      tx := x.tx.filter (fun m => !(decide (m.path = p) && decide (m.off ≠ 0)))
      used := smClear (fun c => decide (c / 64 = p)) x.used }
    let s1 := (((s.setSkj k x1).fset (rSKJ_STAT k) (upFld p) 0).fadd (rSKJ_ERR k) fSKJ_ERR_DELIVER_DROP ids.length).irq (PageKind.skeja.addr k) 0
    let s2 := if s1.pathUp k (1 - p) then s1 else s1.fset (rSKJ_STAT k) fSKJ_STAT_MGMT_KEYED 0
    s2.childLeaves (8 * p + k)

/-- SKEJA_FRAME_RECEIVE (R367, R369, R371, R372): a frame with whether FEC corrected it and whether its tag verifies. -/
def State.skjReceive (s : State) (k p : Nat) (f : SkFrame) (fecOk tagOk : Bool) : State :=
  if !s.pathUp k p ∨ !fecOk then s
  else
    let x := s.skj k
    let y := x.path p
    if !tagOk then
      let s1 := (s.setSkj k (x.setPath p { y with fails := y.fails + 1 })).finc (rSKJ_ERR k) fSKJ_ERR_AUTH
      if 16 ≤ y.fails + 1 then s1.pathDown k p else s1
    else
      let y1 := { y.acked f.ack with fails := 0 }
      if f.type = 2 then (s.setSkj k (x.setPath p y1)).resend k p 1024
      else if f.type = 1 then
        s.setSkj k { x.setPath p y1 with
          used := f.credits.foldl (fun m c => smSet 0 m (64 * p + c.1) (smGet 0 m (64 * p + c.1) - c.2)) x.used }
      else if f.type ≠ 0 then s.setSkj k (x.setPath p y1)
      else if f.seq = y.rxNext then
        let x1 := { x.setPath p { y1 with rxNext := (y.rxNext + 1) % 2 ^ 24, nakSent := false } with kgenRx := f.kgen % 2 }
        ((s.setSkj k x1).releaseOld k).skjData k p f
      else if y.nakSent ∨ 2 ^ 23 ≤ (f.seq + 2 ^ 24 - y.rxNext) % 2 ^ 24 then s.setSkj k (x.setPath p y1)
      else (s.setSkj k (x.setPath p { y1 with nakSent := true })).skjControl k p 2 []

/-- MSG_RSP at a MAC or transport (R364, R369): the rest of a unit whose MSG is not answered OK is discarded and counted. -/
def State.unitRsp (s : State) (id status : Nat) : State :=
  match s.ports.units.find? (fun u => u.id = id) with
  | none => s
  | some u =>
    if status ≠ stOK then
      let s1 := s.setPorts { s.ports with units := s.ports.units.filter (fun v => v.id ≠ id) }
      (if isEthPort u.ep then s1.finc (rETH_ERR (u.ep - 0x184)) fETH_ERR_RX_DROP
       else s1.finc (rSKJ_ERR (u.ep - 0x18C)) fSKJ_ERR_DELIVER_DROP).pump
    else if u.out ≤ 1 ∧ u.bytes.length ≤ u.off then
      (s.setPorts { s.ports with units := s.ports.units.filter (fun v => v.id ≠ id) }).pump
    else (s.setPorts { s.ports with units := s.ports.units.map (fun v => if v.id = id then { v with out := v.out - 1 } else v) }).pump

/-! ### Skeja: paths and bindings (R368, R370, R371) -/

/-- PATH_UP (R370): the link under a path is up; the ends run the handshake. No path comes up while Tolmor is DEAD. -/
def State.pathStart (s : State) (k p : Nat) : State :=
  let linked := if p = 0 then s.instUp (k / 2) prSKEJA (k % 2) else s.ethUp k && s.flag (rSKJ_UDP k) fSKJ_UDP_EN
  if !linked || s.dead || s.pathUp k p then s else s.setSkj k ((s.skj k).setPath p { (s.skj k).path p with handshake := true })

/-- HANDSHAKE_END (R370): the handshake agrees a management key, or fails and leaves the path down. (DEDUCED, assumption 148) -/
def State.handshakeEnd (s : State) (k p : Nat) (ok : Bool) : State :=
  let x := s.skj k
  let y := x.path p
  if !y.handshake || s.dead then s
  else if ok then
    if s.pathUp k p then s.setSkj k (x.setPath p { y with handshake := false, mgmtEpoch := 0, mgmtCtr := 0 })
    else
      let y1 := { y with handshake := false, seq := 0, retry := [], rxNext := 0, nakSent := false, fails := 0, mgmtEpoch := 0, mgmtCtr := 0, rx := [] }
      ((((s.setSkj k (x.setPath p y1)).fset (rSKJ_STAT k) (upFld p) 1).fset (rSKJ_STAT k) fSKJ_STAT_MGMT_KEYED 1).fset (rSKJ_STAT k)
        fSKJ_STAT_AUTH_FAIL 0).irq (PageKind.skeja.addr k) 0
  else
    let s1 := s.pathDown k p
    (((s1.setSkj k ((s1.skj k).setPath p { (s1.skj k).path p with handshake := false })).fset (rSKJ_STAT k) fSKJ_STAT_AUTH_FAIL 1).irq
      (PageKind.skeja.addr k) 1)

/-- BIND_LINK_KEY (R371): the slot is bound to transport k, which announces its check value and waits for the peer's. -/
def State.bindLink (s : State) (k slot : Nat) : State :=
  let n := s.fget (rSLUICE_SLOT 0 slot) fSLUICE_SLOT_LINK_REFS
  (((s.fset (rSLUICE_SLOT 0 slot) fSLUICE_SLOT_LINK_REFS (n + 1)).fset (rSKJ_STAT k) fSKJ_STAT_SWITCH_PEND 1).setSkj k
    { s.skj k with newSlot := some slot }).emit (.skejaCheck k slot)

/-- CHECK_VALUE_MATCH (R371): the sender switches to the new slot, toggles KGEN and restarts at epoch 0. -/
def State.checkMatch (s : State) (k : Nat) : State :=
  let x := s.skj k
  match x.newSlot with
  | none => s
  | some slot =>
    let old := if s.flag (rSKJ_STAT k) fSKJ_STAT_DATA_KEYED then some (s.skjSlot k) else none
    let fresh := fun (y : SkPath) => { y with dataEpoch := 0, dataCtr := 0 }
    let x1 := { x with native := fresh x.native, udp := fresh x.udp, kgenTx := 1 - x.kgenTx, newSlot := none, oldSlot := old }
    let s0 := match x.oldSlot with
      | some o => s.fset (rSLUICE_SLOT 0 o) fSLUICE_SLOT_LINK_REFS (s.fget (rSLUICE_SLOT 0 o) fSLUICE_SLOT_LINK_REFS - 1)
      | none => s
    let s1 := (((s0.setSkj k x1).fset (rSKJ_STAT k) fSKJ_STAT_SLOT slot).fset (rSKJ_STAT k) fSKJ_STAT_SWITCH_PEND 0).fset (rSKJ_STAT k)
      fSKJ_STAT_DATA_KEYED 1
    (((s1.fset (rSKJ_STAT k) fSKJ_STAT_EXHAUSTED 0).fset (rSKJ_STAT k) fSKJ_STAT_EPOCH 0).irq (PageKind.skeja.addr k) 3).releaseOld k

/-! ### Links -/

/-- ETH_k's CFG_ERR follows its configuration and lanes; a configuration that breaks R359 takes the link down, and the UDP path with it. -/
def State.ethLinkDown (s : State) (k : Nat) : State :=
  if s.ethUp k then
    ((((s.fset (rETH_STAT k) fETH_STAT_LINK_UP 0).fset (rETH_STAT k) fETH_STAT_AN_DONE 0).irq (PageKind.eth.addr k) 0)).pathDown k 1
  else s

/-- R359: CFG_ERR of ETH_k brought up to date. -/
def State.ethCheck (s : State) (k : Nat) : State :=
  if s.ethOk k then s.fset (rETH_STAT k) fETH_STAT_CFG_ERR 0 else (s.fset (rETH_STAT k) fETH_STAT_CFG_ERR 1).ethLinkDown k

/-- R359: a write to ETH_CFG: a change of RATE, FEC or AN brings the link down until it comes up again. (DEDUCED, assumption 150) -/
def State.ethCfgWrite (s : State) (k v : Nat) : State :=
  let w := v % 2 ^ 16 + v / 2 ^ 24 * 2 ^ 24
  let old := s.rd32 (rETH_CFG k)
  let s1 := s.wr32 (rETH_CFG k) w
  (if old / 2 ^ 25 = w / 2 ^ 25 then s1 else s1.ethLinkDown k).ethCheck k

/-- SKJ_UDP written: EN = 0 takes the UDP path down (R368). -/
def State.skjUdpWrite (s : State) (k v : Nat) : State :=
  let s1 := s.wr32 (rSKJ_UDP k) v
  if fSKJ_UDP_EN.get v = 0 ∧ s1.pathUp k 1 then s1.pathDown k 1 else s1

/-- LINK_UP (R344, R359): a link completes training and comes up. (DEDUCED, assumption 150) -/
def State.linkUp (s : State) : LinkEvent → State
  | .pcie n gen width cxl flit ide ptm => s.pcieLinkUp n gen width cxl flit ide ptm
  | .eth k an =>
    let s1 := s.ethCheck k
    if !s1.ethOk k || !s1.instUp (k / 2) prETH (k % 2) || s1.ethUp k then s1
    else
      let s2 := ((s1.fset (rETH_STAT k) fETH_STAT_LINK_UP 1).fset (rETH_STAT k) fETH_STAT_AN_DONE
        (b2n (an && decide (s1.fget (rETH_CFG k) fETH_CFG_AN = 1)))).irq (PageKind.eth.addr k) 0
      let s3 := (smGet [] s2.ports.ethTx k).foldl (fun t f => t.emit (.ethFrame k f)) s2
      (s3.setPorts { s3.ports with ethTx := smSet [] s3.ports.ethTx k [] }).pathStart k 1
  | .skeja k => s.pathStart k 0

/-- LINK_DOWN (R348, R373): a port's link goes down. -/
def State.linkDown (s : State) : LinkName → State
  | .pcie n => s.pcieLinkDown n
  | .eth k => s.ethLinkDown k
  | .skeja k => s.pathDown k 0

/-- R350, R361, Table PRT-6: what the ports forget of stall n when it is destroyed: its function assignments, stations and channels. -/
def State.portsForget (s : State) (n : Nat) : State :=
  let s1 := (List.range 4).foldl (fun t p =>
    t.setPcie p { t.pcie p with assign := smClear (fun f => decide (fPCIE_FN_ASSIGN_STALL.get (smGet 0 (t.pcie p).assign f) = n)) (t.pcie p).assign }) s
  let s2 := (List.range 8).foldl (fun t k => (List.range 32).foldl (fun t j =>
    if t.fget (rETH_STN_CFG k j) fETH_STN_CFG_STALL = n then t.fset (rETH_STN_CFG k j) fETH_STN_CFG_VALID 0 else t) t) s1
  (List.range 8).foldl (fun t k => (List.range 64).foldl (fun t c =>
    if t.fget (rSKJ_CHAN k c) fSKJ_CHAN_STALL = n then t.fset (rSKJ_CHAN k c) fSKJ_CHAN_VALID 0 else t) t) s2

/-! ### Requests and responses at hardened endpoints -/

/-- A request of TYPE `type` in REQ_OUT of endpoint e: what its responder does with it. HBM and CXL memory perform it (R197), a PCIe port turns
it into a TLP or gives it to the lane bridge (R340, R347), a MAC or transport takes a unit packet (R362), and Tolmor's endpoint refuses it
(R163). (DEDUCED, assumptions 137, 139) -/
def State.serve (s : State) (e i type : Nat) (faults : List (Nat × LineFault)) (env : PcieEnv) : State :=
  if !s.reqAt e i type then s
  else
    let h := (s.pkt i).hdr
    match memPortOf e (hget h hADDR) with
    | some port => s.memRequest e port i faults
    | none =>
      match bridgeMsg e h with
      | some ll =>
        match s.bridgeStatus e h ll with
        | none => s
        | some st =>
          let s1 := if st = stOK then s.bridgeTake (40 * (e - 0x180) + ll) ((s.pkt i).flits.map (fun f => f.1)) else s
          s1.answer e i st 0 none []
      | none =>
        if isPciePort e then (if type = tMSG then s.answer e i stBAD_ADDR 0 none [] else s.pcieRequest (e - 0x180) i env)
        else if isEthPort e then s.ethTake (e - 0x184) i
        else if isSkejaPort e then s.skjTake (e - 0x18C) i
        else if e = epTolmor then s.answer e i (if hget h hDEV = 0 then stREFUSED_OWNER else stBAD_ADDR) 0 none []
        else s

/-- RD_RSP, WR_RSP, MSG_RSP, REG_RSP (R184): the tracker of endpoint e checks the next response of TYPE `type`, and what the request was made
for goes on: an engine's transfer (R151), an access from a host link (R351), a lane bridge's MSG (R341) or a unit's delivery. -/
def State.takeRsp (s : State) (e type : Nat) : State :=
  match s.nextRsp e type with
  | none => s
  | some i =>
    let s1 := s.trackRsp e i
    let p := s1.pkt i
    if !p.accepted then s1
    else
      match p.origin with
      | .tenant => s1
      | .tolmor => s1.killPkt e i
      | .engine n desc line _ => (s1.killPkt e i).engineRsp n desc line p.hdr p.flits
      | .host n tag => (s1.killPkt e i).hostRsp n tag p.hdr p.flits
      | .lane l => (s1.killPkt e i).bridgeRsp l
      | .deliver _ u => (s1.killPkt e i).unitRsp u (hget p.hdr hSTATUS)

end Sys2Proof.Machine
end

