-- ==== Sys2Proof/Machine/D2D.lean ====
section
/-! DEFINITION. Weir bundles, the repair log, UCIe modules, quarantine, re-admission and boundary scan (R375–R398). Bundles are numbered 256y + b. -/

namespace Sys2Proof.Machine

/-- The die-to-die side replaced. -/
def State.setD2d (s : State) (d : D2D) : State := { s with d2d := d }

/-! ### The lanes of a bundle (R375, R376) -/

/-- Whether bundle k is an engine group's, which is split in two halves. -/
def isSplit (k : Nat) : Bool := decide (240 ≤ k % 256)

/-- WB_STAT.KIND of bundle k. -/
def bundleKind (k : Nat) : Nat := if k % 256 < 192 then 0 else if k % 256 < 240 then 1 else 2

/-- The halves of bundle k: one where it is not split. -/
def bundleHalves (k : Nat) : List Nat := if isSplit k then [0, 1] else [0]

/-- Table WEI-1, R375: the data lanes of a half. -/
def weirData (k h : Nat) : List Nat := if isSplit k then (List.range 32).map (fun i => 32 * h + i) else List.range 64

/-- Table WEI-1, R375: the spares of a half. -/
def weirSpares (k h : Nat) : List Nat := if isSplit k then [64 + 2 * h, 65 + 2 * h] else [64, 65, 66, 67]

/-- Table WEI-1, R375: the control lanes of a half. -/
def weirControl (k h : Nat) : List Nat := if isSplit k then [68 + h] else [68, 69]

/-- The logical lanes of a half in FULL: 66, or 33 (R381). -/
def weirLogical (k h : Nat) : List Nat := weirData k h ++ weirControl k h

/-- R381: the healthy lanes that NARROW needs. -/
def narrowNeed (k : Nat) : Nat := if isSplit k then 17 else 34

/-- R376: the partner of a bundle or half. -/
def weirPartner (k h : Nat) : Nat × Nat :=
  if isSplit k then (k, 1 - h)
  else if k % 256 < 192 then (if k % 4 < 2 then (k + 2, 0) else (k - 2, 0))
  else (if k % 2 = 0 then (k + 1, 0) else (k - 1, 0))

/-- A bundle or half. -/
def State.weir (s : State) (k h : Nat) : Weir := smGet Weir.reset s.d2d.weirs (2 * k + h)

/-- A bundle or half replaced. -/
def State.setWeir (s : State) (k h : Nat) (w : Weir) : State := s.setD2d { s.d2d with weirs := smSet Weir.reset s.d2d.weirs (2 * k + h) w }

/-- WB_STAT.STATE. -/
def State.bundleState (s : State) (k : Nat) : Nat := s.fget (rWB_STAT k) fWB_STAT_STATE

/-- Whether a bundle carries traffic: FULL or NARROW. -/
def State.bundleUp (s : State) (k : Nat) : Bool := decide (s.bundleState k = 2) || decide (s.bundleState k = 3)

/-- WB_LANE_FAIL: whether physical lane p is failed. -/
def State.laneFailed (s : State) (k p : Nat) : Bool := s.bit (rWB_LANE_FAIL k (p / 32)) (p % 32)

/-- Byte i of WB_SPARE_MAP. -/
def spareFld (i : Nat) : Fld := ⟨8 * i, 8⟩

/-- The lane that spare lane `sp` replaces, if it is in use. -/
def State.spareUse (s : State) (k sp : Nat) : Option Nat :=
  let v := s.fget (rWB_SPARE_MAP k) (spareFld (sp - 64))
  if 128 ≤ v then some (v - 128) else none

/-- Whether a lane is replaced by a spare. -/
def State.laneSpared (s : State) (k h p : Nat) : Bool := (weirSpares k h).any (fun sp => s.spareUse k sp = some p)

/-- The healthy spares of a half that no lane uses. -/
def State.freeSpares (s : State) (k h : Nat) : List Nat :=
  (weirSpares k h).filter (fun sp => !s.laneFailed k sp && (s.spareUse k sp).isNone)

/-- The healthy data, spare and control lanes of a half. -/
def State.healthyLanes (s : State) (k h : Nat) : List Nat :=
  (weirData k h ++ weirSpares k h ++ weirControl k h).filter (fun p => !s.laneFailed k p)

/-- The failed data and control lanes that no spare replaces, lowest first. -/
def State.unmapped (s : State) (k h : Nat) : List Nat := (weirLogical k h).filter (fun p => s.laneFailed k p && !s.laneSpared k h p)

/-- Whether a half has a spare that can shadow (R382, R384). -/
def State.canShadow (s : State) (k h : Nat) : Bool :=
  if (s.weir k h).narrow then decide (narrowNeed k < (s.healthyLanes k h).length) else !(s.freeSpares k h).isEmpty

/-- R382: a half begins to shadow where a spare allows it, and stops where none does. (DEDUCED, assumption 173) -/
def State.settleShadow (s : State) (k h : Nat) : State :=
  let w := s.weir k h
  s.setWeir k h { w with shadow := if s.canShadow k h then some (w.shadow.getD 0) else none }

/-- R381, R384: the physical lane that carries logical lane `l` of a half: its own, or its spare; in NARROW data lane l is the l-th healthy lane. -/
def State.physLane (s : State) (k h l : Nat) : Nat :=
  let n := if isSplit k then 16 else 32
  if (s.weir k h).narrow && decide (l < n) then
    listGet 0 ((weirData k h ++ weirSpares k h).filter (fun p => !s.laneFailed k p)) l
  else
    let p := if (s.weir k h).narrow then listGet 0 (weirControl k h) (l - n) else listGet 0 (weirLogical k h) l
    ((weirSpares k h).find? (fun sp => s.spareUse k sp = some p)).getD p

/-- WB_STAT brought into step with the halves of a bundle that runs in STATE `st`. -/
def State.bundleShow (s : State) (k st : Nat) : State :=
  let old := s.bundleState k
  let free := (bundleHalves k).foldl (fun n h => n + (s.freeSpares k h).length) 0
  let shadow := ((bundleHalves k).filterMap (fun h => (s.weir k h).shadow)).head?.getD 0x7F
  let s1 := (((s.fset (rWB_STAT k) fWB_STAT_STATE st).fset (rWB_STAT k) fWB_STAT_KIND (bundleKind k)).fset (rWB_STAT k) fWB_STAT_SPARES_FREE free).fset
    (rWB_STAT k) fWB_STAT_SHADOW shadow
  if st = old then s1 else s1.irq (PageKind.wb.addr k) 0

/-- The STATE of a bundle whose halves run: NARROW where one is. -/
def State.runState (s : State) (k : Nat) : Nat := if (bundleHalves k).any (fun h => (s.weir k h).narrow) then 3 else 2

/-! ### The repair log (R386, R388) -/

/-- Whether an entry is already recorded, fused or waiting. -/
def State.recorded (s : State) (kind index lane : Nat) : Bool :=
  (s.d2d.repair ++ s.d2d.unfused).any (fun e => decide (e.kind = kind) && decide (e.index = index) && decide (e.lane = lane))

/-- An entry for Tolmor to fuse, unless it is already recorded. Its TIDE is 0 while Tide is NONE. (DEDUCED, assumption 174) -/
def State.repairNote (s : State) (kind origin index lane : Nat) : State :=
  if s.recorded kind index lane then s
  else s.setD2d { s.d2d with unfused := s.d2d.unfused ++ [⟨kind, origin, index, lane, if s.tideState = 0 then 0 else s.tide.now, false⟩] }

/-- REPAIR_FUSE (R386, R388): Tolmor fuses the oldest waiting entry, or keeps it in SRAM when the 2 048 fuses are full. (DEDUCED, assumption 160) -/
def State.repairFuse (s : State) : State :=
  match s.d2d.unfused with
  | [] => s
  | e :: l =>
    if s.dead then s
    else if s.fget (rREPAIR_STAT 0) fREPAIR_STAT_USED < 2048 then
      (s.setD2d { s.d2d with unfused := l, repair := s.d2d.repair ++ [e] }).finc (rREPAIR_STAT 0) fREPAIR_STAT_USED
    else
      let s1 := (s.setD2d { s.d2d with unfused := l, repair := s.d2d.repair ++ [{ e with sram := true }] }).irq (PageKind.dieCtl.addr 0) 2
      if s1.flag (rREPAIR_STAT 0) fREPAIR_STAT_OVERFLOW then s1 else (s1.fset (rREPAIR_STAT 0) fREPAIR_STAT_OVERFLOW 1).logEvent 7 7 0 0

/-- Every waiting entry is fused. -/
def State.fuseAll (s : State) : State := s.d2d.unfused.foldl (fun t _ => t.repairFuse) s

/-- Table WEI-3: an entry of the repair log. -/
def RepairEntry.bytes (e : RepairEntry) : List Nat :=
  leBytes 1 e.kind ++ leBytes 1 e.origin ++ leBytes 2 e.index ++ leBytes 1 e.lane ++ leBytes 3 0 ++ leBytes 8 e.tide

/-- R388, Table WEI-3: what READ_REPAIR_LOG writes: the fuse entries, then those held in SRAM. -/
def State.repairLog (s : State) : List Nat :=
  let l := s.d2d.repair.filter (fun e => !e.sram) ++ s.d2d.repair.filter (fun e => e.sram)
  leBytes 4 0x52504C47 ++ leBytes 2 1 ++ leBytes 2 (s.fget (rREPAIR_STAT 0) fREPAIR_STAT_OVERFLOW) ++ leBytes 4 l.length ++ leBytes 4 0 ++
    leBytes 8 (s.rd64 (rTOL_SERIAL 0)) ++ leBytes 8 0 ++ l.flatMap RepairEntry.bytes

/-! ### Quarantine (R392, R393) -/

/-- DIE_STATE_d.STATE. (DESIGN CHOICE, assumption 177) -/
def State.dieState (s : State) (d : Nat) : Nat := s.fget (rDIE_STATE 0 d) fDIE_STATE_STATE

/-- The yard or ford that a test or calibration touches (Table TMC-9), as a die number. -/
def testDie (kind index : Nat) : Option Nat :=
  if kind = 1 then some (index / 48)
  else if kind = 2 then some (index / 64)
  else if kind = 5 then some (index / 256)
  else if kind = 0x11 then some (8 + index / 40)
  else if kind = 0x13 then some (index / 8)
  else none

/-- The endpoints of a yard: its fabric ports and its engine ports. -/
def yardEps (y : Nat) : List Nat := (List.range 24).map (fun fp => fpRouter y fp) ++ (List.range 16).map (fun g => 0xC0 + 16 * y + g)

/-- R393: the Riverbed side of every bundle of a yard enters QUARANTINE: retry buffers are dropped and nothing is sent. (DEDUCED, assumption 175) -/
def State.bundlesCut (s : State) (y : Nat) : State :=
  (List.range 256).foldl (fun t b =>
    let k := 256 * y + b
    ((bundleHalves k).foldl (fun u h => u.setWeir k h Weir.reset) t).bundleShow k 5) s

/-- R393: a yard is cut off: its bundles, its endpoints, its driver slots, its Tally leaves. -/
def State.yardCut (s : State) (y : Nat) : State :=
  let s1 := s.bundlesCut y
  let s2 := (yardEps y).foldl (fun t e => t.markUnreach e 0) s1
  let s3 : State := { s2 with fab := { s2.fab with snap := smClear (fun k => decide (k / 256 = y)) s2.fab.snap } }
  s3.leavesQuarantined y

/-- A UCIe module stops. -/
def State.moduleDown (s : State) (f m : Nat) : State :=
  if s.flag (rUCIE_MOD f m) fUCIE_MOD_UP then ((s.fset (rUCIE_MOD f m) fUCIE_MOD_UP 0).fset (rUCIE_MOD f m) fUCIE_MOD_RATE 0).irq (PageKind.ucie.addr f) 0 else s

/-- R389: the lanes that a module carries. -/
def moduleLanes (f m : Nat) : List Nat :=
  (if m < 4 then (List.range 8).map (fun i => 8 * m + i) else (List.range 4).map (fun i => 32 + 4 * (m - 4) + i)).map (fun i => 40 * f + i)

/-- R393: a ford is cut off: its modules stop, its lanes enter OFF and each port that uses them sees its link go down. -/
def State.fordCut (s : State) (f : Nat) : State :=
  let s1 := (List.range 6).foldl (fun t m => t.moduleDown f m) s
  let s2 := (List.range 40).foldl (fun t i => t.setStage (40 * f + i) sgOFF) s1
  [LinkName.pcie f, .eth (2 * f), .eth (2 * f + 1), .skeja (2 * f), .skeja (2 * f + 1)].foldl (fun t n => t.linkDown n) s2

/-- Table WEI-4: whether a trigger applies to a die. -/
def triggerApplies (d cause : Nat) : Bool :=
  if d < 8 then decide (1 ≤ cause) && decide (cause ≤ 5) else decide (d < 12) && (decide (cause = 1) || decide (cause = 2) || decide (cause = 6))

/-- QUARANTINE (R392, R393): the Riverbed cuts off die d (0–7 yards, 8–11 fords) on a trigger of Table WEI-4; a quarantine wakes the device
(R420). -/
def State.quarantine (s : State) (d cause : Nat) : State :=
  if !triggerApplies d cause || decide (s.dieState d = 1) || decide (s.dieState d = 3) then s
  else
    let s1 := ((s.fset (rDIE_STATE 0 d) fDIE_STATE_STATE 1).fset (rDIE_STATE 0 d) fDIE_STATE_CAUSE cause).finc (rDIE_STATE 0 d) fDIE_STATE_QCOUNT
    let s2 := if d < 8 then s1.yardCut d else s1.fordCut (d - 8)
    let s3 := (List.range 32).foldl (fun t n => if s.claimsOn n d then t.dieLost n else t) s2
    let s4 := s3.endJobs (fun j => match j.kind with | .test k i _ _ => decide (testDie k i = some d) | _ => false) ccABANDONED 4
    ((s4.irq (PageKind.dieCtl.addr 0) 0).logEvent 7 4 d cause).wake

/-! ### Retirement (R385–R387) -/

/-- A cause raised in whatever stall claims endpoint e, or an engine behind it. -/
def State.portFault (s : State) (e : Nat) : State :=
  if isFabricPort e then
    match s.portOwner e with
    | some n => s.raiseFault n cBUNDLE_RETIRED none
    | none => s
  else
    let owners := ((List.range 4).filterMap (fun i => (s.eddy (4 * (e - 0xC0) + i)).owner)).eraseDups
    owners.foldl (fun t n => t.raiseFault n cBUNDLE_RETIRED none) s

/-- Whether a configuration enables a slot of tributary bundle k of its shed (Table RTE-4). (DEDUCED, assumption 86) -/
def usesBundle (c : ShedCfg) (k : Nat) : Bool :=
  (if k % 4 < 2 then c.drivers else c.taps).any (fun x => decide (x.1 / 480 = k % 2))

/-- R386: the results of a tributary bundle's retirement. (DEDUCED, assumption 86) -/
def State.tribRetired (s : State) (k : Nat) : State :=
  let sh := bundleShed (k / 256) (k % 256)
  let s1 : State := { s with fab := { s.fab with snap := smDel k s.fab.snap } }
  let s2 := s1.setBit (rTRIB_STAT sh) (4 + k % 4) true
  let bg := s2.bgPlane sh
  let s3 := if decide (s2.planeState sh bg = plLOADED) && usesBundle (s2.plane sh bg).cfg k then s2.setPlaneState sh bg plINVALID else s2
  if decide (s3.planeState sh (s3.livePlane sh) = plLIVE) && usesBundle (s3.liveCfg sh) k then s3.shedFault sh cBUNDLE_RETIRED else s3

/-- A bundle reads RETIRED, and its entry waits to be fused. -/
def State.retireOne (s : State) (k : Nat) : State :=
  let s1 := (bundleHalves k).foldl (fun t h => t.setWeir k h Weir.reset) s
  ((s1.bundleShow k 4).repairNote 3 2 k 0xFF).logEvent 7 3 k 0

/-- R387: the fabric-port pair whose first bundle is 256y + 192 + 2fp is retired: agent traffic moves, or the yard is quarantined. (DEDUCED, assumption 174) -/
def State.agentMoves (s : State) (y fp : Nat) : State :=
  let retired := fun i => decide (s.bundleState (256 * y + 192 + 2 * i) = 4)
  if (List.range 4).all retired then s.quarantine y 5
  else if fp = 0 then s.logEvent 7 8 y 0 else s

/-- R385, R386: a bundle is retired, a Millrace bundle with its partner. -/
def State.retire (s : State) (k : Nat) : State :=
  if s.bundleState k = 4 then s
  else if bundleKind k = 0 then (s.retireOne k).tribRetired k
  else
    let s1 := if isSplit k then s.retireOne k else (s.retireOne k).retireOne (weirPartner k 0).1
    match bundleEp (k / 256) (k % 256) with
    | none => s1
    | some e =>
      let s2 := (s1.markUnreach e 1).portFault e
      if isSplit k || decide (8 ≤ k % 256 - 192) then s2 else s2.agentMoves (k / 256) ((k % 256 - 192) / 2)

/-- FORWARDED_CLOCK_LOSS (R385): the forwarded clocks whose bits are set fail; a bundle, or a half, with none left is retired. -/
def State.clocksLost (s : State) (k bits : Nat) : State :=
  let ok := Nat.land (s.fget (rWB_STAT k) fWB_STAT_CLK_OK) (3 - Nat.land bits 3)
  let s1 := s.fset (rWB_STAT k) fWB_STAT_CLK_OK ok
  if !s.bundleUp k then s
  else if (if isSplit k then decide (ok ≠ 3) else decide (ok = 0)) then s1.retire k else s1

/-! ### Spares, narrow mode and lane checks (R382–R385) -/

/-- A lane of a half fails: a spare in use gives up what it carries, and the entry waits to be fused. -/
def State.failLane (s : State) (origin k p : Nat) : State :=
  let s1 := s.setBit (rWB_LANE_FAIL k (p / 32)) (p % 32) true
  let s2 := if 64 ≤ p ∧ p < 68 then s1.fset (rWB_SPARE_MAP k) (spareFld (p - 64)) 0 else s1
  s2.repairNote 1 origin k p

/-- R381, step 3: failed data and control lanes take free healthy spares, lowest spare first and lowest failed lane first. -/
def State.mapSpares (s : State) (k h : Nat) : State :=
  ((s.unmapped k h).zip (s.freeSpares k h)).foldl (fun t x => t.fset (rWB_SPARE_MAP k) (spareFld (x.2 - 64)) (128 + x.1)) s

/-- Whether the bundle is a tributary bundle whose partner is retired (R385). -/
def State.partnerGone (s : State) (k : Nat) : Bool := decide (bundleKind k = 0) && decide (s.bundleState (weirPartner k 0).1 = 4)

/-- R384, R75: a half enters NARROW. -/
def State.enterNarrow (s : State) (k h : Nat) : State :=
  let s1 := s.setWeir k h { s.weir k h with narrow := true, send := 0, failRun := 0, shadow := none, emptyChecks := 0 }
  let s2 := (((s1.settleShadow k h).bundleShow k 3).repairNote 2 2 k 0xFF).logEvent 7 2 k 0
  if bundleKind k = 0 then s2.tribNarrow (k / 256) (k % 256) else s2

/-- The lanes `ps` of a running half fail: spares take them over, or the bundle enters NARROW or is retired. -/
def State.lanesFail (s : State) (k h : Nat) (ps : List Nat) : State :=
  let s1 := ps.foldl (fun t p => t.failLane 2 k p) s
  if s1.partnerGone k then s1.retire k
  else
    let s2 := s1.mapSpares k h
    let s3 := if s2.rd32 (rWB_SPARE_MAP k) = s1.rd32 (rWB_SPARE_MAP k) then s2 else (s2.irq (PageKind.wb.addr k) 1).logEvent 7 1 k 0
    if (s3.weir k h).narrow || !(s3.unmapped k h).isEmpty then
      if (s3.healthyLanes k h).length < narrowNeed k then s3.retire k
      else if (s3.weir k h).narrow then (s3.settleShadow k h).bundleShow k (s3.runState k)
      else s3.enterNarrow k h
    else (s3.settleShadow k h).bundleShow k (s3.runState k)

/-- R383: whether the conditions for a lane check hold: the expected MIL flit has failed too often, or more than ERR_LIMIT failures have come
within one ms (`errs`) and no spare shadows. -/
def State.wantsCheck (s : State) (k h errs : Nat) : Bool :=
  let w := s.weir k h
  decide ((if w.narrow then 32 else 8) ≤ w.failRun) ||
    (decide (max 1 (s.fget (rWB_CFG k) fWB_CFG_ERR_LIMIT) < errs) && w.shadow.isNone)

/-- LCHK_REQ (R383): the receiver asks for a lane check, and the transmitter sends 64 LCHK flits. -/
def State.lchkReq (s : State) (k h errs : Nat) : State :=
  if s.bundleUp k && !(s.weir k h).checking && s.wantsCheck k h errs then s.setWeir k h { s.weir k h with checking := true } else s

/-- LANE_CHECK_END (R383–R385): the check has found `errs` errors, as (lane, count). `persists` says that the condition which asked for the check
persists and the last check without a failed lane was within 1 ms. -/
def State.laneCheckEnd (s : State) (k h : Nat) (errs : List (Nat × Nat)) (persists : Bool) : State :=
  if !s.bundleUp k || !(s.weir k h).checking then s
  else
    let s1 := (s.setWeir k h { s.weir k h with checking := false, failRun := 0, send := 0 }).finc (rWB_ERR k) fWB_ERR_LCHK
    let s2 := if bundleKind k = 0 then
        (s1.setWeir k h { s1.weir k h with snap := ((s1.weir k h).snap + 64) % 2 ^ 16 }).tribLost (k / 256) (k % 256) 64
      else s1
    let ps := (weirData k h ++ weirSpares k h ++ weirControl k h).filter (fun p =>
      !s2.laneFailed k p && errs.any (fun x => decide (x.1 = p) && decide (4 ≤ x.2)))
    if !ps.isEmpty then (s2.setWeir k h { s2.weir k h with emptyChecks := 0 }).lanesFail k h ps
    else if (s2.weir k h).narrow then
      let n := if persists then (s2.weir k h).emptyChecks + 1 else 1
      if 2 ≤ n then s2.retire k else s2.setWeir k h { s2.weir k h with emptyChecks := n }
    else s2

/-- SHADOW_ADVANCE (R382): the shadowing spare moves to the next logical lane. (DEDUCED, assumption 173) -/
def State.shadowAdvance (s : State) (k h : Nat) : State :=
  let w := s.weir k h
  let n := if w.narrow then narrowNeed k else (weirLogical k h).length
  match w.shadow with
  | some l => if s.bundleUp k then (s.setWeir k h { w with shadow := some ((l + 1) % n) }).bundleShow k (s.bundleState k) else s
  | none => s

/-! ### Flits (R377–R380, R382) -/

/-- Table WEI-2: CRC-16 with polynomial 0x8BB7 over the lowest `n` bits of `v`, most significant first, from `c`. (DEDUCED, assumption 170) -/
def weirCrc : Nat → Nat → Nat → Nat
  | 0, _, c => c
  | n + 1, v, c =>
    let c1 := c * 2 % 2 ^ 16
    weirCrc n v (if (v.testBit n) = (c.testBit 15) then c1 else Nat.xor c1 0x8BB7)

/-- A flit as one number: data bits 511:0 above control bits 31:0, with its CRC from `seed`. (DEDUCED, assumption 170) -/
def weirFlit (data ctl seed : Nat) : Nat :=
  let v := data % 2 ^ 512 * 2 ^ 16 + ctl % 2 ^ 16
  v * 2 ^ 16 + weirCrc 528 v seed

/-- R378: whether a received flit passes its CRC with a seed. -/
def crcPasses (seed flit : Nat) : Bool := decide (weirCrc 528 (flit / 2 ^ 16) seed = flit % 2 ^ 16)

/-- R382: what the receiver makes of a flit that reads with the bits `err` changed, and with the bits `fix` changed once the shadow copy stands
in for the shadowed lane: the flit it accepts and whether the shadow copy repaired it, or none. (DESIGN CHOICE, assumption 169) -/
def State.weirAccept (s : State) (k h seed flit err : Nat) (fix : Option Nat) : Option (Nat × Bool) :=
  if crcPasses seed (Nat.xor flit err) then some (Nat.xor flit err, false)
  else match fix with
    | some m => if (s.weir k h).shadow.isSome && crcPasses seed (Nat.xor flit m) then some (Nat.xor flit m, true) else none
    | none => none

/-- R382: a flit was accepted with the shadow copy: the shadowed lane is failed and the spare takes it over. (DESIGN CHOICE, assumption 171) -/
def State.shadowFix (s : State) (k h : Nat) : State :=
  match (s.weir k h).shadow with
  | some l => (s.finc (rWB_ERR k) fWB_ERR_SHADOW_FIX).lanesFail k h [s.physLane k h l]
  | none => s

/-- WEIR_MIL_FLIT (R380): the transmitter sends the next of the flits it holds, or, when it has sent them all and holds fewer than 64, the new flit
(`data`, SB `sb`); it arrives with the bits `err` changed. The expected flit is delivered and acknowledged; any other is discarded and a NAK
makes the transmitter resend. (DESIGN CHOICE, assumptions 169, 172) -/
def State.weirMilFlit (s : State) (k h data sb err : Nat) (fix : Option Nat) : State :=
  let w0 := s.weir k h
  let fresh := decide (w0.retry.length ≤ w0.send)
  if bundleKind k = 0 || !s.bundleUp k || w0.checking || (fresh && decide (64 ≤ w0.retry.length)) then s
  else
    let w := if fresh then { w0 with retry := w0.retry ++ [(data % 2 ^ 512, sb % 2 ^ 7)] } else w0
    let x := listGet (0, 0) w.retry w.send
    let back := s.weir (weirPartner k h).1 (weirPartner k h).2
    let ctl := 2 ^ 15 + x.2 * 2 ^ 7 + 2 ^ 6 + (back.rxNext + 2 ^ 16 - 1) % 2 ^ 6
    let flit := weirFlit x.1 ctl ((w.rxNext + w.send) % 2 ^ 16)
    let s1 := s.setWeir k h w
    let bad := fun (t : State) => t.finc (rWB_ERR k) fWB_ERR_CRC_FAIL
    match s.weirAccept k h w.rxNext flit err fix with
    | some (_, fixed) =>
      let s2 := s1.setWeir k h { w with rxNext := (w.rxNext + 1) % 2 ^ 16, retry := w.retry.tail, send := w.send, failRun := 0 }
      if fixed then (bad s2).shadowFix k h else s2
    | none =>
      bad (s1.setWeir k h { w with send := 0, failRun := if w.send = 0 then w.failRun + 1 else w.failRun })

/-- WEIR_TRIB_FLIT (R378, R74): a TRIB flit carries the snapshot of its bundle's slots, `skip` flits before it having gone missing; it arrives with the
bits `err` changed. A good flit is presented; discarded and missing ones are counted. -/
def State.weirTribFlit (s : State) (k skip err : Nat) (fix : Option Nat) : State :=
  let w := s.weir k 0
  if bundleKind k ≠ 0 ∨ ¬ s.bundleUp k ∨ w.checking then s
  else
    let y := k / 256
    let b := k % 256
    let snap := (w.snap + skip) % 2 ^ 16
    let flit := weirFlit (s.snapshotOf (bundleShed y b) (b % 4) + snap * 2 ^ 480) (2 ^ 14) 0xFFFF
    match s.weirAccept k 0 0xFFFF flit err fix with
    | some (f, fixed) =>
      let got := f / 2 ^ 32
      let lost := (got / 2 ^ 480 + 2 ^ 16 - w.snap) % 2 ^ 16
      let s1 := s.setWeir k 0 { w with snap := (snap + 1) % 2 ^ 16 }
      let s2 : State := { s1 with fab := { s1.fab with snap := smSet 0 s1.fab.snap k (got % 2 ^ 480) } }
      let s3 := if lost = 0 then s2 else s2.tribLost y b lost
      if fixed then (s3.finc (rWB_ERR k) fWB_ERR_CRC_FAIL).shadowFix k 0 else s3
    | none =>
      ((s.setWeir k 0 { w with snap := (snap + 1) % 2 ^ 16 }).finc (rWB_ERR k) fWB_ERR_CRC_FAIL).tribLost y b (skip + 1)

/-! ### Training (R381) -/

/-- R381: what training makes of a half whose lanes' failures are known: FULL (2), NARROW (3) or RETIRED (4). -/
def State.trainedState (s : State) (k h : Nat) : Nat :=
  if (s.unmapped k h).isEmpty then 2 else if narrowNeed k ≤ (s.healthyLanes k h).length then 3 else 4

/-- R381: bundle k trains: the lanes that show errors or are fused fail, and spares are mapped; it enters FULL, NARROW or RETIRED. (DEDUCED, assumption 175) -/
def State.trainBundle (s : State) (k : Nat) (env : TrainEnv) : State :=
  let fused := fun kind => (s.d2d.repair.filter (fun e => decide (e.kind = kind) && decide (e.index = k))).map (fun e => e.lane)
  let errs := (env.lanes.filter (fun x => decide (x.1 = k) && decide (x.2 < 70))).map (fun x => x.2)
  let lost := (env.clocks.filter (fun x => x.1 = k)).foldl (fun n x => Nat.lor n x.2) 0
  let clk := 3 - Nat.land (Nat.lor lost ((if (fused 1).contains 70 then 1 else 0) + (if (fused 1).contains 71 then 2 else 0))) 3
  let s1 := (List.range 3).foldl (fun t w => t.wr32 (rWB_LANE_FAIL k w) 0) (s.wr32 (rWB_SPARE_MAP k) 0)
  let s2 := (fused 1 ++ errs).foldl (fun t p => t.failLane 1 k p) s1
  let s3 := (bundleHalves k).foldl (fun t h => (t.setWeir k h Weir.reset).mapSpares k h) s2
  let noClk := if isSplit k then decide (clk ≠ 3) else decide (clk = 0)
  let worst := (bundleHalves k).foldl (fun m h => max m (s3.trainedState k h)) 2
  let st := if noClk ∨ worst = 4 ∨ !(fused 3).isEmpty then 4 else if worst = 3 ∨ !(fused 2).isEmpty then 3 else 2
  let s4 := s3.fset (rWB_STAT k) fWB_STAT_CLK_OK clk
  if st = 4 then (s4.bundleShow k 4).repairNote 3 1 k 0xFF
  else
    let s5 := (bundleHalves k).foldl (fun t h =>
      (t.setWeir k h { t.weir k h with narrow := decide (t.trainedState k h = 3) || !(fused 2).isEmpty }).settleShadow k h) s4
    let s6 := s5.bundleShow k st
    if st = 3 then
      let s7 := s6.repairNote 2 1 k 0xFF
      if bundleKind k = 0 then s7.tribNarrow (k / 256) (k % 256) else s7
    else s6

/-- R381, R385: every bundle of a yard trains; a Millrace bundle whose partner is RETIRED is retired with it; the ports of bundles that are neither
FULL nor NARROW are unreachable, and the others are not. -/
def State.trainYard (s : State) (y : Nat) (env : TrainEnv) : State :=
  let s1 := (List.range 256).foldl (fun t b => t.trainBundle (256 * y + b) env) s
  let s2 := (List.range 24).foldl (fun t fp =>
    let k := 256 * y + 192 + 2 * fp
    if t.bundleState k = 4 ∨ t.bundleState (k + 1) = 4 then
      ((t.bundleShow k 4).repairNote 3 1 k 0xFF).bundleShow (k + 1) 4 |>.repairNote 3 1 (k + 1) 0xFF
    else t) s1
  let s3 := (List.range 192).foldl (fun t b => if t.bundleState (256 * y + b) = 4 then t.tribRetired (256 * y + b) else t) s2
  (yardEps y).foldl (fun t e =>
    if (epBundles e).all (fun x => t.bundleUp (256 * x.1 + x.2)) then t.clearUnreach e 1 else t.markUnreach e 1) s3

/-! ### UCIe modules (R389, R390) -/

/-- A module trains at a rate of `rate` GT/s. -/
def State.moduleUp (s : State) (f m rate : Nat) : State :=
  ((s.fset (rUCIE_MOD f m) fUCIE_MOD_UP 1).fset (rUCIE_MOD f m) fUCIE_MOD_RATE rate).irq (PageKind.ucie.addr f) 0

/-- R390: a module other than module 0 is lost: its lanes enter OFF, and its entry waits to be fused. -/
def State.moduleFails (s : State) (origin f m : Nat) : State :=
  let s1 := (moduleLanes f m).foldl (fun t l => t.setStage l sgOFF) (s.moduleDown f m)
  (s1.repairNote 5 origin (8 * f + m) 0xFF).logEvent 7 6 (8 * f + m) 0

/-- UCIE_MODULE_FAIL (R390). -/
def State.ucieModuleFail (s : State) (f m : Nat) : State :=
  if s.dieState (8 + f) ≠ 0 ∨ ¬ s.flag (rUCIE_MOD f m) fUCIE_MOD_UP then s
  else if m = 0 then s.quarantine (8 + f) 6 else s.moduleFails 2 f m

/-- R390: the modules of an admitted ford train. -/
def State.trainFord (s : State) (f : Nat) (env : TrainEnv) : State :=
  (List.range 6).foldl (fun t m =>
    if env.modules.contains (6 * f + m) || !(env.rate = 16 || env.rate = 24 || env.rate = 32) then t.moduleFails 1 f m else t.moduleUp f m env.rate) s

/-! ### Re-admission (R394) -/

/-- R21: PKG_DIE_INFO_d of a die that answered identification. (DESIGN CHOICE, assumption 177) -/
def dieInfo (d supplier rev : Nat) : Nat :=
  let kind := if d < 8 then 0 else if d < 12 then 1 else if d < 16 then 2 else 3
  let index := if d < 8 then d else if d < 12 then d - 8 else if d < 16 then d - 12 else 0
  2 ^ 31 + kind * 2 ^ 28 + supplier % 2 ^ 8 * 2 ^ 20 + rev % 2 ^ 8 * 2 ^ 12 + index * 2 ^ 8

/-- The pages that a die holds are back at their reset values (R416). -/
def State.resetHolder (s : State) (h : Holder) : State := { s with regs := smClear (fun a => decide (holderOf a = h)) s.regs }

/-- R394, step 3 of Table WEI-5: the logic of a yard and the pages it holds are reset. Claims stay held, planes are BLANK and gates closed. (DESIGN CHOICE, assumption 176) -/
def State.resetYard (s : State) (y : Nat) : State :=
  let owners := (List.range 48).map (fun i => (48 * y + i, s.shedOwner (48 * y + i)))
  let s1 := s.resetHolder (.yard y)
  let s2 := owners.foldl (fun t x => t.wr32 (rPLANE_STAT x.1) (2 ^ 16 + (match x.2 with | some n => 2 ^ 31 + n * 2 ^ 26 | none => 0))) s1
  let ofYard := fun sh => decide (sh / 48 = y)
  let f := s2.fab
  let s3 : State := { s2 with fab := { f with
      planes := smClear (fun k => ofYard (k / 2)) f.planes
      ffs := smClear (fun k => ofYard (k / 8192)) f.ffs
      bms := smClear (fun k => ofYard (k / 64)) f.bms
      ponds := smClear (fun k => ofYard (k / 64)) f.ponds
      fmbs := smClear (fun k => ofYard (k / 64)) f.fmbs
      drive := smClear ofYard f.drive
      land := smClear ofYard f.land
      upsets := smClear (fun k => ofYard (k / 64 / 2304 / 2)) f.upsets
      liveFlip := smClear ofYard f.liveFlip
      scrub := smDel y f.scrub
      memUncorr := smClear ofYard f.memUncorr } }
  let s4 := (List.range 48).foldl (fun t i => (t.clearDrv (48 * y + i) 0).clearDrv (48 * y + i) 1) s3
  let s5 : State := { s4 with
      eddies := smMap Eddy.reset (fun m e => if m / 64 = y then { Eddy.reset with owner := e.owner } else e) s4.eddies
      pins := smClear (fun p => decide (p / 48 = y)) s4.pins }
  s5.setClk { s5.clk with clksel := smClear ofYard s5.clk.clksel, forced := smClear ofYard s5.clk.forced,
                          drst := smClear ofYard s5.clk.drst, stopped := smDel y s5.clk.stopped }

/-- R416: the lanes of a ford and their pages are reset. -/
def State.resetFord (s : State) (f : Nat) : State :=
  let s1 := s.resetHolder (.ford f)
  { s1 with lanes := smClear (fun l => decide (l / 40 = f)) s1.lanes }

/-- R390: a ford that fails admission reads PRESENT = 0, and Tolmor logs its supplier code. -/
def State.fordRefused (s : State) (f supplier : Nat) : State :=
  ((s.fset (rDIE_STATE 0 (8 + f)) fDIE_STATE_STATE 3).wr32 (rPKG_DIE_INFO 0 (8 + f)) 0).logEvent 7 6 (8 * f) supplier

/-- R394, Table WEI-5, for a yard. -/
def State.readmitYard (s : State) (y supplier rev : Nat) (env : TrainEnv) : State :=
  let s1 := ((s.resetYard y).trainYard y env).fuseAll
  let s2 := s1.wr32 (rPKG_DIE_INFO 0 y) (dieInfo y supplier rev)
  (yardEps y).foldl (fun t e => t.clearUnreach e 0) s2

/-- R394, Table WEI-5, for a ford: its lanes begin bring-up at CAL. -/
def State.readmitFord (s : State) (f supplier rev : Nat) (env : TrainEnv) : State :=
  let s1 := ((s.resetFord f).trainFord f env).fuseAll
  let s2 := s1.wr32 (rPKG_DIE_INFO 0 (8 + f)) (dieInfo (8 + f) supplier rev)
  (List.range 6).foldl (fun t m =>
    if t.flag (rUCIE_MOD f m) fUCIE_MOD_UP then (moduleLanes f m).foldl (fun u l => u.setStage l sgCAL) t else t) s2

/-- READMISSION (R394): Tolmor re-admits a quarantined die whose triggers have cleared, and whose identification gives SUPPLIER and DIE_REV; `admitted`
says that a ford meets the first two conditions of R390. (DESIGN CHOICE, assumption 176) -/
def State.readmit (s : State) (d supplier rev : Nat) (admitted : Bool) (env : TrainEnv) : State :=
  if s.dead || decide (s.dieState d ≠ 1) || decide (12 ≤ d) then s
  else if decide (8 ≤ d) && !admitted then s.fordRefused (d - 8) supplier
  else if decide (8 ≤ d) && env.modules.contains (6 * (d - 8)) then
    (s.fset (rDIE_STATE 0 d) fDIE_STATE_STATE 2).quarantine d 6
  else
    let s1 := s.fset (rDIE_STATE 0 d) fDIE_STATE_STATE 2
    let s2 := if d < 8 then s1.readmitYard d supplier rev env else s1.readmitFord (d - 8) supplier rev env
    ((s2.fset (rDIE_STATE 0 d) fDIE_STATE_STATE 0).irq (PageKind.dieCtl.addr 0) 1).logEvent 7 5 d 0

/-! ### Boundary scan (R396, R397) -/

/-- A TAP in chain order. -/
def State.tap (s : State) (t : Nat) : Tap := smGet Tap.reset s.d2d.taps t

/-- A TAP replaced. -/
def State.setTap (s : State) (t : Nat) (x : Tap) : State := s.setD2d { s.d2d with taps := smSet Tap.reset s.d2d.taps t x }

/-- R396: IDCODE of a TAP; the die's revision is its DIE_REV. -/
def State.idcode (s : State) (t : Nat) : Nat :=
  let rev := if t = 0 then s.fget (rPKG_DIE_INFO 0 16) fPKG_DIE_INFO_DIE_REV else s.fget (rPKG_DIE_INFO 0 (t - 1)) fPKG_DIE_INFO_DIE_REV
  let part := if t = 0 then 0x9610 else if t < 9 then 0x9600 + (t - 1) else 0x9608 + (t - 9)
  rev % 16 * 2 ^ 28 + part * 2 ^ 12 + 0x5A7 * 2 + 1

/-- R396: whether the die of a TAP answers; otherwise the Riverbed stands in for it. -/
def State.tapPresent (s : State) (t : Nat) : Bool := decide (t = 0) || (s.diePresent (t - 1) && decide (s.dieState (t - 1) = 0))

/-- R397: whether a stall that is not FREE claims pins or lanes of a TAP's die. -/
def State.tapHeld (s : State) (t : Nat) : Bool :=
  (List.range 32).any (fun n =>
    decide (s.stallState n ≠ stFREE) &&
      (if t = 0 then false else if t < 9 then (s.stall n).pins.any (fun p => p / 48 = t - 1) else (s.stall n).lanes.any (fun l => l / 40 = t - 9)))

/-- R396, Table WEI-7: a TAP takes an instruction; one that it lacks acts as BYPASS. -/
def State.tapInstr (s : State) (t : Nat) (ir : TapIr) : State :=
  if 12 < t then s
  else
    let fordOnly := decide (ir = .extestPulse) || decide (ir = .extestTrain)
    let lacks := (fordOnly && decide (t < 9)) || (decide (ir = .mbox) && decide (t ≠ 0)) || !s.tapPresent t
    s.setTap t { s.tap t with ir := if lacks then .bypass else ir, refused := false }

/-- R397: EXTEST, EXTEST_PULSE, EXTEST_TRAIN, HIGHZ and CLAMP act only while no stall holds pins or lanes of the die; otherwise the TAP executes BYPASS
and its next instruction-register capture has bit 2 set. -/
def State.tapDrive (s : State) (t : Nat) (ir : TapIr) : State :=
  if 12 < t then s
  else if s.tapHeld t then s.setTap t { s.tap t with ir := .bypass, refused := true }
  else s.tapInstr t ir

/-- SAMPLE/PRELOAD, with the value shifted into the boundary register. (DEDUCED, assumption 178) -/
def State.tapSample (s : State) (t v : Nat) : State :=
  let s1 := s.tapInstr t .sample
  if 12 < t ∨ ¬ s.tapPresent t then s1 else s1.setTap t { s1.tap t with bsr := v }

/-- R397: the instruction-register capture of a TAP. -/
def State.tapCapture (s : State) (t : Nat) : Nat := 1 + b2n (s.tap t).refused * 4

/-- TEST_LOGIC_RESET (R442): every TAP selects IDCODE, and the JTAG view's grant ends. -/
def State.testLogicReset (s : State) : State := (s.setD2d { s.d2d with taps := [] }).endGrant 5

end Sys2Proof.Machine
end

