-- ==== Sys2Proof/Machine/SelfTest.lean ====
section
/-! DEFINITION. Self-test and calibration (R281–R285, Table TMC-9). -/

namespace Sys2Proof.Machine

/-- Table TMC-9: whether KIND and INDEX name a target of an opcode. -/
def testTargetOk (op kind index : Nat) : Bool :=
  if op = 0x60 then
    (kind = 1 && index < 384) || (kind = 2 && index < 512) || (kind = 3 && index < 64) || (kind = 4 && index < 66) || (kind = 5 && index < 2048) ||
      (kind = 6 && index = 0)
  else (kind = 0x11 && index < 160) || (kind = 0x12 && index < 64) || (kind = 0x13 && index < 64)

/-- Whether a job is a test or calibration of a target that has not ended, and whether it runs. -/
def Job.tests (j : Job) (kind index : Nat) (running : Bool) : Bool :=
  match j.kind with
  | .test k i _ r => decide (k = kind) && decide (i = index) && decide (r = running) && j.result.isNone
  | _ => false

/-- Whether a test or calibration runs on a target. -/
def State.testRuns (s : State) (kind index : Nat) : Bool := s.tol.jobs.any (fun j => j.tests kind index true)

/-- R281: the queued requests of the device. -/
def State.testsQueued (s : State) : Nat :=
  (s.tol.jobs.filter (fun j => match j.kind with | .test _ _ _ r => !r && j.result.isNone | _ => false)).length

/-- The stalls that claim what weir bundle k carries (Table PKG-3). -/
def State.bundleUsers (s : State) (k : Nat) : List Nat :=
  if bundleKind k = 0 then (s.shedOwner (bundleShed (k / 256) (k % 256))).toList
  else match bundleEp (k / 256) (k % 256) with
    | none => []
    | some e =>
      if isFabricPort e then (s.portOwner e).toList
      else (List.range 4).filterMap (fun i => (s.eddy (4 * (e - 0xC0) + i)).owner)

/-- Whether a spine clock of a shed uses an output of PLL i of its yard as its input. -/
def State.shedUsesPll (s : State) (sh i : Nat) : Bool :=
  (List.range 16).any (fun k => match s.inputInUse sh k with | some c => decide (c / 4 = i) | none => false)

/-- The stalls with a live shed whose spine clocks use PLL i of yard y. -/
def State.pllUsers (s : State) (y i : Nat) : List Nat :=
  (((List.range 48).map (fun k => 48 * y + k)).filter (fun sh => s.shedUsesPll sh i)).filterMap (fun sh => s.shedOwner sh)

/-- The stalls whose regions lie on a memory port; none where a region belongs to a host or to the device. -/
def State.memUsers (s : State) (port : Nat) : Option (List Nat) :=
  let used := (List.range 32).filter (fun i => s.rgnState port i ≠ 0)
  if used.all (fun i => decide (s.fget (rRGN_CFG port i) fRGN_CFG_OWNER_KIND = 2)) then
    some (used.map (fun i => s.fget (rRGN_CFG port i) fRGN_CFG_OWNER_ID))
  else none

/-- R283: the stalls that use a target, or none where something else uses it. -/
def State.testUsers (s : State) (kind index : Nat) : Option (List Nat) :=
  if kind = 1 then some (s.shedOwner index).toList
  else if kind = 2 then some (s.eddy index).owner.toList
  else if kind = 3 ∨ kind = 4 ∨ kind = 0x12 then s.memUsers index
  else if kind = 5 then some (s.bundleUsers index)
  else if kind = 6 then some []
  else if kind = 0x11 then
    (if s.laneProto index = prPCIE ∨ s.laneProto index = prETH ∨ s.laneProto index = prSKEJA then none else some (s.laneOwner index).toList)
  else some (s.pllUsers (index / 8) (index % 8))

/-- R283: whether a target is a lane or port of host port b. -/
def State.testOfPort (s : State) (b kind index : Nat) : Bool :=
  (decide (kind = 0x11) && decide (index / 40 = b) && decide (s.laneProto index = prPCIE)) || (decide (kind = 4) && decide (index = 64 + b))

/-- R283: whether a mailbox without class A may force a target. (DEDUCED, assumption 106) -/
def State.mayForce (s : State) (b kind index : Nat) : Bool :=
  decide (b < 4) && (s.testOfPort b kind index ||
    match s.testUsers kind index with
    | some l => l.all (fun n => decide ((s.stall n).control = some b))
    | none => false)

/-- Table TMC-9: whether FORCE is refused, the target being claimed. (DEDUCED, assumption 106) -/
def State.forceRefused (s : State) (kind index : Nat) : Bool :=
  (decide (kind = 1) && (s.shedOwner index).isSome) || (decide (kind = 2) && (s.eddy index).owner.isSome)

/-- Table TMC-9: the quiet window, as far as the device's state tells; how long a port has had no request is for the command to say. -/
def State.testQuiet (s : State) (kind index : Nat) : Bool :=
  if kind = 1 then
    (s.shedOwner index).isNone && decide (s.planeState index 0 = plBLANK) && decide (s.planeState index 1 = plBLANK)
  else if kind = 2 then decide ((s.eddy index).run = .off)
  else if kind = 3 ∨ kind = 4 ∨ kind = 0x12 then (s.ep (memEp index)).reqOut.isEmpty
  else if kind = 5 then (s.bundleUsers index).isEmpty
  else if kind = 0x11 then s.laneIdle index
  else if kind = 0x13 then (s.pllUsers (index / 8) (index % 8)).all (fun n => decide (s.stallState n ≠ stLIVE))
  else true

/-- The port whose link uses a lane, if its protocol has a link. -/
def State.laneLink (s : State) (l : Nat) : Option LinkName :=
  let f := l / 40
  let i := s.laneInst l
  if s.laneProto l = prPCIE then some (.pcie f)
  else if s.laneProto l = prETH then some (.eth (2 * f + i))
  else if s.laneProto l = prSKEJA then some (.skeja (2 * f + i))
  else none

/-- Table TMC-9: a forced margin test of bundle k runs it narrow; its shed takes its LOST_ACT. (DEDUCED, assumption 107) -/
def State.marginNarrow (s : State) (k : Nat) : State :=
  if s.bundleState k ≠ 2 then s
  else
    let s1 := ((bundleHalves k).foldl (fun t h => t.setWeir k h { t.weir k h with narrow := true }) s).bundleShow k 3
    if bundleKind k = 0 then s1.tribNarrow (k / 256) (k % 256) else s1

/-- The margin test is over: a bundle that it made narrow is FULL again. (DEDUCED, assumption 107) -/
def State.marginWide (s : State) (k : Nat) : State :=
  if s.bundleState k ≠ 3 ∨ s.recorded 2 k 0xFF then s
  else
    let s1 := ((bundleHalves k).foldl (fun t h => t.setWeir k h { t.weir k h with narrow := false }) s).bundleShow k 2
    if bundleKind k = 0 then s1.setBit (rTRIB_STAT (bundleShed (k / 256) (k % 256))) (k % 4) false else s1

/-- A target is taken by its test or calibration, with the disruption that Table TMC-9 gives it. (DEDUCED, assumption 108) -/
def State.testEffect (s : State) (kind index : Nat) (forced : Bool) : State :=
  if kind = 5 then (if forced then s.marginNarrow index else s)
  else if kind = 0x11 then
    let s1 := match s.laneLink index with | some l => if s.laneIdle index then s else s.linkDown l | none => s
    s1.setStage index sgCAL
  else if kind = 0x13 then
    let y := index / 8
    let s1 := (s.pllUsers y (index % 8)).eraseDups.foldl (fun t n => t.raiseFault n cCLOCK_LOST none) s
    s1.setLock y (index % 8) false
  else s

/-- The requests of a target run. -/
def State.testsRun (s : State) (kind index : Nat) : State :=
  s.setTol { s.tol with jobs := s.tol.jobs.map (fun j =>
    match j.kind with
    | .test k i lim _ => if k = kind ∧ i = index ∧ j.result.isNone then { j with kind := .test k i lim true } else j
    | _ => j) }

/-- TEST_RUN_START (R281): the requests queued for a target run, its quiet window being met. -/
def State.testRunStart (s : State) (kind index : Nat) : State :=
  if s.dead || !s.tol.jobs.any (fun j => j.tests kind index false) || s.testRuns kind index || !s.testQuiet kind index then s
  else (s.testsRun kind index).testEffect kind index false

/-- TEST_END (R281): the run on a target finishes with a verdict and DATA. A lane's verdict is its calibration's (R331); an HBM port whose retraining
fails becomes unreachable (R284). (DESIGN CHOICE, assumption 105) -/
def State.testEnd (s : State) (kind index : Nat) (ok : Bool) (data : Nat) : State :=
  if !s.testRuns kind index || (decide (kind = 0x11) && decide (s.stage index = sgCAL)) then s
  else
    let good := if kind = 0x11 then !s.flag (rLANE_STAT index) fLANE_STAT_CAL_FAIL else ok
    let s1 := s.endJobs (fun j => j.tests kind index true) (if good then ccDONE else ccTEST_FAILED) data
    if kind = 5 then s1.marginWide index
    else if kind = 0x12 ∧ ¬ good then s1.hbmIfError index
    else if kind = 0x13 ∧ good then s1.pllLock (index / 8) (index % 8)
    else s1

/-- EXPIRED (R281): QUEUE_LIMIT of a queued request has passed. -/
def State.testExpired (s : State) (box ticket : Nat) : State :=
  if s.dead then s
  else s.endJobs (fun j => decide (j.box = box) && decide (j.ticket = ticket) &&
    (match j.kind with | .test _ _ lim r => !r && decide (lim ≠ 0) | _ => false)) ccEXPIRED 0

/-- Table TMC-9: whether a memory port takes no request: its known-answer test or its retraining runs. -/
def State.portTested (s : State) (port : Nat) : Bool := s.testRuns 4 port || s.testRuns 0x12 port

/-- R285: whether a test or calibration runs on a resource of a claim list. -/
def State.claimTested (s : State) (es : List ManEntry) : Bool :=
  es.any (fun e =>
    match e with
    | .shed i => s.testRuns 1 i || (List.range 4).any (fun b => s.testRuns 5 (256 * (i / 48) + 4 * (i % 48) + b))
    | .engine n _ _ _ _ _ => s.testRuns 2 n || (epBundles (0xC0 + n / 4)).any (fun x => s.testRuns 5 (256 * x.1 + x.2))
    | .fabricPort p _ _ _ => (epBundles p).any (fun x => s.testRuns 5 (256 * x.1 + x.2))
    | .region p _ _ _ => s.testRuns 3 p || s.testRuns 4 p || s.testRuns 0x12 p
    | .lane l => s.testRuns 0x11 l
    | .pin _ => false
    | .reach _ => false)

end Sys2Proof.Machine
end

