-- ==== Sys2Proof/Machine/Tolmor.lean ====
section
/-! DEFINITION. Tolmor's commands (R264–R286, Table TMC-8): taking a command, its locations, its checks and its effect, and final completions. -/

namespace Sys2Proof.Machine

/-- A command as Tolmor takes it: its mailbox, SEQ, OPCODE, FORCE and argument words. -/
structure CmdIn where
  box : Nat
  seq : Nat
  op : Nat
  force : Bool
  args : List Nat
  deriving DecidableEq, Repr

/-- Argument word k, counted from command word 2. -/
def CmdIn.arg (c : CmdIn) (k : Nat) : Nat := listGet 0 c.args k

/-- Argument words k and k + 1 as a 64-bit number. -/
def CmdIn.arg64 (c : CmdIn) (k : Nat) : Nat := c.arg k + c.arg (k + 1) * 2 ^ 32

/-- What a command comes to at its take: it completes at once with CODE and DATA, or it is deferred, with what it waits for and, where its
completion is already decided, CODE and DATA. -/
inductive CmdEnd where
  | now (code data : Nat) (s : State)
  | later (kind : JobKind) (result : Option (Nat × Nat)) (s : State)

/-! ### The format of commands (R267, Table TMC-8) -/

/-- A whole argument word. -/
def wAny : Nat := 2 ^ 32 - 1

/-- The bits that a location's four words name (Table TMC-7). -/
def wLoc : List Nat := [0x007FFF03, wAny, wAny, wAny]

/-- Table TMC-8: the bits that the argument words of an opcode name, or none where it is not listed. -/
def cmdMasks (op : Nat) : Option (List Nat) :=
  match op with
  | 0x01 => some wLoc
  | 0x02 => some ([wAny, wAny] ++ wLoc)
  | 0x03 => some wLoc
  | 0x04 => some (wLoc ++ wLoc)
  | 0x05 => some wLoc
  | 0x10 => some ([0x7F, wAny] ++ List.replicate 26 wAny)
  | 0x11 => some [0x7F]
  | 0x12 => some wLoc
  | 0x13 => some wLoc
  | 0x14 => some [wAny, 0x7F]
  | 0x20 => some (wAny :: wLoc)
  | 0x21 => some ([wAny, 0x17F7F] ++ wLoc)
  | 0x22 => some [wAny, 1, wAny, wAny]
  | 0x23 => some [wAny]
  | 0x24 => some [wAny]
  | 0x25 => some [wAny]
  | 0x26 => some [wAny, 0x7F]
  | 0x30 => some [wAny, wAny, 0x77F]
  | 0x31 => some [wAny, wAny]
  | 0x32 => some [wAny, wAny, 0x7F]
  | 0x40 => some [wAny]
  | 0x41 => some [wAny, wAny, wAny, wAny]
  | 0x42 => some [wAny]
  | 0x43 => some ([wAny, wAny] ++ wLoc)
  | 0x44 => some wLoc
  | 0x50 => some wLoc
  | 0x51 => some [wAny, wAny]
  | 0x60 => some [wAny, wAny, wAny]
  | 0x61 => some [wAny, wAny, wAny]
  | 0x62 => some [wAny]
  | _ => none

/-- Table TMC-8: where the locations of an opcode begin among its arguments. -/
def cmdLocs (op : Nat) : List Nat :=
  match op with
  | 0x01 => [0]
  | 0x02 => [2]
  | 0x03 => [0]
  | 0x04 => [0, 4]
  | 0x05 => [0]
  | 0x12 => [0]
  | 0x13 => [0]
  | 0x20 => [1]
  | 0x21 => [2]
  | 0x43 => [2]
  | 0x44 => [0]
  | 0x50 => [0]
  | _ => []

/-- Whether argument 0 of an opcode is a STALL number. -/
def namesStall (op : Nat) : Bool := (decide (0x20 ≤ op) && decide (op ≤ 0x26)) || decide (op = 0x43)

/-- The location at argument k. -/
def CmdIn.loc (c : CmdIn) (k : Nat) : Option Loc := parseLoc (c.arg k) (c.arg (k + 1)) (c.arg (k + 2)) (c.arg (k + 3))

/-- Whether the locations of a command are used: GET_INFO with LENGTH 0 uses none. (DEDUCED, assumption 95) -/
def CmdIn.usesLocs (c : CmdIn) : Bool := !(decide (c.op = 0x01) && decide (c.arg 1 = 0))

/-- R267, R274: whether a command is well formed: ARG_WORDS is its command's count, no reserved bit is set, a STALL argument is 0–31, and the
mailbox may name its locations. (DEDUCED, assumption 89) -/
def CmdIn.formed (c : CmdIn) (w0 w1 : Nat) (masks : List Nat) : Bool :=
  decide (w0 / 2 ^ 9 % 2 ^ 7 = 0) && decide (w1 = masks.length) &&
  (List.range masks.length).all (fun k => decide (Nat.lor (c.arg k) (listGet 0 masks k) = listGet 0 masks k)) &&
  (!namesStall c.op || decide (c.arg 0 < 32)) &&
  (!c.usesLocs || (cmdLocs c.op).all (fun k => match c.loc k with | some l => locAllowed c.box l.kind | none => false))

/-- Table TMC-8: whether a command defers where it is not refused. -/
def CmdIn.defers (c : CmdIn) : Bool :=
  if c.op = 0x01 then c.usesLocs
  else !(List.contains [0x10, 0x14, 0x23, 0x24, 0x31, 0x40, 0x41, 0x42, 0x62] c.op)

/-! ### Authority (R264, R265, Table TMC-3) -/

/-- Class A: the admin mailbox, and MBOX_JTAG under a grant of LEVEL 3 (Table DBG-1). -/
def State.classA (s : State) (b : Nat) : Bool :=
  decide (b = s.fget (rTOL_INFO 0) fTOL_INFO_ADMIN) || (decide (b = 5) && decide (s.grantLevel 5 = 3))

/-- Class H. -/
def State.classH (s : State) (b : Nat) : Bool := decide (b < 4) || s.classA b

/-- Class C for a stall. -/
def State.classC (s : State) (b n : Nat) : Bool :=
  decide ((s.stall n).control = some b) || decide (b = s.fget (rTOL_INFO 0) fTOL_INFO_ADMIN)

/-- Class K for a key slot. -/
def State.classK (s : State) (b k : Nat) : Bool :=
  decide (smGet none s.tol.keyBox k = some b) || decide (b = s.fget (rTOL_INFO 0) fTOL_INFO_ADMIN)

/-- R264: whether a command's mailbox holds its class. -/
def State.authorised (s : State) (c : CmdIn) : Bool :=
  let b := c.box
  match c.op with
  | 0x10 => s.classH b
  | 0x11 => s.classK b (c.arg 0)
  | 0x12 => s.classA b
  | 0x13 => s.classA b
  | 0x14 => s.classA b
  | 0x20 => s.classH b
  | 0x21 => s.classC b (c.arg 0)
  | 0x22 => s.classC b (c.arg 0)
  | 0x23 => s.classC b (c.arg 0)
  | 0x24 => s.classC b (c.arg 0)
  | 0x25 => s.classC b (c.arg 0)
  | 0x26 => s.classC b (c.arg 0)
  | 0x30 => s.classH b
  | 0x31 => s.classH b
  | 0x32 => s.classH b
  | 0x40 => s.classA b
  | 0x41 => if 0x100 ≤ c.arg 0 ∧ c.arg 0 < 0x180 then s.classC b ((c.arg 0 - 0x100) / 4) else decide (64 ≤ c.arg 0) || s.classA b
  | 0x42 => if 0x100 ≤ c.arg 0 ∧ c.arg 0 < 0x180 then s.classC b ((c.arg 0 - 0x100) / 4) else decide (64 ≤ c.arg 0) || s.classA b
  | 0x43 => s.classC b (c.arg 0)
  | 0x44 => s.classA b
  | 0x50 => s.classA b
  | 0x51 => s.classA b
  | _ => true

/-! ### Locations (R274) -/

/-- R274: whether a REGION location lies in a region of the issuing port that can be reached. -/
def State.regionLocOk (s : State) (b : Nat) (l : Loc) : Bool :=
  decide (l.port < 66) && decide (l.rgn < 32) && s.hostRegion b l.port l.rgn && decide (2 ≤ s.rgnState l.port l.rgn) &&
    decide (l.addr + l.len ≤ s.rgnSize l.port l.rgn * 2 ^ 21) && s.memUp l.port && !s.unreachable (memEp l.port)

/-- The lines that `len` bytes from `addr` touch. -/
def linesOf (addr len : Nat) : List Nat := if len = 0 then [] else (List.range ((addr % 64 + len + 63) / 64)).map (fun k => addr / 64 + k)

/-- R274: the copy engine reads a location: a region or a staging buffer of the device, or memory outside it, where `out` says what it finds. -/
def State.readLoc (s : State) (b : Nat) (l : Loc) (out : LocIn) : State × LocIn :=
  if l.kind = 2 then
    let d := smGet [] s.tol.staged (l.addr % 2 ^ 32)
    (s, if l.len ≤ d.length then .bytes (d.take l.len) else .failed)
  else if l.kind = 1 then
    if !s.regionLocOk b l then (s, .failed)
    else
      let r := s.readLines l.port l.rgn epTolmor [] (linesOf l.addr l.len)
      if r.2.any (fun d => d.2) then (r.1, .poisoned)
      else (r.1, .bytes (((r.2.flatMap (fun d => leBytes 64 d.1.toNat)).drop (l.addr % 64)).take l.len))
  else
    (s, match out with
      | .bytes d => if d.length = l.len then .bytes d else .failed
      | x => x)

/-- The line and byte enables with which bytes at `addr` are written into line k. -/
def lineWrite (addr : Nat) (bytes : List Nat) (k : Nat) : Nat × BitVec 512 :=
  (List.range 64).foldl (fun x i =>
    let a := 64 * k + i
    if addr ≤ a ∧ a < addr + bytes.length then (x.1 + 2 ^ i, x.2 ||| (BitVec.ofNat 512 (listGet 0 bytes (a - addr) % 256 * 2 ^ (8 * i)))) else x) (0, 0)

/-- R274: the copy engine writes a location, outside the device where `copied` says that it can. -/
def State.writeLoc (s : State) (b : Nat) (l : Loc) (bytes : List Nat) (copied : Bool) : State × Bool :=
  if l.kind = 2 then
    let k := l.addr % 2 ^ 32
    let old := smGet [] s.tol.staged k
    if old.length < bytes.length then (s, false)
    else (s.setTol { s.tol with staged := smSet [] s.tol.staged k (bytes ++ old.drop bytes.length) }, true)
  else if l.kind = 1 then
    if !s.regionLocOk b l then (s, false)
    else
      ((linesOf l.addr bytes.length).foldl (fun t k =>
        let w := lineWrite l.addr bytes k
        (t.writeLine l.port l.rgn epTolmor k w.1 (w.2, false) none).1) s, true)
  else if copied then (s.emit (.locWrite b l bytes), true)
  else (s, false)

/-- A deferred command whose bytes are to be written to a location; a location too short ends it COPY_FAILED. -/
def writeLater (s : State) (l : Loc) (bytes : List Nat) (data : Nat) : CmdEnd :=
  if l.len < bytes.length then .later .plain (some (ccCOPY, 0)) s else .later (.write l bytes data) none s

/-- A deferred command that reads a location and then goes on with its bytes; POISONED or COPY_FAILED ends it. -/
def withLoc (s : State) (c : CmdIn) (k : Nat) (out : LocIn) (f : State → Loc → List Nat → CmdEnd) : CmdEnd :=
  match c.loc k with
  | none => .now ccFORMAT 0 s
  | some l =>
    match s.readLoc c.box l out with
    | (s1, .bytes d) => f s1 l d
    | (s1, .poisoned) => .later .plain (some (ccPOISONED, 0)) s1
    | (s1, .failed) => .later .plain (some (ccCOPY, 0)) s1

/-- A deferred command whose completion is decided. -/
def endLater (s : State) (code data : Nat) : CmdEnd := .later .plain (some (code, data)) s

/-! ### Information (R275, R286, R388, R320) -/

/-- GET_INFO: DATA, and the signer table of 16 records. (DEDUCED, assumption 95) -/
def State.getInfo (s : State) (c : CmdIn) : CmdEnd :=
  let data := s.fget (rTOL_INFO 0) fTOL_INFO_ROM_REV + s.role * 2 ^ 16 + s.fget (rTOL_INFO 0) fTOL_INFO_ADMIN * 2 ^ 18
  let table := (List.range 16).flatMap (fun k =>
    let g := smGet Signer.blank s.otp.signers k
    (leBytes 48 g.hash).reverse ++ [b2n g.valid + 2 * b2n g.revoked] ++ leBytes 15 0)
  if c.arg 1 = 0 then .now ccDONE data s
  else match c.loc 0 with
    | none => .now ccFORMAT 0 s
    | some l => if l.len < 1024 then .now ccCOPY 0 s else .later (.write l table data) none s

/-- Table TMC-10: an event log entry. -/
def LogEntry.bytes (e : LogEntry) : List Nat :=
  leBytes 8 e.tide ++ leBytes 4 e.seq ++ leBytes 1 e.source ++ leBytes 1 e.code ++ leBytes 2 e.index ++ leBytes 16 e.detail

/-- READ_LOG (R286): up to COUNT entries from FIRST, or from the oldest held where FIRST is older. (DEDUCED, assumption 96) -/
def State.readLog (s : State) (c : CmdIn) : CmdEnd :=
  let log := s.tol.log
  let back := (s.rd32 (rLOG_NEXT 0) + 2 ^ 32 - c.arg 0) % 2 ^ 32
  let from_ := if 2 ^ 31 ≤ back then [] else log.drop (log.length - back)
  let es := from_.take (c.arg 1)
  let first := match es with | e :: _ => e.seq | [] => c.arg 0
  if c.arg 1 < 1 ∨ 1024 < c.arg 1 then .now ccFORMAT 0 s
  else match c.loc 2 with
    | none => .now ccFORMAT 0 s
    | some l =>
      if l.len < 32 * c.arg 1 then .now ccCOPY 0 s
      else .later (.write l (es.flatMap LogEntry.bytes) (first + es.length * 2 ^ 32)) none s

/-- READ_REPAIR_LOG (R388). -/
def State.readRepairLog (s : State) (c : CmdIn) : CmdEnd :=
  match c.loc 0 with
  | none => .now ccFORMAT 0 s
  | some l => writeLater s l s.repairLog s.repairLog.length

/-- READ_METERS (R320): the report of a closed and held epoch with Tolmor's signature. -/
def State.readMeters (s : State) (c : CmdIn) (env : CmdEnv) : CmdEnd :=
  match s.heldEpoch (c.arg 1), c.loc 2 with
  | some e, some l =>
    let b := s.meterReport (c.arg 0) e ++ bytesAt env.sig 0 96
    writeLater s l b b.length
  | none, _ => .now ccSTATE 0 s
  | _, none => .now ccFORMAT 0 s

/-! ### Attestation, debug tokens, keys and signers (R278–R280, R441) -/

/-- SPDM_MSG (R278): at most 8 sessions are open; a session belongs to the mailbox that opened it. (DESIGN CHOICE, assumption 112) -/
def State.spdmMsg (s : State) (c : CmdIn) (env : CmdEnv) : CmdEnd :=
  withLoc s c 0 env.loc (fun s1 _ _ =>
    let t := s1.tol.sessions
    let t1 := match env.spdm.closes with | some x => t.filter (fun y => !(decide (y.1 = x) && decide (y.2 = c.box))) | none => t
    let t2 := match env.spdm.opens with
      | some x => if t1.length < 8 ∧ ¬ t1.any (fun y => y.1 = x) then t1 ++ [(x, c.box)] else t1
      | none => t1
    match c.loc 4 with
    | none => .now ccFORMAT 0 s
    | some l => writeLater (s1.setTol { s1.tol with sessions := t2 }) l env.spdm.response env.spdm.response.length)

/-- R440: whether a token's reserved bytes, MAGIC, VERSION, LEVEL and STALLS are as Table DBG-2 gives. -/
def tokenFormed (d : List Nat) : Bool :=
  decide (d.length = 256) && decide (leAt d 0 4 = 0x44474254) && decide (leAt d 4 2 = 1) && zeroAt d 7 1 && zeroAt d 0x0C 4 && zeroAt d 0x91 15 &&
    decide (1 ≤ leAt d 6 1) && decide (leAt d 6 1 ≤ 3) && (decide (leAt d 6 1 = 3) == decide (leAt d 8 4 = 0))

/-- R441: the stalls that a token names. -/
def tokenStalls (d : List Nat) : List Nat := (List.range 32).filter (fun n => (leAt d 8 4).testBit n)

/-- R441: the code of the first check that a token fails, presented in view v. -/
def State.tokenRefusal (s : State) (v : Nat) (d : List Nat) (sigOk : Bool) (hash : Nat) : Option Nat :=
  let level := leAt d 6 1
  let lives := (tokenStalls d).map (fun n => (s.stall n).live)
  if !tokenFormed d then some ccFORMAT
  else if !sigOk then some ccSIG
  else if level = 3 ∧ (hash ≠ s.otp.ownerRoot ∨ s.otp.ownerRoot = 0) then some ccSIG
  else if level ≠ 3 ∧ ¬ (s.enrolled hash && lives.all (fun x => match x with | some i => decide (i.signer = hash) | none => true)) then some ccSIG
  else if beNat (bytesAt d 0x10 8) ≠ s.rd64 (rTOL_SERIAL 0) ∨ leAt d 0x18 8 ≠ s.rd64 (rDBG_NONCE v) ∨ s.tideState = 0 ∨ leAt d 0x20 8 < s.tide.now ∨
      ¬ lives.all (fun x => match x with | some i => decide (i.tenant = leAt d 0x28 8) | none => false) then some ccSTATE
  else none

/-- DEBUG_AUTH (R441): the token is checked, DBG_NONCE renewed and, where no check fails, the view's grant replaced. (DEDUCED, assumption 98) -/
def State.debugAuth (s : State) (c : CmdIn) (env : CmdEnv) : CmdEnd :=
  match c.loc 0 with
  | none => .now ccFORMAT 0 s
  | some l =>
    if l.len ≠ 256 then .now ccFORMAT 0 (s.newNonce c.box)
    else
      match s.readLoc c.box l env.loc with
      | (s1, .bytes d) =>
        match s1.tokenRefusal c.box d env.sigOk env.keyHash with
        | some code => endLater (s1.newNonce c.box) code 0
        | none => endLater ((s1.newNonce c.box).newGrant c.box (leAt d 6 1) (leAt d 8 4) (leAt d 0x20 8)) ccDONE 0
      | (s1, .poisoned) => endLater (s1.newNonce c.box) ccPOISONED 0
      | (s1, .failed) => endLater (s1.newNonce c.box) ccCOPY 0

/-- LOAD_KEY (R279). -/
def State.loadKey (s : State) (c : CmdIn) (env : CmdEnv) : CmdEnd :=
  let k := c.arg 0
  if k = 0 then .now ccKEY 0 s
  else if s.slotState k ≠ 0 then .now ccSTATE 0 s
  else if !s.tol.sessions.any (fun x => decide (x.1 = c.arg 1) && decide (x.2 = c.box)) then .now ccKEY 0 s
  else match env.keys with
    | none => .now ccKEY 0 s
    | some (k1, k2, kt) =>
      let s1 := s.loadSlot k k1 k2 kt false
      .now ccDONE 0 (s1.setTol { s1.tol with keyBox := smSet none s1.tol.keyBox k (some c.box) })

/-- RETIRE_KEY (R225). -/
def State.retireKey (s : State) (c : CmdIn) : CmdEnd :=
  let k := c.arg 0
  if k = 0 then .now ccKEY 0 s
  else if s.slotState k ≠ 1 then .now ccSTATE 0 s
  else .later (.retireKey k) none (s.retireSlot k)

/-- ENROLL_SIGNER and REVOKE_SIGNER (R280): the payload is checked and the fuses are programmed. (DEDUCED, assumption 97) -/
def State.signerCmd (s : State) (c : CmdIn) (env : CmdEnv) : CmdEnd :=
  let enroll := decide (c.op = 0x12)
  withLoc s c 0 env.loc (fun s1 _ d =>
    let k := leAt d 97 1
    let g := smGet Signer.blank s1.otp.signers k
    if d.length ≠ (if enroll then 242 else 194) ∨ 15 < k then endLater s1 ccFORMAT 0
    else if s1.otp.ownerRoot = 0 ∨ env.keyHash ≠ s1.otp.ownerRoot ∨ ¬ env.sigOk then endLater s1 ccSIG 0
    else if (if enroll then g.valid else !g.valid || g.revoked) then endLater s1 ccSTATE 0
    else
      let g1 : Signer := if enroll then { g with hash := Nat.lor g.hash (beNat (bytesAt d 98 48)), valid := true } else { g with revoked := true }
      endLater { s1 with otp := { s1.otp with signers := smSet Signer.blank s1.otp.signers k g1 } } ccDONE 0)

/-- BIND_LINK_KEY (R371). -/
def State.bindCmd (s : State) (c : CmdIn) : CmdEnd :=
  if 7 < c.arg 0 then .now ccFORMAT 0 s
  else if c.arg 1 = 0 ∨ s.slotState (c.arg 1) ≠ 1 then .now ccKEY 0 s
  else if s.flag (rSKJ_STAT (c.arg 0)) fSKJ_STAT_SWITCH_PEND then .now ccSTATE 0 s
  else .now ccDONE 0 (s.bindLink (c.arg 0) (c.arg 1))

/-! ### Stalls (R233, R242–R256, R276, R277) -/

/-- R270: whether a deferred command that names stall n is outstanding. -/
def State.stallHeld (s : State) (n : Nat) : Bool :=
  s.tol.jobs.any (fun j => match j.kind with
    | .loadImage k => decide (k = n)
    | .swapStall k => decide (k = n)
    | .destroyStall k => decide (k = n)
    | .createStall k _ => decide (k = n)
    | .rekeyStall k _ => decide (k = n)
    | _ => false)

/-- Whether a REKEY_STALL of stall n is in progress. -/
def State.rekeying (s : State) (n : Nat) : Bool :=
  s.tol.jobs.any (fun j => match j.kind with | .rekeyStall k _ => decide (k = n) && j.result.isNone | _ => false)

/-- CREATE_STALL (R233) on its claim list: the code and the state. -/
def State.claimList (s : State) (b n : Nat) (d : List Nat) : Nat × State :=
  let m := parseManifest true d
  if !m.2 then (ccFORMAT, s) else if !s.claimOk m.1 then (ccOWNER, s) else (ccDONE, s.createStall n b m.1)

/-- CREATE_STALL (R233, R285): it waits while a test or calibration runs on a resource that its list names. -/
def State.createCmd (s : State) (c : CmdIn) (env : CmdEnv) : CmdEnd :=
  let n := c.arg 0
  if s.stallState n ≠ stFREE ∨ s.stallHeld n then .now ccSTATE 0 s
  else if 65568 < c.arg 2 then .now ccCOPY 0 s
  else withLoc s c 1 env.loc (fun s1 _ d =>
    if s1.claimTested (parseManifest true d).1 then .later (.createStall n d) none s1
    else
      let r := s1.claimList c.box n d
      endLater r.2 r.1 0)

/-- LOAD_IMAGE (R242): checks 1 to 6 of Table STL-7, and the load's beginning. -/
def State.loadCmd (s : State) (c : CmdIn) (env : CmdEnv) : CmdEnd :=
  let n := c.arg 0
  let w := c.arg 1
  if !s.loadable n (w.testBit 16) || s.rekeying n then .now ccSTATE 0 s
  else if 2 ^ 28 < c.arg 3 then .now ccCOPY 0 s
  else
    let out := match env.loc with | .bytes _ => LocIn.bytes (List.replicate (c.arg 3) 0) | x => x
    withLoc s c 2 out (fun s1 l _ =>
      let b := { env.image with copied := l.len }
      match s1.loadCheck n b (w % 2 ^ 7) (w / 2 ^ 8 % 2 ^ 7) false with
      | some code => .later (.loadImage n) (some (code, 0)) s1
      | none => .later (.loadImage n) none (s1.loadBegin n b (w / 2 ^ 8 % 2 ^ 7)))

/-- SWAP_STALL (R245, R295); in NAP and SLEEP, or while leaving one of them, T lies later by the exit latency (R420). -/
def State.swapCmd (s : State) (c : CmdIn) : CmdEnd :=
  let n := c.arg 0
  let st := s.stallState n
  if ¬ (st = stEMPTY ∨ st = stLIVE ∨ st = stFAULTED) ∨ (s.stall n).armed.isSome ∨ ¬ s.bgReady n ∨ s.rekeying n then .now ccSTATE 0 s
  else if s.tideState = 0 ∨ c.arg64 2 < s.tide.now + (if 2 ≤ s.powerState then 1000 * exitLatency s.powerState else 0) + 50000 then .now ccTIME 0 s
  else .later (.swapStall n) none (s.armSwap n (c.arg64 2) ((c.arg 1).testBit 0))

/-- CANCEL_SWAP (R245, R276). -/
def State.cancelSwap (s : State) (c : CmdIn) : CmdEnd :=
  match (s.stall (c.arg 0)).armed with
  | none => .now ccSTATE 0 s
  | some (at_, _) => if at_ < s.tide.now + 10000 then .now ccTIME 0 s else .now ccDONE 0 (s.abandonSwap (c.arg 0) 1)

/-- FREEZE_STALL (R253). -/
def State.freezeCmd (s : State) (c : CmdIn) : CmdEnd :=
  let st := s.stallState (c.arg 0)
  if st = stLIVE ∨ st = stFILL then .now ccDONE 0 (s.freezeStall (c.arg 0)) else .now ccSTATE 0 s

/-- Stall n destroyed, with what the ports hold of it. -/
def State.destroyAll (s : State) (n : Nat) : State := (s.portsForget n).destroyStall n

/-- DESTROY_STALL (R252, R256): a running swap is released first. -/
def State.destroyCmd (s : State) (c : CmdIn) : CmdEnd :=
  let n := c.arg 0
  if s.stallState n = stFREE then .now ccSTATE 0 s
  else if (s.stall n).swap.isSome then .later (.destroyStall n) none s
  else .later (.destroyStall n) (some (ccDONE, 0)) (s.destroyAll n)

/-- REKEY_STALL (R277). -/
def State.rekeyCmd (s : State) (c : CmdIn) : CmdEnd :=
  let n := c.arg 0
  let k := c.arg 1
  let st := s.stallState n
  if ¬ (st = stEMPTY ∨ st = stLIVE ∨ st = stFAULTED) ∨ (s.stall n).armed.isSome ∨ s.rekeying n then .now ccSTATE 0 s
  else if k = 0 ∨ s.slotState k ≠ 1 ∨ s.slotElsewhere n k then .now ccKEY 0 s
  else .later (.rekeyStall n k) none (s.rekeyBegin n k)

/-! ### Regions (R195, R218, R220, R353) -/

/-- R353: the host slot of a port: the slot of its encrypted HOST regions, if it has one. -/
def State.hostSlot (s : State) (n : Nat) : Option Nat :=
  ((List.range 66).flatMap (fun p => (List.range 32).map (fun i => (p, i)))).findSome? (fun x =>
    if s.hostRegion n x.1 x.2 && s.rgnCrypt x.1 x.2 then some (s.keyCur x.1 x.2) else none)

/-- CREATE_REGION (R195, R208, R227, R353): a HOST region of the issuer, whose OWNER_ID is the issuer's number. (DEDUCED, assumptions 68, 102; DESIGN CHOICE, assumption 100) -/
def State.createRegion (s : State) (c : CmdIn) : CmdEnd :=
  let port := c.arg 0
  let size := c.arg 1
  let w := c.arg 2
  let k := w % 2 ^ 7
  let crypt := w.testBit 8
  let tag := w.testBit 9
  let quota := (List.range 32).foldl (fun n i => n + (s.stall i).quotaOf port) 0
  if 65 < port ∨ size = 0 ∨ portCapacity port < size ∨ (tag ∧ ¬ crypt) ∨ (tag ∧ 64 ≤ port) then .now ccFORMAT 0 s
  else if port < 64 ∧ s.unreachable (memEp port) then .now ccSTATE 0 s
  else if portCapacity port < quota + s.heldOutside port + size ∨ (s.findBase port size).isNone ∨
      ¬ (List.range 32).any (fun i => s.rgnState port i = 0) then .now ccOWNER 0 s
  else if k = 0 ∨ s.slotState k ≠ 1 ∨ (crypt && (match s.hostSlot c.box with | some o => decide (o ≠ k) | none => false)) then .now ccKEY 0 s
  else match s.placeRegion port 1 c.box size k crypt tag (w.testBit 10) with
    | none => .now ccOWNER 0 s
    | some (s1, i) =>
      let s2 := if crypt ∧ c.box < 4 then s1.fset (rEP_CFG (0x180 + c.box)) fEP_CFG_KEY k else s1
      .later (.createRegion port i) none s2

/-- DESTROY_REGION (R218). (DEDUCED, assumption 101) -/
def State.destroyRegion (s : State) (c : CmdIn) : CmdEnd :=
  if 65 < c.arg 0 ∨ 31 < c.arg 1 then .now ccFORMAT 0 s
  else if !s.hostRegion c.box (c.arg 0) (c.arg 1) then .now ccOWNER 0 s
  else .now ccDONE 0 (s.rgnDestroy (c.arg 0) (c.arg 1))

/-- REKEY_REGION (R220). (DEDUCED, assumption 103) -/
def State.rekeyRegion (s : State) (c : CmdIn) : CmdEnd :=
  let p := c.arg 0
  let i := c.arg 1
  let k := c.arg 2
  if 65 < p ∨ 31 < i then .now ccFORMAT 0 s
  else if !s.hostRegion c.box p i then .now ccOWNER 0 s
  else if s.rgnState p i ≠ 2 then .now ccSTATE 0 s
  else if k = 0 ∨ s.slotState k ≠ 1 ∨ k = s.keyCur p i then .now ccKEY 0 s
  else .later (.rekeyRegion p i) none ((s.fset (rRGN_KEY p i) fRGN_KEY_KEY_NEXT k).rgnRekey p i)

/-- R224, R353: whether the re-encryption of a HOST region may be ended: it is in SETTLE, and every region of the host under its old slot is in SETTLE. (DEDUCED, assumption 103) -/
def State.hostSettled (s : State) (b port i : Nat) : Bool :=
  decide (s.rgnState port i = 4) &&
  ((List.range 66).flatMap (fun p => (List.range 32).map (fun j => (p, j)))).all (fun x =>
    !s.hostRegion b x.1 x.2 || !s.rgnCrypt x.1 x.2 || decide (s.keyCur x.1 x.2 ≠ s.keyCur port i) || decide (s.rgnState x.1 x.2 = 4))

/-! ### Lanes, roles, tests (R281–R285, R338, R345) -/

/-- R338: the ports that gain or lose a lane by a table. -/
def State.mapLinks (s : State) (t : List Nat) : List LinkName :=
  (s.changedLanes t).flatMap (fun l =>
    let f := l / 40
    let e := mapEntry t l
    let new := if e.1 = prPCIE then [LinkName.pcie f] else if e.1 = prETH then [.eth (2 * f + e.2.1)] else if e.1 = prSKEJA then [.skeja (2 * f + e.2.1)] else []
    (s.laneLink l).toList ++ new)

/-- SET_LANE_MAP (R336–R338) on its table: the code and the state. -/
def State.laneMap (s : State) (t : List Nat) : Nat × State :=
  let ls := s.changedLanes t
  if !laneMapOk t then (ccFORMAT, s)
  else if ls.any (fun l => (s.laneOwner l).isSome || !s.diePresent (8 + l / 40)) then (ccSTATE, s)
  else (ccDONE, ls.foldl (fun u l => u.remapLane t l) ((s.mapLinks t).eraseDups.foldl (fun u n => u.linkDown n) s))

/-- SET_LANE_MAP (R285, R338): it waits while a calibration runs on a lane whose entry it changes. (DEDUCED, assumption 97) -/
def State.laneMapCmd (s : State) (c : CmdIn) (env : CmdEnv) : CmdEnd :=
  if c.arg 1 ≠ 640 then .now ccCOPY 0 s
  else withLoc s c 0 env.loc (fun s1 _ d =>
    if (s1.changedLanes d).any (fun l => s1.testRuns 0x11 l) then .later (.laneMap d) none s1
    else
      let r := s1.laneMap d
      endLater r.2 r.1 0)

/-- SET_PORT_ROLE (R345). -/
def State.portRole (s : State) (c : CmdIn) : CmdEnd :=
  if 3 < c.arg 0 ∨ 1 < c.arg 1 then .now ccFORMAT 0 s
  else if s.roleRefused (c.arg 0) (c.arg 1) then .now ccSTATE 0 s
  else endLater (s.enterRole (c.arg 0) (c.arg 1)) ccDONE 0

/-- SELF_TEST and CALIBRATE (R281–R283): a request is queued, joins one that runs, or under FORCE runs at once with those queued for its target. -/
def State.testCmd (s : State) (c : CmdIn) : CmdEnd :=
  let kind := c.arg 0
  let i := c.arg 1
  let runs := s.testRuns kind i
  if !testTargetOk c.op kind i then .now ccFORMAT 0 s
  else if c.force then
    if !s.classA c.box && !s.mayForce c.box kind i then .now ccAUTH 0 s
    else if s.forceRefused kind i then .now ccSTATE 0 s
    else .later (.test kind i (c.arg 2) true) none (if runs then s else (s.testsRun kind i).testEffect kind i true)
  else if !runs && decide (64 ≤ s.testsQueued) then .now ccBUSY 0 s
  else .later (.test kind i (c.arg 2) runs) none s

/-- CANCEL_TEST (R285): a queued request of the issuing mailbox ends CANCELLED. -/
def State.cancelTest (s : State) (c : CmdIn) : CmdEnd :=
  let mine := fun (j : Job) => decide (j.box = c.box) && decide (j.ticket = c.arg 0) && j.result.isNone &&
    (match j.kind with | .test _ _ _ r => !r | _ => false)
  if s.tol.jobs.any mine then .now ccDONE 0 (s.endJobs mine ccCANCELLED 0) else .now ccSTATE 0 s

/-! ### Tide, alarms and FANOUT (R294, R295, R307) -/

/-- A command of the Tide unit: its refusal, or its effect. -/
def tideEnd (s : State) (r : Nat ⊕ State) : CmdEnd :=
  match r with
  | .inl code => .now code 0 s
  | .inr t => .now ccDONE 0 t

/-- Whether an ALARM argument names an alarm. (DEDUCED, assumption 104) -/
def alarmOk (a : Nat) : Bool := decide (a < 64) || (decide (0x100 ≤ a) && decide (a < 0x180))

/-- FANOUT (R307, R308): the request and the data to stage are read, and the messages go down the tree. -/
def State.fanoutCmd (s : State) (c : CmdIn) (env : CmdEnv) : CmdEnd :=
  if s.role ≠ 1 then .now ccSTATE 0 s
  else withLoc s c 0 env.loc (fun s1 _ d =>
    match parseFan c.box d with
    | none => endLater s1 ccFORMAT 0
    | some r =>
      if r.stage.len = 0 then .later (.fanout s1.tree.nextFan) none (s1.fanBegin c.box (s1.nextTicket c.box) r [])
      else if 2 ^ 28 < r.stage.len then endLater s1 ccCOPY 0
      else match s1.readLoc c.box r.stage env.loc2 with
        | (s2, .bytes st) => .later (.fanout s2.tree.nextFan) none (s2.fanBegin c.box (s2.nextTicket c.box) r st)
        | (s2, .poisoned) => endLater s2 ccPOISONED 0
        | (s2, .failed) => endLater s2 ccCOPY 0)

/-- Table TMC-8: what a well-formed and authorised command comes to. -/
def State.perform (s : State) (c : CmdIn) (env : CmdEnv) : CmdEnd :=
  match c.op with
  | 0x01 => s.getInfo c
  | 0x02 => s.readLog c
  | 0x03 => s.readRepairLog c
  | 0x04 => s.spdmMsg c env
  | 0x05 => s.debugAuth c env
  | 0x10 => s.loadKey c env
  | 0x11 => s.retireKey c
  | 0x12 => s.signerCmd c env
  | 0x13 => s.signerCmd c env
  | 0x14 => s.bindCmd c
  | 0x20 => s.createCmd c env
  | 0x21 => s.loadCmd c env
  | 0x22 => s.swapCmd c
  | 0x23 => s.cancelSwap c
  | 0x24 => s.freezeCmd c
  | 0x25 => s.destroyCmd c
  | 0x26 => s.rekeyCmd c
  | 0x30 => s.createRegion c
  | 0x31 => s.destroyRegion c
  | 0x32 => s.rekeyRegion c
  | 0x40 => if 5 < c.arg 0 then .now ccFORMAT 0 s else tideEnd s (s.setTideSource (c.arg 0))
  | 0x41 => if alarmOk (c.arg 0) then tideEnd s (s.setAlarm (c.arg 0) (c.arg 1) (c.arg64 2)) else .now ccFORMAT 0 s
  | 0x42 => if alarmOk (c.arg 0) then tideEnd s (s.clearAlarm (c.arg 0)) else .now ccFORMAT 0 s
  | 0x43 => s.readMeters c env
  | 0x44 => s.fanoutCmd c env
  | 0x50 => s.laneMapCmd c env
  | 0x51 => s.portRole c
  | 0x60 => s.testCmd c
  | 0x61 => s.testCmd c
  | 0x62 => s.cancelTest c
  | _ => .now ccOPCODE 0 s

/-- R264, R267, R271: the checks common to every command, and then the command. (DEDUCED, assumption 89) -/
def State.judgeCmd (s : State) (c : CmdIn) (w0 w1 : Nat) (env : CmdEnv) : CmdEnd :=
  match cmdMasks c.op with
  | none => .now ccOPCODE 0 s
  | some masks =>
    if !c.formed w0 w1 masks then .now ccFORMAT 0 s
    else if !s.authorised c then .now ccAUTH 0 s
    else if c.defers && decide (32 ≤ (s.ticketsOut c.box).length) then .now ccBUSY 0 s
    else s.perform c env

/-! ### Taking commands and completing them (R269–R272) -/

/-- R270: the rung mailbox that Tolmor serves next, round robin. (DESIGN CHOICE, assumption 110) -/
def State.nextBox (s : State) : Option Nat :=
  ((List.range 6).map (fun k => (s.tol.served + 1 + k) % 6)).find? (fun b => s.flag (rMB_STAT b) fMB_STAT_BUSY)

/-- The immediate completion of a command, which goes up the tree where a FANOUT carried the command. -/
def State.completeNow (s : State) (c : CmdIn) (fan : Option (Nat × Option (Nat × Nat))) (code data : Nat) : State :=
  let e := mkCpl c.seq c.op code true 0 data
  let s1 := s.postCpl c.box e
  match fan with
  | some f => s1.fanReply f e
  | none => s1

/-- R269: PENDING with a ticket, and the deferred command. -/
def State.defer (s : State) (c : CmdIn) (fan : Option (Nat × Option (Nat × Nat))) (tide : Nat) (kind : JobKind) (result : Option (Nat × Nat)) : State :=
  let t := s.nextTicket c.box
  let s1 := s.setMbox c.box { s.mbox c.box with lastTicket := t }
  let s2 := s1.setTol { s1.tol with jobs := s1.tol.jobs ++ [⟨c.box, c.seq, c.op, t, false, kind, result, fan⟩] }
  s2.postCpl c.box (mkCpl c.seq c.op ccPENDING false t tide)

/-- COMMAND_TAKE (R270): Tolmor takes the command of the mailbox that is next in turn; its buffer is free again; the command is checked, performed or
deferred, and its immediate completion posted. (DESIGN CHOICE, assumption 94) -/
def State.commandTake (s : State) (env : CmdEnv) : State :=
  if s.dead then s
  else match s.nextBox with
    | none => s
    | some b =>
      let w0 := s.cmdWord b 0
      let w1 := s.cmdWord b 1
      let c : CmdIn := ⟨b, w0 / 2 ^ 16, w0 % 2 ^ 8, w0.testBit 8, (List.range 62).map (fun k => s.cmdWord b (k + 2))⟩
      let fan := if b = 4 then s.tree.mgrCmd else none
      let s1 := (s.fset (rMB_STAT b) fMB_STAT_BUSY 0).irq (PageKind.mbox.addr b) 1
      let s2 := (s1.setTol { s1.tol with served := b }).setTree (if b = 4 then { s1.tree with mgrCmd := none } else s1.tree)
      match s2.judgeCmd c w0 w1 env with
      | .now code data t => t.completeNow c fan code data
      | .later kind result t => t.defer c fan s.tide.now kind result

/-- What a deferred command that nothing has decided comes to now: CODE, DATA and the state, or none while it still waits. (DEDUCED, assumption 101) -/
def State.jobReady (s : State) (j : Job) (copied : Bool) : Option (Nat × Nat × State) :=
  match j.kind with
  | .write l bytes data =>
    let r := s.writeLoc j.box l bytes copied
    some (if r.2 then (ccDONE, data, r.1) else (ccCOPY, 0, r.1))
  | .retireKey k => if s.slotState k = 0 then some (ccDONE, 0, s) else none
  | .createRegion p i =>
    if s.rgnState p i = 0 then some (ccABANDONED, 0, s) else if 2 ≤ s.rgnState p i then some (ccDONE, i, s) else none
  | .rekeyRegion p i =>
    if s.rgnState p i = 0 then some (ccABANDONED, 0, s)
    else if s.hostSettled j.box p i then
      let k := s.keyNext p i
      let s1 := if j.box < 4 ∧ s.rgnCrypt p i then s.fset (rEP_CFG (0x180 + j.box)) fEP_CFG_KEY k else s
      some (ccDONE, 0, s1.rgnFinish p i)
    else none
  | .destroyStall n => if (s.stall n).swap.isSome then none else some (ccDONE, 0, s.destroyAll n)
  | .createStall n d =>
    if s.claimTested (parseManifest true d).1 then none
    else
      let r := s.claimList j.box n d
      some (r.1, 0, r.2)
  | .rekeyStall n k => if s.rekeySettled n k then some (ccDONE, 0, s.rekeyEnd n k) else none
  | .laneMap d =>
    if (s.changedLanes d).any (fun l => s.testRuns 0x11 l) then none
    else
      let r := s.laneMap d
      some (r.1, 0, r.2)
  | _ => none

/-- DEFERRED_COMPLETION (R269): the deferred work of a ticket ends and its final completion is posted; `copied` says whether a location outside the
device could be written. (DESIGN CHOICE, assumption 94) -/
def State.deferredEnd (s : State) (box ticket : Nat) (copied : Bool) : State :=
  if s.dead then s
  else match s.tol.jobs.find? (fun j => decide (j.box = box) && decide (j.ticket = ticket)) with
    | none => s
    | some j =>
      match j.result with
      | some (code, data) => s.finishJob j code data
      | none =>
        match s.jobReady j copied with
        | some (code, data, t) => t.finishJob j code data
        | none => match j.kind with | .rekeyStall n k => s.rekeyBegin n k | _ => s

/-- FANOUT_END (R310): every target that could be reached has returned its final completion, or TIMEOUT_MS has passed (`timeout`). The results
are written to RESULT_LOC, where the copy engine can (`copied`), and FANOUT completes. -/
def State.fanEnd (s : State) (id : Nat) (timeout copied : Bool) : State :=
  match s.tree.fans.find? (fun f => f.id = id), s.tol.jobs.find? (fun j => decide (j.kind = .fanout id)) with
  | some f, some j =>
    if !(timeout || f.targets.all (fun t => !t.reached || t.cpl.isSome)) || s.dead then s
    else
      let s1 := s.setTree { s.tree with fans := s.tree.fans.filter (fun g => g.id ≠ id) }
      match locOf f.result with
      | some loc =>
        if loc.len < f.result_.length then s1.finishJob j ccCOPY 0
        else
          let r := s1.writeLoc f.box loc f.result_ copied
          if r.2 then r.1.finishJob j ccDONE f.targets.length else r.1.finishJob j ccCOPY 0
      | none => s1.finishJob j ccCOPY 0
  | _, _ => s

/-! ### Lockstep, SRAM and the event log (R259, R262, R263, R286) -/

/-- R263: Tolmor enters DEAD; the device returns to RUN (R421). (DEDUCED, assumption 168) -/
def State.enterDead (s : State) : State :=
  if s.dead then s
  else
    let s1 := (List.range 6).foldl (fun (t : State) b =>
      ((t.fset (rMB_STAT b) fMB_STAT_DEAD 1).fset (rMB_STAT b) fMB_STAT_ACCEPTING 0).irq (PageKind.mbox.addr b) 3) (s.fset (rTOL_STAT 0) fTOL_STAT_MODE 2)
    if 1 ≤ s1.powerState then s1.exitBegin 0 else s1

/-- LOCKSTEP_DISAGREE (R262, R263): core `c` disagrees with the other two, or, with none, all three disagree. In DUAL any disagreement is fatal. (DEDUCED, assumption 109) -/
def State.lockstepDisagree (s : State) (core : Option Nat) : State :=
  if s.dead then s
  else
    let s1 := s.finc (rTOL_STAT 0) fTOL_STAT_DISAGREE
    match core with
    | none => s1.enterDead
    | some c =>
      if s.tol.outCore.isSome then s1.enterDead
      else
        let s2 := (s1.fset (rTOL_STAT 0) fTOL_STAT_OUT_CORE c).logEvent 5 0 (c % 4) 0
        let s3 := s2.setTol { s2.tol with outCore := some (c % 4) }
        if s.fget (rTOL_STAT 0) fTOL_STAT_MODE = 3 then s3 else s3.fset (rTOL_STAT 0) fTOL_STAT_MODE 1

/-- TRIPLE_RESTORE (R262): the reset core rejoins. -/
def State.tripleRestore (s : State) : State :=
  if s.dead ∨ s.tol.outCore.isNone then s
  else
    let s1 := (s.setTol { s.tol with outCore := none }).fset (rTOL_STAT 0) fTOL_STAT_OUT_CORE 0
    if s.fget (rTOL_STAT 0) fTOL_STAT_MODE = 1 then s1.fset (rTOL_STAT 0) fTOL_STAT_MODE 0 else s1

/-- SRAM_SCRUB (R259, R263): the firmware scrubs its SRAM; an uncorrectable word is fatal. -/
def State.sramScrub (s : State) (uncorr : Bool) : State := if uncorr then s.enterDead else s

/-- Table TMC-10: CODE and DETAIL of a block's event record. -/
def State.eventDetail (s : State) (source index : Nat) : Nat × Nat :=
  if source = 1 then
    (s.fget (rHBMP_EVT_LAST index) fHBMP_EVT_LAST_CODE, s.rd32 (rHBMP_EVT_LAST index) + s.rd32 (rHBMP_EVT_LINE index) * 2 ^ 32)
  else if source = 2 then (s.fget (rSTALL_FAULT_AT index) fSTALL_FAULT_AT_CAUSE, s.rd32 (rSTALL_FAULT_AT index))
  else if source = 4 then
    (s.fget (rTRIB_REFUSE_LAST 0) fTRIB_REFUSE_LAST_REASON, s.rd32 (rTRIB_REFUSE_LAST 0) + s.rd32 (rTRIB_REFUSE_ID 0) * 2 ^ 32)
  else if source = 9 then (if s.slotState index = 0 then 2 else 1, 0)
  else (0, 0)

/-- EVENT_LOG_COPY (R286): Tolmor copies a block's event record; the records overwritten before the copy are counted. -/
def State.eventLogCopy (s : State) (source index : Nat) : State :=
  let k := 65536 * source + index
  let n := smGet 0 s.tol.unlogged k
  if s.dead ∨ n = 0 then s
  else
    let d := s.eventDetail source index
    let s1 := (s.setTol { s.tol with unlogged := smSet 0 s.tol.unlogged k 0 }).fadd (rLOG_MISSED 0) fLOG_MISSED_COUNT (n - 1)
    let i := if source = 4 then s.fget (rTRIB_REFUSE_LAST 0) fTRIB_REFUSE_LAST_STALL else index
    s1.logEvent source d.1 i d.2

end Sys2Proof.Machine
end

