-- ==== Sys2Proof/Machine/RegPages.lean ====
section
/-! DEFINITION. Pages: their OWNER (R462, and the OWNER each chapter gives its pages), who may read and write them (R464, R468), the stall
window (R469), and interrupt aggregation (R471–R473). -/

namespace Sys2Proof.Machine

/-- The OWNER of a page (Table MAP-2). A HOST page's owner is a view: a host port, or 4, the manager path where it is the admin view. -/
inductive PageOwner where
  | device
  | host (v : Nat)
  | stall (n : Nat)
  deriving DecidableEq, Repr

/-- An owner that follows a claiming stall. (DEDUCED, assumption 24) -/
def ownerOf : Option Nat → PageOwner
  | some n => .stall n
  | none => .device

/-- Table TID-10: the admin view: a host port, or 4, the manager path. -/
def State.adminView (s : State) : Nat := s.fget (rTOL_INFO 0) fTOL_INFO_ADMIN

/-- The OWNER of instance `i` of a page kind (R234, R287, R321, R337, R422, R438, R473 and the page lines of each chapter). -/
def State.pageOwner (s : State) (k : PageKind) (i : Nat) : PageOwner :=
  match k with
  | .shedMem => ownerOf (s.shedOwner i)
  | .shedTrib => ownerOf (s.shedOwner i)
  | .shedClk => ownerOf (s.shedOwner i)
  | .eddy => ownerOf (s.eddy i).owner
  | .eddyIo => ownerOf (s.eddy i).owner
  | .milEp => if isFabricPort i then ownerOf (s.portOwner i) else .device
  | .tideStall => .stall i
  | .lane =>
    let p := s.laneProto i
    if p = prPCIE then .host (i / 40)
    else if p = prFABRIC then ownerOf (s.laneOwner i)
    else if p = prTEST then .host s.adminView
    else .device
  | .tideCtl => .host s.adminView
  | .treeCtl => .host s.adminView
  | .clkCtl => .host s.adminView
  | .yardClk => .host s.adminView
  | .pinIrq => .host s.adminView
  | .pinSched => .host s.adminView
  | .mgpio => .host s.adminView
  | .pcieCtl => .host s.adminView
  | .eth => .host s.adminView
  | .skeja => .host s.adminView
  | .irqAgg => .host i
  | .pcieHost => .host i
  | .mbox => if i < 4 then .host i else .device
  | _ => .device

/-- OWNER as a requester reads it (R462). (DEDUCED, assumption 17) -/
def State.ownerRead (s : State) (req : Req) (k : PageKind) (i : Nat) : Nat :=
  match s.pageOwner k i with
  | .device => 0
  | .stall n => 2 * 2 ^ 6 + n % 32
  | .host v => match req.view with
    | some w => if w = v then 2 ^ 6 else 0
    | none => 2 ^ 6

/-- Table MAP-3: whether a host view, or the manager path, has the mailbox that controls stall n. (DEDUCED, assumption 14) -/
def State.controls (s : State) (v n : Nat) : Bool := decide (v < 5) && decide ((s.stall n).control = some v)

/-- The stall a trace ring is allocated for, if it is. -/
def State.ringStall (s : State) (r : Nat) : Option Nat :=
  if s.flag (rRING_CTL r) fRING_CTL_EN then some (s.fget (rRING_CTL r) fRING_CTL_STALL) else none

/-- R457: the pages that the JTAG view reaches: MBOX_JTAG, DBG_SESS_5 and those that its grant allows. -/
def State.jtagReaches (s : State) (k : PageKind) (i : Nat) : Bool :=
  (decide (k = .mbox) && decide (i = 5)) || (decide (k = .dbgSess) && decide (i = 5)) ||
  decide (s.grantLevel 5 = 3) || (decide (k = .dbgRing) && decide (1 ≤ s.grantLevel 5)) ||
  (decide (k = .dbgEddy) && s.covers 5 (s.eddy i).owner 1) ||
  (match s.pageOwner k i with | .stall n => s.covers 5 (some n) 1 | _ => false)

/-- R468, R473, R443: whether a requester reads the register at page offset `o` in full; where it does not, it reads 0 and clears nothing. (DEDUCED, assumption 183) -/
def State.readsFull (s : State) (req : Req) (k : PageKind) (i o : Nat) : Bool :=
  match req.view with
  | some v =>
    if k = .irqAgg ∨ k = .dbgSess then decide (v = i)
    else if o < 0x040 then true
    else match k with
      | .dbgRing => s.covers v (s.ringStall i) 1
      | .dbgEddy => s.covers v (s.eddy i).owner 1
      | .mbox => decide (4 ≤ i) || decide (v = i)
      | _ => match s.pageOwner k i with
        | .stall n => s.controls v n
        | _ => true
  | none =>
    match req with
    | .stall n => decide (s.pageOwner k i = .stall n) || (decide (k = .stall) && decide (i = n)) || decide (k = .pinBank)
    | .dbgStall n => decide (s.pageOwner k i = .stall n) || (decide (k = .stall) && decide (i = n)) || decide (k = .pinBank)
    | .tolmor => true
    | _ => decide (k ≠ .dbgSess)

/-- R464, R468, R287, R443, R428: whether a requester may write at page offset `o`. (DEDUCED, assumptions 11, 14, 24, 183) -/
def State.mayWrite (s : State) (req : Req) (k : PageKind) (i o : Nat) : Bool :=
  match req.view with
  | some v =>
    match k with
    | .mbox => decide (v = i)
    | .dbgSess => decide (v = i)
    | .dbgRing => decide (o = 0x040) || s.covers v (s.ringStall i) 1
    | .dbgEddy => s.covers v (s.eddy i).owner 1
    | .pinBank => decide (0x040 ≤ o) && decide (v = s.adminView)
    | .stall => decide (o = 0x010) && decide (v < 4) && s.controls v i
    | _ => match s.pageOwner k i with
      | .host w => decide (w = v)
      | .stall n => s.controls v n && (decide (0x040 ≤ o) || (decide (o = 0x010) && decide (v < 4)))
      | .device => false
  | none =>
    match req with
    | .stall n => decide (s.pageOwner k i = .stall n) || (decide (k = .pinBank) && decide (0x040 ≤ o))
    | .dbgStall n => decide (s.pageOwner k i = .stall n) || (decide (k = .pinBank) && decide (0x040 ≤ o))
    | .tolmor => true
    | _ => decide (k ≠ .dbgSess)

/-! ### The stall window (R469, R470) -/

/-- Table MAP-4: the device address that window address `a` names for stall n, if it names one. -/
def windowTarget (n a : Nat) : Option Nat :=
  let w := a - 0x0D000000
  let o := w % 4096
  if a < 0x0D000000 then none
  else if w < 0x1000 then some (PageKind.stall.addr n + o)
  else if w < 0x2000 then some (PageKind.tideStall.addr n + o)
  else if 0x8000 ≤ w ∧ w < 0x10000 then some (PageKind.pinBank.addr ((w - 0x8000) / 4096) + o)
  else if 0x100000 ≤ w ∧ w < 0x100000 + 384 * 0x8000 then
    let b := (w - 0x100000) / 0x8000
    some (0x01000000 + b / 48 * 0x800000 + b % 48 * 0x20000 + (w - 0x100000) % 0x8000)
  else if 0x1000000 ≤ w ∧ w < 0x1000000 + 512 * 0x2000 then some (0x05000000 + (w - 0x1000000))
  else if 0x1400000 ≤ w ∧ w < 0x1400000 + 0x195 * 0x1000 then some (0x09200000 + (w - 0x1400000))
  else if 0x1800000 ≤ w ∧ w < 0x1800000 + 4 * 0x40000 ∧ (w - 0x1800000) % 0x40000 < 0x28000 then some (0x0B800000 + (w - 0x1800000))
  else none

/-- R470: whether Tolmor serves a window access of stall n to a page. -/
def State.windowServes (s : State) (n : Nat) (k : PageKind) (i : Nat) : Bool :=
  decide (s.pageOwner k i = .stall n) || (decide (k = .stall) && decide (i = n)) || decide (k = .pinBank)

/-- Whether stall n claims a pin of bank b. -/
def State.claimsPinOf (s : State) (n b : Nat) : Bool := (s.stall n).pins.any (fun p => decide (p / 48 = b))

/-! ### Interrupt aggregation (R471–R473) -/

/-- R471: whether the summary of a page is routed to host view v. (DEDUCED, assumption 25) -/
def State.routed (s : State) (k : PageKind) (i v : Nat) : Bool :=
  match s.pageOwner k i with
  | .stall n => s.controls v n
  | .host w => decide (w = v)
  | .device =>
    (decide (k ≠ .mbox) || decide (4 ≤ i) || decide (i = v)) &&
      (decide (s.adminView = v) || s.flag (rAGG_CFG v) fAGG_CFG_SUB_DEVICE)

/-- The aggregation queue of view v. -/
def State.aggQueue (s : State) (v : Nat) : List Nat := smGet [] s.agg.queues v

/-- R473: the episode of view v ends when LEVEL is 0 and OVF is clear. -/
def State.aggSettle (s : State) (v : Nat) : State :=
  if (s.aggQueue v).isEmpty && !s.flag (rAGG_STAT v) fAGG_STAT_OVF then { s with agg := { s.agg with sent := smSet false s.agg.sent v false } } else s

/-- R472: the index of a page is pushed into the queue of view v; into a full queue it is lost. -/
def State.aggPush (s : State) (v page : Nat) : State :=
  let q := s.aggQueue v
  if q.length < 256 then { s with agg := { s.agg with queues := smSet [] s.agg.queues v (q ++ [page]) } }
  else s.fset (rAGG_STAT v) fAGG_STAT_OVF 1

/-- SUMMARY_PUSH (R472): the oldest rise that has not been pushed goes into the queue of each view it is routed to. (DEDUCED, assumption 25) -/
def State.summaryPush (s : State) : State :=
  match s.agg.rises with
  | [] => s
  | p :: ps =>
    let s1 := { s with agg := { s.agg with rises := ps } }
    match pageOf (4096 * p) with
    | none => s1
    | some (k, i) => (List.range 4).foldl (fun t v => if t.routed k i v then t.aggPush v p else t) s1

/-- AGG_POP (R472): the head entry of view v's queue is removed. -/
def State.aggPop (s : State) (v : Nat) : State :=
  ({ s with agg := { s.agg with queues := smSet [] s.agg.queues v (s.aggQueue v).tail } } : State).aggSettle v

/-- MSIX_SEND (R473): vector 0 of PF0 of PCIE_v is sent, once for each episode in which the queue is not empty or OVF is set. -/
def State.msixSend (s : State) (v : Nat) : State :=
  if s.flag (rAGG_CFG v) fAGG_CFG_EN && s.pcieUp v && (!(s.aggQueue v).isEmpty || s.flag (rAGG_STAT v) fAGG_STAT_OVF) && !smGet false s.agg.sent v then
    ({ s with agg := { s.agg with sent := smSet false s.agg.sent v true } } : State).emit (.msix v)
  else s

/-- The bit of AGG_GROUP that a page at address `a` belongs to. -/
def aggGroupOf (a : Nat) : Nat :=
  if a < 0x01000000 then 0
  else if a < 0x05000000 then 1 + (a - 0x01000000) / 0x800000
  else if a < 0x09000000 then 9 + (a - 0x05000000) / 0x80000
  else if a < 0x0A000000 then 17
  else if a < 0x0B000000 then 18
  else if a < 0x0C000000 then 19
  else 20

/-- AGG_GROUP of view v: the groups that hold a raised page routed to it. -/
def State.aggGroups (s : State) (v : Nat) : Nat :=
  (List.range 21).foldl (fun m g => m + b2n (s.regs.any (fun x =>
    decide (x.1 % 4096 = 0x010) && decide (aggGroupOf x.1 = g) && s.summary (x.1 - 0x010) &&
      (match pageOf x.1 with | some (k, i) => s.routed k i v | none => false))) * 2 ^ g) 0

/-- R471: STALL_IRQ of stall n: the OR of the summaries of the pages whose OWNER is the stall. -/
def State.stallIrq (s : State) (n : Nat) : Bool :=
  s.regs.any (fun x => decide (x.1 % 4096 = 0x010) && s.summary (x.1 - 0x010) &&
    (match pageOf x.1 with | some (k, i) => decide (s.pageOwner k i = .stall n) | none => false))

end Sys2Proof.Machine
end

