-- ==== Sys2Proof/Machine/Reset.lean ====
section
/-! DEFINITION. Resets and the start sequence (R416, R417, R476), the start bundle (R257), losses of references, clocks and rails (R412–R414,
R479) and the thermal outputs (R486). -/

namespace Sys2Proof.Machine

/-! ### The reset itself (R416) -/

/-- RST_CAUSE: POWER. -/
def causePOWER : Nat := 0
/-- RST_CAUSE: SYS_RST_N. -/
def causeSYS_RST : Nat := 1
/-- RST_CAUSE: RIVERBED. (DEDUCED, assumption 157) -/
def causeRIVERBED : Nat := 2
/-- RST_CAUSE: REF_RETURN. -/
def causeREF_RETURN : Nat := 3
/-- RST_CAUSE: FIXED_LOST. -/
def causeFIXED_LOST : Nat := 4

/-- R416: every die and every page reset. What stays is the fuses, with the repair entries among them (R388), the TAPs, whose supply is VCC_AUX, and the
thermal and rail monitors; `power` says that the supplies were removed (R486). (DEDUCED, assumption 160; DESIGN CHOICE, assumption 161) -/
def State.resetAll (s : State) (cause : Nat) (power : Bool) : State :=
  let fused := s.d2d.repair.filter (fun e => !e.sram)
  let c : Clk := if power then Clk.reset else { Clk.reset with ioLost := s.clk.ioLost, alert := s.clk.alert, trip := s.clk.trip }
  let s1 : State := { State.reset with
    pending := s.pending
    otp := s.otp
    clk := c
    d2d := { D2D.reset with repair := fused, taps := if power then [] else s.d2d.taps }
    out := s.out
    fresh := s.fresh }
  (s1.wr32 (rRST_CAUSE 0) cause).fset (rREPAIR_STAT 0) fREPAIR_STAT_USED (min 2048 fused.length)

/-! ### The steps of the start sequence (Table CLK-6) -/

/-- R436: the straps are sampled, and TOL_INFO and TREE_STAT show the role (Table TMC-3, R301). (DEDUCED, assumption 158) -/
def State.takeStraps (s : State) (pads : Nat) : State :=
  let sel := pads % 4
  let role := if sel = 3 then 0 else sel
  let s1 := (s.wr64 (rMGPIO_IN 0) (pads % 2 ^ 64)).wr32 (rSTRAP 0) (pads % 2 ^ 5)
  let s2 := (s1.fset (rTOL_INFO 0) fTOL_INFO_ROLE role).fset (rTOL_INFO 0) fTOL_INFO_ADMIN (if role = 2 then 4 else s.otp.adminPort % 4)
  s2.fset (rTREE_STAT 0) fTREE_STAT_ROLE (if role = 1 then 1 else if role = 2 then 4 else 0)

/-- Step 4: the dies are identified (R21); a die that does not answer is ABSENT. -/
def State.identify (s : State) (dies : List (Nat × Nat × Nat)) : State :=
  (List.range 17).foldl (fun t d =>
    match dies.find? (fun x => x.1 = d) with
    | some x => t.wr32 (rPKG_DIE_INFO 0 d) (dieInfo d x.2.1 x.2.2)
    | none => if d < 12 then (t.fset (rDIE_STATE 0 d) fDIE_STATE_STATE 3).wr32 (rPKG_DIE_INFO 0 d) 0 else t.wr32 (rPKG_DIE_INFO 0 d) 0) s

/-- Step 4: the fords that answered are admitted or not (R390). -/
def State.admitFords (s : State) (env : StartEnv) : State :=
  (List.range 4).foldl (fun t f =>
    if t.dieState (8 + f) ≠ 0 then t
    else if !env.fords.contains f then t.fordRefused f (t.fget (rPKG_DIE_INFO 0 (8 + f)) fPKG_DIE_INFO_SUPPLIER)
    else if env.train.modules.contains (6 * f) then t.quarantine (8 + f) 6
    else t.trainFord f env.train) s

/-- Step 5: the bundles of every yard train (R381) and the repair entries are fused; an absent yard is cut off (R20, R189). -/
def State.trainYards (s : State) (env : TrainEnv) : State :=
  ((List.range 8).foldl (fun t y => if t.dieState y = 0 then t.trainYard y env else t.yardCut y) s).fuseAll

/-- Step 6: HBM training (R194): a port whose pseudo-channels fail, or whose stack is absent, is unreachable. -/
def State.trainHbm (s : State) (bad : List Nat) : State :=
  (List.range 64).foldl (fun t p =>
    if bad.contains p ∨ ¬ t.diePresent (12 + p / 16) then t.hbmIfError p else t.fset (rHBMP_STAT p) fHBMP_STAT_TRAINED 1) s

/-- Step 6: every lane of an admitted ford whose module is UP has been calibrated (R330, R331); a lane whose pair is absent waits for it (R325). -/
def State.calibrateLanes (s : State) (bad : List Nat) : State :=
  let s1 := (List.range 4).foldl (fun t f =>
    if t.dieState (8 + f) ≠ 0 then t
    else (List.range 6).foldl (fun u m =>
      if u.flag (rUCIE_MOD f m) fUCIE_MOD_UP then (moduleLanes f m).foldl (fun v l => (v.setStage l sgCAL).leaveCal l (!bad.contains l)) u
      else u) t) s
  (List.range 8).foldl (fun t k => if t.bit (rREF_STAT 0) k then t else t.laneRefLost (k % 4) (decide (k < 4))) s1

/-- R160, Table MIL-5: Tolmor gives the device's own endpoints (engine ports, memory, ports and itself) VALID = 1 and DEV = 1. -/
def State.deviceEndpoints (s : State) : State := (List.range (0x195 - 0xC0)).foldl (fun t i => t.wr32 (rEP_CFG (0xC0 + i)) (2 ^ 31 + 2 ^ 30)) s

/-! ### The start bundle (R257) -/

/-- The admin mailbox (Table TMC-3). -/
def State.adminBox (s : State) : Nat := s.fget (rTOL_INFO 0) fTOL_INFO_ADMIN

/-- A key slot loaded with keys that Tolmor derives from DEVICE_SEED (R204, R257). (DEDUCED, assumption 163) -/
def State.loadSeed (s : State) (k : Nat) (device : Bool) : State :=
  s.loadSlot k (Sys2Proof.Config.seedKey k 0) (Sys2Proof.Config.seedKey k 1) (Sys2Proof.Config.seedKey k 2) device

/-- R257: one image of the start bundle: its stall is created and the image loaded; or the code of its refusal. -/
def State.startLoad (s : State) (b : ButarIn) : Nat ⊕ State :=
  let n := b.fld 0x2C 4
  let es := (parseManifest false b.manifest).1
  if !b.headerOk true then .inl ccFORMAT
  else if s.stallState n ≠ stFREE ∨ ¬ s.claimOk es then .inl ccOWNER
  else
    let k := 127 - n
    let s1 := (s.createStall n s.adminBox es).loadSeed k false
    let s2 := s1.setTol { s1.tol with keyBox := smSet none s1.tol.keyBox k (some s.adminBox) }
    match s2.loadCheck n b 0 k true with
    | some code => .inl code
    | none =>
      let s3 := s2.loadBegin n b k
      match (s3.stall n).load with
      | none => .inl ccFORMAT
      | some r =>
        if (s3.routeRefusal n r.image r.sections).isSome then .inl ccROUTE
        else if !r.formed then .inl ccFORMAT
        else
          let s4 := s3.loadEnd n
          if (s4.stall n).bg.isSome then .inr s4 else .inl ccOWNER

/-- R257: the images in order; at a refusal every stall of the bundle is destroyed and the refusal logged with source IMAGE. (DEDUCED, assumption 162) -/
def State.startImages : List ButarIn → List Nat → State → State × List Nat
  | [], done, s => (s, done)
  | b :: bs, done, s =>
    let n := b.fld 0x2C 4
    match s.startLoad b with
    | .inr t => startImages bs (done ++ [n]) t
    | .inl code => ((done.foldl (fun t m => t.destroyAll m) s).logEvent 3 code n 0, [])

/-- R257: the start bundle is loaded, and its stalls are swapped together and released. (DEDUCED, assumptions 162, 163) -/
def State.startBundle (s : State) (l : List ButarIn) : State :=
  let r := State.startImages l [] s
  r.2.foldl (fun t n => t.swapAtStart n) r.1

/-! ### Start -/

/-- R266, R262: start is complete: Tolmor runs TRIPLE and its mailboxes accept, MBOX_MGR on a worker alone (R265). -/
def State.accept (s : State) : State :=
  (([0, 1, 2, 3, 5] ++ (if s.role = 2 then [4] else [])).foldl (fun (t : State) b => t.fset (rMB_STAT b) fMB_STAT_ACCEPTING 1) s).fset
    (rTOL_STAT 0) fTOL_STAT_MODE 0

/-- R417, Table CLK-6: the start sequence. With no reference pair present the device waits with no clock running (R414, R483). (DESIGN CHOICE, assumption 155; DEDUCED, assumption 159) -/
def State.start (s : State) (env : StartEnv) : State :=
  let ok := env.pairs % 2 ^ 8
  let s1 := (s.takeStraps env.pads).fset (rREF_STAT 0) fREF_STAT_OK ok
  match firstPair ok with
  | none => s1.setClk { s1.clk with dark := true }
  | some p =>
    let s2 := (s1.fset (rREF_STAT 0) fREF_STAT_FIXREF p).loadSeed 0 true
    let s3 := (((s2.identify env.dies).admitFords env).trainYards env.train).trainHbm env.badPorts
    let s4 := (s3.calibrateLanes env.badLanes).deviceEndpoints
    let s5 := if s4.role = 2 then s4.fset (rTIDE_STAT 0) fTIDE_STAT_SOURCE 0 else s4
    let s6 := if s5.fget (rSTRAP 0) fSTRAP_BOOT_SRC = 1 then s5.startBundle env.bundle else s5
    s6.accept

/-- DEVICE_RESET (R416, R417): a DEVICE reset with a cause of RST_CAUSE, and the start that follows it. (DESIGN CHOICE, assumption 155; DEDUCED, assumption 157) -/
def State.deviceReset (s : State) (cause : Nat) (env : StartEnv) : State := (s.resetAll cause false).start env

/-- POWER_GOOD (R476): every rail is in range: the POWER reset. -/
def State.powerGood (s : State) (env : StartEnv) : State := (s.resetAll causePOWER true).start env

/-! ### References and clocks (R412–R414) -/

/-- R414, R486: every isolation gate closes. -/
def State.closeGates (s : State) : State := (List.range 384).foldl (fun t sh => t.setGated sh true) s

/-- REFCLK_LOSS (R412, R325, R293, R400, R413, R414): pair k (0–3 HREF, 4–7 NREF) is lost. (DEDUCED, assumption 4) -/
def State.refLoss (s : State) (k : Nat) : State :=
  if 8 ≤ k ∨ ¬ s.bit (rREF_STAT 0) k then s
  else
    let s1 := (s.pairLoses k).laneRefLost (k % 4) (decide (k < 4))
    let s2 := if 4 ≤ k then s1.tidePairLost (k - 4) else s1
    if s2.clk.dark then s2.closeGates else s2

/-- REFCLK_PAIR_RETURN (R325, R293): pair k is present again. -/
def State.refPairReturn (s : State) (k : Nat) : State :=
  if 8 ≤ k ∨ s.bit (rREF_STAT 0) k then s
  else
    let s1 := (s.setBit (rREF_STAT 0) k true).laneRefReturns (k % 4) (decide (k < 4))
    if 4 ≤ k then s1.tidePairBack (k - 4) else s1

/-- REF_RETURN (R414): with no clock running, a pair has been present for 1 ms: a device reset. -/
def State.refReturn (s : State) (env : StartEnv) : State :=
  if s.clk.dark ∧ (firstPair (env.pairs % 2 ^ 8)).isSome then s.deviceReset causeREF_RETURN env else s

/-- R412: a fixed domain, numbered as Table CLK-2 numbers them (R415), stops. (DESIGN CHOICE, assumption 164) -/
def State.fixedLost (s : State) (d : Nat) (env : StartEnv) : State :=
  if 48 ≤ d then s
  else if 20 ≤ d ∧ d < 44 then s.quarantine ((d - 20) % 8) 3
  else if 44 ≤ d then s.quarantine (8 + (d - 44)) 2
  else s.deviceReset causeFIXED_LOST env

/-- CLOCK_LOSS (R411, R412): a detector flags a clock. -/
def State.clockLoss (s : State) (c : ClockLost) (env : StartEnv) : State :=
  match c with
  | .out y o => if y < 8 ∧ o < 32 ∧ s.outEnabled y o then s.outLost y o false else s
  | .dclk k => if k < 32 ∧ s.outEnabled 8 k then s.outLost 8 k false else s
  | .pll y i => if y < 8 ∧ i < 8 ∧ s.pllLocked y i then s.pllLost y i false else s
  | .gpll i => if i < 8 ∧ s.pllLocked 8 i then s.pllLost 8 i false else s
  | .fixed d => s.fixedLost d env
  | .yardRef y => if y < 8 then s.quarantine y 3 else s

/-! ### Rails and heat (R479, R486) -/

/-- RAIL_LOSS (R479, Table ELE-4): a rail is out of range; `back` says that VCCIO_b has returned instead. After VCC_AUX or VCC_RB the outputs are safe
until power-good. (DEDUCED, assumption 165; DESIGN CHOICE, assumption 166) -/
def State.railLoss (s : State) (r : Rail) (back : Bool) : State :=
  match r with
  | .core => if back then s else s.closeGates.setClk { s.clk with dark := true }
  | .yard y => if back ∨ 8 ≤ y then s else s.quarantine y 1
  | .ford f => if back ∨ 4 ≤ f then s else s.quarantine (8 + f) 1
  | .hbm k => if back ∨ 4 ≤ k then s else (List.range 16).foldl (fun t p => t.hbmIfError (16 * k + p)) s
  | .io b =>
    if 8 ≤ b ∨ s.clk.ioLost.testBit b = !back then s
    else if back then s.setClk { s.clk with ioLost := putBits s.clk.ioLost b 1 0 }
    else ((s.setClk { s.clk with ioLost := putBits s.clk.ioLost b 1 1 }).logEvent 7 (s.freeNat 8) (0x100 + b) 0).useFree

/-- THERM_TRIP (R486): a junction has reached 110 °C. (DEDUCED, assumption 165) -/
def State.thermTrip (s : State) : State := s.closeGates.setClk { s.clk with trip := true }

/-- THERM_ALERT (R486): THERM_ALERT_N is driven low or released. -/
def State.thermAlert (s : State) (hot : Bool) : State := s.setClk { s.clk with alert := hot }

end Sys2Proof.Machine
end

