-- ==== Sys2Proof/Machine/RegFile.lean ====
section
/-! DEFINITION. What a register reads as and what a write of it does: the access types (R7), the common header (R460–R466), and the registers whose
own rules say more, page by page. -/

namespace Sys2Proof.Machine

/-! ### Access types (R7) -/

/-- The bits of a register value that lie in fields whose access type `p` admits; reserved bits read 0. -/
def RegDef.keep (r : RegDef) (p : Acc → Bool) (v : Nat) : Nat :=
  r.fields.foldl (fun m f => if p f.acc then (⟨f.lo, f.hi + 1 - f.lo⟩ : Fld).set m ((⟨f.lo, f.hi + 1 - f.lo⟩ : Fld).get v) else m) 0

/-- What a read returns: every field but the WO ones. -/
def RegDef.shown (r : RegDef) (v : Nat) : Nat := r.keep (fun a => decide (a ≠ .wo)) v

/-- R8: the value after a read that clears the RC fields. -/
def RegDef.afterRead (r : RegDef) (v : Nat) : Nat := r.keep (fun a => decide (a ≠ .rc)) v

/-- Table SCP-4: the value after a write of `v` over `old`. -/
def RegDef.written (r : RegDef) (old v : Nat) : Nat :=
  r.fields.foldl (fun m f =>
    let g : Fld := ⟨f.lo, f.hi + 1 - f.lo⟩
    let o := g.get old
    let n := g.get v
    g.set m (match f.acc with
      | .rw => n
      | .w1c => o - Nat.land o n
      | .w1s => Nat.lor o n
      | _ => o)) 0

/-- Whether a register has RC fields. -/
def RegDef.hasRc (r : RegDef) : Bool := r.fields.any (fun f => decide (f.acc = .rc))

/-- The stored value of the register `r` at address `a`. -/
def State.regVal (s : State) (r : RegDef) (a : Nat) : Nat := if r.wide then s.rd64 a else s.rd32 a

/-- The register `r` at address `a` set. -/
def State.setReg (s : State) (r : RegDef) (a v : Nat) : State := if r.wide then s.wr64 a v else s.wr32 a v

/-- A write that follows the access types alone. -/
def State.plainWrite (s : State) (r : RegDef) (a v : Nat) : State := s.setReg r a (r.written (s.regVal r a) v)

/-! ### The common header (R460–R466) -/

/-- The IRQ_RAW bits that each chapter gives its pages; the others are reserved (R460). (DEDUCED, assumption 13) -/
def PageKind.irqMask : PageKind → Nat
  | .tideCtl => 7
  | .tallyCtl => 7
  | .dieCtl => 7
  | .tribCtl => 3
  | .treeCtl => 3
  | .mbox => 11
  | .tideAlarm => 1
  | .clkCtl => 15
  | .stall => 15
  | .tideStall => 1
  | .pinIrq => 0xFFFF
  | .shedMem => 3
  | .shedTrib => 3
  | .shedClk => 7
  | .wb => 3
  | .yardClk => 3
  | .yardScrub => 1
  | .pinBank => 3
  | .eddy => 15
  | .milRtr => 1
  | .milEp => 15
  | .sluiceCtl => 3
  | .hbmp => 15
  | .memCxl => 15
  | .pcieCtl => 3
  | .eth => 1
  | .skeja => 15
  | .ucie => 1
  | .lane => 15
  | .dbgSess => 7
  | .dbgRing => 1
  | .dbgEddy => 7
  | _ => 0

/-- A header register at offset `o` of the page at `p`, as a requester reads it. -/
def State.headerRead (s : State) (req : Req) (k : PageKind) (i p o : Nat) : Nat :=
  let stat := Nat.land (s.rd32 (rIRQ_RAW p)) (s.rd32 (rIRQ_EN p))
  if o = 0x00C then
    s.fget (rLOCK p) fLOCK_LOCKED * 8 + b2n (s.summary p) * 4 + b2n (decide (stat ≠ 0)) * 2 + s.fget (rERR_FIRST p) fERR_FIRST_VALID
  else if o = 0x01C then stat
  else if o = 0x028 then s.ownerRead req k i
  else if o = 0x018 then 0
  else s.rd32 (p + o)

/-- A write of `v` to the header register at offset `o` (R460, R461, R464–R466). (DEDUCED, assumptions 12, 13) -/
def State.headerWrite (s : State) (k : PageKind) (r : RegDef) (p o v : Nat) : State :=
  if o = 0x008 then
    let s1 := s.fset (rPAGE_CTRL p) fPAGE_CTRL_ENABLE (fPAGE_CTRL_ENABLE.get v)
    if fPAGE_CTRL_SOFT_RST.get v = 1 then (((s1.wr32 (rIRQ_RAW p) 0).wr32 (rIRQ_EN p) 0).wr32 (rERR_FIRST p) 0).wr32 (rERR_COUNT p) 0 else s1
  else if o = 0x018 then s.wr32 (rIRQ_RAW p) (Nat.lor (s.rd32 (rIRQ_RAW p)) (Nat.land v (k.irqMask + 2 ^ 31)))
  else if o = 0x020 then (if fERR_FIRST_VALID.get v = 1 then s.wr32 (rERR_FIRST p) 0 else s)
  else s.plainWrite r (p + o) v

/-! ### Registers that read as more than what is stored -/

/-- The value of the body register `r` at offset `e` of the page. (DEDUCED, assumption 74) -/
def State.bodyRead (s : State) (req : Req) (k : PageKind) (i p : Nat) (r : RegDef) (e upset : Nat) : Nat :=
  let raw := s.regVal r (p + e)
  match k with
  | .tideCtl => if e = 0x040 then s.tide.now % 2 ^ 64 else r.shown raw
  | .tideStall => if e = 0x048 then s.tide.now % 2 ^ 64 else r.shown raw
  | .tribCtl => if e = 0x054 then s.tribQueryOwner else if e = 0x058 then s.tribQueryEff else r.shown raw
  | .mbox =>
    if e = 0x044 then s.mbStat i
    else if 0x050 ≤ e ∧ e < 0x060 then s.mbCpl i ((e - 0x050) / 4)
    else r.shown raw
  | .stall =>
    if e = 0x040 then fSTALL_STAT_BG_SAVED.set (fSTALL_STAT_BG_READY.set raw (b2n (s.bgReady i && decide (s.stallState i ≠ stFREE)))) (b2n (s.bgSaved i)) else r.shown raw
  | .mgpio =>
    if e = 0x040 ∨ e = 0x048 then s.mgpioRead (p + e) 0 + s.mgpioRead (p + e + 4) 1 * 2 ^ 32 else r.shown raw
  | .irqAgg =>
    if e = 0x040 then Nat.lor (r.shown raw) (b2n (decide (s.adminView = i)) * 2)
    else if e = 0x044 then raw / 2 ^ 31 * 2 ^ 31 + (s.aggQueue i).length
    else if e = 0x048 then (match s.aggQueue i with | [] => 0 | x :: _ => 2 ^ 31 + x % 2 ^ 16)
    else if e = 0x050 then s.aggGroups i
    else r.shown raw
  | .shedClk => if e = 0x054 then s.spineCfg i else r.shown raw
  | .yardClk => if e = 0x100 then s.pllStat i else r.shown raw
  | .pinBank => if e = 0x070 then r.shown raw else s.bankRead req i e
  | .eddy =>
    if e = 0x054 then s.eddyStat i else if e = 0x060 then s.wdogCnt i else if e = 0x068 then s.memDataValue i upset else r.shown raw
  | .eddyIo =>
    if e = 0x044 then s.streamStat i else if 0x070 ≤ e ∧ e < 0x090 then s.capOut i ((e - 0x070) / 4) else r.shown raw
  | .milEp => if e = 0x044 then s.epqStat i else if e = 0x048 then s.epOutstanding i else r.shown raw
  | .milEpcfg => if 0x100 ≤ e ∧ ¬ isEnginePort i then 0 else r.shown raw
  | .pcieHost => if e = 0x048 then s.fnAssignRead i else if e = 0x04C then s.ltrSent i else r.shown raw
  | .dbgSess => if e = 0x07C then s.capData i else r.shown raw
  | .dbgRing => if 0x050 ≤ e then s.ringData i ((e - 0x050) / 4) else r.shown raw
  | .dbgEddy => if e = 0x04C then s.dbgDataValue i else r.shown raw
  | _ => r.shown raw

/-- What a read of the register does (R8): RC fields clear, and a memory word's error is noted (R137). (DESIGN CHOICE, assumption 184) -/
def State.readEffect (s : State) (req : Req) (k : PageKind) (i p : Nat) (r : RegDef) (e upset : Nat) : State :=
  let s1 := if r.hasRc then s.setReg r (p + e) (r.afterRead (s.regVal r (p + e))) else s
  if k = .eddy ∧ e = 0x068 then s1.memDataRead req i upset
  else if k = .dbgEddy ∧ e = 0x04C ∧ ¬ (s.eddy i).inspectable then s1.useFree
  else s1

/-! ### Registers whose writes do more than set fields -/

/-- RING (R272), which also wakes the device (R420). (DEDUCED, assumption 22) -/
def State.ringWake (s : State) (req : Req) (b : Nat) : State :=
  if s.flag (rMB_STAT b) fMB_STAT_ACCEPTING && !s.flag (rMB_STAT b) fMB_STAT_BUSY then (s.ring req b).wake else s.ring req b

/-- Page CLK_CTL. -/
def State.clkCtlWrite (s : State) (req : Req) (r : RegDef) (a e v : Nat) : State :=
  if e = 0x044 then s.clearLost a v (Nat.land (s.rd32 a) (255 - s.rd32 (rREF_STAT 0) % 256))
  else if e = 0x180 then
    s.clearLost a v (Nat.land (s.rd32 a) ((List.range 32).foldl (fun m o => m + b2n (s.outEnabled 8 o && !s.outRuns 8 o) * 2 ^ o) 0))
  else if e = 0x1C0 then s.fmeasWrite req v
  else if 0x080 ≤ e ∧ e < 0x180 then
    (if e % 0x20 = 0 then s.pllCfgWrite req 8 ((e - 0x080) / 0x20) v else s.pllOutWrite req 8 ((e - 0x080) / 0x20) (e % 0x20 / 4 - 1) v)
  else s.plainWrite r a v

/-- Page YARD_CLK_y. -/
def State.yardClkWrite (s : State) (req : Req) (y : Nat) (r : RegDef) (a e v : Nat) : State :=
  if e = 0x104 then
    s.clearLost a v (Nat.land (s.rd32 a) ((List.range 32).foldl (fun m o => m + b2n (s.outEnabled y o && !s.outRuns y o) * 2 ^ o) 0))
  else if 0x040 ≤ e ∧ e < 0x060 then s.pllCfgWrite req y ((e - 0x040) / 4) v
  else if 0x080 ≤ e ∧ e < 0x100 then s.pllOutWrite req y ((e - 0x080) / 0x10) (e % 0x10 / 4) v
  else s.plainWrite r a v

/-- Page SHED_CLK_y_s. -/
def State.shedClkWrite (s : State) (sh : Nat) (r : RegDef) (a e v : Nat) : State :=
  if e = 0x040 then s.spineSelWrite sh v
  else if e = 0x048 then s.spineCmd sh v
  else if e = 0x050 then s.clearLost a (v % 2 ^ 16) (Nat.land (s.rd32 a % 2 ^ 16) (s.spinesDown sh))
  else s.plainWrite r a v

/-- R126: EDDY_CFG, writable while the engine is stopped. -/
def State.eddyCfgWrite (s : State) (req : Req) (n : Nat) (r : RegDef) (a v : Nat) : State :=
  if (s.eddy n).isStopped then s.plainWrite r a v else s.refuse req a causeRule

/-- EPQ_CTL (R179–R181): the cut-through settings, and the commands; DROP_REST acts before FLUSH. -/
def State.epqCtlWrite (s : State) (e : Nat) (r : RegDef) (a v : Nat) : State :=
  let s1 := s.plainWrite r a v
  let s2 := if fEPQ_CTL_DROP_REST_IN.get v = 1 then s1.dropRestIn e else s1
  let s3 := if fEPQ_CTL_DROP_REST_OUT.get v = 1 then s2.dropRestOut e else s2
  let s4 := if fEPQ_CTL_FLUSH_IN.get v = 1 then s3.flushIn e else s3
  if fEPQ_CTL_FLUSH_OUT.get v = 1 then s4.flushOut e else s4

/-- The registers of region i (R195): RGN_CFG, RGN_MAP, CXL_SIZE and CXL_BASE change in FREE alone, else the write is ignored and counted; KEY_CUR
and SALT change in FREE, KEY_NEXT in READY. (DESIGN CHOICE, assumption 18; DEDUCED, assumption 19) -/
def State.rgnWrite (s : State) (req : Req) (port i : Nat) (r : RegDef) (a sub v : Nat) : State :=
  let free := decide (s.rgnState port i = 0)
  let new := r.written (s.regVal r a) v
  if sub = 0x14 then s.rgnCmd req port i v
  else if sub = 0x08 then
    let cur := s.rd32 a
    let s1 := if free then s.fset a fRGN_KEY_KEY_CUR (fRGN_KEY_KEY_CUR.get v) else s
    if s.rgnState port i = 2 then s1.fset a fRGN_KEY_KEY_NEXT (fRGN_KEY_KEY_NEXT.get v) else s1.fset a fRGN_KEY_KEY_NEXT (fRGN_KEY_KEY_NEXT.get cur)
  else if sub = 0x10 then (if free then s.plainWrite r a v else s)
  else if new = s.regVal r a then s
  else if free && (s.plainWrite r a v).rgnConditions port i then s.plainWrite r a v
  else s.refuse req a causeRule

/-- A memory port's page. -/
def State.memPageWrite (s : State) (req : Req) (port : Nat) (r : RegDef) (a e v : Nat) : State :=
  if e < 0x100 then s.plainWrite r a v else s.rgnWrite req port ((e - 0x100) / 0x20) r a ((e - 0x100) % 0x20) v

/-- The register of a window that a page offset names: 0 SRC, 1 CFG, 2 TGT, 3 DST. -/
def winPart (o : Nat) : Nat := if o = 0 then 0 else if o = 0x08 then 1 else if o = 0x0C then 2 else 3

/-- R419: the tolerances of the ports in the endpoint role with their link up. -/
def State.hostTolerances (s : State) : List Nat :=
  ((List.range 4).filter (fun n => s.pcieUp n && !s.isRoot n)).map (fun n => s.fget (rPCIE_LTOL n) fPCIE_LTOL_US)

/-- Table CLK-7: the effects of SLEEP on the lanes: every lane not assigned PCIE enters OFF, and its link goes down. They are not applied under
PWR_EMU (R456). (DEDUCED, assumption 23) -/
def State.sleepLanes (s : State) : State :=
  if s.powerState ≠ 3 ∨ s.pwrEmu then s
  else
    let s1 := (List.range 8).foldl (fun t k => (t.linkDown (.eth k)).linkDown (.skeja k)) s
    (List.range 160).foldl (fun t l => if t.laneProto l ≠ prPCIE ∧ t.stage l ≠ sgCAL then t.setStage l sgOFF else t) s1

/-- R420: the lanes that SLEEP turned off begin bring-up again. -/
def State.wakeLanes (s : State) : State :=
  (List.range 4).foldl (fun t f =>
    if t.dieState (8 + f) ≠ 0 then t
    else (List.range 6).foldl (fun u m =>
      if u.flag (rUCIE_MOD f m) fUCIE_MOD_UP then
        (moduleLanes f m).foldl (fun w l =>
          if w.stage l = sgOFF ∧ 2 ≤ w.laneProto l ∧ ¬ w.flag (rLANE_STAT l) fLANE_STAT_REF_LOST ∧ ¬ w.flag (rLANE_STAT l) fLANE_STAT_CAL_FAIL then
            w.laneBegin l
          else w) u
      else u) t) s

/-- POWER_STATE_EVAL (R419, R418): Tolmor chooses and enters a state, with its effects. (DEDUCED, assumption 23) -/
def State.powerStateEval (s : State) : State := (s.powerEval (s.tolerance s.hostTolerances)).sleepLanes

/-- EXIT_COMPLETE (R420) with the end of SLEEP's effects. -/
def State.powerExit (s : State) : State :=
  let t := s.exitComplete
  if s.powerState = 3 ∧ t.powerState < 3 then t.wakeLanes else t

/-- LANE_CFG (R330, R332, R333): the link of the lane's group goes down where LOOP changes in ALIGN or UP. -/
def State.laneCfg (s : State) (l v : Nat) : State :=
  let s1 := if s.loopDropsLink l v then (match s.laneLink l with | some k => s.linkDown k | none => s) else s
  s1.laneCfgWrite l v

/-- DBG_GRANT (R442, R456): PWR_EMU is writable at LEVEL 3 alone; END ends the grant. -/
def State.grantWrite (s : State) (req : Req) (v w : Nat) : State :=
  let a := rDBG_GRANT v
  let s1 :=
    if fDBG_GRANT_PWR_EMU.get w = s.fget a fDBG_GRANT_PWR_EMU then s
    else if s.grantLevel v = 3 then s.fset a fDBG_GRANT_PWR_EMU (fDBG_GRANT_PWR_EMU.get w)
    else if fDBG_GRANT_PWR_EMU.get w = 1 then s.refuse req a causeRule
    else s
  if fDBG_GRANT_END.get w = 1 then s1.endGrant v else s1

/-- A write of `v` to the body register `r` at offset `e` of the page of kind `k` and instance `i` at `p`. (DEDUCED, assumption 20) -/
def State.bodyWrite (s : State) (req : Req) (k : PageKind) (i p : Nat) (r : RegDef) (e v upset : Nat) : State :=
  let a := p + e
  match k with
  | .tideCtl => if e = 0x054 then s.tideCfgWrite v else s.plainWrite r a v
  | .mbox =>
    if e = 0x040 then (if v.testBit 0 then s.ringWake req i else s)
    else if e = 0x048 then (if v.testBit 0 then s.cplPop i else s)
    else if 0x100 ≤ e then s.mbCmdWrite req i ((e - 0x100) / 4) v
    else s
  | .clkCtl => s.clkCtlWrite req r a e v
  | .yardClk => s.yardClkWrite req i r a e v
  | .shedClk => s.shedClkWrite i r a e v
  | .tideStall =>
    if e = 0x040 then s.stallAlarmWrite req i v else if 0x080 ≤ e then s.stallAlarmT req i ((e - 0x080) / 8) v else s
  | .mgpio =>
    if e = 0x040 ∨ e = 0x048 then (s.mgpioWrite a 0 (v % 2 ^ 32)).mgpioWrite (a + 4) 1 (v / 2 ^ 32) else s
  | .irqAgg =>
    if e = 0x044 then (s.plainWrite r a v).aggSettle i
    else if e = 0x04C then (if v.testBit 0 then s.aggPop i else s)
    else s.plainWrite r a v
  | .pinBank =>
    if 0x100 ≤ e then s.pinCfgWrite req (48 * i + (e - 0x100) / 4) v else s.gpioWrite req i e v
  | .eddy =>
    if e = 0x040 then s.eddyCfgWrite req i r a v
    else if e = 0x044 then (if fEDDY_EXC_VALID.get v = 1 then (s.wr32 (rEDDY_EXC i) 0).wr32 (rEDDY_EXC_INFO i) 0 else s)
    else if e = 0x050 then s.eddyRun req i v
    else if e = 0x068 then s.memDataWrite req i v upset
    else s.plainWrite r a v
  | .eddyIo =>
    if e = 0x040 then s.streamCtl req i v
    else if 0x050 ≤ e ∧ e < 0x070 then s.stimWrite req i ((e - 0x050) / 4) v
    else s
  | .milEp => if e = 0x040 then s.epqCtlWrite i r a v else s
  | .milEpcfg => if 0x100 ≤ e ∧ ¬ isEnginePort i then s else s.plainWrite r a v
  | .sluiceCtl => if e = 0x040 then (s.plainWrite r a v).wearWarnWritten else s
  | .hbmp => s.memPageWrite req i r a e v
  | .memCxl => s.memPageWrite req (64 + i) r a e v
  | .pcieCtl =>
    if e = 0x044 then s.rpOwnerWrite i v
    else if 0x080 ≤ e ∧ e < 0x0C0 then s.fnLayoutWrite req i ((e - 0x080) / 4) v
    else if 0x100 ≤ e then s.winWrite req true i ((e - 0x100) / 0x20) (winPart ((e - 0x100) % 0x20)) v
    else s
  | .pcieHost =>
    if e = 0x040 then (s.plainWrite r a v).powerStateEval
    else if e = 0x048 then s.fnAssignWrite req i v
    else if 0x800 ≤ e then s.winWrite req false i ((e - 0x800) / 0x20) (winPart ((e - 0x800) % 0x20)) v
    else s.plainWrite r a v
  | .eth =>
    if e = 0x040 then s.ethCfgWrite i v
    else if 0x100 ≤ e ∧ e % 0x10 = 0 then s.stnCfgWrite req i ((e - 0x100) / 0x10) v
    else s.plainWrite r a v
  | .skeja => if e = 0x044 then s.skjUdpWrite i v else s.plainWrite r a v
  | .lane =>
    if e = 0x040 then s.laneCfg i v
    else if e = 0x050 then s.fabCfgWrite i v
    else if e = 0x054 then s.txEqWrite req i v
    else if e = 0x060 then s.prbsCtlWrite i v
    else s.plainWrite r a v
  | .dbgSess =>
    if e = 0x040 then s.grantWrite req i v
    else if e = 0x070 then s.capCtlWrite i v
    else s.plainWrite r a v
  | .dbgRing => if e = 0x040 then s.ringCtlWrite req i v else s.plainWrite r a v
  | .dbgEddy =>
    if e = 0x040 then s.dbgCmd req i v
    else if e = 0x04C then s.dbgDataWrite req i v
    else if 0x080 ≤ e ∧ (e - 0x080) % 0x20 = 0 then s.wpCfgWrite req i ((e - 0x080) / 0x20) v
    else s.plainWrite r a v
  | _ => s.plainWrite r a v

end Sys2Proof.Machine
end

