-- ==== Sys2Proof/Machine/RegAccess.lean ====
section
/-! DEFINITION. Register accesses: widths (R5, R6), refusals (R461, R466, R468), the stall window (R470), debug peeks and pokes (R444, R445), the
JTAG path (R457) and register agents (R163, R164). -/

namespace Sys2Proof.Machine

/-! ### Views (R6) -/

/-- A requester's number in `views`. -/
def viewNo : Req → Nat
  | .tolmor => 0
  | .host n => 1 + n
  | .mgr => 5
  | .jtag => 6
  | .stall n => 7 + n
  | .dbgDevice => 39
  | .dbgStall n => 40 + n

/-- The key of what a view holds of the page at base `p`. -/
def viewKey (req : Req) (p : Nat) : Nat := 65536 * viewNo req + p / 4096

/-- What a view holds of a page. -/
def State.viewBuf (s : State) (req : Req) (p : Nat) : ViewBuf := smGet ViewBuf.empty s.views (viewKey req p)

/-- What a view holds of a page replaced. -/
def State.setViewBuf (s : State) (req : Req) (p : Nat) (b : ViewBuf) : State := { s with views := smSet ViewBuf.empty s.views (viewKey req p) b }

/-! ### One page -/

/-- A page as an access reaches it: its kind, instance and base address. -/
structure PageRef where
  kind : PageKind
  inst : Nat
  base : Nat
  deriving DecidableEq, Repr

/-- The whole register `r` at offset `e` read, with the effects of a read. -/
def State.readWhole (s : State) (req : Req) (g : PageRef) (r : RegDef) (e upset : Nat) : State × Nat :=
  if e < 0x040 then (s.readEffect req g.kind g.inst g.base r e upset, s.headerRead req g.kind g.inst g.base e)
  else (s.readEffect req g.kind g.inst g.base r e upset, s.bodyRead req g.kind g.inst g.base r e upset)

/-- The whole register `r` at offset `e` written. -/
def State.writeWhole (s : State) (req : Req) (g : PageRef) (r : RegDef) (e v upset : Nat) : State :=
  if e < 0x040 then s.headerWrite g.kind r g.base e v else s.bodyWrite req g.kind g.inst g.base r e v upset

/-- A 32-bit read at page offset `o` (R6): the low word of a 64-bit register captures it, and the next read of its high word returns the capture. -/
def State.readWord (s : State) (req : Req) (g : PageRef) (o upset : Nat) : State × Nat :=
  let buf := s.viewBuf req g.base
  let s1 := s.setViewBuf req g.base ViewBuf.empty
  if !s.readsFull req g.kind g.inst o then (s1, 0)
  else match findReg o g.kind.regs with
    | none => (s1, 0)
    | some (r, e) =>
      if !r.wide then s1.readWhole req g r e upset
      else if o = e then
        let x := s1.readWhole req g r e upset
        (x.1.setViewBuf req g.base ⟨some (e, x.2 / 2 ^ 32 % 2 ^ 32), none⟩, x.2 % 2 ^ 32)
      else
        match buf.capture with
        | some (e', hi) => if e' = e then (s1, hi) else let x := s1.readWhole req g r e upset; (x.1, x.2 / 2 ^ 32 % 2 ^ 32)
        | none => let x := s1.readWhole req g r e upset; (x.1, x.2 / 2 ^ 32 % 2 ^ 32)

/-- The refusal of a write at page offset `o`, if it is refused before the register's own rule: NOT_OWNER, LOCKED (R466), or WIDTH (R5). -/
def State.writeRefusal (s : State) (req : Req) (g : PageRef) (o size : Nat) : Option Nat :=
  if !s.mayWrite req g.kind g.inst o then some causeNotOwner
  else if 0x040 ≤ o ∧ s.flag (rLOCK g.base) fLOCK_LOCKED ∧ req ≠ .tolmor then some causeLocked
  else if size < 4 then some causeWidth
  else none

/-- A 32-bit write at page offset `o` (R6): the low word of a 64-bit register that can be written is staged, and a write of the high word
commits both. -/
def State.writeWord (s : State) (req : Req) (g : PageRef) (o v upset : Nat) : State :=
  let buf := s.viewBuf req g.base
  let s1 := s.setViewBuf req g.base ViewBuf.empty
  match s1.writeRefusal req g o 4 with
  | some c => s1.refuse req (g.base + o) c
  | none =>
    match findReg o g.kind.regs with
    | none => s1
    | some (r, e) =>
      if !r.wide then s1.writeWhole req g r e v upset
      else if o = e then
        if r.fields.any (fun f => decide (f.acc = .rw)) then s1.setViewBuf req g.base ⟨none, some (e, v)⟩ else s1
      else
        let low := match buf.staged with
          | some (e', w) => if e' = e then w else s1.regVal r (g.base + e) % 2 ^ 32
          | none => s1.regVal r (g.base + e) % 2 ^ 32
        s1.writeWhole req g r e (low + v * 2 ^ 32) upset

/-- The bytes of a word that a narrow access addresses, in place. -/
def narrowMask (a size : Nat) : Nat := (2 ^ (8 * size) - 1) * 2 ^ (8 * (a % 4))

/-- A naturally aligned read of `size` bytes at page offset `o` (R5, R6, R8). -/
def State.pageRead (s : State) (req : Req) (g : PageRef) (o size upset : Nat) : State × Nat :=
  if size = 8 then
    match findReg o g.kind.regs with
    | some (r, e) =>
      if r.wide ∧ o = e then
        let s1 := s.setViewBuf req g.base ViewBuf.empty
        if s.readsFull req g.kind g.inst o then s1.readWhole req g r e upset else (s1, 0)
      else
        let x := s.readWord req g o upset
        let y := x.1.readWord req g (o + 4) upset
        (y.1, x.2 + y.2 * 2 ^ 32)
    | none =>
      let x := s.readWord req g o upset
      let y := x.1.readWord req g (o + 4) upset
      (y.1, x.2 + y.2 * 2 ^ 32)
  else if size = 4 then s.readWord req g o upset
  else
    let w := o / 4 * 4
    let s1 := s.setViewBuf req g.base ViewBuf.empty
    if !s.readsFull req g.kind g.inst w then (s1, 0)
    else match findReg w g.kind.regs with
      | none => (s1, 0)
      | some (r, e) =>
        let x := s1.readWhole req g r e upset
        (x.1, Nat.land (x.2 / 2 ^ (8 * (w - e)) % 2 ^ 32) (narrowMask o size))

/-- A naturally aligned write of `size` bytes at page offset `o` (R5, R6). -/
def State.pageWrite (s : State) (req : Req) (g : PageRef) (o size v upset : Nat) : State :=
  if size = 8 then
    match findReg o g.kind.regs with
    | some (r, e) =>
      if r.wide ∧ o = e then
        let s1 := s.setViewBuf req g.base ViewBuf.empty
        match s1.writeRefusal req g o 8 with
        | some c => s1.refuse req (g.base + o) c
        | none => s1.writeWhole req g r e v upset
      else (s.writeWord req g o (v % 2 ^ 32) upset).writeWord req g (o + 4) (v / 2 ^ 32) upset
    | none => (s.writeWord req g o (v % 2 ^ 32) upset).writeWord req g (o + 4) (v / 2 ^ 32) upset
  else if size = 4 then s.writeWord req g o v upset
  else
    let s1 := s.setViewBuf req g.base ViewBuf.empty
    s1.refuse req (g.base + o) ((s1.writeRefusal req g (o / 4 * 4) size).getD causeWidth)

/-! ### The register space (R3, R20, R470) -/

/-- How a register access completes. -/
inductive RegEnd where
  | ok
  | unreachable
  | err
  deriving DecidableEq, Repr

/-- Whether the die that holds a page runs (R20). -/
def State.holderRuns (s : State) : Holder → Bool
  | .riverbed => true
  | .yard y => decide (s.dieState y = 0)
  | .ford f => decide (s.dieState (8 + f) = 0)

/-- R20, R386: whether an access reaches the page that holds an address: its die runs and, for an engine's pages, the engine port that
serves them is not unreachable. (DESIGN CHOICE, assumption 10) -/
def State.pageReached (s : State) (a : Nat) : Bool :=
  s.holderRuns (holderOf a) && !(isEnginePort (agentOf a) && s.unreachable (agentOf a))

/-- An access: a read, or a write of a value. -/
abbrev Access := Option Nat

/-- An access to a page that is served. -/
def State.serveReg (s : State) (req : Req) (g : PageRef) (o size : Nat) (w : Access) (upset : Nat) : State × RegEnd × Nat :=
  match w with
  | some v => (s.pageWrite req g o size v upset, .ok, 0)
  | none => let x := s.pageRead req g o size upset; (x.1, .ok, x.2)

/-- R470: an access of stall n to the page that holds device address `a`, which a window address names. -/
def State.windowAt (s : State) (req : Req) (n a size : Nat) (w : Access) (upset : Nat) : State × RegEnd × Nat :=
  match pageOf a with
  | none => (s, .ok, 0)
  | some (k, i) =>
    if !s.windowServes n k i then (s, .ok, 0)
    else if !s.pageReached a then
      (if k = .pinBank ∧ ¬ s.claimsPinOf n i then (s, .ok, 0) else (s, .unreachable, 0))
    else s.serveReg req ⟨k, i, a / 4096 * 4096⟩ (a % 4096) size w upset

/-- R470: a window access of stall n. (DESIGN CHOICE, assumption 61) -/
def State.windowAccess (s : State) (req : Req) (n addr size : Nat) (w : Access) (upset : Nat) : State × RegEnd × Nat :=
  match windowTarget n addr with
  | none => (s, .ok, 0)
  | some a => s.windowAt req n a size w upset

/-- A register access: the state after it, how it completes, and the data of a read. An access that is not naturally aligned, or of another
width than 1, 2, 4 or 8 bytes, reads 0 and does nothing. (DEDUCED, assumption 9) -/
def State.plainAccess (s : State) (req : Req) (addr size : Nat) (w : Access) (upset : Nat) : State × RegEnd × Nat :=
  if ¬ [1, 2, 4, 8].contains size ∨ addr % size ≠ 0 then (s, .ok, 0)
  else if inWindow addr then
    match req with
    | .stall n => s.windowAccess req n addr size w upset
    | .dbgStall n => s.windowAccess req n addr size w upset
    | .jtag => (s, .err, 0)
    | _ => (s, .ok, 0)
  else match req with
    | .stall _ => (s, .ok, 0)
    | _ =>
      match pageOf addr with
      | none => (s, (if req = .jtag then .err else if s.pageReached addr then .ok else .unreachable), 0)
      | some (k, i) =>
        if req = .jtag ∧ ¬ s.jtagReaches k i then (s, .err, 0)
        else if !s.pageReached addr then (s, .unreachable, 0)
        else s.serveReg req ⟨k, i, addr / 4096 * 4096⟩ (addr % 4096) size w upset

/-! ### Peeks and pokes (R444, R445) -/

/-- R444: the subject of a debug access of view v to an address, if the grant allows it: DEVICE at LEVEL 3; below it, a named stall that the page's
OWNER follows, or whose window is named with the stall number in DBG_ACC_CTL. -/
def State.accSubject (s : State) (v addr stall : Nat) : Option Req :=
  let l := s.grantLevel v
  let named := s.rd32 (rDBG_STALLS v)
  if l = 3 then some .dbgDevice
  else if l = 0 then none
  else if inWindow addr then (if named.testBit stall then some (.dbgStall stall) else none)
  else match pageOf addr with
    | none => none
    | some (k, i) => match s.pageOwner k i with
      | .stall n => if named.testBit n then some (.dbgStall n) else none
      | _ => none

/-- DBG_ACC_CTL.GO of view v (R444, R445): the access runs at once; IRQ_RAW[2] sets at its end. A peek changes nothing but the session's own
registers; a poke needs LEVEL 2. (DESIGN CHOICE, assumption 15) -/
def State.accGo (s : State) (v : Nat) : State :=
  let ctl := s.rd32 (rDBG_ACC_CTL v)
  let addr := s.rd32 (rDBG_ACC_ADDR v)
  let write := decide (fDBG_ACC_CTL_WRITE.get ctl = 1)
  let ends := fun (t : State) (res : Nat) => (t.fset (rDBG_ACC_CTL v) fDBG_ACC_CTL_RESULT res).irq (PageKind.dbgSess.addr v) 2
  match s.accSubject v addr (fDBG_ACC_CTL_STALL.get ctl) with
  | none => ends s 1
  | some sub =>
    if write && decide (s.grantLevel v < 2) then ends s 1
    else
      let x := s.plainAccess sub addr 4 (if write then some (s.rd32 (rDBG_ACC_DATA v)) else none) 0
      match x.2.1 with
      | .unreachable => ends s 2
      | .err => ends s 1
      | .ok =>
        if write then ends x.1 0
        else ends (({ s with fresh := x.1.fresh } : State).wr32 (rDBG_ACC_DATA v) x.2.2) 0

/-- Whether a write of `v` at an address by a requester starts an access of its debug session. -/
def State.startsAcc (s : State) (req : Req) (addr size : Nat) (w : Access) : Option Nat :=
  match req.view, w with
  | some v, some x =>
    if addr = rDBG_ACC_CTL v ∧ 4 ≤ size ∧ fDBG_ACC_CTL_GO.get x = 1 ∧ ¬ s.flag (rLOCK (PageKind.dbgSess.addr v)) fLOCK_LOCKED then some v else none
  | _, _ => none

/-- A register access with what it starts. (DESIGN CHOICE, assumption 10) -/
def State.regAccess (s : State) (req : Req) (addr size : Nat) (w : Access) (upset : Nat) : State × RegEnd × Nat :=
  let x := s.plainAccess req addr size w upset
  match s.startsAcc req addr size w with
  | some v => (x.1.accGo v, x.2)
  | none => x

/-- An access shown to its requester: the data of a read, or that the access completes UNREACHABLE. -/
def State.showEnd (x : State × RegEnd × Nat) (req : Req) (addr : Nat) (read : Bool) : State :=
  match x.2.1 with
  | .unreachable => x.1.emit (.regUnreachable req addr)
  | _ => if read then x.1.emit (.regData req addr x.2.2) else x.1

/-- A register write. -/
def State.regWrite (s : State) (req : Req) (addr size v : Nat) : State := State.showEnd (s.regAccess req addr size (some v) 0) req addr false

/-- A register read. -/
def State.regRead (s : State) (req : Req) (addr size upset : Nat) : State := State.showEnd (s.regAccess req addr size none upset) req addr true

/-- An access to the register at a device address, by a stall through its window at the address that names it. -/
def State.accessTo (s : State) (req : Req) (addr size : Nat) (w : Access) (upset : Nat) : State × RegEnd × Nat :=
  match req with
  | .stall n => s.windowAt req n addr size w upset
  | _ => s.regAccess req addr size w upset

/-- A write of `v` to the 32-bit register at a device address. -/
def State.putReg (s : State) (req : Req) (addr v : Nat) : State := State.showEnd (s.accessTo req addr 4 (some v) 0) req addr false

/-- A write of `v` to the 64-bit register at a device address. -/
def State.putReg64 (s : State) (req : Req) (addr v : Nat) : State := State.showEnd (s.accessTo req addr 8 (some v) 0) req addr false

/-! ### Changes of OWNER (R467) -/

/-- R467: the pages whose OWNER in `t` differs from that in `s` lose IRQ_RAW, IRQ_EN, ERR_FIRST, ERR_COUNT and LOCK, and what views hold of them. (DESIGN CHOICE, assumption 26) -/
def State.ownerChange (s t : State) : State :=
  let changed := fun (a : Nat) => match pageOf a with
    | some (k, i) => decide (s.pageOwner k i ≠ t.pageOwner k i)
    | none => false
  let cleared := fun (a : Nat) => (decide (a % 4096 = 0x010) || decide (a % 4096 = 0x014) || decide (a % 4096 = 0x020) ||
    decide (a % 4096 = 0x024) || decide (a % 4096 = 0x02C)) && changed a
  { t with regs := smClear cleared t.regs, views := smClear (fun x => changed (x % 65536 * 4096)) t.views }

/-! ### Register agents (R163, R164) -/

/-- R164: the requester of a REG request, if the VIEW code names one. -/
def State.regRequester (h : Header) : Option Req :=
  let src := hget h hSRC
  let view := hget h hEXT / 2 ^ 64 % 2 ^ 8
  let n := hget h hEXT / 2 ^ 72 % 2 ^ 5
  if hget h hDEV = 0 then some (.stall (hget h hSTALL))
  else if src = epTolmor then
    (if view = 0 then some .tolmor else if view = 1 then some .mgr else if view = 2 then some .jtag else if view = 3 then some (.stall n)
     else if view = 4 then some .dbgDevice else if view = 5 then some (.dbgStall n) else none)
  else some (.host (src - 0x180))

/-- Table MIL-4: the first byte and the width that the byte enables of a REG request name. -/
def beRange (be : Nat) : Option (Nat × Nat) :=
  if be = 0xFF then some (0, 8)
  else if be = 0x0F then some (0, 4) else if be = 0xF0 then some (4, 4)
  else if be = 0x03 then some (0, 2) else if be = 0x0C then some (2, 2) else if be = 0x30 then some (4, 2) else if be = 0xC0 then some (6, 2)
  else (List.range 8).findSome? (fun k => if be = 2 ^ k then some (k, 1) else none)

/-- The value of a register access in the lanes of the 8 bytes at ADDR: a narrow access already has its bytes in place within its word. -/
def regLanes (off size v : Nat) : Nat := v * 2 ^ (8 * (if size < 4 then off / 4 * 4 else off))

/-- REG_RD, REG_WR (R163, R164): the agent at endpoint e answers request i. (DESIGN CHOICE, assumption 61) -/
def State.regAgent (s : State) (e i : Nat) (write : Bool) (upset : Nat) : State :=
  if !s.reqAt e i (if write then tREG_WR else tREG_RD) then s
  else
    let h := (s.pkt i).hdr
    match beRange (hget h hBE % 2 ^ 8), State.regRequester h with
    | some (off, size), some req =>
      let addr := hget h hADDR + off
      if agentOf addr ≠ e then s.agentAnswer e i stBAD_ADDR none
      else
        let v := hget h hEXT % 2 ^ 64 / 2 ^ (8 * off) % 2 ^ (8 * size)
        let x := s.regAccess req addr size (if write then some v else none) upset
        match x.2.1 with
        | .unreachable => x.1.agentAnswer e i stUNREACHABLE none
        | _ => x.1.agentAnswer e i stOK (if write then none else some (regLanes off size x.2.2))
    | _, _ => s.agentAnswer e i stBAD_PKT none

/-! ### The JTAG mailbox and the I²C target (R457, R437) -/

/-- JTAG_READ, JTAG_WRITE (R457): at Update-DR with MBOX selected, an access of view 5, ended at once. (DESIGN CHOICE, assumption 15) -/
def State.jtagAccess (s : State) (addr : Nat) (w : Access) : State :=
  if (s.tap 0).ir ≠ .mbox then s
  else if addr % 4 ≠ 0 then s.setD2d { s.d2d with jtag := { s.d2d.jtag with status := 2 } }
  else
    let x := s.regAccess .jtag addr 4 w 0
    let ok := decide (x.2.1 = .ok)
    x.1.setD2d { x.1.d2d with jtag := ⟨if ok then 0 else 2, if ok && w.isNone then x.2.2 else x.1.d2d.jtag.data⟩ }

/-- I2C_READ (R437): the register at an address in 0x0000–0xFFFF; any other address reads 0. (DESIGN CHOICE, assumption 16) -/
def State.i2cRead (s : State) (addr : Nat) : State :=
  if addr < 0x10000 ∧ addr % 4 = 0 then s.regRead .tolmor addr 4 0 else s.emit (.regData .tolmor addr 0)

end Sys2Proof.Machine
end

