-- ==== Sys2Proof/Machine/Bounds.lean ====
section
/-! DEFINITION. Which operands name something the block has: the checks that `Instr.wf` puts together. -/

namespace Sys2Proof.Machine

/-- R164, R468: the views that send accesses of their own: a host port 0–3 or a stall 0–31; a debug access is made through its session (R445). -/
def Req.valid : Req → Bool
  | .host n => decide (n < 4)
  | .stall n => decide (n < 32)
  | .tolmor | .mgr | .jtag => true
  | .dbgDevice | .dbgStall _ => false

/-- R459: the index of an implemented page. -/
def isPage (p : Nat) : Bool := (pageOf (4096 * p)).isSome

/-- R374: a bundle of a yard that exists, as 256y + b: its page answers. -/
def isBundle (k : Nat) : Bool := decide (k < 2048)

/-- The indexes of an element that an edge clocks (Table LGC-1, R69, R425). -/
def isElem : ElemIn → Bool
  | .tile sh t _ => decide (sh < 384) && decide (t < 5760)
  | .tileAsync sh t => decide (sh < 384) && decide (t < 5760)
  | .bm sh b _ => decide (sh < 384) && decide (b < 60)
  | .pond sh b _ _ => decide (sh < 384) && decide (b < 14)
  | .fmb sh b _ => decide (sh < 384) && decide (b < 64)
  | .drive sh k _ => decide (sh < 384) && decide (k < 960)
  | .river t => tribExists t
  | .landing sh k => decide (sh < 384) && decide (k < 960)
  | .pin b n _ _ _ _ => decide (b < 8) && decide (n < 48)

/-- A clock that exists (R71, R78, Table CLK-2). -/
def isClock : ClockId → Bool
  | .spine sh k => decide (sh < 384) && decide (k < 16)
  | .device k => decide (k < 32)
  | .ypage y => decide (y < 8)

/-- A leaf of the Tally (R311): its KIND, unit and stall. -/
def isLeafFault : LeafFault → Bool
  | .copyA k u n | .copyB k u n | .both k u n | .bReads k u n _ => decide (k < 8) && decide (u < 4096) && decide (n < 32)

/-- A link that exists. -/
def isLinkEvent : LinkEvent → Bool
  | .pcie n _ _ _ _ _ _ => decide (n < 4)
  | .eth k _ => decide (k < 8)
  | .skeja k => decide (k < 8)

/-- A link that exists. -/
def isLink : LinkName → Bool
  | .pcie n => decide (n < 4)
  | .eth k => decide (k < 8)
  | .skeja k => decide (k < 8)

/-- A rail that exists (Table ELE-4). -/
def isRail : Rail → Bool
  | .core => true
  | .yard y => decide (y < 8)
  | .ford f => decide (f < 4)
  | .hbm k => decide (k < 4)
  | .io b => decide (b < 8)

/-- A list of bytes. -/
def isBytes (l : List Nat) : Bool := l.all (fun b => decide (b < 256))

end Sys2Proof.Machine
end

