-- ==== Sys2Proof/WellFormed.lean ====
section
/-! DEFINITION. Which commands are well formed: those whose operands name something the block has. A command that is not does nothing. -/

namespace Sys2Proof

open Machine

/-- Whether every index of a command names something the block has. (DESIGN CHOICE, assumption 3) -/
def Instr.wf : Instr → Bool
  | .regWrite req _ _ _ => req.valid
  | .rcRead req _ _ => req.valid
  | .narrowAccess req _ _ _ => req.valid
  | .reg64LowRead req _ => req.valid
  | .reg64LowWrite req _ _ => req.valid
  | .reg64HighWrite req _ _ => req.valid
  | .softRst req page _ => req.valid && isPage page
  | .irqForce req page _ => req.valid && isPage page
  | .lockPage req page => req.valid && isPage page
  | .errFirstClear req page => req.valid && isPage page
  | .stallWindow stall _ _ _ _ => decide (stall < 32)
  | .summaryPush => true
  | .msixSend view => decide (view < 4)
  | .aggPop req view => req.valid && decide (view < 4)
  | .deviceReset _ => true
  | .powerGood _ => true
  | .sysRst _ => true
  | .scrubVisit yard => decide (yard < 8)
  | .scrubStart yard => decide (yard < 8)
  | .fifoReset shed block => decide (shed < 384) && decide (block < 60)
  | .tribContention trib => tribExists trib
  | .start req n => req.valid && decide (n < 512)
  | .startExecute n => decide (n < 512)
  | .stop req n => req.valid && decide (n < 512)
  | .stopEffect n => decide (n < 512)
  | .resume req n => req.valid && decide (n < 512)
  | .kick req n => req.valid && decide (n < 512)
  | .eddyCfgWrite req n _ => req.valid && decide (n < 512)
  | .bundleIssue n _ => decide (n < 512)
  | .lockGrant mem => decide (mem < 512)
  | .lockTimeout n _ => decide (n < 512)
  | .watchdog n _ => decide (n < 512)
  | .memDataWrite req n _ _ => req.valid && decide (n < 512)
  | .memDataRead req n _ => req.valid && decide (n < 512)
  | .streamFlushIn req n => req.valid && decide (n < 512)
  | .streamFlushOut req n => req.valid && decide (n < 512)
  | .capPop req n => req.valid && decide (n < 512)
  | .streamSource req n _ => req.valid && decide (n < 512)
  | .stimIn req n k _ => req.valid && decide (n < 512) && decide (k < 8)
  | .streamIn n _ => decide (n < 512)
  | .streamOut n => decide (n < 512)
  | .transferBegin n => decide (n < 512)
  | .transferLine n _ _ => decide (n < 512)
  | .transferComplete n _ _ => decide (n < 512)
  | .ingress ep _ => decide (ep < 0x195)
  | .routerHeader _ _ => true
  | .egress ep _ => decide (ep < 0x195)
  | .rd ep _ _ _ => decide (ep < 0x195)
  | .wr ep _ _ _ => decide (ep < 0x195)
  | .msg ep _ _ _ => decide (ep < 0x195)
  | .regRd ep _ _ => decide (ep < 0x195)
  | .regWr ep _ _ => decide (ep < 0x195)
  | .rdRsp ep => decide (ep < 0x195)
  | .wrRsp ep => decide (ep < 0x195)
  | .msgRsp ep => decide (ep < 0x195)
  | .regRsp ep => decide (ep < 0x195)
  | .timeout ep tag => decide (ep < 0x195) && decide (tag < 1024)
  | .flitGap ep => decide (ep < 0x195)
  | .flushIn req ep => req.valid && decide (ep < 0x195)
  | .flushOut req ep => req.valid && decide (ep < 0x195)
  | .flushEffect ep _ => decide (ep < 0x195)
  | .dropRestIn req ep => req.valid && decide (ep < 0x195)
  | .dropRestOut req ep => req.valid && decide (ep < 0x195)
  | .txAbort ep => decide (ep < 0x195)
  | .drain ep _ => decide (ep < 0x195)
  | .drainEnd ep => decide (ep < 0x195)
  | .sweep dst => decide (dst < 0x195)
  | .hbmError port => decide (port < 64)
  | .create req port region => req.valid && decide (port < 66) && decide (region < 32)
  | .zeroingEnd port => decide (port < 66)
  | .destroy req port region => req.valid && decide (port < 66) && decide (region < 32)
  | .rekey req port region => req.valid && decide (port < 66) && decide (region < 32)
  | .walkTake port _ => decide (port < 66)
  | .walkDone port => decide (port < 66)
  | .finish req port region => req.valid && decide (port < 66) && decide (region < 32)
  | .slotZeroise slot _ => decide (slot < 128)
  | .wearWarn req _ => req.valid
  | .cxlLinkDown n => decide (n < 2)
  | .clockForceOff stall => decide (stall < 32)
  | .ffExchange stall _ => decide (stall < 32)
  | .swapZeroing stall => decide (stall < 32)
  | .meshQuiet stall => decide (stall < 32)
  | .planeFlip stall => decide (stall < 32)
  | .fillEnd stall => decide (stall < 32)
  | .loadEnd stall => decide (stall < 32)
  | .ring req box => req.valid && decide (box < 6)
  | .commandTake _ => true
  | .deferredEnd box _ _ => decide (box < 6)
  | .cplPop req box => req.valid && decide (box < 6)
  | .fanoutEnd _ _ _ => true
  | .testStart _ _ => true
  | .testEnd _ _ _ _ => true
  | .expired box _ => decide (box < 6)
  | .lockstepDisagree core => core.all (fun c => decide (c < 3))
  | .tripleRestore => true
  | .sramScrub _ => true
  | .eventLogCopy source index => decide (source < 16) && decide (index < 2 ^ 16)
  | .tideIn _ _ _ _ => true
  | .ptmExchange port _ _ => decide (port < 4)
  | .sourceLost => true
  | .holdoverExpire => true
  | .freezeEnd => true
  | .alarmFire => true
  | .arm req stall j _ => req.valid && decide (stall < 32) && decide (j < 4)
  | .disarm req stall j => req.valid && decide (stall < 32) && decide (j < 4)
  | .firedClear req stall j => req.valid && decide (stall < 32) && decide (j < 4)
  | .tideRefclk req pair => req.valid && decide (pair < 4)
  | .helloSend => true
  | .hello _ => true
  | .join slot serial path => decide (slot < 16) && decide (serial < 2 ^ 64) && path.all (fun p => decide (p < 16))
  | .joinAck slot path _ => decide (slot < 16) && path.all (fun p => decide (p < 16))
  | .treeLeave => true
  | .syncSend => true
  | .sync slot _ => decide (slot < 16)
  | .delayReq slot => decide (slot < 16)
  | .delayRsp slot _ => decide (slot < 16)
  | .cmd slot _ _ _ _ _ => decide (slot < 16)
  | .cpl slot _ _ _ _ _ _ => decide (slot < 16)
  | .stage slot _ _ _ data _ => decide (slot < 16) && isBytes data
  | .ret slot _ _ _ data => decide (slot < 16) && isBytes data
  | .epochClose => true
  | .checkpoint faults suspects => faults.all isLeafFault && suspects.all (fun x => decide (x.1 < 10) && decide (x.2 < 32))
  | .refclkLoss pair => decide (pair < 8)
  | .fixrefHoldEnd => true
  | .refclkReturn pair => decide (pair < 8)
  | .refReturn _ => true
  | .clockLoss _ _ => true
  | .spineSel req shed _ => req.valid && decide (shed < 384)
  | .clksel shed k _ => decide (shed < 384) && decide (k < 16)
  | .spineSwitch shed k => decide (shed < 384) && decide (k < 16)
  | .force req shed k => req.valid && decide (shed < 384) && decide (k < 16)
  | .drst req shed k => req.valid && decide (shed < 384) && decide (k < 16)
  | .drstRelease shed k => decide (shed < 384) && decide (k < 16)
  | .pllCfgWrite req yard pll out _ => req.valid && decide (yard < 9) && decide (pll < 8) && out.all (fun j => decide (j < 4))
  | .fmeasStart req _ => req.valid
  | .fmeasEnd _ => true
  | .powerEval => true
  | .ltolWrite req port _ => req.valid && decide (port < 4)
  | .wake => true
  | .exitComplete => true
  | .signalDetect lane => decide (lane < 160)
  | .cdrLock lane => decide (lane < 160)
  | .polarity lane _ => decide (lane < 160)
  | .adaptDone lane _ => decide (lane < 160)
  | .alignDone lane logical => decide (lane < 160) && decide (logical < 64)
  | .stageTimeout lane => decide (lane < 160)
  | .signalLoss lane _ => decide (lane < 160)
  | .calibrationEnd lane _ => decide (lane < 160)
  | .inject req lane => req.valid && decide (lane < 160)
  | .prbsClear req lane => req.valid && decide (lane < 160)
  | .prbsLock lane => decide (lane < 160)
  | .prbsLost lane _ _ => decide (lane < 160)
  | .fabCfgWrite req lane _ => req.valid && decide (lane < 160)
  | .txEqWrite req lane _ => req.valid && decide (lane < 160)
  | .bridgeSend lane _ => decide (lane < 160)
  | .bridgeTimer lane _ => decide (lane < 160)
  | .linkUp ev => isLinkEvent ev
  | .linkDown link => isLink link
  | .hotReset port _ => decide (port < 4)
  | .bar0 port _ _ => decide (port < 4)
  | .bar2 port _ => decide (port < 4)
  | .inbound port _ => decide (port < 4)
  | .cxlMem port _ => decide (port < 4)
  | .ptmRequest port => decide (port < 4)
  | .fnAssignWrite req port _ => req.valid && decide (port < 4)
  | .fnLayoutWrite req port pf _ => req.valid && decide (port < 4) && decide (pf < 16)
  | .windowWrite req _ port j part _ => req.valid && decide (port < 4) && decide (j < 16) && decide (part < 4)
  | .rpOwnerWrite req port _ => req.valid && decide (port < 4)
  | .ethReceive mac frame _ => decide (mac < 8) && isBytes frame
  | .stnCfgWrite req mac j _ => req.valid && decide (mac < 8) && decide (j < 32)
  | .skejaSend k path => decide (k < 8) && decide (path < 2)
  | .skejaReceive k path _ _ _ => decide (k < 8) && decide (path < 2)
  | .nak k path _ => decide (k < 8) && decide (path < 2)
  | .udpTimeout k _ => decide (k < 8)
  | .pathUp k path => decide (k < 8) && decide (path < 2)
  | .handshakeEnd k path _ => decide (k < 8) && decide (path < 2)
  | .checkMatch k => decide (k < 8)
  | .pathDown k path => decide (k < 8) && decide (path < 2)
  | .weirMil bundle half _ _ _ _ => isBundle bundle && decide (half < 2)
  | .weirTrib bundle _ _ _ => isBundle bundle
  | .shadowAdvance bundle half => isBundle bundle && decide (half < 2)
  | .lchkReq bundle half _ => isBundle bundle && decide (half < 2)
  | .laneCheckEnd bundle half _ _ => isBundle bundle && decide (half < 2)
  | .clocksLost bundle _ => isBundle bundle
  | .repairFuse => true
  | .ucieFail ford module => decide (ford < 4) && decide (module < 6)
  | .quarantine die _ => decide (die < 12)
  | .readmission die _ _ _ _ => decide (die < 12)
  | .railLoss rail _ => isRail rail
  | .thermTrip => true
  | .idcode tap => decide (tap < 13)
  | .samplePreload tap _ => decide (tap < 13)
  | .extest tap => decide (tap < 13)
  | .extestPulse tap => decide (tap < 13)
  | .extestTrain tap => decide (tap < 13)
  | .highz tap => decide (tap < 13)
  | .clamp tap => decide (tap < 13)
  | .bypass tap => decide (tap < 13)
  | .mbox tap => decide (tap < 13)
  | .jtagRead _ => true
  | .jtagWrite _ _ => true
  | .testLogicReset => true
  | .func req pin _ => req.valid && decide (pin < 384)
  | .switchEdge pin => decide (pin < 384)
  | .holdEnd pin => decide (pin < 384)
  | .swLate pin => decide (pin < 384)
  | .gpioSet req bank _ _ => req.valid && decide (bank < 8)
  | .gpioClr req bank _ _ => req.valid && decide (bank < 8)
  | .gpioTgl req bank _ _ => req.valid && decide (bank < 8)
  | .pinEvent line _ => decide (line < 16)
  | .i2cRead _ => true
  | .grantExpire view => decide (view < 6)
  | .endGrant view => decide (view < 6)
  | .peek view stall => decide (view < 6) && decide (stall < 32)
  | .poke view stall => decide (view < 6) && decide (stall < 32)
  | .halt view n => decide (view < 6) && decide (n < 512)
  | .engineHalt n => decide (n < 512)
  | .lockBroken n => decide (n < 512)
  | .releaseEngine view n => decide (view < 6) && decide (n < 512)
  | .step view n _ => decide (view < 6) && decide (n < 512)
  | .fire view => decide (view < 6)
  | .dbgTrig shed => decide (shed < 384)
  | .snapEnd view _ => decide (view < 6)
  | .capResume view => decide (view < 6)
  | .ringCtlWrite req r _ => req.valid && decide (r < 8)
  | .clockEdge clk _ elems => isClock clk && elems.all isElem
  | .upset _ => true
  | .pairReturn pair => decide (pair < 8)
  | .tlpCompletion port tag _ => decide (port < 4) && decide (tag < 1024)
  | .pllLock yard pll => decide (yard < 9) && decide (pll < 8)
  | .thermAlert _ => true

end Sys2Proof
end

