-- ==== Sys2Proof/Machine/CmdOps.lean ====
section
/-! DEFINITION. What the meanings of commands share: when clocks run, which endpoints stand stopped, and the register values that several commands
write. -/

namespace Sys2Proof.Machine

/-- Whether the device's clocks run (R414, R479): in a device that has none, only resets, rails and returning references act. (DEDUCED, assumption 4) -/
def State.clocked (s : State) : Bool := !s.clk.dark

/-- R420, Table CLK-7: whether the block behind an endpoint stands stopped: the HBM and engine ports in NAP and SLEEP, the network ports in SLEEP. (DESIGN CHOICE, assumption 21) -/
def State.stoppedEp (s : State) (e : Nat) : Bool :=
  s.asleep && (isHbmPort e || isEnginePort e || (decide (s.powerState = 3) && (isEthPort e || isSkejaPort e)))

/-- R283, R284: whether the memory port that request `pkt` at endpoint e addresses is under test or retraining. -/
def State.memTesting (s : State) (e pkt : Nat) : Bool :=
  match memPortOf e (hget (s.pkt pkt).hdr hADDR) with
  | some port => s.portTested port
  | none => false

/-- R420: a request to a stopped block waits and wakes the device; a request to a memory port under test waits; any other is served, as `t`. (DESIGN CHOICE, assumption 21) -/
def State.stoppedOr (s : State) (e pkt : Nat) (t : State) : State :=
  if s.stoppedEp e then (if (s.ep e).reqOut.contains pkt then s.wake else s)
  else if s.memTesting e pkt then s
  else t

/-- The SIGNAL bits of STALL_ALARM_CTL, which a command that arms or disarms one alarm leaves as they are. -/
def State.alarmSignals (s : State) (stall : Nat) : Nat := s.fget (rSTALL_ALARM_CTL stall) fSTALL_ALARM_CTL_SIGNAL * 2 ^ 16

/-- The view that debug session v belongs to (R440): host ports 0–3, the manager view and the JTAG view. -/
def viewReq (v : Nat) : Req := if v < 4 then .host v else if v = 4 then .mgr else .jtag

end Sys2Proof.Machine
end

