-- ==== Sys2Proof/Machine/CmdClock.lean ====
section
/-! DEFINITION. The meanings of the commands of clocks and power states. Each acts where its operands are well formed, and where clocks run; what its event needs of
the state is checked by the operation it calls. -/

namespace Sys2Proof.Machine

/-- REFCLK_LOSS (R412). -/
def execRefclkLoss (pair : Nat) (s : State) : Host.Outcome State Fault Refusal :=
  .next (if (Instr.refclkLoss pair).wf && s.clocked then s.refLoss pair else s)

/-- FIXREF_HOLD_END (R400). -/
def execFixrefHoldEnd (s : State) : Host.Outcome State Fault Refusal :=
  .next (if Instr.fixrefHoldEnd.wf && s.clocked then s.holdEnds else s)

/-- REFCLK_RETURN (R413). -/
def execRefclkReturn (pair : Nat) (s : State) : Host.Outcome State Fault Refusal :=
  .next (if (Instr.refclkReturn pair).wf && s.clocked then s.pairRelocks pair else s)

/-- REF_RETURN (R414). -/
def execRefReturn (env : StartEnv) (s : State) : Host.Outcome State Fault Refusal :=
  .next (if (Instr.refReturn env).wf then s.refReturn env else s)

/-- CLOCK_LOSS (R412). -/
def execClockLoss (clock : ClockLost) (env : StartEnv) (s : State) : Host.Outcome State Fault Refusal :=
  .next (if (Instr.clockLoss clock env).wf && s.clocked then s.clockLoss clock env else s)

/-- SPINE_SEL (R406). -/
def execSpineSel (req : Req) (shed value : Nat) (s : State) : Host.Outcome State Fault Refusal :=
  .next (if (Instr.spineSel req shed value).wf && s.clocked then s.putReg req (rSPINE_SEL shed) value else s)

/-- CLKSEL (R406). -/
def execClksel (shed k : Nat) (level : Bool) (s : State) : Host.Outcome State Fault Refusal :=
  .next (if (Instr.clksel shed k level).wf && s.clocked then s.clkselChange shed k level else s)

/-- SPINE_SWITCH_COMPLETE (R406). -/
def execSpineSwitch (shed k : Nat) (s : State) : Host.Outcome State Fault Refusal :=
  .next (if (Instr.spineSwitch shed k).wf && s.clocked then s.spineSwitch shed k else s)

/-- FORCE (R408). -/
def execForce (req : Req) (shed k : Nat) (s : State) : Host.Outcome State Fault Refusal :=
  .next (if (Instr.force req shed k).wf && s.clocked then s.putReg req (rSPINE_CMD shed) (2 ^ k) else s)

/-- DRST (R409). -/
def execDrst (req : Req) (shed k : Nat) (s : State) : Host.Outcome State Fault Refusal :=
  .next (if (Instr.drst req shed k).wf && s.clocked then s.putReg req (rSPINE_CMD shed) (2 ^ (16 + k)) else s)

/-- DRST_RELEASE (R409). -/
def execDrstRelease (shed k : Nat) (s : State) : Host.Outcome State Fault Refusal :=
  .next (if (Instr.drstRelease shed k).wf && s.clocked then s.drstRelease shed k else s)

/-- PLL_CFG_WRITE (R401). -/
def execPllCfgWrite (req : Req) (yard pll : Nat) (out : Option Nat) (value : Nat) (s : State) : Host.Outcome State Fault Refusal :=
  .next (if (Instr.pllCfgWrite req yard pll out value).wf && s.clocked then
    (match out with
        | none => s.putReg req (pllCfg yard pll) value
        | some j => s.putReg req (pllOut yard pll j) value)
  else s)

/-- FMEAS_START (R415). -/
def execFmeasStart (req : Req) (value : Nat) (s : State) : Host.Outcome State Fault Refusal :=
  .next (if (Instr.fmeasStart req value).wf && s.clocked then s.putReg req (rFMEAS_CTL 0) (2 ^ 31 + value % 2 ^ 31) else s)

/-- FMEAS_END (R415). -/
def execFmeasEnd (edges : Nat) (s : State) : Host.Outcome State Fault Refusal :=
  .next (if (Instr.fmeasEnd edges).wf && s.clocked then s.fmeasEnd edges else s)

/-- POWER_STATE_EVAL (R419). -/
def execPowerEval (s : State) : Host.Outcome State Fault Refusal :=
  .next (if Instr.powerEval.wf && s.clocked then s.powerStateEval else s)

/-- PCIE_LTOL_WRITE (R419). -/
def execLtolWrite (req : Req) (port value : Nat) (s : State) : Host.Outcome State Fault Refusal :=
  .next (if (Instr.ltolWrite req port value).wf && s.clocked then s.putReg req (rPCIE_LTOL port) value else s)

/-- WAKE (R420). -/
def execWake (s : State) : Host.Outcome State Fault Refusal :=
  .next (if Instr.wake.wf && s.clocked then s.wake else s)

/-- EXIT_COMPLETE (R420). -/
def execExitComplete (s : State) : Host.Outcome State Fault Refusal :=
  .next (if Instr.exitComplete.wf && s.clocked then s.powerExit else s)

/-- REFCLK_PAIR_RETURN (R325). -/
def execPairReturn (pair : Nat) (s : State) : Host.Outcome State Fault Refusal :=
  .next (if (Instr.pairReturn pair).wf then s.refPairReturn pair else s)

/-- PLL_LOCK (R401). -/
def execPllLock (yard pll : Nat) (s : State) : Host.Outcome State Fault Refusal :=
  .next (if (Instr.pllLock yard pll).wf && s.clocked then s.pllLock yard pll else s)

end Sys2Proof.Machine
end

