-- ==== Sys2Proof/Machine/CmdDebug.lean ====
section
/-! DEFINITION. The meanings of the commands of debug and trace. Each acts where its operands are well formed, and where clocks run; what its event needs of
the state is checked by the operation it calls. -/

namespace Sys2Proof.Machine

/-- GRANT_EXPIRE (R442). -/
def execGrantExpire (view : Nat) (s : State) : Host.Outcome State Fault Refusal :=
  .next (if (Instr.grantExpire view).wf && s.clocked then s.grantExpire view else s)

/-- END (R442). -/
def execEndGrant (view : Nat) (s : State) : Host.Outcome State Fault Refusal :=
  .next (if (Instr.endGrant view).wf && s.clocked then
    s.putReg (viewReq view) (rDBG_GRANT view) (2 ^ 28 + s.fget (rDBG_GRANT view) fDBG_GRANT_PWR_EMU * 2 ^ 27)
  else s)

/-- PEEK (R444). -/
def execPeek (view stall : Nat) (s : State) : Host.Outcome State Fault Refusal :=
  .next (if (Instr.peek view stall).wf && s.clocked then s.putReg (viewReq view) (rDBG_ACC_CTL view) (2 ^ 31 + stall % 32 * 2 ^ 25) else s)

/-- POKE (R445). -/
def execPoke (view stall : Nat) (s : State) : Host.Outcome State Fault Refusal :=
  .next (if (Instr.poke view stall).wf && s.clocked then s.putReg (viewReq view) (rDBG_ACC_CTL view) (2 ^ 31 + 2 ^ 30 + stall % 32 * 2 ^ 25) else s)

/-- HALT (R446). -/
def execHalt (view n : Nat) (s : State) : Host.Outcome State Fault Refusal :=
  .next (if (Instr.halt view n).wf && s.clocked then s.putReg (viewReq view) (rDBG_E_CMD n) 1 else s)

/-- ENGINE_HALT (R446). -/
def execEngineHalt (n : Nat) (s : State) : Host.Outcome State Fault Refusal :=
  .next (if (Instr.engineHalt n).wf && s.clocked then s.engineHalt n else s)

/-- LOCK_BROKEN (R449). -/
def execLockBroken (n : Nat) (s : State) : Host.Outcome State Fault Refusal :=
  .next (if (Instr.lockBroken n).wf && s.clocked then s.lockBroken n else s)

/-- RELEASE_ENGINE (R448). -/
def execReleaseEngine (view n : Nat) (s : State) : Host.Outcome State Fault Refusal :=
  .next (if (Instr.releaseEngine view n).wf && s.clocked then s.putReg (viewReq view) (rDBG_E_CMD n) 2 else s)

/-- STEP (R448). -/
def execStep (view n count : Nat) (s : State) : Host.Outcome State Fault Refusal :=
  .next (if (Instr.step view n count).wf && s.clocked then s.putReg (viewReq view) (rDBG_E_CMD n) (3 + count % 256 * 2 ^ 24) else s)

/-- FIRE (R452). -/
def execFire (view : Nat) (s : State) : Host.Outcome State Fault Refusal :=
  .next (if (Instr.fire view).wf && s.clocked then s.putReg (viewReq view) (rCAP_CTL view) (s.rd32 (rCAP_CTL view) + 2 ^ 30) else s)

/-- DBG_TRIG (R452). -/
def execDbgTrig (shed : Nat) (s : State) : Host.Outcome State Fault Refusal :=
  .next (if (Instr.dbgTrig shed).wf && s.clocked then s.dbgTrig shed else s)

/-- CAPTURE_SNAP_END (R452). -/
def execSnapEnd (view : Nat) (forced : Bool) (s : State) : Host.Outcome State Fault Refusal :=
  .next (if (Instr.snapEnd view forced).wf && s.clocked then s.snapEnd view forced else s)

/-- CAP_RESUME (R452). -/
def execCapResume (view : Nat) (s : State) : Host.Outcome State Fault Refusal :=
  .next (if (Instr.capResume view).wf && s.clocked then s.putReg (viewReq view) (rCAP_CTL view) (s.rd32 (rCAP_CTL view) + 2 ^ 29) else s)

/-- RING_CTL_WRITE (R454). -/
def execRingCtlWrite (req : Req) (r value : Nat) (s : State) : Host.Outcome State Fault Refusal :=
  .next (if (Instr.ringCtlWrite req r value).wf && s.clocked then s.putReg req (rRING_CTL r) value else s)

end Sys2Proof.Machine
end

