-- ==== Sys2Proof/Machine/CmdDie.lean ====
section
/-! DEFINITION. The meanings of the commands of die-to-die links, dies, rails and boundary scan. Each acts where its operands are well formed, and where clocks run; what its event needs of
the state is checked by the operation it calls. -/

namespace Sys2Proof.Machine

/-- WEIR_MIL_FLIT (R380). -/
def execWeirMil (bundle half data sb err : Nat) (fix : Option Nat) (s : State) : Host.Outcome State Fault Refusal :=
  .next (if (Instr.weirMil bundle half data sb err fix).wf && s.clocked then s.weirMilFlit bundle half data sb err fix else s)

/-- WEIR_TRIB_FLIT (R378). -/
def execWeirTrib (bundle skip err : Nat) (fix : Option Nat) (s : State) : Host.Outcome State Fault Refusal :=
  .next (if (Instr.weirTrib bundle skip err fix).wf && s.clocked then s.weirTribFlit bundle skip err fix else s)

/-- SHADOW_ADVANCE (R382). -/
def execShadowAdvance (bundle half : Nat) (s : State) : Host.Outcome State Fault Refusal :=
  .next (if (Instr.shadowAdvance bundle half).wf && s.clocked then s.shadowAdvance bundle half else s)

/-- LCHK_REQ (R383). -/
def execLchkReq (bundle half errs : Nat) (s : State) : Host.Outcome State Fault Refusal :=
  .next (if (Instr.lchkReq bundle half errs).wf && s.clocked then s.lchkReq bundle half errs else s)

/-- LANE_CHECK_END (R383). -/
def execLaneCheckEnd (bundle half : Nat) (errs : List (Nat × Nat)) (persists : Bool) (s : State) : Host.Outcome State Fault Refusal :=
  .next (if (Instr.laneCheckEnd bundle half errs persists).wf && s.clocked then s.laneCheckEnd bundle half errs persists else s)

/-- FORWARDED_CLOCK_LOSS (R385). -/
def execClocksLost (bundle bits : Nat) (s : State) : Host.Outcome State Fault Refusal :=
  .next (if (Instr.clocksLost bundle bits).wf && s.clocked then s.clocksLost bundle bits else s)

/-- REPAIR_FUSE (R386). -/
def execRepairFuse (s : State) : Host.Outcome State Fault Refusal :=
  .next (if Instr.repairFuse.wf && s.clocked then s.repairFuse else s)

/-- UCIE_MODULE_FAIL (R390). -/
def execUcieFail (ford module : Nat) (s : State) : Host.Outcome State Fault Refusal :=
  .next (if (Instr.ucieFail ford module).wf && s.clocked then s.ucieModuleFail ford module else s)

/-- QUARANTINE (R393). -/
def execQuarantine (die cause : Nat) (s : State) : Host.Outcome State Fault Refusal :=
  .next (if (Instr.quarantine die cause).wf && s.clocked then s.quarantine die cause else s)

/-- READMISSION (R394). -/
def execReadmission (die supplier rev : Nat) (admitted : Bool) (env : TrainEnv) (s : State) : Host.Outcome State Fault Refusal :=
  .next (if (Instr.readmission die supplier rev admitted env).wf && s.clocked then s.ownerChange (s.readmit die supplier rev admitted env) else s)

/-- RAIL_LOSS (R479). -/
def execRailLoss (rail : Rail) (back : Bool) (s : State) : Host.Outcome State Fault Refusal :=
  .next (if (Instr.railLoss rail back).wf then s.railLoss rail back else s)

/-- THERM_TRIP (R486). -/
def execThermTrip (s : State) : Host.Outcome State Fault Refusal :=
  .next (if Instr.thermTrip.wf then s.thermTrip else s)

/-- IDCODE (R396). -/
def execIdcode (tap : Nat) (s : State) : Host.Outcome State Fault Refusal :=
  .next (if (Instr.idcode tap).wf then s.tapInstr tap .idcode else s)

/-- SAMPLE_PRELOAD (R396). -/
def execSamplePreload (tap value : Nat) (s : State) : Host.Outcome State Fault Refusal :=
  .next (if (Instr.samplePreload tap value).wf then s.tapSample tap value else s)

/-- EXTEST (R397). -/
def execExtest (tap : Nat) (s : State) : Host.Outcome State Fault Refusal :=
  .next (if (Instr.extest tap).wf then s.tapDrive tap .extest else s)

/-- EXTEST_PULSE (R397). -/
def execExtestPulse (tap : Nat) (s : State) : Host.Outcome State Fault Refusal :=
  .next (if (Instr.extestPulse tap).wf then s.tapDrive tap .extestPulse else s)

/-- EXTEST_TRAIN (R397). -/
def execExtestTrain (tap : Nat) (s : State) : Host.Outcome State Fault Refusal :=
  .next (if (Instr.extestTrain tap).wf then s.tapDrive tap .extestTrain else s)

/-- HIGHZ (R397). -/
def execHighz (tap : Nat) (s : State) : Host.Outcome State Fault Refusal :=
  .next (if (Instr.highz tap).wf then s.tapDrive tap .highz else s)

/-- CLAMP (R397). -/
def execClamp (tap : Nat) (s : State) : Host.Outcome State Fault Refusal :=
  .next (if (Instr.clamp tap).wf then s.tapDrive tap .clamp else s)

/-- BYPASS (R396). -/
def execBypass (tap : Nat) (s : State) : Host.Outcome State Fault Refusal :=
  .next (if (Instr.bypass tap).wf then s.tapInstr tap .bypass else s)

/-- MBOX (R457). -/
def execMbox (tap : Nat) (s : State) : Host.Outcome State Fault Refusal :=
  .next (if (Instr.mbox tap).wf then s.tapInstr tap .mbox else s)

/-- JTAG_READ (R457). -/
def execJtagRead (addr : Nat) (s : State) : Host.Outcome State Fault Refusal :=
  .next (if (Instr.jtagRead addr).wf && s.clocked then s.jtagAccess addr none else s)

/-- JTAG_WRITE (R457). -/
def execJtagWrite (addr value : Nat) (s : State) : Host.Outcome State Fault Refusal :=
  .next (if (Instr.jtagWrite addr value).wf && s.clocked then s.jtagAccess addr (some (value % 2 ^ 32)) else s)

/-- TEST_LOGIC_RESET (R442). -/
def execTestLogicReset (s : State) : Host.Outcome State Fault Refusal :=
  .next (if Instr.testLogicReset.wf then s.testLogicReset else s)

end Sys2Proof.Machine
end

