-- ==== Sys2Proof/Machine/CmdEddy.lean ====
section
/-! DEFINITION. The meanings of the commands of the Eddy engines and their streams and transfers. Each acts where its operands are well formed, and where clocks run; what its event needs of
the state is checked by the operation it calls. -/

namespace Sys2Proof.Machine

/-- START (R130). -/
def execStart (req : Req) (n : Nat) (s : State) : Host.Outcome State Fault Refusal :=
  .next (if (Instr.start req n).wf && s.clocked then s.putReg req (rEDDY_RUN n) 1 else s)

/-- START_EXECUTE (R130). -/
def execStartExecute (n : Nat) (s : State) : Host.Outcome State Fault Refusal :=
  .next (if (Instr.startExecute n).wf && s.clocked then s.startExecute n else s)

/-- STOP (R131). -/
def execStop (req : Req) (n : Nat) (s : State) : Host.Outcome State Fault Refusal :=
  .next (if (Instr.stop req n).wf && s.clocked then s.putReg req (rEDDY_RUN n) 2 else s)

/-- STOP_TAKES_EFFECT (R131). -/
def execStopEffect (n : Nat) (s : State) : Host.Outcome State Fault Refusal :=
  .next (if (Instr.stopEffect n).wf && s.clocked then s.stopEffect n else s)

/-- RESUME (R132). -/
def execResume (req : Req) (n : Nat) (s : State) : Host.Outcome State Fault Refusal :=
  .next (if (Instr.resume req n).wf && s.clocked then s.putReg req (rEDDY_RUN n) 4 else s)

/-- KICK (R139). -/
def execKick (req : Req) (n : Nat) (s : State) : Host.Outcome State Fault Refusal :=
  .next (if (Instr.kick req n).wf && s.clocked then s.putReg req (rEDDY_RUN n) 8 else s)

/-- EDDY_CFG_WRITE (R126). -/
def execEddyCfgWrite (req : Req) (n value : Nat) (s : State) : Host.Outcome State Fault Refusal :=
  .next (if (Instr.eddyCfgWrite req n value).wf && s.clocked then s.putReg req (rEDDY_CFG n) value else s)

/-- BUNDLE_ISSUE (R99). -/
def execBundleIssue (n : Nat) (env : IssueEnv) (s : State) : Host.Outcome State Fault Refusal :=
  .next (if (Instr.bundleIssue n env).wf && s.clocked then s.dbgIssue n env else s)

/-- LOCK_GRANT (R119). -/
def execLockGrant (mem : Nat) (s : State) : Host.Outcome State Fault Refusal :=
  .next (if (Instr.lockGrant mem).wf && s.clocked then s.lockGrant mem else s)

/-- LOCK_TIMEOUT (R122). -/
def execLockTimeout (n : Nat) (env : IssueEnv) (s : State) : Host.Outcome State Fault Refusal :=
  .next (if (Instr.lockTimeout n env).wf && s.clocked then (if s.lockDue n then s.dbgIssue n env else s) else s)

/-- WATCHDOG (R140). -/
def execWatchdog (n : Nat) (env : IssueEnv) (s : State) : Host.Outcome State Fault Refusal :=
  .next (if (Instr.watchdog n env).wf && s.clocked then (if s.wdogDue n then s.dbgIssue n env else s) else s)

/-- EDDY_MEM_DATA_WRITE (R136). -/
def execMemDataWrite (req : Req) (n value upset : Nat) (s : State) : Host.Outcome State Fault Refusal :=
  .next (if (Instr.memDataWrite req n value upset).wf && s.clocked then
    State.showEnd (s.accessTo req (rEDDY_MEM_DATA n) 4 (some value) upset) req (rEDDY_MEM_DATA n) false
  else s)

/-- EDDY_MEM_DATA_READ (R137). -/
def execMemDataRead (req : Req) (n upset : Nat) (s : State) : Host.Outcome State Fault Refusal :=
  .next (if (Instr.memDataRead req n upset).wf && s.clocked then
    State.showEnd (s.accessTo req (rEDDY_MEM_DATA n) 4 none upset) req (rEDDY_MEM_DATA n) true
  else s)

/-- STREAM_FLUSH_IN (R144). -/
def execStreamFlushIn (req : Req) (n : Nat) (s : State) : Host.Outcome State Fault Refusal :=
  .next (if (Instr.streamFlushIn req n).wf && s.clocked then s.putReg req (rSTREAM_CTL n) (2 ^ 8 + s.rd32 (rSTREAM_CTL n) % 4) else s)

/-- STREAM_FLUSH_OUT (R144). -/
def execStreamFlushOut (req : Req) (n : Nat) (s : State) : Host.Outcome State Fault Refusal :=
  .next (if (Instr.streamFlushOut req n).wf && s.clocked then s.putReg req (rSTREAM_CTL n) (2 ^ 9 + s.rd32 (rSTREAM_CTL n) % 4) else s)

/-- CAP_POP (R148). -/
def execCapPop (req : Req) (n : Nat) (s : State) : Host.Outcome State Fault Refusal :=
  .next (if (Instr.capPop req n).wf && s.clocked then s.putReg req (rSTREAM_CTL n) (2 ^ 10 + s.rd32 (rSTREAM_CTL n) % 4) else s)

/-- STREAM_SOURCE_CHANGE (R146). -/
def execStreamSource (req : Req) (n value : Nat) (s : State) : Host.Outcome State Fault Refusal :=
  .next (if (Instr.streamSource req n value).wf && s.clocked then s.putReg req (rSTREAM_CTL n) (value % 4) else s)

/-- STIM_IN_WRITE (R147). -/
def execStimIn (req : Req) (n k value : Nat) (s : State) : Host.Outcome State Fault Refusal :=
  .next (if (Instr.stimIn req n k value).wf && s.clocked then s.putReg req (rSTIM_IN n k) value else s)

/-- STREAM_IN_WORD (R142). -/
def execStreamIn (n : Nat) (word : BitVec 256) (s : State) : Host.Outcome State Fault Refusal :=
  .next (if (Instr.streamIn n word).wf && s.clocked then s.streamInWord n word else s)

/-- STREAM_OUT_WORD (R143). -/
def execStreamOut (n : Nat) (s : State) : Host.Outcome State Fault Refusal :=
  .next (if (Instr.streamOut n).wf && s.clocked then s.streamOutWord n else s)

/-- TRANSFER_BEGIN (R150). -/
def execTransferBegin (n : Nat) (s : State) : Host.Outcome State Fault Refusal :=
  .next (if (Instr.transferBegin n).wf && s.clocked then s.transferBegin n else s)

/-- TRANSFER_LINE (R142). -/
def execTransferLine (n i : Nat) (upsets : List (Nat × Nat × Nat)) (s : State) : Host.Outcome State Fault Refusal :=
  .next (if (Instr.transferLine n i upsets).wf && s.clocked then s.transferLine n i upsets else s)

/-- TRANSFER_COMPLETE (R151). -/
def execTransferComplete (n i : Nat) (upsets : List (Nat × Nat × Nat)) (s : State) : Host.Outcome State Fault Refusal :=
  .next (if (Instr.transferComplete n i upsets).wf && s.clocked then s.transferComplete n i upsets else s)

end Sys2Proof.Machine
end

