-- ==== Sys2Proof/Machine/CmdFabric.lean ====
section
/-! DEFINITION. The meanings of the commands of the fabric: clock edges, scrubbing and upsets. Each acts where its operands are well formed, and where clocks run; what its event needs of
the state is checked by the operation it calls. -/

namespace Sys2Proof.Machine

/-- SCRUB_FRAME_VISIT (R55). -/
def execScrubVisit (yard : Nat) (s : State) : Host.Outcome State Fault Refusal :=
  .next (if (Instr.scrubVisit yard).wf && s.clocked then s.scrubVisit yard else s)

/-- SCRUB_PASS_START (R56). -/
def execScrubStart (yard : Nat) (s : State) : Host.Outcome State Fault Refusal :=
  .next (if (Instr.scrubStart yard).wf && s.clocked then s.scrubStart yard else s)

/-- FIFO_RESET (R43). -/
def execFifoReset (shed block : Nat) (s : State) : Host.Outcome State Fault Refusal :=
  .next (if (Instr.fifoReset shed block).wf then s.fifoReset shed block else s)

/-- TRIB_CONTENTION (R83). -/
def execTribContention (trib : Nat) (s : State) : Host.Outcome State Fault Refusal :=
  .next (if (Instr.tribContention trib).wf && s.clocked then s.contention trib else s)

/-- ACTIVE_CLOCK_EDGE (R30). -/
def execClockEdge (clk : ClockId) (falling : Bool) (elems : List ElemIn) (s : State) : Host.Outcome State Fault Refusal :=
  .next (if (Instr.clockEdge clk falling elems).wf && s.clocked then s.clockEdge clk falling elems else s)

/-- CONFIGURATION_UPSET (R56). -/
def execUpset (bit : UpsetAt) (s : State) : Host.Outcome State Fault Refusal :=
  .next (if (Instr.upset bit).wf then s.upset bit else s)

end Sys2Proof.Machine
end

