-- ==== Sys2Proof/Machine/CmdLane.lean ====
section
/-! DEFINITION. The meanings of the commands of the serial lanes. Each acts where its operands are well formed, and where clocks run; what its event needs of
the state is checked by the operation it calls. -/

namespace Sys2Proof.Machine

/-- SIGNAL_DETECT (R326). -/
def execSignalDetect (lane : Nat) (s : State) : Host.Outcome State Fault Refusal :=
  .next (if (Instr.signalDetect lane).wf && s.clocked then s.signalDetect lane else s)

/-- CDR_LOCK (R326). -/
def execCdrLock (lane : Nat) (s : State) : Host.Outcome State Fault Refusal :=
  .next (if (Instr.cdrLock lane).wf && s.clocked then s.cdrLock lane else s)

/-- POLARITY (R327). -/
def execPolarity (lane : Nat) (inverse : Bool) (s : State) : Host.Outcome State Fault Refusal :=
  .next (if (Instr.polarity lane inverse).wf && s.clocked then s.polarity lane inverse else s)

/-- ADAPT_INIT_DONE (R326). -/
def execAdaptDone (lane eye : Nat) (s : State) : Host.Outcome State Fault Refusal :=
  .next (if (Instr.adaptDone lane eye).wf && s.clocked then s.adaptDone lane eye else s)

/-- ALIGN_DONE (R328). -/
def execAlignDone (lane logical : Nat) (s : State) : Host.Outcome State Fault Refusal :=
  .next (if (Instr.alignDone lane logical).wf && s.clocked then s.alignDone lane logical else s)

/-- STAGE_TIMEOUT (R326). -/
def execStageTimeout (lane : Nat) (s : State) : Host.Outcome State Fault Refusal :=
  .next (if (Instr.stageTimeout lane).wf && s.clocked then s.stageTimeout lane else s)

/-- SIGNAL_LOSS (R326). -/
def execSignalLoss (lane : Nat) (unlock : Bool) (s : State) : Host.Outcome State Fault Refusal :=
  .next (if (Instr.signalLoss lane unlock).wf && s.clocked then s.signalLoss lane unlock else s)

/-- CALIBRATION_END (R330). -/
def execCalibrationEnd (lane : Nat) (ok : Bool) (s : State) : Host.Outcome State Fault Refusal :=
  .next (if (Instr.calibrationEnd lane ok).wf && s.clocked then s.calEnd lane ok else s)

/-- INJECT (R335). -/
def execInject (req : Req) (lane : Nat) (s : State) : Host.Outcome State Fault Refusal :=
  .next (if (Instr.inject req lane).wf && s.clocked then s.putReg req (rPRBS_CTL lane) (2 ^ 11 + s.rd32 (rPRBS_CTL lane) % 2 ^ 10) else s)

/-- CLEAR (R335). -/
def execPrbsClear (req : Req) (lane : Nat) (s : State) : Host.Outcome State Fault Refusal :=
  .next (if (Instr.prbsClear req lane).wf && s.clocked then s.putReg req (rPRBS_CTL lane) (2 ^ 10 + s.rd32 (rPRBS_CTL lane) % 2 ^ 10) else s)

/-- PRBS_LOCK (R335). -/
def execPrbsLock (lane : Nat) (s : State) : Host.Outcome State Fault Refusal :=
  .next (if (Instr.prbsLock lane).wf && s.clocked then s.prbsLock lane else s)

/-- PRBS_LOST (R335). -/
def execPrbsLost (lane bits errs : Nat) (s : State) : Host.Outcome State Fault Refusal :=
  .next (if (Instr.prbsLost lane bits errs).wf && s.clocked then s.prbsLost lane bits errs else s)

/-- LANE_FAB_CFG_WRITE (R339). -/
def execFabCfgWrite (req : Req) (lane value : Nat) (s : State) : Host.Outcome State Fault Refusal :=
  .next (if (Instr.fabCfgWrite req lane value).wf && s.clocked then s.putReg req (rLANE_FAB_CFG lane) value else s)

/-- LANE_TX_EQ_WRITE (R339). -/
def execTxEqWrite (req : Req) (lane value : Nat) (s : State) : Host.Outcome State Fault Refusal :=
  .next (if (Instr.txEqWrite req lane value).wf && s.clocked then s.putReg req (rLANE_TX_EQ lane) value else s)

/-- LANE_BRIDGE_RX_SEND (R341). -/
def execBridgeSend (lane : Nat) (lines : List (BitVec 512)) (s : State) : Host.Outcome State Fault Refusal :=
  .next (if (Instr.bridgeSend lane lines).wf && s.clocked then s.bridgeRx lane lines else s)

/-- LANE_BRIDGE_RX_TIMER (R341). -/
def execBridgeTimer (lane : Nat) (lines : List (BitVec 512)) (s : State) : Host.Outcome State Fault Refusal :=
  .next (if (Instr.bridgeTimer lane lines).wf && s.clocked then s.bridgeTimer lane lines else s)

end Sys2Proof.Machine
end

