-- ==== Sys2Proof/Machine/CmdMemory.lean ====
section
/-! DEFINITION. The meanings of the commands of HBM, CXL memory and the Sluice. Each acts where its operands are well formed, and where clocks run; what its event needs of
the state is checked by the operation it calls. -/

namespace Sys2Proof.Machine

/-- HBM_INTERFACE_ERROR (R194). -/
def execHbmError (port : Nat) (s : State) : Host.Outcome State Fault Refusal :=
  .next (if (Instr.hbmError port).wf && s.clocked then s.hbmIfError port else s)

/-- CREATE (R218). -/
def execCreate (req : Req) (port region : Nat) (s : State) : Host.Outcome State Fault Refusal :=
  .next (if (Instr.create req port region).wf && s.clocked then s.putReg req (rRGN_CMD port region) 1 else s)

/-- ZEROING_END (R218). -/
def execZeroingEnd (port : Nat) (s : State) : Host.Outcome State Fault Refusal :=
  .next (if (Instr.zeroingEnd port).wf && s.clocked then s.zeroingEnd port else s)

/-- DESTROY (R218). -/
def execDestroy (req : Req) (port region : Nat) (s : State) : Host.Outcome State Fault Refusal :=
  .next (if (Instr.destroy req port region).wf && s.clocked then s.putReg req (rRGN_CMD port region) 2 else s)

/-- REKEY (R220). -/
def execRekey (req : Req) (port region : Nat) (s : State) : Host.Outcome State Fault Refusal :=
  .next (if (Instr.rekey req port region).wf && s.clocked then s.putReg req (rRGN_CMD port region) 4 else s)

/-- WALK_SECTOR_TAKE (R220). -/
def execWalkTake (port : Nat) (faults : List (Nat × LineFault)) (s : State) : Host.Outcome State Fault Refusal :=
  .next (if (Instr.walkTake port faults).wf && s.clocked then s.walkTake port faults else s)

/-- WALK_SECTOR_DONE (R220). -/
def execWalkDone (port : Nat) (s : State) : Host.Outcome State Fault Refusal :=
  .next (if (Instr.walkDone port).wf && s.clocked then s.walkDone port else s)

/-- FINISH (R223). -/
def execFinish (req : Req) (port region : Nat) (s : State) : Host.Outcome State Fault Refusal :=
  .next (if (Instr.finish req port region).wf && s.clocked then s.putReg req (rRGN_CMD port region) 8 else s)

/-- SLOT_ZEROISE (R225). -/
def execSlotZeroise (slot : Nat) (frames : Bool) (s : State) : Host.Outcome State Fault Refusal :=
  .next (if (Instr.slotZeroise slot frames).wf && s.clocked then s.slotZeroise slot frames else s)

/-- SLUICE_WEAR_WARN_WRITE (R216). -/
def execWearWarn (req : Req) (value : Nat) (s : State) : Host.Outcome State Fault Refusal :=
  .next (if (Instr.wearWarn req value).wf && s.clocked then s.putReg req (rSLUICE_WEAR_WARN 0) value else s)

/-- CXL_LINK_DOWN (R228). -/
def execCxlLinkDown (n : Nat) (s : State) : Host.Outcome State Fault Refusal :=
  .next (if (Instr.cxlLinkDown n).wf && s.clocked then s.cxlLinkDown n else s)

end Sys2Proof.Machine
end

