-- ==== Sys2Proof/Machine/CmdMillrace.lean ====
section
/-! DEFINITION. The meanings of the commands of the Millrace. Each acts where its operands are well formed, and where clocks run; what its event needs of
the state is checked by the operation it calls. -/

namespace Sys2Proof.Machine

/-- PACKET_INGRESS (R489). -/
def execIngress (ep : Nat) (op : IngressOp) (s : State) : Host.Outcome State Fault Refusal :=
  .next (if (Instr.ingress ep op).wf && s.clocked then s.ingress ep op else s)

/-- ROUTER_HEADER (R166). -/
def execRouterHeader (pkt : Nat) (errs : List (Nat × Bool)) (s : State) : Host.Outcome State Fault Refusal :=
  .next (if (Instr.routerHeader pkt errs).wf && s.clocked then s.routerHop pkt errs else s)

/-- PACKET_EGRESS (R188). -/
def execEgress (ep : Nat) (op : EgressOp) (s : State) : Host.Outcome State Fault Refusal :=
  .next (if (Instr.egress ep op).wf && s.clocked then s.egress ep op else s)

/-- RD (R197). -/
def execRd (ep pkt : Nat) (faults : List (Nat × LineFault)) (env : PcieEnv) (s : State) : Host.Outcome State Fault Refusal :=
  .next (if (Instr.rd ep pkt faults env).wf && s.clocked then s.stoppedOr ep pkt (s.serve ep pkt tRD faults env) else s)

/-- WR (R199). -/
def execWr (ep pkt : Nat) (faults : List (Nat × LineFault)) (env : PcieEnv) (s : State) : Host.Outcome State Fault Refusal :=
  .next (if (Instr.wr ep pkt faults env).wf && s.clocked then s.stoppedOr ep pkt (s.serve ep pkt tWR faults env) else s)

/-- MSG (R362). -/
def execMsg (ep pkt : Nat) (faults : List (Nat × LineFault)) (env : PcieEnv) (s : State) : Host.Outcome State Fault Refusal :=
  .next (if (Instr.msg ep pkt faults env).wf && s.clocked then s.stoppedOr ep pkt (s.serve ep pkt tMSG faults env) else s)

/-- REG_RD (R164). -/
def execRegRd (ep pkt upset : Nat) (s : State) : Host.Outcome State Fault Refusal :=
  .next (if (Instr.regRd ep pkt upset).wf && s.clocked then s.stoppedOr ep pkt (s.regAgent ep pkt false upset) else s)

/-- REG_WR (R164). -/
def execRegWr (ep pkt upset : Nat) (s : State) : Host.Outcome State Fault Refusal :=
  .next (if (Instr.regWr ep pkt upset).wf && s.clocked then s.stoppedOr ep pkt (s.regAgent ep pkt true upset) else s)

/-- RD_RSP (R184). -/
def execRdRsp (ep : Nat) (s : State) : Host.Outcome State Fault Refusal :=
  .next (if (Instr.rdRsp ep).wf && s.clocked then s.takeRsp ep tRD_RSP else s)

/-- WR_RSP (R184). -/
def execWrRsp (ep : Nat) (s : State) : Host.Outcome State Fault Refusal :=
  .next (if (Instr.wrRsp ep).wf && s.clocked then s.takeRsp ep tWR_RSP else s)

/-- MSG_RSP (R184). -/
def execMsgRsp (ep : Nat) (s : State) : Host.Outcome State Fault Refusal :=
  .next (if (Instr.msgRsp ep).wf && s.clocked then s.takeRsp ep tMSG_RSP else s)

/-- REG_RSP (R184). -/
def execRegRsp (ep : Nat) (s : State) : Host.Outcome State Fault Refusal :=
  .next (if (Instr.regRsp ep).wf && s.clocked then s.takeRsp ep tREG_RSP else s)

/-- TIMEOUT (R185). -/
def execTimeout (ep tag : Nat) (s : State) : Host.Outcome State Fault Refusal :=
  .next (if (Instr.timeout ep tag).wf && s.clocked then s.completeTracked ep tag stTIMEOUT else s)

/-- INGRESS_FLIT_GAP (R177). -/
def execFlitGap (ep : Nat) (s : State) : Host.Outcome State Fault Refusal :=
  .next (if (Instr.flitGap ep).wf && s.clocked then s.flitGap ep else s)

/-- FLUSH_IN (R179). -/
def execFlushIn (req : Req) (ep : Nat) (s : State) : Host.Outcome State Fault Refusal :=
  .next (if (Instr.flushIn req ep).wf && s.clocked then s.putReg req (rEPQ_CTL ep) (2 ^ 8 + s.rd32 (rEPQ_CTL ep) % 2 ^ 7) else s)

/-- FLUSH_OUT (R179). -/
def execFlushOut (req : Req) (ep : Nat) (s : State) : Host.Outcome State Fault Refusal :=
  .next (if (Instr.flushOut req ep).wf && s.clocked then s.putReg req (rEPQ_CTL ep) (2 ^ 9 + s.rd32 (rEPQ_CTL ep) % 2 ^ 7) else s)

/-- FLUSH_TAKES_EFFECT (R179). -/
def execFlushEffect (ep : Nat) (out : Bool) (s : State) : Host.Outcome State Fault Refusal :=
  .next (if (Instr.flushEffect ep out).wf && s.clocked then s.flushEffect ep out else s)

/-- DROP_REST_IN (R180). -/
def execDropRestIn (req : Req) (ep : Nat) (s : State) : Host.Outcome State Fault Refusal :=
  .next (if (Instr.dropRestIn req ep).wf && s.clocked then s.putReg req (rEPQ_CTL ep) (2 ^ 10 + s.rd32 (rEPQ_CTL ep) % 2 ^ 7) else s)

/-- DROP_REST_OUT (R180). -/
def execDropRestOut (req : Req) (ep : Nat) (s : State) : Host.Outcome State Fault Refusal :=
  .next (if (Instr.dropRestOut req ep).wf && s.clocked then s.putReg req (rEPQ_CTL ep) (2 ^ 11 + s.rd32 (rEPQ_CTL ep) % 2 ^ 7) else s)

/-- TX_ABORT (R181). -/
def execTxAbort (ep : Nat) (s : State) : Host.Outcome State Fault Refusal :=
  .next (if (Instr.txAbort ep).wf && s.clocked then s.txAbort ep else s)

/-- DRAIN (R182). -/
def execDrain (ep : Nat) (rsp : Bool) (s : State) : Host.Outcome State Fault Refusal :=
  .next (if (Instr.drain ep rsp).wf && s.clocked then (if s.stoppedEp ep then s else s.enterDrain ep rsp) else s)

/-- DRAIN_END (R182). -/
def execDrainEnd (ep : Nat) (s : State) : Host.Outcome State Fault Refusal :=
  .next (if (Instr.drainEnd ep).wf && s.clocked then s.drainEnd ep else s)

/-- UNREACH_TRACKER_SWEEP (R189). -/
def execSweep (dst : Nat) (s : State) : Host.Outcome State Fault Refusal :=
  .next (if (Instr.sweep dst).wf && s.clocked then s.sweep dst else s)

end Sys2Proof.Machine
end

