-- ==== Sys2Proof/Machine/CmdPin.lean ====
section
/-! DEFINITION. The meanings of the commands of pins and GPIO. Each acts where its operands are well formed, and where clocks run; what its event needs of
the state is checked by the operation it calls. -/

namespace Sys2Proof.Machine

/-- FUNC (R430). -/
def execFunc (req : Req) (pin code : Nat) (s : State) : Host.Outcome State Fault Refusal :=
  .next (if (Instr.func req pin code).wf && s.clocked then s.putReg req (pinCfg pin) (fPIN_CFG_FUNC.set (s.rd32 (pinCfg pin) % 2 ^ 17) code) else s)

/-- SWITCH_EDGE (R430). -/
def execSwitchEdge (pin : Nat) (s : State) : Host.Outcome State Fault Refusal :=
  .next (if (Instr.switchEdge pin).wf && s.clocked then s.switchEdge pin else s)

/-- HOLD_END (R430). -/
def execHoldEnd (pin : Nat) (s : State) : Host.Outcome State Fault Refusal :=
  .next (if (Instr.holdEnd pin).wf && s.clocked then s.holdEnd pin else s)

/-- SW_LATE (R431). -/
def execSwLate (pin : Nat) (s : State) : Host.Outcome State Fault Refusal :=
  .next (if (Instr.swLate pin).wf && s.clocked then s.swLate pin else s)

/-- GPIO_SET (R429). -/
def execGpioSet (req : Req) (bank : Nat) (hi : Bool) (bits : Nat) (s : State) : Host.Outcome State Fault Refusal :=
  .next (if (Instr.gpioSet req bank hi bits).wf && s.clocked then s.putReg req (rGPIO_SET_LO bank + 4 * b2n hi) bits else s)

/-- GPIO_CLR (R429). -/
def execGpioClr (req : Req) (bank : Nat) (hi : Bool) (bits : Nat) (s : State) : Host.Outcome State Fault Refusal :=
  .next (if (Instr.gpioClr req bank hi bits).wf && s.clocked then s.putReg req (rGPIO_CLR_LO bank + 4 * b2n hi) bits else s)

/-- GPIO_TGL (R429). -/
def execGpioTgl (req : Req) (bank : Nat) (hi : Bool) (bits : Nat) (s : State) : Host.Outcome State Fault Refusal :=
  .next (if (Instr.gpioTgl req bank hi bits).wf && s.clocked then s.putReg req (rGPIO_TGL_LO bank + 4 * b2n hi) bits else s)

/-- PIN_EVENT (R434). -/
def execPinEvent (line : Nat) (pad : Bool) (s : State) : Host.Outcome State Fault Refusal :=
  .next (if (Instr.pinEvent line pad).wf && s.clocked then s.pinEvent line pad else s)

/-- I2C_READ (R437). -/
def execI2cRead (addr : Nat) (s : State) : Host.Outcome State Fault Refusal :=
  .next (if (Instr.i2cRead addr).wf && s.clocked then s.i2cRead addr else s)

end Sys2Proof.Machine
end

