-- ==== Sys2Proof/Machine/CmdPort.lean ====
section
/-! DEFINITION. The meanings of the commands of the PCIe, CXL, Ethernet and Skeja ports. Each acts where its operands are well formed, and where clocks run; what its event needs of
the state is checked by the operation it calls. -/

namespace Sys2Proof.Machine

/-- LINK_UP (R344). -/
def execLinkUp (ev : LinkEvent) (s : State) : Host.Outcome State Fault Refusal :=
  .next (if (Instr.linkUp ev).wf && s.clocked then s.linkUp ev else s)

/-- LINK_DOWN (R348). -/
def execLinkDown (link : LinkName) (s : State) : Host.Outcome State Fault Refusal :=
  .next (if (Instr.linkDown link).wf && s.clocked then s.linkDown link else s)

/-- HOT_RESET (R416). -/
def execHotReset (port : Nat) (kind : PortReset) (s : State) : Host.Outcome State Fault Refusal :=
  .next (if (Instr.hotReset port kind).wf && s.clocked then s.portReset port kind else s)

/-- BAR0_ACCESS (R351). -/
def execBar0 (port func : Nat) (acc : HostAcc) (s : State) : Host.Outcome State Fault Refusal :=
  .next (if (Instr.bar0 port func acc).wf && s.clocked then s.wake.bar0 port func acc else s)

/-- BAR2_ACCESS (R352). -/
def execBar2 (port : Nat) (acc : HostAcc) (s : State) : Host.Outcome State Fault Refusal :=
  .next (if (Instr.bar2 port acc).wf && s.clocked then s.wake.bar2 port acc else s)

/-- INBOUND_REQUEST (R354). -/
def execInbound (port : Nat) (acc : HostAcc) (s : State) : Host.Outcome State Fault Refusal :=
  .next (if (Instr.inbound port acc).wf && s.clocked then s.inbound port acc else s)

/-- CXL_MEM_ACCESS (R355). -/
def execCxlMem (port : Nat) (acc : HostAcc) (s : State) : Host.Outcome State Fault Refusal :=
  .next (if (Instr.cxlMem port acc).wf && s.clocked then s.wake.cxlMem port acc else s)

/-- PTM_REQUEST (R356). -/
def execPtmRequest (port : Nat) (s : State) : Host.Outcome State Fault Refusal :=
  .next (if (Instr.ptmRequest port).wf && s.clocked then s.ptmRequest port else s)

/-- PCIE_FN_ASSIGN_WRITE (R350). -/
def execFnAssignWrite (req : Req) (port value : Nat) (s : State) : Host.Outcome State Fault Refusal :=
  .next (if (Instr.fnAssignWrite req port value).wf && s.clocked then s.putReg req (rPCIE_FN_ASSIGN port) value else s)

/-- PCIE_FN_LAYOUT_WRITE (R349). -/
def execFnLayoutWrite (req : Req) (port pf value : Nat) (s : State) : Host.Outcome State Fault Refusal :=
  .next (if (Instr.fnLayoutWrite req port pf value).wf && s.clocked then s.putReg req (rPCIE_FN_LAYOUT port pf) value else s)

/-- WINDOW_WRITE (R352). -/
def execWindowWrite (req : Req) (inbound : Bool) (port j part value : Nat) (s : State) : Host.Outcome State Fault Refusal :=
  .next (if (Instr.windowWrite req inbound port j part value).wf && s.clocked then
    if part = 0 then s.putReg64 req (winRegs inbound port j).1 value
      else if part = 1 then s.putReg req (winRegs inbound port j).2.1 value
      else if part = 2 then s.putReg req (winRegs inbound port j).2.2.1 value
      else s.putReg64 req (winRegs inbound port j).2.2.2 value
  else s)

/-- PCIE_RP_OWNER_WRITE (R354). -/
def execRpOwnerWrite (req : Req) (port value : Nat) (s : State) : Host.Outcome State Fault Refusal :=
  .next (if (Instr.rpOwnerWrite req port value).wf && s.clocked then s.putReg req (rPCIE_RP_OWNER port) value else s)

/-- ETH_FRAME_RECEIVE (R361). -/
def execEthReceive (mac : Nat) (frame : List Nat) (fcsOk : Bool) (s : State) : Host.Outcome State Fault Refusal :=
  .next (if (Instr.ethReceive mac frame fcsOk).wf && s.clocked then s.ethReceive mac frame fcsOk else s)

/-- ETH_STN_CFG_WRITE (R361). -/
def execStnCfgWrite (req : Req) (mac j value : Nat) (s : State) : Host.Outcome State Fault Refusal :=
  .next (if (Instr.stnCfgWrite req mac j value).wf && s.clocked then s.putReg req (rETH_STN_CFG mac j) value else s)

/-- SKEJA_FRAME_SEND (R372). -/
def execSkejaSend (k path : Nat) (s : State) : Host.Outcome State Fault Refusal :=
  .next (if (Instr.skejaSend k path).wf && s.clocked then s.skjSend k path else s)

/-- SKEJA_FRAME_RECEIVE (R367). -/
def execSkejaReceive (k path : Nat) (frame : SkFrame) (fecOk tagOk : Bool) (s : State) : Host.Outcome State Fault Refusal :=
  .next (if (Instr.skejaReceive k path frame fecOk tagOk).wf && s.clocked then s.skjReceive k path frame fecOk tagOk else s)

/-- NAK (R367). -/
def execNak (k path ack : Nat) (s : State) : Host.Outcome State Fault Refusal :=
  .next (if (Instr.nak k path ack).wf && s.clocked then s.nak k path ack else s)

/-- UDP_RESEND_TIMEOUT (R368). -/
def execUdpTimeout (k frames : Nat) (s : State) : Host.Outcome State Fault Refusal :=
  .next (if (Instr.udpTimeout k frames).wf && s.clocked then s.udpTimeout k frames else s)

/-- PATH_UP (R370). -/
def execPathUp (k path : Nat) (s : State) : Host.Outcome State Fault Refusal :=
  .next (if (Instr.pathUp k path).wf && s.clocked then s.pathStart k path else s)

/-- HANDSHAKE_END (R370). -/
def execHandshakeEnd (k path : Nat) (ok : Bool) (s : State) : Host.Outcome State Fault Refusal :=
  .next (if (Instr.handshakeEnd k path ok).wf && s.clocked then s.handshakeEnd k path ok else s)

/-- CHECK_VALUE_MATCH (R371). -/
def execCheckMatch (k : Nat) (s : State) : Host.Outcome State Fault Refusal :=
  .next (if (Instr.checkMatch k).wf && s.clocked then s.checkMatch k else s)

/-- PATH_DOWN (R373). -/
def execPathDown (k path : Nat) (s : State) : Host.Outcome State Fault Refusal :=
  .next (if (Instr.pathDown k path).wf && s.clocked then s.pathDown k path else s)

/-- TLP_COMPLETION (R347). -/
def execTlpCompletion (port tag : Nat) (result : TlpEnd) (s : State) : Host.Outcome State Fault Refusal :=
  .next (if (Instr.tlpCompletion port tag result).wf && s.clocked then s.tlpCompletion port tag result else s)

end Sys2Proof.Machine
end

