-- ==== Sys2Proof/Machine/CmdRegister.lean ====
section
/-! DEFINITION. The meanings of the commands of register access and interrupt delivery. Each acts where its operands are well formed, and where clocks run; what its event needs of
the state is checked by the operation it calls. -/

namespace Sys2Proof.Machine

/-- REG_WRITE (R7). -/
def execRegWrite (req : Req) (addr size value : Nat) (s : State) : Host.Outcome State Fault Refusal :=
  .next (if (Instr.regWrite req addr size value).wf && s.clocked then s.regWrite req addr size value else s)

/-- RC_READ (R8). -/
def execRcRead (req : Req) (addr size : Nat) (s : State) : Host.Outcome State Fault Refusal :=
  .next (if (Instr.rcRead req addr size).wf && s.clocked then s.regRead req addr size 0 else s)

/-- NARROW_ACCESS (R5). -/
def execNarrowAccess (req : Req) (addr : Nat) (half : Bool) (write : Option Nat) (s : State) : Host.Outcome State Fault Refusal :=
  .next (if (Instr.narrowAccess req addr half write).wf && s.clocked then
    (match write with
      | some v => s.regWrite req addr (if half then 2 else 1) v
      | none => s.regRead req addr (if half then 2 else 1) 0)
  else s)

/-- REG64_LOW_WORD_READ (R6). -/
def execReg64LowRead (req : Req) (addr : Nat) (s : State) : Host.Outcome State Fault Refusal :=
  .next (if (Instr.reg64LowRead req addr).wf && s.clocked then s.regRead req addr 4 0 else s)

/-- REG64_LOW_WORD_WRITE (R6). -/
def execReg64LowWrite (req : Req) (addr value : Nat) (s : State) : Host.Outcome State Fault Refusal :=
  .next (if (Instr.reg64LowWrite req addr value).wf && s.clocked then s.regWrite req addr 4 value else s)

/-- REG64_HIGH_WORD_WRITE (R6). -/
def execReg64HighWrite (req : Req) (addr value : Nat) (s : State) : Host.Outcome State Fault Refusal :=
  .next (if (Instr.reg64HighWrite req addr value).wf && s.clocked then s.regWrite req addr 4 value else s)

/-- SOFT_RST (R465). -/
def execSoftRst (req : Req) (page : Nat) (enable : Bool) (s : State) : Host.Outcome State Fault Refusal :=
  .next (if (Instr.softRst req page enable).wf && s.clocked then s.putReg req (rPAGE_CTRL (4096 * page)) (2 + b2n enable) else s)

/-- IRQ_FORCE (R460). -/
def execIrqForce (req : Req) (page bits : Nat) (s : State) : Host.Outcome State Fault Refusal :=
  .next (if (Instr.irqForce req page bits).wf && s.clocked then s.putReg req (rIRQ_FORCE (4096 * page)) bits else s)

/-- LOCKED (R466). -/
def execLockPage (req : Req) (page : Nat) (s : State) : Host.Outcome State Fault Refusal :=
  .next (if (Instr.lockPage req page).wf && s.clocked then s.putReg req (rLOCK (4096 * page)) 1 else s)

/-- ERR_FIRST_CLEAR (R461). -/
def execErrFirstClear (req : Req) (page : Nat) (s : State) : Host.Outcome State Fault Refusal :=
  .next (if (Instr.errFirstClear req page).wf && s.clocked then s.putReg req (rERR_FIRST (4096 * page)) (2 ^ 31) else s)

/-- STALL_WINDOW_ACCESS (R470). -/
def execStallWindow (stall addr size : Nat) (write : Option Nat) (upset : Nat) (s : State) : Host.Outcome State Fault Refusal :=
  .next (if (Instr.stallWindow stall addr size write upset).wf && s.clocked then
    (if inWindow addr then State.showEnd (s.regAccess (.stall stall) addr size write upset) (.stall stall) addr write.isNone else s)
  else s)

/-- SUMMARY_PUSH (R472). -/
def execSummaryPush (s : State) : Host.Outcome State Fault Refusal :=
  .next (if Instr.summaryPush.wf && s.clocked then s.summaryPush else s)

/-- MSIX_SEND (R473). -/
def execMsixSend (view : Nat) (s : State) : Host.Outcome State Fault Refusal :=
  .next (if (Instr.msixSend view).wf && s.clocked then s.msixSend view else s)

/-- AGG_POP (R472). -/
def execAggPop (req : Req) (view : Nat) (s : State) : Host.Outcome State Fault Refusal :=
  .next (if (Instr.aggPop req view).wf && s.clocked then s.putReg req (rAGG_POP view) 1 else s)

end Sys2Proof.Machine
end

