-- ==== Sys2Proof/Machine/CmdReset.lean ====
section
/-! DEFINITION. The meanings of the commands of resets and start. Each acts where its operands are well formed, and, but for a reset or a rail, where clocks run; what its event needs of
the state is checked by the operation it calls. -/

namespace Sys2Proof.Machine

/-- DEVICE_RESET (R417). -/
def execDeviceReset (env : StartEnv) (s : State) : Host.Outcome State Fault Refusal :=
  .next (if (Instr.deviceReset env).wf then s.deviceReset causeRIVERBED env else s)

/-- POWER_GOOD (R476). -/
def execPowerGood (env : StartEnv) (s : State) : Host.Outcome State Fault Refusal :=
  .next (if (Instr.powerGood env).wf then s.powerGood env else s)

/-- SYS_RST_N (R416). -/
def execSysRst (env : StartEnv) (s : State) : Host.Outcome State Fault Refusal :=
  .next (if (Instr.sysRst env).wf then s.deviceReset causeSYS_RST env else s)

/-- THERM_ALERT (R486). -/
def execThermAlert (hot : Bool) (s : State) : Host.Outcome State Fault Refusal :=
  .next (if (Instr.thermAlert hot).wf then s.thermAlert hot else s)

end Sys2Proof.Machine
end

