-- ==== Sys2Proof/Machine/CmdStall.lean ====
section
/-! DEFINITION. The meanings of the commands of loading and swapping stalls. Each acts where its operands are well formed, and where clocks run; what its event needs of
the state is checked by the operation it calls. -/

namespace Sys2Proof.Machine

/-- SPINE_CLOCK_FORCE_OFF (R249). -/
def execClockForceOff (stall : Nat) (s : State) : Host.Outcome State Fault Refusal :=
  .next (if (Instr.clockForceOff stall).wf && s.clocked then s.forceOff stall else s)

/-- FLIP_FLOP_EXCHANGE (R249). -/
def execFfExchange (stall : Nat) (bad : List Nat) (s : State) : Host.Outcome State Fault Refusal :=
  .next (if (Instr.ffExchange stall bad).wf && s.clocked then s.exchange stall bad else s)

/-- SWAP_ZEROING (R250). -/
def execSwapZeroing (stall : Nat) (s : State) : Host.Outcome State Fault Refusal :=
  .next (if (Instr.swapZeroing stall).wf && s.clocked then s.swapZero stall else s)

/-- MESH_QUIET (R248). -/
def execMeshQuiet (stall : Nat) (s : State) : Host.Outcome State Fault Refusal :=
  .next (if (Instr.meshQuiet stall).wf && s.clocked then s.meshQuiet stall else s)

/-- PLANE_FLIP (R247). -/
def execPlaneFlip (stall : Nat) (s : State) : Host.Outcome State Fault Refusal :=
  .next (if (Instr.planeFlip stall).wf && s.clocked then s.planeFlip stall else s)

/-- FILL_END (R251). -/
def execFillEnd (stall : Nat) (s : State) : Host.Outcome State Fault Refusal :=
  .next (if (Instr.fillEnd stall).wf && s.clocked then s.fillEnd stall else s)

/-- LOAD_END (R243). -/
def execLoadEnd (stall : Nat) (s : State) : Host.Outcome State Fault Refusal :=
  .next (if (Instr.loadEnd stall).wf && s.clocked then s.loadEnd stall else s)

end Sys2Proof.Machine
end

