-- ==== Sys2Proof/Machine/CmdTide.lean ====
section
/-! DEFINITION. The meanings of the commands of Tide, the tree of devices and the Tally. Each acts where its operands are well formed, and where clocks run; what its event needs of
the state is checked by the operation it calls. -/

namespace Sys2Proof.Machine

/-- TIDE_IN_FRAME (R290). -/
def execTideIn (value crc age : Nat) (first : Bool) (s : State) : Host.Outcome State Fault Refusal :=
  .next (if (Instr.tideIn value crc age first).wf && s.clocked then s.tideInFrame value crc age first else s)

/-- PTM_EXCHANGE (R289). -/
def execPtmExchange (port value age : Nat) (s : State) : Host.Outcome State Fault Refusal :=
  .next (if (Instr.ptmExchange port value age).wf && s.clocked then s.ptmExchange port value age else s)

/-- SOURCE_LOST (R289). -/
def execSourceLost (s : State) : Host.Outcome State Fault Refusal :=
  .next (if Instr.sourceLost.wf && s.clocked then s.sourceLost else s)

/-- HOLDOVER_EXPIRE (R291). -/
def execHoldoverExpire (s : State) : Host.Outcome State Fault Refusal :=
  .next (if Instr.holdoverExpire.wf && s.clocked then s.holdoverExpire else s)

/-- FREEZE_END (R292). -/
def execFreezeEnd (s : State) : Host.Outcome State Fault Refusal :=
  .next (if Instr.freezeEnd.wf && s.clocked then s.freezeEnd else s)

/-- ALARM_FIRE (R296). -/
def execAlarmFire (s : State) : Host.Outcome State Fault Refusal :=
  .next (if Instr.alarmFire.wf && s.clocked then s.alarmFire else s)

/-- ARM (R299). -/
def execArm (req : Req) (stall j : Nat) (signal : Bool) (s : State) : Host.Outcome State Fault Refusal :=
  .next (if (Instr.arm req stall j signal).wf && s.clocked then
    s.putReg req (rSTALL_ALARM_CTL stall) (Fld.set ⟨16 + j, 1⟩ (s.alarmSignals stall) (b2n signal) + 2 ^ j)
  else s)

/-- DISARM (R299). -/
def execDisarm (req : Req) (stall j : Nat) (s : State) : Host.Outcome State Fault Refusal :=
  .next (if (Instr.disarm req stall j).wf && s.clocked then s.putReg req (rSTALL_ALARM_CTL stall) (s.alarmSignals stall + 2 ^ (4 + j)) else s)

/-- FIRED (R299). -/
def execFiredClear (req : Req) (stall j : Nat) (s : State) : Host.Outcome State Fault Refusal :=
  .next (if (Instr.firedClear req stall j).wf && s.clocked then s.putReg req (rSTALL_ALARM_CTL stall) (s.alarmSignals stall + 2 ^ (8 + j)) else s)

/-- TIDE_CFG_REFCLK (R294). -/
def execTideRefclk (req : Req) (pair : Nat) (s : State) : Host.Outcome State Fault Refusal :=
  .next (if (Instr.tideRefclk req pair).wf && s.clocked then s.putReg req (rTIDE_CFG 0) (fTIDE_CFG_REFCLK.set (s.rd32 (rTIDE_CFG 0)) pair) else s)

/-- HELLO_SEND (R302). -/
def execHelloSend (s : State) : Host.Outcome State Fault Refusal :=
  .next (if Instr.helloSend.wf && s.clocked then s.helloSend else s)

/-- HELLO (R302). -/
def execHello (seen : List (Nat × Nat × Nat × Nat)) (s : State) : Host.Outcome State Fault Refusal :=
  .next (if (Instr.hello seen).wf && s.clocked then s.hello seen else s)

/-- JOIN (R302). -/
def execJoin (slot serial : Nat) (path : List Nat) (s : State) : Host.Outcome State Fault Refusal :=
  .next (if (Instr.join slot serial path).wf && s.clocked then s.join slot serial path else s)

/-- JOIN_ACK (R302). -/
def execJoinAck (slot : Nat) (path : List Nat) (node : Option Nat) (s : State) : Host.Outcome State Fault Refusal :=
  .next (if (Instr.joinAck slot path node).wf && s.clocked then s.joinAck slot path node else s)

/-- TREE_LEAVE (R303). -/
def execTreeLeave (s : State) : Host.Outcome State Fault Refusal :=
  .next (if Instr.treeLeave.wf && s.clocked then s.treeLeave else s)

/-- SYNC_SEND (R305). -/
def execSyncSend (s : State) : Host.Outcome State Fault Refusal :=
  .next (if Instr.syncSend.wf && s.clocked then s.syncSend else s)

/-- SYNC (R305). -/
def execSync (slot t1 : Nat) (s : State) : Host.Outcome State Fault Refusal :=
  .next (if (Instr.sync slot t1).wf && s.clocked then s.sync slot t1 else s)

/-- DELAY_REQ (R305). -/
def execDelayReq (slot : Nat) (s : State) : Host.Outcome State Fault Refusal :=
  .next (if (Instr.delayReq slot).wf && s.clocked then s.delayReq slot else s)

/-- DELAY_RSP (R305). -/
def execDelayRsp (slot t4 : Nat) (s : State) : Host.Outcome State Fault Refusal :=
  .next (if (Instr.delayRsp slot t4).wf && s.clocked then s.delayRsp slot t4 else s)

/-- CMD (R308). -/
def execCmd (slot fan node scope : Nat) (words : List Nat) (ret : Option (Nat × Nat)) (s : State) : Host.Outcome State Fault Refusal :=
  .next (if (Instr.cmd slot fan node scope words ret).wf && s.clocked then s.cmd slot fan node scope words ret else s)

/-- CPL (R310). -/
def execCpl (slot fan node serial w0 w1 data : Nat) (s : State) : Host.Outcome State Fault Refusal :=
  .next (if (Instr.cpl slot fan node serial w0 w1 data).wf && s.clocked then s.cpl slot fan node serial w0 w1 data else s)

/-- STAGE (R309). -/
def execStage (slot fan buffer offset : Nat) (data targets : List Nat) (s : State) : Host.Outcome State Fault Refusal :=
  .next (if (Instr.stage slot fan buffer offset data targets).wf && s.clocked then s.stageMsg slot fan buffer offset data targets else s)

/-- RETURN (R310). -/
def execRet (slot fan node offset : Nat) (data : List Nat) (s : State) : Host.Outcome State Fault Refusal :=
  .next (if (Instr.ret slot fan node offset data).wf && s.clocked then s.retMsg slot fan node offset data else s)

/-- TALLY_EPOCH_CLOSE (R313). -/
def execEpochClose (s : State) : Host.Outcome State Fault Refusal :=
  .next (if Instr.epochClose.wf && s.clocked then s.closeEpoch else s)

/-- TALLY_CHECKPOINT (R314). -/
def execCheckpoint (faults : List LeafFault) (suspects : List (Nat × Nat)) (s : State) : Host.Outcome State Fault Refusal :=
  .next (if (Instr.checkpoint faults suspects).wf && s.clocked then s.checkpoint faults suspects else s)

end Sys2Proof.Machine
end

