-- ==== Sys2Proof/Machine/CmdTolmor.lean ====
section
/-! DEFINITION. The meanings of the commands of Tolmor, its mailboxes, tests and logs. Each acts where its operands are well formed, and where clocks run; what its event needs of
the state is checked by the operation it calls. -/

namespace Sys2Proof.Machine

/-- RING (R272). -/
def execRing (req : Req) (box : Nat) (s : State) : Host.Outcome State Fault Refusal :=
  .next (if (Instr.ring req box).wf && s.clocked then s.putReg req (rMB_DOORBELL box) 1 else s)

/-- COMMAND_TAKE (R270). -/
def execCommandTake (env : CmdEnv) (s : State) : Host.Outcome State Fault Refusal :=
  .next (if (Instr.commandTake env).wf && s.clocked then s.ownerChange (s.commandTake env) else s)

/-- DEFERRED_COMPLETION (R269). -/
def execDeferredEnd (box ticket : Nat) (copied : Bool) (s : State) : Host.Outcome State Fault Refusal :=
  .next (if (Instr.deferredEnd box ticket copied).wf && s.clocked then s.ownerChange (s.deferredEnd box ticket copied) else s)

/-- MB_CPL_POP (R271). -/
def execCplPop (req : Req) (box : Nat) (s : State) : Host.Outcome State Fault Refusal :=
  .next (if (Instr.cplPop req box).wf && s.clocked then s.putReg req (rMB_CPL_POP box) 1 else s)

/-- FANOUT_END (R310). -/
def execFanoutEnd (id : Nat) (timeout copied : Bool) (s : State) : Host.Outcome State Fault Refusal :=
  .next (if (Instr.fanoutEnd id timeout copied).wf && s.clocked then s.fanEnd id timeout copied else s)

/-- TEST_RUN_START (R281). -/
def execTestStart (kind index : Nat) (s : State) : Host.Outcome State Fault Refusal :=
  .next (if (Instr.testStart kind index).wf && s.clocked then s.testRunStart kind index else s)

/-- TEST_END (R281). -/
def execTestEnd (kind index : Nat) (ok : Bool) (data : Nat) (s : State) : Host.Outcome State Fault Refusal :=
  .next (if (Instr.testEnd kind index ok data).wf && s.clocked then s.testEnd kind index ok data else s)

/-- EXPIRED (R281). -/
def execExpired (box ticket : Nat) (s : State) : Host.Outcome State Fault Refusal :=
  .next (if (Instr.expired box ticket).wf && s.clocked then s.testExpired box ticket else s)

/-- LOCKSTEP_DISAGREE (R262). -/
def execLockstepDisagree (core : Option Nat) (s : State) : Host.Outcome State Fault Refusal :=
  .next (if (Instr.lockstepDisagree core).wf && s.clocked then s.lockstepDisagree core else s)

/-- TRIPLE_RESTORE (R262). -/
def execTripleRestore (s : State) : Host.Outcome State Fault Refusal :=
  .next (if Instr.tripleRestore.wf && s.clocked then s.tripleRestore else s)

/-- SRAM_SCRUB (R259). -/
def execSramScrub (uncorr : Bool) (s : State) : Host.Outcome State Fault Refusal :=
  .next (if (Instr.sramScrub uncorr).wf && s.clocked then s.sramScrub uncorr else s)

/-- EVENT_LOG_COPY (R286). -/
def execEventLogCopy (source index : Nat) (s : State) : Host.Outcome State Fault Refusal :=
  .next (if (Instr.eventLogCopy source index).wf && s.clocked then s.eventLogCopy source index else s)

end Sys2Proof.Machine
end

