-- ==== Sys2Proof/Machine/Dispatch.lean ====
section
/-! DEFINITION. The dispatch of commands to their meanings, one arm per constructor. -/

namespace Sys2Proof.Machine

/-- The effect of a command on everything but the queue. -/
def exec (i : Instr) (s : State) : Host.Outcome State Fault Refusal :=
  match i with
  | .regWrite req addr size value => Sys2Proof.Machine.execRegWrite req addr size value s
  | .rcRead req addr size => Sys2Proof.Machine.execRcRead req addr size s
  | .narrowAccess req addr half write => Sys2Proof.Machine.execNarrowAccess req addr half write s
  | .reg64LowRead req addr => Sys2Proof.Machine.execReg64LowRead req addr s
  | .reg64LowWrite req addr value => Sys2Proof.Machine.execReg64LowWrite req addr value s
  | .reg64HighWrite req addr value => Sys2Proof.Machine.execReg64HighWrite req addr value s
  | .softRst req page enable => Sys2Proof.Machine.execSoftRst req page enable s
  | .irqForce req page bits => Sys2Proof.Machine.execIrqForce req page bits s
  | .lockPage req page => Sys2Proof.Machine.execLockPage req page s
  | .errFirstClear req page => Sys2Proof.Machine.execErrFirstClear req page s
  | .stallWindow stall addr size write upset => Sys2Proof.Machine.execStallWindow stall addr size write upset s
  | .summaryPush => Sys2Proof.Machine.execSummaryPush s
  | .msixSend view => Sys2Proof.Machine.execMsixSend view s
  | .aggPop req view => Sys2Proof.Machine.execAggPop req view s
  | .deviceReset env => Sys2Proof.Machine.execDeviceReset env s
  | .powerGood env => Sys2Proof.Machine.execPowerGood env s
  | .sysRst env => Sys2Proof.Machine.execSysRst env s
  | .scrubVisit yard => Sys2Proof.Machine.execScrubVisit yard s
  | .scrubStart yard => Sys2Proof.Machine.execScrubStart yard s
  | .fifoReset shed block => Sys2Proof.Machine.execFifoReset shed block s
  | .tribContention trib => Sys2Proof.Machine.execTribContention trib s
  | .start req n => Sys2Proof.Machine.execStart req n s
  | .startExecute n => Sys2Proof.Machine.execStartExecute n s
  | .stop req n => Sys2Proof.Machine.execStop req n s
  | .stopEffect n => Sys2Proof.Machine.execStopEffect n s
  | .resume req n => Sys2Proof.Machine.execResume req n s
  | .kick req n => Sys2Proof.Machine.execKick req n s
  | .eddyCfgWrite req n value => Sys2Proof.Machine.execEddyCfgWrite req n value s
  | .bundleIssue n env => Sys2Proof.Machine.execBundleIssue n env s
  | .lockGrant mem => Sys2Proof.Machine.execLockGrant mem s
  | .lockTimeout n env => Sys2Proof.Machine.execLockTimeout n env s
  | .watchdog n env => Sys2Proof.Machine.execWatchdog n env s
  | .memDataWrite req n value upset => Sys2Proof.Machine.execMemDataWrite req n value upset s
  | .memDataRead req n upset => Sys2Proof.Machine.execMemDataRead req n upset s
  | .streamFlushIn req n => Sys2Proof.Machine.execStreamFlushIn req n s
  | .streamFlushOut req n => Sys2Proof.Machine.execStreamFlushOut req n s
  | .capPop req n => Sys2Proof.Machine.execCapPop req n s
  | .streamSource req n value => Sys2Proof.Machine.execStreamSource req n value s
  | .stimIn req n k value => Sys2Proof.Machine.execStimIn req n k value s
  | .streamIn n word => Sys2Proof.Machine.execStreamIn n word s
  | .streamOut n => Sys2Proof.Machine.execStreamOut n s
  | .transferBegin n => Sys2Proof.Machine.execTransferBegin n s
  | .transferLine n idx upsets => Sys2Proof.Machine.execTransferLine n idx upsets s
  | .transferComplete n idx upsets => Sys2Proof.Machine.execTransferComplete n idx upsets s
  | .ingress ep op => Sys2Proof.Machine.execIngress ep op s
  | .routerHeader pkt errs => Sys2Proof.Machine.execRouterHeader pkt errs s
  | .egress ep op => Sys2Proof.Machine.execEgress ep op s
  | .rd ep pkt faults env => Sys2Proof.Machine.execRd ep pkt faults env s
  | .wr ep pkt faults env => Sys2Proof.Machine.execWr ep pkt faults env s
  | .msg ep pkt faults env => Sys2Proof.Machine.execMsg ep pkt faults env s
  | .regRd ep pkt upset => Sys2Proof.Machine.execRegRd ep pkt upset s
  | .regWr ep pkt upset => Sys2Proof.Machine.execRegWr ep pkt upset s
  | .rdRsp ep => Sys2Proof.Machine.execRdRsp ep s
  | .wrRsp ep => Sys2Proof.Machine.execWrRsp ep s
  | .msgRsp ep => Sys2Proof.Machine.execMsgRsp ep s
  | .regRsp ep => Sys2Proof.Machine.execRegRsp ep s
  | .timeout ep tag => Sys2Proof.Machine.execTimeout ep tag s
  | .flitGap ep => Sys2Proof.Machine.execFlitGap ep s
  | .flushIn req ep => Sys2Proof.Machine.execFlushIn req ep s
  | .flushOut req ep => Sys2Proof.Machine.execFlushOut req ep s
  | .flushEffect ep out => Sys2Proof.Machine.execFlushEffect ep out s
  | .dropRestIn req ep => Sys2Proof.Machine.execDropRestIn req ep s
  | .dropRestOut req ep => Sys2Proof.Machine.execDropRestOut req ep s
  | .txAbort ep => Sys2Proof.Machine.execTxAbort ep s
  | .drain ep rsp => Sys2Proof.Machine.execDrain ep rsp s
  | .drainEnd ep => Sys2Proof.Machine.execDrainEnd ep s
  | .sweep dst => Sys2Proof.Machine.execSweep dst s
  | .hbmError port => Sys2Proof.Machine.execHbmError port s
  | .create req port region => Sys2Proof.Machine.execCreate req port region s
  | .zeroingEnd port => Sys2Proof.Machine.execZeroingEnd port s
  | .destroy req port region => Sys2Proof.Machine.execDestroy req port region s
  | .rekey req port region => Sys2Proof.Machine.execRekey req port region s
  | .walkTake port faults => Sys2Proof.Machine.execWalkTake port faults s
  | .walkDone port => Sys2Proof.Machine.execWalkDone port s
  | .finish req port region => Sys2Proof.Machine.execFinish req port region s
  | .slotZeroise slot frames => Sys2Proof.Machine.execSlotZeroise slot frames s
  | .wearWarn req value => Sys2Proof.Machine.execWearWarn req value s
  | .cxlLinkDown n => Sys2Proof.Machine.execCxlLinkDown n s
  | .clockForceOff stall => Sys2Proof.Machine.execClockForceOff stall s
  | .ffExchange stall bad => Sys2Proof.Machine.execFfExchange stall bad s
  | .swapZeroing stall => Sys2Proof.Machine.execSwapZeroing stall s
  | .meshQuiet stall => Sys2Proof.Machine.execMeshQuiet stall s
  | .planeFlip stall => Sys2Proof.Machine.execPlaneFlip stall s
  | .fillEnd stall => Sys2Proof.Machine.execFillEnd stall s
  | .loadEnd stall => Sys2Proof.Machine.execLoadEnd stall s
  | .ring req box => Sys2Proof.Machine.execRing req box s
  | .commandTake env => Sys2Proof.Machine.execCommandTake env s
  | .deferredEnd box ticket copied => Sys2Proof.Machine.execDeferredEnd box ticket copied s
  | .cplPop req box => Sys2Proof.Machine.execCplPop req box s
  | .fanoutEnd id timeout copied => Sys2Proof.Machine.execFanoutEnd id timeout copied s
  | .testStart kind index => Sys2Proof.Machine.execTestStart kind index s
  | .testEnd kind index ok data => Sys2Proof.Machine.execTestEnd kind index ok data s
  | .expired box ticket => Sys2Proof.Machine.execExpired box ticket s
  | .lockstepDisagree core => Sys2Proof.Machine.execLockstepDisagree core s
  | .tripleRestore => Sys2Proof.Machine.execTripleRestore s
  | .sramScrub uncorr => Sys2Proof.Machine.execSramScrub uncorr s
  | .eventLogCopy source index => Sys2Proof.Machine.execEventLogCopy source index s
  | .tideIn value crc age first => Sys2Proof.Machine.execTideIn value crc age first s
  | .ptmExchange port value age => Sys2Proof.Machine.execPtmExchange port value age s
  | .sourceLost => Sys2Proof.Machine.execSourceLost s
  | .holdoverExpire => Sys2Proof.Machine.execHoldoverExpire s
  | .freezeEnd => Sys2Proof.Machine.execFreezeEnd s
  | .alarmFire => Sys2Proof.Machine.execAlarmFire s
  | .arm req stall j signal => Sys2Proof.Machine.execArm req stall j signal s
  | .disarm req stall j => Sys2Proof.Machine.execDisarm req stall j s
  | .firedClear req stall j => Sys2Proof.Machine.execFiredClear req stall j s
  | .tideRefclk req pair => Sys2Proof.Machine.execTideRefclk req pair s
  | .helloSend => Sys2Proof.Machine.execHelloSend s
  | .hello seen => Sys2Proof.Machine.execHello seen s
  | .join slot serial path => Sys2Proof.Machine.execJoin slot serial path s
  | .joinAck slot path node => Sys2Proof.Machine.execJoinAck slot path node s
  | .treeLeave => Sys2Proof.Machine.execTreeLeave s
  | .syncSend => Sys2Proof.Machine.execSyncSend s
  | .sync slot t1 => Sys2Proof.Machine.execSync slot t1 s
  | .delayReq slot => Sys2Proof.Machine.execDelayReq slot s
  | .delayRsp slot t4 => Sys2Proof.Machine.execDelayRsp slot t4 s
  | .cmd slot fan node scope words ret => Sys2Proof.Machine.execCmd slot fan node scope words ret s
  | .cpl slot fan node serial w0 w1 data => Sys2Proof.Machine.execCpl slot fan node serial w0 w1 data s
  | .stage slot fan buffer offset data targets => Sys2Proof.Machine.execStage slot fan buffer offset data targets s
  | .ret slot fan node offset data => Sys2Proof.Machine.execRet slot fan node offset data s
  | .epochClose => Sys2Proof.Machine.execEpochClose s
  | .checkpoint faults suspects => Sys2Proof.Machine.execCheckpoint faults suspects s
  | .refclkLoss pair => Sys2Proof.Machine.execRefclkLoss pair s
  | .fixrefHoldEnd => Sys2Proof.Machine.execFixrefHoldEnd s
  | .refclkReturn pair => Sys2Proof.Machine.execRefclkReturn pair s
  | .refReturn env => Sys2Proof.Machine.execRefReturn env s
  | .clockLoss clock env => Sys2Proof.Machine.execClockLoss clock env s
  | .spineSel req shed value => Sys2Proof.Machine.execSpineSel req shed value s
  | .clksel shed k level => Sys2Proof.Machine.execClksel shed k level s
  | .spineSwitch shed k => Sys2Proof.Machine.execSpineSwitch shed k s
  | .force req shed k => Sys2Proof.Machine.execForce req shed k s
  | .drst req shed k => Sys2Proof.Machine.execDrst req shed k s
  | .drstRelease shed k => Sys2Proof.Machine.execDrstRelease shed k s
  | .pllCfgWrite req yard pll out value => Sys2Proof.Machine.execPllCfgWrite req yard pll out value s
  | .fmeasStart req value => Sys2Proof.Machine.execFmeasStart req value s
  | .fmeasEnd edges => Sys2Proof.Machine.execFmeasEnd edges s
  | .powerEval => Sys2Proof.Machine.execPowerEval s
  | .ltolWrite req port value => Sys2Proof.Machine.execLtolWrite req port value s
  | .wake => Sys2Proof.Machine.execWake s
  | .exitComplete => Sys2Proof.Machine.execExitComplete s
  | .signalDetect lane => Sys2Proof.Machine.execSignalDetect lane s
  | .cdrLock lane => Sys2Proof.Machine.execCdrLock lane s
  | .polarity lane inverse => Sys2Proof.Machine.execPolarity lane inverse s
  | .adaptDone lane eye => Sys2Proof.Machine.execAdaptDone lane eye s
  | .alignDone lane logical => Sys2Proof.Machine.execAlignDone lane logical s
  | .stageTimeout lane => Sys2Proof.Machine.execStageTimeout lane s
  | .signalLoss lane unlock => Sys2Proof.Machine.execSignalLoss lane unlock s
  | .calibrationEnd lane ok => Sys2Proof.Machine.execCalibrationEnd lane ok s
  | .inject req lane => Sys2Proof.Machine.execInject req lane s
  | .prbsClear req lane => Sys2Proof.Machine.execPrbsClear req lane s
  | .prbsLock lane => Sys2Proof.Machine.execPrbsLock lane s
  | .prbsLost lane bits errs => Sys2Proof.Machine.execPrbsLost lane bits errs s
  | .fabCfgWrite req lane value => Sys2Proof.Machine.execFabCfgWrite req lane value s
  | .txEqWrite req lane value => Sys2Proof.Machine.execTxEqWrite req lane value s
  | .bridgeSend lane lines => Sys2Proof.Machine.execBridgeSend lane lines s
  | .bridgeTimer lane lines => Sys2Proof.Machine.execBridgeTimer lane lines s
  | .linkUp ev => Sys2Proof.Machine.execLinkUp ev s
  | .linkDown link => Sys2Proof.Machine.execLinkDown link s
  | .hotReset port kind => Sys2Proof.Machine.execHotReset port kind s
  | .bar0 port func acc => Sys2Proof.Machine.execBar0 port func acc s
  | .bar2 port acc => Sys2Proof.Machine.execBar2 port acc s
  | .inbound port acc => Sys2Proof.Machine.execInbound port acc s
  | .cxlMem port acc => Sys2Proof.Machine.execCxlMem port acc s
  | .ptmRequest port => Sys2Proof.Machine.execPtmRequest port s
  | .fnAssignWrite req port value => Sys2Proof.Machine.execFnAssignWrite req port value s
  | .fnLayoutWrite req port pf value => Sys2Proof.Machine.execFnLayoutWrite req port pf value s
  | .windowWrite req inbound port j part value => Sys2Proof.Machine.execWindowWrite req inbound port j part value s
  | .rpOwnerWrite req port value => Sys2Proof.Machine.execRpOwnerWrite req port value s
  | .ethReceive mac frame fcsOk => Sys2Proof.Machine.execEthReceive mac frame fcsOk s
  | .stnCfgWrite req mac j value => Sys2Proof.Machine.execStnCfgWrite req mac j value s
  | .skejaSend k path => Sys2Proof.Machine.execSkejaSend k path s
  | .skejaReceive k path frame fecOk tagOk => Sys2Proof.Machine.execSkejaReceive k path frame fecOk tagOk s
  | .nak k path ack => Sys2Proof.Machine.execNak k path ack s
  | .udpTimeout k frames => Sys2Proof.Machine.execUdpTimeout k frames s
  | .pathUp k path => Sys2Proof.Machine.execPathUp k path s
  | .handshakeEnd k path ok => Sys2Proof.Machine.execHandshakeEnd k path ok s
  | .checkMatch k => Sys2Proof.Machine.execCheckMatch k s
  | .pathDown k path => Sys2Proof.Machine.execPathDown k path s
  | .weirMil bundle half data sb err fix => Sys2Proof.Machine.execWeirMil bundle half data sb err fix s
  | .weirTrib bundle skip err fix => Sys2Proof.Machine.execWeirTrib bundle skip err fix s
  | .shadowAdvance bundle half => Sys2Proof.Machine.execShadowAdvance bundle half s
  | .lchkReq bundle half errs => Sys2Proof.Machine.execLchkReq bundle half errs s
  | .laneCheckEnd bundle half errs persists => Sys2Proof.Machine.execLaneCheckEnd bundle half errs persists s
  | .clocksLost bundle bits => Sys2Proof.Machine.execClocksLost bundle bits s
  | .repairFuse => Sys2Proof.Machine.execRepairFuse s
  | .ucieFail ford module => Sys2Proof.Machine.execUcieFail ford module s
  | .quarantine die cause => Sys2Proof.Machine.execQuarantine die cause s
  | .readmission die supplier rev admitted env => Sys2Proof.Machine.execReadmission die supplier rev admitted env s
  | .railLoss rail back => Sys2Proof.Machine.execRailLoss rail back s
  | .thermTrip => Sys2Proof.Machine.execThermTrip s
  | .idcode tap => Sys2Proof.Machine.execIdcode tap s
  | .samplePreload tap value => Sys2Proof.Machine.execSamplePreload tap value s
  | .extest tap => Sys2Proof.Machine.execExtest tap s
  | .extestPulse tap => Sys2Proof.Machine.execExtestPulse tap s
  | .extestTrain tap => Sys2Proof.Machine.execExtestTrain tap s
  | .highz tap => Sys2Proof.Machine.execHighz tap s
  | .clamp tap => Sys2Proof.Machine.execClamp tap s
  | .bypass tap => Sys2Proof.Machine.execBypass tap s
  | .mbox tap => Sys2Proof.Machine.execMbox tap s
  | .jtagRead addr => Sys2Proof.Machine.execJtagRead addr s
  | .jtagWrite addr value => Sys2Proof.Machine.execJtagWrite addr value s
  | .testLogicReset => Sys2Proof.Machine.execTestLogicReset s
  | .func req pin code => Sys2Proof.Machine.execFunc req pin code s
  | .switchEdge pin => Sys2Proof.Machine.execSwitchEdge pin s
  | .holdEnd pin => Sys2Proof.Machine.execHoldEnd pin s
  | .swLate pin => Sys2Proof.Machine.execSwLate pin s
  | .gpioSet req bank hi bits => Sys2Proof.Machine.execGpioSet req bank hi bits s
  | .gpioClr req bank hi bits => Sys2Proof.Machine.execGpioClr req bank hi bits s
  | .gpioTgl req bank hi bits => Sys2Proof.Machine.execGpioTgl req bank hi bits s
  | .pinEvent line pad => Sys2Proof.Machine.execPinEvent line pad s
  | .i2cRead addr => Sys2Proof.Machine.execI2cRead addr s
  | .grantExpire view => Sys2Proof.Machine.execGrantExpire view s
  | .endGrant view => Sys2Proof.Machine.execEndGrant view s
  | .peek view stall => Sys2Proof.Machine.execPeek view stall s
  | .poke view stall => Sys2Proof.Machine.execPoke view stall s
  | .halt view n => Sys2Proof.Machine.execHalt view n s
  | .engineHalt n => Sys2Proof.Machine.execEngineHalt n s
  | .lockBroken n => Sys2Proof.Machine.execLockBroken n s
  | .releaseEngine view n => Sys2Proof.Machine.execReleaseEngine view n s
  | .step view n count => Sys2Proof.Machine.execStep view n count s
  | .fire view => Sys2Proof.Machine.execFire view s
  | .dbgTrig shed => Sys2Proof.Machine.execDbgTrig shed s
  | .snapEnd view forced => Sys2Proof.Machine.execSnapEnd view forced s
  | .capResume view => Sys2Proof.Machine.execCapResume view s
  | .ringCtlWrite req r value => Sys2Proof.Machine.execRingCtlWrite req r value s
  | .clockEdge clk falling elems => Sys2Proof.Machine.execClockEdge clk falling elems s
  | .upset bit => Sys2Proof.Machine.execUpset bit s
  | .pairReturn pair => Sys2Proof.Machine.execPairReturn pair s
  | .tlpCompletion port tag result => Sys2Proof.Machine.execTlpCompletion port tag result s
  | .pllLock yard pll => Sys2Proof.Machine.execPllLock yard pll s
  | .thermAlert hot => Sys2Proof.Machine.execThermAlert hot s

end Sys2Proof.Machine
end

