-- ==== Sys2Proof/Machine/Tick.lean ====
section
/-! DEFINITION. A nanosecond in which no command waits: what the block's own clocks do. -/

namespace Sys2Proof.Machine

/-- `n` array cycles in which no bundle issues. -/
def State.idleCycles : Nat → State → State
  | 0, s => s
  | n + 1, s => State.idleCycles n s.idleEngines

/-- The array cycles of the nanosecond after counter tick t: 8 in every 5 ns, at 1.6 GHz (Table CLK-2). -/
def cyclesAt (t : Nat) : Nat := 8 * (t + 1) / 5 - 8 * t / 5

/-- 1 ns with no command: Tide and the meters tick (R287, R311), the engines' cycles pass without a bundle, except in NAP and SLEEP (Table CLK-7),
posted stores drain, and FABRIC lanes send (R340). Nothing happens where no clock runs (R414, R479). (DESIGN CHOICE, assumption 1) -/
def State.tick (s : State) : State :=
  if s.clocked then
    let s1 := if s.asleep then s else (State.idleCycles (cyclesAt s.tide.ticks) s).drainAll
    s1.laneTick.tideTick
  else s

end Sys2Proof.Machine
end

