-- ==== Sys2Proof/Safety.lean ====
section
/-! DEFINITION. What counts as safe: the parts of the state that a change may touch, what every change of the block keeps, and when a register
access is served. -/

namespace Sys2Proof.Machine

/-! ### Parts of the state -/

/-- The parts of the state, the queue of commands excepted. -/
inductive StatePart where
  | regs
  | views
  | agg
  | fab
  | eddies
  | mil
  | mem
  | stalls
  | tally
  | tide
  | tree
  | tol
  | otp
  | clk
  | pins
  | lanes
  | dbg
  | d2d
  | ports
  | out
  | fresh
  deriving DecidableEq, Repr

/-- Two states agree in a part. -/
def StatePart.same : StatePart → State → State → Prop
  | .regs, s, t => t.regs = s.regs
  | .views, s, t => t.views = s.views
  | .agg, s, t => t.agg = s.agg
  | .fab, s, t => t.fab = s.fab
  | .eddies, s, t => t.eddies = s.eddies
  | .mil, s, t => t.mil = s.mil
  | .mem, s, t => t.mem = s.mem
  | .stalls, s, t => t.stalls = s.stalls
  | .tally, s, t => t.tally = s.tally
  | .tide, s, t => t.tide = s.tide
  | .tree, s, t => t.tree = s.tree
  | .tol, s, t => t.tol = s.tol
  | .otp, s, t => t.otp = s.otp
  | .clk, s, t => t.clk = s.clk
  | .pins, s, t => t.pins = s.pins
  | .lanes, s, t => t.lanes = s.lanes
  | .dbg, s, t => t.dbg = s.dbg
  | .d2d, s, t => t.d2d = s.d2d
  | .ports, s, t => t.ports = s.ports
  | .out, s, t => t.out = s.out
  | .fresh, s, t => t.fresh = s.fresh

/-! ### What every change of the block keeps -/

/-- Every memory and register map of the state is in its canonical form: keys strictly rising, and no entry equal to what an unlisted key reads as. (DESIGN CHOICE, assumption 7) -/
def State.canonical (s : State) : Bool :=
  smWf regReset s.regs && smWf (fun _ => ViewBuf.empty) s.views && smWf (fun _ => Eddy.reset) s.eddies && smWf (fun _ => Stall.free) s.stalls &&
  smWf (fun _ => PinCell.reset) s.pins && smWf (fun _ => LaneSt.reset) s.lanes && smWf (fun _ => HLine.zero) s.mem.lines &&
  smWf (fun _ => KeySlot.empty) s.mem.slots && smWf (fun _ => PortWork.idle) s.mem.work && smWf (fun _ => Pkt.none) s.mil.pkts &&
  smWf (fun _ => Ep.reset) s.mil.eps && smWf (fun _ => OutChan.reset) s.mil.chans

/-- Table TMC-2: one signer entry of the OTP changes into another by programming fuses alone: no bit of HASH, VALID or REVOKED falls. -/
def Signer.grows (a b : Signer) : Prop := (∀ k, a.hash.testBit k = true → b.hash.testBit k = true) ∧ (a.valid = true → b.valid = true) ∧ (a.revoked = true → b.revoked = true)

/-- Table TMC-2: the fuses of `b` are those of `a`, with at most more of them programmed. -/
def Otp.grows (a b : Otp) : Prop :=
  b.ownerRoot = a.ownerRoot ∧ b.adminPort = a.adminPort ∧ ∀ k, (smGet Signer.blank a.signers k).grows (smGet Signer.blank b.signers k)

/-- What every change of the block keeps: the queue of commands is left alone, what has been shown is never taken back, free values are used
once, fuses stay programmed, and the state's maps keep their canonical form. -/
structure Evolves (s t : State) : Prop where
  queue : t.pending = s.pending
  shown : s.out <+: t.out
  used : s.fresh ≤ t.fresh
  fused : s.otp.grows t.otp
  form : s.canonical = true → t.canonical = true

/-- A change that touches the parts `F` alone. -/
def Within (F : List StatePart) (s t : State) : Prop := Evolves s t ∧ ∀ p, F.contains p = false → p.same s t

/-- Every register word outside the list reads as before. -/
def State.wordsBut (s t : State) (l : List Nat) : Prop := ∀ a, l.contains a = false → t.word a = s.word a

/-- A command answers a next state, and that state is as said. -/
def Answers (c : Instr) (s : State) (P : State → Prop) : Prop := ∃ t, exec c s = .next t ∧ P t

/-! ### Registers and pages -/

/-- The number of pages of a kind (Table MAP-1). -/
def PageKind.count (k : PageKind) : Nat := k.geom.n1 * k.geom.n2

/-- A field of a register by its bits. -/
def FieldDef.fld (f : FieldDef) : Fld := ⟨f.lo, f.hi + 1 - f.lo⟩

/-- Whether what a write of the body register at offset `o` of a page of a kind does is what its fields' access types say (R7), and no more. -/
def plainAt (k : PageKind) (o : Nat) : Bool :=
  match k with
  | .tolmorCtl | .tallyCtl | .pkgInv | .dieCtl | .tribCtl | .treeCtl | .tideAlarm | .stall | .pinIrq | .pinSched | .shedMem | .shedTrib | .shedCfg
  | .wb | .yardScrub | .milCtl | .milRtr | .ucie => true
  | .tideCtl => decide (o ≠ 0x054)
  | .pcieHost => decide (o ≠ 0x040) && decide (o ≠ 0x048) && decide (o < 0x800)
  | .eth => decide (o ≠ 0x040) && !(decide (0x100 ≤ o) && decide (o % 0x10 = 0))
  | .skeja => decide (o ≠ 0x044)
  | .dbgSess => decide (o ≠ 0x040) && decide (o ≠ 0x060) && decide (o ≠ 0x070)
  | .dbgEddy => decide (o ≠ 0x040) && decide (o ≠ 0x04C) && !(decide (0x080 ≤ o) && decide ((o - 0x080) % 0x20 = 0))
  | _ => false

/-- Whether the body registers of a kind read as what is stored in them, their WO fields apart. -/
def storedKind : PageKind → Bool
  | .tolmorCtl | .tallyCtl | .pkgInv | .dieCtl | .treeCtl | .tideAlarm | .clkCtl | .pinIrq | .pinSched | .shedMem | .shedTrib | .shedCfg | .wb
  | .yardScrub | .milCtl | .milRtr | .sluiceCtl | .hbmp | .memCxl | .pcieCtl | .eth | .skeja | .ucie | .lane => true
  | _ => false

/-! ### When a register access is served -/

/-- R20, R457, R470: whether an access of a requester, at the device address of the register at offset `o` of the page of instance `i` of a kind,
or by a stall through its window, reaches the page. -/
def State.getsTo (s : State) (req : Req) (k : PageKind) (i o : Nat) : Bool :=
  s.pageReached (k.addr i + o) && (match req with
    | .stall n => s.windowServes n k i
    | .jtag => s.jtagReaches k i
    | _ => true)

/-- R464, R466, R468: whether a write by a requester to the register at offset `o` of a page reaches the page and is not refused there before the
register's own rule. -/
def State.takes (s : State) (req : Req) (k : PageKind) (i o : Nat) : Bool :=
  s.getsTo req k i o && s.mayWrite req k i o && (decide (o < 0x040) || !s.flag (rLOCK (k.addr i)) fLOCK_LOCKED || decide (req = .tolmor))

end Sys2Proof.Machine

namespace Sys2Proof

open Machine

/-- The parts of the state that a command may touch: a command leaves every other part as it is, whatever the state and its operands. -/
def Instr.touches : Instr → List StatePart
  | .regWrite _ _ _ _ => [.regs, .views, .agg, .eddies, .mil, .mem, .stalls, .tally, .tide, .tree, .tol, .clk, .pins, .lanes, .dbg, .ports, .out, .fresh]
  | .rcRead _ _ _ => [.regs, .views, .agg, .eddies, .mil, .mem, .stalls, .tally, .tide, .tree, .tol, .clk, .pins, .lanes, .dbg, .ports, .out, .fresh]
  | .narrowAccess _ _ _ _ => [.regs, .views, .agg, .eddies, .mil, .mem, .stalls, .tally, .tide, .tree, .tol, .clk, .pins, .lanes, .dbg, .ports, .out, .fresh]
  | .reg64LowRead _ _ => [.regs, .views, .agg, .eddies, .mil, .mem, .stalls, .tally, .tide, .tree, .tol, .clk, .pins, .lanes, .dbg, .ports, .out, .fresh]
  | .reg64LowWrite _ _ _ => [.regs, .views, .agg, .eddies, .mil, .mem, .stalls, .tally, .tide, .tree, .tol, .clk, .pins, .lanes, .dbg, .ports, .out, .fresh]
  | .reg64HighWrite _ _ _ => [.regs, .views, .agg, .eddies, .mil, .mem, .stalls, .tally, .tide, .tree, .tol, .clk, .pins, .lanes, .dbg, .ports, .out, .fresh]
  | .softRst _ _ _ => [.regs, .views, .agg, .eddies, .mil, .mem, .stalls, .tally, .tide, .tree, .tol, .clk, .pins, .lanes, .dbg, .ports, .out, .fresh]
  | .irqForce _ _ _ => [.regs, .views, .agg, .eddies, .mil, .mem, .stalls, .tally, .tide, .tree, .tol, .clk, .pins, .lanes, .dbg, .ports, .out, .fresh]
  | .lockPage _ _ => [.regs, .views, .agg, .eddies, .mil, .mem, .stalls, .tally, .tide, .tree, .tol, .clk, .pins, .lanes, .dbg, .ports, .out, .fresh]
  | .errFirstClear _ _ => [.regs, .views, .agg, .eddies, .mil, .mem, .stalls, .tally, .tide, .tree, .tol, .clk, .pins, .lanes, .dbg, .ports, .out, .fresh]
  | .stallWindow _ _ _ _ _ => [.regs, .views, .agg, .eddies, .mil, .mem, .stalls, .tally, .tide, .tree, .tol, .clk, .pins, .lanes, .dbg, .ports, .out, .fresh]
  | .summaryPush => [.regs, .agg]
  | .msixSend _ => [.agg, .out]
  | .aggPop _ _ => [.regs, .views, .agg, .eddies, .mil, .mem, .stalls, .tally, .tide, .tree, .tol, .clk, .pins, .lanes, .dbg, .ports, .out, .fresh]
  | .deviceReset _ => [.regs, .views, .agg, .fab, .eddies, .mil, .mem, .stalls, .tally, .tide, .tree, .tol, .clk, .pins, .lanes, .dbg, .d2d, .ports, .out, .fresh]
  | .powerGood _ => [.regs, .views, .agg, .fab, .eddies, .mil, .mem, .stalls, .tally, .tide, .tree, .tol, .clk, .pins, .lanes, .dbg, .d2d, .ports, .out, .fresh]
  | .sysRst _ => [.regs, .views, .agg, .fab, .eddies, .mil, .mem, .stalls, .tally, .tide, .tree, .tol, .clk, .pins, .lanes, .dbg, .d2d, .ports, .out, .fresh]
  | .scrubVisit _ => [.regs, .agg, .fab, .eddies, .mil, .stalls, .tol, .lanes, .dbg, .out, .fresh]
  | .scrubStart _ => [.regs, .agg, .fab]
  | .fifoReset _ _ => [.regs, .agg, .fab]
  | .tribContention _ => [.regs, .agg, .eddies, .mil, .stalls, .tol, .lanes, .dbg, .out, .fresh]
  | .start _ _ => [.regs, .views, .agg, .eddies, .mil, .mem, .stalls, .tally, .tide, .tree, .tol, .clk, .pins, .lanes, .dbg, .ports, .out, .fresh]
  | .startExecute _ => [.eddies]
  | .stop _ _ => [.regs, .views, .agg, .eddies, .mil, .mem, .stalls, .tally, .tide, .tree, .tol, .clk, .pins, .lanes, .dbg, .ports, .out, .fresh]
  | .stopEffect _ => [.regs, .agg, .eddies]
  | .resume _ _ => [.regs, .views, .agg, .eddies, .mil, .mem, .stalls, .tally, .tide, .tree, .tol, .clk, .pins, .lanes, .dbg, .ports, .out, .fresh]
  | .kick _ _ => [.regs, .views, .agg, .eddies, .mil, .mem, .stalls, .tally, .tide, .tree, .tol, .clk, .pins, .lanes, .dbg, .ports, .out, .fresh]
  | .eddyCfgWrite _ _ _ => [.regs, .views, .agg, .eddies, .mil, .mem, .stalls, .tally, .tide, .tree, .tol, .clk, .pins, .lanes, .dbg, .ports, .out, .fresh]
  | .bundleIssue _ _ => [.regs, .agg, .eddies, .tally, .dbg, .fresh]
  | .lockGrant _ => [.eddies]
  | .lockTimeout _ _ => [.regs, .agg, .eddies, .tally, .dbg, .fresh]
  | .watchdog _ _ => [.regs, .agg, .eddies, .tally, .dbg, .fresh]
  | .memDataWrite _ _ _ _ => [.regs, .views, .agg, .eddies, .mil, .mem, .stalls, .tally, .tide, .tree, .tol, .clk, .pins, .lanes, .dbg, .ports, .out, .fresh]
  | .memDataRead _ _ _ => [.regs, .views, .agg, .eddies, .mil, .mem, .stalls, .tally, .tide, .tree, .tol, .clk, .pins, .lanes, .dbg, .ports, .out, .fresh]
  | .streamFlushIn _ _ => [.regs, .views, .agg, .eddies, .mil, .mem, .stalls, .tally, .tide, .tree, .tol, .clk, .pins, .lanes, .dbg, .ports, .out, .fresh]
  | .streamFlushOut _ _ => [.regs, .views, .agg, .eddies, .mil, .mem, .stalls, .tally, .tide, .tree, .tol, .clk, .pins, .lanes, .dbg, .ports, .out, .fresh]
  | .capPop _ _ => [.regs, .views, .agg, .eddies, .mil, .mem, .stalls, .tally, .tide, .tree, .tol, .clk, .pins, .lanes, .dbg, .ports, .out, .fresh]
  | .streamSource _ _ _ => [.regs, .views, .agg, .eddies, .mil, .mem, .stalls, .tally, .tide, .tree, .tol, .clk, .pins, .lanes, .dbg, .ports, .out, .fresh]
  | .stimIn _ _ _ _ => [.regs, .views, .agg, .eddies, .mil, .mem, .stalls, .tally, .tide, .tree, .tol, .clk, .pins, .lanes, .dbg, .ports, .out, .fresh]
  | .streamIn _ _ => [.eddies]
  | .streamOut _ => [.eddies, .out]
  | .transferBegin _ => [.eddies]
  | .transferLine _ _ _ => [.regs, .agg, .eddies, .mil, .fresh]
  | .transferComplete _ _ _ => [.regs, .agg, .eddies]
  | .ingress _ _ => [.regs, .agg, .mil, .tally, .fresh]
  | .routerHeader _ _ => [.regs, .agg, .mil]
  | .egress _ _ => [.regs, .agg, .mil, .out, .fresh]
  | .rd _ _ _ _ => [.regs, .agg, .mil, .mem, .tally, .tol, .lanes, .ports, .out, .fresh]
  | .wr _ _ _ _ => [.regs, .agg, .mil, .mem, .tally, .tol, .lanes, .ports, .out, .fresh]
  | .msg _ _ _ _ => [.regs, .agg, .mil, .mem, .tally, .tol, .lanes, .ports, .out, .fresh]
  | .regRd _ _ _ => [.regs, .views, .agg, .eddies, .mil, .mem, .stalls, .tally, .tide, .tree, .tol, .clk, .pins, .lanes, .dbg, .ports, .out, .fresh]
  | .regWr _ _ _ => [.regs, .views, .agg, .eddies, .mil, .mem, .stalls, .tally, .tide, .tree, .tol, .clk, .pins, .lanes, .dbg, .ports, .out, .fresh]
  | .rdRsp _ => [.regs, .agg, .eddies, .mil, .lanes, .ports, .out, .fresh]
  | .wrRsp _ => [.regs, .agg, .eddies, .mil, .lanes, .ports, .out, .fresh]
  | .msgRsp _ => [.regs, .agg, .eddies, .mil, .lanes, .ports, .out, .fresh]
  | .regRsp _ => [.regs, .agg, .eddies, .mil, .lanes, .ports, .out, .fresh]
  | .timeout _ _ => [.regs, .agg, .mil, .fresh]
  | .flitGap _ => [.regs, .agg, .mil, .out, .fresh]
  | .flushIn _ _ => [.regs, .views, .agg, .eddies, .mil, .mem, .stalls, .tally, .tide, .tree, .tol, .clk, .pins, .lanes, .dbg, .ports, .out, .fresh]
  | .flushOut _ _ => [.regs, .views, .agg, .eddies, .mil, .mem, .stalls, .tally, .tide, .tree, .tol, .clk, .pins, .lanes, .dbg, .ports, .out, .fresh]
  | .flushEffect _ _ => [.regs, .agg, .mil, .fresh]
  | .dropRestIn _ _ => [.regs, .views, .agg, .eddies, .mil, .mem, .stalls, .tally, .tide, .tree, .tol, .clk, .pins, .lanes, .dbg, .ports, .out, .fresh]
  | .dropRestOut _ _ => [.regs, .views, .agg, .eddies, .mil, .mem, .stalls, .tally, .tide, .tree, .tol, .clk, .pins, .lanes, .dbg, .ports, .out, .fresh]
  | .txAbort _ => [.regs, .agg, .mil, .out, .fresh]
  | .drain _ _ => [.regs, .agg, .mil, .out, .fresh]
  | .drainEnd _ => [.mil]
  | .sweep _ => [.regs, .agg, .mil, .fresh]
  | .hbmError _ => [.regs, .agg, .mil, .out, .fresh]
  | .create _ _ _ => [.regs, .views, .agg, .eddies, .mil, .mem, .stalls, .tally, .tide, .tree, .tol, .clk, .pins, .lanes, .dbg, .ports, .out, .fresh]
  | .zeroingEnd _ => [.regs, .agg, .mem, .tol]
  | .destroy _ _ _ => [.regs, .views, .agg, .eddies, .mil, .mem, .stalls, .tally, .tide, .tree, .tol, .clk, .pins, .lanes, .dbg, .ports, .out, .fresh]
  | .rekey _ _ _ => [.regs, .views, .agg, .eddies, .mil, .mem, .stalls, .tally, .tide, .tree, .tol, .clk, .pins, .lanes, .dbg, .ports, .out, .fresh]
  | .walkTake _ _ => [.regs, .agg, .mem, .tol]
  | .walkDone _ => [.regs, .agg, .mem, .tol]
  | .finish _ _ _ => [.regs, .views, .agg, .eddies, .mil, .mem, .stalls, .tally, .tide, .tree, .tol, .clk, .pins, .lanes, .dbg, .ports, .out, .fresh]
  | .slotZeroise _ _ => [.regs, .agg, .mem, .tol]
  | .wearWarn _ _ => [.regs, .views, .agg, .eddies, .mil, .mem, .stalls, .tally, .tide, .tree, .tol, .clk, .pins, .lanes, .dbg, .ports, .out, .fresh]
  | .cxlLinkDown _ => [.regs, .agg, .mem]
  | .clockForceOff _ => [.regs, .agg]
  | .ffExchange _ _ => [.regs, .agg, .fab, .eddies, .mil, .stalls, .tol, .lanes, .dbg, .out, .fresh]
  | .swapZeroing _ => [.regs, .agg, .fab, .eddies, .stalls]
  | .meshQuiet _ => [.stalls]
  | .planeFlip _ => [.regs, .agg, .fab, .eddies, .stalls, .tol, .pins]
  | .fillEnd _ => [.regs, .agg, .fab, .eddies, .stalls, .tol, .pins]
  | .loadEnd _ => [.regs, .agg, .fab, .eddies, .mem, .stalls, .tol, .fresh]
  | .ring _ _ => [.regs, .views, .agg, .eddies, .mil, .mem, .stalls, .tally, .tide, .tree, .tol, .clk, .pins, .lanes, .dbg, .ports, .out, .fresh]
  | .commandTake _ => [.regs, .views, .agg, .fab, .eddies, .mil, .mem, .stalls, .tally, .tide, .tree, .tol, .otp, .clk, .pins, .lanes, .dbg, .d2d, .ports, .out, .fresh]
  | .deferredEnd _ _ _ => [.regs, .views, .agg, .fab, .eddies, .mil, .mem, .stalls, .tally, .tide, .tree, .tol, .pins, .lanes, .dbg, .ports, .out, .fresh]
  | .cplPop _ _ => [.regs, .views, .agg, .eddies, .mil, .mem, .stalls, .tally, .tide, .tree, .tol, .clk, .pins, .lanes, .dbg, .ports, .out, .fresh]
  | .fanoutEnd _ _ _ => [.regs, .agg, .mem, .tree, .tol, .out, .fresh]
  | .testStart _ _ => [.regs, .agg, .eddies, .mil, .mem, .stalls, .tree, .tol, .clk, .lanes, .dbg, .d2d, .ports, .out, .fresh]
  | .testEnd _ _ _ _ => [.regs, .agg, .mil, .tol, .clk, .d2d, .out, .fresh]
  | .expired _ _ => [.tol]
  | .lockstepDisagree _ => [.regs, .agg, .tol]
  | .tripleRestore => [.regs, .agg, .tol]
  | .sramScrub _ => [.regs, .agg]
  | .eventLogCopy _ _ => [.regs, .agg, .tol]
  | .tideIn _ _ _ _ => [.regs, .agg, .eddies, .mil, .stalls, .tally, .tide, .tol, .lanes, .dbg, .out, .fresh]
  | .ptmExchange _ _ _ => [.regs, .agg, .eddies, .mil, .stalls, .tally, .tide, .tol, .lanes, .dbg, .out, .fresh]
  | .sourceLost => [.regs, .agg, .stalls, .tally, .tide, .tol]
  | .holdoverExpire => [.regs, .agg, .stalls, .tally, .tide, .tol]
  | .freezeEnd => [.regs, .agg]
  | .alarmFire => [.regs, .agg, .eddies, .mil, .stalls, .tally, .tide, .tol, .lanes, .dbg, .out, .fresh]
  | .arm _ _ _ _ => [.regs, .views, .agg, .eddies, .mil, .mem, .stalls, .tally, .tide, .tree, .tol, .clk, .pins, .lanes, .dbg, .ports, .out, .fresh]
  | .disarm _ _ _ => [.regs, .views, .agg, .eddies, .mil, .mem, .stalls, .tally, .tide, .tree, .tol, .clk, .pins, .lanes, .dbg, .ports, .out, .fresh]
  | .firedClear _ _ _ => [.regs, .views, .agg, .eddies, .mil, .mem, .stalls, .tally, .tide, .tree, .tol, .clk, .pins, .lanes, .dbg, .ports, .out, .fresh]
  | .tideRefclk _ _ => [.regs, .views, .agg, .eddies, .mil, .mem, .stalls, .tally, .tide, .tree, .tol, .clk, .pins, .lanes, .dbg, .ports, .out, .fresh]
  | .helloSend => [.out]
  | .hello _ => [.regs, .agg, .tally, .tide, .tree, .out]
  | .join _ _ _ => [.regs, .agg, .tree, .out]
  | .joinAck _ _ _ => [.regs, .agg, .tree, .out]
  | .treeLeave => [.regs, .agg, .eddies, .stalls, .tally, .tide, .tree, .tol, .dbg]
  | .syncSend => [.out]
  | .sync _ _ => [.tide, .out]
  | .delayReq _ => [.out]
  | .delayRsp _ _ => [.regs, .agg, .eddies, .mil, .stalls, .tally, .tide, .tol, .lanes, .dbg, .out, .fresh]
  | .cmd _ _ _ _ _ _ => [.regs, .agg, .tree, .out]
  | .cpl _ _ _ _ _ _ _ => [.tree, .out]
  | .stage _ _ _ _ _ _ => [.tree, .tol, .out]
  | .ret _ _ _ _ _ => [.tree, .out]
  | .epochClose => [.regs, .agg, .tally, .fresh]
  | .checkpoint _ _ => [.regs, .agg, .tally]
  | .refclkLoss _ => [.regs, .agg, .eddies, .mil, .stalls, .tally, .tide, .tol, .clk, .lanes, .dbg, .out, .fresh]
  | .fixrefHoldEnd => [.regs, .agg]
  | .refclkReturn _ => [.regs, .agg, .clk]
  | .refReturn _ => [.regs, .views, .agg, .fab, .eddies, .mil, .mem, .stalls, .tally, .tide, .tree, .tol, .clk, .pins, .lanes, .dbg, .d2d, .ports, .out, .fresh]
  | .clockLoss _ _ => [.regs, .views, .agg, .fab, .eddies, .mil, .mem, .stalls, .tally, .tide, .tree, .tol, .clk, .pins, .lanes, .dbg, .d2d, .ports, .out, .fresh]
  | .spineSel _ _ _ => [.regs, .views, .agg, .eddies, .mil, .mem, .stalls, .tally, .tide, .tree, .tol, .clk, .pins, .lanes, .dbg, .ports, .out, .fresh]
  | .clksel _ _ _ => [.regs, .agg, .clk]
  | .spineSwitch _ _ => [.regs, .agg, .clk]
  | .force _ _ _ => [.regs, .views, .agg, .eddies, .mil, .mem, .stalls, .tally, .tide, .tree, .tol, .clk, .pins, .lanes, .dbg, .ports, .out, .fresh]
  | .drst _ _ _ => [.regs, .views, .agg, .eddies, .mil, .mem, .stalls, .tally, .tide, .tree, .tol, .clk, .pins, .lanes, .dbg, .ports, .out, .fresh]
  | .drstRelease _ _ => [.regs, .agg, .clk]
  | .pllCfgWrite _ _ _ _ _ => [.regs, .views, .agg, .eddies, .mil, .mem, .stalls, .tally, .tide, .tree, .tol, .clk, .pins, .lanes, .dbg, .ports, .out, .fresh]
  | .fmeasStart _ _ => [.regs, .views, .agg, .eddies, .mil, .mem, .stalls, .tally, .tide, .tree, .tol, .clk, .pins, .lanes, .dbg, .ports, .out, .fresh]
  | .fmeasEnd _ => [.regs, .agg]
  | .powerEval => [.regs, .agg, .eddies, .mil, .mem, .tree, .tol, .dbg, .ports, .fresh]
  | .ltolWrite _ _ _ => [.regs, .views, .agg, .eddies, .mil, .mem, .stalls, .tally, .tide, .tree, .tol, .clk, .pins, .lanes, .dbg, .ports, .out, .fresh]
  | .wake => [.regs, .agg]
  | .exitComplete => [.regs, .agg]
  | .signalDetect _ => [.regs, .agg]
  | .cdrLock _ => [.regs, .agg]
  | .polarity _ _ => [.regs, .agg]
  | .adaptDone _ _ => [.regs, .agg]
  | .alignDone _ _ => [.regs, .agg]
  | .stageTimeout _ => [.regs, .agg]
  | .signalLoss _ _ => [.regs, .agg]
  | .calibrationEnd _ _ => [.regs, .agg, .tol, .lanes]
  | .inject _ _ => [.regs, .views, .agg, .eddies, .mil, .mem, .stalls, .tally, .tide, .tree, .tol, .clk, .pins, .lanes, .dbg, .ports, .out, .fresh]
  | .prbsClear _ _ => [.regs, .views, .agg, .eddies, .mil, .mem, .stalls, .tally, .tide, .tree, .tol, .clk, .pins, .lanes, .dbg, .ports, .out, .fresh]
  | .prbsLock _ => [.regs, .agg]
  | .prbsLost _ _ _ => [.regs, .agg]
  | .fabCfgWrite _ _ _ => [.regs, .views, .agg, .eddies, .mil, .mem, .stalls, .tally, .tide, .tree, .tol, .clk, .pins, .lanes, .dbg, .ports, .out, .fresh]
  | .txEqWrite _ _ _ => [.regs, .views, .agg, .eddies, .mil, .mem, .stalls, .tally, .tide, .tree, .tol, .clk, .pins, .lanes, .dbg, .ports, .out, .fresh]
  | .bridgeSend _ _ => [.regs, .agg, .mil, .lanes, .fresh]
  | .bridgeTimer _ _ => [.regs, .agg, .mil, .lanes, .fresh]
  | .linkUp _ => [.regs, .agg, .tree, .ports, .out]
  | .linkDown _ => [.regs, .agg, .eddies, .mil, .mem, .tree, .tol, .dbg, .ports, .fresh]
  | .hotReset _ _ => [.regs, .agg, .eddies, .mil, .mem, .tol, .dbg, .ports, .fresh]
  | .bar0 _ _ _ => [.regs, .agg, .mil, .out, .fresh]
  | .bar2 _ _ => [.regs, .agg, .mil, .out, .fresh]
  | .inbound _ _ => [.regs, .agg, .mil, .out, .fresh]
  | .cxlMem _ _ => [.regs, .agg, .mil, .out, .fresh]
  | .ptmRequest _ => [.out]
  | .fnAssignWrite _ _ _ => [.regs, .views, .agg, .eddies, .mil, .mem, .stalls, .tally, .tide, .tree, .tol, .clk, .pins, .lanes, .dbg, .ports, .out, .fresh]
  | .fnLayoutWrite _ _ _ _ => [.regs, .views, .agg, .eddies, .mil, .mem, .stalls, .tally, .tide, .tree, .tol, .clk, .pins, .lanes, .dbg, .ports, .out, .fresh]
  | .windowWrite _ _ _ _ _ _ => [.regs, .views, .agg, .eddies, .mil, .mem, .stalls, .tally, .tide, .tree, .tol, .clk, .pins, .lanes, .dbg, .ports, .out, .fresh]
  | .rpOwnerWrite _ _ _ => [.regs, .views, .agg, .eddies, .mil, .mem, .stalls, .tally, .tide, .tree, .tol, .clk, .pins, .lanes, .dbg, .ports, .out, .fresh]
  | .ethReceive _ _ _ => [.regs, .agg, .mil, .ports, .fresh]
  | .stnCfgWrite _ _ _ _ => [.regs, .views, .agg, .eddies, .mil, .mem, .stalls, .tally, .tide, .tree, .tol, .clk, .pins, .lanes, .dbg, .ports, .out, .fresh]
  | .skejaSend _ _ => [.regs, .agg, .tol, .ports, .out]
  | .skejaReceive _ _ _ _ _ => [.regs, .agg, .mil, .tree, .ports, .out, .fresh]
  | .nak _ _ _ => [.regs, .agg, .ports, .out]
  | .udpTimeout _ _ => [.regs, .agg, .out]
  | .pathUp _ _ => [.ports]
  | .handshakeEnd _ _ _ => [.regs, .agg, .tree, .ports]
  | .checkMatch _ => [.regs, .agg, .ports]
  | .pathDown _ _ => [.regs, .agg, .tree, .ports]
  | .weirMil _ _ _ _ _ _ => [.regs, .agg, .fab, .eddies, .mil, .mem, .stalls, .tally, .tree, .tol, .lanes, .dbg, .d2d, .ports, .out, .fresh]
  | .weirTrib _ _ _ _ => [.regs, .agg, .fab, .eddies, .mil, .mem, .stalls, .tally, .tree, .tol, .lanes, .dbg, .d2d, .ports, .out, .fresh]
  | .shadowAdvance _ _ => [.regs, .agg, .d2d]
  | .lchkReq _ _ _ => [.d2d]
  | .laneCheckEnd _ _ _ _ => [.regs, .agg, .fab, .eddies, .mil, .mem, .stalls, .tally, .tree, .tol, .lanes, .dbg, .d2d, .ports, .out, .fresh]
  | .clocksLost _ _ => [.regs, .agg, .fab, .eddies, .mil, .mem, .stalls, .tally, .tree, .tol, .lanes, .dbg, .d2d, .ports, .out, .fresh]
  | .repairFuse => [.regs, .agg, .tol, .d2d]
  | .ucieFail _ _ => [.regs, .agg, .fab, .eddies, .mil, .mem, .stalls, .tally, .tree, .tol, .lanes, .dbg, .d2d, .ports, .out, .fresh]
  | .quarantine _ _ => [.regs, .agg, .fab, .eddies, .mil, .mem, .stalls, .tally, .tree, .tol, .lanes, .dbg, .d2d, .ports, .out, .fresh]
  | .readmission _ _ _ _ _ => [.regs, .views, .agg, .fab, .eddies, .mil, .mem, .stalls, .tally, .tree, .tol, .clk, .pins, .lanes, .dbg, .d2d, .ports, .out, .fresh]
  | .railLoss _ _ => [.regs, .agg, .fab, .eddies, .mil, .mem, .stalls, .tally, .tree, .tol, .clk, .lanes, .dbg, .d2d, .ports, .out, .fresh]
  | .thermTrip => [.regs, .agg, .clk]
  | .idcode _ => [.d2d]
  | .samplePreload _ _ => [.d2d]
  | .extest _ => [.d2d]
  | .extestPulse _ => [.d2d]
  | .extestTrain _ => [.d2d]
  | .highz _ => [.d2d]
  | .clamp _ => [.d2d]
  | .bypass _ => [.d2d]
  | .mbox _ => [.d2d]
  | .jtagRead _ => [.regs, .views, .agg, .eddies, .mil, .mem, .stalls, .tally, .tide, .tree, .tol, .clk, .pins, .lanes, .dbg, .d2d, .ports, .out, .fresh]
  | .jtagWrite _ _ => [.regs, .views, .agg, .eddies, .mil, .mem, .stalls, .tally, .tide, .tree, .tol, .clk, .pins, .lanes, .dbg, .d2d, .ports, .out, .fresh]
  | .testLogicReset => [.regs, .agg, .eddies, .dbg, .d2d]
  | .func _ _ _ => [.regs, .views, .agg, .eddies, .mil, .mem, .stalls, .tally, .tide, .tree, .tol, .clk, .pins, .lanes, .dbg, .ports, .out, .fresh]
  | .switchEdge _ => [.pins]
  | .holdEnd _ => [.regs, .agg, .pins]
  | .swLate _ => [.regs, .agg]
  | .gpioSet _ _ _ _ => [.regs, .views, .agg, .eddies, .mil, .mem, .stalls, .tally, .tide, .tree, .tol, .clk, .pins, .lanes, .dbg, .ports, .out, .fresh]
  | .gpioClr _ _ _ _ => [.regs, .views, .agg, .eddies, .mil, .mem, .stalls, .tally, .tide, .tree, .tol, .clk, .pins, .lanes, .dbg, .ports, .out, .fresh]
  | .gpioTgl _ _ _ _ => [.regs, .views, .agg, .eddies, .mil, .mem, .stalls, .tally, .tide, .tree, .tol, .clk, .pins, .lanes, .dbg, .ports, .out, .fresh]
  | .pinEvent _ _ => [.regs, .agg]
  | .i2cRead _ => [.regs, .views, .agg, .eddies, .mil, .mem, .stalls, .tally, .tide, .tree, .tol, .clk, .pins, .lanes, .dbg, .ports, .out, .fresh]
  | .grantExpire _ => [.regs, .agg, .eddies, .dbg]
  | .endGrant _ => [.regs, .views, .agg, .eddies, .mil, .mem, .stalls, .tally, .tide, .tree, .tol, .clk, .pins, .lanes, .dbg, .ports, .out, .fresh]
  | .peek _ _ => [.regs, .views, .agg, .eddies, .mil, .mem, .stalls, .tally, .tide, .tree, .tol, .clk, .pins, .lanes, .dbg, .ports, .out, .fresh]
  | .poke _ _ => [.regs, .views, .agg, .eddies, .mil, .mem, .stalls, .tally, .tide, .tree, .tol, .clk, .pins, .lanes, .dbg, .ports, .out, .fresh]
  | .halt _ _ => [.regs, .views, .agg, .eddies, .mil, .mem, .stalls, .tally, .tide, .tree, .tol, .clk, .pins, .lanes, .dbg, .ports, .out, .fresh]
  | .engineHalt _ => [.regs, .agg, .eddies, .dbg]
  | .lockBroken _ => [.regs, .agg, .eddies, .dbg]
  | .releaseEngine _ _ => [.regs, .views, .agg, .eddies, .mil, .mem, .stalls, .tally, .tide, .tree, .tol, .clk, .pins, .lanes, .dbg, .ports, .out, .fresh]
  | .step _ _ _ => [.regs, .views, .agg, .eddies, .mil, .mem, .stalls, .tally, .tide, .tree, .tol, .clk, .pins, .lanes, .dbg, .ports, .out, .fresh]
  | .fire _ => [.regs, .views, .agg, .eddies, .mil, .mem, .stalls, .tally, .tide, .tree, .tol, .clk, .pins, .lanes, .dbg, .ports, .out, .fresh]
  | .dbgTrig _ => [.regs, .agg, .eddies, .dbg]
  | .snapEnd _ _ => [.regs, .agg, .dbg]
  | .capResume _ => [.regs, .views, .agg, .eddies, .mil, .mem, .stalls, .tally, .tide, .tree, .tol, .clk, .pins, .lanes, .dbg, .ports, .out, .fresh]
  | .ringCtlWrite _ _ _ => [.regs, .views, .agg, .eddies, .mil, .mem, .stalls, .tally, .tide, .tree, .tol, .clk, .pins, .lanes, .dbg, .ports, .out, .fresh]
  | .clockEdge _ _ _ => [.regs, .agg, .fab, .pins, .fresh]
  | .upset _ => [.fab]
  | .pairReturn _ => [.regs, .agg, .tide]
  | .tlpCompletion _ _ _ => [.regs, .agg, .mil, .ports, .fresh]
  | .pllLock _ _ => [.regs, .agg, .clk]
  | .thermAlert _ => [.clk]

end Sys2Proof
end

