-- ==== Sys2Proof/Certificates/Slice0/Obligations.lean ====
section
/-! DEFINITION. The statements for the provers: what the commands do, by family, and what every step keeps. A statement `Answers c s P` says that the
command `c` answers a next state, which `P` holds of; `Within F s t` says that no part of the state outside `F` changes; `wordsBut t l` says that
every register word outside `l` reads as before. -/

open Sys2Proof Sys2Proof.Machine

/-! ### Register access -/

/-- R7, Table SCP-4. A write that is taken sets every field of a register as its access type says: RW takes the new value, a 1 clears a W1C bit and
sets a W1S bit, RO, WO and RC fields keep theirs, and reserved bits read 0; every other register word, and every part of the state but registers,
views and the interrupt queues, is left alone. REG_WRITE and, by a stall through its window, STALL_WINDOW_ACCESS. Registers whose own rules say
more have statements of their own. -/
def Obligations.WriteFollowsAccessTypes : Prop :=
  ∀ (s : State) (req : Req) (k : PageKind) (i o v : Nat) (r : RegDef), s.clocked = true → req.valid = true → i < k.count → o < 4096 → 0x040 ≤ o →
    plainAt k o = true → findReg o k.regs = some (r, o) → s.takes req k i o = true →
    let a := k.addr i + o
    let size := if r.wide then 8 else 4
    let after := fun (t : State) =>
      (∀ f ∈ r.fields, f.fld.get (t.regVal r a) = match f.acc with
        | .rw => f.fld.get v
        | .w1c => f.fld.get (s.regVal r a) - Nat.land (f.fld.get (s.regVal r a)) (f.fld.get v)
        | .w1s => Nat.lor (f.fld.get (s.regVal r a)) (f.fld.get v)
        | _ => f.fld.get (s.regVal r a)) ∧
      (∀ b, (∀ f ∈ r.fields, b < f.fld.lo ∨ f.fld.lo + f.fld.width ≤ b) → (t.regVal r a).testBit b = false) ∧
      s.wordsBut t [a, if r.wide then a + 4 else a] ∧ Within [.regs, .views, .agg] s t
    ((∀ n, req ≠ .stall n) → Answers (.regWrite req a size v) s after) ∧
    (∀ n w u, req = .stall n → inWindow w = true → windowTarget n w = some a → w % size = 0 → Answers (.stallWindow n w size (some v) u) s after)

/-- R7, R8, Table SCP-4. A read that reaches a page, and that the requester may make in full, returns every field but the WO ones, which read 0, and
then clears every RC field; every other word is left alone. RC_READ and, by a stall through its window, STALL_WINDOW_ACCESS, on the pages whose
registers read as what is stored in them. -/
def Obligations.ReadReturnsThenClears : Prop :=
  ∀ (s : State) (req : Req) (k : PageKind) (i o : Nat) (r : RegDef), s.clocked = true → req.valid = true → i < k.count → o < 4096 → 0x040 ≤ o →
    storedKind k = true → findReg o k.regs = some (r, o) → s.getsTo req k i o = true → s.readsFull req k i o = true →
    let a := k.addr i + o
    let size := if r.wide then 8 else 4
    let after := fun (at' : Nat) (t : State) =>
      (∃ x, t.out = s.out ++ [.regData req at' x] ∧ ∀ f ∈ r.fields, f.fld.get x = if f.acc = .wo then 0 else f.fld.get (s.regVal r a)) ∧
      (∀ f ∈ r.fields, f.fld.get (t.regVal r a) = if f.acc = .rc then 0 else f.fld.get (s.regVal r a)) ∧
      s.wordsBut t [a, if r.wide then a + 4 else a] ∧ Within [.regs, .views, .agg, .out] s t
    ((∀ n, req ≠ .stall n) → Answers (.rcRead req a size) s (after a)) ∧
    (∀ n w, req = .stall n → inWindow w = true → windowTarget n w = some a → w % size = 0 → Answers (.stallWindow n w size none 0) s (after w))

/-- R5, R461, R464, R466. A write that reaches its page and is refused there is counted in ERR_COUNT and sets IRQ_RAW[31]; where ERR_FIRST is not VALID
it is recorded there with its cause, and no other word changes. A write by another than the owner (REG_WRITE) has cause NOT_OWNER, one to a locked
page LOCKED, and an 8-bit or 16-bit one (NARROW_ACCESS) that nothing else refuses WIDTH. -/
def Obligations.RefusedWriteIsCounted : Prop :=
  ∀ (s : State) (req : Req) (k : PageKind) (i o v : Nat), s.clocked = true → req.valid = true → (∀ n, req ≠ .stall n) → i < k.count → o < 4096 →
    ¬ (k = .dbgSess ∧ o / 4 * 4 = 0x060) →
    let a := k.addr i + o
    let p := k.addr i
    let locked := decide (0x040 ≤ o) && s.flag (rLOCK p) fLOCK_LOCKED && decide (req ≠ .tolmor)
    let after := fun (cause : Nat) (t : State) =>
      t.fget (rERR_COUNT p) fERR_COUNT_COUNT = satInc 16 (s.fget (rERR_COUNT p) fERR_COUNT_COUNT) ∧ t.bit (rIRQ_RAW p) 31 = true ∧
      (s.flag (rERR_FIRST p) fERR_FIRST_VALID = true → t.word (rERR_FIRST p) = s.word (rERR_FIRST p)) ∧
      (s.flag (rERR_FIRST p) fERR_FIRST_VALID = false → t.flag (rERR_FIRST p) fERR_FIRST_VALID = true ∧
        t.fget (rERR_FIRST p) fERR_FIRST_CAUSE = cause ∧ t.fget (rERR_FIRST p) fERR_FIRST_OFFSET = o) ∧
      s.wordsBut t [rERR_COUNT p, rIRQ_RAW p, rERR_FIRST p] ∧ Within [.regs, .views, .agg] s t
    (s.getsTo req k i o = true → o % 4 = 0 → s.mayWrite req k i o = false → Answers (.regWrite req a 4 v) s (after causeNotOwner)) ∧
    (s.getsTo req k i o = true → o % 4 = 0 → s.mayWrite req k i o = true → locked = true → Answers (.regWrite req a 4 v) s (after causeLocked)) ∧
    (∀ half : Bool, s.getsTo req k i o = true → o % (if half then 2 else 1) = 0 → s.mayWrite req k i (o / 4 * 4) = true → locked = false →
      Answers (.narrowAccess req a half (some v)) s (after causeWidth))

/-- R5, R8. An 8-bit or 16-bit read of a 32-bit register returns the addressed bytes in their own positions, with 0 in the other bytes, and has the
effects of a read of the whole register. NARROW_ACCESS. -/
def Obligations.NarrowReadReturnsBytes : Prop :=
  ∀ (s : State) (req : Req) (k : PageKind) (i o : Nat) (half : Bool) (r : RegDef), s.clocked = true → req.valid = true → (∀ n, req ≠ .stall n) →
    i < k.count → o < 4096 → 0x040 ≤ o → o % (if half then 2 else 1) = 0 → storedKind k = true → findReg (o / 4 * 4) k.regs = some (r, o / 4 * 4) →
    r.wide = false → s.getsTo req k i o = true → s.readsFull req k i (o / 4 * 4) = true →
    Answers (.narrowAccess req (k.addr i + o) half none) s fun t =>
      (∃ x, t.out = s.out ++ [.regData req (k.addr i + o) (Nat.land x ((if half then 0xFFFF else 0xFF) * 2 ^ (8 * (o % 4))))] ∧
        x < 2 ^ 32 ∧ ∀ f ∈ r.fields, f.fld.get x = if f.acc = .wo then 0 else f.fld.get (s.rd32 (k.addr i + o / 4 * 4))) ∧
      (∀ f ∈ r.fields, f.fld.get (t.rd32 (k.addr i + o / 4 * 4)) = if f.acc = .rc then 0 else f.fld.get (s.rd32 (k.addr i + o / 4 * 4))) ∧
      s.wordsBut t [k.addr i + o / 4 * 4] ∧ Within [.regs, .views, .agg, .out] s t

/-- R6. A 64-bit register by 32-bit accesses of one view: a read of its low word returns it and captures the high word of the same instant; a write of
its low word changes nothing but the view's staging word; and a write of its high word commits the staged low word, or where none is staged the
register's own, with it at once. REG64_LOW_WORD_READ, REG64_LOW_WORD_WRITE, REG64_HIGH_WORD_WRITE. -/
def Obligations.WideRegisterByWords : Prop :=
  ∀ (s : State) (req : Req) (k : PageKind) (i o v : Nat) (r : RegDef), s.clocked = true → req.valid = true → (∀ n, req ≠ .stall n) →
    i < k.count → o + 4 < 4096 → 0x040 ≤ o → o % 8 = 0 → findReg o k.regs = some (r, o) → findReg (o + 4) k.regs = some (r, o) → r.wide = true →
    let a := k.addr i + o
    let p := k.addr i
    (storedKind k = true → s.getsTo req k i o = true → s.readsFull req k i o = true →
      Answers (.reg64LowRead req a) s fun t =>
        ∃ x, (∀ f ∈ r.fields, f.fld.get x = if f.acc = .wo then 0 else f.fld.get (s.rd64 a)) ∧ t.out = s.out ++ [.regData req a (x % 2 ^ 32)] ∧
          t.viewBuf req p = ⟨some (o, x / 2 ^ 32 % 2 ^ 32), none⟩ ∧ s.wordsBut t [a, a + 4] ∧ Within [.regs, .views, .agg, .out] s t) ∧
    (s.takes req k i o = true → r.fields.any (fun f => decide (f.acc = .rw)) = true →
      Answers (.reg64LowWrite req a v) s fun t => t.viewBuf req p = ⟨none, some (o, v)⟩ ∧ Within [.views] s t) ∧
    (plainAt k o = true → s.takes req k i (o + 4) = true →
      Answers (.reg64HighWrite req (a + 4) v) s fun t =>
        let low := match (s.viewBuf req p).staged with
          | some (e, w) => if e = o then w else s.rd32 a
          | none => s.rd32 a
        (∀ f ∈ r.fields, f.acc = .rw → f.fld.get (t.rd64 a) = f.fld.get (low + v * 2 ^ 32)) ∧
        t.viewBuf req p = ViewBuf.empty ∧ s.wordsBut t [a, a + 4] ∧ Within [.regs, .views, .agg] s t)

/-- R460, R461, R465, R466. The header's own commands, by whom the page takes them from: SOFT_RST returns IRQ_RAW, IRQ_EN, ERR_FIRST and ERR_COUNT to
their reset values, sets ENABLE as the same write says, and does nothing else; IRQ_FORCE sets the IRQ_RAW bits that the page has; LOCKED sets LOCK;
ERR_FIRST_CLEAR clears ERR_FIRST whole. -/
def Obligations.HeaderCommands : Prop :=
  ∀ (s : State) (req : Req) (k : PageKind) (i : Nat), s.clocked = true → req.valid = true → i < k.count →
    let p := k.addr i
    (∀ enable : Bool, s.takes req k i 0x008 = true → Answers (.softRst req (p / 4096) enable) s fun t =>
      t.word (rIRQ_RAW p) = 0 ∧ t.word (rIRQ_EN p) = 0 ∧ t.word (rERR_FIRST p) = 0 ∧ t.word (rERR_COUNT p) = 0 ∧
      t.fget (rPAGE_CTRL p) fPAGE_CTRL_ENABLE = b2n enable ∧
      s.wordsBut t [rPAGE_CTRL p, rIRQ_RAW p, rIRQ_EN p, rERR_FIRST p, rERR_COUNT p] ∧ Within [.regs, .views, .agg] s t) ∧
    (∀ bits, s.takes req k i 0x018 = true → Answers (.irqForce req (p / 4096) bits) s fun t =>
      t.word (rIRQ_RAW p) = s.word (rIRQ_RAW p) ||| (BitVec.ofNat 32 bits &&& BitVec.ofNat 32 (k.irqMask + 2 ^ 31)) ∧
      s.wordsBut t [rIRQ_RAW p] ∧ Within [.regs, .views, .agg] s t) ∧
    (s.takes req k i 0x02C = true → Answers (.lockPage req (p / 4096)) s fun t =>
      t.flag (rLOCK p) fLOCK_LOCKED = true ∧ s.wordsBut t [rLOCK p] ∧ Within [.regs, .views, .agg] s t) ∧
    (s.takes req k i 0x020 = true → Answers (.errFirstClear req (p / 4096)) s fun t =>
      t.word (rERR_FIRST p) = 0 ∧ s.wordsBut t [rERR_FIRST p] ∧ Within [.regs, .views, .agg] s t)

/-- R471–R473. SUMMARY_PUSH takes the oldest rise and pushes its page's index into the queue of each view it is routed to, or, into a full queue, loses
it and sets OVF; AGG_POP removes the head of a view's queue; MSIX_SEND sends vector 0 where the view's queue holds an entry, its link is up, EN is 1 and
no message has been sent since the queue was last empty with OVF clear. -/
def Obligations.InterruptAggregation : Prop :=
  ∀ (s : State) (v : Nat), s.clocked = true → v < 4 →
    (∀ p ps k i, s.agg.rises = p :: ps → pageOf (4096 * p) = some (k, i) → Answers .summaryPush s fun t =>
      t.agg.rises = ps ∧
      t.aggQueue v = (if s.routed k i v = true ∧ (s.aggQueue v).length < 256 then s.aggQueue v ++ [p] else s.aggQueue v) ∧
      (s.routed k i v = true → 256 ≤ (s.aggQueue v).length → t.flag (rAGG_STAT v) fAGG_STAT_OVF = true) ∧
      s.wordsBut t ((List.range 4).map rAGG_STAT) ∧ Within [.regs, .agg] s t) ∧
    (∀ req, req.valid = true → s.takes req .irqAgg v 0x04C = true → Answers (.aggPop req v) s fun t =>
      t.aggQueue v = (s.aggQueue v).tail ∧ (∀ w, w ≠ v → t.aggQueue w = s.aggQueue w) ∧ t.regs = s.regs ∧ Within [.views, .agg] s t) ∧
    (s.flag (rAGG_CFG v) fAGG_CFG_EN = true → s.pcieUp v = true → s.aggQueue v ≠ [] → smGet false s.agg.sent v = false → Answers (.msixSend v) s fun t =>
      t.out = s.out ++ [.msix v] ∧ smGet false t.agg.sent v = true ∧ t.agg.queues = s.agg.queues ∧ Within [.agg, .out] s t)

/-! ### Resets and start -/

/-- R415–R417, Tables CLK-4 and CLK-5: a reset. Where a reference pair runs, power good, SYS_RST_N, a device reset, the return of the reference to a dark device and the loss of a device clock each start the device: the mailboxes
accept commands and Tolmor is in its normal mode. Where none runs the device is dark: RST_CAUSE names the cause, STRAP holds the pads, and everything else but the OTP, the repairs and the test access ports reads as at reset.
POWER_GOOD, SYS_RST_N, DEVICE_RESET, REF_RETURN, CLOCK_LOSS. -/
def Obligations.ResetStartsTheDevice : Prop :=
  ∀ (s : State) (env : StartEnv) (c : Instr) (cause : Nat),
    (c, cause) = (.powerGood env, 0) ∨ (c, cause) = (.sysRst env, 1) ∨ (c, cause) = (.deviceReset env, 2) ∨
      ((c, cause) = (.refReturn env, 3) ∧ s.clk.dark = true) ∨
      (∃ d, (c, cause) = (.clockLoss (.fixed d) env, 4) ∧ d < 20 ∧ s.clocked = true) →
    (env.pairs % 2 ^ 8 ≠ 0 → Answers c s fun t =>
      (∀ b ∈ [0, 1, 2, 3, 5], t.flag (rMB_STAT b) fMB_STAT_ACCEPTING = true) ∧ t.fget (rTOL_STAT 0) fTOL_STAT_MODE = 0 ∧ Evolves s t) ∧
    (env.pairs % 2 ^ 8 = 0 → cause ≠ 3 → Answers c s fun t =>
      t.clk.dark = true ∧ t.rd32 (rRST_CAUSE 0) = cause ∧ t.rd32 (rSTRAP 0) = env.pads % 2 ^ 5 ∧
      State.reset.wordsBut t [rRST_CAUSE 0, rREPAIR_STAT 0, rMGPIO_IN 0, rMGPIO_IN 0 + 4, rSTRAP 0, rTOL_INFO 0, rTREE_STAT 0, rREF_STAT 0] ∧
      t.eddies = [] ∧ t.stalls = [] ∧ t.pins = [] ∧ t.lanes = [] ∧ t.views = [] ∧ t.mem = Mem.reset ∧ t.mil = Mil.reset ∧ t.fab = Fabric.reset ∧
      t.tide = Tide.reset ∧ t.tree = Tree.reset ∧ t.tol = Tol.reset ∧ t.tally = Tally.reset ∧ t.dbg = Dbg.reset ∧ t.ports = Ports.reset ∧
      t.d2d.repair = s.d2d.repair.filter (fun e => !e.sram) ∧ t.d2d.taps = (if cause = 0 then [] else s.d2d.taps) ∧
      t.otp = s.otp ∧ t.out = s.out ∧ t.fresh = s.fresh ∧ t.pending = s.pending)

/-! ### The fabric -/

/-- R28–R30, Table LGC-2: on an active edge of its tile's clock a flip-flop takes its TRST value where TRST is 1 and it uses it, else D where its enable is
1, else keeps its bit; INV inverts what is stored. While TRST is 1 with no edge, a flip-flop of an ASYNC tile that uses TRST takes its TRST value. A tile
whose clock it is not, or whose shed or spine is gated, changes nothing. ACTIVE_CLOCK_EDGE. -/
def Obligations.FlipFlopsOnAnEdge : Prop :=
  ∀ (s : State) (sh tile : Nat) (i : TileIn) (clk : ClockId) (falling : Bool), s.clocked = true → sh < 384 → tile < 5760 → isClock clk = true →
    let c := smGet TileCfg.blank (s.liveCfg sh).tiles tile
    let runs := decide (clk = .spine sh c.clk) && decide (falling = c.clkInv) && s.spineOn sh c.clk
    (runs = true → Answers (.clockEdge clk falling [.tile sh tile i]) s fun t =>
      (∀ k kb, k < 8 →
        let f := if kb then (c.cell k).kb else (c.cell k).ka
        (t.ffs sh tile).testBit (2 * k + b2n kb) =
          if f.trstUse && i.trst then xor f.trstVal f.inv
          else if ffEnabled f i then xor (ffD c i k kb) f.inv
          else (s.ffs sh tile).testBit (2 * k + b2n kb)) ∧
      (∀ sh' tile', (sh', tile') ≠ (sh, tile) → tile' < 8192 → t.ffs sh' tile' = s.ffs sh' tile') ∧ t.regs = s.regs ∧ Within [.fab] s t) ∧
    (runs = false → Answers (.clockEdge clk falling [.tile sh tile i]) s fun t => t = s) ∧
    (Answers (.clockEdge clk falling [.tileAsync sh tile]) s fun t =>
      (∀ k kb, k < 8 →
        let f := if kb then (c.cell k).kb else (c.cell k).ka
        (t.ffs sh tile).testBit (2 * k + b2n kb) =
          if !s.gated sh && c.async && f.trstUse then xor f.trstVal f.inv else (s.ffs sh tile).testBit (2 * k + b2n kb)) ∧
      t.regs = s.regs ∧ Within [.fab] s t)

/-- R48–R50: a fabric MAC block with no operand register, on an enabled edge: ACC is the product and the addend, wrapped to 58 bits or limited as SAT
says, and OVF marks the crossing of a limit; with EN = 0 it keeps its registers. R71: on an edge of its device clock a drive register takes its signal and
the Riverbed register the value that the select chooses. ACTIVE_CLOCK_EDGE. -/
def Obligations.BlocksOnAnEdge : Prop :=
  ∀ (s : State) (sh b : Nat) (i : FmbIn) (c : FmbCfg), s.clocked = true → sh < 384 → b < 64 → c.clk < 16 →
    cfgAt (s.liveCfg sh).fmbs b = some c → s.spineOn sh c.clk = true →
    (c.xpipe = false ∧ c.wpipe = false ∧ c.gpipe = false ∧ c.mpipe = false ∧ c.apipe = true ∧ c.xChain = false ∧ c.wChain = false →
      Answers (.clockEdge (.spine sh c.clk) false [.fmb sh b i]) s fun t =>
        let g := wrapS 27 i.g
        let x := wrapS 27 i.x
        let m := match i.pre with | .x => x | .g => g | .xPlusG => wrapS 27 (x + g) | .xMinusG => wrapS 27 (x - g)
        let z : Int := match i.zsel with
          | .zero => 0 | .acc => (s.fmb sh b).acc | .n => wrapS 58 i.n | .accCi => if b = 0 then 0 else (s.fmb sh (b - 1)).acc
        let k : Int := if i.ksel = 1 then c.konst else if i.ksel = 2 then -c.konst else 0
        let r := m * wrapS 24 i.w + z + k
        (i.en = true → (t.fmb sh b).ovf = (decide (2 ^ 57 - 1 < r) || decide (r < -(2 ^ 57))) ∧
          (t.fmb sh b).acc = if -(2 ^ 57) ≤ r ∧ r ≤ 2 ^ 57 - 1 then r else if c.sat then (if 0 < r then 2 ^ 57 - 1 else -(2 ^ 57)) else wrapS 58 r) ∧
        (i.en = false → t.fmb sh b = s.fmb sh b) ∧ Within [.fab] s t) ∧
    (∀ k slot d, k < 32 → slot < 960 → slotOn (s.liveCfg sh).drivers slot k = true → s.gated sh = false →
      Answers (.clockEdge (.device k) false [.drive sh slot d]) s fun t => (smGet 0 t.fab.drive sh).testBit slot = d ∧ Within [.fab] s t) ∧
    (∀ k tr, k < 32 → tribExists tr = true → s.tribOnClock tr k = true →
      Answers (.clockEdge (.device k) false [.river tr]) s fun t => (t.trib tr).reg = s.selValue tr ∧ Within [.fab] s t)

/-- R43, R61: FRST empties a BM36 FIFO in both domains and clears OVERRUN, UNDERRUN and the mirror bit of FIFO_OVR; its memory stays. FIFO_RESET. -/
def Obligations.FifoResetEmpties : Prop :=
  ∀ (s : State) (sh b : Nat) (c : BmCfg), sh < 384 → b < 60 → cfgAt (s.liveCfg sh).bms b = some c → c.mode = .fifo ∨ c.mode = .fifo1clk →
    Answers (.fifoReset sh b) s fun t =>
      (t.bm sh b).empty = true ∧ (t.bm sh b).full = true ∧ (t.bm sh b).wptr = (t.bm sh b).rptr ∧ (t.bm sh b).overrun = false ∧ (t.bm sh b).underrun = false ∧
      (t.bm sh b).mem = (s.bm sh b).mem ∧ t.bit (if b < 32 then rFIFO_OVR_LO sh else rFIFO_OVR_HI sh) (b % 32) = false ∧
      s.wordsBut t [if b < 32 then rFIFO_OVR_LO sh else rFIFO_OVR_HI sh] ∧ Within [.regs, .agg, .fab] s t

/-- R56, R59, R83: an upset flips one bit of a configuration word (where it is not a memory-mode LUT's, the flip is held against the word's check bits),
of a select latch or of a live-plane latch, and nothing else. CONFIGURATION_UPSET. -/
def Obligations.UpsetFlipsOneBit : Prop :=
  ∀ (s : State) (sh p frame word bit : Nat), sh < 384 → p < 2 → frame < 2304 → word < 64 → bit < 72 →
    (s.wordIsMem sh p frame word = false → Answers (.upset (.word sh p frame word bit)) s fun t =>
      t.upsetMask (wordKey sh p frame word) = Nat.xor (s.upsetMask (wordKey sh p frame word)) (2 ^ bit) ∧
      (∀ k, k ≠ wordKey sh p frame word → t.upsetMask k = s.upsetMask k) ∧ Within [.fab] s t) ∧
    (∀ tr tap ab, tribExists tr = true → tap < tribTaps tr → Answers (.upset (.select tr tap ab)) s fun t =>
      (∀ k, (t.trib tr).drvA.testBit k = xor ((s.trib tr).drvA.testBit k) (decide (k = tap) && decide (ab = 0))) ∧
      (∀ k, (t.trib tr).drvB.testBit k = xor ((s.trib tr).drvB.testBit k) (decide (k = tap) && decide (ab ≠ 0))) ∧
      (t.trib tr).owner = (s.trib tr).owner ∧ (∀ u, u ≠ tr → t.trib u = s.trib u) ∧ Within [.fab] s t) ∧
    (Answers (.upset (.livePlane sh)) s fun t =>
      t.selPlane sh = 1 - s.selPlane sh ∧ (∀ u, u ≠ sh → t.selPlane u = s.selPlane u) ∧ t.regs = s.regs ∧ Within [.fab] s t)

/-- R55–R58: a scrubber visit, while the scrubber is on, active and its yard runs: it moves to the next frame, or past a shed in a swap; the only upset word
of a frame that it reads is corrected where a single bit is wrong: no bit of it is held flipped any more and SCRUB_CORR counts it. SCRUB_FRAME_VISIT. And
the next pass begins at shed 0, frame 0 (SCRUB_PASS_START). -/
def Obligations.ScrubberVisits : Prop :=
  ∀ (s : State) (y : Nat), s.clocked = true → y < 8 → s.flag (rSCRUB_CTRL y) fSCRUB_CTRL_EN = true → s.yardRuns y = true →
    let pos := s.scrubPos y
    let sh := 48 * y + pos.shed
    let p := if pos.bg then s.bgPlane sh else s.livePlane sh
    let next : Nat × Nat × Bool :=
      if s.inSwap sh then (pos.shed + 1, 0, false)
      else if pos.frame + 1 < 2304 then (pos.shed, pos.frame + 1, false) else (pos.shed + 1, 0, false)
    (s.flag (rSCRUB_STAT y) fSCRUB_STAT_ACTIVE = true → pos.shed < 48 → (s.inSwap sh = true ∨ s.frameWords sh p pos.frame = []) →
      (pos.bg = false ∧ s.inSwap sh = false → s.scrubsBg y sh = false) → Answers (.scrubVisit y) s fun t =>
      ((t.scrubPos y).shed, (t.scrubPos y).frame, (t.scrubPos y).bg) = (if next.1 < 48 then next else (0, 0, false)) ∧
      s.wordsBut t [rSCRUB_STAT y] ∧ Within [.regs, .agg, .fab] s t) ∧
    (∀ w, s.flag (rSCRUB_STAT y) fSCRUB_STAT_ACTIVE = true → s.inSwap sh = false → s.planeState sh p ≠ plLOADING → s.frameWords sh p pos.frame = [w] →
      popCount 72 (s.upsetMask (wordKey sh p pos.frame w)) = 1 → Answers (.scrubVisit y) s fun t =>
      t.upsetMask (wordKey sh p pos.frame w) = 0 ∧ t.fget (rSCRUB_CORR y) fSCRUB_CORR_COUNT = satInc 32 (s.fget (rSCRUB_CORR y) fSCRUB_CORR_COUNT) ∧
      (∀ k, k ≠ wordKey sh p pos.frame w → t.upsetMask k = s.upsetMask k) ∧ Evolves s t) ∧
    (s.flag (rSCRUB_STAT y) fSCRUB_STAT_ACTIVE = false → Answers (.scrubStart y) s fun t =>
      t.flag (rSCRUB_STAT y) fSCRUB_STAT_ACTIVE = true ∧ t.fget (rSCRUB_STAT y) fSCRUB_STAT_SHED = 0 ∧
      t.fget (rSCRUB_STAT y) fSCRUB_STAT_PASS_COUNT = s.fget (rSCRUB_STAT y) fSCRUB_STAT_PASS_COUNT ∧
      ((t.scrubPos y).shed, (t.scrubPos y).frame, (t.scrubPos y).bg) = (0, 0, false) ∧ s.wordsBut t [rSCRUB_STAT y] ∧ Within [.regs, .agg, .fab] s t)

/-- R83, R85: contention on a tributary: the taps that the select blocks are recorded and counted, and IRQ_RAW[0] of TRIB_CTL sets; each shed involved shows
CONTENTION, and where one alone is involved and its stall is LIVE, the stall is FAULTED with cause TRIB_CONTENTION. With no tap blocked nothing changes.
TRIB_CONTENTION. -/
def Obligations.ContentionIsRecorded : Prop :=
  ∀ (s : State) (tr : Nat), s.clocked = true → tribExists tr = true →
    let sheds := ((List.range (tribTaps tr)).filter (fun k => (s.checkedTaps tr).contains k ||
      (s.tapOwned tr k && (s.liveCfg (tapShed tr k)).taps.any (fun x => x.1 = tribSlot tr)))).map (tapShed tr)
    (s.blockedTaps tr = [] → Answers (.tribContention tr) s fun t => t = s) ∧
    (s.blockedTaps tr ≠ [] → (∀ sh ∈ sheds, s.shedOwner sh = none) → (s.trib tr).live.getD 0 < 32 → (s.trib tr).owner.getD 0 < 32 → Answers (.tribContention tr) s fun t =>
      t.fget (rTRIB_CONT_LAST 0) fTRIB_CONT_LAST_VALID = 1 ∧ t.fget (rTRIB_CONT_LAST 0) fTRIB_CONT_LAST_TRIB_ID = tr ∧
      t.fget (rTRIB_CONT_COUNT 0) fTRIB_CONT_COUNT_COUNT = satInc 16 (s.fget (rTRIB_CONT_COUNT 0) fTRIB_CONT_COUNT_COUNT) ∧
      t.bit (rIRQ_RAW (PageKind.tribCtl.addr 0)) 0 = true ∧
      (∀ sh ∈ sheds, t.flag (rTRIB_STAT sh) fTRIB_STAT_CONTENTION = true) ∧ Within [.regs, .agg] s t) ∧
    (∀ sh n, s.blockedTaps tr ≠ [] → sheds = [sh] → s.shedOwner sh = some n → n < 32 → s.stallState n = stLIVE → Answers (.tribContention tr) s fun t =>
      t.stallState n = stFAULTED ∧ t.fget (rSTALL_STAT n) fSTALL_STAT_CAUSE = cTRIB_CONTENTION ∧ Evolves s t)

/-! ### Eddy engines -/

/-- R126, R130–R132, R139: writes of EDDY_RUN and EDDY_CFG. START in a stopped state asks for a start; STOP of a RUNNING engine asks for the end of issue;
RESUME of a STOPPED or DONE engine makes it RUNNING with its watchdog reloaded; KICK of a RUNNING engine reloads its watchdog; EDDY_CFG changes in a
stopped state. START of an engine that is not stopped, and RESUME and EDDY_CFG where they are not accepted, are refused. START, STOP, RESUME, KICK,
EDDY_CFG_WRITE. -/
def Obligations.RunCommands : Prop :=
  ∀ (s : State) (req : Req) (n v : Nat), s.clocked = true → req.valid = true → n < 512 →
    let e := s.eddy n
    let same := fun (t : State) => ∀ m, m ≠ n → t.eddy m = s.eddy m
    let refused := fun (t : State) => t.eddies = s.eddies ∧ t.bit (rIRQ_RAW (PageKind.eddy.addr n)) 31 = true ∧
      t.fget (rERR_COUNT (PageKind.eddy.addr n)) fERR_COUNT_COUNT = satInc 16 (s.fget (rERR_COUNT (PageKind.eddy.addr n)) fERR_COUNT_COUNT) ∧
      Within [.regs, .views, .agg] s t
    (s.takes req .eddy n 0x050 = true →
      (e.isStopped = true → Answers (.start req n) s fun t =>
        t.eddy n = { e with issue := { e.issue with startReq := true } } ∧ same t ∧ Within [.views, .eddies] s t) ∧
      (e.isStopped = false → Answers (.start req n) s refused) ∧
      (Answers (.stop req n) s fun t =>
        t.eddy n = (if e.run = .running then { e with issue := { e.issue with stopReq := true } } else e) ∧ same t ∧ Within [.views, .eddies] s t) ∧
      (e.run = .stopped ∨ e.run = .done → Answers (.resume req n) s fun t =>
        t.eddy n = { e with run := .running, issue := { e.issue with startReq := false, stopReq := false, wdog := s.rd32 (rEDDY_WDOG_LIMIT n),
                                                                     wdogLimit := s.rd32 (rEDDY_WDOG_LIMIT n) } } ∧
        same t ∧ Within [.views, .eddies] s t) ∧
      (¬ (e.run = .stopped ∨ e.run = .done) → Answers (.resume req n) s refused) ∧
      (Answers (.kick req n) s fun t =>
        t.eddy n = (if e.run = .running then { e with issue := { e.issue with wdog := s.rd32 (rEDDY_WDOG_LIMIT n), wdogLimit := s.rd32 (rEDDY_WDOG_LIMIT n) } }
          else e) ∧ same t ∧ Within [.views, .eddies] s t)) ∧
    (s.takes req .eddy n 0x040 = true →
      (e.isStopped = true → Answers (.eddyCfgWrite req n v) s fun t =>
        t.fget (rEDDY_CFG n) fEDDY_CFG_LOCK_LIMIT = fEDDY_CFG_LOCK_LIMIT.get v ∧ t.fget (rEDDY_CFG n) fEDDY_CFG_EXC_IRQ = fEDDY_CFG_EXC_IRQ.get v ∧
        t.fget (rEDDY_CFG n) fEDDY_CFG_ROUND_COMPAT = fEDDY_CFG_ROUND_COMPAT.get v ∧ s.wordsBut t [rEDDY_CFG n] ∧ Within [.regs, .views, .agg] s t) ∧
      (e.isStopped = false → Answers (.eddyCfgWrite req n v) s refused))

/-- R130, R131: an accepted START takes effect once no transfer is outstanding: the scalar, vector and predicate registers, the accumulators, the tap
window and the control registers are at their start values, the cascade queue is empty, PC is START_PC, EDDY_CFG and the watchdog limit are applied, and
the engine is RUNNING; data memory and the program banks stay. A requested STOP with no lock held leaves it STOPPED, with its next bundle kept, and
raises IRQ_RAW[2]. START_EXECUTE, STOP_TAKES_EFFECT. -/
def Obligations.EngineStartsAndStops : Prop :=
  ∀ (s : State) (n : Nat), s.clocked = true → n < 512 →
    let e := s.eddy n
    (e.issue.startReq = true → e.isStopped = true → e.xfers = [] → Answers (.startExecute n) s fun t =>
      (t.eddy n).run = .running ∧ (t.eddy n).pc = s.fget (rEDDY_START_PC n) fEDDY_START_PC_PC ∧ (t.eddy n).regs = EddyRegs.start ∧
      (t.eddy n).queues = { e.queues with casc := [] } ∧ (t.eddy n).data = e.data ∧ (t.eddy n).progA = e.progA ∧ (t.eddy n).progB = e.progB ∧
      (t.eddy n).issue.wdog = s.rd32 (rEDDY_WDOG_LIMIT n) ∧ (t.eddy n).issue.lockLimit = s.fget (rEDDY_CFG n) fEDDY_CFG_LOCK_LIMIT ∧
      (t.eddy n).issue.compat = s.flag (rEDDY_CFG n) fEDDY_CFG_ROUND_COMPAT ∧ (t.eddy n).issue.startReq = false ∧
      (∀ m, m ≠ n → t.eddy m = s.eddy m) ∧ Within [.eddies] s t) ∧
    (e.run = .running → e.issue.stopReq = true → e.issue.held = none → Answers (.stopEffect n) s fun t =>
      (t.eddy n).run = .stopped ∧ (t.eddy n).pc = e.pc ∧ (t.eddy n).regs = e.regs ∧ (t.eddy n).data = e.data ∧ (t.eddy n).queues = e.queues ∧
      (t.eddy n).xfers = e.xfers ∧ t.bit (rIRQ_RAW (PageKind.eddy.addr n)) 2 = true ∧ s.wordsBut t [rIRQ_RAW (PageKind.eddy.addr n)] ∧
      (∀ m, m ≠ n → t.eddy m = s.eddy m) ∧ Within [.regs, .agg, .eddies] s t)

/-- R99, R101, R103, R124, R127: a cycle of a RUNNING engine with no stop, halt, step or watchpoint. A bundle with an exception is cancelled: the engine is
FAULTED at that bundle, any lock it held is free, and EDDY_EXC, where it is not VALID, records the cause and the PC. A bundle that waits changes no
register but CYCLE. A bundle whose slot S alone holds an instruction issues: an operation on two scalar registers writes its destination and the status
flags; a branch goes to its target with two cycles lost; every other scalar register, the data memory and the other engines stay. BUNDLE_ISSUE. -/
def Obligations.BundleIssues : Prop :=
  ∀ (s : State) (n : Nat) (env : IssueEnv), s.clocked = true → n < 512 →
    let e := s.eddy n
    let es := settlePosted s.eddies n
    let b := e.bundle
    e.run = .running → e.issue.stopReq = false → e.issue.haltReq = false → e.issue.stepLeft = 0 → e.issue.hold = 0 → e.posted = [] →
    smGet 0 s.dbg.deferred n = 0 → (∀ k, k < 4 → s.fget (rWP_CFG n k) fWP_CFG_KIND = 0) →
    (∀ x, bundleExc es n env b = some x → x.cause < 32 → Answers (.bundleIssue n env) s fun t =>
      (t.eddy n).run = .faulted ∧ (t.eddy n).pc = e.pc ∧ { (t.eddy n).regs with cycle := e.regs.cycle } = e.regs ∧ (t.eddy n).issue.held = none ∧
      (s.flag (rEDDY_EXC n) fEDDY_EXC_VALID = false → t.flag (rEDDY_EXC n) fEDDY_EXC_VALID = true ∧ t.fget (rEDDY_EXC n) fEDDY_EXC_CAUSE = x.cause ∧
        t.fget (rEDDY_EXC n) fEDDY_EXC_PC = e.pc % 2048 ∧ t.rd32 (rEDDY_EXC_INFO n) = x.info % 2 ^ 32) ∧
      (s.flag (rEDDY_EXC n) fEDDY_EXC_VALID = true → t.word (rEDDY_EXC n) = s.word (rEDDY_EXC n)) ∧ Evolves s t) ∧
    (bundleExc es n env b = none → dueExc (cycleEngine e) e.issue.holdCount false = none → bundleWaits es n env (s.capFull n) b = true →
      Answers (.bundleIssue n env) s fun t =>
      (t.eddy n).run = .running ∧ (t.eddy n).pc = e.pc ∧ (t.eddy n).regs = { e.regs with cycle := e.regs.cycle + 1 } ∧ (t.eddy n).data = e.data ∧
      (t.eddy n).issue.waiting = true ∧ (∀ m, m ≠ n → t.eddy m = s.eddy m) ∧ Evolves s t) ∧
    (bundleExc es n env b = none → dueExc (cycleEngine e) e.issue.holdCount false = none → bundleWaits es n env (s.capFull n) b = false →
      guardOf e.regs b 0 = true →
      (∀ op sat sd sa sb, decodeBundle b = ⟨.alu op sat sd sa sb, .nop, .nop, .nop⟩ → Answers (.bundleIssue n env) s fun t =>
        let r := scalarOp op sat (e.regs.getS sa) (e.regs.getS sb)
        (t.eddy n).regs.getS sd = r.1 % 2 ^ 32 ∧ (t.eddy n).regs.estat = e.regs.estat ||| BitVec.ofNat 4 r.2 ∧
        (∀ k, k ≠ sd → (t.eddy n).regs.getS k = e.regs.getS k) ∧ (t.eddy n).regs.v = e.regs.v ∧ (t.eddy n).regs.acc = e.regs.acc ∧
        (t.eddy n).regs.p = e.regs.p ∧ (t.eddy n).pc = (e.pc + 1) % 2048 ∧ (t.eddy n).run = .running ∧ (t.eddy n).data = e.data ∧
        (∀ m, m ≠ n → t.eddy m = s.eddy m) ∧ Evolves s t) ∧
      (∀ target, decodeBundle b = ⟨.br target, .nop, .nop, .nop⟩ → Answers (.bundleIssue n env) s fun t =>
        (t.eddy n).pc = target ∧ (t.eddy n).issue.hold = 2 ∧ (t.eddy n).regs = { e.regs with cycle := e.regs.cycle + 1 } ∧ (t.eddy n).data = e.data ∧
        (∀ m, m ≠ n → t.eddy m = s.eddy m) ∧ Evolves s t))

/-- R122, R124, R140: a lock held to LOCK_LIMIT raises LOCK_TIMEOUT, and a watchdog count that runs out raises WATCHDOG, where the bundle due raises nothing
else: the engine is FAULTED, the lock is free, and EDDY_EXC records the cause. An engine that holds no lock to its limit, or whose watchdog does not run
out, is left as it is. LOCK_TIMEOUT, WATCHDOG. -/
def Obligations.LockAndWatchdogExceptions : Prop :=
  ∀ (s : State) (n : Nat) (env : IssueEnv), s.clocked = true → n < 512 →
    let e := s.eddy n
    let es := settlePosted s.eddies n
    let b := e.bundle
    (s.lockDue n = false → Answers (.lockTimeout n env) s fun t => t = s) ∧ (s.wdogDue n = false → Answers (.watchdog n env) s fun t => t = s) ∧
    (e.run = .running → e.issue.stopReq = false → e.issue.haltReq = false → e.issue.stepLeft = 0 → e.issue.hold = 0 → e.posted = [] →
      smGet 0 s.dbg.deferred n = 0 → (∀ k, k < 4 → s.fget (rWP_CFG n k) fWP_CFG_KIND = 0) →
      s.flag (rEDDY_EXC n) fEDDY_EXC_VALID = false → bundleExc es n env b = none → bundleReloads e.regs b = false →
      (s.lockDue n = true → Answers (.lockTimeout n env) s fun t =>
        (t.eddy n).run = .faulted ∧ (t.eddy n).issue.held = none ∧ t.fget (rEDDY_EXC n) fEDDY_EXC_CAUSE = 8 ∧
        t.fget (rEDDY_EXC n) fEDDY_EXC_PC = e.pc % 2048 ∧ t.rd32 (rEDDY_EXC_INFO n) = e.issue.holdCount % 2 ^ 32 ∧ Evolves s t) ∧
      (s.wdogDue n = true → e.issue.held = none → e.issue.xport = none → Answers (.watchdog n env) s fun t =>
        (t.eddy n).run = .faulted ∧ t.fget (rEDDY_EXC n) fEDDY_EXC_CAUSE = 0x0C ∧ t.fget (rEDDY_EXC n) fEDDY_EXC_PC = e.pc % 2048 ∧
        t.rd32 (rEDDY_EXC_INFO n) = e.issue.wdogLimit % 2 ^ 32 ∧ Evolves s t))

/-- R119: a free memory that one RUNNING engine of its region asks for goes to it; a memory that is locked, or that nobody asks for, stays as it is.
LOCK_GRANT. -/
def Obligations.LockIsGranted : Prop :=
  ∀ (s : State) (m : Nat), s.clocked = true → m < 512 →
    let asks := fun k => decide ((s.eddy k).run = .running) && decide ((s.eddy k).issue.lockReq = some m) && (s.eddy k).issue.held.isNone
    let order := ((List.range 5).map (fun r => regionEngine m r)).filterMap (fun x => x)
    ((s.eddy m).lockedBy.isSome = true → Answers (.lockGrant m) s fun t => t = s) ∧
    (order.filter asks = [] → Answers (.lockGrant m) s fun t => t = s) ∧
    (∀ k, (s.eddy m).lockedBy = none → order.filter asks = [k] → Answers (.lockGrant m) s fun t =>
      (t.eddy m).lockedBy = some k ∧ (t.eddy k).issue.held = some m ∧ (t.eddy k).issue.holdCount = 0 ∧ (t.eddy k).regs = (s.eddy k).regs ∧
      (t.eddy m).data = (s.eddy m).data ∧ (∀ j, j ≠ m → j ≠ k → t.eddy j = s.eddy j) ∧ Within [.eddies] s t)

/-- R135–R137: the memory port. A write to data memory writes the word that MEM_ADDR names and, with AUTOINC, moves on to the next, past the last to 0
with WRAPPED; a write to program memory fills a staging bundle, which word 3 commits; both read back. A read moves nothing. EDDY_MEM_DATA_WRITE,
EDDY_MEM_DATA_READ. -/
def Obligations.MemoryPortMoves : Prop :=
  ∀ (s : State) (req : Req) (n v : Nat), s.clocked = true → req.valid = true → n < 512 → v < 2 ^ 32 →
    let e := s.eddy n
    let a := s.rd32 (rEDDY_MEM_ADDR n)
    let w := fEDDY_MEM_ADDR_WORD.get a
    let prog := decide (fEDDY_MEM_ADDR_SPACE.get a = 1)
    let last := if prog then 8191 else 32767
    let moved := fun (t : State) =>
      (fEDDY_MEM_ADDR_AUTOINC.get a = 0 → s.wordsBut t []) ∧
      (fEDDY_MEM_ADDR_AUTOINC.get a = 1 → t.fget (rEDDY_MEM_ADDR n) fEDDY_MEM_ADDR_WORD = (if w = last then 0 else w + 1) ∧
        t.flag (rEDDY_MEM_ADDR n) fEDDY_MEM_ADDR_WRAPPED = (decide (w = last) || s.flag (rEDDY_MEM_ADDR n) fEDDY_MEM_ADDR_WRAPPED) ∧
        s.wordsBut t [rEDDY_MEM_ADDR n])
    (s.takes req .eddy n 0x068 = true → prog = false → e.run ≠ .off → e.lockedBy = none → Answers (.memDataWrite req n v 0) s fun t =>
      (t.eddy n) = { e with data := (t.eddy n).data } ∧ (∀ j, smGet 0 (t.eddy n).data j = if j = w then BitVec.ofNat 32 v else smGet 0 e.data j) ∧
      (∀ m, m ≠ n → t.eddy m = s.eddy m) ∧ moved t ∧ Within [.regs, .views, .agg, .eddies] s t) ∧
    (s.takes req .eddy n 0x068 = true → prog = true → w ≤ 8191 → e.isStopped = true ∨ e.run = .off →
      (∀ x, e.stage = some x → ∀ d k, d < 2 ^ 32 → smGet d x.2 k < 2 ^ 32) → Answers (.memDataWrite req n v 0) s fun t =>
      let old := fun k => (smGet (0 : BitVec 128) e.prog (w / 4)).toNat / 2 ^ (32 * k) % 2 ^ 32
      let staged := fun k => match e.stage with
        | some (b, m) => if b = w / 4 then smGet (old k) m k else old k
        | none => old k
      (t.eddy n).data = e.data ∧
      (w % 4 ≠ 3 → (t.eddy n).prog = e.prog ∧ ∃ staged, (t.eddy n).stage = some (w / 4, staged) ∧ smGet 0 staged (w % 4) = v) ∧
      (w % 4 = 3 → (t.eddy n).stage = none ∧ (smGet (0 : BitVec 128) (t.eddy n).prog (w / 4)).toNat =
          staged 0 + staged 1 * 2 ^ 32 + staged 2 * 2 ^ 64 + v * 2 ^ 96 ∧ ∀ j, j ≠ w / 4 → smGet (0 : BitVec 128) (t.eddy n).prog j = smGet 0 e.prog j) ∧
      (∀ m, m ≠ n → t.eddy m = s.eddy m) ∧ moved t ∧ Within [.regs, .views, .agg, .eddies] s t) ∧
    (s.getsTo req .eddy n 0x068 = true → s.readsFull req .eddy n 0x068 = true → (prog = true → w ≤ 8191) → (prog = false → e.run ≠ .off) →
      Answers (.memDataRead req n 0) s fun t =>
      t.out = s.out ++ [.regData req (rEDDY_MEM_DATA n)
        (if prog then (smGet (0 : BitVec 128) e.prog (w / 4)).toNat / 2 ^ (32 * (w % 4)) % 2 ^ 32 else (smGet (0 : BitVec 32) e.data w).toNat)] ∧
      Within [.views, .out] s t)

/-- R142–R144, R146–R148: stream commands and words. A flush empties the queues of its direction and ends the transfers of that direction that have begun
with ABORTED; CAP_POP drops the head of the capture queue; a source changes in a stopped state alone; writing word 7 of the staging word moves it into
the stimulus queue, and into a full one is refused; a word from the fabric, or the head of the stimulus queue, enters an input queue that has room; the
head of the output queue leaves to the fabric, or into the capture queue. STREAM_FLUSH_IN, STREAM_FLUSH_OUT, CAP_POP, STREAM_SOURCE_CHANGE,
STIM_IN_WRITE, STREAM_IN_WORD, STREAM_OUT_WORD. -/
def Obligations.StreamsMove : Prop :=
  ∀ (s : State) (req : Req) (n : Nat), s.clocked = true → req.valid = true → n < 512 →
    let e := s.eddy n
    let q := e.queues
    let only := fun (t : State) => ∀ m, m ≠ n → t.eddy m = s.eddy m
    let ended := fun (op : Nat) (t : State) => (t.eddy n).xfers = e.xfers.map (fun x =>
      if x.raw % 8 = op ∧ x.begun = true ∧ x.status = .pending then { x with status := .aborted } else x)
    let out := s.flag (rSTREAM_CTL n) fSTREAM_CTL_OUT_DST
    let src := s.flag (rSTREAM_CTL n) fSTREAM_CTL_IN_SRC
    (s.takes req .eddyIo n 0x040 = true →
      (Answers (.streamFlushIn req n) s fun t =>
        (t.eddy n).queues = { q with inQ := [], stimQ := [], stim := 0 } ∧ ended 2 t ∧ only t ∧ Within [.views, .eddies] s t) ∧
      (Answers (.streamFlushOut req n) s fun t =>
        (t.eddy n).queues = { q with outQ := [], capQ := [] } ∧ ended 3 t ∧ only t ∧ Within [.views, .eddies] s t) ∧
      (Answers (.capPop req n) s fun t => t.eddy n = { e with queues := { q with capQ := q.capQ.tail } } ∧ only t ∧ Within [.views, .eddies] s t) ∧
      (∀ v, e.isStopped = true ∨ e.run = .off → v % 4 ≠ s.rd32 (rSTREAM_CTL n) % 4 → Answers (.streamSource req n v) s fun t =>
        t.rd32 (rSTREAM_CTL n) = v % 4 ∧ s.wordsBut t [rSTREAM_CTL n] ∧ t.eddies = s.eddies ∧ Within [.regs, .views, .agg] s t) ∧
      (∀ v, e.run = .running → v % 4 ≠ s.rd32 (rSTREAM_CTL n) % 4 → Answers (.streamSource req n v) s fun t =>
        t.bit (rIRQ_RAW (PageKind.eddyIo.addr n)) 31 = true ∧ t.word (rSTREAM_CTL n) = s.word (rSTREAM_CTL n) ∧ t.eddies = s.eddies ∧
        Within [.regs, .views, .agg] s t)) ∧
    (∀ k v, k < 8 → v < 2 ^ 32 → s.takes req .eddyIo n (0x050 + 4 * k) = true → (k = 7 → q.stimQ.length < 8) → Answers (.stimIn req n k v) s fun t =>
      let w := BitVec.ofNat 256 (putBits q.stim.toNat (32 * k) 32 v)
      (k ≠ 7 → t.eddy n = { e with queues := { q with stim := w } }) ∧ (k = 7 → t.eddy n = { e with queues := { q with stimQ := q.stimQ ++ [w], stim := 0 } }) ∧
      only t ∧ Within [.views, .eddies] s t) ∧
    (∀ k v, k = 7 → s.takes req .eddyIo n (0x050 + 4 * k) = true → 8 ≤ q.stimQ.length → Answers (.stimIn req n k v) s fun t =>
      (t.eddy n).queues.stimQ = q.stimQ ∧ t.bit (rIRQ_RAW (PageKind.eddyIo.addr n)) 31 = true ∧ only t ∧ Within [.regs, .views, .agg, .eddies] s t) ∧
    (∀ w, q.inQ.length < 16 →
      (src = false → s.streamConnected n = true → Answers (.streamIn n w) s fun t =>
        t.eddy n = { e with queues := { q with inQ := q.inQ ++ [w] } } ∧ only t ∧ Within [.eddies] s t) ∧
      (∀ x xs, src = true → q.stimQ = x :: xs → Answers (.streamIn n w) s fun t =>
        t.eddy n = { e with queues := { q with inQ := q.inQ ++ [x], stimQ := xs } } ∧ only t ∧ Within [.eddies] s t)) ∧
    (∀ w, 16 ≤ q.inQ.length → Answers (.streamIn n w) s fun t => t = s) ∧
    (∀ x xs, q.outQ = x :: xs →
      (out = false → s.streamConnected n = true → Answers (.streamOut n) s fun t =>
        t.eddy n = { e with queues := { q with outQ := xs } } ∧ t.out = s.out ++ [.streamWord n x] ∧ only t ∧ Within [.eddies, .out] s t) ∧
      (out = true → q.capQ.length < 8 → Answers (.streamOut n) s fun t =>
        t.eddy n = { e with queues := { q with outQ := xs, capQ := q.capQ ++ [x] } } ∧ only t ∧ Within [.eddies] s t))

/-- R142, R150–R152: engine-port transfers. The first transfer that has not begun begins, or ends where its descriptor is bad; a line moves: two stream words
into data memory, data memory onto the output queue, a line received into data memory, or a line into a Millrace write; an ended transfer leaves the list,
its STATUS is written, and any outcome but OK is counted. TRANSFER_BEGIN, TRANSFER_LINE, TRANSFER_COMPLETE. -/
def Obligations.TransfersRun : Prop :=
  ∀ (s : State) (n i : Nat) (x : Xfer) (pre post : List Xfer), s.clocked = true → n < 512 →
    let e := s.eddy n
    e.xfers = pre ++ x :: post → pre.length = i →
    let only := fun (t : State) => ∀ m, m ≠ n → t.eddy m = s.eddy m
    let moved := fun (y : Xfer) (t : State) => (t.eddy n).xfers = pre ++ y :: post
    (x.begun = false → pre.all (fun y => y.begun) = true → Answers (.transferBegin n) s fun t =>
      moved { x with begun := true, status := if x.descBad then .dmemUncorr else if x.badDesc then .badDesc else .pending } t ∧
      t.eddy n = { e with xfers := (t.eddy n).xfers } ∧ only t ∧ Within [.eddies] s t) ∧
    (x.begun = true → e.lockedBy = none →
      (∀ a b q, x.op = 2 → x.status = .pending → x.moved < x.lines → e.streamBehind i 2 = false → e.queues.inQ = a :: b :: q →
        Answers (.transferLine n i []) s fun t =>
        moved { x with moved := x.moved + 1 } t ∧ (t.eddy n).queues = { e.queues with inQ := q } ∧
        (t.eddy n).data = writeData e.data ((x.loc + 64 * x.moved) / 4) (wordsOf 16 (a.toNat + b.toNat * 2 ^ 256)) ∧ only t ∧ Within [.eddies] s t) ∧
      (x.op = 3 → x.status = .pending → x.moved < x.lines → e.streamBehind i 3 = false → e.queues.outQ.length ≤ 14 →
        Answers (.transferLine n i []) s fun t =>
        let v := readData e.data ((x.loc + 64 * x.moved) / 4) 16 % 2 ^ 512
        moved { x with moved := x.moved + 1 } t ∧
        (t.eddy n).queues = { e.queues with outQ := e.queues.outQ ++ [BitVec.ofNat 256 v, BitVec.ofNat 256 (v / 2 ^ 256)] } ∧
        (t.eddy n).data = e.data ∧ only t ∧ Within [.regs, .agg, .eddies] s t) ∧
      (∀ k v rest, x.op = 0 → x.got = (k, v, false) :: rest → Answers (.transferLine n i []) s fun t =>
        moved { x with got := rest, moved := x.moved + 1 } t ∧ (t.eddy n).data = writeData e.data ((x.loc + 64 * k) / 4) (wordsOf 16 v) ∧
        (t.eddy n).queues = e.queues ∧ only t ∧ Within [.eddies] s t) ∧
      (x.op = 1 → x.status = .pending → x.sent < x.lines → s.qLevel ((s.ep (0xC0 + n / 4)).reqIn) < 31 → Answers (.transferLine n i []) s fun t =>
        let p := t.pkt s.mil.next
        moved { x with sent := x.sent + 1 } t ∧ (t.ep (0xC0 + n / 4)).reqIn = (s.ep (0xC0 + n / 4)).reqIn ++ [s.mil.next] ∧
        hget p.hdr hTYPE = tWR ∧ hget p.hdr hDST = x.word 2 % 1024 ∧ p.flits = [(e.lineAt (x.loc + 64 * x.sent), false)] ∧
        p.origin = .engine n x.desc x.sent 1 ∧ (t.eddy n).data = e.data ∧ only t ∧ Evolves s t)) ∧
    (x.ended = true → e.lockedBy = none → (x.op = 2 ∨ x.op = 3 → e.streamBehind i x.op = false) → Answers (.transferComplete n i []) s fun t =>
      let st := if x.status = .pending then XStatus.ok else x.status
      (t.eddy n).xfers = pre ++ post ∧ (t.eddy n).data = smSet 0 e.data ((x.desc + 0x18) / 4) (BitVec.ofNat 32 (st.code + x.moved * 2 ^ 16)) ∧
      (t.eddy n).queues = e.queues ∧ (st = .ok → s.wordsBut t []) ∧
      (st ≠ .ok → t.fget (rXPORT_ERR n) fXPORT_ERR_COUNT = satInc 16 (s.fget (rXPORT_ERR n) fXPORT_ERR_COUNT) ∧
        t.bit (rIRQ_RAW (PageKind.eddy.addr n)) 3 = true) ∧ only t ∧ Within [.regs, .agg, .eddies] s t)

/-! ### Millrace -/

/-- R160, R162, R176, R183, R184, R489: the ingress of an endpoint takes a request. It is stamped: SRC is the endpoint, and DEV, STALL and KEY are those of
the endpoint's word. Where a check of R489 fails, it never enters the mesh and completes at once with that status, recorded in EP_ERR_LAST. Otherwise the
tracker holds it under its TAG, and it enters the mesh at the endpoint's router once enough of it is in the queue. A header offered by a tenant design goes
the same way; flits of a packet already in the mesh follow it, and flits of a refused one are discarded. Nothing is taken from a port that is not connected.
PACKET_INGRESS. -/
def Obligations.IngressStampsAndChecks : Prop :=
  ∀ (s : State) (e : Nat), s.clocked = true → e < 0x195 →
    let ready := fun (p : Pkt) => decide (clampCt (s.fget (rEPQ_CTL e) fEPQ_CTL_CT_IN) ≤ p.nflits) || p.eop
    (∀ (i : Nat) (q : List Nat), (s.ep e).reqIn = i :: q → (∀ j ∈ i :: q, j < s.mil.next ∧ (s.pkt j).accepted = false) →
      let p := s.pkt i
      let h := s.stamp e p
      p.origin = .tenant → isRsp p.hdr = false → fEP_CFG_VALID.get (s.idWord e p) = 1 →
      (hget h hSRC = e ∧ hget h hDEV = fEP_CFG_DEV.get (s.idWord e p) ∧ hget h hSTALL = fEP_CFG_STALL.get (s.idWord e p) ∧
        hget h hKEY = fEP_CFG_KEY.get (s.idWord e p) ∧ hget h hDST = hget p.hdr hDST ∧ hget h hTAG = hget p.hdr hTAG ∧ hget h hADDR = hget p.hdr hADDR) ∧
      (∀ st, s.ingressCheck e p h = some st → Answers (.ingress e (.queued 0)) s fun t =>
        t.pkt i = Pkt.none ∧ (t.ep e).reqIn = q.filter (fun j => j ≠ i) ∧
        (t.ep e).rspOut = (s.ep e).rspOut.filter (fun j => j ≠ i) ++ [s.mil.next] ∧
        hget (t.pkt s.mil.next).hdr hSTATUS = st ∧ hget (t.pkt s.mil.next).hdr hTAG = hget p.hdr hTAG ∧ hget (t.pkt s.mil.next).hdr hDST = e ∧
        hget (t.pkt s.mil.next).hdr hTYPE = rspTypeOf (hget p.hdr hTYPE) ∧ (t.pkt s.mil.next).flits = [] ∧
        t.rd32 (rEP_ERR_LAST e) = 2 ^ 31 + st * 2 ^ 27 + hget p.hdr hDST * 2 ^ 17 + hget p.hdr hTAG * 2 ^ 7 ∧
        t.bit (rIRQ_RAW (PageKind.milEp.addr e)) 0 = true ∧ (∀ a b, t.trackAt a b = s.trackAt a b) ∧ (∀ m, m ≠ e → t.ep m = s.ep m) ∧
        s.wordsBut t [rEP_ERR_CNT e, rEP_ERR_LAST e, rIRQ_RAW (PageKind.milEp.addr e)] ∧ Within [.regs, .agg, .mil, .fresh] s t) ∧
      (s.ingressCheck e p h = none → Answers (.ingress e (.queued 0)) s fun t =>
        let goes := ready p && (s.ep e).curIn.isNone
        t.trackAt e (hget p.hdr hTAG) = some ⟨h, false, .tenant⟩ ∧
        t.pkt i = { p with hdr := h, accepted := true, place := if goes then .router (epRouter e) (4 + epLocal e) else p.place } ∧
        t.ep e = (if goes then { s.ep e with reqIn := q, curIn := if p.eop then none else some i } else s.ep e) ∧
        (∀ m, m ≠ e → t.ep m = s.ep m) ∧ (∀ j, j ≠ i → t.pkt j = s.pkt j) ∧ Within [.mil, .tally] s t)) ∧
    (∀ hdr flits eop, isFabricPort e = true → s.portConnected e = true → (s.ep e).skipIn = 0 → s.openIn e = none → (s.ep e).reqIn = [] → isRsp hdr = false →
      let p := { mkPkt hdr flits .inQ false .tenant with eop := eop }
      s.ingressCheck e p (s.stamp e p) = none → Answers (.ingress e (.header hdr flits eop)) s fun t =>
        t.trackAt e (hget hdr hTAG) = some ⟨s.stamp e p, false, .tenant⟩ ∧ (t.pkt s.mil.next).hdr = s.stamp e p ∧ (t.pkt s.mil.next).flits = flits ∧
        (t.pkt s.mil.next).eop = eop ∧ (ready p = true → (t.pkt s.mil.next).place = .router (epRouter e) (4 + epLocal e) ∧ (t.ep e).reqIn = []) ∧
        (ready p = false → (t.pkt s.mil.next).place = .inQ ∧ (t.ep e).reqIn = [s.mil.next]) ∧ (∀ j, j ≠ s.mil.next → t.pkt j = s.pkt j) ∧
        Within [.mil, .tally] s t) ∧
    (∀ hdr flits eop, s.portConnected e = false → Answers (.ingress e (.header hdr flits eop)) s fun t => t = s) ∧
    (∀ flits eop, (s.ep e).skipIn ≠ 0 → Answers (.ingress e (.more flits eop)) s fun t =>
      t.ep e = { s.ep e with skipIn := b2n (!eop) } ∧ (∀ m, m ≠ e → t.ep m = s.ep m) ∧ (∀ j, t.pkt j = s.pkt j) ∧ Within [.mil] s t) ∧
    (∀ i flits eop, (s.ep e).skipIn = 0 → (s.ep e).curIn = some i → Answers (.ingress e (.more flits eop)) s fun t =>
      t.pkt i = { s.pkt i with flits := (s.pkt i).flits ++ flits, eop := eop } ∧ t.ep e = { s.ep e with curIn := if eop then none else some i } ∧
      (∀ m, m ≠ e → t.ep m = s.ep m) ∧ (∀ j, j ≠ i → t.pkt j = s.pkt j) ∧ Within [.mil, .tally] s t)

/-- R165–R167, R175, R176, R182, R186, R188: a packet in the mesh. A packet alone in asking for the output that R166 or R167 gives it moves to the router
that way and holds its virtual channel; one at its destination router waits; one whose header has a double-bit error is lost, and counted. At its
destination, a packet that is not refused joins its OUT queue where there is room, and a refused request is answered with its status. The endpoint takes
the flits of the packet presented, in order; after the tail the packet is gone. ROUTER_HEADER, PACKET_EGRESS. -/
def Obligations.PacketsMove : Prop :=
  ∀ (s : State) (i : Nat), s.clocked = true →
    let p := s.pkt i
    let others := fun (t : State) => ∀ j, j ≠ i → t.pkt j = s.pkt j
    (p.atRouter = none → Answers (.routerHeader i []) s fun t => t = s) ∧
    (∀ rt, p.atRouter = some rt →
      (s.route rt p.hdr = none → Answers (.routerHeader i []) s fun t => t = s) ∧
      (∀ d ch rt', s.route rt p.hdr = some (d, ch) → neighbour rt d = some rt' → s.contenders rt d ch = [i] → Answers (.routerHeader i []) s fun t =>
        t.pkt i = { p with place := .router rt' (oppDir d), holds := some (vcKey rt d ch (vcOf p.hdr)) } ∧ others t ∧ (∀ m, t.ep m = s.ep m) ∧
        (∀ a b, t.trackAt a b = s.trackAt a b) ∧ Within [.mil] s t) ∧
      (rt < 192 → Answers (.routerHeader i [(0, true)]) s fun t =>
        t.pkt i = Pkt.none ∧ others t ∧ t.fget (rRTR_ECC rt) fRTR_ECC_UNCORR = satInc fRTR_ECC_UNCORR.width (s.fget (rRTR_ECC rt) fRTR_ECC_UNCORR) ∧
        t.bit (rIRQ_RAW (PageKind.milRtr.addr rt)) 0 = true ∧ Within [.regs, .agg, .mil] s t)) ∧
    (∀ e, e < 0x195 → p.atRouter = some (epRouter e) → hget p.hdr hDST = e → s.behindFlow i = false → p.trunc = false → (s.ep e).unreach = 0 →
      (isRsp p.hdr = true ∨ s.egressRefusal e p.hdr = none) → s.qLevel ((s.ep e).outQ (isRsp p.hdr)) < 32 → (s.ep e).drain = false → s.portFrozen e = false →
      Answers (.egress e (.arrive i)) s fun t =>
        t.pkt i = { p with place := .outQ, holds := none, accepted := false, origin := .tenant } ∧ others t ∧
        t.ep e = (s.ep e).setOut (isRsp p.hdr) ((s.ep e).outQ (isRsp p.hdr) ++ [i]) ∧ (∀ m, m ≠ e → t.ep m = s.ep m) ∧ Within [.mil] s t) ∧
    (∀ e st, e < 0x195 → i < s.mil.next → p.atRouter = some (epRouter e) → hget p.hdr hDST = e → s.behindFlow i = false → p.trunc = false →
      (s.ep e).unreach = 0 → isRsp p.hdr = false → s.egressRefusal e p.hdr = some st → (∀ m, (s.ep m).curIn ≠ some i) → Answers (.egress e (.arrive i)) s fun t =>
        t.pkt i = Pkt.none ∧ hget (t.pkt s.mil.next).hdr hSTATUS = st ∧ hget (t.pkt s.mil.next).hdr hTAG = hget p.hdr hTAG ∧
        hget (t.pkt s.mil.next).hdr hDST = hget p.hdr hSRC ∧ t.ep e = { s.ep e with rspIn := (s.ep e).rspIn ++ [s.mil.next] } ∧
        (∀ m, m ≠ e → t.ep m = s.ep m) ∧ Within [.mil, .fresh] s t) ∧
    (∀ e ready n, isFabricPort e = true → s.portConnected e = true → s.presented e ready = some i → 1 ≤ n → p.taken < p.nflits →
      Answers (.egress e (.present ready n)) s fun t =>
        let k := min n (p.nflits - p.taken)
        t.out = s.out ++ [.localFlits e p.hdr ((((p.hdr, false) :: p.flits).drop p.taken).take k) false] ∧
        (p.taken + k = p.nflits ∧ p.eop = true → t.pkt i = Pkt.none) ∧
        (¬ (p.taken + k = p.nflits ∧ p.eop = true) → t.pkt i = { p with taken := p.taken + k } ∧ t.ep e = { s.ep e with curOut := some i }) ∧
        others t ∧ (∀ m, m ≠ e → t.ep m = s.ep m) ∧ Within [.mil, .out] s t)

/-- R164, R196–R200, R206, R211: requests at their responders. A memory port answers a request that fails a check with its status and touches no line; an RD
of sound lines returns their data with STATUS OK, and leaves them; a WR with every byte enabled stores its lines, under the slot that serves them where the
region is encrypted; a WR of one line under other byte enables merges its bytes. A register agent performs the access that a REG packet asks for and answers
it, with the value read. RD, WR, REG_RD, REG_WR. -/
def Obligations.RequestsAreServed : Prop :=
  ∀ (s : State) (e i : Nat), s.clocked = true → e < 0x195 → i < s.mil.next → s.stoppedEp e = false → s.memTesting e i = false →
    let p := s.pkt i
    let h := p.hdr
    let answered := fun (u t : State) (st : Nat) => t.pkt i = Pkt.none ∧ hget (t.pkt u.mil.next).hdr hSTATUS = st ∧
      hget (t.pkt u.mil.next).hdr hTAG = hget h hTAG ∧ hget (t.pkt u.mil.next).hdr hDST = hget h hSRC ∧
      hget (t.pkt u.mil.next).hdr hTYPE = rspTypeOf (hget h hTYPE) ∧ (t.ep e).rspIn = (u.ep e).rspIn.filter (fun j => j ≠ i) ++ [u.mil.next]
    (∀ port env, memPortOf e (hget h hADDR) = some port → s.memBehind e i = false →
      let n := hget h hLINES
      let rg := reqRgn h
      let at_ := fun k => s.lineKey port rg (reqLine h + k)
      let sound := fun k => (s.line (at_ k)).poison = false ∧ s.keyMatches port rg (reqLine h + k) = true
      (∀ st, s.memCheck port h = some st →
        (s.reqAt e i tRD = true → Answers (.rd e i [] env) s fun t => answered s t st ∧ t.mem = s.mem ∧ Within [.mil, .fresh] s t) ∧
        (s.reqAt e i tWR = true → Answers (.wr e i [] env) s fun t => answered s t st ∧ t.mem = s.mem ∧ Within [.mil, .fresh] s t)) ∧
      (s.memCheck port h = none → s.memUp port = true →
        (s.reqAt e i tRD = true → (∀ k, k < n → sound k) → Answers (.rd e i [] env) s fun t =>
          answered s t stOK ∧ hget (t.pkt s.mil.next).hdr hLINES = n ∧ hget (t.pkt s.mil.next).hdr hEXT = 0 ∧
          (t.pkt s.mil.next).flits = (List.range n).map (fun k => ((s.line (at_ k)).plain, false)) ∧ t.mem = s.mem ∧ Within [.mil, .fresh, .tally] s t) ∧
        (s.reqAt e i tWR = true → s.writeHeld port h = false → p.flits.length = n → p.flits.all (fun f => !f.2) = true →
          (hget h hBE = 2 ^ 64 - 1 → s.rgnCrypt port rg = false → Answers (.wr e i [] env) s fun t =>
            answered s t stOK ∧ (∀ k, k < n → t.line (at_ k) = ⟨(p.flits.getD k (0, false)).1, 0, false⟩) ∧
            (∀ a, (∀ k, k < n → a ≠ at_ k) → t.line a = s.line a) ∧ Within [.mil, .fresh, .tally, .mem] s t) ∧
          (∀ d, p.flits = [(d, false)] → hget h hBE ≠ 0 → (hget h hBE = 2 ^ 64 - 1 ∨ sound 0) → Answers (.wr e i [] env) s fun t =>
            answered s t stOK ∧
            t.line (at_ 0) = ⟨if hget h hBE = 2 ^ 64 - 1 then d else mergeBytes (hget h hBE) (s.line (at_ 0)).plain d,
              if s.rgnCrypt port rg then (s.slot (s.slotFor port rg (reqLine h))).kid else 0, false⟩ ∧
            (∀ a, a ≠ at_ 0 → t.line a = s.line a) ∧ Within [.regs, .agg, .tol, .mil, .fresh, .tally, .mem] s t)))) ∧
    (∀ off size req u, beRange (hget h hBE % 2 ^ 8) = some (off, size) → State.regRequester h = some req → agentOf (hget h hADDR + off) = e →
      let a := hget h hADDR + off
      (s.reqAt e i tREG_RD = true →
        let x := s.regAccess req a size none u
        x.2.1 ≠ .unreachable → x.1.pkt i = p → i < x.1.mil.next → Answers (.regRd e i u) s fun t =>
        answered x.1 t stOK ∧ hget (t.pkt x.1.mil.next).hdr ⟨256, 64⟩ = regLanes off size x.2.2 % 2 ^ 64 ∧ Within [.mil, .fresh] x.1 t) ∧
      (s.reqAt e i tREG_WR = true →
        let x := s.regAccess req a size (some (hget h hEXT % 2 ^ 64 / 2 ^ (8 * off) % 2 ^ (8 * size))) u
        x.2.1 ≠ .unreachable → x.1.pkt i = p → i < x.1.mil.next → Answers (.regWr e i u) s fun t => answered x.1 t stOK ∧ Within [.mil, .fresh] x.1 t)) ∧
    (∀ env, e = epTolmor → s.reqAt e i tMSG = true → bridgeMsg e h = none → Answers (.msg e i [] env) s fun t =>
      answered s t (if hget h hDEV = 0 then stREFUSED_OWNER else stBAD_ADDR) ∧ Within [.mil, .fresh] s t)

/-- R183–R185, R189, R191: completions. A response that answers an outstanding request, of the endpoint that the request went to, is accepted, and frees
the tag; a response to nothing is discarded, and counted in LATE; an outstanding request completes with TIMEOUT, or with UNREACHABLE where a sweep finds
its destination unreachable. RD_RSP, WR_RSP, MSG_RSP, REG_RSP, TIMEOUT, UNREACH_TRACKER_SWEEP. -/
def Obligations.RequestsComplete : Prop :=
  ∀ (s : State) (e : Nat), s.clocked = true → e < 0x195 →
    (∀ (c : Instr) (ty i : Nat) (q : List Nat),
      (c, ty) ∈ [(Instr.rdRsp e, tRD_RSP), (Instr.wrRsp e, tWR_RSP), (Instr.msgRsp e, tMSG_RSP), (Instr.regRsp e, tREG_RSP)] →
      (s.ep e).rspOut = i :: q → (s.pkt i).accepted = false → hget (s.pkt i).hdr hTYPE = ty →
      let p := s.pkt i
      let tag := hget p.hdr hTAG
      (∀ k, s.trackAt e tag = some k → k.fenced = false → k.origin = .tenant → hget p.hdr hSRC = hget k.hdr hDST → Answers c s fun t =>
        t.pkt i = { p with accepted := true, origin := .tenant } ∧ t.trackAt e tag = none ∧ (∀ m, t.ep m = s.ep m) ∧ (∀ j, j ≠ i → t.pkt j = s.pkt j) ∧
        (hget p.hdr hSTATUS = stOK → s.wordsBut t []) ∧
        (hget p.hdr hSTATUS ≠ stOK → t.rd32 (rEP_ERR_LAST e) = 2 ^ 31 + hget p.hdr hSTATUS * 2 ^ 27 + hget k.hdr hDST * 2 ^ 17 + tag * 2 ^ 7 ∧
          t.bit (rIRQ_RAW (PageKind.milEp.addr e)) 0 = true) ∧ Within [.regs, .agg, .mil] s t) ∧
      (s.trackAt e tag = none → Answers c s fun t =>
        t.pkt i = Pkt.none ∧ (t.ep e).rspOut = q.filter (fun j => j ≠ i) ∧
        t.fget (rEP_ERR_CNT e) fEP_ERR_CNT_LATE = satInc 8 (s.fget (rEP_ERR_CNT e) fEP_ERR_CNT_LATE) ∧ s.wordsBut t [rEP_ERR_CNT e] ∧
        (∀ m, m ≠ e → t.ep m = s.ep m) ∧ Within [.regs, .agg, .mil] s t)) ∧
    (∀ tag, tag < 1024 →
      (s.trackAt e tag = none → Answers (.timeout e tag) s fun t => t = s) ∧
      (∀ k, s.trackAt e tag = some k → k.fenced = false → Answers (.timeout e tag) s fun t =>
        t.trackAt e tag = none ∧ (t.ep e).rspOut = (s.ep e).rspOut ++ [s.mil.next] ∧ hget (t.pkt s.mil.next).hdr hSTATUS = stTIMEOUT ∧
        hget (t.pkt s.mil.next).hdr hTAG = hget k.hdr hTAG ∧ (t.pkt s.mil.next).origin = k.origin ∧ t.bit (rIRQ_RAW (PageKind.milEp.addr e)) 0 = true ∧
        (∀ j, j ≠ s.mil.next → t.pkt j = s.pkt j) ∧ (∀ m, m ≠ e → t.ep m = s.ep m) ∧ Within [.regs, .agg, .mil, .fresh] s t)) ∧
    (Answers (.sweep e) s fun t => (∀ x ∈ s.tracksTo e, t.trackAt x.1 x.2 = none) ∧ (∀ a b, s.trackAt a b = none → t.trackAt a b = none) ∧
      (s.unreachable e = false → t = s) ∧ Within [.regs, .agg, .mil, .fresh] s t)

/-- R177–R182: what ends packets short. A gap after the flits of a request in the mesh, or DROP_REST_IN, ends it there with a TRUNC tail, completes it at the
requester with DROPPED, and discards the flits still offered; TX_ABORT does the same without that. A flush with a current packet waits; with none it empties
the side's queues and raises IRQ_RAW[2], and on the OUT side it leaves DRAIN. DROP_REST_OUT ends the packet that the endpoint is taking with RX_ABORT. A full
OUT queue whose endpoint takes nothing puts the side in DRAIN with IRQ_RAW[1], until it is connected again. INGRESS_FLIT_GAP, FLUSH_IN, FLUSH_OUT,
FLUSH_TAKES_EFFECT, DROP_REST_IN, DROP_REST_OUT, TX_ABORT, DRAIN, DRAIN_END. -/
def Obligations.PacketsAreCutShort : Prop :=
  ∀ (s : State) (req : Req) (e : Nat), s.clocked = true → req.valid = true → e < 0x195 →
    let x := s.ep e
    let mine := rIRQ_RAW (PageKind.milEp.addr e)
    let cut := fun (i : Nat) (k : Track) (skip : Nat) (t : State) =>
      t.pkt i = { s.pkt i with eop := true, trunc := true } ∧ t.trackAt e (hget (s.pkt i).hdr hTAG) = none ∧
      t.ep e = { x with curIn := none, skipIn := skip, rspOut := x.rspOut ++ [s.mil.next] } ∧ hget (t.pkt s.mil.next).hdr hSTATUS = stDROPPED ∧
      hget (t.pkt s.mil.next).hdr hTAG = hget k.hdr hTAG ∧ (∀ j, j ≠ i → j ≠ s.mil.next → t.pkt j = s.pkt j) ∧ (∀ m, m ≠ e → t.ep m = s.ep m) ∧
      Within [.regs, .views, .agg, .mil, .fresh] s t
    (∀ i k r n, x.curIn = some i → i < s.mil.next → (s.pkt i).place = .router r n → isRsp (s.pkt i).hdr = false →
      s.trackAt e (hget (s.pkt i).hdr hTAG) = some k →
      (Answers (.flitGap e) s fun t => cut i k 1 t ∧ t.bit mine 3 = true) ∧ (Answers (.txAbort e) s fun t => cut i k 0 t) ∧
      (s.takes req .milEp e 0x040 = true → Answers (.dropRestIn req e) s fun t => cut i k 1 t)) ∧
    (x.curIn = none → (Answers (.flitGap e) s fun t => t = s) ∧ (s.openIn e = none → Answers (.txAbort e) s fun t => t = s) ∧
      (x.flushIn = true → x.reqIn = [] → x.rspIn = [] → Answers (.flushEffect e false) s fun t =>
        t.ep e = { x with flushIn := false } ∧ t.bit mine 2 = true ∧ (∀ m, m ≠ e → t.ep m = s.ep m) ∧ (∀ j, t.pkt j = s.pkt j) ∧
        s.wordsBut t [mine] ∧ Within [.regs, .agg, .mil] s t)) ∧
    (x.curOut = none → x.flushOut = true → x.reqOut = [] → x.rspOut = [] → Answers (.flushEffect e true) s fun t =>
      t.ep e = { x with flushOut := false } ∧ t.bit mine 2 = true ∧ (∀ m, m ≠ e → t.ep m = s.ep m) ∧ s.wordsBut t [mine] ∧ Within [.regs, .agg, .mil] s t) ∧
    (s.takes req .milEp e 0x040 = true →
      (∀ i, x.curIn = some i → Answers (.flushIn req e) s fun t =>
        t.ep e = { x with flushIn := true } ∧ (∀ m, m ≠ e → t.ep m = s.ep m) ∧ (∀ j, t.pkt j = s.pkt j) ∧ Within [.regs, .views, .agg, .mil] s t) ∧
      (∀ i, x.curOut = some i → Answers (.flushOut req e) s fun t =>
        t.ep e = { x with flushOut := true, drain := false } ∧ (∀ m, m ≠ e → t.ep m = s.ep m) ∧ (∀ j, t.pkt j = s.pkt j) ∧
        Within [.regs, .views, .agg, .mil] s t) ∧
      (x.curIn = none → x.reqIn = [] → x.rspIn = [] → Answers (.flushIn req e) s fun t =>
        t.ep e = { x with flushIn := false } ∧ t.bit mine 2 = true ∧ Within [.regs, .views, .agg, .mil] s t) ∧
      (x.curOut = none → x.reqOut = [] → x.rspOut = [] → Answers (.flushOut req e) s fun t =>
        t.ep e = { x with flushOut := false, drain := false } ∧ t.bit mine 2 = true ∧ Within [.regs, .views, .agg, .mil] s t) ∧
      (x.curOut = none → Answers (.dropRestOut req e) s fun t => t.mil = s.mil ∧ Within [.regs, .views, .agg] s t) ∧
      (∀ i, x.curOut = some i → (s.pkt i).trunc = true → Answers (.dropRestOut req e) s fun t =>
        (∃ d, t.out = s.out ++ [.localFlits e (s.pkt i).hdr [(d, false)] true]) ∧ t.pkt i = Pkt.none ∧ (t.ep e).curOut = none ∧
        (∀ j, j ≠ i → t.pkt j = s.pkt j) ∧ Within [.regs, .views, .agg, .mil, .fresh, .out] s t)) ∧
    (∀ rsp, s.stoppedEp e = false → x.drain = false → 32 ≤ s.qLevel (x.outQ rsp) → Answers (.drain e rsp) s fun t =>
      (t.ep e).drain = true ∧ t.bit mine 1 = true ∧ Within [.regs, .agg, .mil, .fresh, .out] s t) ∧
    (∀ rsp, x.drain = true → Answers (.drain e rsp) s fun t => t = s) ∧
    (x.drain = true → (isFabricPort e = false ∨ s.portConnected e = true) → Answers (.drainEnd e) s fun t =>
      t.ep e = { x with drain := false } ∧ (∀ m, m ≠ e → t.ep m = s.ep m) ∧ Within [.mil] s t)

/-! ### Memory and the Sluice -/

/-- R205, R217, R218, R220, R223, R230: region commands. CREATE, where it is allowed, enters INIT and queues the region for zeroing; DESTROY enters FREE at
once and takes the region out of the zeroing and the walk; REKEY, where it is allowed, enters WALK at watermark 0 and queues it for the walker; FINISH in
SETTLE makes KEY_NEXT the key and enters READY. Each counts the references of the slots it takes up and gives back, and leaves every stored line, every key
and every other region; one that is not allowed is refused. CREATE, DESTROY, REKEY, FINISH. -/
def Obligations.RegionCommands : Prop :=
  ∀ (s : State) (req : Req) (port i : Nat), s.clocked = true → req.valid = true → port < 66 → i < 32 →
    (if port < 64 then s.takes req .hbmp port (0x114 + 0x20 * i) else s.takes req .memCxl (port - 64) (0x114 + 0x20 * i)) = true →
    let w := s.portWork port
    let kc := s.keyCur port i
    let kn := s.keyNext port i
    let refs := fun (t : State) (k : Nat) => t.fget (rSLUICE_SLOT 0 k) fSLUICE_SLOT_RGN_REFS
    let kept := fun (t : State) => t.mem.lines = s.mem.lines ∧ t.mem.slots = s.mem.slots ∧ (∀ p, p ≠ port → t.portWork p = s.portWork p) ∧
      s.wordsBut t [rRGN_CFG port i, rRGN_WM port i, rRGN_KEY port i, rHBMP_STAT port, rSLUICE_SLOT 0 kc, rSLUICE_SLOT 0 kn] ∧
      Within [.regs, .views, .agg, .mem] s t
    let refused := fun (t : State) => t.mem = s.mem ∧ t.bit (rIRQ_RAW (PageKind.hbmp.addr port)) 31 = true ∧ t.word (rRGN_CFG port i) = s.word (rRGN_CFG port i) ∧
      Within [.regs, .views, .agg] s t
    (s.canCreate port i = true → Answers (.create req port i) s fun t =>
      t.rgnState port i = 1 ∧ t.rgnWm port i = 0 ∧ t.portWork port = { w with zeroQ := w.zeroQ ++ [i] } ∧ refs t kc = (refs s kc + 1) % 2 ^ 12 ∧ kept t) ∧
    (s.canCreate port i = false → Answers (.create req port i) s refused) ∧
    (s.rgnState port i = 0 → Answers (.destroy req port i) s fun t => t.mem = s.mem ∧ s.wordsBut t [] ∧ Within [.views] s t) ∧
    (s.rgnState port i ≠ 0 → Answers (.destroy req port i) s fun t =>
      t.rgnState port i = 0 ∧ t.rgnWm port i = 0 ∧
      t.portWork port = { w with zeroQ := w.zeroQ.filter (fun j => j ≠ i), walkQ := w.walkQ.filter (fun j => j ≠ i),
                                 held := if w.walkQ.head? = some i then none else w.held } ∧
      (kc ≠ kn → refs t kc = (refs s kc - 1) % 2 ^ 12 ∧ refs t kn = (if s.rgnState port i = 3 ∨ s.rgnState port i = 4 then (refs s kn - 1) % 2 ^ 12 else refs s kn)) ∧
      kept t) ∧
    (s.canRekey port i = true → Answers (.rekey req port i) s fun t =>
      t.rgnState port i = 3 ∧ t.rgnWm port i = 0 ∧ t.portWork port = { w with walkQ := w.walkQ ++ [i] } ∧ refs t kn = (refs s kn + 1) % 2 ^ 12 ∧ kept t) ∧
    (s.canRekey port i = false → Answers (.rekey req port i) s refused) ∧
    (s.rgnState port i = 4 → Answers (.finish req port i) s fun t =>
      t.rgnState port i = 2 ∧ t.rgnWm port i = 0 ∧ t.keyCur port i = kn ∧ t.portWork port = w ∧ refs t kc = (refs s kc - 1) % 2 ^ 12 ∧ kept t) ∧
    (s.rgnState port i ≠ 4 → Answers (.finish req port i) s refused)

/-- R206, R216, R218–R220, R222: zeroing and the walk. When zeroing ends, every line of the region reads 0, the region is READY, IRQ_RAW[2] sets and the next
one begins. The walker takes sector WM of the first region queued, and writes it back under KEY_NEXT: WM rises by one, no line's data changes, and after the
last sector the region is in SETTLE and IRQ_RAW[1] sets. Nothing moves while the memory cannot be reached. ZEROING_END, WALK_SECTOR_TAKE,
WALK_SECTOR_DONE. -/
def Obligations.RegionsAreZeroedAndWalked : Prop :=
  ∀ (s : State) (port : Nat), s.clocked = true → port < 66 →
    let w := s.portWork port
    let mine := rIRQ_RAW (PageKind.hbmp.addr port)
    (s.memUp port = false → (Answers (.zeroingEnd port) s fun t => t = s) ∧ (Answers (.walkTake port []) s fun t => t = s) ∧
      (Answers (.walkDone port) s fun t => t = s)) ∧
    (∀ i q, i < 32 → s.memUp port = true → w.zeroQ = i :: q → Answers (.zeroingEnd port) s fun t =>
      t.rgnState port i = 2 ∧ t.portWork port = { w with zeroQ := q } ∧ t.bit mine 2 = true ∧
      (∀ l, l < 32768 * s.rgnSize port i → t.line (s.lineKey port i l) = HLine.zero) ∧
      (∀ a, a < s.lineKey port i 0 ∨ s.lineKey port i (32768 * s.rgnSize port i) ≤ a → t.line a = s.line a) ∧ t.mem.slots = s.mem.slots ∧
      Within [.regs, .agg, .mem, .tol] s t) ∧
    (∀ i q, i < 32 → s.memUp port = true → w.held = none → w.walkQ = i :: q →
      (∀ k, k < s.sectorLines port i → let l := s.rgnWm port i * s.sectorLines port i + k
        (s.line (s.lineKey port i l)).poison = false ∧ (s.rgnTag port i = true → s.keyMatches port i l = true)) →
      Answers (.walkTake port []) s fun t => t.portWork port = { w with held := some [] } ∧ t.mem.lines = s.mem.lines ∧ t.rgnWm port i = s.rgnWm port i ∧
        s.wordsBut t [rHBMP_STAT port] ∧ Within [.regs, .agg, .mem] s t) ∧
    (∀ i q bad, i < 32 → s.canonical = true → s.memUp port = true → s.rgnCrypt port i = true → w.held = some bad → w.walkQ = i :: q → s.rgnWm port i + 1 < 2 ^ 27 →
      Answers (.walkDone port) s fun t =>
      let wm := s.rgnWm port i
      let last := decide (s.sectorCount port i ≤ wm + 1)
      t.rgnWm port i = wm + 1 ∧ t.rgnState port i = (if last then 4 else s.rgnState port i) ∧
      t.portWork port = { w with held := none, walkQ := if last then q else i :: q } ∧ (last = true → t.bit mine 1 = true) ∧
      (∀ a, (t.line a).plain = (s.line a).plain ∧ (t.line a).poison = (s.line a).poison) ∧
      (∀ l, wm * s.sectorLines port i ≤ l → l < (wm + 1) * s.sectorLines port i → (s.line (s.lineKey port i l)).kid ≠ 0 → (s.line (s.lineKey port i l)).poison = false →
        (t.line (s.lineKey port i l)).kid = (s.slot (s.keyNext port i)).kid) ∧ Within [.regs, .agg, .mem, .tol] s t)

/-- R194, R204, R216, R225, R228: memory errors, links and key slots. An HBM interface error leaves the port untrained and unreachable, with its queues
empty; a CXL link that goes down clears LINK_UP; a RETIRING slot with no references and no user becomes EMPTY with its keys and its wear counter zero, and
IRQ_RAW[1] of SLUICE_CTL sets; a slot in use stays; a wear warning compared with a new WARN marks the loaded slots that have reached it.
HBM_INTERFACE_ERROR, CXL_LINK_DOWN, SLOT_ZEROISE, SLUICE_WEAR_WARN_WRITE. -/
def Obligations.MemoryEvents : Prop :=
  ∀ (s : State), s.clocked = true →
    (∀ port, port < 64 → (s.ep (0x140 + port)).curIn = none → Answers (.hbmError port) s fun t =>
      let x := s.ep (0x140 + port)
      t.flag (rHBMP_STAT port) fHBMP_STAT_TRAINED = false ∧ t.flag (rHBMP_STAT port) fHBMP_STAT_UNREACH = true ∧ t.unreachable (0x140 + port) = true ∧
      t.ep (0x140 + port) = { x with reqIn := [], rspIn := [], reqOut := [], rspOut := [], curOut := none, unreach := (t.ep (0x140 + port)).unreach } ∧
      (∀ m, m ≠ 0x140 + port → t.ep m = s.ep m) ∧ s.wordsBut t [rHBMP_STAT port] ∧ Within [.regs, .agg, .mil] s t) ∧
    (∀ n, n < 2 → Answers (.cxlLinkDown n) s fun t =>
      t.flag (rPCIE_STAT n) fPCIE_STAT_LINK_UP = false ∧ t.cxlUp n = false ∧ t.mem.lines = s.mem.lines ∧ (t.portWork (64 + n)).downLogged = false ∧
      s.wordsBut t [rPCIE_STAT n, rHBMP_STAT (64 + n)] ∧ Within [.regs, .agg, .mem] s t) ∧
    (∀ k frames, k < 128 →
      (k ≠ 0 → s.slotState k = 2 → s.fget (rSLUICE_SLOT 0 k) fSLUICE_SLOT_RGN_REFS = 0 → s.fget (rSLUICE_SLOT 0 k) fSLUICE_SLOT_LINK_REFS = 0 → s.slotBusy k = false →
        Answers (.slotZeroise k false) s fun t =>
        t.slotState k = 0 ∧ t.slot k = KeySlot.empty ∧ (∀ j, j ≠ k → t.slot j = s.slot j) ∧ t.rd32 (rSLUICE_WEAR 0 k) = 0 ∧ t.rd32 (rSLUICE_WEAR 0 k + 4) = 0 ∧
        t.bit (rIRQ_RAW (PageKind.sluiceCtl.addr 0)) 1 = true ∧ t.mem.lines = s.mem.lines ∧
        s.wordsBut t [rSLUICE_WEAR 0 k, rSLUICE_WEAR 0 k + 4, rSLUICE_SLOT 0 k, rIRQ_RAW (PageKind.sluiceCtl.addr 0)] ∧ Within [.regs, .agg, .mem, .tol] s t) ∧
      (k = 0 ∨ s.slotState k ≠ 2 ∨ s.fget (rSLUICE_SLOT 0 k) fSLUICE_SLOT_RGN_REFS ≠ 0 ∨ s.fget (rSLUICE_SLOT 0 k) fSLUICE_SLOT_LINK_REFS ≠ 0 ∨ s.slotBusy k = true ∨
        frames = true → Answers (.slotZeroise k frames) s fun t => t = s)) ∧
    (∀ req v, req.valid = true → v < 2 ^ 32 → s.takes req .sluiceCtl 0 0x040 = true → Answers (.wearWarn req v) s fun t =>
      t.fget (rSLUICE_WEAR_WARN 0) fSLUICE_WEAR_WARN_WARN = v ∧
      (∀ k, k < 128 → s.slotState k ≠ 0 → v ≠ 0 → v * 2 ^ 20 ≤ s.fget (rSLUICE_WEAR 0 k) fSLUICE_WEAR_LINES → t.flag (rSLUICE_SLOT 0 k) fSLUICE_SLOT_WORN = true) ∧
      (v = 0 → s.wordsBut t [rSLUICE_WEAR_WARN 0]) ∧ t.mem = s.mem ∧ Within [.regs, .views, .agg, .tol] s t)

/-! ### Stalls: swaps and loads -/

/-- R247–R250, Table STL-8: the steps of a swap, each taken once. A spine clock forced off before the exchange sets SAVE_SUSPECT. The exchange puts the
flip-flops of every shed of the stall into the save area of its outgoing plane and restores the incoming one's where it has any and the swap is not FRESH,
and zeroes them otherwise. Zeroing clears the block memories and FIFO flags of the stall's sheds and the data memories of its engines. The mesh is quiet
once it holds no packet of the stall between its own ports. Nothing of another stall changes. SPINE_CLOCK_FORCE_OFF, FLIP_FLOP_EXCHANGE, SWAP_ZEROING,
MESH_QUIET. -/
def Obligations.SwapSteps : Prop :=
  ∀ (s : State) (n : Nat) (w : SwapRun), s.clocked = true → n < 32 → (s.stall n).swap = some w →
    let mine := fun (sh : Nat) => (s.shedsOf n).contains sh
    let step := fun (t : State) (x : SwapRun) => t.stall n = { s.stall n with swap := some x } ∧ ∀ m, m ≠ n → t.stall m = s.stall m
    (w.exchanged = false → Answers (.clockForceOff n) s fun t =>
      t.flag (rSTALL_STAT n) fSTALL_STAT_SAVE_SUSPECT = true ∧ s.wordsBut t [rSTALL_STAT n] ∧ Within [.regs, .agg] s t) ∧
    (w.exchanged = true → (Answers (.clockForceOff n) s fun t => t = s) ∧ Answers (.ffExchange n []) s fun t => t = s) ∧
    (w.exchanged = false → Answers (.ffExchange n []) s fun t =>
      step t { w with exchanged := true } ∧
      (∀ sh tile, tile < 8192 → t.ffs sh tile = if mine sh = true then
        (if s.planeSaved sh (s.bgPlane sh) = true ∧ w.fresh = false then smGet 0 (s.plane sh (s.bgPlane sh)).save tile else 0) else s.ffs sh tile) ∧
      (∀ sh p, p < 2 → (t.plane sh p).cfg = (s.plane sh p).cfg) ∧
      (∀ sh, mine sh = true → s.planeState sh (s.livePlane sh) = plLIVE → t.planeSaved sh (s.livePlane sh) = true ∧
        ∀ tile, tile < 8192 → smGet 0 (t.plane sh (s.livePlane sh)).save tile = s.ffs sh tile) ∧
      s.wordsBut t ((s.shedsOf n).map rPLANE_STAT) ∧ Within [.regs, .agg, .fab, .stalls] s t) ∧
    (w.zeroed = true → Answers (.swapZeroing n) s fun t => t = s) ∧
    (w.zeroed = false → Answers (.swapZeroing n) s fun t =>
      step t { w with zeroed := true } ∧
      (∀ sh b, b < 64 → t.bm sh b = (if mine sh = true then Bm.zero else s.bm sh b) ∧ t.pond sh b = (if mine sh = true then Pond.zero else s.pond sh b) ∧
        t.fmb sh b = (if mine sh = true then Fmb.zero else s.fmb sh b)) ∧
      (∀ m, (t.eddy m) = if (s.enginesOf n).contains m = true then { s.eddy m with data := [] } else s.eddy m) ∧
      (∀ sh, mine sh = true → t.rd32 (rFIFO_OVR_LO sh) = 0 ∧ t.rd32 (rFIFO_OVR_HI sh) = 0) ∧
      s.wordsBut t ((s.shedsOf n).map rFIFO_OVR_LO ++ (s.shedsOf n).map rFIFO_OVR_HI) ∧ Within [.regs, .agg, .fab, .eddies, .stalls] s t) ∧
    (w.quiet = true ∨ s.meshBusy n = true → Answers (.meshQuiet n) s fun t => t = s) ∧
    (w.quiet = false → s.meshBusy n = false → Answers (.meshQuiet n) s fun t => step t { w with quiet := true } ∧ Within [.stalls] s t)

/-- R235, R247, R251, R252, R255, Table STL-8, steps 6 and 7: once a swap is exchanged, zeroed and quiet, the two images of its stall change places, a parked
stall keeping none live; every shed's planes change places, the outgoing LIVE plane becoming LOADED, or INVALID where the stall was FAULTED by a cause of
R255; and the stall is released, FAULTED by a cause recorded since the strobe, EMPTY where it is parked and LIVE otherwise, and IRQ_RAW[0] of its page sets;
a FRESH swap to an image with a fill enters FILL instead, and is released when the fill ends. Until then nothing changes. PLANE_FLIP, FILL_END. -/
def Obligations.SwapReleases : Prop :=
  ∀ (s : State) (n : Nat) (w : SwapRun), s.clocked = true → n < 32 → (s.stall n).swap = some w →
    let next := if w.park then none else (s.stall n).bg
    let fills := w.fresh && (match next with | some i => !i.memFill.isEmpty || !i.dataFill.isEmpty | none => false)
    let spoilt := decide (w.was = cCFG_UNCORR ∨ w.was = cTRIB_CONTENTION)
    let ready := w.exchanged && w.zeroed && w.quiet && decide (s.stallState n = stSWAPPING)
    let released := if w.cause ≠ 0 then stFAULTED else if w.park then stEMPTY else stLIVE
    let jobs := fun (t : State) => t.tol.jobs.map (fun j => (j.ticket, decide (j.kind = .swapStall n), j.result.isSome)) =
      s.tol.jobs.map (fun j => (j.ticket, decide (j.kind = .swapStall n), j.result.isSome || decide (j.kind = .swapStall n)))
    (ready = false → Answers (.planeFlip n) s fun t => t = s) ∧
    (ready = true → Answers (.planeFlip n) s fun t =>
      (t.stall n).live = next ∧ (t.stall n).bg = (s.stall n).live ∧ (t.stall n).swap = (if fills then some w else none) ∧
      t.stallState n = (if fills then stFILL else released) ∧
      (fills = false → t.bit (rIRQ_RAW (PageKind.stall.addr n)) 0 = true ∧ jobs t ∧
        (w.cause ≠ 0 → t.fget (rSTALL_STAT n) fSTALL_STAT_CAUSE = w.cause % 2 ^ 4)) ∧
      (∀ sh, (s.shedsOf n).contains sh = true →
        t.livePlane sh = s.bgPlane sh ∧
        t.planeState sh (s.livePlane sh) = (if s.planeState sh (s.livePlane sh) = plLIVE then (if spoilt then plINVALID else plLOADED)
          else s.planeState sh (s.livePlane sh)) ∧
        t.planeState sh (s.bgPlane sh) = (if s.planeState sh (s.bgPlane sh) = plLOADED then plLIVE else s.planeState sh (s.bgPlane sh)) ∧
        (fills = false → w.cause = 0 → w.park = false → t.gated sh = false)) ∧
      (∀ sh, sh < 384 → (s.shedsOf n).contains sh = false → t.word (rPLANE_STAT sh) = s.word (rPLANE_STAT sh)) ∧
      (∀ m, m ≠ n → t.stall m = s.stall m) ∧ Within [.regs, .agg, .fab, .eddies, .stalls, .tol, .pins] s t) ∧
    (s.stallState n ≠ stFILL → Answers (.fillEnd n) s fun t => t = s) ∧
    (s.stallState n = stFILL → Answers (.fillEnd n) s fun t =>
      (t.stall n).live = (s.stall n).live ∧ (t.stall n).bg = (s.stall n).bg ∧ (t.stall n).swap = none ∧ t.stallState n = released ∧
      t.bit (rIRQ_RAW (PageKind.stall.addr n)) 0 = true ∧ jobs t ∧
      (∀ i, (s.stall n).live = some i → t.fab = (s.writeFill i).fab ∧ ∀ m, (t.eddy m).data = ((s.writeFill i).eddy m).data) ∧
      (∀ m, m ≠ n → t.stall m = s.stall m) ∧ Within [.regs, .agg, .fab, .eddies, .stalls, .tol, .pins] s t)

/-- R80–R82, R243: the end of a load. Frames that the tributary map refuses are recorded in TRIB_REFUSE_LAST and TRIB_REFUSE_ID and raise IRQ_RAW[1] of
TRIB_CTL; an image that is not well formed, or whose regions cannot be placed, is turned away too; each leaves the stall with no background image and its
named planes INVALID. Otherwise the image, with its regions, is the background image, its named planes are LOADED and the others BLANK. IRQ_RAW[2] of the
stall's page sets in every case, and with no load in progress nothing changes. LOAD_END. -/
def Obligations.LoadEnds : Prop :=
  ∀ (s : State) (n : Nat), s.clocked = true → n < 32 →
    let mine := fun (sh : Nat) => (s.shedsOf n).contains sh
    let after := fun (r : LoadRun) (v : Nat) (bg : Option Image) (t : State) =>
      (t.stall n).load = none ∧ (t.stall n).bg = bg ∧ (t.stall n).live = (s.stall n).live ∧ t.bit (rIRQ_RAW (PageKind.stall.addr n)) 2 = true ∧
      (∀ sh, mine sh = true → t.planeState sh (s.bgPlane sh) = (if (entrySheds r.image.entries).contains sh then v else plBLANK) ∧ t.livePlane sh = s.livePlane sh ∧
        t.planeState sh (s.livePlane sh) = s.planeState sh (s.livePlane sh)) ∧
      t.stallState n = s.stallState n ∧ (∀ m, m ≠ n → t.stall m = s.stall m) ∧ Within [.regs, .agg, .fab, .eddies, .mem, .stalls, .tol, .fresh] s t
    ((s.stall n).load = none → Answers (.loadEnd n) s fun t => t = s) ∧
    (∀ r, (s.stall n).load = some r →
      (∀ reason sh tr, s.routeRefusal n r.image r.sections = some (reason, sh, tr) → Answers (.loadEnd n) s fun t =>
        after r plINVALID none t ∧
        (reason < 8 → sh < 384 → t.flag (rTRIB_REFUSE_LAST 0) fTRIB_REFUSE_LAST_VALID = true ∧ t.fget (rTRIB_REFUSE_LAST 0) fTRIB_REFUSE_LAST_REASON = reason ∧
          t.fget (rTRIB_REFUSE_LAST 0) fTRIB_REFUSE_LAST_STALL = n) ∧
        t.bit (rIRQ_RAW (PageKind.tribCtl.addr 0)) 1 = true) ∧
      (s.routeRefusal n r.image r.sections = none → r.formed = false → Answers (.loadEnd n) s (after r plINVALID none)) ∧
      (s.routeRefusal n r.image r.sections = none → r.formed = true → s.placeRegions n r.image.slot r.image.entries = none →
        Answers (.loadEnd n) s (after r plINVALID none)) ∧
      (∀ u rs, s.routeRefusal n r.image r.sections = none → r.formed = true → s.placeRegions n r.image.slot r.image.entries = some (u, rs) →
        Answers (.loadEnd n) s fun t => after r plLOADED (some { r.image with regions := rs }) t ∧ t.rd64 (rSTALL_TENANT_BG n) = r.image.tenant % 2 ^ 64))

/-! ### Tolmor -/

/-- R264–R272, Table TMC-8: the mailboxes. RING hands the command buffer to Tolmor where the mailbox is ACCEPTING and not BUSY, and is refused otherwise.
Tolmor takes the command of the rung mailbox next in turn: BUSY clears, IRQ_RAW[1] of its page sets, and one completion with the command's SEQ and OPCODE
is posted: BAD_OPCODE where Table TMC-8 has no such command, REFUSED_FORMAT, REFUSED_AUTH or REFUSED_BUSY where a check fails, and then nothing else of
the device changes; LOAD_KEY, where a session of the mailbox wraps keys, loads them into an EMPTY slot and answers DONE; RETIRE_KEY makes a LOADED slot
RETIRING and answers PENDING with a ticket that no other command of the mailbox has. MB_CPL_POP removes the head completion. In DEAD, or with nothing rung, no command is taken.
RING, COMMAND_TAKE, MB_CPL_POP. -/
def Obligations.MailboxCommands : Prop :=
  ∀ (s : State), s.clocked = true →
    (∀ req b, req.valid = true → b < 6 → s.takes req .mbox b 0x040 = true →
      let free := s.flag (rMB_STAT b) fMB_STAT_ACCEPTING && !s.flag (rMB_STAT b) fMB_STAT_BUSY
      (free = true → Answers (.ring req b) s fun t =>
        t.flag (rMB_STAT b) fMB_STAT_BUSY = true ∧ s.wordsBut t [rMB_STAT b, rPWR_STAT 0] ∧ t.tol = s.tol ∧ Within [.regs, .views, .agg] s t) ∧
      (free = false → Answers (.ring req b) s fun t =>
        t.bit (rIRQ_RAW (PageKind.mbox.addr b)) 31 = true ∧ t.word (rMB_STAT b) = s.word (rMB_STAT b) ∧ t.tol = s.tol ∧ Within [.regs, .views, .agg] s t)) ∧
    (∀ req b, req.valid = true → b < 6 → s.takes req .mbox b 0x048 = true → Answers (.cplPop req b) s fun t =>
      (t.mbox b).cpls = (s.mbox b).cpls.tail ∧ (∀ m, m ≠ b → t.mbox m = s.mbox m) ∧ (16 < (s.mbox b).cpls.length → t.bit (rIRQ_RAW (PageKind.mbox.addr b)) 0 = true) ∧
      t.tol.jobs = s.tol.jobs ∧ s.wordsBut t [rIRQ_RAW (PageKind.mbox.addr b)] ∧ Within [.regs, .views, .agg, .tol] s t) ∧
    (∀ env, s.dead = true ∨ s.nextBox = none → Answers (.commandTake env) s fun t => t = s) ∧
    (∀ env b, s.dead = false → s.nextBox = some b →
      let w0 := s.cmdWord b 0
      let w1 := s.cmdWord b 1
      let c : CmdIn := ⟨b, w0 / 2 ^ 16, w0 % 2 ^ 8, w0.testBit 8, (List.range 62).map (fun k => s.cmdWord b (k + 2))⟩
      let full := decide (32 ≤ (s.ticketsOut b).length)
      let posted := fun (t : State) (e : Cpl) => (t.mbox b).cpls = (s.mbox b).cpls ++ [e] ∧ (∀ m, m ≠ b → t.mbox m = s.mbox m) ∧
        t.flag (rMB_STAT b) fMB_STAT_BUSY = false ∧ t.bit (rIRQ_RAW (PageKind.mbox.addr b)) 1 = true ∧
        ((s.mbox b).cpls.length < 16 → t.bit (rIRQ_RAW (PageKind.mbox.addr b)) 0 = true) ∧ t.tol.served = b
      let refused := fun (code : Nat) (t : State) => posted t (mkCpl c.seq c.op code true 0 0) ∧ t.tol.jobs = s.tol.jobs ∧
        s.wordsBut t [rMB_STAT b, rIRQ_RAW (PageKind.mbox.addr b)] ∧ Within [.regs, .views, .agg, .tree, .tol, .out] s t
      (cmdMasks c.op = none → Answers (.commandTake env) s (refused ccOPCODE)) ∧
      (∀ masks, cmdMasks c.op = some masks →
        (c.formed w0 w1 masks = false → Answers (.commandTake env) s (refused ccFORMAT)) ∧
        (c.formed w0 w1 masks = true → s.authorised c = false → Answers (.commandTake env) s (refused ccAUTH)) ∧
        (c.formed w0 w1 masks = true → s.authorised c = true → (c.defers && full) = true → Answers (.commandTake env) s (refused ccBUSY)) ∧
        (∀ k1 k2 kt, c.formed w0 w1 masks = true → s.authorised c = true → c.op = 0x10 → c.arg 0 ≠ 0 → s.slotState (c.arg 0) = 0 →
          (c.arg 1, b) ∈ s.tol.sessions → env.keys = some (k1, k2, kt) → Answers (.commandTake env) s fun t =>
          posted t (mkCpl c.seq c.op ccDONE true 0 0) ∧ t.slotState (c.arg 0) = 1 ∧ t.slot (c.arg 0) = ⟨k1, k2, kt, s.mem.nextKid⟩ ∧
          (∀ k, k ≠ c.arg 0 → t.slot k = s.slot k) ∧ smGet none t.tol.keyBox (c.arg 0) = some b ∧ t.tol.jobs = s.tol.jobs ∧
          Within [.regs, .views, .agg, .mem, .tree, .tol, .out] s t) ∧
        (c.formed w0 w1 masks = true → s.authorised c = true → c.op = 0x11 → full = false → c.arg 0 ≠ 0 → s.slotState (c.arg 0) = 1 →
          Answers (.commandTake env) s fun t => ∃ ticket,
          posted t (mkCpl c.seq c.op ccPENDING false ticket s.tide.now) ∧ (0 < ticket ∧ ticket < 65536 ∧ ticket ∉ s.ticketsOut b) ∧
          t.slotState (c.arg 0) = 2 ∧ (∃ j, t.tol.jobs = s.tol.jobs ++ [j] ∧ j.box = b ∧ j.ticket = ticket ∧ j.kind = .retireKey (c.arg 0)) ∧ t.mem = s.mem ∧
          Within [.regs, .views, .agg, .tree, .tol, .out] s t)))

/-- R263, R269, R272, R286, R310: the ends of deferred commands. A deferred command whose end has come posts one completion with its SEQ, OPCODE and
ticket in its mailbox, or, where the mailbox has been emptied since, an entry of source 8 in the event log, and its ticket is free; RETIRE_KEY ends when its slot is EMPTY, and CREATE_REGION when its region is
READY, or ABANDONED where it is FREE again; until then nothing changes, nor in DEAD. FANOUT ends when every target it reached has answered or its time is
up: its results are written to its location, and it completes DONE with the number of targets, or COPY_FAILED. Tolmor copies a block's event record into
the event log, and counts those overwritten before. DEFERRED_COMPLETION, FANOUT_END, EVENT_LOG_COPY. -/
def Obligations.DeferredCommandsEnd : Prop :=
  ∀ (s : State), s.clocked = true →
    let ended := fun (j : Job) (code data : Nat) (t : State) =>
      t.tol.jobs = s.tol.jobs.filter (fun x => !(decide (x.box = j.box) && decide (x.ticket = j.ticket))) ∧
      (j.orphan = false → (t.mbox j.box).cpls = (s.mbox j.box).cpls ++ [mkCpl j.seq j.op code true j.ticket data] ∧ t.tol.log = s.tol.log) ∧
      (j.orphan = true → (∃ e, t.tol.log = (if s.tol.log.length < 1024 then s.tol.log ++ [e] else s.tol.log.tail ++ [e]) ∧ e.source = 8 ∧ e.code = code ∧
        e.seq = s.rd32 (rLOG_NEXT 0)) ∧ t.mbox j.box = s.mbox j.box) ∧ ∀ m, m ≠ j.box → t.mbox m = s.mbox m
    let kept := fun (t : State) => (∀ a, a / 4096 ≠ 1 → a / 4096 < 8 ∨ 13 < a / 4096 → t.word a = s.word a) ∧ Within [.regs, .views, .agg, .tol, .out] s t
    (∀ box ticket copied, box < 6 →
      let job := s.tol.jobs.find? (fun j => decide (j.box = box) && decide (j.ticket = ticket))
      (s.dead = true ∨ job = none → Answers (.deferredEnd box ticket copied) s fun t => t = s) ∧
      (∀ j code data, s.dead = false → job = some j → j.result = some (code, data) →
        Answers (.deferredEnd box ticket copied) s fun t => ended j code data t ∧ kept t) ∧
      (∀ j k, s.dead = false → job = some j → j.result = none → j.kind = .retireKey k → Answers (.deferredEnd box ticket copied) s fun t =>
        (s.slotState k = 0 → ended j ccDONE 0 t ∧ kept t) ∧ (s.slotState k ≠ 0 → t = s)) ∧
      (∀ j p i, s.dead = false → job = some j → j.result = none → j.kind = .createRegion p i → Answers (.deferredEnd box ticket copied) s fun t =>
        (s.rgnState p i = 0 → ended j ccABANDONED 0 t ∧ kept t) ∧ (2 ≤ s.rgnState p i → ended j ccDONE i t ∧ kept t) ∧ (s.rgnState p i = 1 → t = s))) ∧
    (∀ id timeout copied,
      (∀ f j, s.dead = false → s.tree.fans.find? (fun f => f.id = id) = some f → s.tol.jobs.find? (fun j => decide (j.kind = .fanout id)) = some j →
        (timeout || f.targets.all (fun x => !x.reached || x.cpl.isSome)) = true → Answers (.fanoutEnd id timeout copied) s fun t =>
        t.tree = { s.tree with fans := s.tree.fans.filter (fun g => g.id ≠ id) } ∧
        (∃ code data, (code = ccDONE ∧ data = f.targets.length ∨ code = ccCOPY ∧ data = 0) ∧
          t.tol.jobs = s.tol.jobs.filter (fun x => !(decide (x.box = j.box) && decide (x.ticket = j.ticket))) ∧
          (j.orphan = false → (t.mbox j.box).cpls = (s.mbox j.box).cpls ++ [mkCpl j.seq j.op code true j.ticket data])) ∧
        Within [.regs, .agg, .mem, .tree, .tol, .out, .fresh] s t) ∧
      (s.dead = true ∨ s.tol.jobs.find? (fun j => decide (j.kind = .fanout id)) = none ∨ (∀ f, s.tree.fans.find? (fun f => f.id = id) = some f → (timeout || f.targets.all (fun x => !x.reached || x.cpl.isSome)) = false) →
        Answers (.fanoutEnd id timeout copied) s fun t => t = s)) ∧
    (∀ source index, source < 16 → index < 2 ^ 16 →
      let n := smGet 0 s.tol.unlogged (65536 * source + index)
      (s.dead = true ∨ n = 0 → Answers (.eventLogCopy source index) s fun t => t = s) ∧
      (s.dead = false → n ≠ 0 → Answers (.eventLogCopy source index) s fun t =>
        (∃ e, t.tol.log = (if s.tol.log.length < 1024 then s.tol.log ++ [e] else s.tol.log.tail ++ [e]) ∧ e.source = source ∧ e.seq = s.rd32 (rLOG_NEXT 0) ∧
          e.tide = s.tide.now ∧ (source ≠ 4 → e.index = index)) ∧
        t.rd32 (rLOG_NEXT 0) = (s.rd32 (rLOG_NEXT 0) + 1) % 2 ^ 32 ∧
        t.fget (rLOG_MISSED 0) fLOG_MISSED_COUNT = satAdd 16 (s.fget (rLOG_MISSED 0) fLOG_MISSED_COUNT) (n - 1) ∧
        smGet 0 t.tol.unlogged (65536 * source + index) = 0 ∧ s.wordsBut t [rLOG_NEXT 0, rLOG_MISSED 0] ∧ t.tol.jobs = s.tol.jobs ∧ Within [.regs, .agg, .tol] s t))

/-- R281–R285, Table TMC-9: tests and calibrations. Where a request is queued for a target that no run has, and its quiet window is met, every request
queued for the target runs; a lane then enters CAL, and a PLL loses its lock. The run ends with its verdict: every request of the target completes DONE or
TEST_FAILED with the DATA, a lane's verdict being that of its calibration; an HBM port whose retraining fails becomes unreachable. A queued request whose
QUEUE_LIMIT has passed ends EXPIRED. TEST_RUN_START, TEST_END, EXPIRED. -/
def Obligations.TestsRunAndEnd : Prop :=
  ∀ (s : State), s.clocked = true →
    (∀ kind index,
      let queued := s.tol.jobs.any (fun j => j.tests kind index false)
      let run := fun (j : Job) => if j.tests kind index false then { j with kind := match j.kind with | .test k i lim _ => .test k i lim true | x => x } else j
      ((s.dead || !queued || s.testRuns kind index || !s.testQuiet kind index) = true → Answers (.testStart kind index) s fun t => t = s) ∧
      (s.dead = false → queued = true → s.testRuns kind index = false → s.testQuiet kind index = true →
        (kind ≠ 0x11 → kind ≠ 0x13 → Answers (.testStart kind index) s fun t => t.tol.jobs = s.tol.jobs.map run ∧ Within [.tol] s t) ∧
        (kind = 0x11 → Answers (.testStart kind index) s fun t => t.tol.jobs = s.tol.jobs.map run ∧ t.stage index = sgCAL ∧
          t.flag (rLANE_STAT index) fLANE_STAT_CDR_LOCK = false ∧ s.wordsBut t [rLANE_STAT index, rIRQ_RAW (PageKind.lane.addr index)] ∧ Within [.regs, .agg, .tol] s t) ∧
        (kind = 0x13 → s.pllUsers (index / 8) (index % 8) = [] → Answers (.testStart kind index) s fun t => t.tol.jobs = s.tol.jobs.map run ∧
          t.pllLocked (index / 8) (index % 8) = false ∧ s.wordsBut t [rPLL_STAT (index / 8)] ∧ Within [.regs, .agg, .tol, .clk] s t))) ∧
    (∀ kind index ok data,
      let ended := fun (code : Nat) (t : State) => t.tol.jobs = s.tol.jobs.map (fun j => if j.tests kind index true then { j with result := some (code, data) } else j)
      (s.testRuns kind index = false ∨ kind = 0x11 ∧ s.stage index = sgCAL → Answers (.testEnd kind index ok data) s fun t => t = s) ∧
      (s.testRuns kind index = true →
        (kind ≠ 5 → kind ≠ 0x11 → (kind = 0x12 → ok = true) → (kind = 0x13 → ok = false) → Answers (.testEnd kind index ok data) s fun t =>
          ended (if ok then ccDONE else ccTEST_FAILED) t ∧ Within [.tol] s t) ∧
        (kind = 5 → s.bundleState index ≠ 3 → Answers (.testEnd kind index ok data) s fun t => ended (if ok then ccDONE else ccTEST_FAILED) t ∧ Within [.tol] s t) ∧
        (kind = 0x11 → s.stage index ≠ sgCAL → Answers (.testEnd kind index ok data) s fun t =>
          ended (if s.flag (rLANE_STAT index) fLANE_STAT_CAL_FAIL then ccTEST_FAILED else ccDONE) t ∧ Within [.tol] s t) ∧
        (kind = 0x12 → ok = false → index < 64 → Answers (.testEnd kind index ok data) s fun t => ended ccTEST_FAILED t ∧
          t.flag (rHBMP_STAT index) fHBMP_STAT_TRAINED = false ∧ t.flag (rHBMP_STAT index) fHBMP_STAT_UNREACH = true ∧
          s.wordsBut t [rHBMP_STAT index] ∧ Within [.regs, .agg, .mil, .tol, .out, .fresh] s t) ∧
        (kind = 0x13 → ok = true → index < 64 → s.fget (pllCfg (index / 8) (index % 8)) fPLL_CFG_EN = 1 →
          s.bit (rREF_STAT 0) (s.fget (pllCfg (index / 8) (index % 8)) fPLL_CFG_REF) = true → Answers (.testEnd kind index ok data) s fun t =>
          ended ccDONE t ∧ t.pllLocked (index / 8) (index % 8) = true ∧ s.wordsBut t [rPLL_STAT (index / 8)] ∧ Within [.regs, .agg, .tol, .clk] s t))) ∧
    (∀ box ticket, box < 6 → Answers (.expired box ticket) s fun t =>
      (s.dead = true → t = s) ∧
      (s.dead = false → t.tol.jobs = s.tol.jobs.map (fun j =>
        if decide (j.box = box) && decide (j.ticket = ticket) && j.result.isNone && (match j.kind with | .test _ _ lim r => !r && decide (lim ≠ 0) | _ => false)
        then { j with result := some (ccEXPIRED, 0) } else j)) ∧ Within [.tol] s t)

/-- R259, R262, R263, R421: Tolmor's lockstep and SRAM. A disagreement counts in DISAGREE. One core that disagrees with the other two is reset and stays out
of the lockstep, whose MODE becomes DUAL unless it is SHUTDOWN, with an entry of source 5 in the event log, until TRIPLE_RESTORE. Three that disagree, any
disagreement while a core is out, and an uncorrectable SRAM word are fatal: MODE becomes DEAD, no mailbox accepts any more, and each sets DEAD and IRQ_RAW[3]; a power
state above RUN is left. In DEAD nothing changes. LOCKSTEP_DISAGREE, TRIPLE_RESTORE, SRAM_SCRUB. -/
def Obligations.LockstepAndSram : Prop :=
  ∀ (s : State), s.clocked = true →
    let mode := fun (t : State) => t.fget (rTOL_STAT 0) fTOL_STAT_MODE
    let boxes := (List.range 6).flatMap (fun b => [rMB_STAT b, rIRQ_RAW (PageKind.mbox.addr b)])
    let died := fun (t : State) => mode t = 2 ∧
      (∀ b, b < 6 → t.flag (rMB_STAT b) fMB_STAT_DEAD = true ∧ t.flag (rMB_STAT b) fMB_STAT_ACCEPTING = false ∧ t.bit (rIRQ_RAW (PageKind.mbox.addr b)) 3 = true) ∧
      (1 ≤ s.powerState → t.flag (rPWR_STAT 0) fPWR_STAT_EXITING = true ∧ t.fget (rPWR_STAT 0) fPWR_STAT_TARGET = 0) ∧
      (s.powerState = 0 → t.word (rPWR_STAT 0) = s.word (rPWR_STAT 0)) ∧
      s.wordsBut t ([rTOL_STAT 0, rPWR_STAT 0] ++ boxes) ∧ Within [.regs, .agg] s t
    let counted := fun (t : State) => t.fget (rTOL_STAT 0) fTOL_STAT_DISAGREE = satInc 16 (s.fget (rTOL_STAT 0) fTOL_STAT_DISAGREE)
    (∀ core, s.dead = true → Answers (.lockstepDisagree core) s fun t => t = s) ∧
    (s.dead = false → Answers (.lockstepDisagree none) s fun t => counted t ∧ died t) ∧
    (∀ c, c < 3 → s.dead = false → s.tol.outCore.isSome = true → Answers (.lockstepDisagree (some c)) s fun t => counted t ∧ died t) ∧
    (∀ c, c < 3 → s.dead = false → s.tol.outCore = none → Answers (.lockstepDisagree (some c)) s fun t => counted t ∧
      t.tol.outCore = some c ∧ t.fget (rTOL_STAT 0) fTOL_STAT_OUT_CORE = c ∧ mode t = (if mode s = 3 then 3 else 1) ∧
      (∃ e, t.tol.log = (if s.tol.log.length < 1024 then s.tol.log ++ [e] else s.tol.log.tail ++ [e]) ∧ e.source = 5 ∧ e.index = c ∧ e.seq = s.rd32 (rLOG_NEXT 0)) ∧
      s.wordsBut t [rTOL_STAT 0, rLOG_NEXT 0] ∧ Within [.regs, .agg, .tol] s t) ∧
    (s.dead = true ∨ s.tol.outCore = none → Answers .tripleRestore s fun t => t = s) ∧
    (s.dead = false → s.tol.outCore.isSome = true → Answers .tripleRestore s fun t => t.tol = { s.tol with outCore := none } ∧
      t.fget (rTOL_STAT 0) fTOL_STAT_OUT_CORE = 0 ∧ mode t = (if mode s = 1 then 0 else mode s) ∧ s.wordsBut t [rTOL_STAT 0] ∧ Within [.regs, .agg, .tol] s t) ∧
    (Answers (.sramScrub false) s fun t => t = s) ∧
    (s.dead = false → Answers (.sramScrub true) s died) ∧
    (s.dead = true → Answers (.sramScrub true) s fun t => t = s)

/-! ### Tide and the tree -/

/-- R288–R294, R305, R490, Table TID-2: what a valid sample does. A sample comes of a TIDE_IN frame whose CRC is good where TIDE_IN is the source (or becomes
it), of a PTM exchange on the port that is the source, and of the DELAY_RSP that ends a worker's exchange (o = −θ); from anything else nothing changes. While the counter's pair
is lost the sample is ignored. In NONE it sets Tide to the source's value and enters TRACK. Otherwise TIDE_OFFSET takes o, cut to its range; the state moves as Table TID-2
says; and the unit slews for |o| ≤ RESYNC_NS, steps forward by o above, or freezes below, counting each step and freeze in STEPS. (Where alarms are armed a step also fires those
passed.) TIDE_IN_FRAME, PTM_EXCHANGE, DELAY_RSP. -/
def Obligations.SamplesCorrectTide : Prop :=
  ∀ (s : State), s.clocked = true →
    let resync : Int := s.fget (rTIDE_CFG 0) fTIDE_CFG_RESYNC_NS
    let lock : Int := max 1 (s.fget (rTIDE_CFG 0) fTIDE_CFG_LOCK_NS)
    let near := fun (o : Int) => decide (-lock ≤ o ∧ o ≤ lock)
    let cut := fun (o : Int) => if o < -(2 ^ 31) then -(2 ^ 31) else if 2 ^ 31 - 1 < o then 2 ^ 31 - 1 else o
    let moved := fun (o : Int) =>
      if s.tideState = 1 then (if near o && decide (s.tide.locks + 1 = 4) then 2 else 1)
      else if s.tideState = 2 then (if o < -(2 * lock) ∨ 2 * lock < o then 1 else 2) else 1
    let steps := fun (t : State) => t.fget (rTIDE_STAT 0) fTIDE_STAT_STEPS
    let frozen := fun (t : State) => t.flag (rTIDE_STAT 0) fTIDE_STAT_FROZEN
    let sampled := fun (o : Int) (t : State) =>
      (s.tide.pairLost = true → t.tide = { s.tide with t1 := t.tide.t1, t2 := t.tide.t2, t3 := t.tide.t3 } ∧ t.tideState = s.tideState ∧ s.wordsBut t [rTIDE_STAT 0]) ∧
      (s.tide.pairLost = false → s.tideState = 0 → t.tideState = 1 ∧ t.tide.now = ((s.tide.now : Int) + o).toNat % 2 ^ 64 ∧ t.tide.slew = 0 ∧ t.tide.locks = 0) ∧
      (s.tide.pairLost = false → s.tideState ≠ 0 →
        (-resync ≤ o → o ≤ resync → t.tideState = moved o ∧ t.tide.locks = (if s.tideState = 1 ∧ near o = true ∧ moved o = 1 then s.tide.locks + 1 else if s.tideState = 2 ∧ moved o = 2 then s.tide.locks else 0) ∧
          t.rd32 (rTIDE_OFFSET 0) = field32 (cut o) % 2 ^ 32 ∧ t.tide.now = s.tide.now ∧ t.tide.slew = o * 1000000000 ∧ steps t = steps s ∧ frozen t = frozen s) ∧
        (resync < o → t.tide.now = (s.tide.now + o.toNat) % 2 ^ 64 ∧
          (s.armedAlarms = [] → t.tideState = moved o ∧ t.tide.slew = 0 ∧ steps t = satInc 16 (steps s) ∧ t.bit (rIRQ_RAW (PageKind.tideCtl.addr 0)) 1 = true ∧
            t.rd32 (rTIDE_OFFSET 0) = field32 (cut o) % 2 ^ 32)) ∧
        (o < -resync → t.tideState = moved o ∧ t.tide.now = s.tide.now ∧ t.tide.slew = 0 ∧ frozen t = true ∧ steps t = satInc 16 (steps s) ∧
          t.bit (rIRQ_RAW (PageKind.tideCtl.addr 0)) 1 = true ∧ t.rd32 (rTIDE_OFFSET 0) = field32 (cut o) % 2 ^ 32)) ∧
      t.pins = s.pins ∧ t.mem = s.mem ∧ t.fab = s.fab ∧ t.ports = s.ports ∧ t.tree = s.tree
    (∀ v c age first,
      let mine := s.tideSource = 5 ∨ first = true ∧ s.tideSource = 7 ∧ s.role ≠ 2
      (c = crc16 64 v 0xFFFF → mine → Answers (.tideIn v c age first) s fun t =>
        (s.armedAlarms = [] → t.tideSource = 5) ∧ sampled (((v % 2 ^ 64 + s.rd32 (rTIDE_IN_DELAY 0) + age : Nat) : Int) - s.tide.now) t) ∧
      (c ≠ crc16 64 v 0xFFFF ∨ ¬ mine → Answers (.tideIn v c age first) s fun t => t = s)) ∧
    (∀ n v age, n < 4 → Answers (.ptmExchange n v age) s fun t =>
      (s.tideSource = 1 + n → s.ptmReady n = true → sampled (((v + age : Nat) : Int) - s.tide.now) t) ∧ (s.tideSource ≠ 1 + n ∨ s.ptmReady n = false → t = s)) ∧
    (∀ k t4 t1 t2 t3, k < 16 → s.tide.t1 = some t1 → s.tide.t2 = some t2 → s.tide.t3 = some t3 → s.fromParent k = true → s.tideSource = 0 →
      Answers (.delayRsp k t4) s fun t => t.tide.t1 = none ∧ t.tide.t2 = none ∧ t.tide.t3 = none ∧
        sampled (-(Int.fdiv (((t2 : Int) - t1) - ((t4 : Int) - t3) - signed16 (s.fget (rTIDE_ASYM 0 k) fTIDE_ASYM_A)) 2)) t) ∧
    (∀ k t4, k < 16 → s.fromParent k = false ∨ s.tide.t1 = none → Answers (.delayRsp k t4) s fun t => t = s)

/-- R289, R291–R294, R298: the states of Tide apart from samples. A lost source leads from TRACK or LOCKED to HOLDOVER, the end of HOLDOVER to LOST, where every armed swap is abandoned with
DATA 3; another REFCLK pair for the counter leads a valid Tide to HOLDOVER, or to LOST where that pair has no clock; each sets IRQ_RAW[0] of TIDE_CTL, and none moves the counter. The end of a freeze clears
FROZEN. SOURCE_LOST, HOLDOVER_EXPIRE, TIDE_CFG_REFCLK, FREEZE_END. -/
def Obligations.TideStatesChange : Prop :=
  ∀ (s : State), s.clocked = true →
    let kept := fun (t : State) => t.tide.now = s.tide.now ∧ t.tide.slew = s.tide.slew ∧ t.tideSource = s.tideSource ∧ t.flag (rTIDE_STAT 0) fTIDE_STAT_FROZEN = s.flag (rTIDE_STAT 0) fTIDE_STAT_FROZEN ∧
      t.fget (rTIDE_STAT 0) fTIDE_STAT_STEPS = s.fget (rTIDE_STAT 0) fTIDE_STAT_STEPS
    let told := fun (t : State) => t.bit (rIRQ_RAW (PageKind.tideCtl.addr 0)) 0 = true ∧ t.tide.locks = 0
    let abandoned := fun (t : State) => (∀ n, n < 32 → (t.stall n).armed = none) ∧ t.bit (rIRQ_RAW (PageKind.tideCtl.addr 0)) 2 = true ∧
      t.tol.jobs = s.tol.jobs.map (fun j => if j.result.isNone && (List.range 32).any (fun n => decide (j.kind = .swapStall n) && (s.stall n).armed.isSome) then { j with result := some (ccABANDONED, 3) } else j)
    ((s.tideState = 1 ∨ s.tideState = 2) → Answers .sourceLost s fun t => t.tideState = 3 ∧ kept t ∧ told t ∧
      s.wordsBut t [rTIDE_STAT 0, rIRQ_RAW (PageKind.tideCtl.addr 0)] ∧ Within [.regs, .agg, .tally, .tide] s t) ∧
    (s.tideState ≠ 1 → s.tideState ≠ 2 → Answers .sourceLost s fun t => t = s) ∧
    (s.tideState = 3 → Answers .holdoverExpire s fun t => t.tideState = 4 ∧ kept t ∧ told t ∧ abandoned t ∧ Within [.regs, .agg, .stalls, .tally, .tide, .tol] s t) ∧
    (s.tideState ≠ 3 → Answers .holdoverExpire s fun t => t = s) ∧
    (Answers .freezeEnd s fun t => t.flag (rTIDE_STAT 0) fTIDE_STAT_FROZEN = false ∧ t.tideState = s.tideState ∧ t.tideSource = s.tideSource ∧
      t.fget (rTIDE_STAT 0) fTIDE_STAT_STEPS = s.fget (rTIDE_STAT 0) fTIDE_STAT_STEPS ∧ s.wordsBut t [rTIDE_STAT 0] ∧ Within [.regs, .agg] s t) ∧
    (∀ req pair, req.valid = true → pair < 4 → s.takes req .tideCtl 0 0x054 = true → Answers (.tideRefclk req pair) s fun t =>
      let old := s.fget (rTIDE_CFG 0) fTIDE_CFG_REFCLK
      let clocked := s.bit (rREF_STAT 0) (4 + pair)
      t.fget (rTIDE_CFG 0) fTIDE_CFG_REFCLK = pair ∧ t.fget (rTIDE_CFG 0) fTIDE_CFG_LOCK_NS = s.fget (rTIDE_CFG 0) fTIDE_CFG_LOCK_NS ∧
      t.fget (rTIDE_CFG 0) fTIDE_CFG_RESYNC_NS = s.fget (rTIDE_CFG 0) fTIDE_CFG_RESYNC_NS ∧ t.fget (rTIDE_CFG 0) fTIDE_CFG_HOLDOVER_MS = s.fget (rTIDE_CFG 0) fTIDE_CFG_HOLDOVER_MS ∧ kept t ∧
      (pair = old → t.tide = s.tide ∧ t.tideState = s.tideState) ∧
      (pair ≠ old → t.tide.pairLost = !clocked ∧ (s.tideState = 0 → t.tideState = 0) ∧
        (s.tideState ≠ 0 → clocked = true → t.tideState = 3) ∧ (s.tideState ≠ 0 → clocked = false → t.tideState = 4)) ∧
      Within [.regs, .views, .agg, .stalls, .tally, .tide, .tol] s t)

/-- R295, R296, R299, Table TID-3: alarms. ALARM_FIRE fires the first alarm due: a device alarm whose action is the event alone (code 0), or a stall's alarm, sets its FIRED bit and raises its
page's IRQ_RAW[0], clears LATE, and a stall's alarm with SIGNAL raises its signal. A one-shot alarm is then disarmed; a periodic one stays armed at its next T. Where no alarm is due nothing
changes. ARM arms a stall's alarm that is not armed where Tide is set and T lies more than 1 µs ahead, and is otherwise counted in ERR_COUNT, with the alarm as it was; DISARM disarms it; FIRED clears its FIRED bit
and drops its signal. Each leaves every other alarm as it is. ALARM_FIRE, ARM, DISARM, FIRED. -/
def Obligations.AlarmsFire : Prop :=
  ∀ (s : State), s.clocked = true →
    let closed := [rTALLY_EPOCH 0, rTALLY_EPOCH 0 + 4, rIRQ_RAW (PageKind.tallyCtl.addr 0)]
    (s.nextAlarm false = none → Answers .alarmFire s fun t => t = s) ∧
    (∀ T o k, s.nextAlarm false = some (T, o, k) → k < 64 → s.rd32 (rALARM_ACT 0 k) % 256 = 0 → Answers .alarmFire s fun t =>
      let per := s.rd32 (rALARM_ACT 0 k) / 65536 * 1000
      let at_ := rALARM_T 0 k
      t.bit (rALARM_FIRED_LO 0 + k / 32 * 4) (k % 32) = true ∧ t.flag (rALARM_STAT 0 k) fALARM_STAT_LATE = false ∧ t.bit (rIRQ_RAW (PageKind.tideAlarm.addr 0)) 0 = true ∧
      (per = 0 → t.flag (rALARM_STAT 0 k) fALARM_STAT_ARMED = false ∧ t.rd64 at_ = 0) ∧
      (per ≠ 0 → t.flag (rALARM_STAT 0 k) fALARM_STAT_ARMED = s.flag (rALARM_STAT 0 k) fALARM_STAT_ARMED ∧ t.rd64 at_ = nextPeriod (s.rd64 at_) per s.tide.now % 2 ^ 64) ∧
      t.tide = s.tide ∧ s.wordsBut t ([rALARM_FIRED_LO 0 + k / 32 * 4, rALARM_STAT 0 k, at_, at_ + 4, rIRQ_RAW (PageKind.tideAlarm.addr 0)] ++ closed) ∧ Within [.regs, .agg, .tally, .fresh] s t) ∧
    (∀ T o n j, n < 32 → j < 4 → s.nextAlarm false = some (T, o, 0x100 + 4 * n + j) → Answers .alarmFire s fun t =>
      let per := smGet 0 s.tide.periods (4 * n + j) * 1000
      let at_ := rSTALL_ALARM_T n j
      let c := rSTALL_ALARM_CTL n
      t.bit c (8 + j) = true ∧ t.bit c (12 + j) = false ∧ t.bit (rIRQ_RAW (PageKind.tideStall.addr n)) 0 = true ∧
      (per = 0 → t.bit c j = false ∧ t.rd64 at_ = s.rd64 at_) ∧ (per ≠ 0 → t.bit c j = s.bit c j ∧ t.rd64 at_ = nextPeriod (s.rd64 at_) per s.tide.now % 2 ^ 64) ∧
      (∀ i, i < 32 → i ≠ j → i ≠ 8 + j → i ≠ 12 + j → t.bit c i = s.bit c i) ∧
      t.tide = (if s.bit c (16 + j) then { s.tide with signals := smSet 0 s.tide.signals n (Nat.lor (smGet 0 s.tide.signals n) (2 ^ j)) } else s.tide) ∧
      s.wordsBut t ([c, at_, at_ + 4, rIRQ_RAW (PageKind.tideStall.addr n)] ++ closed) ∧ Within [.regs, .agg, .tide, .tally, .fresh] s t) ∧
    (∀ req n j signal, req.valid = true → n < 32 → j < 4 → s.takes req .tideStall n 0x040 = true →
      let c := rSTALL_ALARM_CTL n
      let p := PageKind.tideStall.addr n
      let other := fun (l : List Nat) (t : State) => ∀ i, i < 32 → l.contains i = false → t.bit c i = s.bit c i
      let counted := fun (t : State) => t.fget (rERR_COUNT p) fERR_COUNT_COUNT = satInc 16 (s.fget (rERR_COUNT p) fERR_COUNT_COUNT) ∧ t.bit (rIRQ_RAW p) 31 = true ∧
        t.tide = s.tide ∧ s.wordsBut t [rERR_COUNT p, rIRQ_RAW p, rERR_FIRST p]
      (s.bit c j = false → s.tideState ≠ 0 → s.tide.now + 1000 < s.rd64 (rSTALL_ALARM_T n j) → Answers (.arm req n j signal) s fun t =>
        t.bit c j = true ∧ t.bit c (16 + j) = signal ∧ other [j, 16 + j] t ∧ t.tide = { s.tide with periods := smSet 0 s.tide.periods (4 * n + j) 0 } ∧ s.wordsBut t [c] ∧
        Within [.regs, .views, .agg, .tide] s t) ∧
      (s.bit c j = false → s.tideState = 0 ∨ s.rd64 (rSTALL_ALARM_T n j) ≤ s.tide.now + 1000 → Answers (.arm req n j signal) s fun t => counted t ∧ Within [.regs, .views, .agg, .tide] s t) ∧
      (s.bit c j = true → signal ≠ s.bit c (16 + j) → Answers (.arm req n j signal) s fun t => counted t ∧ Within [.regs, .views, .agg, .tide] s t) ∧
      (Answers (.disarm req n j) s fun t => t.bit c j = false ∧ other [j] t ∧ t.tide = s.tide ∧ s.wordsBut t [c] ∧ Within [.regs, .views, .agg, .tide] s t) ∧
      (Answers (.firedClear req n j) s fun t => t.bit c (8 + j) = false ∧ other [8 + j] t ∧ (smGet 0 t.tide.signals n).testBit j = false ∧
        (∀ i, i ≠ j → (smGet 0 t.tide.signals n).testBit i = (smGet 0 s.tide.signals n).testBit i) ∧ (∀ m, m ≠ n → smGet 0 t.tide.signals m = smGet 0 s.tide.signals m) ∧
        (∃ x, t.tide = { s.tide with signals := x }) ∧ s.wordsBut t [c] ∧ Within [.regs, .views, .agg, .tide] s t))

/-- R301–R303, R292, Table TID-5: the management tree. The manager, and a joined worker of a level that may have children, sends HELLO on every slot that takes part but its parent's. An unjoined worker
sends JOIN on the slot of the HELLO with the least level, the least slot among equals; a joined worker takes its parent's root state. The manager answers JOIN with the NODE_ID of its path, or refuses it where the
cluster is full; a relay passes JOIN up and JOIN_ACK down. The worker takes its NODE_ID, level and parent slot, or is refused. TREE_LEAVE leaves a joined worker unjoined, with its children,
its mailbox MBOX_MGR and the grant of the manager path gone. HELLO_SEND, HELLO, JOIN, JOIN_ACK, TREE_LEAVE. -/
def Obligations.TreeForms : Prop :=
  ∀ (s : State), s.clocked = true →
    let up := s.parentSlot
    let children := (List.range 16).filter (fun k => s.slotUp k && !(s.joined && decide (up = k)))
    let greets := s.treeRole = 1 ∨ (s.joined = true ∧ s.level ≤ 2)
    let root := s.fget (rTIDE_STAT 0) fTIDE_STAT_ROOT_STATE
    let linked := fun (c : Nat) (path : List Nat) (node : Option Nat) (t : State) =>
      if path = [] ∧ node.isSome = true then
        t.bit (rTREE_LINKS 0) (16 + c) = true ∧ t.bit (rIRQ_RAW (PageKind.treeCtl.addr 0)) 1 = true ∧ t.treeRole = (if s.treeRole = 3 then 2 else s.treeRole) ∧
          (∀ i, i < 32 → i ≠ 16 + c → t.bit (rTREE_LINKS 0) i = s.bit (rTREE_LINKS 0) i)
      else t.word (rTREE_LINKS 0) = s.word (rTREE_LINKS 0) ∧ t.treeRole = s.treeRole
    (greets → Answers .helloSend s fun t => t = { s with out := s.out ++ children.map (fun k => .mgmt k (.hello s.nodeId s.level root)) }) ∧
    (¬ greets → Answers .helloSend s fun t => t = s) ∧
    (∀ l x, s.treeRole = 4 → s.tree.joining = none → x ∈ l → s.slotUp x.1 = true → (∀ y ∈ l, s.slotUp y.1 = true → x.2.2.1 < y.2.2.1 ∨ (x.2.2.1 = y.2.2.1 ∧ x.1 ≤ y.1)) →
      Answers (.hello l) s fun t => t = { s with tree := { s.tree with joining := some x.1 }, out := s.out ++ [.mgmt x.1 (.join (s.rd64 (rTOL_SERIAL 0)) [])] }) ∧
    (∀ k node level p, s.treeRole ≠ 4 → s.fromParent k = true → p < 8 → Answers (.hello [(k, node, level, p)]) s fun t =>
      t.tide = { s.tide with parentRoot := some p } ∧ t.fget (rTIDE_STAT 0) fTIDE_STAT_ROOT_STATE = (if tideRank s.tideState < tideRank p then p else s.tideState) ∧
      t.tideState = s.tideState ∧ s.wordsBut t [rTIDE_STAT 0] ∧ Within [.regs, .agg, .tally, .tide] s t) ∧
    (∀ l, (∀ x ∈ l, s.slotUp x.1 = false) → Answers (.hello l) s fun t => t = s) ∧
    (∀ k serial path, k < 16 → serial < 2 ^ 64 → (∀ p ∈ path, p < 16) → path.length ≤ 2 → s.slotUp k = true → s.treeRole = 1 →
      let others := smClear (fun n => decide (smGet (2 ^ 64) s.tree.workers n = serial)) s.tree.workers
      let node := nodeOf (k :: path)
      (2047 ≤ others.length → Answers (.join k serial path) s fun t => t = { s with out := s.out ++ [.mgmt k (.joinAck path none)] }) ∧
      (others.length < 2047 → Answers (.join k serial path) s fun t =>
        t.tree = { s.tree with workers := smPut node serial others } ∧ t.fget (rTREE_WORKERS 0) fTREE_WORKERS_COUNT = (smPut node serial others).length ∧
        t.out = s.out ++ [.mgmt k (.joinAck path (some node))] ∧ linked k path (some node) t ∧
        s.wordsBut t [rTREE_WORKERS 0, rTREE_LINKS 0, rIRQ_RAW (PageKind.treeCtl.addr 0)] ∧ Within [.regs, .agg, .tree, .out] s t)) ∧
    (∀ k serial path, k < 16 → serial < 2 ^ 64 → (∀ p ∈ path, p < 16) → path.length ≤ 2 → s.slotUp k = true → s.joined = true → Answers (.join k serial path) s fun t =>
      t = { s with out := s.out ++ [.mgmt up (.join serial (k :: path))] }) ∧
    (∀ k serial path, k < 16 → serial < 2 ^ 64 → (∀ p ∈ path, p < 16) → s.slotUp k = false ∨ 2 < path.length → Answers (.join k serial path) s fun t => t = s) ∧
    (∀ k node, k < 16 → s.treeRole = 4 → s.tree.joining = some k →
      (∀ n, node = some n → n < 2 ^ 16 → Answers (.joinAck k [] node) s fun t => t.treeRole = 3 ∧ t.level = n / 2 ^ 14 ∧ t.parentSlot = k ∧ t.nodeId = n ∧
        t.bit (rIRQ_RAW (PageKind.treeCtl.addr 0)) 0 = true ∧ t.tree = { s.tree with joining := none } ∧ s.wordsBut t [rTREE_STAT 0, rIRQ_RAW (PageKind.treeCtl.addr 0)] ∧ Within [.regs, .agg, .tree] s t) ∧
      (node = none → Answers (.joinAck k [] node) s fun t => t.treeRole = 5 ∧ t.tree = { s.tree with joining := none } ∧ s.wordsBut t [rTREE_STAT 0] ∧ Within [.regs, .agg, .tree] s t)) ∧
    (∀ k node, k < 16 → s.treeRole ≠ 4 ∨ s.tree.joining ≠ some k → Answers (.joinAck k [] node) s fun t => t = s) ∧
    (∀ k c rest node, k < 16 → c < 16 → (∀ p ∈ rest, p < 16) →
      (s.fromParent k = true → Answers (.joinAck k (c :: rest) node) s fun t => t.out = s.out ++ [.mgmt c (.joinAck rest node)] ∧ linked c rest node t ∧ t.tree = s.tree ∧
        s.wordsBut t [rTREE_LINKS 0, rTREE_STAT 0, rIRQ_RAW (PageKind.treeCtl.addr 0)] ∧ Within [.regs, .agg, .out] s t) ∧
      (s.fromParent k = false → Answers (.joinAck k (c :: rest) node) s fun t => t = s)) ∧
    (s.treeRole = 4 → Answers .treeLeave s fun t => t = { s with tree := { s.tree with joining := none } }) ∧
    (s.treeRole ≠ 4 → s.joined = false → Answers .treeLeave s fun t => t = s) ∧
    (s.joined = true → Answers .treeLeave s fun t => t.rd32 (rTREE_STAT 0) = 4 * 2 ^ 29 ∧ t.fget (rTREE_LINKS 0) fTREE_LINKS_CHILDREN = 0 ∧
      t.fget (rTREE_LINKS 0) fTREE_LINKS_EN = s.fget (rTREE_LINKS 0) fTREE_LINKS_EN ∧ t.bit (rIRQ_RAW (PageKind.treeCtl.addr 0)) 0 = true ∧
      t.tree = { s.tree with joining := none, mgrCmd := none, badStage := none } ∧ (t.mbox 4).cpls = [] ∧ (∀ k, k < 64 → t.rd32 (rMB_CMD 4 k) = 0) ∧ t.flag (rMB_STAT 4) fMB_STAT_BUSY = false ∧
      (∀ m, m ≠ 4 → t.mbox m = s.mbox m) ∧ t.tol.jobs = s.tol.jobs.map (fun j => if j.box = 4 then { j with orphan := true } else j) ∧
      t.tide.t1 = none ∧ t.tide.t2 = none ∧ t.tide.t3 = none ∧ t.tide.parentRoot = none ∧ t.tideState = (if s.tideState = 1 ∨ s.tideState = 2 then 3 else s.tideState) ∧
      (s.flag (rDBG_GRANT 4) fDBG_GRANT_VALID = true → t.rd32 (rDBG_GRANT 4) = 0) ∧ t.pins = s.pins ∧ t.mem = s.mem ∧ t.fab = s.fab ∧ t.ports = s.ports ∧ t.out = s.out)

/-- R305, R308–R310, Table TID-5: the exchange and FANOUT. SYNC goes to each joined child with t1; a worker stamps t2, answers DELAY_REQ and stamps t3; the parent returns t4. A CMD goes on to the children on the paths to
its targets, and a target that accepts commands and is not busy takes it in MBOX_MGR's command buffer as if it had been written and rung there; a target that could not hold the staged data answers COPY_FAILED. STAGE goes on alike, and a target
stores the data in its buffer. CPL and RETURN go up, and the manager records them with the target they come from. A message from a slot that is not the parent's, or not a child's, changes nothing. SYNC_SEND,
SYNC, DELAY_REQ, CMD, CPL, STAGE, RETURN. -/
def Obligations.TreeMessages : Prop :=
  ∀ (s : State), s.clocked = true →
    let me := s.nodeId
    let up := s.parentSlot
    let slots := List.range 16
    (Answers .syncSend s fun t => t = { s with out := s.out ++ (slots.filter s.fromChild).map (fun k => .mgmt k (.sync s.tide.now)) }) ∧
    (∀ k t1, k < 16 →
      (s.fromParent k = true → Answers (.sync k t1) s fun t => t = { s with tide := { s.tide with t1 := some t1, t2 := some s.tide.now, t3 := some s.tide.now }, out := s.out ++ [.mgmt k .delayReq] }) ∧
      (s.fromParent k = false → Answers (.sync k t1) s fun t => t = s)) ∧
    (∀ k, k < 16 →
      (s.fromChild k = true → Answers (.delayReq k) s fun t => t = { s with out := s.out ++ [.mgmt k (.delayRsp s.tide.now)] }) ∧
      (s.fromChild k = false → Answers (.delayReq k) s fun t => t = s)) ∧
    (∀ k fan node scope words ret, k < 16 →
      let all := scope = 1 ∧ inSubtree node me = true
      let through := slots.filter (fun c => s.fromChild c && (decide all || (inSubtree me node && decide (nodeLevel me < nodeLevel node) && decide (nodeSlot node (nodeLevel me + 1) = c))))
      let sent := s.out ++ through.map (fun c => .mgmt c (.cmd fan node scope words ret))
      (s.fromParent k = false → Answers (.cmd k fan node scope words ret) s fun t => t = s) ∧
      (s.fromParent k = true → node ≠ me → ¬ all → Answers (.cmd k fan node scope words ret) s fun t => t = { s with out := sent }) ∧
      (s.fromParent k = true → node = me ∨ all → s.tree.badStage ≠ some (fan / 4096) → s.flag (rMB_STAT 4) fMB_STAT_ACCEPTING = true → s.flag (rMB_STAT 4) fMB_STAT_BUSY = false →
        Answers (.cmd k fan node scope words ret) s fun t => (∀ i, i < 64 → t.rd32 (rMB_CMD 4 i) = listGet 0 words i % 2 ^ 32) ∧ t.flag (rMB_STAT 4) fMB_STAT_BUSY = true ∧
          t.tree = { s.tree with mgrCmd := some (fan, ret) } ∧ t.out = sent ∧ (∀ a, a / 4096 ≠ 12 → t.word a = s.word a) ∧ Within [.regs, .agg, .tree, .out] s t) ∧
      (s.fromParent k = true → node = me ∨ all → s.tree.badStage ≠ some (fan / 4096) → s.flag (rMB_STAT 4) fMB_STAT_ACCEPTING = false ∨ s.flag (rMB_STAT 4) fMB_STAT_BUSY = true →
        Answers (.cmd k fan node scope words ret) s fun t => t.tree = s.tree ∧ t.out = sent ∧ Within [.regs, .agg, .out] s t) ∧
      (s.fromParent k = true → node = me ∨ all → s.tree.badStage = some (fan / 4096) →
        let c := mkCpl (listGet 0 words 0 / 65536) (listGet 0 words 0) ccCOPY true 0 0
        Answers (.cmd k fan node scope words ret) s fun t => t = { s with out := sent ++ if s.dead then [] else [.mgmt up (.cpl fan me (s.rd64 (rTOL_SERIAL 0)) c.w0 c.w1 c.data)] })) ∧
    (∀ k fan node serial w0 w1 data, k < 16 →
      (s.fromChild k = false → Answers (.cpl k fan node serial w0 w1 data) s fun t => t = s) ∧
      (s.fromChild k = true → s.joined = true → Answers (.cpl k fan node serial w0 w1 data) s fun t => t = { s with out := s.out ++ [.mgmt up (.cpl fan node serial w0 w1 data)] }) ∧
      (s.fromChild k = true → s.joined = false → Answers (.cpl k fan node serial w0 w1 data) s fun t =>
        t.tree.fans.length = s.tree.fans.length ∧ (∀ (i : Nat) f, s.tree.fans[i]? = some f → ∃ g, t.tree.fans[i]? = some g ∧ (f.id ≠ fan / 4096 → g = f) ∧
          (f.id = fan / 4096 → g = { f with targets := g.targets } ∧ g.targets.length = f.targets.length ∧ ∀ (j : Nat) x, f.targets[j]? = some x →
            g.targets[j]? = some (if x.node = node ∧ x.entry = fan % 4096 ∧ x.cpl = none then { x with serial := serial, cpl := some (w0, w1, data) } else x))) ∧ Within [.tree] s t)) ∧
    (∀ k fan buffer off data targets, k < 16 → isBytes data = true →
      let below := fun (c : Nat) => targets.filter (fun n => inSubtree me n && decide (nodeLevel me < nodeLevel n) && decide (nodeSlot n (nodeLevel me + 1) = c))
      let sent := s.out ++ (slots.filter (fun c => s.fromChild c && !(below c).isEmpty)).map (fun c => .mgmt c (.stage fan buffer off data (below c)))
      let new := bytesAt (if off = 0 then [] else smGet [] s.tol.staged buffer) 0 off ++ data
      let fits := buffer < 16 ∧ new.length ≤ 2 ^ 28 ∧ s.stagedTotal buffer new.length ≤ 2 ^ 30
      (s.fromParent k = false → Answers (.stage k fan buffer off data targets) s fun t => t = s) ∧
      (s.fromParent k = true → targets.contains me = false → Answers (.stage k fan buffer off data targets) s fun t => t = { s with out := sent }) ∧
      (s.fromParent k = true → targets.contains me = true → fits → Answers (.stage k fan buffer off data targets) s fun t =>
        t = { s with tol := { s.tol with staged := smSet [] s.tol.staged buffer new }, out := sent }) ∧
      (s.fromParent k = true → targets.contains me = true → ¬ fits → Answers (.stage k fan buffer off data targets) s fun t =>
        t = { s with tree := { s.tree with badStage := some (fan / 4096) }, out := sent })) ∧
    (∀ k fan node off data, k < 16 → isBytes data = true →
      (s.fromChild k = false → Answers (.ret k fan node off data) s fun t => t = s) ∧
      (s.fromChild k = true → s.joined = true → Answers (.ret k fan node off data) s fun t => t = { s with out := s.out ++ [.mgmt up (.ret fan node off data)] }) ∧
      (s.fromChild k = true → s.joined = false → Answers (.ret k fan node off data) s fun t =>
        t.tree.fans.length = s.tree.fans.length ∧ (∀ (i : Nat) f, s.tree.fans[i]? = some f → ∃ g, t.tree.fans[i]? = some g ∧ (f.id ≠ fan / 4096 → g = f) ∧
          (f.id = fan / 4096 → g = { f with targets := g.targets } ∧ g.targets.length = f.targets.length ∧ ∀ (j : Nat) x, f.targets[j]? = some x →
            g.targets[j]? = some (if x.node = node ∧ x.entry = fan % 4096 then { x with back := bytesAt x.back 0 off ++ data ++ x.back.drop (off + data.length) } else x))) ∧ Within [.tree] s t))

/-! ### The Tally -/

/-- R313–R316, Table TID-8: the Tally. At a checkpoint every leaf's two copies are read and kept as its checkpoint value, and the nodes and roots are those recomputed from the leaves. A copy that fails parity is rewritten from the other and counted in
COPY_FIX; a leaf whose count is lost goes on from its checkpoint value, counted in UNCERTAIN with IRQ_RAW[0]; an uncorrectable node or root is counted in SUSPECT with IRQ_RAW[1], and flagged in the stall's open interval. When Tide
reaches the end of the open epoch, every leaf restarts from 0, each open interval yields one record for that epoch and continues, and TALLY_EPOCH names the newest closed epoch, with IRQ_RAW[2]. TALLY_EPOCH_CLOSE, TALLY_CHECKPOINT. -/
def Obligations.TallyCounts : Prop :=
  ∀ (s : State), s.clocked = true →
    let page := PageKind.tallyCtl.addr 0
    let kept := fun (l : Leaf) => { l with ckpt := l.a }
    let words := [rTALLY_ERR 0, rTALLY_LAST 0, rIRQ_RAW page]
    let clean := fun (t : State) => t.recomputeNodes = t ∧ t.tally.ckptAt = s.tide.ticks ∧ t.tally.records = s.tally.records ∧ t.tally.epoch = s.tally.epoch ∧ s.wordsBut t words ∧ Within [.regs, .agg, .tally] s t
    let leaves := fun (m : SMap Leaf) (t : State) => t.tally.leaves = smMap Leaf.zero (fun _ l => kept l) m
    let with_ := fun (k : Nat) (l : Leaf) => leaves (smSet Leaf.zero s.tally.leaves k l)
    let err := fun (f : Fld) (t : State) => t.fget (rTALLY_ERR 0) f
    (Answers (.checkpoint [] []) s fun t => leaves s.tally.leaves t ∧ t.tally.opened = s.tally.opened ∧ clean t ∧ s.wordsBut t []) ∧
    (∀ kind unit n, kind < 8 → unit < 4096 → n < 32 →
      let k := leafKey kind unit n
      let l := s.leaf k
      (Answers (.checkpoint [.copyA kind unit n] []) s fun t => with_ k ⟨l.b, l.b, l.ckpt⟩ t ∧ err fTALLY_ERR_COPY_FIX t = satInc 16 (err fTALLY_ERR_COPY_FIX s) ∧ clean t) ∧
      (Answers (.checkpoint [.copyB kind unit n] []) s fun t => with_ k ⟨l.a, l.a, l.ckpt⟩ t ∧ err fTALLY_ERR_COPY_FIX t = satInc 16 (err fTALLY_ERR_COPY_FIX s) ∧ clean t) ∧
      (Answers (.checkpoint [.both kind unit n] []) s fun t => with_ k ⟨l.ckpt, l.ckpt, l.ckpt⟩ t ∧ err fTALLY_ERR_UNCERTAIN t = satInc 8 (err fTALLY_ERR_UNCERTAIN s) ∧ t.bit (rIRQ_RAW page) 0 = true ∧ clean t) ∧
      (∀ v, v % 2 ^ 48 ≠ l.a → Answers (.checkpoint [.bReads kind unit n v] []) s fun t => with_ k ⟨l.ckpt, l.ckpt, l.ckpt⟩ t ∧ err fTALLY_ERR_UNCERTAIN t = satInc 8 (err fTALLY_ERR_UNCERTAIN s) ∧
        t.bit (rIRQ_RAW page) 0 = true ∧ clean t) ∧
      (∀ v, v % 2 ^ 48 = l.a → Answers (.checkpoint [.bReads kind unit n v] []) s fun t => leaves s.tally.leaves t ∧ clean t ∧ s.wordsBut t [])) ∧
    (∀ node n, node < 10 → n < 32 → Answers (.checkpoint [] [(node, n)]) s fun t => leaves s.tally.leaves t ∧ err fTALLY_ERR_SUSPECT t = satInc 8 (err fTALLY_ERR_SUSPECT s) ∧
      t.bit (rIRQ_RAW page) 1 = true ∧ (∀ i, s.openInterval n = some i → t.openInterval n = some { i with flags := Nat.lor i.flags 2 }) ∧ clean t) ∧
    (s.epochDue = false → Answers .epochClose s fun t => t = s) ∧
    (s.epochDue = true → Answers .epochClose s fun t =>
      let e := s.tide.now / 2 ^ 30
      let stop := (s.tally.epoch + 1) * 2 ^ 30
      t.tally.epoch = e ∧ t.rd64 (rTALLY_EPOCH 0) = (e - 1) % 2 ^ 64 ∧ t.bit (rIRQ_RAW page) 2 = true ∧ t.tally.leaves = [] ∧ t.tally.nodes = [] ∧
      t.tally.opened = s.tally.opened.map (fun x => (x.1, { x.2 with start := e * 2 ^ 30, tick := s.tide.ticks, carried := true, flags := 4 * b2n s.rootUnlocked, bound := [0, 0, 0, 0, 0] })) ∧
      (s.dead = false → e - s.tally.epoch ≤ 64 → 320 * (s.tally.records.length + s.tally.opened.length) ≤ 2 ^ 28 → ∀ n i, s.openInterval n = some i →
        ∃ r ∈ t.tally.records, r.stall = n ∧ r.epoch = s.tally.epoch ∧ r.interval = i.number ∧ r.tenant = i.tenant ∧ r.start = i.start ∧ r.stop = stop ∧ r.bound = i.bound ∧ r.flags.testBit 7 = true ∧
          r.ticks = s.tide.ticks - i.tick) ∧
      t.tide = s.tide ∧ s.wordsBut t [rTALLY_EPOCH 0, rTALLY_EPOCH 0 + 4, rIRQ_RAW page] ∧ Within [.regs, .agg, .tally, .fresh] s t)

/-! ### The machine as a whole -/

/-- The block's queue: step, on a state with a command at the front of its queue, is the command's effect on the state with the queue's rest. (DESIGN CHOICE, assumption 1: the spec gives no queue of commands.) -/
def Obligations.StepRunsTheFrontCommand : Prop :=
  ∀ (c : Instr) (rest : List Instr) (s : State), step { s with pending := c :: rest } = exec c { s with pending := rest }

/-- The model's choice (assumption 1): with no command waiting, step answers a next state, a nanosecond of the block's own clocks later, in which no command waits, and which touches neither the fabric's flip-flops,
the packets, the memory, the swaps, Tolmor, the fuses, the pins nor the ports. -/
def Obligations.EmptyQueuePassesTime : Prop :=
  ∀ (s : State), s.pending = [] → ∃ t, step s = .next t ∧ t.pending = [] ∧ Within [.regs, .agg, .eddies, .tally, .tide, .lanes, .dbg, .out] s t

/-- The model's choices of a start (assumptions 1, 2 and 7): the state right after reset has no command waiting, has shown nothing, has used no free value, holds no reservation or map entry that reads as its default, and is
in the canonical form. -/
def Obligations.ResetIsCanonical : Prop :=
  State.reset.canonical = true ∧ State.reset.pending = [] ∧ State.reset.out = [] ∧ State.reset.fresh = 0

/-- Every command answers a next state, from every state and with every operand, and touches only the parts of the state that Instr.touches names for it: no command ends in a fault or a refusal. -/
def Obligations.EveryCommandAnswers : Prop :=
  ∀ (c : Instr) (s : State), ∃ t, exec c s = .next t ∧ Within c.touches s t

/-- A command whose operands name nothing that exists changes nothing. (DESIGN CHOICE, assumption 3: the spec names no such command.) -/
def Obligations.IllFormedChangesNothing : Prop :=
  ∀ (c : Instr) (s : State), c.wf = false → exec c s = .next s

/-- The model's form of its data (DESIGN CHOICE, assumption 7): every step, from every state in the canonical form, leads to a state in the canonical form; equal contents are then equal data. -/
def Obligations.StepKeepsCanonicalForm : Prop :=
  ∀ (s t : State), s.canonical = true → step s = .next t → t.canonical = true

/-- Table TMC-2 and the model's queue and outputs (assumptions 1, 8 and 12): every step takes the front command and no other from the queue, takes back nothing that has been shown, uses no free value twice, and leaves every programmed
fuse programmed: the OTP's administrator port and owner root stay, and no bit of a signer's HASH, VALID or REVOKED falls. -/
def Obligations.StepKeepsWhatIsDone : Prop :=
  ∀ (s t : State), step s = .next t → t.pending = s.pending.tail ∧ s.out <+: t.out ∧ s.fresh ≤ t.fresh ∧ s.otp.grows t.otp
end

