-- ==== Sys2Proof/Laws/Sparse.lean ====
section
/-! SUPPORT. Laws of sparse maps: a read after a write, and that every operation keeps the canonical form. -/

namespace Sys2Proof.Machine

variable {α : Type}

/-! ### Reads after writes -/

theorem smGet_smPut (d v : α) (m : SMap α) (k j : Nat) : smGet d (smPut k v m) j = if j = k then v else smGet d m j := by
  induction m with
  | nil => by_cases h : k = j <;> simp [smPut, smGet, h, eq_comm]
  | cons e m ih =>
    obtain ⟨i, w⟩ := e
    unfold smPut
    split
    · by_cases h : k = j <;> simp [smGet, h, eq_comm]
    · split
      · rename_i h1 h2
        subst h2
        by_cases h : k = j <;> simp [smGet, h, eq_comm]
      · rename_i h1 h2
        simp only [smGet, ih]
        by_cases h3 : i = j
        · have : ¬ j = k := by omega
          simp [h3, this]
        · simp [h3]

theorem smGet_smDel (d : α) (m : SMap α) (k j : Nat) : smGet d (smDel k m) j = if j = k then d else smGet d m j := by
  induction m with
  | nil => simp [smDel, smGet]
  | cons e m ih =>
    obtain ⟨i, w⟩ := e
    unfold smDel
    split
    · rename_i h
      subst h
      rw [ih]
      by_cases h3 : j = i
      · simp [h3]
      · simp [smGet, h3, eq_comm]
    · rename_i h
      simp only [smGet, ih]
      by_cases h3 : i = j
      · have : ¬ j = k := by omega
        simp [h3, this]
      · simp [h3]

/-- A read after a write, whatever default the read assumes. -/
theorem smGet_smSet_ne [DecidableEq α] (d d' v : α) (m : SMap α) {k j : Nat} (h : j ≠ k) : smGet d' (smSet d m k v) j = smGet d' m j := by
  unfold smSet
  split <;> simp [smGet_smPut, smGet_smDel, h]

@[simp] theorem smGet_smSet_same [DecidableEq α] (d v : α) (m : SMap α) (k : Nat) : smGet d (smSet d m k v) k = v := by
  unfold smSet
  split
  · rename_i h; simp [smGet_smDel, h]
  · simp [smGet_smPut]

theorem smGet_smSet [DecidableEq α] (d v : α) (m : SMap α) (k j : Nat) : smGet d (smSet d m k v) j = if j = k then v else smGet d m j := by
  split
  · rename_i h; subst h; simp
  · rename_i h; exact smGet_smSet_ne d d v m h

theorem smGet_smClear (d : α) (p : Nat → Bool) (m : SMap α) (j : Nat) : smGet d (smClear p m) j = if p j then d else smGet d m j := by
  induction m with
  | nil => simp [smClear, smGet]
  | cons e m ih =>
    obtain ⟨i, w⟩ := e
    unfold smClear
    split
    · rename_i h
      rw [ih]
      by_cases h3 : i = j
      · subst h3; simp [h]
      · simp [smGet, h3]
    · rename_i h
      simp only [smGet, ih]
      by_cases h3 : i = j
      · subst h3; simp [h]
      · simp [h3]

/-! ### The canonical form -/

theorem smRising_weaken {m : SMap α} {lo lo' : Option Nat} (h : smRising lo m = true) (hl : ∀ l, lo' = some l → ∃ k, lo = some k ∧ l ≤ k) :
    smRising lo' m = true := by
  cases m with
  | nil => rfl
  | cons e m =>
    obtain ⟨i, w⟩ := e
    simp only [smRising, Bool.and_eq_true] at h ⊢
    refine ⟨?_, h.2⟩
    cases hlo' : lo' with
    | none => rfl
    | some l =>
      obtain ⟨k, hk, hlk⟩ := hl l hlo'
      have h1 := h.1
      rw [hk] at h1
      simp only [decide_eq_true_eq] at h1 ⊢
      omega

theorem smRising_tail {m : SMap α} {lo : Option Nat} {e : Nat × α} (h : smRising lo (e :: m) = true) : smRising lo m = true := by
  obtain ⟨i, w⟩ := e
  simp only [smRising, Bool.and_eq_true] at h
  refine smRising_weaken h.2 (fun l hl => ⟨i, rfl, ?_⟩)
  subst hl
  have := h.1
  simp only [decide_eq_true_eq] at this
  omega

theorem smRising_smPut (k : Nat) (v : α) (m : SMap α) (lo : Option Nat) (h : smRising lo m = true) (hl : ∀ l, lo = some l → l < k) :
    smRising lo (smPut k v m) = true := by
  induction m generalizing lo with
  | nil =>
    cases lo with
    | none => rfl
    | some l => simp [smPut, smRising, hl l rfl]
  | cons e m ih =>
    obtain ⟨i, w⟩ := e
    have hb : smRising lo [(k, v)] = true := by
      cases lo with
      | none => rfl
      | some l => simp [smRising, hl l rfl]
    unfold smPut
    split
    · rename_i hk
      simp only [smRising, Bool.and_eq_true] at h hb ⊢
      exact ⟨hb.1, by simpa using hk, h.2⟩
    · split
      · rename_i hk
        subst hk
        simpa [smRising] using h
      · simp only [smRising, Bool.and_eq_true] at h ⊢
        refine ⟨h.1, ih (some i) h.2 ?_⟩
        rintro l hl'
        cases hl'
        omega

theorem smRising_smDel (k : Nat) (m : SMap α) (lo : Option Nat) (h : smRising lo m = true) : smRising lo (smDel k m) = true := by
  induction m generalizing lo with
  | nil => simpa [smDel] using h
  | cons e m ih =>
    obtain ⟨i, w⟩ := e
    unfold smDel
    split
    · exact ih lo (smRising_tail h)
    · simp only [smRising, Bool.and_eq_true] at h ⊢
      exact ⟨h.1, ih (some i) h.2⟩

theorem smRising_smClear (p : Nat → Bool) (m : SMap α) (lo : Option Nat) (h : smRising lo m = true) : smRising lo (smClear p m) = true := by
  induction m generalizing lo with
  | nil => simpa [smClear] using h
  | cons e m ih =>
    obtain ⟨i, w⟩ := e
    unfold smClear
    split
    · exact ih lo (smRising_tail h)
    · simp only [smRising, Bool.and_eq_true] at h ⊢
      exact ⟨h.1, ih (some i) h.2⟩

theorem smRising_smMap [DecidableEq α] (d : α) (f : Nat → α → α) (m : SMap α) (lo : Option Nat) (h : smRising lo m = true) :
    smRising lo (smMap d f m) = true := by
  induction m generalizing lo with
  | nil => simpa [smMap] using h
  | cons e m ih =>
    obtain ⟨i, w⟩ := e
    unfold smMap
    split
    · exact ih lo (smRising_tail h)
    · simp only [smRising, Bool.and_eq_true] at h ⊢
      exact ⟨h.1, ih (some i) h.2⟩

theorem mem_smPut {k : Nat} {v : α} {m : SMap α} {e : Nat × α} (h : e ∈ smPut k v m) : e = (k, v) ∨ e ∈ m := by
  induction m with
  | nil => simpa [smPut] using h
  | cons x m ih =>
    obtain ⟨i, w⟩ := x
    unfold smPut at h
    split at h
    · simpa using h
    · split at h
      · rcases List.mem_cons.mp h with h | h
        · exact .inl h
        · exact .inr (List.mem_cons_of_mem _ h)
      · rcases List.mem_cons.mp h with h | h
        · exact .inr (by simp [h])
        · rcases ih h with h | h
          · exact .inl h
          · exact .inr (List.mem_cons_of_mem _ h)

theorem mem_smDel {k : Nat} {m : SMap α} {e : Nat × α} (h : e ∈ smDel k m) : e ∈ m := by
  induction m with
  | nil => simp [smDel] at h
  | cons x m ih =>
    obtain ⟨i, w⟩ := x
    unfold smDel at h
    split at h
    · exact List.mem_cons_of_mem _ (ih h)
    · rcases List.mem_cons.mp h with h | h
      · simp [h]
      · exact List.mem_cons_of_mem _ (ih h)

theorem mem_smClear {p : Nat → Bool} {m : SMap α} {e : Nat × α} (h : e ∈ smClear p m) : e ∈ m := by
  induction m with
  | nil => simp [smClear] at h
  | cons x m ih =>
    obtain ⟨i, w⟩ := x
    unfold smClear at h
    split at h
    · exact List.mem_cons_of_mem _ (ih h)
    · rcases List.mem_cons.mp h with h | h
      · simp [h]
      · exact List.mem_cons_of_mem _ (ih h)

theorem mem_smMap [DecidableEq α] {d : α} {f : Nat → α → α} {m : SMap α} {e : Nat × α} (h : e ∈ smMap d f m) : e.2 ≠ d := by
  induction m with
  | nil => simp [smMap] at h
  | cons x m ih =>
    obtain ⟨i, w⟩ := x
    unfold smMap at h
    split at h
    · exact ih h
    · rename_i hd
      rcases List.mem_cons.mp h with h | h
      · simpa [h] using hd
      · exact ih h

section
variable [DecidableEq α]

theorem smWf_nil (d : Nat → α) : smWf d ([] : SMap α) = true := rfl

theorem smWf_iff (d : Nat → α) (m : SMap α) : smWf d m = true ↔ smRising none m = true ∧ ∀ e ∈ m, e.2 ≠ d e.1 := by
  simp [smWf]

/-- Writing at a key keeps the canonical form. -/
theorem smWf_smSet (d : Nat → α) (m : SMap α) (k : Nat) (v : α) (h : smWf d m = true) : smWf d (smSet (d k) m k v) = true := by
  rw [smWf_iff] at h ⊢
  unfold smSet
  split
  · exact ⟨smRising_smDel k m none h.1, fun e he => h.2 e (mem_smDel he)⟩
  · rename_i hv
    refine ⟨smRising_smPut k v m none h.1 (by simp), fun e he => ?_⟩
    rcases mem_smPut he with he | he
    · subst he; exact hv
    · exact h.2 e he

theorem smWf_smDel (d : Nat → α) (m : SMap α) (k : Nat) (h : smWf d m = true) : smWf d (smDel k m) = true := by
  rw [smWf_iff] at h ⊢
  exact ⟨smRising_smDel k m none h.1, fun e he => h.2 e (mem_smDel he)⟩

theorem smWf_smClear (d : Nat → α) (p : Nat → Bool) (m : SMap α) (h : smWf d m = true) : smWf d (smClear p m) = true := by
  rw [smWf_iff] at h ⊢
  exact ⟨smRising_smClear p m none h.1, fun e he => h.2 e (mem_smClear he)⟩

theorem smWf_smMap (d : α) (f : Nat → α → α) (m : SMap α) (h : smWf (fun _ => d) m = true) : smWf (fun _ => d) (smMap d f m) = true := by
  rw [smWf_iff] at h ⊢
  exact ⟨smRising_smMap d f m none h.1, fun e he => mem_smMap he⟩

end

end Sys2Proof.Machine
end

