-- ==== Sys2Proof/Laws/Eddies.lean ====
section
/-! SUPPORT. What issues in an engine keeps the canonical form of the engines' map. -/

namespace Sys2Proof.Machine

/-- The engines' map is in its canonical form. -/
abbrev EddiesWf (es : SMap Eddy) : Prop := smWf (fun _ => Eddy.reset) es = true

theorem eddyPut_wf {es : SMap Eddy} (n : Nat) (e : Eddy) (h : EddiesWf es) : EddiesWf (eddyPut es n e) := smWf_smSet _ _ _ _ h

theorem drainPosted_wf {es : SMap Eddy} (n : Nat) (l : List Posted) (h : EddiesWf es) : EddiesWf (drainPosted n es l).1 := by
  induction l generalizing es with
  | nil => exact h
  | cons p ps ih =>
    simp only [drainPosted]
    split
    · exact ih (eddyPut_wf _ _ h)
    · exact h

theorem settlePosted_wf {es : SMap Eddy} (n : Nat) (h : EddiesWf es) : EddiesWf (settlePosted es n) :=
  eddyPut_wf _ _ (drainPosted_wf _ _ h)

theorem releaseLock_wf {es : SMap Eddy} (n : Nat) (h : EddiesWf es) : EddiesWf (releaseLock es n) := by
  unfold releaseLock
  dsimp only
  split
  · exact eddyPut_wf _ _ h
  · exact eddyPut_wf _ _ (eddyPut_wf _ _ h)

theorem faultEngine_wf {es : SMap Eddy} (n : Nat) (h : EddiesWf es) : EddiesWf (faultEngine es n) := eddyPut_wf _ _ (releaseLock_wf _ h)

theorem runL_wf {es : SMap Eddy} (old : SMap Eddy) (n : Nat) (env : IssueEnv) (i : LInsn) (h : EddiesWf es) : EddiesWf (runL old n env es i) := by
  unfold runL
  cases i with
  | nop => exact h
  | mem op rd base pi off =>
    dsimp only
    split
    · exact h
    · exact eddyPut_wf _ _ h
  | sget vd half =>
    dsimp only
    split
    · exact h
    · exact eddyPut_wf _ _ h
  | sput vd half => exact eddyPut_wf _ _ h
  | xreq base => exact eddyPut_wf _ _ h
  | xwait _ => exact h

theorem runCascade_wf {es : SMap Eddy} (old : SMap Eddy) (n : Nat) (i : MInsn) (h : EddiesWf es) : EddiesWf (runCascade old n es i) := by
  unfold runCascade
  split
  · exact eddyPut_wf _ _ h
  · exact eddyPut_wf _ _ h
  · exact h

theorem issueBundle_wf {es : SMap Eddy} (n : Nat) (env : IssueEnv) (b : BitVec 128) (h : EddiesWf es) : EddiesWf (issueBundle es n env b) := by
  unfold issueBundle
  extract_lets e d gS iS iL iV iM head rS regs1 es1 es2 es3
  have h3 : EddiesWf es3 := runCascade_wf _ _ _ (runL_wf _ _ _ _ (eddyPut_wf _ _ h))
  clear_value es3 iS
  split
  · split
    · exact eddyPut_wf _ _ h3
    · exact eddyPut_wf _ _ (eddyPut_wf _ _ h3)
  · exact eddyPut_wf _ _ h3

theorem issueCycle_wf {es : SMap Eddy} (n : Nat) (env : IssueEnv) (b : Bool) (h : EddiesWf es) : EddiesWf (issueCycle es n env b).1 := by
  have h1 := settlePosted_wf n h
  unfold issueCycle
  dsimp only
  split
  · exact h
  · split
    · exact eddyPut_wf _ _ h1
    · split
      · exact faultEngine_wf _ (eddyPut_wf _ _ h1)
      · split
        · exact faultEngine_wf _ (eddyPut_wf _ _ h1)
        · split
          · exact eddyPut_wf _ _ h1
          · exact eddyPut_wf _ _ (issueBundle_wf _ _ _ h1)

end Sys2Proof.Machine
end

