-- ==== Sys2Proof/Laws/Within.lean ====
section
/-! SUPPORT. Laws of `Evolves` and `Within`, and of the operations that write a part of the state themselves; every other operation is put together
from these. -/

namespace Sys2Proof.Machine

/-! ### The two relations -/

theorem Signer.grows_refl (a : Signer) : a.grows a := ⟨fun _ h => h, fun h => h, fun h => h⟩

theorem Otp.grows_refl (a : Otp) : a.grows a := ⟨rfl, rfl, fun _ => Signer.grows_refl _⟩

theorem Otp.grows_trans {a b c : Otp} (h1 : a.grows b) (h2 : b.grows c) : a.grows c :=
  ⟨h2.1.trans h1.1, h2.2.1.trans h1.2.1, fun k =>
    ⟨fun j h => (h2.2.2 k).1 j ((h1.2.2 k).1 j h), fun h => (h2.2.2 k).2.1 ((h1.2.2 k).2.1 h), fun h => (h2.2.2 k).2.2 ((h1.2.2 k).2.2 h)⟩⟩

theorem Evolves.refl (s : State) : Evolves s s := ⟨rfl, List.prefix_refl _, Nat.le_refl _, Otp.grows_refl _, fun h => h⟩

theorem Evolves.trans {s t u : State} (h1 : Evolves s t) (h2 : Evolves t u) : Evolves s u :=
  ⟨h2.queue.trans h1.queue, h1.shown.trans h2.shown, Nat.le_trans h1.used h2.used, Otp.grows_trans h1.fused h2.fused, fun h => h2.form (h1.form h)⟩

theorem StatePart.same_refl (p : StatePart) (s : State) : p.same s s := by cases p <;> rfl

theorem StatePart.same_trans {p : StatePart} {s t u : State} (h1 : p.same s t) (h2 : p.same t u) : p.same s u := by
  cases p <;> exact Eq.trans h2 h1

theorem Within.refl (F : List StatePart) (s : State) : Within F s s := ⟨Evolves.refl s, fun p _ => p.same_refl s⟩

/-- A change within `F`, then one within fewer parts. -/
theorem Within.via {F G : List StatePart} {s t u : State} (h : Within G t u) (hsub : G.all F.contains = true) (h0 : Within F s t) : Within F s u := by
  refine ⟨h0.1.trans h.1, fun p hp => StatePart.same_trans (h0.2 p hp) (h.2 p ?_)⟩
  cases hg : G.contains p with
  | false => rfl
  | true =>
    have hg' : p ∈ G := by simpa using hg
    have := (List.all_eq_true.mp hsub) p hg'
    simp_all

theorem Within.mono {F G : List StatePart} {s t : State} (h : Within G s t) (hsub : G.all F.contains = true) : Within F s t := h.via hsub (Within.refl F s)

theorem Within.trans {F : List StatePart} {s t u : State} (h1 : Within F s t) (h2 : Within F t u) : Within F s u :=
  ⟨h1.1.trans h2.1, fun p hp => StatePart.same_trans (h1.2 p hp) (h2.2 p hp)⟩

/-- A change of a state's own parts: the queue, the fuses, and what was shown stay. -/
theorem Within.prim {F : List StatePart} {s t u : State} (h0 : Within F s t) (hq : u.pending = t.pending) (ho : u.out = t.out) (hf : u.fresh = t.fresh)
    (hotp : u.otp = t.otp) (hc : t.canonical = true → u.canonical = true) (hp : ∀ p, F.contains p = false → p.same t u) : Within F s u :=
  Within.trans h0 ⟨⟨hq, by rw [ho]; try exact List.prefix_refl _, by rw [hf]; try exact Nat.le_refl _, by rw [hotp]; exact Otp.grows_refl _, hc⟩, hp⟩

/-- A change of parts that hold no map of `State.canonical`. -/
theorem Within.upd {F : List StatePart} {s t u : State} (hq : u.pending = t.pending) (h0 : Within F s t) (ho : u.out = t.out) (hf : u.fresh = t.fresh)
    (hotp : u.otp = t.otp) (hc : u.canonical = t.canonical) (hp : ∀ p, F.contains p = false → p.same t u) : Within F s u :=
  Within.prim h0 hq ho hf hotp (fun h => hc.trans h) hp

/-- A fold whose every step is within `F`. -/
theorem Within.foldl {F : List StatePart} {s t : State} {α : Type} {f : State → α → State} {l : List α} (h : ∀ u x, Within F u (f u x)) (h0 : Within F s t) :
    Within F s (l.foldl f t) := by
  induction l generalizing t with
  | nil => exact h0
  | cons x l ih => exact ih (h0.trans (h t x))

/-- A fold that carries a state and something more. -/
theorem Within.foldlFst {F : List StatePart} {s : State} {α β : Type} {f : State × β → α → State × β} {l : List α} {p : State × β}
    (h : ∀ q x, Within F s q.1 → Within F s (f q x).1) (h0 : Within F s p.1) : Within F s (l.foldl f p).1 := by
  induction l generalizing p with
  | nil => exact h0
  | cons x l ih => exact ih (h p x h0)

theorem Within.foldlSnd {F : List StatePart} {s : State} {α β : Type} {f : β × State → α → β × State} {l : List α} {p : β × State}
    (h : ∀ q x, Within F s q.2 → Within F s (f q x).2) (h0 : Within F s p.2) : Within F s (l.foldl f p).2 := by
  induction l generalizing p with
  | nil => exact h0
  | cons x l ih => exact ih (h p x h0)

/-! ### States inside results -/

/-- The state that a Tolmor command's end leaves. -/
def CmdEnd.state : CmdEnd → State
  | .now _ _ s => s
  | .later _ _ s => s

/-- The state of a result, or `s` where there is none. -/
def sumState (s : State) : Nat ⊕ State → State
  | .inl _ => s
  | .inr t => t

/-- The state of a result, or `s` where there is none. -/
def optFst {α : Type} (s : State) : Option (State × α) → State
  | none => s
  | some x => x.1

/-- The state of a result, or `s` where there is none. -/
def optThird {α β : Type} (s : State) : Option (α × β × State) → State
  | none => s
  | some x => x.2.2

section
variable {F : List StatePart} {s t : State} {α β : Type}

theorem Within.now {a b : Nat} (h : Within F s t) : Within F s (CmdEnd.now a b t).state := h

theorem Within.later {k : JobKind} {r : Option (Nat × Nat)} (h : Within F s t) : Within F s (CmdEnd.later k r t).state := h

theorem Within.inl {c : Nat} : Within F s (sumState s (.inl c)) := Within.refl F s

theorem Within.inr (h : Within F s t) : Within F s (sumState s (.inr t)) := h

theorem Within.ofInr {x : Nat ⊕ State} (h : Within F s (sumState s x)) (e : x = .inr t) : Within F s t := by subst e; exact h

theorem Within.ofFst {o : State × α} {x : α} (h : Within F s o.1) (e : o = (t, x)) : Within F s t := by subst e; exact h

theorem Within.ofNow {o : CmdEnd} {a b : Nat} (h : Within F s o.state) (e : o = .now a b t) : Within F s t := by subst e; exact h

theorem Within.ofLater {o : CmdEnd} {k : JobKind} {r : Option (Nat × Nat)} (h : Within F s o.state) (e : o = .later k r t) : Within F s t := by
  subst e; exact h

theorem Within.none1 : Within F s (optFst s (none : Option (State × α))) := Within.refl F s

theorem Within.some1 {x : α} (h : Within F s t) : Within F s (optFst s (some (t, x))) := h

theorem Within.ofSome1 {o : Option (State × α)} {x : α} (h : Within F s (optFst s o)) (e : o = some (t, x)) : Within F s t := by subst e; exact h

theorem Within.none3 : Within F s (optThird s (none : Option (α × β × State))) := Within.refl F s

theorem Within.some3 {x : α} {y : β} (h : Within F s t) : Within F s (optThird s (some (x, y, t))) := h

theorem Within.ofSome3 {o : Option (α × β × State)} {x : α} {y : β} (h : Within F s (optThird s o)) (e : o = some (x, y, t)) : Within F s t := by
  subst e; exact h

end

/-! ### The canonical form, part by part -/

theorem State.canonical_iff (s : State) : s.canonical = true ↔
    smWf regReset s.regs = true ∧ smWf (fun _ => ViewBuf.empty) s.views = true ∧ smWf (fun _ => Eddy.reset) s.eddies = true ∧
    smWf (fun _ => Stall.free) s.stalls = true ∧ smWf (fun _ => PinCell.reset) s.pins = true ∧ smWf (fun _ => LaneSt.reset) s.lanes = true ∧
    smWf (fun _ => HLine.zero) s.mem.lines = true ∧ smWf (fun _ => KeySlot.empty) s.mem.slots = true ∧
    smWf (fun _ => PortWork.idle) s.mem.work = true ∧ smWf (fun _ => Pkt.none) s.mil.pkts = true ∧ smWf (fun _ => Ep.reset) s.mil.eps = true ∧
    smWf (fun _ => OutChan.reset) s.mil.chans = true := by
  simp only [State.canonical, Bool.and_eq_true, and_assoc]

/-! ### Operations that write a part themselves -/

theorem State.resetPage_within (s : State) (p : Nat) (keep : Nat → Bool) : Within [.regs] s (s.resetPage p keep) := by
  refine Within.prim (Within.refl _ s) rfl rfl rfl rfl (fun h => ?_) (fun p hp => ?_)
  · rw [State.canonical_iff] at h ⊢; simp_all [State.resetPage, smWf_smClear]
  · cases p <;> first | rfl | exact absurd hp (by decide)

theorem State.setEddy_within (s : State) (n : Nat) (e : Eddy) : Within [.eddies] s (s.setEddy n e) := by
  refine Within.prim (Within.refl _ s) rfl rfl rfl rfl (fun h => ?_) (fun p hp => ?_)
  · rw [State.canonical_iff] at h ⊢; simp_all [State.setEddy, smWf_smSet]
  · cases p <;> first | rfl | exact absurd hp (by decide)

theorem State.setStall_within (s : State) (n : Nat) (x : Stall) : Within [.stalls] s (s.setStall n x) := by
  refine Within.prim (Within.refl _ s) rfl rfl rfl rfl (fun h => ?_) (fun p hp => ?_)
  · rw [State.canonical_iff] at h ⊢; simp_all [State.setStall, smWf_smSet]
  · cases p <;> first | rfl | exact absurd hp (by decide)

theorem State.setEp_within (s : State) (n : Nat) (x : Ep) : Within [.mil] s (s.setEp n x) := by
  refine Within.prim (Within.refl _ s) rfl rfl rfl rfl (fun h => ?_) (fun p hp => ?_)
  · rw [State.canonical_iff] at h ⊢; simp_all [State.setEp, smWf_smSet]
  · cases p <;> first | rfl | exact absurd hp (by decide)

theorem State.setPkt_within (s : State) (n : Nat) (x : Pkt) : Within [.mil] s (s.setPkt n x) := by
  refine Within.prim (Within.refl _ s) rfl rfl rfl rfl (fun h => ?_) (fun p hp => ?_)
  · rw [State.canonical_iff] at h ⊢; simp_all [State.setPkt, smWf_smSet]
  · cases p <;> first | rfl | exact absurd hp (by decide)

theorem State.putTrack_within (s : State) (e tag : Nat) (x : Track) : Within [.mil] s (s.putTrack e tag x) := by
  refine Within.upd (t := s) rfl (Within.refl _ s) rfl rfl rfl rfl (fun p hp => ?_)
  cases p <;> first | rfl | exact absurd hp (by decide)

theorem State.dropTrack_within (s : State) (e tag : Nat) : Within [.mil] s (s.dropTrack e tag) := by
  refine Within.upd (t := s) rfl (Within.refl _ s) rfl rfl rfl rfl (fun p hp => ?_)
  cases p <;> first | rfl | exact absurd hp (by decide)

theorem State.setChan_within (s : State) (rt d ch : Nat) (x : OutChan) : Within [.mil] s (s.setChan rt d ch x) := by
  refine Within.prim (Within.refl _ s) rfl rfl rfl rfl (fun h => ?_) (fun p hp => ?_)
  · rw [State.canonical_iff] at h ⊢; simp_all [State.setChan, smWf_smSet]
  · cases p <;> first | rfl | exact absurd hp (by decide)

theorem State.setDbg_within (s : State) (d : Dbg) : Within [.dbg] s (s.setDbg d) := by
  refine Within.upd (t := s) rfl (Within.refl _ s) rfl rfl rfl rfl (fun p hp => ?_)
  cases p <;> first | rfl | exact absurd hp (by decide)

theorem State.eventRecord_within (s : State) (a b : Nat) : Within [.tol] s (s.eventRecord a b) := by
  refine Within.upd (t := s) rfl (Within.refl _ s) rfl rfl rfl rfl (fun p hp => ?_)
  cases p <;> first | rfl | exact absurd hp (by decide)

theorem State.endJobs_within (s : State) (f : Job → Bool) (a b : Nat) : Within [.tol] s (s.endJobs f a b) := by
  refine Within.upd (t := s) rfl (Within.refl _ s) rfl rfl rfl rfl (fun p hp => ?_)
  cases p <;> first | rfl | exact absurd hp (by decide)

theorem State.setTally_within (s : State) (x : Tally) : Within [.tally] s (s.setTally x) := by
  refine Within.upd (t := s) rfl (Within.refl _ s) rfl rfl rfl rfl (fun p hp => ?_)
  cases p <;> first | rfl | exact absurd hp (by decide)

theorem State.setTree_within (s : State) (x : Tree) : Within [.tree] s (s.setTree x) := by
  refine Within.upd (t := s) rfl (Within.refl _ s) rfl rfl rfl rfl (fun p hp => ?_)
  cases p <;> first | rfl | exact absurd hp (by decide)

theorem State.setViewBuf_within (s : State) (r : Req) (p : Nat) (b : ViewBuf) : Within [.views] s (s.setViewBuf r p b) := by
  refine Within.prim (Within.refl _ s) rfl rfl rfl rfl (fun h => ?_) (fun p hp => ?_)
  · rw [State.canonical_iff] at h ⊢; simp_all [State.setViewBuf, smWf_smSet]
  · cases p <;> first | rfl | exact absurd hp (by decide)

theorem State.setPorts_within (s : State) (x : Ports) : Within [.ports] s (s.setPorts x) := by
  refine Within.upd (t := s) rfl (Within.refl _ s) rfl rfl rfl rfl (fun p hp => ?_)
  cases p <;> first | rfl | exact absurd hp (by decide)

theorem State.setPinCell_within (s : State) (n : Nat) (x : PinCell) : Within [.pins] s (s.setPinCell n x) := by
  refine Within.prim (Within.refl _ s) rfl rfl rfl rfl (fun h => ?_) (fun p hp => ?_)
  · rw [State.canonical_iff] at h ⊢; simp_all [State.setPinCell, smWf_smSet]
  · cases p <;> first | rfl | exact absurd hp (by decide)

theorem State.setClk_within (s : State) (x : Clk) : Within [.clk] s (s.setClk x) := by
  refine Within.upd (t := s) rfl (Within.refl _ s) rfl rfl rfl rfl (fun p hp => ?_)
  cases p <;> first | rfl | exact absurd hp (by decide)

theorem State.setD2d_within (s : State) (x : D2D) : Within [.d2d] s (s.setD2d x) := by
  refine Within.upd (t := s) rfl (Within.refl _ s) rfl rfl rfl rfl (fun p hp => ?_)
  cases p <;> first | rfl | exact absurd hp (by decide)

theorem State.setTol_within (s : State) (x : Tol) : Within [.tol] s (s.setTol x) := by
  refine Within.upd (t := s) rfl (Within.refl _ s) rfl rfl rfl rfl (fun p hp => ?_)
  cases p <;> first | rfl | exact absurd hp (by decide)

theorem State.setTide_within (s : State) (x : Tide) : Within [.tide] s (s.setTide x) := by
  refine Within.upd (t := s) rfl (Within.refl _ s) rfl rfl rfl rfl (fun p hp => ?_)
  cases p <;> first | rfl | exact absurd hp (by decide)

theorem State.setLine_within (s : State) (k : Nat) (x : HLine) : Within [.mem] s (s.setLine k x) := by
  refine Within.prim (Within.refl _ s) rfl rfl rfl rfl (fun h => ?_) (fun p hp => ?_)
  · rw [State.canonical_iff] at h ⊢; simp_all [State.setLine, smWf_smSet]
  · cases p <;> first | rfl | exact absurd hp (by decide)

theorem State.setLane_within (s : State) (l : Nat) (x : LaneSt) : Within [.lanes] s (s.setLane l x) := by
  refine Within.prim (Within.refl _ s) rfl rfl rfl rfl (fun h => ?_) (fun p hp => ?_)
  · rw [State.canonical_iff] at h ⊢; simp_all [State.setLane, smWf_smSet]
  · cases p <;> first | rfl | exact absurd hp (by decide)

theorem State.zeroRegion_within (s : State) (a b : Nat) : Within [.mem] s (s.zeroRegion a b) := by
  refine Within.prim (Within.refl _ s) rfl rfl rfl rfl (fun h => ?_) (fun p hp => ?_)
  · rw [State.canonical_iff] at h ⊢; simp_all [State.zeroRegion, smWf_smClear]
  · cases p <;> first | rfl | exact absurd hp (by decide)

theorem State.resetHolder_within (s : State) (h : Holder) : Within [.regs] s (s.resetHolder h) := by
  refine Within.prim (Within.refl _ s) rfl rfl rfl rfl (fun h => ?_) (fun p hp => ?_)
  · rw [State.canonical_iff] at h ⊢; simp_all [State.resetHolder, smWf_smClear]
  · cases p <;> first | rfl | exact absurd hp (by decide)

theorem State.setFfs_within (s : State) (a b c : Nat) : Within [.fab] s (s.setFfs a b c) := by
  refine Within.upd (t := s) rfl (Within.refl _ s) rfl rfl rfl rfl (fun p hp => ?_)
  cases p <;> first | rfl | exact absurd hp (by decide)

theorem State.setShedFfs_within (s : State) (a : Nat) (m : SMap Nat) : Within [.fab] s (s.setShedFfs a m) := by
  refine Within.upd (t := s) rfl (Within.refl _ s) rfl rfl rfl rfl (fun p hp => ?_)
  cases p <;> first | rfl | exact absurd hp (by decide)

theorem State.clearDrv_within (s : State) (a b : Nat) : Within [.fab] s (s.clearDrv a b) := by
  refine Within.upd (t := s) rfl (Within.refl _ s) rfl rfl rfl rfl (fun p hp => ?_)
  cases p <;> first | rfl | exact absurd hp (by decide)

theorem State.tribRelease_within (s : State) (a : Nat) : Within [.fab] s (s.tribRelease a) := by
  refine Within.upd (t := s) rfl (Within.refl _ s) rfl rfl rfl rfl (fun p hp => ?_)
  cases p <;> first | rfl | exact absurd hp (by decide)

theorem State.flipTaps_within (s : State) (a : Nat) : Within [.fab] s (s.flipTaps a) := by
  refine Within.upd (t := s) rfl (Within.refl _ s) rfl rfl rfl rfl (fun p hp => ?_)
  cases p <;> first | rfl | exact absurd hp (by decide)

theorem State.setBm_within (s : State) (a b : Nat) (x : Bm) : Within [.fab] s (s.setBm a b x) := by
  refine Within.upd (t := s) rfl (Within.refl _ s) rfl rfl rfl rfl (fun p hp => ?_)
  cases p <;> first | rfl | exact absurd hp (by decide)

theorem State.setPond_within (s : State) (a b : Nat) (x : Pond) : Within [.fab] s (s.setPond a b x) := by
  refine Within.upd (t := s) rfl (Within.refl _ s) rfl rfl rfl rfl (fun p hp => ?_)
  cases p <;> first | rfl | exact absurd hp (by decide)

theorem State.setFmb_within (s : State) (a b : Nat) (x : Fmb) : Within [.fab] s (s.setFmb a b x) := by
  refine Within.upd (t := s) rfl (Within.refl _ s) rfl rfl rfl rfl (fun p hp => ?_)
  cases p <;> first | rfl | exact absurd hp (by decide)

theorem State.setTrib_within (s : State) (a : Nat) (x : Trib) : Within [.fab] s (s.setTrib a x) := by
  refine Within.upd (t := s) rfl (Within.refl _ s) rfl rfl rfl rfl (fun p hp => ?_)
  cases p <;> first | rfl | exact absurd hp (by decide)

theorem State.setPlane_within (s : State) (a b : Nat) (x : Plane) : Within [.fab] s (s.setPlane a b x) := by
  refine Within.upd (t := s) rfl (Within.refl _ s) rfl rfl rfl rfl (fun p hp => ?_)
  cases p <;> first | rfl | exact absurd hp (by decide)

theorem State.setUpset_within (s : State) (a b : Nat) : Within [.fab] s (s.setUpset a b) := by
  refine Within.upd (t := s) rfl (Within.refl _ s) rfl rfl rfl rfl (fun p hp => ?_)
  cases p <;> first | rfl | exact absurd hp (by decide)

theorem State.setScrubPos_within (s : State) (a : Nat) (x : ScrubPos) : Within [.fab] s (s.setScrubPos a x) := by
  refine Within.upd (t := s) rfl (Within.refl _ s) rfl rfl rfl rfl (fun p hp => ?_)
  cases p <;> first | rfl | exact absurd hp (by decide)

theorem State.meterLink_within (s : State) (a b c : Nat) : Within [.tally] s (s.meterLink a b c) := by
  refine Within.upd (t := s) rfl (Within.refl _ s) rfl rfl rfl rfl (fun p hp => ?_)
  cases p <;> first | rfl | exact absurd hp (by decide)

theorem State.useFree_within (s : State) : Within [.fresh] s s.useFree :=
  ⟨⟨rfl, List.prefix_refl _, Nat.le_succ _, Otp.grows_refl _, fun h => h⟩, fun p hp => by cases p <;> first | rfl | exact absurd hp (by decide)⟩

theorem State.emit_within (s : State) (o : Out) : Within [.out] s (s.emit o) :=
  ⟨⟨rfl, List.prefix_append _ _, Nat.le_refl _, Otp.grows_refl _, fun h => h⟩, fun p hp => by cases p <;> first | rfl | exact absurd hp (by decide)⟩

theorem State.newPkt_within (s : State) (x : Pkt) : Within [.mil] s (s.newPkt x).1 := by
  refine Within.prim (Within.refl _ s) rfl rfl rfl rfl (fun h => ?_) (fun p hp => ?_)
  · rw [State.canonical_iff] at h ⊢; simp_all [State.newPkt, smWf_smSet]
  · cases p <;> first | rfl | exact absurd hp (by decide)

theorem State.setEddies_within (s : State) (es : SMap Eddy) (h : smWf (fun _ => Eddy.reset) s.eddies = true → smWf (fun _ => Eddy.reset) es = true) :
    Within [.eddies] s (s.setEddies es) := by
  refine Within.prim (Within.refl _ s) rfl rfl rfl rfl (fun hc => ?_) (fun p hp => ?_)
  · rw [State.canonical_iff] at hc ⊢
    exact ⟨hc.1, hc.2.1, h hc.2.2.1, hc.2.2.2⟩
  · cases p <;> first | rfl | exact absurd hp (by decide)

/-- A register word written: the words, and the rises that wait to be pushed. -/
theorem State.setWord_within (s : State) (a : Nat) (v : BitVec 32) : Within [.regs, .agg] s (s.setWord a v) := by
  have h0 : Within [.regs, .agg] s { s with regs := smSet (regReset a) s.regs a v } := by
    refine Within.prim (Within.refl _ s) rfl rfl rfl rfl (fun h => ?_) (fun p hp => ?_)
    · rw [State.canonical_iff] at h ⊢; simp_all [smWf_smSet]
    · cases p <;> first | rfl | exact absurd hp (by decide)
  unfold State.setWord
  dsimp only
  split
  · split
    · exact h0.trans (Within.upd (t := { s with regs := smSet (regReset a) s.regs a v }) rfl (Within.refl _ _) rfl rfl rfl rfl
        (fun p hp => by cases p <;> first | rfl | exact absurd hp (by decide)))
    · exact h0
  · exact h0

/-! ### One part replaced -/

theorem Within.agg {F : List StatePart} {s t : State} {x : Agg} (h : Within F s t) (hf : F.contains .agg = true) : Within F s { t with agg := x } := by
  refine Within.upd (t := t) rfl h rfl rfl rfl rfl (fun p hp => ?_)
  cases p <;> first | rfl | exact absurd (hf.symm.trans hp) (by decide)

theorem Within.fab {F : List StatePart} {s t : State} {x : Fabric} (h : Within F s t) (hf : F.contains .fab = true) : Within F s { t with fab := x } := by
  refine Within.upd (t := t) rfl h rfl rfl rfl rfl (fun p hp => ?_)
  cases p <;> first | rfl | exact absurd (hf.symm.trans hp) (by decide)

theorem Within.tally {F : List StatePart} {s t : State} {x : Tally} (h : Within F s t) (hf : F.contains .tally = true) : Within F s { t with tally := x } := by
  refine Within.upd (t := t) rfl h rfl rfl rfl rfl (fun p hp => ?_)
  cases p <;> first | rfl | exact absurd (hf.symm.trans hp) (by decide)

theorem Within.tide {F : List StatePart} {s t : State} {x : Tide} (h : Within F s t) (hf : F.contains .tide = true) : Within F s { t with tide := x } := by
  refine Within.upd (t := t) rfl h rfl rfl rfl rfl (fun p hp => ?_)
  cases p <;> first | rfl | exact absurd (hf.symm.trans hp) (by decide)

theorem Within.tol {F : List StatePart} {s t : State} {x : Tol} (h : Within F s t) (hf : F.contains .tol = true) : Within F s { t with tol := x } := by
  refine Within.upd (t := t) rfl h rfl rfl rfl rfl (fun p hp => ?_)
  cases p <;> first | rfl | exact absurd (hf.symm.trans hp) (by decide)

theorem Within.mem {F : List StatePart} {s t : State} {x : Mem} (h : Within F s t) (hf : F.contains .mem = true)
    (hl : smWf (fun _ => HLine.zero) t.mem.lines = true → smWf (fun _ => HLine.zero) x.lines = true)
    (hs : smWf (fun _ => KeySlot.empty) t.mem.slots = true → smWf (fun _ => KeySlot.empty) x.slots = true)
    (hw : smWf (fun _ => PortWork.idle) t.mem.work = true → smWf (fun _ => PortWork.idle) x.work = true) : Within F s { t with mem := x } := by
  refine Within.prim (t := t) h rfl rfl rfl rfl (fun hc => ?_) (fun p hp => ?_)
  · rw [State.canonical_iff] at hc ⊢
    obtain ⟨h1, h2, h3, h4, h5, h6, h7, h8, h9, hr⟩ := hc
    exact ⟨h1, h2, h3, h4, h5, h6, hl h7, hs h8, hw h9, hr⟩
  · cases p <;> first | rfl | exact absurd (hf.symm.trans hp) (by decide)

theorem Within.lanes {F : List StatePart} {s t : State} {x : SMap LaneSt} (h : Within F s t) (hf : F.contains .lanes = true)
    (hl : smWf (fun _ => LaneSt.reset) t.lanes = true → smWf (fun _ => LaneSt.reset) x = true) : Within F s { t with lanes := x } := by
  refine Within.prim (t := t) h rfl rfl rfl rfl (fun hc => ?_) (fun p hp => ?_)
  · rw [State.canonical_iff] at hc ⊢
    obtain ⟨h1, h2, h3, h4, h5, h6, hr⟩ := hc
    exact ⟨h1, h2, h3, h4, h5, hl h6, hr⟩
  · cases p <;> first | rfl | exact absurd (hf.symm.trans hp) (by decide)

theorem Within.eddies {F : List StatePart} {s t : State} {x : SMap Eddy} (h : Within F s t) (hf : F.contains .eddies = true)
    (hl : smWf (fun _ => Eddy.reset) t.eddies = true → smWf (fun _ => Eddy.reset) x = true) : Within F s { t with eddies := x } := by
  refine Within.prim (t := t) h rfl rfl rfl rfl (fun hc => ?_) (fun p hp => ?_)
  · rw [State.canonical_iff] at hc ⊢
    obtain ⟨h1, h2, h3, hr⟩ := hc
    exact ⟨h1, h2, hl h3, hr⟩
  · cases p <;> first | rfl | exact absurd (hf.symm.trans hp) (by decide)

theorem Within.pins {F : List StatePart} {s t : State} {x : SMap PinCell} (h : Within F s t) (hf : F.contains .pins = true)
    (hl : smWf (fun _ => PinCell.reset) t.pins = true → smWf (fun _ => PinCell.reset) x = true) : Within F s { t with pins := x } := by
  refine Within.prim (t := t) h rfl rfl rfl rfl (fun hc => ?_) (fun p hp => ?_)
  · rw [State.canonical_iff] at hc ⊢
    obtain ⟨h1, h2, h3, h4, h5, hr⟩ := hc
    exact ⟨h1, h2, h3, h4, hl h5, hr⟩
  · cases p <;> first | rfl | exact absurd (hf.symm.trans hp) (by decide)

theorem Within.eddiesPins {F : List StatePart} {s t : State} {x : SMap Eddy} {y : SMap PinCell} (h : Within F s t) (hf : F.contains .eddies = true)
    (hg : F.contains .pins = true) (hx : smWf (fun _ => Eddy.reset) t.eddies = true → smWf (fun _ => Eddy.reset) x = true)
    (hy : smWf (fun _ => PinCell.reset) t.pins = true → smWf (fun _ => PinCell.reset) y = true) : Within F s { t with eddies := x, pins := y } :=
  Within.pins (t := { t with eddies := x }) (Within.eddies h hf hx) hg hy

/-- More fuses programmed in one signer entry. -/
theorem Otp.grows_set (o : Otp) (k : Nat) (g : Signer) (h : (smGet Signer.blank o.signers k).grows g) :
    o.grows { o with signers := smSet Signer.blank o.signers k g } := by
  refine ⟨rfl, rfl, fun j => ?_⟩
  by_cases hj : j = k
  · subst hj; simpa using h
  · simpa [smGet_smSet, hj] using Signer.grows_refl _

theorem Within.otp {F : List StatePart} {s t : State} {x : Otp} (h : Within F s t) (hf : F.contains .otp = true) (hg : t.otp.grows x) :
    Within F s { t with otp := x } := by
  refine Within.trans h ⟨⟨rfl, List.prefix_refl _, Nat.le_refl _, hg, fun h => h⟩, fun p hp => ?_⟩
  cases p <;> first | rfl | exact absurd (hf.symm.trans hp) (by decide)

end Sys2Proof.Machine
end

