-- ==== Sys2Proof/Laws/WithinOps.lean ====
section
/-! SUPPORT. Which parts of the state each operation of Machine/Ops.lean touches. -/

namespace Sys2Proof.Machine

theorem State.wr32_within (s : State) (a1 : Nat) (a2 : Nat) : Within [.regs, .agg] s (State.wr32 s a1 a2) := by
  unfold State.wr32
  repeat' first
    | with_reducible exact Within.refl _ _
    | exact (rfl : _ = true)
    | (with_reducible apply Within.via (State.setWord_within ..))

theorem State.wr64_within (s : State) (a1 : Nat) (a2 : Nat) : Within [.regs, .agg] s (State.wr64 s a1 a2) := by
  unfold State.wr64
  repeat' first
    | with_reducible exact Within.refl _ _
    | exact (rfl : _ = true)
    | (with_reducible apply Within.via (State.wr32_within ..))

theorem State.fset_within (s : State) (a1 : Nat) (a2 : Fld) (a3 : Nat) : Within [.regs, .agg] s (State.fset s a1 a2 a3) := by
  unfold State.fset
  repeat' first
    | with_reducible exact Within.refl _ _
    | exact (rfl : _ = true)
    | (with_reducible apply Within.via (State.wr32_within ..))
    | (with_reducible apply Within.via (State.wr64_within ..))
    | split

theorem State.finc_within (s : State) (a1 : Nat) (a2 : Fld) : Within [.regs, .agg] s (State.finc s a1 a2) := by
  unfold State.finc
  repeat' first
    | with_reducible exact Within.refl _ _
    | exact (rfl : _ = true)
    | (with_reducible apply Within.via (State.fset_within ..))

theorem State.fadd_within (s : State) (a1 : Nat) (a2 : Fld) (a3 : Nat) : Within [.regs, .agg] s (State.fadd s a1 a2 a3) := by
  unfold State.fadd
  repeat' first
    | with_reducible exact Within.refl _ _
    | exact (rfl : _ = true)
    | (with_reducible apply Within.via (State.fset_within ..))

theorem State.setBit_within (s : State) (a1 : Nat) (a2 : Nat) (a3 : Bool) : Within [.regs, .agg] s (State.setBit s a1 a2 a3) := by
  unfold State.setBit
  repeat' first
    | with_reducible exact Within.refl _ _
    | exact (rfl : _ = true)
    | (with_reducible apply Within.via (State.fset_within ..))

theorem State.irq_within (s : State) (a1 : Nat) (a2 : Nat) : Within [.regs, .agg] s (State.irq s a1 a2) := by
  unfold State.irq
  repeat' first
    | with_reducible exact Within.refl _ _
    | exact (rfl : _ = true)
    | (with_reducible apply Within.via (State.setBit_within ..))

theorem State.refuse_within (s : State) (a1 : Req) (a2 : Nat) (a3 : Nat) : Within [.regs, .agg] s (State.refuse s a1 a2 a3) := by
  unfold State.refuse
  repeat' first
    | with_reducible exact Within.refl _ _
    | with_reducible assumption
    | exact (rfl : _ = true)
    | (with_reducible apply Within.via (State.wr32_within ..))
    | (with_reducible apply Within.via (State.finc_within ..))
    | (with_reducible apply Within.via (State.irq_within ..))
    | (intro z; refine (fun (hz : Within [.regs, .agg] s z) => ?_) ?_; rotate_left; dsimp only [z]; rotate_left; clear_value z)
    | (intro z; clear_value z)
    | lift_lets -underBinder
    | split

theorem State.logEvent_within (s : State) (a1 : Nat) (a2 : Nat) (a3 : Nat) (a4 : Nat) : Within [.regs, .agg, .tol] s (State.logEvent s a1 a2 a3 a4) := by
  unfold State.logEvent
  repeat' first
    | with_reducible exact Within.refl _ _
    | with_reducible assumption
    | exact (rfl : _ = true)
    | (with_reducible apply Within.via (State.wr32_within ..))
    | (intro z; refine (fun (hz : Within [.regs, .agg, .tol] s z) => ?_) ?_; rotate_left; dsimp only [z]; rotate_left; clear_value z)
    | (intro z; clear_value z)
    | lift_lets -underBinder
    | split
    | with_reducible apply Within.tol

theorem State.delPkt_within (s : State) (a1 : Nat) : Within [.mil] s (State.delPkt s a1) := by
  unfold State.delPkt
  repeat' first
    | with_reducible exact Within.refl _ _
    | exact (rfl : _ = true)
    | (with_reducible apply Within.via (State.setPkt_within ..))

theorem State.capForget_within (s : State) (a1 : Nat) : Within [.regs, .agg, .dbg] s (State.capForget s a1) := by
  unfold State.capForget
  repeat' first
    | with_reducible exact Within.refl _ _
    | exact (rfl : _ = true)
    | (with_reducible apply Within.via (State.fset_within ..))
    | (with_reducible apply Within.via (State.setDbg_within ..))
    | with_reducible apply Within.foldl
    | refine (fun (s : State) x => ?_)
    | split

theorem State.ringPush_within (s : State) (a1 : Nat) (a2 : Nat) : Within [.regs, .agg, .dbg] s (State.ringPush s a1 a2) := by
  unfold State.ringPush
  repeat' first
    | with_reducible exact Within.refl _ _
    | with_reducible assumption
    | exact (rfl : _ = true)
    | (with_reducible apply Within.via (State.fset_within ..))
    | (with_reducible apply Within.via (State.finc_within ..))
    | (with_reducible apply Within.via (State.irq_within ..))
    | (with_reducible apply Within.via (State.setDbg_within ..))
    | (intro z; refine (fun (hz : Within [.regs, .agg, .dbg] s z) => ?_) ?_; rotate_left; dsimp only [z]; rotate_left; clear_value z)
    | (intro z; clear_value z)
    | lift_lets -underBinder
    | split

theorem State.trace_within (s : State) (a1 : Nat) (a2 : Nat) : Within [.regs, .agg, .dbg] s (State.trace s a1 a2) := by
  unfold State.trace
  repeat' first
    | with_reducible exact Within.refl _ _
    | exact (rfl : _ = true)
    | (with_reducible apply Within.via (State.ringPush_within ..))
    | with_reducible apply Within.foldl
    | refine (fun (s : State) x => ?_)
    | split

end Sys2Proof.Machine
end

