-- ==== Sys2Proof/Laws/WithinMillrace.lean ====
section
/-! SUPPORT. Which parts of the state each operation of Machine/Millrace.lean touches. -/

namespace Sys2Proof.Machine

theorem State.pushIn_within (s : State) (a1 : Nat) (a2 : Pkt) : Within [.mil] s (State.pushIn s a1 a2) := by
  unfold State.pushIn
  repeat' first
    | with_reducible exact Within.refl _ _
    | with_reducible assumption
    | exact (rfl : _ = true)
    | (with_reducible apply Within.via (State.setEp_within ..))
    | (with_reducible apply Within.via (State.newPkt_within ..))
    | (intro z; refine (fun (hz : Within [.mil] s z) => ?_) ?_; rotate_left; dsimp only [z]; rotate_left; clear_value z)
    | (intro z; clear_value z)
    | lift_lets -underBinder

theorem State.pushOut_within (s : State) (a1 : Nat) (a2 : Pkt) : Within [.mil] s (State.pushOut s a1 a2) := by
  unfold State.pushOut
  repeat' first
    | with_reducible exact Within.refl _ _
    | with_reducible assumption
    | exact (rfl : _ = true)
    | (with_reducible apply Within.via (State.setEp_within ..))
    | (with_reducible apply Within.via (State.newPkt_within ..))
    | (intro z; refine (fun (hz : Within [.mil] s z) => ?_) ?_; rotate_left; dsimp only [z]; rotate_left; clear_value z)
    | (intro z; clear_value z)
    | lift_lets -underBinder

theorem State.unqueue_within (s : State) (a1 : Nat) (a2 : Nat) : Within [.mil] s (State.unqueue s a1 a2) := by
  unfold State.unqueue
  repeat' first
    | with_reducible exact Within.refl _ _
    | with_reducible assumption
    | exact (rfl : _ = true)
    | (with_reducible apply Within.via (State.setEp_within ..))
    | (intro z; refine (fun (hz : Within [.mil] s z) => ?_) ?_; rotate_left; dsimp only [z]; rotate_left; clear_value z)
    | (intro z; clear_value z)
    | lift_lets -underBinder
    | split

theorem State.killPkt_within (s : State) (a1 : Nat) (a2 : Nat) : Within [.mil] s (State.killPkt s a1 a2) := by
  unfold State.killPkt
  repeat' first
    | with_reducible exact Within.refl _ _
    | exact (rfl : _ = true)
    | (with_reducible apply Within.via (State.delPkt_within ..))
    | (with_reducible apply Within.via (State.unqueue_within ..))

theorem State.sendReq_within (s : State) (a1 : Nat) (a2 : Header) (a3 : List (BitVec 512 × Bool)) (a4 : Origin) : Within [.mil, .fresh] s (State.sendReq s a1 a2 a3 a4) := by
  unfold State.sendReq
  repeat' first
    | with_reducible exact Within.refl _ _
    | exact (rfl : _ = true)
    | (with_reducible apply Within.via (State.useFree_within ..))
    | (with_reducible apply Within.via (State.pushIn_within ..))

theorem State.sendRsp_within (s : State) (a1 : Nat) (a2 : Header) (a3 : List (BitVec 512 × Bool)) : Within [.mil] s (State.sendRsp s a1 a2 a3) := by
  unfold State.sendRsp
  repeat' first
    | with_reducible exact Within.refl _ _
    | exact (rfl : _ = true)
    | (with_reducible apply Within.via (State.pushIn_within ..))

theorem State.injectRsp_within (s : State) (a1 : Nat) (a2 : Header) : Within [.mil] s (State.injectRsp s a1 a2) := by
  unfold State.injectRsp
  repeat' first
    | with_reducible exact Within.refl _ _
    | exact (rfl : _ = true)
    | (with_reducible apply Within.via (State.pushIn_within ..))

theorem State.madeRsp_within (s : State) (a1 : Nat) (a2 : Header) (a3 : Nat) : Within [.mil, .fresh] s (State.madeRsp s a1 a2 a3) := by
  unfold State.madeRsp
  repeat' first
    | with_reducible exact Within.refl _ _
    | exact (rfl : _ = true)
    | (with_reducible apply Within.via (State.useFree_within ..))
    | (with_reducible apply Within.via (State.injectRsp_within ..))

theorem State.noteCompletion_within (s : State) (a1 : Nat) (a2 : Nat) (a3 : Nat) (a4 : Nat) : Within [.regs, .agg] s (State.noteCompletion s a1 a2 a3 a4) := by
  unfold State.noteCompletion
  repeat' first
    | with_reducible exact Within.refl _ _
    | with_reducible assumption
    | exact (rfl : _ = true)
    | (with_reducible apply Within.via (State.wr32_within ..))
    | (with_reducible apply Within.via (State.finc_within ..))
    | (with_reducible apply Within.via (State.irq_within ..))
    | (intro z; refine (fun (hz : Within [.regs, .agg] s z) => ?_) ?_; rotate_left; dsimp only [z]; rotate_left; clear_value z)
    | (intro z; clear_value z)
    | lift_lets -underBinder
    | split

theorem State.late_within (s : State) (a1 : Nat) : Within [.regs, .agg] s (State.late s a1) := by
  unfold State.late
  repeat' first
    | with_reducible exact Within.refl _ _
    | exact (rfl : _ = true)
    | (with_reducible apply Within.via (State.finc_within ..))

theorem State.completeLocal_within (s : State) (a1 : Nat) (a2 : Header) (a3 : Origin) (a4 : Nat) : Within [.regs, .agg, .mil, .fresh] s (State.completeLocal s a1 a2 a3 a4) := by
  unfold State.completeLocal
  repeat' first
    | with_reducible exact Within.refl _ _
    | exact (rfl : _ = true)
    | (with_reducible apply Within.via (State.useFree_within ..))
    | (with_reducible apply Within.via (State.pushOut_within ..))
    | (with_reducible apply Within.via (State.noteCompletion_within ..))

theorem State.completeTracked_within (s : State) (a1 : Nat) (a2 : Nat) (a3 : Nat) : Within [.regs, .agg, .mil, .fresh] s (State.completeTracked s a1 a2 a3) := by
  unfold State.completeTracked
  repeat' first
    | with_reducible exact Within.refl _ _
    | exact (rfl : _ = true)
    | (with_reducible apply Within.via (State.dropTrack_within ..))
    | (with_reducible apply Within.via (State.completeLocal_within ..))
    | split

theorem State.takeHeader_within (s : State) (a1 : Nat) (a2 : Nat) : Within [.regs, .agg, .mil, .fresh] s (State.takeHeader s a1 a2) := by
  unfold State.takeHeader
  repeat' first
    | with_reducible exact Within.refl _ _
    | with_reducible assumption
    | exact (rfl : _ = true)
    | (with_reducible apply Within.via (State.setPkt_within ..))
    | (with_reducible apply Within.via (State.putTrack_within ..))
    | (with_reducible apply Within.via (State.killPkt_within ..))
    | (with_reducible apply Within.via (State.late_within ..))
    | (with_reducible apply Within.via (State.completeLocal_within ..))
    | (intro z; refine (fun (hz : Within [.regs, .agg, .mil, .fresh] s z) => ?_) ?_; rotate_left; dsimp only [z]; rotate_left; clear_value z)
    | (intro z; clear_value z)
    | lift_lets -underBinder
    | split

theorem State.tryEnter_within (s : State) (a1 : Nat) (a2 : Bool) : Within [.mil, .tally] s (State.tryEnter s a1 a2) := by
  unfold State.tryEnter
  repeat' first
    | with_reducible exact Within.refl _ _
    | with_reducible assumption
    | exact (rfl : _ = true)
    | (with_reducible apply Within.via (State.setEp_within ..))
    | (with_reducible apply Within.via (State.setPkt_within ..))
    | (with_reducible apply Within.via (State.meterLink_within ..))
    | (intro z; refine (fun (hz : Within [.mil, .tally] s z) => ?_) ?_; rotate_left; dsimp only [z]; rotate_left; clear_value z)
    | (intro z; clear_value z)
    | lift_lets -underBinder
    | split

theorem State.ingress_within (s : State) (a1 : Nat) (a2 : IngressOp) : Within [.regs, .agg, .mil, .tally, .fresh] s (State.ingress s a1 a2) := by
  unfold State.ingress
  repeat' first
    | with_reducible exact Within.refl _ _
    | with_reducible assumption
    | exact (rfl : _ = true)
    | (with_reducible apply Within.via (State.setEp_within ..))
    | (with_reducible apply Within.via (State.setPkt_within ..))
    | (with_reducible apply Within.via (State.pushIn_within ..))
    | (with_reducible apply Within.via (State.takeHeader_within ..))
    | (with_reducible apply Within.via (State.meterLink_within ..))
    | (with_reducible apply Within.via (State.tryEnter_within ..))
    | (intro z; refine (fun (hz : Within [.regs, .agg, .mil, .tally, .fresh] s z) => ?_) ?_; rotate_left; dsimp only [z]; rotate_left; clear_value z)
    | (intro z; clear_value z)
    | lift_lets -underBinder
    | split

theorem State.truncate_within (s : State) (a1 : Nat) : Within [.mil, .out, .fresh] s (State.truncate s a1) := by
  unfold State.truncate
  repeat' first
    | with_reducible exact Within.refl _ _
    | with_reducible assumption
    | exact (rfl : _ = true)
    | (with_reducible apply Within.via (State.useFree_within ..))
    | (with_reducible apply Within.via (State.emit_within ..))
    | (with_reducible apply Within.via (State.setPkt_within ..))
    | (with_reducible apply Within.via (State.killPkt_within ..))
    | (intro z; refine (fun (hz : Within [.mil, .out, .fresh] s z) => ?_) ?_; rotate_left; dsimp only [z]; rotate_left; clear_value z)
    | (intro z; clear_value z)
    | lift_lets -underBinder
    | split

theorem State.discardIn_within (s : State) (a1 : Nat) (a2 : Nat) : Within [.regs, .agg, .mil, .fresh] s (State.discardIn s a1 a2) := by
  unfold State.discardIn
  repeat' first
    | with_reducible exact Within.refl _ _
    | with_reducible assumption
    | exact (rfl : _ = true)
    | (with_reducible apply Within.via (State.setEp_within ..))
    | (with_reducible apply Within.via (State.setPkt_within ..))
    | (with_reducible apply Within.via (State.dropTrack_within ..))
    | (with_reducible apply Within.via (State.killPkt_within ..))
    | (with_reducible apply Within.via (State.completeLocal_within ..))
    | (intro z; refine (fun (hz : Within [.regs, .agg, .mil, .fresh] s z) => ?_) ?_; rotate_left; dsimp only [z]; rotate_left; clear_value z)
    | (intro z; clear_value z)
    | lift_lets -underBinder
    | split

theorem State.discardOut_within (s : State) (a1 : Nat) (a2 : Nat) : Within [.regs, .agg, .mil, .fresh] s (State.discardOut s a1 a2) := by
  unfold State.discardOut
  repeat' first
    | with_reducible exact Within.refl _ _
    | with_reducible assumption
    | exact (rfl : _ = true)
    | (with_reducible apply Within.via (State.setEp_within ..))
    | (with_reducible apply Within.via (State.setPkt_within ..))
    | (with_reducible apply Within.via (State.unqueue_within ..))
    | (with_reducible apply Within.via (State.killPkt_within ..))
    | (with_reducible apply Within.via (State.madeRsp_within ..))
    | (with_reducible apply Within.via (State.noteCompletion_within ..))
    | (intro z; refine (fun (hz : Within [.regs, .agg, .mil, .fresh] s z) => ?_) ?_; rotate_left; dsimp only [z]; rotate_left; clear_value z)
    | (intro z; clear_value z)
    | lift_lets -underBinder
    | split

theorem State.dropRestIn_within (s : State) (a1 : Nat) : Within [.regs, .agg, .mil, .out, .fresh] s (State.dropRestIn s a1) := by
  unfold State.dropRestIn
  repeat' first
    | with_reducible exact Within.refl _ _
    | with_reducible assumption
    | exact (rfl : _ = true)
    | (with_reducible apply Within.via (State.setEp_within ..))
    | (with_reducible apply Within.via (State.dropTrack_within ..))
    | (with_reducible apply Within.via (State.injectRsp_within ..))
    | (with_reducible apply Within.via (State.completeLocal_within ..))
    | (with_reducible apply Within.via (State.truncate_within ..))
    | (intro z; refine (fun (hz : Within [.regs, .agg, .mil, .out, .fresh] s z) => ?_) ?_; rotate_left; dsimp only [z]; rotate_left; clear_value z)
    | (intro z; clear_value z)
    | lift_lets -underBinder
    | split

theorem State.dropRestOut_within (s : State) (a1 : Nat) : Within [.regs, .agg, .mil, .out, .fresh] s (State.dropRestOut s a1) := by
  unfold State.dropRestOut
  repeat' first
    | with_reducible exact Within.refl _ _
    | with_reducible assumption
    | exact (rfl : _ = true)
    | (with_reducible apply Within.via (State.useFree_within ..))
    | (with_reducible apply Within.via (State.emit_within ..))
    | (with_reducible apply Within.via (State.setEp_within ..))
    | (with_reducible apply Within.via (State.discardOut_within ..))
    | (intro z; refine (fun (hz : Within [.regs, .agg, .mil, .out, .fresh] s z) => ?_) ?_; rotate_left; dsimp only [z]; rotate_left; clear_value z)
    | (intro z; clear_value z)
    | lift_lets -underBinder
    | split

theorem State.txAbort_within (s : State) (a1 : Nat) : Within [.regs, .agg, .mil, .out, .fresh] s (State.txAbort s a1) := by
  unfold State.txAbort
  repeat' first
    | with_reducible exact Within.refl _ _
    | with_reducible assumption
    | exact (rfl : _ = true)
    | (with_reducible apply Within.via (State.setEp_within ..))
    | (with_reducible apply Within.via (State.discardIn_within ..))
    | (with_reducible apply Within.via (State.dropRestIn_within ..))
    | (intro z; refine (fun (hz : Within [.regs, .agg, .mil, .out, .fresh] s z) => ?_) ?_; rotate_left; dsimp only [z]; rotate_left; clear_value z)
    | (intro z; clear_value z)
    | lift_lets -underBinder
    | split

theorem State.discardAll_within {F : List StatePart} {s t : State} (f : State → Nat → State) (c : Option Nat) (b : Bool) (l : List Nat)
    (h : ∀ t i, Within F t (f t i)) (h0 : Within F s t) : Within F s (t.discardAll f c b l) := by
  unfold State.discardAll
  refine Within.foldl (fun t x => ?_) h0
  split
  · exact Within.refl _ _
  · exact h t x

theorem State.flushEffect_within (s : State) (a1 : Nat) (a2 : Bool) : Within [.regs, .agg, .mil, .fresh] s (State.flushEffect s a1 a2) := by
  unfold State.flushEffect
  repeat' first
    | with_reducible exact Within.refl _ _
    | with_reducible assumption
    | exact (rfl : _ = true)
    | (with_reducible apply Within.via (State.irq_within ..))
    | (with_reducible apply Within.via (State.setEp_within ..))
    | (with_reducible apply Within.via (State.discardIn_within ..))
    | (with_reducible apply Within.via (State.discardOut_within ..))
    | with_reducible apply State.discardAll_within
    | with_reducible apply Within.foldl
    | with_reducible apply Within.foldlFst
    | with_reducible apply Within.foldlSnd
    | refine (fun (z : State × _) x hz => ?_)
    | refine (fun (z : _ × State) x hz => ?_)
    | refine (fun (z : State) (l : Loc) (d : List Nat) hz => ?_)
    | refine (fun (s : State) x => ?_)
    | (intro z; refine (fun (hz : Within [.regs, .agg, .mil, .fresh] s z) => ?_) ?_; rotate_left; dsimp only [z]; rotate_left; clear_value z)
    | (intro z; refine (fun (hz : Within [.regs, .agg, .mil, .fresh] s z.1) => ?_) ?_; rotate_left; dsimp only [z]; rotate_left; clear_value z)
    | (intro z; refine (fun (hz : Within [.regs, .agg, .mil, .fresh] s z.2) => ?_) ?_; rotate_left; dsimp only [z]; rotate_left; clear_value z)
    | (intro z; have _h : State → _ := z; clear _h; dsimp -zeta only [z]; clear z)
    | (intro z; have _h : State × _ → _ := z; clear _h; dsimp -zeta only [z]; clear z)
    | (intro z; clear_value z)
    | (intro z; dsimp -zeta only [z]; clear z)
    | lift_lets -underBinder
    | split

theorem State.flushIn_within (s : State) (a1 : Nat) : Within [.regs, .agg, .mil, .fresh] s (State.flushIn s a1) := by
  unfold State.flushIn
  repeat' first
    | with_reducible exact Within.refl _ _
    | exact (rfl : _ = true)
    | (with_reducible apply Within.via (State.setEp_within ..))
    | (with_reducible apply Within.via (State.flushEffect_within ..))

theorem State.flushOut_within (s : State) (a1 : Nat) : Within [.regs, .agg, .mil, .fresh] s (State.flushOut s a1) := by
  unfold State.flushOut
  repeat' first
    | with_reducible exact Within.refl _ _
    | exact (rfl : _ = true)
    | (with_reducible apply Within.via (State.setEp_within ..))
    | (with_reducible apply Within.via (State.flushEffect_within ..))

theorem State.enterDrain_within (s : State) (a1 : Nat) (a2 : Bool) : Within [.regs, .agg, .mil, .out, .fresh] s (State.enterDrain s a1 a2) := by
  unfold State.enterDrain
  repeat' first
    | with_reducible exact Within.refl _ _
    | with_reducible assumption
    | exact (rfl : _ = true)
    | (with_reducible apply Within.via (State.irq_within ..))
    | (with_reducible apply Within.via (State.setEp_within ..))
    | (with_reducible apply Within.via (State.discardOut_within ..))
    | (with_reducible apply Within.via (State.dropRestOut_within ..))
    | with_reducible apply State.discardAll_within
    | with_reducible apply Within.foldl
    | with_reducible apply Within.foldlFst
    | with_reducible apply Within.foldlSnd
    | refine (fun (z : State × _) x hz => ?_)
    | refine (fun (z : _ × State) x hz => ?_)
    | refine (fun (z : State) (l : Loc) (d : List Nat) hz => ?_)
    | refine (fun (s : State) x => ?_)
    | (intro z; refine (fun (hz : Within [.regs, .agg, .mil, .out, .fresh] s z) => ?_) ?_; rotate_left; dsimp only [z]; rotate_left; clear_value z)
    | (intro z; refine (fun (hz : Within [.regs, .agg, .mil, .out, .fresh] s z.1) => ?_) ?_; rotate_left; dsimp only [z]; rotate_left; clear_value z)
    | (intro z; refine (fun (hz : Within [.regs, .agg, .mil, .out, .fresh] s z.2) => ?_) ?_; rotate_left; dsimp only [z]; rotate_left; clear_value z)
    | (intro z; have _h : State → _ := z; clear _h; dsimp -zeta only [z]; clear z)
    | (intro z; have _h : State × _ → _ := z; clear _h; dsimp -zeta only [z]; clear z)
    | (intro z; clear_value z)
    | (intro z; dsimp -zeta only [z]; clear z)
    | lift_lets -underBinder
    | split

theorem State.drainEnd_within (s : State) (a1 : Nat) : Within [.mil] s (State.drainEnd s a1) := by
  unfold State.drainEnd
  repeat' first
    | with_reducible exact Within.refl _ _
    | exact (rfl : _ = true)
    | (with_reducible apply Within.via (State.setEp_within ..))
    | split

theorem State.flitGap_within (s : State) (a1 : Nat) : Within [.regs, .agg, .mil, .out, .fresh] s (State.flitGap s a1) := by
  unfold State.flitGap
  repeat' first
    | with_reducible exact Within.refl _ _
    | exact (rfl : _ = true)
    | (with_reducible apply Within.via (State.irq_within ..))
    | (with_reducible apply Within.via (State.dropRestIn_within ..))
    | split

theorem State.flitErr_within (s : State) (a1 : Nat) (a2 : Pkt) (a3 : Bool) (a4 : Bool) : Within [.regs, .agg] s (State.flitErr s a1 a2 a3 a4) := by
  unfold State.flitErr
  repeat' first
    | with_reducible exact Within.refl _ _
    | with_reducible assumption
    | exact (rfl : _ = true)
    | (with_reducible apply Within.via (State.wr32_within ..))
    | (with_reducible apply Within.via (State.finc_within ..))
    | (with_reducible apply Within.via (State.irq_within ..))
    | (intro z; refine (fun (hz : Within [.regs, .agg] s z) => ?_) ?_; rotate_left; dsimp only [z]; rotate_left; clear_value z)
    | (intro z; clear_value z)
    | lift_lets -underBinder
    | split

theorem State.losePkt_within (s : State) (a1 : Nat) : Within [.mil] s (State.losePkt s a1) := by
  unfold State.losePkt
  repeat' first
    | with_reducible exact Within.refl _ _
    | with_reducible assumption
    | exact (rfl : _ = true)
    | (with_reducible apply Within.via (State.setEp_within ..))
    | (with_reducible apply Within.via (State.delPkt_within ..))
    | (intro z; refine (fun (hz : Within [.mil] s z) => ?_) ?_; rotate_left; dsimp only [z]; rotate_left; clear_value z)
    | (intro z; clear_value z)
    | lift_lets -underBinder
    | split

theorem State.flitErrs_within (s : State) (a1 : Nat) (a2 : Nat) (a3 : List (Nat × Bool)) : Within [.regs, .agg, .mil] s (State.flitErrs s a1 a2 a3) := by
  induction a3 generalizing s a1 a2 with
  | nil =>
    unfold State.flitErrs
    repeat' first
      | with_reducible exact Within.refl _ _
      | with_reducible assumption
      | exact (rfl : _ = true)
      | (with_reducible apply Within.via (State.setPkt_within ..))
      | (with_reducible apply Within.via (State.flitErr_within ..))
      | (with_reducible apply Within.via (State.losePkt_within ..))
      | (intro z; refine (fun (hz : Within [.regs, .agg, .mil] s z) => ?_) ?_; rotate_left; dsimp only [z]; rotate_left; clear_value z)
      | (intro z; clear_value z)
      | lift_lets -underBinder
      | split
  | cons x a3 ih =>
    unfold State.flitErrs
    repeat' first
      | with_reducible exact Within.refl _ _
      | with_reducible assumption
      | exact (rfl : _ = true)
      | (with_reducible apply Within.via (State.setPkt_within ..))
      | (with_reducible apply Within.via (State.flitErr_within ..))
      | (with_reducible apply Within.via (State.losePkt_within ..))
      | (with_reducible apply Within.via (ih ..))
      | (intro z; refine (fun (hz : Within [.regs, .agg, .mil] s z) => ?_) ?_; rotate_left; dsimp only [z]; rotate_left; clear_value z)
      | (intro z; clear_value z)
      | lift_lets -underBinder
      | split

theorem State.routerHop_within (s : State) (a1 : Nat) (a2 : List (Nat × Bool)) : Within [.regs, .agg, .mil] s (State.routerHop s a1 a2) := by
  unfold State.routerHop
  repeat' first
    | with_reducible exact Within.refl _ _
    | with_reducible assumption
    | exact (rfl : _ = true)
    | (with_reducible apply Within.via (State.setPkt_within ..))
    | (with_reducible apply Within.via (State.setChan_within ..))
    | (with_reducible apply Within.via (State.flitErrs_within ..))
    | (intro z; refine (fun (hz : Within [.regs, .agg, .mil] s z) => ?_) ?_; rotate_left; dsimp only [z]; rotate_left; clear_value z)
    | (intro z; clear_value z)
    | lift_lets -underBinder
    | split

theorem State.arrive_within (s : State) (a1 : Nat) (a2 : Nat) : Within [.regs, .agg, .mil, .out, .fresh] s (State.arrive s a1 a2) := by
  unfold State.arrive
  repeat' first
    | with_reducible exact Within.refl _ _
    | with_reducible assumption
    | exact (rfl : _ = true)
    | (with_reducible apply Within.via (State.useFree_within ..))
    | (with_reducible apply Within.via (State.setEp_within ..))
    | (with_reducible apply Within.via (State.setPkt_within ..))
    | (with_reducible apply Within.via (State.delPkt_within ..))
    | (with_reducible apply Within.via (Within.ofFst (State.newPkt_within ..) (by assumption)))
    | (with_reducible apply Within.via (State.newPkt_within ..))
    | (with_reducible apply Within.via (State.madeRsp_within ..))
    | (with_reducible apply Within.via (State.truncate_within ..))
    | (with_reducible apply Within.via (State.discardOut_within ..))
    | (with_reducible apply Within.via (State.losePkt_within ..))
    | (intro z; refine (fun (hz : Within [.regs, .agg, .mil, .out, .fresh] s z) => ?_) ?_; rotate_left; dsimp only [z]; rotate_left; clear_value z)
    | (intro z; clear_value z)
    | lift_lets -underBinder
    | split

theorem State.present_within (s : State) (a1 : Nat) (a2 : Nat) (a3 : Nat) : Within [.mil, .out] s (State.present s a1 a2 a3) := by
  unfold State.present
  repeat' first
    | with_reducible exact Within.refl _ _
    | with_reducible assumption
    | exact (rfl : _ = true)
    | (with_reducible apply Within.via (State.emit_within ..))
    | (with_reducible apply Within.via (State.setEp_within ..))
    | (with_reducible apply Within.via (State.setPkt_within ..))
    | (with_reducible apply Within.via (State.killPkt_within ..))
    | (intro z; refine (fun (hz : Within [.mil, .out] s z) => ?_) ?_; rotate_left; dsimp only [z]; rotate_left; clear_value z)
    | (intro z; clear_value z)
    | lift_lets -underBinder
    | split

theorem State.egress_within (s : State) (a1 : Nat) (a2 : EgressOp) : Within [.regs, .agg, .mil, .out, .fresh] s (State.egress s a1 a2) := by
  unfold State.egress
  repeat' first
    | with_reducible exact Within.refl _ _
    | exact (rfl : _ = true)
    | (with_reducible apply Within.via (State.arrive_within ..))
    | (with_reducible apply Within.via (State.present_within ..))
    | split

theorem State.trackRsp_within (s : State) (a1 : Nat) (a2 : Nat) : Within [.regs, .agg, .mil] s (State.trackRsp s a1 a2) := by
  unfold State.trackRsp
  repeat' first
    | with_reducible exact Within.refl _ _
    | with_reducible assumption
    | exact (rfl : _ = true)
    | (with_reducible apply Within.via (State.setPkt_within ..))
    | (with_reducible apply Within.via (State.dropTrack_within ..))
    | (with_reducible apply Within.via (State.killPkt_within ..))
    | (with_reducible apply Within.via (State.noteCompletion_within ..))
    | (with_reducible apply Within.via (State.late_within ..))
    | (intro z; refine (fun (hz : Within [.regs, .agg, .mil] s z) => ?_) ?_; rotate_left; dsimp only [z]; rotate_left; clear_value z)
    | (intro z; clear_value z)
    | lift_lets -underBinder
    | split

theorem State.answer_within (s : State) (a1 : Nat) (a2 : Nat) (a3 : Nat) (a4 : Nat) (a5 : Option Nat) (a6 : List (BitVec 512 × Bool)) : Within [.mil, .fresh] s (State.answer s a1 a2 a3 a4 a5 a6) := by
  unfold State.answer
  repeat' first
    | with_reducible exact Within.refl _ _
    | with_reducible assumption
    | exact (rfl : _ = true)
    | (with_reducible apply Within.via (State.useFree_within ..))
    | (with_reducible apply Within.via (State.killPkt_within ..))
    | (with_reducible apply Within.via (State.sendRsp_within ..))
    | (intro z; refine (fun (hz : Within [.mil, .fresh] s z) => ?_) ?_; rotate_left; dsimp only [z]; rotate_left; clear_value z)
    | (intro z; clear_value z)
    | lift_lets -underBinder
    | split

theorem State.agentAnswer_within (s : State) (a1 : Nat) (a2 : Nat) (a3 : Nat) (a4 : Option Nat) : Within [.mil, .fresh] s (State.agentAnswer s a1 a2 a3 a4) := by
  unfold State.agentAnswer
  repeat' first
    | with_reducible exact Within.refl _ _
    | with_reducible assumption
    | exact (rfl : _ = true)
    | (with_reducible apply Within.via (State.useFree_within ..))
    | (with_reducible apply Within.via (State.killPkt_within ..))
    | (with_reducible apply Within.via (State.injectRsp_within ..))
    | (intro z; refine (fun (hz : Within [.mil, .fresh] s z) => ?_) ?_; rotate_left; dsimp only [z]; rotate_left; clear_value z)
    | (intro z; clear_value z)
    | lift_lets -underBinder
    | split

theorem State.markUnreach_within (s : State) (a1 : Nat) (a2 : Nat) : Within [.mil, .out, .fresh] s (State.markUnreach s a1 a2) := by
  unfold State.markUnreach
  repeat' first
    | with_reducible exact Within.refl _ _
    | with_reducible assumption
    | exact (rfl : _ = true)
    | (with_reducible apply Within.via (State.setEp_within ..))
    | (with_reducible apply Within.via (State.delPkt_within ..))
    | (with_reducible apply Within.via (State.truncate_within ..))
    | with_reducible apply Within.foldl
    | refine (fun (s : State) x => ?_)
    | (intro z; refine (fun (hz : Within [.mil, .out, .fresh] s z) => ?_) ?_; rotate_left; dsimp only [z]; rotate_left; clear_value z)
    | (intro z; clear_value z)
    | lift_lets -underBinder
    | split

theorem State.clearUnreach_within (s : State) (a1 : Nat) (a2 : Nat) : Within [.mil] s (State.clearUnreach s a1 a2) := by
  unfold State.clearUnreach
  repeat' first
    | with_reducible exact Within.refl _ _
    | exact (rfl : _ = true)
    | (with_reducible apply Within.via (State.setEp_within ..))

theorem State.sweep_within (s : State) (a1 : Nat) : Within [.regs, .agg, .mil, .fresh] s (State.sweep s a1) := by
  unfold State.sweep
  repeat' first
    | with_reducible exact Within.refl _ _
    | exact (rfl : _ = true)
    | (with_reducible apply Within.via (State.completeTracked_within ..))
    | with_reducible apply Within.foldl
    | refine (fun (s : State) x => ?_)

end Sys2Proof.Machine
end

