-- ==== Sys2Proof/Laws/WithinMemory.lean ====
section
/-! SUPPORT. Which parts of the state each operation of Machine/Memory.lean touches. -/

namespace Sys2Proof.Machine

theorem State.syncStat_within (s : State) (a1 : Nat) : Within [.regs, .agg] s (State.syncStat s a1) := by
  unfold State.syncStat
  repeat' first
    | with_reducible exact Within.refl _ _
    | with_reducible assumption
    | exact (rfl : _ = true)
    | (with_reducible apply Within.via (State.wr32_within ..))
    | (intro z; refine (fun (hz : Within [.regs, .agg] s z) => ?_) ?_; rotate_left; dsimp only [z]; rotate_left; clear_value z)
    | (intro z; clear_value z)
    | lift_lets -underBinder

theorem State.setPortWork_within (s : State) (port : Nat) (w : PortWork) : Within [.regs, .agg, .mem] s (s.setPortWork port w) :=
  Within.via (State.syncStat_within ..) (by decide) (Within.mem (Within.refl _ s) (by decide) id id (fun h => smWf_smSet _ _ _ _ h))

theorem State.wearCheck_within (s : State) (a1 : Nat) : Within [.regs, .agg, .tol] s (State.wearCheck s a1) := by
  unfold State.wearCheck
  repeat' first
    | with_reducible exact Within.refl _ _
    | with_reducible assumption
    | exact (rfl : _ = true)
    | (with_reducible apply Within.via (State.fset_within ..))
    | (with_reducible apply Within.via (State.irq_within ..))
    | (with_reducible apply Within.via (State.eventRecord_within ..))
    | (intro z; refine (fun (hz : Within [.regs, .agg, .tol] s z) => ?_) ?_; rotate_left; dsimp only [z]; rotate_left; clear_value z)
    | (intro z; clear_value z)
    | lift_lets -underBinder
    | split

theorem State.wearUp_within (s : State) (a1 : Nat) (a2 : Nat) : Within [.regs, .agg, .tol] s (State.wearUp s a1 a2) := by
  unfold State.wearUp
  repeat' first
    | with_reducible exact Within.refl _ _
    | exact (rfl : _ = true)
    | (with_reducible apply Within.via (State.fadd_within ..))
    | (with_reducible apply Within.via (State.wearCheck_within ..))

theorem State.wearWarnWritten_within (s : State) : Within [.regs, .agg, .tol] s (State.wearWarnWritten s) := by
  unfold State.wearWarnWritten
  repeat' first
    | with_reducible exact Within.refl _ _
    | exact (rfl : _ = true)
    | (with_reducible apply Within.via (State.wearCheck_within ..))
    | with_reducible apply Within.foldl
    | refine (fun (s : State) x => ?_)
    | split

theorem State.memLog_within (s : State) (a1 : Nat) (a2 : Nat) (a3 : Nat) (a4 : Nat) (a5 : Nat) : Within [.regs, .agg, .tol] s (State.memLog s a1 a2 a3 a4 a5) := by
  unfold State.memLog
  repeat' first
    | with_reducible exact Within.refl _ _
    | exact (rfl : _ = true)
    | (with_reducible apply Within.via (State.wr32_within ..))
    | (with_reducible apply Within.via (State.irq_within ..))
    | (with_reducible apply Within.via (State.eventRecord_within ..))

theorem State.poisonEvent_within (s : State) (a1 : Nat) (a2 : Nat) (a3 : Nat) (a4 : Nat) (a5 : Nat) : Within [.regs, .agg, .mem, .tol] s (State.poisonEvent s a1 a2 a3 a4 a5) := by
  unfold State.poisonEvent
  repeat' first
    | with_reducible exact Within.refl _ _
    | exact (rfl : _ = true)
    | (with_reducible apply Within.via (State.finc_within ..))
    | (with_reducible apply Within.via (State.setLine_within ..))
    | (with_reducible apply Within.via (State.memLog_within ..))

theorem State.lineCorrected_within (s : State) (a1 : Nat) : Within [.regs, .agg] s (State.lineCorrected s a1) := by
  unfold State.lineCorrected
  repeat' first
    | with_reducible exact Within.refl _ _
    | exact (rfl : _ = true)
    | (with_reducible apply Within.via (State.finc_within ..))
    | (with_reducible apply Within.via (State.irq_within ..))

theorem State.meterMem_within (s : State) (a1 : Nat) (a2 : Header) (a3 : Nat) : Within [.tally] s (State.meterMem s a1 a2 a3) := by
  unfold State.meterMem
  repeat' first
    | with_reducible exact Within.refl _ _
    | exact (rfl : _ = true)
    | split
    | with_reducible apply Within.tally

theorem State.readLine_within (s : State) (a1 : Nat) (a2 : Nat) (a3 : Nat) (a4 : Nat) (a5 : Option LineFault) : Within [.regs, .agg, .mem, .tol, .fresh] s (State.readLine s a1 a2 a3 a4 a5).1 := by
  unfold State.readLine
  repeat' first
    | with_reducible exact Within.refl _ _
    | with_reducible assumption
    | exact (rfl : _ = true)
    | (with_reducible apply Within.via (State.finc_within ..))
    | (with_reducible apply Within.via (State.useFree_within ..))
    | (with_reducible apply Within.via (State.poisonEvent_within ..))
    | (with_reducible apply Within.via (State.lineCorrected_within ..))
    | (intro z; refine (fun (hz : Within [.regs, .agg, .mem, .tol, .fresh] s z) => ?_) ?_; rotate_left; dsimp only [z]; rotate_left; clear_value z)
    | (intro z; clear_value z)
    | lift_lets -underBinder
    | split

theorem State.readLines_within (s : State) (a1 : Nat) (a2 : Nat) (a3 : Nat) (a4 : List (Nat × LineFault)) (a5 : List Nat) : Within [.regs, .agg, .mem, .tol, .fresh] s (State.readLines s a1 a2 a3 a4 a5).1 := by
  induction a5 generalizing s a1 a2 a3 a4 with
  | nil =>
    unfold State.readLines
    repeat' first
      | with_reducible exact Within.refl _ _
      | with_reducible assumption
      | exact (rfl : _ = true)
      | (with_reducible apply Within.via (State.readLine_within ..))
      | (intro z; refine (fun (hz : Within [.regs, .agg, .mem, .tol, .fresh] s z) => ?_) ?_; rotate_left; dsimp only [z]; rotate_left; clear_value z)
      | (intro z; clear_value z)
      | lift_lets -underBinder
      | split
  | cons x a5 ih =>
    unfold State.readLines
    repeat' first
      | with_reducible exact Within.refl _ _
      | with_reducible assumption
      | exact (rfl : _ = true)
      | (with_reducible apply Within.via (State.readLine_within ..))
      | (with_reducible apply Within.via (ih ..))
      | (intro z; refine (fun (hz : Within [.regs, .agg, .mem, .tol, .fresh] s z) => ?_) ?_; rotate_left; dsimp only [z]; rotate_left; clear_value z)
      | (intro z; clear_value z)
      | lift_lets -underBinder
      | split

theorem State.storeLine_within (s : State) (a1 : Nat) (a2 : Nat) (a3 : Nat) (a4 : BitVec 512) : Within [.regs, .agg, .mem, .tol] s (State.storeLine s a1 a2 a3 a4) := by
  unfold State.storeLine
  repeat' first
    | with_reducible exact Within.refl _ _
    | with_reducible assumption
    | exact (rfl : _ = true)
    | (with_reducible apply Within.via (State.setLine_within ..))
    | (with_reducible apply Within.via (State.wearUp_within ..))
    | (intro z; refine (fun (hz : Within [.regs, .agg, .mem, .tol] s z) => ?_) ?_; rotate_left; dsimp only [z]; rotate_left; clear_value z)
    | (intro z; clear_value z)
    | lift_lets -underBinder
    | split

theorem State.writeLine_within (s : State) (a1 : Nat) (a2 : Nat) (a3 : Nat) (a4 : Nat) (a5 : Nat) (a6 : BitVec 512 × Bool) (a7 : Option LineFault) : Within [.regs, .agg, .mem, .tol, .fresh] s (State.writeLine s a1 a2 a3 a4 a5 a6 a7).1 := by
  unfold State.writeLine
  repeat' first
    | with_reducible exact Within.refl _ _
    | with_reducible assumption
    | exact (rfl : _ = true)
    | (with_reducible apply Within.via (State.finc_within ..))
    | (with_reducible apply Within.via (State.useFree_within ..))
    | (with_reducible apply Within.via (State.poisonEvent_within ..))
    | (with_reducible apply Within.via (State.lineCorrected_within ..))
    | (with_reducible apply Within.via (State.storeLine_within ..))
    | (intro z; refine (fun (hz : Within [.regs, .agg, .mem, .tol, .fresh] s z) => ?_) ?_; rotate_left; dsimp only [z]; rotate_left; clear_value z)
    | (intro z; clear_value z)
    | lift_lets -underBinder
    | split

theorem State.writeLines_within (s : State) (a1 : Nat) (a2 : Nat) (a3 : Nat) (a4 : Nat) (a5 : List (Nat × LineFault)) (a6 : List (Nat × BitVec 512 × Bool)) : Within [.regs, .agg, .mem, .tol, .fresh] s (State.writeLines s a1 a2 a3 a4 a5 a6).1 := by
  induction a6 generalizing s a1 a2 a3 a4 a5 with
  | nil =>
    unfold State.writeLines
    repeat' first
      | with_reducible exact Within.refl _ _
      | with_reducible assumption
      | exact (rfl : _ = true)
      | (with_reducible apply Within.via (State.writeLine_within ..))
      | (intro z; refine (fun (hz : Within [.regs, .agg, .mem, .tol, .fresh] s z) => ?_) ?_; rotate_left; dsimp only [z]; rotate_left; clear_value z)
      | (intro z; clear_value z)
      | lift_lets -underBinder
      | split
  | cons x a6 ih =>
    unfold State.writeLines
    repeat' first
      | with_reducible exact Within.refl _ _
      | with_reducible assumption
      | exact (rfl : _ = true)
      | (with_reducible apply Within.via (State.writeLine_within ..))
      | (with_reducible apply Within.via (ih ..))
      | (intro z; refine (fun (hz : Within [.regs, .agg, .mem, .tol, .fresh] s z) => ?_) ?_; rotate_left; dsimp only [z]; rotate_left; clear_value z)
      | (intro z; clear_value z)
      | lift_lets -underBinder
      | split

theorem State.linkDownLog_within (s : State) (a1 : Nat) (a2 : Header) : Within [.regs, .agg, .mem, .tol] s (State.linkDownLog s a1 a2) := by
  unfold State.linkDownLog
  repeat' first
    | with_reducible exact Within.refl _ _
    | with_reducible assumption
    | exact (rfl : _ = true)
    | (with_reducible apply Within.via (State.setPortWork_within ..))
    | (with_reducible apply Within.via (State.memLog_within ..))
    | (intro z; refine (fun (hz : Within [.regs, .agg, .mem, .tol] s z) => ?_) ?_; rotate_left; dsimp only [z]; rotate_left; clear_value z)
    | (intro z; clear_value z)
    | lift_lets -underBinder
    | split

theorem State.memRequest_within (s : State) (a1 : Nat) (a2 : Nat) (a3 : Nat) (a4 : List (Nat × LineFault)) : Within [.regs, .agg, .mil, .mem, .tally, .tol, .fresh] s (State.memRequest s a1 a2 a3 a4) := by
  unfold State.memRequest
  repeat' first
    | with_reducible exact Within.refl _ _
    | with_reducible assumption
    | exact (rfl : _ = true)
    | (with_reducible apply Within.via (State.answer_within ..))
    | (with_reducible apply Within.via (State.meterMem_within ..))
    | (with_reducible apply Within.via (Within.ofFst (State.readLines_within ..) (by assumption)))
    | (with_reducible apply Within.via (State.readLines_within ..))
    | (with_reducible apply Within.via (Within.ofFst (State.writeLines_within ..) (by assumption)))
    | (with_reducible apply Within.via (State.writeLines_within ..))
    | (with_reducible apply Within.via (State.linkDownLog_within ..))
    | (intro z; refine (fun (hz : Within [.regs, .agg, .mil, .mem, .tally, .tol, .fresh] s z) => ?_) ?_; rotate_left; dsimp only [z]; rotate_left; clear_value z)
    | (intro z; clear_value z)
    | lift_lets -underBinder
    | split

theorem State.rgnRef_within (s : State) (a1 : Nat) (a2 : Bool) : Within [.regs, .agg] s (State.rgnRef s a1 a2) := by
  unfold State.rgnRef
  repeat' first
    | with_reducible exact Within.refl _ _
    | with_reducible assumption
    | exact (rfl : _ = true)
    | (with_reducible apply Within.via (State.fset_within ..))
    | (intro z; refine (fun (hz : Within [.regs, .agg] s z) => ?_) ?_; rotate_left; dsimp only [z]; rotate_left; clear_value z)
    | (intro z; clear_value z)
    | lift_lets -underBinder
    | split

theorem State.setRgnState_within (s : State) (a1 : Nat) (a2 : Nat) (a3 : Nat) : Within [.regs, .agg] s (State.setRgnState s a1 a2 a3) := by
  unfold State.setRgnState
  repeat' first
    | with_reducible exact Within.refl _ _
    | exact (rfl : _ = true)
    | (with_reducible apply Within.via (State.fset_within ..))

theorem State.rgnCreate_within (s : State) (a1 : Nat) (a2 : Nat) : Within [.regs, .agg, .mem] s (State.rgnCreate s a1 a2) := by
  unfold State.rgnCreate
  repeat' first
    | with_reducible exact Within.refl _ _
    | with_reducible assumption
    | exact (rfl : _ = true)
    | (with_reducible apply Within.via (State.wr32_within ..))
    | (with_reducible apply Within.via (State.setPortWork_within ..))
    | (with_reducible apply Within.via (State.rgnRef_within ..))
    | (with_reducible apply Within.via (State.setRgnState_within ..))
    | (intro z; refine (fun (hz : Within [.regs, .agg, .mem] s z) => ?_) ?_; rotate_left; dsimp only [z]; rotate_left; clear_value z)
    | (intro z; clear_value z)
    | lift_lets -underBinder

theorem State.rgnDestroy_within (s : State) (a1 : Nat) (a2 : Nat) : Within [.regs, .agg, .mem] s (State.rgnDestroy s a1 a2) := by
  unfold State.rgnDestroy
  repeat' first
    | with_reducible exact Within.refl _ _
    | with_reducible assumption
    | exact (rfl : _ = true)
    | (with_reducible apply Within.via (State.wr32_within ..))
    | (with_reducible apply Within.via (State.setPortWork_within ..))
    | (with_reducible apply Within.via (State.rgnRef_within ..))
    | (with_reducible apply Within.via (State.setRgnState_within ..))
    | (intro z; refine (fun (hz : Within [.regs, .agg, .mem] s z) => ?_) ?_; rotate_left; dsimp only [z]; rotate_left; clear_value z)
    | (intro z; clear_value z)
    | lift_lets -underBinder
    | split

theorem State.rgnRekey_within (s : State) (a1 : Nat) (a2 : Nat) : Within [.regs, .agg, .mem] s (State.rgnRekey s a1 a2) := by
  unfold State.rgnRekey
  repeat' first
    | with_reducible exact Within.refl _ _
    | with_reducible assumption
    | exact (rfl : _ = true)
    | (with_reducible apply Within.via (State.wr32_within ..))
    | (with_reducible apply Within.via (State.setPortWork_within ..))
    | (with_reducible apply Within.via (State.rgnRef_within ..))
    | (with_reducible apply Within.via (State.setRgnState_within ..))
    | (intro z; refine (fun (hz : Within [.regs, .agg, .mem] s z) => ?_) ?_; rotate_left; dsimp only [z]; rotate_left; clear_value z)
    | (intro z; clear_value z)
    | lift_lets -underBinder

theorem State.rgnFinish_within (s : State) (a1 : Nat) (a2 : Nat) : Within [.regs, .agg] s (State.rgnFinish s a1 a2) := by
  unfold State.rgnFinish
  repeat' first
    | with_reducible exact Within.refl _ _
    | exact (rfl : _ = true)
    | (with_reducible apply Within.via (State.wr32_within ..))
    | (with_reducible apply Within.via (State.fset_within ..))
    | (with_reducible apply Within.via (State.rgnRef_within ..))
    | (with_reducible apply Within.via (State.setRgnState_within ..))

theorem State.rgnCmd_within (s : State) (a1 : Req) (a2 : Nat) (a3 : Nat) (a4 : Nat) : Within [.regs, .agg, .mem] s (State.rgnCmd s a1 a2 a3 a4) := by
  unfold State.rgnCmd
  repeat' first
    | with_reducible exact Within.refl _ _
    | with_reducible assumption
    | exact (rfl : _ = true)
    | (with_reducible apply Within.via (State.refuse_within ..))
    | (with_reducible apply Within.via (State.rgnCreate_within ..))
    | (with_reducible apply Within.via (State.rgnDestroy_within ..))
    | (with_reducible apply Within.via (State.rgnRekey_within ..))
    | (with_reducible apply Within.via (State.rgnFinish_within ..))
    | (intro z; refine (fun (hz : Within [.regs, .agg, .mem] s z) => ?_) ?_; rotate_left; dsimp only [z]; rotate_left; clear_value z)
    | (intro z; clear_value z)
    | lift_lets -underBinder
    | split

theorem State.zeroingEnd_within (s : State) (a1 : Nat) : Within [.regs, .agg, .mem, .tol] s (State.zeroingEnd s a1) := by
  unfold State.zeroingEnd
  repeat' first
    | with_reducible exact Within.refl _ _
    | with_reducible assumption
    | exact (rfl : _ = true)
    | (with_reducible apply Within.via (State.irq_within ..))
    | (with_reducible apply Within.via (State.setPortWork_within ..))
    | (with_reducible apply Within.via (State.wearUp_within ..))
    | (with_reducible apply Within.via (State.setRgnState_within ..))
    | (with_reducible apply Within.via (State.zeroRegion_within ..))
    | (intro z; refine (fun (hz : Within [.regs, .agg, .mem, .tol] s z) => ?_) ?_; rotate_left; dsimp only [z]; rotate_left; clear_value z)
    | (intro z; clear_value z)
    | lift_lets -underBinder
    | split

theorem State.walkLines_within (s : State) (a1 : Nat) (a2 : Nat) (a3 : List (Nat × LineFault)) (a4 : List Nat) : Within [.regs, .agg, .mem, .tol] s (State.walkLines s a1 a2 a3 a4).1 := by
  induction a4 generalizing s a1 a2 a3 with
  | nil =>
    unfold State.walkLines
    repeat' first
      | with_reducible exact Within.refl _ _
      | with_reducible assumption
      | exact (rfl : _ = true)
      | (with_reducible apply Within.via (State.poisonEvent_within ..))
      | (with_reducible apply Within.via (State.lineCorrected_within ..))
      | (intro z; refine (fun (hz : Within [.regs, .agg, .mem, .tol] s z) => ?_) ?_; rotate_left; dsimp only [z]; rotate_left; clear_value z)
      | (intro z; clear_value z)
      | lift_lets -underBinder
      | split
  | cons x a4 ih =>
    unfold State.walkLines
    repeat' first
      | with_reducible exact Within.refl _ _
      | with_reducible assumption
      | exact (rfl : _ = true)
      | (with_reducible apply Within.via (State.poisonEvent_within ..))
      | (with_reducible apply Within.via (State.lineCorrected_within ..))
      | (with_reducible apply Within.via (ih ..))
      | (intro z; refine (fun (hz : Within [.regs, .agg, .mem, .tol] s z) => ?_) ?_; rotate_left; dsimp only [z]; rotate_left; clear_value z)
      | (intro z; clear_value z)
      | lift_lets -underBinder
      | split

theorem State.walkTake_within (s : State) (a1 : Nat) (a2 : List (Nat × LineFault)) : Within [.regs, .agg, .mem, .tol] s (State.walkTake s a1 a2) := by
  unfold State.walkTake
  repeat' first
    | with_reducible exact Within.refl _ _
    | with_reducible assumption
    | exact (rfl : _ = true)
    | (with_reducible apply Within.via (State.setPortWork_within ..))
    | (with_reducible apply Within.via (State.walkLines_within ..))
    | (intro z; refine (fun (hz : Within [.regs, .agg, .mem, .tol] s z) => ?_) ?_; rotate_left; dsimp only [z]; rotate_left; clear_value z)
    | (intro z; clear_value z)
    | lift_lets -underBinder
    | split

theorem State.walkDone_within (s : State) (a1 : Nat) : Within [.regs, .agg, .mem, .tol] s (State.walkDone s a1) := by
  unfold State.walkDone
  repeat' first
    | with_reducible exact Within.refl _ _
    | with_reducible assumption
    | exact (rfl : _ = true)
    | (with_reducible apply Within.via (State.wr32_within ..))
    | (with_reducible apply Within.via (State.irq_within ..))
    | (with_reducible apply Within.via (State.setPortWork_within ..))
    | (with_reducible apply Within.via (State.setLine_within ..))
    | (with_reducible apply Within.via (State.wearUp_within ..))
    | (with_reducible apply Within.via (State.setRgnState_within ..))
    | with_reducible apply Within.foldl
    | refine (fun (s : State) x => ?_)
    | (intro z; refine (fun (hz : Within [.regs, .agg, .mem, .tol] s z) => ?_) ?_; rotate_left; dsimp only [z]; rotate_left; clear_value z)
    | (intro z; clear_value z)
    | lift_lets -underBinder
    | split

theorem State.hbmIfError_within (s : State) (a1 : Nat) : Within [.regs, .agg, .mil, .out, .fresh] s (State.hbmIfError s a1) := by
  unfold State.hbmIfError
  repeat' first
    | with_reducible exact Within.refl _ _
    | exact (rfl : _ = true)
    | (with_reducible apply Within.via (State.fset_within ..))
    | (with_reducible apply Within.via (State.markUnreach_within ..))
    | split

theorem State.cxlLinkDown_within (s : State) (a1 : Nat) : Within [.regs, .agg, .mem] s (State.cxlLinkDown s a1) := by
  unfold State.cxlLinkDown
  repeat' first
    | with_reducible exact Within.refl _ _
    | with_reducible assumption
    | exact (rfl : _ = true)
    | (with_reducible apply Within.via (State.fset_within ..))
    | (with_reducible apply Within.via (State.setPortWork_within ..))
    | (intro z; refine (fun (hz : Within [.regs, .agg, .mem] s z) => ?_) ?_; rotate_left; dsimp only [z]; rotate_left; clear_value z)
    | (intro z; clear_value z)
    | lift_lets -underBinder

theorem State.loadSlot_within (s : State) (k : Nat) (k1 k2 kt : BitVec 256) (d : Bool) : Within [.regs, .agg, .mem] s (s.loadSlot k k1 k2 kt d) :=
  Within.via (State.wr32_within ..) (by decide) (Within.via (State.wr64_within ..) (by decide)
    (Within.mem (Within.refl _ s) (by decide) id (fun h => smWf_smSet _ _ _ _ h) id))

theorem State.retireSlot_within (s : State) (a1 : Nat) : Within [.regs, .agg] s (State.retireSlot s a1) := by
  unfold State.retireSlot
  repeat' first
    | with_reducible exact Within.refl _ _
    | exact (rfl : _ = true)
    | (with_reducible apply Within.via (State.fset_within ..))

theorem State.slotZeroise_within (s : State) (k : Nat) (b : Bool) : Within [.regs, .agg, .mem, .tol] s (s.slotZeroise k b) := by
  unfold State.slotZeroise
  split
  · exact Within.refl _ _
  · exact Within.via (State.eventRecord_within ..) (by decide) (Within.via (State.irq_within ..) (by decide)
      (Within.via (State.wr32_within ..) (by decide) (Within.via (State.wr64_within ..) (by decide)
        (Within.mem (Within.refl _ s) (by decide) id (fun h => smWf_smDel _ _ _ h) id))))

end Sys2Proof.Machine
end

