-- ==== Sys2Proof/Laws/WithinStallCore.lean ====
section
/-! SUPPORT. Which parts of the state each operation of Machine/StallCore.lean touches. -/

namespace Sys2Proof.Machine

theorem State.setStallState_within (s : State) (a1 : Nat) (a2 : Nat) : Within [.regs, .agg] s (State.setStallState s a1 a2) := by
  unfold State.setStallState
  repeat' first
    | with_reducible exact Within.refl _ _
    | exact (rfl : _ = true)
    | (with_reducible apply Within.via (State.fset_within ..))

theorem State.setPlaneState_within (s : State) (a1 : Nat) (a2 : Nat) (a3 : Nat) : Within [.regs, .agg] s (State.setPlaneState s a1 a2 a3) := by
  unfold State.setPlaneState
  repeat' first
    | with_reducible exact Within.refl _ _
    | exact (rfl : _ = true)
    | (with_reducible apply Within.via (State.fset_within ..))

theorem State.setPlaneSaved_within (s : State) (a1 : Nat) (a2 : Nat) (a3 : Bool) : Within [.regs, .agg] s (State.setPlaneSaved s a1 a2 a3) := by
  unfold State.setPlaneSaved
  repeat' first
    | with_reducible exact Within.refl _ _
    | exact (rfl : _ = true)
    | (with_reducible apply Within.via (State.fset_within ..))

theorem State.setGated_within (s : State) (a1 : Nat) (a2 : Bool) : Within [.regs, .agg] s (State.setGated s a1 a2) := by
  unfold State.setGated
  repeat' first
    | with_reducible exact Within.refl _ _
    | exact (rfl : _ = true)
    | (with_reducible apply Within.via (State.fset_within ..))

theorem State.freezeEngine_within (s : State) (b : Bool) (m : Nat) : Within [.regs, .agg, .eddies, .dbg] s (s.freezeEngine b m) := by
  have h1 : Within [.regs, .agg, .eddies, .dbg] s { s with eddies := releaseLock s.eddies m } :=
    Within.eddies (Within.refl _ s) (by decide) (releaseLock_wf m)
  unfold State.freezeEngine
  dsimp only
  generalize ({ s with eddies := releaseLock s.eddies m } : State) = t at *
  repeat' first
    | with_reducible exact Within.refl _ _
    | with_reducible assumption
    | decide
    | (with_reducible apply Within.via (State.fset_within ..))
    | (with_reducible apply Within.via (State.setEddy_within ..))
    | (with_reducible apply Within.via (State.setDbg_within ..))
    | split

theorem State.fence_within (s : State) (a1 : List Nat) (a2 : List Nat) : Within [.mil] s (State.fence s a1 a2) := by
  unfold State.fence
  repeat' first
    | with_reducible exact Within.refl _ _
    | exact (rfl : _ = true)
    | (with_reducible apply Within.via (State.putTrack_within ..))
    | with_reducible apply Within.foldl
    | refine (fun (s : State) x => ?_)
    | split

theorem State.freezePort_within (s : State) (a1 : Nat) : Within [.regs, .agg, .mil, .out, .fresh] s (State.freezePort s a1) := by
  unfold State.freezePort
  repeat' first
    | with_reducible exact Within.refl _ _
    | with_reducible assumption
    | exact (rfl : _ = true)
    | (with_reducible apply Within.via (State.setEp_within ..))
    | (with_reducible apply Within.via (State.killPkt_within ..))
    | (with_reducible apply Within.via (State.truncate_within ..))
    | (with_reducible apply Within.via (State.discardOut_within ..))
    | (with_reducible apply Within.via (State.dropRestOut_within ..))
    | with_reducible apply State.discardAll_within
    | with_reducible apply Within.foldl
    | refine (fun (s : State) x => ?_)
    | (intro z; refine (fun (hz : Within [.regs, .agg, .mil, .out, .fresh] s z) => ?_) ?_; rotate_left; dsimp only [z]; rotate_left; clear_value z)
    | (intro z; clear_value z)
    | lift_lets -underBinder
    | split

theorem State.freezeEnginePackets_within (s : State) (a1 : List Nat) : Within [.mil] s (State.freezeEnginePackets s a1) := by
  unfold State.freezeEnginePackets
  repeat' first
    | with_reducible exact Within.refl _ _
    | exact (rfl : _ = true)
    | (with_reducible apply Within.via (State.killPkt_within ..))
    | with_reducible apply Within.foldl
    | refine (fun (s : State) x => ?_)
    | split

theorem State.freeze_within (s : State) (a1 : Nat) (a2 : Bool) : Within [.regs, .agg, .eddies, .mil, .lanes, .dbg, .out, .fresh] s (State.freeze s a1 a2) := by
  unfold State.freeze
  repeat' first
    | with_reducible exact Within.refl _ _
    | with_reducible assumption
    | exact (rfl : _ = true)
    | (with_reducible apply Within.via (State.capForget_within ..))
    | (with_reducible apply Within.via (State.setGated_within ..))
    | (with_reducible apply Within.via (State.freezeEngine_within ..))
    | (with_reducible apply Within.via (State.fence_within ..))
    | (with_reducible apply Within.via (State.freezePort_within ..))
    | (with_reducible apply Within.via (State.freezeEnginePackets_within ..))
    | with_reducible apply Within.foldl
    | refine (fun (s : State) x => ?_)
    | (intro z; refine (fun (hz : Within [.regs, .agg, .eddies, .mil, .lanes, .dbg, .out, .fresh] s z) => ?_) ?_; rotate_left; dsimp only [z]; rotate_left; clear_value z)
    | (intro z; clear_value z)
    | lift_lets -underBinder
    | split
    | exact smWf_smMap _ _ _
    | exact smWf_smClear _ _ _
    | with_reducible apply Within.lanes

theorem State.raiseFault_within (s : State) (a1 : Nat) (a2 : Nat) (a3 : Option Nat) : Within [.regs, .agg, .eddies, .mil, .stalls, .tol, .lanes, .dbg, .out, .fresh] s (State.raiseFault s a1 a2 a3) := by
  unfold State.raiseFault
  repeat' first
    | with_reducible exact Within.refl _ _
    | with_reducible assumption
    | exact (rfl : _ = true)
    | (with_reducible apply Within.via (State.wr32_within ..))
    | (with_reducible apply Within.via (State.fset_within ..))
    | (with_reducible apply Within.via (State.finc_within ..))
    | (with_reducible apply Within.via (State.irq_within ..))
    | (with_reducible apply Within.via (State.eventRecord_within ..))
    | (with_reducible apply Within.via (State.endJobs_within ..))
    | (with_reducible apply Within.via (State.setStall_within ..))
    | (with_reducible apply Within.via (State.setStallState_within ..))
    | (with_reducible apply Within.via (State.freeze_within ..))
    | (intro z; refine (fun (hz : Within [.regs, .agg, .eddies, .mil, .stalls, .tol, .lanes, .dbg, .out, .fresh] s z) => ?_) ?_; rotate_left; dsimp only [z]; rotate_left; clear_value z)
    | (intro z; clear_value z)
    | lift_lets -underBinder
    | split

theorem State.shedFault_within (s : State) (a1 : Nat) (a2 : Nat) : Within [.regs, .agg, .eddies, .mil, .stalls, .tol, .lanes, .dbg, .out, .fresh] s (State.shedFault s a1 a2) := by
  unfold State.shedFault
  repeat' first
    | with_reducible exact Within.refl _ _
    | exact (rfl : _ = true)
    | (with_reducible apply Within.via (State.raiseFault_within ..))
    | split

end Sys2Proof.Machine
end

