-- ==== Sys2Proof/Laws/WithinFabric.lean ====
section
/-! SUPPORT. Which parts of the state each operation of Machine/Fabric.lean touches. -/

namespace Sys2Proof.Machine

theorem State.memEvent_within (s : State) (a1 : Nat) (a2 : Nat) (a3 : Nat) (a4 : Nat) (a5 : Bool) : Within [.regs, .agg, .fab] s (State.memEvent s a1 a2 a3 a4 a5) := by
  unfold State.memEvent
  repeat' first
    | with_reducible exact Within.refl _ _
    | with_reducible assumption
    | exact (rfl : _ = true)
    | (with_reducible apply Within.via (State.wr32_within ..))
    | (with_reducible apply Within.via (State.finc_within ..))
    | (with_reducible apply Within.via (State.irq_within ..))
    | (intro z; refine (fun (hz : Within [.regs, .agg, .fab] s z) => ?_) ?_; rotate_left; dsimp only [z]; rotate_left; clear_value z)
    | (intro z; clear_value z)
    | lift_lets -underBinder
    | split
    | with_reducible apply Within.fab

theorem State.setFifoOvr_within (s : State) (a1 : Nat) (a2 : Nat) (a3 : Bool) : Within [.regs, .agg] s (State.setFifoOvr s a1 a2 a3) := by
  unfold State.setFifoOvr
  repeat' first
    | with_reducible exact Within.refl _ _
    | exact (rfl : _ = true)
    | (with_reducible apply Within.via (State.setBit_within ..))
    | split

theorem State.pondEdge_within (s : State) (a1 : Nat) (a2 : Nat) (a3 : PondCfg) (a4 : PortIn) (a5 : PortIn) : Within [.regs, .agg, .fab] s (State.pondEdge s a1 a2 a3 a4 a5) := by
  unfold State.pondEdge
  repeat' first
    | with_reducible exact Within.refl _ _
    | with_reducible assumption
    | exact (rfl : _ = true)
    | (with_reducible apply Within.via (State.memEvent_within ..))
    | (with_reducible apply Within.via (State.setPond_within ..))
    | with_reducible apply Within.foldl
    | with_reducible apply Within.foldlFst
    | with_reducible apply Within.foldlSnd
    | refine (fun (z : State × _) x hz => ?_)
    | refine (fun (z : _ × State) x hz => ?_)
    | refine (fun (z : State) (l : Loc) (d : List Nat) hz => ?_)
    | refine (fun (s : State) x => ?_)
    | (intro z; refine (fun (hz : Within [.regs, .agg, .fab] s z) => ?_) ?_; rotate_left; dsimp only [z]; rotate_left; clear_value z)
    | (intro z; refine (fun (hz : Within [.regs, .agg, .fab] s z.1) => ?_) ?_; rotate_left; dsimp only [z]; rotate_left; clear_value z)
    | (intro z; refine (fun (hz : Within [.regs, .agg, .fab] s z.2) => ?_) ?_; rotate_left; dsimp only [z]; rotate_left; clear_value z)
    | (intro z; have _h : State → _ := z; clear _h; dsimp -zeta only [z]; clear z)
    | (intro z; have _h : State × _ → _ := z; clear _h; dsimp -zeta only [z]; clear z)
    | (intro z; clear_value z)
    | (intro z; dsimp -zeta only [z]; clear z)
    | lift_lets -underBinder
    | split

theorem State.bmClock_within (s : State) (a1 : Nat) (a2 : Nat) (a3 : BmCfg) (a4 : BmIn) (a5 : Bool) (a6 : Bool) : Within [.regs, .agg, .fab, .fresh] s (State.bmClock s a1 a2 a3 a4 a5 a6) := by
  unfold State.bmClock
  repeat' first
    | with_reducible exact Within.refl _ _
    | with_reducible assumption
    | exact (rfl : _ = true)
    | (with_reducible apply Within.via (State.useFree_within ..))
    | (with_reducible apply Within.via (State.memEvent_within ..))
    | (with_reducible apply Within.via (State.setFifoOvr_within ..))
    | (with_reducible apply Within.via (State.setBm_within ..))
    | (intro z; refine (fun (hz : Within [.regs, .agg, .fab, .fresh] s z) => ?_) ?_; rotate_left; dsimp only [z]; rotate_left; clear_value z)
    | (intro z; clear_value z)
    | lift_lets -underBinder
    | split

theorem State.clockElem_within (a0 : State) (s : State) (a2 : ClockId) (a3 : Bool) (a4 : ElemIn) : Within [.regs, .agg, .fab, .fresh] s (State.clockElem a0 s a2 a3 a4) := by
  unfold State.clockElem
  repeat' first
    | with_reducible exact Within.refl _ _
    | with_reducible assumption
    | exact (rfl : _ = true)
    | (with_reducible apply Within.via (State.setPlane_within ..))
    | (with_reducible apply Within.via (State.setFfs_within ..))
    | (with_reducible apply Within.via (State.setFmb_within ..))
    | (with_reducible apply Within.via (State.setTrib_within ..))
    | (with_reducible apply Within.via (State.pondEdge_within ..))
    | (with_reducible apply Within.via (State.bmClock_within ..))
    | (intro z; refine (fun (hz : Within [.regs, .agg, .fab, .fresh] s z) => ?_) ?_; rotate_left; dsimp only [z]; rotate_left; clear_value z)
    | (intro z; clear_value z)
    | lift_lets -underBinder
    | split
    | with_reducible apply Within.fab

theorem State.fifoReset_within (s : State) (a1 : Nat) (a2 : Nat) : Within [.regs, .agg, .fab] s (State.fifoReset s a1 a2) := by
  unfold State.fifoReset
  repeat' first
    | with_reducible exact Within.refl _ _
    | exact (rfl : _ = true)
    | (with_reducible apply Within.via (State.setFifoOvr_within ..))
    | (with_reducible apply Within.via (State.setBm_within ..))
    | split

theorem State.flipLut_within (s : State) (a1 : Nat) (a2 : Nat) (a3 : Nat) (a4 : Nat) (a5 : Nat) : Within [.fab] s (State.flipLut s a1 a2 a3 a4 a5) := by
  unfold State.flipLut
  repeat' first
    | with_reducible exact Within.refl _ _
    | with_reducible assumption
    | exact (rfl : _ = true)
    | (with_reducible apply Within.via (State.setPlane_within ..))
    | (intro z; refine (fun (hz : Within [.fab] s z) => ?_) ?_; rotate_left; dsimp only [z]; rotate_left; clear_value z)
    | (intro z; clear_value z)
    | lift_lets -underBinder
    | split

theorem State.upset_within (s : State) (a1 : UpsetAt) : Within [.fab] s (State.upset s a1) := by
  unfold State.upset
  repeat' first
    | with_reducible exact Within.refl _ _
    | with_reducible assumption
    | exact (rfl : _ = true)
    | (with_reducible apply Within.via (State.setTrib_within ..))
    | (with_reducible apply Within.via (State.flipLut_within ..))
    | (with_reducible apply Within.via (State.setUpset_within ..))
    | (intro z; refine (fun (hz : Within [.fab] s z) => ?_) ?_; rotate_left; dsimp only [z]; rotate_left; clear_value z)
    | (intro z; clear_value z)
    | lift_lets -underBinder
    | split
    | with_reducible apply Within.fab

theorem State.scrubWord_within (s : State) (a1 : Nat) (a2 : Nat) (a3 : Nat) (a4 : Nat) (a5 : Nat) : Within [.regs, .agg, .fab, .eddies, .mil, .stalls, .tol, .lanes, .dbg, .out, .fresh] s (State.scrubWord s a1 a2 a3 a4 a5) := by
  unfold State.scrubWord
  repeat' first
    | with_reducible exact Within.refl _ _
    | with_reducible assumption
    | exact (rfl : _ = true)
    | (with_reducible apply Within.via (State.wr64_within ..))
    | (with_reducible apply Within.via (State.finc_within ..))
    | (with_reducible apply Within.via (State.irq_within ..))
    | (with_reducible apply Within.via (State.setPlaneState_within ..))
    | (with_reducible apply Within.via (State.shedFault_within ..))
    | (with_reducible apply Within.via (State.flipLut_within ..))
    | (with_reducible apply Within.via (State.setUpset_within ..))
    | (with_reducible apply Within.via (State.setScrubPos_within ..))
    | (intro z; refine (fun (hz : Within [.regs, .agg, .fab, .eddies, .mil, .stalls, .tol, .lanes, .dbg, .out, .fresh] s z) => ?_) ?_; rotate_left; dsimp only [z]; rotate_left; clear_value z)
    | (intro z; clear_value z)
    | lift_lets -underBinder
    | split

theorem State.scrubMove_within (s : State) (a1 : Nat) (a2 : ScrubPos) : Within [.regs, .agg, .fab] s (State.scrubMove s a1 a2) := by
  unfold State.scrubMove
  repeat' first
    | with_reducible exact Within.refl _ _
    | with_reducible assumption
    | exact (rfl : _ = true)
    | (with_reducible apply Within.via (State.wr32_within ..))
    | (with_reducible apply Within.via (State.fset_within ..))
    | (with_reducible apply Within.via (State.setScrubPos_within ..))
    | (intro z; refine (fun (hz : Within [.regs, .agg, .fab] s z) => ?_) ?_; rotate_left; dsimp only [z]; rotate_left; clear_value z)
    | (intro z; clear_value z)
    | lift_lets -underBinder
    | split

theorem State.scrubVisit_within (s : State) (a1 : Nat) : Within [.regs, .agg, .fab, .eddies, .mil, .stalls, .tol, .lanes, .dbg, .out, .fresh] s (State.scrubVisit s a1) := by
  unfold State.scrubVisit
  repeat' first
    | with_reducible exact Within.refl _ _
    | with_reducible assumption
    | exact (rfl : _ = true)
    | (with_reducible apply Within.via (State.scrubWord_within ..))
    | (with_reducible apply Within.via (State.scrubMove_within ..))
    | with_reducible apply Within.foldl
    | refine (fun (s : State) x => ?_)
    | (intro z; refine (fun (hz : Within [.regs, .agg, .fab, .eddies, .mil, .stalls, .tol, .lanes, .dbg, .out, .fresh] s z) => ?_) ?_; rotate_left; dsimp only [z]; rotate_left; clear_value z)
    | (intro z; clear_value z)
    | lift_lets -underBinder
    | split

theorem State.scrubStart_within (s : State) (a1 : Nat) : Within [.regs, .agg, .fab] s (State.scrubStart s a1) := by
  unfold State.scrubStart
  repeat' first
    | with_reducible exact Within.refl _ _
    | with_reducible assumption
    | exact (rfl : _ = true)
    | (with_reducible apply Within.via (State.wr32_within ..))
    | (with_reducible apply Within.via (State.setScrubPos_within ..))
    | (intro z; refine (fun (hz : Within [.regs, .agg, .fab] s z) => ?_) ?_; rotate_left; dsimp only [z]; rotate_left; clear_value z)
    | (intro z; clear_value z)
    | lift_lets -underBinder
    | split

theorem State.contention_within (s : State) (a1 : Nat) : Within [.regs, .agg, .eddies, .mil, .stalls, .tol, .lanes, .dbg, .out, .fresh] s (State.contention s a1) := by
  unfold State.contention
  repeat' first
    | with_reducible exact Within.refl _ _
    | with_reducible assumption
    | exact (rfl : _ = true)
    | (with_reducible apply Within.via (State.wr32_within ..))
    | (with_reducible apply Within.via (State.fset_within ..))
    | (with_reducible apply Within.via (State.finc_within ..))
    | (with_reducible apply Within.via (State.irq_within ..))
    | (with_reducible apply Within.via (State.shedFault_within ..))
    | with_reducible apply Within.foldl
    | refine (fun (s : State) x => ?_)
    | (intro z; refine (fun (hz : Within [.regs, .agg, .eddies, .mil, .stalls, .tol, .lanes, .dbg, .out, .fresh] s z) => ?_) ?_; rotate_left; dsimp only [z]; rotate_left; clear_value z)
    | (intro z; clear_value z)
    | lift_lets -underBinder
    | split

theorem State.tribLost_within (s : State) (a1 : Nat) (a2 : Nat) (a3 : Nat) : Within [.regs, .agg, .eddies, .mil, .stalls, .tol, .lanes, .dbg, .out, .fresh] s (State.tribLost s a1 a2 a3) := by
  unfold State.tribLost
  repeat' first
    | with_reducible exact Within.refl _ _
    | with_reducible assumption
    | exact (rfl : _ = true)
    | (with_reducible apply Within.via (State.fadd_within ..))
    | (with_reducible apply Within.via (State.irq_within ..))
    | (with_reducible apply Within.via (State.shedFault_within ..))
    | (intro z; refine (fun (hz : Within [.regs, .agg, .eddies, .mil, .stalls, .tol, .lanes, .dbg, .out, .fresh] s z) => ?_) ?_; rotate_left; dsimp only [z]; rotate_left; clear_value z)
    | (intro z; clear_value z)
    | lift_lets -underBinder
    | split

theorem State.tribNarrow_within (s : State) (a1 : Nat) (a2 : Nat) : Within [.regs, .agg, .eddies, .mil, .stalls, .tol, .lanes, .dbg, .out, .fresh] s (State.tribNarrow s a1 a2) := by
  unfold State.tribNarrow
  repeat' first
    | with_reducible exact Within.refl _ _
    | with_reducible assumption
    | exact (rfl : _ = true)
    | (with_reducible apply Within.via (State.setBit_within ..))
    | (with_reducible apply Within.via (State.irq_within ..))
    | (with_reducible apply Within.via (State.shedFault_within ..))
    | (intro z; refine (fun (hz : Within [.regs, .agg, .eddies, .mil, .stalls, .tol, .lanes, .dbg, .out, .fresh] s z) => ?_) ?_; rotate_left; dsimp only [z]; rotate_left; clear_value z)
    | (intro z; clear_value z)
    | lift_lets -underBinder
    | split

end Sys2Proof.Machine
end

