-- ==== Sys2Proof/Laws/WithinClocks.lean ====
section
/-! SUPPORT. Which parts of the state each operation of Machine/Clocks.lean touches. -/

namespace Sys2Proof.Machine

theorem State.setLock_within (s : State) (a1 : Nat) (a2 : Nat) (a3 : Bool) : Within [.regs, .agg, .clk] s (State.setLock s a1 a2 a3) := by
  unfold State.setLock
  repeat' first
    | with_reducible exact Within.refl _ _
    | exact (rfl : _ = true)
    | (with_reducible apply Within.via (State.setBit_within ..))
    | (with_reducible apply Within.via (State.setClk_within ..))
    | split

theorem State.setStopped_within (s : State) (a1 : Nat) (a2 : Nat) (a3 : Bool) : Within [.clk] s (State.setStopped s a1 a2 a3) := by
  unfold State.setStopped
  repeat' first
    | with_reducible exact Within.refl _ _
    | exact (rfl : _ = true)
    | (with_reducible apply Within.via (State.setClk_within ..))

theorem State.pllCfgWrite_within (s : State) (a1 : Req) (a2 : Nat) (a3 : Nat) (a4 : Nat) : Within [.regs, .agg, .clk] s (State.pllCfgWrite s a1 a2 a3 a4) := by
  unfold State.pllCfgWrite
  repeat' first
    | with_reducible exact Within.refl _ _
    | with_reducible assumption
    | exact (rfl : _ = true)
    | (with_reducible apply Within.via (State.wr32_within ..))
    | (with_reducible apply Within.via (State.fset_within ..))
    | (with_reducible apply Within.via (State.refuse_within ..))
    | (with_reducible apply Within.via (State.setLock_within ..))
    | with_reducible apply Within.foldl
    | refine (fun (s : State) x => ?_)
    | (intro z; refine (fun (hz : Within [.regs, .agg, .clk] s z) => ?_) ?_; rotate_left; dsimp only [z]; rotate_left; clear_value z)
    | (intro z; clear_value z)
    | lift_lets -underBinder
    | split

theorem State.pllOutWrite_within (s : State) (a1 : Req) (a2 : Nat) (a3 : Nat) (a4 : Nat) (a5 : Nat) : Within [.regs, .agg] s (State.pllOutWrite s a1 a2 a3 a4 a5) := by
  unfold State.pllOutWrite
  repeat' first
    | with_reducible exact Within.refl _ _
    | with_reducible assumption
    | exact (rfl : _ = true)
    | (with_reducible apply Within.via (State.wr32_within ..))
    | (with_reducible apply Within.via (State.refuse_within ..))
    | (intro z; refine (fun (hz : Within [.regs, .agg] s z) => ?_) ?_; rotate_left; dsimp only [z]; rotate_left; clear_value z)
    | (intro z; clear_value z)
    | lift_lets -underBinder
    | split

theorem State.pllLock_within (s : State) (a1 : Nat) (a2 : Nat) : Within [.regs, .agg, .clk] s (State.pllLock s a1 a2) := by
  unfold State.pllLock
  repeat' first
    | with_reducible exact Within.refl _ _
    | with_reducible assumption
    | exact (rfl : _ = true)
    | (with_reducible apply Within.via (State.setLock_within ..))
    | (with_reducible apply Within.via (State.setStopped_within ..))
    | with_reducible apply Within.foldl
    | refine (fun (s : State) x => ?_)
    | (intro z; refine (fun (hz : Within [.regs, .agg, .clk] s z) => ?_) ?_; rotate_left; dsimp only [z]; rotate_left; clear_value z)
    | (intro z; clear_value z)
    | lift_lets -underBinder
    | split

theorem State.spineSelected_within (s : State) (a1 : Nat) (a2 : Nat) (a3 : Bool) : Within [.regs, .agg, .clk] s (State.spineSelected s a1 a2 a3) := by
  unfold State.spineSelected
  repeat' first
    | with_reducible exact Within.refl _ _
    | with_reducible assumption
    | exact (rfl : _ = true)
    | (with_reducible apply Within.via (State.setBit_within ..))
    | (with_reducible apply Within.via (State.setClk_within ..))
    | (intro z; refine (fun (hz : Within [.regs, .agg, .clk] s z) => ?_) ?_; rotate_left; dsimp only [z]; rotate_left; clear_value z)
    | (intro z; clear_value z)
    | lift_lets -underBinder
    | split

theorem State.spineSelWrite_within (s : State) (a1 : Nat) (a2 : Nat) : Within [.regs, .agg, .clk] s (State.spineSelWrite s a1 a2) := by
  unfold State.spineSelWrite
  repeat' first
    | with_reducible exact Within.refl _ _
    | with_reducible assumption
    | exact (rfl : _ = true)
    | (with_reducible apply Within.via (State.wr32_within ..))
    | (with_reducible apply Within.via (State.spineSelected_within ..))
    | with_reducible apply Within.foldl
    | refine (fun (s : State) x => ?_)
    | (intro z; refine (fun (hz : Within [.regs, .agg, .clk] s z) => ?_) ?_; rotate_left; dsimp only [z]; rotate_left; clear_value z)
    | (intro z; clear_value z)
    | lift_lets -underBinder

theorem State.clkselChange_within (s : State) (a1 : Nat) (a2 : Nat) (a3 : Bool) : Within [.regs, .agg, .clk] s (State.clkselChange s a1 a2 a3) := by
  unfold State.clkselChange
  repeat' first
    | with_reducible exact Within.refl _ _
    | with_reducible assumption
    | exact (rfl : _ = true)
    | (with_reducible apply Within.via (State.setClk_within ..))
    | (with_reducible apply Within.via (State.spineSelected_within ..))
    | (intro z; refine (fun (hz : Within [.regs, .agg, .clk] s z) => ?_) ?_; rotate_left; dsimp only [z]; rotate_left; clear_value z)
    | (intro z; clear_value z)
    | lift_lets -underBinder

theorem State.spineSwitch_within (s : State) (a1 : Nat) (a2 : Nat) : Within [.regs, .agg, .clk] s (State.spineSwitch s a1 a2) := by
  unfold State.spineSwitch
  repeat' first
    | with_reducible exact Within.refl _ _
    | with_reducible assumption
    | exact (rfl : _ = true)
    | (with_reducible apply Within.via (State.setBit_within ..))
    | (with_reducible apply Within.via (State.irq_within ..))
    | (with_reducible apply Within.via (State.setClk_within ..))
    | (intro z; refine (fun (hz : Within [.regs, .agg, .clk] s z) => ?_) ?_; rotate_left; dsimp only [z]; rotate_left; clear_value z)
    | (intro z; clear_value z)
    | lift_lets -underBinder
    | split

theorem State.spineForce_within (s : State) (a1 : Nat) (a2 : Nat) : Within [.regs, .agg, .clk] s (State.spineForce s a1 a2) := by
  unfold State.spineForce
  repeat' first
    | with_reducible exact Within.refl _ _
    | with_reducible assumption
    | exact (rfl : _ = true)
    | (with_reducible apply Within.via (State.setBit_within ..))
    | (with_reducible apply Within.via (State.irq_within ..))
    | (with_reducible apply Within.via (State.setClk_within ..))
    | (intro z; refine (fun (hz : Within [.regs, .agg, .clk] s z) => ?_) ?_; rotate_left; dsimp only [z]; rotate_left; clear_value z)
    | (intro z; clear_value z)
    | lift_lets -underBinder
    | split

theorem State.drstSet_within (s : State) (a1 : Nat) (a2 : Nat) (a3 : Bool) : Within [.clk] s (State.drstSet s a1 a2 a3) := by
  unfold State.drstSet
  repeat' first
    | with_reducible exact Within.refl _ _
    | exact (rfl : _ = true)
    | (with_reducible apply Within.via (State.setClk_within ..))

theorem State.spineCmd_within (s : State) (a1 : Nat) (a2 : Nat) : Within [.regs, .agg, .clk] s (State.spineCmd s a1 a2) := by
  unfold State.spineCmd
  repeat' first
    | with_reducible exact Within.refl _ _
    | with_reducible assumption
    | exact (rfl : _ = true)
    | (with_reducible apply Within.via (State.spineForce_within ..))
    | (with_reducible apply Within.via (State.drstSet_within ..))
    | with_reducible apply Within.foldl
    | refine (fun (s : State) x => ?_)
    | (intro z; refine (fun (hz : Within [.regs, .agg, .clk] s z) => ?_) ?_; rotate_left; dsimp only [z]; rotate_left; clear_value z)
    | (intro z; clear_value z)
    | lift_lets -underBinder
    | split

theorem State.drstRelease_within (s : State) (a1 : Nat) (a2 : Nat) : Within [.regs, .agg, .clk] s (State.drstRelease s a1 a2) := by
  unfold State.drstRelease
  repeat' first
    | with_reducible exact Within.refl _ _
    | exact (rfl : _ = true)
    | (with_reducible apply Within.via (State.setBit_within ..))
    | (with_reducible apply Within.via (State.drstSet_within ..))
    | split

theorem State.spinesLose_within (s : State) (a1 : List Nat) (a2 : Nat) (a3 : Bool) : Within [.regs, .agg, .eddies, .mil, .stalls, .tol, .lanes, .dbg, .out, .fresh] s (State.spinesLose s a1 a2 a3) := by
  unfold State.spinesLose
  repeat' first
    | with_reducible exact Within.refl _ _
    | with_reducible assumption
    | exact (rfl : _ = true)
    | (with_reducible apply Within.via (State.setBit_within ..))
    | (with_reducible apply Within.via (State.irq_within ..))
    | (with_reducible apply Within.via (State.shedFault_within ..))
    | with_reducible apply Within.foldl
    | refine (fun (s : State) x => ?_)
    | (intro z; refine (fun (hz : Within [.regs, .agg, .eddies, .mil, .stalls, .tol, .lanes, .dbg, .out, .fresh] s z) => ?_) ?_; rotate_left; dsimp only [z]; rotate_left; clear_value z)
    | (intro z; clear_value z)
    | lift_lets -underBinder
    | split

theorem State.outLost_within (s : State) (a1 : Nat) (a2 : Nat) (a3 : Bool) : Within [.regs, .agg, .eddies, .mil, .stalls, .tol, .clk, .lanes, .dbg, .out, .fresh] s (State.outLost s a1 a2 a3) := by
  unfold State.outLost
  repeat' first
    | with_reducible exact Within.refl _ _
    | with_reducible assumption
    | exact (rfl : _ = true)
    | (with_reducible apply Within.via (State.setBit_within ..))
    | (with_reducible apply Within.via (State.irq_within ..))
    | (with_reducible apply Within.via (State.raiseFault_within ..))
    | (with_reducible apply Within.via (State.setStopped_within ..))
    | (with_reducible apply Within.via (State.spinesLose_within ..))
    | with_reducible apply Within.foldl
    | refine (fun (s : State) x => ?_)
    | (intro z; refine (fun (hz : Within [.regs, .agg, .eddies, .mil, .stalls, .tol, .clk, .lanes, .dbg, .out, .fresh] s z) => ?_) ?_; rotate_left; dsimp only [z]; rotate_left; clear_value z)
    | (intro z; clear_value z)
    | lift_lets -underBinder
    | split

theorem State.pllLost_within (s : State) (a1 : Nat) (a2 : Nat) (a3 : Bool) : Within [.regs, .agg, .eddies, .mil, .stalls, .tol, .clk, .lanes, .dbg, .out, .fresh] s (State.pllLost s a1 a2 a3) := by
  unfold State.pllLost
  repeat' first
    | with_reducible exact Within.refl _ _
    | with_reducible assumption
    | exact (rfl : _ = true)
    | (with_reducible apply Within.via (State.irq_within ..))
    | (with_reducible apply Within.via (State.setLock_within ..))
    | (with_reducible apply Within.via (State.outLost_within ..))
    | with_reducible apply Within.foldl
    | refine (fun (s : State) x => ?_)
    | (intro z; refine (fun (hz : Within [.regs, .agg, .eddies, .mil, .stalls, .tol, .clk, .lanes, .dbg, .out, .fresh] s z) => ?_) ?_; rotate_left; dsimp only [z]; rotate_left; clear_value z)
    | (intro z; clear_value z)
    | lift_lets -underBinder
    | split

theorem State.pairLoses_within (s : State) (a1 : Nat) : Within [.regs, .agg, .eddies, .mil, .stalls, .tol, .clk, .lanes, .dbg, .out, .fresh] s (State.pairLoses s a1) := by
  unfold State.pairLoses
  repeat' first
    | with_reducible exact Within.refl _ _
    | with_reducible assumption
    | exact (rfl : _ = true)
    | (with_reducible apply Within.via (State.fset_within ..))
    | (with_reducible apply Within.via (State.setBit_within ..))
    | (with_reducible apply Within.via (State.irq_within ..))
    | (with_reducible apply Within.via (State.setClk_within ..))
    | (with_reducible apply Within.via (State.pllLost_within ..))
    | with_reducible apply Within.foldl
    | refine (fun (s : State) x => ?_)
    | (intro z; refine (fun (hz : Within [.regs, .agg, .eddies, .mil, .stalls, .tol, .clk, .lanes, .dbg, .out, .fresh] s z) => ?_) ?_; rotate_left; dsimp only [z]; rotate_left; clear_value z)
    | (intro z; clear_value z)
    | lift_lets -underBinder
    | split

theorem State.pairRelocks_within (s : State) (a1 : Nat) : Within [.regs, .agg, .clk] s (State.pairRelocks s a1) := by
  unfold State.pairRelocks
  repeat' first
    | with_reducible exact Within.refl _ _
    | exact (rfl : _ = true)
    | (with_reducible apply Within.via (State.pllLock_within ..))
    | with_reducible apply Within.foldl
    | refine (fun (s : State) x => ?_)
    | split

theorem State.holdEnds_within (s : State) : Within [.regs, .agg] s (State.holdEnds s) := by
  unfold State.holdEnds
  repeat' first
    | with_reducible exact Within.refl _ _
    | exact (rfl : _ = true)
    | (with_reducible apply Within.via (State.fset_within ..))

theorem State.clearLost_within (s : State) (a1 : Nat) (a2 : Nat) (a3 : Nat) : Within [.regs, .agg] s (State.clearLost s a1 a2 a3) := by
  unfold State.clearLost
  repeat' first
    | with_reducible exact Within.refl _ _
    | exact (rfl : _ = true)
    | (with_reducible apply Within.via (State.wr32_within ..))

theorem State.fmeasWrite_within (s : State) (a1 : Req) (a2 : Nat) : Within [.regs, .agg, .clk] s (State.fmeasWrite s a1 a2) := by
  unfold State.fmeasWrite
  repeat' first
    | with_reducible exact Within.refl _ _
    | with_reducible assumption
    | exact (rfl : _ = true)
    | (with_reducible apply Within.via (State.wr32_within ..))
    | (with_reducible apply Within.via (State.fset_within ..))
    | (with_reducible apply Within.via (State.refuse_within ..))
    | (with_reducible apply Within.via (State.setClk_within ..))
    | (intro z; refine (fun (hz : Within [.regs, .agg, .clk] s z) => ?_) ?_; rotate_left; dsimp only [z]; rotate_left; clear_value z)
    | (intro z; clear_value z)
    | lift_lets -underBinder
    | split

theorem State.fmeasEnd_within (s : State) (a1 : Nat) : Within [.regs, .agg] s (State.fmeasEnd s a1) := by
  unfold State.fmeasEnd
  repeat' first
    | with_reducible exact Within.refl _ _
    | exact (rfl : _ = true)
    | (with_reducible apply Within.via (State.wr32_within ..))
    | (with_reducible apply Within.via (State.fset_within ..))
    | (with_reducible apply Within.via (State.irq_within ..))
    | split

theorem State.exitBegin_within (s : State) (a1 : Nat) : Within [.regs, .agg] s (State.exitBegin s a1) := by
  unfold State.exitBegin
  repeat' first
    | with_reducible exact Within.refl _ _
    | exact (rfl : _ = true)
    | (with_reducible apply Within.via (State.fset_within ..))

theorem State.powerEval_within (s : State) (a1 : Nat) : Within [.regs, .agg] s (State.powerEval s a1) := by
  unfold State.powerEval
  repeat' first
    | with_reducible exact Within.refl _ _
    | with_reducible assumption
    | exact (rfl : _ = true)
    | (with_reducible apply Within.via (State.fset_within ..))
    | (with_reducible apply Within.via (State.irq_within ..))
    | (with_reducible apply Within.via (State.exitBegin_within ..))
    | (intro z; refine (fun (hz : Within [.regs, .agg] s z) => ?_) ?_; rotate_left; dsimp only [z]; rotate_left; clear_value z)
    | (intro z; clear_value z)
    | lift_lets -underBinder
    | split

theorem State.wake_within (s : State) : Within [.regs, .agg] s (State.wake s) := by
  unfold State.wake
  repeat' first
    | with_reducible exact Within.refl _ _
    | exact (rfl : _ = true)
    | (with_reducible apply Within.via (State.exitBegin_within ..))
    | split

theorem State.exitComplete_within (s : State) : Within [.regs, .agg] s (State.exitComplete s) := by
  unfold State.exitComplete
  repeat' first
    | with_reducible exact Within.refl _ _
    | exact (rfl : _ = true)
    | (with_reducible apply Within.via (State.fset_within ..))
    | (with_reducible apply Within.via (State.irq_within ..))
    | split

end Sys2Proof.Machine
end

