-- ==== Sys2Proof/Laws/WithinMeter.lean ====
section
/-! SUPPORT. Which parts of the state each operation of Machine/Meter.lean touches. -/

namespace Sys2Proof.Machine

theorem State.setLeaf_within (s : State) (a1 : Nat) (a2 : Leaf) : Within [.tally] s (State.setLeaf s a1 a2) := by
  unfold State.setLeaf
  repeat' first
    | with_reducible exact Within.refl _ _
    | exact (rfl : _ = true)
    | (with_reducible apply Within.via (State.setTally_within ..))

theorem State.setInterval_within (s : State) (a1 : Nat) (a2 : Interval) : Within [.tally] s (State.setInterval s a1 a2) := by
  unfold State.setInterval
  repeat' first
    | with_reducible exact Within.refl _ _
    | exact (rfl : _ = true)
    | (with_reducible apply Within.via (State.setTally_within ..))

theorem State.flagIntervals_within (s : State) (a1 : Nat) : Within [.tally] s (State.flagIntervals s a1) := by
  unfold State.flagIntervals
  repeat' first
    | with_reducible exact Within.refl _ _
    | exact (rfl : _ = true)
    | (with_reducible apply Within.via (State.setTally_within ..))

theorem State.tallyLast_within (s : State) (a1 : Nat) (a2 : Nat) (a3 : Nat) (a4 : Nat) : Within [.regs, .agg] s (State.tallyLast s a1 a2 a3 a4) := by
  unfold State.tallyLast
  repeat' first
    | with_reducible exact Within.refl _ _
    | exact (rfl : _ = true)
    | (with_reducible apply Within.via (State.wr32_within ..))
    | split

theorem State.leafLost_within (s : State) (a1 : Nat) : Within [.regs, .agg, .tally] s (State.leafLost s a1) := by
  unfold State.leafLost
  repeat' first
    | with_reducible exact Within.refl _ _
    | with_reducible assumption
    | exact (rfl : _ = true)
    | (with_reducible apply Within.via (State.finc_within ..))
    | (with_reducible apply Within.via (State.irq_within ..))
    | (with_reducible apply Within.via (State.setLeaf_within ..))
    | (with_reducible apply Within.via (State.setInterval_within ..))
    | (with_reducible apply Within.via (State.tallyLast_within ..))
    | (intro z; refine (fun (hz : Within [.regs, .agg, .tally] s z) => ?_) ?_; rotate_left; dsimp only [z]; rotate_left; clear_value z)
    | (intro z; clear_value z)
    | lift_lets -underBinder
    | split

theorem State.leafFix_within (s : State) (a1 : Nat) (a2 : Bool) : Within [.regs, .agg, .tally] s (State.leafFix s a1 a2) := by
  unfold State.leafFix
  repeat' first
    | with_reducible exact Within.refl _ _
    | with_reducible assumption
    | exact (rfl : _ = true)
    | (with_reducible apply Within.via (State.finc_within ..))
    | (with_reducible apply Within.via (State.setLeaf_within ..))
    | (with_reducible apply Within.via (State.tallyLast_within ..))
    | (intro z; refine (fun (hz : Within [.regs, .agg, .tally] s z) => ?_) ?_; rotate_left; dsimp only [z]; rotate_left; clear_value z)
    | (intro z; clear_value z)
    | lift_lets -underBinder
    | split

theorem State.leafFault_within (s : State) (a1 : LeafFault) : Within [.regs, .agg, .tally] s (State.leafFault s a1) := by
  unfold State.leafFault
  repeat' first
    | with_reducible exact Within.refl _ _
    | exact (rfl : _ = true)
    | (with_reducible apply Within.via (State.leafLost_within ..))
    | (with_reducible apply Within.via (State.leafFix_within ..))
    | split

theorem State.recomputeNodes_within (s : State) : Within [.tally] s (State.recomputeNodes s) := by
  unfold State.recomputeNodes
  repeat' first
    | with_reducible exact Within.refl _ _
    | with_reducible assumption
    | exact (rfl : _ = true)
    | (with_reducible apply Within.via (State.setTally_within ..))
    | with_reducible apply Within.foldl
    | refine (fun (s : State) x => ?_)
    | (intro z; refine (fun (hz : Within [.tally] s z) => ?_) ?_; rotate_left; dsimp only [z]; rotate_left; clear_value z)
    | (intro z; clear_value z)
    | lift_lets -underBinder

theorem State.nodeSuspect_within (s : State) (a1 : Nat) (a2 : Nat) : Within [.regs, .agg, .tally] s (State.nodeSuspect s a1 a2) := by
  unfold State.nodeSuspect
  repeat' first
    | with_reducible exact Within.refl _ _
    | with_reducible assumption
    | exact (rfl : _ = true)
    | (with_reducible apply Within.via (State.finc_within ..))
    | (with_reducible apply Within.via (State.irq_within ..))
    | (with_reducible apply Within.via (State.setInterval_within ..))
    | (with_reducible apply Within.via (State.tallyLast_within ..))
    | (intro z; refine (fun (hz : Within [.regs, .agg, .tally] s z) => ?_) ?_; rotate_left; dsimp only [z]; rotate_left; clear_value z)
    | (intro z; clear_value z)
    | lift_lets -underBinder
    | split

theorem State.checkpoint_within (s : State) (a1 : List LeafFault) (a2 : List (Nat × Nat)) : Within [.regs, .agg, .tally] s (State.checkpoint s a1 a2) := by
  unfold State.checkpoint
  repeat' first
    | with_reducible exact Within.refl _ _
    | with_reducible assumption
    | exact (rfl : _ = true)
    | (with_reducible apply Within.via (State.setTally_within ..))
    | (with_reducible apply Within.via (State.leafFault_within ..))
    | (with_reducible apply Within.via (State.recomputeNodes_within ..))
    | (with_reducible apply Within.via (State.nodeSuspect_within ..))
    | with_reducible apply Within.foldl
    | refine (fun (s : State) x => ?_)
    | (intro z; refine (fun (hz : Within [.regs, .agg, .tally] s z) => ?_) ?_; rotate_left; dsimp only [z]; rotate_left; clear_value z)
    | (intro z; clear_value z)
    | lift_lets -underBinder

theorem State.openNew_within (s : State) (a1 : Nat) (a2 : Nat) (a3 : Nat) : Within [.tally] s (State.openNew s a1 a2 a3) := by
  unfold State.openNew
  repeat' first
    | with_reducible exact Within.refl _ _
    | exact (rfl : _ = true)
    | (with_reducible apply Within.via (State.setInterval_within ..))

theorem State.storeRecord_within (s : State) (a1 : MeterRec) : Within [.tally] s (State.storeRecord s a1) := by
  unfold State.storeRecord
  repeat' first
    | with_reducible exact Within.refl _ _
    | with_reducible assumption
    | exact (rfl : _ = true)
    | (with_reducible apply Within.via (State.setTally_within ..))
    | (intro z; refine (fun (hz : Within [.tally] s z) => ?_) ?_; rotate_left; dsimp only [z]; rotate_left; clear_value z)
    | (intro z; clear_value z)
    | lift_lets -underBinder
    | split

theorem State.restartLeaves_within (s : State) (a1 : Nat) : Within [.tally] s (State.restartLeaves s a1) := by
  unfold State.restartLeaves
  repeat' first
    | with_reducible exact Within.refl _ _
    | exact (rfl : _ = true)
    | (with_reducible apply Within.via (State.setTally_within ..))

theorem State.recordInterval_within (s : State) (a1 : Nat) (a2 : Nat) (a3 : Bool) : Within [.tally, .fresh] s (State.recordInterval s a1 a2 a3) := by
  unfold State.recordInterval
  repeat' first
    | with_reducible exact Within.refl _ _
    | exact (rfl : _ = true)
    | (with_reducible apply Within.via (State.useFree_within ..))
    | (with_reducible apply Within.via (State.storeRecord_within ..))
    | (with_reducible apply Within.via (State.restartLeaves_within ..))
    | split

theorem State.closeInterval_within (s : State) (a1 : Nat) (a2 : Option Nat) : Within [.tally, .fresh] s (State.closeInterval s a1 a2) := by
  unfold State.closeInterval
  repeat' first
    | with_reducible exact Within.refl _ _
    | with_reducible assumption
    | exact (rfl : _ = true)
    | (with_reducible apply Within.via (State.setTally_within ..))
    | (with_reducible apply Within.via (State.openNew_within ..))
    | (with_reducible apply Within.via (State.recordInterval_within ..))
    | (intro z; refine (fun (hz : Within [.tally, .fresh] s z) => ?_) ?_; rotate_left; dsimp only [z]; rotate_left; clear_value z)
    | (intro z; clear_value z)
    | lift_lets -underBinder
    | split

theorem State.closeEpoch_within (s : State) : Within [.regs, .agg, .tally, .fresh] s (State.closeEpoch s) := by
  unfold State.closeEpoch
  repeat' first
    | with_reducible exact Within.refl _ _
    | with_reducible assumption
    | exact (rfl : _ = true)
    | (with_reducible apply Within.via (State.wr64_within ..))
    | (with_reducible apply Within.via (State.irq_within ..))
    | (with_reducible apply Within.via (State.setTally_within ..))
    | (with_reducible apply Within.via (State.checkpoint_within ..))
    | (with_reducible apply Within.via (State.recordInterval_within ..))
    | with_reducible apply Within.foldl
    | refine (fun (s : State) x => ?_)
    | (intro z; refine (fun (hz : Within [.regs, .agg, .tally, .fresh] s z) => ?_) ?_; rotate_left; dsimp only [z]; rotate_left; clear_value z)
    | (intro z; clear_value z)
    | lift_lets -underBinder
    | split

theorem State.meterTick_within (s : State) : Within [.tally] s (State.meterTick s) := by
  unfold State.meterTick
  repeat' first
    | with_reducible exact Within.refl _ _
    | exact (rfl : _ = true)
    | (with_reducible apply Within.via (State.setTally_within ..))
    | with_reducible apply Within.foldl
    | refine (fun (s : State) x => ?_)
    | split

theorem State.leavesQuarantined_within (s : State) (a1 : Nat) : Within [.regs, .agg, .tally] s (State.leavesQuarantined s a1) := by
  unfold State.leavesQuarantined
  repeat' first
    | with_reducible exact Within.refl _ _
    | with_reducible assumption
    | exact (rfl : _ = true)
    | (with_reducible apply Within.via (State.setInterval_within ..))
    | (with_reducible apply Within.via (State.leafLost_within ..))
    | with_reducible apply Within.foldl
    | refine (fun (s : State) x => ?_)
    | (intro z; refine (fun (hz : Within [.regs, .agg, .tally] s z) => ?_) ?_; rotate_left; dsimp only [z]; rotate_left; clear_value z)
    | (intro z; clear_value z)
    | lift_lets -underBinder
    | split

end Sys2Proof.Machine
end

