-- ==== Sys2Proof/Laws/WithinEngines.lean ====
section
/-! SUPPORT. Which parts of the state each operation of Machine/Engines.lean touches. -/

namespace Sys2Proof.Machine

theorem State.recordExc_within (s : State) (a1 : Nat) (a2 : Exc) (a3 : Nat) (a4 : Bool) : Within [.regs, .agg, .fresh] s (State.recordExc s a1 a2 a3 a4) := by
  unfold State.recordExc
  repeat' first
    | with_reducible exact Within.refl _ _
    | with_reducible assumption
    | exact (rfl : _ = true)
    | (with_reducible apply Within.via (State.wr32_within ..))
    | (with_reducible apply Within.via (State.irq_within ..))
    | (with_reducible apply Within.via (State.useFree_within ..))
    | (intro z; refine (fun (hz : Within [.regs, .agg, .fresh] s z) => ?_) ?_; rotate_left; dsimp only [z]; rotate_left; clear_value z)
    | (intro z; clear_value z)
    | lift_lets -underBinder
    | split

theorem State.countCorr_within (s : State) (a1 : Corrections) : Within [.regs, .agg] s (State.countCorr s a1) := by
  induction a1 generalizing s with
  | nil =>
    unfold State.countCorr
    repeat' first
      | with_reducible exact Within.refl _ _
      | exact (rfl : _ = true)
      | (with_reducible apply Within.via (State.fadd_within ..))
      | split
  | cons x a1 ih =>
    unfold State.countCorr
    repeat' first
      | with_reducible exact Within.refl _ _
      | exact (rfl : _ = true)
      | (with_reducible apply Within.via (State.fadd_within ..))
      | (with_reducible apply Within.via (ih ..))
      | split

theorem State.meterCycles_within (s : State) (a1 : Nat) (a2 : Nat) : Within [.tally] s (State.meterCycles s a1 a2) := by
  unfold State.meterCycles
  repeat' first
    | with_reducible exact Within.refl _ _
    | exact (rfl : _ = true)
    | split
    | with_reducible apply Within.tally

theorem State.issueEngine_within (s : State) (a1 : Nat) (a2 : IssueEnv) : Within [.regs, .agg, .eddies, .tally, .fresh] s (State.issueEngine s a1 a2).1 := by
  unfold State.issueEngine
  repeat' first
    | with_reducible exact Within.refl _ _
    | with_reducible assumption
    | exact (rfl : _ = true)
    | (with_reducible apply Within.via (State.finc_within ..))
    | (with_reducible apply Within.via (State.irq_within ..))
    | (with_reducible apply Within.via (State.setEddies_within ..))
    | (with_reducible apply Within.via (State.recordExc_within ..))
    | (with_reducible apply Within.via (State.countCorr_within ..))
    | (with_reducible apply Within.via (State.meterCycles_within ..))
    | exact settlePosted_wf _
    | exact releaseLock_wf _
    | exact issueCycle_wf _ _ _
    | (intro z; have _h : SMap Eddy × Issued := z; clear _h; dsimp -zeta only [z]; clear z)
    | (intro z; refine (fun (hz : Within [.regs, .agg, .eddies, .tally, .fresh] s z) => ?_) ?_; rotate_left; dsimp only [z]; rotate_left; clear_value z)
    | (intro z; clear_value z)
    | lift_lets -underBinder
    | split

theorem State.lockGrant_within (s : State) (a1 : Nat) : Within [.eddies] s (State.lockGrant s a1) := by
  unfold State.lockGrant
  repeat' first
    | with_reducible exact Within.refl _ _
    | with_reducible assumption
    | exact (rfl : _ = true)
    | (with_reducible apply Within.via (State.setEddy_within ..))
    | (intro z; refine (fun (hz : Within [.eddies] s z) => ?_) ?_; rotate_left; dsimp only [z]; rotate_left; clear_value z)
    | (intro z; clear_value z)
    | lift_lets -underBinder
    | split

theorem State.engineStart_within (s : State) (a1 : Nat) : Within [.eddies] s (State.engineStart s a1) := by
  unfold State.engineStart
  repeat' first
    | with_reducible exact Within.refl _ _
    | exact (rfl : _ = true)
    | (with_reducible apply Within.via (State.setEddy_within ..))

theorem State.startExecute_within (s : State) (a1 : Nat) : Within [.eddies] s (State.startExecute s a1) := by
  unfold State.startExecute
  repeat' first
    | with_reducible exact Within.refl _ _
    | with_reducible assumption
    | exact (rfl : _ = true)
    | (with_reducible apply Within.via (State.setEddy_within ..))
    | (intro z; refine (fun (hz : Within [.eddies] s z) => ?_) ?_; rotate_left; dsimp only [z]; rotate_left; clear_value z)
    | (intro z; clear_value z)
    | lift_lets -underBinder
    | split

theorem State.engineStop_within (s : State) (a1 : Nat) : Within [.eddies] s (State.engineStop s a1) := by
  unfold State.engineStop
  repeat' first
    | with_reducible exact Within.refl _ _
    | with_reducible assumption
    | exact (rfl : _ = true)
    | (with_reducible apply Within.via (State.setEddy_within ..))
    | (intro z; refine (fun (hz : Within [.eddies] s z) => ?_) ?_; rotate_left; dsimp only [z]; rotate_left; clear_value z)
    | (intro z; clear_value z)
    | lift_lets -underBinder
    | split

theorem State.stopEffect_within (s : State) (a1 : Nat) : Within [.regs, .agg, .eddies] s (State.stopEffect s a1) := by
  unfold State.stopEffect
  repeat' first
    | with_reducible exact Within.refl _ _
    | with_reducible assumption
    | exact (rfl : _ = true)
    | (with_reducible apply Within.via (State.irq_within ..))
    | (with_reducible apply Within.via (State.setEddy_within ..))
    | (intro z; refine (fun (hz : Within [.regs, .agg, .eddies] s z) => ?_) ?_; rotate_left; dsimp only [z]; rotate_left; clear_value z)
    | (intro z; clear_value z)
    | lift_lets -underBinder
    | split

theorem State.reloadWdog_within (s : State) (a1 : Nat) : Within [.eddies] s (State.reloadWdog s a1) := by
  unfold State.reloadWdog
  repeat' first
    | with_reducible exact Within.refl _ _
    | with_reducible assumption
    | exact (rfl : _ = true)
    | (with_reducible apply Within.via (State.setEddy_within ..))
    | (intro z; refine (fun (hz : Within [.eddies] s z) => ?_) ?_; rotate_left; dsimp only [z]; rotate_left; clear_value z)
    | (intro z; clear_value z)
    | lift_lets -underBinder

theorem State.engineResume_within (s : State) (a1 : Nat) : Within [.eddies] s (State.engineResume s a1) := by
  unfold State.engineResume
  repeat' first
    | with_reducible exact Within.refl _ _
    | exact (rfl : _ = true)
    | (with_reducible apply Within.via (State.setEddy_within ..))
    | (with_reducible apply Within.via (State.reloadWdog_within ..))

theorem State.engineKick_within (s : State) (a1 : Nat) : Within [.eddies] s (State.engineKick s a1) := by
  unfold State.engineKick
  repeat' first
    | with_reducible exact Within.refl _ _
    | exact (rfl : _ = true)
    | (with_reducible apply Within.via (State.reloadWdog_within ..))
    | split

theorem State.eddyRun_within (s : State) (a1 : Req) (a2 : Nat) (a3 : Nat) : Within [.regs, .agg, .eddies] s (State.eddyRun s a1 a2 a3) := by
  unfold State.eddyRun
  repeat' first
    | with_reducible exact Within.refl _ _
    | with_reducible assumption
    | exact (rfl : _ = true)
    | (with_reducible apply Within.via (State.refuse_within ..))
    | (with_reducible apply Within.via (State.engineStart_within ..))
    | (with_reducible apply Within.via (State.engineStop_within ..))
    | (with_reducible apply Within.via (State.engineResume_within ..))
    | (with_reducible apply Within.via (State.engineKick_within ..))
    | with_reducible apply Within.foldl
    | with_reducible apply Within.foldlFst
    | with_reducible apply Within.foldlSnd
    | refine (fun (z : State × _) x hz => ?_)
    | refine (fun (z : _ × State) x hz => ?_)
    | refine (fun (z : State) (l : Loc) (d : List Nat) hz => ?_)
    | refine (fun (s : State) x => ?_)
    | (intro z; refine (fun (hz : Within [.regs, .agg, .eddies] s z) => ?_) ?_; rotate_left; dsimp only [z]; rotate_left; clear_value z)
    | (intro z; refine (fun (hz : Within [.regs, .agg, .eddies] s z.1) => ?_) ?_; rotate_left; dsimp only [z]; rotate_left; clear_value z)
    | (intro z; refine (fun (hz : Within [.regs, .agg, .eddies] s z.2) => ?_) ?_; rotate_left; dsimp only [z]; rotate_left; clear_value z)
    | (intro z; have _h : State → _ := z; clear _h; dsimp -zeta only [z]; clear z)
    | (intro z; have _h : State × _ → _ := z; clear _h; dsimp -zeta only [z]; clear z)
    | (intro z; clear_value z)
    | (intro z; dsimp -zeta only [z]; clear z)
    | lift_lets -underBinder
    | split

theorem State.memAdvance_within (s : State) (a1 : Nat) : Within [.regs, .agg] s (State.memAdvance s a1) := by
  unfold State.memAdvance
  repeat' first
    | with_reducible exact Within.refl _ _
    | with_reducible assumption
    | exact (rfl : _ = true)
    | (with_reducible apply Within.via (State.fset_within ..))
    | (intro z; refine (fun (hz : Within [.regs, .agg] s z) => ?_) ?_; rotate_left; dsimp only [z]; rotate_left; clear_value z)
    | (intro z; clear_value z)
    | lift_lets -underBinder
    | split

theorem State.memDataWrite_within (s : State) (a1 : Req) (a2 : Nat) (a3 : Nat) (a4 : Nat) : Within [.regs, .agg, .eddies] s (State.memDataWrite s a1 a2 a3 a4) := by
  unfold State.memDataWrite
  repeat' first
    | with_reducible exact Within.refl _ _
    | with_reducible assumption
    | exact (rfl : _ = true)
    | (with_reducible apply Within.via (State.fset_within ..))
    | (with_reducible apply Within.via (State.finc_within ..))
    | (with_reducible apply Within.via (State.refuse_within ..))
    | (with_reducible apply Within.via (State.setEddy_within ..))
    | (with_reducible apply Within.via (State.memAdvance_within ..))
    | (intro z; refine (fun (hz : Within [.regs, .agg, .eddies] s z) => ?_) ?_; rotate_left; dsimp only [z]; rotate_left; clear_value z)
    | (intro z; clear_value z)
    | lift_lets -underBinder
    | split

theorem State.memDataRead_within (s : State) (a1 : Req) (a2 : Nat) (a3 : Nat) : Within [.regs, .agg] s (State.memDataRead s a1 a2 a3) := by
  unfold State.memDataRead
  repeat' first
    | with_reducible exact Within.refl _ _
    | with_reducible assumption
    | exact (rfl : _ = true)
    | (with_reducible apply Within.via (State.fset_within ..))
    | (with_reducible apply Within.via (State.finc_within ..))
    | (with_reducible apply Within.via (State.refuse_within ..))
    | (intro z; refine (fun (hz : Within [.regs, .agg] s z) => ?_) ?_; rotate_left; dsimp only [z]; rotate_left; clear_value z)
    | (intro z; clear_value z)
    | lift_lets -underBinder
    | split

theorem State.setQueues_within (s : State) (a1 : Nat) (a2 : EddyQueues) : Within [.eddies] s (State.setQueues s a1 a2) := by
  unfold State.setQueues
  repeat' first
    | with_reducible exact Within.refl _ _
    | exact (rfl : _ = true)
    | (with_reducible apply Within.via (State.setEddy_within ..))

theorem State.flushStreamIn_within (s : State) (a1 : Nat) : Within [.eddies] s (State.flushStreamIn s a1) := by
  unfold State.flushStreamIn
  repeat' first
    | with_reducible exact Within.refl _ _
    | with_reducible assumption
    | exact (rfl : _ = true)
    | (with_reducible apply Within.via (State.setEddy_within ..))
    | (with_reducible apply Within.via (State.setQueues_within ..))
    | (intro z; refine (fun (hz : Within [.eddies] s z) => ?_) ?_; rotate_left; dsimp only [z]; rotate_left; clear_value z)
    | (intro z; clear_value z)
    | lift_lets -underBinder

theorem State.flushStreamOut_within (s : State) (a1 : Nat) : Within [.eddies] s (State.flushStreamOut s a1) := by
  unfold State.flushStreamOut
  repeat' first
    | with_reducible exact Within.refl _ _
    | with_reducible assumption
    | exact (rfl : _ = true)
    | (with_reducible apply Within.via (State.setEddy_within ..))
    | (with_reducible apply Within.via (State.setQueues_within ..))
    | (intro z; refine (fun (hz : Within [.eddies] s z) => ?_) ?_; rotate_left; dsimp only [z]; rotate_left; clear_value z)
    | (intro z; clear_value z)
    | lift_lets -underBinder

theorem State.capPop_within (s : State) (a1 : Nat) : Within [.eddies] s (State.capPop s a1) := by
  unfold State.capPop
  repeat' first
    | with_reducible exact Within.refl _ _
    | with_reducible assumption
    | exact (rfl : _ = true)
    | (with_reducible apply Within.via (State.setQueues_within ..))
    | (intro z; refine (fun (hz : Within [.eddies] s z) => ?_) ?_; rotate_left; dsimp only [z]; rotate_left; clear_value z)
    | (intro z; clear_value z)
    | lift_lets -underBinder

theorem State.streamCtl_within (s : State) (a1 : Req) (a2 : Nat) (a3 : Nat) : Within [.regs, .agg, .eddies] s (State.streamCtl s a1 a2 a3) := by
  unfold State.streamCtl
  repeat' first
    | with_reducible exact Within.refl _ _
    | with_reducible assumption
    | exact (rfl : _ = true)
    | (with_reducible apply Within.via (State.wr32_within ..))
    | (with_reducible apply Within.via (State.refuse_within ..))
    | (with_reducible apply Within.via (State.flushStreamIn_within ..))
    | (with_reducible apply Within.via (State.flushStreamOut_within ..))
    | (with_reducible apply Within.via (State.capPop_within ..))
    | (intro z; refine (fun (hz : Within [.regs, .agg, .eddies] s z) => ?_) ?_; rotate_left; dsimp only [z]; rotate_left; clear_value z)
    | (intro z; clear_value z)
    | lift_lets -underBinder
    | split

theorem State.stimWrite_within (s : State) (a1 : Req) (a2 : Nat) (a3 : Nat) (a4 : Nat) : Within [.regs, .agg, .eddies] s (State.stimWrite s a1 a2 a3 a4) := by
  unfold State.stimWrite
  repeat' first
    | with_reducible exact Within.refl _ _
    | with_reducible assumption
    | exact (rfl : _ = true)
    | (with_reducible apply Within.via (State.refuse_within ..))
    | (with_reducible apply Within.via (State.setQueues_within ..))
    | (intro z; refine (fun (hz : Within [.regs, .agg, .eddies] s z) => ?_) ?_; rotate_left; dsimp only [z]; rotate_left; clear_value z)
    | (intro z; clear_value z)
    | lift_lets -underBinder
    | split

theorem State.streamInWord_within (s : State) (a1 : Nat) (a2 : BitVec 256) : Within [.eddies] s (State.streamInWord s a1 a2) := by
  unfold State.streamInWord
  repeat' first
    | with_reducible exact Within.refl _ _
    | with_reducible assumption
    | exact (rfl : _ = true)
    | (with_reducible apply Within.via (State.setQueues_within ..))
    | (intro z; refine (fun (hz : Within [.eddies] s z) => ?_) ?_; rotate_left; dsimp only [z]; rotate_left; clear_value z)
    | (intro z; clear_value z)
    | lift_lets -underBinder
    | split

theorem State.streamOutWord_within (s : State) (a1 : Nat) : Within [.eddies, .out] s (State.streamOutWord s a1) := by
  unfold State.streamOutWord
  repeat' first
    | with_reducible exact Within.refl _ _
    | with_reducible assumption
    | exact (rfl : _ = true)
    | (with_reducible apply Within.via (State.emit_within ..))
    | (with_reducible apply Within.via (State.setQueues_within ..))
    | (intro z; refine (fun (hz : Within [.eddies, .out] s z) => ?_) ?_; rotate_left; dsimp only [z]; rotate_left; clear_value z)
    | (intro z; clear_value z)
    | lift_lets -underBinder
    | split

theorem State.setXfer_within (s : State) (a1 : Nat) (a2 : Nat) (a3 : Xfer) : Within [.eddies] s (State.setXfer s a1 a2 a3) := by
  unfold State.setXfer
  repeat' first
    | with_reducible exact Within.refl _ _
    | exact (rfl : _ = true)
    | (with_reducible apply Within.via (State.setEddy_within ..))

theorem State.transferBegin_within (s : State) (a1 : Nat) : Within [.eddies] s (State.transferBegin s a1) := by
  unfold State.transferBegin
  repeat' first
    | with_reducible exact Within.refl _ _
    | exact (rfl : _ = true)
    | (with_reducible apply Within.via (State.setXfer_within ..))
    | split

theorem State.enginePacket_within (s : State) (a1 : Nat) (a2 : Header) (a3 : List (BitVec 512 × Bool)) (a4 : Origin) : Within [.mil, .fresh] s (State.enginePacket s a1 a2 a3 a4) := by
  unfold State.enginePacket
  repeat' first
    | with_reducible exact Within.refl _ _
    | exact (rfl : _ = true)
    | (with_reducible apply Within.via (State.useFree_within ..))
    | (with_reducible apply Within.via (State.pushIn_within ..))

theorem State.transferLine_within (s : State) (a1 : Nat) (a2 : Nat) (a3 : List (Nat × Nat × Nat)) : Within [.regs, .agg, .eddies, .mil, .fresh] s (State.transferLine s a1 a2 a3) := by
  unfold State.transferLine
  repeat' first
    | with_reducible exact Within.refl _ _
    | with_reducible assumption
    | exact (rfl : _ = true)
    | (with_reducible apply Within.via (State.fadd_within ..))
    | (with_reducible apply Within.via (State.setEddy_within ..))
    | (with_reducible apply Within.via (State.setQueues_within ..))
    | (with_reducible apply Within.via (State.setXfer_within ..))
    | (with_reducible apply Within.via (State.enginePacket_within ..))
    | (intro z; refine (fun (hz : Within [.regs, .agg, .eddies, .mil, .fresh] s z) => ?_) ?_; rotate_left; dsimp only [z]; rotate_left; clear_value z)
    | (intro z; clear_value z)
    | lift_lets -underBinder
    | split

theorem State.engineRsp_within (s : State) (a1 : Nat) (a2 : Nat) (a3 : Nat) (a4 : Header) (a5 : List (BitVec 512 × Bool)) : Within [.eddies] s (State.engineRsp s a1 a2 a3 a4 a5) := by
  unfold State.engineRsp
  repeat' first
    | with_reducible exact Within.refl _ _
    | with_reducible assumption
    | exact (rfl : _ = true)
    | (with_reducible apply Within.via (State.setXfer_within ..))
    | (intro z; refine (fun (hz : Within [.eddies] s z) => ?_) ?_; rotate_left; dsimp only [z]; rotate_left; clear_value z)
    | (intro z; clear_value z)
    | lift_lets -underBinder
    | split

theorem State.transferComplete_within (s : State) (a1 : Nat) (a2 : Nat) (a3 : List (Nat × Nat × Nat)) : Within [.regs, .agg, .eddies] s (State.transferComplete s a1 a2 a3) := by
  unfold State.transferComplete
  repeat' first
    | with_reducible exact Within.refl _ _
    | with_reducible assumption
    | exact (rfl : _ = true)
    | (with_reducible apply Within.via (State.finc_within ..))
    | (with_reducible apply Within.via (State.irq_within ..))
    | (with_reducible apply Within.via (State.setEddy_within ..))
    | (intro z; refine (fun (hz : Within [.regs, .agg, .eddies] s z) => ?_) ?_; rotate_left; dsimp only [z]; rotate_left; clear_value z)
    | (intro z; clear_value z)
    | lift_lets -underBinder
    | split

theorem State.idleCycle_within (s : State) : Within [.eddies, .tally] s (State.idleCycle s) := by
  unfold State.idleCycle
  repeat' first
    | with_reducible exact Within.refl _ _
    | with_reducible assumption
    | exact (rfl : _ = true)
    | (with_reducible apply Within.via (State.setEddy_within ..))
    | (with_reducible apply Within.via (State.setEddies_within ..))
    | (with_reducible apply Within.via (State.meterCycles_within ..))
    | exact settlePosted_wf _
    | exact releaseLock_wf _
    | exact issueCycle_wf _ _ _
    | (intro z; have _h : SMap Eddy × Issued := z; clear _h; dsimp -zeta only [z]; clear z)
    | with_reducible apply Within.foldl
    | refine (fun (s : State) x => ?_)
    | (intro z; refine (fun (hz : Within [.eddies, .tally] s z) => ?_) ?_; rotate_left; dsimp only [z]; rotate_left; clear_value z)
    | (intro z; clear_value z)
    | lift_lets -underBinder
    | split

theorem State.drainAll_within (s : State) : Within [.eddies] s (State.drainAll s) := by
  unfold State.drainAll
  repeat' first
    | with_reducible exact Within.refl _ _
    | exact (rfl : _ = true)
    | (with_reducible apply Within.via (State.setEddies_within ..))
    | exact settlePosted_wf _
    | exact releaseLock_wf _
    | exact issueCycle_wf _ _ _
    | (intro z; have _h : SMap Eddy × Issued := z; clear _h; dsimp -zeta only [z]; clear z)
    | with_reducible apply Within.foldl
    | refine (fun (s : State) x => ?_)

end Sys2Proof.Machine
end

