-- ==== Sys2Proof/Laws/WithinDebug.lean ====
section
/-! SUPPORT. Which parts of the state each operation of Machine/Debug.lean touches. -/

namespace Sys2Proof.Machine

theorem State.ringFree_within (s : State) (a1 : Nat) : Within [.regs, .agg, .dbg] s (State.ringFree s a1) := by
  unfold State.ringFree
  repeat' first
    | with_reducible exact Within.refl _ _
    | exact (rfl : _ = true)
    | (with_reducible apply Within.via (State.fset_within ..))
    | (with_reducible apply Within.via (State.setDbg_within ..))

theorem State.traceEngine_within (s : State) (a1 : Nat) (a2 : Nat) (a3 : Nat) (a4 : Nat) (a5 : Nat) (a6 : Nat) : Within [.regs, .agg, .dbg] s (State.traceEngine s a1 a2 a3 a4 a5 a6) := by
  unfold State.traceEngine
  repeat' first
    | with_reducible exact Within.refl _ _
    | exact (rfl : _ = true)
    | (with_reducible apply Within.via (State.trace_within ..))
    | split

theorem State.releaseEngine_within (s : State) (a1 : Nat) (a2 : Nat) : Within [.regs, .agg, .eddies, .dbg] s (State.releaseEngine s a1 a2) := by
  unfold State.releaseEngine
  repeat' first
    | with_reducible exact Within.refl _ _
    | with_reducible assumption
    | exact (rfl : _ = true)
    | (with_reducible apply Within.via (State.fset_within ..))
    | (with_reducible apply Within.via (State.setEddy_within ..))
    | (with_reducible apply Within.via (State.setDbg_within ..))
    | (with_reducible apply Within.via (State.traceEngine_within ..))
    | (intro z; refine (fun (hz : Within [.regs, .agg, .eddies, .dbg] s z) => ?_) ?_; rotate_left; dsimp only [z]; rotate_left; clear_value z)
    | (intro z; clear_value z)
    | lift_lets -underBinder
    | split

theorem State.releaseAll_within (s : State) (a1 : Nat) : Within [.regs, .agg, .eddies, .dbg] s (State.releaseAll s a1) := by
  unfold State.releaseAll
  repeat' first
    | with_reducible exact Within.refl _ _
    | with_reducible assumption
    | exact (rfl : _ = true)
    | (with_reducible apply Within.via (State.fset_within ..))
    | (with_reducible apply Within.via (State.setEddy_within ..))
    | (with_reducible apply Within.via (State.setDbg_within ..))
    | (with_reducible apply Within.via (State.releaseEngine_within ..))
    | with_reducible apply Within.foldl
    | refine (fun (s : State) x => ?_)
    | (intro z; refine (fun (hz : Within [.regs, .agg, .eddies, .dbg] s z) => ?_) ?_; rotate_left; dsimp only [z]; rotate_left; clear_value z)
    | (intro z; clear_value z)
    | lift_lets -underBinder
    | split

theorem State.disarmView_within (s : State) (a1 : Nat) : Within [.regs, .agg, .dbg] s (State.disarmView s a1) := by
  unfold State.disarmView
  repeat' first
    | with_reducible exact Within.refl _ _
    | with_reducible assumption
    | exact (rfl : _ = true)
    | (with_reducible apply Within.via (State.fset_within ..))
    | (with_reducible apply Within.via (State.setDbg_within ..))
    | with_reducible apply Within.foldl
    | refine (fun (s : State) x => ?_)
    | (intro z; refine (fun (hz : Within [.regs, .agg, .dbg] s z) => ?_) ?_; rotate_left; dsimp only [z]; rotate_left; clear_value z)
    | (intro z; clear_value z)
    | lift_lets -underBinder

theorem State.zeroAreas_within (s : State) (a1 : Nat) : Within [.regs, .agg, .dbg] s (State.zeroAreas s a1) := by
  unfold State.zeroAreas
  repeat' first
    | with_reducible exact Within.refl _ _
    | with_reducible assumption
    | exact (rfl : _ = true)
    | (with_reducible apply Within.via (State.fset_within ..))
    | (with_reducible apply Within.via (State.setDbg_within ..))
    | (intro z; refine (fun (hz : Within [.regs, .agg, .dbg] s z) => ?_) ?_; rotate_left; dsimp only [z]; rotate_left; clear_value z)
    | (intro z; clear_value z)
    | lift_lets -underBinder

theorem State.captureEnd_within (s : State) (a1 : Nat) : Within [.regs, .agg, .dbg] s (State.captureEnd s a1) := by
  unfold State.captureEnd
  repeat' first
    | with_reducible exact Within.refl _ _
    | with_reducible assumption
    | exact (rfl : _ = true)
    | (with_reducible apply Within.via (State.fset_within ..))
    | (with_reducible apply Within.via (State.setDbg_within ..))
    | (with_reducible apply Within.via (State.setGated_within ..))
    | with_reducible apply Within.foldl
    | refine (fun (s : State) x => ?_)
    | (intro z; refine (fun (hz : Within [.regs, .agg, .dbg] s z) => ?_) ?_; rotate_left; dsimp only [z]; rotate_left; clear_value z)
    | (intro z; clear_value z)
    | lift_lets -underBinder
    | split

theorem State.endGrant_within (s : State) (a1 : Nat) : Within [.regs, .agg, .eddies, .dbg] s (State.endGrant s a1) := by
  unfold State.endGrant
  repeat' first
    | with_reducible exact Within.refl _ _
    | with_reducible assumption
    | exact (rfl : _ = true)
    | (with_reducible apply Within.via (State.wr32_within ..))
    | (with_reducible apply Within.via (State.wr64_within ..))
    | (with_reducible apply Within.via (State.fset_within ..))
    | (with_reducible apply Within.via (State.irq_within ..))
    | (with_reducible apply Within.via (State.ringFree_within ..))
    | (with_reducible apply Within.via (State.releaseAll_within ..))
    | (with_reducible apply Within.via (State.disarmView_within ..))
    | (with_reducible apply Within.via (State.zeroAreas_within ..))
    | (with_reducible apply Within.via (State.captureEnd_within ..))
    | with_reducible apply Within.foldl
    | refine (fun (s : State) x => ?_)
    | (intro z; refine (fun (hz : Within [.regs, .agg, .eddies, .dbg] s z) => ?_) ?_; rotate_left; dsimp only [z]; rotate_left; clear_value z)
    | (intro z; clear_value z)
    | lift_lets -underBinder
    | split

theorem State.endGrantsOf_within (s : State) (a1 : Nat) : Within [.regs, .agg, .eddies, .dbg] s (State.endGrantsOf s a1) := by
  unfold State.endGrantsOf
  repeat' first
    | with_reducible exact Within.refl _ _
    | exact (rfl : _ = true)
    | (with_reducible apply Within.via (State.endGrant_within ..))
    | with_reducible apply Within.foldl
    | refine (fun (s : State) x => ?_)
    | split

theorem State.grantExpire_within (s : State) (a1 : Nat) : Within [.regs, .agg, .eddies, .dbg] s (State.grantExpire s a1) := by
  unfold State.grantExpire
  repeat' first
    | with_reducible exact Within.refl _ _
    | exact (rfl : _ = true)
    | (with_reducible apply Within.via (State.endGrant_within ..))
    | split

theorem State.newGrant_within (s : State) (a1 : Nat) (a2 : Nat) (a3 : Nat) (a4 : Nat) : Within [.regs, .agg, .eddies, .dbg] s (State.newGrant s a1 a2 a3 a4) := by
  unfold State.newGrant
  repeat' first
    | with_reducible exact Within.refl _ _
    | exact (rfl : _ = true)
    | (with_reducible apply Within.via (State.wr32_within ..))
    | (with_reducible apply Within.via (State.wr64_within ..))
    | (with_reducible apply Within.via (State.endGrant_within ..))

theorem State.newNonce_within (s : State) (a1 : Nat) : Within [.regs, .agg, .fresh] s (State.newNonce s a1) := by
  unfold State.newNonce
  repeat' first
    | with_reducible exact Within.refl _ _
    | exact (rfl : _ = true)
    | (with_reducible apply Within.via (State.wr64_within ..))
    | (with_reducible apply Within.via (State.useFree_within ..))

theorem State.haltAsk_within (s : State) (a1 : Nat) (a2 : Nat) : Within [.regs, .agg, .eddies, .dbg] s (State.haltAsk s a1 a2) := by
  unfold State.haltAsk
  repeat' first
    | with_reducible exact Within.refl _ _
    | with_reducible assumption
    | exact (rfl : _ = true)
    | (with_reducible apply Within.via (State.fset_within ..))
    | (with_reducible apply Within.via (State.setEddy_within ..))
    | (with_reducible apply Within.via (State.setDbg_within ..))
    | (intro z; refine (fun (hz : Within [.regs, .agg, .eddies, .dbg] s z) => ?_) ?_; rotate_left; dsimp only [z]; rotate_left; clear_value z)
    | (intro z; clear_value z)
    | lift_lets -underBinder
    | split

theorem State.enterHalted_within (s : State) (a1 : Nat) : Within [.regs, .agg, .eddies, .dbg] s (State.enterHalted s a1) := by
  unfold State.enterHalted
  repeat' first
    | with_reducible exact Within.refl _ _
    | with_reducible assumption
    | exact (rfl : _ = true)
    | (with_reducible apply Within.via (State.fset_within ..))
    | (with_reducible apply Within.via (State.irq_within ..))
    | (with_reducible apply Within.via (State.setEddy_within ..))
    | (with_reducible apply Within.via (State.setDbg_within ..))
    | (with_reducible apply Within.via (State.traceEngine_within ..))
    | (intro z; refine (fun (hz : Within [.regs, .agg, .eddies, .dbg] s z) => ?_) ?_; rotate_left; dsimp only [z]; rotate_left; clear_value z)
    | (intro z; clear_value z)
    | lift_lets -underBinder

theorem State.engineHalt_within (s : State) (a1 : Nat) : Within [.regs, .agg, .eddies, .dbg] s (State.engineHalt s a1) := by
  unfold State.engineHalt
  repeat' first
    | with_reducible exact Within.refl _ _
    | with_reducible assumption
    | exact (rfl : _ = true)
    | (with_reducible apply Within.via (State.enterHalted_within ..))
    | (intro z; refine (fun (hz : Within [.regs, .agg, .eddies, .dbg] s z) => ?_) ?_; rotate_left; dsimp only [z]; rotate_left; clear_value z)
    | (intro z; clear_value z)
    | lift_lets -underBinder
    | split

theorem State.lockBroken_within (s : State) (a1 : Nat) : Within [.regs, .agg, .eddies, .dbg] s (State.lockBroken s a1) := by
  unfold State.lockBroken
  repeat' first
    | with_reducible exact Within.refl _ _
    | with_reducible assumption
    | exact (rfl : _ = true)
    | (with_reducible apply Within.via (State.fset_within ..))
    | (with_reducible apply Within.via (State.irq_within ..))
    | (with_reducible apply Within.via (State.setEddies_within ..))
    | (with_reducible apply Within.via (State.traceEngine_within ..))
    | (with_reducible apply Within.via (State.enterHalted_within ..))
    | exact settlePosted_wf _
    | exact releaseLock_wf _
    | exact issueCycle_wf _ _ _
    | (intro z; have _h : SMap Eddy × Issued := z; clear _h; dsimp -zeta only [z]; clear z)
    | (intro z; refine (fun (hz : Within [.regs, .agg, .eddies, .dbg] s z) => ?_) ?_; rotate_left; dsimp only [z]; rotate_left; clear_value z)
    | (intro z; clear_value z)
    | lift_lets -underBinder
    | split

theorem State.dbgCmd_within (s : State) (a1 : Req) (a2 : Nat) (a3 : Nat) : Within [.regs, .agg, .eddies, .dbg] s (State.dbgCmd s a1 a2 a3) := by
  unfold State.dbgCmd
  repeat' first
    | with_reducible exact Within.refl _ _
    | with_reducible assumption
    | exact (rfl : _ = true)
    | (with_reducible apply Within.via (State.fset_within ..))
    | (with_reducible apply Within.via (State.refuse_within ..))
    | (with_reducible apply Within.via (State.setDbg_within ..))
    | (with_reducible apply Within.via (State.releaseEngine_within ..))
    | (with_reducible apply Within.via (State.haltAsk_within ..))
    | with_reducible apply Within.foldl
    | with_reducible apply Within.foldlFst
    | with_reducible apply Within.foldlSnd
    | refine (fun (z : State × _) x hz => ?_)
    | refine (fun (z : _ × State) x hz => ?_)
    | refine (fun (z : State) (l : Loc) (d : List Nat) hz => ?_)
    | refine (fun (s : State) x => ?_)
    | (intro z; refine (fun (hz : Within [.regs, .agg, .eddies, .dbg] s z) => ?_) ?_; rotate_left; dsimp only [z]; rotate_left; clear_value z)
    | (intro z; refine (fun (hz : Within [.regs, .agg, .eddies, .dbg] s z.1) => ?_) ?_; rotate_left; dsimp only [z]; rotate_left; clear_value z)
    | (intro z; refine (fun (hz : Within [.regs, .agg, .eddies, .dbg] s z.2) => ?_) ?_; rotate_left; dsimp only [z]; rotate_left; clear_value z)
    | (intro z; have _h : State → _ := z; clear _h; dsimp -zeta only [z]; clear z)
    | (intro z; have _h : State × _ → _ := z; clear _h; dsimp -zeta only [z]; clear z)
    | (intro z; clear_value z)
    | (intro z; dsimp -zeta only [z]; clear z)
    | lift_lets -underBinder
    | split

theorem State.dbgDataWrite_within (s : State) (a1 : Req) (a2 : Nat) (a3 : Nat) : Within [.regs, .agg, .eddies] s (State.dbgDataWrite s a1 a2 a3) := by
  unfold State.dbgDataWrite
  repeat' first
    | with_reducible exact Within.refl _ _
    | with_reducible assumption
    | exact (rfl : _ = true)
    | (with_reducible apply Within.via (State.refuse_within ..))
    | (with_reducible apply Within.via (State.setEddy_within ..))
    | (intro z; refine (fun (hz : Within [.regs, .agg, .eddies] s z) => ?_) ?_; rotate_left; dsimp only [z]; rotate_left; clear_value z)
    | (intro z; clear_value z)
    | lift_lets -underBinder
    | split

theorem State.captureTrigger_within (s : State) (a1 : Nat) : Within [.regs, .agg, .eddies, .dbg] s (State.captureTrigger s a1) := by
  unfold State.captureTrigger
  repeat' first
    | with_reducible exact Within.refl _ _
    | with_reducible assumption
    | exact (rfl : _ = true)
    | (with_reducible apply Within.via (State.fset_within ..))
    | (with_reducible apply Within.via (State.irq_within ..))
    | (with_reducible apply Within.via (State.setDbg_within ..))
    | (with_reducible apply Within.via (State.trace_within ..))
    | (with_reducible apply Within.via (State.setGated_within ..))
    | (with_reducible apply Within.via (State.haltAsk_within ..))
    | with_reducible apply Within.foldl
    | refine (fun (s : State) x => ?_)
    | (intro z; refine (fun (hz : Within [.regs, .agg, .eddies, .dbg] s z) => ?_) ?_; rotate_left; dsimp only [z]; rotate_left; clear_value z)
    | (intro z; clear_value z)
    | lift_lets -underBinder
    | split

theorem State.dbgTrig_within (s : State) (a1 : Nat) : Within [.regs, .agg, .eddies, .dbg] s (State.dbgTrig s a1) := by
  unfold State.dbgTrig
  repeat' first
    | with_reducible exact Within.refl _ _
    | with_reducible assumption
    | exact (rfl : _ = true)
    | (with_reducible apply Within.via (State.trace_within ..))
    | (with_reducible apply Within.via (State.captureTrigger_within ..))
    | with_reducible apply Within.foldl
    | refine (fun (s : State) x => ?_)
    | (intro z; refine (fun (hz : Within [.regs, .agg, .eddies, .dbg] s z) => ?_) ?_; rotate_left; dsimp only [z]; rotate_left; clear_value z)
    | (intro z; clear_value z)
    | lift_lets -underBinder
    | split

theorem State.snapEnd_within (s : State) (a1 : Nat) (a2 : Bool) : Within [.regs, .agg, .dbg] s (State.snapEnd s a1 a2) := by
  unfold State.snapEnd
  repeat' first
    | with_reducible exact Within.refl _ _
    | exact (rfl : _ = true)
    | (with_reducible apply Within.via (State.fset_within ..))
    | (with_reducible apply Within.via (State.captureEnd_within ..))
    | split

theorem State.capResume_within (s : State) (a1 : Nat) : Within [.regs, .agg, .dbg] s (State.capResume s a1) := by
  unfold State.capResume
  repeat' first
    | with_reducible exact Within.refl _ _
    | exact (rfl : _ = true)
    | (with_reducible apply Within.via (State.captureEnd_within ..))
    | split

theorem State.capCtlWrite_within (s : State) (a1 : Nat) (a2 : Nat) : Within [.regs, .agg, .eddies, .dbg] s (State.capCtlWrite s a1 a2) := by
  unfold State.capCtlWrite
  repeat' first
    | with_reducible exact Within.refl _ _
    | with_reducible assumption
    | exact (rfl : _ = true)
    | (with_reducible apply Within.via (State.wr32_within ..))
    | (with_reducible apply Within.via (State.captureTrigger_within ..))
    | (with_reducible apply Within.via (State.capResume_within ..))
    | (intro z; refine (fun (hz : Within [.regs, .agg, .eddies, .dbg] s z) => ?_) ?_; rotate_left; dsimp only [z]; rotate_left; clear_value z)
    | (intro z; clear_value z)
    | lift_lets -underBinder
    | split

theorem State.wpMatch_within (s : State) (a1 : Nat) (a2 : Nat) (a3 : Nat) (a4 : Nat) (a5 : Nat) : Within [.regs, .agg, .eddies, .dbg] s (State.wpMatch s a1 a2 a3 a4 a5) := by
  unfold State.wpMatch
  repeat' first
    | with_reducible exact Within.refl _ _
    | with_reducible assumption
    | exact (rfl : _ = true)
    | (with_reducible apply Within.via (State.fset_within ..))
    | (with_reducible apply Within.via (State.setBit_within ..))
    | (with_reducible apply Within.via (State.irq_within ..))
    | (with_reducible apply Within.via (State.setDbg_within ..))
    | (with_reducible apply Within.via (State.traceEngine_within ..))
    | (with_reducible apply Within.via (State.haltAsk_within ..))
    | (with_reducible apply Within.via (State.captureTrigger_within ..))
    | with_reducible apply Within.foldl
    | refine (fun (s : State) x => ?_)
    | (intro z; refine (fun (hz : Within [.regs, .agg, .eddies, .dbg] s z) => ?_) ?_; rotate_left; dsimp only [z]; rotate_left; clear_value z)
    | (intro z; clear_value z)
    | lift_lets -underBinder
    | split

theorem State.wpPc_within (s : State) (a1 : Nat) (a2 : Nat) : Within [.regs, .agg, .eddies, .dbg] s (State.wpPc s a1 a2) := by
  unfold State.wpPc
  repeat' first
    | with_reducible exact Within.refl _ _
    | with_reducible assumption
    | exact (rfl : _ = true)
    | (with_reducible apply Within.via (State.wpMatch_within ..))
    | with_reducible apply Within.foldl
    | with_reducible apply Within.foldlFst
    | with_reducible apply Within.foldlSnd
    | refine (fun (z : State × _) x hz => ?_)
    | refine (fun (z : _ × State) x hz => ?_)
    | refine (fun (z : State) (l : Loc) (d : List Nat) hz => ?_)
    | refine (fun (s : State) x => ?_)
    | (intro z; refine (fun (hz : Within [.regs, .agg, .eddies, .dbg] s z) => ?_) ?_; rotate_left; dsimp only [z]; rotate_left; clear_value z)
    | (intro z; refine (fun (hz : Within [.regs, .agg, .eddies, .dbg] s z.1) => ?_) ?_; rotate_left; dsimp only [z]; rotate_left; clear_value z)
    | (intro z; refine (fun (hz : Within [.regs, .agg, .eddies, .dbg] s z.2) => ?_) ?_; rotate_left; dsimp only [z]; rotate_left; clear_value z)
    | (intro z; have _h : State → _ := z; clear _h; dsimp -zeta only [z]; clear z)
    | (intro z; have _h : State × _ → _ := z; clear _h; dsimp -zeta only [z]; clear z)
    | (intro z; clear_value z)
    | (intro z; dsimp -zeta only [z]; clear z)
    | lift_lets -underBinder
    | split

theorem State.wpData_within (s : State) (a1 : Nat) (a2 : Nat) (a3 : Option (Bool × List (Nat × Nat))) : Within [.regs, .agg, .eddies, .dbg] s (State.wpData s a1 a2 a3) := by
  unfold State.wpData
  repeat' first
    | with_reducible exact Within.refl _ _
    | with_reducible assumption
    | exact (rfl : _ = true)
    | (with_reducible apply Within.via (State.wpMatch_within ..))
    | with_reducible apply Within.foldl
    | refine (fun (s : State) x => ?_)
    | (intro z; refine (fun (hz : Within [.regs, .agg, .eddies, .dbg] s z) => ?_) ?_; rotate_left; dsimp only [z]; rotate_left; clear_value z)
    | (intro z; clear_value z)
    | lift_lets -underBinder
    | split

theorem State.wpCfgWrite_within (s : State) (a1 : Req) (a2 : Nat) (a3 : Nat) (a4 : Nat) : Within [.regs, .agg, .dbg] s (State.wpCfgWrite s a1 a2 a3 a4) := by
  unfold State.wpCfgWrite
  repeat' first
    | with_reducible exact Within.refl _ _
    | with_reducible assumption
    | exact (rfl : _ = true)
    | (with_reducible apply Within.via (State.wr32_within ..))
    | (with_reducible apply Within.via (State.refuse_within ..))
    | (with_reducible apply Within.via (State.setDbg_within ..))
    | (intro z; refine (fun (hz : Within [.regs, .agg, .dbg] s z) => ?_) ?_; rotate_left; dsimp only [z]; rotate_left; clear_value z)
    | (intro z; clear_value z)
    | lift_lets -underBinder
    | split

theorem State.afterCycle_within (s : State) (a1 : Nat) (a2 : Bool) : Within [.regs, .agg, .eddies, .dbg] s (State.afterCycle s a1 a2) := by
  unfold State.afterCycle
  repeat' first
    | with_reducible exact Within.refl _ _
    | with_reducible assumption
    | exact (rfl : _ = true)
    | (with_reducible apply Within.via (State.fset_within ..))
    | (with_reducible apply Within.via (State.setDbg_within ..))
    | (with_reducible apply Within.via (State.haltAsk_within ..))
    | (intro z; refine (fun (hz : Within [.regs, .agg, .eddies, .dbg] s z) => ?_) ?_; rotate_left; dsimp only [z]; rotate_left; clear_value z)
    | (intro z; clear_value z)
    | lift_lets -underBinder
    | split

theorem State.dbgIssue_within (s : State) (a1 : Nat) (a2 : IssueEnv) : Within [.regs, .agg, .eddies, .tally, .dbg, .fresh] s (State.dbgIssue s a1 a2) := by
  unfold State.dbgIssue
  repeat' first
    | with_reducible exact Within.refl _ _
    | with_reducible assumption
    | exact (rfl : _ = true)
    | (with_reducible apply Within.via (State.setEddy_within ..))
    | (with_reducible apply Within.via (State.setDbg_within ..))
    | (with_reducible apply Within.via (State.issueEngine_within ..))
    | (with_reducible apply Within.via (State.traceEngine_within ..))
    | (with_reducible apply Within.via (State.wpPc_within ..))
    | (with_reducible apply Within.via (State.wpData_within ..))
    | (with_reducible apply Within.via (State.afterCycle_within ..))
    | with_reducible apply Within.foldl
    | with_reducible apply Within.foldlFst
    | with_reducible apply Within.foldlSnd
    | refine (fun (z : State × _) x hz => ?_)
    | refine (fun (z : _ × State) x hz => ?_)
    | refine (fun (z : State) (l : Loc) (d : List Nat) hz => ?_)
    | refine (fun (s : State) x => ?_)
    | (intro z; refine (fun (hz : Within [.regs, .agg, .eddies, .tally, .dbg, .fresh] s z) => ?_) ?_; rotate_left; dsimp only [z]; rotate_left; clear_value z)
    | (intro z; refine (fun (hz : Within [.regs, .agg, .eddies, .tally, .dbg, .fresh] s z.1) => ?_) ?_; rotate_left; dsimp only [z]; rotate_left; clear_value z)
    | (intro z; refine (fun (hz : Within [.regs, .agg, .eddies, .tally, .dbg, .fresh] s z.2) => ?_) ?_; rotate_left; dsimp only [z]; rotate_left; clear_value z)
    | (intro z; have _h : State → _ := z; clear _h; dsimp -zeta only [z]; clear z)
    | (intro z; have _h : State × _ → _ := z; clear _h; dsimp -zeta only [z]; clear z)
    | (intro z; clear_value z)
    | (intro z; dsimp -zeta only [z]; clear z)
    | lift_lets -underBinder
    | split

theorem State.idleEngines_within (s : State) : Within [.regs, .agg, .eddies, .tally, .dbg] s (State.idleEngines s) := by
  unfold State.idleEngines
  repeat' first
    | with_reducible exact Within.refl _ _
    | exact (rfl : _ = true)
    | (with_reducible apply Within.via (State.idleCycle_within ..))
    | (with_reducible apply Within.via (State.afterCycle_within ..))
    | with_reducible apply Within.foldl
    | refine (fun (s : State) x => ?_)
    | split

theorem State.ringCtlWrite_within (s : State) (a1 : Req) (a2 : Nat) (a3 : Nat) : Within [.regs, .agg, .dbg] s (State.ringCtlWrite s a1 a2 a3) := by
  unfold State.ringCtlWrite
  repeat' first
    | with_reducible exact Within.refl _ _
    | with_reducible assumption
    | exact (rfl : _ = true)
    | (with_reducible apply Within.via (State.wr32_within ..))
    | (with_reducible apply Within.via (State.fset_within ..))
    | (with_reducible apply Within.via (State.refuse_within ..))
    | (with_reducible apply Within.via (State.setDbg_within ..))
    | (with_reducible apply Within.via (State.ringFree_within ..))
    | (intro z; refine (fun (hz : Within [.regs, .agg, .dbg] s z) => ?_) ?_; rotate_left; dsimp only [z]; rotate_left; clear_value z)
    | (intro z; clear_value z)
    | lift_lets -underBinder
    | split

end Sys2Proof.Machine
end

