-- ==== Sys2Proof/Laws/WithinPins.lean ====
section
/-! SUPPORT. Which parts of the state each operation of Machine/Pins.lean touches. -/

namespace Sys2Proof.Machine

theorem State.setBankBit_within (s : State) (a1 : Nat) (a2 : Nat) (a3 : Bool) : Within [.regs, .agg] s (State.setBankBit s a1 a2 a3) := by
  unfold State.setBankBit
  repeat' first
    | with_reducible exact Within.refl _ _
    | exact (rfl : _ = true)
    | (with_reducible apply Within.via (State.setBit_within ..))

theorem State.pinCfgWrite_within (s : State) (a1 : Req) (a2 : Nat) (a3 : Nat) : Within [.regs, .agg, .pins] s (State.pinCfgWrite s a1 a2 a3) := by
  unfold State.pinCfgWrite
  dsimp only
  repeat' first
    | with_reducible exact Within.refl _ _
    | with_reducible assumption
    | exact (rfl : _ = true)
    | (with_reducible apply Within.via (State.wr32_within ..))
    | (with_reducible apply Within.via (State.fset_within ..))
    | (with_reducible apply Within.via (State.refuse_within ..))
    | (with_reducible apply Within.via (State.setPinCell_within ..))
    | (intro z; refine (fun (hz : Within [.regs, .agg, .pins] s z) => ?_) ?_; rotate_left; dsimp only [z]; rotate_left; clear_value z)
    | (intro z; clear_value z)
    | lift_lets -underBinder
    | split

theorem State.switchEdge_within (s : State) (a1 : Nat) : Within [.pins] s (State.switchEdge s a1) := by
  unfold State.switchEdge
  repeat' first
    | with_reducible exact Within.refl _ _
    | with_reducible assumption
    | exact (rfl : _ = true)
    | (with_reducible apply Within.via (State.setPinCell_within ..))
    | (intro z; refine (fun (hz : Within [.pins] s z) => ?_) ?_; rotate_left; dsimp only [z]; rotate_left; clear_value z)
    | (intro z; clear_value z)
    | lift_lets -underBinder
    | split

theorem State.holdEnd_within (s : State) (a1 : Nat) : Within [.regs, .agg, .pins] s (State.holdEnd s a1) := by
  unfold State.holdEnd
  repeat' first
    | with_reducible exact Within.refl _ _
    | with_reducible assumption
    | exact (rfl : _ = true)
    | (with_reducible apply Within.via (State.fset_within ..))
    | (with_reducible apply Within.via (State.setPinCell_within ..))
    | (intro z; refine (fun (hz : Within [.regs, .agg, .pins] s z) => ?_) ?_; rotate_left; dsimp only [z]; rotate_left; clear_value z)
    | (intro z; clear_value z)
    | lift_lets -underBinder
    | split

theorem State.swLate_within (s : State) (a1 : Nat) : Within [.regs, .agg] s (State.swLate s a1) := by
  unfold State.swLate
  repeat' first
    | with_reducible exact Within.refl _ _
    | exact (rfl : _ = true)
    | (with_reducible apply Within.via (State.fset_within ..))
    | (with_reducible apply Within.via (State.irq_within ..))
    | split

theorem State.bankWrite_within (s : State) (a1 : Req) (a2 : Nat) (a3 : Nat) (a4 : Nat) (a5 : Nat) (a6 : Nat) : Within [.regs, .agg] s (State.bankWrite s a1 a2 a3 a4 a5 a6) := by
  unfold State.bankWrite
  repeat' first
    | with_reducible exact Within.refl _ _
    | with_reducible assumption
    | exact (rfl : _ = true)
    | (with_reducible apply Within.via (State.wr32_within ..))
    | (with_reducible apply Within.via (State.refuse_within ..))
    | (intro z; refine (fun (hz : Within [.regs, .agg] s z) => ?_) ?_; rotate_left; dsimp only [z]; rotate_left; clear_value z)
    | (intro z; clear_value z)
    | lift_lets -underBinder
    | split

theorem State.gpioWrite_within (s : State) (a1 : Req) (a2 : Nat) (a3 : Nat) (a4 : Nat) : Within [.regs, .agg] s (State.gpioWrite s a1 a2 a3 a4) := by
  unfold State.gpioWrite
  repeat' first
    | with_reducible exact Within.refl _ _
    | with_reducible assumption
    | exact (rfl : _ = true)
    | (with_reducible apply Within.via (State.bankWrite_within ..))
    | (intro z; refine (fun (hz : Within [.regs, .agg] s z) => ?_) ?_; rotate_left; dsimp only [z]; rotate_left; clear_value z)
    | (intro z; clear_value z)
    | lift_lets -underBinder
    | split

theorem State.pinEdge_within (a0 : State) (s : State) (a2 : ClockId) (a3 : Bool) (a4 : Nat) (a5 : Nat) (a6 : Nat) (a7 : Bool) (a8 : Nat) (a9 : Bool) : Within [.regs, .agg, .pins] s (State.pinEdge a0 s a2 a3 a4 a5 a6 a7 a8 a9) := by
  unfold State.pinEdge
  repeat' first
    | with_reducible exact Within.refl _ _
    | with_reducible assumption
    | exact (rfl : _ = true)
    | (with_reducible apply Within.via (State.setPinCell_within ..))
    | (with_reducible apply Within.via (State.setBankBit_within ..))
    | (intro z; refine (fun (hz : Within [.regs, .agg, .pins] s z) => ?_) ?_; rotate_left; dsimp only [z]; rotate_left; clear_value z)
    | (intro z; clear_value z)
    | lift_lets -underBinder
    | split

theorem State.clockEdge_within (s : State) (a1 : ClockId) (a2 : Bool) (a3 : List ElemIn) : Within [.regs, .agg, .fab, .pins, .fresh] s (State.clockEdge s a1 a2 a3) := by
  unfold State.clockEdge
  repeat' first
    | with_reducible exact Within.refl _ _
    | exact (rfl : _ = true)
    | (with_reducible apply Within.via (State.clockElem_within ..))
    | (with_reducible apply Within.via (State.pinEdge_within ..))
    | with_reducible apply Within.foldl
    | refine (fun (s : State) x => ?_)
    | split

theorem State.applyPin_within (s : State) (a1 : Nat × Nat × Bool × Bool) : Within [.regs, .agg, .pins] s (State.applyPin s a1) := by
  unfold State.applyPin
  repeat' first
    | with_reducible exact Within.refl _ _
    | with_reducible assumption
    | exact (rfl : _ = true)
    | (with_reducible apply Within.via (State.wr32_within ..))
    | (with_reducible apply Within.via (State.setPinCell_within ..))
    | (with_reducible apply Within.via (State.setBankBit_within ..))
    | (intro z; refine (fun (hz : Within [.regs, .agg, .pins] s z) => ?_) ?_; rotate_left; dsimp only [z]; rotate_left; clear_value z)
    | (intro z; clear_value z)
    | lift_lets -underBinder

theorem State.resetPin_within (s : State) (a1 : Nat) : Within [.regs, .agg, .pins] s (State.resetPin s a1) := by
  unfold State.resetPin
  repeat' first
    | with_reducible exact Within.refl _ _
    | exact (rfl : _ = true)
    | (with_reducible apply Within.via (State.applyPin_within ..))

theorem State.swapPins_within (s : State) (a1 : Nat) (a2 : Bool) : Within [.regs, .agg, .stalls, .pins] s (State.swapPins s a1 a2) := by
  unfold State.swapPins
  repeat' first
    | with_reducible exact Within.refl _ _
    | with_reducible assumption
    | exact (rfl : _ = true)
    | (with_reducible apply Within.via (State.setStall_within ..))
    | (with_reducible apply Within.via (State.applyPin_within ..))
    | (with_reducible apply Within.via (State.resetPin_within ..))
    | with_reducible apply Within.foldl
    | refine (fun (s : State) x => ?_)
    | (intro z; refine (fun (hz : Within [.regs, .agg, .stalls, .pins] s z) => ?_) ?_; rotate_left; dsimp only [z]; rotate_left; clear_value z)
    | (intro z; clear_value z)
    | lift_lets -underBinder
    | split

theorem State.pinEvent_within (s : State) (a1 : Nat) (a2 : Bool) : Within [.regs, .agg] s (State.pinEvent s a1 a2) := by
  unfold State.pinEvent
  repeat' first
    | with_reducible exact Within.refl _ _
    | with_reducible assumption
    | exact (rfl : _ = true)
    | (with_reducible apply Within.via (State.setBit_within ..))
    | (with_reducible apply Within.via (State.irq_within ..))
    | (intro z; refine (fun (hz : Within [.regs, .agg] s z) => ?_) ?_; rotate_left; dsimp only [z]; rotate_left; clear_value z)
    | (intro z; clear_value z)
    | lift_lets -underBinder
    | split

theorem State.schedIo_within (s : State) (a1 : Nat) : Within [.regs, .agg] s (State.schedIo s a1) := by
  unfold State.schedIo
  repeat' first
    | with_reducible exact Within.refl _ _
    | with_reducible assumption
    | exact (rfl : _ = true)
    | (with_reducible apply Within.via (State.finc_within ..))
    | (with_reducible apply Within.via (State.irq_within ..))
    | (with_reducible apply Within.via (State.setBankBit_within ..))
    | with_reducible apply Within.foldl
    | refine (fun (s : State) x => ?_)
    | (intro z; refine (fun (hz : Within [.regs, .agg] s z) => ?_) ?_; rotate_left; dsimp only [z]; rotate_left; clear_value z)
    | (intro z; clear_value z)
    | lift_lets -underBinder
    | split

theorem State.mgpioWrite_within (s : State) (a1 : Nat) (a2 : Nat) (a3 : Nat) : Within [.regs, .agg] s (State.mgpioWrite s a1 a2 a3) := by
  unfold State.mgpioWrite
  repeat' first
    | with_reducible exact Within.refl _ _
    | with_reducible assumption
    | exact (rfl : _ = true)
    | (with_reducible apply Within.via (State.wr32_within ..))
    | (intro z; refine (fun (hz : Within [.regs, .agg] s z) => ?_) ?_; rotate_left; dsimp only [z]; rotate_left; clear_value z)
    | (intro z; clear_value z)
    | lift_lets -underBinder

end Sys2Proof.Machine
end

