-- ==== Sys2Proof/Laws/WithinLanes.lean ====
section
/-! SUPPORT. Which parts of the state each operation of Machine/Lanes.lean touches. -/

namespace Sys2Proof.Machine

theorem State.setStage_within (s : State) (a1 : Nat) (a2 : Nat) : Within [.regs, .agg] s (State.setStage s a1 a2) := by
  unfold State.setStage
  repeat' first
    | with_reducible exact Within.refl _ _
    | with_reducible assumption
    | exact (rfl : _ = true)
    | (with_reducible apply Within.via (State.fset_within ..))
    | (with_reducible apply Within.via (State.irq_within ..))
    | (intro z; refine (fun (hz : Within [.regs, .agg] s z) => ?_) ?_; rotate_left; dsimp only [z]; rotate_left; clear_value z)
    | (intro z; clear_value z)
    | lift_lets -underBinder
    | split

theorem State.signalDetect_within (s : State) (a1 : Nat) : Within [.regs, .agg] s (State.signalDetect s a1) := by
  unfold State.signalDetect
  repeat' first
    | with_reducible exact Within.refl _ _
    | exact (rfl : _ = true)
    | (with_reducible apply Within.via (State.fset_within ..))
    | (with_reducible apply Within.via (State.setStage_within ..))
    | split

theorem State.cdrLock_within (s : State) (a1 : Nat) : Within [.regs, .agg] s (State.cdrLock s a1) := by
  unfold State.cdrLock
  repeat' first
    | with_reducible exact Within.refl _ _
    | exact (rfl : _ = true)
    | (with_reducible apply Within.via (State.fset_within ..))
    | (with_reducible apply Within.via (State.setStage_within ..))
    | split

theorem State.polarity_within (s : State) (a1 : Nat) (a2 : Bool) : Within [.regs, .agg] s (State.polarity s a1 a2) := by
  unfold State.polarity
  repeat' first
    | with_reducible exact Within.refl _ _
    | with_reducible assumption
    | exact (rfl : _ = true)
    | (with_reducible apply Within.via (State.fset_within ..))
    | (with_reducible apply Within.via (State.setStage_within ..))
    | (intro z; refine (fun (hz : Within [.regs, .agg] s z) => ?_) ?_; rotate_left; dsimp only [z]; rotate_left; clear_value z)
    | (intro z; clear_value z)
    | lift_lets -underBinder
    | split

theorem State.adaptDone_within (s : State) (a1 : Nat) (a2 : Nat) : Within [.regs, .agg] s (State.adaptDone s a1 a2) := by
  unfold State.adaptDone
  repeat' first
    | with_reducible exact Within.refl _ _
    | with_reducible assumption
    | exact (rfl : _ = true)
    | (with_reducible apply Within.via (State.fset_within ..))
    | (with_reducible apply Within.via (State.setStage_within ..))
    | (intro z; refine (fun (hz : Within [.regs, .agg] s z) => ?_) ?_; rotate_left; dsimp only [z]; rotate_left; clear_value z)
    | (intro z; clear_value z)
    | lift_lets -underBinder
    | split

theorem State.alignDone_within (s : State) (a1 : Nat) (a2 : Nat) : Within [.regs, .agg] s (State.alignDone s a1 a2) := by
  unfold State.alignDone
  repeat' first
    | with_reducible exact Within.refl _ _
    | exact (rfl : _ = true)
    | (with_reducible apply Within.via (State.fset_within ..))
    | (with_reducible apply Within.via (State.setStage_within ..))
    | split

theorem State.stageTimeout_within (s : State) (a1 : Nat) : Within [.regs, .agg] s (State.stageTimeout s a1) := by
  unfold State.stageTimeout
  repeat' first
    | with_reducible exact Within.refl _ _
    | exact (rfl : _ = true)
    | (with_reducible apply Within.via (State.setStage_within ..))
    | split

theorem State.signalLoss_within (s : State) (a1 : Nat) (a2 : Bool) : Within [.regs, .agg] s (State.signalLoss s a1 a2) := by
  unfold State.signalLoss
  repeat' first
    | with_reducible exact Within.refl _ _
    | with_reducible assumption
    | exact (rfl : _ = true)
    | (with_reducible apply Within.via (State.setStage_within ..))
    | (intro z; refine (fun (hz : Within [.regs, .agg] s z) => ?_) ?_; rotate_left; dsimp only [z]; rotate_left; clear_value z)
    | (intro z; clear_value z)
    | lift_lets -underBinder
    | split

theorem State.laneBegin_within (s : State) (a1 : Nat) : Within [.regs, .agg] s (State.laneBegin s a1) := by
  unfold State.laneBegin
  repeat' first
    | with_reducible exact Within.refl _ _
    | exact (rfl : _ = true)
    | (with_reducible apply Within.via (State.setStage_within ..))
    | split

theorem State.leaveCal_within (s : State) (a1 : Nat) (a2 : Bool) : Within [.regs, .agg, .tol, .lanes] s (State.leaveCal s a1 a2) := by
  unfold State.leaveCal
  repeat' first
    | with_reducible exact Within.refl _ _
    | with_reducible assumption
    | exact (rfl : _ = true)
    | (with_reducible apply Within.via (State.wr32_within ..))
    | (with_reducible apply Within.via (State.fset_within ..))
    | (with_reducible apply Within.via (State.irq_within ..))
    | (with_reducible apply Within.via (State.logEvent_within ..))
    | (with_reducible apply Within.via (State.setLane_within ..))
    | (with_reducible apply Within.via (State.setStage_within ..))
    | (with_reducible apply Within.via (State.laneBegin_within ..))
    | (intro z; refine (fun (hz : Within [.regs, .agg, .tol, .lanes] s z) => ?_) ?_; rotate_left; dsimp only [z]; rotate_left; clear_value z)
    | (intro z; clear_value z)
    | lift_lets -underBinder
    | split

theorem State.calEnd_within (s : State) (a1 : Nat) (a2 : Bool) : Within [.regs, .agg, .tol, .lanes] s (State.calEnd s a1 a2) := by
  unfold State.calEnd
  repeat' first
    | with_reducible exact Within.refl _ _
    | with_reducible assumption
    | exact (rfl : _ = true)
    | (with_reducible apply Within.via (State.setLane_within ..))
    | (with_reducible apply Within.via (State.leaveCal_within ..))
    | with_reducible apply Within.foldl
    | refine (fun (s : State) x => ?_)
    | (intro z; refine (fun (hz : Within [.regs, .agg, .tol, .lanes] s z) => ?_) ?_; rotate_left; dsimp only [z]; rotate_left; clear_value z)
    | (intro z; clear_value z)
    | lift_lets -underBinder
    | split

theorem State.laneRefLost_within (s : State) (a1 : Nat) (a2 : Bool) : Within [.regs, .agg] s (State.laneRefLost s a1 a2) := by
  unfold State.laneRefLost
  repeat' first
    | with_reducible exact Within.refl _ _
    | with_reducible assumption
    | exact (rfl : _ = true)
    | (with_reducible apply Within.via (State.fset_within ..))
    | (with_reducible apply Within.via (State.irq_within ..))
    | (with_reducible apply Within.via (State.setStage_within ..))
    | with_reducible apply Within.foldl
    | refine (fun (s : State) x => ?_)
    | (intro z; refine (fun (hz : Within [.regs, .agg] s z) => ?_) ?_; rotate_left; dsimp only [z]; rotate_left; clear_value z)
    | (intro z; clear_value z)
    | lift_lets -underBinder
    | split

theorem State.laneRefReturns_within (s : State) (a1 : Nat) (a2 : Bool) : Within [.regs, .agg] s (State.laneRefReturns s a1 a2) := by
  unfold State.laneRefReturns
  repeat' first
    | with_reducible exact Within.refl _ _
    | with_reducible assumption
    | exact (rfl : _ = true)
    | (with_reducible apply Within.via (State.fset_within ..))
    | (with_reducible apply Within.via (State.laneBegin_within ..))
    | with_reducible apply Within.foldl
    | refine (fun (s : State) x => ?_)
    | (intro z; refine (fun (hz : Within [.regs, .agg] s z) => ?_) ?_; rotate_left; dsimp only [z]; rotate_left; clear_value z)
    | (intro z; clear_value z)
    | lift_lets -underBinder
    | split

theorem State.laneCfgWrite_within (s : State) (a1 : Nat) (a2 : Nat) : Within [.regs, .agg, .lanes] s (State.laneCfgWrite s a1 a2) := by
  unfold State.laneCfgWrite
  repeat' first
    | with_reducible exact Within.refl _ _
    | with_reducible assumption
    | exact (rfl : _ = true)
    | (with_reducible apply Within.via (State.wr32_within ..))
    | (with_reducible apply Within.via (State.setLane_within ..))
    | (with_reducible apply Within.via (State.setStage_within ..))
    | (with_reducible apply Within.via (State.laneBegin_within ..))
    | with_reducible apply Within.foldl
    | refine (fun (s : State) x => ?_)
    | (intro z; refine (fun (hz : Within [.regs, .agg, .lanes] s z) => ?_) ?_; rotate_left; dsimp only [z]; rotate_left; clear_value z)
    | (intro z; clear_value z)
    | lift_lets -underBinder
    | split

theorem State.fabCfgWrite_within (s : State) (a1 : Nat) (a2 : Nat) : Within [.regs, .agg] s (State.fabCfgWrite s a1 a2) := by
  unfold State.fabCfgWrite
  repeat' first
    | with_reducible exact Within.refl _ _
    | with_reducible assumption
    | exact (rfl : _ = true)
    | (with_reducible apply Within.via (State.wr32_within ..))
    | (with_reducible apply Within.via (State.setStage_within ..))
    | (intro z; refine (fun (hz : Within [.regs, .agg] s z) => ?_) ?_; rotate_left; dsimp only [z]; rotate_left; clear_value z)
    | (intro z; clear_value z)
    | lift_lets -underBinder
    | split

theorem State.txEqWrite_within (s : State) (a1 : Req) (a2 : Nat) (a3 : Nat) : Within [.regs, .agg] s (State.txEqWrite s a1 a2 a3) := by
  unfold State.txEqWrite
  repeat' first
    | with_reducible exact Within.refl _ _
    | exact (rfl : _ = true)
    | (with_reducible apply Within.via (State.wr32_within ..))
    | (with_reducible apply Within.via (State.refuse_within ..))
    | split

theorem State.prbsClear_within (s : State) (a1 : Nat) : Within [.regs, .agg] s (State.prbsClear s a1) := by
  unfold State.prbsClear
  repeat' first
    | with_reducible exact Within.refl _ _
    | exact (rfl : _ = true)
    | (with_reducible apply Within.via (State.wr64_within ..))

theorem State.prbsInject_within (s : State) (a1 : Nat) : Within [.regs, .agg] s (State.prbsInject s a1) := by
  unfold State.prbsInject
  repeat' first
    | with_reducible exact Within.refl _ _
    | exact (rfl : _ = true)
    | (with_reducible apply Within.via (State.finc_within ..))
    | split

theorem State.prbsCtlWrite_within (s : State) (a1 : Nat) (a2 : Nat) : Within [.regs, .agg] s (State.prbsCtlWrite s a1 a2) := by
  unfold State.prbsCtlWrite
  repeat' first
    | with_reducible exact Within.refl _ _
    | with_reducible assumption
    | exact (rfl : _ = true)
    | (with_reducible apply Within.via (State.wr32_within ..))
    | (with_reducible apply Within.via (State.fset_within ..))
    | (with_reducible apply Within.via (State.prbsClear_within ..))
    | (with_reducible apply Within.via (State.prbsInject_within ..))
    | (intro z; refine (fun (hz : Within [.regs, .agg] s z) => ?_) ?_; rotate_left; dsimp only [z]; rotate_left; clear_value z)
    | (intro z; clear_value z)
    | lift_lets -underBinder
    | split

theorem State.prbsLock_within (s : State) (a1 : Nat) : Within [.regs, .agg] s (State.prbsLock s a1) := by
  unfold State.prbsLock
  repeat' first
    | with_reducible exact Within.refl _ _
    | exact (rfl : _ = true)
    | (with_reducible apply Within.via (State.fset_within ..))
    | split

theorem State.prbsLost_within (s : State) (a1 : Nat) (a2 : Nat) (a3 : Nat) : Within [.regs, .agg] s (State.prbsLost s a1 a2 a3) := by
  unfold State.prbsLost
  repeat' first
    | with_reducible exact Within.refl _ _
    | exact (rfl : _ = true)
    | (with_reducible apply Within.via (State.fset_within ..))
    | (with_reducible apply Within.via (State.fadd_within ..))
    | (with_reducible apply Within.via (State.irq_within ..))
    | split

theorem State.remapLane_within (s : State) (a1 : List Nat) (a2 : Nat) : Within [.regs, .agg] s (State.remapLane s a1 a2) := by
  unfold State.remapLane
  repeat' first
    | with_reducible exact Within.refl _ _
    | with_reducible assumption
    | exact (rfl : _ = true)
    | (with_reducible apply Within.via (State.wr32_within ..))
    | (with_reducible apply Within.via (State.setStage_within ..))
    | (with_reducible apply Within.via (State.laneBegin_within ..))
    | (intro z; refine (fun (hz : Within [.regs, .agg] s z) => ?_) ?_; rotate_left; dsimp only [z]; rotate_left; clear_value z)
    | (intro z; clear_value z)
    | lift_lets -underBinder
    | split

theorem State.bridgeReceive_within (s : State) (a1 : Nat) (a2 : List (BitVec 512)) : Within [.regs, .agg, .lanes] s (State.bridgeReceive s a1 a2) := by
  unfold State.bridgeReceive
  repeat' first
    | with_reducible exact Within.refl _ _
    | with_reducible assumption
    | exact (rfl : _ = true)
    | (with_reducible apply Within.via (State.finc_within ..))
    | (with_reducible apply Within.via (State.setLane_within ..))
    | with_reducible apply Within.foldl
    | refine (fun (s : State) x => ?_)
    | (intro z; refine (fun (hz : Within [.regs, .agg, .lanes] s z) => ?_) ?_; rotate_left; dsimp only [z]; rotate_left; clear_value z)
    | (intro z; clear_value z)
    | lift_lets -underBinder
    | split

theorem State.bridgeSend_within (s : State) (a1 : Nat) : Within [.regs, .agg, .mil, .lanes, .fresh] s (State.bridgeSend s a1) := by
  unfold State.bridgeSend
  repeat' first
    | with_reducible exact Within.refl _ _
    | with_reducible assumption
    | exact (rfl : _ = true)
    | (with_reducible apply Within.via (State.fadd_within ..))
    | (with_reducible apply Within.via (State.sendReq_within ..))
    | (with_reducible apply Within.via (State.setLane_within ..))
    | (intro z; refine (fun (hz : Within [.regs, .agg, .mil, .lanes, .fresh] s z) => ?_) ?_; rotate_left; dsimp only [z]; rotate_left; clear_value z)
    | (intro z; clear_value z)
    | lift_lets -underBinder
    | split

theorem State.bridgeRx_within (s : State) (a1 : Nat) (a2 : List (BitVec 512)) : Within [.regs, .agg, .mil, .lanes, .fresh] s (State.bridgeRx s a1 a2) := by
  unfold State.bridgeRx
  repeat' first
    | with_reducible exact Within.refl _ _
    | with_reducible assumption
    | exact (rfl : _ = true)
    | (with_reducible apply Within.via (State.bridgeReceive_within ..))
    | (with_reducible apply Within.via (State.bridgeSend_within ..))
    | (intro z; refine (fun (hz : Within [.regs, .agg, .mil, .lanes, .fresh] s z) => ?_) ?_; rotate_left; dsimp only [z]; rotate_left; clear_value z)
    | (intro z; clear_value z)
    | lift_lets -underBinder
    | split

theorem State.bridgeTimer_within (s : State) (a1 : Nat) (a2 : List (BitVec 512)) : Within [.regs, .agg, .mil, .lanes, .fresh] s (State.bridgeTimer s a1 a2) := by
  unfold State.bridgeTimer
  repeat' first
    | with_reducible exact Within.refl _ _
    | exact (rfl : _ = true)
    | (with_reducible apply Within.via (State.bridgeReceive_within ..))
    | (with_reducible apply Within.via (State.bridgeSend_within ..))

theorem State.bridgeRsp_within (s : State) (a1 : Nat) : Within [.lanes] s (State.bridgeRsp s a1) := by
  unfold State.bridgeRsp
  repeat' first
    | with_reducible exact Within.refl _ _
    | exact (rfl : _ = true)
    | (with_reducible apply Within.via (State.setLane_within ..))

theorem State.bridgeTake_within (s : State) (a1 : Nat) (a2 : List (BitVec 512)) : Within [.lanes] s (State.bridgeTake s a1 a2) := by
  unfold State.bridgeTake
  repeat' first
    | with_reducible exact Within.refl _ _
    | exact (rfl : _ = true)
    | (with_reducible apply Within.via (State.setLane_within ..))
    | split

theorem State.laneTick_within (s : State) : Within [.regs, .agg, .lanes, .out] s (State.laneTick s) := by
  unfold State.laneTick
  repeat' first
    | with_reducible exact Within.refl _ _
    | with_reducible assumption
    | exact (rfl : _ = true)
    | (with_reducible apply Within.via (State.finc_within ..))
    | (with_reducible apply Within.via (State.emit_within ..))
    | (with_reducible apply Within.via (State.setLane_within ..))
    | with_reducible apply Within.foldl
    | refine (fun (s : State) x => ?_)
    | (intro z; refine (fun (hz : Within [.regs, .agg, .lanes, .out] s z) => ?_) ?_; rotate_left; dsimp only [z]; rotate_left; clear_value z)
    | (intro z; clear_value z)
    | lift_lets -underBinder
    | split

end Sys2Proof.Machine
end

