-- ==== Sys2Proof/Laws/WithinStalls.lean ====
section
/-! SUPPORT. Which parts of the state each operation of Machine/Stalls.lean touches. -/

namespace Sys2Proof.Machine

theorem State.resetPort_within (s : State) (a1 : Nat) : Within [.regs, .agg] s (State.resetPort s a1) := by
  unfold State.resetPort
  repeat' first
    | with_reducible exact Within.refl _ _
    | exact (rfl : _ = true)
    | (with_reducible apply Within.via (State.wr32_within ..))

theorem State.createStall_within (s : State) (a1 : Nat) (a2 : Nat) (a3 : List ManEntry) : Within [.regs, .agg, .eddies, .stalls, .tally] s (State.createStall s a1 a2 a3) := by
  unfold State.createStall
  repeat' first
    | with_reducible exact Within.refl _ _
    | with_reducible assumption
    | exact (rfl : _ = true)
    | (with_reducible apply Within.via (State.wr32_within ..))
    | (with_reducible apply Within.via (State.resetPage_within ..))
    | (with_reducible apply Within.via (State.setEddy_within ..))
    | (with_reducible apply Within.via (State.setStall_within ..))
    | (with_reducible apply Within.via (State.setStallState_within ..))
    | (with_reducible apply Within.via (State.openNew_within ..))
    | (with_reducible apply Within.via (State.resetPort_within ..))
    | with_reducible apply Within.foldl
    | refine (fun (s : State) x => ?_)
    | (intro z; refine (fun (hz : Within [.regs, .agg, .eddies, .stalls, .tally] s z) => ?_) ?_; rotate_left; dsimp only [z]; rotate_left; clear_value z)
    | (intro z; clear_value z)
    | lift_lets -underBinder

theorem State.enterSlots_within (s : State) (a1 : Nat) (a2 : Nat) (a3 : Nat) (a4 : ShedCfg) : Within [.fab] s (State.enterSlots s a1 a2 a3 a4) := by
  unfold State.enterSlots
  repeat' first
    | with_reducible exact Within.refl _ _
    | with_reducible assumption
    | exact (rfl : _ = true)
    | (with_reducible apply Within.via (State.setTrib_within ..))
    | with_reducible apply Within.foldl
    | refine (fun (s : State) x => ?_)
    | (intro z; refine (fun (hz : Within [.fab] s z) => ?_) ?_; rotate_left; dsimp only [z]; rotate_left; clear_value z)
    | (intro z; clear_value z)
    | lift_lets -underBinder
    | split

theorem State.placeRegion_within (s : State) (a1 : Nat) (a2 : Nat) (a3 : Nat) (a4 : Nat) (a5 : Nat) (a6 : Bool) (a7 : Bool) (a8 : Bool) : Within [.regs, .agg, .mem, .fresh] s (optFst s (State.placeRegion s a1 a2 a3 a4 a5 a6 a7 a8)) := by
  unfold State.placeRegion
  repeat' first
    | with_reducible exact Within.refl _ _
    | with_reducible assumption
    | exact (rfl : _ = true)
    | (with_reducible apply Within.via (State.wr32_within ..))
    | (with_reducible apply Within.via (State.useFree_within ..))
    | (with_reducible apply Within.via (State.rgnCreate_within ..))
    | with_reducible exact Within.none1
    | with_reducible apply Within.some1
    | (intro z; refine (fun (hz : Within [.regs, .agg, .mem, .fresh] s z) => ?_) ?_; rotate_left; dsimp only [z]; rotate_left; clear_value z)
    | (intro z; clear_value z)
    | lift_lets -underBinder
    | split

theorem State.placeRegions_within (s : State) (n slot : Nat) (l : List ManEntry) :
    Within [.regs, .agg, .mem, .fresh] s (optFst s (s.placeRegions n slot l)) := by
  induction l generalizing s with
  | nil => exact Within.refl _ _
  | cons x l ih =>
    cases x with
    | region p z sect tag =>
      simp only [State.placeRegions]
      split
      · exact Within.refl _ _
      · rename_i t i h
        have h1 := Within.mono (Within.ofSome1 (State.placeRegion_within ..) h) (F := [.regs, .agg, .mem, .fresh]) (by decide)
        cases h2 : t.placeRegions n slot l with
        | none => exact Within.refl _ _
        | some x => exact h1.trans (Within.ofSome1 (ih t) h2)
    | _ => simpa only [State.placeRegions] using ih s

theorem State.markBg_within (s : State) (a1 : Nat) (a2 : Nat) (a3 : List ManEntry) : Within [.regs, .agg, .fab, .eddies] s (State.markBg s a1 a2 a3) := by
  unfold State.markBg
  repeat' first
    | with_reducible exact Within.refl _ _
    | with_reducible assumption
    | exact (rfl : _ = true)
    | (with_reducible apply Within.via (State.setEddy_within ..))
    | (with_reducible apply Within.via (State.setPlaneState_within ..))
    | (with_reducible apply Within.via (State.setPlaneSaved_within ..))
    | (with_reducible apply Within.via (State.setPlane_within ..))
    | (with_reducible apply Within.via (State.clearDrv_within ..))
    | with_reducible apply Within.foldl
    | refine (fun (s : State) x => ?_)
    | (intro z; refine (fun (hz : Within [.regs, .agg, .fab, .eddies] s z) => ?_) ?_; rotate_left; dsimp only [z]; rotate_left; clear_value z)
    | (intro z; clear_value z)
    | lift_lets -underBinder
    | split

theorem State.dropRegions_within (s : State) (a1 : List (Nat × Nat)) : Within [.regs, .agg, .mem] s (State.dropRegions s a1) := by
  unfold State.dropRegions
  repeat' first
    | with_reducible exact Within.refl _ _
    | exact (rfl : _ = true)
    | (with_reducible apply Within.via (State.rgnDestroy_within ..))
    | with_reducible apply Within.foldl
    | refine (fun (s : State) x => ?_)

theorem State.discardBg_within (s : State) (a1 : Nat) : Within [.regs, .agg, .fab, .mem, .stalls] s (State.discardBg s a1) := by
  unfold State.discardBg
  repeat' first
    | with_reducible exact Within.refl _ _
    | with_reducible assumption
    | exact (rfl : _ = true)
    | (with_reducible apply Within.via (State.wr64_within ..))
    | (with_reducible apply Within.via (State.setStall_within ..))
    | (with_reducible apply Within.via (State.tribRelease_within ..))
    | (with_reducible apply Within.via (State.clearDrv_within ..))
    | (with_reducible apply Within.via (State.dropRegions_within ..))
    | with_reducible apply Within.foldl
    | refine (fun (s : State) x => ?_)
    | (intro z; refine (fun (hz : Within [.regs, .agg, .fab, .mem, .stalls] s z) => ?_) ?_; rotate_left; dsimp only [z]; rotate_left; clear_value z)
    | (intro z; clear_value z)
    | lift_lets -underBinder
    | split
    | with_reducible apply Within.fab

theorem State.loadBegin_within (s : State) (a1 : Nat) (a2 : ButarIn) (a3 : Nat) : Within [.regs, .agg, .fab, .eddies, .mem, .stalls] s (State.loadBegin s a1 a2 a3) := by
  unfold State.loadBegin
  repeat' first
    | with_reducible exact Within.refl _ _
    | with_reducible assumption
    | exact (rfl : _ = true)
    | (with_reducible apply Within.via (State.setStall_within ..))
    | (with_reducible apply Within.via (State.markBg_within ..))
    | (with_reducible apply Within.via (State.discardBg_within ..))
    | (intro z; refine (fun (hz : Within [.regs, .agg, .fab, .eddies, .mem, .stalls] s z) => ?_) ?_; rotate_left; dsimp only [z]; rotate_left; clear_value z)
    | (intro z; clear_value z)
    | lift_lets -underBinder
    | split

theorem State.loadUndo_within (s : State) (a1 : Nat) : Within [.regs, .agg, .fab, .eddies, .stalls] s (State.loadUndo s a1) := by
  unfold State.loadUndo
  repeat' first
    | with_reducible exact Within.refl _ _
    | exact (rfl : _ = true)
    | (with_reducible apply Within.via (State.setStall_within ..))
    | (with_reducible apply Within.via (State.markBg_within ..))
    | split

theorem State.writeFrames_within (s : State) (a1 : Nat) (a2 : Nat) (a3 : ShedCfg) : Within [.fab] s (State.writeFrames s a1 a2 a3) := by
  unfold State.writeFrames
  repeat' first
    | with_reducible exact Within.refl _ _
    | with_reducible assumption
    | exact (rfl : _ = true)
    | (with_reducible apply Within.via (State.setPlane_within ..))
    | (with_reducible apply Within.via (State.enterSlots_within ..))
    | (intro z; refine (fun (hz : Within [.fab] s z) => ?_) ?_; rotate_left; dsimp only [z]; rotate_left; clear_value z)
    | (intro z; clear_value z)
    | lift_lets -underBinder

theorem State.writeImage_within (s : State) (a1 : Nat) (a2 : LoadRun) : Within [.regs, .agg, .fab, .eddies] s (State.writeImage s a1 a2) := by
  unfold State.writeImage
  repeat' first
    | with_reducible exact Within.refl _ _
    | with_reducible assumption
    | exact (rfl : _ = true)
    | (with_reducible apply Within.via (State.setEddy_within ..))
    | (with_reducible apply Within.via (State.setPlane_within ..))
    | (with_reducible apply Within.via (State.clearDrv_within ..))
    | (with_reducible apply Within.via (State.markBg_within ..))
    | (with_reducible apply Within.via (State.writeFrames_within ..))
    | with_reducible apply Within.foldl
    | refine (fun (s : State) x => ?_)
    | (intro z; refine (fun (hz : Within [.regs, .agg, .fab, .eddies] s z) => ?_) ?_; rotate_left; dsimp only [z]; rotate_left; clear_value z)
    | (intro z; clear_value z)
    | lift_lets -underBinder
    | split
    | with_reducible apply Within.fab

theorem State.loadEnd_within (s : State) (a1 : Nat) : Within [.regs, .agg, .fab, .eddies, .mem, .stalls, .tol, .fresh] s (State.loadEnd s a1) := by
  unfold State.loadEnd
  repeat' first
    | with_reducible exact Within.refl _ _
    | with_reducible assumption
    | exact (rfl : _ = true)
    | (with_reducible apply Within.via (State.wr32_within ..))
    | (with_reducible apply Within.via (State.wr64_within ..))
    | (with_reducible apply Within.via (State.irq_within ..))
    | (with_reducible apply Within.via (State.eventRecord_within ..))
    | (with_reducible apply Within.via (State.endJobs_within ..))
    | (with_reducible apply Within.via (State.setStall_within ..))
    | (with_reducible apply Within.via (State.tribRelease_within ..))
    | exact Within.mono (Within.ofSome1 (State.placeRegions_within ..) (by assumption)) (by decide)
    | (with_reducible apply Within.via (State.loadUndo_within ..))
    | (with_reducible apply Within.via (State.writeImage_within ..))
    | (intro z; refine (fun (hz : Within [.regs, .agg, .fab, .eddies, .mem, .stalls, .tol, .fresh] s z) => ?_) ?_; rotate_left; dsimp only [z]; rotate_left; clear_value z)
    | (intro z; clear_value z)
    | lift_lets -underBinder
    | split

theorem State.armSwap_within (s : State) (a1 : Nat) (a2 : Nat) (a3 : Bool) : Within [.regs, .agg, .stalls] s (State.armSwap s a1 a2 a3) := by
  unfold State.armSwap
  repeat' first
    | with_reducible exact Within.refl _ _
    | with_reducible assumption
    | exact (rfl : _ = true)
    | (with_reducible apply Within.via (State.wr32_within ..))
    | (with_reducible apply Within.via (State.wr64_within ..))
    | (with_reducible apply Within.via (State.fset_within ..))
    | (with_reducible apply Within.via (State.setStall_within ..))
    | (intro z; refine (fun (hz : Within [.regs, .agg, .stalls] s z) => ?_) ?_; rotate_left; dsimp only [z]; rotate_left; clear_value z)
    | (intro z; clear_value z)
    | lift_lets -underBinder

theorem State.disarmSwap_within (s : State) (a1 : Nat) : Within [.regs, .agg, .stalls] s (State.disarmSwap s a1) := by
  unfold State.disarmSwap
  repeat' first
    | with_reducible exact Within.refl _ _
    | with_reducible assumption
    | exact (rfl : _ = true)
    | (with_reducible apply Within.via (State.wr64_within ..))
    | (with_reducible apply Within.via (State.fset_within ..))
    | (with_reducible apply Within.via (State.setStall_within ..))
    | (intro z; refine (fun (hz : Within [.regs, .agg, .stalls] s z) => ?_) ?_; rotate_left; dsimp only [z]; rotate_left; clear_value z)
    | (intro z; clear_value z)
    | lift_lets -underBinder

theorem State.abandonSwap_within (s : State) (a1 : Nat) (a2 : Nat) : Within [.regs, .agg, .stalls, .tol] s (State.abandonSwap s a1 a2) := by
  unfold State.abandonSwap
  repeat' first
    | with_reducible exact Within.refl _ _
    | exact (rfl : _ = true)
    | (with_reducible apply Within.via (State.irq_within ..))
    | (with_reducible apply Within.via (State.endJobs_within ..))
    | (with_reducible apply Within.via (State.disarmSwap_within ..))
    | split

theorem State.swapAlarms_within (s : State) (a1 : Nat) (a2 : Nat) : Within [.regs, .agg, .tide] s (State.swapAlarms s a1 a2) := by
  unfold State.swapAlarms
  repeat' first
    | with_reducible exact Within.refl _ _
    | with_reducible assumption
    | exact (rfl : _ = true)
    | (with_reducible apply Within.via (State.wr32_within ..))
    | with_reducible apply Within.foldl
    | refine (fun (s : State) x => ?_)
    | (intro z; refine (fun (hz : Within [.regs, .agg, .tide] s z) => ?_) ?_; rotate_left; dsimp only [z]; rotate_left; clear_value z)
    | (intro z; clear_value z)
    | lift_lets -underBinder
    | split
    | with_reducible apply Within.tide

theorem State.swapStart_within (s : State) (a1 : Nat) (a2 : Nat) (a3 : Bool) (a4 : Bool) : Within [.regs, .agg, .eddies, .mil, .stalls, .tally, .tide, .lanes, .dbg, .out, .fresh] s (State.swapStart s a1 a2 a3 a4) := by
  unfold State.swapStart
  repeat' first
    | with_reducible exact Within.refl _ _
    | with_reducible assumption
    | exact (rfl : _ = true)
    | (with_reducible apply Within.via (State.wr64_within ..))
    | (with_reducible apply Within.via (State.fset_within ..))
    | (with_reducible apply Within.via (State.setStall_within ..))
    | (with_reducible apply Within.via (State.trace_within ..))
    | (with_reducible apply Within.via (State.setStallState_within ..))
    | (with_reducible apply Within.via (State.freeze_within ..))
    | (with_reducible apply Within.via (State.closeInterval_within ..))
    | (with_reducible apply Within.via (State.endGrantsOf_within ..))
    | (with_reducible apply Within.via (State.swapAlarms_within ..))
    | (intro z; refine (fun (hz : Within [.regs, .agg, .eddies, .mil, .stalls, .tally, .tide, .lanes, .dbg, .out, .fresh] s z) => ?_) ?_; rotate_left; dsimp only [z]; rotate_left; clear_value z)
    | (intro z; clear_value z)
    | lift_lets -underBinder
    | split

theorem State.strobe_within (s : State) (a1 : Nat) : Within [.regs, .agg, .eddies, .mil, .stalls, .tally, .tide, .tol, .lanes, .dbg, .out, .fresh] s (State.strobe s a1) := by
  unfold State.strobe
  repeat' first
    | with_reducible exact Within.refl _ _
    | exact (rfl : _ = true)
    | (with_reducible apply Within.via (State.disarmSwap_within ..))
    | (with_reducible apply Within.via (State.abandonSwap_within ..))
    | (with_reducible apply Within.via (State.swapStart_within ..))
    | split

theorem State.setSwap_within (s : State) (a1 : Nat) (a2 : SwapRun) : Within [.stalls] s (State.setSwap s a1 a2) := by
  unfold State.setSwap
  repeat' first
    | with_reducible exact Within.refl _ _
    | exact (rfl : _ = true)
    | (with_reducible apply Within.via (State.setStall_within ..))

theorem State.forceOff_within (s : State) (a1 : Nat) : Within [.regs, .agg] s (State.forceOff s a1) := by
  unfold State.forceOff
  repeat' first
    | with_reducible exact Within.refl _ _
    | exact (rfl : _ = true)
    | (with_reducible apply Within.via (State.fset_within ..))
    | split

theorem State.exchangeShed_within (s : State) (a1 : Nat) (a2 : Bool) (a3 : Bool) : Within [.regs, .agg, .fab] s (State.exchangeShed s a1 a2 a3) := by
  unfold State.exchangeShed
  repeat' first
    | with_reducible exact Within.refl _ _
    | with_reducible assumption
    | exact (rfl : _ = true)
    | (with_reducible apply Within.via (State.setPlaneSaved_within ..))
    | (with_reducible apply Within.via (State.setPlane_within ..))
    | (with_reducible apply Within.via (State.setShedFfs_within ..))
    | (intro z; refine (fun (hz : Within [.regs, .agg, .fab] s z) => ?_) ?_; rotate_left; dsimp only [z]; rotate_left; clear_value z)
    | (intro z; clear_value z)
    | lift_lets -underBinder
    | split

theorem State.exchange_within (s : State) (a1 : Nat) (a2 : List Nat) : Within [.regs, .agg, .fab, .eddies, .mil, .stalls, .tol, .lanes, .dbg, .out, .fresh] s (State.exchange s a1 a2) := by
  unfold State.exchange
  repeat' first
    | with_reducible exact Within.refl _ _
    | with_reducible assumption
    | exact (rfl : _ = true)
    | (with_reducible apply Within.via (State.raiseFault_within ..))
    | (with_reducible apply Within.via (State.setSwap_within ..))
    | (with_reducible apply Within.via (State.exchangeShed_within ..))
    | with_reducible apply Within.foldl
    | refine (fun (s : State) x => ?_)
    | (intro z; refine (fun (hz : Within [.regs, .agg, .fab, .eddies, .mil, .stalls, .tol, .lanes, .dbg, .out, .fresh] s z) => ?_) ?_; rotate_left; dsimp only [z]; rotate_left; clear_value z)
    | (intro z; clear_value z)
    | lift_lets -underBinder
    | split

theorem State.zeroBlocks_within (s : State) (a1 : List Nat) (a2 : List Nat) : Within [.regs, .agg, .fab, .eddies] s (State.zeroBlocks s a1 a2) := by
  unfold State.zeroBlocks
  repeat' first
    | with_reducible exact Within.refl _ _
    | with_reducible assumption
    | exact (rfl : _ = true)
    | (with_reducible apply Within.via (State.wr32_within ..))
    | (with_reducible apply Within.via (State.setEddy_within ..))
    | with_reducible apply Within.foldl
    | refine (fun (s : State) x => ?_)
    | (intro z; refine (fun (hz : Within [.regs, .agg, .fab, .eddies] s z) => ?_) ?_; rotate_left; dsimp only [z]; rotate_left; clear_value z)
    | (intro z; clear_value z)
    | lift_lets -underBinder
    | with_reducible apply Within.fab

theorem State.swapZero_within (s : State) (a1 : Nat) : Within [.regs, .agg, .fab, .eddies, .stalls] s (State.swapZero s a1) := by
  unfold State.swapZero
  repeat' first
    | with_reducible exact Within.refl _ _
    | exact (rfl : _ = true)
    | (with_reducible apply Within.via (State.setSwap_within ..))
    | (with_reducible apply Within.via (State.zeroBlocks_within ..))
    | split

theorem State.meshQuiet_within (s : State) (a1 : Nat) : Within [.stalls] s (State.meshQuiet s a1) := by
  unfold State.meshQuiet
  repeat' first
    | with_reducible exact Within.refl _ _
    | exact (rfl : _ = true)
    | (with_reducible apply Within.via (State.setSwap_within ..))
    | split

theorem State.flipShed_within (s : State) (a1 : Nat) (a2 : Bool) : Within [.regs, .agg] s (State.flipShed s a1 a2) := by
  unfold State.flipShed
  dsimp only
  repeat' first
    | with_reducible exact Within.refl _ _
    | with_reducible assumption
    | exact (rfl : _ = true)
    | (with_reducible apply Within.via (State.fset_within ..))
    | (with_reducible apply Within.via (State.setPlaneState_within ..))
    | (with_reducible apply Within.via (State.setPlaneSaved_within ..))
    | (intro z; refine (fun (hz : Within [.regs, .agg] s z) => ?_) ?_; rotate_left; dsimp only [z]; rotate_left; clear_value z)
    | (intro z; clear_value z)
    | lift_lets -underBinder
    | split

theorem State.engineSettings_within (s : State) (a1 : Nat) (a2 : Nat) (a3 : Option Image) : Within [.regs, .agg] s (State.engineSettings s a1 a2 a3) := by
  unfold State.engineSettings
  repeat' first
    | with_reducible exact Within.refl _ _
    | with_reducible assumption
    | exact (rfl : _ = true)
    | (with_reducible apply Within.via (State.wr32_within ..))
    | (with_reducible apply Within.via (State.fset_within ..))
    | (with_reducible apply Within.via (State.resetPage_within ..))
    | with_reducible apply Within.foldl
    | refine (fun (s : State) x => ?_)
    | (intro z; refine (fun (hz : Within [.regs, .agg] s z) => ?_) ?_; rotate_left; dsimp only [z]; rotate_left; clear_value z)
    | (intro z; clear_value z)
    | lift_lets -underBinder
    | split

theorem State.portSettings_within (s : State) (a1 : Nat) (a2 : Nat) (a3 : Option Image) : Within [.regs, .agg] s (State.portSettings s a1 a2 a3) := by
  unfold State.portSettings
  repeat' first
    | with_reducible exact Within.refl _ _
    | with_reducible assumption
    | exact (rfl : _ = true)
    | (with_reducible apply Within.via (State.wr32_within ..))
    | with_reducible apply Within.foldl
    | refine (fun (s : State) x => ?_)
    | (intro z; refine (fun (hz : Within [.regs, .agg] s z) => ?_) ?_; rotate_left; dsimp only [z]; rotate_left; clear_value z)
    | (intro z; clear_value z)
    | lift_lets -underBinder
    | split

theorem State.flipAll_within (s : State) (a1 : Nat) (a2 : SwapRun) : Within [.regs, .agg, .fab, .eddies, .stalls] s (State.flipAll s a1 a2) := by
  unfold State.flipAll
  repeat' first
    | with_reducible exact Within.refl _ _
    | with_reducible assumption
    | exact (rfl : _ = true)
    | (with_reducible apply Within.via (State.wr64_within ..))
    | (with_reducible apply Within.via (State.setEddy_within ..))
    | (with_reducible apply Within.via (State.setStall_within ..))
    | (with_reducible apply Within.via (State.flipShed_within ..))
    | (with_reducible apply Within.via (State.engineSettings_within ..))
    | (with_reducible apply Within.via (State.portSettings_within ..))
    | (with_reducible apply Within.via (State.flipTaps_within ..))
    | with_reducible apply Within.foldl
    | refine (fun (s : State) x => ?_)
    | (intro z; refine (fun (hz : Within [.regs, .agg, .fab, .eddies, .stalls] s z) => ?_) ?_; rotate_left; dsimp only [z]; rotate_left; clear_value z)
    | (intro z; clear_value z)
    | lift_lets -underBinder
    | split

theorem State.release_within (s : State) (a1 : Nat) (a2 : SwapRun) : Within [.regs, .agg, .eddies, .stalls, .tol, .pins] s (State.release s a1 a2) := by
  unfold State.release
  repeat' first
    | with_reducible exact Within.refl _ _
    | with_reducible assumption
    | exact (rfl : _ = true)
    | (with_reducible apply Within.via (State.fset_within ..))
    | (with_reducible apply Within.via (State.irq_within ..))
    | (with_reducible apply Within.via (State.endJobs_within ..))
    | (with_reducible apply Within.via (State.setStall_within ..))
    | (with_reducible apply Within.via (State.setStallState_within ..))
    | (with_reducible apply Within.via (State.setGated_within ..))
    | (with_reducible apply Within.via (State.engineStart_within ..))
    | (with_reducible apply Within.via (State.swapPins_within ..))
    | with_reducible apply Within.foldl
    | refine (fun (s : State) x => ?_)
    | (intro z; refine (fun (hz : Within [.regs, .agg, .eddies, .stalls, .tol, .pins] s z) => ?_) ?_; rotate_left; dsimp only [z]; rotate_left; clear_value z)
    | (intro z; clear_value z)
    | lift_lets -underBinder
    | split

theorem State.planeFlip_within (s : State) (a1 : Nat) : Within [.regs, .agg, .fab, .eddies, .stalls, .tol, .pins] s (State.planeFlip s a1) := by
  unfold State.planeFlip
  repeat' first
    | with_reducible exact Within.refl _ _
    | with_reducible assumption
    | exact (rfl : _ = true)
    | (with_reducible apply Within.via (State.fset_within ..))
    | (with_reducible apply Within.via (State.setStallState_within ..))
    | (with_reducible apply Within.via (State.flipAll_within ..))
    | (with_reducible apply Within.via (State.release_within ..))
    | (intro z; refine (fun (hz : Within [.regs, .agg, .fab, .eddies, .stalls, .tol, .pins] s z) => ?_) ?_; rotate_left; dsimp only [z]; rotate_left; clear_value z)
    | (intro z; clear_value z)
    | lift_lets -underBinder
    | split

theorem State.writeFill_within (s : State) (a1 : Image) : Within [.fab, .eddies] s (State.writeFill s a1) := by
  unfold State.writeFill
  repeat' first
    | with_reducible exact Within.refl _ _
    | with_reducible assumption
    | exact (rfl : _ = true)
    | (with_reducible apply Within.via (State.setEddy_within ..))
    | (with_reducible apply Within.via (State.setBm_within ..))
    | (with_reducible apply Within.via (State.setPond_within ..))
    | with_reducible apply Within.foldl
    | refine (fun (s : State) x => ?_)
    | (intro z; refine (fun (hz : Within [.fab, .eddies] s z) => ?_) ?_; rotate_left; dsimp only [z]; rotate_left; clear_value z)
    | (intro z; clear_value z)
    | lift_lets -underBinder
    | split

theorem State.fillEnd_within (s : State) (a1 : Nat) : Within [.regs, .agg, .fab, .eddies, .stalls, .tol, .pins] s (State.fillEnd s a1) := by
  unfold State.fillEnd
  repeat' first
    | with_reducible exact Within.refl _ _
    | with_reducible assumption
    | exact (rfl : _ = true)
    | (with_reducible apply Within.via (State.fset_within ..))
    | (with_reducible apply Within.via (State.release_within ..))
    | (with_reducible apply Within.via (State.writeFill_within ..))
    | (intro z; refine (fun (hz : Within [.regs, .agg, .fab, .eddies, .stalls, .tol, .pins] s z) => ?_) ?_; rotate_left; dsimp only [z]; rotate_left; clear_value z)
    | (intro z; clear_value z)
    | lift_lets -underBinder
    | split

theorem State.swapAtStart_within (s : State) (a1 : Nat) : Within [.regs, .agg, .fab, .eddies, .mil, .stalls, .tally, .tide, .tol, .pins, .lanes, .dbg, .out, .fresh] s (State.swapAtStart s a1) := by
  unfold State.swapAtStart
  repeat' first
    | with_reducible exact Within.refl _ _
    | exact (rfl : _ = true)
    | (with_reducible apply Within.via (State.swapStart_within ..))
    | (with_reducible apply Within.via (State.exchange_within ..))
    | (with_reducible apply Within.via (State.swapZero_within ..))
    | (with_reducible apply Within.via (State.meshQuiet_within ..))
    | (with_reducible apply Within.via (State.planeFlip_within ..))
    | (with_reducible apply Within.via (State.fillEnd_within ..))

theorem State.dieLost_within (s : State) (a1 : Nat) : Within [.regs, .agg, .fab, .eddies, .mil, .stalls, .tol, .lanes, .dbg, .out, .fresh] s (State.dieLost s a1) := by
  unfold State.dieLost
  repeat' first
    | with_reducible exact Within.refl _ _
    | with_reducible assumption
    | exact (rfl : _ = true)
    | (with_reducible apply Within.via (State.wr32_within ..))
    | (with_reducible apply Within.via (State.fset_within ..))
    | (with_reducible apply Within.via (State.finc_within ..))
    | (with_reducible apply Within.via (State.irq_within ..))
    | (with_reducible apply Within.via (State.eventRecord_within ..))
    | (with_reducible apply Within.via (State.endJobs_within ..))
    | (with_reducible apply Within.via (State.setStall_within ..))
    | (with_reducible apply Within.via (State.setStallState_within ..))
    | (with_reducible apply Within.via (State.freeze_within ..))
    | (with_reducible apply Within.via (State.endGrantsOf_within ..))
    | (with_reducible apply Within.via (State.loadUndo_within ..))
    | (with_reducible apply Within.via (State.disarmSwap_within ..))
    | (intro z; refine (fun (hz : Within [.regs, .agg, .fab, .eddies, .mil, .stalls, .tol, .lanes, .dbg, .out, .fresh] s z) => ?_) ?_; rotate_left; dsimp only [z]; rotate_left; clear_value z)
    | (intro z; clear_value z)
    | lift_lets -underBinder
    | split

theorem State.rekeyBegin_within (s : State) (a1 : Nat) (a2 : Nat) : Within [.regs, .agg, .mem] s (State.rekeyBegin s a1 a2) := by
  unfold State.rekeyBegin
  repeat' first
    | with_reducible exact Within.refl _ _
    | with_reducible assumption
    | exact (rfl : _ = true)
    | (with_reducible apply Within.via (State.fset_within ..))
    | (with_reducible apply Within.via (State.rgnRekey_within ..))
    | with_reducible apply Within.foldl
    | refine (fun (s : State) x => ?_)
    | (intro z; refine (fun (hz : Within [.regs, .agg, .mem] s z) => ?_) ?_; rotate_left; dsimp only [z]; rotate_left; clear_value z)
    | (intro z; clear_value z)
    | lift_lets -underBinder
    | split

theorem State.rekeyEnd_within (s : State) (a1 : Nat) (a2 : Nat) : Within [.regs, .agg, .stalls] s (State.rekeyEnd s a1 a2) := by
  unfold State.rekeyEnd
  repeat' first
    | with_reducible exact Within.refl _ _
    | with_reducible assumption
    | exact (rfl : _ = true)
    | (with_reducible apply Within.via (State.fset_within ..))
    | (with_reducible apply Within.via (State.setStall_within ..))
    | (with_reducible apply Within.via (State.rgnFinish_within ..))
    | with_reducible apply Within.foldl
    | refine (fun (s : State) x => ?_)
    | (intro z; refine (fun (hz : Within [.regs, .agg, .stalls] s z) => ?_) ?_; rotate_left; dsimp only [z]; rotate_left; clear_value z)
    | (intro z; clear_value z)
    | lift_lets -underBinder
    | split

theorem State.freezeStall_within (s : State) (a1 : Nat) : Within [.regs, .agg, .eddies, .mil, .stalls, .tol, .lanes, .dbg, .out, .fresh] s (State.freezeStall s a1) := by
  unfold State.freezeStall
  repeat' first
    | with_reducible exact Within.refl _ _
    | exact (rfl : _ = true)
    | (with_reducible apply Within.via (State.raiseFault_within ..))

theorem State.clearAlarms_within (s : State) (a1 : Nat) : Within [.regs, .agg, .tide] s (State.clearAlarms s a1) := by
  unfold State.clearAlarms
  repeat' first
    | with_reducible exact Within.refl _ _
    | with_reducible assumption
    | exact (rfl : _ = true)
    | (with_reducible apply Within.via (State.wr32_within ..))
    | (intro z; refine (fun (hz : Within [.regs, .agg, .tide] s z) => ?_) ?_; rotate_left; dsimp only [z]; rotate_left; clear_value z)
    | (intro z; clear_value z)
    | lift_lets -underBinder
    | with_reducible apply Within.tide

theorem State.destroyStall_within (s : State) (a1 : Nat) : Within [.regs, .agg, .fab, .eddies, .mil, .mem, .stalls, .tally, .tide, .tol, .pins, .lanes, .dbg, .out, .fresh] s (State.destroyStall s a1) := by
  unfold State.destroyStall
  repeat' first
    | with_reducible exact Within.refl _ _
    | with_reducible assumption
    | exact (rfl : _ = true)
    | (with_reducible apply Within.via (State.wr32_within ..))
    | (with_reducible apply Within.via (State.wr64_within ..))
    | (with_reducible apply Within.via (State.fset_within ..))
    | (with_reducible apply Within.via (State.endJobs_within ..))
    | (with_reducible apply Within.via (State.setEddy_within ..))
    | (with_reducible apply Within.via (State.setStall_within ..))
    | (with_reducible apply Within.via (State.setStallState_within ..))
    | (with_reducible apply Within.via (State.setPlane_within ..))
    | (with_reducible apply Within.via (State.freeze_within ..))
    | (with_reducible apply Within.via (State.closeInterval_within ..))
    | (with_reducible apply Within.via (State.endGrantsOf_within ..))
    | (with_reducible apply Within.via (State.resetPin_within ..))
    | (with_reducible apply Within.via (State.fabCfgWrite_within ..))
    | (with_reducible apply Within.via (State.clearDrv_within ..))
    | (with_reducible apply Within.via (State.dropRegions_within ..))
    | (with_reducible apply Within.via (State.loadUndo_within ..))
    | (with_reducible apply Within.via (State.abandonSwap_within ..))
    | (with_reducible apply Within.via (State.setShedFfs_within ..))
    | (with_reducible apply Within.via (State.zeroBlocks_within ..))
    | (with_reducible apply Within.via (State.clearAlarms_within ..))
    | with_reducible apply Within.foldl
    | refine (fun (s : State) x => ?_)
    | (intro z; refine (fun (hz : Within [.regs, .agg, .fab, .eddies, .mil, .mem, .stalls, .tally, .tide, .tol, .pins, .lanes, .dbg, .out, .fresh] s z) => ?_) ?_; rotate_left; dsimp only [z]; rotate_left; clear_value z)
    | (intro z; clear_value z)
    | lift_lets -underBinder
    | split
    | with_reducible apply Within.fab

end Sys2Proof.Machine
end

