-- ==== Sys2Proof/Laws/WithinMailbox.lean ====
section
/-! SUPPORT. Which parts of the state each operation of Machine/Mailbox.lean touches. -/

namespace Sys2Proof.Machine

theorem State.setMbox_within (s : State) (a1 : Nat) (a2 : MBox) : Within [.tol] s (State.setMbox s a1 a2) := by
  unfold State.setMbox
  repeat' first
    | with_reducible exact Within.refl _ _
    | exact (rfl : _ = true)
    | (with_reducible apply Within.via (State.setTol_within ..))

theorem State.postCpl_within (s : State) (a1 : Nat) (a2 : Cpl) : Within [.regs, .agg, .tol] s (State.postCpl s a1 a2) := by
  unfold State.postCpl
  repeat' first
    | with_reducible exact Within.refl _ _
    | with_reducible assumption
    | exact (rfl : _ = true)
    | (with_reducible apply Within.via (State.irq_within ..))
    | (with_reducible apply Within.via (State.setMbox_within ..))
    | (intro z; refine (fun (hz : Within [.regs, .agg, .tol] s z) => ?_) ?_; rotate_left; dsimp only [z]; rotate_left; clear_value z)
    | (intro z; clear_value z)
    | lift_lets -underBinder
    | split

theorem State.cplPop_within (s : State) (a1 : Nat) : Within [.regs, .agg, .tol] s (State.cplPop s a1) := by
  unfold State.cplPop
  repeat' first
    | with_reducible exact Within.refl _ _
    | with_reducible assumption
    | exact (rfl : _ = true)
    | (with_reducible apply Within.via (State.irq_within ..))
    | (with_reducible apply Within.via (State.setMbox_within ..))
    | (intro z; refine (fun (hz : Within [.regs, .agg, .tol] s z) => ?_) ?_; rotate_left; dsimp only [z]; rotate_left; clear_value z)
    | (intro z; clear_value z)
    | lift_lets -underBinder
    | split

theorem State.ring_within (s : State) (a1 : Req) (a2 : Nat) : Within [.regs, .agg] s (State.ring s a1 a2) := by
  unfold State.ring
  repeat' first
    | with_reducible exact Within.refl _ _
    | exact (rfl : _ = true)
    | (with_reducible apply Within.via (State.fset_within ..))
    | (with_reducible apply Within.via (State.refuse_within ..))
    | split

theorem State.mbCmdWrite_within (s : State) (a1 : Req) (a2 : Nat) (a3 : Nat) (a4 : Nat) : Within [.regs, .agg] s (State.mbCmdWrite s a1 a2 a3 a4) := by
  unfold State.mbCmdWrite
  repeat' first
    | with_reducible exact Within.refl _ _
    | exact (rfl : _ = true)
    | (with_reducible apply Within.via (State.wr32_within ..))
    | (with_reducible apply Within.via (State.refuse_within ..))
    | split

theorem State.emptyBox_within (s : State) (a1 : Nat) : Within [.regs, .agg, .tol] s (State.emptyBox s a1) := by
  unfold State.emptyBox
  repeat' first
    | with_reducible exact Within.refl _ _
    | with_reducible assumption
    | exact (rfl : _ = true)
    | (with_reducible apply Within.via (State.wr32_within ..))
    | (with_reducible apply Within.via (State.fset_within ..))
    | (with_reducible apply Within.via (State.setTol_within ..))
    | (with_reducible apply Within.via (State.setMbox_within ..))
    | with_reducible apply Within.foldl
    | refine (fun (s : State) x => ?_)
    | (intro z; refine (fun (hz : Within [.regs, .agg, .tol] s z) => ?_) ?_; rotate_left; dsimp only [z]; rotate_left; clear_value z)
    | (intro z; clear_value z)
    | lift_lets -underBinder
    | split

theorem State.closeSessions_within (s : State) (a1 : Nat) : Within [.tol] s (State.closeSessions s a1) := by
  unfold State.closeSessions
  repeat' first
    | with_reducible exact Within.refl _ _
    | exact (rfl : _ = true)
    | (with_reducible apply Within.via (State.setTol_within ..))

theorem State.sendMgmt_within (s : State) (a1 : Nat) (a2 : Mgmt) : Within [.out] s (State.sendMgmt s a1 a2) := by
  unfold State.sendMgmt
  repeat' first
    | with_reducible exact Within.refl _ _
    | exact (rfl : _ = true)
    | (with_reducible apply Within.via (State.emit_within ..))

theorem State.sendReturn_within (s : State) (a1 : Nat) (a2 : Nat) (a3 : Nat) : Within [.out] s (State.sendReturn s a1 a2 a3) := by
  unfold State.sendReturn
  repeat' first
    | with_reducible exact Within.refl _ _
    | with_reducible assumption
    | exact (rfl : _ = true)
    | (with_reducible apply Within.via (State.sendMgmt_within ..))
    | with_reducible apply Within.foldl
    | refine (fun (s : State) x => ?_)
    | (intro z; refine (fun (hz : Within [.out] s z) => ?_) ?_; rotate_left; dsimp only [z]; rotate_left; clear_value z)
    | (intro z; clear_value z)
    | lift_lets -underBinder

theorem State.fanReply_within (s : State) (a1 : Nat × Option (Nat × Nat)) (a2 : Cpl) : Within [.out] s (State.fanReply s a1 a2) := by
  unfold State.fanReply
  repeat' first
    | with_reducible exact Within.refl _ _
    | with_reducible assumption
    | exact (rfl : _ = true)
    | (with_reducible apply Within.via (State.sendMgmt_within ..))
    | (with_reducible apply Within.via (State.sendReturn_within ..))
    | (intro z; refine (fun (hz : Within [.out] s z) => ?_) ?_; rotate_left; dsimp only [z]; rotate_left; clear_value z)
    | (intro z; clear_value z)
    | lift_lets -underBinder
    | split

theorem State.finishJob_within (s : State) (a1 : Job) (a2 : Nat) (a3 : Nat) : Within [.regs, .agg, .tol, .out] s (State.finishJob s a1 a2 a3) := by
  unfold State.finishJob
  repeat' first
    | with_reducible exact Within.refl _ _
    | with_reducible assumption
    | exact (rfl : _ = true)
    | (with_reducible apply Within.via (State.logEvent_within ..))
    | (with_reducible apply Within.via (State.setTol_within ..))
    | (with_reducible apply Within.via (State.postCpl_within ..))
    | (with_reducible apply Within.via (State.fanReply_within ..))
    | (intro z; refine (fun (hz : Within [.regs, .agg, .tol, .out] s z) => ?_) ?_; rotate_left; dsimp only [z]; rotate_left; clear_value z)
    | (intro z; clear_value z)
    | lift_lets -underBinder
    | split

end Sys2Proof.Machine
end

