-- ==== Sys2Proof/Laws/WithinTide.lean ====
section
/-! SUPPORT. Which parts of the state each operation of Machine/Tide.lean touches. -/

namespace Sys2Proof.Machine

theorem State.tideTick_within (s : State) : Within [.tally, .tide] s (State.tideTick s) := by
  unfold State.tideTick
  repeat' first
    | with_reducible exact Within.refl _ _
    | exact (rfl : _ = true)
    | (with_reducible apply Within.via (State.meterTick_within ..))
    | (with_reducible apply Within.via (State.setTide_within ..))
    | split

theorem State.updateRoot_within (s : State) : Within [.regs, .agg, .tally] s (State.updateRoot s) := by
  unfold State.updateRoot
  repeat' first
    | with_reducible exact Within.refl _ _
    | with_reducible assumption
    | exact (rfl : _ = true)
    | (with_reducible apply Within.via (State.fset_within ..))
    | (with_reducible apply Within.via (State.flagIntervals_within ..))
    | (intro z; refine (fun (hz : Within [.regs, .agg, .tally] s z) => ?_) ?_; rotate_left; dsimp only [z]; rotate_left; clear_value z)
    | (intro z; clear_value z)
    | lift_lets -underBinder
    | split

theorem State.abandonSwaps_within (s : State) : Within [.regs, .agg, .stalls, .tol] s (State.abandonSwaps s) := by
  unfold State.abandonSwaps
  repeat' first
    | with_reducible exact Within.refl _ _
    | exact (rfl : _ = true)
    | (with_reducible apply Within.via (State.abandonSwap_within ..))
    | with_reducible apply Within.foldl
    | refine (fun (s : State) x => ?_)

theorem State.enterTide_within (s : State) (a1 : Nat) : Within [.regs, .agg, .stalls, .tally, .tide, .tol] s (State.enterTide s a1) := by
  unfold State.enterTide
  repeat' first
    | with_reducible exact Within.refl _ _
    | with_reducible assumption
    | exact (rfl : _ = true)
    | (with_reducible apply Within.via (State.fset_within ..))
    | (with_reducible apply Within.via (State.irq_within ..))
    | (with_reducible apply Within.via (State.setTide_within ..))
    | (with_reducible apply Within.via (State.updateRoot_within ..))
    | (with_reducible apply Within.via (State.abandonSwaps_within ..))
    | (intro z; refine (fun (hz : Within [.regs, .agg, .stalls, .tally, .tide, .tol] s z) => ?_) ?_; rotate_left; dsimp only [z]; rotate_left; clear_value z)
    | (intro z; clear_value z)
    | lift_lets -underBinder
    | split

theorem State.fireDevice_within (s : State) (a1 : Nat) (a2 : Bool) : Within [.regs, .agg, .eddies, .mil, .stalls, .tally, .tide, .tol, .lanes, .dbg, .out, .fresh] s (State.fireDevice s a1 a2) := by
  unfold State.fireDevice
  repeat' first
    | with_reducible exact Within.refl _ _
    | with_reducible assumption
    | exact (rfl : _ = true)
    | (with_reducible apply Within.via (State.wr64_within ..))
    | (with_reducible apply Within.via (State.fset_within ..))
    | (with_reducible apply Within.via (State.setBit_within ..))
    | (with_reducible apply Within.via (State.irq_within ..))
    | (with_reducible apply Within.via (State.schedIo_within ..))
    | (with_reducible apply Within.via (State.strobe_within ..))
    | (intro z; refine (fun (hz : Within [.regs, .agg, .eddies, .mil, .stalls, .tally, .tide, .tol, .lanes, .dbg, .out, .fresh] s z) => ?_) ?_; rotate_left; dsimp only [z]; rotate_left; clear_value z)
    | (intro z; clear_value z)
    | lift_lets -underBinder
    | split

theorem State.fireStall_within (s : State) (a1 : Nat) (a2 : Nat) (a3 : Bool) : Within [.regs, .agg, .tide] s (State.fireStall s a1 a2 a3) := by
  unfold State.fireStall
  repeat' first
    | with_reducible exact Within.refl _ _
    | with_reducible assumption
    | exact (rfl : _ = true)
    | (with_reducible apply Within.via (State.wr64_within ..))
    | (with_reducible apply Within.via (State.setBit_within ..))
    | (with_reducible apply Within.via (State.irq_within ..))
    | (with_reducible apply Within.via (State.setTide_within ..))
    | (intro z; refine (fun (hz : Within [.regs, .agg, .tide] s z) => ?_) ?_; rotate_left; dsimp only [z]; rotate_left; clear_value z)
    | (intro z; clear_value z)
    | lift_lets -underBinder
    | split

theorem State.fireAlarm_within (s : State) (a1 : Nat) (a2 : Bool) : Within [.regs, .agg, .eddies, .mil, .stalls, .tally, .tide, .tol, .lanes, .dbg, .out, .fresh] s (State.fireAlarm s a1 a2) := by
  unfold State.fireAlarm
  repeat' first
    | with_reducible exact Within.refl _ _
    | exact (rfl : _ = true)
    | (with_reducible apply Within.via (State.fireDevice_within ..))
    | (with_reducible apply Within.via (State.fireStall_within ..))
    | split

theorem State.alarmFire_within (s : State) : Within [.regs, .agg, .eddies, .mil, .stalls, .tally, .tide, .tol, .lanes, .dbg, .out, .fresh] s (State.alarmFire s) := by
  unfold State.alarmFire
  repeat' first
    | with_reducible exact Within.refl _ _
    | exact (rfl : _ = true)
    | (with_reducible apply Within.via (State.closeEpoch_within ..))
    | (with_reducible apply Within.via (State.fireAlarm_within ..))
    | split

theorem State.fireAll_within (a0 : Nat) (s : State) : Within [.regs, .agg, .eddies, .mil, .stalls, .tally, .tide, .tol, .lanes, .dbg, .out, .fresh] s (State.fireAll a0 s) := by
  induction a0 generalizing s with
  | zero =>
    unfold State.fireAll
    repeat' first
      | with_reducible exact Within.refl _ _
      | exact (rfl : _ = true)
      | (with_reducible apply Within.via (State.fireAlarm_within ..))
      | split
  | succ a0 ih =>
    unfold State.fireAll
    repeat' first
      | with_reducible exact Within.refl _ _
      | exact (rfl : _ = true)
      | (with_reducible apply Within.via (State.fireAlarm_within ..))
      | (with_reducible apply Within.via (ih ..))
      | split

theorem State.stallAlarmWrite_within (s : State) (a1 : Req) (a2 : Nat) (a3 : Nat) : Within [.regs, .agg, .tide] s (State.stallAlarmWrite s a1 a2 a3) := by
  unfold State.stallAlarmWrite
  repeat' first
    | with_reducible exact Within.refl _ _
    | with_reducible assumption
    | exact (rfl : _ = true)
    | (with_reducible apply Within.via (State.setBit_within ..))
    | (with_reducible apply Within.via (State.refuse_within ..))
    | (with_reducible apply Within.via (State.setTide_within ..))
    | with_reducible apply Within.foldl
    | with_reducible apply Within.foldlFst
    | with_reducible apply Within.foldlSnd
    | refine (fun (z : State × _) x hz => ?_)
    | refine (fun (z : _ × State) x hz => ?_)
    | refine (fun (z : State) (l : Loc) (d : List Nat) hz => ?_)
    | refine (fun (s : State) x => ?_)
    | (intro z; refine (fun (hz : Within [.regs, .agg, .tide] s z) => ?_) ?_; rotate_left; dsimp only [z]; rotate_left; clear_value z)
    | (intro z; refine (fun (hz : Within [.regs, .agg, .tide] s z.1) => ?_) ?_; rotate_left; dsimp only [z]; rotate_left; clear_value z)
    | (intro z; refine (fun (hz : Within [.regs, .agg, .tide] s z.2) => ?_) ?_; rotate_left; dsimp only [z]; rotate_left; clear_value z)
    | (intro z; have _h : State → _ := z; clear _h; dsimp -zeta only [z]; clear z)
    | (intro z; have _h : State × _ → _ := z; clear _h; dsimp -zeta only [z]; clear z)
    | (intro z; clear_value z)
    | (intro z; dsimp -zeta only [z]; clear z)
    | lift_lets -underBinder
    | split

theorem State.stallAlarmT_within (s : State) (a1 : Req) (a2 : Nat) (a3 : Nat) (a4 : Nat) : Within [.regs, .agg] s (State.stallAlarmT s a1 a2 a3 a4) := by
  unfold State.stallAlarmT
  repeat' first
    | with_reducible exact Within.refl _ _
    | exact (rfl : _ = true)
    | (with_reducible apply Within.via (State.wr64_within ..))
    | (with_reducible apply Within.via (State.refuse_within ..))
    | split

theorem State.setAlarm_within (s : State) (a1 : Nat) (a2 : Nat) (a3 : Nat) : Within [.regs, .agg, .tide] s (sumState s (State.setAlarm s a1 a2 a3)) := by
  unfold State.setAlarm
  repeat' first
    | with_reducible exact Within.refl _ _
    | with_reducible assumption
    | exact (rfl : _ = true)
    | (with_reducible apply Within.via (State.wr32_within ..))
    | (with_reducible apply Within.via (State.wr64_within ..))
    | (with_reducible apply Within.via (State.fset_within ..))
    | (with_reducible apply Within.via (State.setBit_within ..))
    | (with_reducible apply Within.via (State.setTide_within ..))
    | with_reducible exact Within.inl
    | with_reducible apply Within.inr
    | (intro z; refine (fun (hz : Within [.regs, .agg, .tide] s z) => ?_) ?_; rotate_left; dsimp only [z]; rotate_left; clear_value z)
    | (intro z; clear_value z)
    | lift_lets -underBinder
    | split

theorem State.clearAlarm_within (s : State) (a1 : Nat) : Within [.regs, .agg] s (sumState s (State.clearAlarm s a1)) := by
  unfold State.clearAlarm
  repeat' first
    | with_reducible exact Within.refl _ _
    | exact (rfl : _ = true)
    | (with_reducible apply Within.via (State.wr64_within ..))
    | (with_reducible apply Within.via (State.fset_within ..))
    | (with_reducible apply Within.via (State.setBit_within ..))
    | with_reducible exact Within.inl
    | with_reducible apply Within.inr
    | split

theorem State.updateFreq_within (s : State) (a1 : Nat) (a2 : Nat) (a3 : Int) : Within [.regs, .agg] s (State.updateFreq s a1 a2 a3) := by
  unfold State.updateFreq
  repeat' first
    | with_reducible exact Within.refl _ _
    | with_reducible assumption
    | exact (rfl : _ = true)
    | (with_reducible apply Within.via (State.wr32_within ..))
    | (intro z; refine (fun (hz : Within [.regs, .agg] s z) => ?_) ?_; rotate_left; dsimp only [z]; rotate_left; clear_value z)
    | (intro z; clear_value z)
    | lift_lets -underBinder
    | split

theorem State.countStep_within (s : State) : Within [.regs, .agg, .tally] s (State.countStep s) := by
  unfold State.countStep
  repeat' first
    | with_reducible exact Within.refl _ _
    | exact (rfl : _ = true)
    | (with_reducible apply Within.via (State.finc_within ..))
    | (with_reducible apply Within.via (State.irq_within ..))
    | (with_reducible apply Within.via (State.flagIntervals_within ..))

theorem State.correct_within (s : State) (a1 : Nat) (a2 : Int) : Within [.regs, .agg, .eddies, .mil, .stalls, .tally, .tide, .tol, .lanes, .dbg, .out, .fresh] s (State.correct s a1 a2) := by
  unfold State.correct
  repeat' first
    | with_reducible exact Within.refl _ _
    | with_reducible assumption
    | exact (rfl : _ = true)
    | (with_reducible apply Within.via (State.fset_within ..))
    | (with_reducible apply Within.via (State.closeEpoch_within ..))
    | (with_reducible apply Within.via (State.setTide_within ..))
    | (with_reducible apply Within.via (State.fireAll_within ..))
    | (with_reducible apply Within.via (State.updateFreq_within ..))
    | (with_reducible apply Within.via (State.countStep_within ..))
    | (intro z; refine (fun (hz : Within [.regs, .agg, .eddies, .mil, .stalls, .tally, .tide, .tol, .lanes, .dbg, .out, .fresh] s z) => ?_) ?_; rotate_left; dsimp only [z]; rotate_left; clear_value z)
    | (intro z; clear_value z)
    | lift_lets -underBinder
    | split

theorem State.judge_within (s : State) (a1 : Int) : Within [.regs, .agg, .stalls, .tally, .tide, .tol] s (State.judge s a1) := by
  unfold State.judge
  repeat' first
    | with_reducible exact Within.refl _ _
    | with_reducible assumption
    | exact (rfl : _ = true)
    | (with_reducible apply Within.via (State.setTide_within ..))
    | (with_reducible apply Within.via (State.enterTide_within ..))
    | (intro z; refine (fun (hz : Within [.regs, .agg, .stalls, .tally, .tide, .tol] s z) => ?_) ?_; rotate_left; dsimp only [z]; rotate_left; clear_value z)
    | (intro z; clear_value z)
    | lift_lets -underBinder
    | split

theorem State.tideSample_within (s : State) (a1 : Nat) (a2 : Int) : Within [.regs, .agg, .eddies, .mil, .stalls, .tally, .tide, .tol, .lanes, .dbg, .out, .fresh] s (State.tideSample s a1 a2) := by
  unfold State.tideSample
  repeat' first
    | with_reducible exact Within.refl _ _
    | with_reducible assumption
    | exact (rfl : _ = true)
    | (with_reducible apply Within.via (State.wr32_within ..))
    | (with_reducible apply Within.via (State.closeEpoch_within ..))
    | (with_reducible apply Within.via (State.setTide_within ..))
    | (with_reducible apply Within.via (State.enterTide_within ..))
    | (with_reducible apply Within.via (State.correct_within ..))
    | (with_reducible apply Within.via (State.judge_within ..))
    | (intro z; refine (fun (hz : Within [.regs, .agg, .eddies, .mil, .stalls, .tally, .tide, .tol, .lanes, .dbg, .out, .fresh] s z) => ?_) ?_; rotate_left; dsimp only [z]; rotate_left; clear_value z)
    | (intro z; clear_value z)
    | lift_lets -underBinder
    | split

theorem State.tideInFrame_within (s : State) (a1 : Nat) (a2 : Nat) (a3 : Nat) (a4 : Bool) : Within [.regs, .agg, .eddies, .mil, .stalls, .tally, .tide, .tol, .lanes, .dbg, .out, .fresh] s (State.tideInFrame s a1 a2 a3 a4) := by
  unfold State.tideInFrame
  repeat' first
    | with_reducible exact Within.refl _ _
    | with_reducible assumption
    | exact (rfl : _ = true)
    | (with_reducible apply Within.via (State.fset_within ..))
    | (with_reducible apply Within.via (State.tideSample_within ..))
    | (intro z; refine (fun (hz : Within [.regs, .agg, .eddies, .mil, .stalls, .tally, .tide, .tol, .lanes, .dbg, .out, .fresh] s z) => ?_) ?_; rotate_left; dsimp only [z]; rotate_left; clear_value z)
    | (intro z; clear_value z)
    | lift_lets -underBinder
    | split

theorem State.ptmExchange_within (s : State) (a1 : Nat) (a2 : Nat) (a3 : Nat) : Within [.regs, .agg, .eddies, .mil, .stalls, .tally, .tide, .tol, .lanes, .dbg, .out, .fresh] s (State.ptmExchange s a1 a2 a3) := by
  unfold State.ptmExchange
  repeat' first
    | with_reducible exact Within.refl _ _
    | exact (rfl : _ = true)
    | (with_reducible apply Within.via (State.tideSample_within ..))
    | split

theorem State.sourceLost_within (s : State) : Within [.regs, .agg, .stalls, .tally, .tide, .tol] s (State.sourceLost s) := by
  unfold State.sourceLost
  repeat' first
    | with_reducible exact Within.refl _ _
    | exact (rfl : _ = true)
    | (with_reducible apply Within.via (State.enterTide_within ..))
    | split

theorem State.holdoverExpire_within (s : State) : Within [.regs, .agg, .stalls, .tally, .tide, .tol] s (State.holdoverExpire s) := by
  unfold State.holdoverExpire
  repeat' first
    | with_reducible exact Within.refl _ _
    | exact (rfl : _ = true)
    | (with_reducible apply Within.via (State.enterTide_within ..))
    | split

theorem State.freezeEnd_within (s : State) : Within [.regs, .agg] s (State.freezeEnd s) := by
  unfold State.freezeEnd
  repeat' first
    | with_reducible exact Within.refl _ _
    | exact (rfl : _ = true)
    | (with_reducible apply Within.via (State.fset_within ..))

theorem State.tidePairLost_within (s : State) (a1 : Nat) : Within [.regs, .agg, .stalls, .tally, .tide, .tol] s (State.tidePairLost s a1) := by
  unfold State.tidePairLost
  repeat' first
    | with_reducible exact Within.refl _ _
    | with_reducible assumption
    | exact (rfl : _ = true)
    | (with_reducible apply Within.via (State.setTide_within ..))
    | (with_reducible apply Within.via (State.enterTide_within ..))
    | (intro z; refine (fun (hz : Within [.regs, .agg, .stalls, .tally, .tide, .tol] s z) => ?_) ?_; rotate_left; dsimp only [z]; rotate_left; clear_value z)
    | (intro z; clear_value z)
    | lift_lets -underBinder
    | split

theorem State.tidePairBack_within (s : State) (a1 : Nat) : Within [.tide] s (State.tidePairBack s a1) := by
  unfold State.tidePairBack
  repeat' first
    | with_reducible exact Within.refl _ _
    | exact (rfl : _ = true)
    | (with_reducible apply Within.via (State.setTide_within ..))
    | split

theorem State.tideCfgWrite_within (s : State) (a1 : Nat) : Within [.regs, .agg, .stalls, .tally, .tide, .tol] s (State.tideCfgWrite s a1) := by
  unfold State.tideCfgWrite
  repeat' first
    | with_reducible exact Within.refl _ _
    | with_reducible assumption
    | exact (rfl : _ = true)
    | (with_reducible apply Within.via (State.wr32_within ..))
    | (with_reducible apply Within.via (State.setTide_within ..))
    | (with_reducible apply Within.via (State.enterTide_within ..))
    | (intro z; refine (fun (hz : Within [.regs, .agg, .stalls, .tally, .tide, .tol] s z) => ?_) ?_; rotate_left; dsimp only [z]; rotate_left; clear_value z)
    | (intro z; clear_value z)
    | lift_lets -underBinder
    | split

theorem State.setTideSource_within (s : State) (a1 : Nat) : Within [.regs, .agg, .stalls, .tally, .tide, .tol] s (sumState s (State.setTideSource s a1)) := by
  unfold State.setTideSource
  repeat' first
    | with_reducible exact Within.refl _ _
    | with_reducible assumption
    | exact (rfl : _ = true)
    | (with_reducible apply Within.via (State.fset_within ..))
    | (with_reducible apply Within.via (State.enterTide_within ..))
    | with_reducible exact Within.inl
    | with_reducible apply Within.inr
    | (intro z; refine (fun (hz : Within [.regs, .agg, .stalls, .tally, .tide, .tol] s z) => ?_) ?_; rotate_left; dsimp only [z]; rotate_left; clear_value z)
    | (intro z; clear_value z)
    | lift_lets -underBinder
    | split

end Sys2Proof.Machine
end

