-- ==== Sys2Proof/Laws/WithinTree.lean ====
section
/-! SUPPORT. Which parts of the state each operation of Machine/Tree.lean touches. -/

namespace Sys2Proof.Machine

theorem State.helloSend_within (s : State) : Within [.out] s (State.helloSend s) := by
  unfold State.helloSend
  repeat' first
    | with_reducible exact Within.refl _ _
    | exact (rfl : _ = true)
    | (with_reducible apply Within.via (State.sendMgmt_within ..))
    | with_reducible apply Within.foldl
    | refine (fun (s : State) x => ?_)
    | split

theorem State.hello_within (s : State) (a1 : List (Nat × Nat × Nat × Nat)) : Within [.regs, .agg, .tally, .tide, .tree, .out] s (State.hello s a1) := by
  unfold State.hello
  repeat' first
    | with_reducible exact Within.refl _ _
    | with_reducible assumption
    | exact (rfl : _ = true)
    | (with_reducible apply Within.via (State.sendMgmt_within ..))
    | (with_reducible apply Within.via (State.setTide_within ..))
    | (with_reducible apply Within.via (State.updateRoot_within ..))
    | (with_reducible apply Within.via (State.setTree_within ..))
    | with_reducible apply Within.foldl
    | refine (fun (s : State) x => ?_)
    | (intro z; refine (fun (hz : Within [.regs, .agg, .tally, .tide, .tree, .out] s z) => ?_) ?_; rotate_left; dsimp only [z]; rotate_left; clear_value z)
    | (intro z; clear_value z)
    | lift_lets -underBinder
    | split

theorem State.childJoins_within (s : State) (a1 : Nat) : Within [.regs, .agg] s (State.childJoins s a1) := by
  unfold State.childJoins
  repeat' first
    | with_reducible exact Within.refl _ _
    | with_reducible assumption
    | exact (rfl : _ = true)
    | (with_reducible apply Within.via (State.fset_within ..))
    | (with_reducible apply Within.via (State.setBit_within ..))
    | (with_reducible apply Within.via (State.irq_within ..))
    | (intro z; refine (fun (hz : Within [.regs, .agg] s z) => ?_) ?_; rotate_left; dsimp only [z]; rotate_left; clear_value z)
    | (intro z; clear_value z)
    | lift_lets -underBinder
    | split

theorem State.childLeaves_within (s : State) (a1 : Nat) : Within [.regs, .agg, .tree] s (State.childLeaves s a1) := by
  unfold State.childLeaves
  repeat' first
    | with_reducible exact Within.refl _ _
    | with_reducible assumption
    | exact (rfl : _ = true)
    | (with_reducible apply Within.via (State.fset_within ..))
    | (with_reducible apply Within.via (State.setBit_within ..))
    | (with_reducible apply Within.via (State.irq_within ..))
    | (with_reducible apply Within.via (State.setTree_within ..))
    | (intro z; refine (fun (hz : Within [.regs, .agg, .tree] s z) => ?_) ?_; rotate_left; dsimp only [z]; rotate_left; clear_value z)
    | (intro z; clear_value z)
    | lift_lets -underBinder
    | split

theorem State.ackDown_within (s : State) (a1 : Nat) (a2 : List Nat) (a3 : Option Nat) : Within [.regs, .agg, .out] s (State.ackDown s a1 a2 a3) := by
  unfold State.ackDown
  repeat' first
    | with_reducible exact Within.refl _ _
    | with_reducible assumption
    | exact (rfl : _ = true)
    | (with_reducible apply Within.via (State.sendMgmt_within ..))
    | (with_reducible apply Within.via (State.childJoins_within ..))
    | (intro z; refine (fun (hz : Within [.regs, .agg, .out] s z) => ?_) ?_; rotate_left; dsimp only [z]; rotate_left; clear_value z)
    | (intro z; clear_value z)
    | lift_lets -underBinder
    | split

theorem State.join_within (s : State) (a1 : Nat) (a2 : Nat) (a3 : List Nat) : Within [.regs, .agg, .tree, .out] s (State.join s a1 a2 a3) := by
  unfold State.join
  repeat' first
    | with_reducible exact Within.refl _ _
    | with_reducible assumption
    | exact (rfl : _ = true)
    | (with_reducible apply Within.via (State.fset_within ..))
    | (with_reducible apply Within.via (State.sendMgmt_within ..))
    | (with_reducible apply Within.via (State.setTree_within ..))
    | (with_reducible apply Within.via (State.ackDown_within ..))
    | (intro z; refine (fun (hz : Within [.regs, .agg, .tree, .out] s z) => ?_) ?_; rotate_left; dsimp only [z]; rotate_left; clear_value z)
    | (intro z; clear_value z)
    | lift_lets -underBinder
    | split

theorem State.joinAck_within (s : State) (a1 : Nat) (a2 : List Nat) (a3 : Option Nat) : Within [.regs, .agg, .tree, .out] s (State.joinAck s a1 a2 a3) := by
  unfold State.joinAck
  repeat' first
    | with_reducible exact Within.refl _ _
    | with_reducible assumption
    | exact (rfl : _ = true)
    | (with_reducible apply Within.via (State.wr32_within ..))
    | (with_reducible apply Within.via (State.fset_within ..))
    | (with_reducible apply Within.via (State.irq_within ..))
    | (with_reducible apply Within.via (State.setTree_within ..))
    | (with_reducible apply Within.via (State.ackDown_within ..))
    | (intro z; refine (fun (hz : Within [.regs, .agg, .tree, .out] s z) => ?_) ?_; rotate_left; dsimp only [z]; rotate_left; clear_value z)
    | (intro z; clear_value z)
    | lift_lets -underBinder
    | split

theorem State.treeLeave_within (s : State) : Within [.regs, .agg, .eddies, .stalls, .tally, .tide, .tree, .tol, .dbg] s (State.treeLeave s) := by
  unfold State.treeLeave
  repeat' first
    | with_reducible exact Within.refl _ _
    | with_reducible assumption
    | exact (rfl : _ = true)
    | (with_reducible apply Within.via (State.wr32_within ..))
    | (with_reducible apply Within.via (State.fset_within ..))
    | (with_reducible apply Within.via (State.irq_within ..))
    | (with_reducible apply Within.via (State.endGrant_within ..))
    | (with_reducible apply Within.via (State.emptyBox_within ..))
    | (with_reducible apply Within.via (State.setTide_within ..))
    | (with_reducible apply Within.via (State.updateRoot_within ..))
    | (with_reducible apply Within.via (State.sourceLost_within ..))
    | (with_reducible apply Within.via (State.setTree_within ..))
    | (intro z; refine (fun (hz : Within [.regs, .agg, .eddies, .stalls, .tally, .tide, .tree, .tol, .dbg] s z) => ?_) ?_; rotate_left; dsimp only [z]; rotate_left; clear_value z)
    | (intro z; clear_value z)
    | lift_lets -underBinder
    | split

theorem State.syncSend_within (s : State) : Within [.out] s (State.syncSend s) := by
  unfold State.syncSend
  repeat' first
    | with_reducible exact Within.refl _ _
    | exact (rfl : _ = true)
    | (with_reducible apply Within.via (State.sendMgmt_within ..))
    | with_reducible apply Within.foldl
    | refine (fun (s : State) x => ?_)
    | split

theorem State.sync_within (s : State) (a1 : Nat) (a2 : Nat) : Within [.tide, .out] s (State.sync s a1 a2) := by
  unfold State.sync
  repeat' first
    | with_reducible exact Within.refl _ _
    | exact (rfl : _ = true)
    | (with_reducible apply Within.via (State.sendMgmt_within ..))
    | (with_reducible apply Within.via (State.setTide_within ..))
    | split

theorem State.delayReq_within (s : State) (a1 : Nat) : Within [.out] s (State.delayReq s a1) := by
  unfold State.delayReq
  repeat' first
    | with_reducible exact Within.refl _ _
    | exact (rfl : _ = true)
    | (with_reducible apply Within.via (State.sendMgmt_within ..))
    | split

theorem State.delayRsp_within (s : State) (a1 : Nat) (a2 : Nat) : Within [.regs, .agg, .eddies, .mil, .stalls, .tally, .tide, .tol, .lanes, .dbg, .out, .fresh] s (State.delayRsp s a1 a2) := by
  unfold State.delayRsp
  repeat' first
    | with_reducible exact Within.refl _ _
    | with_reducible assumption
    | exact (rfl : _ = true)
    | (with_reducible apply Within.via (State.setTide_within ..))
    | (with_reducible apply Within.via (State.tideSample_within ..))
    | (intro z; refine (fun (hz : Within [.regs, .agg, .eddies, .mil, .stalls, .tally, .tide, .tol, .lanes, .dbg, .out, .fresh] s z) => ?_) ?_; rotate_left; dsimp only [z]; rotate_left; clear_value z)
    | (intro z; clear_value z)
    | lift_lets -underBinder
    | split

theorem State.fanBegin_within (s : State) (a1 : Nat) (a2 : Nat) (a3 : FanReq) (a4 : List Nat) : Within [.tree, .out] s (State.fanBegin s a1 a2 a3 a4) := by
  unfold State.fanBegin
  repeat' first
    | with_reducible exact Within.refl _ _
    | with_reducible assumption
    | exact (rfl : _ = true)
    | (with_reducible apply Within.via (State.sendMgmt_within ..))
    | (with_reducible apply Within.via (State.setTree_within ..))
    | with_reducible apply Within.foldl
    | refine (fun (s : State) x => ?_)
    | (intro z; refine (fun (hz : Within [.tree, .out] s z) => ?_) ?_; rotate_left; dsimp only [z]; rotate_left; clear_value z)
    | (intro z; clear_value z)
    | lift_lets -underBinder
    | split

theorem State.fanTake_within (s : State) (a1 : Nat) (a2 : List Nat) (a3 : Option (Nat × Nat)) : Within [.regs, .agg, .tree, .out] s (State.fanTake s a1 a2 a3) := by
  unfold State.fanTake
  repeat' first
    | with_reducible exact Within.refl _ _
    | with_reducible assumption
    | exact (rfl : _ = true)
    | (with_reducible apply Within.via (State.ring_within ..))
    | (with_reducible apply Within.via (State.mbCmdWrite_within ..))
    | (with_reducible apply Within.via (State.fanReply_within ..))
    | (with_reducible apply Within.via (State.setTree_within ..))
    | with_reducible apply Within.foldl
    | refine (fun (s : State) x => ?_)
    | (intro z; refine (fun (hz : Within [.regs, .agg, .tree, .out] s z) => ?_) ?_; rotate_left; dsimp only [z]; rotate_left; clear_value z)
    | (intro z; clear_value z)
    | lift_lets -underBinder
    | split

theorem State.cmd_within (s : State) (a1 : Nat) (a2 : Nat) (a3 : Nat) (a4 : Nat) (a5 : List Nat) (a6 : Option (Nat × Nat)) : Within [.regs, .agg, .tree, .out] s (State.cmd s a1 a2 a3 a4 a5 a6) := by
  unfold State.cmd
  repeat' first
    | with_reducible exact Within.refl _ _
    | with_reducible assumption
    | exact (rfl : _ = true)
    | (with_reducible apply Within.via (State.sendMgmt_within ..))
    | (with_reducible apply Within.via (State.fanTake_within ..))
    | with_reducible apply Within.foldl
    | refine (fun (s : State) x => ?_)
    | (intro z; refine (fun (hz : Within [.regs, .agg, .tree, .out] s z) => ?_) ?_; rotate_left; dsimp only [z]; rotate_left; clear_value z)
    | (intro z; clear_value z)
    | lift_lets -underBinder
    | split

theorem State.cpl_within (s : State) (a1 : Nat) (a2 : Nat) (a3 : Nat) (a4 : Nat) (a5 : Nat) (a6 : Nat) (a7 : Nat) : Within [.tree, .out] s (State.cpl s a1 a2 a3 a4 a5 a6 a7) := by
  unfold State.cpl
  repeat' first
    | with_reducible exact Within.refl _ _
    | exact (rfl : _ = true)
    | (with_reducible apply Within.via (State.sendMgmt_within ..))
    | (with_reducible apply Within.via (State.setTree_within ..))
    | split

theorem State.stageMsg_within (s : State) (a1 : Nat) (a2 : Nat) (a3 : Nat) (a4 : Nat) (a5 : List Nat) (a6 : List Nat) : Within [.tree, .tol, .out] s (State.stageMsg s a1 a2 a3 a4 a5 a6) := by
  unfold State.stageMsg
  repeat' first
    | with_reducible exact Within.refl _ _
    | with_reducible assumption
    | exact (rfl : _ = true)
    | (with_reducible apply Within.via (State.setTol_within ..))
    | (with_reducible apply Within.via (State.sendMgmt_within ..))
    | (with_reducible apply Within.via (State.setTree_within ..))
    | with_reducible apply Within.foldl
    | refine (fun (s : State) x => ?_)
    | (intro z; refine (fun (hz : Within [.tree, .tol, .out] s z) => ?_) ?_; rotate_left; dsimp only [z]; rotate_left; clear_value z)
    | (intro z; clear_value z)
    | lift_lets -underBinder
    | split

theorem State.retMsg_within (s : State) (a1 : Nat) (a2 : Nat) (a3 : Nat) (a4 : Nat) (a5 : List Nat) : Within [.tree, .out] s (State.retMsg s a1 a2 a3 a4 a5) := by
  unfold State.retMsg
  repeat' first
    | with_reducible exact Within.refl _ _
    | exact (rfl : _ = true)
    | (with_reducible apply Within.via (State.sendMgmt_within ..))
    | (with_reducible apply Within.via (State.setTree_within ..))
    | split

end Sys2Proof.Machine
end

