-- ==== Sys2Proof/Laws/WithinPciePorts.lean ====
section
/-! SUPPORT. Which parts of the state each operation of Machine/PciePorts.lean touches. -/

namespace Sys2Proof.Machine

theorem State.setPcie_within (s : State) (a1 : Nat) (a2 : Pcie) : Within [.ports] s (State.setPcie s a1 a2) := by
  unfold State.setPcie
  repeat' first
    | with_reducible exact Within.refl _ _
    | exact (rfl : _ = true)
    | (with_reducible apply Within.via (State.setPorts_within ..))

theorem State.answerHdr_within (s : State) (a1 : Nat) (a2 : Header) (a3 : Nat) (a4 : Nat) (a5 : List (BitVec 512 × Bool)) : Within [.mil, .fresh] s (State.answerHdr s a1 a2 a3 a4 a5) := by
  unfold State.answerHdr
  repeat' first
    | with_reducible exact Within.refl _ _
    | exact (rfl : _ = true)
    | (with_reducible apply Within.via (State.useFree_within ..))
    | (with_reducible apply Within.via (State.sendRsp_within ..))

theorem State.fnLayoutWrite_within (s : State) (a1 : Req) (a2 : Nat) (a3 : Nat) (a4 : Nat) : Within [.regs, .agg] s (State.fnLayoutWrite s a1 a2 a3 a4) := by
  unfold State.fnLayoutWrite
  repeat' first
    | with_reducible exact Within.refl _ _
    | with_reducible assumption
    | exact (rfl : _ = true)
    | (with_reducible apply Within.via (State.wr32_within ..))
    | (with_reducible apply Within.via (State.refuse_within ..))
    | with_reducible apply Within.foldl
    | refine (fun (s : State) x => ?_)
    | (intro z; refine (fun (hz : Within [.regs, .agg] s z) => ?_) ?_; rotate_left; dsimp only [z]; rotate_left; clear_value z)
    | (intro z; clear_value z)
    | lift_lets -underBinder
    | split

theorem State.layoutTakes_within (s : State) (a1 : Nat) : Within [.ports] s (State.layoutTakes s a1) := by
  unfold State.layoutTakes
  repeat' first
    | with_reducible exact Within.refl _ _
    | exact (rfl : _ = true)
    | (with_reducible apply Within.via (State.setPcie_within ..))
    | with_reducible apply Within.foldl
    | refine (fun (s : State) x => ?_)

theorem State.fnAssignWrite_within (s : State) (a1 : Req) (a2 : Nat) (a3 : Nat) : Within [.regs, .agg, .ports] s (State.fnAssignWrite s a1 a2 a3) := by
  unfold State.fnAssignWrite
  repeat' first
    | with_reducible exact Within.refl _ _
    | with_reducible assumption
    | exact (rfl : _ = true)
    | (with_reducible apply Within.via (State.refuse_within ..))
    | (with_reducible apply Within.via (State.setPcie_within ..))
    | (intro z; refine (fun (hz : Within [.regs, .agg, .ports] s z) => ?_) ?_; rotate_left; dsimp only [z]; rotate_left; clear_value z)
    | (intro z; clear_value z)
    | lift_lets -underBinder
    | split

theorem State.pciePoison_within (s : State) (a1 : Nat) (a2 : Header) : Within [.regs, .agg, .mil, .fresh] s (State.pciePoison s a1 a2) := by
  unfold State.pciePoison
  repeat' first
    | with_reducible exact Within.refl _ _
    | with_reducible assumption
    | exact (rfl : _ = true)
    | (with_reducible apply Within.via (State.finc_within ..))
    | (with_reducible apply Within.via (State.answerHdr_within ..))
    | (intro z; refine (fun (hz : Within [.regs, .agg, .mil, .fresh] s z) => ?_) ?_; rotate_left; dsimp only [z]; rotate_left; clear_value z)
    | (intro z; clear_value z)
    | lift_lets -underBinder
    | split

theorem State.pcieRequest_within (s : State) (a1 : Nat) (a2 : Nat) (a3 : PcieEnv) : Within [.regs, .agg, .mil, .ports, .out, .fresh] s (State.pcieRequest s a1 a2 a3) := by
  unfold State.pcieRequest
  repeat' first
    | with_reducible exact Within.refl _ _
    | with_reducible assumption
    | exact (rfl : _ = true)
    | (with_reducible apply Within.via (State.finc_within ..))
    | (with_reducible apply Within.via (State.emit_within ..))
    | (with_reducible apply Within.via (State.killPkt_within ..))
    | (with_reducible apply Within.via (State.answer_within ..))
    | (with_reducible apply Within.via (State.setPcie_within ..))
    | (with_reducible apply Within.via (State.pciePoison_within ..))
    | (intro z; refine (fun (hz : Within [.regs, .agg, .mil, .ports, .out, .fresh] s z) => ?_) ?_; rotate_left; dsimp only [z]; rotate_left; clear_value z)
    | (intro z; clear_value z)
    | lift_lets -underBinder
    | split

theorem State.tlpCompletion_within (s : State) (a1 : Nat) (a2 : Nat) (a3 : TlpEnd) : Within [.regs, .agg, .mil, .ports, .fresh] s (State.tlpCompletion s a1 a2 a3) := by
  unfold State.tlpCompletion
  repeat' first
    | with_reducible exact Within.refl _ _
    | with_reducible assumption
    | exact (rfl : _ = true)
    | (with_reducible apply Within.via (State.finc_within ..))
    | (with_reducible apply Within.via (State.setPcie_within ..))
    | (with_reducible apply Within.via (State.answerHdr_within ..))
    | (with_reducible apply Within.via (State.pciePoison_within ..))
    | (intro z; refine (fun (hz : Within [.regs, .agg, .mil, .ports, .fresh] s z) => ?_) ?_; rotate_left; dsimp only [z]; rotate_left; clear_value z)
    | (intro z; clear_value z)
    | lift_lets -underBinder
    | split

theorem State.hostUR_within (s : State) (a1 : Nat) (a2 : Nat) : Within [.regs, .agg, .out] s (State.hostUR s a1 a2) := by
  unfold State.hostUR
  repeat' first
    | with_reducible exact Within.refl _ _
    | exact (rfl : _ = true)
    | (with_reducible apply Within.via (State.finc_within ..))
    | (with_reducible apply Within.via (State.emit_within ..))

theorem State.hostReq_within (s : State) (a1 : Nat) (a2 : Nat) (a3 : Nat) (a4 : Nat) (a5 : HostAcc) : Within [.mil, .fresh] s (State.hostReq s a1 a2 a3 a4 a5) := by
  unfold State.hostReq
  repeat' first
    | with_reducible exact Within.refl _ _
    | with_reducible assumption
    | exact (rfl : _ = true)
    | (with_reducible apply Within.via (State.sendReq_within ..))
    | (intro z; refine (fun (hz : Within [.mil, .fresh] s z) => ?_) ?_; rotate_left; dsimp only [z]; rotate_left; clear_value z)
    | (intro z; clear_value z)
    | lift_lets -underBinder
    | split

theorem State.hostReg_within (s : State) (a1 : Nat) (a2 : HostAcc) : Within [.mil, .fresh] s (State.hostReg s a1 a2) := by
  unfold State.hostReg
  repeat' first
    | with_reducible exact Within.refl _ _
    | with_reducible assumption
    | exact (rfl : _ = true)
    | (with_reducible apply Within.via (State.sendReq_within ..))
    | (intro z; refine (fun (hz : Within [.mil, .fresh] s z) => ?_) ?_; rotate_left; dsimp only [z]; rotate_left; clear_value z)
    | (intro z; clear_value z)
    | lift_lets -underBinder
    | split

theorem State.bar0_within (s : State) (a1 : Nat) (a2 : Nat) (a3 : HostAcc) : Within [.regs, .agg, .mil, .out, .fresh] s (State.bar0 s a1 a2 a3) := by
  unfold State.bar0
  repeat' first
    | with_reducible exact Within.refl _ _
    | with_reducible assumption
    | exact (rfl : _ = true)
    | (with_reducible apply Within.via (State.hostUR_within ..))
    | (with_reducible apply Within.via (State.hostReq_within ..))
    | (with_reducible apply Within.via (State.hostReg_within ..))
    | (intro z; refine (fun (hz : Within [.regs, .agg, .mil, .out, .fresh] s z) => ?_) ?_; rotate_left; dsimp only [z]; rotate_left; clear_value z)
    | (intro z; clear_value z)
    | lift_lets -underBinder
    | split

theorem State.winAccess_within (s : State) (a1 : Bool) (a2 : Nat) (a3 : HostAcc) : Within [.regs, .agg, .mil, .out, .fresh] s (State.winAccess s a1 a2 a3) := by
  unfold State.winAccess
  repeat' first
    | with_reducible exact Within.refl _ _
    | with_reducible assumption
    | exact (rfl : _ = true)
    | (with_reducible apply Within.via (State.hostUR_within ..))
    | (with_reducible apply Within.via (State.hostReq_within ..))
    | (intro z; refine (fun (hz : Within [.regs, .agg, .mil, .out, .fresh] s z) => ?_) ?_; rotate_left; dsimp only [z]; rotate_left; clear_value z)
    | (intro z; clear_value z)
    | lift_lets -underBinder
    | split

theorem State.bar2_within (s : State) (a1 : Nat) (a2 : HostAcc) : Within [.regs, .agg, .mil, .out, .fresh] s (State.bar2 s a1 a2) := by
  unfold State.bar2
  repeat' first
    | with_reducible exact Within.refl _ _
    | exact (rfl : _ = true)
    | (with_reducible apply Within.via (State.winAccess_within ..))
    | split

theorem State.inbound_within (s : State) (a1 : Nat) (a2 : HostAcc) : Within [.regs, .agg, .mil, .out, .fresh] s (State.inbound s a1 a2) := by
  unfold State.inbound
  repeat' first
    | with_reducible exact Within.refl _ _
    | exact (rfl : _ = true)
    | (with_reducible apply Within.via (State.winAccess_within ..))
    | split

theorem State.winWrite_within (s : State) (a1 : Req) (a2 : Bool) (a3 : Nat) (a4 : Nat) (a5 : Nat) (a6 : Nat) : Within [.regs, .agg] s (State.winWrite s a1 a2 a3 a4 a5 a6) := by
  unfold State.winWrite
  repeat' first
    | with_reducible exact Within.refl _ _
    | with_reducible assumption
    | exact (rfl : _ = true)
    | (with_reducible apply Within.via (State.wr32_within ..))
    | (with_reducible apply Within.via (State.wr64_within ..))
    | (with_reducible apply Within.via (State.refuse_within ..))
    | (intro z; refine (fun (hz : Within [.regs, .agg] s z) => ?_) ?_; rotate_left; dsimp only [z]; rotate_left; clear_value z)
    | (intro z; clear_value z)
    | lift_lets -underBinder
    | split

theorem State.rpOwnerWrite_within (s : State) (a1 : Nat) (a2 : Nat) : Within [.regs, .agg] s (State.rpOwnerWrite s a1 a2) := by
  unfold State.rpOwnerWrite
  repeat' first
    | with_reducible exact Within.refl _ _
    | with_reducible assumption
    | exact (rfl : _ = true)
    | (with_reducible apply Within.via (State.wr32_within ..))
    | (with_reducible apply Within.via (State.fset_within ..))
    | with_reducible apply Within.foldl
    | refine (fun (s : State) x => ?_)
    | (intro z; refine (fun (hz : Within [.regs, .agg] s z) => ?_) ?_; rotate_left; dsimp only [z]; rotate_left; clear_value z)
    | (intro z; clear_value z)
    | lift_lets -underBinder
    | split

theorem State.cxlMem_within (s : State) (a1 : Nat) (a2 : HostAcc) : Within [.regs, .agg, .mil, .out, .fresh] s (State.cxlMem s a1 a2) := by
  unfold State.cxlMem
  repeat' first
    | with_reducible exact Within.refl _ _
    | with_reducible assumption
    | exact (rfl : _ = true)
    | (with_reducible apply Within.via (State.finc_within ..))
    | (with_reducible apply Within.via (State.emit_within ..))
    | (with_reducible apply Within.via (State.hostReq_within ..))
    | (intro z; refine (fun (hz : Within [.regs, .agg, .mil, .out, .fresh] s z) => ?_) ?_; rotate_left; dsimp only [z]; rotate_left; clear_value z)
    | (intro z; clear_value z)
    | lift_lets -underBinder
    | split

theorem State.hostRsp_within (s : State) (a1 : Nat) (a2 : Nat) (a3 : Header) (a4 : List (BitVec 512 × Bool)) : Within [.regs, .agg, .out] s (State.hostRsp s a1 a2 a3 a4) := by
  unfold State.hostRsp
  repeat' first
    | with_reducible exact Within.refl _ _
    | with_reducible assumption
    | exact (rfl : _ = true)
    | (with_reducible apply Within.via (State.emit_within ..))
    | (with_reducible apply Within.via (State.hostUR_within ..))
    | (intro z; refine (fun (hz : Within [.regs, .agg, .out] s z) => ?_) ?_; rotate_left; dsimp only [z]; rotate_left; clear_value z)
    | (intro z; clear_value z)
    | lift_lets -underBinder
    | split

theorem State.ptmRequest_within (s : State) (a1 : Nat) : Within [.out] s (State.ptmRequest s a1) := by
  unfold State.ptmRequest
  repeat' first
    | with_reducible exact Within.refl _ _
    | exact (rfl : _ = true)
    | (with_reducible apply Within.via (State.emit_within ..))
    | split

theorem State.mailboxReset_within (s : State) (a1 : Nat) : Within [.regs, .agg, .eddies, .tol, .dbg] s (State.mailboxReset s a1) := by
  unfold State.mailboxReset
  repeat' first
    | with_reducible exact Within.refl _ _
    | exact (rfl : _ = true)
    | (with_reducible apply Within.via (State.endGrant_within ..))
    | (with_reducible apply Within.via (State.emptyBox_within ..))
    | (with_reducible apply Within.via (State.closeSessions_within ..))

theorem State.tlpsLost_within (s : State) (a1 : Nat) : Within [.regs, .agg, .mil, .ports, .fresh] s (State.tlpsLost s a1) := by
  unfold State.tlpsLost
  repeat' first
    | with_reducible exact Within.refl _ _
    | exact (rfl : _ = true)
    | (with_reducible apply Within.via (State.setPcie_within ..))
    | (with_reducible apply Within.via (State.pciePoison_within ..))
    | with_reducible apply Within.foldl
    | refine (fun (s : State) x => ?_)

theorem State.pcieLinkOff_within (s : State) (a1 : Nat) : Within [.regs, .agg, .mil, .mem, .ports, .fresh] s (State.pcieLinkOff s a1) := by
  unfold State.pcieLinkOff
  repeat' first
    | with_reducible exact Within.refl _ _
    | with_reducible assumption
    | exact (rfl : _ = true)
    | (with_reducible apply Within.via (State.wr32_within ..))
    | (with_reducible apply Within.via (State.irq_within ..))
    | (with_reducible apply Within.via (State.setPortWork_within ..))
    | (with_reducible apply Within.via (State.layoutTakes_within ..))
    | (with_reducible apply Within.via (State.tlpsLost_within ..))
    | (intro z; refine (fun (hz : Within [.regs, .agg, .mil, .mem, .ports, .fresh] s z) => ?_) ?_; rotate_left; dsimp only [z]; rotate_left; clear_value z)
    | (intro z; clear_value z)
    | lift_lets -underBinder
    | split

theorem State.pcieLinkUp_within (s : State) (a1 : Nat) (a2 : Nat) (a3 : Nat) (a4 : Bool) (a5 : Bool) (a6 : Bool) (a7 : Bool) : Within [.regs, .agg] s (State.pcieLinkUp s a1 a2 a3 a4 a5 a6 a7) := by
  unfold State.pcieLinkUp
  repeat' first
    | with_reducible exact Within.refl _ _
    | with_reducible assumption
    | exact (rfl : _ = true)
    | (with_reducible apply Within.via (State.wr32_within ..))
    | (with_reducible apply Within.via (State.irq_within ..))
    | (intro z; refine (fun (hz : Within [.regs, .agg] s z) => ?_) ?_; rotate_left; dsimp only [z]; rotate_left; clear_value z)
    | (intro z; clear_value z)
    | lift_lets -underBinder
    | split

theorem State.pcieLinkDown_within (s : State) (a1 : Nat) : Within [.regs, .agg, .eddies, .mil, .mem, .tol, .dbg, .ports, .fresh] s (State.pcieLinkDown s a1) := by
  unfold State.pcieLinkDown
  repeat' first
    | with_reducible exact Within.refl _ _
    | exact (rfl : _ = true)
    | (with_reducible apply Within.via (State.mailboxReset_within ..))
    | (with_reducible apply Within.via (State.pcieLinkOff_within ..))
    | split

theorem State.portReset_within (s : State) (a1 : Nat) (a2 : PortReset) : Within [.regs, .agg, .eddies, .mil, .mem, .tol, .dbg, .ports, .fresh] s (State.portReset s a1 a2) := by
  unfold State.portReset
  repeat' first
    | with_reducible exact Within.refl _ _
    | exact (rfl : _ = true)
    | (with_reducible apply Within.via (State.wr32_within ..))
    | (with_reducible apply Within.via (State.irq_within ..))
    | (with_reducible apply Within.via (State.mailboxReset_within ..))
    | (with_reducible apply Within.via (State.pcieLinkOff_within ..))
    | split

theorem State.enterRole_within (s : State) (a1 : Nat) (a2 : Nat) : Within [.regs, .agg, .eddies, .mil, .mem, .tol, .dbg, .ports, .fresh] s (State.enterRole s a1 a2) := by
  unfold State.enterRole
  repeat' first
    | with_reducible exact Within.refl _ _
    | with_reducible assumption
    | exact (rfl : _ = true)
    | (with_reducible apply Within.via (State.fset_within ..))
    | (with_reducible apply Within.via (State.mailboxReset_within ..))
    | (with_reducible apply Within.via (State.pcieLinkOff_within ..))
    | (intro z; refine (fun (hz : Within [.regs, .agg, .eddies, .mil, .mem, .tol, .dbg, .ports, .fresh] s z) => ?_) ?_; rotate_left; dsimp only [z]; rotate_left; clear_value z)
    | (intro z; clear_value z)
    | lift_lets -underBinder
    | split

end Sys2Proof.Machine
end

