-- ==== Sys2Proof/Laws/WithinNetPorts.lean ====
section
/-! SUPPORT. Which parts of the state each operation of Machine/NetPorts.lean touches. -/

namespace Sys2Proof.Machine

theorem State.sendUnit_within (a0 : Nat) (s : State) (a2 : DUnit) : Within [.mil, .fresh] s (State.sendUnit a0 s a2).1 := by
  induction a0 generalizing s a2 with
  | zero =>
    unfold State.sendUnit
    repeat' first
      | with_reducible exact Within.refl _ _
      | with_reducible assumption
      | exact (rfl : _ = true)
      | (with_reducible apply Within.via (State.sendReq_within ..))
      | (intro z; refine (fun (hz : Within [.mil, .fresh] s z) => ?_) ?_; rotate_left; dsimp only [z]; rotate_left; clear_value z)
      | (intro z; clear_value z)
      | lift_lets -underBinder
      | split
  | succ a0 ih =>
    unfold State.sendUnit
    repeat' first
      | with_reducible exact Within.refl _ _
      | with_reducible assumption
      | exact (rfl : _ = true)
      | (with_reducible apply Within.via (State.sendReq_within ..))
      | (with_reducible apply Within.via (ih ..))
      | (intro z; refine (fun (hz : Within [.mil, .fresh] s z) => ?_) ?_; rotate_left; dsimp only [z]; rotate_left; clear_value z)
      | (intro z; clear_value z)
      | lift_lets -underBinder
      | split

theorem State.pumpUnits_within (s : State) (a1 : List DUnit) (a2 : List DUnit) : Within [.mil, .fresh] s (State.pumpUnits s a1 a2).1 := by
  induction a2 generalizing s a1 with
  | nil =>
    unfold State.pumpUnits
    repeat' first
      | with_reducible exact Within.refl _ _
      | with_reducible assumption
      | exact (rfl : _ = true)
      | (with_reducible apply Within.via (State.sendUnit_within ..))
      | with_reducible apply Within.foldl
      | with_reducible apply Within.foldlFst
      | with_reducible apply Within.foldlSnd
      | refine (fun (z : State × _) x hz => ?_)
      | refine (fun (z : _ × State) x hz => ?_)
      | refine (fun (z : State) (l : Loc) (d : List Nat) hz => ?_)
      | refine (fun (s : State) x => ?_)
      | (intro z; refine (fun (hz : Within [.mil, .fresh] s z) => ?_) ?_; rotate_left; dsimp only [z]; rotate_left; clear_value z)
      | (intro z; refine (fun (hz : Within [.mil, .fresh] s z.1) => ?_) ?_; rotate_left; dsimp only [z]; rotate_left; clear_value z)
      | (intro z; refine (fun (hz : Within [.mil, .fresh] s z.2) => ?_) ?_; rotate_left; dsimp only [z]; rotate_left; clear_value z)
      | (intro z; have _h : State → _ := z; clear _h; dsimp -zeta only [z]; clear z)
      | (intro z; have _h : State × _ → _ := z; clear _h; dsimp -zeta only [z]; clear z)
      | (intro z; clear_value z)
      | (intro z; dsimp -zeta only [z]; clear z)
      | lift_lets -underBinder
      | split
  | cons x a2 ih =>
    unfold State.pumpUnits
    repeat' first
      | with_reducible exact Within.refl _ _
      | with_reducible assumption
      | exact (rfl : _ = true)
      | (with_reducible apply Within.via (State.sendUnit_within ..))
      | (with_reducible apply Within.via (ih ..))
      | with_reducible apply Within.foldl
      | with_reducible apply Within.foldlFst
      | with_reducible apply Within.foldlSnd
      | refine (fun (z : State × _) x hz => ?_)
      | refine (fun (z : _ × State) x hz => ?_)
      | refine (fun (z : State) (l : Loc) (d : List Nat) hz => ?_)
      | refine (fun (s : State) x => ?_)
      | (intro z; refine (fun (hz : Within [.mil, .fresh] s z) => ?_) ?_; rotate_left; dsimp only [z]; rotate_left; clear_value z)
      | (intro z; refine (fun (hz : Within [.mil, .fresh] s z.1) => ?_) ?_; rotate_left; dsimp only [z]; rotate_left; clear_value z)
      | (intro z; refine (fun (hz : Within [.mil, .fresh] s z.2) => ?_) ?_; rotate_left; dsimp only [z]; rotate_left; clear_value z)
      | (intro z; have _h : State → _ := z; clear _h; dsimp -zeta only [z]; clear z)
      | (intro z; have _h : State × _ → _ := z; clear _h; dsimp -zeta only [z]; clear z)
      | (intro z; clear_value z)
      | (intro z; dsimp -zeta only [z]; clear z)
      | lift_lets -underBinder
      | split

theorem State.pump_within (s : State) : Within [.mil, .ports, .fresh] s (State.pump s) := by
  unfold State.pump
  repeat' first
    | with_reducible exact Within.refl _ _
    | with_reducible assumption
    | exact (rfl : _ = true)
    | (with_reducible apply Within.via (State.setPorts_within ..))
    | (with_reducible apply Within.via (State.pumpUnits_within ..))
    | (intro z; refine (fun (hz : Within [.mil, .ports, .fresh] s z) => ?_) ?_; rotate_left; dsimp only [z]; rotate_left; clear_value z)
    | (intro z; clear_value z)
    | lift_lets -underBinder

theorem State.deliver_within (s : State) (a1 : Nat) (a2 : Nat) (a3 : Nat) (a4 : List Nat) : Within [.mil, .ports, .fresh] s (State.deliver s a1 a2 a3 a4) := by
  unfold State.deliver
  repeat' first
    | with_reducible exact Within.refl _ _
    | exact (rfl : _ = true)
    | (with_reducible apply Within.via (State.setPorts_within ..))
    | (with_reducible apply Within.via (State.pump_within ..))

theorem State.setPart_within (s : State) (a1 : Nat) (a2 : Nat) (a3 : Option Part) : Within [.ports] s (State.setPart s a1 a2 a3) := by
  unfold State.setPart
  repeat' first
    | with_reducible exact Within.refl _ _
    | exact (rfl : _ = true)
    | (with_reducible apply Within.via (State.setPorts_within ..))

theorem State.ethReceive_within (s : State) (a1 : Nat) (a2 : List Nat) (a3 : Bool) : Within [.regs, .agg, .mil, .ports, .fresh] s (State.ethReceive s a1 a2 a3) := by
  unfold State.ethReceive
  repeat' first
    | with_reducible exact Within.refl _ _
    | with_reducible assumption
    | exact (rfl : _ = true)
    | (with_reducible apply Within.via (State.finc_within ..))
    | (with_reducible apply Within.via (State.deliver_within ..))
    | with_reducible apply Within.foldl
    | refine (fun (s : State) x => ?_)
    | (intro z; refine (fun (hz : Within [.regs, .agg, .mil, .ports, .fresh] s z) => ?_) ?_; rotate_left; dsimp only [z]; rotate_left; clear_value z)
    | (intro z; clear_value z)
    | lift_lets -underBinder
    | split

theorem State.ethSend_within (s : State) (a1 : Nat) (a2 : List Nat) : Within [.ports, .out] s (State.ethSend s a1 a2) := by
  unfold State.ethSend
  repeat' first
    | with_reducible exact Within.refl _ _
    | exact (rfl : _ = true)
    | (with_reducible apply Within.via (State.emit_within ..))
    | (with_reducible apply Within.via (State.setPorts_within ..))
    | split

theorem State.ethTake_within (s : State) (a1 : Nat) (a2 : Nat) : Within [.regs, .agg, .mil, .ports, .out, .fresh] s (State.ethTake s a1 a2) := by
  unfold State.ethTake
  repeat' first
    | with_reducible exact Within.refl _ _
    | with_reducible assumption
    | exact (rfl : _ = true)
    | (with_reducible apply Within.via (State.finc_within ..))
    | (with_reducible apply Within.via (State.answer_within ..))
    | (with_reducible apply Within.via (State.setPart_within ..))
    | (with_reducible apply Within.via (State.ethSend_within ..))
    | (intro z; refine (fun (hz : Within [.regs, .agg, .mil, .ports, .out, .fresh] s z) => ?_) ?_; rotate_left; dsimp only [z]; rotate_left; clear_value z)
    | (intro z; clear_value z)
    | lift_lets -underBinder
    | split

theorem State.stnCfgWrite_within (s : State) (a1 : Req) (a2 : Nat) (a3 : Nat) (a4 : Nat) : Within [.regs, .agg] s (State.stnCfgWrite s a1 a2 a3 a4) := by
  unfold State.stnCfgWrite
  repeat' first
    | with_reducible exact Within.refl _ _
    | with_reducible assumption
    | exact (rfl : _ = true)
    | (with_reducible apply Within.via (State.wr32_within ..))
    | (with_reducible apply Within.via (State.refuse_within ..))
    | (intro z; refine (fun (hz : Within [.regs, .agg] s z) => ?_) ?_; rotate_left; dsimp only [z]; rotate_left; clear_value z)
    | (intro z; clear_value z)
    | lift_lets -underBinder
    | split

theorem State.setSkj_within (s : State) (a1 : Nat) (a2 : Skj) : Within [.ports] s (State.setSkj s a1 a2) := by
  unfold State.setSkj
  repeat' first
    | with_reducible exact Within.refl _ _
    | exact (rfl : _ = true)
    | (with_reducible apply Within.via (State.setPorts_within ..))

theorem State.skjControl_within (s : State) (a1 : Nat) (a2 : Nat) (a3 : Nat) (a4 : List (Nat × Nat)) : Within [.ports, .out] s (State.skjControl s a1 a2 a3 a4) := by
  unfold State.skjControl
  repeat' first
    | with_reducible exact Within.refl _ _
    | with_reducible assumption
    | exact (rfl : _ = true)
    | (with_reducible apply Within.via (State.emit_within ..))
    | (with_reducible apply Within.via (State.setSkj_within ..))
    | (intro z; refine (fun (hz : Within [.ports, .out] s z) => ?_) ?_; rotate_left; dsimp only [z]; rotate_left; clear_value z)
    | (intro z; clear_value z)
    | lift_lets -underBinder
    | split

theorem State.skjSend_within (s : State) (a1 : Nat) (a2 : Nat) : Within [.regs, .agg, .tol, .ports, .out] s (State.skjSend s a1 a2) := by
  unfold State.skjSend
  repeat' first
    | with_reducible exact Within.refl _ _
    | with_reducible assumption
    | exact (rfl : _ = true)
    | (with_reducible apply Within.via (State.fset_within ..))
    | (with_reducible apply Within.via (State.irq_within ..))
    | (with_reducible apply Within.via (State.emit_within ..))
    | (with_reducible apply Within.via (State.wearUp_within ..))
    | (with_reducible apply Within.via (State.setSkj_within ..))
    | (intro z; refine (fun (hz : Within [.regs, .agg, .tol, .ports, .out] s z) => ?_) ?_; rotate_left; dsimp only [z]; rotate_left; clear_value z)
    | (intro z; clear_value z)
    | lift_lets -underBinder
    | split

theorem State.resend_within (s : State) (a1 : Nat) (a2 : Nat) (a3 : Nat) : Within [.regs, .agg, .out] s (State.resend s a1 a2 a3) := by
  unfold State.resend
  repeat' first
    | with_reducible exact Within.refl _ _
    | exact (rfl : _ = true)
    | (with_reducible apply Within.via (State.finc_within ..))
    | (with_reducible apply Within.via (State.emit_within ..))
    | with_reducible apply Within.foldl
    | refine (fun (s : State) x => ?_)

theorem State.nak_within (s : State) (a1 : Nat) (a2 : Nat) (a3 : Nat) : Within [.regs, .agg, .ports, .out] s (State.nak s a1 a2 a3) := by
  unfold State.nak
  repeat' first
    | with_reducible exact Within.refl _ _
    | with_reducible assumption
    | exact (rfl : _ = true)
    | (with_reducible apply Within.via (State.setSkj_within ..))
    | (with_reducible apply Within.via (State.resend_within ..))
    | (intro z; refine (fun (hz : Within [.regs, .agg, .ports, .out] s z) => ?_) ?_; rotate_left; dsimp only [z]; rotate_left; clear_value z)
    | (intro z; clear_value z)
    | lift_lets -underBinder
    | split

theorem State.udpTimeout_within (s : State) (a1 : Nat) (a2 : Nat) : Within [.regs, .agg, .out] s (State.udpTimeout s a1 a2) := by
  unfold State.udpTimeout
  repeat' first
    | with_reducible exact Within.refl _ _
    | exact (rfl : _ = true)
    | (with_reducible apply Within.via (State.resend_within ..))
    | split

theorem State.skjTake_within (s : State) (a1 : Nat) (a2 : Nat) : Within [.mil, .ports, .fresh] s (State.skjTake s a1 a2) := by
  unfold State.skjTake
  repeat' first
    | with_reducible exact Within.refl _ _
    | with_reducible assumption
    | exact (rfl : _ = true)
    | (with_reducible apply Within.via (State.answer_within ..))
    | (with_reducible apply Within.via (State.setPart_within ..))
    | (with_reducible apply Within.via (State.setSkj_within ..))
    | with_reducible apply Within.foldl
    | refine (fun (s : State) x => ?_)
    | (intro z; refine (fun (hz : Within [.mil, .ports, .fresh] s z) => ?_) ?_; rotate_left; dsimp only [z]; rotate_left; clear_value z)
    | (intro z; clear_value z)
    | lift_lets -underBinder
    | split

theorem State.returnCredit_within (s : State) (a1 : Nat) (a2 : Nat) (a3 : Nat) (a4 : Nat) : Within [.ports, .out] s (State.returnCredit s a1 a2 a3 a4) := by
  unfold State.returnCredit
  repeat' first
    | with_reducible exact Within.refl _ _
    | exact (rfl : _ = true)
    | (with_reducible apply Within.via (State.skjControl_within ..))
    | split

theorem State.releaseOld_within (s : State) (a1 : Nat) : Within [.regs, .agg, .ports] s (State.releaseOld s a1) := by
  unfold State.releaseOld
  repeat' first
    | with_reducible exact Within.refl _ _
    | with_reducible assumption
    | exact (rfl : _ = true)
    | (with_reducible apply Within.via (State.fset_within ..))
    | (with_reducible apply Within.via (State.setSkj_within ..))
    | (intro z; refine (fun (hz : Within [.regs, .agg, .ports] s z) => ?_) ?_; rotate_left; dsimp only [z]; rotate_left; clear_value z)
    | (intro z; clear_value z)
    | lift_lets -underBinder
    | split

theorem State.skjData_within (s : State) (a1 : Nat) (a2 : Nat) (a3 : SkFrame) : Within [.regs, .agg, .mil, .ports, .out, .fresh] s (State.skjData s a1 a2 a3) := by
  unfold State.skjData
  repeat' first
    | with_reducible exact Within.refl _ _
    | with_reducible assumption
    | exact (rfl : _ = true)
    | (with_reducible apply Within.via (State.finc_within ..))
    | (with_reducible apply Within.via (State.deliver_within ..))
    | (with_reducible apply Within.via (State.setSkj_within ..))
    | (with_reducible apply Within.via (State.returnCredit_within ..))
    | (intro z; refine (fun (hz : Within [.regs, .agg, .mil, .ports, .out, .fresh] s z) => ?_) ?_; rotate_left; dsimp only [z]; rotate_left; clear_value z)
    | (intro z; clear_value z)
    | lift_lets -underBinder
    | split

theorem State.pathDown_within (s : State) (a1 : Nat) (a2 : Nat) : Within [.regs, .agg, .tree, .ports] s (State.pathDown s a1 a2) := by
  unfold State.pathDown
  repeat' first
    | with_reducible exact Within.refl _ _
    | with_reducible assumption
    | exact (rfl : _ = true)
    | (with_reducible apply Within.via (State.fset_within ..))
    | (with_reducible apply Within.via (State.fadd_within ..))
    | (with_reducible apply Within.via (State.irq_within ..))
    | (with_reducible apply Within.via (State.childLeaves_within ..))
    | (with_reducible apply Within.via (State.setSkj_within ..))
    | (intro z; refine (fun (hz : Within [.regs, .agg, .tree, .ports] s z) => ?_) ?_; rotate_left; dsimp only [z]; rotate_left; clear_value z)
    | (intro z; clear_value z)
    | lift_lets -underBinder
    | split

theorem State.skjReceive_within (s : State) (a1 : Nat) (a2 : Nat) (a3 : SkFrame) (a4 : Bool) (a5 : Bool) : Within [.regs, .agg, .mil, .tree, .ports, .out, .fresh] s (State.skjReceive s a1 a2 a3 a4 a5) := by
  unfold State.skjReceive
  dsimp only
  repeat' first
    | with_reducible exact Within.refl _ _
    | with_reducible assumption
    | exact (rfl : _ = true)
    | (with_reducible apply Within.via (State.finc_within ..))
    | (with_reducible apply Within.via (State.setSkj_within ..))
    | (with_reducible apply Within.via (State.skjControl_within ..))
    | (with_reducible apply Within.via (State.resend_within ..))
    | (with_reducible apply Within.via (State.releaseOld_within ..))
    | (with_reducible apply Within.via (State.skjData_within ..))
    | (with_reducible apply Within.via (State.pathDown_within ..))
    | with_reducible apply Within.foldl
    | refine (fun (s : State) x => ?_)
    | (intro z; refine (fun (hz : Within [.regs, .agg, .mil, .tree, .ports, .out, .fresh] s z) => ?_) ?_; rotate_left; dsimp only [z]; rotate_left; clear_value z)
    | (intro z; clear_value z)
    | lift_lets -underBinder
    | split

theorem State.unitRsp_within (s : State) (a1 : Nat) (a2 : Nat) : Within [.regs, .agg, .mil, .ports, .fresh] s (State.unitRsp s a1 a2) := by
  unfold State.unitRsp
  repeat' first
    | with_reducible exact Within.refl _ _
    | with_reducible assumption
    | exact (rfl : _ = true)
    | (with_reducible apply Within.via (State.finc_within ..))
    | (with_reducible apply Within.via (State.setPorts_within ..))
    | (with_reducible apply Within.via (State.pump_within ..))
    | (intro z; refine (fun (hz : Within [.regs, .agg, .mil, .ports, .fresh] s z) => ?_) ?_; rotate_left; dsimp only [z]; rotate_left; clear_value z)
    | (intro z; clear_value z)
    | lift_lets -underBinder
    | split

theorem State.pathStart_within (s : State) (a1 : Nat) (a2 : Nat) : Within [.ports] s (State.pathStart s a1 a2) := by
  unfold State.pathStart
  repeat' first
    | with_reducible exact Within.refl _ _
    | with_reducible assumption
    | exact (rfl : _ = true)
    | (with_reducible apply Within.via (State.setSkj_within ..))
    | (intro z; refine (fun (hz : Within [.ports] s z) => ?_) ?_; rotate_left; dsimp only [z]; rotate_left; clear_value z)
    | (intro z; clear_value z)
    | lift_lets -underBinder
    | split

theorem State.handshakeEnd_within (s : State) (a1 : Nat) (a2 : Nat) (a3 : Bool) : Within [.regs, .agg, .tree, .ports] s (State.handshakeEnd s a1 a2 a3) := by
  unfold State.handshakeEnd
  repeat' first
    | with_reducible exact Within.refl _ _
    | with_reducible assumption
    | exact (rfl : _ = true)
    | (with_reducible apply Within.via (State.fset_within ..))
    | (with_reducible apply Within.via (State.irq_within ..))
    | (with_reducible apply Within.via (State.setSkj_within ..))
    | (with_reducible apply Within.via (State.pathDown_within ..))
    | (intro z; refine (fun (hz : Within [.regs, .agg, .tree, .ports] s z) => ?_) ?_; rotate_left; dsimp only [z]; rotate_left; clear_value z)
    | (intro z; clear_value z)
    | lift_lets -underBinder
    | split

theorem State.bindLink_within (s : State) (a1 : Nat) (a2 : Nat) : Within [.regs, .agg, .ports, .out] s (State.bindLink s a1 a2) := by
  unfold State.bindLink
  repeat' first
    | with_reducible exact Within.refl _ _
    | with_reducible assumption
    | exact (rfl : _ = true)
    | (with_reducible apply Within.via (State.fset_within ..))
    | (with_reducible apply Within.via (State.emit_within ..))
    | (with_reducible apply Within.via (State.setSkj_within ..))
    | (intro z; refine (fun (hz : Within [.regs, .agg, .ports, .out] s z) => ?_) ?_; rotate_left; dsimp only [z]; rotate_left; clear_value z)
    | (intro z; clear_value z)
    | lift_lets -underBinder

theorem State.checkMatch_within (s : State) (a1 : Nat) : Within [.regs, .agg, .ports] s (State.checkMatch s a1) := by
  unfold State.checkMatch
  repeat' first
    | with_reducible exact Within.refl _ _
    | with_reducible assumption
    | exact (rfl : _ = true)
    | (with_reducible apply Within.via (State.fset_within ..))
    | (with_reducible apply Within.via (State.irq_within ..))
    | (with_reducible apply Within.via (State.setSkj_within ..))
    | (with_reducible apply Within.via (State.releaseOld_within ..))
    | (intro z; refine (fun (hz : Within [.regs, .agg, .ports] s z) => ?_) ?_; rotate_left; dsimp only [z]; rotate_left; clear_value z)
    | (intro z; clear_value z)
    | lift_lets -underBinder
    | split

theorem State.ethLinkDown_within (s : State) (a1 : Nat) : Within [.regs, .agg, .tree, .ports] s (State.ethLinkDown s a1) := by
  unfold State.ethLinkDown
  repeat' first
    | with_reducible exact Within.refl _ _
    | exact (rfl : _ = true)
    | (with_reducible apply Within.via (State.fset_within ..))
    | (with_reducible apply Within.via (State.irq_within ..))
    | (with_reducible apply Within.via (State.pathDown_within ..))
    | split

theorem State.ethCheck_within (s : State) (a1 : Nat) : Within [.regs, .agg, .tree, .ports] s (State.ethCheck s a1) := by
  unfold State.ethCheck
  repeat' first
    | with_reducible exact Within.refl _ _
    | exact (rfl : _ = true)
    | (with_reducible apply Within.via (State.fset_within ..))
    | (with_reducible apply Within.via (State.ethLinkDown_within ..))
    | split

theorem State.ethCfgWrite_within (s : State) (a1 : Nat) (a2 : Nat) : Within [.regs, .agg, .tree, .ports] s (State.ethCfgWrite s a1 a2) := by
  unfold State.ethCfgWrite
  repeat' first
    | with_reducible exact Within.refl _ _
    | with_reducible assumption
    | exact (rfl : _ = true)
    | (with_reducible apply Within.via (State.wr32_within ..))
    | (with_reducible apply Within.via (State.ethLinkDown_within ..))
    | (with_reducible apply Within.via (State.ethCheck_within ..))
    | (intro z; refine (fun (hz : Within [.regs, .agg, .tree, .ports] s z) => ?_) ?_; rotate_left; dsimp only [z]; rotate_left; clear_value z)
    | (intro z; clear_value z)
    | lift_lets -underBinder
    | split

theorem State.skjUdpWrite_within (s : State) (a1 : Nat) (a2 : Nat) : Within [.regs, .agg, .tree, .ports] s (State.skjUdpWrite s a1 a2) := by
  unfold State.skjUdpWrite
  repeat' first
    | with_reducible exact Within.refl _ _
    | with_reducible assumption
    | exact (rfl : _ = true)
    | (with_reducible apply Within.via (State.wr32_within ..))
    | (with_reducible apply Within.via (State.pathDown_within ..))
    | (intro z; refine (fun (hz : Within [.regs, .agg, .tree, .ports] s z) => ?_) ?_; rotate_left; dsimp only [z]; rotate_left; clear_value z)
    | (intro z; clear_value z)
    | lift_lets -underBinder
    | split

theorem State.linkUp_within (s : State) (a1 : LinkEvent) : Within [.regs, .agg, .tree, .ports, .out] s (State.linkUp s a1) := by
  unfold State.linkUp
  repeat' first
    | with_reducible exact Within.refl _ _
    | with_reducible assumption
    | exact (rfl : _ = true)
    | (with_reducible apply Within.via (State.fset_within ..))
    | (with_reducible apply Within.via (State.irq_within ..))
    | (with_reducible apply Within.via (State.emit_within ..))
    | (with_reducible apply Within.via (State.setPorts_within ..))
    | (with_reducible apply Within.via (State.pcieLinkUp_within ..))
    | (with_reducible apply Within.via (State.pathStart_within ..))
    | (with_reducible apply Within.via (State.ethCheck_within ..))
    | with_reducible apply Within.foldl
    | refine (fun (s : State) x => ?_)
    | (intro z; refine (fun (hz : Within [.regs, .agg, .tree, .ports, .out] s z) => ?_) ?_; rotate_left; dsimp only [z]; rotate_left; clear_value z)
    | (intro z; clear_value z)
    | lift_lets -underBinder
    | split

theorem State.linkDown_within (s : State) (a1 : LinkName) : Within [.regs, .agg, .eddies, .mil, .mem, .tree, .tol, .dbg, .ports, .fresh] s (State.linkDown s a1) := by
  unfold State.linkDown
  repeat' first
    | with_reducible exact Within.refl _ _
    | exact (rfl : _ = true)
    | (with_reducible apply Within.via (State.pcieLinkDown_within ..))
    | (with_reducible apply Within.via (State.pathDown_within ..))
    | (with_reducible apply Within.via (State.ethLinkDown_within ..))
    | split

theorem State.portsForget_within (s : State) (a1 : Nat) : Within [.regs, .agg, .ports] s (State.portsForget s a1) := by
  unfold State.portsForget
  repeat' first
    | with_reducible exact Within.refl _ _
    | with_reducible assumption
    | exact (rfl : _ = true)
    | (with_reducible apply Within.via (State.fset_within ..))
    | (with_reducible apply Within.via (State.setPcie_within ..))
    | with_reducible apply Within.foldl
    | refine (fun (s : State) x => ?_)
    | (intro z; refine (fun (hz : Within [.regs, .agg, .ports] s z) => ?_) ?_; rotate_left; dsimp only [z]; rotate_left; clear_value z)
    | (intro z; clear_value z)
    | lift_lets -underBinder
    | split

theorem State.serve_within (s : State) (a1 : Nat) (a2 : Nat) (a3 : Nat) (a4 : List (Nat × LineFault)) (a5 : PcieEnv) : Within [.regs, .agg, .mil, .mem, .tally, .tol, .lanes, .ports, .out, .fresh] s (State.serve s a1 a2 a3 a4 a5) := by
  unfold State.serve
  repeat' first
    | with_reducible exact Within.refl _ _
    | with_reducible assumption
    | exact (rfl : _ = true)
    | (with_reducible apply Within.via (State.answer_within ..))
    | (with_reducible apply Within.via (State.memRequest_within ..))
    | (with_reducible apply Within.via (State.bridgeTake_within ..))
    | (with_reducible apply Within.via (State.pcieRequest_within ..))
    | (with_reducible apply Within.via (State.ethTake_within ..))
    | (with_reducible apply Within.via (State.skjTake_within ..))
    | (intro z; refine (fun (hz : Within [.regs, .agg, .mil, .mem, .tally, .tol, .lanes, .ports, .out, .fresh] s z) => ?_) ?_; rotate_left; dsimp only [z]; rotate_left; clear_value z)
    | (intro z; clear_value z)
    | lift_lets -underBinder
    | split

theorem State.takeRsp_within (s : State) (a1 : Nat) (a2 : Nat) : Within [.regs, .agg, .eddies, .mil, .lanes, .ports, .out, .fresh] s (State.takeRsp s a1 a2) := by
  unfold State.takeRsp
  repeat' first
    | with_reducible exact Within.refl _ _
    | with_reducible assumption
    | exact (rfl : _ = true)
    | (with_reducible apply Within.via (State.killPkt_within ..))
    | (with_reducible apply Within.via (State.trackRsp_within ..))
    | (with_reducible apply Within.via (State.engineRsp_within ..))
    | (with_reducible apply Within.via (State.bridgeRsp_within ..))
    | (with_reducible apply Within.via (State.hostRsp_within ..))
    | (with_reducible apply Within.via (State.unitRsp_within ..))
    | (intro z; refine (fun (hz : Within [.regs, .agg, .eddies, .mil, .lanes, .ports, .out, .fresh] s z) => ?_) ?_; rotate_left; dsimp only [z]; rotate_left; clear_value z)
    | (intro z; clear_value z)
    | lift_lets -underBinder
    | split

end Sys2Proof.Machine
end

