-- ==== Sys2Proof/Laws/WithinD2D.lean ====
section
/-! SUPPORT. Which parts of the state each operation of Machine/D2D.lean touches. -/

namespace Sys2Proof.Machine

theorem State.setWeir_within (s : State) (a1 : Nat) (a2 : Nat) (a3 : Weir) : Within [.d2d] s (State.setWeir s a1 a2 a3) := by
  unfold State.setWeir
  repeat' first
    | with_reducible exact Within.refl _ _
    | exact (rfl : _ = true)
    | (with_reducible apply Within.via (State.setD2d_within ..))

theorem State.settleShadow_within (s : State) (a1 : Nat) (a2 : Nat) : Within [.d2d] s (State.settleShadow s a1 a2) := by
  unfold State.settleShadow
  repeat' first
    | with_reducible exact Within.refl _ _
    | with_reducible assumption
    | exact (rfl : _ = true)
    | (with_reducible apply Within.via (State.setWeir_within ..))
    | (intro z; refine (fun (hz : Within [.d2d] s z) => ?_) ?_; rotate_left; dsimp only [z]; rotate_left; clear_value z)
    | (intro z; clear_value z)
    | lift_lets -underBinder
    | split

theorem State.bundleShow_within (s : State) (a1 : Nat) (a2 : Nat) : Within [.regs, .agg] s (State.bundleShow s a1 a2) := by
  unfold State.bundleShow
  repeat' first
    | with_reducible exact Within.refl _ _
    | with_reducible assumption
    | exact (rfl : _ = true)
    | (with_reducible apply Within.via (State.fset_within ..))
    | (with_reducible apply Within.via (State.irq_within ..))
    | with_reducible apply Within.foldl
    | refine (fun (s : State) x => ?_)
    | (intro z; refine (fun (hz : Within [.regs, .agg] s z) => ?_) ?_; rotate_left; dsimp only [z]; rotate_left; clear_value z)
    | (intro z; clear_value z)
    | lift_lets -underBinder
    | split

theorem State.repairNote_within (s : State) (a1 : Nat) (a2 : Nat) (a3 : Nat) (a4 : Nat) : Within [.d2d] s (State.repairNote s a1 a2 a3 a4) := by
  unfold State.repairNote
  repeat' first
    | with_reducible exact Within.refl _ _
    | exact (rfl : _ = true)
    | (with_reducible apply Within.via (State.setD2d_within ..))
    | split

theorem State.repairFuse_within (s : State) : Within [.regs, .agg, .tol, .d2d] s (State.repairFuse s) := by
  unfold State.repairFuse
  repeat' first
    | with_reducible exact Within.refl _ _
    | with_reducible assumption
    | exact (rfl : _ = true)
    | (with_reducible apply Within.via (State.fset_within ..))
    | (with_reducible apply Within.via (State.finc_within ..))
    | (with_reducible apply Within.via (State.irq_within ..))
    | (with_reducible apply Within.via (State.logEvent_within ..))
    | (with_reducible apply Within.via (State.setD2d_within ..))
    | (intro z; refine (fun (hz : Within [.regs, .agg, .tol, .d2d] s z) => ?_) ?_; rotate_left; dsimp only [z]; rotate_left; clear_value z)
    | (intro z; clear_value z)
    | lift_lets -underBinder
    | split

theorem State.fuseAll_within (s : State) : Within [.regs, .agg, .tol, .d2d] s (State.fuseAll s) := by
  unfold State.fuseAll
  repeat' first
    | with_reducible exact Within.refl _ _
    | exact (rfl : _ = true)
    | (with_reducible apply Within.via (State.repairFuse_within ..))
    | with_reducible apply Within.foldl
    | refine (fun (s : State) x => ?_)

theorem State.bundlesCut_within (s : State) (a1 : Nat) : Within [.regs, .agg, .d2d] s (State.bundlesCut s a1) := by
  unfold State.bundlesCut
  repeat' first
    | with_reducible exact Within.refl _ _
    | with_reducible assumption
    | exact (rfl : _ = true)
    | (with_reducible apply Within.via (State.setWeir_within ..))
    | (with_reducible apply Within.via (State.bundleShow_within ..))
    | with_reducible apply Within.foldl
    | refine (fun (s : State) x => ?_)
    | (intro z; refine (fun (hz : Within [.regs, .agg, .d2d] s z) => ?_) ?_; rotate_left; dsimp only [z]; rotate_left; clear_value z)
    | (intro z; clear_value z)
    | lift_lets -underBinder

theorem State.yardCut_within (s : State) (a1 : Nat) : Within [.regs, .agg, .fab, .mil, .tally, .d2d, .out, .fresh] s (State.yardCut s a1) := by
  unfold State.yardCut
  repeat' first
    | with_reducible exact Within.refl _ _
    | with_reducible assumption
    | exact (rfl : _ = true)
    | (with_reducible apply Within.via (State.markUnreach_within ..))
    | (with_reducible apply Within.via (State.leavesQuarantined_within ..))
    | (with_reducible apply Within.via (State.bundlesCut_within ..))
    | with_reducible apply Within.foldl
    | refine (fun (s : State) x => ?_)
    | (intro z; refine (fun (hz : Within [.regs, .agg, .fab, .mil, .tally, .d2d, .out, .fresh] s z) => ?_) ?_; rotate_left; dsimp only [z]; rotate_left; clear_value z)
    | (intro z; clear_value z)
    | lift_lets -underBinder
    | with_reducible apply Within.fab

theorem State.moduleDown_within (s : State) (a1 : Nat) (a2 : Nat) : Within [.regs, .agg] s (State.moduleDown s a1 a2) := by
  unfold State.moduleDown
  repeat' first
    | with_reducible exact Within.refl _ _
    | exact (rfl : _ = true)
    | (with_reducible apply Within.via (State.fset_within ..))
    | (with_reducible apply Within.via (State.irq_within ..))
    | split

theorem State.fordCut_within (s : State) (a1 : Nat) : Within [.regs, .agg, .eddies, .mil, .mem, .tree, .tol, .dbg, .ports, .fresh] s (State.fordCut s a1) := by
  unfold State.fordCut
  repeat' first
    | with_reducible exact Within.refl _ _
    | with_reducible assumption
    | exact (rfl : _ = true)
    | (with_reducible apply Within.via (State.setStage_within ..))
    | (with_reducible apply Within.via (State.linkDown_within ..))
    | (with_reducible apply Within.via (State.moduleDown_within ..))
    | with_reducible apply Within.foldl
    | refine (fun (s : State) x => ?_)
    | (intro z; refine (fun (hz : Within [.regs, .agg, .eddies, .mil, .mem, .tree, .tol, .dbg, .ports, .fresh] s z) => ?_) ?_; rotate_left; dsimp only [z]; rotate_left; clear_value z)
    | (intro z; clear_value z)
    | lift_lets -underBinder

theorem State.quarantine_within (s : State) (a1 : Nat) (a2 : Nat) : Within [.regs, .agg, .fab, .eddies, .mil, .mem, .stalls, .tally, .tree, .tol, .lanes, .dbg, .d2d, .ports, .out, .fresh] s (State.quarantine s a1 a2) := by
  unfold State.quarantine
  repeat' first
    | with_reducible exact Within.refl _ _
    | with_reducible assumption
    | exact (rfl : _ = true)
    | (with_reducible apply Within.via (State.fset_within ..))
    | (with_reducible apply Within.via (State.finc_within ..))
    | (with_reducible apply Within.via (State.irq_within ..))
    | (with_reducible apply Within.via (State.logEvent_within ..))
    | (with_reducible apply Within.via (State.endJobs_within ..))
    | (with_reducible apply Within.via (State.wake_within ..))
    | (with_reducible apply Within.via (State.dieLost_within ..))
    | (with_reducible apply Within.via (State.yardCut_within ..))
    | (with_reducible apply Within.via (State.fordCut_within ..))
    | with_reducible apply Within.foldl
    | refine (fun (s : State) x => ?_)
    | (intro z; refine (fun (hz : Within [.regs, .agg, .fab, .eddies, .mil, .mem, .stalls, .tally, .tree, .tol, .lanes, .dbg, .d2d, .ports, .out, .fresh] s z) => ?_) ?_; rotate_left; dsimp only [z]; rotate_left; clear_value z)
    | (intro z; clear_value z)
    | lift_lets -underBinder
    | split

theorem State.portFault_within (s : State) (a1 : Nat) : Within [.regs, .agg, .eddies, .mil, .stalls, .tol, .lanes, .dbg, .out, .fresh] s (State.portFault s a1) := by
  unfold State.portFault
  repeat' first
    | with_reducible exact Within.refl _ _
    | with_reducible assumption
    | exact (rfl : _ = true)
    | (with_reducible apply Within.via (State.raiseFault_within ..))
    | with_reducible apply Within.foldl
    | refine (fun (s : State) x => ?_)
    | (intro z; refine (fun (hz : Within [.regs, .agg, .eddies, .mil, .stalls, .tol, .lanes, .dbg, .out, .fresh] s z) => ?_) ?_; rotate_left; dsimp only [z]; rotate_left; clear_value z)
    | (intro z; clear_value z)
    | lift_lets -underBinder
    | split

theorem State.tribRetired_within (s : State) (a1 : Nat) : Within [.regs, .agg, .fab, .eddies, .mil, .stalls, .tol, .lanes, .dbg, .out, .fresh] s (State.tribRetired s a1) := by
  unfold State.tribRetired
  repeat' first
    | with_reducible exact Within.refl _ _
    | with_reducible assumption
    | exact (rfl : _ = true)
    | (with_reducible apply Within.via (State.setBit_within ..))
    | (with_reducible apply Within.via (State.setPlaneState_within ..))
    | (with_reducible apply Within.via (State.shedFault_within ..))
    | (intro z; refine (fun (hz : Within [.regs, .agg, .fab, .eddies, .mil, .stalls, .tol, .lanes, .dbg, .out, .fresh] s z) => ?_) ?_; rotate_left; dsimp only [z]; rotate_left; clear_value z)
    | (intro z; clear_value z)
    | lift_lets -underBinder
    | split
    | with_reducible apply Within.fab

theorem State.retireOne_within (s : State) (a1 : Nat) : Within [.regs, .agg, .tol, .d2d] s (State.retireOne s a1) := by
  unfold State.retireOne
  repeat' first
    | with_reducible exact Within.refl _ _
    | with_reducible assumption
    | exact (rfl : _ = true)
    | (with_reducible apply Within.via (State.logEvent_within ..))
    | (with_reducible apply Within.via (State.setWeir_within ..))
    | (with_reducible apply Within.via (State.bundleShow_within ..))
    | (with_reducible apply Within.via (State.repairNote_within ..))
    | with_reducible apply Within.foldl
    | refine (fun (s : State) x => ?_)
    | (intro z; refine (fun (hz : Within [.regs, .agg, .tol, .d2d] s z) => ?_) ?_; rotate_left; dsimp only [z]; rotate_left; clear_value z)
    | (intro z; clear_value z)
    | lift_lets -underBinder

theorem State.agentMoves_within (s : State) (a1 : Nat) (a2 : Nat) : Within [.regs, .agg, .fab, .eddies, .mil, .mem, .stalls, .tally, .tree, .tol, .lanes, .dbg, .d2d, .ports, .out, .fresh] s (State.agentMoves s a1 a2) := by
  unfold State.agentMoves
  repeat' first
    | with_reducible exact Within.refl _ _
    | with_reducible assumption
    | exact (rfl : _ = true)
    | (with_reducible apply Within.via (State.logEvent_within ..))
    | (with_reducible apply Within.via (State.quarantine_within ..))
    | (intro z; refine (fun (hz : Within [.regs, .agg, .fab, .eddies, .mil, .mem, .stalls, .tally, .tree, .tol, .lanes, .dbg, .d2d, .ports, .out, .fresh] s z) => ?_) ?_; rotate_left; dsimp only [z]; rotate_left; clear_value z)
    | (intro z; clear_value z)
    | lift_lets -underBinder
    | split

theorem State.retire_within (s : State) (a1 : Nat) : Within [.regs, .agg, .fab, .eddies, .mil, .mem, .stalls, .tally, .tree, .tol, .lanes, .dbg, .d2d, .ports, .out, .fresh] s (State.retire s a1) := by
  unfold State.retire
  repeat' first
    | with_reducible exact Within.refl _ _
    | with_reducible assumption
    | exact (rfl : _ = true)
    | (with_reducible apply Within.via (State.markUnreach_within ..))
    | (with_reducible apply Within.via (State.portFault_within ..))
    | (with_reducible apply Within.via (State.tribRetired_within ..))
    | (with_reducible apply Within.via (State.retireOne_within ..))
    | (with_reducible apply Within.via (State.agentMoves_within ..))
    | (intro z; refine (fun (hz : Within [.regs, .agg, .fab, .eddies, .mil, .mem, .stalls, .tally, .tree, .tol, .lanes, .dbg, .d2d, .ports, .out, .fresh] s z) => ?_) ?_; rotate_left; dsimp only [z]; rotate_left; clear_value z)
    | (intro z; clear_value z)
    | lift_lets -underBinder
    | split

theorem State.clocksLost_within (s : State) (a1 : Nat) (a2 : Nat) : Within [.regs, .agg, .fab, .eddies, .mil, .mem, .stalls, .tally, .tree, .tol, .lanes, .dbg, .d2d, .ports, .out, .fresh] s (State.clocksLost s a1 a2) := by
  unfold State.clocksLost
  repeat' first
    | with_reducible exact Within.refl _ _
    | with_reducible assumption
    | exact (rfl : _ = true)
    | (with_reducible apply Within.via (State.fset_within ..))
    | (with_reducible apply Within.via (State.retire_within ..))
    | (intro z; refine (fun (hz : Within [.regs, .agg, .fab, .eddies, .mil, .mem, .stalls, .tally, .tree, .tol, .lanes, .dbg, .d2d, .ports, .out, .fresh] s z) => ?_) ?_; rotate_left; dsimp only [z]; rotate_left; clear_value z)
    | (intro z; clear_value z)
    | lift_lets -underBinder
    | split

theorem State.failLane_within (s : State) (a1 : Nat) (a2 : Nat) (a3 : Nat) : Within [.regs, .agg, .d2d] s (State.failLane s a1 a2 a3) := by
  unfold State.failLane
  repeat' first
    | with_reducible exact Within.refl _ _
    | with_reducible assumption
    | exact (rfl : _ = true)
    | (with_reducible apply Within.via (State.fset_within ..))
    | (with_reducible apply Within.via (State.setBit_within ..))
    | (with_reducible apply Within.via (State.repairNote_within ..))
    | (intro z; refine (fun (hz : Within [.regs, .agg, .d2d] s z) => ?_) ?_; rotate_left; dsimp only [z]; rotate_left; clear_value z)
    | (intro z; clear_value z)
    | lift_lets -underBinder
    | split

theorem State.mapSpares_within (s : State) (a1 : Nat) (a2 : Nat) : Within [.regs, .agg] s (State.mapSpares s a1 a2) := by
  unfold State.mapSpares
  repeat' first
    | with_reducible exact Within.refl _ _
    | exact (rfl : _ = true)
    | (with_reducible apply Within.via (State.fset_within ..))
    | with_reducible apply Within.foldl
    | refine (fun (s : State) x => ?_)

theorem State.enterNarrow_within (s : State) (a1 : Nat) (a2 : Nat) : Within [.regs, .agg, .eddies, .mil, .stalls, .tol, .lanes, .dbg, .d2d, .out, .fresh] s (State.enterNarrow s a1 a2) := by
  unfold State.enterNarrow
  repeat' first
    | with_reducible exact Within.refl _ _
    | with_reducible assumption
    | exact (rfl : _ = true)
    | (with_reducible apply Within.via (State.logEvent_within ..))
    | (with_reducible apply Within.via (State.tribNarrow_within ..))
    | (with_reducible apply Within.via (State.setWeir_within ..))
    | (with_reducible apply Within.via (State.settleShadow_within ..))
    | (with_reducible apply Within.via (State.bundleShow_within ..))
    | (with_reducible apply Within.via (State.repairNote_within ..))
    | (intro z; refine (fun (hz : Within [.regs, .agg, .eddies, .mil, .stalls, .tol, .lanes, .dbg, .d2d, .out, .fresh] s z) => ?_) ?_; rotate_left; dsimp only [z]; rotate_left; clear_value z)
    | (intro z; clear_value z)
    | lift_lets -underBinder
    | split

theorem State.lanesFail_within (s : State) (a1 : Nat) (a2 : Nat) (a3 : List Nat) : Within [.regs, .agg, .fab, .eddies, .mil, .mem, .stalls, .tally, .tree, .tol, .lanes, .dbg, .d2d, .ports, .out, .fresh] s (State.lanesFail s a1 a2 a3) := by
  unfold State.lanesFail
  repeat' first
    | with_reducible exact Within.refl _ _
    | with_reducible assumption
    | exact (rfl : _ = true)
    | (with_reducible apply Within.via (State.irq_within ..))
    | (with_reducible apply Within.via (State.logEvent_within ..))
    | (with_reducible apply Within.via (State.settleShadow_within ..))
    | (with_reducible apply Within.via (State.bundleShow_within ..))
    | (with_reducible apply Within.via (State.retire_within ..))
    | (with_reducible apply Within.via (State.failLane_within ..))
    | (with_reducible apply Within.via (State.mapSpares_within ..))
    | (with_reducible apply Within.via (State.enterNarrow_within ..))
    | with_reducible apply Within.foldl
    | refine (fun (s : State) x => ?_)
    | (intro z; refine (fun (hz : Within [.regs, .agg, .fab, .eddies, .mil, .mem, .stalls, .tally, .tree, .tol, .lanes, .dbg, .d2d, .ports, .out, .fresh] s z) => ?_) ?_; rotate_left; dsimp only [z]; rotate_left; clear_value z)
    | (intro z; clear_value z)
    | lift_lets -underBinder
    | split

theorem State.lchkReq_within (s : State) (a1 : Nat) (a2 : Nat) (a3 : Nat) : Within [.d2d] s (State.lchkReq s a1 a2 a3) := by
  unfold State.lchkReq
  repeat' first
    | with_reducible exact Within.refl _ _
    | exact (rfl : _ = true)
    | (with_reducible apply Within.via (State.setWeir_within ..))
    | split

theorem State.laneCheckEnd_within (s : State) (a1 : Nat) (a2 : Nat) (a3 : List (Nat × Nat)) (a4 : Bool) : Within [.regs, .agg, .fab, .eddies, .mil, .mem, .stalls, .tally, .tree, .tol, .lanes, .dbg, .d2d, .ports, .out, .fresh] s (State.laneCheckEnd s a1 a2 a3 a4) := by
  unfold State.laneCheckEnd
  repeat' first
    | with_reducible exact Within.refl _ _
    | with_reducible assumption
    | exact (rfl : _ = true)
    | (with_reducible apply Within.via (State.finc_within ..))
    | (with_reducible apply Within.via (State.tribLost_within ..))
    | (with_reducible apply Within.via (State.setWeir_within ..))
    | (with_reducible apply Within.via (State.retire_within ..))
    | (with_reducible apply Within.via (State.lanesFail_within ..))
    | (intro z; refine (fun (hz : Within [.regs, .agg, .fab, .eddies, .mil, .mem, .stalls, .tally, .tree, .tol, .lanes, .dbg, .d2d, .ports, .out, .fresh] s z) => ?_) ?_; rotate_left; dsimp only [z]; rotate_left; clear_value z)
    | (intro z; clear_value z)
    | lift_lets -underBinder
    | split

theorem State.shadowAdvance_within (s : State) (a1 : Nat) (a2 : Nat) : Within [.regs, .agg, .d2d] s (State.shadowAdvance s a1 a2) := by
  unfold State.shadowAdvance
  repeat' first
    | with_reducible exact Within.refl _ _
    | with_reducible assumption
    | exact (rfl : _ = true)
    | (with_reducible apply Within.via (State.setWeir_within ..))
    | (with_reducible apply Within.via (State.bundleShow_within ..))
    | (intro z; refine (fun (hz : Within [.regs, .agg, .d2d] s z) => ?_) ?_; rotate_left; dsimp only [z]; rotate_left; clear_value z)
    | (intro z; clear_value z)
    | lift_lets -underBinder
    | split

theorem State.shadowFix_within (s : State) (a1 : Nat) (a2 : Nat) : Within [.regs, .agg, .fab, .eddies, .mil, .mem, .stalls, .tally, .tree, .tol, .lanes, .dbg, .d2d, .ports, .out, .fresh] s (State.shadowFix s a1 a2) := by
  unfold State.shadowFix
  repeat' first
    | with_reducible exact Within.refl _ _
    | exact (rfl : _ = true)
    | (with_reducible apply Within.via (State.finc_within ..))
    | (with_reducible apply Within.via (State.lanesFail_within ..))
    | split

theorem State.weirMilFlit_within (s : State) (a1 : Nat) (a2 : Nat) (a3 : Nat) (a4 : Nat) (a5 : Nat) (a6 : Option Nat) : Within [.regs, .agg, .fab, .eddies, .mil, .mem, .stalls, .tally, .tree, .tol, .lanes, .dbg, .d2d, .ports, .out, .fresh] s (State.weirMilFlit s a1 a2 a3 a4 a5 a6) := by
  unfold State.weirMilFlit
  repeat' first
    | with_reducible exact Within.refl _ _
    | with_reducible assumption
    | exact (rfl : _ = true)
    | (with_reducible apply Within.via (State.finc_within ..))
    | (with_reducible apply Within.via (State.setWeir_within ..))
    | (with_reducible apply Within.via (State.shadowFix_within ..))
    | with_reducible apply Within.foldl
    | with_reducible apply Within.foldlFst
    | with_reducible apply Within.foldlSnd
    | refine (fun (z : State × _) x hz => ?_)
    | refine (fun (z : _ × State) x hz => ?_)
    | refine (fun (z : State) (l : Loc) (d : List Nat) hz => ?_)
    | refine (fun (s : State) x => ?_)
    | (intro z; refine (fun (hz : Within [.regs, .agg, .fab, .eddies, .mil, .mem, .stalls, .tally, .tree, .tol, .lanes, .dbg, .d2d, .ports, .out, .fresh] s z) => ?_) ?_; rotate_left; dsimp only [z]; rotate_left; clear_value z)
    | (intro z; refine (fun (hz : Within [.regs, .agg, .fab, .eddies, .mil, .mem, .stalls, .tally, .tree, .tol, .lanes, .dbg, .d2d, .ports, .out, .fresh] s z.1) => ?_) ?_; rotate_left; dsimp only [z]; rotate_left; clear_value z)
    | (intro z; refine (fun (hz : Within [.regs, .agg, .fab, .eddies, .mil, .mem, .stalls, .tally, .tree, .tol, .lanes, .dbg, .d2d, .ports, .out, .fresh] s z.2) => ?_) ?_; rotate_left; dsimp only [z]; rotate_left; clear_value z)
    | (intro z; have _h : State → _ := z; clear _h; dsimp -zeta only [z]; clear z)
    | (intro z; have _h : State × _ → _ := z; clear _h; dsimp -zeta only [z]; clear z)
    | (intro z; clear_value z)
    | (intro z; dsimp -zeta only [z]; clear z)
    | lift_lets -underBinder
    | split

theorem State.weirTribFlit_within (s : State) (a1 : Nat) (a2 : Nat) (a3 : Nat) (a4 : Option Nat) : Within [.regs, .agg, .fab, .eddies, .mil, .mem, .stalls, .tally, .tree, .tol, .lanes, .dbg, .d2d, .ports, .out, .fresh] s (State.weirTribFlit s a1 a2 a3 a4) := by
  unfold State.weirTribFlit
  repeat' first
    | with_reducible exact Within.refl _ _
    | with_reducible assumption
    | exact (rfl : _ = true)
    | (with_reducible apply Within.via (State.finc_within ..))
    | (with_reducible apply Within.via (State.tribLost_within ..))
    | (with_reducible apply Within.via (State.setWeir_within ..))
    | (with_reducible apply Within.via (State.shadowFix_within ..))
    | (intro z; refine (fun (hz : Within [.regs, .agg, .fab, .eddies, .mil, .mem, .stalls, .tally, .tree, .tol, .lanes, .dbg, .d2d, .ports, .out, .fresh] s z) => ?_) ?_; rotate_left; dsimp only [z]; rotate_left; clear_value z)
    | (intro z; clear_value z)
    | lift_lets -underBinder
    | split
    | with_reducible apply Within.fab

theorem State.trainBundle_within (s : State) (a1 : Nat) (a2 : TrainEnv) : Within [.regs, .agg, .eddies, .mil, .stalls, .tol, .lanes, .dbg, .d2d, .out, .fresh] s (State.trainBundle s a1 a2) := by
  unfold State.trainBundle
  repeat' first
    | with_reducible exact Within.refl _ _
    | with_reducible assumption
    | exact (rfl : _ = true)
    | (with_reducible apply Within.via (State.wr32_within ..))
    | (with_reducible apply Within.via (State.fset_within ..))
    | (with_reducible apply Within.via (State.tribNarrow_within ..))
    | (with_reducible apply Within.via (State.setWeir_within ..))
    | (with_reducible apply Within.via (State.settleShadow_within ..))
    | (with_reducible apply Within.via (State.bundleShow_within ..))
    | (with_reducible apply Within.via (State.repairNote_within ..))
    | (with_reducible apply Within.via (State.failLane_within ..))
    | (with_reducible apply Within.via (State.mapSpares_within ..))
    | with_reducible apply Within.foldl
    | refine (fun (s : State) x => ?_)
    | (intro z; refine (fun (hz : Within [.regs, .agg, .eddies, .mil, .stalls, .tol, .lanes, .dbg, .d2d, .out, .fresh] s z) => ?_) ?_; rotate_left; dsimp only [z]; rotate_left; clear_value z)
    | (intro z; clear_value z)
    | lift_lets -underBinder
    | split

theorem State.trainYard_within (s : State) (y : Nat) (env : TrainEnv) : Within [.regs, .agg, .fab, .eddies, .mil, .stalls, .tol, .lanes, .dbg, .d2d, .out, .fresh] s (s.trainYard y env) := by
  unfold State.trainYard
  extract_lets s1 s2 s3
  have h1 : Within [.regs, .agg, .fab, .eddies, .mil, .stalls, .tol, .lanes, .dbg, .d2d, .out, .fresh] s s1 := Within.foldl (fun u x => Within.mono (State.trainBundle_within ..) rfl) (Within.refl _ _)
  have h2 : Within [.regs, .agg, .fab, .eddies, .mil, .stalls, .tol, .lanes, .dbg, .d2d, .out, .fresh] s s2 := by
    refine Within.foldl (fun u x => ?_) h1
    dsimp only
    split
    · exact Within.via (State.repairNote_within ..) rfl (Within.via (State.bundleShow_within ..) rfl
        (Within.via (State.repairNote_within ..) rfl (Within.mono (State.bundleShow_within ..) rfl)))
    · exact Within.refl _ _
  have h3 : Within [.regs, .agg, .fab, .eddies, .mil, .stalls, .tol, .lanes, .dbg, .d2d, .out, .fresh] s s3 := by
    refine Within.foldl (fun u x => ?_) h2
    split
    · exact Within.mono (State.tribRetired_within ..) rfl
    · exact Within.refl _ _
  refine Within.foldl (fun u x => ?_) h3
  split
  · exact Within.mono (State.clearUnreach_within ..) rfl
  · exact Within.mono (State.markUnreach_within ..) rfl

theorem State.moduleUp_within (s : State) (a1 : Nat) (a2 : Nat) (a3 : Nat) : Within [.regs, .agg] s (State.moduleUp s a1 a2 a3) := by
  unfold State.moduleUp
  repeat' first
    | with_reducible exact Within.refl _ _
    | exact (rfl : _ = true)
    | (with_reducible apply Within.via (State.fset_within ..))
    | (with_reducible apply Within.via (State.irq_within ..))

theorem State.moduleFails_within (s : State) (a1 : Nat) (a2 : Nat) (a3 : Nat) : Within [.regs, .agg, .tol, .d2d] s (State.moduleFails s a1 a2 a3) := by
  unfold State.moduleFails
  repeat' first
    | with_reducible exact Within.refl _ _
    | with_reducible assumption
    | exact (rfl : _ = true)
    | (with_reducible apply Within.via (State.logEvent_within ..))
    | (with_reducible apply Within.via (State.setStage_within ..))
    | (with_reducible apply Within.via (State.repairNote_within ..))
    | (with_reducible apply Within.via (State.moduleDown_within ..))
    | with_reducible apply Within.foldl
    | refine (fun (s : State) x => ?_)
    | (intro z; refine (fun (hz : Within [.regs, .agg, .tol, .d2d] s z) => ?_) ?_; rotate_left; dsimp only [z]; rotate_left; clear_value z)
    | (intro z; clear_value z)
    | lift_lets -underBinder

theorem State.ucieModuleFail_within (s : State) (a1 : Nat) (a2 : Nat) : Within [.regs, .agg, .fab, .eddies, .mil, .mem, .stalls, .tally, .tree, .tol, .lanes, .dbg, .d2d, .ports, .out, .fresh] s (State.ucieModuleFail s a1 a2) := by
  unfold State.ucieModuleFail
  repeat' first
    | with_reducible exact Within.refl _ _
    | exact (rfl : _ = true)
    | (with_reducible apply Within.via (State.quarantine_within ..))
    | (with_reducible apply Within.via (State.moduleFails_within ..))
    | split

theorem State.trainFord_within (s : State) (a1 : Nat) (a2 : TrainEnv) : Within [.regs, .agg, .tol, .d2d] s (State.trainFord s a1 a2) := by
  unfold State.trainFord
  repeat' first
    | with_reducible exact Within.refl _ _
    | exact (rfl : _ = true)
    | (with_reducible apply Within.via (State.moduleUp_within ..))
    | (with_reducible apply Within.via (State.moduleFails_within ..))
    | with_reducible apply Within.foldl
    | refine (fun (s : State) x => ?_)
    | split

theorem State.resetYard_within (s : State) (y : Nat) : Within [.regs, .agg, .fab, .eddies, .clk, .pins] s (s.resetYard y) := by
  unfold State.resetYard
  lift_lets -underBinder
  intro owners s1
  have h1 : Within [.regs, .agg, .fab, .eddies, .clk, .pins] s s1 := Within.mono (State.resetHolder_within ..) rfl
  clear_value s1 owners
  intro s2
  have h2 : Within [.regs, .agg, .fab, .eddies, .clk, .pins] s s2 := Within.foldl (fun u x => Within.mono (State.wr32_within ..) rfl) h1
  clear_value s2
  intro ofYard f s3
  have h3 : Within [.regs, .agg, .fab, .eddies, .clk, .pins] s s3 := by
    with_reducible apply Within.fab
    · exact h2
    · rfl
  clear_value s3
  intro s4
  have h4 : Within [.regs, .agg, .fab, .eddies, .clk, .pins] s s4 :=
    Within.foldl (fun u x => Within.via (State.clearDrv_within ..) rfl (Within.mono (State.clearDrv_within ..) rfl)) h3
  clear_value s4
  intro s5
  have h5 : Within [.regs, .agg, .fab, .eddies, .clk, .pins] s s5 :=
    Within.eddiesPins h4 rfl rfl (smWf_smMap _ _ _) (smWf_smClear _ _ _)
  clear_value s5
  exact Within.via (State.setClk_within ..) rfl h5

theorem State.resetFord_within (s : State) (a1 : Nat) : Within [.regs, .lanes] s (State.resetFord s a1) := by
  unfold State.resetFord
  repeat' first
    | with_reducible exact Within.refl _ _
    | with_reducible assumption
    | exact (rfl : _ = true)
    | (with_reducible apply Within.via (State.resetHolder_within ..))
    | (intro z; refine (fun (hz : Within [.regs, .lanes] s z) => ?_) ?_; rotate_left; dsimp only [z]; rotate_left; clear_value z)
    | (intro z; clear_value z)
    | lift_lets -underBinder
    | exact smWf_smMap _ _ _
    | exact smWf_smClear _ _ _
    | with_reducible apply Within.lanes

theorem State.fordRefused_within (s : State) (a1 : Nat) (a2 : Nat) : Within [.regs, .agg, .tol] s (State.fordRefused s a1 a2) := by
  unfold State.fordRefused
  repeat' first
    | with_reducible exact Within.refl _ _
    | exact (rfl : _ = true)
    | (with_reducible apply Within.via (State.wr32_within ..))
    | (with_reducible apply Within.via (State.fset_within ..))
    | (with_reducible apply Within.via (State.logEvent_within ..))

theorem State.readmitYard_within (s : State) (a1 : Nat) (a2 : Nat) (a3 : Nat) (a4 : TrainEnv) : Within [.regs, .agg, .fab, .eddies, .mil, .stalls, .tol, .clk, .pins, .lanes, .dbg, .d2d, .out, .fresh] s (State.readmitYard s a1 a2 a3 a4) := by
  unfold State.readmitYard
  repeat' first
    | with_reducible exact Within.refl _ _
    | with_reducible assumption
    | exact (rfl : _ = true)
    | (with_reducible apply Within.via (State.wr32_within ..))
    | (with_reducible apply Within.via (State.clearUnreach_within ..))
    | (with_reducible apply Within.via (State.fuseAll_within ..))
    | (with_reducible apply Within.via (State.trainYard_within ..))
    | (with_reducible apply Within.via (State.resetYard_within ..))
    | with_reducible apply Within.foldl
    | refine (fun (s : State) x => ?_)
    | (intro z; refine (fun (hz : Within [.regs, .agg, .fab, .eddies, .mil, .stalls, .tol, .clk, .pins, .lanes, .dbg, .d2d, .out, .fresh] s z) => ?_) ?_; rotate_left; dsimp only [z]; rotate_left; clear_value z)
    | (intro z; clear_value z)
    | lift_lets -underBinder

theorem State.readmitFord_within (s : State) (a1 : Nat) (a2 : Nat) (a3 : Nat) (a4 : TrainEnv) : Within [.regs, .agg, .tol, .lanes, .d2d] s (State.readmitFord s a1 a2 a3 a4) := by
  unfold State.readmitFord
  repeat' first
    | with_reducible exact Within.refl _ _
    | with_reducible assumption
    | exact (rfl : _ = true)
    | (with_reducible apply Within.via (State.wr32_within ..))
    | (with_reducible apply Within.via (State.setStage_within ..))
    | (with_reducible apply Within.via (State.fuseAll_within ..))
    | (with_reducible apply Within.via (State.trainFord_within ..))
    | (with_reducible apply Within.via (State.resetFord_within ..))
    | with_reducible apply Within.foldl
    | refine (fun (s : State) x => ?_)
    | (intro z; refine (fun (hz : Within [.regs, .agg, .tol, .lanes, .d2d] s z) => ?_) ?_; rotate_left; dsimp only [z]; rotate_left; clear_value z)
    | (intro z; clear_value z)
    | lift_lets -underBinder
    | split

theorem State.readmit_within (s : State) (a1 : Nat) (a2 : Nat) (a3 : Nat) (a4 : Bool) (a5 : TrainEnv) : Within [.regs, .agg, .fab, .eddies, .mil, .mem, .stalls, .tally, .tree, .tol, .clk, .pins, .lanes, .dbg, .d2d, .ports, .out, .fresh] s (State.readmit s a1 a2 a3 a4 a5) := by
  unfold State.readmit
  repeat' first
    | with_reducible exact Within.refl _ _
    | with_reducible assumption
    | exact (rfl : _ = true)
    | (with_reducible apply Within.via (State.fset_within ..))
    | (with_reducible apply Within.via (State.irq_within ..))
    | (with_reducible apply Within.via (State.logEvent_within ..))
    | (with_reducible apply Within.via (State.quarantine_within ..))
    | (with_reducible apply Within.via (State.fordRefused_within ..))
    | (with_reducible apply Within.via (State.readmitYard_within ..))
    | (with_reducible apply Within.via (State.readmitFord_within ..))
    | (intro z; refine (fun (hz : Within [.regs, .agg, .fab, .eddies, .mil, .mem, .stalls, .tally, .tree, .tol, .clk, .pins, .lanes, .dbg, .d2d, .ports, .out, .fresh] s z) => ?_) ?_; rotate_left; dsimp only [z]; rotate_left; clear_value z)
    | (intro z; clear_value z)
    | lift_lets -underBinder
    | split

theorem State.setTap_within (s : State) (a1 : Nat) (a2 : Tap) : Within [.d2d] s (State.setTap s a1 a2) := by
  unfold State.setTap
  repeat' first
    | with_reducible exact Within.refl _ _
    | exact (rfl : _ = true)
    | (with_reducible apply Within.via (State.setD2d_within ..))

theorem State.tapInstr_within (s : State) (a1 : Nat) (a2 : TapIr) : Within [.d2d] s (State.tapInstr s a1 a2) := by
  unfold State.tapInstr
  repeat' first
    | with_reducible exact Within.refl _ _
    | with_reducible assumption
    | exact (rfl : _ = true)
    | (with_reducible apply Within.via (State.setTap_within ..))
    | (intro z; refine (fun (hz : Within [.d2d] s z) => ?_) ?_; rotate_left; dsimp only [z]; rotate_left; clear_value z)
    | (intro z; clear_value z)
    | lift_lets -underBinder
    | split

theorem State.tapDrive_within (s : State) (a1 : Nat) (a2 : TapIr) : Within [.d2d] s (State.tapDrive s a1 a2) := by
  unfold State.tapDrive
  repeat' first
    | with_reducible exact Within.refl _ _
    | exact (rfl : _ = true)
    | (with_reducible apply Within.via (State.setTap_within ..))
    | (with_reducible apply Within.via (State.tapInstr_within ..))
    | split

theorem State.tapSample_within (s : State) (a1 : Nat) (a2 : Nat) : Within [.d2d] s (State.tapSample s a1 a2) := by
  unfold State.tapSample
  repeat' first
    | with_reducible exact Within.refl _ _
    | with_reducible assumption
    | exact (rfl : _ = true)
    | (with_reducible apply Within.via (State.setTap_within ..))
    | (with_reducible apply Within.via (State.tapInstr_within ..))
    | (intro z; refine (fun (hz : Within [.d2d] s z) => ?_) ?_; rotate_left; dsimp only [z]; rotate_left; clear_value z)
    | (intro z; clear_value z)
    | lift_lets -underBinder
    | split

theorem State.testLogicReset_within (s : State) : Within [.regs, .agg, .eddies, .dbg, .d2d] s (State.testLogicReset s) := by
  unfold State.testLogicReset
  repeat' first
    | with_reducible exact Within.refl _ _
    | exact (rfl : _ = true)
    | (with_reducible apply Within.via (State.endGrant_within ..))
    | (with_reducible apply Within.via (State.setD2d_within ..))

end Sys2Proof.Machine
end

