-- ==== Sys2Proof/Laws/WithinSelfTest.lean ====
section
/-! SUPPORT. Which parts of the state each operation of Machine/SelfTest.lean touches. -/

namespace Sys2Proof.Machine

theorem State.marginNarrow_within (s : State) (a1 : Nat) : Within [.regs, .agg, .eddies, .mil, .stalls, .tol, .lanes, .dbg, .d2d, .out, .fresh] s (State.marginNarrow s a1) := by
  unfold State.marginNarrow
  repeat' first
    | with_reducible exact Within.refl _ _
    | with_reducible assumption
    | exact (rfl : _ = true)
    | (with_reducible apply Within.via (State.tribNarrow_within ..))
    | (with_reducible apply Within.via (State.setWeir_within ..))
    | (with_reducible apply Within.via (State.bundleShow_within ..))
    | with_reducible apply Within.foldl
    | refine (fun (s : State) x => ?_)
    | (intro z; refine (fun (hz : Within [.regs, .agg, .eddies, .mil, .stalls, .tol, .lanes, .dbg, .d2d, .out, .fresh] s z) => ?_) ?_; rotate_left; dsimp only [z]; rotate_left; clear_value z)
    | (intro z; clear_value z)
    | lift_lets -underBinder
    | split

theorem State.marginWide_within (s : State) (a1 : Nat) : Within [.regs, .agg, .d2d] s (State.marginWide s a1) := by
  unfold State.marginWide
  repeat' first
    | with_reducible exact Within.refl _ _
    | with_reducible assumption
    | exact (rfl : _ = true)
    | (with_reducible apply Within.via (State.setBit_within ..))
    | (with_reducible apply Within.via (State.setWeir_within ..))
    | (with_reducible apply Within.via (State.bundleShow_within ..))
    | with_reducible apply Within.foldl
    | refine (fun (s : State) x => ?_)
    | (intro z; refine (fun (hz : Within [.regs, .agg, .d2d] s z) => ?_) ?_; rotate_left; dsimp only [z]; rotate_left; clear_value z)
    | (intro z; clear_value z)
    | lift_lets -underBinder
    | split

theorem State.testEffect_within (s : State) (a1 : Nat) (a2 : Nat) (a3 : Bool) : Within [.regs, .agg, .eddies, .mil, .mem, .stalls, .tree, .tol, .clk, .lanes, .dbg, .d2d, .ports, .out, .fresh] s (State.testEffect s a1 a2 a3) := by
  unfold State.testEffect
  repeat' first
    | with_reducible exact Within.refl _ _
    | with_reducible assumption
    | exact (rfl : _ = true)
    | (with_reducible apply Within.via (State.raiseFault_within ..))
    | (with_reducible apply Within.via (State.setLock_within ..))
    | (with_reducible apply Within.via (State.setStage_within ..))
    | (with_reducible apply Within.via (State.linkDown_within ..))
    | (with_reducible apply Within.via (State.marginNarrow_within ..))
    | with_reducible apply Within.foldl
    | refine (fun (s : State) x => ?_)
    | (intro z; refine (fun (hz : Within [.regs, .agg, .eddies, .mil, .mem, .stalls, .tree, .tol, .clk, .lanes, .dbg, .d2d, .ports, .out, .fresh] s z) => ?_) ?_; rotate_left; dsimp only [z]; rotate_left; clear_value z)
    | (intro z; clear_value z)
    | lift_lets -underBinder
    | split

theorem State.testsRun_within (s : State) (a1 : Nat) (a2 : Nat) : Within [.tol] s (State.testsRun s a1 a2) := by
  unfold State.testsRun
  repeat' first
    | with_reducible exact Within.refl _ _
    | exact (rfl : _ = true)
    | (with_reducible apply Within.via (State.setTol_within ..))
    | split

theorem State.testRunStart_within (s : State) (a1 : Nat) (a2 : Nat) : Within [.regs, .agg, .eddies, .mil, .mem, .stalls, .tree, .tol, .clk, .lanes, .dbg, .d2d, .ports, .out, .fresh] s (State.testRunStart s a1 a2) := by
  unfold State.testRunStart
  repeat' first
    | with_reducible exact Within.refl _ _
    | exact (rfl : _ = true)
    | (with_reducible apply Within.via (State.testEffect_within ..))
    | (with_reducible apply Within.via (State.testsRun_within ..))
    | split

theorem State.testEnd_within (s : State) (a1 : Nat) (a2 : Nat) (a3 : Bool) (a4 : Nat) : Within [.regs, .agg, .mil, .tol, .clk, .d2d, .out, .fresh] s (State.testEnd s a1 a2 a3 a4) := by
  unfold State.testEnd
  repeat' first
    | with_reducible exact Within.refl _ _
    | with_reducible assumption
    | exact (rfl : _ = true)
    | (with_reducible apply Within.via (State.endJobs_within ..))
    | (with_reducible apply Within.via (State.hbmIfError_within ..))
    | (with_reducible apply Within.via (State.pllLock_within ..))
    | (with_reducible apply Within.via (State.marginWide_within ..))
    | (intro z; refine (fun (hz : Within [.regs, .agg, .mil, .tol, .clk, .d2d, .out, .fresh] s z) => ?_) ?_; rotate_left; dsimp only [z]; rotate_left; clear_value z)
    | (intro z; clear_value z)
    | lift_lets -underBinder
    | split

theorem State.testExpired_within (s : State) (a1 : Nat) (a2 : Nat) : Within [.tol] s (State.testExpired s a1 a2) := by
  unfold State.testExpired
  repeat' first
    | with_reducible exact Within.refl _ _
    | exact (rfl : _ = true)
    | (with_reducible apply Within.via (State.endJobs_within ..))
    | split

end Sys2Proof.Machine
end

