-- ==== Sys2Proof/Laws/WithinTolmor.lean ====
section
/-! SUPPORT. Which parts of the state each operation of Machine/Tolmor.lean touches. -/

namespace Sys2Proof.Machine

theorem State.readLoc_within (s : State) (a1 : Nat) (a2 : Loc) (a3 : LocIn) : Within [.regs, .agg, .mem, .tol, .fresh] s (State.readLoc s a1 a2 a3).1 := by
  unfold State.readLoc
  repeat' first
    | with_reducible exact Within.refl _ _
    | with_reducible assumption
    | exact (rfl : _ = true)
    | (with_reducible apply Within.via (State.readLines_within ..))
    | with_reducible apply Within.foldl
    | with_reducible apply Within.foldlFst
    | with_reducible apply Within.foldlSnd
    | refine (fun (z : State × _) x hz => ?_)
    | refine (fun (z : _ × State) x hz => ?_)
    | refine (fun (z : State) (l : Loc) (d : List Nat) hz => ?_)
    | refine (fun (s : State) x => ?_)
    | (intro z; refine (fun (hz : Within [.regs, .agg, .mem, .tol, .fresh] s z) => ?_) ?_; rotate_left; dsimp only [z]; rotate_left; clear_value z)
    | (intro z; refine (fun (hz : Within [.regs, .agg, .mem, .tol, .fresh] s z.1) => ?_) ?_; rotate_left; dsimp only [z]; rotate_left; clear_value z)
    | (intro z; refine (fun (hz : Within [.regs, .agg, .mem, .tol, .fresh] s z.2) => ?_) ?_; rotate_left; dsimp only [z]; rotate_left; clear_value z)
    | (intro z; have _h : State → _ := z; clear _h; dsimp -zeta only [z]; clear z)
    | (intro z; have _h : State × _ → _ := z; clear _h; dsimp -zeta only [z]; clear z)
    | (intro z; clear_value z)
    | (intro z; dsimp -zeta only [z]; clear z)
    | lift_lets -underBinder
    | split

theorem State.writeLoc_within (s : State) (a1 : Nat) (a2 : Loc) (a3 : List Nat) (a4 : Bool) : Within [.regs, .agg, .mem, .tol, .out, .fresh] s (State.writeLoc s a1 a2 a3 a4).1 := by
  unfold State.writeLoc
  repeat' first
    | with_reducible exact Within.refl _ _
    | with_reducible assumption
    | exact (rfl : _ = true)
    | (with_reducible apply Within.via (State.emit_within ..))
    | (with_reducible apply Within.via (State.writeLine_within ..))
    | (with_reducible apply Within.via (State.setTol_within ..))
    | with_reducible apply Within.foldl
    | refine (fun (s : State) x => ?_)
    | (intro z; refine (fun (hz : Within [.regs, .agg, .mem, .tol, .out, .fresh] s z) => ?_) ?_; rotate_left; dsimp only [z]; rotate_left; clear_value z)
    | (intro z; clear_value z)
    | lift_lets -underBinder
    | split

theorem writeLater_within (s : State) (a1 : Loc) (a2 : List Nat) (a3 : Nat) : Within [] s (writeLater s a1 a2 a3).state := by
  unfold writeLater
  repeat' first
    | with_reducible exact Within.refl _ _
    | exact (rfl : _ = true)
    | with_reducible apply Within.now
    | with_reducible apply Within.later
    | split

theorem withLoc_within {F : List StatePart} (s : State) (c : CmdIn) (k : Nat) (out : LocIn) (f : State → Loc → List Nat → CmdEnd)
    (hF : [.regs, .agg, .mem, .tol, .fresh].all F.contains = true) (h : ∀ t l d, Within F s t → Within F s (f t l d).state) : Within F s (withLoc s c k out f).state := by
  unfold withLoc
  split
  · exact Within.refl _ _
  · rename_i l hl
    have h1 : Within F s (s.readLoc c.box l out).1 := Within.mono (State.readLoc_within ..) hF
    split
    · rename_i s1 d he
      rw [he] at h1; exact h _ _ _ h1
    · rename_i s1 he
      rw [he] at h1; exact h1
    · rename_i s1 he
      rw [he] at h1; exact h1

theorem endLater_within (s : State) (a1 : Nat) (a2 : Nat) : Within [] s (endLater s a1 a2).state := by
  unfold endLater
  repeat' first
    | with_reducible exact Within.refl _ _
    | exact (rfl : _ = true)
    | with_reducible apply Within.now
    | with_reducible apply Within.later

theorem State.getInfo_within (s : State) (a1 : CmdIn) : Within [] s (State.getInfo s a1).state := by
  unfold State.getInfo
  repeat' first
    | with_reducible exact Within.refl _ _
    | with_reducible assumption
    | exact (rfl : _ = true)
    | with_reducible apply Within.now
    | with_reducible apply Within.later
    | (intro z; refine (fun (hz : Within [] s z) => ?_) ?_; rotate_left; dsimp only [z]; rotate_left; clear_value z)
    | (intro z; clear_value z)
    | lift_lets -underBinder
    | split

theorem State.readLog_within (s : State) (a1 : CmdIn) : Within [] s (State.readLog s a1).state := by
  unfold State.readLog
  repeat' first
    | with_reducible exact Within.refl _ _
    | with_reducible assumption
    | exact (rfl : _ = true)
    | with_reducible apply Within.now
    | with_reducible apply Within.later
    | (intro z; refine (fun (hz : Within [] s z) => ?_) ?_; rotate_left; dsimp only [z]; rotate_left; clear_value z)
    | (intro z; clear_value z)
    | lift_lets -underBinder
    | split

theorem State.readRepairLog_within (s : State) (a1 : CmdIn) : Within [] s (State.readRepairLog s a1).state := by
  unfold State.readRepairLog
  repeat' first
    | with_reducible exact Within.refl _ _
    | exact (rfl : _ = true)
    | (with_reducible apply Within.via (writeLater_within ..))
    | with_reducible apply Within.now
    | with_reducible apply Within.later
    | split

theorem State.readMeters_within (s : State) (a1 : CmdIn) (a2 : CmdEnv) : Within [] s (State.readMeters s a1 a2).state := by
  unfold State.readMeters
  repeat' first
    | with_reducible exact Within.refl _ _
    | with_reducible assumption
    | exact (rfl : _ = true)
    | (with_reducible apply Within.via (writeLater_within ..))
    | with_reducible apply Within.now
    | with_reducible apply Within.later
    | (intro z; refine (fun (hz : Within [] s z) => ?_) ?_; rotate_left; dsimp only [z]; rotate_left; clear_value z)
    | (intro z; clear_value z)
    | lift_lets -underBinder
    | split

theorem State.spdmMsg_within (s : State) (a1 : CmdIn) (a2 : CmdEnv) : Within [.regs, .agg, .mem, .tol, .fresh] s (State.spdmMsg s a1 a2).state := by
  unfold State.spdmMsg
  repeat' first
    | with_reducible exact Within.refl _ _
    | with_reducible assumption
    | exact (rfl : _ = true)
    | (with_reducible apply Within.via (State.setTol_within ..))
    | (with_reducible apply Within.via (writeLater_within ..))
    | with_reducible apply withLoc_within
    | with_reducible apply Within.now
    | with_reducible apply Within.later
    | refine (fun (z : State) (l : Loc) (d : List Nat) hz => ?_)
    | (intro z; refine (fun (hz : Within [.regs, .agg, .mem, .tol, .fresh] s z) => ?_) ?_; rotate_left; dsimp only [z]; rotate_left; clear_value z)
    | (intro z; clear_value z)
    | lift_lets -underBinder
    | split

theorem State.debugAuth_within (s : State) (a1 : CmdIn) (a2 : CmdEnv) : Within [.regs, .agg, .eddies, .mem, .tol, .dbg, .fresh] s (State.debugAuth s a1 a2).state := by
  unfold State.debugAuth
  repeat' first
    | with_reducible exact Within.refl _ _
    | exact (rfl : _ = true)
    | (with_reducible apply Within.via (State.newGrant_within ..))
    | (with_reducible apply Within.via (State.newNonce_within ..))
    | (with_reducible apply Within.via (Within.ofFst (State.readLoc_within ..) (by assumption)))
    | (with_reducible apply Within.via (State.readLoc_within ..))
    | (with_reducible apply Within.via (endLater_within ..))
    | with_reducible apply Within.now
    | with_reducible apply Within.later
    | split

theorem State.loadKey_within (s : State) (a1 : CmdIn) (a2 : CmdEnv) : Within [.regs, .agg, .mem, .tol] s (State.loadKey s a1 a2).state := by
  unfold State.loadKey
  repeat' first
    | with_reducible exact Within.refl _ _
    | with_reducible assumption
    | exact (rfl : _ = true)
    | (with_reducible apply Within.via (State.loadSlot_within ..))
    | (with_reducible apply Within.via (State.setTol_within ..))
    | with_reducible apply Within.now
    | with_reducible apply Within.later
    | (intro z; refine (fun (hz : Within [.regs, .agg, .mem, .tol] s z) => ?_) ?_; rotate_left; dsimp only [z]; rotate_left; clear_value z)
    | (intro z; clear_value z)
    | lift_lets -underBinder
    | split

theorem State.retireKey_within (s : State) (a1 : CmdIn) : Within [.regs, .agg] s (State.retireKey s a1).state := by
  unfold State.retireKey
  repeat' first
    | with_reducible exact Within.refl _ _
    | with_reducible assumption
    | exact (rfl : _ = true)
    | (with_reducible apply Within.via (State.retireSlot_within ..))
    | with_reducible apply Within.now
    | with_reducible apply Within.later
    | (intro z; refine (fun (hz : Within [.regs, .agg] s z) => ?_) ?_; rotate_left; dsimp only [z]; rotate_left; clear_value z)
    | (intro z; clear_value z)
    | lift_lets -underBinder
    | split

theorem State.signerCmd_within (s : State) (c : CmdIn) (env : CmdEnv) : Within [.regs, .agg, .mem, .tol, .otp, .fresh] s (s.signerCmd c env).state := by
  unfold State.signerCmd
  dsimp only
  refine withLoc_within s c 0 env.loc _ rfl (fun t l d ht => ?_)
  split
  · repeat' first | exact ht | split
    exact Within.otp ht rfl (Otp.grows_set _ _ _ ⟨fun k hk => by simp [hk], fun _ => rfl, fun h => h⟩)
  · repeat' first | exact ht | split
    exact Within.otp ht rfl (Otp.grows_set _ _ _ ⟨fun _ hk => hk, fun h => h, fun _ => rfl⟩)

theorem State.bindCmd_within (s : State) (a1 : CmdIn) : Within [.regs, .agg, .ports, .out] s (State.bindCmd s a1).state := by
  unfold State.bindCmd
  repeat' first
    | with_reducible exact Within.refl _ _
    | exact (rfl : _ = true)
    | (with_reducible apply Within.via (State.bindLink_within ..))
    | with_reducible apply Within.now
    | with_reducible apply Within.later
    | split

theorem State.claimList_within (s : State) (a1 : Nat) (a2 : Nat) (a3 : List Nat) : Within [.regs, .agg, .eddies, .stalls, .tally] s (State.claimList s a1 a2 a3).2 := by
  unfold State.claimList
  repeat' first
    | with_reducible exact Within.refl _ _
    | with_reducible assumption
    | exact (rfl : _ = true)
    | (with_reducible apply Within.via (State.createStall_within ..))
    | (intro z; refine (fun (hz : Within [.regs, .agg, .eddies, .stalls, .tally] s z) => ?_) ?_; rotate_left; dsimp only [z]; rotate_left; clear_value z)
    | (intro z; clear_value z)
    | lift_lets -underBinder
    | split

theorem State.createCmd_within (s : State) (a1 : CmdIn) (a2 : CmdEnv) : Within [.regs, .agg, .eddies, .mem, .stalls, .tally, .tol, .fresh] s (State.createCmd s a1 a2).state := by
  unfold State.createCmd
  repeat' first
    | with_reducible exact Within.refl _ _
    | with_reducible assumption
    | exact (rfl : _ = true)
    | with_reducible apply withLoc_within
    | (with_reducible apply Within.via (endLater_within ..))
    | (with_reducible apply Within.via (State.claimList_within ..))
    | with_reducible apply Within.foldl
    | with_reducible apply Within.foldlFst
    | with_reducible apply Within.foldlSnd
    | refine (fun (z : State × _) x hz => ?_)
    | refine (fun (z : _ × State) x hz => ?_)
    | with_reducible apply Within.now
    | with_reducible apply Within.later
    | refine (fun (z : State) (l : Loc) (d : List Nat) hz => ?_)
    | refine (fun (s : State) x => ?_)
    | (intro z; refine (fun (hz : Within [.regs, .agg, .eddies, .mem, .stalls, .tally, .tol, .fresh] s z) => ?_) ?_; rotate_left; dsimp only [z]; rotate_left; clear_value z)
    | (intro z; refine (fun (hz : Within [.regs, .agg, .eddies, .mem, .stalls, .tally, .tol, .fresh] s z.1) => ?_) ?_; rotate_left; dsimp only [z]; rotate_left; clear_value z)
    | (intro z; refine (fun (hz : Within [.regs, .agg, .eddies, .mem, .stalls, .tally, .tol, .fresh] s z.2) => ?_) ?_; rotate_left; dsimp only [z]; rotate_left; clear_value z)
    | (intro z; have _h : State → _ := z; clear _h; dsimp -zeta only [z]; clear z)
    | (intro z; have _h : State × _ → _ := z; clear _h; dsimp -zeta only [z]; clear z)
    | (intro z; clear_value z)
    | (intro z; dsimp -zeta only [z]; clear z)
    | lift_lets -underBinder
    | split

theorem State.loadCmd_within (s : State) (a1 : CmdIn) (a2 : CmdEnv) : Within [.regs, .agg, .fab, .eddies, .mem, .stalls, .tol, .fresh] s (State.loadCmd s a1 a2).state := by
  unfold State.loadCmd
  repeat' first
    | with_reducible exact Within.refl _ _
    | with_reducible assumption
    | exact (rfl : _ = true)
    | (with_reducible apply Within.via (State.loadBegin_within ..))
    | with_reducible apply withLoc_within
    | with_reducible apply Within.now
    | with_reducible apply Within.later
    | refine (fun (z : State) (l : Loc) (d : List Nat) hz => ?_)
    | (intro z; refine (fun (hz : Within [.regs, .agg, .fab, .eddies, .mem, .stalls, .tol, .fresh] s z) => ?_) ?_; rotate_left; dsimp only [z]; rotate_left; clear_value z)
    | (intro z; clear_value z)
    | lift_lets -underBinder
    | split

theorem State.swapCmd_within (s : State) (a1 : CmdIn) : Within [.regs, .agg, .stalls] s (State.swapCmd s a1).state := by
  unfold State.swapCmd
  repeat' first
    | with_reducible exact Within.refl _ _
    | with_reducible assumption
    | exact (rfl : _ = true)
    | (with_reducible apply Within.via (State.armSwap_within ..))
    | with_reducible apply Within.now
    | with_reducible apply Within.later
    | (intro z; refine (fun (hz : Within [.regs, .agg, .stalls] s z) => ?_) ?_; rotate_left; dsimp only [z]; rotate_left; clear_value z)
    | (intro z; clear_value z)
    | lift_lets -underBinder
    | split

theorem State.cancelSwap_within (s : State) (a1 : CmdIn) : Within [.regs, .agg, .stalls, .tol] s (State.cancelSwap s a1).state := by
  unfold State.cancelSwap
  repeat' first
    | with_reducible exact Within.refl _ _
    | exact (rfl : _ = true)
    | (with_reducible apply Within.via (State.abandonSwap_within ..))
    | with_reducible apply Within.now
    | with_reducible apply Within.later
    | split

theorem State.freezeCmd_within (s : State) (a1 : CmdIn) : Within [.regs, .agg, .eddies, .mil, .stalls, .tol, .lanes, .dbg, .out, .fresh] s (State.freezeCmd s a1).state := by
  unfold State.freezeCmd
  repeat' first
    | with_reducible exact Within.refl _ _
    | with_reducible assumption
    | exact (rfl : _ = true)
    | (with_reducible apply Within.via (State.freezeStall_within ..))
    | with_reducible apply Within.now
    | with_reducible apply Within.later
    | (intro z; refine (fun (hz : Within [.regs, .agg, .eddies, .mil, .stalls, .tol, .lanes, .dbg, .out, .fresh] s z) => ?_) ?_; rotate_left; dsimp only [z]; rotate_left; clear_value z)
    | (intro z; clear_value z)
    | lift_lets -underBinder
    | split

theorem State.destroyAll_within (s : State) (a1 : Nat) : Within [.regs, .agg, .fab, .eddies, .mil, .mem, .stalls, .tally, .tide, .tol, .pins, .lanes, .dbg, .ports, .out, .fresh] s (State.destroyAll s a1) := by
  unfold State.destroyAll
  repeat' first
    | with_reducible exact Within.refl _ _
    | exact (rfl : _ = true)
    | (with_reducible apply Within.via (State.destroyStall_within ..))
    | (with_reducible apply Within.via (State.portsForget_within ..))

theorem State.destroyCmd_within (s : State) (a1 : CmdIn) : Within [.regs, .agg, .fab, .eddies, .mil, .mem, .stalls, .tally, .tide, .tol, .pins, .lanes, .dbg, .ports, .out, .fresh] s (State.destroyCmd s a1).state := by
  unfold State.destroyCmd
  repeat' first
    | with_reducible exact Within.refl _ _
    | with_reducible assumption
    | exact (rfl : _ = true)
    | (with_reducible apply Within.via (State.destroyAll_within ..))
    | with_reducible apply Within.now
    | with_reducible apply Within.later
    | (intro z; refine (fun (hz : Within [.regs, .agg, .fab, .eddies, .mil, .mem, .stalls, .tally, .tide, .tol, .pins, .lanes, .dbg, .ports, .out, .fresh] s z) => ?_) ?_; rotate_left; dsimp only [z]; rotate_left; clear_value z)
    | (intro z; clear_value z)
    | lift_lets -underBinder
    | split

theorem State.rekeyCmd_within (s : State) (a1 : CmdIn) : Within [.regs, .agg, .mem] s (State.rekeyCmd s a1).state := by
  unfold State.rekeyCmd
  repeat' first
    | with_reducible exact Within.refl _ _
    | with_reducible assumption
    | exact (rfl : _ = true)
    | (with_reducible apply Within.via (State.rekeyBegin_within ..))
    | with_reducible apply Within.now
    | with_reducible apply Within.later
    | (intro z; refine (fun (hz : Within [.regs, .agg, .mem] s z) => ?_) ?_; rotate_left; dsimp only [z]; rotate_left; clear_value z)
    | (intro z; clear_value z)
    | lift_lets -underBinder
    | split

theorem State.createRegion_within (s : State) (a1 : CmdIn) : Within [.regs, .agg, .mem, .fresh] s (State.createRegion s a1).state := by
  unfold State.createRegion
  repeat' first
    | with_reducible exact Within.refl _ _
    | with_reducible assumption
    | exact (rfl : _ = true)
    | (with_reducible apply Within.via (State.fset_within ..))
    | exact Within.mono (Within.ofSome1 (State.placeRegion_within ..) (by assumption)) (by decide)
    | with_reducible apply Within.foldl
    | with_reducible apply Within.now
    | with_reducible apply Within.later
    | refine (fun (s : State) x => ?_)
    | (intro z; refine (fun (hz : Within [.regs, .agg, .mem, .fresh] s z) => ?_) ?_; rotate_left; dsimp only [z]; rotate_left; clear_value z)
    | (intro z; clear_value z)
    | lift_lets -underBinder
    | split

theorem State.destroyRegion_within (s : State) (a1 : CmdIn) : Within [.regs, .agg, .mem] s (State.destroyRegion s a1).state := by
  unfold State.destroyRegion
  repeat' first
    | with_reducible exact Within.refl _ _
    | exact (rfl : _ = true)
    | (with_reducible apply Within.via (State.rgnDestroy_within ..))
    | with_reducible apply Within.now
    | with_reducible apply Within.later
    | split

theorem State.rekeyRegion_within (s : State) (a1 : CmdIn) : Within [.regs, .agg, .mem] s (State.rekeyRegion s a1).state := by
  unfold State.rekeyRegion
  repeat' first
    | with_reducible exact Within.refl _ _
    | with_reducible assumption
    | exact (rfl : _ = true)
    | (with_reducible apply Within.via (State.fset_within ..))
    | (with_reducible apply Within.via (State.rgnRekey_within ..))
    | with_reducible apply Within.now
    | with_reducible apply Within.later
    | (intro z; refine (fun (hz : Within [.regs, .agg, .mem] s z) => ?_) ?_; rotate_left; dsimp only [z]; rotate_left; clear_value z)
    | (intro z; clear_value z)
    | lift_lets -underBinder
    | split

theorem State.laneMap_within (s : State) (a1 : List Nat) : Within [.regs, .agg, .eddies, .mil, .mem, .tree, .tol, .dbg, .ports, .fresh] s (State.laneMap s a1).2 := by
  unfold State.laneMap
  repeat' first
    | with_reducible exact Within.refl _ _
    | with_reducible assumption
    | exact (rfl : _ = true)
    | (with_reducible apply Within.via (State.remapLane_within ..))
    | (with_reducible apply Within.via (State.linkDown_within ..))
    | with_reducible apply Within.foldl
    | refine (fun (s : State) x => ?_)
    | (intro z; refine (fun (hz : Within [.regs, .agg, .eddies, .mil, .mem, .tree, .tol, .dbg, .ports, .fresh] s z) => ?_) ?_; rotate_left; dsimp only [z]; rotate_left; clear_value z)
    | (intro z; clear_value z)
    | lift_lets -underBinder
    | split

theorem State.laneMapCmd_within (s : State) (a1 : CmdIn) (a2 : CmdEnv) : Within [.regs, .agg, .eddies, .mil, .mem, .tree, .tol, .dbg, .ports, .fresh] s (State.laneMapCmd s a1 a2).state := by
  unfold State.laneMapCmd
  repeat' first
    | with_reducible exact Within.refl _ _
    | with_reducible assumption
    | exact (rfl : _ = true)
    | with_reducible apply withLoc_within
    | (with_reducible apply Within.via (endLater_within ..))
    | (with_reducible apply Within.via (State.laneMap_within ..))
    | with_reducible apply Within.foldl
    | with_reducible apply Within.foldlFst
    | with_reducible apply Within.foldlSnd
    | refine (fun (z : State × _) x hz => ?_)
    | refine (fun (z : _ × State) x hz => ?_)
    | with_reducible apply Within.now
    | with_reducible apply Within.later
    | refine (fun (z : State) (l : Loc) (d : List Nat) hz => ?_)
    | refine (fun (s : State) x => ?_)
    | (intro z; refine (fun (hz : Within [.regs, .agg, .eddies, .mil, .mem, .tree, .tol, .dbg, .ports, .fresh] s z) => ?_) ?_; rotate_left; dsimp only [z]; rotate_left; clear_value z)
    | (intro z; refine (fun (hz : Within [.regs, .agg, .eddies, .mil, .mem, .tree, .tol, .dbg, .ports, .fresh] s z.1) => ?_) ?_; rotate_left; dsimp only [z]; rotate_left; clear_value z)
    | (intro z; refine (fun (hz : Within [.regs, .agg, .eddies, .mil, .mem, .tree, .tol, .dbg, .ports, .fresh] s z.2) => ?_) ?_; rotate_left; dsimp only [z]; rotate_left; clear_value z)
    | (intro z; have _h : State → _ := z; clear _h; dsimp -zeta only [z]; clear z)
    | (intro z; have _h : State × _ → _ := z; clear _h; dsimp -zeta only [z]; clear z)
    | (intro z; clear_value z)
    | (intro z; dsimp -zeta only [z]; clear z)
    | lift_lets -underBinder
    | split

theorem State.portRole_within (s : State) (a1 : CmdIn) : Within [.regs, .agg, .eddies, .mil, .mem, .tol, .dbg, .ports, .fresh] s (State.portRole s a1).state := by
  unfold State.portRole
  repeat' first
    | with_reducible exact Within.refl _ _
    | exact (rfl : _ = true)
    | (with_reducible apply Within.via (State.enterRole_within ..))
    | (with_reducible apply Within.via (endLater_within ..))
    | with_reducible apply Within.now
    | with_reducible apply Within.later
    | split

theorem State.testCmd_within (s : State) (a1 : CmdIn) : Within [.regs, .agg, .eddies, .mil, .mem, .stalls, .tree, .tol, .clk, .lanes, .dbg, .d2d, .ports, .out, .fresh] s (State.testCmd s a1).state := by
  unfold State.testCmd
  repeat' first
    | with_reducible exact Within.refl _ _
    | with_reducible assumption
    | exact (rfl : _ = true)
    | (with_reducible apply Within.via (State.testEffect_within ..))
    | (with_reducible apply Within.via (State.testsRun_within ..))
    | with_reducible apply Within.now
    | with_reducible apply Within.later
    | (intro z; refine (fun (hz : Within [.regs, .agg, .eddies, .mil, .mem, .stalls, .tree, .tol, .clk, .lanes, .dbg, .d2d, .ports, .out, .fresh] s z) => ?_) ?_; rotate_left; dsimp only [z]; rotate_left; clear_value z)
    | (intro z; clear_value z)
    | lift_lets -underBinder
    | split

theorem State.cancelTest_within (s : State) (a1 : CmdIn) : Within [.tol] s (State.cancelTest s a1).state := by
  unfold State.cancelTest
  repeat' first
    | with_reducible exact Within.refl _ _
    | with_reducible assumption
    | exact (rfl : _ = true)
    | (with_reducible apply Within.via (State.endJobs_within ..))
    | with_reducible apply Within.now
    | with_reducible apply Within.later
    | (intro z; refine (fun (hz : Within [.tol] s z) => ?_) ?_; rotate_left; dsimp only [z]; rotate_left; clear_value z)
    | (intro z; clear_value z)
    | lift_lets -underBinder
    | split

theorem tideEnd_within {F : List StatePart} (s : State) (r : Nat ⊕ State) (h : Within F s (sumState s r)) : Within F s (tideEnd s r).state := by
  cases r with
  | inl c => exact Within.refl _ _
  | inr t => exact h

theorem State.fanoutCmd_within (s : State) (a1 : CmdIn) (a2 : CmdEnv) : Within [.regs, .agg, .mem, .tree, .tol, .out, .fresh] s (State.fanoutCmd s a1 a2).state := by
  unfold State.fanoutCmd
  repeat' first
    | with_reducible exact Within.refl _ _
    | with_reducible assumption
    | exact (rfl : _ = true)
    | (with_reducible apply Within.via (State.fanBegin_within ..))
    | (with_reducible apply Within.via (Within.ofFst (State.readLoc_within ..) (by assumption)))
    | (with_reducible apply Within.via (State.readLoc_within ..))
    | with_reducible apply withLoc_within
    | (with_reducible apply Within.via (endLater_within ..))
    | with_reducible apply Within.foldl
    | with_reducible apply Within.foldlFst
    | with_reducible apply Within.foldlSnd
    | refine (fun (z : State × _) x hz => ?_)
    | refine (fun (z : _ × State) x hz => ?_)
    | with_reducible apply Within.now
    | with_reducible apply Within.later
    | refine (fun (z : State) (l : Loc) (d : List Nat) hz => ?_)
    | refine (fun (s : State) x => ?_)
    | (intro z; refine (fun (hz : Within [.regs, .agg, .mem, .tree, .tol, .out, .fresh] s z) => ?_) ?_; rotate_left; dsimp only [z]; rotate_left; clear_value z)
    | (intro z; refine (fun (hz : Within [.regs, .agg, .mem, .tree, .tol, .out, .fresh] s z.1) => ?_) ?_; rotate_left; dsimp only [z]; rotate_left; clear_value z)
    | (intro z; refine (fun (hz : Within [.regs, .agg, .mem, .tree, .tol, .out, .fresh] s z.2) => ?_) ?_; rotate_left; dsimp only [z]; rotate_left; clear_value z)
    | (intro z; have _h : State → _ := z; clear _h; dsimp -zeta only [z]; clear z)
    | (intro z; have _h : State × _ → _ := z; clear _h; dsimp -zeta only [z]; clear z)
    | (intro z; clear_value z)
    | (intro z; dsimp -zeta only [z]; clear z)
    | lift_lets -underBinder
    | split

theorem State.perform_within (s : State) (a1 : CmdIn) (a2 : CmdEnv) : Within [.regs, .agg, .fab, .eddies, .mil, .mem, .stalls, .tally, .tide, .tree, .tol, .otp, .clk, .pins, .lanes, .dbg, .d2d, .ports, .out, .fresh] s (State.perform s a1 a2).state := by
  unfold State.perform
  repeat' first
    | with_reducible exact Within.refl _ _
    | exact (rfl : _ = true)
    | exact Within.mono (State.setAlarm_within ..) (by decide)
    | exact Within.mono (Within.ofInr (State.setAlarm_within ..) (by assumption)) (by decide)
    | exact Within.mono (State.clearAlarm_within ..) (by decide)
    | exact Within.mono (Within.ofInr (State.clearAlarm_within ..) (by assumption)) (by decide)
    | exact Within.mono (State.setTideSource_within ..) (by decide)
    | exact Within.mono (Within.ofInr (State.setTideSource_within ..) (by assumption)) (by decide)
    | (with_reducible apply Within.via (State.getInfo_within ..))
    | (with_reducible apply Within.via (State.readLog_within ..))
    | (with_reducible apply Within.via (State.readRepairLog_within ..))
    | (with_reducible apply Within.via (State.readMeters_within ..))
    | (with_reducible apply Within.via (State.spdmMsg_within ..))
    | (with_reducible apply Within.via (State.debugAuth_within ..))
    | (with_reducible apply Within.via (State.loadKey_within ..))
    | (with_reducible apply Within.via (State.retireKey_within ..))
    | (with_reducible apply Within.via (State.signerCmd_within ..))
    | (with_reducible apply Within.via (State.bindCmd_within ..))
    | (with_reducible apply Within.via (State.createCmd_within ..))
    | (with_reducible apply Within.via (State.loadCmd_within ..))
    | (with_reducible apply Within.via (State.swapCmd_within ..))
    | (with_reducible apply Within.via (State.cancelSwap_within ..))
    | (with_reducible apply Within.via (State.freezeCmd_within ..))
    | (with_reducible apply Within.via (State.destroyCmd_within ..))
    | (with_reducible apply Within.via (State.rekeyCmd_within ..))
    | (with_reducible apply Within.via (State.createRegion_within ..))
    | (with_reducible apply Within.via (State.destroyRegion_within ..))
    | (with_reducible apply Within.via (State.rekeyRegion_within ..))
    | (with_reducible apply Within.via (State.laneMapCmd_within ..))
    | (with_reducible apply Within.via (State.portRole_within ..))
    | (with_reducible apply Within.via (State.testCmd_within ..))
    | (with_reducible apply Within.via (State.cancelTest_within ..))
    | with_reducible apply tideEnd_within
    | (with_reducible apply Within.via (State.fanoutCmd_within ..))
    | with_reducible apply Within.now
    | with_reducible apply Within.later
    | split

theorem State.judgeCmd_within (s : State) (a1 : CmdIn) (a2 : Nat) (a3 : Nat) (a4 : CmdEnv) : Within [.regs, .agg, .fab, .eddies, .mil, .mem, .stalls, .tally, .tide, .tree, .tol, .otp, .clk, .pins, .lanes, .dbg, .d2d, .ports, .out, .fresh] s (State.judgeCmd s a1 a2 a3 a4).state := by
  unfold State.judgeCmd
  repeat' first
    | with_reducible exact Within.refl _ _
    | exact (rfl : _ = true)
    | (with_reducible apply Within.via (State.perform_within ..))
    | with_reducible apply Within.now
    | with_reducible apply Within.later
    | split

theorem State.completeNow_within (s : State) (a1 : CmdIn) (a2 : Option (Nat × Option (Nat × Nat))) (a3 : Nat) (a4 : Nat) : Within [.regs, .agg, .tol, .out] s (State.completeNow s a1 a2 a3 a4) := by
  unfold State.completeNow
  repeat' first
    | with_reducible exact Within.refl _ _
    | with_reducible assumption
    | exact (rfl : _ = true)
    | (with_reducible apply Within.via (State.postCpl_within ..))
    | (with_reducible apply Within.via (State.fanReply_within ..))
    | (intro z; refine (fun (hz : Within [.regs, .agg, .tol, .out] s z) => ?_) ?_; rotate_left; dsimp only [z]; rotate_left; clear_value z)
    | (intro z; clear_value z)
    | lift_lets -underBinder
    | split

theorem State.defer_within (s : State) (a1 : CmdIn) (a2 : Option (Nat × Option (Nat × Nat))) (a3 : Nat) (a4 : JobKind) (a5 : Option (Nat × Nat)) : Within [.regs, .agg, .tol] s (State.defer s a1 a2 a3 a4 a5) := by
  unfold State.defer
  repeat' first
    | with_reducible exact Within.refl _ _
    | with_reducible assumption
    | exact (rfl : _ = true)
    | (with_reducible apply Within.via (State.setTol_within ..))
    | (with_reducible apply Within.via (State.setMbox_within ..))
    | (with_reducible apply Within.via (State.postCpl_within ..))
    | (intro z; refine (fun (hz : Within [.regs, .agg, .tol] s z) => ?_) ?_; rotate_left; dsimp only [z]; rotate_left; clear_value z)
    | (intro z; clear_value z)
    | lift_lets -underBinder

theorem State.commandTake_within (s : State) (a1 : CmdEnv) : Within [.regs, .agg, .fab, .eddies, .mil, .mem, .stalls, .tally, .tide, .tree, .tol, .otp, .clk, .pins, .lanes, .dbg, .d2d, .ports, .out, .fresh] s (State.commandTake s a1) := by
  unfold State.commandTake
  repeat' first
    | with_reducible exact Within.refl _ _
    | with_reducible assumption
    | exact (rfl : _ = true)
    | (with_reducible apply Within.via (State.fset_within ..))
    | (with_reducible apply Within.via (State.irq_within ..))
    | (with_reducible apply Within.via (State.setTol_within ..))
    | (with_reducible apply Within.via (State.setTree_within ..))
    | (with_reducible apply Within.via (Within.ofNow (State.judgeCmd_within ..) (by assumption)))
    | (with_reducible apply Within.via (Within.ofLater (State.judgeCmd_within ..) (by assumption)))
    | (with_reducible apply Within.via (State.judgeCmd_within ..))
    | (with_reducible apply Within.via (State.completeNow_within ..))
    | (with_reducible apply Within.via (State.defer_within ..))
    | (intro z; refine (fun (hz : Within [.regs, .agg, .fab, .eddies, .mil, .mem, .stalls, .tally, .tide, .tree, .tol, .otp, .clk, .pins, .lanes, .dbg, .d2d, .ports, .out, .fresh] s z) => ?_) ?_; rotate_left; dsimp only [z]; rotate_left; clear_value z)
    | (intro z; clear_value z)
    | lift_lets -underBinder
    | split

theorem State.jobReady_within (s : State) (a1 : Job) (a2 : Bool) : Within [.regs, .agg, .fab, .eddies, .mil, .mem, .stalls, .tally, .tide, .tree, .tol, .pins, .lanes, .dbg, .ports, .out, .fresh] s (optThird s (State.jobReady s a1 a2)) := by
  unfold State.jobReady
  repeat' first
    | with_reducible exact Within.refl _ _
    | with_reducible assumption
    | exact (rfl : _ = true)
    | (with_reducible apply Within.via (State.fset_within ..))
    | (with_reducible apply Within.via (State.rgnFinish_within ..))
    | (with_reducible apply Within.via (State.rekeyEnd_within ..))
    | (with_reducible apply Within.via (State.writeLoc_within ..))
    | (with_reducible apply Within.via (State.claimList_within ..))
    | (with_reducible apply Within.via (State.destroyAll_within ..))
    | (with_reducible apply Within.via (State.laneMap_within ..))
    | with_reducible apply Within.foldl
    | with_reducible apply Within.foldlFst
    | with_reducible apply Within.foldlSnd
    | refine (fun (z : State × _) x hz => ?_)
    | refine (fun (z : _ × State) x hz => ?_)
    | with_reducible exact Within.none3
    | with_reducible apply Within.some3
    | refine (fun (z : State) (l : Loc) (d : List Nat) hz => ?_)
    | refine (fun (s : State) x => ?_)
    | (intro z; refine (fun (hz : Within [.regs, .agg, .fab, .eddies, .mil, .mem, .stalls, .tally, .tide, .tree, .tol, .pins, .lanes, .dbg, .ports, .out, .fresh] s z) => ?_) ?_; rotate_left; dsimp only [z]; rotate_left; clear_value z)
    | (intro z; refine (fun (hz : Within [.regs, .agg, .fab, .eddies, .mil, .mem, .stalls, .tally, .tide, .tree, .tol, .pins, .lanes, .dbg, .ports, .out, .fresh] s z.1) => ?_) ?_; rotate_left; dsimp only [z]; rotate_left; clear_value z)
    | (intro z; refine (fun (hz : Within [.regs, .agg, .fab, .eddies, .mil, .mem, .stalls, .tally, .tide, .tree, .tol, .pins, .lanes, .dbg, .ports, .out, .fresh] s z.2) => ?_) ?_; rotate_left; dsimp only [z]; rotate_left; clear_value z)
    | (intro z; have _h : State → _ := z; clear _h; dsimp -zeta only [z]; clear z)
    | (intro z; have _h : State × _ → _ := z; clear _h; dsimp -zeta only [z]; clear z)
    | (intro z; clear_value z)
    | (intro z; dsimp -zeta only [z]; clear z)
    | lift_lets -underBinder
    | split

theorem State.deferredEnd_within (s : State) (a1 : Nat) (a2 : Nat) (a3 : Bool) : Within [.regs, .agg, .fab, .eddies, .mil, .mem, .stalls, .tally, .tide, .tree, .tol, .pins, .lanes, .dbg, .ports, .out, .fresh] s (State.deferredEnd s a1 a2 a3) := by
  unfold State.deferredEnd
  repeat' first
    | with_reducible exact Within.refl _ _
    | exact (rfl : _ = true)
    | (with_reducible apply Within.via (State.rekeyBegin_within ..))
    | (with_reducible apply Within.via (State.finishJob_within ..))
    | exact Within.mono (Within.ofSome3 (State.jobReady_within ..) (by assumption)) (by decide)
    | split

theorem State.fanEnd_within (s : State) (a1 : Nat) (a2 : Bool) (a3 : Bool) : Within [.regs, .agg, .mem, .tree, .tol, .out, .fresh] s (State.fanEnd s a1 a2 a3) := by
  unfold State.fanEnd
  repeat' first
    | with_reducible exact Within.refl _ _
    | with_reducible assumption
    | exact (rfl : _ = true)
    | (with_reducible apply Within.via (State.finishJob_within ..))
    | (with_reducible apply Within.via (State.setTree_within ..))
    | (with_reducible apply Within.via (Within.ofFst (State.writeLoc_within ..) (by assumption)))
    | (with_reducible apply Within.via (State.writeLoc_within ..))
    | with_reducible apply Within.foldl
    | with_reducible apply Within.foldlFst
    | with_reducible apply Within.foldlSnd
    | refine (fun (z : State × _) x hz => ?_)
    | refine (fun (z : _ × State) x hz => ?_)
    | refine (fun (z : State) (l : Loc) (d : List Nat) hz => ?_)
    | refine (fun (s : State) x => ?_)
    | (intro z; refine (fun (hz : Within [.regs, .agg, .mem, .tree, .tol, .out, .fresh] s z) => ?_) ?_; rotate_left; dsimp only [z]; rotate_left; clear_value z)
    | (intro z; refine (fun (hz : Within [.regs, .agg, .mem, .tree, .tol, .out, .fresh] s z.1) => ?_) ?_; rotate_left; dsimp only [z]; rotate_left; clear_value z)
    | (intro z; refine (fun (hz : Within [.regs, .agg, .mem, .tree, .tol, .out, .fresh] s z.2) => ?_) ?_; rotate_left; dsimp only [z]; rotate_left; clear_value z)
    | (intro z; have _h : State → _ := z; clear _h; dsimp -zeta only [z]; clear z)
    | (intro z; have _h : State × _ → _ := z; clear _h; dsimp -zeta only [z]; clear z)
    | (intro z; clear_value z)
    | (intro z; dsimp -zeta only [z]; clear z)
    | lift_lets -underBinder
    | split

theorem State.enterDead_within (s : State) : Within [.regs, .agg] s (State.enterDead s) := by
  unfold State.enterDead
  repeat' first
    | with_reducible exact Within.refl _ _
    | with_reducible assumption
    | exact (rfl : _ = true)
    | (with_reducible apply Within.via (State.fset_within ..))
    | (with_reducible apply Within.via (State.irq_within ..))
    | (with_reducible apply Within.via (State.exitBegin_within ..))
    | with_reducible apply Within.foldl
    | refine (fun (s : State) x => ?_)
    | (intro z; refine (fun (hz : Within [.regs, .agg] s z) => ?_) ?_; rotate_left; dsimp only [z]; rotate_left; clear_value z)
    | (intro z; clear_value z)
    | lift_lets -underBinder
    | split

theorem State.lockstepDisagree_within (s : State) (a1 : Option Nat) : Within [.regs, .agg, .tol] s (State.lockstepDisagree s a1) := by
  unfold State.lockstepDisagree
  repeat' first
    | with_reducible exact Within.refl _ _
    | with_reducible assumption
    | exact (rfl : _ = true)
    | (with_reducible apply Within.via (State.fset_within ..))
    | (with_reducible apply Within.via (State.finc_within ..))
    | (with_reducible apply Within.via (State.logEvent_within ..))
    | (with_reducible apply Within.via (State.setTol_within ..))
    | (with_reducible apply Within.via (State.enterDead_within ..))
    | (intro z; refine (fun (hz : Within [.regs, .agg, .tol] s z) => ?_) ?_; rotate_left; dsimp only [z]; rotate_left; clear_value z)
    | (intro z; clear_value z)
    | lift_lets -underBinder
    | split

theorem State.tripleRestore_within (s : State) : Within [.regs, .agg, .tol] s (State.tripleRestore s) := by
  unfold State.tripleRestore
  repeat' first
    | with_reducible exact Within.refl _ _
    | with_reducible assumption
    | exact (rfl : _ = true)
    | (with_reducible apply Within.via (State.fset_within ..))
    | (with_reducible apply Within.via (State.setTol_within ..))
    | (intro z; refine (fun (hz : Within [.regs, .agg, .tol] s z) => ?_) ?_; rotate_left; dsimp only [z]; rotate_left; clear_value z)
    | (intro z; clear_value z)
    | lift_lets -underBinder
    | split

theorem State.sramScrub_within (s : State) (a1 : Bool) : Within [.regs, .agg] s (State.sramScrub s a1) := by
  unfold State.sramScrub
  repeat' first
    | with_reducible exact Within.refl _ _
    | exact (rfl : _ = true)
    | (with_reducible apply Within.via (State.enterDead_within ..))
    | split

theorem State.eventLogCopy_within (s : State) (a1 : Nat) (a2 : Nat) : Within [.regs, .agg, .tol] s (State.eventLogCopy s a1 a2) := by
  unfold State.eventLogCopy
  repeat' first
    | with_reducible exact Within.refl _ _
    | with_reducible assumption
    | exact (rfl : _ = true)
    | (with_reducible apply Within.via (State.fadd_within ..))
    | (with_reducible apply Within.via (State.logEvent_within ..))
    | (with_reducible apply Within.via (State.setTol_within ..))
    | (intro z; refine (fun (hz : Within [.regs, .agg, .tol] s z) => ?_) ?_; rotate_left; dsimp only [z]; rotate_left; clear_value z)
    | (intro z; clear_value z)
    | lift_lets -underBinder
    | split

end Sys2Proof.Machine
end

