-- ==== Sys2Proof/Laws/WithinRegPages.lean ====
section
/-! SUPPORT. Which parts of the state each operation of Machine/RegPages.lean touches. -/

namespace Sys2Proof.Machine

theorem State.aggSettle_within (s : State) (a1 : Nat) : Within [.agg] s (State.aggSettle s a1) := by
  unfold State.aggSettle
  repeat' first
    | with_reducible exact Within.refl _ _
    | exact (rfl : _ = true)
    | split
    | with_reducible apply Within.agg

theorem State.aggPush_within (s : State) (a1 : Nat) (a2 : Nat) : Within [.regs, .agg] s (State.aggPush s a1 a2) := by
  unfold State.aggPush
  repeat' first
    | with_reducible exact Within.refl _ _
    | with_reducible assumption
    | exact (rfl : _ = true)
    | (with_reducible apply Within.via (State.fset_within ..))
    | (intro z; refine (fun (hz : Within [.regs, .agg] s z) => ?_) ?_; rotate_left; dsimp only [z]; rotate_left; clear_value z)
    | (intro z; clear_value z)
    | lift_lets -underBinder
    | split
    | with_reducible apply Within.agg

theorem State.summaryPush_within (s : State) : Within [.regs, .agg] s (State.summaryPush s) := by
  unfold State.summaryPush
  repeat' first
    | with_reducible exact Within.refl _ _
    | with_reducible assumption
    | exact (rfl : _ = true)
    | (with_reducible apply Within.via (State.aggPush_within ..))
    | with_reducible apply Within.foldl
    | refine (fun (s : State) x => ?_)
    | (intro z; refine (fun (hz : Within [.regs, .agg] s z) => ?_) ?_; rotate_left; dsimp only [z]; rotate_left; clear_value z)
    | (intro z; clear_value z)
    | lift_lets -underBinder
    | split
    | with_reducible apply Within.agg

theorem State.aggPop_within (s : State) (a1 : Nat) : Within [.agg] s (State.aggPop s a1) := by
  unfold State.aggPop
  repeat' first
    | with_reducible exact Within.refl _ _
    | exact (rfl : _ = true)
    | (with_reducible apply Within.via (State.aggSettle_within ..))
    | with_reducible apply Within.agg

theorem State.msixSend_within (s : State) (a1 : Nat) : Within [.agg, .out] s (State.msixSend s a1) := by
  unfold State.msixSend
  repeat' first
    | with_reducible exact Within.refl _ _
    | exact (rfl : _ = true)
    | (with_reducible apply Within.via (State.emit_within ..))
    | split
    | with_reducible apply Within.agg

end Sys2Proof.Machine
end

