-- ==== Sys2Proof/Laws/WithinReset.lean ====
section
/-! SUPPORT. Which parts of the state each operation of Machine/Reset.lean touches. -/

namespace Sys2Proof.Machine

theorem State.resetAll_within (s : State) (cause : Nat) (power : Bool) :
    Within [.regs, .views, .agg, .fab, .eddies, .mil, .mem, .stalls, .tally, .tide, .tree, .tol, .clk, .pins, .lanes, .dbg, .d2d, .ports] s (s.resetAll cause power) := by
  unfold State.resetAll
  lift_lets -underBinder
  intro fused c0 c d0 d1 s1
  have h1 : Within [.regs, .views, .agg, .fab, .eddies, .mil, .mem, .stalls, .tally, .tide, .tree, .tol, .clk, .pins, .lanes, .dbg, .d2d, .ports] s s1 :=
    Within.prim (Within.refl _ s) rfl rfl rfl rfl (fun _ => rfl) (fun p hp => by cases p <;> first | rfl | exact absurd hp (by decide))
  clear_value s1
  exact Within.via (State.fset_within ..) rfl (Within.via (State.wr32_within ..) rfl h1)

theorem State.takeStraps_within (s : State) (a1 : Nat) : Within [.regs, .agg] s (State.takeStraps s a1) := by
  unfold State.takeStraps
  repeat' first
    | with_reducible exact Within.refl _ _
    | with_reducible assumption
    | exact (rfl : _ = true)
    | (with_reducible apply Within.via (State.wr32_within ..))
    | (with_reducible apply Within.via (State.wr64_within ..))
    | (with_reducible apply Within.via (State.fset_within ..))
    | (intro z; refine (fun (hz : Within [.regs, .agg] s z) => ?_) ?_; rotate_left; dsimp only [z]; rotate_left; clear_value z)
    | (intro z; clear_value z)
    | lift_lets -underBinder
    | split

theorem State.identify_within (s : State) (a1 : List (Nat × Nat × Nat)) : Within [.regs, .agg] s (State.identify s a1) := by
  unfold State.identify
  repeat' first
    | with_reducible exact Within.refl _ _
    | exact (rfl : _ = true)
    | (with_reducible apply Within.via (State.wr32_within ..))
    | (with_reducible apply Within.via (State.fset_within ..))
    | with_reducible apply Within.foldl
    | refine (fun (s : State) x => ?_)
    | split

theorem State.admitFords_within (s : State) (a1 : StartEnv) : Within [.regs, .agg, .fab, .eddies, .mil, .mem, .stalls, .tally, .tree, .tol, .lanes, .dbg, .d2d, .ports, .out, .fresh] s (State.admitFords s a1) := by
  unfold State.admitFords
  repeat' first
    | with_reducible exact Within.refl _ _
    | exact (rfl : _ = true)
    | (with_reducible apply Within.via (State.quarantine_within ..))
    | (with_reducible apply Within.via (State.trainFord_within ..))
    | (with_reducible apply Within.via (State.fordRefused_within ..))
    | with_reducible apply Within.foldl
    | refine (fun (s : State) x => ?_)
    | split

theorem State.trainYards_within (s : State) (a1 : TrainEnv) : Within [.regs, .agg, .fab, .eddies, .mil, .stalls, .tally, .tol, .lanes, .dbg, .d2d, .out, .fresh] s (State.trainYards s a1) := by
  unfold State.trainYards
  repeat' first
    | with_reducible exact Within.refl _ _
    | exact (rfl : _ = true)
    | (with_reducible apply Within.via (State.fuseAll_within ..))
    | (with_reducible apply Within.via (State.yardCut_within ..))
    | (with_reducible apply Within.via (State.trainYard_within ..))
    | with_reducible apply Within.foldl
    | refine (fun (s : State) x => ?_)
    | split

theorem State.trainHbm_within (s : State) (a1 : List Nat) : Within [.regs, .agg, .mil, .out, .fresh] s (State.trainHbm s a1) := by
  unfold State.trainHbm
  repeat' first
    | with_reducible exact Within.refl _ _
    | exact (rfl : _ = true)
    | (with_reducible apply Within.via (State.fset_within ..))
    | (with_reducible apply Within.via (State.hbmIfError_within ..))
    | with_reducible apply Within.foldl
    | refine (fun (s : State) x => ?_)
    | split

theorem State.calibrateLanes_within (s : State) (a1 : List Nat) : Within [.regs, .agg, .tol, .lanes] s (State.calibrateLanes s a1) := by
  unfold State.calibrateLanes
  repeat' first
    | with_reducible exact Within.refl _ _
    | with_reducible assumption
    | exact (rfl : _ = true)
    | (with_reducible apply Within.via (State.setStage_within ..))
    | (with_reducible apply Within.via (State.leaveCal_within ..))
    | (with_reducible apply Within.via (State.laneRefLost_within ..))
    | with_reducible apply Within.foldl
    | refine (fun (s : State) x => ?_)
    | (intro z; refine (fun (hz : Within [.regs, .agg, .tol, .lanes] s z) => ?_) ?_; rotate_left; dsimp only [z]; rotate_left; clear_value z)
    | (intro z; clear_value z)
    | lift_lets -underBinder
    | split

theorem State.deviceEndpoints_within (s : State) : Within [.regs, .agg] s (State.deviceEndpoints s) := by
  unfold State.deviceEndpoints
  repeat' first
    | with_reducible exact Within.refl _ _
    | exact (rfl : _ = true)
    | (with_reducible apply Within.via (State.wr32_within ..))
    | with_reducible apply Within.foldl
    | refine (fun (s : State) x => ?_)

theorem State.loadSeed_within (s : State) (a1 : Nat) (a2 : Bool) : Within [.regs, .agg, .mem] s (State.loadSeed s a1 a2) := by
  unfold State.loadSeed
  repeat' first
    | with_reducible exact Within.refl _ _
    | exact (rfl : _ = true)
    | (with_reducible apply Within.via (State.loadSlot_within ..))

theorem State.startLoad_within (s : State) (a1 : ButarIn) : Within [.regs, .agg, .fab, .eddies, .mem, .stalls, .tally, .tol, .fresh] s (sumState s (State.startLoad s a1)) := by
  unfold State.startLoad
  repeat' first
    | with_reducible exact Within.refl _ _
    | with_reducible assumption
    | exact (rfl : _ = true)
    | (with_reducible apply Within.via (State.createStall_within ..))
    | (with_reducible apply Within.via (State.loadBegin_within ..))
    | (with_reducible apply Within.via (State.loadEnd_within ..))
    | (with_reducible apply Within.via (State.setTol_within ..))
    | (with_reducible apply Within.via (State.loadSeed_within ..))
    | with_reducible exact Within.inl
    | with_reducible apply Within.inr
    | (intro z; refine (fun (hz : Within [.regs, .agg, .fab, .eddies, .mem, .stalls, .tally, .tol, .fresh] s z) => ?_) ?_; rotate_left; dsimp only [z]; rotate_left; clear_value z)
    | (intro z; clear_value z)
    | lift_lets -underBinder
    | split

theorem State.startImages_within (a0 : List ButarIn) (a1 : List Nat) (s : State) : Within [.regs, .agg, .fab, .eddies, .mil, .mem, .stalls, .tally, .tide, .tol, .pins, .lanes, .dbg, .ports, .out, .fresh] s (State.startImages a0 a1 s).1 := by
  induction a0 generalizing s a1 with
  | nil =>
    unfold State.startImages
    repeat' first
      | with_reducible exact Within.refl _ _
      | with_reducible assumption
      | exact (rfl : _ = true)
      | (with_reducible apply Within.via (State.logEvent_within ..))
      | (with_reducible apply Within.via (State.destroyAll_within ..))
      | exact Within.mono (State.startLoad_within ..) (by decide)
      | exact Within.mono (Within.ofInr (State.startLoad_within ..) (by assumption)) (by decide)
      | with_reducible apply Within.foldl
      | refine (fun (s : State) x => ?_)
      | (intro z; refine (fun (hz : Within [.regs, .agg, .fab, .eddies, .mil, .mem, .stalls, .tally, .tide, .tol, .pins, .lanes, .dbg, .ports, .out, .fresh] s z) => ?_) ?_; rotate_left; dsimp only [z]; rotate_left; clear_value z)
      | (intro z; clear_value z)
      | lift_lets -underBinder
      | split
  | cons x a0 ih =>
    unfold State.startImages
    repeat' first
      | with_reducible exact Within.refl _ _
      | with_reducible assumption
      | exact (rfl : _ = true)
      | (with_reducible apply Within.via (State.logEvent_within ..))
      | (with_reducible apply Within.via (State.destroyAll_within ..))
      | exact Within.mono (State.startLoad_within ..) (by decide)
      | exact Within.mono (Within.ofInr (State.startLoad_within ..) (by assumption)) (by decide)
      | (with_reducible apply Within.via (ih ..))
      | with_reducible apply Within.foldl
      | refine (fun (s : State) x => ?_)
      | (intro z; refine (fun (hz : Within [.regs, .agg, .fab, .eddies, .mil, .mem, .stalls, .tally, .tide, .tol, .pins, .lanes, .dbg, .ports, .out, .fresh] s z) => ?_) ?_; rotate_left; dsimp only [z]; rotate_left; clear_value z)
      | (intro z; clear_value z)
      | lift_lets -underBinder
      | split

theorem State.startBundle_within (s : State) (a1 : List ButarIn) : Within [.regs, .agg, .fab, .eddies, .mil, .mem, .stalls, .tally, .tide, .tol, .pins, .lanes, .dbg, .ports, .out, .fresh] s (State.startBundle s a1) := by
  unfold State.startBundle
  repeat' first
    | with_reducible exact Within.refl _ _
    | with_reducible assumption
    | exact (rfl : _ = true)
    | (with_reducible apply Within.via (State.swapAtStart_within ..))
    | (with_reducible apply Within.via (State.startImages_within ..))
    | with_reducible apply Within.foldl
    | refine (fun (s : State) x => ?_)
    | (intro z; refine (fun (hz : Within [.regs, .agg, .fab, .eddies, .mil, .mem, .stalls, .tally, .tide, .tol, .pins, .lanes, .dbg, .ports, .out, .fresh] s z) => ?_) ?_; rotate_left; dsimp only [z]; rotate_left; clear_value z)
    | (intro z; clear_value z)
    | lift_lets -underBinder

theorem State.accept_within (s : State) : Within [.regs, .agg] s (State.accept s) := by
  unfold State.accept
  repeat' first
    | with_reducible exact Within.refl _ _
    | exact (rfl : _ = true)
    | (with_reducible apply Within.via (State.fset_within ..))
    | with_reducible apply Within.foldl
    | refine (fun (s : State) x => ?_)
    | split

theorem State.start_within (s : State) (a1 : StartEnv) : Within [.regs, .agg, .fab, .eddies, .mil, .mem, .stalls, .tally, .tide, .tree, .tol, .clk, .pins, .lanes, .dbg, .d2d, .ports, .out, .fresh] s (State.start s a1) := by
  unfold State.start
  repeat' first
    | with_reducible exact Within.refl _ _
    | with_reducible assumption
    | exact (rfl : _ = true)
    | (with_reducible apply Within.via (State.fset_within ..))
    | (with_reducible apply Within.via (State.setClk_within ..))
    | (with_reducible apply Within.via (State.takeStraps_within ..))
    | (with_reducible apply Within.via (State.identify_within ..))
    | (with_reducible apply Within.via (State.admitFords_within ..))
    | (with_reducible apply Within.via (State.trainYards_within ..))
    | (with_reducible apply Within.via (State.trainHbm_within ..))
    | (with_reducible apply Within.via (State.calibrateLanes_within ..))
    | (with_reducible apply Within.via (State.deviceEndpoints_within ..))
    | (with_reducible apply Within.via (State.loadSeed_within ..))
    | (with_reducible apply Within.via (State.startBundle_within ..))
    | (with_reducible apply Within.via (State.accept_within ..))
    | (intro z; refine (fun (hz : Within [.regs, .agg, .fab, .eddies, .mil, .mem, .stalls, .tally, .tide, .tree, .tol, .clk, .pins, .lanes, .dbg, .d2d, .ports, .out, .fresh] s z) => ?_) ?_; rotate_left; dsimp only [z]; rotate_left; clear_value z)
    | (intro z; clear_value z)
    | lift_lets -underBinder
    | split

theorem State.deviceReset_within (s : State) (a1 : Nat) (a2 : StartEnv) : Within [.regs, .views, .agg, .fab, .eddies, .mil, .mem, .stalls, .tally, .tide, .tree, .tol, .clk, .pins, .lanes, .dbg, .d2d, .ports, .out, .fresh] s (State.deviceReset s a1 a2) := by
  unfold State.deviceReset
  repeat' first
    | with_reducible exact Within.refl _ _
    | exact (rfl : _ = true)
    | (with_reducible apply Within.via (State.resetAll_within ..))
    | (with_reducible apply Within.via (State.start_within ..))

theorem State.powerGood_within (s : State) (a1 : StartEnv) : Within [.regs, .views, .agg, .fab, .eddies, .mil, .mem, .stalls, .tally, .tide, .tree, .tol, .clk, .pins, .lanes, .dbg, .d2d, .ports, .out, .fresh] s (State.powerGood s a1) := by
  unfold State.powerGood
  repeat' first
    | with_reducible exact Within.refl _ _
    | exact (rfl : _ = true)
    | (with_reducible apply Within.via (State.resetAll_within ..))
    | (with_reducible apply Within.via (State.start_within ..))

theorem State.closeGates_within (s : State) : Within [.regs, .agg] s (State.closeGates s) := by
  unfold State.closeGates
  repeat' first
    | with_reducible exact Within.refl _ _
    | exact (rfl : _ = true)
    | (with_reducible apply Within.via (State.setGated_within ..))
    | with_reducible apply Within.foldl
    | refine (fun (s : State) x => ?_)

theorem State.refLoss_within (s : State) (a1 : Nat) : Within [.regs, .agg, .eddies, .mil, .stalls, .tally, .tide, .tol, .clk, .lanes, .dbg, .out, .fresh] s (State.refLoss s a1) := by
  unfold State.refLoss
  repeat' first
    | with_reducible exact Within.refl _ _
    | with_reducible assumption
    | exact (rfl : _ = true)
    | (with_reducible apply Within.via (State.pairLoses_within ..))
    | (with_reducible apply Within.via (State.laneRefLost_within ..))
    | (with_reducible apply Within.via (State.tidePairLost_within ..))
    | (with_reducible apply Within.via (State.closeGates_within ..))
    | (intro z; refine (fun (hz : Within [.regs, .agg, .eddies, .mil, .stalls, .tally, .tide, .tol, .clk, .lanes, .dbg, .out, .fresh] s z) => ?_) ?_; rotate_left; dsimp only [z]; rotate_left; clear_value z)
    | (intro z; clear_value z)
    | lift_lets -underBinder
    | split

theorem State.refPairReturn_within (s : State) (a1 : Nat) : Within [.regs, .agg, .tide] s (State.refPairReturn s a1) := by
  unfold State.refPairReturn
  repeat' first
    | with_reducible exact Within.refl _ _
    | with_reducible assumption
    | exact (rfl : _ = true)
    | (with_reducible apply Within.via (State.setBit_within ..))
    | (with_reducible apply Within.via (State.laneRefReturns_within ..))
    | (with_reducible apply Within.via (State.tidePairBack_within ..))
    | (intro z; refine (fun (hz : Within [.regs, .agg, .tide] s z) => ?_) ?_; rotate_left; dsimp only [z]; rotate_left; clear_value z)
    | (intro z; clear_value z)
    | lift_lets -underBinder
    | split

theorem State.refReturn_within (s : State) (a1 : StartEnv) : Within [.regs, .views, .agg, .fab, .eddies, .mil, .mem, .stalls, .tally, .tide, .tree, .tol, .clk, .pins, .lanes, .dbg, .d2d, .ports, .out, .fresh] s (State.refReturn s a1) := by
  unfold State.refReturn
  repeat' first
    | with_reducible exact Within.refl _ _
    | exact (rfl : _ = true)
    | (with_reducible apply Within.via (State.deviceReset_within ..))
    | split

theorem State.fixedLost_within (s : State) (a1 : Nat) (a2 : StartEnv) : Within [.regs, .views, .agg, .fab, .eddies, .mil, .mem, .stalls, .tally, .tide, .tree, .tol, .clk, .pins, .lanes, .dbg, .d2d, .ports, .out, .fresh] s (State.fixedLost s a1 a2) := by
  unfold State.fixedLost
  repeat' first
    | with_reducible exact Within.refl _ _
    | exact (rfl : _ = true)
    | (with_reducible apply Within.via (State.quarantine_within ..))
    | (with_reducible apply Within.via (State.deviceReset_within ..))
    | split

theorem State.clockLoss_within (s : State) (a1 : ClockLost) (a2 : StartEnv) : Within [.regs, .views, .agg, .fab, .eddies, .mil, .mem, .stalls, .tally, .tide, .tree, .tol, .clk, .pins, .lanes, .dbg, .d2d, .ports, .out, .fresh] s (State.clockLoss s a1 a2) := by
  unfold State.clockLoss
  repeat' first
    | with_reducible exact Within.refl _ _
    | exact (rfl : _ = true)
    | (with_reducible apply Within.via (State.outLost_within ..))
    | (with_reducible apply Within.via (State.pllLost_within ..))
    | (with_reducible apply Within.via (State.quarantine_within ..))
    | (with_reducible apply Within.via (State.fixedLost_within ..))
    | split

theorem State.railLoss_within (s : State) (a1 : Rail) (a2 : Bool) : Within [.regs, .agg, .fab, .eddies, .mil, .mem, .stalls, .tally, .tree, .tol, .clk, .lanes, .dbg, .d2d, .ports, .out, .fresh] s (State.railLoss s a1 a2) := by
  unfold State.railLoss
  repeat' first
    | with_reducible exact Within.refl _ _
    | exact (rfl : _ = true)
    | (with_reducible apply Within.via (State.useFree_within ..))
    | (with_reducible apply Within.via (State.logEvent_within ..))
    | (with_reducible apply Within.via (State.hbmIfError_within ..))
    | (with_reducible apply Within.via (State.setClk_within ..))
    | (with_reducible apply Within.via (State.quarantine_within ..))
    | (with_reducible apply Within.via (State.closeGates_within ..))
    | with_reducible apply Within.foldl
    | refine (fun (s : State) x => ?_)
    | split

theorem State.thermTrip_within (s : State) : Within [.regs, .agg, .clk] s (State.thermTrip s) := by
  unfold State.thermTrip
  repeat' first
    | with_reducible exact Within.refl _ _
    | exact (rfl : _ = true)
    | (with_reducible apply Within.via (State.setClk_within ..))
    | (with_reducible apply Within.via (State.closeGates_within ..))

theorem State.thermAlert_within (s : State) (a1 : Bool) : Within [.clk] s (State.thermAlert s a1) := by
  unfold State.thermAlert
  repeat' first
    | with_reducible exact Within.refl _ _
    | exact (rfl : _ = true)
    | (with_reducible apply Within.via (State.setClk_within ..))

end Sys2Proof.Machine
end

