-- ==== Sys2Proof/Laws/WithinRegFile.lean ====
section
/-! SUPPORT. Which parts of the state each operation of Machine/RegFile.lean touches. -/

namespace Sys2Proof.Machine

theorem State.setReg_within (s : State) (a1 : RegDef) (a2 : Nat) (a3 : Nat) : Within [.regs, .agg] s (State.setReg s a1 a2 a3) := by
  unfold State.setReg
  repeat' first
    | with_reducible exact Within.refl _ _
    | exact (rfl : _ = true)
    | (with_reducible apply Within.via (State.wr32_within ..))
    | (with_reducible apply Within.via (State.wr64_within ..))
    | split

theorem State.plainWrite_within (s : State) (a1 : RegDef) (a2 : Nat) (a3 : Nat) : Within [.regs, .agg] s (State.plainWrite s a1 a2 a3) := by
  unfold State.plainWrite
  repeat' first
    | with_reducible exact Within.refl _ _
    | exact (rfl : _ = true)
    | (with_reducible apply Within.via (State.setReg_within ..))

theorem State.headerWrite_within (s : State) (a1 : PageKind) (a2 : RegDef) (a3 : Nat) (a4 : Nat) (a5 : Nat) : Within [.regs, .agg] s (State.headerWrite s a1 a2 a3 a4 a5) := by
  unfold State.headerWrite
  repeat' first
    | with_reducible exact Within.refl _ _
    | with_reducible assumption
    | exact (rfl : _ = true)
    | (with_reducible apply Within.via (State.wr32_within ..))
    | (with_reducible apply Within.via (State.fset_within ..))
    | (with_reducible apply Within.via (State.plainWrite_within ..))
    | (intro z; refine (fun (hz : Within [.regs, .agg] s z) => ?_) ?_; rotate_left; dsimp only [z]; rotate_left; clear_value z)
    | (intro z; clear_value z)
    | lift_lets -underBinder
    | split

theorem State.readEffect_within (s : State) (a1 : Req) (a2 : PageKind) (a3 : Nat) (a4 : Nat) (a5 : RegDef) (a6 : Nat) (a7 : Nat) : Within [.regs, .agg, .fresh] s (State.readEffect s a1 a2 a3 a4 a5 a6 a7) := by
  unfold State.readEffect
  repeat' first
    | with_reducible exact Within.refl _ _
    | with_reducible assumption
    | exact (rfl : _ = true)
    | (with_reducible apply Within.via (State.useFree_within ..))
    | (with_reducible apply Within.via (State.memDataRead_within ..))
    | (with_reducible apply Within.via (State.setReg_within ..))
    | (intro z; refine (fun (hz : Within [.regs, .agg, .fresh] s z) => ?_) ?_; rotate_left; dsimp only [z]; rotate_left; clear_value z)
    | (intro z; clear_value z)
    | lift_lets -underBinder
    | split

theorem State.ringWake_within (s : State) (a1 : Req) (a2 : Nat) : Within [.regs, .agg] s (State.ringWake s a1 a2) := by
  unfold State.ringWake
  repeat' first
    | with_reducible exact Within.refl _ _
    | exact (rfl : _ = true)
    | (with_reducible apply Within.via (State.wake_within ..))
    | (with_reducible apply Within.via (State.ring_within ..))
    | split

theorem State.clkCtlWrite_within (s : State) (a1 : Req) (a2 : RegDef) (a3 : Nat) (a4 : Nat) (a5 : Nat) : Within [.regs, .agg, .clk] s (State.clkCtlWrite s a1 a2 a3 a4 a5) := by
  unfold State.clkCtlWrite
  repeat' first
    | with_reducible exact Within.refl _ _
    | exact (rfl : _ = true)
    | (with_reducible apply Within.via (State.pllCfgWrite_within ..))
    | (with_reducible apply Within.via (State.pllOutWrite_within ..))
    | (with_reducible apply Within.via (State.clearLost_within ..))
    | (with_reducible apply Within.via (State.fmeasWrite_within ..))
    | (with_reducible apply Within.via (State.plainWrite_within ..))
    | with_reducible apply Within.foldl
    | refine (fun (s : State) x => ?_)
    | split

theorem State.yardClkWrite_within (s : State) (a1 : Req) (a2 : Nat) (a3 : RegDef) (a4 : Nat) (a5 : Nat) (a6 : Nat) : Within [.regs, .agg, .clk] s (State.yardClkWrite s a1 a2 a3 a4 a5 a6) := by
  unfold State.yardClkWrite
  repeat' first
    | with_reducible exact Within.refl _ _
    | exact (rfl : _ = true)
    | (with_reducible apply Within.via (State.pllCfgWrite_within ..))
    | (with_reducible apply Within.via (State.pllOutWrite_within ..))
    | (with_reducible apply Within.via (State.clearLost_within ..))
    | (with_reducible apply Within.via (State.plainWrite_within ..))
    | with_reducible apply Within.foldl
    | refine (fun (s : State) x => ?_)
    | split

theorem State.shedClkWrite_within (s : State) (a1 : Nat) (a2 : RegDef) (a3 : Nat) (a4 : Nat) (a5 : Nat) : Within [.regs, .agg, .clk] s (State.shedClkWrite s a1 a2 a3 a4 a5) := by
  unfold State.shedClkWrite
  repeat' first
    | with_reducible exact Within.refl _ _
    | exact (rfl : _ = true)
    | (with_reducible apply Within.via (State.spineSelWrite_within ..))
    | (with_reducible apply Within.via (State.spineCmd_within ..))
    | (with_reducible apply Within.via (State.clearLost_within ..))
    | (with_reducible apply Within.via (State.plainWrite_within ..))
    | split

theorem State.eddyCfgWrite_within (s : State) (a1 : Req) (a2 : Nat) (a3 : RegDef) (a4 : Nat) (a5 : Nat) : Within [.regs, .agg] s (State.eddyCfgWrite s a1 a2 a3 a4 a5) := by
  unfold State.eddyCfgWrite
  repeat' first
    | with_reducible exact Within.refl _ _
    | exact (rfl : _ = true)
    | (with_reducible apply Within.via (State.refuse_within ..))
    | (with_reducible apply Within.via (State.plainWrite_within ..))
    | split

theorem State.epqCtlWrite_within (s : State) (a1 : Nat) (a2 : RegDef) (a3 : Nat) (a4 : Nat) : Within [.regs, .agg, .mil, .out, .fresh] s (State.epqCtlWrite s a1 a2 a3 a4) := by
  unfold State.epqCtlWrite
  repeat' first
    | with_reducible exact Within.refl _ _
    | with_reducible assumption
    | exact (rfl : _ = true)
    | (with_reducible apply Within.via (State.dropRestIn_within ..))
    | (with_reducible apply Within.via (State.dropRestOut_within ..))
    | (with_reducible apply Within.via (State.flushIn_within ..))
    | (with_reducible apply Within.via (State.flushOut_within ..))
    | (with_reducible apply Within.via (State.plainWrite_within ..))
    | (intro z; refine (fun (hz : Within [.regs, .agg, .mil, .out, .fresh] s z) => ?_) ?_; rotate_left; dsimp only [z]; rotate_left; clear_value z)
    | (intro z; clear_value z)
    | lift_lets -underBinder
    | split

theorem State.rgnWrite_within (s : State) (a1 : Req) (a2 : Nat) (a3 : Nat) (a4 : RegDef) (a5 : Nat) (a6 : Nat) (a7 : Nat) : Within [.regs, .agg, .mem] s (State.rgnWrite s a1 a2 a3 a4 a5 a6 a7) := by
  unfold State.rgnWrite
  repeat' first
    | with_reducible exact Within.refl _ _
    | with_reducible assumption
    | exact (rfl : _ = true)
    | (with_reducible apply Within.via (State.fset_within ..))
    | (with_reducible apply Within.via (State.refuse_within ..))
    | (with_reducible apply Within.via (State.rgnCmd_within ..))
    | (with_reducible apply Within.via (State.plainWrite_within ..))
    | (intro z; refine (fun (hz : Within [.regs, .agg, .mem] s z) => ?_) ?_; rotate_left; dsimp only [z]; rotate_left; clear_value z)
    | (intro z; clear_value z)
    | lift_lets -underBinder
    | split

theorem State.memPageWrite_within (s : State) (a1 : Req) (a2 : Nat) (a3 : RegDef) (a4 : Nat) (a5 : Nat) (a6 : Nat) : Within [.regs, .agg, .mem] s (State.memPageWrite s a1 a2 a3 a4 a5 a6) := by
  unfold State.memPageWrite
  repeat' first
    | with_reducible exact Within.refl _ _
    | exact (rfl : _ = true)
    | (with_reducible apply Within.via (State.plainWrite_within ..))
    | (with_reducible apply Within.via (State.rgnWrite_within ..))
    | split

theorem State.sleepLanes_within (s : State) : Within [.regs, .agg, .eddies, .mil, .mem, .tree, .tol, .dbg, .ports, .fresh] s (State.sleepLanes s) := by
  unfold State.sleepLanes
  repeat' first
    | with_reducible exact Within.refl _ _
    | with_reducible assumption
    | exact (rfl : _ = true)
    | (with_reducible apply Within.via (State.setStage_within ..))
    | (with_reducible apply Within.via (State.linkDown_within ..))
    | with_reducible apply Within.foldl
    | refine (fun (s : State) x => ?_)
    | (intro z; refine (fun (hz : Within [.regs, .agg, .eddies, .mil, .mem, .tree, .tol, .dbg, .ports, .fresh] s z) => ?_) ?_; rotate_left; dsimp only [z]; rotate_left; clear_value z)
    | (intro z; clear_value z)
    | lift_lets -underBinder
    | split

theorem State.wakeLanes_within (s : State) : Within [.regs, .agg] s (State.wakeLanes s) := by
  unfold State.wakeLanes
  repeat' first
    | with_reducible exact Within.refl _ _
    | exact (rfl : _ = true)
    | (with_reducible apply Within.via (State.laneBegin_within ..))
    | with_reducible apply Within.foldl
    | refine (fun (s : State) x => ?_)
    | split

theorem State.powerStateEval_within (s : State) : Within [.regs, .agg, .eddies, .mil, .mem, .tree, .tol, .dbg, .ports, .fresh] s (State.powerStateEval s) := by
  unfold State.powerStateEval
  repeat' first
    | with_reducible exact Within.refl _ _
    | exact (rfl : _ = true)
    | (with_reducible apply Within.via (State.powerEval_within ..))
    | (with_reducible apply Within.via (State.sleepLanes_within ..))

theorem State.powerExit_within (s : State) : Within [.regs, .agg] s (State.powerExit s) := by
  unfold State.powerExit
  repeat' first
    | with_reducible exact Within.refl _ _
    | with_reducible assumption
    | exact (rfl : _ = true)
    | (with_reducible apply Within.via (State.exitComplete_within ..))
    | (with_reducible apply Within.via (State.wakeLanes_within ..))
    | (intro z; refine (fun (hz : Within [.regs, .agg] s z) => ?_) ?_; rotate_left; dsimp only [z]; rotate_left; clear_value z)
    | (intro z; clear_value z)
    | lift_lets -underBinder
    | split

theorem State.laneCfg_within (s : State) (a1 : Nat) (a2 : Nat) : Within [.regs, .agg, .eddies, .mil, .mem, .tree, .tol, .lanes, .dbg, .ports, .fresh] s (State.laneCfg s a1 a2) := by
  unfold State.laneCfg
  repeat' first
    | with_reducible exact Within.refl _ _
    | with_reducible assumption
    | exact (rfl : _ = true)
    | (with_reducible apply Within.via (State.laneCfgWrite_within ..))
    | (with_reducible apply Within.via (State.linkDown_within ..))
    | (intro z; refine (fun (hz : Within [.regs, .agg, .eddies, .mil, .mem, .tree, .tol, .lanes, .dbg, .ports, .fresh] s z) => ?_) ?_; rotate_left; dsimp only [z]; rotate_left; clear_value z)
    | (intro z; clear_value z)
    | lift_lets -underBinder
    | split

theorem State.grantWrite_within (s : State) (a1 : Req) (a2 : Nat) (a3 : Nat) : Within [.regs, .agg, .eddies, .dbg] s (State.grantWrite s a1 a2 a3) := by
  unfold State.grantWrite
  repeat' first
    | with_reducible exact Within.refl _ _
    | with_reducible assumption
    | exact (rfl : _ = true)
    | (with_reducible apply Within.via (State.fset_within ..))
    | (with_reducible apply Within.via (State.refuse_within ..))
    | (with_reducible apply Within.via (State.endGrant_within ..))
    | (intro z; refine (fun (hz : Within [.regs, .agg, .eddies, .dbg] s z) => ?_) ?_; rotate_left; dsimp only [z]; rotate_left; clear_value z)
    | (intro z; clear_value z)
    | lift_lets -underBinder
    | split

theorem State.bodyWrite_within (s : State) (a1 : Req) (a2 : PageKind) (a3 : Nat) (a4 : Nat) (a5 : RegDef) (a6 : Nat) (a7 : Nat) (a8 : Nat) : Within [.regs, .agg, .eddies, .mil, .mem, .stalls, .tally, .tide, .tree, .tol, .clk, .pins, .lanes, .dbg, .ports, .out, .fresh] s (State.bodyWrite s a1 a2 a3 a4 a5 a6 a7 a8) := by
  unfold State.bodyWrite
  repeat' first
    | with_reducible exact Within.refl _ _
    | with_reducible assumption
    | exact (rfl : _ = true)
    | (with_reducible apply Within.via (State.wr32_within ..))
    | (with_reducible apply Within.via (State.wearWarnWritten_within ..))
    | (with_reducible apply Within.via (State.eddyRun_within ..))
    | (with_reducible apply Within.via (State.memDataWrite_within ..))
    | (with_reducible apply Within.via (State.streamCtl_within ..))
    | (with_reducible apply Within.via (State.stimWrite_within ..))
    | (with_reducible apply Within.via (State.dbgCmd_within ..))
    | (with_reducible apply Within.via (State.dbgDataWrite_within ..))
    | (with_reducible apply Within.via (State.capCtlWrite_within ..))
    | (with_reducible apply Within.via (State.wpCfgWrite_within ..))
    | (with_reducible apply Within.via (State.ringCtlWrite_within ..))
    | (with_reducible apply Within.via (State.pinCfgWrite_within ..))
    | (with_reducible apply Within.via (State.gpioWrite_within ..))
    | (with_reducible apply Within.via (State.mgpioWrite_within ..))
    | (with_reducible apply Within.via (State.fabCfgWrite_within ..))
    | (with_reducible apply Within.via (State.txEqWrite_within ..))
    | (with_reducible apply Within.via (State.prbsCtlWrite_within ..))
    | (with_reducible apply Within.via (State.cplPop_within ..))
    | (with_reducible apply Within.via (State.mbCmdWrite_within ..))
    | (with_reducible apply Within.via (State.stallAlarmWrite_within ..))
    | (with_reducible apply Within.via (State.stallAlarmT_within ..))
    | (with_reducible apply Within.via (State.tideCfgWrite_within ..))
    | (with_reducible apply Within.via (State.fnLayoutWrite_within ..))
    | (with_reducible apply Within.via (State.fnAssignWrite_within ..))
    | (with_reducible apply Within.via (State.winWrite_within ..))
    | (with_reducible apply Within.via (State.rpOwnerWrite_within ..))
    | (with_reducible apply Within.via (State.stnCfgWrite_within ..))
    | (with_reducible apply Within.via (State.ethCfgWrite_within ..))
    | (with_reducible apply Within.via (State.skjUdpWrite_within ..))
    | (with_reducible apply Within.via (State.aggSettle_within ..))
    | (with_reducible apply Within.via (State.aggPop_within ..))
    | (with_reducible apply Within.via (State.plainWrite_within ..))
    | (with_reducible apply Within.via (State.ringWake_within ..))
    | (with_reducible apply Within.via (State.clkCtlWrite_within ..))
    | (with_reducible apply Within.via (State.yardClkWrite_within ..))
    | (with_reducible apply Within.via (State.shedClkWrite_within ..))
    | (with_reducible apply Within.via (State.eddyCfgWrite_within ..))
    | (with_reducible apply Within.via (State.epqCtlWrite_within ..))
    | (with_reducible apply Within.via (State.memPageWrite_within ..))
    | (with_reducible apply Within.via (State.powerStateEval_within ..))
    | (with_reducible apply Within.via (State.laneCfg_within ..))
    | (with_reducible apply Within.via (State.grantWrite_within ..))
    | (intro z; refine (fun (hz : Within [.regs, .agg, .eddies, .mil, .mem, .stalls, .tally, .tide, .tree, .tol, .clk, .pins, .lanes, .dbg, .ports, .out, .fresh] s z) => ?_) ?_; rotate_left; dsimp only [z]; rotate_left; clear_value z)
    | (intro z; clear_value z)
    | lift_lets -underBinder
    | split

end Sys2Proof.Machine
end

