-- ==== Sys2Proof/Laws/WithinRegAccess.lean ====
section
/-! SUPPORT. Which parts of the state each operation of Machine/RegAccess.lean touches. -/

namespace Sys2Proof.Machine

theorem State.readWhole_within (s : State) (a1 : Req) (a2 : PageRef) (a3 : RegDef) (a4 : Nat) (a5 : Nat) : Within [.regs, .agg, .fresh] s (State.readWhole s a1 a2 a3 a4 a5).1 := by
  unfold State.readWhole
  repeat' first
    | with_reducible exact Within.refl _ _
    | exact (rfl : _ = true)
    | (with_reducible apply Within.via (State.readEffect_within ..))
    | split

theorem State.writeWhole_within (s : State) (a1 : Req) (a2 : PageRef) (a3 : RegDef) (a4 : Nat) (a5 : Nat) (a6 : Nat) : Within [.regs, .agg, .eddies, .mil, .mem, .stalls, .tally, .tide, .tree, .tol, .clk, .pins, .lanes, .dbg, .ports, .out, .fresh] s (State.writeWhole s a1 a2 a3 a4 a5 a6) := by
  unfold State.writeWhole
  repeat' first
    | with_reducible exact Within.refl _ _
    | exact (rfl : _ = true)
    | (with_reducible apply Within.via (State.headerWrite_within ..))
    | (with_reducible apply Within.via (State.bodyWrite_within ..))
    | split

theorem State.readWord_within (s : State) (a1 : Req) (a2 : PageRef) (a3 : Nat) (a4 : Nat) : Within [.regs, .views, .agg, .fresh] s (State.readWord s a1 a2 a3 a4).1 := by
  unfold State.readWord
  repeat' first
    | with_reducible exact Within.refl _ _
    | with_reducible assumption
    | exact (rfl : _ = true)
    | (with_reducible apply Within.via (State.setViewBuf_within ..))
    | (with_reducible apply Within.via (State.readWhole_within ..))
    | with_reducible apply Within.foldl
    | with_reducible apply Within.foldlFst
    | with_reducible apply Within.foldlSnd
    | refine (fun (z : State × _) x hz => ?_)
    | refine (fun (z : _ × State) x hz => ?_)
    | refine (fun (z : State) (l : Loc) (d : List Nat) hz => ?_)
    | refine (fun (s : State) x => ?_)
    | (intro z; refine (fun (hz : Within [.regs, .views, .agg, .fresh] s z) => ?_) ?_; rotate_left; dsimp only [z]; rotate_left; clear_value z)
    | (intro z; refine (fun (hz : Within [.regs, .views, .agg, .fresh] s z.1) => ?_) ?_; rotate_left; dsimp only [z]; rotate_left; clear_value z)
    | (intro z; refine (fun (hz : Within [.regs, .views, .agg, .fresh] s z.2) => ?_) ?_; rotate_left; dsimp only [z]; rotate_left; clear_value z)
    | (intro z; have _h : State → _ := z; clear _h; dsimp -zeta only [z]; clear z)
    | (intro z; have _h : State × _ → _ := z; clear _h; dsimp -zeta only [z]; clear z)
    | (intro z; clear_value z)
    | (intro z; dsimp -zeta only [z]; clear z)
    | lift_lets -underBinder
    | split

theorem State.writeWord_within (s : State) (a1 : Req) (a2 : PageRef) (a3 : Nat) (a4 : Nat) (a5 : Nat) : Within [.regs, .views, .agg, .eddies, .mil, .mem, .stalls, .tally, .tide, .tree, .tol, .clk, .pins, .lanes, .dbg, .ports, .out, .fresh] s (State.writeWord s a1 a2 a3 a4 a5) := by
  unfold State.writeWord
  repeat' first
    | with_reducible exact Within.refl _ _
    | with_reducible assumption
    | exact (rfl : _ = true)
    | (with_reducible apply Within.via (State.refuse_within ..))
    | (with_reducible apply Within.via (State.setViewBuf_within ..))
    | (with_reducible apply Within.via (State.writeWhole_within ..))
    | (intro z; refine (fun (hz : Within [.regs, .views, .agg, .eddies, .mil, .mem, .stalls, .tally, .tide, .tree, .tol, .clk, .pins, .lanes, .dbg, .ports, .out, .fresh] s z) => ?_) ?_; rotate_left; dsimp only [z]; rotate_left; clear_value z)
    | (intro z; clear_value z)
    | lift_lets -underBinder
    | split

theorem State.pageRead_within (s : State) (req : Req) (g : PageRef) (o size upset : Nat) : Within [.regs, .views, .agg, .fresh] s (s.pageRead req g o size upset).1 := by
  have hw : ∀ t o, Within [.regs, .views, .agg, .fresh] t (t.readWord req g o upset).1 := fun t o => Within.mono (State.readWord_within ..) rfl
  have hr : ∀ t r e, Within [.regs, .views, .agg, .fresh] t (t.readWhole req g r e upset).1 := fun t r e => Within.mono (State.readWhole_within ..) rfl
  have hv : ∀ t b, Within [.regs, .views, .agg, .fresh] t (t.setViewBuf req g.base b) := fun t b => Within.mono (State.setViewBuf_within ..) rfl
  unfold State.pageRead
  split
  · split
    · split
      · lift_lets -underBinder
        intro s1
        split
        · exact (hv _ _).trans (hr _ _ _)
        · exact hv _ _
      · exact (hw _ _).trans (hw _ _)
    · exact (hw _ _).trans (hw _ _)
  · split
    · exact hw _ _
    · lift_lets -underBinder
      intro w s1
      split
      · exact hv _ _
      · split
        · exact hv _ _
        · exact (hv _ _).trans (hr _ _ _)

theorem State.pageWrite_within (s : State) (a1 : Req) (a2 : PageRef) (a3 : Nat) (a4 : Nat) (a5 : Nat) (a6 : Nat) : Within [.regs, .views, .agg, .eddies, .mil, .mem, .stalls, .tally, .tide, .tree, .tol, .clk, .pins, .lanes, .dbg, .ports, .out, .fresh] s (State.pageWrite s a1 a2 a3 a4 a5 a6) := by
  unfold State.pageWrite
  repeat' first
    | with_reducible exact Within.refl _ _
    | with_reducible assumption
    | exact (rfl : _ = true)
    | (with_reducible apply Within.via (State.refuse_within ..))
    | (with_reducible apply Within.via (State.setViewBuf_within ..))
    | (with_reducible apply Within.via (State.writeWhole_within ..))
    | (with_reducible apply Within.via (State.writeWord_within ..))
    | (intro z; refine (fun (hz : Within [.regs, .views, .agg, .eddies, .mil, .mem, .stalls, .tally, .tide, .tree, .tol, .clk, .pins, .lanes, .dbg, .ports, .out, .fresh] s z) => ?_) ?_; rotate_left; dsimp only [z]; rotate_left; clear_value z)
    | (intro z; clear_value z)
    | lift_lets -underBinder
    | split

theorem State.serveReg_within (s : State) (a1 : Req) (a2 : PageRef) (a3 : Nat) (a4 : Nat) (a5 : Access) (a6 : Nat) : Within [.regs, .views, .agg, .eddies, .mil, .mem, .stalls, .tally, .tide, .tree, .tol, .clk, .pins, .lanes, .dbg, .ports, .out, .fresh] s (State.serveReg s a1 a2 a3 a4 a5 a6).1 := by
  unfold State.serveReg
  repeat' first
    | with_reducible exact Within.refl _ _
    | with_reducible assumption
    | exact (rfl : _ = true)
    | (with_reducible apply Within.via (State.pageRead_within ..))
    | (with_reducible apply Within.via (State.pageWrite_within ..))
    | (intro z; refine (fun (hz : Within [.regs, .views, .agg, .eddies, .mil, .mem, .stalls, .tally, .tide, .tree, .tol, .clk, .pins, .lanes, .dbg, .ports, .out, .fresh] s z) => ?_) ?_; rotate_left; dsimp only [z]; rotate_left; clear_value z)
    | (intro z; clear_value z)
    | lift_lets -underBinder
    | split

theorem State.windowAt_within (s : State) (a1 : Req) (a2 : Nat) (a3 : Nat) (a4 : Nat) (a5 : Access) (a6 : Nat) : Within [.regs, .views, .agg, .eddies, .mil, .mem, .stalls, .tally, .tide, .tree, .tol, .clk, .pins, .lanes, .dbg, .ports, .out, .fresh] s (State.windowAt s a1 a2 a3 a4 a5 a6).1 := by
  unfold State.windowAt
  repeat' first
    | with_reducible exact Within.refl _ _
    | exact (rfl : _ = true)
    | (with_reducible apply Within.via (State.serveReg_within ..))
    | split

theorem State.windowAccess_within (s : State) (a1 : Req) (a2 : Nat) (a3 : Nat) (a4 : Nat) (a5 : Access) (a6 : Nat) : Within [.regs, .views, .agg, .eddies, .mil, .mem, .stalls, .tally, .tide, .tree, .tol, .clk, .pins, .lanes, .dbg, .ports, .out, .fresh] s (State.windowAccess s a1 a2 a3 a4 a5 a6).1 := by
  unfold State.windowAccess
  repeat' first
    | with_reducible exact Within.refl _ _
    | exact (rfl : _ = true)
    | (with_reducible apply Within.via (State.windowAt_within ..))
    | split

theorem State.plainAccess_within (s : State) (a1 : Req) (a2 : Nat) (a3 : Nat) (a4 : Access) (a5 : Nat) : Within [.regs, .views, .agg, .eddies, .mil, .mem, .stalls, .tally, .tide, .tree, .tol, .clk, .pins, .lanes, .dbg, .ports, .out, .fresh] s (State.plainAccess s a1 a2 a3 a4 a5).1 := by
  unfold State.plainAccess
  repeat' first
    | with_reducible exact Within.refl _ _
    | exact (rfl : _ = true)
    | (with_reducible apply Within.via (State.serveReg_within ..))
    | (with_reducible apply Within.via (State.windowAccess_within ..))
    | split

theorem State.accGo_within (s : State) (v : Nat) : Within [.regs, .views, .agg, .eddies, .mil, .mem, .stalls, .tally, .tide, .tree, .tol, .clk, .pins, .lanes, .dbg, .ports, .out, .fresh] s (s.accGo v) := by
  have he : ∀ t : State, Within [.regs, .views, .agg, .eddies, .mil, .mem, .stalls, .tally, .tide, .tree, .tol, .clk, .pins, .lanes, .dbg, .ports, .out, .fresh] s t → ∀ r : Nat,
      Within [.regs, .views, .agg, .eddies, .mil, .mem, .stalls, .tally, .tide, .tree, .tol, .clk, .pins, .lanes, .dbg, .ports, .out, .fresh] s ((t.fset (rDBG_ACC_CTL v) fDBG_ACC_CTL_RESULT r).irq (PageKind.dbgSess.addr v) 2) := fun t ht r =>
    Within.via (State.irq_within ..) rfl (Within.via (State.fset_within ..) rfl ht)
  unfold State.accGo
  dsimp only
  split
  · exact he _ (Within.refl _ _) _
  · split
    · exact he _ (Within.refl _ _) _
    · have hx := fun sub addr w => Within.mono (State.plainAccess_within s sub addr 4 w 0) (F := [.regs, .views, .agg, .eddies, .mil, .mem, .stalls, .tally, .tide, .tree, .tol, .clk, .pins, .lanes, .dbg, .ports, .out, .fresh]) rfl
      split
      · exact he _ (Within.refl _ _) _
      · exact he _ (Within.refl _ _) _
      · split
        · exact he _ (hx _ _ _) _
        · refine he _ (Within.via (State.wr32_within ..) rfl ?_) _
          refine ⟨⟨rfl, List.prefix_refl _, (hx _ _ _).1.used, Otp.grows_refl _, fun h => h⟩, fun p hp => ?_⟩
          cases p <;> first | rfl | exact absurd hp (by decide)

theorem State.regAccess_within (s : State) (a1 : Req) (a2 : Nat) (a3 : Nat) (a4 : Access) (a5 : Nat) : Within [.regs, .views, .agg, .eddies, .mil, .mem, .stalls, .tally, .tide, .tree, .tol, .clk, .pins, .lanes, .dbg, .ports, .out, .fresh] s (State.regAccess s a1 a2 a3 a4 a5).1 := by
  unfold State.regAccess
  repeat' first
    | with_reducible exact Within.refl _ _
    | with_reducible assumption
    | exact (rfl : _ = true)
    | (with_reducible apply Within.via (Within.ofFst (State.plainAccess_within ..) (by assumption)))
    | (with_reducible apply Within.via (State.plainAccess_within ..))
    | (with_reducible apply Within.via (State.accGo_within ..))
    | with_reducible apply Within.foldl
    | with_reducible apply Within.foldlFst
    | with_reducible apply Within.foldlSnd
    | refine (fun (z : State × _) x hz => ?_)
    | refine (fun (z : _ × State) x hz => ?_)
    | refine (fun (z : State) (l : Loc) (d : List Nat) hz => ?_)
    | refine (fun (s : State) x => ?_)
    | (intro z; refine (fun (hz : Within [.regs, .views, .agg, .eddies, .mil, .mem, .stalls, .tally, .tide, .tree, .tol, .clk, .pins, .lanes, .dbg, .ports, .out, .fresh] s z) => ?_) ?_; rotate_left; dsimp only [z]; rotate_left; clear_value z)
    | (intro z; refine (fun (hz : Within [.regs, .views, .agg, .eddies, .mil, .mem, .stalls, .tally, .tide, .tree, .tol, .clk, .pins, .lanes, .dbg, .ports, .out, .fresh] s z.1) => ?_) ?_; rotate_left; dsimp only [z]; rotate_left; clear_value z)
    | (intro z; refine (fun (hz : Within [.regs, .views, .agg, .eddies, .mil, .mem, .stalls, .tally, .tide, .tree, .tol, .clk, .pins, .lanes, .dbg, .ports, .out, .fresh] s z.2) => ?_) ?_; rotate_left; dsimp only [z]; rotate_left; clear_value z)
    | (intro z; have _h : State → _ := z; clear _h; dsimp -zeta only [z]; clear z)
    | (intro z; have _h : State × _ → _ := z; clear _h; dsimp -zeta only [z]; clear z)
    | (intro z; clear_value z)
    | (intro z; dsimp -zeta only [z]; clear z)
    | lift_lets -underBinder
    | split

theorem State.showEnd_within {F : List StatePart} {s : State} {x : State × RegEnd × Nat} (req : Req) (addr : Nat) (read : Bool)
    (h : Within F s x.1) (hF : F.contains .out = true) : Within F s (State.showEnd x req addr read) := by
  have ho : [StatePart.out].all F.contains = true := by simp only [List.all_cons, hF, List.all_nil, Bool.and_self]
  unfold State.showEnd
  split
  · exact Within.via (State.emit_within ..) ho h
  · split
    · exact Within.via (State.emit_within ..) ho h
    · exact h

theorem State.regWrite_within (s : State) (a1 : Req) (a2 : Nat) (a3 : Nat) (a4 : Nat) : Within [.regs, .views, .agg, .eddies, .mil, .mem, .stalls, .tally, .tide, .tree, .tol, .clk, .pins, .lanes, .dbg, .ports, .out, .fresh] s (State.regWrite s a1 a2 a3 a4) := by
  unfold State.regWrite
  repeat' first
    | with_reducible exact Within.refl _ _
    | exact (rfl : _ = true)
    | (with_reducible apply Within.via (State.regAccess_within ..))
    | with_reducible apply State.showEnd_within

theorem State.regRead_within (s : State) (a1 : Req) (a2 : Nat) (a3 : Nat) (a4 : Nat) : Within [.regs, .views, .agg, .eddies, .mil, .mem, .stalls, .tally, .tide, .tree, .tol, .clk, .pins, .lanes, .dbg, .ports, .out, .fresh] s (State.regRead s a1 a2 a3 a4) := by
  unfold State.regRead
  repeat' first
    | with_reducible exact Within.refl _ _
    | exact (rfl : _ = true)
    | (with_reducible apply Within.via (State.regAccess_within ..))
    | with_reducible apply State.showEnd_within

theorem State.accessTo_within (s : State) (a1 : Req) (a2 : Nat) (a3 : Nat) (a4 : Access) (a5 : Nat) : Within [.regs, .views, .agg, .eddies, .mil, .mem, .stalls, .tally, .tide, .tree, .tol, .clk, .pins, .lanes, .dbg, .ports, .out, .fresh] s (State.accessTo s a1 a2 a3 a4 a5).1 := by
  unfold State.accessTo
  repeat' first
    | with_reducible exact Within.refl _ _
    | exact (rfl : _ = true)
    | (with_reducible apply Within.via (State.windowAt_within ..))
    | (with_reducible apply Within.via (State.regAccess_within ..))
    | split

theorem State.putReg_within (s : State) (a1 : Req) (a2 : Nat) (a3 : Nat) : Within [.regs, .views, .agg, .eddies, .mil, .mem, .stalls, .tally, .tide, .tree, .tol, .clk, .pins, .lanes, .dbg, .ports, .out, .fresh] s (State.putReg s a1 a2 a3) := by
  unfold State.putReg
  repeat' first
    | with_reducible exact Within.refl _ _
    | exact (rfl : _ = true)
    | with_reducible apply State.showEnd_within
    | (with_reducible apply Within.via (State.accessTo_within ..))

theorem State.putReg64_within (s : State) (a1 : Req) (a2 : Nat) (a3 : Nat) : Within [.regs, .views, .agg, .eddies, .mil, .mem, .stalls, .tally, .tide, .tree, .tol, .clk, .pins, .lanes, .dbg, .ports, .out, .fresh] s (State.putReg64 s a1 a2 a3) := by
  unfold State.putReg64
  repeat' first
    | with_reducible exact Within.refl _ _
    | exact (rfl : _ = true)
    | with_reducible apply State.showEnd_within
    | (with_reducible apply Within.via (State.accessTo_within ..))

theorem State.ownerChange_within {F : List StatePart} {s t : State} (h : Within F s t) (hr : F.contains .regs = true)
    (hv : F.contains .views = true) : Within F s (s.ownerChange t) := by
  unfold State.ownerChange
  dsimp only
  refine Within.prim (t := t) h rfl rfl rfl rfl (fun hc => ?_) (fun p hp => ?_)
  · rw [State.canonical_iff] at hc ⊢
    exact ⟨smWf_smClear _ _ _ hc.1, smWf_smClear _ _ _ hc.2.1, hc.2.2⟩
  · cases p <;> first | rfl | exact absurd (hr.symm.trans hp) (by decide) | exact absurd (hv.symm.trans hp) (by decide)

theorem State.regAgent_within (s : State) (a1 : Nat) (a2 : Nat) (a3 : Bool) (a4 : Nat) : Within [.regs, .views, .agg, .eddies, .mil, .mem, .stalls, .tally, .tide, .tree, .tol, .clk, .pins, .lanes, .dbg, .ports, .out, .fresh] s (State.regAgent s a1 a2 a3 a4) := by
  unfold State.regAgent
  repeat' first
    | with_reducible exact Within.refl _ _
    | with_reducible assumption
    | exact (rfl : _ = true)
    | (with_reducible apply Within.via (State.agentAnswer_within ..))
    | (with_reducible apply Within.via (State.regAccess_within ..))
    | with_reducible apply Within.foldl
    | with_reducible apply Within.foldlFst
    | with_reducible apply Within.foldlSnd
    | refine (fun (z : State × _) x hz => ?_)
    | refine (fun (z : _ × State) x hz => ?_)
    | refine (fun (z : State) (l : Loc) (d : List Nat) hz => ?_)
    | refine (fun (s : State) x => ?_)
    | (intro z; refine (fun (hz : Within [.regs, .views, .agg, .eddies, .mil, .mem, .stalls, .tally, .tide, .tree, .tol, .clk, .pins, .lanes, .dbg, .ports, .out, .fresh] s z) => ?_) ?_; rotate_left; dsimp only [z]; rotate_left; clear_value z)
    | (intro z; refine (fun (hz : Within [.regs, .views, .agg, .eddies, .mil, .mem, .stalls, .tally, .tide, .tree, .tol, .clk, .pins, .lanes, .dbg, .ports, .out, .fresh] s z.1) => ?_) ?_; rotate_left; dsimp only [z]; rotate_left; clear_value z)
    | (intro z; refine (fun (hz : Within [.regs, .views, .agg, .eddies, .mil, .mem, .stalls, .tally, .tide, .tree, .tol, .clk, .pins, .lanes, .dbg, .ports, .out, .fresh] s z.2) => ?_) ?_; rotate_left; dsimp only [z]; rotate_left; clear_value z)
    | (intro z; have _h : State → _ := z; clear _h; dsimp -zeta only [z]; clear z)
    | (intro z; have _h : State × _ → _ := z; clear _h; dsimp -zeta only [z]; clear z)
    | (intro z; clear_value z)
    | (intro z; dsimp -zeta only [z]; clear z)
    | lift_lets -underBinder
    | split

theorem State.jtagAccess_within (s : State) (a1 : Nat) (a2 : Access) : Within [.regs, .views, .agg, .eddies, .mil, .mem, .stalls, .tally, .tide, .tree, .tol, .clk, .pins, .lanes, .dbg, .d2d, .ports, .out, .fresh] s (State.jtagAccess s a1 a2) := by
  unfold State.jtagAccess
  repeat' first
    | with_reducible exact Within.refl _ _
    | with_reducible assumption
    | exact (rfl : _ = true)
    | (with_reducible apply Within.via (State.setD2d_within ..))
    | (with_reducible apply Within.via (State.regAccess_within ..))
    | with_reducible apply Within.foldl
    | with_reducible apply Within.foldlFst
    | with_reducible apply Within.foldlSnd
    | refine (fun (z : State × _) x hz => ?_)
    | refine (fun (z : _ × State) x hz => ?_)
    | refine (fun (z : State) (l : Loc) (d : List Nat) hz => ?_)
    | refine (fun (s : State) x => ?_)
    | (intro z; refine (fun (hz : Within [.regs, .views, .agg, .eddies, .mil, .mem, .stalls, .tally, .tide, .tree, .tol, .clk, .pins, .lanes, .dbg, .d2d, .ports, .out, .fresh] s z) => ?_) ?_; rotate_left; dsimp only [z]; rotate_left; clear_value z)
    | (intro z; refine (fun (hz : Within [.regs, .views, .agg, .eddies, .mil, .mem, .stalls, .tally, .tide, .tree, .tol, .clk, .pins, .lanes, .dbg, .d2d, .ports, .out, .fresh] s z.1) => ?_) ?_; rotate_left; dsimp only [z]; rotate_left; clear_value z)
    | (intro z; refine (fun (hz : Within [.regs, .views, .agg, .eddies, .mil, .mem, .stalls, .tally, .tide, .tree, .tol, .clk, .pins, .lanes, .dbg, .d2d, .ports, .out, .fresh] s z.2) => ?_) ?_; rotate_left; dsimp only [z]; rotate_left; clear_value z)
    | (intro z; have _h : State → _ := z; clear _h; dsimp -zeta only [z]; clear z)
    | (intro z; have _h : State × _ → _ := z; clear _h; dsimp -zeta only [z]; clear z)
    | (intro z; clear_value z)
    | (intro z; dsimp -zeta only [z]; clear z)
    | lift_lets -underBinder
    | split

theorem State.i2cRead_within (s : State) (a1 : Nat) : Within [.regs, .views, .agg, .eddies, .mil, .mem, .stalls, .tally, .tide, .tree, .tol, .clk, .pins, .lanes, .dbg, .ports, .out, .fresh] s (State.i2cRead s a1) := by
  unfold State.i2cRead
  repeat' first
    | with_reducible exact Within.refl _ _
    | exact (rfl : _ = true)
    | (with_reducible apply Within.via (State.emit_within ..))
    | (with_reducible apply Within.via (State.regRead_within ..))
    | split

end Sys2Proof.Machine
end

