-- ==== Sys2Proof/Laws/WithinCmdOps.lean ====
section
/-! SUPPORT. Which parts of the state each operation of Machine/CmdOps.lean touches. -/

namespace Sys2Proof.Machine

theorem State.stoppedOr_within {F : List StatePart} {s t : State} (e pkt : Nat) (h : Within F s t) (hF : [.regs, .agg].all F.contains = true) :
    Within F s (s.stoppedOr e pkt t) := by
  unfold State.stoppedOr
  split
  · split
    · exact Within.mono (State.wake_within ..) hF
    · exact Within.refl _ _
  · split
    · exact Within.refl _ _
    · exact h

end Sys2Proof.Machine
end

