-- ==== Sys2Proof/Laws/WithinTick.lean ====
section
/-! SUPPORT. Which parts of the state each operation of Machine/Tick.lean touches. -/

namespace Sys2Proof.Machine

theorem State.idleCycles_within (a0 : Nat) (s : State) : Within [.regs, .agg, .eddies, .tally, .dbg] s (State.idleCycles a0 s) := by
  induction a0 generalizing s with
  | zero =>
    unfold State.idleCycles
    repeat' first
      | with_reducible exact Within.refl _ _
      | exact (rfl : _ = true)
      | (with_reducible apply Within.via (State.idleEngines_within ..))
      | split
  | succ a0 ih =>
    unfold State.idleCycles
    repeat' first
      | with_reducible exact Within.refl _ _
      | exact (rfl : _ = true)
      | (with_reducible apply Within.via (State.idleEngines_within ..))
      | (with_reducible apply Within.via (ih ..))
      | split

theorem State.tick_within (s : State) : Within [.regs, .agg, .eddies, .tally, .tide, .lanes, .dbg, .out] s (State.tick s) := by
  unfold State.tick
  repeat' first
    | with_reducible exact Within.refl _ _
    | with_reducible assumption
    | exact (rfl : _ = true)
    | (with_reducible apply Within.via (State.drainAll_within ..))
    | (with_reducible apply Within.via (State.laneTick_within ..))
    | (with_reducible apply Within.via (State.tideTick_within ..))
    | (with_reducible apply Within.via (State.idleCycles_within ..))
    | (intro z; refine (fun (hz : Within [.regs, .agg, .eddies, .tally, .tide, .lanes, .dbg, .out] s z) => ?_) ?_; rotate_left; dsimp only [z]; rotate_left; clear_value z)
    | (intro z; clear_value z)
    | lift_lets -underBinder
    | split

end Sys2Proof.Machine
end

