-- ==== Sys2Proof/Laws/State.lean ====
section
/-! SUPPORT. One lemma per field per update of the state, and reads of register words and fields after writes. -/

namespace Sys2Proof.Machine

@[simp] theorem State.setEddy_regs (s : State) (n : Nat) (x : Eddy) : (s.setEddy n x).regs = s.regs := rfl
@[simp] theorem State.setEddy_views (s : State) (n : Nat) (x : Eddy) : (s.setEddy n x).views = s.views := rfl
@[simp] theorem State.setEddy_agg (s : State) (n : Nat) (x : Eddy) : (s.setEddy n x).agg = s.agg := rfl
@[simp] theorem State.setEddy_fab (s : State) (n : Nat) (x : Eddy) : (s.setEddy n x).fab = s.fab := rfl
@[simp] theorem State.setEddy_eddies (s : State) (n : Nat) (x : Eddy) : (s.setEddy n x).eddies = smSet Eddy.reset s.eddies n x := rfl
@[simp] theorem State.setEddy_mil (s : State) (n : Nat) (x : Eddy) : (s.setEddy n x).mil = s.mil := rfl
@[simp] theorem State.setEddy_mem (s : State) (n : Nat) (x : Eddy) : (s.setEddy n x).mem = s.mem := rfl
@[simp] theorem State.setEddy_stalls (s : State) (n : Nat) (x : Eddy) : (s.setEddy n x).stalls = s.stalls := rfl
@[simp] theorem State.setEddy_tally (s : State) (n : Nat) (x : Eddy) : (s.setEddy n x).tally = s.tally := rfl
@[simp] theorem State.setEddy_tide (s : State) (n : Nat) (x : Eddy) : (s.setEddy n x).tide = s.tide := rfl
@[simp] theorem State.setEddy_tree (s : State) (n : Nat) (x : Eddy) : (s.setEddy n x).tree = s.tree := rfl
@[simp] theorem State.setEddy_tol (s : State) (n : Nat) (x : Eddy) : (s.setEddy n x).tol = s.tol := rfl
@[simp] theorem State.setEddy_otp (s : State) (n : Nat) (x : Eddy) : (s.setEddy n x).otp = s.otp := rfl
@[simp] theorem State.setEddy_clk (s : State) (n : Nat) (x : Eddy) : (s.setEddy n x).clk = s.clk := rfl
@[simp] theorem State.setEddy_pins (s : State) (n : Nat) (x : Eddy) : (s.setEddy n x).pins = s.pins := rfl
@[simp] theorem State.setEddy_lanes (s : State) (n : Nat) (x : Eddy) : (s.setEddy n x).lanes = s.lanes := rfl
@[simp] theorem State.setEddy_dbg (s : State) (n : Nat) (x : Eddy) : (s.setEddy n x).dbg = s.dbg := rfl
@[simp] theorem State.setEddy_d2d (s : State) (n : Nat) (x : Eddy) : (s.setEddy n x).d2d = s.d2d := rfl
@[simp] theorem State.setEddy_ports (s : State) (n : Nat) (x : Eddy) : (s.setEddy n x).ports = s.ports := rfl
@[simp] theorem State.setEddy_out (s : State) (n : Nat) (x : Eddy) : (s.setEddy n x).out = s.out := rfl
@[simp] theorem State.setEddy_fresh (s : State) (n : Nat) (x : Eddy) : (s.setEddy n x).fresh = s.fresh := rfl
@[simp] theorem State.setEddy_pending (s : State) (n : Nat) (x : Eddy) : (s.setEddy n x).pending = s.pending := rfl
@[simp] theorem State.setEddy_word (s : State) (n : Nat) (x : Eddy) (a : Nat) : (s.setEddy n x).word a = s.word a := rfl

@[simp] theorem State.setStall_regs (s : State) (n : Nat) (x : Stall) : (s.setStall n x).regs = s.regs := rfl
@[simp] theorem State.setStall_views (s : State) (n : Nat) (x : Stall) : (s.setStall n x).views = s.views := rfl
@[simp] theorem State.setStall_agg (s : State) (n : Nat) (x : Stall) : (s.setStall n x).agg = s.agg := rfl
@[simp] theorem State.setStall_fab (s : State) (n : Nat) (x : Stall) : (s.setStall n x).fab = s.fab := rfl
@[simp] theorem State.setStall_eddies (s : State) (n : Nat) (x : Stall) : (s.setStall n x).eddies = s.eddies := rfl
@[simp] theorem State.setStall_mil (s : State) (n : Nat) (x : Stall) : (s.setStall n x).mil = s.mil := rfl
@[simp] theorem State.setStall_mem (s : State) (n : Nat) (x : Stall) : (s.setStall n x).mem = s.mem := rfl
@[simp] theorem State.setStall_stalls (s : State) (n : Nat) (x : Stall) : (s.setStall n x).stalls = smSet Stall.free s.stalls n x := rfl
@[simp] theorem State.setStall_tally (s : State) (n : Nat) (x : Stall) : (s.setStall n x).tally = s.tally := rfl
@[simp] theorem State.setStall_tide (s : State) (n : Nat) (x : Stall) : (s.setStall n x).tide = s.tide := rfl
@[simp] theorem State.setStall_tree (s : State) (n : Nat) (x : Stall) : (s.setStall n x).tree = s.tree := rfl
@[simp] theorem State.setStall_tol (s : State) (n : Nat) (x : Stall) : (s.setStall n x).tol = s.tol := rfl
@[simp] theorem State.setStall_otp (s : State) (n : Nat) (x : Stall) : (s.setStall n x).otp = s.otp := rfl
@[simp] theorem State.setStall_clk (s : State) (n : Nat) (x : Stall) : (s.setStall n x).clk = s.clk := rfl
@[simp] theorem State.setStall_pins (s : State) (n : Nat) (x : Stall) : (s.setStall n x).pins = s.pins := rfl
@[simp] theorem State.setStall_lanes (s : State) (n : Nat) (x : Stall) : (s.setStall n x).lanes = s.lanes := rfl
@[simp] theorem State.setStall_dbg (s : State) (n : Nat) (x : Stall) : (s.setStall n x).dbg = s.dbg := rfl
@[simp] theorem State.setStall_d2d (s : State) (n : Nat) (x : Stall) : (s.setStall n x).d2d = s.d2d := rfl
@[simp] theorem State.setStall_ports (s : State) (n : Nat) (x : Stall) : (s.setStall n x).ports = s.ports := rfl
@[simp] theorem State.setStall_out (s : State) (n : Nat) (x : Stall) : (s.setStall n x).out = s.out := rfl
@[simp] theorem State.setStall_fresh (s : State) (n : Nat) (x : Stall) : (s.setStall n x).fresh = s.fresh := rfl
@[simp] theorem State.setStall_pending (s : State) (n : Nat) (x : Stall) : (s.setStall n x).pending = s.pending := rfl
@[simp] theorem State.setStall_word (s : State) (n : Nat) (x : Stall) (a : Nat) : (s.setStall n x).word a = s.word a := rfl

@[simp] theorem State.setEp_regs (s : State) (n : Nat) (x : Ep) : (s.setEp n x).regs = s.regs := rfl
@[simp] theorem State.setEp_views (s : State) (n : Nat) (x : Ep) : (s.setEp n x).views = s.views := rfl
@[simp] theorem State.setEp_agg (s : State) (n : Nat) (x : Ep) : (s.setEp n x).agg = s.agg := rfl
@[simp] theorem State.setEp_fab (s : State) (n : Nat) (x : Ep) : (s.setEp n x).fab = s.fab := rfl
@[simp] theorem State.setEp_eddies (s : State) (n : Nat) (x : Ep) : (s.setEp n x).eddies = s.eddies := rfl
@[simp] theorem State.setEp_mil (s : State) (n : Nat) (x : Ep) : (s.setEp n x).mil = { s.mil with eps := smSet Ep.reset s.mil.eps n x } := rfl
@[simp] theorem State.setEp_mem (s : State) (n : Nat) (x : Ep) : (s.setEp n x).mem = s.mem := rfl
@[simp] theorem State.setEp_stalls (s : State) (n : Nat) (x : Ep) : (s.setEp n x).stalls = s.stalls := rfl
@[simp] theorem State.setEp_tally (s : State) (n : Nat) (x : Ep) : (s.setEp n x).tally = s.tally := rfl
@[simp] theorem State.setEp_tide (s : State) (n : Nat) (x : Ep) : (s.setEp n x).tide = s.tide := rfl
@[simp] theorem State.setEp_tree (s : State) (n : Nat) (x : Ep) : (s.setEp n x).tree = s.tree := rfl
@[simp] theorem State.setEp_tol (s : State) (n : Nat) (x : Ep) : (s.setEp n x).tol = s.tol := rfl
@[simp] theorem State.setEp_otp (s : State) (n : Nat) (x : Ep) : (s.setEp n x).otp = s.otp := rfl
@[simp] theorem State.setEp_clk (s : State) (n : Nat) (x : Ep) : (s.setEp n x).clk = s.clk := rfl
@[simp] theorem State.setEp_pins (s : State) (n : Nat) (x : Ep) : (s.setEp n x).pins = s.pins := rfl
@[simp] theorem State.setEp_lanes (s : State) (n : Nat) (x : Ep) : (s.setEp n x).lanes = s.lanes := rfl
@[simp] theorem State.setEp_dbg (s : State) (n : Nat) (x : Ep) : (s.setEp n x).dbg = s.dbg := rfl
@[simp] theorem State.setEp_d2d (s : State) (n : Nat) (x : Ep) : (s.setEp n x).d2d = s.d2d := rfl
@[simp] theorem State.setEp_ports (s : State) (n : Nat) (x : Ep) : (s.setEp n x).ports = s.ports := rfl
@[simp] theorem State.setEp_out (s : State) (n : Nat) (x : Ep) : (s.setEp n x).out = s.out := rfl
@[simp] theorem State.setEp_fresh (s : State) (n : Nat) (x : Ep) : (s.setEp n x).fresh = s.fresh := rfl
@[simp] theorem State.setEp_pending (s : State) (n : Nat) (x : Ep) : (s.setEp n x).pending = s.pending := rfl
@[simp] theorem State.setEp_word (s : State) (n : Nat) (x : Ep) (a : Nat) : (s.setEp n x).word a = s.word a := rfl

@[simp] theorem State.setPkt_regs (s : State) (n : Nat) (x : Pkt) : (s.setPkt n x).regs = s.regs := rfl
@[simp] theorem State.setPkt_views (s : State) (n : Nat) (x : Pkt) : (s.setPkt n x).views = s.views := rfl
@[simp] theorem State.setPkt_agg (s : State) (n : Nat) (x : Pkt) : (s.setPkt n x).agg = s.agg := rfl
@[simp] theorem State.setPkt_fab (s : State) (n : Nat) (x : Pkt) : (s.setPkt n x).fab = s.fab := rfl
@[simp] theorem State.setPkt_eddies (s : State) (n : Nat) (x : Pkt) : (s.setPkt n x).eddies = s.eddies := rfl
@[simp] theorem State.setPkt_mil (s : State) (n : Nat) (x : Pkt) : (s.setPkt n x).mil = { s.mil with pkts := smSet Pkt.none s.mil.pkts n x } := rfl
@[simp] theorem State.setPkt_mem (s : State) (n : Nat) (x : Pkt) : (s.setPkt n x).mem = s.mem := rfl
@[simp] theorem State.setPkt_stalls (s : State) (n : Nat) (x : Pkt) : (s.setPkt n x).stalls = s.stalls := rfl
@[simp] theorem State.setPkt_tally (s : State) (n : Nat) (x : Pkt) : (s.setPkt n x).tally = s.tally := rfl
@[simp] theorem State.setPkt_tide (s : State) (n : Nat) (x : Pkt) : (s.setPkt n x).tide = s.tide := rfl
@[simp] theorem State.setPkt_tree (s : State) (n : Nat) (x : Pkt) : (s.setPkt n x).tree = s.tree := rfl
@[simp] theorem State.setPkt_tol (s : State) (n : Nat) (x : Pkt) : (s.setPkt n x).tol = s.tol := rfl
@[simp] theorem State.setPkt_otp (s : State) (n : Nat) (x : Pkt) : (s.setPkt n x).otp = s.otp := rfl
@[simp] theorem State.setPkt_clk (s : State) (n : Nat) (x : Pkt) : (s.setPkt n x).clk = s.clk := rfl
@[simp] theorem State.setPkt_pins (s : State) (n : Nat) (x : Pkt) : (s.setPkt n x).pins = s.pins := rfl
@[simp] theorem State.setPkt_lanes (s : State) (n : Nat) (x : Pkt) : (s.setPkt n x).lanes = s.lanes := rfl
@[simp] theorem State.setPkt_dbg (s : State) (n : Nat) (x : Pkt) : (s.setPkt n x).dbg = s.dbg := rfl
@[simp] theorem State.setPkt_d2d (s : State) (n : Nat) (x : Pkt) : (s.setPkt n x).d2d = s.d2d := rfl
@[simp] theorem State.setPkt_ports (s : State) (n : Nat) (x : Pkt) : (s.setPkt n x).ports = s.ports := rfl
@[simp] theorem State.setPkt_out (s : State) (n : Nat) (x : Pkt) : (s.setPkt n x).out = s.out := rfl
@[simp] theorem State.setPkt_fresh (s : State) (n : Nat) (x : Pkt) : (s.setPkt n x).fresh = s.fresh := rfl
@[simp] theorem State.setPkt_pending (s : State) (n : Nat) (x : Pkt) : (s.setPkt n x).pending = s.pending := rfl
@[simp] theorem State.setPkt_word (s : State) (n : Nat) (x : Pkt) (a : Nat) : (s.setPkt n x).word a = s.word a := rfl

@[simp] theorem State.setDbg_regs (s : State) (x : Dbg) : (s.setDbg x).regs = s.regs := rfl
@[simp] theorem State.setDbg_views (s : State) (x : Dbg) : (s.setDbg x).views = s.views := rfl
@[simp] theorem State.setDbg_agg (s : State) (x : Dbg) : (s.setDbg x).agg = s.agg := rfl
@[simp] theorem State.setDbg_fab (s : State) (x : Dbg) : (s.setDbg x).fab = s.fab := rfl
@[simp] theorem State.setDbg_eddies (s : State) (x : Dbg) : (s.setDbg x).eddies = s.eddies := rfl
@[simp] theorem State.setDbg_mil (s : State) (x : Dbg) : (s.setDbg x).mil = s.mil := rfl
@[simp] theorem State.setDbg_mem (s : State) (x : Dbg) : (s.setDbg x).mem = s.mem := rfl
@[simp] theorem State.setDbg_stalls (s : State) (x : Dbg) : (s.setDbg x).stalls = s.stalls := rfl
@[simp] theorem State.setDbg_tally (s : State) (x : Dbg) : (s.setDbg x).tally = s.tally := rfl
@[simp] theorem State.setDbg_tide (s : State) (x : Dbg) : (s.setDbg x).tide = s.tide := rfl
@[simp] theorem State.setDbg_tree (s : State) (x : Dbg) : (s.setDbg x).tree = s.tree := rfl
@[simp] theorem State.setDbg_tol (s : State) (x : Dbg) : (s.setDbg x).tol = s.tol := rfl
@[simp] theorem State.setDbg_otp (s : State) (x : Dbg) : (s.setDbg x).otp = s.otp := rfl
@[simp] theorem State.setDbg_clk (s : State) (x : Dbg) : (s.setDbg x).clk = s.clk := rfl
@[simp] theorem State.setDbg_pins (s : State) (x : Dbg) : (s.setDbg x).pins = s.pins := rfl
@[simp] theorem State.setDbg_lanes (s : State) (x : Dbg) : (s.setDbg x).lanes = s.lanes := rfl
@[simp] theorem State.setDbg_dbg (s : State) (x : Dbg) : (s.setDbg x).dbg = x := rfl
@[simp] theorem State.setDbg_d2d (s : State) (x : Dbg) : (s.setDbg x).d2d = s.d2d := rfl
@[simp] theorem State.setDbg_ports (s : State) (x : Dbg) : (s.setDbg x).ports = s.ports := rfl
@[simp] theorem State.setDbg_out (s : State) (x : Dbg) : (s.setDbg x).out = s.out := rfl
@[simp] theorem State.setDbg_fresh (s : State) (x : Dbg) : (s.setDbg x).fresh = s.fresh := rfl
@[simp] theorem State.setDbg_pending (s : State) (x : Dbg) : (s.setDbg x).pending = s.pending := rfl
@[simp] theorem State.setDbg_word (s : State) (x : Dbg) (a : Nat) : (s.setDbg x).word a = s.word a := rfl

@[simp] theorem State.setTally_regs (s : State) (x : Tally) : (s.setTally x).regs = s.regs := rfl
@[simp] theorem State.setTally_views (s : State) (x : Tally) : (s.setTally x).views = s.views := rfl
@[simp] theorem State.setTally_agg (s : State) (x : Tally) : (s.setTally x).agg = s.agg := rfl
@[simp] theorem State.setTally_fab (s : State) (x : Tally) : (s.setTally x).fab = s.fab := rfl
@[simp] theorem State.setTally_eddies (s : State) (x : Tally) : (s.setTally x).eddies = s.eddies := rfl
@[simp] theorem State.setTally_mil (s : State) (x : Tally) : (s.setTally x).mil = s.mil := rfl
@[simp] theorem State.setTally_mem (s : State) (x : Tally) : (s.setTally x).mem = s.mem := rfl
@[simp] theorem State.setTally_stalls (s : State) (x : Tally) : (s.setTally x).stalls = s.stalls := rfl
@[simp] theorem State.setTally_tally (s : State) (x : Tally) : (s.setTally x).tally = x := rfl
@[simp] theorem State.setTally_tide (s : State) (x : Tally) : (s.setTally x).tide = s.tide := rfl
@[simp] theorem State.setTally_tree (s : State) (x : Tally) : (s.setTally x).tree = s.tree := rfl
@[simp] theorem State.setTally_tol (s : State) (x : Tally) : (s.setTally x).tol = s.tol := rfl
@[simp] theorem State.setTally_otp (s : State) (x : Tally) : (s.setTally x).otp = s.otp := rfl
@[simp] theorem State.setTally_clk (s : State) (x : Tally) : (s.setTally x).clk = s.clk := rfl
@[simp] theorem State.setTally_pins (s : State) (x : Tally) : (s.setTally x).pins = s.pins := rfl
@[simp] theorem State.setTally_lanes (s : State) (x : Tally) : (s.setTally x).lanes = s.lanes := rfl
@[simp] theorem State.setTally_dbg (s : State) (x : Tally) : (s.setTally x).dbg = s.dbg := rfl
@[simp] theorem State.setTally_d2d (s : State) (x : Tally) : (s.setTally x).d2d = s.d2d := rfl
@[simp] theorem State.setTally_ports (s : State) (x : Tally) : (s.setTally x).ports = s.ports := rfl
@[simp] theorem State.setTally_out (s : State) (x : Tally) : (s.setTally x).out = s.out := rfl
@[simp] theorem State.setTally_fresh (s : State) (x : Tally) : (s.setTally x).fresh = s.fresh := rfl
@[simp] theorem State.setTally_pending (s : State) (x : Tally) : (s.setTally x).pending = s.pending := rfl
@[simp] theorem State.setTally_word (s : State) (x : Tally) (a : Nat) : (s.setTally x).word a = s.word a := rfl

@[simp] theorem State.setTree_regs (s : State) (x : Tree) : (s.setTree x).regs = s.regs := rfl
@[simp] theorem State.setTree_views (s : State) (x : Tree) : (s.setTree x).views = s.views := rfl
@[simp] theorem State.setTree_agg (s : State) (x : Tree) : (s.setTree x).agg = s.agg := rfl
@[simp] theorem State.setTree_fab (s : State) (x : Tree) : (s.setTree x).fab = s.fab := rfl
@[simp] theorem State.setTree_eddies (s : State) (x : Tree) : (s.setTree x).eddies = s.eddies := rfl
@[simp] theorem State.setTree_mil (s : State) (x : Tree) : (s.setTree x).mil = s.mil := rfl
@[simp] theorem State.setTree_mem (s : State) (x : Tree) : (s.setTree x).mem = s.mem := rfl
@[simp] theorem State.setTree_stalls (s : State) (x : Tree) : (s.setTree x).stalls = s.stalls := rfl
@[simp] theorem State.setTree_tally (s : State) (x : Tree) : (s.setTree x).tally = s.tally := rfl
@[simp] theorem State.setTree_tide (s : State) (x : Tree) : (s.setTree x).tide = s.tide := rfl
@[simp] theorem State.setTree_tree (s : State) (x : Tree) : (s.setTree x).tree = x := rfl
@[simp] theorem State.setTree_tol (s : State) (x : Tree) : (s.setTree x).tol = s.tol := rfl
@[simp] theorem State.setTree_otp (s : State) (x : Tree) : (s.setTree x).otp = s.otp := rfl
@[simp] theorem State.setTree_clk (s : State) (x : Tree) : (s.setTree x).clk = s.clk := rfl
@[simp] theorem State.setTree_pins (s : State) (x : Tree) : (s.setTree x).pins = s.pins := rfl
@[simp] theorem State.setTree_lanes (s : State) (x : Tree) : (s.setTree x).lanes = s.lanes := rfl
@[simp] theorem State.setTree_dbg (s : State) (x : Tree) : (s.setTree x).dbg = s.dbg := rfl
@[simp] theorem State.setTree_d2d (s : State) (x : Tree) : (s.setTree x).d2d = s.d2d := rfl
@[simp] theorem State.setTree_ports (s : State) (x : Tree) : (s.setTree x).ports = s.ports := rfl
@[simp] theorem State.setTree_out (s : State) (x : Tree) : (s.setTree x).out = s.out := rfl
@[simp] theorem State.setTree_fresh (s : State) (x : Tree) : (s.setTree x).fresh = s.fresh := rfl
@[simp] theorem State.setTree_pending (s : State) (x : Tree) : (s.setTree x).pending = s.pending := rfl
@[simp] theorem State.setTree_word (s : State) (x : Tree) (a : Nat) : (s.setTree x).word a = s.word a := rfl

@[simp] theorem State.setPorts_regs (s : State) (x : Ports) : (s.setPorts x).regs = s.regs := rfl
@[simp] theorem State.setPorts_views (s : State) (x : Ports) : (s.setPorts x).views = s.views := rfl
@[simp] theorem State.setPorts_agg (s : State) (x : Ports) : (s.setPorts x).agg = s.agg := rfl
@[simp] theorem State.setPorts_fab (s : State) (x : Ports) : (s.setPorts x).fab = s.fab := rfl
@[simp] theorem State.setPorts_eddies (s : State) (x : Ports) : (s.setPorts x).eddies = s.eddies := rfl
@[simp] theorem State.setPorts_mil (s : State) (x : Ports) : (s.setPorts x).mil = s.mil := rfl
@[simp] theorem State.setPorts_mem (s : State) (x : Ports) : (s.setPorts x).mem = s.mem := rfl
@[simp] theorem State.setPorts_stalls (s : State) (x : Ports) : (s.setPorts x).stalls = s.stalls := rfl
@[simp] theorem State.setPorts_tally (s : State) (x : Ports) : (s.setPorts x).tally = s.tally := rfl
@[simp] theorem State.setPorts_tide (s : State) (x : Ports) : (s.setPorts x).tide = s.tide := rfl
@[simp] theorem State.setPorts_tree (s : State) (x : Ports) : (s.setPorts x).tree = s.tree := rfl
@[simp] theorem State.setPorts_tol (s : State) (x : Ports) : (s.setPorts x).tol = s.tol := rfl
@[simp] theorem State.setPorts_otp (s : State) (x : Ports) : (s.setPorts x).otp = s.otp := rfl
@[simp] theorem State.setPorts_clk (s : State) (x : Ports) : (s.setPorts x).clk = s.clk := rfl
@[simp] theorem State.setPorts_pins (s : State) (x : Ports) : (s.setPorts x).pins = s.pins := rfl
@[simp] theorem State.setPorts_lanes (s : State) (x : Ports) : (s.setPorts x).lanes = s.lanes := rfl
@[simp] theorem State.setPorts_dbg (s : State) (x : Ports) : (s.setPorts x).dbg = s.dbg := rfl
@[simp] theorem State.setPorts_d2d (s : State) (x : Ports) : (s.setPorts x).d2d = s.d2d := rfl
@[simp] theorem State.setPorts_ports (s : State) (x : Ports) : (s.setPorts x).ports = x := rfl
@[simp] theorem State.setPorts_out (s : State) (x : Ports) : (s.setPorts x).out = s.out := rfl
@[simp] theorem State.setPorts_fresh (s : State) (x : Ports) : (s.setPorts x).fresh = s.fresh := rfl
@[simp] theorem State.setPorts_pending (s : State) (x : Ports) : (s.setPorts x).pending = s.pending := rfl
@[simp] theorem State.setPorts_word (s : State) (x : Ports) (a : Nat) : (s.setPorts x).word a = s.word a := rfl

@[simp] theorem State.setPinCell_regs (s : State) (n : Nat) (x : PinCell) : (s.setPinCell n x).regs = s.regs := rfl
@[simp] theorem State.setPinCell_views (s : State) (n : Nat) (x : PinCell) : (s.setPinCell n x).views = s.views := rfl
@[simp] theorem State.setPinCell_agg (s : State) (n : Nat) (x : PinCell) : (s.setPinCell n x).agg = s.agg := rfl
@[simp] theorem State.setPinCell_fab (s : State) (n : Nat) (x : PinCell) : (s.setPinCell n x).fab = s.fab := rfl
@[simp] theorem State.setPinCell_eddies (s : State) (n : Nat) (x : PinCell) : (s.setPinCell n x).eddies = s.eddies := rfl
@[simp] theorem State.setPinCell_mil (s : State) (n : Nat) (x : PinCell) : (s.setPinCell n x).mil = s.mil := rfl
@[simp] theorem State.setPinCell_mem (s : State) (n : Nat) (x : PinCell) : (s.setPinCell n x).mem = s.mem := rfl
@[simp] theorem State.setPinCell_stalls (s : State) (n : Nat) (x : PinCell) : (s.setPinCell n x).stalls = s.stalls := rfl
@[simp] theorem State.setPinCell_tally (s : State) (n : Nat) (x : PinCell) : (s.setPinCell n x).tally = s.tally := rfl
@[simp] theorem State.setPinCell_tide (s : State) (n : Nat) (x : PinCell) : (s.setPinCell n x).tide = s.tide := rfl
@[simp] theorem State.setPinCell_tree (s : State) (n : Nat) (x : PinCell) : (s.setPinCell n x).tree = s.tree := rfl
@[simp] theorem State.setPinCell_tol (s : State) (n : Nat) (x : PinCell) : (s.setPinCell n x).tol = s.tol := rfl
@[simp] theorem State.setPinCell_otp (s : State) (n : Nat) (x : PinCell) : (s.setPinCell n x).otp = s.otp := rfl
@[simp] theorem State.setPinCell_clk (s : State) (n : Nat) (x : PinCell) : (s.setPinCell n x).clk = s.clk := rfl
@[simp] theorem State.setPinCell_pins (s : State) (n : Nat) (x : PinCell) : (s.setPinCell n x).pins = smSet PinCell.reset s.pins n x := rfl
@[simp] theorem State.setPinCell_lanes (s : State) (n : Nat) (x : PinCell) : (s.setPinCell n x).lanes = s.lanes := rfl
@[simp] theorem State.setPinCell_dbg (s : State) (n : Nat) (x : PinCell) : (s.setPinCell n x).dbg = s.dbg := rfl
@[simp] theorem State.setPinCell_d2d (s : State) (n : Nat) (x : PinCell) : (s.setPinCell n x).d2d = s.d2d := rfl
@[simp] theorem State.setPinCell_ports (s : State) (n : Nat) (x : PinCell) : (s.setPinCell n x).ports = s.ports := rfl
@[simp] theorem State.setPinCell_out (s : State) (n : Nat) (x : PinCell) : (s.setPinCell n x).out = s.out := rfl
@[simp] theorem State.setPinCell_fresh (s : State) (n : Nat) (x : PinCell) : (s.setPinCell n x).fresh = s.fresh := rfl
@[simp] theorem State.setPinCell_pending (s : State) (n : Nat) (x : PinCell) : (s.setPinCell n x).pending = s.pending := rfl
@[simp] theorem State.setPinCell_word (s : State) (n : Nat) (x : PinCell) (a : Nat) : (s.setPinCell n x).word a = s.word a := rfl

@[simp] theorem State.setClk_regs (s : State) (x : Clk) : (s.setClk x).regs = s.regs := rfl
@[simp] theorem State.setClk_views (s : State) (x : Clk) : (s.setClk x).views = s.views := rfl
@[simp] theorem State.setClk_agg (s : State) (x : Clk) : (s.setClk x).agg = s.agg := rfl
@[simp] theorem State.setClk_fab (s : State) (x : Clk) : (s.setClk x).fab = s.fab := rfl
@[simp] theorem State.setClk_eddies (s : State) (x : Clk) : (s.setClk x).eddies = s.eddies := rfl
@[simp] theorem State.setClk_mil (s : State) (x : Clk) : (s.setClk x).mil = s.mil := rfl
@[simp] theorem State.setClk_mem (s : State) (x : Clk) : (s.setClk x).mem = s.mem := rfl
@[simp] theorem State.setClk_stalls (s : State) (x : Clk) : (s.setClk x).stalls = s.stalls := rfl
@[simp] theorem State.setClk_tally (s : State) (x : Clk) : (s.setClk x).tally = s.tally := rfl
@[simp] theorem State.setClk_tide (s : State) (x : Clk) : (s.setClk x).tide = s.tide := rfl
@[simp] theorem State.setClk_tree (s : State) (x : Clk) : (s.setClk x).tree = s.tree := rfl
@[simp] theorem State.setClk_tol (s : State) (x : Clk) : (s.setClk x).tol = s.tol := rfl
@[simp] theorem State.setClk_otp (s : State) (x : Clk) : (s.setClk x).otp = s.otp := rfl
@[simp] theorem State.setClk_clk (s : State) (x : Clk) : (s.setClk x).clk = x := rfl
@[simp] theorem State.setClk_pins (s : State) (x : Clk) : (s.setClk x).pins = s.pins := rfl
@[simp] theorem State.setClk_lanes (s : State) (x : Clk) : (s.setClk x).lanes = s.lanes := rfl
@[simp] theorem State.setClk_dbg (s : State) (x : Clk) : (s.setClk x).dbg = s.dbg := rfl
@[simp] theorem State.setClk_d2d (s : State) (x : Clk) : (s.setClk x).d2d = s.d2d := rfl
@[simp] theorem State.setClk_ports (s : State) (x : Clk) : (s.setClk x).ports = s.ports := rfl
@[simp] theorem State.setClk_out (s : State) (x : Clk) : (s.setClk x).out = s.out := rfl
@[simp] theorem State.setClk_fresh (s : State) (x : Clk) : (s.setClk x).fresh = s.fresh := rfl
@[simp] theorem State.setClk_pending (s : State) (x : Clk) : (s.setClk x).pending = s.pending := rfl
@[simp] theorem State.setClk_word (s : State) (x : Clk) (a : Nat) : (s.setClk x).word a = s.word a := rfl

@[simp] theorem State.setD2d_regs (s : State) (x : D2D) : (s.setD2d x).regs = s.regs := rfl
@[simp] theorem State.setD2d_views (s : State) (x : D2D) : (s.setD2d x).views = s.views := rfl
@[simp] theorem State.setD2d_agg (s : State) (x : D2D) : (s.setD2d x).agg = s.agg := rfl
@[simp] theorem State.setD2d_fab (s : State) (x : D2D) : (s.setD2d x).fab = s.fab := rfl
@[simp] theorem State.setD2d_eddies (s : State) (x : D2D) : (s.setD2d x).eddies = s.eddies := rfl
@[simp] theorem State.setD2d_mil (s : State) (x : D2D) : (s.setD2d x).mil = s.mil := rfl
@[simp] theorem State.setD2d_mem (s : State) (x : D2D) : (s.setD2d x).mem = s.mem := rfl
@[simp] theorem State.setD2d_stalls (s : State) (x : D2D) : (s.setD2d x).stalls = s.stalls := rfl
@[simp] theorem State.setD2d_tally (s : State) (x : D2D) : (s.setD2d x).tally = s.tally := rfl
@[simp] theorem State.setD2d_tide (s : State) (x : D2D) : (s.setD2d x).tide = s.tide := rfl
@[simp] theorem State.setD2d_tree (s : State) (x : D2D) : (s.setD2d x).tree = s.tree := rfl
@[simp] theorem State.setD2d_tol (s : State) (x : D2D) : (s.setD2d x).tol = s.tol := rfl
@[simp] theorem State.setD2d_otp (s : State) (x : D2D) : (s.setD2d x).otp = s.otp := rfl
@[simp] theorem State.setD2d_clk (s : State) (x : D2D) : (s.setD2d x).clk = s.clk := rfl
@[simp] theorem State.setD2d_pins (s : State) (x : D2D) : (s.setD2d x).pins = s.pins := rfl
@[simp] theorem State.setD2d_lanes (s : State) (x : D2D) : (s.setD2d x).lanes = s.lanes := rfl
@[simp] theorem State.setD2d_dbg (s : State) (x : D2D) : (s.setD2d x).dbg = s.dbg := rfl
@[simp] theorem State.setD2d_d2d (s : State) (x : D2D) : (s.setD2d x).d2d = x := rfl
@[simp] theorem State.setD2d_ports (s : State) (x : D2D) : (s.setD2d x).ports = s.ports := rfl
@[simp] theorem State.setD2d_out (s : State) (x : D2D) : (s.setD2d x).out = s.out := rfl
@[simp] theorem State.setD2d_fresh (s : State) (x : D2D) : (s.setD2d x).fresh = s.fresh := rfl
@[simp] theorem State.setD2d_pending (s : State) (x : D2D) : (s.setD2d x).pending = s.pending := rfl
@[simp] theorem State.setD2d_word (s : State) (x : D2D) (a : Nat) : (s.setD2d x).word a = s.word a := rfl

@[simp] theorem State.setTol_regs (s : State) (x : Tol) : (s.setTol x).regs = s.regs := rfl
@[simp] theorem State.setTol_views (s : State) (x : Tol) : (s.setTol x).views = s.views := rfl
@[simp] theorem State.setTol_agg (s : State) (x : Tol) : (s.setTol x).agg = s.agg := rfl
@[simp] theorem State.setTol_fab (s : State) (x : Tol) : (s.setTol x).fab = s.fab := rfl
@[simp] theorem State.setTol_eddies (s : State) (x : Tol) : (s.setTol x).eddies = s.eddies := rfl
@[simp] theorem State.setTol_mil (s : State) (x : Tol) : (s.setTol x).mil = s.mil := rfl
@[simp] theorem State.setTol_mem (s : State) (x : Tol) : (s.setTol x).mem = s.mem := rfl
@[simp] theorem State.setTol_stalls (s : State) (x : Tol) : (s.setTol x).stalls = s.stalls := rfl
@[simp] theorem State.setTol_tally (s : State) (x : Tol) : (s.setTol x).tally = s.tally := rfl
@[simp] theorem State.setTol_tide (s : State) (x : Tol) : (s.setTol x).tide = s.tide := rfl
@[simp] theorem State.setTol_tree (s : State) (x : Tol) : (s.setTol x).tree = s.tree := rfl
@[simp] theorem State.setTol_tol (s : State) (x : Tol) : (s.setTol x).tol = x := rfl
@[simp] theorem State.setTol_otp (s : State) (x : Tol) : (s.setTol x).otp = s.otp := rfl
@[simp] theorem State.setTol_clk (s : State) (x : Tol) : (s.setTol x).clk = s.clk := rfl
@[simp] theorem State.setTol_pins (s : State) (x : Tol) : (s.setTol x).pins = s.pins := rfl
@[simp] theorem State.setTol_lanes (s : State) (x : Tol) : (s.setTol x).lanes = s.lanes := rfl
@[simp] theorem State.setTol_dbg (s : State) (x : Tol) : (s.setTol x).dbg = s.dbg := rfl
@[simp] theorem State.setTol_d2d (s : State) (x : Tol) : (s.setTol x).d2d = s.d2d := rfl
@[simp] theorem State.setTol_ports (s : State) (x : Tol) : (s.setTol x).ports = s.ports := rfl
@[simp] theorem State.setTol_out (s : State) (x : Tol) : (s.setTol x).out = s.out := rfl
@[simp] theorem State.setTol_fresh (s : State) (x : Tol) : (s.setTol x).fresh = s.fresh := rfl
@[simp] theorem State.setTol_pending (s : State) (x : Tol) : (s.setTol x).pending = s.pending := rfl
@[simp] theorem State.setTol_word (s : State) (x : Tol) (a : Nat) : (s.setTol x).word a = s.word a := rfl

@[simp] theorem State.setTide_regs (s : State) (x : Tide) : (s.setTide x).regs = s.regs := rfl
@[simp] theorem State.setTide_views (s : State) (x : Tide) : (s.setTide x).views = s.views := rfl
@[simp] theorem State.setTide_agg (s : State) (x : Tide) : (s.setTide x).agg = s.agg := rfl
@[simp] theorem State.setTide_fab (s : State) (x : Tide) : (s.setTide x).fab = s.fab := rfl
@[simp] theorem State.setTide_eddies (s : State) (x : Tide) : (s.setTide x).eddies = s.eddies := rfl
@[simp] theorem State.setTide_mil (s : State) (x : Tide) : (s.setTide x).mil = s.mil := rfl
@[simp] theorem State.setTide_mem (s : State) (x : Tide) : (s.setTide x).mem = s.mem := rfl
@[simp] theorem State.setTide_stalls (s : State) (x : Tide) : (s.setTide x).stalls = s.stalls := rfl
@[simp] theorem State.setTide_tally (s : State) (x : Tide) : (s.setTide x).tally = s.tally := rfl
@[simp] theorem State.setTide_tide (s : State) (x : Tide) : (s.setTide x).tide = x := rfl
@[simp] theorem State.setTide_tree (s : State) (x : Tide) : (s.setTide x).tree = s.tree := rfl
@[simp] theorem State.setTide_tol (s : State) (x : Tide) : (s.setTide x).tol = s.tol := rfl
@[simp] theorem State.setTide_otp (s : State) (x : Tide) : (s.setTide x).otp = s.otp := rfl
@[simp] theorem State.setTide_clk (s : State) (x : Tide) : (s.setTide x).clk = s.clk := rfl
@[simp] theorem State.setTide_pins (s : State) (x : Tide) : (s.setTide x).pins = s.pins := rfl
@[simp] theorem State.setTide_lanes (s : State) (x : Tide) : (s.setTide x).lanes = s.lanes := rfl
@[simp] theorem State.setTide_dbg (s : State) (x : Tide) : (s.setTide x).dbg = s.dbg := rfl
@[simp] theorem State.setTide_d2d (s : State) (x : Tide) : (s.setTide x).d2d = s.d2d := rfl
@[simp] theorem State.setTide_ports (s : State) (x : Tide) : (s.setTide x).ports = s.ports := rfl
@[simp] theorem State.setTide_out (s : State) (x : Tide) : (s.setTide x).out = s.out := rfl
@[simp] theorem State.setTide_fresh (s : State) (x : Tide) : (s.setTide x).fresh = s.fresh := rfl
@[simp] theorem State.setTide_pending (s : State) (x : Tide) : (s.setTide x).pending = s.pending := rfl
@[simp] theorem State.setTide_word (s : State) (x : Tide) (a : Nat) : (s.setTide x).word a = s.word a := rfl

@[simp] theorem State.setLine_regs (s : State) (k : Nat) (x : HLine) : (s.setLine k x).regs = s.regs := rfl
@[simp] theorem State.setLine_views (s : State) (k : Nat) (x : HLine) : (s.setLine k x).views = s.views := rfl
@[simp] theorem State.setLine_agg (s : State) (k : Nat) (x : HLine) : (s.setLine k x).agg = s.agg := rfl
@[simp] theorem State.setLine_fab (s : State) (k : Nat) (x : HLine) : (s.setLine k x).fab = s.fab := rfl
@[simp] theorem State.setLine_eddies (s : State) (k : Nat) (x : HLine) : (s.setLine k x).eddies = s.eddies := rfl
@[simp] theorem State.setLine_mil (s : State) (k : Nat) (x : HLine) : (s.setLine k x).mil = s.mil := rfl
@[simp] theorem State.setLine_mem (s : State) (k : Nat) (x : HLine) : (s.setLine k x).mem = { s.mem with lines := smSet HLine.zero s.mem.lines k x } := rfl
@[simp] theorem State.setLine_stalls (s : State) (k : Nat) (x : HLine) : (s.setLine k x).stalls = s.stalls := rfl
@[simp] theorem State.setLine_tally (s : State) (k : Nat) (x : HLine) : (s.setLine k x).tally = s.tally := rfl
@[simp] theorem State.setLine_tide (s : State) (k : Nat) (x : HLine) : (s.setLine k x).tide = s.tide := rfl
@[simp] theorem State.setLine_tree (s : State) (k : Nat) (x : HLine) : (s.setLine k x).tree = s.tree := rfl
@[simp] theorem State.setLine_tol (s : State) (k : Nat) (x : HLine) : (s.setLine k x).tol = s.tol := rfl
@[simp] theorem State.setLine_otp (s : State) (k : Nat) (x : HLine) : (s.setLine k x).otp = s.otp := rfl
@[simp] theorem State.setLine_clk (s : State) (k : Nat) (x : HLine) : (s.setLine k x).clk = s.clk := rfl
@[simp] theorem State.setLine_pins (s : State) (k : Nat) (x : HLine) : (s.setLine k x).pins = s.pins := rfl
@[simp] theorem State.setLine_lanes (s : State) (k : Nat) (x : HLine) : (s.setLine k x).lanes = s.lanes := rfl
@[simp] theorem State.setLine_dbg (s : State) (k : Nat) (x : HLine) : (s.setLine k x).dbg = s.dbg := rfl
@[simp] theorem State.setLine_d2d (s : State) (k : Nat) (x : HLine) : (s.setLine k x).d2d = s.d2d := rfl
@[simp] theorem State.setLine_ports (s : State) (k : Nat) (x : HLine) : (s.setLine k x).ports = s.ports := rfl
@[simp] theorem State.setLine_out (s : State) (k : Nat) (x : HLine) : (s.setLine k x).out = s.out := rfl
@[simp] theorem State.setLine_fresh (s : State) (k : Nat) (x : HLine) : (s.setLine k x).fresh = s.fresh := rfl
@[simp] theorem State.setLine_pending (s : State) (k : Nat) (x : HLine) : (s.setLine k x).pending = s.pending := rfl
@[simp] theorem State.setLine_word (s : State) (k : Nat) (x : HLine) (a : Nat) : (s.setLine k x).word a = s.word a := rfl

@[simp] theorem State.setLane_regs (s : State) (n : Nat) (x : LaneSt) : (s.setLane n x).regs = s.regs := rfl
@[simp] theorem State.setLane_views (s : State) (n : Nat) (x : LaneSt) : (s.setLane n x).views = s.views := rfl
@[simp] theorem State.setLane_agg (s : State) (n : Nat) (x : LaneSt) : (s.setLane n x).agg = s.agg := rfl
@[simp] theorem State.setLane_fab (s : State) (n : Nat) (x : LaneSt) : (s.setLane n x).fab = s.fab := rfl
@[simp] theorem State.setLane_eddies (s : State) (n : Nat) (x : LaneSt) : (s.setLane n x).eddies = s.eddies := rfl
@[simp] theorem State.setLane_mil (s : State) (n : Nat) (x : LaneSt) : (s.setLane n x).mil = s.mil := rfl
@[simp] theorem State.setLane_mem (s : State) (n : Nat) (x : LaneSt) : (s.setLane n x).mem = s.mem := rfl
@[simp] theorem State.setLane_stalls (s : State) (n : Nat) (x : LaneSt) : (s.setLane n x).stalls = s.stalls := rfl
@[simp] theorem State.setLane_tally (s : State) (n : Nat) (x : LaneSt) : (s.setLane n x).tally = s.tally := rfl
@[simp] theorem State.setLane_tide (s : State) (n : Nat) (x : LaneSt) : (s.setLane n x).tide = s.tide := rfl
@[simp] theorem State.setLane_tree (s : State) (n : Nat) (x : LaneSt) : (s.setLane n x).tree = s.tree := rfl
@[simp] theorem State.setLane_tol (s : State) (n : Nat) (x : LaneSt) : (s.setLane n x).tol = s.tol := rfl
@[simp] theorem State.setLane_otp (s : State) (n : Nat) (x : LaneSt) : (s.setLane n x).otp = s.otp := rfl
@[simp] theorem State.setLane_clk (s : State) (n : Nat) (x : LaneSt) : (s.setLane n x).clk = s.clk := rfl
@[simp] theorem State.setLane_pins (s : State) (n : Nat) (x : LaneSt) : (s.setLane n x).pins = s.pins := rfl
@[simp] theorem State.setLane_lanes (s : State) (n : Nat) (x : LaneSt) : (s.setLane n x).lanes = smSet LaneSt.reset s.lanes n x := rfl
@[simp] theorem State.setLane_dbg (s : State) (n : Nat) (x : LaneSt) : (s.setLane n x).dbg = s.dbg := rfl
@[simp] theorem State.setLane_d2d (s : State) (n : Nat) (x : LaneSt) : (s.setLane n x).d2d = s.d2d := rfl
@[simp] theorem State.setLane_ports (s : State) (n : Nat) (x : LaneSt) : (s.setLane n x).ports = s.ports := rfl
@[simp] theorem State.setLane_out (s : State) (n : Nat) (x : LaneSt) : (s.setLane n x).out = s.out := rfl
@[simp] theorem State.setLane_fresh (s : State) (n : Nat) (x : LaneSt) : (s.setLane n x).fresh = s.fresh := rfl
@[simp] theorem State.setLane_pending (s : State) (n : Nat) (x : LaneSt) : (s.setLane n x).pending = s.pending := rfl
@[simp] theorem State.setLane_word (s : State) (n : Nat) (x : LaneSt) (a : Nat) : (s.setLane n x).word a = s.word a := rfl

@[simp] theorem State.setViewBuf_regs (s : State) (r : Req) (p : Nat) (x : ViewBuf) : (s.setViewBuf r p x).regs = s.regs := rfl
@[simp] theorem State.setViewBuf_views (s : State) (r : Req) (p : Nat) (x : ViewBuf) : (s.setViewBuf r p x).views = smSet ViewBuf.empty s.views (viewKey r p) x := rfl
@[simp] theorem State.setViewBuf_agg (s : State) (r : Req) (p : Nat) (x : ViewBuf) : (s.setViewBuf r p x).agg = s.agg := rfl
@[simp] theorem State.setViewBuf_fab (s : State) (r : Req) (p : Nat) (x : ViewBuf) : (s.setViewBuf r p x).fab = s.fab := rfl
@[simp] theorem State.setViewBuf_eddies (s : State) (r : Req) (p : Nat) (x : ViewBuf) : (s.setViewBuf r p x).eddies = s.eddies := rfl
@[simp] theorem State.setViewBuf_mil (s : State) (r : Req) (p : Nat) (x : ViewBuf) : (s.setViewBuf r p x).mil = s.mil := rfl
@[simp] theorem State.setViewBuf_mem (s : State) (r : Req) (p : Nat) (x : ViewBuf) : (s.setViewBuf r p x).mem = s.mem := rfl
@[simp] theorem State.setViewBuf_stalls (s : State) (r : Req) (p : Nat) (x : ViewBuf) : (s.setViewBuf r p x).stalls = s.stalls := rfl
@[simp] theorem State.setViewBuf_tally (s : State) (r : Req) (p : Nat) (x : ViewBuf) : (s.setViewBuf r p x).tally = s.tally := rfl
@[simp] theorem State.setViewBuf_tide (s : State) (r : Req) (p : Nat) (x : ViewBuf) : (s.setViewBuf r p x).tide = s.tide := rfl
@[simp] theorem State.setViewBuf_tree (s : State) (r : Req) (p : Nat) (x : ViewBuf) : (s.setViewBuf r p x).tree = s.tree := rfl
@[simp] theorem State.setViewBuf_tol (s : State) (r : Req) (p : Nat) (x : ViewBuf) : (s.setViewBuf r p x).tol = s.tol := rfl
@[simp] theorem State.setViewBuf_otp (s : State) (r : Req) (p : Nat) (x : ViewBuf) : (s.setViewBuf r p x).otp = s.otp := rfl
@[simp] theorem State.setViewBuf_clk (s : State) (r : Req) (p : Nat) (x : ViewBuf) : (s.setViewBuf r p x).clk = s.clk := rfl
@[simp] theorem State.setViewBuf_pins (s : State) (r : Req) (p : Nat) (x : ViewBuf) : (s.setViewBuf r p x).pins = s.pins := rfl
@[simp] theorem State.setViewBuf_lanes (s : State) (r : Req) (p : Nat) (x : ViewBuf) : (s.setViewBuf r p x).lanes = s.lanes := rfl
@[simp] theorem State.setViewBuf_dbg (s : State) (r : Req) (p : Nat) (x : ViewBuf) : (s.setViewBuf r p x).dbg = s.dbg := rfl
@[simp] theorem State.setViewBuf_d2d (s : State) (r : Req) (p : Nat) (x : ViewBuf) : (s.setViewBuf r p x).d2d = s.d2d := rfl
@[simp] theorem State.setViewBuf_ports (s : State) (r : Req) (p : Nat) (x : ViewBuf) : (s.setViewBuf r p x).ports = s.ports := rfl
@[simp] theorem State.setViewBuf_out (s : State) (r : Req) (p : Nat) (x : ViewBuf) : (s.setViewBuf r p x).out = s.out := rfl
@[simp] theorem State.setViewBuf_fresh (s : State) (r : Req) (p : Nat) (x : ViewBuf) : (s.setViewBuf r p x).fresh = s.fresh := rfl
@[simp] theorem State.setViewBuf_pending (s : State) (r : Req) (p : Nat) (x : ViewBuf) : (s.setViewBuf r p x).pending = s.pending := rfl
@[simp] theorem State.setViewBuf_word (s : State) (r : Req) (p : Nat) (x : ViewBuf) (a : Nat) : (s.setViewBuf r p x).word a = s.word a := rfl

@[simp] theorem State.setEddies_regs (s : State) (x : SMap Eddy) : (s.setEddies x).regs = s.regs := rfl
@[simp] theorem State.setEddies_views (s : State) (x : SMap Eddy) : (s.setEddies x).views = s.views := rfl
@[simp] theorem State.setEddies_agg (s : State) (x : SMap Eddy) : (s.setEddies x).agg = s.agg := rfl
@[simp] theorem State.setEddies_fab (s : State) (x : SMap Eddy) : (s.setEddies x).fab = s.fab := rfl
@[simp] theorem State.setEddies_eddies (s : State) (x : SMap Eddy) : (s.setEddies x).eddies = x := rfl
@[simp] theorem State.setEddies_mil (s : State) (x : SMap Eddy) : (s.setEddies x).mil = s.mil := rfl
@[simp] theorem State.setEddies_mem (s : State) (x : SMap Eddy) : (s.setEddies x).mem = s.mem := rfl
@[simp] theorem State.setEddies_stalls (s : State) (x : SMap Eddy) : (s.setEddies x).stalls = s.stalls := rfl
@[simp] theorem State.setEddies_tally (s : State) (x : SMap Eddy) : (s.setEddies x).tally = s.tally := rfl
@[simp] theorem State.setEddies_tide (s : State) (x : SMap Eddy) : (s.setEddies x).tide = s.tide := rfl
@[simp] theorem State.setEddies_tree (s : State) (x : SMap Eddy) : (s.setEddies x).tree = s.tree := rfl
@[simp] theorem State.setEddies_tol (s : State) (x : SMap Eddy) : (s.setEddies x).tol = s.tol := rfl
@[simp] theorem State.setEddies_otp (s : State) (x : SMap Eddy) : (s.setEddies x).otp = s.otp := rfl
@[simp] theorem State.setEddies_clk (s : State) (x : SMap Eddy) : (s.setEddies x).clk = s.clk := rfl
@[simp] theorem State.setEddies_pins (s : State) (x : SMap Eddy) : (s.setEddies x).pins = s.pins := rfl
@[simp] theorem State.setEddies_lanes (s : State) (x : SMap Eddy) : (s.setEddies x).lanes = s.lanes := rfl
@[simp] theorem State.setEddies_dbg (s : State) (x : SMap Eddy) : (s.setEddies x).dbg = s.dbg := rfl
@[simp] theorem State.setEddies_d2d (s : State) (x : SMap Eddy) : (s.setEddies x).d2d = s.d2d := rfl
@[simp] theorem State.setEddies_ports (s : State) (x : SMap Eddy) : (s.setEddies x).ports = s.ports := rfl
@[simp] theorem State.setEddies_out (s : State) (x : SMap Eddy) : (s.setEddies x).out = s.out := rfl
@[simp] theorem State.setEddies_fresh (s : State) (x : SMap Eddy) : (s.setEddies x).fresh = s.fresh := rfl
@[simp] theorem State.setEddies_pending (s : State) (x : SMap Eddy) : (s.setEddies x).pending = s.pending := rfl
@[simp] theorem State.setEddies_word (s : State) (x : SMap Eddy) (a : Nat) : (s.setEddies x).word a = s.word a := rfl

@[simp] theorem State.emit_regs (s : State) (x : Out) : (s.emit x).regs = s.regs := rfl
@[simp] theorem State.emit_views (s : State) (x : Out) : (s.emit x).views = s.views := rfl
@[simp] theorem State.emit_agg (s : State) (x : Out) : (s.emit x).agg = s.agg := rfl
@[simp] theorem State.emit_fab (s : State) (x : Out) : (s.emit x).fab = s.fab := rfl
@[simp] theorem State.emit_eddies (s : State) (x : Out) : (s.emit x).eddies = s.eddies := rfl
@[simp] theorem State.emit_mil (s : State) (x : Out) : (s.emit x).mil = s.mil := rfl
@[simp] theorem State.emit_mem (s : State) (x : Out) : (s.emit x).mem = s.mem := rfl
@[simp] theorem State.emit_stalls (s : State) (x : Out) : (s.emit x).stalls = s.stalls := rfl
@[simp] theorem State.emit_tally (s : State) (x : Out) : (s.emit x).tally = s.tally := rfl
@[simp] theorem State.emit_tide (s : State) (x : Out) : (s.emit x).tide = s.tide := rfl
@[simp] theorem State.emit_tree (s : State) (x : Out) : (s.emit x).tree = s.tree := rfl
@[simp] theorem State.emit_tol (s : State) (x : Out) : (s.emit x).tol = s.tol := rfl
@[simp] theorem State.emit_otp (s : State) (x : Out) : (s.emit x).otp = s.otp := rfl
@[simp] theorem State.emit_clk (s : State) (x : Out) : (s.emit x).clk = s.clk := rfl
@[simp] theorem State.emit_pins (s : State) (x : Out) : (s.emit x).pins = s.pins := rfl
@[simp] theorem State.emit_lanes (s : State) (x : Out) : (s.emit x).lanes = s.lanes := rfl
@[simp] theorem State.emit_dbg (s : State) (x : Out) : (s.emit x).dbg = s.dbg := rfl
@[simp] theorem State.emit_d2d (s : State) (x : Out) : (s.emit x).d2d = s.d2d := rfl
@[simp] theorem State.emit_ports (s : State) (x : Out) : (s.emit x).ports = s.ports := rfl
@[simp] theorem State.emit_out (s : State) (x : Out) : (s.emit x).out = s.out ++ [x] := rfl
@[simp] theorem State.emit_fresh (s : State) (x : Out) : (s.emit x).fresh = s.fresh := rfl
@[simp] theorem State.emit_pending (s : State) (x : Out) : (s.emit x).pending = s.pending := rfl
@[simp] theorem State.emit_word (s : State) (x : Out) (a : Nat) : (s.emit x).word a = s.word a := rfl

@[simp] theorem State.useFree_regs (s : State) : s.useFree.regs = s.regs := rfl
@[simp] theorem State.useFree_views (s : State) : s.useFree.views = s.views := rfl
@[simp] theorem State.useFree_agg (s : State) : s.useFree.agg = s.agg := rfl
@[simp] theorem State.useFree_fab (s : State) : s.useFree.fab = s.fab := rfl
@[simp] theorem State.useFree_eddies (s : State) : s.useFree.eddies = s.eddies := rfl
@[simp] theorem State.useFree_mil (s : State) : s.useFree.mil = s.mil := rfl
@[simp] theorem State.useFree_mem (s : State) : s.useFree.mem = s.mem := rfl
@[simp] theorem State.useFree_stalls (s : State) : s.useFree.stalls = s.stalls := rfl
@[simp] theorem State.useFree_tally (s : State) : s.useFree.tally = s.tally := rfl
@[simp] theorem State.useFree_tide (s : State) : s.useFree.tide = s.tide := rfl
@[simp] theorem State.useFree_tree (s : State) : s.useFree.tree = s.tree := rfl
@[simp] theorem State.useFree_tol (s : State) : s.useFree.tol = s.tol := rfl
@[simp] theorem State.useFree_otp (s : State) : s.useFree.otp = s.otp := rfl
@[simp] theorem State.useFree_clk (s : State) : s.useFree.clk = s.clk := rfl
@[simp] theorem State.useFree_pins (s : State) : s.useFree.pins = s.pins := rfl
@[simp] theorem State.useFree_lanes (s : State) : s.useFree.lanes = s.lanes := rfl
@[simp] theorem State.useFree_dbg (s : State) : s.useFree.dbg = s.dbg := rfl
@[simp] theorem State.useFree_d2d (s : State) : s.useFree.d2d = s.d2d := rfl
@[simp] theorem State.useFree_ports (s : State) : s.useFree.ports = s.ports := rfl
@[simp] theorem State.useFree_out (s : State) : s.useFree.out = s.out := rfl
@[simp] theorem State.useFree_fresh (s : State) : s.useFree.fresh = s.fresh + 1 := rfl
@[simp] theorem State.useFree_pending (s : State) : s.useFree.pending = s.pending := rfl
@[simp] theorem State.useFree_word (s : State) (a : Nat) : s.useFree.word a = s.word a := rfl

@[simp] theorem State.setWord_views (s : State) (a : Nat) (v : BitVec 32) : (s.setWord a v).views = s.views := (State.setWord_within s a v).2 .views rfl
@[simp] theorem State.setWord_fab (s : State) (a : Nat) (v : BitVec 32) : (s.setWord a v).fab = s.fab := (State.setWord_within s a v).2 .fab rfl
@[simp] theorem State.setWord_eddies (s : State) (a : Nat) (v : BitVec 32) : (s.setWord a v).eddies = s.eddies := (State.setWord_within s a v).2 .eddies rfl
@[simp] theorem State.setWord_mil (s : State) (a : Nat) (v : BitVec 32) : (s.setWord a v).mil = s.mil := (State.setWord_within s a v).2 .mil rfl
@[simp] theorem State.setWord_mem (s : State) (a : Nat) (v : BitVec 32) : (s.setWord a v).mem = s.mem := (State.setWord_within s a v).2 .mem rfl
@[simp] theorem State.setWord_stalls (s : State) (a : Nat) (v : BitVec 32) : (s.setWord a v).stalls = s.stalls := (State.setWord_within s a v).2 .stalls rfl
@[simp] theorem State.setWord_tally (s : State) (a : Nat) (v : BitVec 32) : (s.setWord a v).tally = s.tally := (State.setWord_within s a v).2 .tally rfl
@[simp] theorem State.setWord_tide (s : State) (a : Nat) (v : BitVec 32) : (s.setWord a v).tide = s.tide := (State.setWord_within s a v).2 .tide rfl
@[simp] theorem State.setWord_tree (s : State) (a : Nat) (v : BitVec 32) : (s.setWord a v).tree = s.tree := (State.setWord_within s a v).2 .tree rfl
@[simp] theorem State.setWord_tol (s : State) (a : Nat) (v : BitVec 32) : (s.setWord a v).tol = s.tol := (State.setWord_within s a v).2 .tol rfl
@[simp] theorem State.setWord_otp (s : State) (a : Nat) (v : BitVec 32) : (s.setWord a v).otp = s.otp := (State.setWord_within s a v).2 .otp rfl
@[simp] theorem State.setWord_clk (s : State) (a : Nat) (v : BitVec 32) : (s.setWord a v).clk = s.clk := (State.setWord_within s a v).2 .clk rfl
@[simp] theorem State.setWord_pins (s : State) (a : Nat) (v : BitVec 32) : (s.setWord a v).pins = s.pins := (State.setWord_within s a v).2 .pins rfl
@[simp] theorem State.setWord_lanes (s : State) (a : Nat) (v : BitVec 32) : (s.setWord a v).lanes = s.lanes := (State.setWord_within s a v).2 .lanes rfl
@[simp] theorem State.setWord_dbg (s : State) (a : Nat) (v : BitVec 32) : (s.setWord a v).dbg = s.dbg := (State.setWord_within s a v).2 .dbg rfl
@[simp] theorem State.setWord_d2d (s : State) (a : Nat) (v : BitVec 32) : (s.setWord a v).d2d = s.d2d := (State.setWord_within s a v).2 .d2d rfl
@[simp] theorem State.setWord_ports (s : State) (a : Nat) (v : BitVec 32) : (s.setWord a v).ports = s.ports := (State.setWord_within s a v).2 .ports rfl
@[simp] theorem State.setWord_out (s : State) (a : Nat) (v : BitVec 32) : (s.setWord a v).out = s.out := (State.setWord_within s a v).2 .out rfl
@[simp] theorem State.setWord_fresh (s : State) (a : Nat) (v : BitVec 32) : (s.setWord a v).fresh = s.fresh := (State.setWord_within s a v).2 .fresh rfl
@[simp] theorem State.setWord_pending (s : State) (a : Nat) (v : BitVec 32) : (s.setWord a v).pending = s.pending := (State.setWord_within s a v).1.queue

@[simp] theorem State.wr32_views (s : State) (a v : Nat) : (s.wr32 a v).views = s.views := (State.wr32_within s a v).2 .views rfl
@[simp] theorem State.wr32_fab (s : State) (a v : Nat) : (s.wr32 a v).fab = s.fab := (State.wr32_within s a v).2 .fab rfl
@[simp] theorem State.wr32_eddies (s : State) (a v : Nat) : (s.wr32 a v).eddies = s.eddies := (State.wr32_within s a v).2 .eddies rfl
@[simp] theorem State.wr32_mil (s : State) (a v : Nat) : (s.wr32 a v).mil = s.mil := (State.wr32_within s a v).2 .mil rfl
@[simp] theorem State.wr32_mem (s : State) (a v : Nat) : (s.wr32 a v).mem = s.mem := (State.wr32_within s a v).2 .mem rfl
@[simp] theorem State.wr32_stalls (s : State) (a v : Nat) : (s.wr32 a v).stalls = s.stalls := (State.wr32_within s a v).2 .stalls rfl
@[simp] theorem State.wr32_tally (s : State) (a v : Nat) : (s.wr32 a v).tally = s.tally := (State.wr32_within s a v).2 .tally rfl
@[simp] theorem State.wr32_tide (s : State) (a v : Nat) : (s.wr32 a v).tide = s.tide := (State.wr32_within s a v).2 .tide rfl
@[simp] theorem State.wr32_tree (s : State) (a v : Nat) : (s.wr32 a v).tree = s.tree := (State.wr32_within s a v).2 .tree rfl
@[simp] theorem State.wr32_tol (s : State) (a v : Nat) : (s.wr32 a v).tol = s.tol := (State.wr32_within s a v).2 .tol rfl
@[simp] theorem State.wr32_otp (s : State) (a v : Nat) : (s.wr32 a v).otp = s.otp := (State.wr32_within s a v).2 .otp rfl
@[simp] theorem State.wr32_clk (s : State) (a v : Nat) : (s.wr32 a v).clk = s.clk := (State.wr32_within s a v).2 .clk rfl
@[simp] theorem State.wr32_pins (s : State) (a v : Nat) : (s.wr32 a v).pins = s.pins := (State.wr32_within s a v).2 .pins rfl
@[simp] theorem State.wr32_lanes (s : State) (a v : Nat) : (s.wr32 a v).lanes = s.lanes := (State.wr32_within s a v).2 .lanes rfl
@[simp] theorem State.wr32_dbg (s : State) (a v : Nat) : (s.wr32 a v).dbg = s.dbg := (State.wr32_within s a v).2 .dbg rfl
@[simp] theorem State.wr32_d2d (s : State) (a v : Nat) : (s.wr32 a v).d2d = s.d2d := (State.wr32_within s a v).2 .d2d rfl
@[simp] theorem State.wr32_ports (s : State) (a v : Nat) : (s.wr32 a v).ports = s.ports := (State.wr32_within s a v).2 .ports rfl
@[simp] theorem State.wr32_out (s : State) (a v : Nat) : (s.wr32 a v).out = s.out := (State.wr32_within s a v).2 .out rfl
@[simp] theorem State.wr32_fresh (s : State) (a v : Nat) : (s.wr32 a v).fresh = s.fresh := (State.wr32_within s a v).2 .fresh rfl
@[simp] theorem State.wr32_pending (s : State) (a v : Nat) : (s.wr32 a v).pending = s.pending := (State.wr32_within s a v).1.queue

@[simp] theorem State.wr64_views (s : State) (a v : Nat) : (s.wr64 a v).views = s.views := (State.wr64_within s a v).2 .views rfl
@[simp] theorem State.wr64_fab (s : State) (a v : Nat) : (s.wr64 a v).fab = s.fab := (State.wr64_within s a v).2 .fab rfl
@[simp] theorem State.wr64_eddies (s : State) (a v : Nat) : (s.wr64 a v).eddies = s.eddies := (State.wr64_within s a v).2 .eddies rfl
@[simp] theorem State.wr64_mil (s : State) (a v : Nat) : (s.wr64 a v).mil = s.mil := (State.wr64_within s a v).2 .mil rfl
@[simp] theorem State.wr64_mem (s : State) (a v : Nat) : (s.wr64 a v).mem = s.mem := (State.wr64_within s a v).2 .mem rfl
@[simp] theorem State.wr64_stalls (s : State) (a v : Nat) : (s.wr64 a v).stalls = s.stalls := (State.wr64_within s a v).2 .stalls rfl
@[simp] theorem State.wr64_tally (s : State) (a v : Nat) : (s.wr64 a v).tally = s.tally := (State.wr64_within s a v).2 .tally rfl
@[simp] theorem State.wr64_tide (s : State) (a v : Nat) : (s.wr64 a v).tide = s.tide := (State.wr64_within s a v).2 .tide rfl
@[simp] theorem State.wr64_tree (s : State) (a v : Nat) : (s.wr64 a v).tree = s.tree := (State.wr64_within s a v).2 .tree rfl
@[simp] theorem State.wr64_tol (s : State) (a v : Nat) : (s.wr64 a v).tol = s.tol := (State.wr64_within s a v).2 .tol rfl
@[simp] theorem State.wr64_otp (s : State) (a v : Nat) : (s.wr64 a v).otp = s.otp := (State.wr64_within s a v).2 .otp rfl
@[simp] theorem State.wr64_clk (s : State) (a v : Nat) : (s.wr64 a v).clk = s.clk := (State.wr64_within s a v).2 .clk rfl
@[simp] theorem State.wr64_pins (s : State) (a v : Nat) : (s.wr64 a v).pins = s.pins := (State.wr64_within s a v).2 .pins rfl
@[simp] theorem State.wr64_lanes (s : State) (a v : Nat) : (s.wr64 a v).lanes = s.lanes := (State.wr64_within s a v).2 .lanes rfl
@[simp] theorem State.wr64_dbg (s : State) (a v : Nat) : (s.wr64 a v).dbg = s.dbg := (State.wr64_within s a v).2 .dbg rfl
@[simp] theorem State.wr64_d2d (s : State) (a v : Nat) : (s.wr64 a v).d2d = s.d2d := (State.wr64_within s a v).2 .d2d rfl
@[simp] theorem State.wr64_ports (s : State) (a v : Nat) : (s.wr64 a v).ports = s.ports := (State.wr64_within s a v).2 .ports rfl
@[simp] theorem State.wr64_out (s : State) (a v : Nat) : (s.wr64 a v).out = s.out := (State.wr64_within s a v).2 .out rfl
@[simp] theorem State.wr64_fresh (s : State) (a v : Nat) : (s.wr64 a v).fresh = s.fresh := (State.wr64_within s a v).2 .fresh rfl
@[simp] theorem State.wr64_pending (s : State) (a v : Nat) : (s.wr64 a v).pending = s.pending := (State.wr64_within s a v).1.queue

@[simp] theorem State.fset_views (s : State) (a : Nat) (f : Fld) (v : Nat) : (s.fset a f v).views = s.views := (State.fset_within s a f v).2 .views rfl
@[simp] theorem State.fset_fab (s : State) (a : Nat) (f : Fld) (v : Nat) : (s.fset a f v).fab = s.fab := (State.fset_within s a f v).2 .fab rfl
@[simp] theorem State.fset_eddies (s : State) (a : Nat) (f : Fld) (v : Nat) : (s.fset a f v).eddies = s.eddies := (State.fset_within s a f v).2 .eddies rfl
@[simp] theorem State.fset_mil (s : State) (a : Nat) (f : Fld) (v : Nat) : (s.fset a f v).mil = s.mil := (State.fset_within s a f v).2 .mil rfl
@[simp] theorem State.fset_mem (s : State) (a : Nat) (f : Fld) (v : Nat) : (s.fset a f v).mem = s.mem := (State.fset_within s a f v).2 .mem rfl
@[simp] theorem State.fset_stalls (s : State) (a : Nat) (f : Fld) (v : Nat) : (s.fset a f v).stalls = s.stalls := (State.fset_within s a f v).2 .stalls rfl
@[simp] theorem State.fset_tally (s : State) (a : Nat) (f : Fld) (v : Nat) : (s.fset a f v).tally = s.tally := (State.fset_within s a f v).2 .tally rfl
@[simp] theorem State.fset_tide (s : State) (a : Nat) (f : Fld) (v : Nat) : (s.fset a f v).tide = s.tide := (State.fset_within s a f v).2 .tide rfl
@[simp] theorem State.fset_tree (s : State) (a : Nat) (f : Fld) (v : Nat) : (s.fset a f v).tree = s.tree := (State.fset_within s a f v).2 .tree rfl
@[simp] theorem State.fset_tol (s : State) (a : Nat) (f : Fld) (v : Nat) : (s.fset a f v).tol = s.tol := (State.fset_within s a f v).2 .tol rfl
@[simp] theorem State.fset_otp (s : State) (a : Nat) (f : Fld) (v : Nat) : (s.fset a f v).otp = s.otp := (State.fset_within s a f v).2 .otp rfl
@[simp] theorem State.fset_clk (s : State) (a : Nat) (f : Fld) (v : Nat) : (s.fset a f v).clk = s.clk := (State.fset_within s a f v).2 .clk rfl
@[simp] theorem State.fset_pins (s : State) (a : Nat) (f : Fld) (v : Nat) : (s.fset a f v).pins = s.pins := (State.fset_within s a f v).2 .pins rfl
@[simp] theorem State.fset_lanes (s : State) (a : Nat) (f : Fld) (v : Nat) : (s.fset a f v).lanes = s.lanes := (State.fset_within s a f v).2 .lanes rfl
@[simp] theorem State.fset_dbg (s : State) (a : Nat) (f : Fld) (v : Nat) : (s.fset a f v).dbg = s.dbg := (State.fset_within s a f v).2 .dbg rfl
@[simp] theorem State.fset_d2d (s : State) (a : Nat) (f : Fld) (v : Nat) : (s.fset a f v).d2d = s.d2d := (State.fset_within s a f v).2 .d2d rfl
@[simp] theorem State.fset_ports (s : State) (a : Nat) (f : Fld) (v : Nat) : (s.fset a f v).ports = s.ports := (State.fset_within s a f v).2 .ports rfl
@[simp] theorem State.fset_out (s : State) (a : Nat) (f : Fld) (v : Nat) : (s.fset a f v).out = s.out := (State.fset_within s a f v).2 .out rfl
@[simp] theorem State.fset_fresh (s : State) (a : Nat) (f : Fld) (v : Nat) : (s.fset a f v).fresh = s.fresh := (State.fset_within s a f v).2 .fresh rfl
@[simp] theorem State.fset_pending (s : State) (a : Nat) (f : Fld) (v : Nat) : (s.fset a f v).pending = s.pending := (State.fset_within s a f v).1.queue

@[simp] theorem State.finc_views (s : State) (a : Nat) (f : Fld) : (s.finc a f).views = s.views := (State.finc_within s a f).2 .views rfl
@[simp] theorem State.finc_fab (s : State) (a : Nat) (f : Fld) : (s.finc a f).fab = s.fab := (State.finc_within s a f).2 .fab rfl
@[simp] theorem State.finc_eddies (s : State) (a : Nat) (f : Fld) : (s.finc a f).eddies = s.eddies := (State.finc_within s a f).2 .eddies rfl
@[simp] theorem State.finc_mil (s : State) (a : Nat) (f : Fld) : (s.finc a f).mil = s.mil := (State.finc_within s a f).2 .mil rfl
@[simp] theorem State.finc_mem (s : State) (a : Nat) (f : Fld) : (s.finc a f).mem = s.mem := (State.finc_within s a f).2 .mem rfl
@[simp] theorem State.finc_stalls (s : State) (a : Nat) (f : Fld) : (s.finc a f).stalls = s.stalls := (State.finc_within s a f).2 .stalls rfl
@[simp] theorem State.finc_tally (s : State) (a : Nat) (f : Fld) : (s.finc a f).tally = s.tally := (State.finc_within s a f).2 .tally rfl
@[simp] theorem State.finc_tide (s : State) (a : Nat) (f : Fld) : (s.finc a f).tide = s.tide := (State.finc_within s a f).2 .tide rfl
@[simp] theorem State.finc_tree (s : State) (a : Nat) (f : Fld) : (s.finc a f).tree = s.tree := (State.finc_within s a f).2 .tree rfl
@[simp] theorem State.finc_tol (s : State) (a : Nat) (f : Fld) : (s.finc a f).tol = s.tol := (State.finc_within s a f).2 .tol rfl
@[simp] theorem State.finc_otp (s : State) (a : Nat) (f : Fld) : (s.finc a f).otp = s.otp := (State.finc_within s a f).2 .otp rfl
@[simp] theorem State.finc_clk (s : State) (a : Nat) (f : Fld) : (s.finc a f).clk = s.clk := (State.finc_within s a f).2 .clk rfl
@[simp] theorem State.finc_pins (s : State) (a : Nat) (f : Fld) : (s.finc a f).pins = s.pins := (State.finc_within s a f).2 .pins rfl
@[simp] theorem State.finc_lanes (s : State) (a : Nat) (f : Fld) : (s.finc a f).lanes = s.lanes := (State.finc_within s a f).2 .lanes rfl
@[simp] theorem State.finc_dbg (s : State) (a : Nat) (f : Fld) : (s.finc a f).dbg = s.dbg := (State.finc_within s a f).2 .dbg rfl
@[simp] theorem State.finc_d2d (s : State) (a : Nat) (f : Fld) : (s.finc a f).d2d = s.d2d := (State.finc_within s a f).2 .d2d rfl
@[simp] theorem State.finc_ports (s : State) (a : Nat) (f : Fld) : (s.finc a f).ports = s.ports := (State.finc_within s a f).2 .ports rfl
@[simp] theorem State.finc_out (s : State) (a : Nat) (f : Fld) : (s.finc a f).out = s.out := (State.finc_within s a f).2 .out rfl
@[simp] theorem State.finc_fresh (s : State) (a : Nat) (f : Fld) : (s.finc a f).fresh = s.fresh := (State.finc_within s a f).2 .fresh rfl
@[simp] theorem State.finc_pending (s : State) (a : Nat) (f : Fld) : (s.finc a f).pending = s.pending := (State.finc_within s a f).1.queue

@[simp] theorem State.setBit_views (s : State) (a k : Nat) (b : Bool) : (s.setBit a k b).views = s.views := (State.setBit_within s a k b).2 .views rfl
@[simp] theorem State.setBit_fab (s : State) (a k : Nat) (b : Bool) : (s.setBit a k b).fab = s.fab := (State.setBit_within s a k b).2 .fab rfl
@[simp] theorem State.setBit_eddies (s : State) (a k : Nat) (b : Bool) : (s.setBit a k b).eddies = s.eddies := (State.setBit_within s a k b).2 .eddies rfl
@[simp] theorem State.setBit_mil (s : State) (a k : Nat) (b : Bool) : (s.setBit a k b).mil = s.mil := (State.setBit_within s a k b).2 .mil rfl
@[simp] theorem State.setBit_mem (s : State) (a k : Nat) (b : Bool) : (s.setBit a k b).mem = s.mem := (State.setBit_within s a k b).2 .mem rfl
@[simp] theorem State.setBit_stalls (s : State) (a k : Nat) (b : Bool) : (s.setBit a k b).stalls = s.stalls := (State.setBit_within s a k b).2 .stalls rfl
@[simp] theorem State.setBit_tally (s : State) (a k : Nat) (b : Bool) : (s.setBit a k b).tally = s.tally := (State.setBit_within s a k b).2 .tally rfl
@[simp] theorem State.setBit_tide (s : State) (a k : Nat) (b : Bool) : (s.setBit a k b).tide = s.tide := (State.setBit_within s a k b).2 .tide rfl
@[simp] theorem State.setBit_tree (s : State) (a k : Nat) (b : Bool) : (s.setBit a k b).tree = s.tree := (State.setBit_within s a k b).2 .tree rfl
@[simp] theorem State.setBit_tol (s : State) (a k : Nat) (b : Bool) : (s.setBit a k b).tol = s.tol := (State.setBit_within s a k b).2 .tol rfl
@[simp] theorem State.setBit_otp (s : State) (a k : Nat) (b : Bool) : (s.setBit a k b).otp = s.otp := (State.setBit_within s a k b).2 .otp rfl
@[simp] theorem State.setBit_clk (s : State) (a k : Nat) (b : Bool) : (s.setBit a k b).clk = s.clk := (State.setBit_within s a k b).2 .clk rfl
@[simp] theorem State.setBit_pins (s : State) (a k : Nat) (b : Bool) : (s.setBit a k b).pins = s.pins := (State.setBit_within s a k b).2 .pins rfl
@[simp] theorem State.setBit_lanes (s : State) (a k : Nat) (b : Bool) : (s.setBit a k b).lanes = s.lanes := (State.setBit_within s a k b).2 .lanes rfl
@[simp] theorem State.setBit_dbg (s : State) (a k : Nat) (b : Bool) : (s.setBit a k b).dbg = s.dbg := (State.setBit_within s a k b).2 .dbg rfl
@[simp] theorem State.setBit_d2d (s : State) (a k : Nat) (b : Bool) : (s.setBit a k b).d2d = s.d2d := (State.setBit_within s a k b).2 .d2d rfl
@[simp] theorem State.setBit_ports (s : State) (a k : Nat) (b : Bool) : (s.setBit a k b).ports = s.ports := (State.setBit_within s a k b).2 .ports rfl
@[simp] theorem State.setBit_out (s : State) (a k : Nat) (b : Bool) : (s.setBit a k b).out = s.out := (State.setBit_within s a k b).2 .out rfl
@[simp] theorem State.setBit_fresh (s : State) (a k : Nat) (b : Bool) : (s.setBit a k b).fresh = s.fresh := (State.setBit_within s a k b).2 .fresh rfl
@[simp] theorem State.setBit_pending (s : State) (a k : Nat) (b : Bool) : (s.setBit a k b).pending = s.pending := (State.setBit_within s a k b).1.queue

@[simp] theorem State.irq_views (s : State) (p k : Nat) : (s.irq p k).views = s.views := (State.irq_within s p k).2 .views rfl
@[simp] theorem State.irq_fab (s : State) (p k : Nat) : (s.irq p k).fab = s.fab := (State.irq_within s p k).2 .fab rfl
@[simp] theorem State.irq_eddies (s : State) (p k : Nat) : (s.irq p k).eddies = s.eddies := (State.irq_within s p k).2 .eddies rfl
@[simp] theorem State.irq_mil (s : State) (p k : Nat) : (s.irq p k).mil = s.mil := (State.irq_within s p k).2 .mil rfl
@[simp] theorem State.irq_mem (s : State) (p k : Nat) : (s.irq p k).mem = s.mem := (State.irq_within s p k).2 .mem rfl
@[simp] theorem State.irq_stalls (s : State) (p k : Nat) : (s.irq p k).stalls = s.stalls := (State.irq_within s p k).2 .stalls rfl
@[simp] theorem State.irq_tally (s : State) (p k : Nat) : (s.irq p k).tally = s.tally := (State.irq_within s p k).2 .tally rfl
@[simp] theorem State.irq_tide (s : State) (p k : Nat) : (s.irq p k).tide = s.tide := (State.irq_within s p k).2 .tide rfl
@[simp] theorem State.irq_tree (s : State) (p k : Nat) : (s.irq p k).tree = s.tree := (State.irq_within s p k).2 .tree rfl
@[simp] theorem State.irq_tol (s : State) (p k : Nat) : (s.irq p k).tol = s.tol := (State.irq_within s p k).2 .tol rfl
@[simp] theorem State.irq_otp (s : State) (p k : Nat) : (s.irq p k).otp = s.otp := (State.irq_within s p k).2 .otp rfl
@[simp] theorem State.irq_clk (s : State) (p k : Nat) : (s.irq p k).clk = s.clk := (State.irq_within s p k).2 .clk rfl
@[simp] theorem State.irq_pins (s : State) (p k : Nat) : (s.irq p k).pins = s.pins := (State.irq_within s p k).2 .pins rfl
@[simp] theorem State.irq_lanes (s : State) (p k : Nat) : (s.irq p k).lanes = s.lanes := (State.irq_within s p k).2 .lanes rfl
@[simp] theorem State.irq_dbg (s : State) (p k : Nat) : (s.irq p k).dbg = s.dbg := (State.irq_within s p k).2 .dbg rfl
@[simp] theorem State.irq_d2d (s : State) (p k : Nat) : (s.irq p k).d2d = s.d2d := (State.irq_within s p k).2 .d2d rfl
@[simp] theorem State.irq_ports (s : State) (p k : Nat) : (s.irq p k).ports = s.ports := (State.irq_within s p k).2 .ports rfl
@[simp] theorem State.irq_out (s : State) (p k : Nat) : (s.irq p k).out = s.out := (State.irq_within s p k).2 .out rfl
@[simp] theorem State.irq_fresh (s : State) (p k : Nat) : (s.irq p k).fresh = s.fresh := (State.irq_within s p k).2 .fresh rfl
@[simp] theorem State.irq_pending (s : State) (p k : Nat) : (s.irq p k).pending = s.pending := (State.irq_within s p k).1.queue

@[simp] theorem State.refuse_views (s : State) (r : Req) (a c : Nat) : (s.refuse r a c).views = s.views := (State.refuse_within s r a c).2 .views rfl
@[simp] theorem State.refuse_fab (s : State) (r : Req) (a c : Nat) : (s.refuse r a c).fab = s.fab := (State.refuse_within s r a c).2 .fab rfl
@[simp] theorem State.refuse_eddies (s : State) (r : Req) (a c : Nat) : (s.refuse r a c).eddies = s.eddies := (State.refuse_within s r a c).2 .eddies rfl
@[simp] theorem State.refuse_mil (s : State) (r : Req) (a c : Nat) : (s.refuse r a c).mil = s.mil := (State.refuse_within s r a c).2 .mil rfl
@[simp] theorem State.refuse_mem (s : State) (r : Req) (a c : Nat) : (s.refuse r a c).mem = s.mem := (State.refuse_within s r a c).2 .mem rfl
@[simp] theorem State.refuse_stalls (s : State) (r : Req) (a c : Nat) : (s.refuse r a c).stalls = s.stalls := (State.refuse_within s r a c).2 .stalls rfl
@[simp] theorem State.refuse_tally (s : State) (r : Req) (a c : Nat) : (s.refuse r a c).tally = s.tally := (State.refuse_within s r a c).2 .tally rfl
@[simp] theorem State.refuse_tide (s : State) (r : Req) (a c : Nat) : (s.refuse r a c).tide = s.tide := (State.refuse_within s r a c).2 .tide rfl
@[simp] theorem State.refuse_tree (s : State) (r : Req) (a c : Nat) : (s.refuse r a c).tree = s.tree := (State.refuse_within s r a c).2 .tree rfl
@[simp] theorem State.refuse_tol (s : State) (r : Req) (a c : Nat) : (s.refuse r a c).tol = s.tol := (State.refuse_within s r a c).2 .tol rfl
@[simp] theorem State.refuse_otp (s : State) (r : Req) (a c : Nat) : (s.refuse r a c).otp = s.otp := (State.refuse_within s r a c).2 .otp rfl
@[simp] theorem State.refuse_clk (s : State) (r : Req) (a c : Nat) : (s.refuse r a c).clk = s.clk := (State.refuse_within s r a c).2 .clk rfl
@[simp] theorem State.refuse_pins (s : State) (r : Req) (a c : Nat) : (s.refuse r a c).pins = s.pins := (State.refuse_within s r a c).2 .pins rfl
@[simp] theorem State.refuse_lanes (s : State) (r : Req) (a c : Nat) : (s.refuse r a c).lanes = s.lanes := (State.refuse_within s r a c).2 .lanes rfl
@[simp] theorem State.refuse_dbg (s : State) (r : Req) (a c : Nat) : (s.refuse r a c).dbg = s.dbg := (State.refuse_within s r a c).2 .dbg rfl
@[simp] theorem State.refuse_d2d (s : State) (r : Req) (a c : Nat) : (s.refuse r a c).d2d = s.d2d := (State.refuse_within s r a c).2 .d2d rfl
@[simp] theorem State.refuse_ports (s : State) (r : Req) (a c : Nat) : (s.refuse r a c).ports = s.ports := (State.refuse_within s r a c).2 .ports rfl
@[simp] theorem State.refuse_out (s : State) (r : Req) (a c : Nat) : (s.refuse r a c).out = s.out := (State.refuse_within s r a c).2 .out rfl
@[simp] theorem State.refuse_fresh (s : State) (r : Req) (a c : Nat) : (s.refuse r a c).fresh = s.fresh := (State.refuse_within s r a c).2 .fresh rfl
@[simp] theorem State.refuse_pending (s : State) (r : Req) (a c : Nat) : (s.refuse r a c).pending = s.pending := (State.refuse_within s r a c).1.queue

/-! ### Register words -/

/-- A register word after a word was written. -/
theorem State.word_setWord (s : State) (a b : Nat) (v : BitVec 32) : (s.setWord a v).word b = if b = a then v else s.word b := by
  have h : ∀ t : State, t.regs = smSet (regReset a) s.regs a v → t.word b = if b = a then v else s.word b := by
    intro t ht
    unfold State.word
    rw [ht]
    split
    · rename_i hb; subst hb; simp
    · rename_i hb; exact smGet_smSet_ne _ _ _ _ hb
  refine h _ ?_
  unfold State.setWord
  dsimp only
  split
  · split <;> rfl
  · rfl

@[simp] theorem State.word_setWord_same (s : State) (a : Nat) (v : BitVec 32) : (s.setWord a v).word a = v := by simp [State.word_setWord]

theorem State.word_setWord_ne (s : State) {a b : Nat} (v : BitVec 32) (h : b ≠ a) : (s.setWord a v).word b = s.word b := by simp [State.word_setWord, h]

theorem State.word_wr32_ne (s : State) {a b : Nat} (v : Nat) (h : b ≠ a) : (s.wr32 a v).word b = s.word b := State.word_setWord_ne s _ h

@[simp] theorem State.rd32_wr32 (s : State) (a v : Nat) : (s.wr32 a v).rd32 a = v % 2 ^ 32 := by simp [State.wr32, State.rd32]

theorem State.rd32_wr32_ne (s : State) {a b : Nat} (v : Nat) (h : b ≠ a) : (s.wr32 a v).rd32 b = s.rd32 b := by
  simp [State.rd32, State.word_wr32_ne s v h]

theorem State.rd32_lt (s : State) (a : Nat) : s.rd32 a < 2 ^ 32 := (s.word a).isLt

theorem State.word_wr64_ne (s : State) {a b : Nat} (v : Nat) (h : b ≠ a) (h' : b ≠ a + 4) : (s.wr64 a v).word b = s.word b := by
  rw [State.wr64, State.word_wr32_ne _ _ h', State.word_wr32_ne _ _ h]

@[simp] theorem State.rd64_wr64 (s : State) (a v : Nat) : (s.wr64 a v).rd64 a = v % 2 ^ 64 := by
  have h : (s.wr64 a v).rd32 a = v % 2 ^ 32 := by
    rw [State.wr64, State.rd32_wr32_ne _ _ (by omega), State.rd32_wr32]
  have h' : (s.wr64 a v).rd32 (a + 4) = v / 2 ^ 32 % 2 ^ 32 := by rw [State.wr64, State.rd32_wr32]
  rw [State.rd64, h, h']
  omega

/-! ### Fields -/

/-- A field read from a value it was just set in. -/
@[simp] theorem Fld.get_set (f : Fld) (v x : Nat) : f.get (f.set v x) = x % 2 ^ f.width := by
  unfold Fld.get Fld.set
  have hp : 0 < 2 ^ f.lo := Nat.two_pow_pos _
  have h1 : v % 2 ^ f.lo < 2 ^ f.lo := Nat.mod_lt _ hp
  have h2 : (v % 2 ^ f.lo + x % 2 ^ f.width * 2 ^ f.lo + v / 2 ^ (f.lo + f.width) * 2 ^ (f.lo + f.width)) / 2 ^ f.lo =
      x % 2 ^ f.width + v / 2 ^ (f.lo + f.width) * 2 ^ f.width := by
    have e : v % 2 ^ f.lo + x % 2 ^ f.width * 2 ^ f.lo + v / 2 ^ (f.lo + f.width) * 2 ^ (f.lo + f.width) =
        v % 2 ^ f.lo + 2 ^ f.lo * (x % 2 ^ f.width + v / 2 ^ (f.lo + f.width) * 2 ^ f.width) := by
      rw [Nat.pow_add, Nat.mul_add, Nat.mul_comm (2 ^ f.lo) (x % 2 ^ f.width), Nat.mul_left_comm (2 ^ f.lo), Nat.add_assoc]
    rw [e, Nat.add_mul_div_left _ _ hp, Nat.div_eq_of_lt h1, Nat.zero_add]
  rw [h2, Nat.add_mul_mod_self_right, Nat.mod_mod]

theorem Fld.set_lt (f : Fld) (v x n : Nat) (hv : v < 2 ^ n) (h : f.lo + f.width ≤ n) : f.set v x < 2 ^ n := by
  unfold Fld.set
  have h1 : v % 2 ^ f.lo < 2 ^ f.lo := Nat.mod_lt _ (Nat.two_pow_pos _)
  have h2 : x % 2 ^ f.width < 2 ^ f.width := Nat.mod_lt _ (Nat.two_pow_pos _)
  obtain ⟨m, rfl⟩ : ∃ m, n = f.lo + f.width + m := ⟨n - (f.lo + f.width), by omega⟩
  have h3 : v / 2 ^ (f.lo + f.width) < 2 ^ m := by
    rw [Nat.div_lt_iff_lt_mul (Nat.two_pow_pos _), ← Nat.pow_add, Nat.add_comm m]; exact hv
  have e1 : (x % 2 ^ f.width + 1) * 2 ^ f.lo ≤ 2 ^ f.width * 2 ^ f.lo := Nat.mul_le_mul_right _ h2
  have e2 : (v / 2 ^ (f.lo + f.width) + 1) * 2 ^ (f.lo + f.width) ≤ 2 ^ m * 2 ^ (f.lo + f.width) := Nat.mul_le_mul_right _ h3
  rw [Nat.add_mul] at e1 e2
  have e3 : 2 ^ f.width * 2 ^ f.lo = 2 ^ (f.lo + f.width) := by rw [Nat.mul_comm, ← Nat.pow_add]
  have e4 : 2 ^ m * 2 ^ (f.lo + f.width) = 2 ^ (f.lo + f.width + m) := by rw [Nat.mul_comm, ← Nat.pow_add]
  rw [e3] at e1
  rw [e4] at e2
  omega

/-- A field of one word read after it was written. -/
theorem State.fget_fset (s : State) (a : Nat) (f : Fld) (v : Nat) (h : f.lo + f.width ≤ 32) : (s.fset a f v).fget a f = v % 2 ^ f.width := by
  unfold State.fget State.fset
  simp only [h, if_true, State.rd32_wr32]
  rw [Nat.mod_eq_of_lt (Fld.set_lt f _ _ 32 (State.rd32_lt s a) h), Fld.get_set]

theorem State.word_fset_ne (s : State) {a b : Nat} (f : Fld) (v : Nat) (h : f.lo + f.width ≤ 32) (hb : b ≠ a) : (s.fset a f v).word b = s.word b := by
  unfold State.fset
  simp only [h, if_true]
  exact State.word_wr32_ne s _ hb

/-- Bits of a value outside a field that was set in it. -/
theorem Fld.testBit_set (f : Fld) (v x k : Nat) (h : k < f.lo ∨ f.lo + f.width ≤ k) : (f.set v x).testBit k = v.testBit k := by
  unfold Fld.set
  rw [Nat.testBit_eq_decide_div_mod_eq, Nat.testBit_eq_decide_div_mod_eq]
  have hl : 0 < 2 ^ f.lo := Nat.two_pow_pos _
  rcases h with h | h
  · obtain ⟨m, hm⟩ : ∃ m, f.lo = k + 1 + m := ⟨f.lo - k - 1, by omega⟩
    have e : v % 2 ^ f.lo + x % 2 ^ f.width * 2 ^ f.lo + v / 2 ^ (f.lo + f.width) * 2 ^ (f.lo + f.width) =
        v % 2 ^ f.lo + 2 ^ (k + 1) * (2 ^ m * (x % 2 ^ f.width + v / 2 ^ (f.lo + f.width) * 2 ^ f.width)) := by
      rw [← Nat.mul_assoc, ← Nat.pow_add, ← hm, Nat.pow_add, Nat.mul_add, Nat.mul_comm (2 ^ f.lo) (x % 2 ^ f.width), Nat.mul_left_comm (2 ^ f.lo), Nat.add_assoc]
    have g : ∀ y : Nat, y / 2 ^ k % 2 = y % 2 ^ (k + 1) / 2 ^ k := by
      intro y
      rw [Nat.pow_succ, Nat.mod_mul_right_div_self]
    rw [e, g, g, Nat.add_mul_mod_self_left, Nat.mod_mod_of_dvd _ (by rw [hm]; exact Nat.pow_dvd_pow 2 (by omega))]
  · obtain ⟨m, hm⟩ : ∃ m, k = f.lo + f.width + m := ⟨k - f.lo - f.width, by omega⟩
    have h1 : v % 2 ^ f.lo + x % 2 ^ f.width * 2 ^ f.lo < 2 ^ (f.lo + f.width) := by
      have a1 : v % 2 ^ f.lo < 2 ^ f.lo := Nat.mod_lt _ hl
      have a2 : x % 2 ^ f.width < 2 ^ f.width := Nat.mod_lt _ (Nat.two_pow_pos _)
      have e1 : (x % 2 ^ f.width + 1) * 2 ^ f.lo ≤ 2 ^ f.width * 2 ^ f.lo := Nat.mul_le_mul_right _ a2
      rw [Nat.add_mul, Nat.mul_comm (2 ^ f.width), ← Nat.pow_add] at e1
      omega
    rw [hm, Nat.pow_add 2 (f.lo + f.width) m, ← Nat.div_div_eq_div_mul, ← Nat.div_div_eq_div_mul, Nat.add_mul_div_right _ _ (Nat.two_pow_pos _), Nat.div_eq_of_lt h1, Nat.zero_add]

end Sys2Proof.Machine
end

