-- ==== Sys2Proof/Laws/Access.lean ====
section
/-! SUPPORT. A register access that is taken: the page an address names, and what a write comes to. -/

namespace Sys2Proof.Machine

/-! ### The page at an address -/

/-- The base address of the last page of a kind. -/
def PageKind.last (k : PageKind) : Nat := k.geom.base + (k.geom.n1 - 1) * k.geom.s1 + (k.geom.n2 - 1) * k.geom.s2

theorem PageKind.instOf_some {k : PageKind} {p x : Nat} (h : k.instOf p = some x) :
    ∃ i j, i < k.geom.n1 ∧ j < k.geom.n2 ∧ p = k.geom.base + i * k.geom.s1 + j * k.geom.s2 := by
  unfold PageKind.instOf at h
  by_cases hp : p < k.geom.base
  · rw [if_pos hp] at h; cases h
  · rw [if_neg hp] at h
    by_cases h2 : (if k.geom.s1 = 0 then 0 else (p - k.geom.base) / k.geom.s1) < k.geom.n1 ∧
        (if k.geom.s2 = 0 then 0 else (p - k.geom.base - (if k.geom.s1 = 0 then 0 else (p - k.geom.base) / k.geom.s1) * k.geom.s1) / k.geom.s2) < k.geom.n2 ∧
        (if k.geom.s1 = 0 then 0 else (p - k.geom.base) / k.geom.s1) * k.geom.s1 +
          (if k.geom.s2 = 0 then 0 else (p - k.geom.base - (if k.geom.s1 = 0 then 0 else (p - k.geom.base) / k.geom.s1) * k.geom.s1) / k.geom.s2) * k.geom.s2
            = p - k.geom.base
    · exact ⟨_, _, h2.1, h2.2.1, by have := h2.2.2; omega⟩
    · rw [if_neg h2] at h; cases h

theorem PageKind.instOf_span {k : PageKind} {p x : Nat} (h : k.instOf p = some x) : k.geom.base ≤ p ∧ p ≤ k.last := by
  obtain ⟨i, j, hi, hj, rfl⟩ := PageKind.instOf_some h
  have h1 := Nat.mul_le_mul_right k.geom.s1 (Nat.le_sub_one_of_lt hi)
  have h2 := Nat.mul_le_mul_right k.geom.s2 (Nat.le_sub_one_of_lt hj)
  unfold PageKind.last
  omega

/-- Whether all pages of one kind lie below those of the other. -/
def PageKind.apart (k l : PageKind) : Bool := decide (k.last < l.geom.base) || decide (l.last < k.geom.base)

/-- The kinds whose pages lie among one another. -/
def PageKind.mixed : PageKind → Nat
  | .shedMem | .shedTrib | .shedCfg | .shedClk | .wb | .yardClk | .yardScrub | .pinBank => 1
  | .eddy | .eddyIo => 2
  | _ => 0

theorem PageKind.mem_all (k : PageKind) : k ∈ allPageKinds := by cases k <;> decide

theorem PageKind.apart_or : ∀ k ∈ allPageKinds, ∀ l ∈ allPageKinds, k = l ∨ k.apart l = true ∨ (k.mixed = l.mixed ∧ k.mixed ≠ 0) := by
  decide +kernel

theorem PageKind.instOf_unique {k l : PageKind} {p x y : Nat} (h : k.instOf p = some x) (g : l.instOf p = some y) : k = l := by
  rcases PageKind.apart_or k k.mem_all l l.mem_all with e | e | ⟨e, e0⟩
  · exact e
  · have h1 := PageKind.instOf_span h
    have h2 := PageKind.instOf_span g
    simp only [PageKind.apart, Bool.or_eq_true, decide_eq_true_eq] at e
    omega
  · obtain ⟨i, j, hi, hj, rfl⟩ := PageKind.instOf_some h
    obtain ⟨a, b, ha, hb, q⟩ := PageKind.instOf_some g
    cases k <;> first | (exact absurd rfl e0) | (cases l <;> first | rfl | (exact absurd e (by decide)) | (exfalso; simp only [PageKind.geom] at hi hj ha hb q; omega))

theorem findPage_of_mem {k : PageKind} {p x : Nat} (h : k.instOf p = some x) : ∀ ks : List PageKind, k ∈ ks → findPage p ks = some (k, x)
  | l :: ls, hm => by
    unfold findPage
    cases g : l.instOf p with
    | none =>
      rcases List.mem_cons.1 hm with e | e
      · subst e; rw [h] at g; cases g
      · exact findPage_of_mem h ls e
    | some y =>
      obtain rfl := PageKind.instOf_unique h g
      rw [h] at g; cases g; rfl

/-- What is checked of every page of Table MAP-1, once. -/
def PageKind.placed (k : PageKind) : Bool :=
  (List.range k.count).all fun i => decide (k.instOf (k.addr i) = some i) && decide (k.addr i % 4096 = 0) && decide (k.addr i + 4096 ≤ 0x0D000000)

theorem PageKind.placed_all : ∀ k ∈ allPageKinds, k.placed = true := by decide +kernel

theorem PageKind.addr_placed (k : PageKind) {i : Nat} (h : i < k.count) :
    k.instOf (k.addr i) = some i ∧ k.addr i % 4096 = 0 ∧ k.addr i + 4096 ≤ 0x0D000000 := by
  have g := List.all_eq_true.1 (PageKind.placed_all k k.mem_all) i (List.mem_range.2 h)
  simp only [Bool.and_eq_true, decide_eq_true_eq] at g
  exact ⟨g.1.1, g.1.2, g.2⟩

theorem pageOf_addr (k : PageKind) {i o : Nat} (h : i < k.count) (ho : o < 4096) : pageOf (k.addr i + o) = some (k, i) := by
  obtain ⟨h1, h2, -⟩ := k.addr_placed h
  unfold pageOf
  rw [show (k.addr i + o) / 4096 * 4096 = k.addr i by omega]
  exact findPage_of_mem h1 _ k.mem_all

theorem addr_div (k : PageKind) {i o : Nat} (h : i < k.count) (ho : o < 4096) : (k.addr i + o) / 4096 * 4096 = k.addr i := by
  have := (k.addr_placed h).2.1; omega

theorem addr_mod (k : PageKind) {i o : Nat} (h : i < k.count) (ho : o < 4096) : (k.addr i + o) % 4096 = o := by
  have := (k.addr_placed h).2.1; omega

theorem inWindow_addr (k : PageKind) {i o : Nat} (h : i < k.count) (ho : o < 4096) : inWindow (k.addr i + o) = false := by
  have := (k.addr_placed h).2.2
  simp only [inWindow, Bool.and_eq_false_iff, decide_eq_false_iff_not]; omega

/-- Two register addresses that are equal name one page and one offset. -/
theorem addr_inj {k l : PageKind} {i j o q : Nat} (h : i < k.count) (g : j < l.count) (ho : o < 4096) (hq : q < 4096)
    (e : k.addr i + o = l.addr j + q) : k = l ∧ i = j ∧ o = q := by
  have h1 := pageOf_addr k h ho
  rw [e, pageOf_addr l g hq] at h1
  have h2 := addr_mod k h ho
  rw [e, addr_mod l g hq] at h2
  simp only [Option.some.injEq, Prod.mk.injEq] at h1
  exact ⟨h1.1.symm, h1.2.symm, h2.symm⟩

/-! ### An access that is served -/

theorem State.startsAcc_none (s : State) (req : Req) (k : PageKind) {i o : Nat} (size : Nat) (w : Access) (hv : req.valid = true) (h : i < k.count)
    (ho : o < 4096) (hn : ¬ (k = .dbgSess ∧ o = 0x060)) : s.startsAcc req (k.addr i + o) size w = none := by
  unfold State.startsAcc
  split
  · rename_i w1 _ v x hq
    rw [if_neg]
    rintro ⟨e, -⟩
    have hv6 : v < PageKind.dbgSess.count := by
      cases req <;> simp [Req.view] at hq <;> subst hq <;> simp [Req.valid] at hv <;> (show _ < 6) <;> omega
    obtain ⟨e1, -, e2⟩ := addr_inj h hv6 ho (by decide) e
    exact hn ⟨e1, e2⟩
  · rfl

theorem State.plainAccess_served (s : State) (req : Req) (k : PageKind) {i o size : Nat} (w : Access) (upset : Nat) (hs : ∀ n, req ≠ .stall n)
    (h : i < k.count) (ho : o < 4096) (hz : [1, 2, 4, 8].contains size = true) (ha : o % size = 0) (hg : s.getsTo req k i o = true) :
    s.plainAccess req (k.addr i + o) size w upset = s.serveReg req ⟨k, i, k.addr i⟩ o size w upset := by
  have hp := (k.addr_placed h).2.1
  have hsz : size = 1 ∨ size = 2 ∨ size = 4 ∨ size = 8 := by simpa using hz
  have hal : (k.addr i + o) % size = 0 := by rcases hsz with rfl | rfl | rfl | rfl <;> omega
  simp only [State.getsTo, Bool.and_eq_true] at hg
  unfold State.plainAccess
  rw [if_neg (by simp only [hz, hal]; decide), inWindow_addr k h ho]
  simp only [Bool.false_eq_true, if_false, pageOf_addr k h ho, hg.1, addr_div k h ho, addr_mod k h ho]
  cases req <;> simp_all

theorem State.windowAt_served (s : State) (n : Nat) (k : PageKind) {i o size : Nat} (w : Access) (upset : Nat)
    (h : i < k.count) (ho : o < 4096) (hg : s.getsTo (.stall n) k i o = true) :
    s.windowAt (.stall n) n (k.addr i + o) size w upset = s.serveReg (.stall n) ⟨k, i, k.addr i⟩ o size w upset := by
  simp only [State.getsTo, Bool.and_eq_true] at hg
  unfold State.windowAt
  simp [pageOf_addr k h ho, hg.1, hg.2, addr_div k h ho, addr_mod k h ho]

theorem State.regAccess_served (s : State) (req : Req) (k : PageKind) {i o size : Nat} (w : Access) (upset : Nat) (hv : req.valid = true)
    (hs : ∀ n, req ≠ .stall n) (h : i < k.count) (ho : o < 4096) (hz : [1, 2, 4, 8].contains size = true) (ha : o % size = 0)
    (hn : ¬ (k = .dbgSess ∧ o = 0x060)) (hg : s.getsTo req k i o = true) :
    s.regAccess req (k.addr i + o) size w upset = s.serveReg req ⟨k, i, k.addr i⟩ o size w upset := by
  unfold State.regAccess
  rw [s.startsAcc_none req k size w hv h ho hn]
  exact s.plainAccess_served req k w upset hs h ho hz ha hg

theorem State.accessTo_served (s : State) (req : Req) (k : PageKind) {i o size : Nat} (w : Access) (upset : Nat) (hv : req.valid = true)
    (h : i < k.count) (ho : o < 4096) (hz : [1, 2, 4, 8].contains size = true) (ha : o % size = 0)
    (hn : ¬ (k = .dbgSess ∧ o = 0x060)) (hg : s.getsTo req k i o = true) :
    s.accessTo req (k.addr i + o) size w upset = s.serveReg req ⟨k, i, k.addr i⟩ o size w upset := by
  unfold State.accessTo
  split
  · exact s.windowAt_served _ k w upset h ho hg
  · rename_i hx
    exact s.regAccess_served req k w upset hv (fun n e => hx n e) h ho hz ha hn hg

@[simp] theorem State.showEnd_write (t : State) (req : Req) (a v : Nat) : State.showEnd (t, RegEnd.ok, v) req a false = t := rfl
@[simp] theorem State.showEnd_read (t : State) (req : Req) (a v : Nat) : State.showEnd (t, RegEnd.ok, v) req a true = t.emit (.regData req a v) := rfl

/-! ### A write that is not refused -/

theorem State.writeRefusal_none (s : State) (req : Req) (k : PageKind) {i o size : Nat} (b : ViewBuf) (hz : 4 ≤ size) (ht : s.takes req k i o = true) :
    (s.setViewBuf req (k.addr i) b).writeRefusal req ⟨k, i, k.addr i⟩ o size = none := by
  simp only [State.takes, Bool.and_eq_true, Bool.or_eq_true, decide_eq_true_eq, Bool.not_eq_true'] at ht
  unfold State.writeRefusal
  rw [show (s.setViewBuf req (k.addr i) b).mayWrite req k i o = s.mayWrite req k i o from rfl,
    show (s.setViewBuf req (k.addr i) b).flag (rLOCK (k.addr i)) fLOCK_LOCKED = s.flag (rLOCK (k.addr i)) fLOCK_LOCKED from rfl]
  simp only [ht.1.2, Bool.not_true, Bool.false_eq_true, if_false]
  rw [if_neg, if_neg (by omega)]
  rintro ⟨h1, h2, h3⟩
  rcases ht.2 with (h | h) | h
  · omega
  · rw [h] at h2; cases h2
  · exact h3 h

theorem State.getsTo_of_takes {s : State} {req : Req} {k : PageKind} {i o : Nat} (ht : s.takes req k i o = true) : s.getsTo req k i o = true := by
  simp only [State.takes, Bool.and_eq_true] at ht
  exact ht.1.1

theorem State.writeWord_taken (s : State) (req : Req) (k : PageKind) {i o : Nat} (v upset : Nat) {r : RegDef}
    (ht : s.takes req k i o = true) (hr : findReg o k.regs = some (r, o)) (hw : r.wide = false) :
    s.writeWord req ⟨k, i, k.addr i⟩ o v upset = (s.setViewBuf req (k.addr i) ViewBuf.empty).writeWhole req ⟨k, i, k.addr i⟩ r o v upset := by
  unfold State.writeWord
  simp only [s.writeRefusal_none req k ViewBuf.empty (by decide : 4 ≤ 4) ht, hr, hw, Bool.not_false, if_true]

/-- A 32-bit register written: what a view held of the page goes, and the register's rule acts. -/
theorem State.accessTo_taken (s : State) (req : Req) (k : PageKind) {i o : Nat} (v upset : Nat) {r : RegDef} (hv : req.valid = true) (h : i < k.count)
    (ho : o < 4096) (ha : o % 4 = 0) (hn : ¬ (k = .dbgSess ∧ o = 0x060)) (ht : s.takes req k i o = true)
    (hr : findReg o k.regs = some (r, o)) (hw : r.wide = false) :
    s.accessTo req (k.addr i + o) 4 (some v) upset =
      ((s.setViewBuf req (k.addr i) ViewBuf.empty).writeWhole req ⟨k, i, k.addr i⟩ r o v upset, RegEnd.ok, 0) := by
  rw [s.accessTo_served req k (some v) upset hv h ho (by decide) ha hn (State.getsTo_of_takes ht)]
  simp only [State.serveReg, State.pageWrite, s.writeWord_taken req k v upset ht hr hw]
  simp

theorem State.putReg_taken (s : State) (req : Req) (k : PageKind) {i o : Nat} (v : Nat) {r : RegDef} (hv : req.valid = true) (h : i < k.count)
    (ho : o < 4096) (ha : o % 4 = 0) (hn : ¬ (k = .dbgSess ∧ o = 0x060)) (ht : s.takes req k i o = true)
    (hr : findReg o k.regs = some (r, o)) (hw : r.wide = false) :
    s.putReg req (k.addr i + o) v = (s.setViewBuf req (k.addr i) ViewBuf.empty).writeWhole req ⟨k, i, k.addr i⟩ r o v 0 := by
  unfold State.putReg
  rw [s.accessTo_taken req k v 0 hv h ho ha hn ht hr hw]
  rfl

/-- A 64-bit register written whole. -/
theorem State.putReg64_taken (s : State) (req : Req) (k : PageKind) {i o : Nat} (v : Nat) {r : RegDef} (hv : req.valid = true) (h : i < k.count)
    (ho : o < 4096) (ha : o % 8 = 0) (hn : ¬ (k = .dbgSess ∧ o = 0x060)) (ht : s.takes req k i o = true)
    (hr : findReg o k.regs = some (r, o)) (hw : r.wide = true) :
    s.putReg64 req (k.addr i + o) v = (s.setViewBuf req (k.addr i) ViewBuf.empty).writeWhole req ⟨k, i, k.addr i⟩ r o v 0 := by
  unfold State.putReg64
  rw [s.accessTo_served req k (some v) 0 hv h ho (by decide) ha hn (State.getsTo_of_takes ht)]
  simp only [State.serveReg, State.pageWrite, hr, hw, s.writeRefusal_none req k ViewBuf.empty (by decide : 4 ≤ 8) ht]
  simp

end Sys2Proof.Machine
end

