-- ==== Sys2Proof/Laws/Exec.lean ====
section
/-! SUPPORT. What each command does where its operands are well formed and, for those that need clocks, clocks run. -/

namespace Sys2Proof.Machine

theorem exec_regWrite (req : Req) (addr size value : Nat) (s : State) (h : (Instr.regWrite req addr size value).wf = true) (hc : s.clocked = true) :
    exec (.regWrite req addr size value) s = .next (s.regWrite req addr size value) := by
  show execRegWrite req addr size value s = _
  unfold execRegWrite
  rw [if_pos (by rw [h, hc]; rfl)]

theorem exec_rcRead (req : Req) (addr size : Nat) (s : State) (h : (Instr.rcRead req addr size).wf = true) (hc : s.clocked = true) :
    exec (.rcRead req addr size) s = .next (s.regRead req addr size 0) := by
  show execRcRead req addr size s = _
  unfold execRcRead
  rw [if_pos (by rw [h, hc]; rfl)]

theorem exec_narrowAccess (req : Req) (addr : Nat) (half : Bool) (write : Option Nat) (s : State) (h : (Instr.narrowAccess req addr half write).wf = true) (hc : s.clocked = true) :
    exec (.narrowAccess req addr half write) s = .next ((match write with | some v => s.regWrite req addr (if half then 2 else 1) v | none => s.regRead req addr (if half then 2 else 1) 0)) := by
  show execNarrowAccess req addr half write s = _
  unfold execNarrowAccess
  rw [if_pos (by rw [h, hc]; rfl)]
  cases write <;> rfl

theorem exec_reg64LowRead (req : Req) (addr : Nat) (s : State) (h : (Instr.reg64LowRead req addr).wf = true) (hc : s.clocked = true) :
    exec (.reg64LowRead req addr) s = .next (s.regRead req addr 4 0) := by
  show execReg64LowRead req addr s = _
  unfold execReg64LowRead
  rw [if_pos (by rw [h, hc]; rfl)]

theorem exec_reg64LowWrite (req : Req) (addr value : Nat) (s : State) (h : (Instr.reg64LowWrite req addr value).wf = true) (hc : s.clocked = true) :
    exec (.reg64LowWrite req addr value) s = .next (s.regWrite req addr 4 value) := by
  show execReg64LowWrite req addr value s = _
  unfold execReg64LowWrite
  rw [if_pos (by rw [h, hc]; rfl)]

theorem exec_reg64HighWrite (req : Req) (addr value : Nat) (s : State) (h : (Instr.reg64HighWrite req addr value).wf = true) (hc : s.clocked = true) :
    exec (.reg64HighWrite req addr value) s = .next (s.regWrite req addr 4 value) := by
  show execReg64HighWrite req addr value s = _
  unfold execReg64HighWrite
  rw [if_pos (by rw [h, hc]; rfl)]

theorem exec_softRst (req : Req) (page : Nat) (enable : Bool) (s : State) (h : (Instr.softRst req page enable).wf = true) (hc : s.clocked = true) :
    exec (.softRst req page enable) s = .next (s.putReg req (rPAGE_CTRL (4096 * page)) (2 + b2n enable)) := by
  show execSoftRst req page enable s = _
  unfold execSoftRst
  rw [if_pos (by rw [h, hc]; rfl)]

theorem exec_irqForce (req : Req) (page bits : Nat) (s : State) (h : (Instr.irqForce req page bits).wf = true) (hc : s.clocked = true) :
    exec (.irqForce req page bits) s = .next (s.putReg req (rIRQ_FORCE (4096 * page)) bits) := by
  show execIrqForce req page bits s = _
  unfold execIrqForce
  rw [if_pos (by rw [h, hc]; rfl)]

theorem exec_lockPage (req : Req) (page : Nat) (s : State) (h : (Instr.lockPage req page).wf = true) (hc : s.clocked = true) :
    exec (.lockPage req page) s = .next (s.putReg req (rLOCK (4096 * page)) 1) := by
  show execLockPage req page s = _
  unfold execLockPage
  rw [if_pos (by rw [h, hc]; rfl)]

theorem exec_errFirstClear (req : Req) (page : Nat) (s : State) (h : (Instr.errFirstClear req page).wf = true) (hc : s.clocked = true) :
    exec (.errFirstClear req page) s = .next (s.putReg req (rERR_FIRST (4096 * page)) (2 ^ 31)) := by
  show execErrFirstClear req page s = _
  unfold execErrFirstClear
  rw [if_pos (by rw [h, hc]; rfl)]

theorem exec_stallWindow (stall addr size : Nat) (write : Option Nat) (upset : Nat) (s : State) (h : (Instr.stallWindow stall addr size write upset).wf = true) (hc : s.clocked = true) :
    exec (.stallWindow stall addr size write upset) s = .next ((if inWindow addr then State.showEnd (s.regAccess (.stall stall) addr size write upset) (.stall stall) addr write.isNone else s)) := by
  show execStallWindow stall addr size write upset s = _
  unfold execStallWindow
  rw [if_pos (by rw [h, hc]; rfl)]

theorem exec_summaryPush (s : State) (h : Instr.summaryPush.wf = true) (hc : s.clocked = true) :
    exec (.summaryPush) s = .next (s.summaryPush) := by
  show execSummaryPush s = _
  unfold execSummaryPush
  rw [if_pos (by rw [h, hc]; rfl)]

theorem exec_msixSend (view : Nat) (s : State) (h : (Instr.msixSend view).wf = true) (hc : s.clocked = true) :
    exec (.msixSend view) s = .next (s.msixSend view) := by
  show execMsixSend view s = _
  unfold execMsixSend
  rw [if_pos (by rw [h, hc]; rfl)]

theorem exec_aggPop (req : Req) (view : Nat) (s : State) (h : (Instr.aggPop req view).wf = true) (hc : s.clocked = true) :
    exec (.aggPop req view) s = .next (s.putReg req (rAGG_POP view) 1) := by
  show execAggPop req view s = _
  unfold execAggPop
  rw [if_pos (by rw [h, hc]; rfl)]

theorem exec_deviceReset (env : StartEnv) (s : State) (h : (Instr.deviceReset env).wf = true) :
    exec (.deviceReset env) s = .next (s.deviceReset causeRIVERBED env) := by
  show execDeviceReset env s = _
  unfold execDeviceReset
  rw [if_pos h]

theorem exec_powerGood (env : StartEnv) (s : State) (h : (Instr.powerGood env).wf = true) :
    exec (.powerGood env) s = .next (s.powerGood env) := by
  show execPowerGood env s = _
  unfold execPowerGood
  rw [if_pos h]

theorem exec_sysRst (env : StartEnv) (s : State) (h : (Instr.sysRst env).wf = true) :
    exec (.sysRst env) s = .next (s.deviceReset causeSYS_RST env) := by
  show execSysRst env s = _
  unfold execSysRst
  rw [if_pos h]

theorem exec_thermAlert (hot : Bool) (s : State) (h : (Instr.thermAlert hot).wf = true) :
    exec (.thermAlert hot) s = .next (s.thermAlert hot) := by
  show execThermAlert hot s = _
  unfold execThermAlert
  rw [if_pos h]

theorem exec_scrubVisit (yard : Nat) (s : State) (h : (Instr.scrubVisit yard).wf = true) (hc : s.clocked = true) :
    exec (.scrubVisit yard) s = .next (s.scrubVisit yard) := by
  show execScrubVisit yard s = _
  unfold execScrubVisit
  rw [if_pos (by rw [h, hc]; rfl)]

theorem exec_scrubStart (yard : Nat) (s : State) (h : (Instr.scrubStart yard).wf = true) (hc : s.clocked = true) :
    exec (.scrubStart yard) s = .next (s.scrubStart yard) := by
  show execScrubStart yard s = _
  unfold execScrubStart
  rw [if_pos (by rw [h, hc]; rfl)]

theorem exec_fifoReset (shed block : Nat) (s : State) (h : (Instr.fifoReset shed block).wf = true) :
    exec (.fifoReset shed block) s = .next (s.fifoReset shed block) := by
  show execFifoReset shed block s = _
  unfold execFifoReset
  rw [if_pos h]

theorem exec_tribContention (trib : Nat) (s : State) (h : (Instr.tribContention trib).wf = true) (hc : s.clocked = true) :
    exec (.tribContention trib) s = .next (s.contention trib) := by
  show execTribContention trib s = _
  unfold execTribContention
  rw [if_pos (by rw [h, hc]; rfl)]

theorem exec_clockEdge (clk : ClockId) (falling : Bool) (elems : List ElemIn) (s : State) (h : (Instr.clockEdge clk falling elems).wf = true) (hc : s.clocked = true) :
    exec (.clockEdge clk falling elems) s = .next (s.clockEdge clk falling elems) := by
  show execClockEdge clk falling elems s = _
  unfold execClockEdge
  rw [if_pos (by rw [h, hc]; rfl)]

theorem exec_upset (bit : UpsetAt) (s : State) (h : (Instr.upset bit).wf = true) :
    exec (.upset bit) s = .next (s.upset bit) := by
  show execUpset bit s = _
  unfold execUpset
  rw [if_pos h]

theorem exec_start (req : Req) (n : Nat) (s : State) (h : (Instr.start req n).wf = true) (hc : s.clocked = true) :
    exec (.start req n) s = .next (s.putReg req (rEDDY_RUN n) 1) := by
  show execStart req n s = _
  unfold execStart
  rw [if_pos (by rw [h, hc]; rfl)]

theorem exec_startExecute (n : Nat) (s : State) (h : (Instr.startExecute n).wf = true) (hc : s.clocked = true) :
    exec (.startExecute n) s = .next (s.startExecute n) := by
  show execStartExecute n s = _
  unfold execStartExecute
  rw [if_pos (by rw [h, hc]; rfl)]

theorem exec_stop (req : Req) (n : Nat) (s : State) (h : (Instr.stop req n).wf = true) (hc : s.clocked = true) :
    exec (.stop req n) s = .next (s.putReg req (rEDDY_RUN n) 2) := by
  show execStop req n s = _
  unfold execStop
  rw [if_pos (by rw [h, hc]; rfl)]

theorem exec_stopEffect (n : Nat) (s : State) (h : (Instr.stopEffect n).wf = true) (hc : s.clocked = true) :
    exec (.stopEffect n) s = .next (s.stopEffect n) := by
  show execStopEffect n s = _
  unfold execStopEffect
  rw [if_pos (by rw [h, hc]; rfl)]

theorem exec_resume (req : Req) (n : Nat) (s : State) (h : (Instr.resume req n).wf = true) (hc : s.clocked = true) :
    exec (.resume req n) s = .next (s.putReg req (rEDDY_RUN n) 4) := by
  show execResume req n s = _
  unfold execResume
  rw [if_pos (by rw [h, hc]; rfl)]

theorem exec_kick (req : Req) (n : Nat) (s : State) (h : (Instr.kick req n).wf = true) (hc : s.clocked = true) :
    exec (.kick req n) s = .next (s.putReg req (rEDDY_RUN n) 8) := by
  show execKick req n s = _
  unfold execKick
  rw [if_pos (by rw [h, hc]; rfl)]

theorem exec_eddyCfgWrite (req : Req) (n value : Nat) (s : State) (h : (Instr.eddyCfgWrite req n value).wf = true) (hc : s.clocked = true) :
    exec (.eddyCfgWrite req n value) s = .next (s.putReg req (rEDDY_CFG n) value) := by
  show execEddyCfgWrite req n value s = _
  unfold execEddyCfgWrite
  rw [if_pos (by rw [h, hc]; rfl)]

theorem exec_bundleIssue (n : Nat) (env : IssueEnv) (s : State) (h : (Instr.bundleIssue n env).wf = true) (hc : s.clocked = true) :
    exec (.bundleIssue n env) s = .next (s.dbgIssue n env) := by
  show execBundleIssue n env s = _
  unfold execBundleIssue
  rw [if_pos (by rw [h, hc]; rfl)]

theorem exec_lockGrant (mem : Nat) (s : State) (h : (Instr.lockGrant mem).wf = true) (hc : s.clocked = true) :
    exec (.lockGrant mem) s = .next (s.lockGrant mem) := by
  show execLockGrant mem s = _
  unfold execLockGrant
  rw [if_pos (by rw [h, hc]; rfl)]

theorem exec_lockTimeout (n : Nat) (env : IssueEnv) (s : State) (h : (Instr.lockTimeout n env).wf = true) (hc : s.clocked = true) :
    exec (.lockTimeout n env) s = .next ((if s.lockDue n then s.dbgIssue n env else s)) := by
  show execLockTimeout n env s = _
  unfold execLockTimeout
  rw [if_pos (by rw [h, hc]; rfl)]

theorem exec_watchdog (n : Nat) (env : IssueEnv) (s : State) (h : (Instr.watchdog n env).wf = true) (hc : s.clocked = true) :
    exec (.watchdog n env) s = .next ((if s.wdogDue n then s.dbgIssue n env else s)) := by
  show execWatchdog n env s = _
  unfold execWatchdog
  rw [if_pos (by rw [h, hc]; rfl)]

theorem exec_memDataWrite (req : Req) (n value upset : Nat) (s : State) (h : (Instr.memDataWrite req n value upset).wf = true) (hc : s.clocked = true) :
    exec (.memDataWrite req n value upset) s = .next (State.showEnd (s.accessTo req (rEDDY_MEM_DATA n) 4 (some value) upset) req (rEDDY_MEM_DATA n) false) := by
  show execMemDataWrite req n value upset s = _
  unfold execMemDataWrite
  rw [if_pos (by rw [h, hc]; rfl)]

theorem exec_memDataRead (req : Req) (n upset : Nat) (s : State) (h : (Instr.memDataRead req n upset).wf = true) (hc : s.clocked = true) :
    exec (.memDataRead req n upset) s = .next (State.showEnd (s.accessTo req (rEDDY_MEM_DATA n) 4 none upset) req (rEDDY_MEM_DATA n) true) := by
  show execMemDataRead req n upset s = _
  unfold execMemDataRead
  rw [if_pos (by rw [h, hc]; rfl)]

theorem exec_streamFlushIn (req : Req) (n : Nat) (s : State) (h : (Instr.streamFlushIn req n).wf = true) (hc : s.clocked = true) :
    exec (.streamFlushIn req n) s = .next (s.putReg req (rSTREAM_CTL n) (2 ^ 8 + s.rd32 (rSTREAM_CTL n) % 4)) := by
  show execStreamFlushIn req n s = _
  unfold execStreamFlushIn
  rw [if_pos (by rw [h, hc]; rfl)]

theorem exec_streamFlushOut (req : Req) (n : Nat) (s : State) (h : (Instr.streamFlushOut req n).wf = true) (hc : s.clocked = true) :
    exec (.streamFlushOut req n) s = .next (s.putReg req (rSTREAM_CTL n) (2 ^ 9 + s.rd32 (rSTREAM_CTL n) % 4)) := by
  show execStreamFlushOut req n s = _
  unfold execStreamFlushOut
  rw [if_pos (by rw [h, hc]; rfl)]

theorem exec_capPop (req : Req) (n : Nat) (s : State) (h : (Instr.capPop req n).wf = true) (hc : s.clocked = true) :
    exec (.capPop req n) s = .next (s.putReg req (rSTREAM_CTL n) (2 ^ 10 + s.rd32 (rSTREAM_CTL n) % 4)) := by
  show execCapPop req n s = _
  unfold execCapPop
  rw [if_pos (by rw [h, hc]; rfl)]

theorem exec_streamSource (req : Req) (n value : Nat) (s : State) (h : (Instr.streamSource req n value).wf = true) (hc : s.clocked = true) :
    exec (.streamSource req n value) s = .next (s.putReg req (rSTREAM_CTL n) (value % 4)) := by
  show execStreamSource req n value s = _
  unfold execStreamSource
  rw [if_pos (by rw [h, hc]; rfl)]

theorem exec_stimIn (req : Req) (n k value : Nat) (s : State) (h : (Instr.stimIn req n k value).wf = true) (hc : s.clocked = true) :
    exec (.stimIn req n k value) s = .next (s.putReg req (rSTIM_IN n k) value) := by
  show execStimIn req n k value s = _
  unfold execStimIn
  rw [if_pos (by rw [h, hc]; rfl)]

theorem exec_streamIn (n : Nat) (word : BitVec 256) (s : State) (h : (Instr.streamIn n word).wf = true) (hc : s.clocked = true) :
    exec (.streamIn n word) s = .next (s.streamInWord n word) := by
  show execStreamIn n word s = _
  unfold execStreamIn
  rw [if_pos (by rw [h, hc]; rfl)]

theorem exec_streamOut (n : Nat) (s : State) (h : (Instr.streamOut n).wf = true) (hc : s.clocked = true) :
    exec (.streamOut n) s = .next (s.streamOutWord n) := by
  show execStreamOut n s = _
  unfold execStreamOut
  rw [if_pos (by rw [h, hc]; rfl)]

theorem exec_transferBegin (n : Nat) (s : State) (h : (Instr.transferBegin n).wf = true) (hc : s.clocked = true) :
    exec (.transferBegin n) s = .next (s.transferBegin n) := by
  show execTransferBegin n s = _
  unfold execTransferBegin
  rw [if_pos (by rw [h, hc]; rfl)]

theorem exec_transferLine (n i : Nat) (upsets : List (Nat × Nat × Nat)) (s : State) (h : (Instr.transferLine n i upsets).wf = true) (hc : s.clocked = true) :
    exec (.transferLine n i upsets) s = .next (s.transferLine n i upsets) := by
  show execTransferLine n i upsets s = _
  unfold execTransferLine
  rw [if_pos (by rw [h, hc]; rfl)]

theorem exec_transferComplete (n i : Nat) (upsets : List (Nat × Nat × Nat)) (s : State) (h : (Instr.transferComplete n i upsets).wf = true) (hc : s.clocked = true) :
    exec (.transferComplete n i upsets) s = .next (s.transferComplete n i upsets) := by
  show execTransferComplete n i upsets s = _
  unfold execTransferComplete
  rw [if_pos (by rw [h, hc]; rfl)]

theorem exec_ingress (ep : Nat) (op : IngressOp) (s : State) (h : (Instr.ingress ep op).wf = true) (hc : s.clocked = true) :
    exec (.ingress ep op) s = .next (s.ingress ep op) := by
  show execIngress ep op s = _
  unfold execIngress
  rw [if_pos (by rw [h, hc]; rfl)]

theorem exec_routerHeader (pkt : Nat) (errs : List (Nat × Bool)) (s : State) (h : (Instr.routerHeader pkt errs).wf = true) (hc : s.clocked = true) :
    exec (.routerHeader pkt errs) s = .next (s.routerHop pkt errs) := by
  show execRouterHeader pkt errs s = _
  unfold execRouterHeader
  rw [if_pos (by rw [h, hc]; rfl)]

theorem exec_egress (ep : Nat) (op : EgressOp) (s : State) (h : (Instr.egress ep op).wf = true) (hc : s.clocked = true) :
    exec (.egress ep op) s = .next (s.egress ep op) := by
  show execEgress ep op s = _
  unfold execEgress
  rw [if_pos (by rw [h, hc]; rfl)]

theorem exec_rd (ep pkt : Nat) (faults : List (Nat × LineFault)) (env : PcieEnv) (s : State) (h : (Instr.rd ep pkt faults env).wf = true) (hc : s.clocked = true) :
    exec (.rd ep pkt faults env) s = .next (s.stoppedOr ep pkt (s.serve ep pkt tRD faults env)) := by
  show execRd ep pkt faults env s = _
  unfold execRd
  rw [if_pos (by rw [h, hc]; rfl)]

theorem exec_wr (ep pkt : Nat) (faults : List (Nat × LineFault)) (env : PcieEnv) (s : State) (h : (Instr.wr ep pkt faults env).wf = true) (hc : s.clocked = true) :
    exec (.wr ep pkt faults env) s = .next (s.stoppedOr ep pkt (s.serve ep pkt tWR faults env)) := by
  show execWr ep pkt faults env s = _
  unfold execWr
  rw [if_pos (by rw [h, hc]; rfl)]

theorem exec_msg (ep pkt : Nat) (faults : List (Nat × LineFault)) (env : PcieEnv) (s : State) (h : (Instr.msg ep pkt faults env).wf = true) (hc : s.clocked = true) :
    exec (.msg ep pkt faults env) s = .next (s.stoppedOr ep pkt (s.serve ep pkt tMSG faults env)) := by
  show execMsg ep pkt faults env s = _
  unfold execMsg
  rw [if_pos (by rw [h, hc]; rfl)]

theorem exec_regRd (ep pkt upset : Nat) (s : State) (h : (Instr.regRd ep pkt upset).wf = true) (hc : s.clocked = true) :
    exec (.regRd ep pkt upset) s = .next (s.stoppedOr ep pkt (s.regAgent ep pkt false upset)) := by
  show execRegRd ep pkt upset s = _
  unfold execRegRd
  rw [if_pos (by rw [h, hc]; rfl)]

theorem exec_regWr (ep pkt upset : Nat) (s : State) (h : (Instr.regWr ep pkt upset).wf = true) (hc : s.clocked = true) :
    exec (.regWr ep pkt upset) s = .next (s.stoppedOr ep pkt (s.regAgent ep pkt true upset)) := by
  show execRegWr ep pkt upset s = _
  unfold execRegWr
  rw [if_pos (by rw [h, hc]; rfl)]

theorem exec_rdRsp (ep : Nat) (s : State) (h : (Instr.rdRsp ep).wf = true) (hc : s.clocked = true) :
    exec (.rdRsp ep) s = .next (s.takeRsp ep tRD_RSP) := by
  show execRdRsp ep s = _
  unfold execRdRsp
  rw [if_pos (by rw [h, hc]; rfl)]

theorem exec_wrRsp (ep : Nat) (s : State) (h : (Instr.wrRsp ep).wf = true) (hc : s.clocked = true) :
    exec (.wrRsp ep) s = .next (s.takeRsp ep tWR_RSP) := by
  show execWrRsp ep s = _
  unfold execWrRsp
  rw [if_pos (by rw [h, hc]; rfl)]

theorem exec_msgRsp (ep : Nat) (s : State) (h : (Instr.msgRsp ep).wf = true) (hc : s.clocked = true) :
    exec (.msgRsp ep) s = .next (s.takeRsp ep tMSG_RSP) := by
  show execMsgRsp ep s = _
  unfold execMsgRsp
  rw [if_pos (by rw [h, hc]; rfl)]

theorem exec_regRsp (ep : Nat) (s : State) (h : (Instr.regRsp ep).wf = true) (hc : s.clocked = true) :
    exec (.regRsp ep) s = .next (s.takeRsp ep tREG_RSP) := by
  show execRegRsp ep s = _
  unfold execRegRsp
  rw [if_pos (by rw [h, hc]; rfl)]

theorem exec_timeout (ep tag : Nat) (s : State) (h : (Instr.timeout ep tag).wf = true) (hc : s.clocked = true) :
    exec (.timeout ep tag) s = .next (s.completeTracked ep tag stTIMEOUT) := by
  show execTimeout ep tag s = _
  unfold execTimeout
  rw [if_pos (by rw [h, hc]; rfl)]

theorem exec_flitGap (ep : Nat) (s : State) (h : (Instr.flitGap ep).wf = true) (hc : s.clocked = true) :
    exec (.flitGap ep) s = .next (s.flitGap ep) := by
  show execFlitGap ep s = _
  unfold execFlitGap
  rw [if_pos (by rw [h, hc]; rfl)]

theorem exec_flushIn (req : Req) (ep : Nat) (s : State) (h : (Instr.flushIn req ep).wf = true) (hc : s.clocked = true) :
    exec (.flushIn req ep) s = .next (s.putReg req (rEPQ_CTL ep) (2 ^ 8 + s.rd32 (rEPQ_CTL ep) % 2 ^ 7)) := by
  show execFlushIn req ep s = _
  unfold execFlushIn
  rw [if_pos (by rw [h, hc]; rfl)]

theorem exec_flushOut (req : Req) (ep : Nat) (s : State) (h : (Instr.flushOut req ep).wf = true) (hc : s.clocked = true) :
    exec (.flushOut req ep) s = .next (s.putReg req (rEPQ_CTL ep) (2 ^ 9 + s.rd32 (rEPQ_CTL ep) % 2 ^ 7)) := by
  show execFlushOut req ep s = _
  unfold execFlushOut
  rw [if_pos (by rw [h, hc]; rfl)]

theorem exec_flushEffect (ep : Nat) (out : Bool) (s : State) (h : (Instr.flushEffect ep out).wf = true) (hc : s.clocked = true) :
    exec (.flushEffect ep out) s = .next (s.flushEffect ep out) := by
  show execFlushEffect ep out s = _
  unfold execFlushEffect
  rw [if_pos (by rw [h, hc]; rfl)]

theorem exec_dropRestIn (req : Req) (ep : Nat) (s : State) (h : (Instr.dropRestIn req ep).wf = true) (hc : s.clocked = true) :
    exec (.dropRestIn req ep) s = .next (s.putReg req (rEPQ_CTL ep) (2 ^ 10 + s.rd32 (rEPQ_CTL ep) % 2 ^ 7)) := by
  show execDropRestIn req ep s = _
  unfold execDropRestIn
  rw [if_pos (by rw [h, hc]; rfl)]

theorem exec_dropRestOut (req : Req) (ep : Nat) (s : State) (h : (Instr.dropRestOut req ep).wf = true) (hc : s.clocked = true) :
    exec (.dropRestOut req ep) s = .next (s.putReg req (rEPQ_CTL ep) (2 ^ 11 + s.rd32 (rEPQ_CTL ep) % 2 ^ 7)) := by
  show execDropRestOut req ep s = _
  unfold execDropRestOut
  rw [if_pos (by rw [h, hc]; rfl)]

theorem exec_txAbort (ep : Nat) (s : State) (h : (Instr.txAbort ep).wf = true) (hc : s.clocked = true) :
    exec (.txAbort ep) s = .next (s.txAbort ep) := by
  show execTxAbort ep s = _
  unfold execTxAbort
  rw [if_pos (by rw [h, hc]; rfl)]

theorem exec_drain (ep : Nat) (rsp : Bool) (s : State) (h : (Instr.drain ep rsp).wf = true) (hc : s.clocked = true) :
    exec (.drain ep rsp) s = .next ((if s.stoppedEp ep then s else s.enterDrain ep rsp)) := by
  show execDrain ep rsp s = _
  unfold execDrain
  rw [if_pos (by rw [h, hc]; rfl)]

theorem exec_drainEnd (ep : Nat) (s : State) (h : (Instr.drainEnd ep).wf = true) (hc : s.clocked = true) :
    exec (.drainEnd ep) s = .next (s.drainEnd ep) := by
  show execDrainEnd ep s = _
  unfold execDrainEnd
  rw [if_pos (by rw [h, hc]; rfl)]

theorem exec_sweep (dst : Nat) (s : State) (h : (Instr.sweep dst).wf = true) (hc : s.clocked = true) :
    exec (.sweep dst) s = .next (s.sweep dst) := by
  show execSweep dst s = _
  unfold execSweep
  rw [if_pos (by rw [h, hc]; rfl)]

theorem exec_hbmError (port : Nat) (s : State) (h : (Instr.hbmError port).wf = true) (hc : s.clocked = true) :
    exec (.hbmError port) s = .next (s.hbmIfError port) := by
  show execHbmError port s = _
  unfold execHbmError
  rw [if_pos (by rw [h, hc]; rfl)]

theorem exec_create (req : Req) (port region : Nat) (s : State) (h : (Instr.create req port region).wf = true) (hc : s.clocked = true) :
    exec (.create req port region) s = .next (s.putReg req (rRGN_CMD port region) 1) := by
  show execCreate req port region s = _
  unfold execCreate
  rw [if_pos (by rw [h, hc]; rfl)]

theorem exec_zeroingEnd (port : Nat) (s : State) (h : (Instr.zeroingEnd port).wf = true) (hc : s.clocked = true) :
    exec (.zeroingEnd port) s = .next (s.zeroingEnd port) := by
  show execZeroingEnd port s = _
  unfold execZeroingEnd
  rw [if_pos (by rw [h, hc]; rfl)]

theorem exec_destroy (req : Req) (port region : Nat) (s : State) (h : (Instr.destroy req port region).wf = true) (hc : s.clocked = true) :
    exec (.destroy req port region) s = .next (s.putReg req (rRGN_CMD port region) 2) := by
  show execDestroy req port region s = _
  unfold execDestroy
  rw [if_pos (by rw [h, hc]; rfl)]

theorem exec_rekey (req : Req) (port region : Nat) (s : State) (h : (Instr.rekey req port region).wf = true) (hc : s.clocked = true) :
    exec (.rekey req port region) s = .next (s.putReg req (rRGN_CMD port region) 4) := by
  show execRekey req port region s = _
  unfold execRekey
  rw [if_pos (by rw [h, hc]; rfl)]

theorem exec_walkTake (port : Nat) (faults : List (Nat × LineFault)) (s : State) (h : (Instr.walkTake port faults).wf = true) (hc : s.clocked = true) :
    exec (.walkTake port faults) s = .next (s.walkTake port faults) := by
  show execWalkTake port faults s = _
  unfold execWalkTake
  rw [if_pos (by rw [h, hc]; rfl)]

theorem exec_walkDone (port : Nat) (s : State) (h : (Instr.walkDone port).wf = true) (hc : s.clocked = true) :
    exec (.walkDone port) s = .next (s.walkDone port) := by
  show execWalkDone port s = _
  unfold execWalkDone
  rw [if_pos (by rw [h, hc]; rfl)]

theorem exec_finish (req : Req) (port region : Nat) (s : State) (h : (Instr.finish req port region).wf = true) (hc : s.clocked = true) :
    exec (.finish req port region) s = .next (s.putReg req (rRGN_CMD port region) 8) := by
  show execFinish req port region s = _
  unfold execFinish
  rw [if_pos (by rw [h, hc]; rfl)]

theorem exec_slotZeroise (slot : Nat) (frames : Bool) (s : State) (h : (Instr.slotZeroise slot frames).wf = true) (hc : s.clocked = true) :
    exec (.slotZeroise slot frames) s = .next (s.slotZeroise slot frames) := by
  show execSlotZeroise slot frames s = _
  unfold execSlotZeroise
  rw [if_pos (by rw [h, hc]; rfl)]

theorem exec_wearWarn (req : Req) (value : Nat) (s : State) (h : (Instr.wearWarn req value).wf = true) (hc : s.clocked = true) :
    exec (.wearWarn req value) s = .next (s.putReg req (rSLUICE_WEAR_WARN 0) value) := by
  show execWearWarn req value s = _
  unfold execWearWarn
  rw [if_pos (by rw [h, hc]; rfl)]

theorem exec_cxlLinkDown (n : Nat) (s : State) (h : (Instr.cxlLinkDown n).wf = true) (hc : s.clocked = true) :
    exec (.cxlLinkDown n) s = .next (s.cxlLinkDown n) := by
  show execCxlLinkDown n s = _
  unfold execCxlLinkDown
  rw [if_pos (by rw [h, hc]; rfl)]

theorem exec_clockForceOff (stall : Nat) (s : State) (h : (Instr.clockForceOff stall).wf = true) (hc : s.clocked = true) :
    exec (.clockForceOff stall) s = .next (s.forceOff stall) := by
  show execClockForceOff stall s = _
  unfold execClockForceOff
  rw [if_pos (by rw [h, hc]; rfl)]

theorem exec_ffExchange (stall : Nat) (bad : List Nat) (s : State) (h : (Instr.ffExchange stall bad).wf = true) (hc : s.clocked = true) :
    exec (.ffExchange stall bad) s = .next (s.exchange stall bad) := by
  show execFfExchange stall bad s = _
  unfold execFfExchange
  rw [if_pos (by rw [h, hc]; rfl)]

theorem exec_swapZeroing (stall : Nat) (s : State) (h : (Instr.swapZeroing stall).wf = true) (hc : s.clocked = true) :
    exec (.swapZeroing stall) s = .next (s.swapZero stall) := by
  show execSwapZeroing stall s = _
  unfold execSwapZeroing
  rw [if_pos (by rw [h, hc]; rfl)]

theorem exec_meshQuiet (stall : Nat) (s : State) (h : (Instr.meshQuiet stall).wf = true) (hc : s.clocked = true) :
    exec (.meshQuiet stall) s = .next (s.meshQuiet stall) := by
  show execMeshQuiet stall s = _
  unfold execMeshQuiet
  rw [if_pos (by rw [h, hc]; rfl)]

theorem exec_planeFlip (stall : Nat) (s : State) (h : (Instr.planeFlip stall).wf = true) (hc : s.clocked = true) :
    exec (.planeFlip stall) s = .next (s.planeFlip stall) := by
  show execPlaneFlip stall s = _
  unfold execPlaneFlip
  rw [if_pos (by rw [h, hc]; rfl)]

theorem exec_fillEnd (stall : Nat) (s : State) (h : (Instr.fillEnd stall).wf = true) (hc : s.clocked = true) :
    exec (.fillEnd stall) s = .next (s.fillEnd stall) := by
  show execFillEnd stall s = _
  unfold execFillEnd
  rw [if_pos (by rw [h, hc]; rfl)]

theorem exec_loadEnd (stall : Nat) (s : State) (h : (Instr.loadEnd stall).wf = true) (hc : s.clocked = true) :
    exec (.loadEnd stall) s = .next (s.loadEnd stall) := by
  show execLoadEnd stall s = _
  unfold execLoadEnd
  rw [if_pos (by rw [h, hc]; rfl)]

theorem exec_ring (req : Req) (box : Nat) (s : State) (h : (Instr.ring req box).wf = true) (hc : s.clocked = true) :
    exec (.ring req box) s = .next (s.putReg req (rMB_DOORBELL box) 1) := by
  show execRing req box s = _
  unfold execRing
  rw [if_pos (by rw [h, hc]; rfl)]

theorem exec_commandTake (env : CmdEnv) (s : State) (h : (Instr.commandTake env).wf = true) (hc : s.clocked = true) :
    exec (.commandTake env) s = .next (s.ownerChange (s.commandTake env)) := by
  show execCommandTake env s = _
  unfold execCommandTake
  rw [if_pos (by rw [h, hc]; rfl)]

theorem exec_deferredEnd (box ticket : Nat) (copied : Bool) (s : State) (h : (Instr.deferredEnd box ticket copied).wf = true) (hc : s.clocked = true) :
    exec (.deferredEnd box ticket copied) s = .next (s.ownerChange (s.deferredEnd box ticket copied)) := by
  show execDeferredEnd box ticket copied s = _
  unfold execDeferredEnd
  rw [if_pos (by rw [h, hc]; rfl)]

theorem exec_cplPop (req : Req) (box : Nat) (s : State) (h : (Instr.cplPop req box).wf = true) (hc : s.clocked = true) :
    exec (.cplPop req box) s = .next (s.putReg req (rMB_CPL_POP box) 1) := by
  show execCplPop req box s = _
  unfold execCplPop
  rw [if_pos (by rw [h, hc]; rfl)]

theorem exec_fanoutEnd (id : Nat) (timeout copied : Bool) (s : State) (h : (Instr.fanoutEnd id timeout copied).wf = true) (hc : s.clocked = true) :
    exec (.fanoutEnd id timeout copied) s = .next (s.fanEnd id timeout copied) := by
  show execFanoutEnd id timeout copied s = _
  unfold execFanoutEnd
  rw [if_pos (by rw [h, hc]; rfl)]

theorem exec_testStart (kind index : Nat) (s : State) (h : (Instr.testStart kind index).wf = true) (hc : s.clocked = true) :
    exec (.testStart kind index) s = .next (s.testRunStart kind index) := by
  show execTestStart kind index s = _
  unfold execTestStart
  rw [if_pos (by rw [h, hc]; rfl)]

theorem exec_testEnd (kind index : Nat) (ok : Bool) (data : Nat) (s : State) (h : (Instr.testEnd kind index ok data).wf = true) (hc : s.clocked = true) :
    exec (.testEnd kind index ok data) s = .next (s.testEnd kind index ok data) := by
  show execTestEnd kind index ok data s = _
  unfold execTestEnd
  rw [if_pos (by rw [h, hc]; rfl)]

theorem exec_expired (box ticket : Nat) (s : State) (h : (Instr.expired box ticket).wf = true) (hc : s.clocked = true) :
    exec (.expired box ticket) s = .next (s.testExpired box ticket) := by
  show execExpired box ticket s = _
  unfold execExpired
  rw [if_pos (by rw [h, hc]; rfl)]

theorem exec_lockstepDisagree (core : Option Nat) (s : State) (h : (Instr.lockstepDisagree core).wf = true) (hc : s.clocked = true) :
    exec (.lockstepDisagree core) s = .next (s.lockstepDisagree core) := by
  show execLockstepDisagree core s = _
  unfold execLockstepDisagree
  rw [if_pos (by rw [h, hc]; rfl)]

theorem exec_tripleRestore (s : State) (h : Instr.tripleRestore.wf = true) (hc : s.clocked = true) :
    exec (.tripleRestore) s = .next (s.tripleRestore) := by
  show execTripleRestore s = _
  unfold execTripleRestore
  rw [if_pos (by rw [h, hc]; rfl)]

theorem exec_sramScrub (uncorr : Bool) (s : State) (h : (Instr.sramScrub uncorr).wf = true) (hc : s.clocked = true) :
    exec (.sramScrub uncorr) s = .next (s.sramScrub uncorr) := by
  show execSramScrub uncorr s = _
  unfold execSramScrub
  rw [if_pos (by rw [h, hc]; rfl)]

theorem exec_eventLogCopy (source index : Nat) (s : State) (h : (Instr.eventLogCopy source index).wf = true) (hc : s.clocked = true) :
    exec (.eventLogCopy source index) s = .next (s.eventLogCopy source index) := by
  show execEventLogCopy source index s = _
  unfold execEventLogCopy
  rw [if_pos (by rw [h, hc]; rfl)]

theorem exec_tideIn (value crc age : Nat) (first : Bool) (s : State) (h : (Instr.tideIn value crc age first).wf = true) (hc : s.clocked = true) :
    exec (.tideIn value crc age first) s = .next (s.tideInFrame value crc age first) := by
  show execTideIn value crc age first s = _
  unfold execTideIn
  rw [if_pos (by rw [h, hc]; rfl)]

theorem exec_ptmExchange (port value age : Nat) (s : State) (h : (Instr.ptmExchange port value age).wf = true) (hc : s.clocked = true) :
    exec (.ptmExchange port value age) s = .next (s.ptmExchange port value age) := by
  show execPtmExchange port value age s = _
  unfold execPtmExchange
  rw [if_pos (by rw [h, hc]; rfl)]

theorem exec_sourceLost (s : State) (h : Instr.sourceLost.wf = true) (hc : s.clocked = true) :
    exec (.sourceLost) s = .next (s.sourceLost) := by
  show execSourceLost s = _
  unfold execSourceLost
  rw [if_pos (by rw [h, hc]; rfl)]

theorem exec_holdoverExpire (s : State) (h : Instr.holdoverExpire.wf = true) (hc : s.clocked = true) :
    exec (.holdoverExpire) s = .next (s.holdoverExpire) := by
  show execHoldoverExpire s = _
  unfold execHoldoverExpire
  rw [if_pos (by rw [h, hc]; rfl)]

theorem exec_freezeEnd (s : State) (h : Instr.freezeEnd.wf = true) (hc : s.clocked = true) :
    exec (.freezeEnd) s = .next (s.freezeEnd) := by
  show execFreezeEnd s = _
  unfold execFreezeEnd
  rw [if_pos (by rw [h, hc]; rfl)]

theorem exec_alarmFire (s : State) (h : Instr.alarmFire.wf = true) (hc : s.clocked = true) :
    exec (.alarmFire) s = .next (s.alarmFire) := by
  show execAlarmFire s = _
  unfold execAlarmFire
  rw [if_pos (by rw [h, hc]; rfl)]

theorem exec_arm (req : Req) (stall j : Nat) (signal : Bool) (s : State) (h : (Instr.arm req stall j signal).wf = true) (hc : s.clocked = true) :
    exec (.arm req stall j signal) s = .next (s.putReg req (rSTALL_ALARM_CTL stall) (Fld.set ⟨16 + j, 1⟩ (s.alarmSignals stall) (b2n signal) + 2 ^ j)) := by
  show execArm req stall j signal s = _
  unfold execArm
  rw [if_pos (by rw [h, hc]; rfl)]

theorem exec_disarm (req : Req) (stall j : Nat) (s : State) (h : (Instr.disarm req stall j).wf = true) (hc : s.clocked = true) :
    exec (.disarm req stall j) s = .next (s.putReg req (rSTALL_ALARM_CTL stall) (s.alarmSignals stall + 2 ^ (4 + j))) := by
  show execDisarm req stall j s = _
  unfold execDisarm
  rw [if_pos (by rw [h, hc]; rfl)]

theorem exec_firedClear (req : Req) (stall j : Nat) (s : State) (h : (Instr.firedClear req stall j).wf = true) (hc : s.clocked = true) :
    exec (.firedClear req stall j) s = .next (s.putReg req (rSTALL_ALARM_CTL stall) (s.alarmSignals stall + 2 ^ (8 + j))) := by
  show execFiredClear req stall j s = _
  unfold execFiredClear
  rw [if_pos (by rw [h, hc]; rfl)]

theorem exec_tideRefclk (req : Req) (pair : Nat) (s : State) (h : (Instr.tideRefclk req pair).wf = true) (hc : s.clocked = true) :
    exec (.tideRefclk req pair) s = .next (s.putReg req (rTIDE_CFG 0) (fTIDE_CFG_REFCLK.set (s.rd32 (rTIDE_CFG 0)) pair)) := by
  show execTideRefclk req pair s = _
  unfold execTideRefclk
  rw [if_pos (by rw [h, hc]; rfl)]

theorem exec_helloSend (s : State) (h : Instr.helloSend.wf = true) (hc : s.clocked = true) :
    exec (.helloSend) s = .next (s.helloSend) := by
  show execHelloSend s = _
  unfold execHelloSend
  rw [if_pos (by rw [h, hc]; rfl)]

theorem exec_hello (seen : List (Nat × Nat × Nat × Nat)) (s : State) (h : (Instr.hello seen).wf = true) (hc : s.clocked = true) :
    exec (.hello seen) s = .next (s.hello seen) := by
  show execHello seen s = _
  unfold execHello
  rw [if_pos (by rw [h, hc]; rfl)]

theorem exec_join (slot serial : Nat) (path : List Nat) (s : State) (h : (Instr.join slot serial path).wf = true) (hc : s.clocked = true) :
    exec (.join slot serial path) s = .next (s.join slot serial path) := by
  show execJoin slot serial path s = _
  unfold execJoin
  rw [if_pos (by rw [h, hc]; rfl)]

theorem exec_joinAck (slot : Nat) (path : List Nat) (node : Option Nat) (s : State) (h : (Instr.joinAck slot path node).wf = true) (hc : s.clocked = true) :
    exec (.joinAck slot path node) s = .next (s.joinAck slot path node) := by
  show execJoinAck slot path node s = _
  unfold execJoinAck
  rw [if_pos (by rw [h, hc]; rfl)]

theorem exec_treeLeave (s : State) (h : Instr.treeLeave.wf = true) (hc : s.clocked = true) :
    exec (.treeLeave) s = .next (s.treeLeave) := by
  show execTreeLeave s = _
  unfold execTreeLeave
  rw [if_pos (by rw [h, hc]; rfl)]

theorem exec_syncSend (s : State) (h : Instr.syncSend.wf = true) (hc : s.clocked = true) :
    exec (.syncSend) s = .next (s.syncSend) := by
  show execSyncSend s = _
  unfold execSyncSend
  rw [if_pos (by rw [h, hc]; rfl)]

theorem exec_sync (slot t1 : Nat) (s : State) (h : (Instr.sync slot t1).wf = true) (hc : s.clocked = true) :
    exec (.sync slot t1) s = .next (s.sync slot t1) := by
  show execSync slot t1 s = _
  unfold execSync
  rw [if_pos (by rw [h, hc]; rfl)]

theorem exec_delayReq (slot : Nat) (s : State) (h : (Instr.delayReq slot).wf = true) (hc : s.clocked = true) :
    exec (.delayReq slot) s = .next (s.delayReq slot) := by
  show execDelayReq slot s = _
  unfold execDelayReq
  rw [if_pos (by rw [h, hc]; rfl)]

theorem exec_delayRsp (slot t4 : Nat) (s : State) (h : (Instr.delayRsp slot t4).wf = true) (hc : s.clocked = true) :
    exec (.delayRsp slot t4) s = .next (s.delayRsp slot t4) := by
  show execDelayRsp slot t4 s = _
  unfold execDelayRsp
  rw [if_pos (by rw [h, hc]; rfl)]

theorem exec_cmd (slot fan node scope : Nat) (words : List Nat) (ret : Option (Nat × Nat)) (s : State) (h : (Instr.cmd slot fan node scope words ret).wf = true) (hc : s.clocked = true) :
    exec (.cmd slot fan node scope words ret) s = .next (s.cmd slot fan node scope words ret) := by
  show execCmd slot fan node scope words ret s = _
  unfold execCmd
  rw [if_pos (by rw [h, hc]; rfl)]

theorem exec_cpl (slot fan node serial w0 w1 data : Nat) (s : State) (h : (Instr.cpl slot fan node serial w0 w1 data).wf = true) (hc : s.clocked = true) :
    exec (.cpl slot fan node serial w0 w1 data) s = .next (s.cpl slot fan node serial w0 w1 data) := by
  show execCpl slot fan node serial w0 w1 data s = _
  unfold execCpl
  rw [if_pos (by rw [h, hc]; rfl)]

theorem exec_stage (slot fan buffer offset : Nat) (data targets : List Nat) (s : State) (h : (Instr.stage slot fan buffer offset data targets).wf = true) (hc : s.clocked = true) :
    exec (.stage slot fan buffer offset data targets) s = .next (s.stageMsg slot fan buffer offset data targets) := by
  show execStage slot fan buffer offset data targets s = _
  unfold execStage
  rw [if_pos (by rw [h, hc]; rfl)]

theorem exec_ret (slot fan node offset : Nat) (data : List Nat) (s : State) (h : (Instr.ret slot fan node offset data).wf = true) (hc : s.clocked = true) :
    exec (.ret slot fan node offset data) s = .next (s.retMsg slot fan node offset data) := by
  show execRet slot fan node offset data s = _
  unfold execRet
  rw [if_pos (by rw [h, hc]; rfl)]

theorem exec_epochClose (s : State) (h : Instr.epochClose.wf = true) (hc : s.clocked = true) :
    exec (.epochClose) s = .next (s.closeEpoch) := by
  show execEpochClose s = _
  unfold execEpochClose
  rw [if_pos (by rw [h, hc]; rfl)]

theorem exec_checkpoint (faults : List LeafFault) (suspects : List (Nat × Nat)) (s : State) (h : (Instr.checkpoint faults suspects).wf = true) (hc : s.clocked = true) :
    exec (.checkpoint faults suspects) s = .next (s.checkpoint faults suspects) := by
  show execCheckpoint faults suspects s = _
  unfold execCheckpoint
  rw [if_pos (by rw [h, hc]; rfl)]

theorem exec_refclkLoss (pair : Nat) (s : State) (h : (Instr.refclkLoss pair).wf = true) (hc : s.clocked = true) :
    exec (.refclkLoss pair) s = .next (s.refLoss pair) := by
  show execRefclkLoss pair s = _
  unfold execRefclkLoss
  rw [if_pos (by rw [h, hc]; rfl)]

theorem exec_fixrefHoldEnd (s : State) (h : Instr.fixrefHoldEnd.wf = true) (hc : s.clocked = true) :
    exec (.fixrefHoldEnd) s = .next (s.holdEnds) := by
  show execFixrefHoldEnd s = _
  unfold execFixrefHoldEnd
  rw [if_pos (by rw [h, hc]; rfl)]

theorem exec_refclkReturn (pair : Nat) (s : State) (h : (Instr.refclkReturn pair).wf = true) (hc : s.clocked = true) :
    exec (.refclkReturn pair) s = .next (s.pairRelocks pair) := by
  show execRefclkReturn pair s = _
  unfold execRefclkReturn
  rw [if_pos (by rw [h, hc]; rfl)]

theorem exec_refReturn (env : StartEnv) (s : State) (h : (Instr.refReturn env).wf = true) :
    exec (.refReturn env) s = .next (s.refReturn env) := by
  show execRefReturn env s = _
  unfold execRefReturn
  rw [if_pos h]

theorem exec_clockLoss (clock : ClockLost) (env : StartEnv) (s : State) (h : (Instr.clockLoss clock env).wf = true) (hc : s.clocked = true) :
    exec (.clockLoss clock env) s = .next (s.clockLoss clock env) := by
  show execClockLoss clock env s = _
  unfold execClockLoss
  rw [if_pos (by rw [h, hc]; rfl)]

theorem exec_spineSel (req : Req) (shed value : Nat) (s : State) (h : (Instr.spineSel req shed value).wf = true) (hc : s.clocked = true) :
    exec (.spineSel req shed value) s = .next (s.putReg req (rSPINE_SEL shed) value) := by
  show execSpineSel req shed value s = _
  unfold execSpineSel
  rw [if_pos (by rw [h, hc]; rfl)]

theorem exec_clksel (shed k : Nat) (level : Bool) (s : State) (h : (Instr.clksel shed k level).wf = true) (hc : s.clocked = true) :
    exec (.clksel shed k level) s = .next (s.clkselChange shed k level) := by
  show execClksel shed k level s = _
  unfold execClksel
  rw [if_pos (by rw [h, hc]; rfl)]

theorem exec_spineSwitch (shed k : Nat) (s : State) (h : (Instr.spineSwitch shed k).wf = true) (hc : s.clocked = true) :
    exec (.spineSwitch shed k) s = .next (s.spineSwitch shed k) := by
  show execSpineSwitch shed k s = _
  unfold execSpineSwitch
  rw [if_pos (by rw [h, hc]; rfl)]

theorem exec_force (req : Req) (shed k : Nat) (s : State) (h : (Instr.force req shed k).wf = true) (hc : s.clocked = true) :
    exec (.force req shed k) s = .next (s.putReg req (rSPINE_CMD shed) (2 ^ k)) := by
  show execForce req shed k s = _
  unfold execForce
  rw [if_pos (by rw [h, hc]; rfl)]

theorem exec_drst (req : Req) (shed k : Nat) (s : State) (h : (Instr.drst req shed k).wf = true) (hc : s.clocked = true) :
    exec (.drst req shed k) s = .next (s.putReg req (rSPINE_CMD shed) (2 ^ (16 + k))) := by
  show execDrst req shed k s = _
  unfold execDrst
  rw [if_pos (by rw [h, hc]; rfl)]

theorem exec_drstRelease (shed k : Nat) (s : State) (h : (Instr.drstRelease shed k).wf = true) (hc : s.clocked = true) :
    exec (.drstRelease shed k) s = .next (s.drstRelease shed k) := by
  show execDrstRelease shed k s = _
  unfold execDrstRelease
  rw [if_pos (by rw [h, hc]; rfl)]

theorem exec_pllCfgWrite (req : Req) (yard pll : Nat) (out : Option Nat) (value : Nat) (s : State) (h : (Instr.pllCfgWrite req yard pll out value).wf = true) (hc : s.clocked = true) :
    exec (.pllCfgWrite req yard pll out value) s = .next ((match out with | none => s.putReg req (pllCfg yard pll) value | some j => s.putReg req (pllOut yard pll j) value)) := by
  show execPllCfgWrite req yard pll out value s = _
  unfold execPllCfgWrite
  rw [if_pos (by rw [h, hc]; rfl)]
  cases out <;> rfl

theorem exec_fmeasStart (req : Req) (value : Nat) (s : State) (h : (Instr.fmeasStart req value).wf = true) (hc : s.clocked = true) :
    exec (.fmeasStart req value) s = .next (s.putReg req (rFMEAS_CTL 0) (2 ^ 31 + value % 2 ^ 31)) := by
  show execFmeasStart req value s = _
  unfold execFmeasStart
  rw [if_pos (by rw [h, hc]; rfl)]

theorem exec_fmeasEnd (edges : Nat) (s : State) (h : (Instr.fmeasEnd edges).wf = true) (hc : s.clocked = true) :
    exec (.fmeasEnd edges) s = .next (s.fmeasEnd edges) := by
  show execFmeasEnd edges s = _
  unfold execFmeasEnd
  rw [if_pos (by rw [h, hc]; rfl)]

theorem exec_powerEval (s : State) (h : Instr.powerEval.wf = true) (hc : s.clocked = true) :
    exec (.powerEval) s = .next (s.powerStateEval) := by
  show execPowerEval s = _
  unfold execPowerEval
  rw [if_pos (by rw [h, hc]; rfl)]

theorem exec_ltolWrite (req : Req) (port value : Nat) (s : State) (h : (Instr.ltolWrite req port value).wf = true) (hc : s.clocked = true) :
    exec (.ltolWrite req port value) s = .next (s.putReg req (rPCIE_LTOL port) value) := by
  show execLtolWrite req port value s = _
  unfold execLtolWrite
  rw [if_pos (by rw [h, hc]; rfl)]

theorem exec_wake (s : State) (h : Instr.wake.wf = true) (hc : s.clocked = true) :
    exec (.wake) s = .next (s.wake) := by
  show execWake s = _
  unfold execWake
  rw [if_pos (by rw [h, hc]; rfl)]

theorem exec_exitComplete (s : State) (h : Instr.exitComplete.wf = true) (hc : s.clocked = true) :
    exec (.exitComplete) s = .next (s.powerExit) := by
  show execExitComplete s = _
  unfold execExitComplete
  rw [if_pos (by rw [h, hc]; rfl)]

theorem exec_pairReturn (pair : Nat) (s : State) (h : (Instr.pairReturn pair).wf = true) :
    exec (.pairReturn pair) s = .next (s.refPairReturn pair) := by
  show execPairReturn pair s = _
  unfold execPairReturn
  rw [if_pos h]

theorem exec_pllLock (yard pll : Nat) (s : State) (h : (Instr.pllLock yard pll).wf = true) (hc : s.clocked = true) :
    exec (.pllLock yard pll) s = .next (s.pllLock yard pll) := by
  show execPllLock yard pll s = _
  unfold execPllLock
  rw [if_pos (by rw [h, hc]; rfl)]

theorem exec_signalDetect (lane : Nat) (s : State) (h : (Instr.signalDetect lane).wf = true) (hc : s.clocked = true) :
    exec (.signalDetect lane) s = .next (s.signalDetect lane) := by
  show execSignalDetect lane s = _
  unfold execSignalDetect
  rw [if_pos (by rw [h, hc]; rfl)]

theorem exec_cdrLock (lane : Nat) (s : State) (h : (Instr.cdrLock lane).wf = true) (hc : s.clocked = true) :
    exec (.cdrLock lane) s = .next (s.cdrLock lane) := by
  show execCdrLock lane s = _
  unfold execCdrLock
  rw [if_pos (by rw [h, hc]; rfl)]

theorem exec_polarity (lane : Nat) (inverse : Bool) (s : State) (h : (Instr.polarity lane inverse).wf = true) (hc : s.clocked = true) :
    exec (.polarity lane inverse) s = .next (s.polarity lane inverse) := by
  show execPolarity lane inverse s = _
  unfold execPolarity
  rw [if_pos (by rw [h, hc]; rfl)]

theorem exec_adaptDone (lane eye : Nat) (s : State) (h : (Instr.adaptDone lane eye).wf = true) (hc : s.clocked = true) :
    exec (.adaptDone lane eye) s = .next (s.adaptDone lane eye) := by
  show execAdaptDone lane eye s = _
  unfold execAdaptDone
  rw [if_pos (by rw [h, hc]; rfl)]

theorem exec_alignDone (lane logical : Nat) (s : State) (h : (Instr.alignDone lane logical).wf = true) (hc : s.clocked = true) :
    exec (.alignDone lane logical) s = .next (s.alignDone lane logical) := by
  show execAlignDone lane logical s = _
  unfold execAlignDone
  rw [if_pos (by rw [h, hc]; rfl)]

theorem exec_stageTimeout (lane : Nat) (s : State) (h : (Instr.stageTimeout lane).wf = true) (hc : s.clocked = true) :
    exec (.stageTimeout lane) s = .next (s.stageTimeout lane) := by
  show execStageTimeout lane s = _
  unfold execStageTimeout
  rw [if_pos (by rw [h, hc]; rfl)]

theorem exec_signalLoss (lane : Nat) (unlock : Bool) (s : State) (h : (Instr.signalLoss lane unlock).wf = true) (hc : s.clocked = true) :
    exec (.signalLoss lane unlock) s = .next (s.signalLoss lane unlock) := by
  show execSignalLoss lane unlock s = _
  unfold execSignalLoss
  rw [if_pos (by rw [h, hc]; rfl)]

theorem exec_calibrationEnd (lane : Nat) (ok : Bool) (s : State) (h : (Instr.calibrationEnd lane ok).wf = true) (hc : s.clocked = true) :
    exec (.calibrationEnd lane ok) s = .next (s.calEnd lane ok) := by
  show execCalibrationEnd lane ok s = _
  unfold execCalibrationEnd
  rw [if_pos (by rw [h, hc]; rfl)]

theorem exec_inject (req : Req) (lane : Nat) (s : State) (h : (Instr.inject req lane).wf = true) (hc : s.clocked = true) :
    exec (.inject req lane) s = .next (s.putReg req (rPRBS_CTL lane) (2 ^ 11 + s.rd32 (rPRBS_CTL lane) % 2 ^ 10)) := by
  show execInject req lane s = _
  unfold execInject
  rw [if_pos (by rw [h, hc]; rfl)]

theorem exec_prbsClear (req : Req) (lane : Nat) (s : State) (h : (Instr.prbsClear req lane).wf = true) (hc : s.clocked = true) :
    exec (.prbsClear req lane) s = .next (s.putReg req (rPRBS_CTL lane) (2 ^ 10 + s.rd32 (rPRBS_CTL lane) % 2 ^ 10)) := by
  show execPrbsClear req lane s = _
  unfold execPrbsClear
  rw [if_pos (by rw [h, hc]; rfl)]

theorem exec_prbsLock (lane : Nat) (s : State) (h : (Instr.prbsLock lane).wf = true) (hc : s.clocked = true) :
    exec (.prbsLock lane) s = .next (s.prbsLock lane) := by
  show execPrbsLock lane s = _
  unfold execPrbsLock
  rw [if_pos (by rw [h, hc]; rfl)]

theorem exec_prbsLost (lane bits errs : Nat) (s : State) (h : (Instr.prbsLost lane bits errs).wf = true) (hc : s.clocked = true) :
    exec (.prbsLost lane bits errs) s = .next (s.prbsLost lane bits errs) := by
  show execPrbsLost lane bits errs s = _
  unfold execPrbsLost
  rw [if_pos (by rw [h, hc]; rfl)]

theorem exec_fabCfgWrite (req : Req) (lane value : Nat) (s : State) (h : (Instr.fabCfgWrite req lane value).wf = true) (hc : s.clocked = true) :
    exec (.fabCfgWrite req lane value) s = .next (s.putReg req (rLANE_FAB_CFG lane) value) := by
  show execFabCfgWrite req lane value s = _
  unfold execFabCfgWrite
  rw [if_pos (by rw [h, hc]; rfl)]

theorem exec_txEqWrite (req : Req) (lane value : Nat) (s : State) (h : (Instr.txEqWrite req lane value).wf = true) (hc : s.clocked = true) :
    exec (.txEqWrite req lane value) s = .next (s.putReg req (rLANE_TX_EQ lane) value) := by
  show execTxEqWrite req lane value s = _
  unfold execTxEqWrite
  rw [if_pos (by rw [h, hc]; rfl)]

theorem exec_bridgeSend (lane : Nat) (lines : List (BitVec 512)) (s : State) (h : (Instr.bridgeSend lane lines).wf = true) (hc : s.clocked = true) :
    exec (.bridgeSend lane lines) s = .next (s.bridgeRx lane lines) := by
  show execBridgeSend lane lines s = _
  unfold execBridgeSend
  rw [if_pos (by rw [h, hc]; rfl)]

theorem exec_bridgeTimer (lane : Nat) (lines : List (BitVec 512)) (s : State) (h : (Instr.bridgeTimer lane lines).wf = true) (hc : s.clocked = true) :
    exec (.bridgeTimer lane lines) s = .next (s.bridgeTimer lane lines) := by
  show execBridgeTimer lane lines s = _
  unfold execBridgeTimer
  rw [if_pos (by rw [h, hc]; rfl)]

theorem exec_linkUp (ev : LinkEvent) (s : State) (h : (Instr.linkUp ev).wf = true) (hc : s.clocked = true) :
    exec (.linkUp ev) s = .next (s.linkUp ev) := by
  show execLinkUp ev s = _
  unfold execLinkUp
  rw [if_pos (by rw [h, hc]; rfl)]

theorem exec_linkDown (link : LinkName) (s : State) (h : (Instr.linkDown link).wf = true) (hc : s.clocked = true) :
    exec (.linkDown link) s = .next (s.linkDown link) := by
  show execLinkDown link s = _
  unfold execLinkDown
  rw [if_pos (by rw [h, hc]; rfl)]

theorem exec_hotReset (port : Nat) (kind : PortReset) (s : State) (h : (Instr.hotReset port kind).wf = true) (hc : s.clocked = true) :
    exec (.hotReset port kind) s = .next (s.portReset port kind) := by
  show execHotReset port kind s = _
  unfold execHotReset
  rw [if_pos (by rw [h, hc]; rfl)]

theorem exec_bar0 (port func : Nat) (acc : HostAcc) (s : State) (h : (Instr.bar0 port func acc).wf = true) (hc : s.clocked = true) :
    exec (.bar0 port func acc) s = .next (s.wake.bar0 port func acc) := by
  show execBar0 port func acc s = _
  unfold execBar0
  rw [if_pos (by rw [h, hc]; rfl)]

theorem exec_bar2 (port : Nat) (acc : HostAcc) (s : State) (h : (Instr.bar2 port acc).wf = true) (hc : s.clocked = true) :
    exec (.bar2 port acc) s = .next (s.wake.bar2 port acc) := by
  show execBar2 port acc s = _
  unfold execBar2
  rw [if_pos (by rw [h, hc]; rfl)]

theorem exec_inbound (port : Nat) (acc : HostAcc) (s : State) (h : (Instr.inbound port acc).wf = true) (hc : s.clocked = true) :
    exec (.inbound port acc) s = .next (s.inbound port acc) := by
  show execInbound port acc s = _
  unfold execInbound
  rw [if_pos (by rw [h, hc]; rfl)]

theorem exec_cxlMem (port : Nat) (acc : HostAcc) (s : State) (h : (Instr.cxlMem port acc).wf = true) (hc : s.clocked = true) :
    exec (.cxlMem port acc) s = .next (s.wake.cxlMem port acc) := by
  show execCxlMem port acc s = _
  unfold execCxlMem
  rw [if_pos (by rw [h, hc]; rfl)]

theorem exec_ptmRequest (port : Nat) (s : State) (h : (Instr.ptmRequest port).wf = true) (hc : s.clocked = true) :
    exec (.ptmRequest port) s = .next (s.ptmRequest port) := by
  show execPtmRequest port s = _
  unfold execPtmRequest
  rw [if_pos (by rw [h, hc]; rfl)]

theorem exec_fnAssignWrite (req : Req) (port value : Nat) (s : State) (h : (Instr.fnAssignWrite req port value).wf = true) (hc : s.clocked = true) :
    exec (.fnAssignWrite req port value) s = .next (s.putReg req (rPCIE_FN_ASSIGN port) value) := by
  show execFnAssignWrite req port value s = _
  unfold execFnAssignWrite
  rw [if_pos (by rw [h, hc]; rfl)]

theorem exec_fnLayoutWrite (req : Req) (port pf value : Nat) (s : State) (h : (Instr.fnLayoutWrite req port pf value).wf = true) (hc : s.clocked = true) :
    exec (.fnLayoutWrite req port pf value) s = .next (s.putReg req (rPCIE_FN_LAYOUT port pf) value) := by
  show execFnLayoutWrite req port pf value s = _
  unfold execFnLayoutWrite
  rw [if_pos (by rw [h, hc]; rfl)]

theorem exec_windowWrite (req : Req) (inbound : Bool) (port j part value : Nat) (s : State) (h : (Instr.windowWrite req inbound port j part value).wf = true) (hc : s.clocked = true) :
    exec (.windowWrite req inbound port j part value) s = .next (if part = 0 then s.putReg64 req (winRegs inbound port j).1 value else if part = 1 then s.putReg req (winRegs inbound port j).2.1 value else if part = 2 then s.putReg req (winRegs inbound port j).2.2.1 value else s.putReg64 req (winRegs inbound port j).2.2.2 value) := by
  show execWindowWrite req inbound port j part value s = _
  unfold execWindowWrite
  rw [if_pos (by rw [h, hc]; rfl)]

theorem exec_rpOwnerWrite (req : Req) (port value : Nat) (s : State) (h : (Instr.rpOwnerWrite req port value).wf = true) (hc : s.clocked = true) :
    exec (.rpOwnerWrite req port value) s = .next (s.putReg req (rPCIE_RP_OWNER port) value) := by
  show execRpOwnerWrite req port value s = _
  unfold execRpOwnerWrite
  rw [if_pos (by rw [h, hc]; rfl)]

theorem exec_ethReceive (mac : Nat) (frame : List Nat) (fcsOk : Bool) (s : State) (h : (Instr.ethReceive mac frame fcsOk).wf = true) (hc : s.clocked = true) :
    exec (.ethReceive mac frame fcsOk) s = .next (s.ethReceive mac frame fcsOk) := by
  show execEthReceive mac frame fcsOk s = _
  unfold execEthReceive
  rw [if_pos (by rw [h, hc]; rfl)]

theorem exec_stnCfgWrite (req : Req) (mac j value : Nat) (s : State) (h : (Instr.stnCfgWrite req mac j value).wf = true) (hc : s.clocked = true) :
    exec (.stnCfgWrite req mac j value) s = .next (s.putReg req (rETH_STN_CFG mac j) value) := by
  show execStnCfgWrite req mac j value s = _
  unfold execStnCfgWrite
  rw [if_pos (by rw [h, hc]; rfl)]

theorem exec_skejaSend (k path : Nat) (s : State) (h : (Instr.skejaSend k path).wf = true) (hc : s.clocked = true) :
    exec (.skejaSend k path) s = .next (s.skjSend k path) := by
  show execSkejaSend k path s = _
  unfold execSkejaSend
  rw [if_pos (by rw [h, hc]; rfl)]

theorem exec_skejaReceive (k path : Nat) (frame : SkFrame) (fecOk tagOk : Bool) (s : State) (h : (Instr.skejaReceive k path frame fecOk tagOk).wf = true) (hc : s.clocked = true) :
    exec (.skejaReceive k path frame fecOk tagOk) s = .next (s.skjReceive k path frame fecOk tagOk) := by
  show execSkejaReceive k path frame fecOk tagOk s = _
  unfold execSkejaReceive
  rw [if_pos (by rw [h, hc]; rfl)]

theorem exec_nak (k path ack : Nat) (s : State) (h : (Instr.nak k path ack).wf = true) (hc : s.clocked = true) :
    exec (.nak k path ack) s = .next (s.nak k path ack) := by
  show execNak k path ack s = _
  unfold execNak
  rw [if_pos (by rw [h, hc]; rfl)]

theorem exec_udpTimeout (k frames : Nat) (s : State) (h : (Instr.udpTimeout k frames).wf = true) (hc : s.clocked = true) :
    exec (.udpTimeout k frames) s = .next (s.udpTimeout k frames) := by
  show execUdpTimeout k frames s = _
  unfold execUdpTimeout
  rw [if_pos (by rw [h, hc]; rfl)]

theorem exec_pathUp (k path : Nat) (s : State) (h : (Instr.pathUp k path).wf = true) (hc : s.clocked = true) :
    exec (.pathUp k path) s = .next (s.pathStart k path) := by
  show execPathUp k path s = _
  unfold execPathUp
  rw [if_pos (by rw [h, hc]; rfl)]

theorem exec_handshakeEnd (k path : Nat) (ok : Bool) (s : State) (h : (Instr.handshakeEnd k path ok).wf = true) (hc : s.clocked = true) :
    exec (.handshakeEnd k path ok) s = .next (s.handshakeEnd k path ok) := by
  show execHandshakeEnd k path ok s = _
  unfold execHandshakeEnd
  rw [if_pos (by rw [h, hc]; rfl)]

theorem exec_checkMatch (k : Nat) (s : State) (h : (Instr.checkMatch k).wf = true) (hc : s.clocked = true) :
    exec (.checkMatch k) s = .next (s.checkMatch k) := by
  show execCheckMatch k s = _
  unfold execCheckMatch
  rw [if_pos (by rw [h, hc]; rfl)]

theorem exec_pathDown (k path : Nat) (s : State) (h : (Instr.pathDown k path).wf = true) (hc : s.clocked = true) :
    exec (.pathDown k path) s = .next (s.pathDown k path) := by
  show execPathDown k path s = _
  unfold execPathDown
  rw [if_pos (by rw [h, hc]; rfl)]

theorem exec_tlpCompletion (port tag : Nat) (result : TlpEnd) (s : State) (h : (Instr.tlpCompletion port tag result).wf = true) (hc : s.clocked = true) :
    exec (.tlpCompletion port tag result) s = .next (s.tlpCompletion port tag result) := by
  show execTlpCompletion port tag result s = _
  unfold execTlpCompletion
  rw [if_pos (by rw [h, hc]; rfl)]

theorem exec_weirMil (bundle half data sb err : Nat) (fix : Option Nat) (s : State) (h : (Instr.weirMil bundle half data sb err fix).wf = true) (hc : s.clocked = true) :
    exec (.weirMil bundle half data sb err fix) s = .next (s.weirMilFlit bundle half data sb err fix) := by
  show execWeirMil bundle half data sb err fix s = _
  unfold execWeirMil
  rw [if_pos (by rw [h, hc]; rfl)]

theorem exec_weirTrib (bundle skip err : Nat) (fix : Option Nat) (s : State) (h : (Instr.weirTrib bundle skip err fix).wf = true) (hc : s.clocked = true) :
    exec (.weirTrib bundle skip err fix) s = .next (s.weirTribFlit bundle skip err fix) := by
  show execWeirTrib bundle skip err fix s = _
  unfold execWeirTrib
  rw [if_pos (by rw [h, hc]; rfl)]

theorem exec_shadowAdvance (bundle half : Nat) (s : State) (h : (Instr.shadowAdvance bundle half).wf = true) (hc : s.clocked = true) :
    exec (.shadowAdvance bundle half) s = .next (s.shadowAdvance bundle half) := by
  show execShadowAdvance bundle half s = _
  unfold execShadowAdvance
  rw [if_pos (by rw [h, hc]; rfl)]

theorem exec_lchkReq (bundle half errs : Nat) (s : State) (h : (Instr.lchkReq bundle half errs).wf = true) (hc : s.clocked = true) :
    exec (.lchkReq bundle half errs) s = .next (s.lchkReq bundle half errs) := by
  show execLchkReq bundle half errs s = _
  unfold execLchkReq
  rw [if_pos (by rw [h, hc]; rfl)]

theorem exec_laneCheckEnd (bundle half : Nat) (errs : List (Nat × Nat)) (persists : Bool) (s : State) (h : (Instr.laneCheckEnd bundle half errs persists).wf = true) (hc : s.clocked = true) :
    exec (.laneCheckEnd bundle half errs persists) s = .next (s.laneCheckEnd bundle half errs persists) := by
  show execLaneCheckEnd bundle half errs persists s = _
  unfold execLaneCheckEnd
  rw [if_pos (by rw [h, hc]; rfl)]

theorem exec_clocksLost (bundle bits : Nat) (s : State) (h : (Instr.clocksLost bundle bits).wf = true) (hc : s.clocked = true) :
    exec (.clocksLost bundle bits) s = .next (s.clocksLost bundle bits) := by
  show execClocksLost bundle bits s = _
  unfold execClocksLost
  rw [if_pos (by rw [h, hc]; rfl)]

theorem exec_repairFuse (s : State) (h : Instr.repairFuse.wf = true) (hc : s.clocked = true) :
    exec (.repairFuse) s = .next (s.repairFuse) := by
  show execRepairFuse s = _
  unfold execRepairFuse
  rw [if_pos (by rw [h, hc]; rfl)]

theorem exec_ucieFail (ford module : Nat) (s : State) (h : (Instr.ucieFail ford module).wf = true) (hc : s.clocked = true) :
    exec (.ucieFail ford module) s = .next (s.ucieModuleFail ford module) := by
  show execUcieFail ford module s = _
  unfold execUcieFail
  rw [if_pos (by rw [h, hc]; rfl)]

theorem exec_quarantine (die cause : Nat) (s : State) (h : (Instr.quarantine die cause).wf = true) (hc : s.clocked = true) :
    exec (.quarantine die cause) s = .next (s.quarantine die cause) := by
  show execQuarantine die cause s = _
  unfold execQuarantine
  rw [if_pos (by rw [h, hc]; rfl)]

theorem exec_readmission (die supplier rev : Nat) (admitted : Bool) (env : TrainEnv) (s : State) (h : (Instr.readmission die supplier rev admitted env).wf = true) (hc : s.clocked = true) :
    exec (.readmission die supplier rev admitted env) s = .next (s.ownerChange (s.readmit die supplier rev admitted env)) := by
  show execReadmission die supplier rev admitted env s = _
  unfold execReadmission
  rw [if_pos (by rw [h, hc]; rfl)]

theorem exec_railLoss (rail : Rail) (back : Bool) (s : State) (h : (Instr.railLoss rail back).wf = true) :
    exec (.railLoss rail back) s = .next (s.railLoss rail back) := by
  show execRailLoss rail back s = _
  unfold execRailLoss
  rw [if_pos h]

theorem exec_thermTrip (s : State) (h : Instr.thermTrip.wf = true) :
    exec (.thermTrip) s = .next (s.thermTrip) := by
  show execThermTrip s = _
  unfold execThermTrip
  rw [if_pos h]

theorem exec_idcode (tap : Nat) (s : State) (h : (Instr.idcode tap).wf = true) :
    exec (.idcode tap) s = .next (s.tapInstr tap .idcode) := by
  show execIdcode tap s = _
  unfold execIdcode
  rw [if_pos h]

theorem exec_samplePreload (tap value : Nat) (s : State) (h : (Instr.samplePreload tap value).wf = true) :
    exec (.samplePreload tap value) s = .next (s.tapSample tap value) := by
  show execSamplePreload tap value s = _
  unfold execSamplePreload
  rw [if_pos h]

theorem exec_extest (tap : Nat) (s : State) (h : (Instr.extest tap).wf = true) :
    exec (.extest tap) s = .next (s.tapDrive tap .extest) := by
  show execExtest tap s = _
  unfold execExtest
  rw [if_pos h]

theorem exec_extestPulse (tap : Nat) (s : State) (h : (Instr.extestPulse tap).wf = true) :
    exec (.extestPulse tap) s = .next (s.tapDrive tap .extestPulse) := by
  show execExtestPulse tap s = _
  unfold execExtestPulse
  rw [if_pos h]

theorem exec_extestTrain (tap : Nat) (s : State) (h : (Instr.extestTrain tap).wf = true) :
    exec (.extestTrain tap) s = .next (s.tapDrive tap .extestTrain) := by
  show execExtestTrain tap s = _
  unfold execExtestTrain
  rw [if_pos h]

theorem exec_highz (tap : Nat) (s : State) (h : (Instr.highz tap).wf = true) :
    exec (.highz tap) s = .next (s.tapDrive tap .highz) := by
  show execHighz tap s = _
  unfold execHighz
  rw [if_pos h]

theorem exec_clamp (tap : Nat) (s : State) (h : (Instr.clamp tap).wf = true) :
    exec (.clamp tap) s = .next (s.tapDrive tap .clamp) := by
  show execClamp tap s = _
  unfold execClamp
  rw [if_pos h]

theorem exec_bypass (tap : Nat) (s : State) (h : (Instr.bypass tap).wf = true) :
    exec (.bypass tap) s = .next (s.tapInstr tap .bypass) := by
  show execBypass tap s = _
  unfold execBypass
  rw [if_pos h]

theorem exec_mbox (tap : Nat) (s : State) (h : (Instr.mbox tap).wf = true) :
    exec (.mbox tap) s = .next (s.tapInstr tap .mbox) := by
  show execMbox tap s = _
  unfold execMbox
  rw [if_pos h]

theorem exec_jtagRead (addr : Nat) (s : State) (h : (Instr.jtagRead addr).wf = true) (hc : s.clocked = true) :
    exec (.jtagRead addr) s = .next (s.jtagAccess addr none) := by
  show execJtagRead addr s = _
  unfold execJtagRead
  rw [if_pos (by rw [h, hc]; rfl)]

theorem exec_jtagWrite (addr value : Nat) (s : State) (h : (Instr.jtagWrite addr value).wf = true) (hc : s.clocked = true) :
    exec (.jtagWrite addr value) s = .next (s.jtagAccess addr (some (value % 2 ^ 32))) := by
  show execJtagWrite addr value s = _
  unfold execJtagWrite
  rw [if_pos (by rw [h, hc]; rfl)]

theorem exec_testLogicReset (s : State) (h : Instr.testLogicReset.wf = true) :
    exec (.testLogicReset) s = .next (s.testLogicReset) := by
  show execTestLogicReset s = _
  unfold execTestLogicReset
  rw [if_pos h]

theorem exec_func (req : Req) (pin code : Nat) (s : State) (h : (Instr.func req pin code).wf = true) (hc : s.clocked = true) :
    exec (.func req pin code) s = .next (s.putReg req (pinCfg pin) (fPIN_CFG_FUNC.set (s.rd32 (pinCfg pin) % 2 ^ 17) code)) := by
  show execFunc req pin code s = _
  unfold execFunc
  rw [if_pos (by rw [h, hc]; rfl)]

theorem exec_switchEdge (pin : Nat) (s : State) (h : (Instr.switchEdge pin).wf = true) (hc : s.clocked = true) :
    exec (.switchEdge pin) s = .next (s.switchEdge pin) := by
  show execSwitchEdge pin s = _
  unfold execSwitchEdge
  rw [if_pos (by rw [h, hc]; rfl)]

theorem exec_holdEnd (pin : Nat) (s : State) (h : (Instr.holdEnd pin).wf = true) (hc : s.clocked = true) :
    exec (.holdEnd pin) s = .next (s.holdEnd pin) := by
  show execHoldEnd pin s = _
  unfold execHoldEnd
  rw [if_pos (by rw [h, hc]; rfl)]

theorem exec_swLate (pin : Nat) (s : State) (h : (Instr.swLate pin).wf = true) (hc : s.clocked = true) :
    exec (.swLate pin) s = .next (s.swLate pin) := by
  show execSwLate pin s = _
  unfold execSwLate
  rw [if_pos (by rw [h, hc]; rfl)]

theorem exec_gpioSet (req : Req) (bank : Nat) (hi : Bool) (bits : Nat) (s : State) (h : (Instr.gpioSet req bank hi bits).wf = true) (hc : s.clocked = true) :
    exec (.gpioSet req bank hi bits) s = .next (s.putReg req (rGPIO_SET_LO bank + 4 * b2n hi) bits) := by
  show execGpioSet req bank hi bits s = _
  unfold execGpioSet
  rw [if_pos (by rw [h, hc]; rfl)]

theorem exec_gpioClr (req : Req) (bank : Nat) (hi : Bool) (bits : Nat) (s : State) (h : (Instr.gpioClr req bank hi bits).wf = true) (hc : s.clocked = true) :
    exec (.gpioClr req bank hi bits) s = .next (s.putReg req (rGPIO_CLR_LO bank + 4 * b2n hi) bits) := by
  show execGpioClr req bank hi bits s = _
  unfold execGpioClr
  rw [if_pos (by rw [h, hc]; rfl)]

theorem exec_gpioTgl (req : Req) (bank : Nat) (hi : Bool) (bits : Nat) (s : State) (h : (Instr.gpioTgl req bank hi bits).wf = true) (hc : s.clocked = true) :
    exec (.gpioTgl req bank hi bits) s = .next (s.putReg req (rGPIO_TGL_LO bank + 4 * b2n hi) bits) := by
  show execGpioTgl req bank hi bits s = _
  unfold execGpioTgl
  rw [if_pos (by rw [h, hc]; rfl)]

theorem exec_pinEvent (line : Nat) (pad : Bool) (s : State) (h : (Instr.pinEvent line pad).wf = true) (hc : s.clocked = true) :
    exec (.pinEvent line pad) s = .next (s.pinEvent line pad) := by
  show execPinEvent line pad s = _
  unfold execPinEvent
  rw [if_pos (by rw [h, hc]; rfl)]

theorem exec_i2cRead (addr : Nat) (s : State) (h : (Instr.i2cRead addr).wf = true) (hc : s.clocked = true) :
    exec (.i2cRead addr) s = .next (s.i2cRead addr) := by
  show execI2cRead addr s = _
  unfold execI2cRead
  rw [if_pos (by rw [h, hc]; rfl)]

theorem exec_grantExpire (view : Nat) (s : State) (h : (Instr.grantExpire view).wf = true) (hc : s.clocked = true) :
    exec (.grantExpire view) s = .next (s.grantExpire view) := by
  show execGrantExpire view s = _
  unfold execGrantExpire
  rw [if_pos (by rw [h, hc]; rfl)]

theorem exec_endGrant (view : Nat) (s : State) (h : (Instr.endGrant view).wf = true) (hc : s.clocked = true) :
    exec (.endGrant view) s = .next (s.putReg (viewReq view) (rDBG_GRANT view) (2 ^ 28 + s.fget (rDBG_GRANT view) fDBG_GRANT_PWR_EMU * 2 ^ 27)) := by
  show execEndGrant view s = _
  unfold execEndGrant
  rw [if_pos (by rw [h, hc]; rfl)]

theorem exec_peek (view stall : Nat) (s : State) (h : (Instr.peek view stall).wf = true) (hc : s.clocked = true) :
    exec (.peek view stall) s = .next (s.putReg (viewReq view) (rDBG_ACC_CTL view) (2 ^ 31 + stall % 32 * 2 ^ 25)) := by
  show execPeek view stall s = _
  unfold execPeek
  rw [if_pos (by rw [h, hc]; rfl)]

theorem exec_poke (view stall : Nat) (s : State) (h : (Instr.poke view stall).wf = true) (hc : s.clocked = true) :
    exec (.poke view stall) s = .next (s.putReg (viewReq view) (rDBG_ACC_CTL view) (2 ^ 31 + 2 ^ 30 + stall % 32 * 2 ^ 25)) := by
  show execPoke view stall s = _
  unfold execPoke
  rw [if_pos (by rw [h, hc]; rfl)]

theorem exec_halt (view n : Nat) (s : State) (h : (Instr.halt view n).wf = true) (hc : s.clocked = true) :
    exec (.halt view n) s = .next (s.putReg (viewReq view) (rDBG_E_CMD n) 1) := by
  show execHalt view n s = _
  unfold execHalt
  rw [if_pos (by rw [h, hc]; rfl)]

theorem exec_engineHalt (n : Nat) (s : State) (h : (Instr.engineHalt n).wf = true) (hc : s.clocked = true) :
    exec (.engineHalt n) s = .next (s.engineHalt n) := by
  show execEngineHalt n s = _
  unfold execEngineHalt
  rw [if_pos (by rw [h, hc]; rfl)]

theorem exec_lockBroken (n : Nat) (s : State) (h : (Instr.lockBroken n).wf = true) (hc : s.clocked = true) :
    exec (.lockBroken n) s = .next (s.lockBroken n) := by
  show execLockBroken n s = _
  unfold execLockBroken
  rw [if_pos (by rw [h, hc]; rfl)]

theorem exec_releaseEngine (view n : Nat) (s : State) (h : (Instr.releaseEngine view n).wf = true) (hc : s.clocked = true) :
    exec (.releaseEngine view n) s = .next (s.putReg (viewReq view) (rDBG_E_CMD n) 2) := by
  show execReleaseEngine view n s = _
  unfold execReleaseEngine
  rw [if_pos (by rw [h, hc]; rfl)]

theorem exec_step (view n count : Nat) (s : State) (h : (Instr.step view n count).wf = true) (hc : s.clocked = true) :
    exec (.step view n count) s = .next (s.putReg (viewReq view) (rDBG_E_CMD n) (3 + count % 256 * 2 ^ 24)) := by
  show execStep view n count s = _
  unfold execStep
  rw [if_pos (by rw [h, hc]; rfl)]

theorem exec_fire (view : Nat) (s : State) (h : (Instr.fire view).wf = true) (hc : s.clocked = true) :
    exec (.fire view) s = .next (s.putReg (viewReq view) (rCAP_CTL view) (s.rd32 (rCAP_CTL view) + 2 ^ 30)) := by
  show execFire view s = _
  unfold execFire
  rw [if_pos (by rw [h, hc]; rfl)]

theorem exec_dbgTrig (shed : Nat) (s : State) (h : (Instr.dbgTrig shed).wf = true) (hc : s.clocked = true) :
    exec (.dbgTrig shed) s = .next (s.dbgTrig shed) := by
  show execDbgTrig shed s = _
  unfold execDbgTrig
  rw [if_pos (by rw [h, hc]; rfl)]

theorem exec_snapEnd (view : Nat) (forced : Bool) (s : State) (h : (Instr.snapEnd view forced).wf = true) (hc : s.clocked = true) :
    exec (.snapEnd view forced) s = .next (s.snapEnd view forced) := by
  show execSnapEnd view forced s = _
  unfold execSnapEnd
  rw [if_pos (by rw [h, hc]; rfl)]

theorem exec_capResume (view : Nat) (s : State) (h : (Instr.capResume view).wf = true) (hc : s.clocked = true) :
    exec (.capResume view) s = .next (s.putReg (viewReq view) (rCAP_CTL view) (s.rd32 (rCAP_CTL view) + 2 ^ 29)) := by
  show execCapResume view s = _
  unfold execCapResume
  rw [if_pos (by rw [h, hc]; rfl)]

theorem exec_ringCtlWrite (req : Req) (r value : Nat) (s : State) (h : (Instr.ringCtlWrite req r value).wf = true) (hc : s.clocked = true) :
    exec (.ringCtlWrite req r value) s = .next (s.putReg req (rRING_CTL r) value) := by
  show execRingCtlWrite req r value s = _
  unfold execRingCtlWrite
  rw [if_pos (by rw [h, hc]; rfl)]

end Sys2Proof.Machine
end

