-- ==== Sys2Proof/Laws/Registers.lean ====
section
/-! SUPPORT. What register words and fields read as after each of the register operations. -/

namespace Sys2Proof.Machine

theorem State.rd32_setWord (s : State) (a b : Nat) (v : BitVec 32) : (s.setWord a v).rd32 b = if b = a then v.toNat else s.rd32 b := by
  unfold State.rd32; rw [State.word_setWord]; split <;> rfl

theorem State.word_wr32 (s : State) (a b v : Nat) : (s.wr32 a v).word b = if b = a then BitVec.ofNat 32 v else s.word b := State.word_setWord ..

theorem State.rd32_wr32_if (s : State) (a b v : Nat) : (s.wr32 a v).rd32 b = if b = a then v % 2 ^ 32 else s.rd32 b := by
  rw [State.wr32, State.rd32_setWord]; simp

/-- Fields of one word. -/
theorem State.fget_word (s : State) (a : Nat) {f : Fld} (h : f.lo + f.width ≤ 32) : s.fget a f = f.get (s.rd32 a) := if_pos h

theorem State.fset_word (s : State) (a : Nat) {f : Fld} (v : Nat) (h : f.lo + f.width ≤ 32) : s.fset a f v = s.wr32 a (f.set (s.rd32 a) v) := if_pos h

theorem State.rd32_fset (s : State) (a b : Nat) {f : Fld} (v : Nat) (h : f.lo + f.width ≤ 32) :
    (s.fset a f v).rd32 b = if b = a then f.set (s.rd32 a) v else s.rd32 b := by
  rw [State.fset_word s a v h, State.rd32_wr32_if, Nat.mod_eq_of_lt (Fld.set_lt f _ v 32 (s.rd32_lt a) h)]

/-- A field of another register, or one of other bits, keeps its value. -/
theorem State.fget_fset_ne (s : State) {a b : Nat} {f g : Fld} (v : Nat) (hf : f.lo + f.width ≤ 32) (hg : g.lo + g.width ≤ 32) (h : b ≠ a) :
    (s.fset a f v).fget b g = s.fget b g := by
  rw [State.fget_word _ b hg, State.rd32_fset _ _ _ _ hf, if_neg h, State.fget_word _ b hg]

theorem Fld.get_set_ne (f g : Fld) (v x : Nat) (h : g.lo + g.width ≤ f.lo ∨ f.lo + f.width ≤ g.lo) : g.get (f.set v x) = g.get v := by
  apply Nat.eq_of_testBit_eq
  intro k
  simp only [Fld.get, ← Nat.shiftRight_eq_div_pow, Nat.testBit_mod_two_pow, Nat.testBit_shiftRight]
  by_cases hk : k < g.width
  · rw [Fld.testBit_set]; omega
  · simp [hk]

theorem State.fget_fset_apart (s : State) (a b : Nat) {f g : Fld} (v : Nat) (hf : f.lo + f.width ≤ 32) (hg : g.lo + g.width ≤ 32)
    (h : g.lo + g.width ≤ f.lo ∨ f.lo + f.width ≤ g.lo) : (s.fset a f v).fget b g = s.fget b g := by
  rw [State.fget_word _ b hg, State.rd32_fset _ _ _ _ hf, State.fget_word _ b hg]
  split
  · rename_i e; subst e; exact Fld.get_set_ne f g _ _ h
  · rfl

/-- A field after a write of the same field of a register. -/
theorem State.fget_fset_if (s : State) (a b : Nat) {f : Fld} (v : Nat) (hf : f.lo + f.width ≤ 32) :
    (s.fset a f v).fget b f = if b = a then v % 2 ^ f.width else s.fget b f := by
  rw [State.fget_word _ b hf, State.rd32_fset _ _ _ _ hf, State.fget_word _ b hf]
  split
  · exact Fld.get_set ..
  · rfl

theorem State.rd32_setBit (s : State) (a b k : Nat) (x : Bool) (h : k < 32) :
    (s.setBit a k x).rd32 b = if b = a then (⟨k, 1⟩ : Fld).set (s.rd32 a) (b2n x) else s.rd32 b := State.rd32_fset _ _ _ _ (show k + 1 ≤ 32 from h)

theorem State.rd32_irq (s : State) (p b k : Nat) (h : k < 32) :
    (s.irq p k).rd32 b = if b = p + 0x010 then (⟨k, 1⟩ : Fld).set (s.rd32 (p + 0x010)) 1 else s.rd32 b := State.rd32_setBit _ _ _ _ _ h

theorem State.rd32_finc (s : State) (a b : Nat) {f : Fld} (h : f.lo + f.width ≤ 32) :
    (s.finc a f).rd32 b = if b = a then f.set (s.rd32 a) (satInc f.width (s.fget a f)) else s.rd32 b := State.rd32_fset _ _ _ _ h

theorem State.rd32_emit (s : State) (x : Out) (a : Nat) : (s.emit x).rd32 a = s.rd32 a := rfl
theorem State.fget_emit (s : State) (x : Out) (a : Nat) (f : Fld) : (s.emit x).fget a f = s.fget a f := rfl

@[simp] theorem State.setViewBuf_rd32 (s : State) (r : Req) (p : Nat) (b : ViewBuf) (a : Nat) : (s.setViewBuf r p b).rd32 a = s.rd32 a := rfl
@[simp] theorem State.setViewBuf_rd64 (s : State) (r : Req) (p : Nat) (b : ViewBuf) (a : Nat) : (s.setViewBuf r p b).rd64 a = s.rd64 a := rfl
@[simp] theorem State.setViewBuf_fget (s : State) (r : Req) (p : Nat) (b : ViewBuf) (a : Nat) (f : Fld) : (s.setViewBuf r p b).fget a f = s.fget a f := rfl
@[simp] theorem State.setViewBuf_flag (s : State) (r : Req) (p : Nat) (b : ViewBuf) (a : Nat) (f : Fld) : (s.setViewBuf r p b).flag a f = s.flag a f := rfl
@[simp] theorem State.setViewBuf_bit (s : State) (r : Req) (p : Nat) (b : ViewBuf) (a k : Nat) : (s.setViewBuf r p b).bit a k = s.bit a k := rfl
theorem State.wordsBut_setViewBuf (s t : State) (r : Req) (p : Nat) (b : ViewBuf) (l : List Nat) : (s.setViewBuf r p b).wordsBut t l ↔ s.wordsBut t l := Iff.rfl

/-- A word is what its number says. -/
theorem State.word_eq_iff (s t : State) (a : Nat) : t.word a = s.word a ↔ t.rd32 a = s.rd32 a := by
  unfold State.rd32; exact ⟨fun h => by rw [h], fun h => BitVec.eq_of_toNat_eq h⟩

/-! ### Which words an operation writes -/

theorem State.wordsBut_of_regs {s t : State} (l : List Nat) (h : t.regs = s.regs) : s.wordsBut t l := by
  intro a _; unfold State.word; rw [h]

theorem State.wordsBut_trans {s t u : State} {l : List Nat} (h : s.wordsBut t l) (g : t.wordsBut u l) : s.wordsBut u l :=
  fun a ha => (g a ha).trans (h a ha)

theorem State.wordsBut_mono {s t : State} {l m : List Nat} (h : s.wordsBut t l) (hm : ∀ a ∈ l, a ∈ m) : s.wordsBut t m := by
  intro a ha
  apply h a
  cases hl : l.contains a
  · rfl
  · exact absurd ha (by simpa using hm a (by simpa using hl))

/-- A write of one word of the list. -/
theorem State.wordsBut_setWord (s : State) {a : Nat} (v : BitVec 32) {l : List Nat} (h : a ∈ l) : s.wordsBut (s.setWord a v) l := by
  intro b hb
  rw [State.word_setWord, if_neg]
  intro e; subst e; simp_all

theorem State.wordsBut_wr32 (s : State) {a : Nat} (v : Nat) {l : List Nat} (h : a ∈ l) : s.wordsBut (s.wr32 a v) l := State.wordsBut_setWord _ _ h

theorem State.wordsBut_fset (s : State) {a : Nat} {f : Fld} (v : Nat) {l : List Nat} (hf : f.lo + f.width ≤ 32) (h : a ∈ l) : s.wordsBut (s.fset a f v) l := by
  rw [State.fset_word s a v hf]; exact State.wordsBut_wr32 _ _ h

theorem State.wordsBut_setBit (s : State) {a k : Nat} (b : Bool) {l : List Nat} (hk : k < 32) (h : a ∈ l) : s.wordsBut (s.setBit a k b) l :=
  State.wordsBut_fset _ _ (show k + 1 ≤ 32 from hk) h

theorem State.wordsBut_irq (s : State) {p k : Nat} {l : List Nat} (hk : k < 32) (h : p + 0x010 ∈ l) : s.wordsBut (s.irq p k) l := State.wordsBut_setBit _ _ hk h

theorem State.wordsBut_finc (s : State) {a : Nat} {f : Fld} {l : List Nat} (hf : f.lo + f.width ≤ 32) (h : a ∈ l) : s.wordsBut (s.finc a f) l :=
  State.wordsBut_fset _ _ hf h

theorem State.wordsBut_wr64 (s : State) {a : Nat} (v : Nat) {l : List Nat} (h : a ∈ l) (h' : a + 4 ∈ l) : s.wordsBut (s.wr64 a v) l :=
  State.wordsBut_trans (State.wordsBut_wr32 _ _ h) (State.wordsBut_wr32 _ _ h')

theorem State.wordsBut_refl (s : State) (l : List Nat) : s.wordsBut s l := fun _ _ => rfl

theorem State.wordsBut.wr32 {s t : State} {l : List Nat} {a v : Nat} (h : s.wordsBut t l) (ha : a ∈ l) : s.wordsBut (t.wr32 a v) l :=
  State.wordsBut_trans h (State.wordsBut_wr32 _ _ ha)

theorem State.wordsBut.wr64 {s t : State} {l : List Nat} {a v : Nat} (h : s.wordsBut t l) (ha : a ∈ l) (ha' : a + 4 ∈ l) : s.wordsBut (t.wr64 a v) l :=
  State.wordsBut_trans h (State.wordsBut_wr64 _ _ ha ha')

theorem State.wordsBut.fset {s t : State} {l : List Nat} {a v : Nat} {f : Fld} (h : s.wordsBut t l) (hf : f.lo + f.width ≤ 32) (ha : a ∈ l) :
    s.wordsBut (t.fset a f v) l := State.wordsBut_trans h (State.wordsBut_fset _ _ hf ha)

theorem State.wordsBut.setBit {s t : State} {l : List Nat} {a k : Nat} {b : Bool} (h : s.wordsBut t l) (hk : k < 32) (ha : a ∈ l) :
    s.wordsBut (t.setBit a k b) l := State.wordsBut_trans h (State.wordsBut_setBit _ _ hk ha)

theorem State.wordsBut.irq {s t : State} {l : List Nat} {p k : Nat} (h : s.wordsBut t l) (hk : k < 32) (ha : p + 0x010 ∈ l) :
    s.wordsBut (t.irq p k) l := State.wordsBut_trans h (State.wordsBut_irq _ hk ha)

theorem State.wordsBut.finc {s t : State} {l : List Nat} {a : Nat} {f : Fld} (h : s.wordsBut t l) (hf : f.lo + f.width ≤ 32) (ha : a ∈ l) :
    s.wordsBut (t.finc a f) l := State.wordsBut_trans h (State.wordsBut_finc _ hf ha)

/-- An update of other parts than the registers. -/
theorem State.wordsBut.regs {s t u : State} {l : List Nat} (h : s.wordsBut t l) (g : u.regs = t.regs) : s.wordsBut u l :=
  State.wordsBut_trans h (State.wordsBut_of_regs _ g)

/-- One bit of a register after a bit of one is written. -/
theorem State.bit_setBit_if (s : State) (a b k j : Nat) (x : Bool) (hk : k < 32) (hj : j < 32) :
    (s.setBit a k x).bit b j = if b = a ∧ j = k then x else s.bit b j := by
  unfold State.bit State.flag State.setBit
  by_cases e : j = k
  · subst e
    rw [State.fget_fset_if _ _ _ _ (show j + 1 ≤ 32 from hk)]
    by_cases g : b = a
    · rw [if_pos g, if_pos ⟨g, rfl⟩]; cases x <;> rfl
    · rw [if_neg g, if_neg (fun h => g h.1)]
  · rw [State.fget_fset_apart _ _ _ _ (show k + 1 ≤ 32 from hk) (show j + 1 ≤ 32 from hj) (by simp only; omega), if_neg (fun h => e h.2)]

theorem State.bit_irq (s : State) (p b k j : Nat) (hk : k < 32) (hj : j < 32) :
    (s.irq p k).bit b j = if b = p + 0x010 ∧ j = k then true else s.bit b j := State.bit_setBit_if _ _ _ _ _ _ hk hj

/-- A bit of a register outside the written words. -/
theorem State.bit_wordsBut {s t : State} {l : List Nat} (h : s.wordsBut t l) (a k : Nat) (ha : l.contains a = false) (hk : k < 32) : t.bit a k = s.bit a k := by
  unfold State.bit State.flag
  rw [State.fget_word _ _ (show k + 1 ≤ 32 from hk), State.fget_word _ _ (show k + 1 ≤ 32 from hk)]
  unfold State.rd32
  rw [h a ha]

theorem State.fget_wordsBut {s t : State} {l : List Nat} (h : s.wordsBut t l) (a : Nat) {f : Fld} (ha : l.contains a = false) (hf : f.lo + f.width ≤ 32) :
    t.fget a f = s.fget a f := by
  rw [State.fget_word _ _ hf, State.fget_word _ _ hf]
  unfold State.rd32
  rw [h a ha]

/-- A command's next state, and what is said of it. -/
theorem Answers.intro {c : Instr} {s t : State} {P : State → Prop} (h : exec c s = .next t) (g : P t) : Answers c s P := ⟨t, h, g⟩

/-! ### States with the same registers -/

theorem State.word_same {s t : State} (h : t.regs = s.regs) (a : Nat) : t.word a = s.word a := by unfold State.word; rw [h]

theorem State.rd32_same {s t : State} (h : t.regs = s.regs) (a : Nat) : t.rd32 a = s.rd32 a := by unfold State.rd32; rw [State.word_same h]

theorem State.rd64_same {s t : State} (h : t.regs = s.regs) (a : Nat) : t.rd64 a = s.rd64 a := by unfold State.rd64; rw [State.rd32_same h, State.rd32_same h]

theorem State.fget_same {s t : State} (h : t.regs = s.regs) (a : Nat) (f : Fld) : t.fget a f = s.fget a f := by
  unfold State.fget; rw [State.rd32_same h, State.rd64_same h]

theorem State.flag_same {s t : State} (h : t.regs = s.regs) (a : Nat) (f : Fld) : t.flag a f = s.flag a f := by unfold State.flag; rw [State.fget_same h]

theorem State.bit_same {s t : State} (h : t.regs = s.regs) (a k : Nat) : t.bit a k = s.bit a k := State.flag_same h ..

end Sys2Proof.Machine
end

