-- ==== Sys2Proof/Laws/Fields.lean ====
section
/-! SUPPORT. The fields of a register after a write or a read, by access type (R7, R8). -/

namespace Sys2Proof.Machine

/-- The fields of a register lie apart from one another and within its width. -/
def RegDef.tidy (r : RegDef) : Bool :=
  r.fields.all (fun f => decide (f.lo ≤ f.hi) && decide (f.hi < if r.wide then 64 else 32)) &&
  (List.range r.fields.length).all (fun i => (List.range i).all (fun j =>
    match r.fields[i]?, r.fields[j]? with
    | some f, some g => decide (f.hi < g.lo) || decide (g.hi < f.lo)
    | _, _ => true))

theorem RegDef.tidy_all : ∀ k ∈ allPageKinds, ∀ r ∈ k.regs, r.tidy = true := by decide +kernel

/-- Fields that lie apart. -/
def FieldDef.apart (f g : FieldDef) : Prop := f.hi < g.lo ∨ g.hi < f.lo

theorem RegDef.tidy_width {r : RegDef} (h : r.tidy = true) {f : FieldDef} (hf : f ∈ r.fields) :
    f.lo ≤ f.hi ∧ f.fld.lo + f.fld.width ≤ (if r.wide then 64 else 32) := by
  simp only [RegDef.tidy, Bool.and_eq_true, List.all_eq_true, decide_eq_true_eq] at h
  have := h.1 f hf
  simp only [FieldDef.fld]
  exact ⟨this.1, by omega⟩

theorem RegDef.tidy_apart {r : RegDef} (h : r.tidy = true) : r.fields.Pairwise FieldDef.apart := by
  rw [List.pairwise_iff_getElem]
  intro i j hi hj hij
  simp only [RegDef.tidy, Bool.and_eq_true, List.all_eq_true, List.mem_range] at h
  have := h.2 j hj i hij
  simp only [List.getElem?_eq_getElem hi, List.getElem?_eq_getElem hj, Bool.or_eq_true, decide_eq_true_eq] at this
  unfold FieldDef.apart
  omega

/-- A field set, if it is to be. -/
def setField (h : FieldDef → Option Nat) (m : Nat) (g : FieldDef) : Nat :=
  match h g with
  | some x => g.fld.set m x
  | none => m

/-- What `RegDef.keep` sets each field to. -/
def keepField (p : Acc → Bool) (v : Nat) (g : FieldDef) : Option Nat := if p g.acc then some (g.fld.get v) else none

/-- What `RegDef.written` sets each field to. -/
def writeField (old v : Nat) (g : FieldDef) : Option Nat :=
  some (match g.acc with
    | .rw => g.fld.get v
    | .w1c => g.fld.get old - Nat.land (g.fld.get old) (g.fld.get v)
    | .w1s => Nat.lor (g.fld.get old) (g.fld.get v)
    | _ => g.fld.get old)

theorem RegDef.keep_eq (r : RegDef) (p : Acc → Bool) (v : Nat) : r.keep p v = r.fields.foldl (setField (keepField p v)) 0 := by
  unfold RegDef.keep
  congr 1
  funext m g
  unfold setField keepField
  dsimp only [FieldDef.fld]
  cases p g.acc <;> rfl

theorem RegDef.written_eq (r : RegDef) (old v : Nat) : r.written old v = r.fields.foldl (setField (writeField old v)) 0 := rfl

/-- A fold that sets each field once leaves each at what it was set to. -/
theorem foldl_set_other (h : FieldDef → Option Nat) (f : FieldDef) : ∀ (fs : List FieldDef) (m : Nat), (∀ g ∈ fs, g.lo ≤ g.hi ∧ g.apart f) → f.lo ≤ f.hi →
    f.fld.get (fs.foldl (setField h) m) = f.fld.get m
  | [], _, _, _ => rfl
  | g :: gs, m, hg, hf => by
    rw [List.foldl_cons, foldl_set_other h f gs _ (fun x hx => hg x (List.mem_cons_of_mem _ hx)) hf]
    obtain ⟨h1, h2⟩ := hg g (List.mem_cons_self ..)
    unfold setField
    cases h g with
    | none => rfl
    | some x => exact Fld.get_set_ne _ _ _ _ (by simp only [FieldDef.fld, FieldDef.apart] at *; omega)

theorem foldl_set_get (h : FieldDef → Option Nat) : ∀ (fs : List FieldDef) (m : Nat), fs.Pairwise FieldDef.apart → (∀ g ∈ fs, g.lo ≤ g.hi) → ∀ f ∈ fs,
    f.fld.get (fs.foldl (setField h) m) =
      match h f with | some x => x % 2 ^ f.fld.width | none => f.fld.get m
  | g :: gs, m, hp, hl, f, hf => by
    obtain ⟨hp1, hp2⟩ := List.pairwise_cons.1 hp
    rw [List.foldl_cons]
    rcases List.mem_cons.1 hf with rfl | hm
    · rw [foldl_set_other h f gs _ (fun x hx => ⟨hl x (List.mem_cons_of_mem _ hx), by have := hp1 x hx; unfold FieldDef.apart at *; omega⟩) (hl f (List.mem_cons_self ..))]
      unfold setField
      cases h f with
      | none => rfl
      | some x => exact Fld.get_set ..
    · rw [foldl_set_get h gs _ hp2 (fun x hx => hl x (List.mem_cons_of_mem _ hx)) f hm]
      cases hh : h f with
      | some x => rfl
      | none =>
        unfold setField
        cases hg : h g with
        | none => rfl
        | some x =>
          have := hp1 f hm
          have h1 := hl g (List.mem_cons_self ..)
          have h2 := hl f hf
          exact Fld.get_set_ne _ _ _ _ (by simp only [FieldDef.fld, FieldDef.apart] at *; omega)

theorem Fld.get_lt (f : Fld) (v : Nat) : f.get v < 2 ^ f.width := Nat.mod_lt _ (Nat.two_pow_pos _)

@[simp] theorem Fld.get_zero (f : Fld) : f.get 0 = 0 := by simp [Fld.get]

theorem RegDef.get_keep {r : RegDef} (h : r.tidy = true) (p : Acc → Bool) (v : Nat) {f : FieldDef} (hf : f ∈ r.fields) :
    f.fld.get (r.keep p v) = if p f.acc then f.fld.get v else 0 := by
  rw [r.keep_eq, foldl_set_get _ _ _ (RegDef.tidy_apart h) (fun g hg => (RegDef.tidy_width h hg).1) f hf, keepField]
  cases p f.acc
  · simp
  · exact Nat.mod_eq_of_lt (Fld.get_lt ..)

theorem RegDef.get_written {r : RegDef} (h : r.tidy = true) (old v : Nat) {f : FieldDef} (hf : f ∈ r.fields) :
    f.fld.get (r.written old v) = match f.acc with
      | .rw => f.fld.get v
      | .w1c => f.fld.get old - Nat.land (f.fld.get old) (f.fld.get v)
      | .w1s => Nat.lor (f.fld.get old) (f.fld.get v)
      | _ => f.fld.get old := by
  rw [r.written_eq, foldl_set_get _ _ _ (RegDef.tidy_apart h) (fun g hg => (RegDef.tidy_width h hg).1) f hf, writeField]
  have h1 := Fld.get_lt f.fld old
  have h2 := Fld.get_lt f.fld v
  cases f.acc <;> dsimp only <;> apply Nat.mod_eq_of_lt
  · exact h2
  · exact h1
  · exact h1
  · exact Nat.lt_of_le_of_lt (Nat.sub_le ..) h1
  · exact Nat.or_lt_two_pow h1 h2
  · exact h1

theorem foldl_set_lt (h : FieldDef → Option Nat) (n : Nat) : ∀ (fs : List FieldDef) (m : Nat), m < 2 ^ n → (∀ g ∈ fs, g.fld.lo + g.fld.width ≤ n) →
    fs.foldl (setField h) m < 2 ^ n
  | [], _, hm, _ => hm
  | g :: gs, m, hm, hg => by
    rw [List.foldl_cons]
    apply foldl_set_lt h n gs _ _ (fun x hx => hg x (List.mem_cons_of_mem _ hx))
    unfold setField
    cases h g with
    | none => exact hm
    | some x => exact Fld.set_lt _ _ _ _ hm (hg g (List.mem_cons_self ..))

theorem RegDef.keep_lt {r : RegDef} (h : r.tidy = true) (p : Acc → Bool) (v : Nat) : r.keep p v < 2 ^ (if r.wide then 64 else 32) := by
  rw [r.keep_eq]
  exact foldl_set_lt _ _ _ _ (Nat.two_pow_pos _) (fun g hg => (RegDef.tidy_width h hg).2)

theorem RegDef.written_lt {r : RegDef} (h : r.tidy = true) (old v : Nat) : r.written old v < 2 ^ (if r.wide then 64 else 32) := by
  rw [r.written_eq]
  exact foldl_set_lt _ _ _ _ (Nat.two_pow_pos _) (fun g hg => (RegDef.tidy_width h hg).2)

/-- Bits outside every field of a register (RSV) read 0 after a write. -/
theorem foldl_set_rsv (h : FieldDef → Option Nat) (b : Nat) : ∀ (fs : List FieldDef) (m : Nat), m.testBit b = false →
    (∀ g ∈ fs, b < g.fld.lo ∨ g.fld.lo + g.fld.width ≤ b) → (fs.foldl (setField h) m).testBit b = false
  | [], _, hm, _ => hm
  | g :: gs, m, hm, hg => by
    rw [List.foldl_cons]
    apply foldl_set_rsv h b gs _ _ (fun x hx => hg x (List.mem_cons_of_mem _ hx))
    unfold setField
    cases h g with
    | none => exact hm
    | some x => rw [Fld.testBit_set _ _ _ _ (hg g (List.mem_cons_self ..))]; exact hm

theorem RegDef.written_rsv (r : RegDef) (old v b : Nat) (hb : ∀ g ∈ r.fields, b < g.fld.lo ∨ g.fld.lo + g.fld.width ≤ b) :
    (r.written old v).testBit b = false := by
  rw [r.written_eq]
  exact foldl_set_rsv _ b _ _ (Nat.zero_testBit b) hb

theorem findReg_mem {o e : Nat} {r : RegDef} : ∀ {rs : List RegDef}, findReg o rs = some (r, e) → r ∈ rs
  | x :: xs, h => by
    unfold findReg at h
    split at h
    · cases h; exact List.mem_cons_self ..
    · exact List.mem_cons_of_mem _ (findReg_mem h)

theorem findReg_tidy {k : PageKind} {o e : Nat} {r : RegDef} (h : findReg o k.regs = some (r, e)) : r.tidy = true :=
  RegDef.tidy_all k k.mem_all r (findReg_mem h)

/-- Whether a register and the elements of its arrays lie on its own alignment (R4). -/
def RegDef.aligned (r : RegDef) : Bool :=
  decide (r.off % (if r.wide then 8 else 4) = 0) && r.dims.all (fun d => decide (d.2 % (if r.wide then 8 else 4) = 0))

theorem RegDef.aligned_all : ∀ k ∈ allPageKinds, ∀ r ∈ k.regs, r.aligned = true := by decide +kernel

theorem RegDef.elem_aligned (size n : Nat) : ∀ (ds : List (Nat × Nat)) (d e : Nat), (∀ x ∈ ds, x.2 % n = 0) → RegDef.elem size ds d = some e → e % n = 0
  | [], d, e, _, h => by
    unfold RegDef.elem at h
    split at h <;> cases h
    simp
  | (c, st) :: ds, d, e, hd, h => by
    unfold RegDef.elem at h
    split at h
    · cases hx : RegDef.elem size ds (d % st) with
      | none => rw [hx] at h; cases h
      | some e' =>
        rw [hx] at h
        cases h
        have h1 := RegDef.elem_aligned size n ds _ _ (fun x hx => hd x (List.mem_cons_of_mem _ hx)) hx
        have h2 : st % n = 0 := hd _ (List.mem_cons_self ..)
        rw [Nat.add_mod, Nat.mul_mod, h1, h2]; simp
    · cases h

/-- The registers of the register map lie on their own alignment. -/
theorem findReg_aligned {k : PageKind} {o e : Nat} {r : RegDef} (h : findReg o k.regs = some (r, e)) : e % (if r.wide then 8 else 4) = 0 := by
  have ha := RegDef.aligned_all k k.mem_all r (findReg_mem h)
  simp only [RegDef.aligned, Bool.and_eq_true, decide_eq_true_eq, List.all_eq_true] at ha
  have hit : ∀ rs : List RegDef, findReg o rs = some (r, e) → r.hit o = some e := by
    intro rs
    induction rs with
    | nil => intro h; cases h
    | cons x xs ih =>
      intro h
      unfold findReg at h
      split at h
      · cases h; assumption
      · exact ih h
  have h1 := hit _ h
  unfold RegDef.hit at h1
  split at h1
  · cases h1
  · cases hx : RegDef.elem (if r.wide then 8 else 4) r.dims (o - r.off) with
    | none => rw [hx] at h1; cases h1
    | some y =>
      rw [hx] at h1
      cases h1
      rw [Nat.add_mod, ha.1, RegDef.elem_aligned _ _ _ _ _ (fun x hx => ha.2 x hx) hx]
      simp

/-! ### A whole register set -/

theorem State.regVal_setReg (s : State) {r : RegDef} (a v : Nat) (h : v < 2 ^ (if r.wide then 64 else 32)) : (s.setReg r a v).regVal r a = v := by
  unfold State.setReg State.regVal
  cases hw : r.wide <;> simp only [hw, if_true, if_false, Bool.false_eq_true] at h ⊢
  · rw [State.rd32_wr32, Nat.mod_eq_of_lt h]
  · rw [State.rd64_wr64, Nat.mod_eq_of_lt h]

theorem State.word_setReg (s : State) {r : RegDef} {a b : Nat} (v : Nat) (h : b ≠ a) (h' : r.wide = true → b ≠ a + 4) : (s.setReg r a v).word b = s.word b := by
  unfold State.setReg
  split
  · exact State.word_wr64_ne _ _ h (h' ‹_›)
  · exact State.word_wr32_ne _ _ h

/-- Where the access types are all there is, a write is a plain one. -/
theorem State.bodyWrite_plain (s : State) (req : Req) (k : PageKind) (i p : Nat) (r : RegDef) (e v upset : Nat) (h : plainAt k e = true) :
    s.bodyWrite req k i p r e v upset = s.plainWrite r (p + e) v := by
  cases k <;> simp only [plainAt, Bool.and_eq_true, Bool.not_eq_true', decide_eq_true_eq, Bool.and_eq_false_iff, decide_eq_false_iff_not, reduceCtorEq] at h <;>
    first | rfl | (simp_all [State.bodyWrite]; try omega)

/-- Where the stored value is all there is, a read returns it. -/
theorem State.bodyRead_stored (s : State) (req : Req) (k : PageKind) (i p : Nat) (r : RegDef) (e upset : Nat) (h : storedKind k = true) :
    s.bodyRead req k i p r e upset = r.shown (s.regVal r (p + e)) := by
  cases k <;> first | rfl | (simp [storedKind] at h)

/-! ### Refusals -/

/-- R461: what a refused access leaves. -/
theorem State.refuse_effect (s : State) (req : Req) (k : PageKind) {i o : Nat} (c : Nat) (hv : req.valid = true) (hc : c < 8) (h : i < k.count) (ho : o < 4096) :
    let t := s.refuse req (k.addr i + o) c
    let p := k.addr i
    t.fget (rERR_COUNT p) fERR_COUNT_COUNT = satInc 16 (s.fget (rERR_COUNT p) fERR_COUNT_COUNT) ∧ t.bit (rIRQ_RAW p) 31 = true ∧
      (s.flag (rERR_FIRST p) fERR_FIRST_VALID = true → t.word (rERR_FIRST p) = s.word (rERR_FIRST p)) ∧
      (s.flag (rERR_FIRST p) fERR_FIRST_VALID = false → t.flag (rERR_FIRST p) fERR_FIRST_VALID = true ∧
        t.fget (rERR_FIRST p) fERR_FIRST_CAUSE = c ∧ t.fget (rERR_FIRST p) fERR_FIRST_OFFSET = o) ∧
      s.wordsBut t [rERR_COUNT p, rIRQ_RAW p, rERR_FIRST p] := by
  intro t p
  have hpg : (k.addr i + o) / 4096 * 4096 = p := addr_div k h ho
  have hmd : (k.addr i + o) % 4096 = o := addr_mod k h ho
  have e1 : rERR_COUNT p = p + 0x024 := rfl
  have e2 : rIRQ_RAW p = p + 0x010 := rfl
  have e3 : rERR_FIRST p = p + 0x020 := rfl
  let s1 := (s.finc (rERR_COUNT p) fERR_COUNT_COUNT).irq p 31
  have ht : t = if s1.flag (rERR_FIRST p) fERR_FIRST_VALID then s1 else s1.wr32 (rERR_FIRST p)
      (2 ^ 31 + c * 2 ^ 28 + req.src.1 * 2 ^ 25 + req.src.2 * 2 ^ 20 + b2n (decide (req = .tolmor)) * 2 ^ 19 + o) := by
    show s.refuse _ _ _ = _
    unfold State.refuse
    rw [hpg, hmd]
  have hw1 : ∀ b, s1.rd32 b = if b = p + 0x010 then (⟨31, 1⟩ : Fld).set (s.rd32 b) 1 else if b = p + 0x024 then fERR_COUNT_COUNT.set (s.rd32 b) (satInc 16 (s.fget (rERR_COUNT p) fERR_COUNT_COUNT)) else s.rd32 b := by
    intro b
    show ((s.finc _ _).irq p 31).rd32 b = _
    rw [State.rd32_irq _ _ _ _ (by decide), State.rd32_finc _ _ _ (by decide), State.rd32_finc _ _ _ (by decide), e1]
    split
    · rename_i hb; subst hb; rw [if_neg (by omega)]
    · split
      · rename_i hb; subst hb; rfl
      · rfl
  have hfl : s1.flag (rERR_FIRST p) fERR_FIRST_VALID = s.flag (rERR_FIRST p) fERR_FIRST_VALID := by
    unfold State.flag
    rw [State.fget_word _ _ (by decide), State.fget_word _ _ (by decide), hw1, e3, if_neg (by omega), if_neg (by omega)]
  rw [hfl] at ht
  have hsrc : req.src.1 < 8 ∧ req.src.2 < 32 := by
    cases req <;> simp [Req.valid] at hv <;> simp only [Req.src] <;> omega
  have hb1 : b2n (decide (req = .tolmor)) ≤ 1 := by cases decide (req = .tolmor) <;> decide
  obtain ⟨hs1, hs2⟩ := hsrc
  have hw2 : ∀ b, b ≠ p + 0x020 → t.rd32 b = s1.rd32 b := by
    intro b hb
    rw [ht]
    split
    · rfl
    · exact State.rd32_wr32_ne _ _ (by rw [e3]; exact hb)
  refine ⟨?_, ?_, ?_, ?_, ?_⟩
  · rw [State.fget_word _ _ (by decide), e1, hw2 _ (by omega), hw1, if_neg (by omega), if_pos rfl, Fld.get_set]
    apply Nat.mod_eq_of_lt
    unfold satInc
    split
    · assumption
    · exact Nat.sub_lt (Nat.two_pow_pos _) (by decide)
  · show decide (t.fget _ _ = 1) = true
    rw [State.fget_word _ _ (by decide), e2, hw2 _ (by omega), hw1, if_pos rfl, Fld.get_set]
    decide
  · intro hf
    rw [State.word_eq_iff, ht, if_pos hf, hw1, e3, if_neg (by omega), if_neg (by omega)]
  · intro hf
    have hv3 : t.rd32 (rERR_FIRST p) = 2 ^ 31 + c * 2 ^ 28 + req.src.1 * 2 ^ 25 + req.src.2 * 2 ^ 20 + b2n (decide (req = .tolmor)) * 2 ^ 19 + o := by
      rw [ht, if_neg (by rw [hf]; decide), State.rd32_wr32]
      exact Nat.mod_eq_of_lt (by omega)
    refine ⟨?_, ?_, ?_⟩
    · show decide (t.fget _ _ = 1) = true
      rw [decide_eq_true_eq, State.fget_word _ _ (by decide), hv3]
      simp only [Fld.get, fERR_FIRST_VALID]; omega
    · rw [State.fget_word _ _ (by decide), hv3]
      simp only [Fld.get, fERR_FIRST_CAUSE]; omega
    · rw [State.fget_word _ _ (by decide), hv3]
      simp only [Fld.get, fERR_FIRST_OFFSET]; omega
  · intro b hb
    simp only [List.contains_cons, List.contains_nil, Bool.or_false, Bool.or_eq_false_iff, beq_eq_false_iff_ne, e1, e2, e3] at hb
    rw [State.word_eq_iff, hw2 b hb.2.2, hw1, if_neg hb.2.1, if_neg hb.1]

/-! ### Reads of stored registers, and the stall window -/

/-- R470: an access of a stall through its window, to a page it is served. -/
theorem State.window_served (s : State) (n w : Nat) (k : PageKind) {i o size : Nat} (x : Access) (u : Nat) (h : i < k.count) (ho : o < 4096)
    (hw : inWindow w = true) (ht : windowTarget n w = some (k.addr i + o)) (hz : [1,2,4,8].contains size = true) (ha : w % size = 0)
    (hg : s.getsTo (.stall n) k i o = true) :
    s.regAccess (.stall n) w size x u = s.serveReg (.stall n) ⟨k, i, k.addr i⟩ o size x u := by
  have hst : s.startsAcc (.stall n) w size x = none := by unfold State.startsAcc; simp [Req.view]
  unfold State.regAccess
  rw [hst]
  show s.plainAccess _ _ _ _ _ = _
  unfold State.plainAccess
  rw [if_neg (by simp only [hz, ha]; decide), if_pos hw]
  show s.windowAccess (.stall n) n w size x u = _
  unfold State.windowAccess
  rw [ht]
  exact s.windowAt_served n k x u h ho hg


theorem State.readEffect_stored (s : State) (req : Req) (k : PageKind) (i p : Nat) (r : RegDef) (e u : Nat) (h : storedKind k = true) :
    s.readEffect req k i p r e u = if r.hasRc then s.setReg r (p + e) (r.afterRead (s.regVal r (p + e))) else s := by
  unfold State.readEffect
  have h1 : k ≠ .eddy := by rintro rfl; simp [storedKind] at h
  have h2 : k ≠ .dbgEddy := by rintro rfl; simp [storedKind] at h
  simp [h1, h2]

/-- A register read whole where what is stored is all there is to read. -/
theorem State.readWhole_stored (s s1 : State) (req : Req) (k : PageKind) (i o : Nat) (r : RegDef) (u : Nat) (ho4 : 0x040 ≤ o) (hp : storedKind k = true)
    (hr : findReg o k.regs = some (r, o)) (hs1 : s1 = s.setViewBuf req (k.addr i) ViewBuf.empty) :
    let x := s1.readWhole req ⟨k, i, k.addr i⟩ r o u
    x.2 = r.shown (s.regVal r (k.addr i + o)) ∧
    (∀ f ∈ r.fields, f.fld.get (x.1.regVal r (k.addr i + o)) = if f.acc = .rc then 0 else f.fld.get (s.regVal r (k.addr i + o))) ∧
    s.wordsBut x.1 [k.addr i + o, if r.wide then k.addr i + o + 4 else k.addr i + o] ∧ Within [.regs, .views, .agg] s x.1 ∧ x.1.out = s.out := by
  have htd := findReg_tidy hr
  intro x
  have hx : x = (if r.hasRc then s1.setReg r (k.addr i + o) (r.afterRead (s1.regVal r (k.addr i + o))) else s1, r.shown (s1.regVal r (k.addr i + o))) := by
    show s1.readWhole _ _ _ _ _ = _
    rw [State.readWhole, if_neg (by omega)]
    simp only [State.readEffect_stored _ _ _ _ _ _ _ _ hp, State.bodyRead_stored _ _ _ _ _ _ _ _ hp]
  have hv : s1.regVal r (k.addr i + o) = s.regVal r (k.addr i + o) := by rw [hs1]; rfl
  rw [hv] at hx
  have hw : Within [.regs, .views, .agg] s s1 := by rw [hs1]; exact Within.mono (State.setViewBuf_within ..) rfl
  have hwd : ∀ a, s1.word a = s.word a := fun a => by rw [hs1]; rfl
  rw [hx]
  refine ⟨rfl, ?_, ?_, ?_, ?_⟩
  · intro f hf
    dsimp only
    split
    · rw [show r.afterRead (s.regVal r (k.addr i + o)) = r.keep (fun a => decide (a ≠ .rc)) (s.regVal r (k.addr i + o)) from rfl, State.regVal_setReg _ _ _ (RegDef.keep_lt htd ..)]
      rw [RegDef.get_keep htd _ _ hf]
      by_cases e : f.acc = .rc <;> simp [e]
    · rename_i hrc
      rw [hv]
      rw [if_neg]
      intro e
      apply hrc
      simp only [RegDef.hasRc, List.any_eq_true, decide_eq_true_eq]
      exact ⟨f, hf, e⟩
  · intro b hb
    dsimp only
    split
    · rw [State.word_setReg, hwd]
      · rintro rfl; simp at hb
      · rintro hw rfl; simp [hw] at hb
    · exact hwd b
  · dsimp only
    split
    · exact Within.via (State.setReg_within ..) rfl hw
    · exact hw
  · dsimp only
    have : s1.out = s.out := by rw [hs1]; rfl
    split
    · rw [← this]; exact (State.setReg_within s1 r _ _).2 .out rfl
    · exact this

end Sys2Proof.Machine
end

