-- ==== Sys2Proof/Laws/FabricCommands.lean ====
section
/-! SUPPORT. What clock edges, upsets, scrubber visits and contention do to the fabric, and what a fault of a stall leaves. -/

namespace Sys2Proof.Machine

/-- A sum of two bits above a smaller number. -/

theorem pair_testBit (m n : Nat) (a b : Bool) (hm : m < 2 ^ (2 * n)) :
    m + b2n a * 2 ^ (2 * n) + b2n b * 2 ^ (2 * n + 1) < 2 ^ (2 * (n + 1)) ∧
    (∀ j, j < 2 * n → (m + b2n a * 2 ^ (2 * n) + b2n b * 2 ^ (2 * n + 1)).testBit j = m.testBit j) ∧
    (m + b2n a * 2 ^ (2 * n) + b2n b * 2 ^ (2 * n + 1)).testBit (2 * n) = a ∧
    (m + b2n a * 2 ^ (2 * n) + b2n b * 2 ^ (2 * n + 1)).testBit (2 * n + 1) = b := by
  have e : m + b2n a * 2 ^ (2 * n) + b2n b * 2 ^ (2 * n + 1) = 2 ^ (2 * n) * (b2n a + 2 * b2n b) + m := by
    rw [Nat.pow_succ, Nat.mul_add, Nat.mul_comm (b2n a), Nat.add_comm m]
    have : b2n b * (2 ^ (2 * n) * 2) = 2 ^ (2 * n) * (2 * b2n b) := by
      rw [Nat.mul_comm (b2n b), Nat.mul_assoc, Nat.mul_comm 2]
    omega
  have hx : b2n a + 2 * b2n b < 4 := by cases a <;> cases b <;> decide
  rw [e]
  refine ⟨?_, ?_, ?_, ?_⟩
  · have : 2 ^ (2 * (n + 1)) = 2 ^ (2 * n) * 4 := by rw [Nat.mul_add, Nat.pow_add]
    have h2 := Nat.mul_le_mul_left (2 ^ (2 * n)) (Nat.le_sub_one_of_lt hx)
    omega
  · intro j hj; rw [Nat.testBit_two_pow_mul_add _ hm, if_pos hj]
  · rw [Nat.testBit_two_pow_mul_add _ hm, if_neg (by omega), Nat.sub_self]; cases a <;> cases b <;> decide
  · rw [Nat.testBit_two_pow_mul_add _ hm, if_neg (by omega), Nat.add_sub_cancel_left]; cases a <;> cases b <;> decide

theorem tileFfs_bits (c : TileCfg) (i : TileIn) (ffs : Nat) : ∀ n, tileFfs c i ffs n < 2 ^ (2 * n) ∧ ∀ k kb, k < n →
    (tileFfs c i ffs n).testBit (2 * k + b2n kb) =
      ffNext (if kb then (c.cell k).kb else (c.cell k).ka) i (ffD c i k kb) (ffs.testBit (2 * k + b2n kb)) := by
  intro n
  induction n with
  | zero => exact ⟨Nat.zero_lt_one, fun k _ h => absurd h (by omega)⟩
  | succ n ih =>
    obtain ⟨h1, h2, h3, h4⟩ := pair_testBit (tileFfs c i ffs n) n (ffNext (c.cell n).ka i (ffD c i n false) (bitAt ffs (2 * n)))
      (ffNext (c.cell n).kb i (ffD c i n true) (bitAt ffs (2 * n + 1))) ih.1
    unfold tileFfs
    refine ⟨h1, ?_⟩
    intro k kb hk
    by_cases e : k = n
    · subst e
      cases kb
      · exact h3
      · exact h4
    · rw [h2 _ (by cases kb <;> simp only [b2n] <;> simp <;> omega)]
      exact ih.2 k kb (by omega)

theorem tileAsync_bits (c : TileCfg) (ffs : Nat) : ∀ n, tileAsyncFfs c ffs n < 2 ^ (2 * n) ∧ ∀ k kb, k < n →
    (tileAsyncFfs c ffs n).testBit (2 * k + b2n kb) =
      (let f := if kb then (c.cell k).kb else (c.cell k).ka
       if c.async && f.trstUse then xor f.trstVal f.inv else ffs.testBit (2 * k + b2n kb)) := by
  intro n
  induction n with
  | zero => exact ⟨Nat.zero_lt_one, fun k _ h => absurd h (by omega)⟩
  | succ n ih =>
    obtain ⟨h1, h2, h3, h4⟩ := pair_testBit (tileAsyncFfs c ffs n) n
      (if c.async && (c.cell n).ka.trstUse then xor (c.cell n).ka.trstVal (c.cell n).ka.inv else bitAt ffs (2 * n))
      (if c.async && (c.cell n).kb.trstUse then xor (c.cell n).kb.trstVal (c.cell n).kb.inv else bitAt ffs (2 * n + 1)) ih.1
    unfold tileAsyncFfs
    refine ⟨h1, ?_⟩
    intro k kb hk
    by_cases e : k = n
    · subst e
      cases kb
      · exact h3
      · exact h4
    · rw [h2 _ (by cases kb <;> simp only [b2n] <;> simp <;> omega)]
      exact ih.2 k kb (by omega)

theorem run_clockEdge (clk : ClockId) (falling : Bool) (e : ElemIn) (s : State) (hc : s.clocked = true) (hk : isClock clk = true) (he : isElem e = true) :
    exec (.clockEdge clk falling [e]) s = .next (s.clockEdge clk falling [e]) := exec_clockEdge _ _ _ _ (by simp [Instr.wf, hk, he]) hc

theorem setFfs_ffs (s : State) (sh tile v : Nat) : (s.setFfs sh tile v).ffs sh tile = v := by
  simp [State.setFfs, State.ffs]

theorem fmbLimit_eq (sat : Bool) (r : Int) :
    (fmbLimit sat r).2 = (decide (2 ^ 57 - 1 < r) || decide (r < -(2 ^ 57))) ∧
    (fmbLimit sat r).1 = if -(2 ^ 57) ≤ r ∧ r ≤ 2 ^ 57 - 1 then r else if sat then (if 0 < r then 2 ^ 57 - 1 else -(2 ^ 57)) else wrapS 58 r := by
  unfold fmbLimit
  have e57 : (2 : Int) ^ 57 = 144115188075855872 := rfl
  rw [e57]
  dsimp only
  by_cases h1 : (144115188075855872 : Int) - 1 < r
  · rw [if_pos h1]
    refine ⟨by simp only [h1, decide_true, Bool.true_or], ?_⟩
    rw [if_neg (show ¬ (-(144115188075855872 : Int) ≤ r ∧ r ≤ 144115188075855872 - 1) by omega)]
    cases sat
    · rfl
    · rw [if_pos rfl, if_pos rfl, if_pos (show 0 < r by omega)]
  · rw [if_neg h1]
    by_cases h2 : r < -(144115188075855872 : Int)
    · rw [if_pos h2]
      refine ⟨by simp only [h2, decide_true, Bool.or_true], ?_⟩
      rw [if_neg (show ¬ (-(144115188075855872 : Int) ≤ r ∧ r ≤ 144115188075855872 - 1) by omega)]
      cases sat
      · rfl
      · rw [if_pos rfl, if_pos rfl, if_neg (show ¬ 0 < r by omega)]
    · rw [if_neg h2]
      refine ⟨by simp only [h1, h2, decide_false, Bool.or_self], ?_⟩
      rw [if_pos (show (-(144115188075855872 : Int) ≤ r ∧ r ≤ 144115188075855872 - 1) by omega)]

theorem putBits_one (w k : Nat) (b : Bool) : (putBits w k 1 (b2n b)).testBit k = b := by
  have := Fld.get_set ⟨k, 1⟩ w (b2n b)
  unfold putBits
  unfold Fld.get at this
  rw [Nat.testBit_eq_decide_div_mod_eq]
  have h2 : (2 : Nat) ^ (⟨k, 1⟩ : Fld).width = 2 := rfl
  rw [h2] at this
  rw [this]
  cases b <;> decide

theorem State.endJobs_fget (s : State) (p : Job → Bool) (c d a : Nat) (f : Fld) : (s.endJobs p c d).fget a f = s.fget a f := rfl

theorem State.setStall_fget (s : State) (n : Nat) (x : Stall) (a : Nat) (f : Fld) : (s.setStall n x).fget a f = s.fget a f := rfl

theorem fault_tail (u : State) (n cause : Nat) (p : Job → Bool) (x : Stall) (hc : cause < 16) :
    ((((u.setStallState n stFAULTED).setStall n x).fset (rSTALL_STAT n) fSTALL_STAT_CAUSE cause).endJobs p 3 cause).stallState n = stFAULTED ∧
    ((((u.setStallState n stFAULTED).setStall n x).fset (rSTALL_STAT n) fSTALL_STAT_CAUSE cause).endJobs p 3 cause).fget (rSTALL_STAT n) fSTALL_STAT_CAUSE = cause := by
  constructor
  · unfold State.stallState
    rw [State.endJobs_fget, State.fget_fset_apart _ _ _ _ (by decide) (by decide) (by decide), State.setStall_fget]
    unfold State.setStallState
    rw [State.fget_fset_if _ _ _ _ (by decide), if_pos rfl]
    rfl
  · rw [State.endJobs_fget, State.fget_fset_if _ _ _ _ (by decide), if_pos rfl]
    exact Nat.mod_eq_of_lt hc

theorem fget_raiseFault (s : State) (n cause : Nat) (shed : Option Nat) (h : s.stallState n = stLIVE ∨ s.stallState n = stFILL) (hc : cause < 16) :
    (s.raiseFault n cause shed).stallState n = stFAULTED ∧ (s.raiseFault n cause shed).fget (rSTALL_STAT n) fSTALL_STAT_CAUSE = cause := by
  have h1 : ¬ (s.stallState n ≠ stLIVE ∧ s.stallState n ≠ stFILL ∧ s.stallState n ≠ stSWAPPING ∧ s.stallState n ≠ stFAULTED) := by
    rcases h with h | h <;> rw [h] <;> decide
  have h2 : ¬ s.stallState n = stFAULTED := by rcases h with h | h <;> rw [h] <;> decide
  have h3 : ¬ s.stallState n = stSWAPPING := by rcases h with h | h <;> rw [h] <;> decide
  unfold State.raiseFault
  dsimp only
  rw [if_neg h1, if_neg h2, if_neg h3]
  exact fault_tail _ _ _ _ _ hc

theorem setFifoOvr_bm (s : State) (sh b : Nat) (v : Bool) (x y : Nat) : (s.setFifoOvr sh b v).bm x y = s.bm x y := by
  unfold State.setFifoOvr
  split <;> (unfold State.bm; rw [State.setBit_fab])

theorem setBm_bm (s : State) (sh b : Nat) (x : Bm) : (s.setBm sh b x).bm sh b = x := by simp [State.setBm, State.bm]

theorem xor_pow_testBit (v tap k : Nat) : (Nat.xor v (2 ^ tap)).testBit k = xor (v.testBit k) (decide (k = tap)) := by
  show (v ^^^ 2 ^ tap).testBit k = _
  rw [Nat.testBit_xor, Nat.testBit_two_pow]
  by_cases e : k = tap
  · simp [e]
  · simp [show ¬ tap = k from fun h => e h.symm, show ¬ k = tap from e]

theorem flipLut_upsetMask (s : State) (sh p frame word mask k : Nat) : (s.flipLut sh p frame word mask).upsetMask k = s.upsetMask k := by
  unfold State.flipLut
  split
  · rfl
  · rfl

theorem setUpset_mask (s : State) (k v j : Nat) : (s.setUpset k v).upsetMask j = if j = k then v else s.upsetMask j := by
  unfold State.setUpset State.upsetMask
  exact smGet_smSet ..

theorem setScrubPos_regs (s : State) (y : Nat) (p : ScrubPos) : (s.setScrubPos y p).regs = s.regs := rfl

theorem setScrubPos_pos (s : State) (y : Nat) (p : ScrubPos) : (s.setScrubPos y p).scrubPos y = p := by simp [State.setScrubPos, State.scrubPos]

theorem scrubPos_fab {s t : State} (h : t.fab = s.fab) (y : Nat) : t.scrubPos y = s.scrubPos y := by unfold State.scrubPos; rw [h]

theorem upsetMask_fab {s t : State} (h : t.fab = s.fab) (k : Nat) : t.upsetMask k = s.upsetMask k := by unfold State.upsetMask; rw [h]

theorem scrubMove_facts (s : State) (y : Nat) (p : ScrubPos) :
    ((s.scrubMove y p).scrubPos y = if p.shed < 48 then p else { p with shed := 0, frame := 0, bg := false }) ∧
    s.wordsBut (s.scrubMove y p) [rSCRUB_STAT y] ∧ (∀ k, (s.scrubMove y p).upsetMask k = s.upsetMask k) := by
  unfold State.scrubMove
  split
  · refine ⟨?_, ?_, ?_⟩
    · rw [scrubPos_fab (State.fset_fab ..), scrubPos_fab (State.fset_fab ..), setScrubPos_pos]
    · refine State.wordsBut_trans (State.wordsBut_of_regs _ (setScrubPos_regs s y p)) ?_
      refine State.wordsBut_trans (State.wordsBut_fset _ (f := fSCRUB_STAT_SHED) p.shed (by decide) (List.mem_singleton.mpr rfl)) ?_
      exact State.wordsBut_fset _ _ (by decide) (List.mem_singleton.mpr rfl)
    · intro k
      rw [upsetMask_fab (State.fset_fab ..), upsetMask_fab (State.fset_fab ..)]; rfl
  · refine ⟨?_, ?_, ?_⟩
    · dsimp only
      rw [scrubPos_fab (State.wr32_fab ..), setScrubPos_pos]
    · exact State.wordsBut_trans (State.wordsBut_of_regs _ (setScrubPos_regs ..)) (State.wordsBut_wr32 _ _ (List.mem_singleton.mpr rfl))
    · intro k
      dsimp only
      rw [upsetMask_fab (State.wr32_fab ..)]; rfl

theorem shedFault_none (s : State) (sh c : Nat) (h : s.shedOwner sh = none) : s.shedFault sh c = s := by unfold State.shedFault; rw [h]

theorem shedAt_lt {c r : Nat} (hc : c < 16) (hr : r < 24) : shedAt c r < 384 := by
  have : ∀ c < 16, ∀ r < 24, shedAt c r < 384 := by decide +kernel
  exact this c hc r hr

theorem tapShed_lt {t k : Nat} (ht : tribExists t = true) (hk : k < tribTaps t) : tapShed t k < 384 := by
  unfold tribExists at ht
  unfold tribTaps at hk
  unfold tapShed
  split at ht <;> rename_i h
  · rw [if_pos h] at hk ⊢
    simp at ht
    exact shedAt_lt hk ht.1
  · rw [if_neg h] at hk ⊢
    exact shedAt_lt (Nat.mod_lt _ (by decide)) hk

theorem flag_set_one (s : State) {a : Nat} {f : Fld} (hf : f.lo + f.width ≤ 32) (h1 : f.width = 1) : (s.fset a f 1).flag a f = true := by
  unfold State.flag
  rw [State.fget_fset_if _ _ _ _ hf, if_pos rfl, h1]; rfl

theorem satInc_lt (w v : Nat) : satInc w v < 2 ^ w := by
  unfold satInc
  have := Nat.two_pow_pos w
  split <;> omega

theorem fget_finc (s : State) {a : Nat} {f : Fld} (hf : f.lo + f.width ≤ 32) : (s.finc a f).fget a f = satInc f.width (s.fget a f) := by
  unfold State.finc
  rw [State.fget_fset_if _ _ _ _ hf, if_pos rfl, Nat.mod_eq_of_lt (satInc_lt _ _)]

/-- Where no shed of the list is owned, the contention bits set and nothing else happens. -/

theorem contention_fold (l : List Nat) (f : Nat → Nat) : ∀ (u : State), (∀ k ∈ l, f k < 384) → (∀ k ∈ l, u.shedOwner (f k) = none) →
    let v := l.foldl (fun u k => (u.fset (rTRIB_STAT (f k)) fTRIB_STAT_CONTENTION 1).shedFault (f k) cTRIB_CONTENTION) u
    u.wordsBut v (l.map (fun k => rTRIB_STAT (f k))) ∧ (∀ k ∈ l, v.flag (rTRIB_STAT (f k)) fTRIB_STAT_CONTENTION = true) ∧ Within [.regs, .agg] u v ∧
      (∀ sh, u.flag (rTRIB_STAT sh) fTRIB_STAT_CONTENTION = true → v.flag (rTRIB_STAT sh) fTRIB_STAT_CONTENTION = true) := by
  induction l with
  | nil => intro u _ _; exact ⟨State.wordsBut_of_regs _ rfl, fun _ h => absurd h List.not_mem_nil, Within.refl _ _, fun _ h => h⟩
  | cons k l ih =>
    intro u hl ho
    have hk := hl k List.mem_cons_self
    have hown : ∀ x, x < 384 → ∀ k', k' < 384 → (u.fset (rTRIB_STAT k') fTRIB_STAT_CONTENTION 1).shedOwner x = u.shedOwner x := by
      intro x hx k' hk'
      unfold State.shedOwner
      rw [State.rd32_fset _ _ _ _ (by decide), if_neg (show ¬ rPLANE_STAT x = rTRIB_STAT k' from fun e => ?_)]
      exact absurd (addr_inj (k := .shedCfg) (l := .shedTrib) (i := x) (j := k') (o := 0x040) (q := 0x044) hx hk' (by decide) (by decide) e).1 (by decide)
    have h1 : (u.fset (rTRIB_STAT (f k)) fTRIB_STAT_CONTENTION 1).shedFault (f k) cTRIB_CONTENTION = u.fset (rTRIB_STAT (f k)) fTRIB_STAT_CONTENTION 1 :=
      shedFault_none _ _ _ (by rw [hown _ hk _ hk]; exact ho k List.mem_cons_self)
    obtain ⟨a1, a2, a3, a4⟩ := ih (u.fset (rTRIB_STAT (f k)) fTRIB_STAT_CONTENTION 1) (fun x hx => hl x (List.mem_cons_of_mem _ hx))
      (fun x hx => by rw [hown _ (hl x (List.mem_cons_of_mem _ hx)) _ hk]; exact ho x (List.mem_cons_of_mem _ hx))
    dsimp only
    rw [List.foldl_cons, h1]
    refine ⟨?_, ?_, ?_, ?_⟩
    · refine State.wordsBut_trans (State.wordsBut_fset _ (f := fTRIB_STAT_CONTENTION) 1 (by decide) (by simp)) (State.wordsBut_mono a1 (fun a ha => List.mem_cons_of_mem _ ha))
    · intro x hx
      rcases List.mem_cons.mp hx with e | hx
      · subst e; exact a4 _ (flag_set_one _ (by decide) rfl)
      · exact a2 x hx
    · exact Within.trans (State.fset_within ..) a3
    · intro sh h
      apply a4
      unfold State.flag at h ⊢
      rw [State.fget_fset_if _ _ _ _ (by decide)]
      split
      · rfl
      · exact h

theorem contention_unowned (s : State) (tr : Nat) (hc : s.clocked = true) (ht : tribExists tr = true) :
    let sheds := ((List.range (tribTaps tr)).filter (fun k => (s.checkedTaps tr).contains k ||
      (s.tapOwned tr k && (s.liveCfg (tapShed tr k)).taps.any (fun x => x.1 = tribSlot tr)))).map (tapShed tr)
    (s.blockedTaps tr ≠ [] → (∀ sh ∈ sheds, s.shedOwner sh = none) → (s.trib tr).live.getD 0 < 32 → (s.trib tr).owner.getD 0 < 32 → Answers (.tribContention tr) s fun t =>
      t.fget (rTRIB_CONT_LAST 0) fTRIB_CONT_LAST_VALID = 1 ∧ t.fget (rTRIB_CONT_LAST 0) fTRIB_CONT_LAST_TRIB_ID = tr ∧
      t.fget (rTRIB_CONT_COUNT 0) fTRIB_CONT_COUNT_COUNT = satInc 16 (s.fget (rTRIB_CONT_COUNT 0) fTRIB_CONT_COUNT_COUNT) ∧
      t.bit (rIRQ_RAW (PageKind.tribCtl.addr 0)) 0 = true ∧
      (∀ sh ∈ sheds, t.flag (rTRIB_STAT sh) fTRIB_STAT_CONTENTION = true) ∧ Within [.regs, .agg] s t) := by
  intro sheds hb ho hlive howner
  refine Answers.intro (exec_tribContention _ _ ht hc) ?_
  have hW := State.contention_within s tr
  let rec_ := 2 ^ 31 + tr % 2 ^ 15 * 2 ^ 16 + (((s.checkedTaps tr).find? (fun k => s.tapOwned tr k)).getD 0x1F) * 2 ^ 11 + (s.trib tr).live.getD 0 * 2 ^ 6 + b2n (s.trib tr).live.isNone * 2 ^ 5 + (s.trib tr).owner.getD 0
  have hwin : ((s.checkedTaps tr).find? (fun k => s.tapOwned tr k)).getD 0x1F < 32 := by
    cases hf : (s.checkedTaps tr).find? (fun k => s.tapOwned tr k) with
    | none => decide
    | some k =>
      have h1 := List.mem_of_find?_eq_some hf
      have h2 : k < tribTaps tr := by
        have := List.mem_filter.mp (List.mem_filter.mp h1).1
        simpa using this.1
      have : tribTaps tr ≤ 24 := by unfold tribTaps; split <;> decide
      show k < 32
      omega
  have hb2 : b2n (s.trib tr).live.isNone < 2 := by cases (s.trib tr).live.isNone <;> decide
  have htr : tr < 2 ^ 15 := by
    unfold tribExists at ht
    split at ht
    · omega
    · simp at ht; omega
  let s1 := (((s.wr32 (rTRIB_CONT_LAST 0) rec_).wr32 (rTRIB_CONT_TAPS 0) ((s.effTaps tr).foldl (fun n k => n + 2 ^ k) 0)).finc (rTRIB_CONT_COUNT 0)
    fTRIB_CONT_COUNT_COUNT).irq (PageKind.tribCtl.addr 0) 0
  let l := (List.range (tribTaps tr)).filter (fun k => (s.checkedTaps tr).contains k || (s.tapOwned tr k && (s.liveCfg (tapShed tr k)).taps.any (fun x => x.1 = tribSlot tr)))
  have e : s.contention tr = l.foldl (fun u k => (u.fset (rTRIB_STAT (tapShed tr k)) fTRIB_STAT_CONTENTION 1).shedFault (tapShed tr k) cTRIB_CONTENTION) s1 := by
    unfold State.contention
    rw [if_neg hb]
  have hl : ∀ k ∈ l, tapShed tr k < 384 := by
    intro k hk
    exact tapShed_lt ht (by simpa using (List.mem_filter.mp hk).1)
  have hs1 : s.wordsBut s1 [rTRIB_CONT_LAST 0, rTRIB_CONT_TAPS 0, rTRIB_CONT_COUNT 0, PageKind.tribCtl.addr 0 + 0x010] := by
    exact ((((State.wordsBut_refl s _).wr32 (by simp)).wr32 (by simp)).finc (by decide) (by simp)).irq (by decide) (by simp)
  have hap : ∀ k ∈ l, ∀ q, q < 4096 → rTRIB_STAT (tapShed tr k) ≠ PageKind.addr .tribCtl 0 + q := by
    intro k hk q hq h
    exact absurd (addr_inj (k := .shedTrib) (l := .tribCtl) (i := tapShed tr k) (j := 0) (o := 0x044) (q := q) (hl k hk) (by decide) (by decide) hq h).1 (by decide)
  have hows : ∀ k ∈ l, s1.shedOwner (tapShed tr k) = none := by
    intro k hk
    rw [← ho (tapShed tr k) (List.mem_map.mpr ⟨k, hk, rfl⟩)]
    unfold State.shedOwner
    have : s1.rd32 (rPLANE_STAT (tapShed tr k)) = s.rd32 (rPLANE_STAT (tapShed tr k)) := by
      unfold State.rd32
      rw [hs1 _]
      have hz : ∀ q, q < 4096 → rPLANE_STAT (tapShed tr k) ≠ PageKind.addr .tribCtl 0 + q := fun q hq h =>
        absurd (addr_inj (k := .shedCfg) (l := .tribCtl) (i := tapShed tr k) (j := 0) (o := 0x040) (q := q) (hl k hk) (by decide) (by decide) hq h).1 (by decide)
      simp [rTRIB_CONT_LAST, rTRIB_CONT_TAPS, rTRIB_CONT_COUNT, hz]
    rw [this]
  obtain ⟨a1, a2, a3, -⟩ := contention_fold l (tapShed tr) s1 hl hows
  have hkeep : ∀ q, q < 4096 → (l.map (fun k => rTRIB_STAT (tapShed tr k))).contains (PageKind.addr .tribCtl 0 + q) = false := by
    intro q hq
    cases h : (l.map (fun k => rTRIB_STAT (tapShed tr k))).contains (PageKind.addr .tribCtl 0 + q)
    · rfl
    · obtain ⟨k, hk, hk'⟩ := List.mem_map.mp (List.contains_iff_mem.mp h)
      exact absurd hk' (hap k hk q hq)
  rw [e]
  have hlast : s1.rd32 (rTRIB_CONT_LAST 0) = rec_ := by
    have h0 : ((s.wr32 (rTRIB_CONT_LAST 0) rec_).wordsBut s1 [rTRIB_CONT_TAPS 0, rTRIB_CONT_COUNT 0, PageKind.tribCtl.addr 0 + 0x010]) := by
      exact (((State.wordsBut_refl (s.wr32 (rTRIB_CONT_LAST 0) rec_) _).wr32 (by simp)).finc (by decide) (by simp)).irq (by decide) (by simp)
    unfold State.rd32
    rw [h0 _ (by decide)]
    show State.rd32 _ _ = _
    rw [State.rd32_wr32_if, if_pos rfl]
    apply Nat.mod_eq_of_lt
    show rec_ < _
    omega
  refine ⟨?_, ?_, ?_, ?_, ?_, ?_⟩
  · rw [State.fget_wordsBut a1 (rTRIB_CONT_LAST 0) (hkeep 0x040 (by decide)) (by decide), State.fget_word _ _ (by decide), hlast]
    show rec_ / 2 ^ 31 % 2 ^ 1 = 1
    omega
  · rw [State.fget_wordsBut a1 (rTRIB_CONT_LAST 0) (hkeep 0x040 (by decide)) (by decide), State.fget_word _ _ (by decide), hlast]
    show rec_ / 2 ^ 16 % 2 ^ 15 = tr
    omega
  · rw [State.fget_wordsBut a1 (rTRIB_CONT_COUNT 0) (hkeep 0x048 (by decide)) (by decide)]
    show State.fget (State.irq _ _ _) _ _ = _
    rw [State.fget_wordsBut (State.wordsBut_irq (l := [PageKind.tribCtl.addr 0 + 0x010]) _ (by decide) (by simp)) _ (by decide) (by decide), fget_finc _ (by decide),
      State.fget_wordsBut (State.wordsBut_wr32 (l := [rTRIB_CONT_TAPS 0]) _ _ (by simp)) _ (by decide) (by decide),
      State.fget_wordsBut (State.wordsBut_wr32 (l := [rTRIB_CONT_LAST 0]) _ _ (by simp)) _ (by decide) (by decide)]
    rfl
  · rw [State.bit_wordsBut a1 (rIRQ_RAW (PageKind.tribCtl.addr 0)) _ (hkeep 0x010 (by decide)) (by decide)]
    show State.bit (State.irq _ _ _) _ _ = _
    rw [State.bit_irq _ _ _ _ _ (by decide) (by decide), if_pos ⟨rfl, rfl⟩]
  · intro sh hsh
    obtain ⟨k, hk, rfl⟩ := List.mem_map.mp hsh
    exact a2 k hk
  · refine Within.via a3 rfl ?_
    exact Within.via (State.irq_within ..) rfl (Within.via (State.finc_within ..) rfl (Within.via (State.wr32_within ..) rfl (Within.mono (State.wr32_within ..) rfl)))

theorem contention_owned (s : State) (tr : Nat) (hc : s.clocked = true) (ht : tribExists tr = true) :
    let sheds := ((List.range (tribTaps tr)).filter (fun k => (s.checkedTaps tr).contains k ||
      (s.tapOwned tr k && (s.liveCfg (tapShed tr k)).taps.any (fun x => x.1 = tribSlot tr)))).map (tapShed tr)
    (∀ sh n, s.blockedTaps tr ≠ [] → sheds = [sh] → s.shedOwner sh = some n → n < 32 → s.stallState n = stLIVE → Answers (.tribContention tr) s fun t =>
      t.stallState n = stFAULTED ∧ t.fget (rSTALL_STAT n) fSTALL_STAT_CAUSE = cTRIB_CONTENTION ∧ Evolves s t) := by
  intro sheds sh n hb hsh hown hn hlive
  refine Answers.intro (exec_tribContention _ _ ht hc) ?_
  have hW := State.contention_within s tr
  let l := (List.range (tribTaps tr)).filter (fun k => (s.checkedTaps tr).contains k || (s.tapOwned tr k && (s.liveCfg (tapShed tr k)).taps.any (fun x => x.1 = tribSlot tr)))
  have hmap : l.map (tapShed tr) = [sh] := hsh
  obtain ⟨k, hk, hks⟩ : ∃ k, l = [k] ∧ tapShed tr k = sh := by
    generalize l = l' at hmap
    match l', hmap with
    | [k], hmap => exact ⟨k, rfl, by simpa using hmap⟩
  have hkr : tapShed tr k < 384 := tapShed_lt ht (by
    have : k ∈ l := by rw [hk]; exact List.mem_singleton.mpr rfl
    simpa using (List.mem_filter.mp this).1)
  rw [hks] at hkr
  have e : ∃ u : State, s.wordsBut u [rTRIB_CONT_LAST 0, rTRIB_CONT_TAPS 0, rTRIB_CONT_COUNT 0, PageKind.tribCtl.addr 0 + 0x010, rTRIB_STAT sh] ∧ s.contention tr = u.shedFault sh cTRIB_CONTENTION := by
    have : ∃ a b, s.contention tr = (State.fset ((((s.wr32 (rTRIB_CONT_LAST 0) a).wr32 (rTRIB_CONT_TAPS 0) b).finc (rTRIB_CONT_COUNT 0) fTRIB_CONT_COUNT_COUNT).irq (PageKind.tribCtl.addr 0) 0) (rTRIB_STAT sh) fTRIB_STAT_CONTENTION 1).shedFault sh cTRIB_CONTENTION := by
      have h1 : ∃ a b, s.contention tr = l.foldl (fun u k => (u.fset (rTRIB_STAT (tapShed tr k)) fTRIB_STAT_CONTENTION 1).shedFault (tapShed tr k) cTRIB_CONTENTION) ((((s.wr32 (rTRIB_CONT_LAST 0) a).wr32 (rTRIB_CONT_TAPS 0) b).finc (rTRIB_CONT_COUNT 0) fTRIB_CONT_COUNT_COUNT).irq (PageKind.tribCtl.addr 0) 0) := by
        unfold State.contention
        rw [if_neg hb]
        exact ⟨_, _, rfl⟩
      obtain ⟨a, b, h1⟩ := h1
      refine ⟨a, b, ?_⟩
      rw [h1, hk, ← hks, List.foldl_cons, List.foldl_nil]
    obtain ⟨a, b, e⟩ := this
    exact ⟨_, (((((State.wordsBut_refl s _).wr32 (by simp)).wr32 (by simp)).finc (by decide) (by simp)).irq (by decide) (by simp)).fset (by decide) (by simp), e⟩
  obtain ⟨u, hu, e⟩ := e
  have hz : ∀ {K : PageKind} {i o : Nat}, i < K.count → o < 4096 → K ≠ .tribCtl → K ≠ .shedTrib →
      [rTRIB_CONT_LAST 0, rTRIB_CONT_TAPS 0, rTRIB_CONT_COUNT 0, PageKind.tribCtl.addr 0 + 0x010, rTRIB_STAT sh].contains (K.addr i + o) = false := by
    intro K i o hi ho h1 h2
    have hz1 : ∀ q, q < 4096 → K.addr i + o ≠ PageKind.addr .tribCtl 0 + q := fun q hq h =>
        absurd (addr_inj (k := K) (l := .tribCtl) (i := i) (j := 0) (o := o) (q := q) hi (by decide) ho hq h).1 h1
    have hz2 : ∀ q, q < 4096 → K.addr i + o ≠ PageKind.addr .shedTrib sh + q := fun q hq h =>
        absurd (addr_inj (k := K) (l := .shedTrib) (i := i) (j := sh) (o := o) (q := q) hi hkr ho hq h).1 h2
    simp [rTRIB_CONT_LAST, rTRIB_CONT_TAPS, rTRIB_CONT_COUNT, rTRIB_STAT, hz1, hz2]
  have ho' : u.shedOwner sh = some n := by
    rw [← hown]
    unfold State.shedOwner
    have : u.rd32 (rPLANE_STAT sh) = s.rd32 (rPLANE_STAT sh) := by
      unfold State.rd32
      rw [hu (rPLANE_STAT sh) (hz (K := .shedCfg) (i := sh) (o := 0x040) hkr (by decide) (by decide) (by decide))]
    rw [this]
  have hst : u.stallState n = stLIVE := by
    rw [← hlive]
    exact State.fget_wordsBut hu _ (hz (K := .stall) (i := n) (o := 0x040) hn (by decide) (by decide) (by decide)) (by decide)
  rw [e] at hW ⊢
  have e2 : u.shedFault sh cTRIB_CONTENTION = u.raiseFault n cTRIB_CONTENTION (some sh) := by unfold State.shedFault; rw [ho']
  obtain ⟨h1, h2⟩ := fget_raiseFault u n cTRIB_CONTENTION (some sh) (.inl hst) (by decide)
  rw [e2] at hW ⊢
  exact ⟨h1, h2, hW.1⟩

end Sys2Proof.Machine
end

