-- ==== Sys2Proof/Laws/Packets.lean ====
section
/-! SUPPORT. Header fields, packets and endpoint queues: what reading gives after a write. -/

namespace Sys2Proof.Machine

@[simp] theorem hget_hset (h : Header) {f : Fld} (v : Nat) (hf : f.lo + f.width ≤ 512) : hget (hset h f v) f = v % 2 ^ f.width := by
  unfold hget hset
  rw [BitVec.toNat_ofNat, Nat.mod_eq_of_lt (Fld.set_lt _ _ _ _ h.isLt hf), Fld.get_set]

theorem hget_hset_ne (h : Header) {f g : Fld} (v : Nat) (hf : f.lo + f.width ≤ 512) (ha : g.lo + g.width ≤ f.lo ∨ f.lo + f.width ≤ g.lo) :
    hget (hset h f v) g = hget h g := by
  unfold hget hset
  rw [BitVec.toNat_ofNat, Nat.mod_eq_of_lt (Fld.set_lt _ _ _ _ h.isLt hf), Fld.get_set_ne _ _ _ _ ha]

theorem State.pkt_mil {s t : State} (h : t.mil = s.mil) (i : Nat) : t.pkt i = s.pkt i := by unfold State.pkt; rw [h]

theorem State.ep_mil {s t : State} (h : t.mil = s.mil) (e : Nat) : t.ep e = s.ep e := by unfold State.ep; rw [h]

theorem State.setEp_ep (s : State) (n : Nat) (x : Ep) (m : Nat) : (s.setEp n x).ep m = if m = n then x else s.ep m := smGet_smSet ..

@[simp] theorem State.setEp_pkt (s : State) (n : Nat) (x : Ep) (m : Nat) : (s.setEp n x).pkt m = s.pkt m := rfl

theorem State.setPkt_pkt (s : State) (n : Nat) (p : Pkt) (m : Nat) : (s.setPkt n p).pkt m = if m = n then p else s.pkt m := smGet_smSet ..

@[simp] theorem State.setPkt_ep (s : State) (n : Nat) (p : Pkt) (m : Nat) : (s.setPkt n p).ep m = s.ep m := rfl

theorem State.newPkt_pkt (s : State) (p : Pkt) (m : Nat) : (s.newPkt p).1.pkt m = if m = s.mil.next then p else s.pkt m := smGet_smSet ..

@[simp] theorem State.newPkt_ep (s : State) (p : Pkt) (m : Nat) : (s.newPkt p).1.ep m = s.ep m := rfl

/-- A packet put at the end of an IN queue: it is the packet of the next number, and the one queue ends with that number. -/
theorem State.pushIn_facts (s : State) (e : Nat) (p : Pkt) :
    (s.pushIn e p).pkt s.mil.next = { p with place := .inQ } ∧ (∀ m, m ≠ s.mil.next → (s.pushIn e p).pkt m = s.pkt m) ∧
    (s.pushIn e p).ep e = (s.ep e).setIn (isRsp p.hdr) ((s.ep e).inQ (isRsp p.hdr) ++ [s.mil.next]) ∧
    (∀ m, m ≠ e → (s.pushIn e p).ep m = s.ep m) ∧ (s.pushIn e p).mil.next = s.mil.next + 1 ∧ (s.pushIn e p).mil.track = s.mil.track := by
  unfold State.pushIn
  dsimp only
  refine ⟨?_, ?_, ?_, ?_, rfl, rfl⟩
  · rw [State.setEp_pkt]; exact (State.newPkt_pkt ..).trans (if_pos rfl)
  · intro m hm; rw [State.setEp_pkt]; exact (State.newPkt_pkt ..).trans (if_neg hm)
  · rw [State.setEp_ep, if_pos rfl]; rfl
  · intro m hm; rw [State.setEp_ep, if_neg hm]; rfl

/-- A packet put at the end of an OUT queue. -/
theorem State.pushOut_facts (s : State) (e : Nat) (p : Pkt) :
    (s.pushOut e p).pkt s.mil.next = { p with place := .outQ } ∧ (∀ m, m ≠ s.mil.next → (s.pushOut e p).pkt m = s.pkt m) ∧
    (s.pushOut e p).ep e = (s.ep e).setOut (isRsp p.hdr) ((s.ep e).outQ (isRsp p.hdr) ++ [s.mil.next]) ∧
    (∀ m, m ≠ e → (s.pushOut e p).ep m = s.ep m) ∧ (s.pushOut e p).mil.next = s.mil.next + 1 ∧ (s.pushOut e p).mil.track = s.mil.track := by
  unfold State.pushOut
  dsimp only
  refine ⟨?_, ?_, ?_, ?_, rfl, rfl⟩
  · rw [State.setEp_pkt]; exact (State.newPkt_pkt ..).trans (if_pos rfl)
  · intro m hm; rw [State.setEp_pkt]; exact (State.newPkt_pkt ..).trans (if_neg hm)
  · rw [State.setEp_ep, if_pos rfl]; rfl
  · intro m hm; rw [State.setEp_ep, if_neg hm]; rfl

theorem State.reqHdr_other (s : State) {h : Header} (h1 : hget h hTYPE ≠ tRD) (h2 : hget h hTYPE ≠ tMSG) : s.reqHdr h = h :=
  if_neg (by simp [h1, h2])

/-! ### Packets gone from their endpoints -/

/-- Packet i gone from endpoint e: the packet table and the endpoint's queues forget it; every other packet and endpoint stays. -/
theorem State.killPkt_facts (s : State) (e i : Nat) :
    (∀ m, (s.killPkt e i).pkt m = if m = i then Pkt.none else s.pkt m) ∧
    (s.killPkt e i).ep e = (s.unqueue e i).ep e ∧ (∀ m, m ≠ e → (s.killPkt e i).ep m = s.ep m) ∧
    (s.killPkt e i).mil.next = s.mil.next ∧ (s.killPkt e i).mil.track = s.mil.track ∧ (s.killPkt e i).regs = s.regs ∧ (s.killPkt e i).fresh = s.fresh := by
  unfold State.killPkt State.delPkt
  have hn : ∀ (t : State) (p : Pkt), (t.setPkt i p).mil.next = t.mil.next ∧ (t.setPkt i p).mil.track = t.mil.track ∧ (t.setPkt i p).regs = t.regs ∧ (t.setPkt i p).fresh = t.fresh :=
    fun _ _ => ⟨rfl, rfl, rfl, rfl⟩
  refine ⟨?_, ?_, ?_, (hn _ _).1, (hn _ _).2.1, (hn _ _).2.2.1, (hn _ _).2.2.2⟩
  · intro m
    have h : (s.unqueue e i).pkt m = s.pkt m := rfl
    rw [State.setPkt_pkt, h]
  · rw [State.setPkt_ep]
  · intro m hm; rw [State.setPkt_ep]; unfold State.unqueue; exact (State.setEp_ep ..).trans (if_neg hm)

theorem State.unqueue_ep (s : State) (e i : Nat) : (s.unqueue e i).ep e = { s.ep e with
    reqIn := (s.ep e).reqIn.filter (fun j => j ≠ i), rspIn := (s.ep e).rspIn.filter (fun j => j ≠ i),
    reqOut := (s.ep e).reqOut.filter (fun j => j ≠ i), rspOut := (s.ep e).rspOut.filter (fun j => j ≠ i),
    curIn := if (s.ep e).curIn = some i then none else (s.ep e).curIn, curOut := if (s.ep e).curOut = some i then none else (s.ep e).curOut } := by
  unfold State.unqueue
  exact (State.setEp_ep ..).trans (if_pos rfl)

/-! ### Responses -/

/-- A made response: who it answers, and with what; ADDR, BE and EXT are free. -/
theorem openRsp_facts (s : State) (h : Header) (status lines : Nat) (hs : status < 16) (hl : lines < 8) :
    hget (s.openRsp h status lines) hDST = hget h hSRC ∧ hget (s.openRsp h status lines) hSRC = hget h hDST ∧
    hget (s.openRsp h status lines) hSTALL = hget h hSTALL ∧ hget (s.openRsp h status lines) hKEY = hget h hKEY ∧
    hget (s.openRsp h status lines) hQOS = hget h hQOS ∧ hget (s.openRsp h status lines) hORD = hget h hORD ∧
    hget (s.openRsp h status lines) hTYPE = rspTypeOf (hget h hTYPE) ∧ hget (s.openRsp h status lines) hLINES = lines ∧
    hget (s.openRsp h status lines) hTAG = hget h hTAG ∧ hget (s.openRsp h status lines) hSTATUS = status := by
  have hlt : ∀ f : Fld, hget h f % 2 ^ f.width = hget h f := fun f => Nat.mod_eq_of_lt (Fld.get_lt ..)
  have ht : rspTypeOf (hget h hTYPE) % 2 ^ hTYPE.width = rspTypeOf (hget h hTYPE) := by unfold rspTypeOf; repeat' split
                                                                                        all_goals rfl
  unfold State.openRsp openFields rspHdr
  refine ⟨?_, ?_, ?_, ?_, ?_, ?_, ?_, ?_, ?_, ?_⟩
  all_goals simp (disch := decide) only [hget_hset_ne, hget_hset]
  · exact hlt hSRC
  · exact hlt hDST
  · exact hlt hSTALL
  · exact hlt hKEY
  · exact hlt hQOS
  · exact hlt hORD
  · exact ht
  · exact Nat.mod_eq_of_lt hl
  · exact hlt hTAG
  · exact Nat.mod_eq_of_lt hs

theorem isRsp_openRsp (s : State) (h : Header) (status lines : Nat) (hs : status < 16) (hl : lines < 8) : isRsp (s.openRsp h status lines) = true := by
  unfold isRsp
  rw [(openRsp_facts s h status lines hs hl).2.2.2.2.2.2.1]
  unfold rspTypeOf
  repeat' split
  all_goals rfl

theorem hset_self (h : Header) (f : Fld) : hset h f (hget h f) = h := by
  have hs : ∀ v : Nat, f.set v (f.get v) = v := by
    intro v
    refine Nat.eq_of_testBit_eq fun k => ?_
    by_cases hk : k < f.lo ∨ f.lo + f.width ≤ k
    · rw [Fld.testBit_set _ _ _ _ hk]
    · have h1 : (f.get (f.set v (f.get v))).testBit (k - f.lo) = (f.get v).testBit (k - f.lo) := by
        rw [Fld.get_set, Nat.mod_eq_of_lt (Fld.get_lt ..)]
      unfold Fld.get at h1
      rw [Nat.testBit_mod_two_pow, Nat.testBit_mod_two_pow, Nat.testBit_div_two_pow, Nat.testBit_div_two_pow,
        show k - f.lo + f.lo = k by omega] at h1
      have hlt : k - f.lo < f.width := by omega
      unfold Fld.get
      simpa [hlt] using h1
  unfold hset hget
  rw [hs, BitVec.ofNat_toNat, BitVec.setWidth_eq]

/-! ### Completions -/

theorem State.trackAt_mil {s t : State} (h : t.mil.track = s.mil.track) (e tag : Nat) : t.trackAt e tag = s.trackAt e tag := by
  unfold State.trackAt; rw [h]

/-- R191: a completion that is not OK is recorded in EP_ERR_LAST and raises IRQ_RAW[0]; it moves no packet. -/
theorem State.noteCompletion_facts (s : State) (e peer tag status : Nat) (hs : status ≠ stOK) :
    (s.noteCompletion e peer tag status).rd32 (rEP_ERR_LAST e) = 2 ^ 31 + status % 16 * 2 ^ 27 + peer % 1024 * 2 ^ 17 + tag % 1024 * 2 ^ 7 ∧
    (s.noteCompletion e peer tag status).bit (rIRQ_RAW (PageKind.milEp.addr e)) 0 = true ∧ (s.noteCompletion e peer tag status).mil = s.mil ∧
    s.wordsBut (s.noteCompletion e peer tag status) [rEP_ERR_CNT e, rEP_ERR_LAST e, rIRQ_RAW (PageKind.milEp.addr e)] := by
  have hlast : (2 ^ 31 + status % 16 * 2 ^ 27 + peer % 1024 * 2 ^ 17 + tag % 1024 * 2 ^ 7) % 2 ^ 32 = 2 ^ 31 + status % 16 * 2 ^ 27 + peer % 1024 * 2 ^ 17 + tag % 1024 * 2 ^ 7 := by omega
  unfold State.noteCompletion
  rw [if_neg hs]
  have key : ∀ s1 : State, s1.mil = s.mil → s.wordsBut s1 [rEP_ERR_CNT e] →
      ((s1.wr32 (rEP_ERR_LAST e) (2 ^ 31 + status % 16 * 2 ^ 27 + peer % 1024 * 2 ^ 17 + tag % 1024 * 2 ^ 7)).irq (PageKind.milEp.addr e) 0).rd32 (rEP_ERR_LAST e) =
        2 ^ 31 + status % 16 * 2 ^ 27 + peer % 1024 * 2 ^ 17 + tag % 1024 * 2 ^ 7 ∧
      ((s1.wr32 (rEP_ERR_LAST e) (2 ^ 31 + status % 16 * 2 ^ 27 + peer % 1024 * 2 ^ 17 + tag % 1024 * 2 ^ 7)).irq (PageKind.milEp.addr e) 0).bit (rIRQ_RAW (PageKind.milEp.addr e)) 0 = true ∧
      ((s1.wr32 (rEP_ERR_LAST e) (2 ^ 31 + status % 16 * 2 ^ 27 + peer % 1024 * 2 ^ 17 + tag % 1024 * 2 ^ 7)).irq (PageKind.milEp.addr e) 0).mil = s.mil ∧
      s.wordsBut ((s1.wr32 (rEP_ERR_LAST e) (2 ^ 31 + status % 16 * 2 ^ 27 + peer % 1024 * 2 ^ 17 + tag % 1024 * 2 ^ 7)).irq (PageKind.milEp.addr e) 0)
        [rEP_ERR_CNT e, rEP_ERR_LAST e, rIRQ_RAW (PageKind.milEp.addr e)] := by
    intro s1 hm hw
    refine ⟨?_, ?_, ?_, ?_⟩
    · have hne : rEP_ERR_LAST e ≠ PageKind.milEp.addr e + 0x010 := by unfold rEP_ERR_LAST; omega
      unfold State.rd32
      rw [State.wordsBut_irq (l := [PageKind.milEp.addr e + 0x010]) _ (by decide) (by simp) _ (by simpa using hne), State.word_wr32, if_pos rfl, BitVec.toNat_ofNat, hlast]
    · rw [show rIRQ_RAW (PageKind.milEp.addr e) = PageKind.milEp.addr e + 0x010 from rfl, State.bit_irq _ _ _ _ _ (by decide) (by decide)]; simp
    · rw [State.irq_mil, State.wr32_mil]; exact hm
    · exact State.wordsBut.irq (State.wordsBut.wr32 (State.wordsBut_mono hw (by simp)) (by simp)) (by decide) (by simp [rIRQ_RAW])
  repeat' split
  all_goals refine key _ ?_ ?_
  all_goals first
    | rfl
    | exact State.finc_mil ..
    | exact State.wordsBut_finc _ (by decide) (by simp)
    | exact fun _ _ => rfl

/-! ### Trackers -/

theorem trackAt_smGet (s : State) (e tag : Nat) : s.trackAt e tag = smGet none (s.mil.track.map (fun x => (x.1, some x.2))) (1024 * e + tag) := by
  unfold State.trackAt
  generalize s.mil.track = m
  induction m with
  | nil => rfl
  | cons x m ih =>
    obtain ⟨j, w⟩ := x
    by_cases h : j = 1024 * e + tag
    · simp [List.find?, smGet, h]
    · simp only [List.find?, decide_eq_false h, List.map_cons, smGet, if_neg h]
      exact ih

theorem smPut_some {α : Type} (k : Nat) (v : α) (m : SMap α) : (smPut k v m).map (fun x => (x.1, some x.2)) = smPut k (some v) (m.map (fun x => (x.1, some x.2))) := by
  induction m with
  | nil => rfl
  | cons x m ih =>
    obtain ⟨j, w⟩ := x
    simp only [smPut, List.map_cons]
    split
    · rfl
    · split
      · rfl
      · simp only [List.map_cons, ih]

theorem smDel_some {α : Type} (k : Nat) (m : SMap α) : (smDel k m).map (fun x => (x.1, some x.2)) = smDel k (m.map (fun x => (x.1, some x.2))) := by
  induction m with
  | nil => rfl
  | cons x m ih =>
    obtain ⟨j, w⟩ := x
    simp only [smDel, List.map_cons]
    split
    · exact ih
    · simp only [List.map_cons, ih]

theorem State.putTrack_trackAt (s : State) (e tag : Nat) (t : Track) (e' tag' : Nat) :
    (s.putTrack e tag t).trackAt e' tag' = if 1024 * e' + tag' = 1024 * e + tag then some t else s.trackAt e' tag' := by
  rw [trackAt_smGet, trackAt_smGet]
  unfold State.putTrack
  rw [smPut_some, smGet_smPut]

theorem State.dropTrack_trackAt (s : State) (e tag : Nat) (e' tag' : Nat) :
    (s.dropTrack e tag).trackAt e' tag' = if 1024 * e' + tag' = 1024 * e + tag then none else s.trackAt e' tag' := by
  rw [trackAt_smGet, trackAt_smGet]
  unfold State.dropTrack
  rw [smDel_some, smGet_smDel]

/-! ### Completions presented at the requester -/

/-- R183, R191: a response made for request `h` with a status other than OK, presented at the requester's own interface: its RSP_OUT ends with a new
header-only packet that answers `h`, and the completion is recorded. -/
theorem State.completeLocal_facts (s : State) (e : Nat) (h : Header) (o : Origin) (status : Nat) (hs : status ≠ stOK) (hlt : status < 16) :
    (let r := (s.completeLocal e h o status).pkt s.mil.next
     r.flits = [] ∧ r.accepted = true ∧ r.origin = o ∧ r.place = .outQ ∧ hget r.hdr hSTATUS = status ∧ hget r.hdr hTAG = hget h hTAG ∧
     hget r.hdr hDST = hget h hSRC ∧ hget r.hdr hTYPE = rspTypeOf (hget h hTYPE) ∧ hget r.hdr hLINES = 0) ∧
    (∀ m, m ≠ s.mil.next → (s.completeLocal e h o status).pkt m = s.pkt m) ∧
    (s.completeLocal e h o status).ep e = { s.ep e with rspOut := (s.ep e).rspOut ++ [s.mil.next] } ∧
    (∀ m, m ≠ e → (s.completeLocal e h o status).ep m = s.ep m) ∧
    (∀ a b, (s.completeLocal e h o status).trackAt a b = s.trackAt a b) ∧
    (s.completeLocal e h o status).rd32 (rEP_ERR_LAST e) = 2 ^ 31 + status * 2 ^ 27 + hget h hDST * 2 ^ 17 + hget h hTAG * 2 ^ 7 ∧
    (s.completeLocal e h o status).bit (rIRQ_RAW (PageKind.milEp.addr e)) 0 = true ∧
    s.wordsBut (s.completeLocal e h o status) [rEP_ERR_CNT e, rEP_ERR_LAST e, rIRQ_RAW (PageKind.milEp.addr e)] ∧
    (s.completeLocal e h o status).mil.next = s.mil.next + 1 := by
  unfold State.completeLocal
  obtain ⟨n1, n2, n3, n4⟩ := State.noteCompletion_facts
    (s.useFree.pushOut e { mkPkt (s.openRsp h status 0) [] .outQ true o with accepted := true }) e (hget h hDST) (hget h hTAG) status hs
  obtain ⟨p1, p2, p3, p4, p5, p6⟩ := State.pushOut_facts s.useFree e { mkPkt (s.openRsp h status 0) [] .outQ true o with accepted := true }
  have hr : isRsp (mkPkt (s.openRsp h status 0) [] .outQ true o).hdr = true := isRsp_openRsp s h status 0 hlt (by decide)
  obtain ⟨o1, -, -, -, -, -, o7, o8, o9, o10⟩ := openRsp_facts s h status 0 hlt (by decide)
  refine ⟨?_, ?_, ?_, ?_, ?_, ?_, n2, ?_, ?_⟩
  · rw [State.pkt_mil n3, show s.mil.next = s.useFree.mil.next from rfl, p1]
    exact ⟨rfl, rfl, rfl, rfl, o10, o9, o1, o7, o8⟩
  · intro m hm
    rw [State.pkt_mil n3, p2 m hm]; rfl
  · rw [State.ep_mil n3, p3, hr]; rfl
  · intro m hm
    rw [State.ep_mil n3, p4 m hm]; rfl
  · intro a b
    exact (State.trackAt_mil (congrArg Mil.track n3) a b).trans (State.trackAt_mil p6 a b)
  · rw [n1, Nat.mod_eq_of_lt hlt, Nat.mod_eq_of_lt (show hget h hDST < 1024 from Fld.get_lt ..), Nat.mod_eq_of_lt (show hget h hTAG < 1024 from Fld.get_lt ..)]
  · exact State.wordsBut_trans (State.wordsBut_of_regs _ (((State.pushOut_within ..).2 .regs rfl).trans (State.useFree_regs s))) n4
  · rw [n3, p5]; rfl

/-- R160: the header with its SRC and DEV stamped keeps every other field. -/
theorem isRsp_src_dev (h : Header) (e d : Nat) : isRsp (hset (hset h hSRC e) hDEV d) = isRsp h := by
  unfold isRsp
  rw [hget_hset_ne _ _ (by decide) (by decide), hget_hset_ne _ _ (by decide) (by decide)]

/-- R160, R161: who sends a stamped packet: SRC is the endpoint; a request carries the identity of the word that stamps it. -/
theorem State.stamp_facts (s : State) (e : Nat) (p : Pkt) (he : e < 1024) (ho : ∀ l, p.origin ≠ .lane l) :
    hget (s.stamp e p) hSRC = e ∧ hget (s.stamp e p) hDEV = fEP_CFG_DEV.get (s.idWord e p) ∧
    (isRsp p.hdr = false → hget (s.stamp e p) hSTALL = fEP_CFG_STALL.get (s.idWord e p) ∧ hget (s.stamp e p) hKEY = fEP_CFG_KEY.get (s.idWord e p)) ∧
    hget (s.stamp e p) hTYPE = hget p.hdr hTYPE ∧ hget (s.stamp e p) hDST = hget p.hdr hDST ∧ hget (s.stamp e p) hTAG = hget p.hdr hTAG ∧
    hget (s.stamp e p) hADDR = hget p.hdr hADDR ∧ hget (s.stamp e p) hLINES = hget p.hdr hLINES ∧
    (isReg p.hdr = true → hget (s.stamp e p) hORD = 1) := by
  have hd : fEP_CFG_DEV.get (s.idWord e p) < 2 := Fld.get_lt ..
  have hst : fEP_CFG_STALL.get (s.idWord e p) < 2 ^ fEP_CFG_STALL.width := Fld.get_lt ..
  have hk : fEP_CFG_KEY.get (s.idWord e p) < 2 ^ fEP_CFG_KEY.width := Fld.get_lt ..
  have key : ∀ h' : Header, (hget h' hSRC = e ∧ hget h' hDEV = fEP_CFG_DEV.get (s.idWord e p) ∧ hget h' hTYPE = hget p.hdr hTYPE ∧ hget h' hDST = hget p.hdr hDST ∧
      hget h' hTAG = hget p.hdr hTAG ∧ hget h' hADDR = hget p.hdr hADDR ∧ hget h' hLINES = hget p.hdr hLINES ∧ (isRsp p.hdr = false →
      hget h' hSTALL = fEP_CFG_STALL.get (s.idWord e p) ∧ hget h' hKEY = fEP_CFG_KEY.get (s.idWord e p)) ∧ (isReg p.hdr = true → hget h' hORD = 1)) →
      ∀ q, (let h := hset h' hQOS q
        hget h hSRC = e ∧ hget h hDEV = fEP_CFG_DEV.get (s.idWord e p) ∧ hget h hTYPE = hget p.hdr hTYPE ∧ hget h hDST = hget p.hdr hDST ∧
      hget h hTAG = hget p.hdr hTAG ∧ hget h hADDR = hget p.hdr hADDR ∧ hget h hLINES = hget p.hdr hLINES ∧ (isRsp p.hdr = false →
      hget h hSTALL = fEP_CFG_STALL.get (s.idWord e p) ∧ hget h hKEY = fEP_CFG_KEY.get (s.idWord e p)) ∧ (isReg p.hdr = true → hget h hORD = 1)) := by
    intro h' hh q
    simp (disch := decide) only [hget_hset_ne]
    exact hh
  have hid : ∀ h' : Header, (hget h' hSRC = e ∧ hget h' hDEV = fEP_CFG_DEV.get (s.idWord e p) ∧ hget h' hTYPE = hget p.hdr hTYPE ∧ hget h' hDST = hget p.hdr hDST ∧
      hget h' hTAG = hget p.hdr hTAG ∧ hget h' hADDR = hget p.hdr hADDR ∧ hget h' hLINES = hget p.hdr hLINES ∧ (isRsp p.hdr = false →
      hget h' hSTALL = fEP_CFG_STALL.get (s.idWord e p) ∧ hget h' hKEY = fEP_CFG_KEY.get (s.idWord e p)) ∧ (isReg p.hdr = true → hget h' hORD = 1)) → 
      hget h' hSRC = e ∧ hget h' hDEV = fEP_CFG_DEV.get (s.idWord e p) ∧
    (isRsp p.hdr = false → hget h' hSTALL = fEP_CFG_STALL.get (s.idWord e p) ∧ hget h' hKEY = fEP_CFG_KEY.get (s.idWord e p)) ∧
    hget h' hTYPE = hget p.hdr hTYPE ∧ hget h' hDST = hget p.hdr hDST ∧ hget h' hTAG = hget p.hdr hTAG ∧
    hget h' hADDR = hget p.hdr hADDR ∧ hget h' hLINES = hget p.hdr hLINES ∧
    (isReg p.hdr = true → hget h' hORD = 1) := fun h' ⟨a1, a2, a3, a4, a5, a6, a7, a8, a9⟩ => ⟨a1, a2, a8, a3, a4, a5, a6, a7, a9⟩
  unfold State.stamp
  dsimp only
  split
  · rename_i l hl; exact absurd hl (ho l)
  · apply hid
    have hb : ∀ h' : Header, h' = (if (isRsp (hset (hset p.hdr hSRC e) hDEV (fEP_CFG_DEV.get (s.idWord e p))) && decide (fEP_CFG_DEV.get (s.idWord e p) = 1)) = true
        then hset (hset p.hdr hSRC e) hDEV (fEP_CFG_DEV.get (s.idWord e p)) else hset (hset (hset (hset p.hdr hSRC e) hDEV (fEP_CFG_DEV.get (s.idWord e p))) hSTALL
          (fEP_CFG_STALL.get (s.idWord e p))) hKEY (fEP_CFG_KEY.get (s.idWord e p))) →
        (∀ g : Header, g = (if isReg h' = true then hset h' hORD 1 else h') → hget g hSRC = e ∧ hget g hDEV = fEP_CFG_DEV.get (s.idWord e p) ∧
          hget g hTYPE = hget p.hdr hTYPE ∧ hget g hDST = hget p.hdr hDST ∧ hget g hTAG = hget p.hdr hTAG ∧ hget g hADDR = hget p.hdr hADDR ∧
          hget g hLINES = hget p.hdr hLINES ∧ (isRsp p.hdr = false → hget g hSTALL = fEP_CFG_STALL.get (s.idWord e p) ∧ hget g hKEY = fEP_CFG_KEY.get (s.idWord e p)) ∧
          (isReg p.hdr = true → hget g hORD = 1)) := by
      intro h' hh'
      have h1 : hget h' hSRC = e ∧ hget h' hDEV = fEP_CFG_DEV.get (s.idWord e p) ∧
          hget h' hTYPE = hget p.hdr hTYPE ∧ hget h' hDST = hget p.hdr hDST ∧ hget h' hTAG = hget p.hdr hTAG ∧ hget h' hADDR = hget p.hdr hADDR ∧
          hget h' hLINES = hget p.hdr hLINES ∧ (isRsp p.hdr = false → hget h' hSTALL = fEP_CFG_STALL.get (s.idWord e p) ∧ hget h' hKEY = fEP_CFG_KEY.get (s.idWord e p)) := by
        rw [isRsp_src_dev] at hh'
        subst hh'
        have m1 : e % 2 ^ hSRC.width = e := Nat.mod_eq_of_lt he
        have m2 : fEP_CFG_DEV.get (s.idWord e p) % 2 ^ hDEV.width = fEP_CFG_DEV.get (s.idWord e p) := Nat.mod_eq_of_lt hd
        have m3 : fEP_CFG_STALL.get (s.idWord e p) % 2 ^ hSTALL.width = fEP_CFG_STALL.get (s.idWord e p) := Nat.mod_eq_of_lt hst
        have m4 : fEP_CFG_KEY.get (s.idWord e p) % 2 ^ hKEY.width = fEP_CFG_KEY.get (s.idWord e p) := Nat.mod_eq_of_lt hk
        split
        · rename_i hx
          simp (disch := decide) only [hget_hset_ne, hget_hset]
          refine ⟨m1, m2, trivial, trivial, trivial, trivial, trivial, fun hy => ?_⟩
          rw [hy] at hx; exact absurd hx (by simp)
        · simp (disch := decide) only [hget_hset_ne, hget_hset]
          exact ⟨m1, m2, trivial, trivial, trivial, trivial, trivial, fun _ => ⟨m3, m4⟩⟩
      have hreg : isReg h' = isReg p.hdr := by unfold isReg; rw [h1.2.2.1]
      intro g hg
      rw [hreg] at hg
      subst hg
      split
      · simp (disch := decide) only [hget_hset_ne, hget_hset]
        exact ⟨h1.1, h1.2.1, h1.2.2.1, h1.2.2.2.1, h1.2.2.2.2.1, h1.2.2.2.2.2.1, h1.2.2.2.2.2.2.1, h1.2.2.2.2.2.2.2, fun _ => rfl⟩
      · rename_i hx
        exact ⟨h1.1, h1.2.1, h1.2.2.1, h1.2.2.2.1, h1.2.2.2.2.1, h1.2.2.2.2.2.1, h1.2.2.2.2.2.2.1, h1.2.2.2.2.2.2.2, fun h => absurd h hx⟩
    generalize hgd : (if isReg (if (isRsp (hset (hset p.hdr hSRC e) hDEV (fEP_CFG_DEV.get (s.idWord e p))) && decide (fEP_CFG_DEV.get (s.idWord e p) = 1)) = true
        then hset (hset p.hdr hSRC e) hDEV (fEP_CFG_DEV.get (s.idWord e p)) else hset (hset (hset (hset p.hdr hSRC e) hDEV (fEP_CFG_DEV.get (s.idWord e p))) hSTALL
          (fEP_CFG_STALL.get (s.idWord e p))) hKEY (fEP_CFG_KEY.get (s.idWord e p))) = true then hset (if (isRsp (hset (hset p.hdr hSRC e) hDEV (fEP_CFG_DEV.get (s.idWord e p))) && decide (fEP_CFG_DEV.get (s.idWord e p) = 1)) = true
        then hset (hset p.hdr hSRC e) hDEV (fEP_CFG_DEV.get (s.idWord e p)) else hset (hset (hset (hset p.hdr hSRC e) hDEV (fEP_CFG_DEV.get (s.idWord e p))) hSTALL
          (fEP_CFG_STALL.get (s.idWord e p))) hKEY (fEP_CFG_KEY.get (s.idWord e p))) hORD 1 else (if (isRsp (hset (hset p.hdr hSRC e) hDEV (fEP_CFG_DEV.get (s.idWord e p))) && decide (fEP_CFG_DEV.get (s.idWord e p) = 1)) = true
        then hset (hset p.hdr hSRC e) hDEV (fEP_CFG_DEV.get (s.idWord e p)) else hset (hset (hset (hset p.hdr hSRC e) hDEV (fEP_CFG_DEV.get (s.idWord e p))) hSTALL
          (fEP_CFG_STALL.get (s.idWord e p))) hKEY (fEP_CFG_KEY.get (s.idWord e p)))) = g
    have hg := hb _ rfl g hgd.symm
    clear hb hgd
    repeat' split
    all_goals first
      | exact hg
      | exact key _ hg _

end Sys2Proof.Machine
end

