-- ==== Sys2Proof/Laws/RegisterCommands.lean ====
section
/-! SUPPORT. What the commands of register access, the page header and interrupt aggregation come to. -/

namespace Sys2Proof.Machine

theorem run_regWrite (req : Req) (a size v : Nat) (s : State) (hv : req.valid = true) (hc : s.clocked = true) :
    exec (.regWrite req a size v) s = .next (s.regWrite req a size v) := by
  show execRegWrite req a size v s = _
  simp [execRegWrite, Instr.wf, hv, hc]

theorem run_stallWindow (n a size : Nat) (w : Option Nat) (u : Nat) (s : State) (hn : (Req.stall n).valid = true) (hw : inWindow a = true) (hc : s.clocked = true) :
    exec (.stallWindow n a size w u) s = .next (State.showEnd (s.regAccess (.stall n) a size w u) (.stall n) a w.isNone) := by
  show execStallWindow n a size w u s = _
  simp [Req.valid] at hn
  simp [execStallWindow, Instr.wf, hn, hc, hw]

theorem run_rcRead (req : Req) (a size : Nat) (s : State) (hv : req.valid = true) (hc : s.clocked = true) :
    exec (.rcRead req a size) s = .next (s.regRead req a size 0) := by
  show execRcRead req a size s = _
  simp [execRcRead, Instr.wf, hv, hc]

theorem refusal_cases (s : State) (req : Req) (k : PageKind) (i o size : Nat) (b : ViewBuf) :
    (s.setViewBuf req (k.addr i) b).writeRefusal req ⟨k, i, k.addr i⟩ o size =
      if s.mayWrite req k i o = false then some causeNotOwner
      else if (decide (0x040 ≤ o) && s.flag (rLOCK (k.addr i)) fLOCK_LOCKED && decide (req ≠ .tolmor)) = true then some causeLocked
      else if size < 4 then some causeWidth else none := by
  unfold State.writeRefusal
  rw [show (s.setViewBuf req (k.addr i) b).mayWrite req k i o = s.mayWrite req k i o from rfl,
    show (s.setViewBuf req (k.addr i) b).flag (rLOCK (k.addr i)) fLOCK_LOCKED = s.flag (rLOCK (k.addr i)) fLOCK_LOCKED from rfl]
  simp only [Bool.and_eq_true, decide_eq_true_eq, and_assoc]
  cases s.mayWrite req k i o <;> simp

theorem pageWrite_refused (s : State) (req : Req) (g : PageRef) {o : Nat} (v c : Nat)
    (hr : (s.setViewBuf req g.base ViewBuf.empty).writeRefusal req g o 4 = some c) :
    s.pageWrite req g o 4 v 0 = (s.setViewBuf req g.base ViewBuf.empty).refuse req (g.base + o) c := by
  unfold State.pageWrite
  rw [if_neg (by decide), if_pos rfl]
  unfold State.writeWord
  dsimp only
  rw [hr]

theorem serveReg_write (s : State) (req : Req) (g : PageRef) (o size v u : Nat) : s.serveReg req g o size (some v) u = (s.pageWrite req g o size v u, .ok, 0) := rfl

theorem regWrite_refused (s : State) (req : Req) (k : PageKind) {i o : Nat} (v c : Nat) (hv : req.valid = true) (hs : ∀ n, req ≠ .stall n) (hk : i < k.count) (ho : o < 4096)
    (ho4 : o % 4 = 0) (hnd : ¬ (k = .dbgSess ∧ o = 0x060)) (hg : s.getsTo req k i o = true)
    (hr : (s.setViewBuf req (k.addr i) ViewBuf.empty).writeRefusal req ⟨k, i, k.addr i⟩ o 4 = some c) :
    s.regWrite req (k.addr i + o) 4 v = (s.setViewBuf req (k.addr i) ViewBuf.empty).refuse req (k.addr i + o) c := by
  unfold State.regWrite
  rw [s.regAccess_served req k (some v) 0 hv hs hk ho rfl ho4 hnd hg, serveReg_write, pageWrite_refused s req _ v c hr, State.showEnd_write]

theorem pageWrite_narrow (s : State) (req : Req) (g : PageRef) {o : Nat} (half : Bool) (v c : Nat)
    (hr : (s.setViewBuf req g.base ViewBuf.empty).writeRefusal req g (o / 4 * 4) (if half then 2 else 1) = some c) :
    s.pageWrite req g o (if half then 2 else 1) v 0 = (s.setViewBuf req g.base ViewBuf.empty).refuse req (g.base + o) c := by
  unfold State.pageWrite
  rw [if_neg (by cases half <;> decide), if_neg (by cases half <;> decide)]
  dsimp only
  rw [hr]
  rfl

theorem exec_low (req : Req) (a : Nat) (s : State) (hv : req.valid = true) (hc : s.clocked = true) :
    exec (.reg64LowRead req a) s = .next (s.regRead req a 4 0) := by
  show execReg64LowRead req a s = _
  simp [execReg64LowRead, Instr.wf, hv, hc]

theorem exec_loww (req : Req) (a v : Nat) (s : State) (hv : req.valid = true) (hc : s.clocked = true) :
    exec (.reg64LowWrite req a v) s = .next (s.regWrite req a 4 v) := by
  show execReg64LowWrite req a v s = _
  simp [execReg64LowWrite, Instr.wf, hv, hc]

theorem exec_highw (req : Req) (a v : Nat) (s : State) (hv : req.valid = true) (hc : s.clocked = true) :
    exec (.reg64HighWrite req a v) s = .next (s.regWrite req a 4 v) := by
  show execReg64HighWrite req a v s = _
  simp [execReg64HighWrite, Instr.wf, hv, hc]

theorem serveReg_read (s : State) (req : Req) (g : PageRef) (o size u : Nat) : s.serveReg req g o size none u = ((s.pageRead req g o size u).1, .ok, (s.pageRead req g o size u).2) := rfl

theorem pageRead_word (s : State) (req : Req) (g : PageRef) (o u : Nat) : s.pageRead req g o 4 u = s.readWord req g o u := rfl

theorem pageWrite_word (s : State) (req : Req) (g : PageRef) (o v u : Nat) : s.pageWrite req g o 4 v u = s.writeWord req g o v u := rfl

theorem readWord_low (s : State) (req : Req) (g : PageRef) {o : Nat} (u : Nat) {r : RegDef} (hr : findReg o g.kind.regs = some (r, o)) (hw : r.wide = true)
    (hrf : s.readsFull req g.kind g.inst o = true) :
    s.readWord req g o u = ((((s.setViewBuf req g.base ViewBuf.empty).readWhole req g r o u).1.setViewBuf req g.base
      ⟨some (o, ((s.setViewBuf req g.base ViewBuf.empty).readWhole req g r o u).2 / 2 ^ 32 % 2 ^ 32), none⟩),
      ((s.setViewBuf req g.base ViewBuf.empty).readWhole req g r o u).2 % 2 ^ 32) := by
  unfold State.readWord
  dsimp only
  rw [hrf, hr]
  simp [hw]

theorem viewBuf_set (s : State) (req : Req) (p : Nat) (b : ViewBuf) : (s.setViewBuf req p b).viewBuf req p = b := by
  unfold State.viewBuf State.setViewBuf
  simp

theorem writeWord_low (s : State) (req : Req) (k : PageKind) {i o : Nat} (v u : Nat) {r : RegDef} (hr : findReg o k.regs = some (r, o)) (hw : r.wide = true)
    (hrw : r.fields.any (fun f => decide (f.acc = .rw)) = true) (ht : s.takes req k i o = true) :
    s.writeWord req ⟨k, i, k.addr i⟩ o v u = (s.setViewBuf req (k.addr i) ViewBuf.empty).setViewBuf req (k.addr i) ⟨none, some (o, v)⟩ := by
  unfold State.writeWord
  dsimp only
  rw [s.writeRefusal_none req k ViewBuf.empty (by decide : 4 ≤ 4) ht]
  dsimp only
  rw [hr]
  dsimp only
  rw [hw]
  simp only [Bool.not_true, Bool.false_eq_true, if_false, if_true]
  rw [if_pos hrw]

theorem writeWord_high (s : State) (req : Req) (k : PageKind) {i o : Nat} (v u : Nat) {r : RegDef} (hr : findReg (o + 4) k.regs = some (r, o)) (hw : r.wide = true)
    (ht : s.takes req k i (o + 4) = true) :
    s.writeWord req ⟨k, i, k.addr i⟩ (o + 4) v u = (s.setViewBuf req (k.addr i) ViewBuf.empty).writeWhole req ⟨k, i, k.addr i⟩ r o
      ((match (s.viewBuf req (k.addr i)).staged with
          | some (e, w) => if e = o then w else s.rd32 (k.addr i + o)
          | none => s.rd32 (k.addr i + o)) + v * 2 ^ 32) u := by
  have hrv : ∀ t : State, t.regVal r (k.addr i + o) % 2 ^ 32 = t.rd32 (k.addr i + o) := by
    intro t; unfold State.regVal; rw [hw, if_pos rfl]; unfold State.rd64; have := t.rd32_lt (k.addr i + o); omega
  unfold State.writeWord
  dsimp only
  rw [s.writeRefusal_none req k ViewBuf.empty (by decide : 4 ≤ 4) ht]
  dsimp only
  rw [hr]
  dsimp only
  rw [hw]
  simp only [Bool.not_true, Bool.false_eq_true, if_false, if_true]
  rw [if_neg (by omega), hrv, State.setViewBuf_rd32]
  try (cases (s.viewBuf req (k.addr i)).staged <;> rfl)

theorem page_div (k : PageKind) {i : Nat} (h : i < k.count) : 4096 * (k.addr i / 4096) = k.addr i := by
  have := (k.addr_placed h).2.1; omega

theorem isPage_addr (k : PageKind) {i : Nat} (h : i < k.count) : isPage (k.addr i / 4096) = true := by
  have := pageOf_addr k (o := 0) h (by decide)
  unfold isPage
  rw [page_div k h]
  rw [Nat.add_zero] at this
  rw [this]; rfl

theorem regs_split (k : PageKind) : ∃ l, k.regs = regsHeader ++ l := by cases k <;> exact ⟨_, rfl⟩

theorem findReg_header (k : PageKind) (o : Nat) {r : RegDef} (h : findReg o regsHeader = some (r, o)) : findReg o k.regs = some (r, o) := by
  obtain ⟨l, hl⟩ := regs_split k
  rw [hl]
  have : ∀ xs : List RegDef, findReg o xs = some (r, o) → findReg o (xs ++ l) = some (r, o) := by
    intro xs
    induction xs with
    | nil => intro h; cases h
    | cons x xs ih =>
      intro h
      rw [List.cons_append]
      unfold findReg at h ⊢
      split at h
      · exact h
      · exact ih h
  exact this _ h

theorem putReg_header (s : State) (req : Req) (k : PageKind) {i o : Nat} (v : Nat) {r : RegDef} (hv : req.valid = true) (h : i < k.count)
    (ho : o < 0x040) (ha : o % 4 = 0) (ht : s.takes req k i o = true) (hr : findReg o regsHeader = some (r, o)) (hw : r.wide = false) :
    s.putReg req (k.addr i + o) v = (s.setViewBuf req (k.addr i) ViewBuf.empty).headerWrite k r (k.addr i) o v := by
  rw [s.putReg_taken req k v hv h (by omega) ha (by rintro ⟨rfl, rfl⟩; omega) ht (findReg_header k o hr) hw, State.writeWhole, if_pos ho]

theorem findPage_some {p i : Nat} {k : PageKind} : ∀ {ks : List PageKind}, findPage p ks = some (k, i) → k.instOf p = some i
  | x :: xs, h => by
    unfold findPage at h
    split at h
    · cases h; assumption
    · exact findPage_some h

theorem instOf_count {k : PageKind} {p i : Nat} (h : k.instOf p = some i) : i < k.count := by
  unfold PageKind.instOf at h
  by_cases hp : p < k.geom.base
  · rw [if_pos hp] at h; cases h
  · rw [if_neg hp] at h
    by_cases h2 : (if k.geom.s1 = 0 then 0 else (p - k.geom.base) / k.geom.s1) < k.geom.n1 ∧
        (if k.geom.s2 = 0 then 0 else (p - k.geom.base - (if k.geom.s1 = 0 then 0 else (p - k.geom.base) / k.geom.s1) * k.geom.s1) / k.geom.s2) < k.geom.n2 ∧
        (if k.geom.s1 = 0 then 0 else (p - k.geom.base) / k.geom.s1) * k.geom.s1 +
          (if k.geom.s2 = 0 then 0 else (p - k.geom.base - (if k.geom.s1 = 0 then 0 else (p - k.geom.base) / k.geom.s1) * k.geom.s1) / k.geom.s2) * k.geom.s2
            = p - k.geom.base
    · rw [if_pos h2] at h
      cases h
      unfold PageKind.count
      generalize (if k.geom.s1 = 0 then 0 else (p - k.geom.base) / k.geom.s1) = a at *
      generalize (if k.geom.s2 = 0 then 0 else (p - k.geom.base - a * k.geom.s1) / k.geom.s2) = b at *
      have h3 := Nat.mul_le_mul_left k.geom.n2 (Nat.le_sub_one_of_lt h2.1)
      have h4 : k.geom.n1 * k.geom.n2 = k.geom.n2 * (k.geom.n1 - 1) + k.geom.n2 := by
        rw [Nat.mul_comm, ← Nat.mul_succ]; congr 1; omega
      omega
    · rw [if_neg h2] at h; cases h

theorem pageOf_count {a i : Nat} {k : PageKind} (h : pageOf a = some (k, i)) : i < k.count := instOf_count (findPage_some h)

theorem pageOwner_congr (s t : State) (k : PageKind) (i : Nat) (h : i < k.count) (hs : t.stalls = s.stalls) (he : t.eddies = s.eddies)
    (hw : ∀ a, (∀ v, v < 4 → a ≠ rAGG_STAT v) → t.word a = s.word a) : t.pageOwner k i = s.pageOwner k i := by
  have hr : ∀ (l : PageKind) (j o : Nat), l ≠ .irqAgg → j < l.count → o < 4096 → t.rd32 (l.addr j + o) = s.rd32 (l.addr j + o) := by
    intro l j o hl hj ho
    unfold State.rd32
    rw [hw]
    intro v hv e
    obtain ⟨e1, -, -⟩ := addr_inj (l := .irqAgg) hj hv ho (by decide) (show l.addr j + o = PageKind.irqAgg.addr v + 0x044 from e)
    exact hl e1
  have h1 : t.adminView = s.adminView := by
    unfold State.adminView
    rw [State.fget_word _ _ (by decide), State.fget_word _ _ (by decide), show rTOL_INFO 0 = PageKind.addr .tolmorCtl 0 + 0x044 from rfl, hr _ _ _ (by decide) (by decide) (by decide)]
  have h2 : ∀ j, j < 384 → t.shedOwner j = s.shedOwner j := by
    intro j hj
    unfold State.shedOwner
    rw [show rPLANE_STAT j = PageKind.addr .shedCfg j + 0x040 from rfl, hr _ _ _ (by decide) hj (by decide)]
  have h3 : ∀ j, t.eddy j = s.eddy j := by intro j; unfold State.eddy; rw [he]
  have h4 : ∀ p n, t.claimant p n = s.claimant p n := by
    intro p n
    induction n with
    | zero => rfl
    | succ n ih => unfold State.claimant; rw [ih]; unfold State.stall; rw [hs]
  have h5 : ∀ j, j < 160 → t.laneProto j = s.laneProto j := by
    intro j hj
    unfold State.laneProto
    rw [State.fget_word _ _ (by decide), State.fget_word _ _ (by decide), show rLANE_ASSIGN j = PageKind.addr .lane j + 0x048 from rfl, hr _ _ _ (by decide) hj (by decide)]
  unfold State.pageOwner
  have h6 : ∀ j, t.laneOwner j = s.laneOwner j := fun j => h4 _ _
  cases k <;> first | rfl | (dsimp only; rw [h5 _ h, h6, h1]) | (dsimp only; rw [h1]) | (dsimp only; rw [h2 _ h]) | (dsimp only; rw [h3]) | (dsimp only; unfold State.portOwner; rw [h4])

theorem aggPush_facts (s : State) (v p : Nat) (hv : v < 4) :
    (s.aggPush v p).stalls = s.stalls ∧ (s.aggPush v p).eddies = s.eddies ∧ (∀ a, a ≠ rAGG_STAT v → (s.aggPush v p).word a = s.word a) ∧
    (s.aggPush v p).agg.rises = s.agg.rises ∧ (∀ w, w ≠ v → (s.aggPush v p).aggQueue w = s.aggQueue w) ∧
    (s.aggPush v p).aggQueue v = (if (s.aggQueue v).length < 256 then s.aggQueue v ++ [p] else s.aggQueue v) ∧
    (256 ≤ (s.aggQueue v).length → (s.aggPush v p).flag (rAGG_STAT v) fAGG_STAT_OVF = true) := by
  have hag : ∀ x : Nat, (s.fset (rAGG_STAT v) fAGG_STAT_OVF x).agg = s.agg := by
    intro x
    rw [State.fset_word _ _ _ (by decide)]
    unfold State.wr32 State.setWord
    dsimp only
    have : rAGG_STAT v % 4096 = 0x044 := addr_mod .irqAgg (show v < PageKind.count .irqAgg from hv) (by decide)
    rw [if_neg (by omega)]
  unfold State.aggPush
  dsimp only
  split
  · rename_i hl
    refine ⟨rfl, rfl, fun _ _ => rfl, rfl, ?_, ?_, by omega⟩
    · intro w hw; unfold State.aggQueue; exact smGet_smSet_ne _ _ _ _ hw
    · unfold State.aggQueue; simp
  · rename_i hl
    refine ⟨by simp, by simp, fun a ha => State.word_fset_ne _ _ _ (by decide) ha, ?_, ?_, ?_, ?_⟩
    · rw [hag]
    · intro w _; unfold State.aggQueue; rw [hag]
    · unfold State.aggQueue; rw [hag]
    · intro _; unfold State.flag; rw [State.fget_fset _ _ _ _ (by decide)]; rfl

theorem routed_congr (s t : State) (k : PageKind) (i v : Nat) (h : i < k.count) (hv : v < 4) (hs : t.stalls = s.stalls) (he : t.eddies = s.eddies)
    (hw : ∀ a, (∀ v, v < 4 → a ≠ rAGG_STAT v) → t.word a = s.word a) : t.routed k i v = s.routed k i v := by
  have h1 := pageOwner_congr s t k i h hs he hw
  have h2 : ∀ a b, t.controls a b = s.controls a b := by intro a b; unfold State.controls State.stall; rw [hs]
  have hr : ∀ (l : PageKind) (j o : Nat), l ≠ .irqAgg ∨ o ≠ 0x044 → j < l.count → o < 4096 → t.rd32 (l.addr j + o) = s.rd32 (l.addr j + o) := by
    intro l j o hl hj ho
    unfold State.rd32
    rw [hw]
    intro v hv e
    obtain ⟨e1, -, e2⟩ := addr_inj (l := .irqAgg) hj hv ho (by decide) (show l.addr j + o = PageKind.irqAgg.addr v + 0x044 from e)
    rcases hl with hl | hl
    · exact hl e1
    · exact hl e2
  have h3 : t.adminView = s.adminView := by
    unfold State.adminView
    rw [State.fget_word _ _ (by decide), State.fget_word _ _ (by decide), show rTOL_INFO 0 = PageKind.addr .tolmorCtl 0 + 0x044 from rfl, hr _ _ _ (Or.inl (by decide)) (by decide) (by decide)]
  have h4 : t.flag (rAGG_CFG v) fAGG_CFG_SUB_DEVICE = s.flag (rAGG_CFG v) fAGG_CFG_SUB_DEVICE := by
    unfold State.flag
    rw [State.fget_word _ _ (by decide), State.fget_word _ _ (by decide), show rAGG_CFG v = PageKind.addr .irqAgg v + 0x040 from rfl, hr _ _ _ (Or.inr (by decide)) hv (by decide)]
  unfold State.routed
  rw [h1]
  cases s.pageOwner k i
  · dsimp only; rw [h3, h4]
  · rfl
  · dsimp only; rw [h2]

theorem push_fold (s : State) (k : PageKind) (i p : Nat) (hi : i < k.count) (u : State) (hus : u.stalls = s.stalls) (hue : u.eddies = s.eddies)
    (huw : ∀ a, (∀ v, v < 4 → a ≠ rAGG_STAT v) → u.word a = s.word a) : ∀ l : List Nat, (∀ v ∈ l, v < 4) → l.Nodup →
    let t := l.foldl (fun t v => if t.routed k i v then t.aggPush v p else t) u
    t.stalls = s.stalls ∧ t.eddies = s.eddies ∧ (∀ a, (∀ v, v < 4 → a ≠ rAGG_STAT v) → t.word a = s.word a) ∧ t.agg.rises = u.agg.rises ∧
    (∀ w, w < 4 → w ∉ l → t.aggQueue w = u.aggQueue w ∧ t.word (rAGG_STAT w) = u.word (rAGG_STAT w)) ∧
    (∀ v ∈ l, t.aggQueue v = (if s.routed k i v = true ∧ (u.aggQueue v).length < 256 then u.aggQueue v ++ [p] else u.aggQueue v) ∧
      (s.routed k i v = true → 256 ≤ (u.aggQueue v).length → t.flag (rAGG_STAT v) fAGG_STAT_OVF = true)) := by
  intro l
  induction l generalizing u with
  | nil => intro _ _; exact ⟨hus, hue, huw, rfl, fun _ _ _ => ⟨rfl, rfl⟩, by simp⟩
  | cons x xs ih =>
    intro hl hn
    rw [List.foldl_cons]
    have hx : x < 4 := hl x (by simp)
    have hrx : u.routed k i x = s.routed k i x := routed_congr s u k i x hi hx hus hue huw
    obtain ⟨f1, f2, f3, f4, f5, f6, f7⟩ := aggPush_facts u x p hx
    obtain ⟨hn1, hn2⟩ := List.nodup_cons.1 hn
    have hinj : ∀ w, w < 4 → w ≠ x → rAGG_STAT w ≠ rAGG_STAT x := by
      intro w hw4 hw e
      have e2 : PageKind.irqAgg.addr w + 0x044 = PageKind.irqAgg.addr x + 0x044 := e
      simp only [PageKind.addr, PageKind.geom] at e2
      omega
    by_cases hb : s.routed k i x = true
    · rw [hrx, if_pos hb]
      have g := ih (u.aggPush x p) (f1.trans hus) (f2.trans hue) (fun a ha => (f3 a (ha x hx)).trans (huw a ha)) (fun v hv => hl v (by simp [hv])) hn2
      obtain ⟨g1, g2, g3, g4, g5, g6⟩ := g
      refine ⟨g1, g2, g3, g4.trans f4, ?_, ?_⟩
      · intro w hw4 hw
        simp only [List.mem_cons, not_or] at hw
        exact ⟨(g5 w hw4 hw.2).1.trans (f5 w hw.1), (g5 w hw4 hw.2).2.trans (f3 _ (hinj w hw4 hw.1))⟩
      · intro v hv
        rcases List.mem_cons.1 hv with rfl | hv
        · rw [(g5 v hx hn1).1, f6]
          refine ⟨by simp [hb], fun _ hl => ?_⟩
          have := f7 hl
          unfold State.flag at this ⊢
          rw [State.fget_word _ _ (by decide)] at this ⊢
          unfold State.rd32 at this ⊢
          rw [(g5 v hx hn1).2]; exact this
        · have hne : v ≠ x := fun e => hn1 (e ▸ hv)
          have := g6 v hv
          rw [f5 v hne] at this
          exact this
    · rw [hrx, if_neg hb]
      obtain ⟨g1, g2, g3, g4, g5, g6⟩ := ih u hus hue huw (fun v hv => hl v (by simp [hv])) hn2
      refine ⟨g1, g2, g3, g4, ?_, ?_⟩
      · intro w hw4 hw
        simp only [List.mem_cons, not_or] at hw
        exact g5 w hw4 hw.2
      · intro v hv
        rcases List.mem_cons.1 hv with rfl | hv
        · rw [(g5 v hx hn1).1]; exact ⟨by simp [hb], fun h => absurd h hb⟩
        · exact g6 v hv

end Sys2Proof.Machine
end

