-- ==== Sys2Proof/Laws/EddyCommands.lean ====
section
/-! SUPPORT. What the commands of the Eddy engines do: engine pages, bundles, memory ports, streams and transfers. -/

namespace Sys2Proof.Machine

/-- A body register of one word written whole by a command. -/
theorem State.putReg_body (s : State) (req : Req) (k : PageKind) {i o : Nat} (v : Nat) {r : RegDef} (hv : req.valid = true) (h : i < k.count)
    (ho : o < 4096) (ho' : 0x040 ≤ o) (ha : o % 4 = 0) (hn : ¬ (k = .dbgSess ∧ o = 0x060)) (ht : s.takes req k i o = true)
    (hr : findReg o k.regs = some (r, o)) (hw : r.wide = false) :
    s.putReg req (k.addr i + o) v = (s.setViewBuf req (k.addr i) ViewBuf.empty).bodyWrite req k i (k.addr i) r o v 0 := by
  rw [s.putReg_taken req k v hv h ho ha hn ht hr hw]
  unfold State.writeWhole
  rw [if_neg (by omega)]

/-- A plain register of one word written whole: its RW fields take their new values. -/
theorem State.plainWrite_word (s : State) {r : RegDef} (a v : Nat) (h : r.tidy = true) (hw : r.wide = false) :
    (∀ f ∈ r.fields, f.acc = .rw → (s.plainWrite r a v).fget a f.fld = f.fld.get v) ∧ s.wordsBut (s.plainWrite r a v) [a] := by
  have hx : (s.plainWrite r a v).rd32 a = r.written (s.rd32 a) v := by
    have h1 := State.regVal_setReg s (r := r) a (r.written (s.regVal r a) v) (RegDef.written_lt h _ _)
    unfold State.regVal at h1
    rw [hw] at h1
    simp only [Bool.false_eq_true, if_false] at h1
    unfold State.plainWrite State.regVal
    rw [hw]
    simpa using h1
  refine ⟨?_, ?_⟩
  · intro f hf hrw
    have hwd := RegDef.tidy_width h hf
    rw [hw] at hwd
    rw [State.fget_word _ _ (by simpa using hwd.2), hx, RegDef.get_written h _ _ hf, hrw]
  · intro b hb
    exact State.word_setReg s _ (by simpa using hb) (by rw [hw]; intro h; cases h)

theorem eddyRun_start (s : State) (req : Req) (n : Nat) : s.eddyRun req n 1 = if (s.eddy n).isStopped = true then s.engineStart n else s.refuse req (rEDDY_RUN n) causeRule := by
  unfold State.eddyRun
  dsimp only
  rw [if_pos (show Nat.testBit 1 0 = true by decide), if_neg (show ¬ Nat.testBit 1 3 = true by decide), if_neg (show ¬ 1 < popCount 3 (1 % 8) by decide)]

theorem eddyRun_stop (s : State) (req : Req) (n : Nat) : s.eddyRun req n 2 = s.engineStop n := by
  unfold State.eddyRun
  dsimp only
  rw [if_neg (show ¬ Nat.testBit 2 0 = true by decide), if_pos (show Nat.testBit 2 1 = true by decide), if_neg (show ¬ Nat.testBit 2 3 = true by decide), if_neg (show ¬ 1 < popCount 3 (2 % 8) by decide)]

theorem eddyRun_resume (s : State) (req : Req) (n : Nat) : s.eddyRun req n 4 = if (s.eddy n).run = .stopped ∨ (s.eddy n).run = .done then s.engineResume n else s.refuse req (rEDDY_RUN n) causeRule := by
  unfold State.eddyRun
  dsimp only
  rw [if_neg (show ¬ Nat.testBit 4 0 = true by decide), if_neg (show ¬ Nat.testBit 4 1 = true by decide), if_pos (show Nat.testBit 4 2 = true by decide), if_neg (show ¬ Nat.testBit 4 3 = true by decide), if_neg (show ¬ 1 < popCount 3 (4 % 8) by decide)]

theorem eddyRun_kick (s : State) (req : Req) (n : Nat) : s.eddyRun req n 8 = s.engineKick n := by
  unfold State.eddyRun
  dsimp only
  rw [if_neg (show ¬ Nat.testBit 8 0 = true by decide), if_neg (show ¬ Nat.testBit 8 1 = true by decide), if_neg (show ¬ Nat.testBit 8 2 = true by decide), if_pos (show Nat.testBit 8 3 = true by decide), if_neg (show ¬ 1 < popCount 3 (8 % 8) by decide)]

theorem body_eddyRun (s : State) (req : Req) (n p : Nat) (r : RegDef) (v u : Nat) : s.bodyWrite req .eddy n p r 0x050 v u = s.eddyRun req n v := by
  unfold State.bodyWrite
  dsimp only
  rw [if_neg (by decide), if_neg (by decide), if_pos rfl]

theorem body_eddyCfg (s : State) (req : Req) (n p : Nat) (r : RegDef) (v u : Nat) : s.bodyWrite req .eddy n p r 0x040 v u = s.eddyCfgWrite req n r (p + 0x040) v := by
  unfold State.bodyWrite
  dsimp only
  rw [if_pos rfl]

theorem State.setEddy_eddy (s : State) (n : Nat) (e : Eddy) (m : Nat) : (s.setEddy n e).eddy m = if m = n then e else s.eddy m := by
  unfold State.setEddy State.eddy
  exact smGet_smSet ..

theorem State.eddy_eddies {s t : State} (h : t.eddies = s.eddies) (m : Nat) : t.eddy m = s.eddy m := by unfold State.eddy; rw [h]

theorem body_memData (s : State) (req : Req) (n p : Nat) (r : RegDef) (v u : Nat) : s.bodyWrite req .eddy n p r 0x068 v u = s.memDataWrite req n v u := by
  unfold State.bodyWrite
  dsimp only
  rw [if_neg (by decide), if_neg (by decide), if_neg (by decide), if_pos rfl]

theorem memAdvance_facts (s : State) (n : Nat) :
    let a := s.rd32 (rEDDY_MEM_ADDR n)
    let w := fEDDY_MEM_ADDR_WORD.get a
    let last := if fEDDY_MEM_ADDR_SPACE.get a = 1 then 8191 else 32767
    let t := s.memAdvance n
    t.eddies = s.eddies ∧ (fEDDY_MEM_ADDR_AUTOINC.get a = 0 → s.wordsBut t []) ∧
      (fEDDY_MEM_ADDR_AUTOINC.get a = 1 → w ≤ last → t.fget (rEDDY_MEM_ADDR n) fEDDY_MEM_ADDR_WORD = (if w = last then 0 else w + 1) ∧
        t.flag (rEDDY_MEM_ADDR n) fEDDY_MEM_ADDR_WRAPPED = (decide (w = last) || s.flag (rEDDY_MEM_ADDR n) fEDDY_MEM_ADDR_WRAPPED) ∧
        s.wordsBut t [rEDDY_MEM_ADDR n]) := by
  intro a w last t
  have ht : t = s.memAdvance n := rfl
  clear_value t
  subst ht
  unfold State.memAdvance
  refine ⟨?_, ?_, ?_⟩
  · have : ∀ c : Prop, [Decidable c] → ∀ x y : State, x.eddies = s.eddies → y.eddies = s.eddies → (if c then x else y).eddies = s.eddies := by
      intro c _ x y hx hy; split <;> assumption
    exact this _ _ _ (this _ _ _ (by rw [State.fset_eddies, State.fset_eddies]) (by rw [State.fset_eddies])) rfl
  · intro h
    rw [if_neg (show ¬ fEDDY_MEM_ADDR_AUTOINC.get a = 1 by rw [h]; decide)]
    exact State.wordsBut_refl _ _
  · intro h hle
    have hw : w < 2 ^ 15 := Fld.get_lt ..
    have hl : last ≤ 32767 := by show (if _ then _ else _) ≤ _; split <;> decide
    rw [if_pos h]
    by_cases e : w = last
    · rw [if_pos (show fEDDY_MEM_ADDR_WORD.get (s.rd32 (rEDDY_MEM_ADDR n)) = _ from e), if_pos e]
      refine ⟨?_, ?_, ((State.wordsBut_refl s _).fset (by decide) (List.mem_singleton.mpr rfl)).fset (by decide) (List.mem_singleton.mpr rfl)⟩
      · rw [State.fget_fset_apart _ _ _ _ (by decide) (by decide) (by decide), State.fget_fset_if _ _ _ _ (by decide), if_pos rfl]; rfl
      · rw [flag_set_one _ (by decide) rfl, decide_eq_true e]; rfl
    · rw [if_neg (show ¬ fEDDY_MEM_ADDR_WORD.get (s.rd32 (rEDDY_MEM_ADDR n)) = _ from e), if_neg e]
      refine ⟨?_, ?_, (State.wordsBut_refl s _).fset (by decide) (List.mem_singleton.mpr rfl)⟩
      · rw [State.fget_fset_if _ _ _ _ (by decide), if_pos rfl]
        apply Nat.mod_eq_of_lt
        show w + 1 < 2 ^ 15
        omega
      · rw [decide_eq_false e]
        unfold State.flag
        rw [State.fget_fset_apart _ _ _ _ (by decide) (by decide) (by decide)]
        rfl

theorem progWrite_data (e : Eddy) (w v : Nat) : (e.progWrite w v).data = e.data := by
  unfold Eddy.progWrite Eddy.setProg
  dsimp only
  split
  · split <;> rfl
  · rfl

theorem progWrite_stage (e : Eddy) (w v : Nat) (h : w % 4 ≠ 3) : (e.progWrite w v).prog = e.prog ∧ ∃ staged, (e.progWrite w v).stage = some (w / 4, staged) ∧ smGet 0 staged (w % 4) = v := by
  unfold Eddy.progWrite
  dsimp only
  rw [if_neg h]
  exact ⟨rfl, _, rfl, by rw [smGet_smPut, if_pos rfl]⟩

theorem setProg_prog (e : Eddy) (p : SMap (BitVec 128)) : (e.setProg p).prog = p := by
  unfold Eddy.setProg Eddy.prog
  cases h : e.liveB <;> simp [h]

theorem progWrite_commit (e : Eddy) (w v : Nat) (h : w % 4 = 3) (hv : v < 2 ^ 32) (hs : ∀ x, e.stage = some x → ∀ d k, d < 2 ^ 32 → smGet d x.2 k < 2 ^ 32) :
    let old := fun k => (smGet (0 : BitVec 128) e.prog (w / 4)).toNat / 2 ^ (32 * k) % 2 ^ 32
    let staged := fun k => match e.stage with
      | some (b, m) => if b = w / 4 then smGet (old k) m k else old k
      | none => old k
    (e.progWrite w v).stage = none ∧ (smGet (0 : BitVec 128) (e.progWrite w v).prog (w / 4)).toNat = staged 0 + staged 1 * 2 ^ 32 + staged 2 * 2 ^ 64 + v * 2 ^ 96 ∧
      ∀ j, j ≠ w / 4 → smGet (0 : BitVec 128) (e.progWrite w v).prog j = smGet 0 e.prog j := by
  intro old staged
  have hold : ∀ k, old k < 2 ^ 32 := fun k => Nat.mod_lt _ (by decide)
  have hlt : ∀ k, staged k < 2 ^ 32 := by
    intro k
    show (match e.stage with | some (b, m) => _ | none => _) < _
    cases hx : e.stage with
    | none => exact hold k
    | some x =>
      dsimp only
      split
      · exact hs x hx _ _ (hold k)
      · exact hold k
  let st0 : SMap Nat := match e.stage with
    | some (b', m) => if b' = w / 4 then m else []
    | none => []
  have hw : ∀ k, k < 3 → smGet (old k) (smPut (w % 4) v st0) k = staged k := by
    intro k hk
    rw [smGet_smPut, if_neg (by omega)]
    show smGet (old k) (match e.stage with | some (b', m) => if b' = w / 4 then m else [] | none => []) k = (match e.stage with | some (b, m) => if b = w / 4 then smGet (old k) m k else old k | none => old k)
    cases hx : e.stage with
    | none => rfl
    | some x =>
      dsimp only
      split
      · rfl
      · rfl
  have h3 : smGet (old 3) (smPut (w % 4) v st0) 3 = v := by rw [smGet_smPut, if_pos h.symm]
  have e1 : e.progWrite w v = { e.setProg (smSet 0 e.prog (w / 4) (BitVec.ofNat 128 (staged 0 + staged 1 * 2 ^ 32 + staged 2 * 2 ^ 64 + v * 2 ^ 96))) with stage := none } := by
    have e0 : e.progWrite w v = { e.setProg (smSet 0 e.prog (w / 4) (BitVec.ofNat 128 (smGet (old 0) (smPut (w % 4) v st0) 0 + smGet (old 1) (smPut (w % 4) v st0) 1 * 2 ^ 32 +
        smGet (old 2) (smPut (w % 4) v st0) 2 * 2 ^ 64 + smGet (old 3) (smPut (w % 4) v st0) 3 * 2 ^ 96))) with stage := none } := by
      have hm : ∀ (f : SMap Nat → Eddy), f (match e.stage with | some (b', m) => if b' = w / 4 then m else [] | none => []) = f st0 := fun _ => rfl
      unfold Eddy.progWrite
      dsimp only
      rw [if_pos h]
      try exact hm (fun m => { e.setProg (smSet 0 e.prog (w / 4) (BitVec.ofNat 128 (smGet (old 0) (smPut (w % 4) v m) 0 + smGet (old 1) (smPut (w % 4) v m) 1 * 2 ^ 32 +
        smGet (old 2) (smPut (w % 4) v m) 2 * 2 ^ 64 + smGet (old 3) (smPut (w % 4) v m) 3 * 2 ^ 96))) with stage := none })
    rw [e0, hw 0 (by decide), hw 1 (by decide), hw 2 (by decide), h3]
  rw [e1]
  refine ⟨rfl, ?_, ?_⟩
  · show (smGet (0 : BitVec 128) (e.setProg _).prog (w / 4)).toNat = _
    rw [setProg_prog, smGet_smSet, if_pos rfl, BitVec.toNat_ofNat]
    apply Nat.mod_eq_of_lt
    have := hlt 0; have := hlt 1; have := hlt 2
    omega
  · intro j hj
    show smGet (0 : BitVec 128) (e.setProg _).prog j = _
    rw [setProg_prog, smGet_smSet, if_neg hj]

theorem eddyAt_put (es : SMap Eddy) (n : Nat) (e : Eddy) (m : Nat) : eddyAt (eddyPut es n e) m = if m = n then e else eddyAt es m := by
  unfold eddyAt eddyPut
  exact smGet_smSet ..

theorem settle_at (es : SMap Eddy) (n : Nat) (h : (eddyAt es n).posted = []) (m : Nat) : eddyAt (settlePosted es n) m = eddyAt es m := by
  unfold settlePosted
  rw [h]
  show eddyAt (eddyPut es n { eddyAt es n with posted := [] }) m = _
  rw [eddyAt_put]
  split
  · rename_i e; subst e; rw [← h]
  · rfl

theorem afterCycle_eddies (s : State) (m : Nat) : (s.afterCycle m false).eddies = s.eddies := by
  unfold State.afterCycle
  simp only [Bool.false_eq_true, if_false]
  split
  · split
    · rw [State.fset_eddies]; rfl
    · rfl
  · split
    · rw [State.fset_eddies]; rfl
    · rfl

/-- What a debugged cycle starts from: nothing of the engines or the registers has changed. -/
theorem wpPc_none (s : State) (m pc : Nat) (h : ∀ k, k < 4 → s.fget (rWP_CFG m k) fWP_CFG_KIND = 0) : s.wpPc m pc = s := by
  unfold State.wpPc
  have : ∀ l : List Nat, (∀ k ∈ l, k < 4) → l.foldl (fun t k =>
    let match_ := Nat.land (Nat.xor pc (t.rd32 (rWP_ADDR m k))) (t.rd32 (rWP_AMASK m k)) % 2 ^ 11
    if t.fget (rWP_CFG m k) fWP_CFG_KIND = 1 ∧ match_ = 0 then t.wpMatch m k pc 0 0 else t) s = s := by
    intro l
    induction l with
    | nil => intro _; rfl
    | cons k l ih =>
      intro hl
      rw [List.foldl_cons]
      dsimp only
      rw [if_neg (by rw [h k (hl k List.mem_cons_self)]; exact fun h => absurd h.1 (by decide))]
      exact ih (fun x hx => hl x (List.mem_cons_of_mem _ hx))
  exact this _ (by simp)

theorem dbgIssue_start (s : State) (n : Nat) (env : IssueEnv) (hr : (s.eddy n).run = .running) (hd : smGet 0 s.dbg.deferred n = 0)
    (hw : ∀ k, k < 4 → s.fget (rWP_CFG n k) fWP_CFG_KIND = 0) :
    ∃ s1 : State, s1.eddies = s.eddies ∧ s1.regs = s.regs ∧ s1.fresh = s.fresh ∧ s.dbgIssue n env = (match (s1.issueEngine n env).2 with
      | .issues pc _ isDone =>
        let s2 := (s1.issueEngine n env).1.setDbg { (s1.issueEngine n env).1.dbg with seen := smSet false (s1.issueEngine n env).1.dbg.seen n false }
        let s3 := s2.wpData n pc (bundleAccess s1.eddies n (s.eddy n).bundle)
        let s4 := if isDone then
            (s3.setEddy n { s3.eddy n with issue := { (s3.eddy n).issue with haltReq := false, stepLeft := 0 } }).traceEngine n 5 pc 0 0 0
          else s3
        s4.afterCycle n (decide ((s.eddy n).issue.stepLeft = 1) && !isDone)
      | .excepts x pc =>
        ((((s1.issueEngine n env).1.setDbg { (s1.issueEngine n env).1.dbg with seen := smSet false (s1.issueEngine n env).1.dbg.seen n false }).traceEngine n 4 pc 0 0 x.cause)).afterCycle n false
      | .waits => (s1.issueEngine n env).1.afterCycle n false
      | .idle => (s1.issueEngine n env).1) := by
  refine ⟨if (decide ((s.eddy n).issue.hold = 0) && !smGet false s.dbg.seen n) = true then (s.setDbg { s.dbg with seen := smSet false s.dbg.seen n true }).wpPc n (s.eddy n).pc else s, ?_, ?_, ?_, ?_⟩
  · split
    · rw [wpPc_none (s.setDbg { s.dbg with seen := smSet false s.dbg.seen n true }) n _ hw]; rfl
    · rfl
  · split
    · rw [wpPc_none (s.setDbg { s.dbg with seen := smSet false s.dbg.seen n true }) n _ hw]; rfl
    · rfl
  · split
    · rw [wpPc_none (s.setDbg { s.dbg with seen := smSet false s.dbg.seen n true }) n _ hw]; rfl
    · rfl
  · conv => lhs; unfold State.dbgIssue
    dsimp only
    rw [if_neg (by rw [hr, hd]; decide)]
    try rfl

/-- One cycle of an engine that runs with nothing pending, by what the cycle comes to. -/
theorem issueEngine_eq (s : State) (n : Nat) (env : IssueEnv) (hr : (s.eddy n).run = .running) (hs : (s.eddy n).issue.stopReq = false)
    (hh : (s.eddy n).issue.haltReq = false) :
    (s.issueEngine n env).2 = (issueCycle s.eddies n env (s.capFull n)).2 ∧
    (s.issueEngine n env).1.eddies = (issueCycle s.eddies n env (s.capFull n)).1 := by
  unfold State.issueEngine
  dsimp only
  rw [if_neg (by rw [hr]; unfold Eddy.boundaryDue; rw [hs, hh]; simp)]
  have hm : ∀ (u : State) k, (u.meterCycles n k).eddies = u.eddies := by
    intro u k; unfold State.meterCycles; split <;> rfl
  have h2 : ∀ u : State, (if env.pmemErr = 1 then u.finc (rEDDY_DMEM_CORR n) fEDDY_DMEM_CORR_PMEM_CORR else u).eddies = u.eddies := by
    intro u; split
    · rw [State.finc_eddies]
    · rfl
  cases hi : (issueCycle s.eddies n env (s.capFull n)).2 with
  | idle => exact ⟨rfl, by rw [h2, hm]; rfl⟩
  | waits => exact ⟨rfl, by rw [h2, hm]; rfl⟩
  | excepts x pc =>
    refine ⟨rfl, ?_⟩
    show (State.recordExc _ _ _ _ _).eddies = _
    rw [(State.recordExc_within _ _ _ _ _).2 .eddies rfl, h2, hm]; rfl
  | issues pc b d =>
    refine ⟨rfl, ?_⟩
    dsimp only
    split
    · rw [State.irq_eddies, (State.countCorr_within _ _).2 .eddies rfl, h2, hm]; rfl
    · rw [(State.countCorr_within _ _).2 .eddies rfl, h2, hm]; rfl

theorem capFull_congr {s t : State} (he : t.eddies = s.eddies) (hr : t.regs = s.regs) (n : Nat) : t.capFull n = s.capFull n := by
  unfold State.capFull State.flag
  rw [State.fget_wordsBut (State.wordsBut_of_regs [] hr) _ rfl (by decide), State.eddy_eddies he]

theorem traceEngine_eddies (s : State) (m a b c d e : Nat) : (s.traceEngine m a b c d e).eddies = s.eddies := (State.traceEngine_within ..).2 .eddies rfl

/-- The engines after a debugged cycle, by what the cycle comes to. -/
theorem dbgIssue_eddies (s : State) (n : Nat) (env : IssueEnv) (hr : (s.eddy n).run = .running) (hs : (s.eddy n).issue.stopReq = false)
    (hh : (s.eddy n).issue.haltReq = false) (hst : (s.eddy n).issue.stepLeft ≠ 1) (hd : smGet 0 s.dbg.deferred n = 0)
    (hw : ∀ k, k < 4 → s.fget (rWP_CFG n k) fWP_CFG_KIND = 0) :
    (∀ x pc, (issueCycle s.eddies n env (s.capFull n)).2 = .excepts x pc → (s.dbgIssue n env).eddies = (issueCycle s.eddies n env (s.capFull n)).1) ∧
    ((issueCycle s.eddies n env (s.capFull n)).2 = .waits → (s.dbgIssue n env).eddies = (issueCycle s.eddies n env (s.capFull n)).1) ∧
    (∀ pc b, (issueCycle s.eddies n env (s.capFull n)).2 = .issues pc b false → bundleAccess s.eddies n (s.eddy n).bundle = none →
      (s.dbgIssue n env).eddies = (issueCycle s.eddies n env (s.capFull n)).1) := by
  obtain ⟨s1, e1, e2, -, e3⟩ := dbgIssue_start s n env hr hd hw
  have hx : s1.eddy n = s.eddy n := State.eddy_eddies e1 n
  obtain ⟨i1, i2⟩ := issueEngine_eq s1 n env (by rw [hx]; exact hr) (by rw [hx]; exact hs) (by rw [hx]; exact hh)
  rw [capFull_congr e1 e2, e1] at i1 i2
  rw [e3, i1]
  refine ⟨?_, ?_, ?_⟩
  · intro x pc h
    rw [h]
    dsimp only
    rw [afterCycle_eddies, traceEngine_eddies, ← i2]; rfl
  · intro h
    rw [h]
    dsimp only
    rw [afterCycle_eddies, ← i2]
  · intro pc b h hb
    rw [h]
    have hb' : bundleAccess s1.eddies n (s.eddy n).bundle = none := by rw [e1]; exact hb
    dsimp only
    rw [decide_eq_false hst, hb']
    show (State.afterCycle _ n false).eddies = _
    rw [afterCycle_eddies, ← i2]
    rfl

/-- A cycle of issueCycle at an engine with nothing posted and no cycles to pass. -/
theorem issueCycle_cases (es0 : SMap Eddy) (n : Nat) (env : IssueEnv) (cap : Bool) (hr : (eddyAt es0 n).run = .running) (hh : (eddyAt es0 n).issue.hold = 0)
    (hp : (eddyAt es0 n).posted = []) :
    let e := eddyAt es0 n
    let es := settlePosted es0 n
    let b := e.bundle
    (∀ x, bundleExc es n env b = some x → ∃ esC, (∀ m, m ≠ n → eddyAt esC m = eddyAt es0 m) ∧ (eddyAt esC n) = { cycleEngine e with issue := { (cycleEngine e).issue with hold := 0 } } ∧
      issueCycle es0 n env cap = (faultEngine esC n, .excepts x e.pc)) ∧
    (∀ x, bundleExc es n env b = none → dueExc (cycleEngine e) e.issue.holdCount (!bundleWaits es n env cap b && bundleReloads e.regs b) = some x →
      ∃ esC, (∀ m, m ≠ n → eddyAt esC m = eddyAt es0 m) ∧ (eddyAt esC n) = { cycleEngine e with issue := { (cycleEngine e).issue with hold := 0 } } ∧
      issueCycle es0 n env cap = (faultEngine esC n, .excepts x e.pc)) ∧
    (bundleExc es n env b = none → bundleWaits es n env cap b = true → dueExc (cycleEngine e) e.issue.holdCount false = none →
      issueCycle es0 n env cap = (eddyPut es n { cycleEngine e with issue := { (cycleEngine e).issue with waiting := true, lockReq := askLock e n b } }, .waits)) ∧
    (bundleExc es n env b = none → bundleWaits es n env cap b = false → dueExc (cycleEngine e) e.issue.holdCount (bundleReloads e.regs b) = none →
      let isDone := decide ((decodeBundle b).s = .done) && guardOf e.regs b 0
      let i := eddyAt (issueBundle es n env b) n
      issueCycle es0 n env cap = (eddyPut (issueBundle es n env b) n { cycleEngine i with
        run := if isDone then .done else i.run
        issue := { (cycleEngine i).issue with hold := i.issue.hold, wdog := if bundleReloads e.regs b then i.issue.wdogLimit else (cycleEngine i).issue.wdog } },
        .issues e.pc b isDone)) := by
  intro e es b
  have he : eddyAt es n = e := settle_at es0 n hp n
  have hesC : ∀ m, m ≠ n → eddyAt (eddyPut es n { cycleEngine e with issue := { (cycleEngine e).issue with hold := 0 } }) m = eddyAt es0 m := by
    intro m hm; rw [eddyAt_put, if_neg hm]; exact settle_at es0 n hp m
  have h1 : ¬ (eddyAt (settlePosted es0 n) n).run ≠ .running := by rw [show eddyAt (settlePosted es0 n) n = e from he, show e.run = _ from hr]; exact fun h => h rfl
  have h2 : ¬ 0 < (eddyAt (settlePosted es0 n) n).issue.hold := by rw [show eddyAt (settlePosted es0 n) n = e from he, show e.issue.hold = _ from hh]; decide
  have hb : (eddyAt (settlePosted es0 n) n).bundle = b := by rw [show eddyAt (settlePosted es0 n) n = e from he]
  have hI : issueCycle es0 n env cap = (match bundleExc es n env b with
      | some x => (faultEngine (eddyPut es n { cycleEngine e with issue := { (cycleEngine e).issue with hold := 0 } }) n, .excepts x e.pc)
      | none =>
        match dueExc (cycleEngine e) e.issue.holdCount (!bundleWaits es n env cap b && bundleReloads e.regs b) with
        | some x => (faultEngine (eddyPut es n { cycleEngine e with issue := { (cycleEngine e).issue with hold := 0 } }) n, .excepts x e.pc)
        | none =>
          if bundleWaits es n env cap b then (eddyPut es n { cycleEngine e with issue := { (cycleEngine e).issue with waiting := true, lockReq := askLock e n b } }, .waits)
          else
            let isDone := decide ((decodeBundle b).s = .done) && guardOf e.regs b 0
            let i := eddyAt (issueBundle es n env b) n
            (eddyPut (issueBundle es n env b) n { cycleEngine i with
              run := if isDone then .done else i.run
              issue := { (cycleEngine i).issue with hold := i.issue.hold, wdog := if bundleReloads e.regs b then i.issue.wdogLimit else (cycleEngine i).issue.wdog } },
              .issues e.pc b isDone)) := by
    unfold issueCycle
    dsimp only
    rw [if_neg h1, if_neg h2, hb, show eddyAt (settlePosted es0 n) n = e from he]
    try rfl
  refine ⟨?_, ?_, ?_, ?_⟩
  · intro x hx
    refine ⟨_, hesC, by rw [eddyAt_put, if_pos rfl], ?_⟩
    rw [hI, hx]
  · intro x hx hd
    refine ⟨_, hesC, by rw [eddyAt_put, if_pos rfl], ?_⟩
    rw [hI, hx]
    dsimp only
    rw [hd]
  · intro hx hw hd
    rw [hI, hx, hw]
    dsimp only
    rw [show (!true && bundleReloads e.regs b) = false from rfl, hd]
    rfl
  · intro hx hw hd isDone i
    rw [hI, hx, hw]
    dsimp only
    rw [show (!false && bundleReloads e.regs b) = bundleReloads e.regs b from rfl, hd]
    rfl

theorem faultEngine_at (es : SMap Eddy) (n : Nat) :
    (eddyAt (faultEngine es n) n).run = .faulted ∧ (eddyAt (faultEngine es n) n).pc = (eddyAt es n).pc ∧ (eddyAt (faultEngine es n) n).regs = (eddyAt es n).regs ∧
    (eddyAt (faultEngine es n) n).issue.held = none := by
  have h : eddyAt (releaseLock es n) n = { (eddyAt es n) with issue := { (eddyAt es n).issue with held := none, lockReq := none, holdCount := 0 }, lockedBy := (eddyAt (releaseLock es n) n).lockedBy } := by
    unfold releaseLock
    dsimp only
    split
    · rw [eddyAt_put, if_pos rfl]
    · rw [eddyAt_put]
      split
      · rename_i m _ e
        subst e
        rw [eddyAt_put, if_pos rfl]
      · rw [eddyAt_put, if_pos rfl]
  unfold faultEngine
  dsimp only
  rw [eddyAt_put, if_pos rfl, h]
  exact ⟨rfl, rfl, rfl, rfl⟩

/-- The words of pages other than the rings' are not written by a trace. -/
theorem trace_word (s : State) (n e : Nat) {K : PageKind} {i o : Nat} (hK : K ≠ .dbgRing) (hi : i < K.count) (ho : o < 4096) : (s.trace n e).word (K.addr i + o) = s.word (K.addr i + o) := by
  have hp : ∀ (u : State) r x, r < 8 → (u.ringPush r x).word (K.addr i + o) = u.word (K.addr i + o) := by
    intro u r x hr
    have hne : ∀ q, q < 4096 → K.addr i + o ≠ PageKind.addr .dbgRing r + q := fun q hq h => hK (addr_inj (k := K) (l := .dbgRing) hi hr ho hq h).1
    have h1 : u.wordsBut (u.ringPush r x) [rRING_STAT r, PageKind.dbgRing.addr r + 0x010] := by
      unfold State.ringPush
      dsimp only
      split
      · split
        · exact State.wordsBut.irq (State.wordsBut.fset (State.wordsBut_of_regs _ rfl) (by decide) (by simp)) (by decide) (by simp)
        · exact State.wordsBut.fset (State.wordsBut_of_regs _ rfl) (by decide) (by simp)
      · split
        · exact State.wordsBut_of_regs _ rfl
        · exact State.wordsBut_finc _ (by decide) (by simp)
    exact h1 _ (by simp [rRING_STAT, hne])
  have : ∀ (l : List Nat) (u : State), (∀ r ∈ l, r < 8) → (l.foldl (fun t r =>
      if t.flag (rRING_CTL r) fRING_CTL_EN && decide (t.fget (rRING_CTL r) fRING_CTL_STALL = n) then t.ringPush r (e + t.tide.now % 2 ^ 64) else t) u).word (K.addr i + o) = u.word (K.addr i + o) := by
    intro l
    induction l with
    | nil => intro u _; rfl
    | cons r l ih =>
      intro u hl
      rw [List.foldl_cons, ih _ (fun x hx => hl x (List.mem_cons_of_mem _ hx))]
      split
      · exact hp _ _ _ (hl r List.mem_cons_self)
      · rfl
  exact this _ s (by simp)

theorem traceEngine_word (s : State) (m a b c d x : Nat) {K : PageKind} {i o : Nat} (hK : K ≠ .dbgRing) (hi : i < K.count) (ho : o < 4096) : (s.traceEngine m a b c d x).word (K.addr i + o) = s.word (K.addr i + o) := by
  unfold State.traceEngine
  split
  · exact trace_word _ _ _ hK hi ho
  · rfl

theorem afterCycle_word (s : State) (m : Nat) (hm : m < 512) {K : PageKind} {i o : Nat} (hK : K ≠ .dbgEddy) (hi : i < K.count) (ho : o < 4096) :
    (s.afterCycle m false).word (K.addr i + o) = s.word (K.addr i + o) := by
  have hne : K.addr i + o ≠ rDBG_E_STAT m := fun h => hK (addr_inj (k := K) (l := .dbgEddy) (j := m) (q := 0x044) hi hm ho (by decide) h).1
  have h1 : s.wordsBut (s.afterCycle m false) [rDBG_E_STAT m] := by
    unfold State.afterCycle
    simp only [Bool.false_eq_true, if_false]
    split
    · split
      · exact State.wordsBut.fset (State.wordsBut_of_regs _ rfl) (by decide) (by simp)
      · exact State.wordsBut_refl _ _
    · split
      · exact State.wordsBut.fset (State.wordsBut_of_regs _ rfl) (by decide) (by simp)
      · exact State.wordsBut_refl _ _
  exact h1 _ (by simpa using hne)

theorem fget_of_word {s t : State} {a : Nat} {f : Fld} (h : t.word a = s.word a) (hf : f.lo + f.width ≤ 32) : t.fget a f = s.fget a f := by
  rw [State.fget_word _ _ hf, State.fget_word _ _ hf, (State.word_eq_iff s t a).mp h]

/-- What a bundle cancelled by an exception leaves in EDDY_EXC and EDDY_EXC_INFO. -/
theorem recordExc_facts (s : State) (n : Nat) (x : Exc) (pc : Nat) (q : Bool) (hc : x.cause < 32) :
    (s.flag (rEDDY_EXC n) fEDDY_EXC_VALID = false → (s.recordExc n x pc q).flag (rEDDY_EXC n) fEDDY_EXC_VALID = true ∧
      (s.recordExc n x pc q).fget (rEDDY_EXC n) fEDDY_EXC_CAUSE = x.cause ∧ (s.recordExc n x pc q).fget (rEDDY_EXC n) fEDDY_EXC_PC = pc % 2048 ∧
      (s.recordExc n x pc q).rd32 (rEDDY_EXC_INFO n) = x.info % 2 ^ 32) ∧
    (s.flag (rEDDY_EXC n) fEDDY_EXC_VALID = true → (s.recordExc n x pc q).word (rEDDY_EXC n) = s.word (rEDDY_EXC n)) := by
  refine ⟨?_, ?_⟩
  · intro h
    have hne : rEDDY_EXC n ≠ rEDDY_EXC_INFO n := by show _ + _ ≠ _ + _; omega
    have hrd : ∃ k, k < 4 ∧ (s.recordExc n x pc q).rd32 (rEDDY_EXC n) = 2 ^ 31 + x.cause % 32 * 2 ^ 26 + k * 2 ^ 24 + pc % 2048 ∧
        (s.recordExc n x pc q).rd32 (rEDDY_EXC_INFO n) = x.info % 2 ^ 32 := by
      have key : ∀ u : State, ∀ k, k < 4 →
          let v := (u.wr32 (rEDDY_EXC n) (2 ^ 31 + x.cause % 32 * 2 ^ 26 + k * 2 ^ 24 + pc % 2048)).wr32 (rEDDY_EXC_INFO n) x.info
          let w := if q then v.irq (PageKind.eddy.addr n) 0 else v
          w.rd32 (rEDDY_EXC n) = 2 ^ 31 + x.cause % 32 * 2 ^ 26 + k * 2 ^ 24 + pc % 2048 ∧ w.rd32 (rEDDY_EXC_INFO n) = x.info % 2 ^ 32 := by
        intro u k hk v w
        have a1 : v.rd32 (rEDDY_EXC n) = 2 ^ 31 + x.cause % 32 * 2 ^ 26 + k * 2 ^ 24 + pc % 2048 := by
          show State.rd32 (State.wr32 _ _ _) _ = _
          rw [State.rd32_wr32_if, if_neg hne, State.rd32_wr32_if, if_pos rfl]
          apply Nat.mod_eq_of_lt
          omega
        have a2 : v.rd32 (rEDDY_EXC_INFO n) = x.info % 2 ^ 32 := by
          show State.rd32 (State.wr32 _ _ _) _ = _
          rw [State.rd32_wr32_if, if_pos rfl]
        show State.rd32 (if q then v.irq (PageKind.eddy.addr n) 0 else v) _ = _ ∧ State.rd32 (if q then v.irq (PageKind.eddy.addr n) 0 else v) _ = _
        split
        · rw [State.rd32_irq _ _ _ _ (by decide), State.rd32_irq _ _ _ _ (by decide), if_neg (show ¬ rEDDY_EXC n = PageKind.eddy.addr n + 0x010 by unfold rEDDY_EXC; omega),
            if_neg (show ¬ rEDDY_EXC_INFO n = PageKind.eddy.addr n + 0x010 by unfold rEDDY_EXC_INFO; omega)]
          exact ⟨a1, a2⟩
        · exact ⟨a1, a2⟩
      unfold State.recordExc
      rw [if_neg (by rw [h]; decide)]
      exact ⟨_, Nat.mod_lt _ (by decide), key _ _ (Nat.mod_lt _ (by decide))⟩
    obtain ⟨k, hk, h1, h2⟩ := hrd
    refine ⟨?_, ?_, ?_, h2⟩
    · unfold State.flag; rw [State.fget_word _ _ (by decide), h1]; show decide (_ / 2 ^ 31 % 2 ^ 1 = 1) = true; simp; omega
    · rw [State.fget_word _ _ (by decide), h1]; show _ / 2 ^ 26 % 2 ^ 5 = _; omega
    · rw [State.fget_word _ _ (by decide), h1]; show _ / 2 ^ 0 % 2 ^ 11 = _; omega
  · intro h
    unfold State.recordExc
    rw [if_pos h]

theorem issueEngine_exc (s : State) (n : Nat) (env : IssueEnv) (hr : (s.eddy n).run = .running) (hs : (s.eddy n).issue.stopReq = false)
    (hh : (s.eddy n).issue.haltReq = false) (x : Exc) (pc : Nat) (hx : (issueCycle s.eddies n env (s.capFull n)).2 = .excepts x pc) :
    ∃ u q, (s.issueEngine n env).1 = State.recordExc u n x pc q ∧ s.wordsBut u [rEDDY_DMEM_CORR n] := by
  unfold State.issueEngine
  dsimp only
  rw [if_neg (by rw [hr]; unfold Eddy.boundaryDue; rw [hs, hh]; simp), hx]
  refine ⟨_, _, rfl, ?_⟩
  have hm : ∀ (u : State) k, (u.meterCycles n k).regs = u.regs := by
    intro u k; unfold State.meterCycles; split <;> rfl
  split
  · exact State.wordsBut.finc (State.wordsBut_of_regs _ (by rw [hm]; rfl)) (by decide) (by simp)
  · exact State.wordsBut_of_regs _ (by rw [hm]; rfl)

theorem dbgIssue_exc (s : State) (n : Nat) (env : IssueEnv) (hn : n < 512) (hr : (s.eddy n).run = .running) (hs : (s.eddy n).issue.stopReq = false)
    (hh : (s.eddy n).issue.haltReq = false) (hd : smGet 0 s.dbg.deferred n = 0)
    (hw : ∀ k, k < 4 → s.fget (rWP_CFG n k) fWP_CFG_KIND = 0) (x : Exc) (pc : Nat) (hx : (issueCycle s.eddies n env (s.capFull n)).2 = .excepts x pc) (hc : x.cause < 32) :
    (s.flag (rEDDY_EXC n) fEDDY_EXC_VALID = false → (s.dbgIssue n env).flag (rEDDY_EXC n) fEDDY_EXC_VALID = true ∧
      (s.dbgIssue n env).fget (rEDDY_EXC n) fEDDY_EXC_CAUSE = x.cause ∧ (s.dbgIssue n env).fget (rEDDY_EXC n) fEDDY_EXC_PC = pc % 2048 ∧
      (s.dbgIssue n env).rd32 (rEDDY_EXC_INFO n) = x.info % 2 ^ 32) ∧
    (s.flag (rEDDY_EXC n) fEDDY_EXC_VALID = true → (s.dbgIssue n env).word (rEDDY_EXC n) = s.word (rEDDY_EXC n)) := by
  obtain ⟨s1, e1, e2, -, e3⟩ := dbgIssue_start s n env hr hd hw
  have hxe : s1.eddy n = s.eddy n := State.eddy_eddies e1 n
  have hx1 : (issueCycle s1.eddies n env (s1.capFull n)).2 = .excepts x pc := by rw [capFull_congr e1 e2, e1]; exact hx
  obtain ⟨i1, -⟩ := issueEngine_eq s1 n env (by rw [hxe]; exact hr) (by rw [hxe]; exact hs) (by rw [hxe]; exact hh)
  obtain ⟨u, q, i3, i4⟩ := issueEngine_exc s1 n env (by rw [hxe]; exact hr) (by rw [hxe]; exact hs) (by rw [hxe]; exact hh) x pc hx1
  rw [i1, hx1] at e3
  dsimp only at e3
  have hword : ∀ o, o < 4096 → (s.dbgIssue n env).word (PageKind.eddy.addr n + o) = (u.recordExc n x pc q).word (PageKind.eddy.addr n + o) := by
    intro o ho
    rw [e3, afterCycle_word _ _ hn (K := .eddy) (by decide) hn ho, traceEngine_word _ _ _ _ _ _ _ (K := .eddy) (by decide) hn ho, ← i3]
    rfl
  have hu : ∀ o, o ≠ 0x04c → u.word (PageKind.eddy.addr n + o) = s.word (PageKind.eddy.addr n + o) := by
    intro o ho
    rw [i4 _ (by simp [rEDDY_DMEM_CORR, ho])]
    unfold State.word; rw [e2]
  have hfl : u.flag (rEDDY_EXC n) fEDDY_EXC_VALID = s.flag (rEDDY_EXC n) fEDDY_EXC_VALID := by
    unfold State.flag
    rw [fget_of_word (show u.word (rEDDY_EXC n) = s.word (rEDDY_EXC n) from hu 0x044 (by decide)) (by decide)]
  have h1 : (s.dbgIssue n env).word (rEDDY_EXC n) = (u.recordExc n x pc q).word (rEDDY_EXC n) := hword 0x044 (by decide)
  have h2 : (s.dbgIssue n env).word (rEDDY_EXC_INFO n) = (u.recordExc n x pc q).word (rEDDY_EXC_INFO n) := hword 0x048 (by decide)
  obtain ⟨a1, a2⟩ := recordExc_facts u n x pc q hc
  rw [hfl] at a1 a2
  refine ⟨?_, ?_⟩
  · intro h
    obtain ⟨b1, b2, b3, b4⟩ := a1 h
    refine ⟨?_, ?_, ?_, ?_⟩
    · rw [← b1]; unfold State.flag; rw [fget_of_word h1 (by decide)]
    · rw [← b2]; exact fget_of_word h1 (by decide)
    · rw [← b3]; exact fget_of_word h1 (by decide)
    · rw [← b4]; exact (State.word_eq_iff _ _ _).mp h2
  · intro h
    exact h1.trans ((a2 h).trans (hu 0x044 (by decide)))

theorem bundleAccess_nop (es : SMap Eddy) (n : Nat) (b : BitVec 128) (h : (decodeBundle b).l = .nop) : bundleAccess es n b = none := by
  unfold bundleAccess
  dsimp only
  split
  · rw [h]
  · rfl

/-- A bundle whose slot S alone holds an instruction, on the engines. -/
theorem issueBundle_slotS (es : SMap Eddy) (n : Nat) (env : IssueEnv) (b : BitVec 128) (i : SInsn) (hb : decodeBundle b = ⟨i, .nop, .nop, .nop⟩)
    (hg : guardOf (eddyAt es n).regs b 0 = true) (hi : i ≠ .unlock) :
    let e := eddyAt es n
    let r := runS n e e.regs i
    (∀ m, m ≠ n → eddyAt (issueBundle es n env b) m = eddyAt es m) ∧
    (eddyAt (issueBundle es n env b) n).regs = r.1 ∧ (eddyAt (issueBundle es n env b) n).pc = r.2.1 ∧ (eddyAt (issueBundle es n env b) n).run = e.run ∧
    (eddyAt (issueBundle es n env b) n).data = e.data ∧ (eddyAt (issueBundle es n env b) n).issue.hold = if r.2.2 then 2 else 0 := by
  intro e r
  have hS : (if guardOf (eddyAt es n).regs b 0 = true then i else SInsn.nop) = i := if_pos hg
  have hx : ∀ (c : Prop) [Decidable c], (if c then LInsn.nop else LInsn.nop) = LInsn.nop := fun c _ => ite_self _
  have hy : ∀ (c : Prop) [Decidable c], (if c then VInsn.nop else VInsn.nop) = VInsn.nop := fun c _ => ite_self _
  have hz : ∀ (c : Prop) [Decidable c], (if c then MInsn.nop else MInsn.nop) = MInsn.nop := fun c _ => ite_self _
  unfold issueBundle
  rw [hb]
  simp only [hS, hx, hy, hz]
  refine ⟨?_, ?_⟩
  · intro m hm
    rw [eddyAt_put, if_neg hm]
    show eddyAt (eddyPut es n _) m = _
    rw [eddyAt_put, if_neg hm]
  · rw [eddyAt_put, if_pos rfl]
    have h3 : ∀ x, eddyAt (runCascade es n (runL es n env (eddyPut es n x) .nop) .nop) n = x := by
      intro x
      show eddyAt (eddyPut es n x) n = _
      rw [eddyAt_put, if_pos rfl]
    refine ⟨?_, ?_, ?_, ?_, ?_⟩
    all_goals dsimp only
    all_goals rw [h3]
    all_goals rfl

/-- A cycle in which what is due raises an exception of its own. -/
theorem due_exception (s : State) (n : Nat) (env : IssueEnv) (x : Exc) (hn : n < 512) (hr : (s.eddy n).run = .running) (hs : (s.eddy n).issue.stopReq = false)
    (hh : (s.eddy n).issue.haltReq = false) (hst : (s.eddy n).issue.stepLeft = 0) (hhold : (s.eddy n).issue.hold = 0) (hp : (s.eddy n).posted = [])
    (hd : smGet 0 s.dbg.deferred n = 0) (hw : ∀ k, k < 4 → s.fget (rWP_CFG n k) fWP_CFG_KIND = 0) (hv : s.flag (rEDDY_EXC n) fEDDY_EXC_VALID = false)
    (hx : bundleExc (settlePosted s.eddies n) n env (s.eddy n).bundle = none) (hrl : bundleReloads (s.eddy n).regs (s.eddy n).bundle = false)
    (hdue : dueExc (cycleEngine (s.eddy n)) (s.eddy n).issue.holdCount false = some x) (hcx : x.cause < 32) :
    ((s.dbgIssue n env).eddy n).run = .faulted ∧ ((s.dbgIssue n env).eddy n).issue.held = none ∧ (s.dbgIssue n env).fget (rEDDY_EXC n) fEDDY_EXC_CAUSE = x.cause ∧
    (s.dbgIssue n env).fget (rEDDY_EXC n) fEDDY_EXC_PC = (s.eddy n).pc % 2048 ∧ (s.dbgIssue n env).rd32 (rEDDY_EXC_INFO n) = x.info % 2 ^ 32 := by
  obtain ⟨d1, -, -⟩ := dbgIssue_eddies s n env hr hs hh (by rw [hst]; decide) hd hw
  obtain ⟨-, c2, -, -⟩ := issueCycle_cases s.eddies n env (s.capFull n) hr hhold hp
  obtain ⟨esC, -, -, k3⟩ := c2 x hx (by
    rw [show bundleReloads (eddyAt s.eddies n).regs (eddyAt s.eddies n).bundle = false from hrl, Bool.and_false]; exact hdue)
  have h4 := d1 x (s.eddy n).pc (by rw [k3]; rfl)
  obtain ⟨f1, -, -, f4⟩ := faultEngine_at esC n
  have he : (s.dbgIssue n env).eddy n = eddyAt (faultEngine esC n) n := by
    show eddyAt (s.dbgIssue n env).eddies n = _
    rw [h4, k3]
  obtain ⟨g1, -⟩ := dbgIssue_exc s n env hn hr hs hh hd hw x (s.eddy n).pc (by rw [k3]; rfl) hcx
  obtain ⟨-, g2, g3, g4⟩ := g1 hv
  rw [he]
  exact ⟨f1, f4, g2, g3, g4⟩

theorem body_streamCtl (s : State) (req : Req) (n p : Nat) (r : RegDef) (v u : Nat) : s.bodyWrite req .eddyIo n p r 0x040 v u = s.streamCtl req n v := by
  unfold State.bodyWrite
  dsimp only
  rw [if_pos rfl]

theorem body_stimIn (s : State) (req : Req) (n p k : Nat) (r : RegDef) (v u : Nat) (hk : k < 8) : s.bodyWrite req .eddyIo n p r (0x050 + 4 * k) v u = s.stimWrite req n k v := by
  unfold State.bodyWrite
  dsimp only
  rw [if_neg (by omega), if_pos (by omega), show (0x050 + 4 * k - 0x050) / 4 = k by omega]

theorem streamCtl_same (s : State) (req : Req) (n v : Nat) (h : v % 4 = s.rd32 (rSTREAM_CTL n) % 4) :
    s.streamCtl req n v = (if v.testBit 10 then (if v.testBit 9 then (if v.testBit 8 then s.flushStreamIn n else s).flushStreamOut n else (if v.testBit 8 then s.flushStreamIn n else s)).capPop n
      else (if v.testBit 9 then (if v.testBit 8 then s.flushStreamIn n else s).flushStreamOut n else (if v.testBit 8 then s.flushStreamIn n else s))) := by
  unfold State.streamCtl
  dsimp only
  rw [if_pos h]

theorem ctlBits : ∀ r < 4, (2 ^ 8 + r).testBit 8 = true ∧ (2 ^ 8 + r).testBit 9 = false ∧ (2 ^ 8 + r).testBit 10 = false ∧ (2 ^ 8 + r) % 4 = r ∧
    (2 ^ 9 + r).testBit 8 = false ∧ (2 ^ 9 + r).testBit 9 = true ∧ (2 ^ 9 + r).testBit 10 = false ∧ (2 ^ 9 + r) % 4 = r ∧
    (2 ^ 10 + r).testBit 8 = false ∧ (2 ^ 10 + r).testBit 9 = false ∧ (2 ^ 10 + r).testBit 10 = true ∧ (2 ^ 10 + r) % 4 = r ∧
    r.testBit 8 = false ∧ r.testBit 9 = false ∧ r.testBit 10 = false := by decide

theorem findReg_stimIn : ∀ k < 8, findReg (0x050 + 4 * k) PageKind.eddyIo.regs = some (⟨0x050, [(8, 4)], false, [⟨31, 0, .wo, 0⟩]⟩, 0x050 + 4 * k) := by decide

theorem listModify_mid {α : Type} (f : α → α) (pre : List α) (x : α) (post : List α) : listModify f (pre ++ x :: post) pre.length = pre ++ f x :: post := by
  induction pre with
  | nil => rfl
  | cons y pre ih => exact congrArg (y :: ·) ih

theorem listDrop_mid {α : Type} (pre : List α) (x : α) (post : List α) : listDrop (pre ++ x :: post) pre.length = pre ++ post := by
  induction pre with
  | nil => rfl
  | cons y pre ih => exact congrArg (y :: ·) ih

theorem get_mid {α : Type} (pre : List α) (x : α) (post : List α) : (pre ++ x :: post)[pre.length]? = some x := by simp

theorem findIdx_mid (pre : List Xfer) (x : Xfer) (post : List Xfer) (hp : pre.all (fun y => y.begun) = true) (hx : x.begun = false) :
    (pre ++ x :: post).findIdx? (fun x => !x.begun) = some pre.length := by
  induction pre with
  | nil => rw [List.nil_append, List.findIdx?_cons, hx]; rfl
  | cons y pre ih =>
    simp only [List.all_cons, Bool.and_eq_true] at hp
    have := ih hp.2
    rw [List.cons_append, List.findIdx?_cons, hp.1, this]
    rfl

theorem upsetOf_nil (m w : Nat) : upsetOf [] m w = 0 := rfl

theorem anyDouble_nil (m w : Nat) : ∀ k, anyDouble [] m w k = false := by
  intro k
  induction k with
  | zero => rfl
  | succ k ih =>
    unfold anyDouble
    rw [ih, upsetOf_nil]
    decide

theorem countSingle_nil (m w : Nat) : ∀ k, countSingle [] m w k = 0 := by
  intro k
  induction k with
  | zero => rfl
  | succ k ih =>
    unfold countSingle
    rw [ih, upsetOf_nil]
    decide

theorem xferHdr_wr (x : Xfer) (k : Nat) : hget (xferHdr x k tWR) hTYPE = tWR ∧ hget (xferHdr x k tWR) hDST = x.word 2 % 1024 := by
  unfold xferHdr
  refine ⟨?_, ?_⟩
  · rw [hget_hset_ne _ _ (by decide) (by decide), hget_hset_ne _ _ (by decide) (by decide), hget_hset_ne _ _ (by decide) (by decide), hget_hset_ne _ _ (by decide) (by decide),
      hget_hset _ _ (by decide)]
    rfl
  · rw [hget_hset_ne _ _ (by decide) (by decide), hget_hset_ne _ _ (by decide) (by decide), hget_hset_ne _ _ (by decide) (by decide), hget_hset_ne _ _ (by decide) (by decide),
      hget_hset_ne _ _ (by decide) (by decide), hget_hset _ _ (by decide)]
    exact Nat.mod_mod ..

theorem writeStatus_nil (n : Nat) (e : Eddy) (a v : Nat) : writeStatus [] n e a v = ({ e with data := smSet 0 e.data ((a + 0x18) / 4) (BitVec.ofNat 32 v) }, true) := by
  unfold writeStatus
  rw [upsetOf_nil]
  exact if_neg (by unfold otherHalf; split <;> decide)

end Sys2Proof.Machine
end

