-- ==== Sys2Proof/Laws/MillraceCommands.lean ====
section
/-! SUPPORT. What the commands of the Millrace do: the ingress, routers, the egress, requests served, completions, and packets cut short. -/

namespace Sys2Proof.Machine

theorem State.ep_setEp_self (s : State) (e : Nat) (x : Ep) : (s.setEp e x).ep e = x := by rw [State.setEp_ep, if_pos rfl]

/-- The ingress checks read the registers, the trackers and which endpoints are unreachable, and nothing else. -/
theorem State.ingressCheck_congr {s t : State} (hr : t.regs = s.regs) (ht : t.mil.track = s.mil.track) (hu : ∀ m, (t.ep m).unreach = (s.ep m).unreach)
    (e : Nat) (p : Pkt) (h : Header) : t.ingressCheck e p h = s.ingressCheck e p h := by
  have h1 : t.reaches e (hget h hDST) p = s.reaches e (hget h hDST) p := by
    unfold State.reaches
    simp only [State.bit_same hr]
  have h2 : t.unreachFor (hget h hDST) h = s.unreachFor (hget h hDST) h := by
    unfold State.unreachFor State.unreachable
    rw [hu]
  unfold State.ingressCheck
  dsimp only
  rw [h1, h2, State.trackAt_mil ht]

theorem State.stamp_congr {s t : State} (hr : t.regs = s.regs) (e : Nat) (p : Pkt) : t.stamp e p = s.stamp e p := by
  have h1 : t.idWord e p = s.idWord e p := by
    unfold State.idWord
    simp only [State.rd32_same hr]
  unfold State.stamp
  rw [h1]

theorem State.ingressCheck_lt {s : State} {e : Nat} {p : Pkt} {h : Header} {st : Nat} (hck : s.ingressCheck e p h = some st) : st ≠ stOK ∧ st < 16 := by
  unfold State.ingressCheck at hck
  dsimp only at hck
  repeat' split at hck
  all_goals first
    | (cases hck; decide)
    | cases hck

/-- R489: a tenant's request whose header is taken: refused, it completes at once; else it is stamped and tracked. -/
theorem State.takeHeader_request (s : State) (e i : Nat) (ho : (s.pkt i).origin = .tenant) (hr : isRsp (s.pkt i).hdr = false)
    (hq : isRsp (s.stamp e (s.pkt i)) = false) :
    s.takeHeader e i = match s.ingressCheck e (s.pkt i) (s.stamp e (s.pkt i)) with
      | some st => (s.killPkt e i).completeLocal e (s.stamp e (s.pkt i)) .tenant st
      | none => (s.setPkt i { s.pkt i with hdr := s.stamp e (s.pkt i), accepted := true }).putTrack e (hget (s.pkt i).hdr hTAG)
          { hdr := s.stamp e (s.pkt i), fenced := false, origin := .tenant } := by
  have ht : (isRsp (s.pkt i).hdr || !ownTags (s.pkt i)) = true := by unfold ownTags; rw [hr, ho]; decide
  unfold State.takeHeader
  dsimp only
  rw [if_pos ht]
  dsimp only
  have hp : ∀ p : Pkt, { p with hdr := hset p.hdr hTAG (hget p.hdr hTAG) } = p := fun p => by rw [hset_self]
  rw [hp (s.pkt i), ho, if_neg (by rw [hq]; decide)]
  try (cases s.ingressCheck e (s.pkt i) (s.stamp e (s.pkt i)) <;> rfl)

/-- R176: a queue whose head is not accepted lets nothing in. -/
theorem State.tryEnter_wait (s : State) (e : Nat) (rsp : Bool) (h : ∀ i q, (s.ep e).inQ rsp = i :: q → (s.pkt i).accepted = false) : s.tryEnter e rsp = s := by
  unfold State.tryEnter
  dsimp only
  split
  · rfl
  · rename_i i q hq
    rw [h i q hq, Bool.not_false, Bool.true_or, if_pos rfl]

/-- R176: the accepted head of an IN queue: into the mesh, or waiting. -/
theorem State.tryEnter_head (s : State) (e : Nat) (rsp : Bool) (i : Nat) (q : List Nat) (hq : (s.ep e).inQ rsp = i :: q) (ha : (s.pkt i).accepted = true) :
    s.tryEnter e rsp = if (decide (clampCt (s.fget (rEPQ_CTL e) fEPQ_CTL_CT_IN) ≤ (s.pkt i).nflits) || (s.pkt i).eop) && (s.ep e).curIn.isNone then
      ((s.setPkt i { s.pkt i with place := .router (epRouter e) (4 + epLocal e) }).setEp e
        { ((s.ep e).setIn rsp q) with curIn := if (s.pkt i).eop then none else some i }).meterLink e (hget (s.pkt i).hdr hSTALL) (s.pkt i).nflits
      else s := by
  unfold State.tryEnter
  dsimp only
  rw [hq]
  dsimp only
  rw [ha]
  cases hcur : (s.ep e).curIn with
  | some j => simp
  | none =>
    rw [if_neg (by decide)]
    by_cases hg : clampCt (s.fget (rEPQ_CTL e) fEPQ_CTL_CT_IN) ≤ (s.pkt i).nflits ∨ (s.pkt i).eop = true
    · rw [if_pos hg]; exact (if_pos (by simpa using hg)).symm
    · rw [if_neg hg]; exact (if_neg (by simpa using hg)).symm

theorem State.meterLink_facts (s : State) (e st n : Nat) : (∀ j, (s.meterLink e st n).pkt j = s.pkt j) ∧ (∀ j, (s.meterLink e st n).ep j = s.ep j) ∧
    (∀ a b, (s.meterLink e st n).trackAt a b = s.trackAt a b) := ⟨fun _ => rfl, fun _ => rfl, fun _ _ => rfl⟩

/-- R160, R176, R184: a request whose checks pass: tracked, and in the mesh once enough of it is in the queue. -/
theorem State.enteredRequest (s : State) (e i : Nat) (q : List Nat) (h : Header) (hq : (s.ep e).reqIn = i :: q) (hin : (s.pkt i).accepted = false) :
    let p := s.pkt i
    let goes := (decide (clampCt (s.fget (rEPQ_CTL e) fEPQ_CTL_CT_IN) ≤ p.nflits) || p.eop) && (s.ep e).curIn.isNone
    let t := ((s.setPkt i { p with hdr := h, accepted := true }).putTrack e (hget p.hdr hTAG) { hdr := h, fenced := false, origin := .tenant }).tryEnter e false
    t.trackAt e (hget p.hdr hTAG) = some ⟨h, false, .tenant⟩ ∧
    t.pkt i = { p with hdr := h, accepted := true, place := if goes then .router (epRouter e) (4 + epLocal e) else p.place } ∧
    t.ep e = (if goes then { s.ep e with reqIn := q, curIn := if p.eop then none else some i } else s.ep e) ∧
    (∀ m, m ≠ e → t.ep m = s.ep m) ∧ (∀ j, j ≠ i → t.pkt j = s.pkt j) ∧ Within [.mil, .tally] s t := by
  intro p goes t
  have hp : ∀ j, ((s.setPkt i { p with hdr := h, accepted := true }).putTrack e (hget p.hdr hTAG) { hdr := h, fenced := false, origin := .tenant }).pkt j =
      if j = i then { p with hdr := h, accepted := true } else s.pkt j := fun j => State.setPkt_pkt s i { p with hdr := h, accepted := true } j
  have he : ∀ j, ((s.setPkt i { p with hdr := h, accepted := true }).putTrack e (hget p.hdr hTAG) { hdr := h, fenced := false, origin := .tenant }).ep j = s.ep j := fun j => State.setPkt_ep s i { p with hdr := h, accepted := true } j
  have htr := State.putTrack_trackAt (s.setPkt i { p with hdr := h, accepted := true }) e (hget p.hdr hTAG) { hdr := h, fenced := false, origin := .tenant } e (hget p.hdr hTAG)
  rw [if_pos rfl] at htr
  have hreg : ((s.setPkt i { p with hdr := h, accepted := true }).putTrack e (hget p.hdr hTAG) { hdr := h, fenced := false, origin := .tenant }).regs = s.regs := rfl
  have hw : Within [.mil, .tally] s ((s.setPkt i { p with hdr := h, accepted := true }).putTrack e (hget p.hdr hTAG) { hdr := h, fenced := false, origin := .tenant }) :=
    Within.via (State.putTrack_within ..) rfl (Within.mono (State.setPkt_within ..) rfl)
  change (State.tryEnter _ e false).trackAt _ _ = _ ∧ (State.tryEnter _ e false).pkt i = _ ∧ (State.tryEnter _ e false).ep e = _ ∧
    (∀ m, m ≠ e → (State.tryEnter _ e false).ep m = _) ∧ (∀ j, j ≠ i → (State.tryEnter _ e false).pkt j = _) ∧ Within _ _ (State.tryEnter _ e false)
  generalize ((s.setPkt i { p with hdr := h, accepted := true }).putTrack e (hget p.hdr hTAG) { hdr := h, fenced := false, origin := .tenant }) = u at hp he htr hreg hw ⊢
  have hi := hp i
  rw [if_pos rfl] at hi
  have hT := State.tryEnter_head u e false i q (by rw [he]; exact hq) (by rw [hi])
  have hgo : ((decide (clampCt (u.fget (rEPQ_CTL e) fEPQ_CTL_CT_IN) ≤ (u.pkt i).nflits) || (u.pkt i).eop) && (u.ep e).curIn.isNone) = goes := by
    rw [hi, he, State.fget_same hreg]; rfl
  rw [hgo] at hT
  cases hg : goes
  · rw [hg, if_neg (by decide)] at hT
    rw [hT]
    refine ⟨htr, hi, he e, fun m _ => he m, fun j hj => (hp j).trans (if_neg hj), hw⟩
  · rw [hg, if_pos rfl] at hT
    rw [hT]
    obtain ⟨m1, m2, m3⟩ := State.meterLink_facts ((u.setPkt i { u.pkt i with place := .router (epRouter e) (4 + epLocal e) }).setEp e
        { ((u.ep e).setIn false q) with curIn := if (u.pkt i).eop then none else some i }) e (hget (u.pkt i).hdr hSTALL) (u.pkt i).nflits
    refine ⟨?_, ?_, ?_, ?_, ?_, ?_⟩
    · rw [m3]; exact htr
    · rw [m1, State.setEp_pkt, State.setPkt_pkt, if_pos rfl, hi]; rfl
    · rw [m2, State.setEp_ep, if_pos rfl, he, hi]; rfl
    · intro m hm; rw [m2, State.setEp_ep, if_neg hm, State.setPkt_ep, he]
    · intro j hj; rw [m1, State.setEp_pkt, State.setPkt_pkt, if_neg hj, hp, if_neg hj]
    · exact Within.via (State.meterLink_within ..) rfl (Within.via (State.setEp_within ..) rfl (Within.via (State.setPkt_within ..) rfl hw))

theorem State.qosWeight_pos (s : State) (k : Nat) : 0 < s.qosWeight k := by
  unfold State.qosWeight
  dsimp only
  split
  · decide
  · omega

/-- R170: one ready virtual channel is the one served. -/
theorem State.arbitrate_one (s : State) (x : OutChan) (vc : Nat) (h : vc < 8) : ∃ x1, s.arbitrate x [vc] = some (vc, x1) := by
  have hd : ∀ k, k < 3 → vc % 4 = k → 0 < (s.refill x [vc]).d k := by
    intro k hk hv
    unfold State.refill
    split
    · rename_i hh
      simp only [List.any_cons, List.any_nil, Bool.or_false, Bool.and_eq_true, decide_eq_true_eq] at hh
      rw [← hv]; exact hh.2
    · have h0 := State.qosWeight_pos s 0
      have h1 := State.qosWeight_pos s 1
      have h2 := State.qosWeight_pos s 2
      have : k = 0 ∨ k = 1 ∨ k = 2 := by omega
      rcases this with rfl | rfl | rfl <;> simpa [OutChan.setD, OutChan.d]
  have hv : vc = 0 ∨ vc = 1 ∨ vc = 2 ∨ vc = 3 ∨ vc = 4 ∨ vc = 5 ∨ vc = 6 ∨ vc = 7 := by omega
  rcases hv with rfl | rfl | rfl | rfl | rfl | rfl | rfl | rfl
  · exact ⟨s.refill x [0], by simp [State.arbitrate, hd 0 (by decide) rfl]⟩
  · exact ⟨s.refill x [1], by simp [State.arbitrate, hd 1 (by decide) rfl]⟩
  · exact ⟨s.refill x [2], by simp [State.arbitrate, hd 2 (by decide) rfl]⟩
  · exact ⟨x, by simp [State.arbitrate]⟩
  · exact ⟨s.refill x [4], by simp [State.arbitrate, hd 0 (by decide) rfl]⟩
  · exact ⟨s.refill x [5], by simp [State.arbitrate, hd 1 (by decide) rfl]⟩
  · exact ⟨s.refill x [6], by simp [State.arbitrate, hd 2 (by decide) rfl]⟩
  · exact ⟨x, by simp [State.arbitrate]⟩

theorem State.arbVc_lt (s : State) (h : Header) : s.arbVc h < 8 := by
  have h1 : b2n (isRsp h) ≤ 1 := by unfold b2n; split <;> decide
  have h2 : hget h hQOS < 4 := Fld.get_lt ..
  unfold State.arbVc vcOf
  dsimp only
  repeat' split
  all_goals omega

/-- R166, R170: a packet alone in asking for its output goes there. -/
theorem State.routerHop_alone (s : State) (i rt d ch rt' : Nat) (hat : (s.pkt i).atRouter = some rt) (hr : s.route rt (s.pkt i).hdr = some (d, ch))
    (hn : neighbour rt d = some rt') (hc : s.contenders rt d ch = [i]) : ∃ x, s.routerHop i [] =
      (s.setPkt i { s.pkt i with place := .router rt' (oppDir d), holds := some (vcKey rt d ch (vcOf (s.pkt i).hdr)) }).setChan rt d ch x := by
  obtain ⟨x1, hx⟩ := State.arbitrate_one s (s.chan rt d ch) (s.arbVc (s.pkt i).hdr) (State.arbVc_lt s _)
  unfold State.routerHop
  rw [hat]
  dsimp only
  unfold State.flitErrs
  rw [if_neg (by rw [hat]; simp), hr]
  dsimp only
  rw [hn]
  dsimp only
  rw [hc, List.map_cons, List.map_nil, hx]
  dsimp only
  rw [if_neg]
  · exact ⟨_, rfl⟩
  · intro h
    rcases h with h | h
    · exact h rfl
    · apply h
      simp [State.turn]

/-- R186: a double-bit error in a header: counted and signalled. -/
theorem State.flitErr_header (s : State) (rt : Nat) (p : Pkt) :
    (s.flitErr rt p true true).fget (rRTR_ECC rt) fRTR_ECC_UNCORR = satInc fRTR_ECC_UNCORR.width (s.fget (rRTR_ECC rt) fRTR_ECC_UNCORR) ∧
    (s.flitErr rt p true true).bit (rIRQ_RAW (PageKind.milRtr.addr rt)) 0 = true ∧ (s.flitErr rt p true true).mil = s.mil ∧
    Within [.regs, .agg] s (s.flitErr rt p true true) := by
  have hw : Within [.regs, .agg] s (s.flitErr rt p true true) := State.flitErr_within ..
  refine ⟨?_, ?_, hw.2 .mil rfl, hw⟩
  · unfold State.flitErr
    dsimp only
    rw [if_pos rfl, if_neg (by simp), State.fget_wordsBut (State.wordsBut_wr32 (l := [rRTR_ECC_LAST rt]) _ _ (by simp)) _ (by simp [rRTR_ECC, rRTR_ECC_LAST]) (by decide),
      State.fget_wordsBut (State.wordsBut_irq (l := [PageKind.milRtr.addr rt + 0x010]) _ (by decide) (by simp)) _ (by simp [rRTR_ECC]) (by decide), fget_finc _ (by decide)]
  · unfold State.flitErr
    dsimp only
    rw [if_pos rfl, if_neg (by simp), State.bit_wordsBut (State.wordsBut_wr32 (l := [rRTR_ECC_LAST rt]) _ _ (by simp)) _ _ (by simp [rIRQ_RAW, rRTR_ECC_LAST]) (by decide)]
    rw [show rIRQ_RAW (PageKind.milRtr.addr rt) = PageKind.milRtr.addr rt + 0x010 from rfl, State.bit_irq _ _ _ _ _ (by decide) (by decide)]; simp

/-- A packet lost in the mesh. -/
theorem State.losePkt_facts (s : State) (i : Nat) : (s.losePkt i).pkt i = Pkt.none ∧ (∀ j, j ≠ i → (s.losePkt i).pkt j = s.pkt j) ∧ (s.losePkt i).regs = s.regs ∧
    ((∀ m, (s.ep m).curIn ≠ some i) → (s.losePkt i).mil.next = s.mil.next ∧ ∀ m, (s.losePkt i).ep m = s.ep m) := by
  have key : ∀ t : State, (t.delPkt i).pkt i = Pkt.none ∧ (∀ j, j ≠ i → (t.delPkt i).pkt j = t.pkt j) ∧ (t.delPkt i).regs = t.regs ∧ (t.delPkt i).mil.next = t.mil.next ∧ ∀ m, (t.delPkt i).ep m = t.ep m := by
    intro t
    unfold State.delPkt
    generalize Pkt.none = p
    exact ⟨(State.setPkt_pkt t i p i).trans (if_pos rfl), fun j hj => (State.setPkt_pkt t i p j).trans (if_neg hj), rfl, rfl, fun m => rfl⟩
  unfold State.losePkt
  dsimp only
  refine ⟨(key _).1, ?_, ?_, ?_⟩
  · intro j hj; rw [(key _).2.1 j hj]; split <;> rfl
  · rw [(key _).2.2.1]; split <;> rfl
  · intro h
    rw [if_neg (h _)]
    exact ⟨(key s).2.2.2.1, (key s).2.2.2.2⟩

theorem State.egressRefusal_lt {s : State} {e : Nat} {h : Header} {st : Nat} (hr : s.egressRefusal e h = some st) : st < 16 := by
  unfold State.egressRefusal at hr
  dsimp only at hr
  repeat' split at hr
  all_goals first
    | (cases hr; decide)
    | cases hr

/-- What an answer of a responder does: the request is gone, and a response waits at the endpoint's ingress. -/
theorem State.respond_facts (s : State) (e i status lines : Nat) (g : Header → Header) (p : Header → Pkt) (hi : i < s.mil.next) (hs : status < 16) (hl : lines < 8)
    (hg : ∀ h f, f.lo + f.width ≤ 256 → hget (g h) f = hget h f) (hp : ∀ h, (p h).hdr = h) :
    let t := (s.killPkt e i).useFree.pushIn e (p (g (s.openRsp (s.pkt i).hdr status lines)))
    (t.pkt i = Pkt.none ∧ hget (t.pkt s.mil.next).hdr hSTATUS = status ∧ hget (t.pkt s.mil.next).hdr hTAG = hget (s.pkt i).hdr hTAG ∧
      hget (t.pkt s.mil.next).hdr hDST = hget (s.pkt i).hdr hSRC ∧ hget (t.pkt s.mil.next).hdr hTYPE = rspTypeOf (hget (s.pkt i).hdr hTYPE) ∧
      (t.ep e).rspIn = (s.ep e).rspIn.filter (fun j => j ≠ i) ++ [s.mil.next]) ∧
    hget (t.pkt s.mil.next).hdr hLINES = lines ∧ t.pkt s.mil.next = { p (g (s.openRsp (s.pkt i).hdr status lines)) with place := .inQ } ∧ Within [.mil, .fresh] s t := by
  intro t
  obtain ⟨k1, k2, k3, k4, k5, k6, k7⟩ := State.killPkt_facts s e i
  obtain ⟨q1, q2, q3, q4, q5, q6⟩ := State.pushIn_facts (s.killPkt e i).useFree e (p (g (s.openRsp (s.pkt i).hdr status lines)))
  obtain ⟨o1, -, -, -, -, -, o7, o8, o9, o10⟩ := openRsp_facts s (s.pkt i).hdr status lines hs hl
  have hr : isRsp (p (g (s.openRsp (s.pkt i).hdr status lines))).hdr = true := by
    rw [hp]; unfold isRsp; rw [hg _ _ (by decide)]; exact isRsp_openRsp s _ status lines hs hl
  rw [State.useFree_mil, k4] at q1 q2 q3
  have hh : (t.pkt s.mil.next).hdr = g (s.openRsp (s.pkt i).hdr status lines) := by
    show ((State.pushIn _ e _).pkt s.mil.next).hdr = _
    rw [q1]; exact hp _
  refine ⟨⟨?_, ?_, ?_, ?_, ?_, ?_⟩, ?_, q1, ?_⟩
  · show (State.pushIn _ e _).pkt i = _
    rw [q2 i (Nat.ne_of_lt hi)]
    exact (k1 i).trans (if_pos rfl)
  · rw [hh, hg _ _ (by decide)]; exact o10
  · rw [hh, hg _ _ (by decide)]; exact o9
  · rw [hh, hg _ _ (by decide)]; exact o1
  · rw [hh, hg _ _ (by decide)]; exact o7
  · show ((State.pushIn _ e _).ep e).rspIn = _
    have k2' : (s.killPkt e i).useFree.ep e = (s.unqueue e i).ep e := k2
    rw [q3, hr, k2', State.unqueue_ep]; rfl
  · rw [hh, hg _ _ (by decide)]; exact o8
  · exact Within.via (State.pushIn_within ..) rfl (Within.via (State.useFree_within ..) rfl (Within.mono (State.killPkt_within ..) rfl))

theorem hget_ext (h : Header) (v : Nat) (f : Fld) (hf : f.lo + f.width ≤ 256) : hget (hset h hEXT v) f = hget h f := hget_hset_ne _ _ (by decide) (Or.inl hf)

theorem State.answer_facts (s : State) (e i status lines v : Nat) (flits : List (BitVec 512 × Bool)) (hi : i < s.mil.next) (hs : status < 16) (hl : lines < 8) :
    let t := s.answer e i status lines (some v) flits
    (t.pkt i = Pkt.none ∧ hget (t.pkt s.mil.next).hdr hSTATUS = status ∧ hget (t.pkt s.mil.next).hdr hTAG = hget (s.pkt i).hdr hTAG ∧
      hget (t.pkt s.mil.next).hdr hDST = hget (s.pkt i).hdr hSRC ∧ hget (t.pkt s.mil.next).hdr hTYPE = rspTypeOf (hget (s.pkt i).hdr hTYPE) ∧
      (t.ep e).rspIn = (s.ep e).rspIn.filter (fun j => j ≠ i) ++ [s.mil.next]) ∧
    hget (t.pkt s.mil.next).hdr hLINES = lines ∧ hget (t.pkt s.mil.next).hdr hEXT = v % 2 ^ 256 ∧ (t.pkt s.mil.next).flits = flits ∧ Within [.mil, .fresh] s t := by
  obtain ⟨h1, h2, h3, h4⟩ := State.respond_facts s e i status lines (fun h => hset h hEXT v) (fun h => mkPkt h flits .inQ false .tenant) hi hs hl
    (fun h f hf => hget_ext h v f hf) (fun _ => rfl)
  refine ⟨h1, h2, ?_, congrArg Pkt.flits h3, h4⟩
  exact (congrArg (fun p : Pkt => hget p.hdr hEXT) h3).trans (hget_hset _ _ (by decide))

theorem memCheck_lt {s : State} {port : Nat} {h : Header} {st : Nat} (hr : s.memCheck port h = some st) : st < 16 := by
  unfold State.memCheck at hr
  dsimp only at hr
  repeat' split at hr
  all_goals first
    | (cases hr; decide)
    | cases hr

theorem State.meterMem_facts (s : State) (port : Nat) (h : Header) (n : Nat) : (∀ j, (s.meterMem port h n).pkt j = s.pkt j) ∧ (∀ m, (s.meterMem port h n).ep m = s.ep m) ∧
    (s.meterMem port h n).mem = s.mem ∧ Within [.tally] s (s.meterMem port h n) := by
  refine ⟨?_, ?_, ?_, State.meterMem_within ..⟩
  all_goals unfold State.meterMem
  · intro j; split <;> rfl
  · intro j; split <;> rfl
  · split <;> rfl

theorem State.readLines_sound (s : State) (port rg src : Nat) (ls : List Nat)
    (h : ∀ l ∈ ls, (s.line (s.lineKey port rg l)).poison = false ∧ s.keyMatches port rg l = true) :
    s.readLines port rg src [] ls = (s, ls.map (fun l => ((s.line (s.lineKey port rg l)).plain, false))) := by
  induction ls with
  | nil => rfl
  | cons l ls ih =>
    have hl := h l (List.mem_cons_self ..)
    have h1 : s.readLine port rg src l none = (s, ((s.line (s.lineKey port rg l)).plain, false)) := by
      unfold State.readLine
      dsimp only
      rw [if_neg (by rw [hl.1]; decide)]
      have : s.lineFault port rg l none = none := by unfold State.lineFault; rw [hl.2]; simp
      rw [this]
      simp only [reduceCtorEq, if_false]
      rw [if_pos hl.2]
    unfold State.readLines
    dsimp only [List.lookup]
    rw [h1]
    dsimp only
    rw [ih (fun x hx => h x (List.mem_cons_of_mem _ hx))]
    rfl

theorem State.line_setLine (s : State) (k : Nat) (v : HLine) (a : Nat) : (s.setLine k v).line a = if a = k then v else s.line a := smGet_smSet ..

theorem State.lineKey_same {s t : State} (h : t.regs = s.regs) (port rg l : Nat) : t.lineKey port rg l = s.lineKey port rg l := by
  unfold State.lineKey State.rgnBase
  rw [State.fget_same h, State.fget_same h]

theorem State.wearUp_mem (s : State) (k n : Nat) : (s.wearUp k n).mem = s.mem := (State.wearUp_within ..).2 .mem rfl

/-- R199, R219: one line written that does not become poison. -/
theorem State.storeLine_facts (s : State) (port rg l : Nat) (d : BitVec 512) :
    (s.storeLine port rg l d).line (s.lineKey port rg l) = ⟨d, if s.rgnCrypt port rg then (s.slot (s.slotFor port rg l)).kid else 0, false⟩ ∧
    (∀ a, a ≠ s.lineKey port rg l → (s.storeLine port rg l d).line a = s.line a) ∧ Within [.regs, .agg, .tol, .mem] s (s.storeLine port rg l d) := by
  have hw : Within [.regs, .agg, .tol, .mem] s (s.storeLine port rg l d) := Within.mono (State.storeLine_within ..) rfl
  have hl : ∀ (t : State) k n a, (t.wearUp k n).line a = t.line a := by intro t k n a; unfold State.line; rw [State.wearUp_mem]
  unfold State.storeLine at hw ⊢
  dsimp only at hw ⊢
  by_cases h : s.rgnCrypt port rg = true
  · rw [if_pos h] at hw ⊢
    refine ⟨?_, ?_, hw⟩
    · rw [hl, State.line_setLine, if_pos rfl, if_pos h]
    · intro a ha; rw [hl, State.line_setLine, if_neg ha]
  · rw [if_neg h] at hw ⊢
    refine ⟨?_, ?_, hw⟩
    · rw [State.line_setLine, if_pos rfl, if_neg h]
    · intro a ha; rw [State.line_setLine, if_neg ha]

theorem State.writeLines_plain (port rg src : Nat) (L : List (Nat × (BitVec 512 × Bool))) : ∀ s : State, s.rgnCrypt port rg = false → (∀ x ∈ L, x.2.2 = false) →
    (L.map (fun x => x.1)).Nodup →
    let r := s.writeLines port rg src (2 ^ 64 - 1) [] L
    r.2 = false ∧ Within [.mem] s r.1 ∧ (∀ x ∈ L, r.1.line (s.lineKey port rg x.1) = ⟨x.2.1, 0, false⟩) ∧
    (∀ a, (∀ x ∈ L, a ≠ s.lineKey port rg x.1) → r.1.line a = s.line a) := by
  induction L with
  | nil => intro s _ _ _; exact ⟨rfl, Within.refl .., fun x hx => absurd hx (by simp), fun _ _ => rfl⟩
  | cons x L ih =>
    obtain ⟨l, d⟩ := x
    intro s hc hp hn
    have hd : d.2 = false := hp _ (List.mem_cons_self ..)
    have h1 : s.writeLine port rg src l (2 ^ 64 - 1) d none = (s.setLine (s.lineKey port rg l) ⟨d.1, 0, false⟩, false) := by
      unfold State.writeLine State.storeLine
      rw [if_neg (by decide), if_neg (by rw [hd]; decide), if_pos rfl, if_neg (by rw [hc]; decide)]
    have hreg : (s.setLine (s.lineKey port rg l) ⟨d.1, 0, false⟩).regs = s.regs := rfl
    have hkey : ∀ m, (s.setLine (s.lineKey port rg l) ⟨d.1, 0, false⟩).lineKey port rg m = s.lineKey port rg m := by
      exact fun m => State.lineKey_same hreg ..
    have hcr : (s.setLine (s.lineKey port rg l) ⟨d.1, 0, false⟩).rgnCrypt port rg = false := by
      unfold State.rgnCrypt at hc ⊢
      rw [State.flag_same hreg]; exact hc
    rw [List.map_cons, List.nodup_cons] at hn
    obtain ⟨i1, i2, i3, i4⟩ := ih (s.setLine (s.lineKey port rg l) ⟨d.1, 0, false⟩) hcr (fun x hx => hp x (List.mem_cons_of_mem _ hx)) hn.2
    have hr : s.writeLines port rg src (2 ^ 64 - 1) [] ((l, d) :: L) = (((s.setLine (s.lineKey port rg l) ⟨d.1, 0, false⟩).writeLines port rg src (2 ^ 64 - 1) [] L).1,
        ((s.setLine (s.lineKey port rg l) ⟨d.1, 0, false⟩).writeLines port rg src (2 ^ 64 - 1) [] L).2) := by
      conv => lhs; unfold State.writeLines
      dsimp only [List.lookup]
      rw [h1]
      dsimp only
      rw [Bool.false_or]
    rw [hr]
    dsimp only
    refine ⟨i1, ?_, ?_, ?_⟩
    · exact Within.via i2 rfl (State.setLine_within ..)
    · intro x hx
      rcases List.mem_cons.mp hx with rfl | hx
      · rw [i4 (s.lineKey port rg l)]
        · rw [State.line_setLine, if_pos rfl]
        · intro y hy
          rw [hkey]
          intro heq
          have : y.1 = l := by unfold State.lineKey at heq; omega
          exact hn.1 (List.mem_map.mpr ⟨y, hy, this⟩)
      · rw [← hkey]; exact i3 x hx
    · intro a ha
      rw [i4 a (fun x hx => by rw [hkey]; exact ha x (List.mem_cons_of_mem _ hx)), State.line_setLine, if_neg (ha (l, d) (List.mem_cons_self ..))]

theorem State.nextRsp_head (s : State) (e ty i : Nat) (q : List Nat) (hq : (s.ep e).rspOut = i :: q) (ha : (s.pkt i).accepted = false) (ht : hget (s.pkt i).hdr hTYPE = ty) :
    s.nextRsp e ty = some i := by
  unfold State.nextRsp
  rw [hq, List.find?_cons, ha, ht]
  simp

/-- R184: a response whose request is outstanding at the tracker, made by a tenant. -/
theorem State.takeRsp_hit (s : State) (e ty i : Nat) (q : List Nat) (k : Track) (hq : (s.ep e).rspOut = i :: q) (ha : (s.pkt i).accepted = false)
    (ht : hget (s.pkt i).hdr hTYPE = ty) (hk : s.trackAt e (hget (s.pkt i).hdr hTAG) = some k) (hf : k.fenced = false) (ho : k.origin = .tenant)
    (hs : hget (s.pkt i).hdr hSRC = hget k.hdr hDST) :
    s.takeRsp e ty = ((s.setPkt i { s.pkt i with accepted := true, origin := .tenant }).dropTrack e (hget (s.pkt i).hdr hTAG)).noteCompletion e (hget k.hdr hDST)
      (hget (s.pkt i).hdr hTAG) (hget (s.pkt i).hdr hSTATUS) := by
  have h1 : s.trackRsp e i = ((s.setPkt i { s.pkt i with accepted := true, origin := .tenant }).dropTrack e (hget (s.pkt i).hdr hTAG)).noteCompletion e (hget k.hdr hDST)
      (hget (s.pkt i).hdr hTAG) (hget (s.pkt i).hdr hSTATUS) := by
    unfold State.trackRsp
    dsimp only
    rw [if_neg (by rw [ha]; decide), hk]
    dsimp only
    rw [if_neg (fun h => h hs), if_neg (by rw [hf]; decide), ho]
  have h2 : (((s.setPkt i { s.pkt i with accepted := true, origin := .tenant }).dropTrack e (hget (s.pkt i).hdr hTAG)).noteCompletion e (hget k.hdr hDST)
      (hget (s.pkt i).hdr hTAG) (hget (s.pkt i).hdr hSTATUS)).pkt i = { s.pkt i with accepted := true, origin := .tenant } := by
    rw [State.pkt_mil (s := (s.setPkt i { s.pkt i with accepted := true, origin := .tenant }).dropTrack e (hget (s.pkt i).hdr hTAG)) ((State.noteCompletion_within ..).2 .mil rfl)]
    exact (State.setPkt_pkt s i _ i).trans (if_pos rfl)
  unfold State.takeRsp
  rw [State.nextRsp_head s e ty i q hq ha ht]
  dsimp only
  rw [h1, h2]
  simp only [Bool.not_true, Bool.false_eq_true, if_false]

theorem State.takeRsp_late (s : State) (e ty i : Nat) (q : List Nat) (hq : (s.ep e).rspOut = i :: q) (ha : (s.pkt i).accepted = false)
    (ht : hget (s.pkt i).hdr hTYPE = ty) (hk : s.trackAt e (hget (s.pkt i).hdr hTAG) = none) : s.takeRsp e ty = (s.killPkt e i).late e := by
  have h1 : s.trackRsp e i = (s.killPkt e i).late e := by
    unfold State.trackRsp
    dsimp only
    rw [if_neg (by rw [ha]; decide), hk]
  unfold State.takeRsp
  rw [State.nextRsp_head s e ty i q hq ha ht]
  dsimp only
  rw [h1]
  have h2 : (((s.killPkt e i).late e).pkt i).accepted = false := by
    rw [State.pkt_mil (s := s.killPkt e i) ((State.late_within ..).2 .mil rfl), (State.killPkt_facts s e i).1, if_pos rfl]
    rfl
  rw [h2]
  simp only [Bool.not_false, if_true]

theorem completeTracked_trackAt (s : State) (e tag st : Nat) (hs : st ≠ stOK) (hlt : st < 16) (a b : Nat) :
    (s.completeTracked e tag st).trackAt a b = if 1024 * a + b = 1024 * e + tag then none else s.trackAt a b := by
  unfold State.completeTracked
  cases h : s.trackAt e tag with
  | none =>
    dsimp only
    split
    · rename_i h2
      rw [trackAt_smGet] at h ⊢
      rw [h2]; exact h
    · rfl
  | some t =>
    dsimp only
    cases hf : t.fenced
    · rw [if_neg (by decide), (State.completeLocal_facts _ e t.hdr t.origin st hs hlt).2.2.2.2.1, State.dropTrack_trackAt]
    · rw [if_pos rfl, State.dropTrack_trackAt]

theorem sweep_fold (st : Nat) (hs : st ≠ stOK) (hlt : st < 16) (l : List (Nat × Nat)) : ∀ s : State,
    let t := l.foldl (fun t x => t.completeTracked x.1 x.2 st) s
    (∀ x ∈ l, t.trackAt x.1 x.2 = none) ∧ (∀ a b, s.trackAt a b = none → t.trackAt a b = none) := by
  induction l with
  | nil => intro s; exact ⟨fun x hx => absurd hx (by simp), fun _ _ h => h⟩
  | cons y l ih =>
    intro s t
    obtain ⟨h1, h2⟩ := ih (s.completeTracked y.1 y.2 st)
    have hkeep : ∀ a b, s.trackAt a b = none → (s.completeTracked y.1 y.2 st).trackAt a b = none := by
      intro a b h
      rw [completeTracked_trackAt s _ _ _ hs hlt]
      split
      · rfl
      · exact h
    refine ⟨?_, fun a b h => h2 a b (hkeep a b h)⟩
    intro x hx
    rcases List.mem_cons.mp hx with rfl | hx
    · exact h2 _ _ (by rw [completeTracked_trackAt s _ _ _ hs hlt, if_pos rfl])
    · exact h1 x hx

/-- R180: the IN side's current request cut short in the mesh. -/
theorem State.dropRestIn_request (s : State) (e i : Nat) (k : Track) {r n : Nat} (hcur : (s.ep e).curIn = some i) (hi : i < s.mil.next)
    (hp : (s.pkt i).place = .router r n) (hr : isRsp (s.pkt i).hdr = false) (hk : s.trackAt e (hget (s.pkt i).hdr hTAG) = some k) :
    let t := s.dropRestIn e
    t.pkt i = { s.pkt i with eop := true, trunc := true } ∧ t.trackAt e (hget (s.pkt i).hdr hTAG) = none ∧
      t.ep e = { s.ep e with curIn := none, skipIn := 1, rspOut := (s.ep e).rspOut ++ [s.mil.next] } ∧ hget (t.pkt s.mil.next).hdr hSTATUS = stDROPPED ∧
      hget (t.pkt s.mil.next).hdr hTAG = hget k.hdr hTAG ∧ (∀ j, j ≠ i → j ≠ s.mil.next → t.pkt j = s.pkt j) ∧ (∀ m, m ≠ e → t.ep m = s.ep m) ∧
      Within [.regs, .agg, .mil, .fresh] s t := by
  intro t
  have hx : s.dropRestIn e = (((s.setPkt i { s.pkt i with eop := true, trunc := true }).setEp e { s.ep e with curIn := none, skipIn := 1 }).dropTrack e
      (hget (s.pkt i).hdr hTAG)).completeLocal e k.hdr k.origin stDROPPED := by
    unfold State.dropRestIn
    rw [hcur]
    dsimp only
    have ht : s.truncate i = s.setPkt i { s.pkt i with eop := true, trunc := true } := by
      unfold State.truncate
      dsimp only
      rw [hp]
    rw [ht, if_neg (by rw [hr]; decide)]
    rw [show ((s.setPkt i { s.pkt i with eop := true, trunc := true }).setEp e { s.ep e with curIn := none, skipIn := 1 }).trackAt e (hget (s.pkt i).hdr hTAG) = some k from hk]
  have hne : i ≠ s.mil.next := Nat.ne_of_lt hi
  show (s.dropRestIn e).pkt i = _ ∧ (s.dropRestIn e).trackAt e _ = _ ∧ (s.dropRestIn e).ep e = _ ∧ hget ((s.dropRestIn e).pkt _).hdr _ = _ ∧
    hget ((s.dropRestIn e).pkt _).hdr _ = _ ∧ (∀ j, j ≠ i → j ≠ s.mil.next → (s.dropRestIn e).pkt j = _) ∧ (∀ m, m ≠ e → (s.dropRestIn e).ep m = _) ∧ Within _ s (s.dropRestIn e)
  have hw : Within [.regs, .agg, .mil, .fresh] s (s.dropRestIn e) := by
    rw [hx]
    exact Within.via (State.completeLocal_within ..) rfl (Within.via (State.dropTrack_within ..) rfl (Within.via (State.setEp_within ..) rfl (Within.mono (State.setPkt_within ..) rfl)))
  rw [hx] at hw ⊢
  obtain ⟨⟨d1, d2, d3, d4, d5, d6, d7, d8, d9⟩, c2, c3, c4, c5, c6, c7, c8, c9⟩ := State.completeLocal_facts
    (((s.setPkt i { s.pkt i with eop := true, trunc := true }).setEp e { s.ep e with curIn := none, skipIn := 1 }).dropTrack e (hget (s.pkt i).hdr hTAG)) e k.hdr k.origin stDROPPED
    (by decide) (by decide)
  have hpk : ∀ j, (((s.setPkt i { s.pkt i with eop := true, trunc := true }).setEp e { s.ep e with curIn := none, skipIn := 1 }).dropTrack e (hget (s.pkt i).hdr hTAG)).pkt j =
      if j = i then { s.pkt i with eop := true, trunc := true } else s.pkt j := fun j => State.setPkt_pkt s i { s.pkt i with eop := true, trunc := true } j
  have hep : ∀ m, (((s.setPkt i { s.pkt i with eop := true, trunc := true }).setEp e { s.ep e with curIn := none, skipIn := 1 }).dropTrack e (hget (s.pkt i).hdr hTAG)).ep m =
      if m = e then { s.ep e with curIn := none, skipIn := 1 } else s.ep m := fun m => State.setEp_ep (s.setPkt i { s.pkt i with eop := true, trunc := true }) e _ m
  refine ⟨?_, ?_, ?_, d5, d6, ?_, ?_, hw⟩
  · exact (c2 i hne).trans ((hpk i).trans (if_pos rfl))
  · rw [c5, State.dropTrack_trackAt, if_pos rfl]
  · rw [c3, hep, if_pos rfl]; rfl
  · intro j hj hj2; exact (c2 j hj2).trans ((hpk j).trans (if_neg hj))
  · intro m hm; rw [c4 m hm, hep, if_neg hm]

theorem epqBits : ∀ c < 128, (fEPQ_CTL_FLUSH_IN.get (2 ^ 8 + c) = 1 ∧ fEPQ_CTL_FLUSH_OUT.get (2 ^ 8 + c) ≠ 1 ∧ fEPQ_CTL_DROP_REST_IN.get (2 ^ 8 + c) ≠ 1 ∧ fEPQ_CTL_DROP_REST_OUT.get (2 ^ 8 + c) ≠ 1) ∧
    (fEPQ_CTL_FLUSH_IN.get (2 ^ 9 + c) ≠ 1 ∧ fEPQ_CTL_FLUSH_OUT.get (2 ^ 9 + c) = 1 ∧ fEPQ_CTL_DROP_REST_IN.get (2 ^ 9 + c) ≠ 1 ∧ fEPQ_CTL_DROP_REST_OUT.get (2 ^ 9 + c) ≠ 1) ∧
    (fEPQ_CTL_FLUSH_IN.get (2 ^ 10 + c) ≠ 1 ∧ fEPQ_CTL_FLUSH_OUT.get (2 ^ 10 + c) ≠ 1 ∧ fEPQ_CTL_DROP_REST_IN.get (2 ^ 10 + c) = 1 ∧ fEPQ_CTL_DROP_REST_OUT.get (2 ^ 10 + c) ≠ 1) ∧
    (fEPQ_CTL_FLUSH_IN.get (2 ^ 11 + c) ≠ 1 ∧ fEPQ_CTL_FLUSH_OUT.get (2 ^ 11 + c) ≠ 1 ∧ fEPQ_CTL_DROP_REST_IN.get (2 ^ 11 + c) ≠ 1 ∧ fEPQ_CTL_DROP_REST_OUT.get (2 ^ 11 + c) = 1) := by decide +kernel

theorem body_epqCtl (s : State) (req : Req) (n p : Nat) (r : RegDef) (v u : Nat) : s.bodyWrite req .milEp n p r 0x040 v u = s.epqCtlWrite n r (p + 0x040) v := by
  unfold State.bodyWrite
  dsimp only
  rw [if_pos rfl]

/-- What writing EPQ_CTL starts from, before its command bits act: the interface is untouched. -/
theorem State.epqPut (s : State) (req : Req) (e v : Nat) (hv : req.valid = true) (he : e < 0x195) (ht : s.takes req .milEp e 0x040 = true) :
    ∃ s1, s1.mil = s.mil ∧ s1.clk = s.clk ∧ s1.out = s.out ∧ Within [.regs, .views, .agg] s s1 ∧
      s.putReg req (rEPQ_CTL e) v = (
        let s2 := if fEPQ_CTL_DROP_REST_IN.get v = 1 then s1.dropRestIn e else s1
        let s3 := if fEPQ_CTL_DROP_REST_OUT.get v = 1 then s2.dropRestOut e else s2
        let s4 := if fEPQ_CTL_FLUSH_IN.get v = 1 then s3.flushIn e else s3
        if fEPQ_CTL_FLUSH_OUT.get v = 1 then s4.flushOut e else s4) := by
  refine ⟨(s.setViewBuf req (PageKind.milEp.addr e) ViewBuf.empty).plainWrite ⟨0x040, [], false, [⟨11, 11, .wo, 0⟩, ⟨10, 10, .wo, 0⟩, ⟨9, 9, .wo, 0⟩, ⟨8, 8, .wo, 0⟩, ⟨6, 4, .rw, 1⟩, ⟨2, 0, .rw, 1⟩]⟩ (PageKind.milEp.addr e + 0x040) v, ?_, ?_, ?_, ?_, ?_⟩
  · exact (State.plainWrite_within ..).2 .mil rfl
  · exact (State.plainWrite_within ..).2 .clk rfl
  · exact (State.plainWrite_within ..).2 .out rfl
  · exact Within.via (State.plainWrite_within ..) rfl (Within.mono (State.setViewBuf_within ..) rfl)
  · rw [show rEPQ_CTL e = PageKind.milEp.addr e + 0x040 from rfl, State.putReg_body s req .milEp v (r := ⟨0x040, [], false, [⟨11, 11, .wo, 0⟩, ⟨10, 10, .wo, 0⟩, ⟨9, 9, .wo, 0⟩, ⟨8, 8, .wo, 0⟩, ⟨6, 4, .rw, 1⟩, ⟨2, 0, .rw, 1⟩]⟩)
      hv (show e < PageKind.milEp.count from he) (by decide) (by decide) (by decide) (by simp) ht rfl rfl, body_epqCtl]
    rfl

theorem State.flushEffect_empty (s : State) (e : Nat) (h : (s.ep e).flushIn = true) (hc : (s.ep e).curIn = none) (h1 : (s.ep e).reqIn = []) (h2 : (s.ep e).rspIn = []) :
    s.flushEffect e false = (s.setEp e { s.ep e with flushIn := false }).irq (PageKind.milEp.addr e) 2 := by
  unfold State.flushEffect
  dsimp only
  have hd : s.discardAll (fun t i => t.discardIn e i) none false ((s.ep e).reqIn ++ (s.ep e).rspIn) = s := by rw [h1, h2]; rfl
  rw [if_neg (by decide), if_neg (by rw [h, hc]; decide), hd]

theorem State.flushEffect_emptyOut (s : State) (e : Nat) (h : (s.ep e).flushOut = true) (hc : (s.ep e).curOut = none) (h1 : (s.ep e).reqOut = []) (h2 : (s.ep e).rspOut = []) :
    s.flushEffect e true = (s.setEp e { s.ep e with flushOut := false }).irq (PageKind.milEp.addr e) 2 := by
  unfold State.flushEffect
  dsimp only
  have hd : s.discardAll (fun t i => t.discardOut e i) none true ((s.ep e).reqOut ++ (s.ep e).rspOut) = s := by rw [h1, h2]; rfl
  rw [if_pos rfl, if_neg (by rw [h, hc]; decide), hd]

theorem milIrq_facts (s : State) (e k : Nat) (hk : k < 32) : (s.irq (PageKind.milEp.addr e) k).bit (rIRQ_RAW (PageKind.milEp.addr e)) k = true ∧
    (s.irq (PageKind.milEp.addr e) k).mil = s.mil := by
  refine ⟨?_, State.irq_mil ..⟩
  rw [show rIRQ_RAW (PageKind.milEp.addr e) = PageKind.milEp.addr e + 0x010 from rfl, State.bit_irq _ _ _ _ _ hk hk]; simp

end Sys2Proof.Machine
end

