-- ==== Sys2Proof/Laws/MemoryCommands.lean ====
section
/-! SUPPORT. What the commands of memory and of the Sluice do: region commands, zeroing, the walk, wear. -/

namespace Sys2Proof.Machine

theorem hbmp_addr (p : Nat) : PageKind.addr .hbmp p = 0x0a010000 + p / 64 * 0x40000 + p % 64 * 0x1000 := rfl

theorem sluice_addr : PageKind.addr .sluiceCtl 0 = 0x0a000000 := rfl

/-- The registers of a memory port and of the Sluice lie apart. -/
theorem mem_apart (p i k : Nat) (hp : p < 66) (hi : i < 32) (hk : k < 128) :
    rRGN_CFG p i ≠ rRGN_WM p i ∧ rRGN_CFG p i ≠ rRGN_KEY p i ∧ rRGN_CFG p i ≠ rHBMP_STAT p ∧ rRGN_CFG p i ≠ rSLUICE_SLOT 0 k ∧
    rRGN_WM p i ≠ rRGN_KEY p i ∧ rRGN_WM p i ≠ rHBMP_STAT p ∧ rRGN_WM p i ≠ rSLUICE_SLOT 0 k ∧ rRGN_KEY p i ≠ rHBMP_STAT p ∧ rRGN_KEY p i ≠ rSLUICE_SLOT 0 k ∧
    rHBMP_STAT p ≠ rSLUICE_SLOT 0 k ∧ rHBMP_STAT p ≠ PageKind.addr .hbmp p + 0x010 ∧ rRGN_CFG p i ≠ PageKind.addr .hbmp p + 0x010 ∧ rRGN_WM p i ≠ PageKind.addr .hbmp p + 0x010 := by
  unfold rRGN_CFG rRGN_WM rRGN_KEY rHBMP_STAT rSLUICE_SLOT
  rw [hbmp_addr, sluice_addr]
  refine ⟨?_, ?_, ?_, ?_, ?_, ?_, ?_, ?_, ?_, ?_, ?_, ?_, ?_⟩ <;> omega

theorem slot_apart (j k : Nat) (h : j ≠ k) : rSLUICE_SLOT 0 j ≠ rSLUICE_SLOT 0 k := by
  unfold rSLUICE_SLOT; omega

theorem State.syncStat_facts (s : State) (p : Nat) : s.wordsBut (s.syncStat p) [rHBMP_STAT p] ∧ (s.syncStat p).mem = s.mem := by
  unfold State.syncStat
  exact ⟨State.wordsBut_wr32 _ _ (List.mem_singleton.mpr rfl), (State.wr32_within ..).2 .mem rfl⟩

theorem State.setPortWork_facts (s : State) (p : Nat) (w : PortWork) : s.wordsBut (s.setPortWork p w) [rHBMP_STAT p] ∧
    (s.setPortWork p w).mem.lines = s.mem.lines ∧ (s.setPortWork p w).mem.slots = s.mem.slots ∧ (s.setPortWork p w).portWork p = w ∧
    (∀ q, q ≠ p → (s.setPortWork p w).portWork q = s.portWork q) ∧ Within [.regs, .agg, .mem] s (s.setPortWork p w) := by
  have h := State.syncStat_facts { s with mem := { s.mem with work := smSet PortWork.idle s.mem.work p w } } p
  unfold State.setPortWork
  refine ⟨State.wordsBut_trans (State.wordsBut_of_regs _ rfl) h.1, ?_, ?_, ?_, ?_, Within.mono (State.setPortWork_within ..) rfl⟩
  · rw [h.2]
  · rw [h.2]
  · unfold State.portWork; rw [h.2]; exact (smGet_smSet ..).trans (if_pos rfl)
  · intro q hq; unfold State.portWork; rw [h.2]; exact (smGet_smSet ..).trans (if_neg hq)

theorem State.rgnRef_facts (s : State) (k : Nat) (up : Bool) : s.wordsBut (s.rgnRef k up) [rSLUICE_SLOT 0 k] ∧
    (s.rgnRef k up).fget (rSLUICE_SLOT 0 k) fSLUICE_SLOT_RGN_REFS =
      (if up then s.fget (rSLUICE_SLOT 0 k) fSLUICE_SLOT_RGN_REFS + 1 else s.fget (rSLUICE_SLOT 0 k) fSLUICE_SLOT_RGN_REFS - 1) % 2 ^ 12 ∧
    (s.rgnRef k up).mem = s.mem ∧ Within [.regs, .agg] s (s.rgnRef k up) := by
  unfold State.rgnRef
  dsimp only
  refine ⟨State.wordsBut_fset _ _ (by decide) (List.mem_singleton.mpr rfl), ?_, (State.fset_within ..).2 .mem rfl, Within.mono (State.fset_within ..) rfl⟩
  rw [State.fget_fset_if _ _ _ _ (by decide), if_pos rfl]
  rfl

theorem body_mem (s : State) (req : Req) (i p : Nat) (r : RegDef) (e v u : Nat) : s.bodyWrite req .hbmp i p r e v u = s.memPageWrite req i r (p + e) e v ∧
    s.bodyWrite req .memCxl i p r e v u = s.memPageWrite req (64 + i) r (p + e) e v := by
  unfold State.bodyWrite
  exact ⟨rfl, rfl⟩

theorem memPage_cmd (s : State) (req : Req) (port i : Nat) (r : RegDef) (a v : Nat) : s.memPageWrite req port r a (0x114 + 0x20 * i) v = s.rgnCmd req port i v := by
  unfold State.memPageWrite
  rw [if_neg (by omega), show (0x114 + 0x20 * i - 0x100) / 0x20 = i by omega, show (0x114 + 0x20 * i - 0x100) % 0x20 = 0x14 by omega]
  unfold State.rgnWrite
  exact if_pos rfl

theorem findReg_rgnCmd : ∀ i < 32, findReg (0x114 + 0x20 * i) PageKind.hbmp.regs = some (⟨0x114, [(32, 0x20)], false, [⟨3, 3, .wo, 0⟩, ⟨2, 2, .wo, 0⟩, ⟨1, 1, .wo, 0⟩, ⟨0, 0, .wo, 0⟩]⟩, 0x114 + 0x20 * i) ∧
    findReg (0x114 + 0x20 * i) PageKind.memCxl.regs = some (⟨0x114, [(32, 0x20)], false, [⟨3, 3, .wo, 0⟩, ⟨2, 2, .wo, 0⟩, ⟨1, 1, .wo, 0⟩, ⟨0, 0, .wo, 0⟩]⟩, 0x114 + 0x20 * i) := by decide +kernel

/-- R230: a taken write of RGN_CMD_i of a memory port. -/
theorem State.putRgnCmd (s : State) (req : Req) (port i v : Nat) (hv : req.valid = true) (hp : port < 66) (hi : i < 32)
    (ht : (if port < 64 then s.takes req .hbmp port (0x114 + 0x20 * i) else s.takes req .memCxl (port - 64) (0x114 + 0x20 * i)) = true) :
    ∃ q, s.putReg req (rRGN_CMD port i) v = (s.setViewBuf req q ViewBuf.empty).rgnCmd req port i v := by
  by_cases h : port < 64
  · rw [if_pos h] at ht
    refine ⟨PageKind.hbmp.addr port, ?_⟩
    rw [show rRGN_CMD port i = PageKind.hbmp.addr port + (0x114 + 0x20 * i) by unfold rRGN_CMD; omega,
      State.putReg_body s req .hbmp v hv (show port < PageKind.hbmp.count from h) (by omega) (by omega) (by omega) (by simp) ht (findReg_rgnCmd i hi).1 rfl,
      (body_mem ..).1, memPage_cmd]
  · rw [if_neg h] at ht
    refine ⟨PageKind.memCxl.addr (port - 64), ?_⟩
    have ha : PageKind.hbmp.addr port = PageKind.memCxl.addr (port - 64) := by
      have : port = 64 ∨ port = 65 := by omega
      rcases this with rfl | rfl <;> rfl
    rw [show rRGN_CMD port i = PageKind.memCxl.addr (port - 64) + (0x114 + 0x20 * i) by unfold rRGN_CMD; rw [ha]; omega,
      State.putReg_body s req .memCxl v hv (show port - 64 < 2 by omega) (by omega) (by omega) (by omega) (by simp) ht (findReg_rgnCmd i hi).2 rfl,
      (body_mem ..).2, memPage_cmd, show 64 + (port - 64) = port by omega]

theorem hbmp_page (port o : Nat) (hp : port < 66) (ho : o < 4096) : (PageKind.hbmp.addr port + o) / 4096 * 4096 = PageKind.hbmp.addr port := by
  rw [hbmp_addr]; omega

theorem State.refuse_plain (s : State) (req : Req) (p o c : Nat) (hp : (p + o) / 4096 * 4096 = p) :
    (s.refuse req (p + o) c).bit (rIRQ_RAW p) 31 = true ∧ s.wordsBut (s.refuse req (p + o) c) [rERR_COUNT p, rIRQ_RAW p, rERR_FIRST p] := by
  have h1 : ((s.finc (rERR_COUNT p) fERR_COUNT_COUNT).irq p 31).bit (rIRQ_RAW p) 31 = true := by
    rw [show rIRQ_RAW p = p + 0x010 from rfl, State.bit_irq _ _ _ _ _ (by decide) (by decide)]; simp
  have h2 : s.wordsBut ((s.finc (rERR_COUNT p) fERR_COUNT_COUNT).irq p 31) [rERR_COUNT p, rIRQ_RAW p, rERR_FIRST p] :=
    State.wordsBut.irq (State.wordsBut_finc _ (by decide) (by simp)) (by decide) (by simp [rIRQ_RAW])
  unfold State.refuse
  dsimp only
  rw [hp]
  split
  · exact ⟨h1, h2⟩
  · refine ⟨?_, State.wordsBut.wr32 h2 (by simp)⟩
    rw [State.bit_wordsBut (State.wordsBut_wr32 (l := [rERR_FIRST p]) _ _ (by simp)) _ _ (by simp [rIRQ_RAW, rERR_FIRST]) (by decide)]
    exact h1

theorem State.rgnCmd_create (s : State) (req : Req) (port i : Nat) : s.rgnCmd req port i 1 = if s.canCreate port i = true then s.rgnCreate port i else s.refuse req (rRGN_CMD port i) causeRule := by
  unfold State.rgnCmd
  dsimp only
  rw [if_neg (show ¬ 1 % 16 = 0 by decide), if_pos (show 1 % 16 = 1 by decide)]

theorem State.rgnCmd_destroy (s : State) (req : Req) (port i : Nat) : s.rgnCmd req port i 2 = s.rgnDestroy port i := by
  unfold State.rgnCmd
  dsimp only
  rw [if_neg (show ¬ 2 % 16 = 0 by decide), if_neg (show ¬ 2 % 16 = 1 by decide), if_pos (show 2 % 16 = 2 by decide)]

theorem State.rgnCmd_rekey (s : State) (req : Req) (port i : Nat) : s.rgnCmd req port i 4 = if s.canRekey port i = true then s.rgnRekey port i else s.refuse req (rRGN_CMD port i) causeRule := by
  unfold State.rgnCmd
  dsimp only
  rw [if_neg (show ¬ 4 % 16 = 0 by decide), if_neg (show ¬ 4 % 16 = 1 by decide), if_neg (show ¬ 4 % 16 = 2 by decide), if_pos (show 4 % 16 = 4 by decide)]

theorem State.rgnCmd_finish (s : State) (req : Req) (port i : Nat) : s.rgnCmd req port i 8 = if s.rgnState port i = 4 then s.rgnFinish port i else s.refuse req (rRGN_CMD port i) causeRule := by
  unfold State.rgnCmd
  dsimp only
  rw [if_neg (show ¬ 8 % 16 = 0 by decide), if_neg (show ¬ 8 % 16 = 1 by decide), if_neg (show ¬ 8 % 16 = 2 by decide), if_neg (show ¬ 8 % 16 = 4 by decide), if_pos (show 8 % 16 = 8 by decide)]

theorem State.setViewBuf_regs' (s : State) (req : Req) (q : Nat) (b : ViewBuf) : (s.setViewBuf req q b).regs = s.regs := rfl

theorem rd_wr_zero (s t : State) (port i : Nat) (h : t.word (rRGN_WM port i) = (s.wr32 (rRGN_WM port i) 0).word (rRGN_WM port i)) : t.rgnWm port i = 0 := by
  unfold State.rgnWm State.fget State.rd32
  rw [if_pos (by decide), h, State.word_wr32, if_pos rfl]
  rfl

theorem State.fget_lt (s : State) (a : Nat) {f : Fld} (h : f.lo + f.width ≤ 32) : s.fget a f < 2 ^ f.width := by
  rw [State.fget_word _ _ h]; exact Fld.get_lt ..

/-- A field written reads back; a field of another register stays. -/
theorem State.fget_fset_other (s : State) {a b : Nat} {f g : Fld} (v : Nat) (hf : f.lo + f.width ≤ 32) (hg : g.lo + g.width ≤ 32) (h : b ≠ a) :
    (s.fset a f v).fget b g = s.fget b g := State.fget_wordsBut (State.wordsBut_fset (l := [a]) _ _ hf (List.mem_singleton.mpr rfl)) _ (by simpa using h) hg

/-- What a region command writes: STATE and WM of the region. -/
theorem State.setRegion_facts (s : State) (port i v : Nat) (hv : v < 8) (hne : rRGN_CFG port i ≠ rRGN_WM port i) :
    let t := (s.setRgnState port i v).wr32 (rRGN_WM port i) 0
    t.rgnState port i = v ∧ t.rgnWm port i = 0 ∧ s.wordsBut t [rRGN_CFG port i, rRGN_WM port i] ∧ t.mem = s.mem ∧ Within [.regs, .agg] s t := by
  intro t
  have ht : t = (s.setRgnState port i v).wr32 (rRGN_WM port i) 0 := rfl
  refine ⟨?_, ?_, ?_, ?_, ?_⟩
  · unfold State.rgnState
    rw [ht, State.fget_wordsBut (State.wordsBut_wr32 (l := [rRGN_WM port i]) _ _ (List.mem_singleton.mpr rfl)) _ (by simpa using hne) (by decide)]
    unfold State.setRgnState
    rw [State.fget_fset_if _ _ _ _ (by decide), if_pos rfl]
    exact Nat.mod_eq_of_lt hv
  · exact rd_wr_zero _ t port i (by rw [ht])
  · rw [ht]; unfold State.setRgnState
    exact State.wordsBut.wr32 (State.wordsBut_fset _ _ (by decide) (by simp)) (by simp)
  · rw [ht]; exact ((State.wr32_within ..).2 .mem rfl).trans ((State.setRgnState_within ..).2 .mem rfl)
  · rw [ht]; exact Within.via (State.wr32_within ..) rfl (Within.mono (State.setRgnState_within ..) rfl)

/-- CREATE and REKEY: a state, a reference and a queue. -/
theorem State.regionQueued_facts (s : State) (port i v k : Nat) (w : PortWork) (hv : v < 8) (hp : port < 66) (hi : i < 32) (hk : k < 128) :
    let t := (((s.setRgnState port i v).wr32 (rRGN_WM port i) 0).rgnRef k true).setPortWork port w
    t.rgnState port i = v ∧ t.rgnWm port i = 0 ∧ t.portWork port = w ∧
    t.fget (rSLUICE_SLOT 0 k) fSLUICE_SLOT_RGN_REFS = (s.fget (rSLUICE_SLOT 0 k) fSLUICE_SLOT_RGN_REFS + 1) % 2 ^ 12 ∧
    t.mem.lines = s.mem.lines ∧ t.mem.slots = s.mem.slots ∧ (∀ p, p ≠ port → t.portWork p = s.portWork p) ∧
    s.wordsBut t [rRGN_CFG port i, rRGN_WM port i, rHBMP_STAT port, rSLUICE_SLOT 0 k] ∧ Within [.regs, .agg, .mem] s t := by
  obtain ⟨a1, a2, a3, a4, a5, a6, a7, a8, a9, a10, a11, a12, a13⟩ := mem_apart port i k hp hi hk
  intro t
  obtain ⟨r1, r2, r3, r4, r5⟩ := State.setRegion_facts s port i v hv a1
  obtain ⟨f1, f2, f3, f4⟩ := State.rgnRef_facts ((s.setRgnState port i v).wr32 (rRGN_WM port i) 0) k true
  obtain ⟨p1, p2, p3, p4, p5, p6⟩ := State.setPortWork_facts (((s.setRgnState port i v).wr32 (rRGN_WM port i) 0).rgnRef k true) port w
  have hw1 : ((s.setRgnState port i v).wr32 (rRGN_WM port i) 0).wordsBut t [rHBMP_STAT port, rSLUICE_SLOT 0 k] :=
    State.wordsBut_trans (State.wordsBut_mono f1 (by simp)) (State.wordsBut_mono p1 (by simp))
  have hmem : ((((s.setRgnState port i v).wr32 (rRGN_WM port i) 0).rgnRef k true)).mem = s.mem := f3.trans r4
  refine ⟨?_, ?_, p4, ?_, ?_, ?_, ?_, ?_, ?_⟩
  · unfold State.rgnState at r1 ⊢
    rw [State.fget_wordsBut hw1 _ (by simp [a3, a4]) (by decide)]; exact r1
  · unfold State.rgnWm at r2 ⊢
    rw [State.fget_wordsBut hw1 _ (by simp [a6, a7]) (by decide)]; exact r2
  · rw [State.fget_wordsBut p1 _ (by simp [Ne.symm a10]) (by decide), f2, if_pos rfl, State.fget_wordsBut r3 _ (by simp [Ne.symm a4, Ne.symm a7]) (by decide)]
  · rw [show t.mem.lines = _ from p2, hmem]
  · rw [show t.mem.slots = _ from p3, hmem]
  · intro q hq
    rw [show t.portWork q = _ from p5 q hq]; unfold State.portWork; rw [hmem]
  · exact State.wordsBut_trans (State.wordsBut_mono r3 (by simp)) (State.wordsBut_mono hw1 (by simp))
  · exact Within.via p6 rfl (Within.via f4 rfl (Within.mono r5 rfl))

/-- R216: wear touches the Sluice's page alone. -/
theorem State.wearUp_words (s : State) (k n : Nat) :
    s.wordsBut (s.wearUp k n) [rSLUICE_WEAR 0 k, rSLUICE_WEAR 0 k + 4, rSLUICE_SLOT 0 k, rIRQ_RAW (PageKind.sluiceCtl.addr 0)] := by
  have h1 : s.wordsBut (s.fadd (rSLUICE_WEAR 0 k) fSLUICE_WEAR_LINES n) [rSLUICE_WEAR 0 k, rSLUICE_WEAR 0 k + 4, rSLUICE_SLOT 0 k, rIRQ_RAW (PageKind.sluiceCtl.addr 0)] := by
    unfold State.fadd State.fset
    rw [if_neg (by decide)]
    exact State.wordsBut_wr64 _ _ (by simp) (by simp)
  unfold State.wearUp State.wearCheck
  dsimp only
  split
  · refine State.wordsBut.regs ?_ ((State.eventRecord_within ..).2 .regs rfl)
    exact State.wordsBut.irq (State.wordsBut.fset h1 (by decide) (by simp)) (by decide) (by simp [rIRQ_RAW])
  · exact h1

theorem State.walkLines_sound (s : State) (port i : Nat) (ls : List Nat)
    (h : ∀ l ∈ ls, (s.line (s.lineKey port i l)).poison = false ∧ (s.rgnTag port i = true → s.keyMatches port i l = true)) : s.walkLines port i [] ls = (s, []) := by
  induction ls with
  | nil => rfl
  | cons l ls ih =>
    have hl := h l (List.mem_cons_self ..)
    have hf : s.lineFault port i l none = none := by
      unfold State.lineFault
      dsimp only
      cases ht : s.rgnTag port i
      · rfl
      · rw [hl.2 ht]; rfl
    unfold State.walkLines
    dsimp only [List.lookup]
    rw [if_neg (by rw [hl.1]; decide), hf]
    dsimp only
    rw [ih (fun x hx => h x (List.mem_cons_of_mem _ hx))]
    rfl

theorem smRising_above {α : Type} {m : SMap α} : ∀ {lo : Option Nat}, smRising lo m = true → ∀ e ∈ m, ∀ l, lo = some l → l < e.1 := by
  induction m with
  | nil => intro lo _ e he; exact absurd he (by simp)
  | cons x m ih =>
    obtain ⟨j, w⟩ := x
    intro lo h e he l hl
    unfold smRising at h
    rw [hl] at h
    simp only [Bool.and_eq_true, decide_eq_true_eq] at h
    rcases List.mem_cons.mp he with rfl | he
    · exact h.1
    · exact Nat.lt_trans h.1 (ih h.2 e he j rfl)

theorem smRising_nodup {α : Type} {m : SMap α} : ∀ {lo : Option Nat}, smRising lo m = true → (m.map (fun x => x.1)).Nodup := by
  induction m with
  | nil => intro lo _; exact List.nodup_nil
  | cons x m ih =>
    obtain ⟨j, w⟩ := x
    intro lo h
    unfold smRising at h
    rw [Bool.and_eq_true] at h
    rw [List.map_cons, List.nodup_cons]
    refine ⟨?_, ih h.2⟩
    intro hm
    obtain ⟨e, he, hej⟩ := List.mem_map.mp hm
    have := smRising_above h.2 e he j rfl
    simp only at hej
    omega

/-- In a canonical map every entry is what its key reads as. -/
theorem smGet_mem {α : Type} (d : α) {m : SMap α} : ∀ {lo : Option Nat}, smRising lo m = true → ∀ e ∈ m, (∀ l, lo = some l → l < e.1) ∧ smGet d m e.1 = e.2 := by
  induction m with
  | nil => intro lo _ e he; exact absurd he (by simp)
  | cons x m ih =>
    obtain ⟨j, w⟩ := x
    intro lo h e he
    refine ⟨smRising_above h e he, ?_⟩
    unfold smRising at h
    rw [Bool.and_eq_true] at h
    rcases List.mem_cons.mp he with rfl | he
    · simp [smGet]
    · have hgt := smRising_above h.2 e he j rfl
      unfold smGet
      rw [if_neg (by omega)]
      exact (ih h.2 e he).2

theorem smGet_listed {α : Type} (d : α) (m : SMap α) (k : Nat) (h : smGet d m k ≠ d) : ∃ e ∈ m, e.1 = k := by
  induction m with
  | nil => exact absurd rfl h
  | cons x m ih =>
    obtain ⟨j, w⟩ := x
    unfold smGet at h
    by_cases hj : j = k
    · exact ⟨(j, w), List.mem_cons_self .., hj⟩
    · rw [if_neg hj] at h
      obtain ⟨e, he, hk⟩ := ih h
      exact ⟨e, List.mem_cons_of_mem _ he, hk⟩

/-- R220: the lines that a walked sector leaves. -/
theorem walkFold (c : Nat × HLine → Bool) (kid : Nat) (L : List (Nat × HLine)) : ∀ s : State, (L.map (fun x => x.1)).Nodup →
    let t := L.foldl (fun t x => if c x then t.setLine x.1 { x.2 with kid := kid } else t) s
    (∀ x ∈ L, c x = true → t.line x.1 = { x.2 with kid := kid }) ∧ (∀ a, (∀ x ∈ L, x.1 = a → c x = false) → t.line a = s.line a) ∧ Within [.mem] s t := by
  induction L with
  | nil => intro s _; exact ⟨fun x hx => absurd hx (by simp), fun _ _ => rfl, Within.refl ..⟩
  | cons y L ih =>
    intro s hn
    rw [List.map_cons, List.nodup_cons] at hn
    obtain ⟨h1, h2, h3⟩ := ih (if c y then s.setLine y.1 { y.2 with kid := kid } else s) hn.2
    refine ⟨?_, ?_, ?_⟩
    · intro x hx hcx
      rcases List.mem_cons.mp hx with rfl | hx
      · rw [List.foldl_cons, h2 x.1 (fun z hz hzx => absurd (List.mem_map.mpr ⟨z, hz, hzx⟩) hn.1), if_pos hcx, State.line_setLine, if_pos rfl]
      · exact h1 x hx hcx
    · intro a ha
      rw [List.foldl_cons, h2 a (fun x hx => ha x (List.mem_cons_of_mem _ hx))]
      cases hcy : c y
      · rw [if_neg (by decide)]
      · rw [if_pos rfl, State.line_setLine, if_neg]
        intro hay
        have := ha y (List.mem_cons_self ..) hay.symm
        rw [hcy] at this; cases this
    · refine Within.trans ?_ h3
      split
      · exact State.setLine_within ..
      · exact Within.refl ..

theorem State.lines_wordsBut {s t : State} {l : List Nat} (h : s.wordsBut t l) (k : Nat) (h1 : l.contains (rSLUICE_WEAR 0 k) = false)
    (h2 : l.contains (rSLUICE_WEAR 0 k + 4) = false) : t.fget (rSLUICE_WEAR 0 k) fSLUICE_WEAR_LINES = s.fget (rSLUICE_WEAR 0 k) fSLUICE_WEAR_LINES := by
  unfold State.fget
  rw [if_neg (by decide), if_neg (by decide)]
  unfold State.rd64 State.rd32
  rw [h _ h1, h _ h2]

/-- R216: what comparing one slot with WARN does. -/
theorem State.wearCheck_facts (s : State) (k : Nat) (hk : k < 128) :
    s.wordsBut (s.wearCheck k) [rSLUICE_SLOT 0 k, rIRQ_RAW (PageKind.sluiceCtl.addr 0)] ∧ (∀ j, (s.wearCheck k).slotState j = s.slotState j) ∧
    (∀ j, s.flag (rSLUICE_SLOT 0 j) fSLUICE_SLOT_WORN = true → (s.wearCheck k).flag (rSLUICE_SLOT 0 j) fSLUICE_SLOT_WORN = true) ∧
    (s.fget (rSLUICE_WEAR_WARN 0) fSLUICE_WEAR_WARN_WARN ≠ 0 →
      s.fget (rSLUICE_WEAR_WARN 0) fSLUICE_WEAR_WARN_WARN * 2 ^ 20 ≤ s.fget (rSLUICE_WEAR 0 k) fSLUICE_WEAR_LINES →
      (s.wearCheck k).flag (rSLUICE_SLOT 0 k) fSLUICE_SLOT_WORN = true) ∧
    (s.fget (rSLUICE_WEAR_WARN 0) fSLUICE_WEAR_WARN_WARN = 0 → s.wearCheck k = s) := by
  have hraw : ∀ j, rSLUICE_SLOT 0 j ≠ PageKind.sluiceCtl.addr 0 + 0x010 := by intro j; unfold rSLUICE_SLOT; rw [sluice_addr]; omega
  unfold State.wearCheck
  dsimp only
  split
  · rename_i hc
    have hr : ((((s.fset (rSLUICE_SLOT 0 k) fSLUICE_SLOT_WORN 1).irq (PageKind.sluiceCtl.addr 0) 0).eventRecord 9 k)).regs =
      ((s.fset (rSLUICE_SLOT 0 k) fSLUICE_SLOT_WORN 1).irq (PageKind.sluiceCtl.addr 0) 0).regs := (State.eventRecord_within ..).2 .regs rfl
    have hw : (s.fset (rSLUICE_SLOT 0 k) fSLUICE_SLOT_WORN 1).wordsBut ((s.fset (rSLUICE_SLOT 0 k) fSLUICE_SLOT_WORN 1).irq (PageKind.sluiceCtl.addr 0) 0)
      [PageKind.sluiceCtl.addr 0 + 0x010] := State.wordsBut_irq _ (by decide) (by simp)
    have hworn : ∀ j, (((s.fset (rSLUICE_SLOT 0 k) fSLUICE_SLOT_WORN 1).irq (PageKind.sluiceCtl.addr 0) 0).eventRecord 9 k).fget (rSLUICE_SLOT 0 j) fSLUICE_SLOT_WORN =
        if rSLUICE_SLOT 0 j = rSLUICE_SLOT 0 k then 1 else s.fget (rSLUICE_SLOT 0 j) fSLUICE_SLOT_WORN := by
      intro j
      rw [State.fget_same hr, State.fget_wordsBut hw _ (by simp [hraw j]) (by decide), State.fget_fset_if _ _ _ _ (by decide)]
      rfl
    refine ⟨?_, ?_, ?_, ?_, ?_⟩
    · refine State.wordsBut.regs ?_ hr
      exact State.wordsBut.irq (State.wordsBut_fset _ _ (by decide) (by simp)) (by decide) (by simp [rIRQ_RAW])
    · intro j
      unfold State.slotState
      rw [State.fget_same hr, State.fget_wordsBut hw _ (by simp [hraw j]) (by decide), State.fget_fset_apart _ _ _ _ (by decide) (by decide) (Or.inr (by decide))]
    · intro j hj
      unfold State.flag at hj ⊢
      rw [hworn]
      split
      · rfl
      · exact hj
    · intro _ _
      unfold State.flag
      rw [hworn, if_pos rfl]; rfl
    · intro h; exact absurd h hc.1
  · rename_i hc
    refine ⟨State.wordsBut_refl _ _, fun _ => rfl, fun _ h => h, ?_, fun _ => rfl⟩
    intro h1 h2
    by_cases h3 : s.flag (rSLUICE_SLOT 0 k) fSLUICE_SLOT_WORN = true
    · exact h3
    · exact absurd ⟨h1, h2, h3⟩ hc

theorem State.wearFold (v : Nat) : ∀ (L : List Nat) (s : State), (∀ k ∈ L, k < 128) → s.fget (rSLUICE_WEAR_WARN 0) fSLUICE_WEAR_WARN_WARN = v →
    let t := L.foldl (fun t k => if t.slotState k = 0 then t else t.wearCheck k) s
    t.fget (rSLUICE_WEAR_WARN 0) fSLUICE_WEAR_WARN_WARN = v ∧
    (∀ j, s.flag (rSLUICE_SLOT 0 j) fSLUICE_SLOT_WORN = true → t.flag (rSLUICE_SLOT 0 j) fSLUICE_SLOT_WORN = true) ∧
    (∀ k ∈ L, s.slotState k ≠ 0 → v ≠ 0 → v * 2 ^ 20 ≤ s.fget (rSLUICE_WEAR 0 k) fSLUICE_WEAR_LINES → t.flag (rSLUICE_SLOT 0 k) fSLUICE_SLOT_WORN = true) ∧
    (v = 0 → t = s) := by
  intro L
  induction L with
  | nil => intro s _ hv; exact ⟨hv, fun _ h => h, fun k hk => absurd hk (by simp), fun _ => rfl⟩
  | cons k L ih =>
    intro s hL hv
    have hk : k < 128 := hL k (List.mem_cons_self ..)
    obtain ⟨c1, c2, c3, c4, c5⟩ := State.wearCheck_facts s k hk
    have hs1 : ∀ u, u = (if s.slotState k = 0 then s else s.wearCheck k) → s.wordsBut u [rSLUICE_SLOT 0 k, rIRQ_RAW (PageKind.sluiceCtl.addr 0)] ∧
        (∀ j, u.slotState j = s.slotState j) ∧ (∀ j, s.flag (rSLUICE_SLOT 0 j) fSLUICE_SLOT_WORN = true → u.flag (rSLUICE_SLOT 0 j) fSLUICE_SLOT_WORN = true) ∧
        (s.slotState k ≠ 0 → v ≠ 0 → v * 2 ^ 20 ≤ s.fget (rSLUICE_WEAR 0 k) fSLUICE_WEAR_LINES → u.flag (rSLUICE_SLOT 0 k) fSLUICE_SLOT_WORN = true) ∧ (v = 0 → u = s) := by
      intro u hu
      rw [hu]
      split
      · rename_i h0
        exact ⟨State.wordsBut_refl _ _, fun _ => rfl, fun _ h => h, fun h => absurd h0 h, fun _ => rfl⟩
      · refine ⟨c1, c2, c3, fun _ h2 h3 => c4 (by rw [hv]; exact h2) (by rw [hv]; exact h3), fun h => c5 (by rw [hv]; exact h)⟩
    obtain ⟨d1, d2, d3, d4, d5⟩ := hs1 _ rfl
    rw [List.foldl_cons]
    generalize (if s.slotState k = 0 then s else s.wearCheck k) = u at d1 d2 d3 d4 d5
    have hwarn : u.fget (rSLUICE_WEAR_WARN 0) fSLUICE_WEAR_WARN_WARN = v := by
      rw [State.fget_wordsBut d1 _ (by unfold rSLUICE_WEAR_WARN rSLUICE_SLOT rIRQ_RAW; rw [sluice_addr]; simp; omega) (by decide)]; exact hv
    obtain ⟨i1, i2, i3, i4⟩ := ih u (fun j hj => hL j (List.mem_cons_of_mem _ hj)) hwarn
    refine ⟨i1, fun j hj => i2 j (d3 j hj), ?_, fun h => (i4 h).trans (d5 h)⟩
    intro j hj h1 h2 h3
    by_cases hjk : j = k
    · subst hjk; exact i2 j (d4 h1 h2 h3)
    · rcases List.mem_cons.mp hj with h | h
      · exact absurd h hjk
      · refine i3 j h (by rw [d2]; exact h1) h2 ?_
        have hj128 : j < 128 := hL j hj
        rw [State.lines_wordsBut d1 j (by unfold rSLUICE_WEAR rSLUICE_SLOT rIRQ_RAW; rw [sluice_addr]; simp; omega)
          (by unfold rSLUICE_WEAR rSLUICE_SLOT rIRQ_RAW; rw [sluice_addr]; simp; omega)]
        exact h3

theorem State.ep_mil' (s : State) (i m : Nat) : (s.delPkt i).ep m = s.ep m := by
  unfold State.delPkt State.setPkt
  generalize Pkt.none = x
  exact rfl

theorem State.delPkts_facts (L : List Nat) : ∀ s : State, (∀ m, (L.foldl (fun t i => t.delPkt i) s).ep m = s.ep m) ∧ Within [.mil] s (L.foldl (fun t i => t.delPkt i) s) := by
  induction L with
  | nil => intro s; exact ⟨fun _ => rfl, Within.refl ..⟩
  | cons i L ih =>
    intro s
    obtain ⟨h1, h2⟩ := ih (s.delPkt i)
    rw [List.foldl_cons]
    exact ⟨fun m => (h1 m).trans (State.ep_mil' s i m), Within.trans (Within.mono (State.delPkt_within ..) rfl) h2⟩

theorem body_sluice (s : State) (req : Req) (n p : Nat) (r : RegDef) (v u : Nat) : s.bodyWrite req .sluiceCtl n p r 0x040 v u = (s.plainWrite r (p + 0x040) v).wearWarnWritten := by
  unfold State.bodyWrite; dsimp only; exact if_pos rfl

end Sys2Proof.Machine
end

