-- ==== Sys2Proof/Laws/StallCommands.lean ====
section
/-! SUPPORT. What the commands of stalls do: the steps of a swap, its release, and the end of a load. -/

namespace Sys2Proof.Machine

theorem State.word_fset (s : State) {a b : Nat} {f : Fld} (v : Nat) (h : b ≠ a) (h4 : b ≠ a + 4) : (s.fset a f v).word b = s.word b := by
  unfold State.fset
  split
  · exact State.word_wr32_ne _ _ h
  · exact State.word_wr64_ne _ _ h h4

theorem State.word_setBit_ne (s : State) {a b k : Nat} (x : Bool) (hk : k < 32) (h : b ≠ a) : (s.setBit a k x).word b = s.word b :=
  State.word_fset_ne _ _ _ (by show k + 1 ≤ 32; omega) h

theorem State.word_irq_ne (s : State) {p b k : Nat} (hk : k < 32) (h : b ≠ p + 0x010) : (s.irq p k).word b = s.word b := State.word_setBit_ne _ _ hk h

theorem State.word_resetPage (s : State) (p : Nat) (keep : Nat → Bool) {a : Nat} (h : a / 4096 * 4096 ≠ p) : (s.resetPage p keep).word a = s.word a := by
  unfold State.resetPage State.word
  dsimp only
  have hg : ∀ d : BitVec 32, smGet d (smClear (fun a => decide (a / 4096 * 4096 = p) && !keep (a % 4096)) s.regs) a = smGet d s.regs a := by
    intro d
    rw [smGet_smClear, if_neg (by simp [h])]
  simp only [hg]

/-- A word that no step of a fold touches. -/
theorem State.word_foldl {α : Type} (a : Nat) (f : State → α → State) (l : List α) (h : ∀ u, ∀ x ∈ l, (f u x).word a = u.word a) (s : State) :
    (l.foldl f s).word a = s.word a := by
  induction l generalizing s with
  | nil => rfl
  | cons x l ih =>
    rw [List.foldl_cons, ih (fun u y hy => h u y (List.mem_cons_of_mem _ hy)), h s x (List.mem_cons_self ..)]

theorem State.fget_of_word {s t : State} (a : Nat) {f : Fld} (h : t.word a = s.word a) (hf : f.lo + f.width ≤ 32) : t.fget a f = s.fget a f := by
  rw [State.fget_word _ _ hf, State.fget_word _ _ hf]; unfold State.rd32; rw [h]

theorem State.stall_setStall (s : State) (n m : Nat) (x : Stall) : (s.setStall n x).stall m = if m = n then x else s.stall m := by
  unfold State.setStall State.stall; exact smGet_smSet ..

theorem State.stall_same {s t : State} (h : t.stalls = s.stalls) (m : Nat) : t.stall m = s.stall m := by unfold State.stall; rw [h]

theorem addr_stall (n : Nat) : PageKind.addr .stall n = 0x10000 + n / 32 * 0 + n % 32 * 0x1000 := rfl

theorem addr_shedCfg (n : Nat) : PageKind.addr .shedCfg n = 0x01006000 + n / 48 * 0x800000 + n % 48 * 0x20000 := rfl

theorem addr_shedMem (n : Nat) : PageKind.addr .shedMem n = 0x01004000 + n / 48 * 0x800000 + n % 48 * 0x20000 := rfl

theorem addr_eddy (n : Nat) : PageKind.addr .eddy n = 0x05000000 + n / 512 * 0 + n % 512 * 0x2000 := rfl

theorem addr_eddyIo (n : Nat) : PageKind.addr .eddyIo n = 0x05001000 + n / 512 * 0 + n % 512 * 0x2000 := rfl

theorem addr_milEp (n : Nat) : PageKind.addr .milEp n = 0x09200000 + n / 405 * 0 + n % 405 * 0x1000 := rfl

theorem addr_milEpcfg (n : Nat) : PageKind.addr .milEpcfg n = 0x09600000 + n / 405 * 0 + n % 405 * 0x1000 := rfl

theorem addr_pinBank (n : Nat) : PageKind.addr .pinBank n = 0x01703000 + n / 8 * 0 + n % 8 * 0x800000 := rfl

theorem addr_tribCtl (n : Nat) : PageKind.addr .tribCtl n = 0x00006000 + n / 1 * 0 + n % 1 * 0 := rfl

theorem addr_memCxl (n : Nat) : PageKind.addr .memCxl n = 0x0a050000 + n / 2 * 0 + n % 2 * 0x1000 := rfl

theorem State.mem_shedsOf {s : State} {n sh : Nat} : sh ∈ s.shedsOf n ↔ sh < 384 ∧ s.shedOwner sh = some n := by
  unfold State.shedsOf; rw [List.mem_filter, List.mem_range, decide_eq_true_eq]

theorem State.shedsOf_contains {s : State} {n sh : Nat} : (s.shedsOf n).contains sh = true ↔ sh < 384 ∧ s.shedOwner sh = some n := by
  rw [List.contains_iff_mem]; exact State.mem_shedsOf

theorem rPLANE_STAT_inj {a b : Nat} (h : rPLANE_STAT a = rPLANE_STAT b) : a = b := by
  unfold rPLANE_STAT at h; rw [addr_shedCfg, addr_shedCfg] at h; omega

theorem State.livePlane_lt (s : State) (sh : Nat) : s.livePlane sh < 2 := State.fget_lt _ _ (by decide)

theorem planeFld_le (p : Nat) : (planeFld p).lo + (planeFld p).width ≤ 32 := by unfold planeFld; split <;> decide

theorem savedFld_le (p : Nat) : (savedFld p).lo + (savedFld p).width ≤ 32 := by unfold savedFld; split <;> decide

/-- A fold over distinct keys, each step of which acts on its own key alone: every key of the list is acted on as in the first state, and the others are
left. `A x s t`: key x is the same in s and t; `D x s t`: what a step does to key x of s is found in t. -/
theorem foldl_keys {σ ι : Type} (P : ι → Prop) (f : σ → ι → σ) (A D : ι → σ → σ → Prop) (hr : ∀ x s, A x s s) (ht : ∀ x s t u, A x s t → A x t u → A x s u)
    (hA : ∀ u x y, P x → x ≠ y → A y u (f u x)) (hD : ∀ u x, P x → D x u (f u x)) (h1 : ∀ x s u t, A x s u → D x u t → D x s t)
    (h2 : ∀ x s t u, D x s t → A x t u → D x s u) (l : List ι) (hl : l.Nodup) (hP : ∀ x ∈ l, P x) (s : σ) :
    (∀ x ∈ l, D x s (l.foldl f s)) ∧ ∀ y, y ∉ l → A y s (l.foldl f s) := by
  induction l generalizing s with
  | nil => exact ⟨fun x hx => absurd hx (by simp), fun y _ => hr y s⟩
  | cons a l ih =>
    obtain ⟨ha, hl'⟩ := List.nodup_cons.mp hl
    obtain ⟨i1, i2⟩ := ih hl' (fun x hx => hP x (List.mem_cons_of_mem _ hx)) (f s a)
    have hPa := hP a (List.mem_cons_self ..)
    rw [List.foldl_cons]
    refine ⟨?_, ?_⟩
    · intro x hx
      rcases List.mem_cons.mp hx with rfl | hx
      · exact h2 _ _ _ _ (hD s x hPa) (i2 x ha)
      · exact h1 _ _ _ _ (hA s a x hPa (fun e => ha (e ▸ hx))) (i1 x hx)
    · intro y hy
      have hya : a ≠ y := fun e => hy (e ▸ List.mem_cons_self ..)
      exact ht _ _ _ _ (hA s a y hPa hya) (i2 y (fun h => hy (List.mem_cons_of_mem _ h)))

theorem State.shedsOf_nodup (s : State) (n : Nat) : (s.shedsOf n).Nodup := List.Nodup.sublist (List.filter_sublist ..) List.nodup_range

theorem State.shedFfs_get (s : State) (sh tile : Nat) (h : tile < 8192) : smGet 0 (s.shedFfs sh) tile = s.ffs sh tile := by
  unfold State.shedFfs State.ffs
  generalize s.fab.ffs = m
  induction m with
  | nil => rfl
  | cons x m ih =>
    rw [List.filter_cons]
    by_cases hx : x.1 / 8192 = sh
    · rw [if_pos (decide_eq_true hx), List.map_cons]
      obtain ⟨k, v⟩ := x
      unfold smGet
      by_cases hk : k % 8192 = tile
      · rw [if_pos hk, if_pos (by simp only at hx; omega)]
      · rw [if_neg hk, if_neg (by simp only at hx; omega)]; exact ih
    · rw [if_neg (by simpa using hx), ih]
      obtain ⟨k, v⟩ := x
      conv => rhs; unfold smGet
      rw [if_neg (by simp only at hx; omega)]

theorem smGet_absent {α : Type} (d : α) (m : SMap α) (k : Nat) (h : ∀ x ∈ m, x.1 ≠ k) : smGet d m k = d := by
  induction m with
  | nil => rfl
  | cons x m ih =>
    obtain ⟨j, v⟩ := x
    unfold smGet
    rw [if_neg (h (j, v) (List.mem_cons_self ..))]
    exact ih (fun y hy => h y (List.mem_cons_of_mem _ hy))

theorem ffsFold (sh : Nat) (m l : SMap Nat) (f : SMap Nat) (k : Nat) :
    smGet 0 (l.foldl (fun f x => if x.1 < 8192 then smSet 0 f (8192 * sh + x.1) (smGet 0 m x.1) else f) f) k =
      if (∃ x ∈ l, x.1 < 8192 ∧ k = 8192 * sh + x.1) then smGet 0 m (k - 8192 * sh) else smGet 0 f k := by
  induction l generalizing f with
  | nil => rw [if_neg (by simp)]; rfl
  | cons a l ih =>
    rw [List.foldl_cons, ih]
    by_cases h : ∃ x ∈ l, x.1 < 8192 ∧ k = 8192 * sh + x.1
    · rw [if_pos h, if_pos]
      obtain ⟨x, hx, h⟩ := h
      exact ⟨x, List.mem_cons_of_mem _ hx, h⟩
    · rw [if_neg h]
      by_cases ha : a.1 < 8192
      · rw [if_pos ha, smGet_smSet]
        by_cases hk : k = 8192 * sh + a.1
        · rw [if_pos hk, if_pos ⟨a, List.mem_cons_self .., ha, hk⟩]
          congr 1; omega
        · rw [if_neg hk, if_neg]
          rintro ⟨x, hx, h1, h2⟩
          rcases List.mem_cons.mp hx with rfl | hx
          · exact hk h2
          · exact h ⟨x, hx, h1, h2⟩
      · rw [if_neg ha, if_neg]
        rintro ⟨x, hx, h1, h2⟩
        rcases List.mem_cons.mp hx with rfl | hx
        · exact ha h1
        · exact h ⟨x, hx, h1, h2⟩

theorem State.setShedFfs_ffs (s : State) (sh : Nat) (m : SMap Nat) (sh' tile : Nat) (ht : tile < 8192) :
    (s.setShedFfs sh m).ffs sh' tile = if sh' = sh then smGet 0 m tile else s.ffs sh' tile := by
  unfold State.setShedFfs State.ffs
  dsimp only
  rw [ffsFold]
  by_cases hs : sh' = sh
  · subst hs
    rw [if_pos rfl]
    by_cases h : ∃ x ∈ m, x.1 < 8192 ∧ 8192 * sh' + tile = 8192 * sh' + x.1
    · rw [if_pos h]; congr 1; omega
    · rw [if_neg h, smGet_smClear, if_pos (by rw [decide_eq_true_eq]; omega), smGet_absent]
      intro x hx he
      exact h ⟨x, hx, by omega, by omega⟩
  · rw [if_neg hs, if_neg (by rintro ⟨x, _, h1, h2⟩; omega), smGet_smClear, if_neg (by rw [decide_eq_true_eq]; omega)]

theorem State.setPlane_plane (s : State) (sh p : Nat) (x : Plane) (sh' p' : Nat) (hp : p < 2) (hp' : p' < 2) :
    (s.setPlane sh p x).plane sh' p' = if sh' = sh ∧ p' = p then x else s.plane sh' p' := by
  unfold State.setPlane State.plane
  dsimp only
  rw [smGet_smSet]
  by_cases h : sh' = sh ∧ p' = p
  · rw [if_pos h, if_pos (by rw [h.1, h.2])]
  · rw [if_neg h, if_neg (by intro e; apply h; omega)]

theorem State.planeSaved_word {s t : State} {sh p : Nat} (h : t.word (rPLANE_STAT sh) = s.word (rPLANE_STAT sh)) : t.planeSaved sh p = s.planeSaved sh p := by
  unfold State.planeSaved State.flag; rw [State.fget_of_word _ h (savedFld_le p)]

theorem State.planeState_word {s t : State} {sh p : Nat} (h : t.word (rPLANE_STAT sh) = s.word (rPLANE_STAT sh)) : t.planeState sh p = s.planeState sh p :=
  State.fget_of_word _ h (planeFld_le p)

theorem State.livePlane_word {s t : State} {sh : Nat} (h : t.word (rPLANE_STAT sh) = s.word (rPLANE_STAT sh)) : t.livePlane sh = s.livePlane sh :=
  State.fget_of_word _ h (by decide)

theorem State.planeSaved_set (s : State) (sh p p' : Nat) (b : Bool) (hp : p < 2) (hp' : p' < 2) :
    (s.setPlaneSaved sh p b).planeSaved sh p' = if p' = p then b else s.planeSaved sh p' := by
  unfold State.setPlaneSaved State.planeSaved State.flag
  by_cases h : p' = p
  · rw [if_pos h, h, State.fget_fset_if _ _ _ _ (savedFld_le p), if_pos rfl]
    unfold savedFld; split <;> cases b <;> rfl
  · rw [if_neg h, State.fget_fset_apart _ _ _ _ (savedFld_le p) (savedFld_le p')]
    unfold savedFld
    by_cases h0 : p = 0
    · rw [if_pos h0, if_neg (by omega)]; decide
    · rw [if_neg h0, if_pos (by omega)]; decide

/-- R249: the exchange in one shed. -/
theorem State.exchangeShed_facts (s : State) (sh : Nat) (fresh : Bool) :
    let t := s.exchangeShed sh fresh false
    (∀ tile, tile < 8192 → t.ffs sh tile = if s.planeSaved sh (s.bgPlane sh) = true ∧ fresh = false then smGet 0 (s.plane sh (s.bgPlane sh)).save tile else 0) ∧
    (∀ sh' tile, tile < 8192 → sh' ≠ sh → t.ffs sh' tile = s.ffs sh' tile) ∧ (∀ sh' p, p < 2 → (t.plane sh' p).cfg = (s.plane sh' p).cfg) ∧
    (∀ sh' p, p < 2 → sh' ≠ sh → t.plane sh' p = s.plane sh' p) ∧
    (s.planeState sh (s.livePlane sh) = plLIVE → t.planeSaved sh (s.livePlane sh) = true ∧
      ∀ tile, tile < 8192 → smGet 0 (t.plane sh (s.livePlane sh)).save tile = s.ffs sh tile) ∧
    s.wordsBut t [rPLANE_STAT sh] := by
  intro t
  have hp : s.livePlane sh < 2 := State.livePlane_lt s sh
  have hq : s.bgPlane sh < 2 := by unfold State.bgPlane; omega
  have hpq : s.bgPlane sh ≠ s.livePlane sh := by unfold State.bgPlane; omega
  -- the outgoing image saved
  have hs1 : ∃ u, u = (if s.planeState sh (s.livePlane sh) = plLIVE then (s.setPlane sh (s.livePlane sh) { s.plane sh (s.livePlane sh) with save := s.shedFfs sh }).setPlaneSaved sh (s.livePlane sh) true else s) ∧
      (∀ sh' tile, u.ffs sh' tile = s.ffs sh' tile) ∧ (∀ sh' p, p < 2 → (u.plane sh' p).cfg = (s.plane sh' p).cfg) ∧
      (∀ sh' p, p < 2 → ¬ (sh' = sh ∧ p = s.livePlane sh) → u.plane sh' p = s.plane sh' p) ∧
      (s.planeState sh (s.livePlane sh) = plLIVE → u.planeSaved sh (s.livePlane sh) = true ∧ (u.plane sh (s.livePlane sh)).save = s.shedFfs sh) ∧
      u.planeSaved sh (s.bgPlane sh) = s.planeSaved sh (s.bgPlane sh) ∧ s.wordsBut u [rPLANE_STAT sh] := by
    refine ⟨_, rfl, ?_⟩
    by_cases hl : s.planeState sh (s.livePlane sh) = plLIVE
    · rw [if_pos hl]
      have hpl : ∀ (v : State) (b : Bool) sh' p', (v.setPlaneSaved sh (s.livePlane sh) b).plane sh' p' = v.plane sh' p' := by
        intro v b sh' p'; unfold State.plane; rw [(State.setPlaneSaved_within ..).2 .fab rfl]
      refine ⟨?_, ?_, ?_, ?_, ?_, ?_⟩
      · intro sh' tile; unfold State.ffs; rw [(State.setPlaneSaved_within ..).2 .fab rfl]; rfl
      · intro sh' p' hp'
        rw [hpl, State.setPlane_plane _ _ _ _ _ _ hp hp']
        by_cases h : sh' = sh ∧ p' = s.livePlane sh
        · rw [if_pos h, h.1, h.2]
        · rw [if_neg h]
      · intro sh' p' hp' h; rw [hpl, State.setPlane_plane _ _ _ _ _ _ hp hp', if_neg h]
      · intro _
        rw [State.planeSaved_set _ _ _ _ _ hp hp, if_pos rfl, hpl, State.setPlane_plane _ _ _ _ _ _ hp hp, if_pos ⟨rfl, rfl⟩]
        exact ⟨rfl, rfl⟩
      · rw [State.planeSaved_set _ _ _ _ _ hp hq, if_neg hpq]; rfl
      · exact State.wordsBut.fset (State.wordsBut_of_regs _ rfl) (savedFld_le _) (by simp)
    · rw [if_neg hl]
      exact ⟨fun _ _ => rfl, fun _ _ _ => rfl, fun _ _ _ _ => rfl, fun h => absurd h hl, rfl, State.wordsBut_refl _ _⟩
  obtain ⟨u, hu, u1, u2, u3, u4, u5, u6⟩ := hs1
  have ht : t = if u.planeSaved sh (s.bgPlane sh) = true ∧ ¬ fresh = true then u.setShedFfs sh (u.plane sh (s.bgPlane sh)).save
      else (u.setShedFfs sh []).setPlaneSaved sh (s.bgPlane sh) false := by
    rw [hu]; rfl
  have hpl : ∀ (v : State) m sh' p', (v.setShedFfs sh m).plane sh' p' = v.plane sh' p' := fun _ _ _ _ => rfl
  have hpl2 : ∀ (v : State) b sh' p', (v.setPlaneSaved sh (s.bgPlane sh) b).plane sh' p' = v.plane sh' p' := by
    intro v b sh' p'; unfold State.plane; rw [(State.setPlaneSaved_within ..).2 .fab rfl]
  have hff2 : ∀ (v : State) b sh' p', (v.setPlaneSaved sh (s.bgPlane sh) b).ffs sh' p' = v.ffs sh' p' := by
    intro v b sh' p'; unfold State.ffs; rw [(State.setPlaneSaved_within ..).2 .fab rfl]
  by_cases hc : s.planeSaved sh (s.bgPlane sh) = true ∧ fresh = false
  · rw [if_pos (by rw [u5]; exact ⟨hc.1, by rw [hc.2]; decide⟩)] at ht
    refine ⟨?_, ?_, ?_, ?_, ?_, ?_⟩
    · intro tile h; rw [ht, State.setShedFfs_ffs _ _ _ _ _ h, if_pos rfl, if_pos hc, u3 _ _ hq (fun e => hpq e.2)]
    · intro sh' tile h hne; rw [ht, State.setShedFfs_ffs _ _ _ _ _ h, if_neg hne, u1]
    · intro sh' p' hp'; rw [ht, hpl, u2 _ _ hp']
    · intro sh' p' hp' hne; rw [ht, hpl, u3 _ _ hp' (fun e => hne e.1)]
    · intro hl
      obtain ⟨v1, v2⟩ := u4 hl
      refine ⟨by rw [ht]; exact v1, ?_⟩
      intro tile h; rw [ht, hpl, v2, State.shedFfs_get _ _ _ h]
    · rw [ht]; exact State.wordsBut.regs u6 rfl
  · rw [if_neg (by rw [u5]; intro e; exact hc ⟨e.1, by simpa using e.2⟩)] at ht
    refine ⟨?_, ?_, ?_, ?_, ?_, ?_⟩
    · intro tile h; rw [ht, hff2, State.setShedFfs_ffs _ _ _ _ _ h, if_pos rfl, if_neg hc]; rfl
    · intro sh' tile h hne; rw [ht, hff2, State.setShedFfs_ffs _ _ _ _ _ h, if_neg hne, u1]
    · intro sh' p' hp'; rw [ht, hpl2, hpl, u2 _ _ hp']
    · intro sh' p' hp' hne; rw [ht, hpl2, hpl, u3 _ _ hp' (fun e => hne e.1)]
    · intro hl
      obtain ⟨v1, v2⟩ := u4 hl
      refine ⟨?_, ?_⟩
      · rw [ht, State.planeSaved_set _ _ _ _ _ hq hp, if_neg (Ne.symm hpq)]; exact v1
      · intro tile h; rw [ht, hpl2, hpl, v2, State.shedFfs_get _ _ _ h]
    · rw [ht]; exact State.wordsBut.fset (State.wordsBut.regs u6 rfl) (savedFld_le _) (by simp)

/-- What the exchange looks at in a shed is the same. -/
def shedSame (sh : Nat) (s t : State) : Prop :=
  t.word (rPLANE_STAT sh) = s.word (rPLANE_STAT sh) ∧ (∀ p, p < 2 → t.plane sh p = s.plane sh p) ∧ ∀ tile, tile < 8192 → t.ffs sh tile = s.ffs sh tile

/-- What the exchange does in a shed. -/
def shedExchanged (fresh : Bool) (sh : Nat) (s t : State) : Prop :=
  (∀ tile, tile < 8192 → t.ffs sh tile = if s.planeSaved sh (s.bgPlane sh) = true ∧ fresh = false then smGet 0 (s.plane sh (s.bgPlane sh)).save tile else 0) ∧
  (∀ p, p < 2 → (t.plane sh p).cfg = (s.plane sh p).cfg) ∧
  (s.planeState sh (s.livePlane sh) = plLIVE → t.planeSaved sh (s.livePlane sh) = true ∧
    ∀ tile, tile < 8192 → smGet 0 (t.plane sh (s.livePlane sh)).save tile = s.ffs sh tile)

theorem State.bgPlane_word {s t : State} {sh : Nat} (h : t.word (rPLANE_STAT sh) = s.word (rPLANE_STAT sh)) : t.bgPlane sh = s.bgPlane sh := by
  unfold State.bgPlane; rw [State.livePlane_word h]

theorem State.bgPlane_lt (s : State) (sh : Nat) : s.bgPlane sh < 2 := by have := State.livePlane_lt s sh; unfold State.bgPlane; omega

theorem State.exchange_fold (fresh : Bool) (l : List Nat) (hl : l.Nodup) (s : State) :
    let t := l.foldl (fun t sh => t.exchangeShed sh fresh false) s
    (∀ sh ∈ l, shedExchanged fresh sh s t) ∧ ∀ sh, sh ∉ l → shedSame sh s t := by
  refine foldl_keys (fun _ => True) _ shedSame (shedExchanged fresh) ?_ ?_ ?_ ?_ ?_ ?_ l hl (fun _ _ => trivial) s
  · exact fun x s => ⟨rfl, fun _ _ => rfl, fun _ _ => rfl⟩
  · exact fun x s t u h g => ⟨g.1.trans h.1, fun p hp => (g.2.1 p hp).trans (h.2.1 p hp), fun p hp => (g.2.2 p hp).trans (h.2.2 p hp)⟩
  · intro u x y _ hxy
    obtain ⟨f1, f2, f3, f4, f5, f6⟩ := State.exchangeShed_facts u x fresh
    refine ⟨f6 _ ?_, fun p hp => f4 y p hp (Ne.symm hxy), fun tile h => f2 y tile h (Ne.symm hxy)⟩
    simpa using fun e => hxy (rPLANE_STAT_inj e).symm
  · intro u x _
    obtain ⟨f1, f2, f3, f4, f5, f6⟩ := State.exchangeShed_facts u x fresh
    exact ⟨f1, f3 x, f5⟩
  · intro x s u t ⟨a1, a2, a3⟩ ⟨d1, d2, d3⟩
    rw [State.planeSaved_word a1, State.bgPlane_word a1, a2 _ (State.bgPlane_lt ..)] at d1
    rw [State.planeState_word a1, State.livePlane_word a1] at d3
    refine ⟨d1, fun p hp => (d2 p hp).trans (by rw [a2 p hp]), fun h => ?_⟩
    exact ⟨(d3 h).1, fun tile ht => ((d3 h).2 tile ht).trans (a3 tile ht)⟩
  · intro x s t u ⟨d1, d2, d3⟩ ⟨a1, a2, a3⟩
    refine ⟨fun tile h => (a3 tile h).trans (d1 tile h), fun p hp => (by rw [a2 p hp]; exact d2 p hp), fun h => ⟨?_, ?_⟩⟩
    · rw [State.planeSaved_word a1]; exact (d3 h).1
    · intro tile ht; rw [a2 _ (State.livePlane_lt ..)]; exact (d3 h).2 tile ht

theorem State.exchange_words (fresh : Bool) (l : List Nat) : ∀ s : State, s.wordsBut (l.foldl (fun t sh => t.exchangeShed sh fresh false) s) (l.map rPLANE_STAT) := by
  intro s a ha
  refine State.word_foldl a _ l ?_ s
  intro u x hx
  refine (State.exchangeShed_facts u x fresh).2.2.2.2.2 a ?_
  have : a ∉ l.map rPLANE_STAT := by simpa using ha
  simp only [List.contains_eq_mem, List.mem_singleton, decide_eq_false_iff_not]
  intro e
  exact this (e ▸ List.mem_map_of_mem hx)

theorem foldl_congr' {α σ : Type} (f g : σ → α → σ) (l : List α) (h : ∀ x ∈ l, ∀ u, f u x = g u x) (s : σ) : l.foldl f s = l.foldl g s := by
  induction l generalizing s with
  | nil => rfl
  | cons x l ih =>
    rw [List.foldl_cons, List.foldl_cons, h x (List.mem_cons_self ..), ih (fun y hy => h y (List.mem_cons_of_mem _ hy))]

theorem State.wipe_fold (l : List Nat) : ∀ s : State, let t := l.foldl (fun t m => t.setEddy m { t.eddy m with data := [] }) s
    ∀ m, t.eddy m = if l.contains m = true then { s.eddy m with data := [] } else s.eddy m := by
  induction l with
  | nil => intro s t m; rfl
  | cons a l ih =>
    intro s t m
    have h := ih (s.setEddy a { s.eddy a with data := [] }) m
    refine Eq.trans h ?_
    rw [ State.setEddy_eddy]
    by_cases ha : m = a
    · subst ha
      rw [if_pos rfl, if_pos (show (m :: l).contains m = true by simp)]
      split <;> rfl
    · rw [if_neg ha]
      have : (a :: l).contains m = l.contains m := by simp [ha]
      rw [this]

theorem State.fifo_fold (l : List Nat) : ∀ s : State,
    let t := l.foldl (fun t sh => (t.wr32 (rFIFO_OVR_LO sh) 0).wr32 (rFIFO_OVR_HI sh) 0) s
    (∀ sh ∈ l, t.word (rFIFO_OVR_LO sh) = 0 ∧ t.word (rFIFO_OVR_HI sh) = 0) ∧ s.wordsBut t (l.map rFIFO_OVR_LO ++ l.map rFIFO_OVR_HI) := by
  intro s
  have hlo : ∀ a b, rFIFO_OVR_LO a = rFIFO_OVR_LO b → a = b := by intro a b h; unfold rFIFO_OVR_LO at h; rw [addr_shedMem, addr_shedMem] at h; omega
  have hhi : ∀ a b, rFIFO_OVR_HI a = rFIFO_OVR_HI b → a = b := by intro a b h; unfold rFIFO_OVR_HI at h; rw [addr_shedMem, addr_shedMem] at h; omega
  have hne : ∀ a b, rFIFO_OVR_LO a ≠ rFIFO_OVR_HI b := by intro a b; unfold rFIFO_OVR_LO rFIFO_OVR_HI; rw [addr_shedMem, addr_shedMem]; omega
  refine ⟨?_, ?_⟩
  · induction l generalizing s with
    | nil => intro sh h; exact absurd h (by simp)
    | cons a l ih =>
      intro sh h
      rw [List.foldl_cons]
      by_cases hm : sh ∈ l
      · exact ih _ sh hm
      · have ha : sh = a := by rcases List.mem_cons.mp h with h | h; exact h; exact absurd h hm
        subst ha
        have hk : ∀ b, (b = rFIFO_OVR_LO sh ∨ b = rFIFO_OVR_HI sh) → ∀ u : State, (l.foldl (fun t sh => (t.wr32 (rFIFO_OVR_LO sh) 0).wr32 (rFIFO_OVR_HI sh) 0) u).word b = u.word b := by
          intro b hb u
          refine State.word_foldl b _ l ?_ u
          intro v x hx
          have hxs : x ≠ sh := fun e => hm (e ▸ hx)
          rcases hb with rfl | rfl
          · rw [State.word_wr32_ne _ _ (hne _ _), State.word_wr32_ne _ _ (fun e => hxs (hlo _ _ e).symm)]
          · rw [State.word_wr32_ne _ _ (fun e => hxs (hhi _ _ e).symm), State.word_wr32_ne _ _ (Ne.symm (hne _ _))]
        rw [hk _ (Or.inl rfl), hk _ (Or.inr rfl), State.word_wr32, if_neg (hne _ _), State.word_wr32, if_pos rfl, State.word_wr32, if_pos rfl]
        exact ⟨rfl, rfl⟩
  · intro a ha
    refine State.word_foldl a _ l ?_ s
    intro u x hx
    simp only [List.contains_eq_mem, List.mem_append, List.mem_map, decide_eq_false_iff_not, not_or, not_exists, not_and] at ha
    rw [State.word_wr32_ne _ _ (fun e => ha.2 x hx e.symm), State.word_wr32_ne _ _ (fun e => ha.1 x hx e.symm)]

/-- R250: what zeroing does. -/
theorem State.zeroBlocks_facts (s : State) (sheds engines : List Nat) :
    let t := s.zeroBlocks sheds engines
    (∀ sh b, b < 64 → t.bm sh b = (if sheds.contains sh = true then Bm.zero else s.bm sh b) ∧ t.pond sh b = (if sheds.contains sh = true then Pond.zero else s.pond sh b) ∧
      t.fmb sh b = (if sheds.contains sh = true then Fmb.zero else s.fmb sh b)) ∧
    (∀ m, (t.eddy m) = if engines.contains m = true then { s.eddy m with data := [] } else s.eddy m) ∧
    (∀ sh, sheds.contains sh = true → t.rd32 (rFIFO_OVR_LO sh) = 0 ∧ t.rd32 (rFIFO_OVR_HI sh) = 0) ∧
    s.wordsBut t (sheds.map rFIFO_OVR_LO ++ sheds.map rFIFO_OVR_HI) ∧ t.stalls = s.stalls := by
  intro t
  let s1 : State := { s with fab := { s.fab with bms := smClear (fun k => sheds.contains (k / 64)) s.fab.bms, ponds := smClear (fun k => sheds.contains (k / 64)) s.fab.ponds, fmbs := smClear (fun k => sheds.contains (k / 64)) s.fab.fmbs } }
  let s2 := sheds.foldl (fun t sh => (t.wr32 (rFIFO_OVR_LO sh) 0).wr32 (rFIFO_OVR_HI sh) 0) s1
  have ht : t = engines.foldl (fun t m => t.setEddy m { t.eddy m with data := [] }) s2 := rfl
  have hw2 : Within [.regs, .agg] s1 s2 := Within.foldl (fun u x => Within.via (State.wr32_within ..) rfl (Within.mono (State.wr32_within ..) rfl)) (Within.refl _ _)
  have hw3 : Within [.eddies] s2 t := Within.foldl (fun u x => Within.mono (State.setEddy_within ..) rfl) (Within.refl _ _)
  have hfab : t.fab = s1.fab := (hw3.2 .fab rfl).trans (hw2.2 .fab rfl)
  have hregs : t.regs = s2.regs := hw3.2 .regs rfl
  have hedd : s2.eddies = s.eddies := hw2.2 .eddies rfl
  obtain ⟨g1, g2⟩ := State.fifo_fold sheds s1
  refine ⟨?_, ?_, ?_, ?_, (hw3.2 .stalls rfl).trans (hw2.2 .stalls rfl)⟩
  · intro sh b hb
    have hk : (64 * sh + b) / 64 = sh := by omega
    unfold State.bm State.pond State.fmb
    rw [hfab]
    refine ⟨?_, ?_, ?_⟩
    · show smGet _ (smClear _ _) _ = _
      rw [smGet_smClear, hk]
    · show smGet _ (smClear _ _) _ = _
      rw [smGet_smClear, hk]
    · show smGet _ (smClear _ _) _ = _
      rw [smGet_smClear, hk]
  · intro m
    have h := State.wipe_fold engines s2 m
    rw [← ht] at h
    rw [h, State.eddy_eddies hedd]
  · intro sh h
    have h' : sh ∈ sheds := List.contains_iff_mem.mp h
    obtain ⟨h1, h2⟩ := g1 sh h'
    rw [State.rd32_same hregs, State.rd32_same hregs]
    unfold State.rd32
    exact ⟨by rw [h1]; rfl, by rw [h2]; rfl⟩
  · exact State.wordsBut.regs (State.wordsBut_trans (State.wordsBut_of_regs _ rfl) g2) hregs

theorem State.applyPin_word (s : State) (x : Nat × Nat × Bool × Bool) {a : Nat} (h : a % 0x800000 / 4096 ≠ 0x703) : (s.applyPin x).word a = s.word a := by
  have hx : x.1 % 48 < 48 := Nat.mod_lt _ (by decide)
  have hb : ∀ (u : State) (lo : Nat) (b : Bool), (lo = rGPIO_OUT_LO (x.1 / 48) ∨ lo = rGPIO_OE_LO (x.1 / 48)) → (u.setBankBit lo x.1 b).word a = u.word a := by
    intro u lo b hlo
    unfold State.setBankBit pinBit
    have hlo' : lo % 0x800000 / 4096 = 0x703 ∧ (lo + 4) % 0x800000 / 4096 = 0x703 := by
      rcases hlo with rfl | rfl
      · unfold rGPIO_OUT_LO; rw [addr_pinBank]; omega
      · unfold rGPIO_OE_LO; rw [addr_pinBank]; omega
    split
    · exact State.word_setBit_ne _ _ (by assumption) (fun e => h (e ▸ hlo'.1))
    · exact State.word_setBit_ne _ _ (by show x.1 % 48 - 32 < 32; omega) (fun e => h (e ▸ hlo'.2))
  have hc : a ≠ pinCfg x.1 := by
    intro e; apply h; rw [e]; unfold pinCfg rPIN_CFG; rw [addr_pinBank]; omega
  unfold State.applyPin
  dsimp only
  rw [State.word_same ((State.setPinCell_within ..).2 .regs rfl), hb _ _ _ (Or.inr rfl), hb _ _ _ (Or.inl rfl), State.word_wr32_ne _ _ hc]

theorem State.swapPins_word (s : State) (n : Nat) (fresh : Bool) {a : Nat} (h : a % 0x800000 / 4096 ≠ 0x703) : (s.swapPins n fresh).word a = s.word a := by
  unfold State.swapPins
  dsimp only
  have h1 : (((s.stall n).pins).foldl (fun u p => u.resetPin p) s).word a = s.word a :=
    State.word_foldl a _ _ (fun u x _ => State.applyPin_word u (x, 0, false, false) h) s
  show State.word (if fresh = true then _ else _) a = _
  split
  · exact h1
  · rw [State.word_foldl a _ _ (fun u x _ => State.applyPin_word u x h), h1]

theorem State.swapPins_stall (s : State) (n : Nat) (fresh : Bool) : (∃ x, (s.swapPins n fresh).stall n = { s.stall n with bgPins := x }) ∧
    ∀ m, m ≠ n → (s.swapPins n fresh).stall m = s.stall m := by
  have h1 : ∀ u, u = (if fresh = true then ((s.stall n).pins).foldl (fun u p => u.resetPin p) s else
      (s.stall n).bgPins.foldl (fun u x => u.applyPin x) (((s.stall n).pins).foldl (fun u p => u.resetPin p) s)) → u.stalls = s.stalls := by
    intro u hu
    have k1 : Within [.regs, .agg, .pins] s (((s.stall n).pins).foldl (fun u p => u.resetPin p) s) :=
      Within.foldl (fun u x => Within.mono (State.resetPin_within ..) rfl) (Within.refl _ _)
    rw [hu]
    split
    · exact k1.2 .stalls rfl
    · have k2 : Within [.regs, .agg, .pins] s ((s.stall n).bgPins.foldl (fun u x => u.applyPin x) (((s.stall n).pins).foldl (fun u p => u.resetPin p) s)) :=
        Within.foldl (fun u x => Within.mono (State.applyPin_within ..) rfl) k1
      exact k2.2 .stalls rfl
  have hs := h1 _ rfl
  unfold State.swapPins
  dsimp only
  refine ⟨⟨(s.stall n).pins.map (fun p => s.pinSettings p), ?_⟩, ?_⟩
  · rw [State.stall_setStall, if_pos rfl, State.stall_same hs]
  · intro m hm; rw [State.stall_setStall, if_neg hm, State.stall_same hs]

/-- The fields of PLANE_STAT that say where a shed's planes stand and whose it is. -/
def planeKept (sh : Nat) (s t : State) : Prop :=
  t.livePlane sh = s.livePlane sh ∧ (∀ p, p < 2 → t.planeState sh p = s.planeState sh p) ∧ t.shedOwner sh = s.shedOwner sh

theorem planeKept_word {sh : Nat} {s t : State} (h : t.word (rPLANE_STAT sh) = s.word (rPLANE_STAT sh)) : planeKept sh s t := by
  refine ⟨State.livePlane_word h, fun p _ => State.planeState_word h, ?_⟩
  unfold State.shedOwner State.rd32; rw [h]

theorem planeKept.trans {sh : Nat} {s t u : State} (h : planeKept sh s t) (g : planeKept sh t u) : planeKept sh s u :=
  ⟨g.1.trans h.1, fun p hp => (g.2.1 p hp).trans (h.2.1 p hp), g.2.2.trans h.2.2⟩

theorem State.shedOwner_fget (s : State) (sh : Nat) : s.shedOwner sh = if s.fget (rPLANE_STAT sh) fPLANE_STAT_OWNED = 1 then some (s.fget (rPLANE_STAT sh) fPLANE_STAT_STALL) else none := by
  rw [State.fget_word _ _ (by decide), State.fget_word _ _ (by decide)]; rfl

theorem State.shedsOf_kept {s t : State} (h : ∀ sh, sh < 384 → t.shedOwner sh = s.shedOwner sh) (n : Nat) : t.shedsOf n = s.shedsOf n := by
  unfold State.shedsOf
  refine List.filter_congr ?_
  intro sh hsh
  rw [h sh (List.mem_range.mp hsh)]

theorem planeFld_apart {p : Nat} {f : Fld} (h : f = fPLANE_STAT_GATED ∨ f = fPLANE_STAT_LIVE_PLANE ∨ f = fPLANE_STAT_OWNED ∨ f = fPLANE_STAT_STALL ∨ f = fPLANE_STAT_A_SAVED ∨ f = fPLANE_STAT_B_SAVED) :
    (planeFld p).lo + (planeFld p).width ≤ f.lo ∨ f.lo + f.width ≤ (planeFld p).lo := by
  unfold planeFld
  split <;> rcases h with rfl | rfl | rfl | rfl | rfl | rfl <;> decide

/-- Opening a shed's gates. -/
theorem State.setGated_facts (s : State) (sh : Nat) (b : Bool) : planeKept sh s (s.setGated sh b) ∧ (s.setGated sh b).gated sh = b ∧ s.wordsBut (s.setGated sh b) [rPLANE_STAT sh] := by
  unfold State.setGated
  refine ⟨⟨?_, ?_, ?_⟩, ?_, State.wordsBut_fset _ _ (by decide) (by simp)⟩
  · exact State.fget_fset_apart _ _ _ _ (by decide) (by decide) (by decide)
  · intro p _; exact State.fget_fset_apart _ _ _ _ (by decide) (planeFld_le p) (by have := planeFld_apart (p := p) (f := fPLANE_STAT_GATED) (Or.inl rfl); omega)
  · rw [State.shedOwner_fget, State.shedOwner_fget, State.fget_fset_apart _ _ _ _ (by decide) (by decide) (by decide), State.fget_fset_apart _ _ _ _ (by decide) (by decide) (by decide)]
  · unfold State.gated State.flag; rw [State.fget_fset_if _ _ _ _ (by decide), if_pos rfl]; cases b <;> rfl

theorem State.gate_fold (l : List Nat) (hl : l.Nodup) (s : State) : let t := l.foldl (fun t sh => t.setGated sh false) s
    (∀ sh ∈ l, planeKept sh s t ∧ t.gated sh = false) ∧ ∀ sh, sh ∉ l → t.word (rPLANE_STAT sh) = s.word (rPLANE_STAT sh) := by
  refine foldl_keys (fun _ => True) _ (fun sh s t => t.word (rPLANE_STAT sh) = s.word (rPLANE_STAT sh)) (fun sh s t => planeKept sh s t ∧ t.gated sh = false) ?_ ?_ ?_ ?_ ?_ ?_ l hl (fun _ _ => trivial) s
  · exact fun _ _ => rfl
  · exact fun _ _ _ _ h g => g.trans h
  · intro u x y _ hxy
    exact (State.setGated_facts u x false).2.2 _ (by simpa using fun e => hxy (rPLANE_STAT_inj e).symm)
  · intro u x _; exact ⟨(State.setGated_facts u x false).1, (State.setGated_facts u x false).2.1⟩
  · intro x s u t a d; exact ⟨(planeKept_word a).trans d.1, d.2⟩
  · intro x s t u d a
    refine ⟨d.1.trans (planeKept_word a), ?_⟩
    have : u.gated x = t.gated x := by unfold State.gated State.flag; rw [State.fget_of_word _ a (by decide)]
    rw [this]; exact d.2

/-- One shed's planes change places. -/
theorem State.flipShed_facts (s : State) (sh : Nat) (bad : Bool) : let t := s.flipShed sh bad
    t.livePlane sh = s.bgPlane sh ∧ t.shedOwner sh = s.shedOwner sh ∧
    t.planeState sh (s.livePlane sh) = (if s.planeState sh (s.livePlane sh) = plLIVE then (if bad = true then plINVALID else plLOADED) else s.planeState sh (s.livePlane sh)) ∧
    t.planeState sh (s.bgPlane sh) = (if s.planeState sh (s.bgPlane sh) = plLOADED then plLIVE else s.planeState sh (s.bgPlane sh)) ∧
    s.wordsBut t [rPLANE_STAT sh] := by
  have hp : s.livePlane sh < 2 := State.livePlane_lt s sh
  have hq : s.bgPlane sh < 2 := State.bgPlane_lt s sh
  have hpq : s.bgPlane sh ≠ s.livePlane sh := by unfold State.bgPlane; omega
  have hstate : ∀ (u : State) (p p' v : Nat), p < 2 → p' < 2 → v < 8 → (u.setPlaneState sh p v).planeState sh p' = if p' = p then v else u.planeState sh p' := by
    intro u p p' v h h' hv
    unfold State.setPlaneState State.planeState
    by_cases e : p' = p
    · rw [if_pos e, e, State.fget_fset_if _ _ _ _ (planeFld_le p), if_pos rfl]
      have : (planeFld p).width = 3 := by unfold planeFld; split <;> rfl
      rw [this]; omega
    · rw [if_neg e, State.fget_fset_apart _ _ _ _ (planeFld_le p) (planeFld_le p')]
      unfold planeFld
      by_cases h0 : p = 0
      · rw [if_pos h0, if_neg (by omega)]; decide
      · rw [if_neg h0, if_pos (by omega)]; decide
  have hstateO : ∀ (u : State) (p v : Nat), (u.setPlaneState sh p v).shedOwner sh = u.shedOwner sh := by
    intro u p v
    unfold State.setPlaneState
    have h1 := planeFld_apart (p := p) (f := fPLANE_STAT_OWNED) (by simp)
    have h2 := planeFld_apart (p := p) (f := fPLANE_STAT_STALL) (by simp)
    rw [State.shedOwner_fget, State.shedOwner_fget, State.fget_fset_apart _ _ _ _ (planeFld_le p) (by decide) (by omega), State.fget_fset_apart _ _ _ _ (planeFld_le p) (by decide) (by omega)]
  have hsavedK : ∀ (u : State) (p : Nat) (b : Bool), (∀ p', (u.setPlaneSaved sh p b).planeState sh p' = u.planeState sh p') ∧ (u.setPlaneSaved sh p b).shedOwner sh = u.shedOwner sh := by
    intro u p b
    unfold State.setPlaneSaved
    have h1 : ∀ p', (savedFld p).lo + (savedFld p).width ≤ (planeFld p').lo ∨ (planeFld p').lo + (planeFld p').width ≤ (savedFld p).lo := by
      intro p'; unfold savedFld planeFld; split <;> split <;> decide
    refine ⟨fun p' => State.fget_fset_apart _ _ _ _ (savedFld_le p) (planeFld_le p') (by have := h1 p'; omega), ?_⟩
    rw [State.shedOwner_fget, State.shedOwner_fget, State.fget_fset_apart _ _ _ _ (savedFld_le p) (by decide) (by unfold savedFld; split <;> decide),
      State.fget_fset_apart _ _ _ _ (savedFld_le p) (by decide) (by unfold savedFld; split <;> decide)]
  have h1 : ∃ u, u = (if s.planeState sh (s.livePlane sh) = plLIVE then
        (if bad = true then (s.setPlaneState sh (s.livePlane sh) (if bad = true then plINVALID else plLOADED)).setPlaneSaved sh (s.livePlane sh) false
          else s.setPlaneState sh (s.livePlane sh) (if bad = true then plINVALID else plLOADED)) else s) ∧
      u.planeState sh (s.livePlane sh) = (if s.planeState sh (s.livePlane sh) = plLIVE then (if bad = true then plINVALID else plLOADED) else s.planeState sh (s.livePlane sh)) ∧
      u.planeState sh (s.bgPlane sh) = s.planeState sh (s.bgPlane sh) ∧ u.shedOwner sh = s.shedOwner sh ∧ s.wordsBut u [rPLANE_STAT sh] := by
    refine ⟨_, rfl, ?_⟩
    have hv : (if bad = true then plINVALID else plLOADED) < 8 := by split <;> decide
    by_cases hl : s.planeState sh (s.livePlane sh) = plLIVE
    · rw [if_pos hl, if_pos hl]
      by_cases hb : bad = true
      · rw [if_pos hb]
        refine ⟨?_, ?_, ?_, ?_⟩
        · rw [(hsavedK _ _ _).1, hstate _ _ _ _ hp hp hv, if_pos rfl]
        · rw [(hsavedK _ _ _).1, hstate _ _ _ _ hp hq hv, if_neg hpq]
        · rw [(hsavedK _ _ _).2, hstateO]
        · exact State.wordsBut.fset (State.wordsBut_fset _ _ (planeFld_le _) (by simp)) (savedFld_le _) (by simp)
      · rw [if_neg hb]
        refine ⟨?_, ?_, hstateO _ _ _, State.wordsBut_fset _ _ (planeFld_le _) (by simp)⟩
        · rw [hstate _ _ _ _ hp hp hv, if_pos rfl]
        · rw [hstate _ _ _ _ hp hq hv, if_neg hpq]
    · rw [if_neg hl, if_neg hl]
      exact ⟨rfl, rfl, rfl, State.wordsBut_refl _ _⟩
  obtain ⟨u, hu, u1, u2, u3, u4⟩ := h1
  have h2 : ∃ v, v = (if u.planeState sh (s.bgPlane sh) = plLOADED then u.setPlaneState sh (s.bgPlane sh) plLIVE else u) ∧
      v.planeState sh (s.livePlane sh) = u.planeState sh (s.livePlane sh) ∧
      v.planeState sh (s.bgPlane sh) = (if s.planeState sh (s.bgPlane sh) = plLOADED then plLIVE else s.planeState sh (s.bgPlane sh)) ∧ v.shedOwner sh = s.shedOwner sh ∧
      s.wordsBut v [rPLANE_STAT sh] := by
    refine ⟨_, rfl, ?_⟩
    rw [u2]
    by_cases hl : s.planeState sh (s.bgPlane sh) = plLOADED
    · rw [if_pos hl, if_pos hl]
      refine ⟨?_, ?_, ?_, State.wordsBut.fset u4 (planeFld_le _) (by simp)⟩
      · rw [hstate _ _ _ _ hq hp (by decide), if_neg (Ne.symm hpq)]
      · rw [hstate _ _ _ _ hq hq (by decide), if_pos rfl]
      · rw [hstateO, u3]
    · rw [if_neg hl, if_neg hl]; exact ⟨rfl, u2, u3, u4⟩
  obtain ⟨v, hv, v1, v2, v3, v4⟩ := h2
  have ht : s.flipShed sh bad = v.fset (rPLANE_STAT sh) fPLANE_STAT_LIVE_PLANE (s.bgPlane sh) := by rw [hv, hu]; rfl
  intro t
  have hk : ∀ p, t.planeState sh p = v.planeState sh p := by
    intro p
    show State.planeState (s.flipShed sh bad) sh p = _
    rw [ht]
    have := planeFld_apart (p := p) (f := fPLANE_STAT_LIVE_PLANE) (by simp)
    exact State.fget_fset_apart _ _ _ _ (by decide) (planeFld_le p) (by omega)
  refine ⟨?_, ?_, ?_, ?_, ?_⟩
  · show State.livePlane (s.flipShed sh bad) sh = _
    rw [ht]; unfold State.livePlane; rw [State.fget_fset_if _ _ _ _ (by decide), if_pos rfl]
    show s.bgPlane sh % 2 ^ 1 = _
    omega
  · show State.shedOwner (s.flipShed sh bad) sh = _
    rw [ht, State.shedOwner_fget, State.fget_fset_apart _ _ _ _ (by decide) (by decide) (by decide), State.fget_fset_apart _ _ _ _ (by decide) (by decide) (by decide), ← State.shedOwner_fget, v3]
  · rw [hk, v1, u1]
  · rw [hk, v2]
  · show s.wordsBut (s.flipShed sh bad) _
    rw [ht]; exact State.wordsBut.fset v4 (by decide) (by simp)

/-- What the flip does to a shed of the stall. -/
def shedFlipped (bad : Bool) (sh : Nat) (s t : State) : Prop :=
  t.livePlane sh = s.bgPlane sh ∧ t.shedOwner sh = s.shedOwner sh ∧
  t.planeState sh (s.livePlane sh) = (if s.planeState sh (s.livePlane sh) = plLIVE then (if bad = true then plINVALID else plLOADED) else s.planeState sh (s.livePlane sh)) ∧
  t.planeState sh (s.bgPlane sh) = (if s.planeState sh (s.bgPlane sh) = plLOADED then plLIVE else s.planeState sh (s.bgPlane sh))

theorem shedFlipped.kept {bad : Bool} {sh : Nat} {s t u : State} (h : shedFlipped bad sh s t) (g : planeKept sh t u) : shedFlipped bad sh s u :=
  ⟨g.1.trans h.1, g.2.2.trans h.2.1, (g.2.1 _ (State.livePlane_lt ..)).trans h.2.2.1, (g.2.1 _ (State.bgPlane_lt ..)).trans h.2.2.2⟩

theorem State.flip_fold (bad : Bool) (l : List Nat) (hl : l.Nodup) (s : State) : let t := l.foldl (fun t sh => t.flipShed sh bad) s
    (∀ sh ∈ l, shedFlipped bad sh s t) ∧ ∀ sh, sh ∉ l → t.word (rPLANE_STAT sh) = s.word (rPLANE_STAT sh) := by
  refine foldl_keys (fun _ => True) _ (fun sh s t => t.word (rPLANE_STAT sh) = s.word (rPLANE_STAT sh)) (shedFlipped bad) ?_ ?_ ?_ ?_ ?_ ?_ l hl (fun _ _ => trivial) s
  · exact fun _ _ => rfl
  · exact fun _ _ _ _ h g => g.trans h
  · intro u x y _ hxy
    exact (State.flipShed_facts u x bad).2.2.2.2 _ (by simpa using fun e => hxy (rPLANE_STAT_inj e).symm)
  · intro u x _
    obtain ⟨f1, f2, f3, f4, -⟩ := State.flipShed_facts u x bad
    exact ⟨f1, f2, f3, f4⟩
  · intro x s u t a ⟨d1, d2, d3, d4⟩
    obtain ⟨k1, k2, k3⟩ := planeKept_word a
    rw [State.livePlane_word a, k2 _ (State.livePlane_lt ..)] at d3
    rw [State.bgPlane_word a, k2 _ (State.bgPlane_lt ..)] at d4
    exact ⟨d1.trans (State.bgPlane_word a), d2.trans k3, d3, d4⟩
  · intro x s t u d a; exact d.kept (planeKept_word a)

theorem State.flip_words (bad : Bool) (l : List Nat) (s : State) : s.wordsBut (l.foldl (fun t sh => t.flipShed sh bad) s) (l.map rPLANE_STAT) := by
  intro a ha
  refine State.word_foldl a _ l ?_ s
  intro u x hx
  refine (State.flipShed_facts u x bad).2.2.2.2 a ?_
  have : a ∉ l.map rPLANE_STAT := by simpa using ha
  simp only [List.contains_eq_mem, List.mem_singleton, decide_eq_false_iff_not]
  intro e
  exact this (e ▸ List.mem_map_of_mem hx)

theorem State.reachFold_word (g : Nat → Nat) (L : List Nat) (v : Nat → Nat) (a : Nat) (h : ∀ k, a ≠ g k) (s : State) : (L.foldl (fun t k => t.wr32 (g k) (v k)) s).word a = s.word a :=
  State.word_foldl a _ L (fun _ _ _ => State.word_wr32_ne _ _ (h _)) s

/-- An engine's and a port's settings lie above the stalls' and the yards' pages. -/
theorem State.engineSettings_word (s : State) (n m : Nat) (im : Option Image) {a : Nat} (h : a < 0x05000000) : (s.engineSettings n m im).word a = s.word a := by
  have h1 : a / 4096 * 4096 ≠ PageKind.addr .eddy m := by rw [addr_eddy]; omega
  have h2 : a / 4096 * 4096 ≠ PageKind.addr .eddyIo m := by rw [addr_eddyIo]; omega
  have h3 : ∀ k, a ≠ rENG_REACH (0xC0 + m / 4) (m % 4) k := by intro k; unfold rENG_REACH; rw [addr_milEpcfg]; omega
  have h4 : a ≠ rENG_CFG (0xC0 + m / 4) (m % 4) := by unfold rENG_CFG; rw [addr_milEpcfg]; omega
  have h5 : a ≠ rEDDY_CFG m := by unfold rEDDY_CFG; rw [addr_eddy]; omega
  have h6 : a ≠ rEDDY_START_PC m := by unfold rEDDY_START_PC; rw [addr_eddy]; omega
  have h0 : ((s.resetPage (PageKind.eddy.addr m) (fun o => decide (o < 0x040))).resetPage (PageKind.eddyIo.addr m) (fun o => decide (o < 0x040))).word a = s.word a := by
    rw [State.word_resetPage _ _ _ h2, State.word_resetPage _ _ _ h1]
  unfold State.engineSettings
  dsimp only
  split
  · rw [State.reachFold_word _ _ _ _ h3, State.word_wr32_ne _ _ h4, State.word_fset_ne _ _ _ (by decide) h5, State.word_fset_ne _ _ _ (by decide) h6, h0]
  · rw [State.reachFold_word _ _ _ _ h3, State.word_wr32_ne _ _ h4, h0]

theorem State.portSettings_word (s : State) (n e : Nat) (im : Option Image) {a : Nat} (h : a < 0x05000000) : (s.portSettings n e im).word a = s.word a := by
  have h1 : a ≠ rEPQ_CTL e := by unfold rEPQ_CTL; rw [addr_milEp]; omega
  have h3 : ∀ k, a ≠ rEP_REACH e k := by intro k; unfold rEP_REACH; rw [addr_milEpcfg]; omega
  have h4 : a ≠ rEP_CFG e := by unfold rEP_CFG; rw [addr_milEpcfg]; omega
  unfold State.portSettings
  dsimp only
  split
  · rw [State.reachFold_word _ _ _ _ h3, State.word_wr32_ne _ _ h4, State.word_wr32_ne _ _ h1]
  · rw [State.reachFold_word _ _ _ _ h3, State.word_wr32_ne _ _ h4, State.word_wr32_ne _ _ h1]

theorem State.engineStart_facts (l : List Nat) : ∀ s : State, (∀ m, ((l.foldl (fun t m => t.engineStart m) s).eddy m).data = (s.eddy m).data) ∧ Within [.eddies] s (l.foldl (fun t m => t.engineStart m) s) := by
  induction l with
  | nil => intro s; exact ⟨fun _ => rfl, Within.refl _ _⟩
  | cons a l ih =>
    intro s
    rw [List.foldl_cons]
    obtain ⟨i1, i2⟩ := ih (s.engineStart a)
    refine ⟨fun m => (i1 m).trans ?_, Within.trans (State.engineStart_within ..) i2⟩
    unfold State.engineStart
    rw [State.setEddy_eddy]
    by_cases h : m = a
    · rw [if_pos h, h]
    · rw [if_neg h]

theorem State.endJobs_shape (s : State) (n code data : Nat) :
    (s.endJobs (fun j => decide (j.kind = .swapStall n)) code data).tol.jobs.map (fun j => (j.ticket, decide (j.kind = .swapStall n), j.result.isSome)) =
      s.tol.jobs.map (fun j => (j.ticket, decide (j.kind = .swapStall n), j.result.isSome || decide (j.kind = .swapStall n))) := by
  unfold State.endJobs
  dsimp only
  rw [List.map_map]
  refine List.map_congr_left ?_
  intro j _
  show (_, _, _) = (_, _, _)
  by_cases h : j.kind = .swapStall n
  · cases hr : j.result <;> simp [h, hr]
  · simp [h]

/-- R251, R252: what release does. -/
theorem State.release_facts (s : State) (n : Nat) (w : SwapRun) (hn : n < 32) :
    let t := s.release n w
    t.stallState n = (if w.cause ≠ 0 then stFAULTED else if w.park = true then stEMPTY else stLIVE) ∧
    (∃ x, t.stall n = { s.stall n with swap := none, bgPins := x }) ∧ (∀ m, m ≠ n → t.stall m = s.stall m) ∧
    t.bit (rIRQ_RAW (PageKind.stall.addr n)) 0 = true ∧ (w.cause ≠ 0 → t.fget (rSTALL_STAT n) fSTALL_STAT_CAUSE = w.cause % 2 ^ 4) ∧
    t.tol.jobs.map (fun j => (j.ticket, decide (j.kind = .swapStall n), j.result.isSome)) =
      s.tol.jobs.map (fun j => (j.ticket, decide (j.kind = .swapStall n), j.result.isSome || decide (j.kind = .swapStall n))) ∧
    (∀ sh, sh < 384 → planeKept sh s t) ∧ (w.cause = 0 → w.park = false → ∀ sh ∈ s.shedsOf n, t.gated sh = false) ∧
    (∀ sh, sh < 384 → sh ∉ s.shedsOf n → t.word (rPLANE_STAT sh) = s.word (rPLANE_STAT sh)) ∧
    t.fab = s.fab ∧ (∀ m, (t.eddy m).data = (s.eddy m).data) ∧ Within [.regs, .agg, .eddies, .stalls, .tol, .pins] s t := by
  have hstat : rSTALL_STAT n = PageKind.stall.addr n + 0x040 := rfl
  have hne : rSTALL_STAT n ≠ PageKind.stall.addr n + 0x010 := by rw [hstat]; omega
  have hshed : ∀ sh, sh < 384 → rPLANE_STAT sh ≠ rSTALL_STAT n ∧ rPLANE_STAT sh ≠ PageKind.stall.addr n + 0x010 := by
    intro sh hsh; unfold rPLANE_STAT rSTALL_STAT; rw [addr_shedCfg, addr_stall]; omega
  have hpin : ∀ sh, sh < 384 → rPLANE_STAT sh % 0x800000 / 4096 ≠ 0x703 := by
    intro sh hsh; unfold rPLANE_STAT; rw [addr_shedCfg]; omega
  have hpin2 : rSTALL_STAT n % 0x800000 / 4096 ≠ 0x703 ∧ (PageKind.stall.addr n + 0x010) % 0x800000 / 4096 ≠ 0x703 := by
    unfold rSTALL_STAT; rw [addr_stall]; omega
  -- the state after the swap's record is gone and its event is raised
  have hbase : ∃ s1, s1 = (s.setStall n { s.stall n with swap := none }).irq (PageKind.stall.addr n) 0 ∧ s1.stall n = { s.stall n with swap := none } ∧
      (∀ m, m ≠ n → s1.stall m = s.stall m) ∧ s1.bit (PageKind.stall.addr n + 0x010) 0 = true ∧ (∀ sh, sh < 384 → s1.word (rPLANE_STAT sh) = s.word (rPLANE_STAT sh)) ∧
      s1.tol = s.tol ∧ s1.fab = s.fab ∧ s1.eddies = s.eddies ∧ Within [.regs, .agg, .eddies, .stalls, .tol, .pins] s s1 := by
    refine ⟨_, rfl, ?_, ?_, ?_, ?_, ?_, ?_, ?_, ?_⟩
    · rw [State.stall_same ((State.irq_within ..).2 .stalls rfl), State.stall_setStall, if_pos rfl]
    · intro m hm; rw [State.stall_same ((State.irq_within ..).2 .stalls rfl), State.stall_setStall, if_neg hm]
    · rw [State.bit_irq _ _ _ _ _ (by decide) (by decide)]; simp
    · intro sh hsh; rw [State.word_irq_ne _ (by decide) (hshed sh hsh).2]; rfl
    · exact (State.irq_within ..).2 .tol rfl
    · exact (State.irq_within ..).2 .fab rfl
    · exact (State.irq_within ..).2 .eddies rfl
    · exact Within.via (State.irq_within ..) rfl (Within.mono (State.setStall_within ..) rfl)
  obtain ⟨s1, hs1, b1, b2, b3, b4, b5, b6, b7, b8⟩ := hbase
  have hstep : ∀ v, v < 8 → ∃ u, u = s1.setStallState n v ∧ u.stallState n = v ∧ u.bit (PageKind.stall.addr n + 0x010) 0 = true ∧
      (∀ sh, sh < 384 → u.word (rPLANE_STAT sh) = s.word (rPLANE_STAT sh)) ∧ u.stalls = s1.stalls ∧ u.tol = s.tol ∧ u.fab = s.fab ∧ u.eddies = s.eddies ∧
      Within [.regs, .agg, .eddies, .stalls, .tol, .pins] s u := by
    intro v hv
    have hw := State.setStallState_within s1 n v
    refine ⟨_, rfl, ?_, ?_, ?_, hw.2 .stalls rfl, (hw.2 .tol rfl).trans b5, (hw.2 .fab rfl).trans b6, (hw.2 .eddies rfl).trans b7, Within.via hw rfl b8⟩
    · unfold State.stallState State.setStallState
      rw [State.fget_fset_if _ _ _ _ (by decide), if_pos rfl]; exact Nat.mod_eq_of_lt hv
    · unfold State.setStallState
      rw [State.bit_wordsBut (State.wordsBut_fset (l := [rSTALL_STAT n]) _ _ (by decide) (by simp)) _ _ (by simpa using Ne.symm hne) (by decide)]; exact b3
    · intro sh hsh
      unfold State.setStallState
      rw [State.word_fset_ne _ _ _ (by decide) (hshed sh hsh).1, b4 sh hsh]
  -- what the stall's own words say after the pins have been swapped
  have hpins : ∀ u : State, u.stalls = s1.stalls → (∃ x, (u.swapPins n w.fresh).stall n = { s.stall n with swap := none, bgPins := x }) ∧
      (∀ m, m ≠ n → (u.swapPins n w.fresh).stall m = s.stall m) := by
    intro u hu
    obtain ⟨⟨x, p1⟩, p2⟩ := State.swapPins_stall u n w.fresh
    refine ⟨⟨x, ?_⟩, ?_⟩
    · rw [p1, State.stall_same hu, b1]
    · intro m hm; rw [p2 m hm, State.stall_same hu, b2 m hm]
  have hjobs : ∀ (u : State) (code data : Nat), u.tol = s.tol →
      (u.endJobs (fun j => decide (j.kind = .swapStall n)) code data).tol.jobs.map (fun j => (j.ticket, decide (j.kind = .swapStall n), j.result.isSome)) =
        s.tol.jobs.map (fun j => (j.ticket, decide (j.kind = .swapStall n), j.result.isSome || decide (j.kind = .swapStall n))) := by
    intro u code data hu; rw [State.endJobs_shape, hu]
  have hend : ∀ (u : State) (code data : Nat), (u.endJobs (fun j => decide (j.kind = .swapStall n)) code data).regs = u.regs ∧
      (u.endJobs (fun j => decide (j.kind = .swapStall n)) code data).stalls = u.stalls ∧ (u.endJobs (fun j => decide (j.kind = .swapStall n)) code data).fab = u.fab ∧
      (u.endJobs (fun j => decide (j.kind = .swapStall n)) code data).eddies = u.eddies := fun _ _ _ => ⟨rfl, rfl, rfl, rfl⟩
  intro t
  by_cases hcz : w.cause ≠ 0
  · have ht : t = ((s1.setStallState n stFAULTED).fset (rSTALL_STAT n) fSTALL_STAT_CAUSE w.cause).endJobs (fun j => decide (j.kind = .swapStall n)) ccFAULTED w.cause := by
      rw [hs1]; show State.release s n w = _; unfold State.release; dsimp only; rw [if_pos hcz]
    obtain ⟨u, hu, u1, u2, u3, u4, u5, u6, u7, u8⟩ := hstep stFAULTED (by decide)
    rw [← hu] at ht
    have hf := State.fset_within u (rSTALL_STAT n) fSTALL_STAT_CAUSE w.cause
    obtain ⟨e1, e2, e3, e4⟩ := hend (u.fset (rSTALL_STAT n) fSTALL_STAT_CAUSE w.cause) ccFAULTED w.cause
    rw [← ht] at e1 e2 e3 e4
    have hword : ∀ sh, sh < 384 → t.word (rPLANE_STAT sh) = s.word (rPLANE_STAT sh) := by
      intro sh hsh; rw [State.word_same e1, State.word_fset_ne _ _ _ (by decide) (hshed sh hsh).1, u3 sh hsh]
    refine ⟨?_, ⟨(s.stall n).bgPins, ?_⟩, ?_, ?_, ?_, ?_, fun sh hsh => planeKept_word (hword sh hsh), fun h => absurd h hcz, fun sh hsh _ => hword sh hsh, ?_, ?_, ?_⟩
    · rw [if_pos hcz]; unfold State.stallState at u1 ⊢
      rw [State.fget_same e1, State.fget_fset_apart _ _ _ _ (by decide) (by decide) (by decide)]; exact u1
    · rw [State.stall_same (e2.trans ((hf.2 .stalls rfl).trans u4)), b1]
    · intro m hm; rw [State.stall_same (e2.trans ((hf.2 .stalls rfl).trans u4)), b2 m hm]
    · rw [State.bit_same e1, State.bit_wordsBut (State.wordsBut_fset (l := [rSTALL_STAT n]) _ _ (by decide) (by simp)) _ _ (by simpa [rIRQ_RAW] using Ne.symm hne) (by decide)]; exact u2
    · intro _; rw [State.fget_same e1, State.fget_fset_if _ _ _ _ (by decide), if_pos rfl]; rfl
    · rw [ht]; exact hjobs _ _ _ ((hf.2 .tol rfl).trans u5)
    · exact e3.trans ((hf.2 .fab rfl).trans u6)
    · intro m; rw [State.eddy_eddies (e4.trans ((hf.2 .eddies rfl).trans u7))]
    · rw [ht]; exact Within.via (State.endJobs_within ..) rfl (Within.via hf rfl u8)
  · by_cases hpk : w.park = true
    · have ht : t = ((s1.setStallState n stEMPTY).swapPins n w.fresh).endJobs (fun j => decide (j.kind = .swapStall n)) ccDONE ((s.tide.ticks - w.at_) % 2 ^ 32) := by
        rw [hs1]; show State.release s n w = _; unfold State.release; dsimp only; rw [if_neg hcz, if_pos hpk]
      obtain ⟨u, hu, u1, u2, u3, u4, u5, u6, u7, u8⟩ := hstep stEMPTY (by decide)
      rw [← hu] at ht
      have hf := State.swapPins_within u n w.fresh
      obtain ⟨e1, e2, e3, e4⟩ := hend (u.swapPins n w.fresh) ccDONE ((s.tide.ticks - w.at_) % 2 ^ 32)
      rw [← ht] at e1 e2 e3 e4
      have hword : ∀ sh, sh < 384 → t.word (rPLANE_STAT sh) = s.word (rPLANE_STAT sh) := by
        intro sh hsh; rw [State.word_same e1, State.swapPins_word _ _ _ (hpin sh hsh), u3 sh hsh]
      obtain ⟨⟨x, p1⟩, p2⟩ := hpins u u4
      refine ⟨?_, ⟨x, ?_⟩, ?_, ?_, fun h => absurd h hcz, ?_, fun sh hsh => planeKept_word (hword sh hsh), fun _ h => absurd hpk (by rw [h]; decide), fun sh hsh _ => hword sh hsh, ?_, ?_, ?_⟩
      · rw [if_neg hcz, if_pos hpk]; unfold State.stallState at u1 ⊢
        rw [State.fget_same e1, State.fget_of_word _ (State.swapPins_word _ _ _ hpin2.1) (by decide)]; exact u1
      · rw [State.stall_same e2, p1]
      · intro m hm; rw [State.stall_same e2, p2 m hm]
      · rw [State.bit_same e1]; unfold State.bit State.flag at u2 ⊢
        rw [show rIRQ_RAW (PageKind.stall.addr n) = PageKind.stall.addr n + 0x010 from rfl, State.fget_of_word _ (State.swapPins_word _ _ _ hpin2.2) (by decide)]; exact u2
      · rw [ht]; exact hjobs _ _ _ ((hf.2 .tol rfl).trans u5)
      · exact e3.trans ((hf.2 .fab rfl).trans u6)
      · intro m; rw [State.eddy_eddies (e4.trans ((hf.2 .eddies rfl).trans u7))]
      · rw [ht]; exact Within.via (State.endJobs_within ..) rfl (Within.via hf rfl u8)
    · obtain ⟨u, hu, u1, u2, u3, u4, u5, u6, u7, u8⟩ := hstep stLIVE (by decide)
      have hf := State.swapPins_within u n w.fresh
      obtain ⟨⟨x, p1⟩, p2⟩ := hpins u u4
      have hv : ∃ v, v = u.swapPins n w.fresh := ⟨_, rfl⟩
      obtain ⟨v, hv⟩ := hv
      have hvw : ∀ sh, sh < 384 → v.word (rPLANE_STAT sh) = s.word (rPLANE_STAT sh) := by
        intro sh hsh; rw [hv, State.swapPins_word _ _ _ (hpin sh hsh), u3 sh hsh]
      have hvs : v.shedsOf n = s.shedsOf n := State.shedsOf_kept (fun sh hsh => (planeKept_word (hvw sh hsh)).2.2) n
      obtain ⟨g1, g2⟩ := State.gate_fold (v.shedsOf n) (State.shedsOf_nodup ..) v
      have hg : Within [.regs, .agg] v ((v.shedsOf n).foldl (fun t sh => t.setGated sh false) v) :=
        Within.foldl (fun u x => Within.mono (State.setGated_within ..) rfl) (Within.refl _ _)
      have hgw : ∀ a, (∀ sh, sh < 384 → a ≠ rPLANE_STAT sh) → ((v.shedsOf n).foldl (fun t sh => t.setGated sh false) v).word a = v.word a := by
        intro a ha
        refine State.word_foldl a _ _ ?_ v
        intro y sh hsh
        exact (State.setGated_facts y sh false).2.2 a (by simpa using ha sh (State.mem_shedsOf.mp hsh).1)
      have ht : ∃ (l : List Nat) (d : Nat), t = (l.foldl (fun t m => t.engineStart m) ((v.shedsOf n).foldl (fun t sh => t.setGated sh false) v)).endJobs
          (fun j => decide (j.kind = .swapStall n)) ccDONE d := by
        rw [hv, hu, hs1]
        show ∃ (l : List Nat) (d : Nat), State.release s n w = _
        unfold State.release
        dsimp only
        rw [if_neg hcz, if_neg hpk]
        exact ⟨_, _, rfl⟩
      obtain ⟨l, d, ht⟩ := ht
      generalize ((v.shedsOf n).foldl (fun t sh => t.setGated sh false) v) = y at g1 g2 hg hgw ht
      obtain ⟨q1, q2⟩ := State.engineStart_facts l y
      obtain ⟨e1, e2, e3, e4⟩ := hend (l.foldl (fun t m => t.engineStart m) y) ccDONE d
      rw [← ht] at e1 e2 e3 e4
      have hr : t.regs = y.regs := e1.trans (q2.2 .regs rfl)
      have hst : t.stalls = v.stalls := e2.trans ((q2.2 .stalls rfl).trans (hg.2 .stalls rfl))
      have hword : ∀ sh, sh < 384 → sh ∉ s.shedsOf n → t.word (rPLANE_STAT sh) = s.word (rPLANE_STAT sh) := by
        intro sh hsh hno; rw [State.word_same hr, g2 sh (by rw [hvs]; exact hno), hvw sh hsh]
      refine ⟨?_, ⟨x, ?_⟩, ?_, ?_, fun h => absurd h hcz, ?_, ?_, ?_, hword, ?_, ?_, ?_⟩
      · rw [if_neg hcz, if_neg hpk]; unfold State.stallState at u1 ⊢
        rw [State.fget_same hr, State.fget_of_word _ (hgw _ (fun sh hsh => Ne.symm (hshed sh hsh).1)) (by decide), hv, State.fget_of_word _ (State.swapPins_word _ _ _ hpin2.1) (by decide)]; exact u1
      · rw [State.stall_same hst, hv, p1]
      · intro m hm; rw [State.stall_same hst, hv, p2 m hm]
      · rw [State.bit_same hr]; unfold State.bit State.flag at u2 ⊢
        rw [show rIRQ_RAW (PageKind.stall.addr n) = PageKind.stall.addr n + 0x010 from rfl, State.fget_of_word _ (hgw _ (fun sh hsh => Ne.symm (hshed sh hsh).2)) (by decide), hv,
          State.fget_of_word _ (State.swapPins_word _ _ _ hpin2.2) (by decide)]; exact u2
      · rw [ht]; refine hjobs _ _ _ ?_
        exact (q2.2 .tol rfl).trans ((hg.2 .tol rfl).trans (by rw [hv]; exact (hf.2 .tol rfl).trans u5))
      · intro sh hsh
        by_cases hm : sh ∈ s.shedsOf n
        · have := (g1 sh (by rw [hvs]; exact hm)).1
          refine (planeKept_word (hvw sh hsh)).trans (this.trans (planeKept_word (State.word_same hr _)))
        · exact planeKept_word (hword sh hsh hm)
      · intro _ _ sh hm
        have := (g1 sh (by rw [hvs]; exact hm)).2
        unfold State.gated at this ⊢; rw [State.flag_same hr]; exact this
      · exact e3.trans ((q2.2 .fab rfl).trans ((hg.2 .fab rfl).trans (by rw [hv]; exact (hf.2 .fab rfl).trans u6)))
      · intro m; rw [State.eddy_eddies e4, q1, State.eddy_eddies (hg.2 .eddies rfl), hv, State.eddy_eddies ((hf.2 .eddies rfl).trans u7)]
      · rw [ht]; refine Within.via (State.endJobs_within ..) rfl (Within.via q2 rfl (Within.via hg rfl ?_))
        rw [hv]; exact Within.via hf rfl u8

theorem State.flipAll_facts (s : State) (n : Nat) (w : SwapRun) (hn : n < 32) (d : Nat) :
    let bad := decide (w.was = cCFG_UNCORR) || decide (w.was = cTRIB_CONTENTION)
    let t := (s.flipAll n w).fset (rSTALL_SWAP_DUR n) fSTALL_SWAP_DUR_SWAP_NS d
    t.stall n = { s.stall n with live := if w.park = true then none else (s.stall n).bg, bg := (s.stall n).live } ∧ (∀ m, m ≠ n → t.stall m = s.stall m) ∧
    t.word (rSTALL_STAT n) = s.word (rSTALL_STAT n) ∧ (∀ sh ∈ s.shedsOf n, shedFlipped bad sh s t) ∧
    (∀ sh, sh < 384 → sh ∉ s.shedsOf n → t.word (rPLANE_STAT sh) = s.word (rPLANE_STAT sh)) ∧ t.tol = s.tol ∧ Within [.regs, .agg, .fab, .eddies, .stalls] s t := by
  intro bad t
  obtain ⟨f1, f2⟩ := State.flip_fold bad (s.shedsOf n) (State.shedsOf_nodup ..) s
  have f3 := State.flip_words bad (s.shedsOf n) s
  have fw : Within [.regs, .agg] s ((s.shedsOf n).foldl (fun t sh => t.flipShed sh bad) s) := Within.foldl (fun u x => Within.mono (State.flipShed_within ..) rfl) (Within.refl _ _)
  let s1 := (s.shedsOf n).foldl (fun t sh => t.flipShed sh bad) s
  let inc := if w.park = true then none else (s.stall n).bg
  let x : Nat := match inc with | some i => i.tenant | none => 0
  let y : Nat := match (s.stall n).live with | some i => i.tenant | none => 0
  let s2 := (s1.enginesOf n).foldl (fun u m => (u.setEddy m ((u.eddy m).flip bad)).engineSettings n m inc) s1
  let s3 := (s.stall n).ports.foldl (fun u e => u.portSettings n e inc) s2
  have hw2 : Within [.regs, .agg, .eddies] s1 s2 := Within.foldl (fun u x => Within.via (State.engineSettings_within ..) rfl (Within.mono (State.setEddy_within ..) rfl)) (Within.refl _ _)
  have hw3 : Within [.regs, .agg] s2 s3 := Within.foldl (fun u x => Within.mono (State.portSettings_within ..) rfl) (Within.refl _ _)
  have hlow : ∀ a, a < 0x05000000 → s3.word a = s1.word a := by
    intro a ha
    have h2 : s2.word a = s1.word a := State.word_foldl a _ _ (fun u x _ => (State.engineSettings_word _ n x inc ha).trans (State.word_same ((State.setEddy_within ..).2 .regs rfl) a)) s1
    exact (State.word_foldl a _ _ (fun u x _ => State.portSettings_word u n x inc ha) s2).trans h2
  have hst3 : s3.stalls = s.stalls := (hw3.2 .stalls rfl).trans ((hw2.2 .stalls rfl).trans (fw.2 .stalls rfl))
  let s4 := (s3.setStall n { s3.stall n with live := inc, bg := (s.stall n).live }).flipTaps n
  have hw4 : Within [.stalls, .fab] s3 s4 := Within.via (State.flipTaps_within ..) rfl (Within.mono (State.setStall_within ..) rfl)
  have hr4 : s4.regs = s3.regs := hw4.2 .regs rfl
  have hs4 : ∀ m, s4.stall m = if m = n then { s.stall n with live := inc, bg := (s.stall n).live } else s.stall m := by
    intro m
    rw [State.stall_same ((State.flipTaps_within ..).2 .stalls rfl), State.stall_setStall, State.stall_same hst3, State.stall_same hst3]
  have ht : t = ((s4.wr64 (rSTALL_TENANT_LIVE n) x).wr64 (rSTALL_TENANT_BG n) y).fset (rSTALL_SWAP_DUR n) fSTALL_SWAP_DUR_SWAP_NS d := by
    have hfl : s.flipAll n w = (s4.wr64 (rSTALL_TENANT_LIVE n) x).wr64 (rSTALL_TENANT_BG n) y := by
      unfold State.flipAll
      exact rfl
    show (s.flipAll n w).fset _ _ _ = _
    rw [hfl]
  have hwt : Within [.regs, .agg] s4 t := by
    rw [ht]; exact Within.via (State.fset_within ..) rfl (Within.via (State.wr64_within ..) rfl (Within.mono (State.wr64_within ..) rfl))
  have hword : ∀ a, a < 0x05000000 → a ≠ rSTALL_SWAP_DUR n → a ≠ rSTALL_TENANT_BG n → a ≠ rSTALL_TENANT_BG n + 4 → a ≠ rSTALL_TENANT_LIVE n → a ≠ rSTALL_TENANT_LIVE n + 4 → t.word a = s1.word a := by
    intro a h0 h1 h2 h3 h4 h5
    rw [ht, State.word_fset_ne _ _ _ (by decide) h1, State.word_wr64_ne _ _ h2 h3, State.word_wr64_ne _ _ h4 h5, State.word_same hr4, hlow a h0]
  have hshed : ∀ sh, sh < 384 → t.word (rPLANE_STAT sh) = s1.word (rPLANE_STAT sh) := by
    intro sh hsh
    refine hword _ ?_ ?_ ?_ ?_ ?_ ?_ <;> (try unfold rSTALL_SWAP_DUR) <;> (try unfold rSTALL_TENANT_BG) <;> (try unfold rSTALL_TENANT_LIVE) <;> unfold rPLANE_STAT <;>
      rw [addr_shedCfg] <;> (try rw [addr_stall]) <;> omega
  refine ⟨?_, ?_, ?_, ?_, ?_, ?_, ?_⟩
  · rw [State.stall_same (hwt.2 .stalls rfl), hs4, if_pos rfl]
  · intro m hm; rw [State.stall_same (hwt.2 .stalls rfl), hs4, if_neg hm]
  · rw [hword (rSTALL_STAT n) (by unfold rSTALL_STAT; rw [addr_stall]; omega) (by unfold rSTALL_STAT rSTALL_SWAP_DUR; omega) (by unfold rSTALL_STAT rSTALL_TENANT_BG; omega)
      (by unfold rSTALL_STAT rSTALL_TENANT_BG; omega) (by unfold rSTALL_STAT rSTALL_TENANT_LIVE; omega) (by unfold rSTALL_STAT rSTALL_TENANT_LIVE; omega)]
    refine f3 _ ?_
    simp only [List.contains_eq_mem, List.mem_map, decide_eq_false_iff_not, not_exists, not_and]
    intro sh hsh
    have := (State.mem_shedsOf.mp hsh).1
    unfold rPLANE_STAT rSTALL_STAT; rw [addr_shedCfg, addr_stall]; omega
  · intro sh hsh
    exact (f1 sh hsh).kept (planeKept_word (hshed sh (State.mem_shedsOf.mp hsh).1))
  · intro sh hsh hno; exact (hshed sh hsh).trans (f2 sh hno)
  · exact (hwt.2 .tol rfl).trans ((hw4.2 .tol rfl).trans ((hw3.2 .tol rfl).trans ((hw2.2 .tol rfl).trans (fw.2 .tol rfl))))
  · exact Within.via hwt rfl (Within.via hw4 rfl (Within.via hw3 rfl (Within.via hw2 rfl (Within.mono fw rfl))))

theorem State.writeFill_facts (s : State) (i : Image) : (s.writeFill i).regs = s.regs ∧ (s.writeFill i).stalls = s.stalls ∧ (s.writeFill i).tol = s.tol :=
  ⟨(State.writeFill_within ..).2 .regs rfl, (State.writeFill_within ..).2 .stalls rfl, (State.writeFill_within ..).2 .tol rfl⟩

/-- What marking a background plane does. -/
def shedMarked (v : Nat) (sh : Nat) (s t : State) : Prop :=
  t.livePlane sh = s.livePlane sh ∧ t.shedOwner sh = s.shedOwner sh ∧ t.planeState sh (s.livePlane sh) = s.planeState sh (s.livePlane sh) ∧
  t.planeState sh (s.bgPlane sh) = v

theorem shedMarked.kept {v sh : Nat} {s t u : State} (h : shedMarked v sh s t) (g : planeKept sh t u) : shedMarked v sh s u :=
  ⟨g.1.trans h.1, g.2.2.trans h.2.1, (g.2.1 _ (State.livePlane_lt ..)).trans h.2.2.1, (g.2.1 _ (State.bgPlane_lt ..)).trans h.2.2.2⟩

theorem State.setPlaneState_facts (s : State) (sh p v : Nat) (hp : p < 2) (hv : v < 8) : let t := s.setPlaneState sh p v
    t.livePlane sh = s.livePlane sh ∧ t.shedOwner sh = s.shedOwner sh ∧ t.planeState sh p = v ∧ (∀ p', p' < 2 → p' ≠ p → t.planeState sh p' = s.planeState sh p') ∧
    s.wordsBut t [rPLANE_STAT sh] := by
  unfold State.setPlaneState
  have h1 := planeFld_apart (p := p) (f := fPLANE_STAT_OWNED) (by simp)
  have h2 := planeFld_apart (p := p) (f := fPLANE_STAT_STALL) (by simp)
  have h3 := planeFld_apart (p := p) (f := fPLANE_STAT_LIVE_PLANE) (by simp)
  refine ⟨State.fget_fset_apart _ _ _ _ (planeFld_le p) (by decide) (by omega), ?_, ?_, ?_, State.wordsBut_fset _ _ (planeFld_le p) (by simp)⟩
  · rw [State.shedOwner_fget, State.shedOwner_fget, State.fget_fset_apart _ _ _ _ (planeFld_le p) (by decide) (by omega), State.fget_fset_apart _ _ _ _ (planeFld_le p) (by decide) (by omega)]
  · unfold State.planeState
    rw [State.fget_fset_if _ _ _ _ (planeFld_le p), if_pos rfl]
    have : (planeFld p).width = 3 := by unfold planeFld; split <;> rfl
    rw [this]; omega
  · intro p' hp' hne
    unfold State.planeState
    refine State.fget_fset_apart _ _ _ _ (planeFld_le p) (planeFld_le p') ?_
    unfold planeFld
    by_cases h0 : p = 0
    · rw [if_pos h0, if_neg (by omega)]; decide
    · rw [if_neg h0, if_pos (by omega)]; decide

theorem State.setPlaneSaved_facts (s : State) (sh p : Nat) (b : Bool) : planeKept sh s (s.setPlaneSaved sh p b) ∧ s.wordsBut (s.setPlaneSaved sh p b) [rPLANE_STAT sh] := by
  unfold State.setPlaneSaved
  have h1 : ∀ p', (savedFld p).lo + (savedFld p).width ≤ (planeFld p').lo ∨ (planeFld p').lo + (planeFld p').width ≤ (savedFld p).lo := by
    intro p'; unfold savedFld planeFld; split <;> split <;> decide
  refine ⟨⟨?_, ?_, ?_⟩, State.wordsBut_fset _ _ (savedFld_le p) (by simp)⟩
  · exact State.fget_fset_apart _ _ _ _ (savedFld_le p) (by decide) (by unfold savedFld; split <;> decide)
  · intro p' _; exact State.fget_fset_apart _ _ _ _ (savedFld_le p) (planeFld_le p') (by have := h1 p'; omega)
  · rw [State.shedOwner_fget, State.shedOwner_fget, State.fget_fset_apart _ _ _ _ (savedFld_le p) (by decide) (by unfold savedFld; split <;> decide),
      State.fget_fset_apart _ _ _ _ (savedFld_le p) (by decide) (by unfold savedFld; split <;> decide)]

/-- One step of the marking, in one shed. -/
theorem State.markShed_facts (u : State) (sh v : Nat) (es : List ManEntry) (hv : v < 8) :
    let p := u.bgPlane sh
    let t1 := u.setPlaneSaved sh p false
    let t := if (entrySheds es).contains sh then t1.setPlaneState sh p v else ((t1.setPlaneState sh p plBLANK).setPlane sh p Plane.blank).clearDrv sh p
    shedMarked (if (entrySheds es).contains sh then v else plBLANK) sh u t ∧ u.wordsBut t [rPLANE_STAT sh] := by
  intro p t1 t
  have hp : p < 2 := State.bgPlane_lt u sh
  have hq : u.livePlane sh < 2 := State.livePlane_lt u sh
  have hpq : u.livePlane sh ≠ p := by show u.livePlane sh ≠ u.bgPlane sh; unfold State.bgPlane; omega
  obtain ⟨k, kw⟩ := State.setPlaneSaved_facts u sh p false
  have hone : ∀ x, x < 8 → ∀ y : State, y.regs = (t1.setPlaneState sh p x).regs → shedMarked x sh u y ∧ u.wordsBut y [rPLANE_STAT sh] := by
    intro x hx y hy
    obtain ⟨f1, f2, f3, f4, f5⟩ := State.setPlaneState_facts t1 sh p x hp hx
    refine ⟨?_, State.wordsBut.regs (State.wordsBut_trans kw f5) hy⟩
    refine shedMarked.kept (t := t1.setPlaneState sh p x) ⟨f1.trans k.1, f2.trans k.2.2, (f4 _ hq hpq).trans (k.2.1 _ hq), f3⟩ (planeKept_word (State.word_same hy _))
  by_cases h : (entrySheds es).contains sh = true
  · rw [if_pos h]
    have ht : t = t1.setPlaneState sh p v := if_pos h
    rw [ht]; exact hone v hv _ rfl
  · rw [if_neg h]
    have ht : t = ((t1.setPlaneState sh p plBLANK).setPlane sh p Plane.blank).clearDrv sh p := if_neg h
    rw [ht]; exact hone plBLANK (by decide) _ ((State.clearDrv_within ..).2 .regs rfl)

theorem State.markBg_facts (s : State) (n v : Nat) (es : List ManEntry) (hv : v < 8) : let t := s.markBg n v es
    (∀ sh ∈ s.shedsOf n, shedMarked (if (entrySheds es).contains sh then v else plBLANK) sh s t) ∧ s.wordsBut t ((s.shedsOf n).map rPLANE_STAT) ∧ t.stalls = s.stalls ∧ t.tol = s.tol := by
  intro t
  let f := fun (t : State) (sh : Nat) =>
    let p := t.bgPlane sh
    let t1 := t.setPlaneSaved sh p false
    if (entrySheds es).contains sh then t1.setPlaneState sh p v else ((t1.setPlaneState sh p plBLANK).setPlane sh p Plane.blank).clearDrv sh p
  have hfold := foldl_keys (fun _ => True) f (fun sh s t => t.word (rPLANE_STAT sh) = s.word (rPLANE_STAT sh))
    (fun sh s t => shedMarked (if (entrySheds es).contains sh then v else plBLANK) sh s t) (fun _ _ => rfl) (fun _ _ _ _ h g => g.trans h)
    (fun u x y _ hxy => (State.markShed_facts u x v es hv).2 _ (by simpa using fun e => hxy (rPLANE_STAT_inj e).symm))
    (fun u x _ => (State.markShed_facts u x v es hv).1)
    (fun x s u t a d => by
      obtain ⟨k1, k2, k3⟩ := planeKept_word a
      obtain ⟨d1, d2, d3, d4⟩ := d
      rw [State.livePlane_word a, k2 _ (State.livePlane_lt ..)] at d3
      rw [State.bgPlane_word a] at d4
      exact ⟨d1.trans k1, d2.trans k3, d3, d4⟩)
    (fun x s t u d a => d.kept (planeKept_word a)) (s.shedsOf n) (State.shedsOf_nodup ..) (fun _ _ => trivial) s
  have hwords : s.wordsBut ((s.shedsOf n).foldl f s) ((s.shedsOf n).map rPLANE_STAT) := by
    intro a ha
    refine State.word_foldl a f _ ?_ s
    intro u x hx
    refine (State.markShed_facts u x v es hv).2 a ?_
    have : a ∉ (s.shedsOf n).map rPLANE_STAT := by simpa using ha
    simp only [List.contains_eq_mem, List.mem_singleton, decide_eq_false_iff_not]
    intro e
    exact this (e ▸ List.mem_map_of_mem hx)
  have hed : Within [.eddies] ((s.shedsOf n).foldl f s) t := by
    refine Within.foldl (fun u m => ?_) (Within.refl _ _)
    split <;> exact Within.mono (State.setEddy_within ..) rfl
  have hr := hed.2 .regs rfl
  have hw := State.markBg_within s n v es
  refine ⟨fun sh hsh => (hfold.1 sh hsh).kept (planeKept_word (State.word_same hr _)), State.wordsBut.regs hwords hr, hw.2 .stalls rfl, hw.2 .tol rfl⟩

theorem State.loadUndo_facts (s : State) (n : Nat) (r : LoadRun) (h : (s.stall n).load = some r) : let t := s.loadUndo n
    (∀ sh ∈ s.shedsOf n, shedMarked (if (entrySheds r.image.entries).contains sh then plINVALID else plBLANK) sh s t) ∧ s.wordsBut t ((s.shedsOf n).map rPLANE_STAT) ∧
    t.stall n = { s.stall n with load := none, bg := none } ∧ (∀ m, m ≠ n → t.stall m = s.stall m) ∧ t.tol = s.tol := by
  obtain ⟨m1, m2, m3, m4⟩ := State.markBg_facts s n plINVALID r.image.entries (by decide)
  have hx : s.loadUndo n = (s.markBg n plINVALID r.image.entries).setStall n { s.stall n with load := none, bg := none } := by
    unfold State.loadUndo; rw [h]
  rw [hx]
  refine ⟨fun sh hsh => (m1 sh hsh).kept (planeKept_word rfl), State.wordsBut.regs m2 rfl, ?_, ?_, m4⟩
  · rw [State.stall_setStall, if_pos rfl]
  · intro m hm; rw [State.stall_setStall, if_neg hm, State.stall_same m3]

theorem State.placeRegion_word (s : State) (port kind id size slot : Nat) (crypt tag sect : Bool) (u : State) (i : Nat)
    (h : s.placeRegion port kind id size slot crypt tag sect = some (u, i)) {a : Nat} (ha : a < 0x0a000000) : u.word a = s.word a := by
  have hb : ∀ k, 0x0a000000 ≤ rRGN_CFG port k ∧ 0x0a000000 ≤ rRGN_MAP port k ∧ 0x0a000000 ≤ rRGN_KEY port k ∧ 0x0a000000 ≤ rRGN_SALT port k ∧ 0x0a000000 ≤ rRGN_WM port k ∧
      0x0a000000 ≤ rHBMP_STAT port ∧ 0x0a000000 ≤ rCXL_SIZE (port - 64) k ∧ 0x0a000000 ≤ rCXL_BASE (port - 64) k := by
    intro k
    unfold rRGN_CFG rRGN_MAP rRGN_KEY rRGN_SALT rRGN_WM rHBMP_STAT rCXL_SIZE rCXL_BASE
    rw [hbmp_addr, addr_memCxl]
    refine ⟨?_, ?_, ?_, ?_, ?_, ?_, ?_, ?_⟩ <;> omega
  have hs : ∀ k, 0x0a000000 ≤ rSLUICE_SLOT 0 k := by intro k; unfold rSLUICE_SLOT; rw [sluice_addr]; omega
  have hlt : ∀ {b : Nat}, 0x0a000000 ≤ b → a ≠ b := fun hb e => by omega
  have hcreate : ∀ (v : State) (j : Nat), (v.rgnCreate port j).word a = v.word a := by
    intro v j
    obtain ⟨c1, c2, c3, c4, c5, c6, c7, c8⟩ := hb j
    have p := (State.setPortWork_facts (((v.setRgnState port j 1).wr32 (rRGN_WM port j) 0).rgnRef (v.keyCur port j) true) port
      { v.portWork port with zeroQ := (v.portWork port).zeroQ ++ [j] }).1
    have f := (State.rgnRef_facts ((v.setRgnState port j 1).wr32 (rRGN_WM port j) 0) (v.keyCur port j) true).1
    have h1 := p a (by simpa using hlt c6)
    have h2 := f a (by simpa using hlt (hs _))
    have h3 : ((v.setRgnState port j 1).wr32 (rRGN_WM port j) 0).word a = v.word a := by
      unfold State.setRgnState
      rw [State.word_wr32_ne _ _ (hlt c5), State.word_fset_ne _ _ _ (by decide) (hlt c1)]
    exact h1.trans (h2.trans h3)
  unfold State.placeRegion at h
  split at h
  · rename_i j base _ _
    obtain ⟨c1, c2, c3, c4, c5, c6, c7, c8⟩ := hb j
    dsimp only at h
    have h2 : ∃ s2, s2 = (if port < 64 then (s.wr32 (rRGN_CFG port j) (kind * 2 ^ 27 + id * 2 ^ 22 + b2n crypt * 2 ^ 21 + b2n tag * 2 ^ 20 + b2n sect * 2 ^ 19)).wr32 (rRGN_MAP port j) (size * 2 ^ 16 + base)
        else ((s.wr32 (rRGN_CFG port j) (kind * 2 ^ 27 + id * 2 ^ 22 + b2n crypt * 2 ^ 21 + b2n tag * 2 ^ 20 + b2n sect * 2 ^ 19)).wr32 (rCXL_SIZE (port - 64) j) size).wr32 (rCXL_BASE (port - 64) j) base) ∧
        s2.word a = s.word a := by
      refine ⟨_, rfl, ?_⟩
      split
      · rw [State.word_wr32_ne _ _ (hlt c2), State.word_wr32_ne _ _ (hlt c1)]
      · rw [State.word_wr32_ne _ _ (hlt c8), State.word_wr32_ne _ _ (hlt c7), State.word_wr32_ne _ _ (hlt c1)]
    obtain ⟨s2, e2, h2⟩ := h2
    rw [← e2] at h
    split at h
    · cases h
      rw [hcreate, State.word_same (State.useFree_regs _), State.word_wr32_ne _ _ (hlt c4), State.word_wr32_ne _ _ (hlt c3), h2]
    · exact absurd h (by simp)
  · exact absurd h (by simp)

theorem State.placeRegions_word (n slot : Nat) (l : List ManEntry) {a : Nat} (ha : a < 0x0a000000) : ∀ (s u : State) (rs : List (Nat × Nat)),
    s.placeRegions n slot l = some (u, rs) → u.word a = s.word a := by
  induction l with
  | nil => intro s u rs h; simp only [State.placeRegions, Option.some.injEq, Prod.mk.injEq] at h; rw [← h.1]
  | cons x l ih =>
    intro s u rs h
    cases x with
    | region p z sect tag =>
      simp only [State.placeRegions] at h
      split at h
      · exact absurd h (by simp)
      · rename_i t i ht
        rw [Option.map_eq_some_iff] at h
        obtain ⟨⟨y, q⟩, h1, h2⟩ := h
        cases h2
        rw [ih t _ _ h1, State.placeRegion_word _ _ _ _ _ _ _ _ _ _ _ ht ha]
    | _ => simp only [State.placeRegions] at h; exact ih s u rs h

theorem State.writeImage_facts (s : State) (n : Nat) (r : LoadRun) : let t := s.writeImage n r
    (∀ sh ∈ s.shedsOf n, shedMarked (if (entrySheds r.image.entries).contains sh then plLOADED else plBLANK) sh s t) ∧ s.wordsBut t ((s.shedsOf n).map rPLANE_STAT) := by
  intro t
  have h : ∃ u : State, u.regs = s.regs ∧ t = u.markBg n plLOADED r.image.entries := by
    show ∃ u : State, u.regs = s.regs ∧ s.writeImage n r = u.markBg n plLOADED r.image.entries
    unfold State.writeImage
    dsimp only
    refine ⟨_, ?_, rfl⟩
    have k1 : Within [.fab] s ((s.shedsOf n).foldl (fun t sh =>
        { (t.setPlane sh (t.bgPlane sh) Plane.blank).clearDrv sh (t.bgPlane sh) with fab := { ((t.setPlane sh (t.bgPlane sh) Plane.blank).clearDrv sh (t.bgPlane sh)).fab with
          upsets := smClear (fun k => decide (k / 64 / 2304 = 2 * sh + t.bgPlane sh)) ((t.setPlane sh (t.bgPlane sh) Plane.blank).clearDrv sh (t.bgPlane sh)).fab.upsets } }) s) :=
      Within.foldl (fun u x => Within.fab (Within.via (State.clearDrv_within ..) rfl (Within.mono (State.setPlane_within ..) rfl)) rfl) (Within.refl _ _)
    have k3 : Within [.fab, .eddies] s (r.sections.foldl (fun t x =>
        match x with
        | .frames sh c _ _ => t.writeFrames n sh c
        | .eddyProg m bs _ =>
          t.setEddy m ((t.eddy m).setBgProg ((List.range bs.length).foldl (fun q i => smSet 0 q i (listGet 0 bs i)) []))
        | _ => t) ((((s.shedsOf n).foldl (fun t sh =>
        { (t.setPlane sh (t.bgPlane sh) Plane.blank).clearDrv sh (t.bgPlane sh) with fab := { ((t.setPlane sh (t.bgPlane sh) Plane.blank).clearDrv sh (t.bgPlane sh)).fab with
          upsets := smClear (fun k => decide (k / 64 / 2304 = 2 * sh + t.bgPlane sh)) ((t.setPlane sh (t.bgPlane sh) Plane.blank).clearDrv sh (t.bgPlane sh)).fab.upsets } }) s).enginesOf n).foldl
          (fun t m => t.setEddy m ((t.eddy m).setBgProg [])) ((s.shedsOf n).foldl (fun t sh =>
        { (t.setPlane sh (t.bgPlane sh) Plane.blank).clearDrv sh (t.bgPlane sh) with fab := { ((t.setPlane sh (t.bgPlane sh) Plane.blank).clearDrv sh (t.bgPlane sh)).fab with
          upsets := smClear (fun k => decide (k / 64 / 2304 = 2 * sh + t.bgPlane sh)) ((t.setPlane sh (t.bgPlane sh) Plane.blank).clearDrv sh (t.bgPlane sh)).fab.upsets } }) s))) := by
      refine Within.foldl (fun u x => ?_) (Within.foldl (fun u m => Within.mono (State.setEddy_within ..) rfl) (Within.mono k1 rfl))
      split
      · exact Within.mono (State.writeFrames_within ..) rfl
      · exact Within.mono (State.setEddy_within ..) rfl
      · exact Within.refl _ _
    exact k3.2 .regs rfl
  obtain ⟨u, hu, ht⟩ := h
  obtain ⟨m1, m2, -, -⟩ := State.markBg_facts u n plLOADED r.image.entries (by decide)
  have hk : ∀ sh, planeKept sh s u := fun sh => planeKept_word (State.word_same hu _)
  have hsh : u.shedsOf n = s.shedsOf n := State.shedsOf_kept (fun sh _ => (hk sh).2.2) n
  rw [hsh] at m1 m2
  rw [ht]
  refine ⟨fun sh hm => ?_, State.wordsBut_trans (State.wordsBut_of_regs _ hu) m2⟩
  obtain ⟨d1, d2, d3, d4⟩ := m1 sh hm
  obtain ⟨k1, k2, k3⟩ := hk sh
  rw [k1, k2 _ (State.livePlane_lt ..)] at d3
  rw [State.bgPlane_word (State.word_same hu _)] at d4
  exact ⟨d1.trans k1, d2.trans k3, d3, d4⟩

theorem State.word_endJobs (s : State) (p : Job → Bool) (c d a : Nat) : (s.endJobs p c d).word a = s.word a := rfl

theorem State.stall_endJobs (s : State) (p : Job → Bool) (c d m : Nat) : (s.endJobs p c d).stall m = s.stall m := rfl

theorem State.bit_endJobs (s : State) (p : Job → Bool) (c d a k : Nat) : (s.endJobs p c d).bit a k = s.bit a k := rfl

theorem State.fget_endJobs (s : State) (p : Job → Bool) (c d a : Nat) (f : Fld) : (s.endJobs p c d).fget a f = s.fget a f := rfl

theorem State.rd64_endJobs (s : State) (p : Job → Bool) (c d a : Nat) : (s.endJobs p c d).rd64 a = s.rd64 a := rfl

end Sys2Proof.Machine
end

