-- ==== Sys2Proof/Laws/TolmorCommands.lean ====
section
/-! SUPPORT. Tolmor's mailboxes: what taking, refusing, deferring and completing a command does. -/

namespace Sys2Proof.Machine

theorem smClear_none {α : Type} (p : Nat → Bool) (h : ∀ k, p k = false) (m : SMap α) : smClear p m = m := by
  induction m with
  | nil => rfl
  | cons x m ih => obtain ⟨j, w⟩ := x; unfold smClear; rw [h j, if_neg (by decide), ih]

theorem State.ownerChange_same (s t : State) (h : ∀ k i, t.pageOwner k i = s.pageOwner k i) : s.ownerChange t = t := by
  unfold State.ownerChange
  dsimp only
  rw [smClear_none _ ?_ t.regs, smClear_none _ ?_ t.views]
  · intro x
    split
    · rename_i k i _; rw [decide_eq_false_iff_not, h k i]; simp
    · rfl
  · intro a
    split
    · rename_i k i _; rw [h k i]; simp
    · exact Bool.and_false _

theorem State.claimant_same {s t : State} (h : t.stalls = s.stalls) (p : Stall → Bool) (k : Nat) : t.claimant p k = s.claimant p k := by
  induction k with
  | zero => rfl
  | succ k ih => unfold State.claimant; rw [ih, State.stall_same h]

theorem State.pageOwner_same {s t : State} (hs : t.stalls = s.stalls) (he : t.eddies = s.eddies) (hp : ∀ i, t.word (rPLANE_STAT i) = s.word (rPLANE_STAT i))
    (hl : ∀ i, t.word (rLANE_ASSIGN i) = s.word (rLANE_ASSIGN i)) (ht : t.word (rTOL_INFO 0) = s.word (rTOL_INFO 0)) (k : PageKind) (i : Nat) : t.pageOwner k i = s.pageOwner k i := by
  have h1 : ∀ i, t.shedOwner i = s.shedOwner i := fun i => (planeKept_word (hp i)).2.2
  have h2 : t.adminView = s.adminView := State.fget_of_word _ ht (by decide)
  have h3 : ∀ i, t.laneProto i = s.laneProto i := fun i => State.fget_of_word _ (hl i) (by decide)
  have h4 : ∀ i, t.laneOwner i = s.laneOwner i := fun i => State.claimant_same hs _ _
  have h5 : ∀ i, t.portOwner i = s.portOwner i := fun i => State.claimant_same hs _ _
  have h6 : ∀ i, t.eddy i = s.eddy i := State.eddy_eddies he
  cases k <;> unfold State.pageOwner <;> dsimp only <;> simp only [h1, h2, h3, h4, h5, h6]

theorem addr_mbox (n : Nat) : PageKind.addr .mbox n = 0x8000 + n / 6 * 0 + n % 6 * 0x1000 := rfl

theorem addr_tolmor (n : Nat) : PageKind.addr .tolmorCtl n = 0x1000 + n / 1 * 0 + n % 1 * 0 := rfl

theorem addr_lane (n : Nat) : PageKind.addr .lane n = 0x0b800000 + n / 40 * 0x40000 + n % 40 * 0x1000 := rfl

theorem addr_clkCtl (n : Nat) : PageKind.addr .clkCtl n = 0xF000 + n / 1 * 0 + n % 1 * 0 := rfl

theorem addr_dbgSess (n : Nat) : PageKind.addr .dbgSess n = 0x0c000000 + n / 6 * 0 + n % 6 * 0x1000 := rfl

/-- A change of mailbox, Tolmor log and power registers alone changes no page's owner. -/
theorem State.ownerChange_low {s t : State} (hs : t.stalls = s.stalls) (he : t.eddies = s.eddies)
    (hw : ∀ a, (0x10000 ≤ a ∧ a / 4096 ≠ 0xa000) ∨ a = rTOL_INFO 0 → t.word a = s.word a) : s.ownerChange t = t := by
  refine State.ownerChange_same s t (State.pageOwner_same hs he ?_ ?_ (hw _ (Or.inr rfl)))
  · intro i; exact hw _ (Or.inl (by unfold rPLANE_STAT; rw [addr_shedCfg]; omega))
  · intro i; exact hw _ (Or.inl (by unfold rLANE_ASSIGN; rw [addr_lane]; omega))

theorem State.setMbox_mbox (s : State) (b : Nat) (x : MBox) (m : Nat) : (s.setMbox b x).mbox m = if m = b then x else s.mbox m := by
  unfold State.setMbox State.mbox State.setTol; exact smGet_smSet ..

theorem State.mbox_tol {s t : State} (h : t.tol.boxes = s.tol.boxes) (m : Nat) : t.mbox m = s.mbox m := by unfold State.mbox; rw [h]

/-- R271: what posting a completion does. -/
theorem State.postCpl_facts (s : State) (b : Nat) (c : Cpl) : let t := s.postCpl b c
    (t.mbox b).cpls = (s.mbox b).cpls ++ [c] ∧ (∀ m, m ≠ b → t.mbox m = s.mbox m) ∧ t.tol = { s.tol with boxes := t.tol.boxes } ∧
    ((s.mbox b).cpls.length < 16 → t.bit (rIRQ_RAW (PageKind.mbox.addr b)) 0 = true) ∧ s.wordsBut t [rIRQ_RAW (PageKind.mbox.addr b)] ∧
    (∀ k, k < 32 → s.bit (rIRQ_RAW (PageKind.mbox.addr b)) k = true → t.bit (rIRQ_RAW (PageKind.mbox.addr b)) k = true) ∧
    Within [.regs, .agg, .tol] s t := by
  have hw := State.postCpl_within s b c
  have h1 : ∀ m, (s.setMbox b { s.mbox b with cpls := (s.mbox b).cpls ++ [c] }).mbox m = if m = b then { s.mbox b with cpls := (s.mbox b).cpls ++ [c] } else s.mbox m :=
    fun m => State.setMbox_mbox ..
  by_cases h : (s.mbox b).cpls.length < 16
  · have ht : s.postCpl b c = (s.setMbox b { s.mbox b with cpls := (s.mbox b).cpls ++ [c] }).irq (PageKind.mbox.addr b) 0 := by
      unfold State.postCpl; dsimp only; rw [if_pos h]
    have hi := State.irq_within (s.setMbox b { s.mbox b with cpls := (s.mbox b).cpls ++ [c] }) (PageKind.mbox.addr b) 0
    have htol := hi.2 .tol rfl
    intro t
    refine ⟨?_, ?_, ?_, ?_, ?_, ?_, Within.mono hw rfl⟩
    · show ((s.postCpl b c).mbox b).cpls = _
      rw [ht, State.mbox_tol (congrArg Tol.boxes htol), h1, if_pos rfl]
    · intro m hm
      show (s.postCpl b c).mbox m = _
      rw [ht, State.mbox_tol (congrArg Tol.boxes htol), h1, if_neg hm]
    · show (s.postCpl b c).tol = { s.tol with boxes := (s.postCpl b c).tol.boxes }
      rw [ht, htol]; rfl
    · intro _
      show (s.postCpl b c).bit (PageKind.mbox.addr b + 0x010) 0 = true
      rw [ht, State.bit_irq _ _ _ _ _ (by decide) (by decide)]; simp
    · show s.wordsBut (s.postCpl b c) _
      rw [ht]; exact State.wordsBut.irq (State.wordsBut_of_regs _ rfl) (by decide) (by simp [rIRQ_RAW])
    · intro k hk hs
      show (s.postCpl b c).bit (PageKind.mbox.addr b + 0x010) k = true
      rw [ht, State.bit_irq _ _ _ _ _ (by decide) hk]
      split
      · rfl
      · exact hs
  · have ht : s.postCpl b c = s.setMbox b { s.mbox b with cpls := (s.mbox b).cpls ++ [c] } := by
      unfold State.postCpl; dsimp only; rw [if_neg h]
    intro t
    refine ⟨?_, ?_, ?_, fun hh => absurd hh h, ?_, ?_, Within.mono hw rfl⟩
    · show ((s.postCpl b c).mbox b).cpls = _
      rw [ht, h1, if_pos rfl]
    · intro m hm
      show (s.postCpl b c).mbox m = _
      rw [ht, h1, if_neg hm]
    · show (s.postCpl b c).tol = { s.tol with boxes := (s.postCpl b c).tol.boxes }
      rw [ht]; rfl
    · show s.wordsBut (s.postCpl b c) _
      rw [ht]; exact State.wordsBut_of_regs _ rfl
    · intro k hk hs
      show (s.postCpl b c).bit _ k = true
      rw [ht]; exact hs

theorem State.sendReturn_facts (s : State) (f b n : Nat) : (s.sendReturn f b n).tol = s.tol ∧ (s.sendReturn f b n).regs = s.regs ∧ Within [.out] s (s.sendReturn f b n) := by
  have h := State.sendReturn_within s f b n
  exact ⟨h.2 .tol rfl, h.2 .regs rfl, Within.mono h rfl⟩

theorem State.fanReply_facts (s : State) (f : Nat × Option (Nat × Nat)) (c : Cpl) : (s.fanReply f c).tol = s.tol ∧ (s.fanReply f c).regs = s.regs ∧ Within [.out] s (s.fanReply f c) := by
  have h := State.fanReply_within s f c
  exact ⟨h.2 .tol rfl, h.2 .regs rfl, Within.mono h rfl⟩

/-- A completion posted, and sent up the tree where a FANOUT carried its command. -/
def postUp (s : State) (b : Nat) (c : Cpl) (fan : Option (Nat × Option (Nat × Nat))) : State :=
  match fan with
  | some f => (s.postCpl b c).fanReply f c
  | none => s.postCpl b c

theorem State.postUp_facts (s : State) (b : Nat) (c : Cpl) (fan : Option (Nat × Option (Nat × Nat))) :
    let t := postUp s b c fan
    (t.mbox b).cpls = (s.mbox b).cpls ++ [c] ∧ (∀ m, m ≠ b → t.mbox m = s.mbox m) ∧ t.tol = { s.tol with boxes := t.tol.boxes } ∧
    ((s.mbox b).cpls.length < 16 → t.bit (rIRQ_RAW (PageKind.mbox.addr b)) 0 = true) ∧ s.wordsBut t [rIRQ_RAW (PageKind.mbox.addr b)] ∧
    (∀ k, k < 32 → s.bit (rIRQ_RAW (PageKind.mbox.addr b)) k = true → t.bit (rIRQ_RAW (PageKind.mbox.addr b)) k = true) ∧
    Within [.regs, .agg, .tol, .out] s t := by
  obtain ⟨p1, p2, p3, p4, p5, p6, p7⟩ := State.postCpl_facts s b c
  cases fan with
  | none => exact ⟨p1, p2, p3, p4, p5, p6, Within.mono p7 rfl⟩
  | some f =>
    obtain ⟨f1, f2, f3⟩ := State.fanReply_facts (s.postCpl b c) f c
    unfold postUp
    dsimp only
    refine ⟨?_, ?_, ?_, ?_, State.wordsBut.regs p5 f2, ?_, Within.via f3 rfl (Within.mono p7 rfl)⟩
    · rw [State.mbox_tol (congrArg Tol.boxes f1)]; exact p1
    · intro m hm; rw [State.mbox_tol (congrArg Tol.boxes f1)]; exact p2 m hm
    · rw [f1]; exact p3
    · intro h; rw [State.bit_same f2]; exact p4 h
    · intro k hk h; rw [State.bit_same f2]; exact p6 k hk h

/-- R270: the state in which the command of mailbox b has been taken. -/
def takenState (s : State) (b : Nat) : State :=
  let s1 := (s.fset (rMB_STAT b) fMB_STAT_BUSY 0).irq (PageKind.mbox.addr b) 1
  (s1.setTol { s1.tol with served := b }).setTree (if b = 4 then { s1.tree with mgrCmd := none } else s1.tree)

/-- The command in mailbox b's buffer. -/
def cmdIn (s : State) (b : Nat) : CmdIn :=
  ⟨b, s.cmdWord b 0 / 2 ^ 16, s.cmdWord b 0 % 2 ^ 8, (s.cmdWord b 0).testBit 8, (List.range 62).map (fun k => s.cmdWord b (k + 2))⟩

theorem State.nextBox_lt {s : State} {b : Nat} (h : s.nextBox = some b) : b < 6 := by
  unfold State.nextBox at h
  have := List.mem_of_find?_eq_some h
  obtain ⟨k, _, rfl⟩ := List.mem_map.mp this
  omega

theorem takenState_facts (s : State) (b : Nat) :
    (∀ m, (takenState s b).mbox m = s.mbox m) ∧ (takenState s b).tol = { s.tol with served := b } ∧ (takenState s b).flag (rMB_STAT b) fMB_STAT_BUSY = false ∧
    (takenState s b).bit (rIRQ_RAW (PageKind.mbox.addr b)) 1 = true ∧ s.wordsBut (takenState s b) [rMB_STAT b, rIRQ_RAW (PageKind.mbox.addr b)] ∧
    Within [.regs, .agg, .tree, .tol] s (takenState s b) := by
  have h1 : Within [.regs, .agg] s ((s.fset (rMB_STAT b) fMB_STAT_BUSY 0).irq (PageKind.mbox.addr b) 1) := Within.via (State.irq_within ..) rfl (Within.mono (State.fset_within ..) rfl)
  have htol := h1.2 .tol rfl
  have hne : rMB_STAT b ≠ PageKind.mbox.addr b + 0x010 := by unfold rMB_STAT; omega
  have hr : (takenState s b).regs = ((s.fset (rMB_STAT b) fMB_STAT_BUSY 0).irq (PageKind.mbox.addr b) 1).regs := rfl
  have ht : (takenState s b).tol = { ((s.fset (rMB_STAT b) fMB_STAT_BUSY 0).irq (PageKind.mbox.addr b) 1).tol with served := b } := rfl
  refine ⟨?_, ?_, ?_, ?_, ?_, ?_⟩
  · intro m; exact State.mbox_tol (by rw [ht, htol]) m
  · rw [ht, htol]
  · rw [State.flag_same hr]; unfold State.flag
    rw [State.fget_wordsBut (State.wordsBut_irq (l := [PageKind.mbox.addr b + 0x010]) _ (by decide) (by simp)) _ (by simpa using hne) (by decide),
      State.fget_fset_if _ _ _ _ (by decide), if_pos rfl]; rfl
  · rw [State.bit_same hr]
    show State.bit _ (PageKind.mbox.addr b + 0x010) 1 = true
    rw [State.bit_irq _ _ _ _ _ (by decide) (by decide)]; simp
  · refine State.wordsBut.regs ?_ hr
    exact State.wordsBut.irq (State.wordsBut_fset _ _ (by decide) (by simp)) (by decide) (by simp [rIRQ_RAW])
  · unfold takenState
    exact Within.via (State.setTree_within ..) rfl (Within.via (State.setTol_within ..) rfl (Within.mono h1 rfl))

theorem State.commandTake_now (s : State) (env : CmdEnv) (b code data : Nat) (v : State) (hd : s.dead = false) (hb : s.nextBox = some b)
    (h : (takenState s b).judgeCmd (cmdIn s b) (s.cmdWord b 0) (s.cmdWord b 1) env = .now code data v) :
    ∃ fan, s.commandTake env = v.completeNow (cmdIn s b) fan code data := by
  refine ⟨if b = 4 then s.tree.mgrCmd else none, ?_⟩
  unfold takenState cmdIn at h
  dsimp only at h
  unfold State.commandTake
  rw [if_neg (by rw [hd]; decide), hb]
  dsimp only
  rw [h]
  rfl

theorem State.commandTake_later (s : State) (env : CmdEnv) (b : Nat) (k : JobKind) (r : Option (Nat × Nat)) (v : State) (hd : s.dead = false) (hb : s.nextBox = some b)
    (h : (takenState s b).judgeCmd (cmdIn s b) (s.cmdWord b 0) (s.cmdWord b 1) env = .later k r v) :
    ∃ fan, s.commandTake env = v.defer (cmdIn s b) fan s.tide.now k r := by
  refine ⟨if b = 4 then s.tree.mgrCmd else none, ?_⟩
  unfold takenState cmdIn at h
  dsimp only at h
  unfold State.commandTake
  rw [if_neg (by rw [hd]; decide), hb]
  dsimp only
  rw [h]
  rfl

theorem State.authorised_same {s t : State} (c : CmdIn) (h1 : t.word (rTOL_INFO 0) = s.word (rTOL_INFO 0)) (h2 : t.word (rDBG_GRANT 5) = s.word (rDBG_GRANT 5))
    (h3 : t.stalls = s.stalls) (h4 : t.tol.keyBox = s.tol.keyBox) : t.authorised c = s.authorised c := by
  have e1 : t.fget (rTOL_INFO 0) fTOL_INFO_ADMIN = s.fget (rTOL_INFO 0) fTOL_INFO_ADMIN := State.fget_of_word _ h1 (by decide)
  have e2 : t.grantLevel 5 = s.grantLevel 5 := by unfold State.grantLevel State.rd32; rw [h2]
  have e3 : ∀ b, t.classA b = s.classA b := by intro b; unfold State.classA; rw [e1, e2]
  have e4 : ∀ b, t.classH b = s.classH b := by intro b; unfold State.classH; rw [e3]
  have e5 : ∀ b n, t.classC b n = s.classC b n := by intro b n; unfold State.classC; rw [e1, State.stall_same h3]
  have e6 : ∀ b n, t.classK b n = s.classK b n := by intro b n; unfold State.classK; rw [e1, h4]
  unfold State.authorised
  simp only [e3, e4, e5, e6]

/-- How many of a list's numbers lie within n steps up from t, modulo 2^16. -/
def near (l : List Nat) (t n : Nat) : Nat := l.countP (fun x => decide ((x + 65536 - t) % 65536 < n))

theorem near_step (l : List Nat) (t n : Nat) (ht : t < 65536) (hn : n < 65536) : near l ((t + 1) % 65536) n + l.countP (fun x => decide (x % 65536 = t)) ≤ near l t (n + 1) := by
  unfold near
  induction l with
  | nil => simp
  | cons x l ih =>
    simp only [List.countP_cons]
    by_cases hx : x % 65536 = t
    · have h1 : ¬ (x + 65536 - (t + 1) % 65536) % 65536 < n := by omega
      have h2 : (x + 65536 - t) % 65536 < n + 1 := by omega
      simp only [hx, h1, h2, decide_true, decide_false, if_true]
      simp only [Bool.false_eq_true, if_false]
      omega
    · by_cases h1 : (x + 65536 - (t + 1) % 65536) % 65536 < n
      · have h2 : (x + 65536 - t) % 65536 < n + 1 := by omega
        simp only [hx, h1, h2, decide_true, decide_false, if_true]
        simp only [Bool.false_eq_true, if_false]
        omega
      · simp only [hx, h1, decide_false, Bool.false_eq_true, if_false]
        omega

theorem freeTicket_succ (used : List Nat) (n t : Nat) : freeTicket used (n + 1) t = if t = 0 ∨ used.contains t then freeTicket used n ((t + 1) % 65536) else t := rfl

/-- R269: a ticket is found where fewer tickets are outstanding than tries are made. -/
theorem freeTicket_facts (used : List Nat) : ∀ (fuel t : Nat), t < 65536 → fuel < 65536 → near (0 :: used) t fuel < fuel →
    let k := freeTicket used fuel t
    0 < k ∧ k < 65536 ∧ k ∉ used := by
  intro fuel
  induction fuel with
  | zero => intro t _ _ h; omega
  | succ n ih =>
    intro t ht hf hlt k
    by_cases hc : t = 0 ∨ used.contains t = true
    · have hk : k = freeTicket used n ((t + 1) % 65536) := by exact (freeTicket_succ ..).trans (if_pos hc)
      have hmem : t ∈ 0 :: used := by
        rcases hc with h | h
        · rw [h]; exact List.mem_cons_self ..
        · exact List.mem_cons_of_mem _ (List.contains_iff_mem.mp h)
      have hpos : 0 < (0 :: used).countP (fun x => decide (x % 65536 = t)) := by
        rw [List.countP_pos_iff]; exact ⟨t, hmem, by rw [decide_eq_true_eq]; omega⟩
      have hs := near_step (0 :: used) t n ht (by omega)
      have := ih ((t + 1) % 65536) (Nat.mod_lt _ (by decide)) (by omega) (by omega)
      rw [hk]; exact this
    · have hk : k = t := by exact (freeTicket_succ ..).trans (if_neg hc)
      rw [hk]
      refine ⟨by omega, ht, fun h => hc (Or.inr (List.contains_iff_mem.mpr h))⟩

theorem near_le (l : List Nat) (t n : Nat) : near l t n ≤ l.length := List.countP_le_length

/-- R269: the ticket a deferred command gets. -/
theorem State.nextTicket_facts (s : State) (b : Nat) (h : (s.ticketsOut b).length < 32) : 0 < s.nextTicket b ∧ s.nextTicket b < 65536 ∧ s.nextTicket b ∉ s.ticketsOut b := by
  refine freeTicket_facts (s.ticketsOut b) 40 _ (Nat.mod_lt _ (by decide)) (by decide) ?_
  have := near_le (0 :: s.ticketsOut b) (((s.mbox b).lastTicket + 1) % 65536) 40
  rw [List.length_cons] at this
  omega

theorem body_ring (s : State) (req : Req) (n p : Nat) (r : RegDef) (u : Nat) : s.bodyWrite req .mbox n p r 0x040 1 u = s.ringWake req n := by
  unfold State.bodyWrite; dsimp only; rw [if_pos rfl, if_pos (by decide)]

theorem body_pop (s : State) (req : Req) (n p : Nat) (r : RegDef) (u : Nat) : s.bodyWrite req .mbox n p r 0x048 1 u = s.cplPop n := by
  unfold State.bodyWrite; dsimp only; rw [if_neg (by decide), if_pos rfl, if_pos (by decide)]

theorem State.wake_words (s : State) : s.wordsBut s.wake [rPWR_STAT 0] := by
  unfold State.wake
  split
  · unfold State.exitBegin; exact State.wordsBut.fset (State.wordsBut_fset _ _ (by decide) (by simp)) (by decide) (by simp)
  · exact State.wordsBut_refl _ _

theorem State.loadSlot_facts (s : State) (k : Nat) (k1 k2 kt : BitVec 256) :
    (s.loadSlot k k1 k2 kt false).slotState k = 1 ∧ (s.loadSlot k k1 k2 kt false).slot k = ⟨k1, k2, kt, s.mem.nextKid⟩ ∧
    (∀ j, j ≠ k → (s.loadSlot k k1 k2 kt false).slot j = s.slot j) ∧
    s.wordsBut (s.loadSlot k k1 k2 kt false) [rSLUICE_WEAR 0 k, rSLUICE_WEAR 0 k + 4, rSLUICE_SLOT 0 k] ∧ Within [.regs, .agg, .mem] s (s.loadSlot k k1 k2 kt false) := by
  have h0 := State.loadSlot_within s k k1 k2 kt false
  have hm : (s.loadSlot k k1 k2 kt false).mem.slots = smSet KeySlot.empty s.mem.slots k ⟨k1, k2, kt, s.mem.nextKid⟩ := by
    unfold State.loadSlot; dsimp only; rw [State.wr32_mem, State.wr64_mem]
  refine ⟨?_, ?_, ?_, ?_, Within.mono h0 rfl⟩
  · unfold State.slotState State.loadSlot; dsimp only
    rw [State.fget_word _ _ (by decide), State.rd32_wr32]; decide
  · unfold State.slot; rw [hm, smGet_smSet, if_pos rfl]
  · intro j hj; unfold State.slot; rw [hm, smGet_smSet, if_neg hj]
  · unfold State.loadSlot
    dsimp only
    exact State.wordsBut.wr32 (State.wordsBut.wr64 (State.wordsBut_of_regs _ rfl) (by simp) (by simp)) (by simp)

theorem State.ticketsOut_boxes {s t : State} (b : Nat) (h : t.tol.jobs = s.tol.jobs) : t.ticketsOut b = s.ticketsOut b := by unfold State.ticketsOut; rw [h]

/-- R269: what deferring a command does. -/
theorem State.defer_facts (s : State) (c : CmdIn) (fan : Option (Nat × Option (Nat × Nat))) (tide : Nat) (k : JobKind) (r : Option (Nat × Nat)) : let t := s.defer c fan tide k r
    (t.mbox c.box).cpls = (s.mbox c.box).cpls ++ [mkCpl c.seq c.op ccPENDING false (s.nextTicket c.box) tide] ∧ (∀ m, m ≠ c.box → t.mbox m = s.mbox m) ∧
    t.tol = { s.tol with boxes := t.tol.boxes, jobs := s.tol.jobs ++ [⟨c.box, c.seq, c.op, s.nextTicket c.box, false, k, r, fan⟩] } ∧
    ((s.mbox c.box).cpls.length < 16 → t.bit (rIRQ_RAW (PageKind.mbox.addr c.box)) 0 = true) ∧ s.wordsBut t [rIRQ_RAW (PageKind.mbox.addr c.box)] ∧
    (∀ i, i < 32 → s.bit (rIRQ_RAW (PageKind.mbox.addr c.box)) i = true → t.bit (rIRQ_RAW (PageKind.mbox.addr c.box)) i = true) ∧
    Within [.regs, .agg, .tol] s t := by
  have hx : ∃ u : State, s.defer c fan tide k r = u.postCpl c.box (mkCpl c.seq c.op ccPENDING false (s.nextTicket c.box) tide) ∧
      u.tol = { (s.setMbox c.box { s.mbox c.box with lastTicket := s.nextTicket c.box }).tol with jobs := s.tol.jobs ++ [⟨c.box, c.seq, c.op, s.nextTicket c.box, false, k, r, fan⟩] } ∧
      u.regs = s.regs ∧ Within [.tol] s u :=
    ⟨(s.setMbox c.box { s.mbox c.box with lastTicket := s.nextTicket c.box }).setTol { (s.setMbox c.box { s.mbox c.box with lastTicket := s.nextTicket c.box }).tol with jobs := s.tol.jobs ++ [⟨c.box, c.seq, c.op, s.nextTicket c.box, false, k, r, fan⟩] },
      rfl, rfl, rfl, Within.via (State.setTol_within ..) rfl (Within.mono (State.setMbox_within ..) rfl)⟩
  obtain ⟨u, hu, hut, hur, huw⟩ := hx
  obtain ⟨p1, p2, p3, p4, p5, p6, p7⟩ := State.postCpl_facts u c.box (mkCpl c.seq c.op ccPENDING false (s.nextTicket c.box) tide)
  rw [hu]
  have hmb : ∀ m, u.mbox m = if m = c.box then { s.mbox c.box with lastTicket := s.nextTicket c.box } else s.mbox m := by
    intro m
    rw [State.mbox_tol (s := s.setMbox c.box { s.mbox c.box with lastTicket := s.nextTicket c.box }) (by rw [hut]) m]; exact State.setMbox_mbox ..
  have hcp : (u.mbox c.box).cpls = (s.mbox c.box).cpls := by rw [hmb, if_pos rfl]
  refine ⟨?_, ?_, ?_, ?_, ?_, ?_, Within.via p7 rfl (Within.mono huw rfl)⟩
  · rw [p1, hcp]
  · intro m hm; rw [p2 m hm, hmb, if_neg hm]
  · dsimp only; rw [p3, hut]; rfl
  · intro h; exact p4 (by rw [hcp]; exact h)
  · exact State.wordsBut_trans (State.wordsBut_of_regs _ hur) p5
  · intro i hi h; exact p6 i hi (by rw [State.bit_same hur]; exact h)

theorem State.flag_of_word {s t : State} {a : Nat} {f : Fld} (h : t.word a = s.word a) (hf : f.lo + f.width ≤ 32) : t.flag a f = s.flag a f := by unfold State.flag; rw [State.fget_of_word a h hf]

theorem State.bit_of_word {s t : State} {a : Nat} (i : Nat) (hi : i < 32) (h : t.word a = s.word a) : t.bit a i = s.bit a i := State.flag_of_word h hi

theorem State.nextTicket_tol {s t : State} (b : Nat) (h1 : t.tol.jobs = s.tol.jobs) (h2 : t.tol.boxes = s.tol.boxes) : t.nextTicket b = s.nextTicket b := by
  unfold State.nextTicket; rw [State.ticketsOut_boxes b h1, State.mbox_tol h2]

theorem CmdIn.arg0_le {c : CmdIn} {w0 w1 m : Nat} {l : List Nat} (h : c.formed w0 w1 (m :: l) = true) : c.arg 0 ≤ m := by
  unfold CmdIn.formed at h
  simp only [Bool.and_eq_true] at h
  have := List.all_eq_true.mp h.1.1.2 0 (List.mem_range.mpr (by simp))
  have := of_decide_eq_true this
  have h2 : Nat.lor (c.arg 0) m = m := this
  rw [← h2]
  exact Nat.left_le_or

end Sys2Proof.Machine
end

