-- ==== Sys2Proof/Laws/LockstepCommands.lean ====
section
/-! SUPPORT. Tests, lockstep, the event log, and lanes' stages: what each operation does. -/

namespace Sys2Proof.Machine

theorem State.setStage_facts (s : State) (l st : Nat) (h : st ≤ 15) :
    (s.setStage l st).stage l = st ∧ (st ≤ sgWAIT → (s.setStage l st).flag (rLANE_STAT l) fLANE_STAT_CDR_LOCK = false ∧ (s.setStage l st).flag (rLANE_STAT l) fLANE_STAT_SIG_DET = false) ∧
    s.wordsBut (s.setStage l st) [rLANE_STAT l, rIRQ_RAW (PageKind.lane.addr l)] ∧ (st ≠ s.stage l → (s.setStage l st).bit (rIRQ_RAW (PageKind.lane.addr l)) 0 = true) ∧
    Within [.regs, .agg] s (s.setStage l st) := by
  have hne : rLANE_STAT l ≠ rIRQ_RAW (PageKind.lane.addr l) := by unfold rLANE_STAT rIRQ_RAW; omega
  have h2 : ∃ u, u = (if st ≤ sgWAIT then ((s.fset (rLANE_STAT l) fLANE_STAT_STAGE st).fset (rLANE_STAT l) fLANE_STAT_SIG_DET 0).fset (rLANE_STAT l) fLANE_STAT_CDR_LOCK 0 else s.fset (rLANE_STAT l) fLANE_STAT_STAGE st) ∧
      u.fget (rLANE_STAT l) fLANE_STAT_STAGE = st ∧ (st ≤ sgWAIT → u.flag (rLANE_STAT l) fLANE_STAT_CDR_LOCK = false ∧ u.flag (rLANE_STAT l) fLANE_STAT_SIG_DET = false) ∧
      s.wordsBut u [rLANE_STAT l, rIRQ_RAW (PageKind.lane.addr l)] ∧ Within [.regs, .agg] s u := by
    refine ⟨_, rfl, ?_, ?_, ?_, ?_⟩
    · split
      · rw [State.fget_fset_apart _ _ _ _ (by decide) (by decide) (by decide), State.fget_fset_apart _ _ _ _ (by decide) (by decide) (by decide), State.fget_fset_if _ _ _ _ (by decide), if_pos rfl]
        exact Nat.mod_eq_of_lt (by show st < 16; omega)
      · rw [State.fget_fset_if _ _ _ _ (by decide), if_pos rfl]
        exact Nat.mod_eq_of_lt (by show st < 16; omega)
    · intro hw
      rw [if_pos hw]
      unfold State.flag
      rw [State.fget_fset_if _ _ _ _ (by decide), if_pos rfl, State.fget_fset_apart _ _ _ _ (by decide) (by decide) (by decide), State.fget_fset_if _ _ _ _ (by decide), if_pos rfl]
      exact ⟨rfl, rfl⟩
    · split
      · exact State.wordsBut.fset (State.wordsBut.fset (State.wordsBut_fset _ _ (by decide) (by simp)) (by decide) (by simp)) (by decide) (by simp)
      · exact State.wordsBut_fset _ _ (by decide) (by simp)
    · split
      · exact Within.via (State.fset_within ..) rfl (Within.via (State.fset_within ..) rfl (Within.mono (State.fset_within ..) rfl))
      · exact Within.mono (State.fset_within ..) rfl
  have hx : s.setStage l st = if st = s.stage l then (if st ≤ sgWAIT then ((s.fset (rLANE_STAT l) fLANE_STAT_STAGE st).fset (rLANE_STAT l) fLANE_STAT_SIG_DET 0).fset (rLANE_STAT l) fLANE_STAT_CDR_LOCK 0 else s.fset (rLANE_STAT l) fLANE_STAT_STAGE st)
      else (if st ≤ sgWAIT then ((s.fset (rLANE_STAT l) fLANE_STAT_STAGE st).fset (rLANE_STAT l) fLANE_STAT_SIG_DET 0).fset (rLANE_STAT l) fLANE_STAT_CDR_LOCK 0 else s.fset (rLANE_STAT l) fLANE_STAT_STAGE st).irq (PageKind.lane.addr l) 0 := rfl
  obtain ⟨u, hu, u1, u2, u3, u4⟩ := h2
  rw [← hu] at hx
  by_cases he : st = s.stage l
  · rw [if_pos he] at hx
    rw [hx]
    exact ⟨u1, u2, u3, fun h => absurd he h, u4⟩
  · rw [if_neg he] at hx
    rw [hx]
    have hf : ∀ f : Fld, f.lo + f.width ≤ 32 → (u.irq (PageKind.lane.addr l) 0).fget (rLANE_STAT l) f = u.fget (rLANE_STAT l) f := fun f hf =>
      State.fget_wordsBut (State.wordsBut_irq (l := [PageKind.lane.addr l + 0x010]) _ (by decide) (by simp)) _ (by simpa [rIRQ_RAW] using hne) hf
    refine ⟨?_, ?_, ?_, ?_, Within.via (State.irq_within ..) rfl u4⟩
    · unfold State.stage; rw [hf _ (by decide)]; exact u1
    · intro hw; unfold State.flag; rw [hf _ (by decide), hf _ (by decide)]; exact u2 hw
    · exact State.wordsBut.irq u3 (by decide) (by simp [rIRQ_RAW])
    · intro _
      show State.bit _ (PageKind.lane.addr l + 0x010) 0 = true
      rw [State.bit_irq _ _ _ _ _ (by decide) (by decide)]; simp

theorem putBits_one_ne (w k : Nat) {j : Nat} (b : Bool) (h : j ≠ k) : (putBits w k 1 (b2n b)).testBit j = w.testBit j :=
  Fld.testBit_set ⟨k, 1⟩ w (b2n b) j (by show j < k ∨ k + 1 ≤ j; omega)

theorem State.setStopped_facts (s : State) (y o : Nat) (b : Bool) :
    ((s.setStopped y o b).stoppedOuts y).testBit o = b ∧ (s.setStopped y o b).regs = s.regs ∧ (∀ p, p ≠ o → ((s.setStopped y o b).stoppedOuts y).testBit p = (s.stoppedOuts y).testBit p) ∧
    (∀ z, z ≠ y → (s.setStopped y o b).stoppedOuts z = s.stoppedOuts z) ∧ (s.setStopped y o b).clk = { s.clk with stopped := (s.setStopped y o b).clk.stopped } ∧ Within [.clk] s (s.setStopped y o b) := by
  have hs : ∀ z, (s.setStopped y o b).stoppedOuts z = if z = y then putBits (s.stoppedOuts y) o 1 (b2n b) else s.stoppedOuts z := fun z => smGet_smSet ..
  refine ⟨?_, rfl, ?_, ?_, rfl, State.setStopped_within ..⟩
  · rw [hs, if_pos rfl]; exact putBits_one ..
  · intro p hp; rw [hs, if_pos rfl]; exact putBits_one_ne _ _ _ hp
  · intro z hz; rw [hs, if_neg hz]

theorem State.setLock_facts (s : State) (y i : Nat) (b : Bool) (hi : i < 8) :
    (s.setLock y i b).pllLocked y i = b ∧ s.wordsBut (s.setLock y i b) [rPLL_STAT y] ∧ (∀ j, j < 8 → j ≠ i → (s.setLock y i b).pllLocked y j = s.pllLocked y j) ∧
    (8 ≤ y → (s.setLock y i b).regs = s.regs) ∧ Within [.regs, .agg, .clk] s (s.setLock y i b) := by
  have hw : Within [.regs, .agg, .clk] s (s.setLock y i b) := Within.mono (State.setLock_within ..) rfl
  by_cases hy : y < 8
  · have hx : s.setLock y i b = s.setBit (rPLL_STAT y) i b := by unfold State.setLock; rw [if_pos hy]
    rw [hx] at hw ⊢
    refine ⟨?_, ?_, ?_, fun h => by omega, hw⟩
    · unfold State.pllLocked; rw [if_pos hy, State.bit_setBit_if _ _ _ _ _ _ (by omega) (by omega)]; simp
    · exact State.wordsBut_fset _ _ (show i + 1 ≤ 32 by omega) (by simp)
    · intro j hj hne
      unfold State.pllLocked; rw [if_pos hy, if_pos hy, State.bit_setBit_if _ _ _ _ _ _ (by omega) (by omega)]; simp [hne]
  · have hx : s.setLock y i b = s.setClk { s.clk with gridLock := putBits s.clk.gridLock i 1 (b2n b) } := by unfold State.setLock; rw [if_neg hy]
    rw [hx] at hw ⊢
    refine ⟨?_, State.wordsBut_of_regs _ rfl, ?_, fun _ => rfl, hw⟩
    · unfold State.pllLocked; rw [if_neg hy]
      exact putBits_one ..
    · intro j hj hne
      unfold State.pllLocked; rw [if_neg hy, if_neg hy]
      exact putBits_one_ne _ _ _ hne

/-- R393: what a PLL that locks does. -/
theorem State.pllLock_facts (s : State) (y i : Nat) (hi : i < 8) (he : s.fget (pllCfg y i) fPLL_CFG_EN = 1) (hf : s.bit (rREF_STAT 0) (s.fget (pllCfg y i) fPLL_CFG_REF) = true) :
    (s.pllLock y i).pllLocked y i = true ∧ s.wordsBut (s.pllLock y i) [rPLL_STAT y] ∧ (∀ j, j < 4 → ((s.pllLock y i).stoppedOuts y).testBit (4 * i + j) = false) ∧
    Within [.regs, .agg, .clk] s (s.pllLock y i) := by
  have hx : s.pllLock y i = (List.range 4).foldl (fun t j => t.setStopped y (4 * i + j) false) (s.setLock y i true) := by
    unfold State.pllLock; dsimp only; exact if_pos ⟨he, hf⟩
  have hx2 : s.pllLock y i = ((((s.setLock y i true).setStopped y (4 * i + 0) false).setStopped y (4 * i + 1) false).setStopped y (4 * i + 2) false).setStopped y (4 * i + 3) false := hx
  obtain ⟨l1, l2, l3, l4, l5⟩ := State.setLock_facts s y i true hi
  rw [hx2]
  generalize s.setLock y i true = u at l1 l2 l5
  obtain ⟨a1, a2, a3, a4, a5, a6⟩ := State.setStopped_facts u y (4 * i + 0) false
  generalize State.setStopped u y (4 * i + 0) false = u1 at a1 a2 a3 a5 a6
  obtain ⟨b1, b2, b3, b4, b5, b6⟩ := State.setStopped_facts u1 y (4 * i + 1) false
  generalize State.setStopped u1 y (4 * i + 1) false = u2 at b1 b2 b3 b5 b6
  obtain ⟨c1, c2, c3, c4, c5, c6⟩ := State.setStopped_facts u2 y (4 * i + 2) false
  generalize State.setStopped u2 y (4 * i + 2) false = u3 at c1 c2 c3 c5 c6
  obtain ⟨d1, d2, d3, d4, d5, d6⟩ := State.setStopped_facts u3 y (4 * i + 3) false
  generalize State.setStopped u3 y (4 * i + 3) false = u4 at d1 d2 d3 d5 d6
  have hr : u4.regs = u.regs := d2.trans (c2.trans (b2.trans a2))
  have hg : u4.clk.gridLock = u.clk.gridLock := by rw [d5, c5, b5, a5]
  refine ⟨?_, State.wordsBut.regs l2 hr, ?_, Within.via d6 rfl (Within.via c6 rfl (Within.via b6 rfl (Within.via a6 rfl l5)))⟩
  · unfold State.pllLocked at l1 ⊢
    rw [State.bit_same hr, hg]; exact l1
  · intro j hj
    have : j = 0 ∨ j = 1 ∨ j = 2 ∨ j = 3 := by omega
    rcases this with rfl | rfl | rfl | rfl
    · rw [d3 _ (by omega), c3 _ (by omega), b3 _ (by omega)]; exact a1
    · rw [d3 _ (by omega), c3 _ (by omega)]; exact b1
    · rw [d3 _ (by omega)]; exact c1
    · exact d1

theorem State.testsRun_jobs (s : State) (kind index : Nat) :
    (s.testsRun kind index).tol.jobs = s.tol.jobs.map (fun j => if j.tests kind index false then { j with kind := match j.kind with | .test k i lim _ => .test k i lim true | x => x } else j) := by
  show List.map _ s.tol.jobs = _
  apply List.map_congr_left
  intro j hmem
  clear hmem
  obtain ⟨box, seq, op, ticket, orphan, kd, result, fan⟩ := j
  cases kd <;> try rfl
  rename_i k i lim r
  unfold Job.tests
  dsimp only
  by_cases h1 : k = kind
  · by_cases h2 : i = index
    · cases result with
      | none => cases r <;> simp [h1, h2]
      | some x => simp
    · simp [h2]
  · simp [h1]

/-- R262, R263: TOL_STAT counts a disagreement. -/
theorem State.finc_tolstat (s : State) : (s.finc (rTOL_STAT 0) fTOL_STAT_DISAGREE).fget (rTOL_STAT 0) fTOL_STAT_DISAGREE = satInc 16 (s.fget (rTOL_STAT 0) fTOL_STAT_DISAGREE) ∧
    (s.finc (rTOL_STAT 0) fTOL_STAT_DISAGREE).fget (rTOL_STAT 0) fTOL_STAT_MODE = s.fget (rTOL_STAT 0) fTOL_STAT_MODE ∧
    s.wordsBut (s.finc (rTOL_STAT 0) fTOL_STAT_DISAGREE) [rTOL_STAT 0] ∧ Within [.regs, .agg] s (s.finc (rTOL_STAT 0) fTOL_STAT_DISAGREE) := by
  unfold State.finc
  refine ⟨?_, ?_, State.wordsBut_fset _ _ (by decide) (by simp), Within.mono (State.fset_within ..) rfl⟩
  · rw [State.fget_fset_if _ _ _ _ (by decide), if_pos rfl]
    show satInc 16 (s.fget (rTOL_STAT 0) fTOL_STAT_DISAGREE) % 2 ^ 16 = satInc 16 _
    exact Nat.mod_eq_of_lt (by unfold satInc; split <;> omega)
  · rw [State.fget_fset_apart _ _ _ _ (by decide) (by decide) (by decide)]

theorem State.logEvent_facts (s : State) (source code index detail : Nat) (hd : s.dead = false) :
    let t := s.logEvent source code index detail
    let e : LogEntry := ⟨s.tide.now, s.rd32 (rLOG_NEXT 0), source, code, index, detail⟩
    t.tol = { s.tol with log := if s.tol.log.length < 1024 then s.tol.log ++ [e] else s.tol.log.tail ++ [e] } ∧
    t.rd32 (rLOG_NEXT 0) = (s.rd32 (rLOG_NEXT 0) + 1) % 2 ^ 32 ∧ s.wordsBut t [rLOG_NEXT 0] ∧ Within [.regs, .agg, .tol] s t := by
  have hm : ¬ s.fget (rTOL_STAT 0) fTOL_STAT_MODE = 2 := by
    intro h; unfold State.dead at hd; rw [h] at hd; exact absurd hd (by decide)
  have hw := State.logEvent_within s source code index detail
  intro t e
  have hx : t.regs = (s.wr32 (rLOG_NEXT 0) (s.rd32 (rLOG_NEXT 0) + 1)).regs ∧ t.tol = { s.tol with log := if 1024 < (s.tol.log ++ [e]).length then (s.tol.log ++ [e]).tail else s.tol.log ++ [e] } := by
    show (s.logEvent source code index detail).regs = _ ∧ (s.logEvent source code index detail).tol = _
    unfold State.logEvent; dsimp only; rw [if_neg hm]
    constructor <;> dsimp only
  refine ⟨?_, ?_, ?_, Within.mono hw rfl⟩
  · rw [hx.2, List.length_append, List.length_singleton]
    by_cases h : s.tol.log.length < 1024
    · rw [if_neg (by omega), if_pos h]
    · rw [if_pos (by omega), if_neg h]
      rw [List.tail_append_of_ne_nil (by intro h0; rw [h0] at h; exact h (by decide))]
  · rw [State.rd32_same hx.1]; exact State.rd32_wr32 ..
  · exact State.wordsBut.regs (State.wordsBut_wr32 s (a := rLOG_NEXT 0) _ (by simp)) hx.1

/-- R263: what entering DEAD does. -/
theorem State.enterDead_facts (s : State) (hd : s.dead = false) : let t := s.enterDead
    t.fget (rTOL_STAT 0) fTOL_STAT_MODE = 2 ∧ t.fget (rTOL_STAT 0) fTOL_STAT_DISAGREE = s.fget (rTOL_STAT 0) fTOL_STAT_DISAGREE ∧
    (∀ b, b < 6 → t.flag (rMB_STAT b) fMB_STAT_DEAD = true ∧ t.flag (rMB_STAT b) fMB_STAT_ACCEPTING = false ∧ t.bit (rIRQ_RAW (PageKind.mbox.addr b)) 3 = true) ∧
    (1 ≤ s.powerState → t.flag (rPWR_STAT 0) fPWR_STAT_EXITING = true ∧ t.fget (rPWR_STAT 0) fPWR_STAT_TARGET = 0) ∧
    (s.powerState = 0 → t.word (rPWR_STAT 0) = s.word (rPWR_STAT 0)) ∧
    s.wordsBut t ([rTOL_STAT 0, rPWR_STAT 0] ++ (List.range 6).flatMap (fun b => [rMB_STAT b, rIRQ_RAW (PageKind.mbox.addr b)])) ∧ Within [.regs, .agg] s t := by
  let stepB := fun (t : State) (b : Nat) => ((t.fset (rMB_STAT b) fMB_STAT_DEAD 1).fset (rMB_STAT b) fMB_STAT_ACCEPTING 0).irq (PageKind.mbox.addr b) 3
  have hstep : ∀ (t : State) b, t.wordsBut (stepB t b) [rMB_STAT b, rIRQ_RAW (PageKind.mbox.addr b)] ∧ Within [.regs, .agg] t (stepB t b) ∧
      (stepB t b).flag (rMB_STAT b) fMB_STAT_DEAD = true ∧ (stepB t b).flag (rMB_STAT b) fMB_STAT_ACCEPTING = false ∧ (stepB t b).bit (rIRQ_RAW (PageKind.mbox.addr b)) 3 = true := by
    intro t b
    have hf : ∀ f : Fld, f.lo + f.width ≤ 32 → (stepB t b).fget (rMB_STAT b) f = ((t.fset (rMB_STAT b) fMB_STAT_DEAD 1).fset (rMB_STAT b) fMB_STAT_ACCEPTING 0).fget (rMB_STAT b) f := fun f hf =>
      State.fget_wordsBut (State.wordsBut_irq (l := [PageKind.mbox.addr b + 0x010]) _ (by decide) (by simp)) _ (by unfold rMB_STAT; simp) hf
    refine ⟨?_, ?_, ?_, ?_, ?_⟩
    · exact State.wordsBut.irq (State.wordsBut.fset (State.wordsBut_fset _ _ (by decide) (by simp)) (by decide) (by simp)) (by decide) (by simp [rIRQ_RAW])
    · exact Within.via (State.irq_within ..) rfl (Within.via (State.fset_within ..) rfl (Within.mono (State.fset_within ..) rfl))
    · unfold State.flag; rw [hf _ (by decide), State.fget_fset_apart _ _ _ _ (by decide) (by decide) (by decide), State.fget_fset_if _ _ _ _ (by decide), if_pos rfl]; rfl
    · unfold State.flag; rw [hf _ (by decide), State.fget_fset_if _ _ _ _ (by decide), if_pos rfl]; rfl
    · show State.bit _ (PageKind.mbox.addr b + 0x010) 3 = true
      rw [State.bit_irq _ _ _ _ _ (by decide) (by decide)]; simp
  have hmode : ∃ u, u = s.fset (rTOL_STAT 0) fTOL_STAT_MODE 2 ∧ u.fget (rTOL_STAT 0) fTOL_STAT_MODE = 2 ∧ u.fget (rTOL_STAT 0) fTOL_STAT_DISAGREE = s.fget (rTOL_STAT 0) fTOL_STAT_DISAGREE ∧
      s.wordsBut u [rTOL_STAT 0] ∧ Within [.regs, .agg] s u :=
    ⟨_, rfl, by rw [State.fget_fset_if _ _ _ _ (by decide), if_pos rfl]; rfl, State.fget_fset_apart _ _ _ _ (by decide) (by decide) (by decide), State.wordsBut_fset _ _ (by decide) (by simp), Within.mono (State.fset_within ..) rfl⟩
  obtain ⟨u, hu, m1, m2, m3, m4⟩ := hmode
  have hfold : ∃ v, v = (List.range 6).foldl stepB u ∧ (∀ b, b < 6 → v.flag (rMB_STAT b) fMB_STAT_DEAD = true ∧ v.flag (rMB_STAT b) fMB_STAT_ACCEPTING = false ∧ v.bit (rIRQ_RAW (PageKind.mbox.addr b)) 3 = true) ∧
      u.wordsBut v ((List.range 6).flatMap (fun b => [rMB_STAT b, rIRQ_RAW (PageKind.mbox.addr b)])) ∧ Within [.regs, .agg] u v := by
    have hk := foldl_keys (ι := Nat) (fun x => x < 6) stepB (fun x s t => x < 6 → t.word (rMB_STAT x) = s.word (rMB_STAT x) ∧ t.word (rIRQ_RAW (PageKind.mbox.addr x)) = s.word (rIRQ_RAW (PageKind.mbox.addr x)))
      (fun x _ t => x < 6 → t.flag (rMB_STAT x) fMB_STAT_DEAD = true ∧ t.flag (rMB_STAT x) fMB_STAT_ACCEPTING = false ∧ t.bit (rIRQ_RAW (PageKind.mbox.addr x)) 3 = true)
      (fun _ _ _ => ⟨rfl, rfl⟩) (fun _ _ _ _ h1 h2 h => ⟨(h2 h).1.trans (h1 h).1, (h2 h).2.trans (h1 h).2⟩)
      (fun u x y hx hne hy => by
        obtain ⟨g1, -⟩ := hstep u x
        exact ⟨g1 _ (by unfold rMB_STAT rIRQ_RAW; rw [addr_mbox, addr_mbox]; simp; omega), g1 _ (by unfold rMB_STAT rIRQ_RAW; rw [addr_mbox, addr_mbox]; simp; omega)⟩)
      (fun u x _ _ => (hstep u x).2.2) (fun _ _ _ _ _ h => h)
      (fun x s t u h1 h2 h => ⟨(State.flag_of_word (h2 h).1 (by decide)).trans (h1 h).1, (State.flag_of_word (h2 h).1 (by decide)).trans (h1 h).2.1, (State.bit_of_word 3 (by decide) (h2 h).2).trans (h1 h).2.2⟩)
      (List.range 6) List.nodup_range (fun _ h => List.mem_range.mp h) u
    refine ⟨_, rfl, fun b hb => hk.1 b (List.mem_range.mpr hb) hb, ?_, Within.foldl (fun t b => (hstep t b).2.1) (Within.refl ..)⟩
    intro a ha
    refine State.word_foldl a stepB _ (fun w x hx => ?_) u
    refine (hstep w x).1 a ?_
    cases hh : [rMB_STAT x, rIRQ_RAW (PageKind.mbox.addr x)].contains a with
    | false => rfl
    | true =>
      rw [List.contains_eq_mem, decide_eq_false_iff_not] at ha
      exact absurd (List.mem_flatMap.mpr ⟨x, hx, List.contains_iff_mem.mp hh⟩) ha
  obtain ⟨v, hv, v1, v2, v3⟩ := hfold
  have hx : s.enterDead = if 1 ≤ v.powerState then v.exitBegin 0 else v := by
    unfold State.enterDead
    rw [if_neg (by rw [hd]; decide)]
    dsimp only
    rw [← hu]
    show (if 1 ≤ ((List.range 6).foldl stepB u).powerState then ((List.range 6).foldl stepB u).exitBegin 0 else (List.range 6).foldl stepB u) = _
    rw [← hv]
  have hpw : v.word (rPWR_STAT 0) = s.word (rPWR_STAT 0) := by
    rw [v2 _ (by decide), m3 _ (by decide)]
  have hps : v.powerState = s.powerState := State.fget_of_word _ hpw (by decide)
  have hmd : ∀ f : Fld, f.lo + f.width ≤ 32 → v.fget (rTOL_STAT 0) f = u.fget (rTOL_STAT 0) f := fun f hf => State.fget_wordsBut v2 _ (by decide) hf
  have hsw : s.wordsBut v ([rTOL_STAT 0, rPWR_STAT 0] ++ (List.range 6).flatMap (fun b => [rMB_STAT b, rIRQ_RAW (PageKind.mbox.addr b)])) :=
    State.wordsBut_trans (State.wordsBut_mono m3 (by simp)) (State.wordsBut_mono v2 (by intro a ha; exact List.mem_append.mpr (Or.inr ha)))
  have hwv : Within [.regs, .agg] s v := Within.via v3 rfl m4
  intro t
  have ht : t = if 1 ≤ v.powerState then v.exitBegin 0 else v := hx
  by_cases hp : 1 ≤ v.powerState
  · rw [if_pos hp] at ht
    have hb : v.wordsBut (v.exitBegin 0) [rPWR_STAT 0] := by
      unfold State.exitBegin; exact State.wordsBut.fset (State.wordsBut_fset _ _ (by decide) (by simp)) (by decide) (by simp)
    rw [ht]
    refine ⟨?_, ?_, ?_, ?_, fun h => by omega, ?_, Within.via (State.exitBegin_within ..) rfl hwv⟩
    · rw [State.fget_wordsBut hb _ (by decide) (by decide), hmd _ (by decide), m1]
    · rw [State.fget_wordsBut hb _ (by decide) (by decide), hmd _ (by decide), m2]
    · intro b hbb
      obtain ⟨g1, g2, g3⟩ := v1 b hbb
      have hn : rMB_STAT b ≠ rPWR_STAT 0 ∧ rIRQ_RAW (PageKind.mbox.addr b) ≠ rPWR_STAT 0 := by unfold rMB_STAT rIRQ_RAW rPWR_STAT; rw [addr_mbox, addr_clkCtl]; omega
      refine ⟨?_, ?_, ?_⟩
      · rw [State.flag_of_word (hb _ (by simpa using hn.1)) (by decide)]; exact g1
      · rw [State.flag_of_word (hb _ (by simpa using hn.1)) (by decide)]; exact g2
      · rw [State.bit_of_word 3 (by decide) (hb _ (by simpa using hn.2))]; exact g3
    · intro _
      unfold State.exitBegin State.flag
      rw [State.fget_fset_if _ _ _ _ (by decide), if_pos rfl, State.fget_fset_apart _ _ _ _ (by decide) (by decide) (by decide), State.fget_fset_if _ _ _ _ (by decide), if_pos rfl]
      exact ⟨rfl, rfl⟩
    · exact State.wordsBut_trans hsw (State.wordsBut_mono hb (by simp))
  · rw [if_neg hp] at ht
    rw [ht]
    refine ⟨?_, ?_, v1, fun h => by omega, fun _ => hpw, hsw, hwv⟩
    · rw [hmd _ (by decide), m1]
    · rw [hmd _ (by decide), m2]

end Sys2Proof.Machine
end

