-- ==== Sys2Proof/Laws/MailboxCommands.lean ====
section
/-! SUPPORT. Final completions, and what the copy engine leaves alone. -/

namespace Sys2Proof.Machine

/-- R269, R272: what a final completion does. -/
theorem State.finishJob_facts (s : State) (j : Job) (code data : Nat) (hd : s.dead = false) : let t := s.finishJob j code data
    t.tol.jobs = s.tol.jobs.filter (fun x => !(decide (x.box = j.box) && decide (x.ticket = j.ticket))) ∧
    (j.orphan = false → (t.mbox j.box).cpls = (s.mbox j.box).cpls ++ [mkCpl j.seq j.op code true j.ticket data] ∧ t.tol.log = s.tol.log) ∧
    (j.orphan = true → (∃ e : LogEntry, t.tol.log = (if s.tol.log.length < 1024 then s.tol.log ++ [e] else s.tol.log.tail ++ [e]) ∧ e.source = 8 ∧ e.code = code ∧
      e.seq = s.rd32 (rLOG_NEXT 0)) ∧ t.mbox j.box = s.mbox j.box) ∧ (∀ m, m ≠ j.box → t.mbox m = s.mbox m) ∧
    s.wordsBut t [rLOG_NEXT 0, rIRQ_RAW (PageKind.mbox.addr j.box)] ∧ Within [.regs, .agg, .tol, .out] s t := by
  have hw := State.finishJob_within s j code data
  have h0 : ∃ u : State, u.tol = { s.tol with jobs := s.tol.jobs.filter (fun x => !(decide (x.box = j.box) && decide (x.ticket = j.ticket))) } ∧ u.regs = s.regs ∧ u.tide = s.tide ∧ u.dead = s.dead ∧
      s.finishJob j code data = (if j.orphan then u.logEvent 8 code j.box ((mkCpl j.seq j.op code true j.ticket data).w0 + (mkCpl j.seq j.op code true j.ticket data).w1 * 2 ^ 32 + (mkCpl j.seq j.op code true j.ticket data).data * 2 ^ 64)
        else postUp u j.box (mkCpl j.seq j.op code true j.ticket data) j.fan) := by
    refine ⟨s.setTol { s.tol with jobs := s.tol.jobs.filter (fun x => !(decide (x.box = j.box) && decide (x.ticket = j.ticket))) }, rfl, rfl, rfl, rfl, ?_⟩
    unfold State.finishJob
    dsimp only
    rw [if_neg (by rw [hd]; decide)]
    rfl
  obtain ⟨u, u1, u2, u3, u4, hx⟩ := h0
  have hmb : ∀ m, u.mbox m = s.mbox m := State.mbox_tol (by rw [u1])
  intro t
  have ht : t = _ := hx
  cases ho : j.orphan with
  | true =>
    rw [ho, if_pos rfl] at ht
    obtain ⟨g1, g2, g3, g4⟩ := State.logEvent_facts u 8 code j.box ((mkCpl j.seq j.op code true j.ticket data).w0 + (mkCpl j.seq j.op code true j.ticket data).w1 * 2 ^ 32 + (mkCpl j.seq j.op code true j.ticket data).data * 2 ^ 64) (u4.trans hd)
    rw [← ht] at g1 g2 g3 g4
    have hmt : ∀ m, t.mbox m = s.mbox m := fun m => (State.mbox_tol (by rw [g1]) m).trans (hmb m)
    refine ⟨by rw [g1, u1], fun h => absurd h (by decide), fun _ => ⟨?_, hmt _⟩, fun m _ => hmt m, ?_, Within.mono hw rfl⟩
    · exact ⟨_, by rw [g1, u1], rfl, rfl, State.rd32_same u2 _⟩
    · exact State.wordsBut_trans (State.wordsBut_of_regs _ u2) (State.wordsBut_mono g3 (by simp))
  | false =>
    rw [ho, if_neg (by decide)] at ht
    obtain ⟨p1, p2, p3, p4, p5, p6, p7⟩ := State.postUp_facts u j.box (mkCpl j.seq j.op code true j.ticket data) j.fan
    rw [← ht] at p1 p2 p3 p4 p5 p6 p7
    refine ⟨by rw [p3, u1], fun _ => ⟨?_, by rw [p3, u1]⟩, fun h => absurd h (by decide), fun m hm => (p2 m hm).trans (hmb m), ?_, Within.mono hw rfl⟩
    · rw [p1, hmb]
    · exact State.wordsBut_trans (State.wordsBut_of_regs _ u2) (State.wordsBut_mono p5 (by simp))

/-- Tolmor's mailboxes, jobs and event log, and every register below the Sluice's page, are as before. -/
def lowSame (s t : State) : Prop := t.tol.boxes = s.tol.boxes ∧ t.tol.jobs = s.tol.jobs ∧ t.tol.log = s.tol.log ∧ ∀ a, a < 0x0a000000 → t.word a = s.word a

theorem lowSame_refl (s : State) : lowSame s s := ⟨rfl, rfl, rfl, fun _ _ => rfl⟩

theorem lowSame_trans {s t u : State} (h : lowSame s t) (g : lowSame t u) : lowSame s u :=
  ⟨g.1.trans h.1, g.2.1.trans h.2.1, g.2.2.1.trans h.2.2.1, fun a ha => (g.2.2.2 a ha).trans (h.2.2.2 a ha)⟩

theorem lowSame_words {s t : State} {l : List Nat} (h : s.wordsBut t l) (hl : ∀ a ∈ l, 0x0a000000 ≤ a) (ht : t.tol = s.tol) : lowSame s t := by
  refine ⟨by rw [ht], by rw [ht], by rw [ht], fun a ha => h a ?_⟩
  rw [List.contains_eq_mem, decide_eq_false_iff_not]
  intro hm
  have := hl a hm
  omega

theorem lowSame_fset (s : State) (a : Nat) (f : Fld) (v : Nat) (hf : f.lo + f.width ≤ 32) (ha : 0x0a000000 ≤ a) : lowSame s (s.fset a f v) :=
  lowSame_words (l := [a]) (State.wordsBut_fset _ _ hf (by simp)) (by simpa using ha) ((State.fset_within ..).2 .tol rfl)

theorem lowSame_irq (s : State) (p k : Nat) (hk : k < 32) (hp : 0x0a000000 ≤ p) : lowSame s (s.irq p k) :=
  lowSame_words (l := [p + 0x010]) (State.wordsBut_irq _ hk (by simp)) (by simp; omega) ((State.irq_within ..).2 .tol rfl)

theorem lowSame_eventRecord (s : State) (i k : Nat) : lowSame s (s.eventRecord i k) := ⟨rfl, rfl, rfl, fun _ _ => rfl⟩

theorem lowSame_regs {s t : State} (h : t.regs = s.regs) (ht : t.tol = s.tol) : lowSame s t := ⟨by rw [ht], by rw [ht], by rw [ht], fun a _ => State.word_same h a⟩

theorem lowSame_wr32 (s : State) (a v : Nat) (ha : 0x0a000000 ≤ a) : lowSame s (s.wr32 a v) :=
  lowSame_words (l := [a]) (State.wordsBut_wr32 s v (by simp)) (by simpa using ha) ((State.wr32_within ..).2 .tol rfl)

theorem hbmp_high (port o : Nat) : 0x0a000000 ≤ PageKind.addr .hbmp port + o := by rw [hbmp_addr]; omega

theorem lowSame_memLog (s : State) (port code i src l : Nat) : lowSame s (s.memLog port code i src l) := by
  unfold State.memLog
  refine lowSame_trans ?_ (lowSame_eventRecord ..)
  refine lowSame_trans ?_ (lowSame_irq _ _ _ (by decide) (hbmp_high port 0))
  exact lowSame_trans (lowSame_wr32 _ _ _ (hbmp_high ..)) (lowSame_wr32 _ _ _ (hbmp_high ..))

theorem lowSame_setLine (s : State) (a : Nat) (x : HLine) : lowSame s (s.setLine a x) := lowSame_regs rfl rfl

theorem lowSame_poisonEvent (s : State) (port code i src l : Nat) : lowSame s (s.poisonEvent port code i src l) := by
  unfold State.poisonEvent State.finc
  exact lowSame_trans (lowSame_trans (lowSame_setLine ..) (lowSame_fset _ _ _ _ (by decide) (hbmp_high ..))) (lowSame_memLog ..)

theorem lowSame_wearUp (s : State) (k n : Nat) : lowSame s (s.wearUp k n) := by
  have hw := State.wearUp_words s k n
  have hs : ∀ o, 0x0a000000 ≤ PageKind.addr .sluiceCtl 0 + o := by intro o; rw [sluice_addr]; omega
  have htl : (s.wearUp k n).tol.boxes = s.tol.boxes ∧ (s.wearUp k n).tol.jobs = s.tol.jobs ∧ (s.wearUp k n).tol.log = s.tol.log := by
    have h0 : (s.fadd (rSLUICE_WEAR 0 k) fSLUICE_WEAR_LINES n).tol = s.tol := (State.fadd_within ..).2 .tol rfl
    unfold State.wearUp State.wearCheck
    dsimp only
    split
    · have h1 : ((s.fadd (rSLUICE_WEAR 0 k) fSLUICE_WEAR_LINES n).fset (rSLUICE_SLOT 0 k) fSLUICE_SLOT_WORN 1).tol = s.tol := ((State.fset_within ..).2 .tol rfl).trans h0
      have h2 : (((s.fadd (rSLUICE_WEAR 0 k) fSLUICE_WEAR_LINES n).fset (rSLUICE_SLOT 0 k) fSLUICE_SLOT_WORN 1).irq (PageKind.sluiceCtl.addr 0) 0).tol = s.tol := ((State.irq_within ..).2 .tol rfl).trans h1
      obtain ⟨e1, e2, e3, -⟩ := lowSame_eventRecord (((s.fadd (rSLUICE_WEAR 0 k) fSLUICE_WEAR_LINES n).fset (rSLUICE_SLOT 0 k) fSLUICE_SLOT_WORN 1).irq (PageKind.sluiceCtl.addr 0) 0) 9 k
      rw [h2] at e1 e2 e3
      exact ⟨e1, e2, e3⟩
    · rw [h0]; exact ⟨rfl, rfl, rfl⟩
  refine ⟨htl.1, htl.2.1, htl.2.2, fun a ha => hw a ?_⟩
  unfold rSLUICE_WEAR rSLUICE_SLOT rIRQ_RAW
  rw [sluice_addr]; simp; omega

theorem lowSame_storeLine (s : State) (port i l : Nat) (d : BitVec 512) : lowSame s (s.storeLine port i l d) := by
  unfold State.storeLine
  split
  · exact lowSame_trans (lowSame_setLine ..) (lowSame_wearUp ..)
  · exact lowSame_setLine ..

theorem lowSame_lineCorrected (s : State) (port : Nat) : lowSame s (s.lineCorrected port) := by
  unfold State.lineCorrected State.finc
  exact lowSame_trans (lowSame_fset _ _ _ _ (by decide) (hbmp_high ..)) (lowSame_irq _ _ _ (by decide) (hbmp_high port 0))

theorem lowSame_useFree (s : State) : lowSame s s.useFree := lowSame_regs rfl rfl

theorem lowSame_writeLine (s : State) (port i src l be : Nat) (d : BitVec 512 × Bool) (fault : Option LineFault) : lowSame s (s.writeLine port i src l be d fault).1 := by
  unfold State.writeLine
  split
  · exact lowSame_refl s
  · split
    · exact lowSame_poisonEvent ..
    · split
      · exact lowSame_storeLine ..
      · dsimp only
        split
        · unfold State.finc; exact lowSame_fset _ _ _ _ (by decide) (hbmp_high ..)
        · split
          · exact lowSame_poisonEvent ..
          · exact lowSame_poisonEvent ..
          · have h1 : lowSame s (if s.lineFault port i l fault = some .corrected then s.lineCorrected port else s) := by
              split
              · exact lowSame_lineCorrected ..
              · exact lowSame_refl s
            have h2 : ∀ u : State, lowSame s u → lowSame s (if u.keyMatches port i l then (u.storeLine port i l (mergeBytes be (s.line (s.lineKey port i l)).plain d.1), false)
                else (u.useFree.storeLine port i l (mergeBytes be (BitVec.ofNat 512 (Sys2Proof.Config.freeValue u.fresh)) d.1), false)).1 := by
              intro u hu
              split
              · exact lowSame_trans hu (lowSame_storeLine ..)
              · exact lowSame_trans hu (lowSame_trans (lowSame_useFree u) (lowSame_storeLine ..))
            exact h2 _ h1

theorem lowSame_writeLoc (s : State) (b : Nat) (l : Loc) (bytes : List Nat) (copied : Bool) : lowSame s (s.writeLoc b l bytes copied).1 := by
  unfold State.writeLoc
  split
  · dsimp only
    split
    · exact lowSame_refl s
    · exact ⟨rfl, rfl, rfl, fun _ _ => rfl⟩
  · split
    · split
      · exact lowSame_refl s
      · dsimp only
        generalize linesOf l.addr bytes.length = L
        have : ∀ u : State, lowSame s u → lowSame s (L.foldl (fun t k => (t.writeLine l.port l.rgn epTolmor k (lineWrite l.addr bytes k).1 ((lineWrite l.addr bytes k).2, false) none).1) u) := by
          induction L with
          | nil => intro u h; exact h
          | cons k L ih => intro u h; rw [List.foldl_cons]; exact ih _ (lowSame_trans h (lowSame_writeLine ..))
        exact this s (lowSame_refl s)
    · split
      · exact lowSame_regs rfl rfl
      · exact lowSame_refl s

end Sys2Proof.Machine
end

