-- ==== Sys2Proof/Laws/TideCommands.lean ====
section
/-! SUPPORT. The Tide unit: what entering a state, a sample, a correction and an alarm do. -/

namespace Sys2Proof.Machine

theorem addr_tideCtl (n : Nat) : PageKind.addr .tideCtl n = 0x2000 + n / 1 * 0 + n % 1 * 0 := rfl

theorem addr_tallyCtl (n : Nat) : PageKind.addr .tallyCtl n = 0x3000 + n / 1 * 0 + n % 1 * 0 := rfl

theorem addr_tideAlarm (n : Nat) : PageKind.addr .tideAlarm n = 0xe000 + n / 1 * 0 + n % 1 * 0 := rfl

theorem addr_tideStall (n : Nat) : PageKind.addr .tideStall n = 0x60000 + n / 32 * 0 + n % 32 * 0x1000 := rfl

theorem addr_treeCtl (n : Nat) : PageKind.addr .treeCtl n = 0x7000 + n / 1 * 0 + n % 1 * 0 := rfl

/-- A field of TIDE_STAT other than STATE and ROOT_STATE. -/
def statKept (f : Fld) : Prop := f.lo + f.width ≤ 22 ∨ 25 ≤ f.lo ∧ f.lo + f.width ≤ 29

theorem State.flagIntervals_facts (s : State) (f : Nat) : (s.flagIntervals f).regs = s.regs ∧ (s.flagIntervals f).tide = s.tide ∧ Within [.tally] s (s.flagIntervals f) :=
  ⟨rfl, rfl, State.flagIntervals_within ..⟩

theorem State.updateRoot_facts (s : State) : let t := s.updateRoot
    t.tideState = s.tideState ∧ t.tide = s.tide ∧ (∀ f, statKept f → t.fget (rTIDE_STAT 0) f = s.fget (rTIDE_STAT 0) f) ∧ s.wordsBut t [rTIDE_STAT 0] ∧ Within [.regs, .agg, .tally] s t := by
  have hw := State.updateRoot_within s
  let root := match s.tide.parentRoot with
    | some p => if tideRank s.tideState < tideRank p then p else s.tideState
    | none => s.tideState
  have hr : s.updateRoot.regs = (s.fset (rTIDE_STAT 0) fTIDE_STAT_ROOT_STATE root).regs := by
    show (if root = 2 then s.fset (rTIDE_STAT 0) fTIDE_STAT_ROOT_STATE root else (s.fset (rTIDE_STAT 0) fTIDE_STAT_ROOT_STATE root).flagIntervals 4).regs = _
    split
    · rfl
    · exact (State.flagIntervals_facts ..).1
  intro t
  refine ⟨?_, hw.2 .tide rfl, ?_, ?_, Within.mono hw rfl⟩
  · unfold State.tideState; rw [State.fget_same hr, State.fget_fset_apart _ _ _ _ (by decide) (by decide) (by decide)]
  · intro f hf
    rw [State.fget_same hr, State.fget_fset_apart _ _ _ _ (by decide) (by unfold statKept at hf; omega) (by unfold statKept at hf; show f.lo + f.width ≤ 22 ∨ 25 ≤ f.lo; omega)]
  · exact State.wordsBut.regs (State.wordsBut_fset _ _ (by decide) (by simp)) hr

/-- R291: what entering a state other than LOST does. -/
theorem State.enterTide_facts (s : State) (st : Nat) (h8 : st < 8) (h4 : st ≠ 4) : let t := s.enterTide st
    t.tideState = st ∧ t.tide = { s.tide with locks := if s.tideState = st then s.tide.locks else 0 } ∧
    (∀ f, statKept f → t.fget (rTIDE_STAT 0) f = s.fget (rTIDE_STAT 0) f) ∧ (s.tideState ≠ st → t.bit (rIRQ_RAW (PageKind.tideCtl.addr 0)) 0 = true) ∧
    (∀ k, k < 32 → s.bit (rIRQ_RAW (PageKind.tideCtl.addr 0)) k = true → t.bit (rIRQ_RAW (PageKind.tideCtl.addr 0)) k = true) ∧
    s.wordsBut t [rTIDE_STAT 0, rIRQ_RAW (PageKind.tideCtl.addr 0)] ∧ Within [.regs, .agg, .tally, .tide] s t := by
  by_cases h : s.tideState = st
  · have hx : s.enterTide st = s := by unfold State.enterTide; exact if_pos h
    intro t
    have ht : t = s := hx
    rw [ht, if_pos h]
    exact ⟨h, rfl, fun _ _ => rfl, fun hh => absurd h hh, fun _ _ hh => hh, State.wordsBut_refl _ _, Within.refl ..⟩
  · have h1 : ∃ u, u = (s.fset (rTIDE_STAT 0) fTIDE_STAT_STATE st).irq (PageKind.tideCtl.addr 0) 0 ∧ u.tideState = st ∧ u.tide = s.tide ∧ (∀ f, statKept f → u.fget (rTIDE_STAT 0) f = s.fget (rTIDE_STAT 0) f) ∧
        u.bit (rIRQ_RAW (PageKind.tideCtl.addr 0)) 0 = true ∧ (∀ k, k < 32 → s.bit (rIRQ_RAW (PageKind.tideCtl.addr 0)) k = true → u.bit (rIRQ_RAW (PageKind.tideCtl.addr 0)) k = true) ∧
        s.wordsBut u [rTIDE_STAT 0, rIRQ_RAW (PageKind.tideCtl.addr 0)] ∧ Within [.regs, .agg] s u := by
      have hw : Within [.regs, .agg] s ((s.fset (rTIDE_STAT 0) fTIDE_STAT_STATE st).irq (PageKind.tideCtl.addr 0) 0) := Within.via (State.irq_within ..) rfl (Within.mono (State.fset_within ..) rfl)
      have hf : ∀ f : Fld, f.lo + f.width ≤ 32 → ((s.fset (rTIDE_STAT 0) fTIDE_STAT_STATE st).irq (PageKind.tideCtl.addr 0) 0).fget (rTIDE_STAT 0) f = (s.fset (rTIDE_STAT 0) fTIDE_STAT_STATE st).fget (rTIDE_STAT 0) f := fun f hf =>
        State.fget_wordsBut (State.wordsBut_irq (l := [PageKind.tideCtl.addr 0 + 0x010]) _ (by decide) (by simp)) _ (by decide) hf
      refine ⟨_, rfl, ?_, hw.2 .tide rfl, ?_, ?_, ?_, ?_, hw⟩
      · unfold State.tideState; rw [hf _ (by decide), State.fget_fset_if _ _ _ _ (by decide), if_pos rfl]; exact Nat.mod_eq_of_lt h8
      · intro f hk
        rw [hf _ (by unfold statKept at hk; omega), State.fget_fset_apart _ _ _ _ (by decide) (by unfold statKept at hk; omega) (by unfold statKept at hk; show f.lo + f.width ≤ 29 ∨ 32 ≤ f.lo; omega)]
      · show State.bit _ (PageKind.tideCtl.addr 0 + 0x010) 0 = true
        rw [State.bit_irq _ _ _ _ _ (by decide) (by decide)]; simp
      · intro k hk hb
        show State.bit _ (PageKind.tideCtl.addr 0 + 0x010) k = true
        rw [State.bit_irq _ _ _ _ _ (by decide) hk]
        split
        · rfl
        · rw [State.bit_of_word k hk ((State.wordsBut_fset (l := [rTIDE_STAT 0]) s st (by decide) (by simp)) _ (by decide))]; exact hb
      · exact State.wordsBut.irq (State.wordsBut_fset _ _ (by decide) (by simp)) (by decide) (by simp [rIRQ_RAW])
    obtain ⟨u, hu, u1, u2, u3, u4, u5, u6, u7⟩ := h1
    obtain ⟨r1, r2, r3, r4, r5⟩ := State.updateRoot_facts u
    have hx : s.enterTide st = u.updateRoot.setTide { u.updateRoot.tide with locks := 0 } := by
      unfold State.enterTide; rw [if_neg h]; dsimp only; rw [if_neg h4, ← hu]
    intro t
    have ht : t = u.updateRoot.setTide { u.updateRoot.tide with locks := 0 } := hx
    have hr : t.regs = u.updateRoot.regs := by rw [ht]; rfl
    have hb : ∀ k, k < 32 → t.bit (rIRQ_RAW (PageKind.tideCtl.addr 0)) k = u.bit (rIRQ_RAW (PageKind.tideCtl.addr 0)) k := fun k hk =>
      (State.bit_same hr _ _).trans (State.bit_of_word k hk (r4 _ (by decide)))
    refine ⟨?_, ?_, ?_, ?_, ?_, ?_, ?_⟩
    · exact (State.fget_same hr _ _).trans (r1.trans u1)
    · rw [ht, if_neg h]
      show { u.updateRoot.tide with locks := 0 } = _
      rw [r2, u2]
    · intro f hf; exact (State.fget_same hr _ _).trans ((r3 f hf).trans (u3 f hf))
    · intro _; rw [hb 0 (by decide)]; exact u4
    · intro k hk h; rw [hb k hk]; exact u5 k hk h
    · exact State.wordsBut.regs (State.wordsBut_trans u6 (State.wordsBut_mono r4 (by simp))) hr
    · rw [ht]; exact Within.via (State.setTide_within ..) rfl (Within.via r5 rfl (Within.mono u7 rfl))

/-- R291: the state that a sample leads to. -/
theorem State.judge_facts (s : State) (o : Int) (h0 : s.tideState ≠ 0) : let t := s.judge o
    let lock : Int := max 1 (s.fget (rTIDE_CFG 0) fTIDE_CFG_LOCK_NS)
    let moved := if s.tideState = 1 then (if decide (-lock ≤ o ∧ o ≤ lock) && decide (s.tide.locks + 1 = 4) then 2 else 1)
      else if s.tideState = 2 then (if o < -(2 * lock) ∨ 2 * lock < o then 1 else 2) else 1
    t.tideState = moved ∧
    t.tide = { s.tide with locks := if s.tideState = 1 ∧ decide (-lock ≤ o ∧ o ≤ lock) = true ∧ moved = 1 then s.tide.locks + 1 else if s.tideState = 2 ∧ moved = 2 then s.tide.locks else 0 } ∧
    (∀ f, statKept f → t.fget (rTIDE_STAT 0) f = s.fget (rTIDE_STAT 0) f) ∧
    (∀ k, k < 32 → s.bit (rIRQ_RAW (PageKind.tideCtl.addr 0)) k = true → t.bit (rIRQ_RAW (PageKind.tideCtl.addr 0)) k = true) ∧
    s.wordsBut t [rTIDE_STAT 0, rIRQ_RAW (PageKind.tideCtl.addr 0)] ∧ Within [.regs, .agg, .tally, .tide] s t := by
  have he := fun st h8 h4 => State.enterTide_facts s st h8 h4
  intro t lock moved
  have hwt : ∀ x : Tide, Within [.regs, .agg, .tally, .tide] s (s.setTide x) := fun x => Within.mono (State.setTide_within ..) rfl
  by_cases h1 : s.tideState = 1
  · by_cases hn : (-lock ≤ o ∧ o ≤ lock)
    · by_cases hl : s.tide.locks + 1 = 4
      · have ht : t = s.enterTide 2 := by
          show s.judge o = _; unfold State.judge; dsimp only
          rw [if_pos h1, show (decide (-max 1 (↑(s.fget (rTIDE_CFG 0) fTIDE_CFG_LOCK_NS) : Int) ≤ o ∧ o ≤ max 1 (↑(s.fget (rTIDE_CFG 0) fTIDE_CFG_LOCK_NS) : Int))) = true from decide_eq_true hn, if_neg (by decide), if_pos hl]
        have hm : moved = 2 := by show (if _ then _ else _) = 2; rw [if_pos h1, if_pos (by rw [decide_eq_true hn, decide_eq_true hl]; rfl)]
        obtain ⟨e1, e2, e3, e4, e5, e6, e7⟩ := he 2 (by decide) (by decide)
        rw [ht, hm]
        refine ⟨e1, ?_, e3, e5, e6, e7⟩
        rw [e2, if_neg (by omega), if_neg (by omega), if_neg (by omega)]
      · have ht : t = s.setTide { s.tide with locks := s.tide.locks + 1 } := by
          show s.judge o = _; unfold State.judge; dsimp only
          rw [if_pos h1, show (decide (-max 1 (↑(s.fget (rTIDE_CFG 0) fTIDE_CFG_LOCK_NS) : Int) ≤ o ∧ o ≤ max 1 (↑(s.fget (rTIDE_CFG 0) fTIDE_CFG_LOCK_NS) : Int))) = true from decide_eq_true hn, if_neg (by decide), if_neg hl]
        have hm : moved = 1 := by show (if _ then _ else _) = 1; rw [if_pos h1, if_neg (by rw [decide_eq_true hn, decide_eq_false hl]; decide)]
        rw [ht, hm]
        refine ⟨h1, ?_, fun _ _ => rfl, fun _ _ h => h, State.wordsBut_of_regs _ rfl, hwt _⟩
        rw [if_pos ⟨h1, decide_eq_true hn, rfl⟩]; rfl
    · have ht : t = s.setTide { s.tide with locks := 0 } := by
        show s.judge o = _; unfold State.judge; dsimp only
        rw [if_pos h1, show (decide (-max 1 (↑(s.fget (rTIDE_CFG 0) fTIDE_CFG_LOCK_NS) : Int) ≤ o ∧ o ≤ max 1 (↑(s.fget (rTIDE_CFG 0) fTIDE_CFG_LOCK_NS) : Int))) = false from decide_eq_false hn, if_pos (by decide)]
      have hm : moved = 1 := by show (if _ then _ else _) = 1; rw [if_pos h1, if_neg (by rw [decide_eq_false hn]; exact Bool.false_ne_true)]
      rw [ht, hm]
      refine ⟨h1, ?_, fun _ _ => rfl, fun _ _ h => h, State.wordsBut_of_regs _ rfl, hwt _⟩
      rw [if_neg (by rw [decide_eq_false hn]; rintro ⟨_, h, _⟩; exact absurd h (by decide)), if_neg (by omega)]; rfl
  · by_cases h2 : s.tideState = 2
    · by_cases ho : o < -(2 * lock) ∨ 2 * lock < o
      · have ht : t = s.enterTide 1 := by
          show s.judge o = _; unfold State.judge; dsimp only; rw [if_neg h1, if_pos h2, if_pos ho]
        have hm : moved = 1 := by show (if _ then _ else _) = 1; rw [if_neg h1, if_pos h2, if_pos ho]
        obtain ⟨e1, e2, e3, e4, e5, e6, e7⟩ := he 1 (by decide) (by decide)
        rw [ht, hm]
        refine ⟨e1, ?_, e3, e5, e6, e7⟩
        rw [e2, if_neg h1, if_neg (by omega), if_neg (by omega)]
      · have ht : t = s := by
          show s.judge o = _; unfold State.judge; dsimp only; rw [if_neg h1, if_pos h2, if_neg ho]
        have hm : moved = 2 := by show (if _ then _ else _) = 2; rw [if_neg h1, if_pos h2, if_neg ho]
        rw [ht, hm]
        refine ⟨h2, ?_, fun _ _ => rfl, fun _ _ h => h, State.wordsBut_refl _ _, Within.refl ..⟩
        rw [if_neg (by omega), if_pos ⟨h2, rfl⟩]
    · have ht : t = s.enterTide 1 := by
        show s.judge o = _; unfold State.judge; dsimp only; rw [if_neg h1, if_neg h2]
      have hm : moved = 1 := by show (if _ then _ else _) = 1; rw [if_neg h1, if_neg h2]
      obtain ⟨e1, e2, e3, e4, e5, e6, e7⟩ := he 1 (by decide) (by decide)
      rw [ht, hm]
      refine ⟨e1, ?_, e3, e5, e6, e7⟩
      rw [e2, if_neg h1, if_neg (by omega), if_neg (by omega)]

theorem State.storeRecord_regs (s : State) (r : MeterRec) : (s.storeRecord r).regs = s.regs := by
  unfold State.storeRecord
  split
  · rfl
  · dsimp only
    split
    · rfl
    · split <;> rfl

theorem State.recordInterval_regs (s : State) (n stop : Nat) (g : Bool) : (s.recordInterval n stop g).regs = s.regs := by
  unfold State.recordInterval
  split
  · exact State.storeRecord_regs ..
  · rfl

theorem State.checkpoint_none_regs (s : State) : (s.checkpoint [] []).regs = s.regs := rfl

/-- R313: what the close of an epoch leaves alone. -/
theorem State.closeEpoch_facts (s : State) : let t := s.closeEpoch
    t.tide = s.tide ∧ s.wordsBut t [rTALLY_EPOCH 0, rTALLY_EPOCH 0 + 4, rIRQ_RAW (PageKind.tallyCtl.addr 0)] ∧ Within [.regs, .agg, .tally, .fresh] s t := by
  have hw := State.closeEpoch_within s
  intro t
  refine ⟨hw.2 .tide rfl, ?_, hw⟩
  show s.wordsBut s.closeEpoch _
  unfold State.closeEpoch
  split
  · exact State.wordsBut_refl _ _
  · dsimp only
    refine State.wordsBut.irq (State.wordsBut.wr64 (State.wordsBut_of_regs _ ?_) (by simp) (by simp)) (by decide) (by simp [rIRQ_RAW])
    have hf : ∀ (L : SMap Interval) (u : State), (L.foldl (fun t x => t.recordInterval x.1 ((s.tally.epoch + 1) * 2 ^ 30) true) u).regs = u.regs := by
      intro L
      induction L with
      | nil => intro u; rfl
      | cons x L ih => intro u; rw [List.foldl_cons, ih, State.recordInterval_regs]
    split
    · exact (hf _ _).trans (State.checkpoint_none_regs s)
    · exact (hf _ _).trans (State.checkpoint_none_regs s)

/-- R292: what counting a step or a freeze does. -/
theorem State.countStep_facts (s : State) : let t := s.countStep
    t.tide = s.tide ∧ t.fget (rTIDE_STAT 0) fTIDE_STAT_STEPS = satInc 16 (s.fget (rTIDE_STAT 0) fTIDE_STAT_STEPS) ∧ t.tideState = s.tideState ∧
    (∀ f : Fld, 16 ≤ f.lo → f.lo + f.width ≤ 32 → t.fget (rTIDE_STAT 0) f = s.fget (rTIDE_STAT 0) f) ∧
    t.bit (rIRQ_RAW (PageKind.tideCtl.addr 0)) 1 = true ∧ s.wordsBut t [rTIDE_STAT 0, rIRQ_RAW (PageKind.tideCtl.addr 0)] ∧ Within [.regs, .agg, .tally] s t := by
  have hw : Within [.regs, .agg, .tally] s s.countStep := Within.mono (State.countStep_within s) rfl
  have hr : s.countStep.regs = ((s.finc (rTIDE_STAT 0) fTIDE_STAT_STEPS).irq (PageKind.tideCtl.addr 0) 1).regs := (State.flagIntervals_facts ..).1
  have hf : ∀ f : Fld, f.lo + f.width ≤ 32 → s.countStep.fget (rTIDE_STAT 0) f = (s.finc (rTIDE_STAT 0) fTIDE_STAT_STEPS).fget (rTIDE_STAT 0) f := fun f hf =>
    (State.fget_same hr _ _).trans (State.fget_wordsBut (State.wordsBut_irq (l := [PageKind.tideCtl.addr 0 + 0x010]) _ (by decide) (by simp)) _ (by decide) hf)
  have hk : ∀ f : Fld, 16 ≤ f.lo → f.lo + f.width ≤ 32 → s.countStep.fget (rTIDE_STAT 0) f = s.fget (rTIDE_STAT 0) f := by
    intro f h1 h2
    rw [hf f h2]; unfold State.finc
    exact State.fget_fset_apart _ _ _ _ (by decide) h2 (Or.inr h1)
  intro t
  refine ⟨hw.2 .tide rfl, ?_, hk _ (by decide) (by decide), hk, ?_, ?_, hw⟩
  · refine (hf _ (by decide)).trans ?_
    unfold State.finc
    rw [State.fget_fset_if _ _ _ _ (by decide), if_pos rfl]
    show satInc 16 (s.fget (rTIDE_STAT 0) fTIDE_STAT_STEPS) % 2 ^ 16 = satInc 16 _
    exact Nat.mod_eq_of_lt (by unfold satInc; split <;> omega)
  · refine (State.bit_same hr _ _).trans ?_
    show State.bit _ (PageKind.tideCtl.addr 0 + 0x010) 1 = true
    rw [State.bit_irq _ _ _ _ _ (by decide) (by decide)]; simp
  · exact State.wordsBut.regs (State.wordsBut.irq (State.wordsBut.finc (State.wordsBut_refl _ _) (by decide) (by simp)) (by decide) (by simp [rIRQ_RAW])) hr

/-- What the alarms leave of the Tide unit: the counter, and the exchange in progress. -/
def tideCore (x : Tide) : Nat × Option Nat × Option Nat × Option Nat := (x.now, x.t1, x.t2, x.t3)

theorem State.swapAlarms_now (s : State) (n a : Nat) : tideCore (s.swapAlarms n a).tide = tideCore s.tide := by
  unfold State.swapAlarms
  dsimp only
  rw [State.wr32_tide]
  rfl

theorem State.swapStart_now (s : State) (n a : Nat) (f g : Bool) : tideCore (s.swapStart n a f g).tide = tideCore s.tide := by
  unfold State.swapStart
  dsimp only
  rw [(State.closeInterval_within ..).2 .tide rfl, State.swapAlarms_now, (State.endGrantsOf_within ..).2 .tide rfl, (State.freeze_within ..).2 .tide rfl, (State.trace_within ..).2 .tide rfl,
    (State.wr64_within ..).2 .tide rfl, (State.fset_within ..).2 .tide rfl, (State.fset_within ..).2 .tide rfl, (State.setStallState_within ..).2 .tide rfl, (State.setStall_within ..).2 .tide rfl]

/-- R247: the strobe leaves the counter alone. -/
theorem State.strobe_now (s : State) (n : Nat) : tideCore (s.strobe n).tide = tideCore s.tide := by
  unfold State.strobe
  split
  · rfl
  · split
    · rw [State.swapStart_now, (State.disarmSwap_within ..).2 .tide rfl]
    · rw [(State.abandonSwap_within ..).2 .tide rfl]

theorem State.fireDevice_now (s : State) (k : Nat) (late : Bool) : tideCore (s.fireDevice k late).tide = tideCore s.tide := by
  have h1 : ∀ (u : State), u.tide = s.tide → ((u.fset (rALARM_STAT 0 k) fALARM_STAT_LATE (b2n late)).setBit (rALARM_FIRED_LO 0 + k / 32 * 4) (k % 32) true).tide = s.tide := by
    intro u h; rw [(State.setBit_within ..).2 .tide rfl, (State.fset_within ..).2 .tide rfl, h]
  have h2 : ∀ v : State, v.tide = s.tide → tideCore (if s.rd32 (rALARM_ACT 0 k) % 256 = 0 then v.irq (PageKind.tideAlarm.addr 0) 0 else if s.rd32 (rALARM_ACT 0 k) % 256 = 1 then v.strobe (k - 32) else v.schedIo (s.rd32 (rALARM_ACT 0 k) / 256 % 256)).tide = tideCore s.tide := by
    intro v h
    split
    · rw [(State.irq_within ..).2 .tide rfl, h]
    · split
      · rw [State.strobe_now, h]
      · rw [(State.schedIo_within ..).2 .tide rfl, h]
  unfold State.fireDevice
  refine h2 _ (h1 _ ?_)
  split
  · rw [(State.wr64_within ..).2 .tide rfl, (State.fset_within ..).2 .tide rfl]
  · rw [(State.wr64_within ..).2 .tide rfl]

theorem State.fireStall_now (s : State) (n j : Nat) (late : Bool) : tideCore (s.fireStall n j late).tide = tideCore s.tide := by
  have h2 : ∀ u : State, u.tide = s.tide → (((u.setBit (rSTALL_ALARM_CTL n) (12 + j) late).setBit (rSTALL_ALARM_CTL n) (8 + j) true).irq (PageKind.tideStall.addr n) 0).tide = s.tide := by
    intro u h; rw [(State.irq_within ..).2 .tide rfl, (State.setBit_within ..).2 .tide rfl, (State.setBit_within ..).2 .tide rfl, h]
  have h3 : ∀ v : State, v.tide = s.tide → tideCore (if v.bit (rSTALL_ALARM_CTL n) (16 + j) then v.setTide { v.tide with signals := smSet 0 v.tide.signals n (Nat.lor (smGet 0 v.tide.signals n) (2 ^ j)) } else v).tide = tideCore s.tide := by
    intro v h
    split
    · show tideCore v.tide = _; rw [h]
    · rw [h]
  unfold State.fireStall
  refine h3 _ (h2 _ ?_)
  split
  · rw [(State.setBit_within ..).2 .tide rfl]
  · rw [(State.wr64_within ..).2 .tide rfl]

theorem State.fireAlarm_now (s : State) (a : Nat) (late : Bool) : tideCore (s.fireAlarm a late).tide = tideCore s.tide := by
  unfold State.fireAlarm
  split
  · exact State.fireDevice_now ..
  · exact State.fireStall_now ..

theorem State.fireAll_now (k : Nat) : ∀ s : State, tideCore (State.fireAll k s).tide = tideCore s.tide := by
  induction k with
  | zero => intro s; rfl
  | succ k ih =>
    intro s
    unfold State.fireAll
    split
    · rfl
    · rw [ih, State.fireAlarm_now]

theorem State.fireAll_none (k : Nat) (s : State) (h : s.armedAlarms = []) : State.fireAll k s = s := by
  cases k with
  | zero => rfl
  | succ k =>
    unfold State.fireAll
    have : s.nextAlarm true = none := by unfold State.nextAlarm; rw [h]; rfl
    rw [this]

theorem State.armedAlarms_same {s t : State} (h1 : ∀ k, t.word (rALARM_STAT 0 k) = s.word (rALARM_STAT 0 k)) (h2 : ∀ n, t.word (rSTALL_ALARM_CTL n) = s.word (rSTALL_ALARM_CTL n))
    (h : s.armedAlarms = []) : t.armedAlarms = [] := by
  unfold State.armedAlarms at h ⊢
  obtain ⟨ha, hb⟩ := List.append_eq_nil_iff.mp h
  have e1 : (fun k => t.flag (rALARM_STAT 0 k) fALARM_STAT_ARMED) = fun k => s.flag (rALARM_STAT 0 k) fALARM_STAT_ARMED := by
    funext k; exact State.flag_of_word (h1 k) (by decide)
  have e2 : (fun i => t.bit (rSTALL_ALARM_CTL (i / 4)) (i % 4)) = fun i => s.bit (rSTALL_ALARM_CTL (i / 4)) (i % 4) := by
    funext i; exact State.bit_of_word _ (by omega) (h2 _)
  rw [e1, e2, List.map_eq_nil_iff.mp ha, List.map_eq_nil_iff.mp hb]
  rfl

/-- The registers whose words a sample may write when no alarm is armed. -/
def sampleWords : List Nat := [rTIDE_STAT 0, rIRQ_RAW (PageKind.tideCtl.addr 0), rTIDE_OFFSET 0, rTIDE_FREQ 0, rTALLY_EPOCH 0, rTALLY_EPOCH 0 + 4, rIRQ_RAW (PageKind.tallyCtl.addr 0)]

/-- R292: what applying an offset does. -/
theorem State.correct_facts (s : State) (src : Nat) (o : Int) :
    let t := s.correct src o
    let resync : Int := s.fget (rTIDE_CFG 0) fTIDE_CFG_RESYNC_NS
    let steps := fun (t : State) => t.fget (rTIDE_STAT 0) fTIDE_STAT_STEPS
    (-resync ≤ o → o ≤ resync → t.tide.now = s.tide.now ∧ t.tide.slew = o * 1000000000 ∧ t.tide.locks = s.tide.locks ∧ s.wordsBut t [rTIDE_FREQ 0]) ∧
    (resync < o → t.tide.now = (s.tide.now + o.toNat) % 2 ^ 64 ∧
      (s.armedAlarms = [] → t.tideState = s.tideState ∧ t.tide.slew = 0 ∧ steps t = satInc 16 (steps s) ∧ t.bit (rIRQ_RAW (PageKind.tideCtl.addr 0)) 1 = true ∧ t.word (rTIDE_OFFSET 0) = s.word (rTIDE_OFFSET 0))) ∧
    (o < -resync → t.tideState = s.tideState ∧ t.tide.now = s.tide.now ∧ t.tide.slew = 0 ∧ t.flag (rTIDE_STAT 0) fTIDE_STAT_FROZEN = true ∧ steps t = satInc 16 (steps s) ∧
      t.bit (rIRQ_RAW (PageKind.tideCtl.addr 0)) 1 = true ∧ t.word (rTIDE_OFFSET 0) = s.word (rTIDE_OFFSET 0)) ∧
    (t.tide.t1 = s.tide.t1 ∧ t.tide.t2 = s.tide.t2 ∧ t.tide.t3 = s.tide.t3) ∧
    (s.armedAlarms = [] ∨ o ≤ resync → ∀ f : Fld, 16 ≤ f.lo → f.lo + f.width ≤ 25 ∨ 26 ≤ f.lo → f.lo + f.width ≤ 32 → t.fget (rTIDE_STAT 0) f = s.fget (rTIDE_STAT 0) f) := by
  intro t resync steps
  obtain ⟨c1, c2, c3, c4, c5, c6, c7⟩ := State.countStep_facts s
  have hpos : (0 : Int) ≤ resync := Int.natCast_nonneg _
  by_cases hin : -resync ≤ o ∧ o ≤ resync
  · have h0 : ∃ u : State, u = s.updateFreq src (s.fget (rTIDE_CFG 0) fTIDE_CFG_REFCLK) o ∧ u.tide = s.tide ∧ s.wordsBut u [rTIDE_FREQ 0] := by
      refine ⟨_, rfl, (State.updateFreq_within ..).2 .tide rfl, ?_⟩
      unfold State.updateFreq
      split
      · split
        · exact State.wordsBut_wr32 _ _ (by simp)
        · exact State.wordsBut_refl _ _
      · exact State.wordsBut_refl _ _
    obtain ⟨u, hu, u1, u2⟩ := h0
    have ht : t = u.setTide { u.tide with slew := o * 1000000000, prev := some ⟨src, s.fget (rTIDE_CFG 0) fTIDE_CFG_REFCLK, o, 0, 0⟩ } := by
      show s.correct src o = _
      unfold State.correct; dsimp only; rw [if_pos hin, ← hu]
    have hx : ∀ x : Tide, (u.setTide x).tide = x := fun _ => rfl
    refine ⟨fun _ _ => ⟨?_, ?_, ?_, ?_⟩, fun h => absurd h (by omega), fun h => absurd h (by omega), ?_, ?_⟩
    · rw [ht, hx, u1]
    · rw [ht, hx]
    · rw [ht, hx, u1]
    · rw [ht]; exact State.wordsBut.regs u2 rfl
    · rw [ht, hx, u1]; exact ⟨rfl, rfl, rfl⟩
    · intro _ f _ _ h3; rw [ht]; exact State.fget_wordsBut u2 _ (by decide) h3
  · by_cases hst : resync < o
    · have h0 : ∃ u v : State, v = u.closeEpoch ∧ u = s.countStep.setTide { s.countStep.tide with last := s.countStep.tide.now, now := (s.countStep.tide.now + o.toNat) % 2 ^ 64, slew := 0, prev := some ⟨src, s.fget (rTIDE_CFG 0) fTIDE_CFG_REFCLK, 0, 0, 0⟩ } ∧
          u.tide = { s.tide with last := s.tide.now, now := (s.tide.now + o.toNat) % 2 ^ 64, slew := 0, prev := some ⟨src, s.fget (rTIDE_CFG 0) fTIDE_CFG_REFCLK, 0, 0, 0⟩ } ∧ u.regs = s.countStep.regs ∧ t = State.fireAll 192 v := by
        refine ⟨_, _, rfl, rfl, ?_, rfl, ?_⟩
        · rw [c1]; rfl
        · show s.correct src o = _
          unfold State.correct; dsimp only; rw [if_neg hin, if_pos hst]
      obtain ⟨u, v, hv, _, u1, u2, ht⟩ := h0
      obtain ⟨e1, e2, e3⟩ := State.closeEpoch_facts u
      rw [← hv] at e1 e2 e3
      have hcore : tideCore t.tide = ((s.tide.now + o.toNat) % 2 ^ 64, s.tide.t1, s.tide.t2, s.tide.t3) := by
        rw [ht, State.fireAll_now, e1, u1]; rfl
      have hp := Prod.mk.inj hcore
      have hp2 := Prod.mk.inj hp.2
      have hp3 := Prod.mk.inj hp2.2
      have hvw : s.wordsBut v sampleWords := by
        refine State.wordsBut_trans (State.wordsBut.regs (State.wordsBut_mono c6 ?_) u2) (State.wordsBut_mono e2 ?_) <;> simp [sampleWords]
      have hva : s.armedAlarms = [] → v.armedAlarms = [] := fun ha => State.armedAlarms_same (fun k => hvw _ (by unfold sampleWords rALARM_STAT rTIDE_STAT rIRQ_RAW rTIDE_OFFSET rTIDE_FREQ rTALLY_EPOCH; rw [addr_tideAlarm, addr_tideCtl, addr_tallyCtl]; simp; omega))
        (fun n => hvw _ (by unfold sampleWords rSTALL_ALARM_CTL rTIDE_STAT rIRQ_RAW rTIDE_OFFSET rTIDE_FREQ rTALLY_EPOCH; rw [addr_tideStall, addr_tideCtl, addr_tallyCtl]; simp; omega)) ha
      have htv : s.armedAlarms = [] → t = v := fun ha => ht.trans (State.fireAll_none _ _ (hva ha))
      have hst2 : ∀ f : Fld, f.lo + f.width ≤ 32 → v.fget (rTIDE_STAT 0) f = s.countStep.fget (rTIDE_STAT 0) f := fun f hf =>
        (State.fget_wordsBut e2 _ (by decide) hf).trans (State.fget_same u2 _ _)
      refine ⟨fun _ h => absurd h (by omega), fun _ => ⟨hp.1, ?_⟩, fun h => absurd h (by omega), ⟨hp2.1, hp3.1, hp3.2⟩, ?_⟩
      rotate_left
      · intro ha f f1 f2 f3
        have ha : s.armedAlarms = [] := by
          rcases ha with h | h
          · exact h
          · omega
        rw [htv ha, hst2 f f3]; exact c4 f f1 f3
      intro ha
      have htv := htv ha
      rw [htv]
      refine ⟨?_, ?_, ?_, ?_, ?_⟩
      · exact (hst2 _ (by decide)).trans c3
      · rw [e1, u1]
      · exact (hst2 _ (by decide)).trans c2
      · rw [State.bit_of_word 1 (by decide) (e2 _ (by decide)), State.bit_same u2]; exact c5
      · rw [e2 _ (by decide), State.word_same u2]; exact c6 _ (by decide)
    · have hlt : o < -resync := by omega
      have ht : t = (s.countStep.setTide { s.countStep.tide with slew := 0, prev := none }).fset (rTIDE_STAT 0) fTIDE_STAT_FROZEN 1 := by
        show s.correct src o = _
        unfold State.correct; dsimp only; rw [if_neg hin, if_neg hst]
      have htide : t.tide = { s.tide with slew := 0, prev := none } := by
        rw [ht, (State.fset_within ..).2 .tide rfl]; show { s.countStep.tide with slew := 0, prev := none } = _; rw [c1]
      have hr : (s.countStep.setTide { s.countStep.tide with slew := 0, prev := none }).regs = s.countStep.regs := rfl
      have hw : s.countStep.wordsBut t [rTIDE_STAT 0] := by rw [ht]; exact State.wordsBut.fset (State.wordsBut_of_regs _ hr) (by decide) (by simp)
      have hf : ∀ f : Fld, f.lo + f.width ≤ 32 → (f.lo + f.width ≤ 25 ∨ 26 ≤ f.lo) → t.fget (rTIDE_STAT 0) f = s.countStep.fget (rTIDE_STAT 0) f := by
        intro f h1 h2
        rw [ht, State.fget_fset_apart _ _ _ _ (by decide) h1 (show f.lo + f.width ≤ 25 ∨ 26 ≤ f.lo from h2), State.fget_same hr]
      refine ⟨fun h _ => absurd h (by omega), fun h => absurd h (by omega), fun _ => ⟨?_, ?_, ?_, ?_, ?_, ?_, ?_⟩, ?_, fun _ f f1 f2 f3 => (hf f f3 f2).trans (c4 f f1 f3)⟩
      · exact (hf _ (by decide) (by decide)).trans c3
      · rw [htide]
      · rw [htide]
      · rw [ht]; unfold State.flag; rw [State.fget_fset_if _ _ _ _ (by decide), if_pos rfl]; rfl
      · exact (hf _ (by decide) (by decide)).trans c2
      · rw [State.bit_of_word 1 (by decide) (hw _ (by decide))]; exact c5
      · rw [hw _ (by decide)]; exact c6 _ (by decide)
      · rw [htide]; exact ⟨rfl, rfl, rfl⟩

end Sys2Proof.Machine
end

