-- ==== Sys2Proof/Laws/TideStates.lean ====
section
/-! SUPPORT. Tide's states (R291–R294, R298): what abandoning the armed swaps, entering LOST and writing TIDE_CFG do. -/

namespace Sys2Proof.Machine

/-- R246: what abandoning one swap does. -/
theorem State.abandonSwap_facts (s : State) (n reason : Nat) : let t := s.abandonSwap n reason
    (t.stall n).armed = none ∧ (∀ m, m ≠ n → t.stall m = s.stall m) ∧
    t.tol.jobs = s.tol.jobs.map (fun j => if j.result.isNone && (decide (j.kind = .swapStall n) && (s.stall n).armed.isSome) then { j with result := some (ccABANDONED, reason) } else j) ∧
    (∀ a, a < 0xe000 → t.word a = s.word a) := by
  intro t
  cases h : (s.stall n).armed with
  | none =>
    have ht : t = s := by show s.abandonSwap n reason = s; unfold State.abandonSwap; rw [h]; exact if_pos rfl
    rw [ht]
    refine ⟨h, fun _ _ => rfl, ?_, fun _ _ => rfl⟩
    have : (fun j : Job => if j.result.isNone && (decide (j.kind = .swapStall n) && (none : Option (Nat × Bool)).isSome) then { j with result := some (ccABANDONED, reason) } else j) = id := by
      funext j; simp
    rw [this, List.map_id]
  | some x =>
    have ht : t = ((s.disarmSwap n).irq (PageKind.stall.addr n) 3).endJobs (fun j => decide (j.kind = .swapStall n)) ccABANDONED reason := by
      show s.abandonSwap n reason = _; unfold State.abandonSwap; rw [h]; exact if_neg Bool.false_ne_true
    obtain ⟨v, hv, v1, v2, v3⟩ : ∃ v, v = (s.disarmSwap n).irq (PageKind.stall.addr n) 3 ∧ v.tol = s.tol ∧ (∀ m, v.stall m = if m = n then { s.stall n with armed := none } else s.stall m) ∧ (∀ a, a < 0xe000 → v.word a = s.word a) := by
      have hi := State.irq_within (s.disarmSwap n) (PageKind.stall.addr n) 3
      refine ⟨_, rfl, (hi.2 .tol rfl).trans ((State.disarmSwap_within ..).2 .tol rfl), ?_, ?_⟩
      · intro m
        rw [State.stall_same (hi.2 .stalls rfl)]
        unfold State.disarmSwap
        dsimp only
        rw [State.stall_setStall]
        have hs : ∀ k, ((((s.fset (rALARM_STAT 0 (32 + n)) fALARM_STAT_ARMED 0).wr64 (rALARM_T 0 (32 + n)) 0).fset (rSTALL_STAT n) fSTALL_STAT_ARMED 0).wr64 (rSTALL_SWAP_AT n) 0).stall k = s.stall k := by
          intro k
          refine State.stall_same ?_ k
          rw [(State.wr64_within ..).2 .stalls rfl, (State.fset_within ..).2 .stalls rfl, (State.wr64_within ..).2 .stalls rfl, (State.fset_within ..).2 .stalls rfl]
        have hs2 : ∀ k, (((s.fset (rALARM_STAT 0 (32 + n)) fALARM_STAT_ARMED 0).wr64 (rALARM_T 0 (32 + n)) 0).fset (rSTALL_STAT n) fSTALL_STAT_ARMED 0).stall k = s.stall k := by
          intro k
          refine State.stall_same ?_ k
          rw [(State.fset_within ..).2 .stalls rfl, (State.wr64_within ..).2 .stalls rfl, (State.fset_within ..).2 .stalls rfl]
        rw [hs, hs2]
      · intro a ha
        have hx : (s.disarmSwap n).word a = s.word a := by
          unfold State.disarmSwap
          dsimp only
          refine (State.word_same (s := (((s.fset (rALARM_STAT 0 (32 + n)) fALARM_STAT_ARMED 0).wr64 (rALARM_T 0 (32 + n)) 0).fset (rSTALL_STAT n) fSTALL_STAT_ARMED 0).wr64 (rSTALL_SWAP_AT n) 0) rfl a).trans ?_
          have hw : s.wordsBut ((((s.fset (rALARM_STAT 0 (32 + n)) fALARM_STAT_ARMED 0).wr64 (rALARM_T 0 (32 + n)) 0).fset (rSTALL_STAT n) fSTALL_STAT_ARMED 0).wr64 (rSTALL_SWAP_AT n) 0)
              [rALARM_STAT 0 (32 + n), rALARM_T 0 (32 + n), rALARM_T 0 (32 + n) + 4, rSTALL_STAT n, rSTALL_SWAP_AT n, rSTALL_SWAP_AT n + 4] :=
            State.wordsBut.wr64 (State.wordsBut.fset (State.wordsBut.wr64 (State.wordsBut_fset _ _ (by decide) (by simp)) (by simp) (by simp)) (by decide) (by simp)) (by simp) (by simp)
          refine hw a ?_
          unfold rALARM_STAT rALARM_T rSTALL_STAT rSTALL_SWAP_AT
          rw [addr_tideAlarm, addr_stall]
          simp; omega
        rw [State.wordsBut_irq (l := [PageKind.stall.addr n + 0x010]) (s.disarmSwap n) (by decide) (by simp) a (by rw [addr_stall]; simp; omega), hx]
    rw [ht, ← hv]
    refine ⟨?_, ?_, ?_, fun a ha => v3 a ha⟩
    · rw [State.stall_endJobs, v2, if_pos rfl]
    · intro m hm; rw [State.stall_endJobs, v2, if_neg hm]
    · show List.map _ v.tol.jobs = _
      rw [v1]
      apply List.map_congr_left
      intro j _
      have hb : (decide (j.kind = .swapStall n) && j.result.isNone) = (j.result.isNone && (decide (j.kind = .swapStall n) && (some x).isSome)) := by
        rw [show (some x).isSome = true from rfl, Bool.and_true, Bool.and_comm]
      show (if (decide (j.kind = .swapStall n) && j.result.isNone) = true then _ else _) = _
      rw [hb]

/-- R298: what abandoning every armed swap does. -/
theorem State.abandonFold_facts (reason : Nat) (L : List Nat) : ∀ s : State, L.Nodup → let t := L.foldl (fun t n => t.abandonSwap n reason) s
    (∀ n ∈ L, (t.stall n).armed = none) ∧ (∀ n, n ∉ L → t.stall n = s.stall n) ∧
    t.tol.jobs = s.tol.jobs.map (fun j => if j.result.isNone && L.any (fun n => decide (j.kind = .swapStall n) && (s.stall n).armed.isSome) then { j with result := some (ccABANDONED, reason) } else j) ∧
    (∀ a, a < 0xe000 → t.word a = s.word a) := by
  induction L with
  | nil =>
    intro s _ t
    refine ⟨fun n h => absurd h (by simp), fun _ _ => rfl, ?_, fun _ _ => rfl⟩
    have : (fun j : Job => if j.result.isNone && ([] : List Nat).any (fun n => decide (j.kind = .swapStall n) && (s.stall n).armed.isSome) then { j with result := some (ccABANDONED, reason) } else j) = id := by
      funext j; simp
    rw [this, List.map_id]; rfl
  | cons a L ih =>
    intro s hn t
    obtain ⟨ha, hL⟩ := List.nodup_cons.mp hn
    obtain ⟨f1, f2, f3, f4⟩ := State.abandonSwap_facts s a reason
    obtain ⟨g1, g2, g3, g4⟩ := ih (s.abandonSwap a reason) hL
    refine ⟨?_, ?_, ?_, fun x hx => (g4 x hx).trans (f4 x hx)⟩
    · intro n hm
      rcases List.mem_cons.mp hm with rfl | hm
      · exact (congrArg Stall.armed (g2 n ha)).trans f1
      · exact g1 n hm
    · intro n hm
      rw [List.mem_cons, not_or] at hm
      exact (g2 n hm.2).trans (f2 n hm.1)
    · refine g3.trans ?_
      rw [f3, List.map_map]
      apply List.map_congr_left
      intro j _
      have hany : L.any (fun n => decide (j.kind = .swapStall n) && ((s.abandonSwap a reason).stall n).armed.isSome) = L.any (fun n => decide (j.kind = .swapStall n) && (s.stall n).armed.isSome) := by
        rw [Bool.eq_iff_iff, List.any_eq_true, List.any_eq_true]
        constructor
        · rintro ⟨n, hn, hh⟩; exact ⟨n, hn, by rw [f2 n (fun e => ha (e ▸ hn))] at hh; exact hh⟩
        · rintro ⟨n, hn, hh⟩; exact ⟨n, hn, by rw [f2 n (fun e => ha (e ▸ hn))]; exact hh⟩
      have key : ∀ j1 : Job, j1 = (if (j.result.isNone && (decide (j.kind = .swapStall a) && (s.stall a).armed.isSome)) = true then { j with result := some (ccABANDONED, reason) } else j) →
          (if j1.result.isNone && L.any (fun n => decide (j1.kind = .swapStall n) && ((s.abandonSwap a reason).stall n).armed.isSome) then { j1 with result := some (ccABANDONED, reason) } else j1)
            = if j.result.isNone && (a :: L).any (fun n => decide (j.kind = .swapStall n) && (s.stall n).armed.isSome) then { j with result := some (ccABANDONED, reason) } else j := by
        intro j1 e
        rw [List.any_cons]
        by_cases hr : j.result.isNone = true
        · by_cases hc : (decide (j.kind = .swapStall a) && (s.stall a).armed.isSome) = true
          · rw [if_pos (by rw [hr, hc]; rfl)] at e
            subst e
            rw [if_neg (by dsimp only; rw [show (some (ccABANDONED, reason)).isNone = false from rfl, Bool.false_and]; exact Bool.false_ne_true), if_pos (by rw [hr, hc]; rfl)]
          · have hc' := Bool.eq_false_iff.mpr hc
            rw [if_neg (by rw [hc', Bool.and_false]; exact Bool.false_ne_true)] at e
            subst e
            rw [hany, hc', Bool.false_or]
        · have hr' := Bool.eq_false_iff.mpr hr
          rw [if_neg (by rw [hr', Bool.false_and]; exact Bool.false_ne_true)] at e
          subst e
          rw [hany, hr', Bool.false_and, Bool.false_and]
      exact key _ rfl

/-- R291, R298: what entering LOST does. -/
theorem State.enterLost_facts (s : State) (h4 : s.tideState ≠ 4) : let t := s.enterTide 4
    t.tideState = 4 ∧ t.tide = { s.tide with locks := 0 } ∧
    (∀ f, statKept f → t.fget (rTIDE_STAT 0) f = s.fget (rTIDE_STAT 0) f) ∧ t.bit (rIRQ_RAW (PageKind.tideCtl.addr 0)) 0 = true ∧
    t.bit (rIRQ_RAW (PageKind.tideCtl.addr 0)) 2 = true ∧ (∀ n, n < 32 → (t.stall n).armed = none) ∧
    t.tol.jobs = s.tol.jobs.map (fun j => if j.result.isNone && (List.range 32).any (fun n => decide (j.kind = .swapStall n) && (s.stall n).armed.isSome) then { j with result := some (ccABANDONED, 3) } else j) ∧
    (∀ a, a < 0xe000 → a ≠ rTIDE_STAT 0 → a ≠ rIRQ_RAW (PageKind.tideCtl.addr 0) → t.word a = s.word a) := by
  have h1 : ∃ u, u = (s.fset (rTIDE_STAT 0) fTIDE_STAT_STATE 4).irq (PageKind.tideCtl.addr 0) 0 ∧ u.tideState = 4 ∧ u.tide = s.tide ∧ u.stalls = s.stalls ∧ u.tol = s.tol ∧ (∀ f, statKept f → u.fget (rTIDE_STAT 0) f = s.fget (rTIDE_STAT 0) f) ∧
      u.bit (rIRQ_RAW (PageKind.tideCtl.addr 0)) 0 = true ∧ s.wordsBut u [rTIDE_STAT 0, rIRQ_RAW (PageKind.tideCtl.addr 0)] := by
    have hw : Within [.regs, .agg] s ((s.fset (rTIDE_STAT 0) fTIDE_STAT_STATE 4).irq (PageKind.tideCtl.addr 0) 0) := Within.via (State.irq_within ..) rfl (Within.mono (State.fset_within ..) rfl)
    have hf : ∀ f : Fld, f.lo + f.width ≤ 32 → ((s.fset (rTIDE_STAT 0) fTIDE_STAT_STATE 4).irq (PageKind.tideCtl.addr 0) 0).fget (rTIDE_STAT 0) f = (s.fset (rTIDE_STAT 0) fTIDE_STAT_STATE 4).fget (rTIDE_STAT 0) f := fun f hf =>
      State.fget_wordsBut (State.wordsBut_irq (l := [PageKind.tideCtl.addr 0 + 0x010]) _ (by decide) (by simp)) _ (by decide) hf
    refine ⟨_, rfl, ?_, hw.2 .tide rfl, hw.2 .stalls rfl, hw.2 .tol rfl, ?_, ?_, ?_⟩
    · unfold State.tideState; rw [hf _ (by decide), State.fget_fset_if _ _ _ _ (by decide), if_pos rfl]; rfl
    · intro f hk
      rw [hf _ (by unfold statKept at hk; omega), State.fget_fset_apart _ _ _ _ (by decide) (by unfold statKept at hk; omega) (by unfold statKept at hk; show f.lo + f.width ≤ 29 ∨ 32 ≤ f.lo; omega)]
    · show State.bit _ (PageKind.tideCtl.addr 0 + 0x010) 0 = true
      rw [State.bit_irq _ _ _ _ _ (by decide) (by decide)]; simp
    · exact State.wordsBut.irq (State.wordsBut_fset _ _ (by decide) (by simp)) (by decide) (by simp [rIRQ_RAW])
  obtain ⟨u, hu, u1, u2, u3, u4, u5, u6, u7⟩ := h1
  obtain ⟨r1, r2, r3, r4, r5⟩ := State.updateRoot_facts u
  have h2 : ∃ v, v = u.updateRoot.setTide { u.updateRoot.tide with locks := 0 } ∧ v.regs = u.updateRoot.regs ∧ v.tide = { s.tide with locks := 0 } ∧ v.stalls = s.stalls ∧ v.tol = s.tol := by
    refine ⟨_, rfl, rfl, ?_, (r5.2 .stalls rfl).trans u3, (r5.2 .tol rfl).trans u4⟩
    show { u.updateRoot.tide with locks := 0 } = _
    rw [r2, u2]
  obtain ⟨v, hv, v1, v2, v3, v4⟩ := h2
  obtain ⟨w, hw, w1, w2, w3, w5, w6⟩ : ∃ w, w = v.irq (PageKind.tideCtl.addr 0) 2 ∧ w.tide = v.tide ∧ w.stalls = v.stalls ∧ w.tol = v.tol ∧
      (∀ k, k < 32 → w.bit (rIRQ_RAW (PageKind.tideCtl.addr 0)) k = (k == 2 || v.bit (rIRQ_RAW (PageKind.tideCtl.addr 0)) k)) ∧ v.wordsBut w [rIRQ_RAW (PageKind.tideCtl.addr 0)] := by
    have hi := State.irq_within v (PageKind.tideCtl.addr 0) 2
    refine ⟨_, rfl, hi.2 .tide rfl, hi.2 .stalls rfl, hi.2 .tol rfl, ?_, State.wordsBut_irq _ (by decide) (by simp [rIRQ_RAW])⟩
    intro k hk
    show State.bit _ (PageKind.tideCtl.addr 0 + 0x010) k = _
    rw [State.bit_irq _ _ _ _ _ (by decide) hk]
    by_cases h : k = 2
    · subst h; simp
    · rw [show (k == 2) = false by simp [h], Bool.false_or]
      exact if_neg (by simp; omega)
  have hx : s.enterTide 4 = w.abandonSwaps := by
    unfold State.enterTide; rw [if_neg h4]; dsimp only; rw [if_pos rfl, ← hu, ← hv, ← hw]
  obtain ⟨a1, a2, a3, a4⟩ := State.abandonFold_facts 3 (List.range 32) w List.nodup_range
  intro t
  have ht : t = (List.range 32).foldl (fun t n => t.abandonSwap n 3) w := hx
  rw [ht]
  have hb : ∀ k, k < 32 → State.bit ((List.range 32).foldl (fun t n => t.abandonSwap n 3) w) (rIRQ_RAW (PageKind.tideCtl.addr 0)) k = w.bit (rIRQ_RAW (PageKind.tideCtl.addr 0)) k := fun k hk =>
    State.bit_of_word k hk (a4 _ (by decide))
  have hf : ∀ f : Fld, f.lo + f.width ≤ 32 → State.fget ((List.range 32).foldl (fun t n => t.abandonSwap n 3) w) (rTIDE_STAT 0) f = u.updateRoot.fget (rTIDE_STAT 0) f := by
    intro f hf
    refine (State.fget_of_word (rTIDE_STAT 0) (a4 _ (by decide)) hf).trans ?_
    refine (State.fget_wordsBut w6 _ (by decide) hf).trans ?_
    exact State.fget_same v1 _ _
  have htd : State.tide ((List.range 32).foldl (fun t n => t.abandonSwap n 3) w) = w.tide :=
    (State.abandonSwaps_within w).2 .tide rfl
  have hs : ∀ n, w.stall n = s.stall n := fun n => State.stall_same (w2.trans v3) n
  refine ⟨?_, ?_, ?_, ?_, ?_, ?_, ?_, ?_⟩
  · unfold State.tideState; rw [hf _ (by decide)]; exact r1.trans u1
  · rw [htd, w1, v2]
  · intro f hk; rw [hf _ (by unfold statKept at hk; omega), r3 f hk, u5 f hk]
  · rw [hb 0 (by decide), w5 0 (by decide), State.bit_same v1, State.bit_of_word 0 (by decide) (r4 _ (by decide)), u6]; rfl
  · rw [hb 2 (by decide), w5 2 (by decide)]; rfl
  · intro n hn; exact a1 n (List.mem_range.mpr hn)
  · rw [a3, w3, v4]
    simp only [hs]
  · intro a ha h1 h2
    rw [a4 a ha, w6 a (by simp; exact h2), State.word_same v1, r4 a (by simp; exact h1), u7 a (by simp; exact ⟨h1, h2⟩)]

/-- R292, R293: what a write of TIDE_CFG does. -/
theorem State.tideCfgWrite_facts (s : State) (v : Nat) (hv : v < 2 ^ 32) : let t := s.tideCfgWrite v
    let old := s.fget (rTIDE_CFG 0) fTIDE_CFG_REFCLK
    let new := fTIDE_CFG_REFCLK.get v
    let clocked := s.bit (rREF_STAT 0) (4 + new)
    t.rd32 (rTIDE_CFG 0) = v / 16 * 16 + new ∧ (∀ f, statKept f → t.fget (rTIDE_STAT 0) f = s.fget (rTIDE_STAT 0) f) ∧
    t.tide.now = s.tide.now ∧ t.tide.slew = s.tide.slew ∧ (new = old → t.tide = s.tide ∧ t.tideState = s.tideState) ∧
    (new ≠ old → t.tide.pairLost = !clocked ∧ (s.tideState = 0 → t.tideState = 0) ∧
      (s.tideState ≠ 0 → clocked = true → t.tideState = 3) ∧ (s.tideState ≠ 0 → clocked = false → t.tideState = 4)) := by
  intro t old new clocked
  have hn : new < 4 := Fld.get_lt _ _
  obtain ⟨u, hu, u1, u2, u3, u4⟩ : ∃ u, u = s.wr32 (rTIDE_CFG 0) (v / 16 * 16 + new) ∧ u.rd32 (rTIDE_CFG 0) = v / 16 * 16 + new ∧ s.wordsBut u [rTIDE_CFG 0] ∧ u.tide = s.tide ∧ u.tideState = s.tideState := by
    have hb := State.wordsBut_wr32 (a := rTIDE_CFG 0) (l := [rTIDE_CFG 0]) s (v / 16 * 16 + new) (by simp)
    refine ⟨_, rfl, ?_, hb, (State.wr32_within ..).2 .tide rfl, State.fget_wordsBut hb _ (by decide) (by decide)⟩
    rw [State.rd32_wr32]; omega
  have hst : ∀ f, statKept f → u.fget (rTIDE_STAT 0) f = s.fget (rTIDE_STAT 0) f := fun f hf => State.fget_wordsBut u2 _ (by decide) (by unfold statKept at hf; omega)
  have hcl : u.bit (rREF_STAT 0) (4 + new) = clocked := State.bit_of_word _ (by omega) (u2 _ (by decide))
  by_cases h : new = old
  · have ht : t = u := by show s.tideCfgWrite v = u; unfold State.tideCfgWrite; dsimp only; exact (if_pos h).trans hu.symm
    rw [ht]
    exact ⟨u1, hst, by rw [u3], by rw [u3], fun _ => ⟨u3, u4⟩, fun hh => absurd h hh⟩
  · obtain ⟨w, hw, w1, w2⟩ : ∃ w, w = u.setTide { u.tide with pairLost := !clocked } ∧ w.regs = u.regs ∧ w.tide = { s.tide with pairLost := !clocked } := ⟨_, rfl, rfl, by rw [u3]; rfl⟩
    have wst : w.tideState = s.tideState := (State.fget_same w1 _ _).trans u4
    have ht : t = if w.tideState = 0 then w else w.enterTide (if !clocked then 4 else 3) := by
      show s.tideCfgWrite v = _; unfold State.tideCfgWrite; dsimp only
      rw [← hu]
      refine (if_neg h).trans ?_
      rw [show (u.bit (rREF_STAT 0) (4 + fTIDE_CFG_REFCLK.get v)) = clocked from hcl, ← hw]
    by_cases h0 : s.tideState = 0
    · rw [wst, if_pos h0] at ht
      rw [ht]
      refine ⟨(State.rd32_same w1 _).trans u1, fun f hf => (State.fget_same w1 _ _).trans (hst f hf), by rw [w2], by rw [w2], fun hh => absurd hh h, fun _ => ⟨by rw [w2], fun _ => wst.trans h0, fun hh => absurd h0 hh, fun hh => absurd h0 hh⟩⟩
    · rw [wst, if_neg h0] at ht
      cases hk : clocked with
      | true =>
        rw [hk, if_neg (by decide)] at ht
        obtain ⟨e1, e2, e3, e4, e5, e6, e7⟩ := State.enterTide_facts w 3 (by decide) (by decide)
        rw [ht]
        refine ⟨?_, fun f hf => (e3 f hf).trans ((State.fget_same w1 _ _).trans (hst f hf)), by rw [e2, w2], by rw [e2, w2], fun hh => absurd hh h, fun _ => ⟨by rw [e2, w2, hk], fun hh => absurd hh h0, fun _ _ => e1, fun _ hh => absurd hh (by decide)⟩⟩
        exact (congrArg BitVec.toNat (e6 _ (by decide))).trans ((State.rd32_same w1 _).trans u1)
      | false =>
        rw [hk, if_pos (by decide)] at ht
        by_cases h4 : w.tideState = 4
        · have hx : w.enterTide 4 = w := by unfold State.enterTide; exact if_pos h4
          rw [hx] at ht
          rw [ht]
          exact ⟨(State.rd32_same w1 _).trans u1, fun f hf => (State.fget_same w1 _ _).trans (hst f hf), by rw [w2], by rw [w2], fun hh => absurd hh h, fun _ => ⟨by rw [w2, hk], fun hh => absurd hh h0, fun _ hh => absurd hh (by decide), fun _ _ => h4⟩⟩
        · obtain ⟨e1, e2, e3, e4, e5, e6, e7, e8⟩ := State.enterLost_facts w h4
          rw [ht]
          refine ⟨?_, fun f hf => (e3 f hf).trans ((State.fget_same w1 _ _).trans (hst f hf)), by rw [e2, w2], by rw [e2, w2], fun hh => absurd hh h, fun _ => ⟨by rw [e2, w2, hk], fun hh => absurd hh h0, fun _ hh => absurd hh (by decide), fun _ _ => e1⟩⟩
          exact (congrArg BitVec.toNat (e8 _ (by decide) (by decide) (by decide))).trans ((State.rd32_same w1 _).trans u1)

end Sys2Proof.Machine
end

