-- ==== Sys2Proof/Laws/AlarmCommands.lean ====
section
/-! SUPPORT. Alarms (R295–R299): what one firing does, and a write of STALL_ALARM_CTL alarm by alarm. -/

namespace Sys2Proof.Machine

/-- A set bit taken out of a number. -/
theorem testBit_sub_pow (x j : Nat) : let y := x - (if x.testBit j then 2 ^ j else 0)
    y.testBit j = false ∧ ∀ i, i ≠ j → y.testBit i = x.testBit i := by
  intro y
  have hy : y = Fld.set ⟨j, 1⟩ x 0 := by
    have hp : 0 < 2 ^ j := Nat.two_pow_pos _
    show x - (if x.testBit j then 2 ^ j else 0) = x % 2 ^ j + 0 % 2 ^ 1 * 2 ^ j + x / 2 ^ (j + 1) * 2 ^ (j + 1)
    have h1 := Nat.div_add_mod x (2 ^ j)
    have h2 : x / 2 ^ (j + 1) = x / 2 ^ j / 2 := by rw [Nat.pow_succ, Nat.div_div_eq_div_mul]
    have h3 := Nat.div_add_mod (x / 2 ^ j) 2
    have h4 : x / 2 ^ j / 2 * 2 ^ (j + 1) = 2 ^ j * (2 * (x / 2 ^ j / 2)) := by rw [Nat.pow_succ]; simp only [Nat.mul_comm, Nat.mul_left_comm, Nat.mul_assoc]
    rw [h2, h4, Nat.testBit_eq_decide_div_mod_eq]
    have h5 : 2 ^ j * (x / 2 ^ j) = 2 ^ j * (2 * (x / 2 ^ j / 2)) + 2 ^ j * (x / 2 ^ j % 2) := by rw [← Nat.mul_add, h3]
    by_cases h : x / 2 ^ j % 2 = 1
    · rw [h] at h5
      simp [h]; omega
    · have : x / 2 ^ j % 2 = 0 := by omega
      rw [this] at h5
      simp [h]; omega
  rw [hy]
  constructor
  · rw [Nat.testBit_eq_decide_div_mod_eq]
    have := Fld.get_set ⟨j, 1⟩ x 0
    unfold Fld.get at this
    dsimp only at this
    rw [show (2 : Nat) ^ 1 = 2 from rfl] at this
    rw [this]; rfl
  · intro i hi; exact Fld.testBit_set _ _ _ _ (by dsimp only; omega)

/-- R295, R296: device alarm k fires with the event alone. -/
theorem State.fireDevice_event (s : State) (k : Nat) (hk : k < 64) (hc : s.rd32 (rALARM_ACT 0 k) % 256 = 0) : let t := s.fireDevice k false
    let per := s.rd32 (rALARM_ACT 0 k) / 65536 * 1000
    let at_ := rALARM_T 0 k
    t.bit (rALARM_FIRED_LO 0 + k / 32 * 4) (k % 32) = true ∧ t.flag (rALARM_STAT 0 k) fALARM_STAT_LATE = false ∧ t.bit (rIRQ_RAW (PageKind.tideAlarm.addr 0)) 0 = true ∧
    (per = 0 → t.flag (rALARM_STAT 0 k) fALARM_STAT_ARMED = false ∧ t.rd64 at_ = 0) ∧
    (per ≠ 0 → t.flag (rALARM_STAT 0 k) fALARM_STAT_ARMED = s.flag (rALARM_STAT 0 k) fALARM_STAT_ARMED ∧ t.rd64 at_ = nextPeriod (s.rd64 at_) per s.tide.now % 2 ^ 64) ∧
    s.wordsBut t [rALARM_FIRED_LO 0 + k / 32 * 4, rALARM_STAT 0 k, at_, at_ + 4, rIRQ_RAW (PageKind.tideAlarm.addr 0)] ∧ Within [.regs, .agg] s t := by
  intro t per at_
  have hd : at_ ≠ rALARM_STAT 0 k ∧ at_ + 4 ≠ rALARM_STAT 0 k := by show rALARM_T 0 k ≠ _ ∧ rALARM_T 0 k + 4 ≠ _; unfold rALARM_T rALARM_STAT; omega
  obtain ⟨u, hu, u1, u2, u3, u4⟩ : ∃ u, u = (if per = 0 then (s.fset (rALARM_STAT 0 k) fALARM_STAT_ARMED 0).wr64 (rALARM_T 0 k) 0 else s.wr64 (rALARM_T 0 k) (nextPeriod (s.rd64 at_) per s.tide.now)) ∧
      (per = 0 → u.flag (rALARM_STAT 0 k) fALARM_STAT_ARMED = false ∧ u.rd64 at_ = 0) ∧
      (per ≠ 0 → u.flag (rALARM_STAT 0 k) fALARM_STAT_ARMED = s.flag (rALARM_STAT 0 k) fALARM_STAT_ARMED ∧ u.rd64 at_ = nextPeriod (s.rd64 at_) per s.tide.now % 2 ^ 64) ∧
      s.wordsBut u [rALARM_STAT 0 k, at_, at_ + 4] ∧ Within [.regs, .agg] s u := by
    refine ⟨_, rfl, ?_, ?_, ?_, ?_⟩
    · intro h; rw [if_pos h]
      refine ⟨?_, ?_⟩
      · unfold State.flag
        rw [State.fget_wordsBut (State.wordsBut_wr64 (l := [at_, at_ + 4]) _ _ (by simp [at_]) (by simp [at_])) _ (by simp; omega) (by decide), State.fget_fset_if _ _ _ _ (by decide), if_pos rfl]; rfl
      · exact State.rd64_wr64 _ _ _
    · intro h; rw [if_neg h]
      refine ⟨?_, ?_⟩
      · unfold State.flag
        rw [State.fget_wordsBut (State.wordsBut_wr64 (l := [at_, at_ + 4]) _ _ (by simp [at_]) (by simp [at_])) _ (by simp; omega) (by decide)]
      · exact State.rd64_wr64 _ _ _
    · split
      · exact State.wordsBut.wr64 (State.wordsBut_fset _ _ (by decide) (by simp)) (by simp [at_]) (by simp [at_])
      · exact State.wordsBut_wr64 _ _ (by simp [at_]) (by simp [at_])
    · split
      · exact Within.via (State.wr64_within ..) rfl (Within.mono (State.fset_within ..) rfl)
      · exact Within.mono (State.wr64_within ..) rfl
  have ht : t = ((u.fset (rALARM_STAT 0 k) fALARM_STAT_LATE 0).setBit (rALARM_FIRED_LO 0 + k / 32 * 4) (k % 32) true).irq (PageKind.tideAlarm.addr 0) 0 := by
    show s.fireDevice k false = _
    unfold State.fireDevice; dsimp only
    rw [if_pos hc, hu]; rfl
  have hw : u.wordsBut t [rALARM_FIRED_LO 0 + k / 32 * 4, rALARM_STAT 0 k, rIRQ_RAW (PageKind.tideAlarm.addr 0)] := by
    rw [ht]
    exact State.wordsBut.irq (State.wordsBut.setBit (State.wordsBut_fset _ _ (by decide) (by simp)) (by omega) (by simp)) (by decide) (by simp [rIRQ_RAW])
  have h64 : t.rd64 at_ = u.rd64 at_ := by
    unfold State.rd64 State.rd32
    have hne : ∀ x, (x = at_ ∨ x = at_ + 4) → t.word x = u.word x := by
      intro x hx
      apply hw
      simp only [List.contains_eq_mem, List.mem_cons, List.not_mem_nil, or_false, decide_eq_false_iff_not, not_or]
      have h1 : at_ = PageKind.tideAlarm.addr 0 + 0x108 + 0x10 * k := rfl
      unfold rALARM_FIRED_LO rALARM_STAT rIRQ_RAW
      rw [addr_tideAlarm] at h1 ⊢
      omega
    rw [hne _ (Or.inl rfl), hne _ (Or.inr rfl)]
  have hst : ∀ f : Fld, f.lo + f.width ≤ 32 → t.fget (rALARM_STAT 0 k) f = (u.fset (rALARM_STAT 0 k) fALARM_STAT_LATE 0).fget (rALARM_STAT 0 k) f := by
    intro f hf
    rw [ht]
    refine State.fget_wordsBut (l := [rALARM_FIRED_LO 0 + k / 32 * 4, rIRQ_RAW (PageKind.tideAlarm.addr 0)]) (State.wordsBut.irq (State.wordsBut_setBit _ _ (by omega) (by simp)) (by decide) (by simp [rIRQ_RAW])) _ ?_ hf
    simp only [List.contains_eq_mem, List.mem_cons, List.not_mem_nil, or_false, decide_eq_false_iff_not, not_or]
    unfold rALARM_FIRED_LO rALARM_STAT rIRQ_RAW
    rw [addr_tideAlarm]
    omega
  have harm : t.flag (rALARM_STAT 0 k) fALARM_STAT_ARMED = u.flag (rALARM_STAT 0 k) fALARM_STAT_ARMED := by
    unfold State.flag; rw [hst _ (by decide), State.fget_fset_apart _ _ _ _ (by decide) (by decide) (by decide)]
  refine ⟨?_, ?_, ?_, ?_, ?_, ?_, ?_⟩
  · rw [ht, State.bit_irq _ _ _ _ _ (by decide) (by omega)]
    split
    · rfl
    · rw [State.bit_setBit_if _ _ _ _ _ _ (by omega) (by omega), if_pos ⟨rfl, rfl⟩]
  · unfold State.flag; rw [hst _ (by decide), State.fget_fset_if _ _ _ _ (by decide), if_pos rfl]; rfl
  · rw [ht, State.bit_irq _ _ _ _ _ (by decide) (by decide), if_pos ⟨rfl, rfl⟩]
  · intro h; rw [harm, h64]; exact u1 h
  · intro h; rw [harm, h64]; exact u2 h
  · exact State.wordsBut_trans (State.wordsBut_mono u3 (by simp)) (State.wordsBut_mono hw (by simp))
  · rw [ht]
    exact Within.via (State.irq_within ..) rfl (Within.via (State.setBit_within ..) rfl (Within.via (State.fset_within ..) rfl u4))

/-- R295, R299: stall alarm j of stall n fires. -/
theorem State.fireStall_facts (s : State) (n j : Nat) (hj : j < 4) : let t := s.fireStall n j false
    let per := smGet 0 s.tide.periods (4 * n + j) * 1000
    let at_ := rSTALL_ALARM_T n j
    let c := rSTALL_ALARM_CTL n
    t.bit c (8 + j) = true ∧ t.bit c (12 + j) = false ∧ t.bit (rIRQ_RAW (PageKind.tideStall.addr n)) 0 = true ∧
    (per = 0 → t.bit c j = false ∧ t.rd64 at_ = s.rd64 at_) ∧ (per ≠ 0 → t.bit c j = s.bit c j ∧ t.rd64 at_ = nextPeriod (s.rd64 at_) per s.tide.now % 2 ^ 64) ∧
    (∀ i, i < 32 → i ≠ j → i ≠ 8 + j → i ≠ 12 + j → t.bit c i = s.bit c i) ∧
    t.tide = (if s.bit c (16 + j) then { s.tide with signals := smSet 0 s.tide.signals n (Nat.lor (smGet 0 s.tide.signals n) (2 ^ j)) } else s.tide) ∧
    s.wordsBut t [c, at_, at_ + 4, rIRQ_RAW (PageKind.tideStall.addr n)] ∧ Within [.regs, .agg, .tide] s t := by
  intro t per at_ c
  have hnc : c = PageKind.tideStall.addr n + 0x040 := rfl
  have hna : at_ = PageKind.tideStall.addr n + 0x080 + 0x8 * j := rfl
  obtain ⟨u, hu, u1, u2, u3, u4⟩ : ∃ u, u = (if per = 0 then s.setBit c j false else s.wr64 at_ (nextPeriod (s.rd64 at_) per s.tide.now)) ∧
      (∀ i, i < 32 → u.bit c i = if per = 0 ∧ i = j then false else s.bit c i) ∧
      u.rd64 at_ = (if per = 0 then s.rd64 at_ else nextPeriod (s.rd64 at_) per s.tide.now % 2 ^ 64) ∧
      s.wordsBut u [c, at_, at_ + 4] ∧ Within [.regs, .agg] s u := by
    refine ⟨_, rfl, ?_, ?_, ?_, ?_⟩
    · intro i hi
      by_cases h : per = 0
      · rw [if_pos h, State.bit_setBit_if _ _ _ _ _ _ (by omega) hi]
        by_cases h2 : i = j
        · rw [if_pos ⟨rfl, h2⟩, if_pos ⟨h, h2⟩]
        · rw [if_neg (fun hh => h2 hh.2), if_neg (fun hh => h2 hh.2)]
      · rw [if_neg h, if_neg (fun hh => h hh.1)]
        exact State.bit_wordsBut (State.wordsBut_wr64 (l := [at_, at_ + 4]) _ _ (by simp) (by simp)) _ _ (by simp; omega) hi
    · by_cases h : per = 0
      · rw [if_pos h, if_pos h]
        unfold State.rd64 State.rd32
        have hw := State.wordsBut_setBit (a := c) (k := j) (l := [c]) s false (by omega) (by simp)
        rw [hw _ (by simp; omega), hw _ (by simp; omega)]
      · rw [if_neg h, if_neg h]; exact State.rd64_wr64 _ _ _
    · split
      · exact State.wordsBut_setBit _ _ (by omega) (by simp)
      · exact State.wordsBut_wr64 _ _ (by simp) (by simp)
    · split
      · exact Within.mono (State.setBit_within ..) rfl
      · exact Within.mono (State.wr64_within ..) rfl
  obtain ⟨v, hv, v1, v2, v3, v4⟩ : ∃ v, v = ((u.setBit c (12 + j) false).setBit c (8 + j) true).irq (PageKind.tideStall.addr n) 0 ∧
      (∀ i, i < 32 → v.bit c i = if i = 8 + j then true else if i = 12 + j then false else u.bit c i) ∧ v.bit (rIRQ_RAW (PageKind.tideStall.addr n)) 0 = true ∧
      u.wordsBut v [c, rIRQ_RAW (PageKind.tideStall.addr n)] ∧ Within [.regs, .agg] s v := by
    refine ⟨_, rfl, ?_, ?_, ?_, ?_⟩
    · intro i hi
      rw [State.bit_irq _ _ _ _ _ (by decide) hi, if_neg (by omega), State.bit_setBit_if _ _ _ _ _ _ (by omega) hi, State.bit_setBit_if _ _ _ _ _ _ (by omega) hi]
      by_cases h1 : i = 8 + j
      · rw [if_pos ⟨rfl, h1⟩, if_pos h1]
      · rw [if_neg (fun hh => h1 hh.2), if_neg h1]
        by_cases h2 : i = 12 + j
        · rw [if_pos ⟨rfl, h2⟩, if_pos h2]
        · rw [if_neg (fun hh => h2 hh.2), if_neg h2]
    · show State.bit _ (PageKind.tideStall.addr n + 0x010) 0 = true
      rw [State.bit_irq _ _ _ _ _ (by decide) (by decide), if_pos ⟨rfl, rfl⟩]
    · exact State.wordsBut.irq (State.wordsBut.setBit (State.wordsBut_setBit _ _ (by omega) (by simp)) (by omega) (by simp)) (by decide) (by simp [rIRQ_RAW])
    · exact Within.via (State.irq_within ..) rfl (Within.via (State.setBit_within ..) rfl (Within.via (State.setBit_within ..) rfl u4))
  have hsig : v.bit c (16 + j) = s.bit c (16 + j) := by
    rw [v1 _ (by omega), if_neg (by omega), if_neg (by omega), u1 _ (by omega), if_neg (by omega)]
  have htd : v.tide = s.tide := v4.2 .tide rfl
  have ht : t = if s.bit c (16 + j) then v.setTide { v.tide with signals := smSet 0 v.tide.signals n (Nat.lor (smGet 0 v.tide.signals n) (2 ^ j)) } else v := by
    show s.fireStall n j false = _
    unfold State.fireStall; dsimp only
    rw [← hsig, hv, hu]
  have hr : t.regs = v.regs := by rw [ht]; split <;> rfl
  have hb : ∀ i, i < 32 → t.bit c i = if i = 8 + j then true else if i = 12 + j then false else if per = 0 ∧ i = j then false else s.bit c i := by
    intro i hi; rw [State.bit_same hr, v1 i hi, u1 i hi]
  have h64 : t.rd64 at_ = u.rd64 at_ := by
    rw [State.rd64_same hr]
    unfold State.rd64 State.rd32
    rw [v3 _ (by simp [rIRQ_RAW]; omega), v3 _ (by simp [rIRQ_RAW]; omega)]
  refine ⟨?_, ?_, ?_, ?_, ?_, ?_, ?_, ?_, ?_⟩
  · rw [hb _ (by omega), if_pos rfl]
  · rw [hb _ (by omega), if_neg (by omega), if_pos rfl]
  · rw [State.bit_same hr]; exact v2
  · intro h; rw [hb _ (by omega), if_neg (by omega), if_neg (by omega), if_pos ⟨h, rfl⟩, h64, u2, if_pos h]; exact ⟨rfl, rfl⟩
  · intro h; rw [hb _ (by omega), if_neg (by omega), if_neg (by omega), if_neg (fun hh => h hh.1), h64, u2, if_neg h]; exact ⟨rfl, rfl⟩
  · intro i hi h1 h2 h3; rw [hb _ hi, if_neg h2, if_neg h3, if_neg (fun hh => h1 hh.2)]
  · rw [ht]
    by_cases h : s.bit c (16 + j) = true
    · rw [if_pos h, if_pos h, ← htd]; rfl
    · rw [if_neg h, if_neg h, htd]
  · exact State.wordsBut.regs (State.wordsBut_trans (State.wordsBut_mono u3 (by simp)) (State.wordsBut_mono v3 (by simp))) hr
  · rw [ht]; split
    · exact Within.via (State.setTide_within ..) rfl (Within.mono v4 rfl)
    · exact Within.mono v4 rfl

/-- One alarm's part of a write of STALL_ALARM_CTL (R299). -/
def alarmOne (n v : Nat) (x : State × Bool) (j : Nat) : State × Bool :=
  let c := rSTALL_ALARM_CTL n
  let t := x.1
  let t := if v.testBit (8 + j) then
      (t.setBit c (8 + j) false).setTide { t.tide with signals := smSet 0 t.tide.signals n (smGet 0 t.tide.signals n - (if (smGet 0 t.tide.signals n).testBit j then 2 ^ j else 0)) }
    else t
  let armed := t.bit c j
  let arm := v.testBit j
  let disarm := v.testBit (4 + j)
  let newSig := v.testBit (16 + j) != t.bit c (16 + j)
  if arm && disarm then (t, true)
  else if armed then
    if newSig then (t, true)
    else if disarm then (t.setBit c j false, x.2)
    else (t, x.2)
  else if arm && (decide (t.tideState = 0) || decide (t.rd64 (rSTALL_ALARM_T n j) ≤ t.tide.now + 1000)) then (t, true)
  else
    let t1 := t.setBit c (16 + j) (v.testBit (16 + j))
    if arm then ((t1.setBit c j true).setTide { t1.tide with periods := smSet 0 t1.tide.periods (4 * n + j) 0 }, x.2) else (t1, x.2)

theorem State.stallAlarmWrite_eq (s : State) (req : Req) (n v : Nat) : s.stallAlarmWrite req n v =
    let r := (List.range 4).foldl (alarmOne n v) (s, false)
    if r.2 then r.1.refuse req (rSTALL_ALARM_CTL n) causeRule else r.1 := rfl

/-- The alarms' bits as they were. -/
def sameAlarms (n : Nat) (s t : State) : Prop :=
  (∀ i, i < 32 → t.bit (rSTALL_ALARM_CTL n) i = s.bit (rSTALL_ALARM_CTL n) i) ∧ t.tide = s.tide ∧ s.wordsBut t [rSTALL_ALARM_CTL n] ∧ Within [.regs, .agg] s t

/-- An alarm that a write does not concern stays as it is. -/
theorem alarmOne_idle (n v : Nat) (x : State × Bool) (k : Nat) (hk : k < 4) (h1 : v.testBit k = false) (h2 : v.testBit (4 + k) = false) (h3 : v.testBit (8 + k) = false)
    (h4 : v.testBit (16 + k) = x.1.bit (rSTALL_ALARM_CTL n) (16 + k)) : (alarmOne n v x k).2 = x.2 ∧ sameAlarms n x.1 (alarmOne n v x k).1 := by
  have hx : alarmOne n v x k = if x.1.bit (rSTALL_ALARM_CTL n) k then x else (x.1.setBit (rSTALL_ALARM_CTL n) (16 + k) (v.testBit (16 + k)), x.2) := by
    unfold alarmOne; dsimp only
    rw [h1, h2, h3, if_neg Bool.false_ne_true, h4, Bool.false_and, if_neg Bool.false_ne_true]
    simp
  rw [hx]
  split
  · exact ⟨rfl, fun _ _ => rfl, rfl, State.wordsBut_refl _ _, Within.refl ..⟩
  · refine ⟨rfl, ?_, (State.setBit_within ..).2 .tide rfl, State.wordsBut_setBit _ _ (by omega) (by simp), Within.mono (State.setBit_within ..) rfl⟩
    intro i hi
    rw [State.bit_setBit_if _ _ _ _ _ _ (by omega) hi]
    split
    · rename_i h; rw [h.2, h4]
    · rfl

/-- The alarms that a write does not concern, one after the other. -/
theorem alarmIdle (n v : Nat) (L : List Nat) : ∀ x : State × Bool, (∀ k ∈ L, k < 4 ∧ v.testBit k = false ∧ v.testBit (4 + k) = false ∧ v.testBit (8 + k) = false ∧ v.testBit (16 + k) = x.1.bit (rSTALL_ALARM_CTL n) (16 + k)) →
    (L.foldl (alarmOne n v) x).2 = x.2 ∧ sameAlarms n x.1 (L.foldl (alarmOne n v) x).1 := by
  induction L with
  | nil => intro x _; exact ⟨rfl, fun _ _ => rfl, rfl, State.wordsBut_refl _ _, Within.refl ..⟩
  | cons a L ih =>
    intro x h
    obtain ⟨a0, a1, a2, a3, a4⟩ := h a (List.mem_cons_self ..)
    obtain ⟨f1, f2, f3, f4, f5⟩ := alarmOne_idle n v x a a0 a1 a2 a3 a4
    obtain ⟨g1, g2, g3, g4, g5⟩ := ih (alarmOne n v x a) (by
      intro k hk
      obtain ⟨b0, b1, b2, b3, b4⟩ := h k (List.mem_cons_of_mem _ hk)
      exact ⟨b0, b1, b2, b3, b4.trans (f2 _ (by omega)).symm⟩)
    exact ⟨g1.trans f1, fun i hi => (g2 i hi).trans (f2 i hi), g3.trans f3, State.wordsBut_trans f4 g4, Within.via g5 rfl f5⟩

/-- A write of STALL_ALARM_CTL that concerns alarm j alone. -/
theorem alarmFold (n v j : Nat) (hj : j < 4) (s : State) (hv : ∀ k, k < 4 → k ≠ j → v.testBit k = false ∧ v.testBit (4 + k) = false ∧ v.testBit (8 + k) = false ∧ v.testBit (16 + k) = s.bit (rSTALL_ALARM_CTL n) (16 + k)) :
    ∃ u : State, sameAlarms n s u ∧ ((∀ k, k < 4 → k ≠ j → (alarmOne n v (u, false) j).1.bit (rSTALL_ALARM_CTL n) (16 + k) = u.bit (rSTALL_ALARM_CTL n) (16 + k)) →
      ∃ w : State, sameAlarms n (alarmOne n v (u, false) j).1 w ∧ (List.range 4).foldl (alarmOne n v) (s, false) = (w, (alarmOne n v (u, false) j).2)) := by
  have hL : ∃ L1 L2, List.range 4 = L1 ++ j :: L2 ∧ (∀ k ∈ L1, k < 4 ∧ k ≠ j) ∧ (∀ k ∈ L2, k < 4 ∧ k ≠ j) := by
    have : j = 0 ∨ j = 1 ∨ j = 2 ∨ j = 3 := by omega
    rcases this with rfl | rfl | rfl | rfl
    · exact ⟨[], [1, 2, 3], rfl, by simp, by simp⟩
    · exact ⟨[0], [2, 3], rfl, by simp, by simp⟩
    · exact ⟨[0, 1], [3], rfl, by simp, by simp⟩
    · exact ⟨[0, 1, 2], [], rfl, by simp, by simp⟩
  obtain ⟨L1, L2, hr, h1, h2⟩ := hL
  obtain ⟨f1, f2⟩ := alarmIdle n v L1 (s, false) (fun k hk => ⟨(h1 k hk).1, hv k (h1 k hk).1 (h1 k hk).2⟩)
  refine ⟨(L1.foldl (alarmOne n v) (s, false)).1, f2, ?_⟩
  intro hb
  have hu : L1.foldl (alarmOne n v) (s, false) = ((L1.foldl (alarmOne n v) (s, false)).1, false) := Prod.ext rfl f1
  generalize hU : (L1.foldl (alarmOne n v) (s, false)).1 = u at *
  obtain ⟨g1, g2⟩ := alarmIdle n v L2 (alarmOne n v (u, false) j) (by
    intro k hk
    obtain ⟨b1, b2, b3, b4⟩ := hv k (h2 k hk).1 (h2 k hk).2
    refine ⟨(h2 k hk).1, b1, b2, b3, ?_⟩
    rw [hb k (h2 k hk).1 (h2 k hk).2]
    exact b4.trans (f2.1 _ (by have := (h2 k hk).1; omega)).symm)
  refine ⟨(L2.foldl (alarmOne n v) (alarmOne n v (u, false) j)).1, g2, ?_⟩
  rw [hr, List.foldl_append, List.foldl_cons, hu]
  exact Prod.ext rfl g1

/-- The words that ARM, DISARM and FIRED write (R299). -/
theorem armBits : ∀ m < 16, ∀ j < 4, ∀ b : Bool, ∀ k < 4, let v := Fld.set ⟨16 + j, 1⟩ (m * 2 ^ 16) (b2n b) + 2 ^ j
    v.testBit k = decide (k = j) ∧ v.testBit (4 + k) = false ∧ v.testBit (8 + k) = false ∧ v.testBit (16 + k) = if k = j then b else m.testBit k := by decide +kernel

theorem disarmBits : ∀ m < 16, ∀ j < 4, ∀ k < 4, let v := m * 2 ^ 16 + 2 ^ (4 + j)
    v.testBit k = false ∧ v.testBit (4 + k) = decide (k = j) ∧ v.testBit (8 + k) = false ∧ v.testBit (16 + k) = m.testBit k := by decide +kernel

theorem firedBits : ∀ m < 16, ∀ j < 4, ∀ k < 4, let v := m * 2 ^ 16 + 2 ^ (8 + j)
    v.testBit k = false ∧ v.testBit (4 + k) = false ∧ v.testBit (8 + k) = decide (k = j) ∧ v.testBit (16 + k) = m.testBit k := by decide +kernel

theorem State.signal_testBit (s : State) (n k : Nat) (hk : k < 4) : (s.fget (rSTALL_ALARM_CTL n) fSTALL_ALARM_CTL_SIGNAL).testBit k = s.bit (rSTALL_ALARM_CTL n) (16 + k) := by
  unfold State.bit State.flag
  rw [State.fget_word _ _ (by decide), State.fget_word _ _ (show (16 + k) + 1 ≤ 32 by omega)]
  unfold Fld.get
  show Nat.testBit (s.rd32 (rSTALL_ALARM_CTL n) / 2 ^ 16 % 2 ^ 4) k = decide (s.rd32 (rSTALL_ALARM_CTL n) / 2 ^ (16 + k) % 2 ^ 1 = 1)
  rw [Nat.testBit_mod_two_pow, decide_eq_true hk, Bool.true_and, Nat.testBit_eq_decide_div_mod_eq, Nat.div_div_eq_div_mul, ← Nat.pow_add]
  try rfl

/-- R299: a write of STALL_ALARM_CTL. -/
theorem State.putReg_stallAlarm (s : State) (req : Req) (n v : Nat) (hv : req.valid = true) (hn : n < 32) (ht : s.takes req .tideStall n 0x040 = true) :
    s.putReg req (rSTALL_ALARM_CTL n) v = (s.setViewBuf req (PageKind.tideStall.addr n) ViewBuf.empty).stallAlarmWrite req n v := by
  refine (State.putReg_body s req .tideStall v hv (r := ⟨0x040, [], false, [⟨19,16,.rw,0⟩,⟨15,12,.ro,0⟩,⟨11,8,.w1c,0⟩,⟨7,4,.wo,0⟩,⟨3,0,.w1s,0⟩]⟩) hn (by omega) (by omega) (by omega) (by simp) ht rfl rfl).trans ?_
  unfold State.bodyWrite; dsimp only; rw [if_pos rfl]

theorem State.bit_testBit (s : State) (a k : Nat) (hk : k < 32) : s.bit a k = (s.rd32 a).testBit k := by
  unfold State.bit State.flag
  rw [State.fget_word _ _ (show k + 1 ≤ 32 by omega)]
  unfold Fld.get
  rw [Nat.testBit_eq_decide_div_mod_eq]; rfl

/-- A word whose bits are the same is the same. -/
theorem State.word_of_bits {s t : State} (a : Nat) (h : ∀ i, i < 32 → t.bit a i = s.bit a i) : t.word a = s.word a := by
  rw [State.word_eq_iff]
  apply Nat.eq_of_testBit_eq
  intro i
  by_cases hi : i < 32
  · rw [← State.bit_testBit _ _ _ hi, ← State.bit_testBit _ _ _ hi, h i hi]
  · have h1 := State.rd32_lt t a
    have h2 := State.rd32_lt s a
    have h3 : 2 ^ 32 ≤ 2 ^ i := Nat.pow_le_pow_right (by decide) (by omega)
    rw [Nat.testBit_lt_two_pow (by omega), Nat.testBit_lt_two_pow (by omega)]

end Sys2Proof.Machine
end

