-- ==== Sys2Proof/Laws/DebugWords.lean ====
section
/-! SUPPORT. Debug and trace leave the registers below the yards' pages alone; what the end of a grant does (R442). -/

namespace Sys2Proof.Machine

/-- The words below the yards' pages are the same. -/
def lowWords (s t : State) : Prop := ∀ a, a < 0x01000000 → t.word a = s.word a

theorem lowWords.refl (s : State) : lowWords s s := fun _ _ => rfl

theorem lowWords.trans {s t u : State} (h : lowWords s t) (g : lowWords t u) : lowWords s u := fun a ha => (g a ha).trans (h a ha)

theorem lowWords.of_regs {s t : State} (h : t.regs = s.regs) : lowWords s t := fun a _ => State.word_same h a

theorem lowWords.of_but {s t : State} {l : List Nat} (h : s.wordsBut t l) (hl : ∀ a ∈ l, 0x01000000 ≤ a) : lowWords s t := by
  intro a ha
  refine h a ?_
  simp only [List.contains_eq_mem, decide_eq_false_iff_not]
  intro hm; have := hl a hm; omega

theorem lowWords.fset (s : State) (a : Nat) (f : Fld) (v : Nat) (hf : f.lo + f.width ≤ 32) (ha : 0x01000000 ≤ a) : lowWords s (s.fset a f v) :=
  .of_but (l := [a]) (State.wordsBut_fset _ _ hf (by simp)) (by simpa using ha)

theorem lowWords.wr32 (s : State) (a v : Nat) (ha : 0x01000000 ≤ a) : lowWords s (s.wr32 a v) :=
  .of_but (l := [a]) (State.wordsBut_wr32 s v (by simp)) (by simpa using ha)

theorem lowWords.wr64 (s : State) (a v : Nat) (ha : 0x01000000 ≤ a) : lowWords s (s.wr64 a v) :=
  .of_but (l := [a, a + 4]) (State.wordsBut_wr64 s v (by simp) (by simp)) (by intro b hb; simp at hb; omega)

theorem lowWords.finc (s : State) (a : Nat) (f : Fld) (hf : f.lo + f.width ≤ 32) (ha : 0x01000000 ≤ a) : lowWords s (s.finc a f) :=
  .of_but (l := [a]) (State.wordsBut_finc _ hf (by simp)) (by simpa using ha)

theorem lowWords.irq (s : State) (p k : Nat) (hk : k < 32) (ha : 0x01000000 ≤ p) : lowWords s (s.irq p k) :=
  .of_but (l := [p + 0x010]) (State.wordsBut_irq _ hk (by simp)) (by intro b hb; simp at hb; omega)

theorem lowWords.foldl {α : Type} {f : State → α → State} (L : List α) (h : ∀ t x, x ∈ L → lowWords t (f t x)) : ∀ s, lowWords s (L.foldl f s) := by
  induction L with
  | nil => intro s; exact .refl s
  | cons a L ih => intro s; exact (h s a (List.mem_cons_self ..)).trans (ih (fun t x hx => h t x (List.mem_cons_of_mem _ hx)) _)

theorem lowWords.setDbg (s : State) (x : Dbg) : lowWords s (s.setDbg x) := lowWords.of_regs rfl

theorem lowWords.setEddy (s : State) (m : Nat) (x : Eddy) : lowWords s (s.setEddy m x) := lowWords.of_regs rfl

theorem addr_dbgSess_high (n : Nat) : 0x0c000000 ≤ PageKind.dbgSess.addr n := Nat.le_add_right_of_le (Nat.le_add_right_of_le (Nat.le_refl _))

theorem addr_dbgRing_high (n : Nat) : 0x0c010000 ≤ PageKind.dbgRing.addr n := Nat.le_add_right_of_le (Nat.le_add_right_of_le (Nat.le_refl _))

theorem addr_dbgEddy_high (n : Nat) : 0x0c100000 ≤ PageKind.dbgEddy.addr n := Nat.le_add_right_of_le (Nat.le_add_right_of_le (Nat.le_refl _))

theorem addr_shedCfg_high (n : Nat) : 0x01006000 ≤ PageKind.shedCfg.addr n := Nat.le_add_right_of_le (Nat.le_add_right_of_le (Nat.le_refl _))

theorem State.ringPush_low (s : State) (r e : Nat) : lowWords s (s.ringPush r e) := by
  unfold State.ringPush
  dsimp only
  have h := addr_dbgRing_high r
  split
  · split
    · exact ((lowWords.setDbg _ _).trans (lowWords.fset _ _ _ _ (by decide) (by unfold rRING_STAT; omega))).trans (lowWords.irq _ _ _ (by decide) (by omega))
    · exact (lowWords.setDbg _ _).trans (lowWords.fset _ _ _ _ (by decide) (by unfold rRING_STAT; omega))
  · split
    · exact lowWords.setDbg _ _
    · exact lowWords.finc _ _ _ (by decide) (by unfold rRING_STAT; omega)

theorem State.trace_low (s : State) (n e : Nat) : lowWords s (s.trace n e) :=
  lowWords.foldl _ (fun t r _ => by split; exact State.ringPush_low _ _ _; exact .refl _) s

theorem State.traceEngine_low (s : State) (m kind pc wp addr data : Nat) : lowWords s (s.traceEngine m kind pc wp addr data) := by
  unfold State.traceEngine
  split
  · exact State.trace_low _ _ _
  · exact .refl _

theorem State.releaseEngine_low (s : State) (m steps : Nat) : lowWords s (s.releaseEngine m steps) := by
  unfold State.releaseEngine
  dsimp only
  split
  · exact .refl _
  · have h := addr_dbgEddy_high m
    exact (((lowWords.setEddy _ _ _).trans (lowWords.setDbg _ _)).trans (lowWords.fset _ _ _ _ (by decide) (by unfold rDBG_E_STAT; omega))).trans (State.traceEngine_low _ _ _ _ _ _ _)

theorem State.releaseAll_low (s : State) (v : Nat) : lowWords s (s.releaseAll v) := by
  unfold State.releaseAll
  dsimp only
  refine lowWords.trans (lowWords.trans (lowWords.foldl _ ?_ s) (lowWords.setDbg _ _)) (lowWords.foldl _ ?_ _)
  · intro t m _
    have h := addr_dbgEddy_high m
    split
    · exact State.releaseEngine_low _ _ _
    · exact (lowWords.setEddy _ _ _).trans (lowWords.fset _ _ _ _ (by decide) (by unfold rDBG_E_STAT; omega))
  · intro t m _
    have h := addr_dbgEddy_high m
    split
    · exact lowWords.fset _ _ _ _ (by decide) (by unfold rDBG_E_STAT; omega)
    · exact .refl _

theorem State.captureEnd_low (s : State) (v : Nat) : lowWords s (s.captureEnd v) := by
  unfold State.captureEnd
  have h := addr_dbgSess_high v
  split
  · exact .refl _
  · dsimp only
    split
    · refine lowWords.trans ((lowWords.setDbg _ _).trans (lowWords.fset _ _ _ _ (by decide) (by unfold rCAP_STAT; omega))) (lowWords.foldl _ ?_ _)
      intro t sh _
      have := addr_shedCfg_high sh
      exact lowWords.fset _ _ _ _ (by decide) (by unfold rPLANE_STAT; omega)
    · exact (lowWords.setDbg _ _).trans (lowWords.fset _ _ _ _ (by decide) (by unfold rCAP_STAT; omega))

theorem State.disarmView_low (s : State) (v : Nat) : lowWords s (s.disarmView v) := by
  unfold State.disarmView
  dsimp only
  refine lowWords.trans (lowWords.foldl _ ?_ s) (lowWords.setDbg _ _)
  intro t k _
  have h := addr_dbgEddy_high (k / 4)
  exact lowWords.fset _ _ _ _ (by decide) (by unfold rWP_CFG; omega)

theorem State.ringFree_low (s : State) (r : Nat) : lowWords s (s.ringFree r) := by
  unfold State.ringFree
  have h := addr_dbgRing_high r
  exact ((lowWords.setDbg _ _).trans (lowWords.fset _ _ _ _ (by decide) (by unfold rRING_CTL; omega))).trans (lowWords.fset _ _ _ _ (by decide) (by unfold rRING_STAT; omega))

theorem State.zeroAreas_low (s : State) (v : Nat) : lowWords s (s.zeroAreas v) := by
  unfold State.zeroAreas
  have h := addr_dbgSess_high v
  exact (lowWords.setDbg _ _).trans (lowWords.fset _ _ _ _ (by decide) (by unfold rCAP_STAT; omega))

/-- R442: what the end of a grant does to the registers of the grant, and that nothing below the yards' pages moves. -/
theorem State.endGrant_facts (s : State) (v : Nat) : let t := s.endGrant v
    lowWords s t ∧ (s.flag (rDBG_GRANT v) fDBG_GRANT_VALID = false → t = s) ∧
    (s.flag (rDBG_GRANT v) fDBG_GRANT_VALID = true → t.rd32 (rDBG_GRANT v) = 0 ∧ t.rd32 (rDBG_STALLS v) = 0 ∧ t.rd64 (rDBG_NAFTER v) = 0 ∧ t.bit (rIRQ_RAW (PageKind.dbgSess.addr v)) 0 = true) := by
  intro t
  have h := addr_dbgSess_high v
  by_cases hg : s.flag (rDBG_GRANT v) fDBG_GRANT_VALID = true
  · obtain ⟨u, hu, u1⟩ : ∃ u, u = (((List.range 8).foldl (fun t r => if smGet 0 t.dbg.ringView r = v + 1 then t.ringFree r else t) (((s.releaseAll v).captureEnd v).disarmView v)).zeroAreas v).fset (rCAP_CTL v) fCAP_CTL_ARM 0 ∧ lowWords s u := by
      refine ⟨_, rfl, ?_⟩
      refine lowWords.trans (lowWords.trans (lowWords.trans (lowWords.trans (lowWords.trans (State.releaseAll_low s v) (State.captureEnd_low _ _)) (State.disarmView_low _ _)) (lowWords.foldl _ ?_ _)) (State.zeroAreas_low _ _)) (lowWords.fset _ _ _ _ (by decide) (by unfold rCAP_CTL; omega))
      intro t r _
      split
      · exact State.ringFree_low _ _
      · exact .refl _
    have ht : t = (((u.wr32 (rDBG_GRANT v) 0).wr32 (rDBG_STALLS v) 0).wr64 (rDBG_NAFTER v) 0).irq (PageKind.dbgSess.addr v) 0 := by
      show s.endGrant v = _
      unfold State.endGrant; rw [if_pos hg, hu]
    have hl : lowWords s t := by
      rw [ht]
      exact (((u1.trans (lowWords.wr32 _ _ _ (by unfold rDBG_GRANT; omega))).trans (lowWords.wr32 _ _ _ (by unfold rDBG_STALLS; omega))).trans (lowWords.wr64 _ _ _ (by unfold rDBG_NAFTER; omega))).trans (lowWords.irq _ _ _ (by decide) (by omega))
    refine ⟨hl, fun hh => absurd (hg.symm.trans hh) (by decide), fun _ => ⟨?_, ?_, ?_, ?_⟩⟩
    · rw [ht]
      have : State.wordsBut (u.wr32 (rDBG_GRANT v) 0) ((((u.wr32 (rDBG_GRANT v) 0).wr32 (rDBG_STALLS v) 0).wr64 (rDBG_NAFTER v) 0).irq (PageKind.dbgSess.addr v) 0) [rDBG_STALLS v, rDBG_NAFTER v, rDBG_NAFTER v + 4, PageKind.dbgSess.addr v + 0x010] :=
        State.wordsBut.irq (State.wordsBut.wr64 (State.wordsBut_wr32 _ _ (by simp)) (by simp) (by simp)) (by decide) (by simp)
      exact (congrArg BitVec.toNat (this (rDBG_GRANT v) (by unfold rDBG_GRANT rDBG_STALLS rDBG_NAFTER; simp))).trans (State.rd32_wr32 ..)
    · rw [ht]
      have : State.wordsBut ((u.wr32 (rDBG_GRANT v) 0).wr32 (rDBG_STALLS v) 0) ((((u.wr32 (rDBG_GRANT v) 0).wr32 (rDBG_STALLS v) 0).wr64 (rDBG_NAFTER v) 0).irq (PageKind.dbgSess.addr v) 0) [rDBG_NAFTER v, rDBG_NAFTER v + 4, PageKind.dbgSess.addr v + 0x010] :=
        State.wordsBut.irq (State.wordsBut_wr64 _ _ (by simp) (by simp)) (by decide) (by simp)
      exact (congrArg BitVec.toNat (this (rDBG_STALLS v) (by unfold rDBG_STALLS rDBG_NAFTER; simp))).trans (State.rd32_wr32 ..)
    · rw [ht]
      have : State.wordsBut (((u.wr32 (rDBG_GRANT v) 0).wr32 (rDBG_STALLS v) 0).wr64 (rDBG_NAFTER v) 0) ((((u.wr32 (rDBG_GRANT v) 0).wr32 (rDBG_STALLS v) 0).wr64 (rDBG_NAFTER v) 0).irq (PageKind.dbgSess.addr v) 0) [PageKind.dbgSess.addr v + 0x010] :=
        State.wordsBut_irq _ (by decide) (by simp)
      refine Eq.trans ?_ (State.rd64_wr64 ((u.wr32 (rDBG_GRANT v) 0).wr32 (rDBG_STALLS v) 0) (rDBG_NAFTER v) 0)
      unfold State.rd64 State.rd32
      rw [this _ (by unfold rDBG_NAFTER; simp), this _ (by unfold rDBG_NAFTER; simp)]
    · rw [ht]
      show State.bit _ (PageKind.dbgSess.addr v + 0x010) 0 = true
      rw [State.bit_irq _ _ _ _ _ (by decide) (by decide), if_pos ⟨rfl, rfl⟩]
  · have ht : t = s := by show s.endGrant v = s; unfold State.endGrant; exact if_neg hg
    exact ⟨by rw [ht]; exact .refl _, fun _ => ht, fun hh => absurd hh hg⟩

end Sys2Proof.Machine
end

