-- ==== Sys2Proof/Laws/PerInstr.lean ====
section
/-! SUPPORT. What well-formedness says of each command: the requester that sends it exists, and every index that it gives as a number alone is below
the number of things that it counts. One lemma per command. -/

namespace Sys2Proof

open Machine

/-- The requester that a command names, of those that name one. -/
def Instr.sender : Instr → Option Req
  | .regWrite req _ _ _ => some req
  | .rcRead req _ _ => some req
  | .narrowAccess req _ _ _ => some req
  | .reg64LowRead req _ => some req
  | .reg64LowWrite req _ _ => some req
  | .reg64HighWrite req _ _ => some req
  | .softRst req _ _ => some req
  | .irqForce req _ _ => some req
  | .lockPage req _ => some req
  | .errFirstClear req _ => some req
  | .aggPop req _ => some req
  | .start req _ => some req
  | .stop req _ => some req
  | .resume req _ => some req
  | .kick req _ => some req
  | .eddyCfgWrite req _ _ => some req
  | .memDataWrite req _ _ _ => some req
  | .memDataRead req _ _ => some req
  | .streamFlushIn req _ => some req
  | .streamFlushOut req _ => some req
  | .capPop req _ => some req
  | .streamSource req _ _ => some req
  | .stimIn req _ _ _ => some req
  | .flushIn req _ => some req
  | .flushOut req _ => some req
  | .dropRestIn req _ => some req
  | .dropRestOut req _ => some req
  | .create req _ _ => some req
  | .destroy req _ _ => some req
  | .rekey req _ _ => some req
  | .finish req _ _ => some req
  | .wearWarn req _ => some req
  | .ring req _ => some req
  | .cplPop req _ => some req
  | .arm req _ _ _ => some req
  | .disarm req _ _ => some req
  | .firedClear req _ _ => some req
  | .tideRefclk req _ => some req
  | .spineSel req _ _ => some req
  | .force req _ _ => some req
  | .drst req _ _ => some req
  | .pllCfgWrite req _ _ _ _ => some req
  | .fmeasStart req _ => some req
  | .ltolWrite req _ _ => some req
  | .inject req _ => some req
  | .prbsClear req _ => some req
  | .fabCfgWrite req _ _ => some req
  | .txEqWrite req _ _ => some req
  | .fnAssignWrite req _ _ => some req
  | .fnLayoutWrite req _ _ _ => some req
  | .windowWrite req _ _ _ _ _ => some req
  | .rpOwnerWrite req _ _ => some req
  | .stnCfgWrite req _ _ _ => some req
  | .func req _ _ => some req
  | .gpioSet req _ _ _ => some req
  | .gpioClr req _ _ _ => some req
  | .gpioTgl req _ _ _ => some req
  | .ringCtlWrite req _ _ => some req
  | _ => none

/-- The indices of a command that name one of a number of like things, each with that number. -/
def Instr.indices : Instr → List (Nat × Nat)
  | .stallWindow stall _ _ _ _ => [(stall, 32)]
  | .msixSend view => [(view, 4)]
  | .aggPop _ view => [(view, 4)]
  | .scrubVisit yard => [(yard, 8)]
  | .scrubStart yard => [(yard, 8)]
  | .fifoReset shed block => [(shed, 384), (block, 60)]
  | .start _ n => [(n, 512)]
  | .startExecute n => [(n, 512)]
  | .stop _ n => [(n, 512)]
  | .stopEffect n => [(n, 512)]
  | .resume _ n => [(n, 512)]
  | .kick _ n => [(n, 512)]
  | .eddyCfgWrite _ n _ => [(n, 512)]
  | .bundleIssue n _ => [(n, 512)]
  | .lockGrant mem => [(mem, 512)]
  | .lockTimeout n _ => [(n, 512)]
  | .watchdog n _ => [(n, 512)]
  | .memDataWrite _ n _ _ => [(n, 512)]
  | .memDataRead _ n _ => [(n, 512)]
  | .streamFlushIn _ n => [(n, 512)]
  | .streamFlushOut _ n => [(n, 512)]
  | .capPop _ n => [(n, 512)]
  | .streamSource _ n _ => [(n, 512)]
  | .stimIn _ n k _ => [(n, 512), (k, 8)]
  | .streamIn n _ => [(n, 512)]
  | .streamOut n => [(n, 512)]
  | .transferBegin n => [(n, 512)]
  | .transferLine n _ _ => [(n, 512)]
  | .transferComplete n _ _ => [(n, 512)]
  | .ingress ep _ => [(ep, 0x195)]
  | .egress ep _ => [(ep, 0x195)]
  | .rd ep _ _ _ => [(ep, 0x195)]
  | .wr ep _ _ _ => [(ep, 0x195)]
  | .msg ep _ _ _ => [(ep, 0x195)]
  | .regRd ep _ _ => [(ep, 0x195)]
  | .regWr ep _ _ => [(ep, 0x195)]
  | .rdRsp ep => [(ep, 0x195)]
  | .wrRsp ep => [(ep, 0x195)]
  | .msgRsp ep => [(ep, 0x195)]
  | .regRsp ep => [(ep, 0x195)]
  | .timeout ep tag => [(ep, 0x195), (tag, 1024)]
  | .flitGap ep => [(ep, 0x195)]
  | .flushIn _ ep => [(ep, 0x195)]
  | .flushOut _ ep => [(ep, 0x195)]
  | .flushEffect ep _ => [(ep, 0x195)]
  | .dropRestIn _ ep => [(ep, 0x195)]
  | .dropRestOut _ ep => [(ep, 0x195)]
  | .txAbort ep => [(ep, 0x195)]
  | .drain ep _ => [(ep, 0x195)]
  | .drainEnd ep => [(ep, 0x195)]
  | .sweep dst => [(dst, 0x195)]
  | .hbmError port => [(port, 64)]
  | .create _ port region => [(port, 66), (region, 32)]
  | .zeroingEnd port => [(port, 66)]
  | .destroy _ port region => [(port, 66), (region, 32)]
  | .rekey _ port region => [(port, 66), (region, 32)]
  | .walkTake port _ => [(port, 66)]
  | .walkDone port => [(port, 66)]
  | .finish _ port region => [(port, 66), (region, 32)]
  | .slotZeroise slot _ => [(slot, 128)]
  | .cxlLinkDown n => [(n, 2)]
  | .clockForceOff stall => [(stall, 32)]
  | .ffExchange stall _ => [(stall, 32)]
  | .swapZeroing stall => [(stall, 32)]
  | .meshQuiet stall => [(stall, 32)]
  | .planeFlip stall => [(stall, 32)]
  | .fillEnd stall => [(stall, 32)]
  | .loadEnd stall => [(stall, 32)]
  | .ring _ box => [(box, 6)]
  | .deferredEnd box _ _ => [(box, 6)]
  | .cplPop _ box => [(box, 6)]
  | .expired box _ => [(box, 6)]
  | .eventLogCopy source index => [(source, 16), (index, 2 ^ 16)]
  | .ptmExchange port _ _ => [(port, 4)]
  | .arm _ stall j _ => [(stall, 32), (j, 4)]
  | .disarm _ stall j => [(stall, 32), (j, 4)]
  | .firedClear _ stall j => [(stall, 32), (j, 4)]
  | .tideRefclk _ pair => [(pair, 4)]
  | .join slot serial _ => [(slot, 16), (serial, 2 ^ 64)]
  | .joinAck slot _ _ => [(slot, 16)]
  | .sync slot _ => [(slot, 16)]
  | .delayReq slot => [(slot, 16)]
  | .delayRsp slot _ => [(slot, 16)]
  | .cmd slot _ _ _ _ _ => [(slot, 16)]
  | .cpl slot _ _ _ _ _ _ => [(slot, 16)]
  | .stage slot _ _ _ _ _ => [(slot, 16)]
  | .ret slot _ _ _ _ => [(slot, 16)]
  | .refclkLoss pair => [(pair, 8)]
  | .refclkReturn pair => [(pair, 8)]
  | .spineSel _ shed _ => [(shed, 384)]
  | .clksel shed k _ => [(shed, 384), (k, 16)]
  | .spineSwitch shed k => [(shed, 384), (k, 16)]
  | .force _ shed k => [(shed, 384), (k, 16)]
  | .drst _ shed k => [(shed, 384), (k, 16)]
  | .drstRelease shed k => [(shed, 384), (k, 16)]
  | .pllCfgWrite _ yard pll _ _ => [(yard, 9), (pll, 8)]
  | .ltolWrite _ port _ => [(port, 4)]
  | .signalDetect lane => [(lane, 160)]
  | .cdrLock lane => [(lane, 160)]
  | .polarity lane _ => [(lane, 160)]
  | .adaptDone lane _ => [(lane, 160)]
  | .alignDone lane logical => [(lane, 160), (logical, 64)]
  | .stageTimeout lane => [(lane, 160)]
  | .signalLoss lane _ => [(lane, 160)]
  | .calibrationEnd lane _ => [(lane, 160)]
  | .inject _ lane => [(lane, 160)]
  | .prbsClear _ lane => [(lane, 160)]
  | .prbsLock lane => [(lane, 160)]
  | .prbsLost lane _ _ => [(lane, 160)]
  | .fabCfgWrite _ lane _ => [(lane, 160)]
  | .txEqWrite _ lane _ => [(lane, 160)]
  | .bridgeSend lane _ => [(lane, 160)]
  | .bridgeTimer lane _ => [(lane, 160)]
  | .hotReset port _ => [(port, 4)]
  | .bar0 port _ _ => [(port, 4)]
  | .bar2 port _ => [(port, 4)]
  | .inbound port _ => [(port, 4)]
  | .cxlMem port _ => [(port, 4)]
  | .ptmRequest port => [(port, 4)]
  | .fnAssignWrite _ port _ => [(port, 4)]
  | .fnLayoutWrite _ port pf _ => [(port, 4), (pf, 16)]
  | .windowWrite _ _ port j part _ => [(port, 4), (j, 16), (part, 4)]
  | .rpOwnerWrite _ port _ => [(port, 4)]
  | .ethReceive mac _ _ => [(mac, 8)]
  | .stnCfgWrite _ mac j _ => [(mac, 8), (j, 32)]
  | .skejaSend k path => [(k, 8), (path, 2)]
  | .skejaReceive k path _ _ _ => [(k, 8), (path, 2)]
  | .nak k path _ => [(k, 8), (path, 2)]
  | .udpTimeout k _ => [(k, 8)]
  | .pathUp k path => [(k, 8), (path, 2)]
  | .handshakeEnd k path _ => [(k, 8), (path, 2)]
  | .checkMatch k => [(k, 8)]
  | .pathDown k path => [(k, 8), (path, 2)]
  | .weirMil _ half _ _ _ _ => [(half, 2)]
  | .shadowAdvance _ half => [(half, 2)]
  | .lchkReq _ half _ => [(half, 2)]
  | .laneCheckEnd _ half _ _ => [(half, 2)]
  | .ucieFail ford module => [(ford, 4), (module, 6)]
  | .quarantine die _ => [(die, 12)]
  | .readmission die _ _ _ _ => [(die, 12)]
  | .idcode tap => [(tap, 13)]
  | .samplePreload tap _ => [(tap, 13)]
  | .extest tap => [(tap, 13)]
  | .extestPulse tap => [(tap, 13)]
  | .extestTrain tap => [(tap, 13)]
  | .highz tap => [(tap, 13)]
  | .clamp tap => [(tap, 13)]
  | .bypass tap => [(tap, 13)]
  | .mbox tap => [(tap, 13)]
  | .func _ pin _ => [(pin, 384)]
  | .switchEdge pin => [(pin, 384)]
  | .holdEnd pin => [(pin, 384)]
  | .swLate pin => [(pin, 384)]
  | .gpioSet _ bank _ _ => [(bank, 8)]
  | .gpioClr _ bank _ _ => [(bank, 8)]
  | .gpioTgl _ bank _ _ => [(bank, 8)]
  | .pinEvent line _ => [(line, 16)]
  | .grantExpire view => [(view, 6)]
  | .endGrant view => [(view, 6)]
  | .peek view stall => [(view, 6), (stall, 32)]
  | .poke view stall => [(view, 6), (stall, 32)]
  | .halt view n => [(view, 6), (n, 512)]
  | .engineHalt n => [(n, 512)]
  | .lockBroken n => [(n, 512)]
  | .releaseEngine view n => [(view, 6), (n, 512)]
  | .step view n _ => [(view, 6), (n, 512)]
  | .fire view => [(view, 6)]
  | .dbgTrig shed => [(shed, 384)]
  | .snapEnd view _ => [(view, 6)]
  | .capResume view => [(view, 6)]
  | .ringCtlWrite _ r _ => [(r, 8)]
  | .pairReturn pair => [(pair, 8)]
  | .tlpCompletion port tag _ => [(port, 4), (tag, 1024)]
  | .pllLock yard pll => [(yard, 9), (pll, 8)]
  | _ => []

/-- A well-formed command is sent by a requester that exists, and its indices are in range. (assumption 3) -/
def Laws.Wf.Statement (i : Instr) : Prop :=
  i.wf = true → (i.sender.all Req.valid && i.indices.all (fun x => decide (x.1 < x.2))) = true

end Sys2Proof

open Sys2Proof Sys2Proof.Machine Sys2Proof.Laws.Wf

/-! ### Picking the checks of a command -/

theorem Sys2Proof.Laws.Wf.pick0 (a0 : Bool) (h : (a0) = true) : (a0 && true) = true := by
  revert h; revert a0; decide

theorem Sys2Proof.Laws.Wf.pick1 (a0 a1 : Bool) (h : (a0 && a1) = true) : (a0 && true) = true := by
  revert h; revert a0 a1; decide

theorem Sys2Proof.Laws.Wf.pick2 (a0 : Bool) (h : (a0) = true) : (true && (a0 && true)) = true := by
  revert h; revert a0; decide

theorem Sys2Proof.Laws.Wf.pick3 (a0 : Bool) (h : (a0) = true) : (true && true) = true := by
  revert h; revert a0; decide

theorem Sys2Proof.Laws.Wf.pick4 (a0 a1 : Bool) (h : (a0 && a1) = true) : (a0 && (a1 && true)) = true := by
  revert h; revert a0 a1; decide

theorem Sys2Proof.Laws.Wf.pick5 (a0 a1 : Bool) (h : (a0 && a1) = true) : (true && (a0 && (a1 && true))) = true := by
  revert h; revert a0 a1; decide

theorem Sys2Proof.Laws.Wf.pick6 (a0 a1 a2 : Bool) (h : (a0 && a1 && a2) = true) : (a0 && (a1 && (a2 && true))) = true := by
  revert h; revert a0 a1 a2; decide

theorem Sys2Proof.Laws.Wf.pick7 (a0 a1 a2 : Bool) (h : (a0 && a1 && a2) = true) : (true && (a0 && (a1 && true))) = true := by
  revert h; revert a0 a1 a2; decide

theorem Sys2Proof.Laws.Wf.pick8 (a0 a1 : Bool) (h : (a0 && a1) = true) : (true && (a0 && true)) = true := by
  revert h; revert a0 a1; decide

theorem Sys2Proof.Laws.Wf.pick9 (a0 a1 : Bool) (h : (a0 && a1) = true) : (true && true) = true := by
  revert h; revert a0 a1; decide

theorem Sys2Proof.Laws.Wf.pick10 (a0 a1 a2 a3 : Bool) (h : (a0 && a1 && a2 && a3) = true) : (a0 && (a1 && (a2 && true))) = true := by
  revert h; revert a0 a1 a2 a3; decide

theorem Sys2Proof.Laws.Wf.pick11 (a0 a1 a2 a3 : Bool) (h : (a0 && a1 && a2 && a3) = true) : (a0 && (a1 && (a2 && (a3 && true)))) = true := by
  revert h; revert a0 a1 a2 a3; decide

theorem Sys2Proof.Laws.Wf.pick12 (a0 a1 : Bool) (h : (a0 && a1) = true) : (true && (a1 && true)) = true := by
  revert h; revert a0 a1; decide

/-! ### Each command -/

theorem Sys2Proof.Laws.Wf.regWrite (req : Req) (addr size value : Nat) : Statement (.regWrite req addr size value) :=
  fun h => pick0 (req.valid) h

theorem Sys2Proof.Laws.Wf.rcRead (req : Req) (addr size : Nat) : Statement (.rcRead req addr size) :=
  fun h => pick0 (req.valid) h

theorem Sys2Proof.Laws.Wf.narrowAccess (req : Req) (addr : Nat) (half : Bool) (write : Option Nat) : Statement (.narrowAccess req addr half write) :=
  fun h => pick0 (req.valid) h

theorem Sys2Proof.Laws.Wf.reg64LowRead (req : Req) (addr : Nat) : Statement (.reg64LowRead req addr) :=
  fun h => pick0 (req.valid) h

theorem Sys2Proof.Laws.Wf.reg64LowWrite (req : Req) (addr value : Nat) : Statement (.reg64LowWrite req addr value) :=
  fun h => pick0 (req.valid) h

theorem Sys2Proof.Laws.Wf.reg64HighWrite (req : Req) (addr value : Nat) : Statement (.reg64HighWrite req addr value) :=
  fun h => pick0 (req.valid) h

theorem Sys2Proof.Laws.Wf.softRst (req : Req) (page : Nat) (enable : Bool) : Statement (.softRst req page enable) :=
  fun h => pick1 (req.valid) (isPage page) h

theorem Sys2Proof.Laws.Wf.irqForce (req : Req) (page bits : Nat) : Statement (.irqForce req page bits) :=
  fun h => pick1 (req.valid) (isPage page) h

theorem Sys2Proof.Laws.Wf.lockPage (req : Req) (page : Nat) : Statement (.lockPage req page) :=
  fun h => pick1 (req.valid) (isPage page) h

theorem Sys2Proof.Laws.Wf.errFirstClear (req : Req) (page : Nat) : Statement (.errFirstClear req page) :=
  fun h => pick1 (req.valid) (isPage page) h

theorem Sys2Proof.Laws.Wf.stallWindow (stall addr size : Nat) (write : Option Nat) (upset : Nat) : Statement (.stallWindow stall addr size write upset) :=
  fun h => pick2 (decide (stall < 32)) h

theorem Sys2Proof.Laws.Wf.summaryPush : Statement (.summaryPush) :=
  fun h => pick3 (true) h

theorem Sys2Proof.Laws.Wf.msixSend (view : Nat) : Statement (.msixSend view) :=
  fun h => pick2 (decide (view < 4)) h

theorem Sys2Proof.Laws.Wf.aggPop (req : Req) (view : Nat) : Statement (.aggPop req view) :=
  fun h => pick4 (req.valid) (decide (view < 4)) h

theorem Sys2Proof.Laws.Wf.deviceReset (env : StartEnv) : Statement (.deviceReset env) :=
  fun h => pick3 (true) h

theorem Sys2Proof.Laws.Wf.powerGood (env : StartEnv) : Statement (.powerGood env) :=
  fun h => pick3 (true) h

theorem Sys2Proof.Laws.Wf.sysRst (env : StartEnv) : Statement (.sysRst env) :=
  fun h => pick3 (true) h

theorem Sys2Proof.Laws.Wf.scrubVisit (yard : Nat) : Statement (.scrubVisit yard) :=
  fun h => pick2 (decide (yard < 8)) h

theorem Sys2Proof.Laws.Wf.scrubStart (yard : Nat) : Statement (.scrubStart yard) :=
  fun h => pick2 (decide (yard < 8)) h

theorem Sys2Proof.Laws.Wf.fifoReset (shed block : Nat) : Statement (.fifoReset shed block) :=
  fun h => pick5 (decide (shed < 384)) (decide (block < 60)) h

theorem Sys2Proof.Laws.Wf.tribContention (trib : Nat) : Statement (.tribContention trib) :=
  fun h => pick3 (tribExists trib) h

theorem Sys2Proof.Laws.Wf.start (req : Req) (n : Nat) : Statement (.start req n) :=
  fun h => pick4 (req.valid) (decide (n < 512)) h

theorem Sys2Proof.Laws.Wf.startExecute (n : Nat) : Statement (.startExecute n) :=
  fun h => pick2 (decide (n < 512)) h

theorem Sys2Proof.Laws.Wf.stop (req : Req) (n : Nat) : Statement (.stop req n) :=
  fun h => pick4 (req.valid) (decide (n < 512)) h

theorem Sys2Proof.Laws.Wf.stopEffect (n : Nat) : Statement (.stopEffect n) :=
  fun h => pick2 (decide (n < 512)) h

theorem Sys2Proof.Laws.Wf.resume (req : Req) (n : Nat) : Statement (.resume req n) :=
  fun h => pick4 (req.valid) (decide (n < 512)) h

theorem Sys2Proof.Laws.Wf.kick (req : Req) (n : Nat) : Statement (.kick req n) :=
  fun h => pick4 (req.valid) (decide (n < 512)) h

theorem Sys2Proof.Laws.Wf.eddyCfgWrite (req : Req) (n value : Nat) : Statement (.eddyCfgWrite req n value) :=
  fun h => pick4 (req.valid) (decide (n < 512)) h

theorem Sys2Proof.Laws.Wf.bundleIssue (n : Nat) (env : IssueEnv) : Statement (.bundleIssue n env) :=
  fun h => pick2 (decide (n < 512)) h

theorem Sys2Proof.Laws.Wf.lockGrant (mem : Nat) : Statement (.lockGrant mem) :=
  fun h => pick2 (decide (mem < 512)) h

theorem Sys2Proof.Laws.Wf.lockTimeout (n : Nat) (env : IssueEnv) : Statement (.lockTimeout n env) :=
  fun h => pick2 (decide (n < 512)) h

theorem Sys2Proof.Laws.Wf.watchdog (n : Nat) (env : IssueEnv) : Statement (.watchdog n env) :=
  fun h => pick2 (decide (n < 512)) h

theorem Sys2Proof.Laws.Wf.memDataWrite (req : Req) (n value upset : Nat) : Statement (.memDataWrite req n value upset) :=
  fun h => pick4 (req.valid) (decide (n < 512)) h

theorem Sys2Proof.Laws.Wf.memDataRead (req : Req) (n upset : Nat) : Statement (.memDataRead req n upset) :=
  fun h => pick4 (req.valid) (decide (n < 512)) h

theorem Sys2Proof.Laws.Wf.streamFlushIn (req : Req) (n : Nat) : Statement (.streamFlushIn req n) :=
  fun h => pick4 (req.valid) (decide (n < 512)) h

theorem Sys2Proof.Laws.Wf.streamFlushOut (req : Req) (n : Nat) : Statement (.streamFlushOut req n) :=
  fun h => pick4 (req.valid) (decide (n < 512)) h

theorem Sys2Proof.Laws.Wf.capPop (req : Req) (n : Nat) : Statement (.capPop req n) :=
  fun h => pick4 (req.valid) (decide (n < 512)) h

theorem Sys2Proof.Laws.Wf.streamSource (req : Req) (n value : Nat) : Statement (.streamSource req n value) :=
  fun h => pick4 (req.valid) (decide (n < 512)) h

theorem Sys2Proof.Laws.Wf.stimIn (req : Req) (n k value : Nat) : Statement (.stimIn req n k value) :=
  fun h => pick6 (req.valid) (decide (n < 512)) (decide (k < 8)) h

theorem Sys2Proof.Laws.Wf.streamIn (n : Nat) (word : BitVec 256) : Statement (.streamIn n word) :=
  fun h => pick2 (decide (n < 512)) h

theorem Sys2Proof.Laws.Wf.streamOut (n : Nat) : Statement (.streamOut n) :=
  fun h => pick2 (decide (n < 512)) h

theorem Sys2Proof.Laws.Wf.transferBegin (n : Nat) : Statement (.transferBegin n) :=
  fun h => pick2 (decide (n < 512)) h

theorem Sys2Proof.Laws.Wf.transferLine (n i : Nat) (upsets : List (Nat × Nat × Nat)) : Statement (.transferLine n i upsets) :=
  fun h => pick2 (decide (n < 512)) h

theorem Sys2Proof.Laws.Wf.transferComplete (n i : Nat) (upsets : List (Nat × Nat × Nat)) : Statement (.transferComplete n i upsets) :=
  fun h => pick2 (decide (n < 512)) h

theorem Sys2Proof.Laws.Wf.ingress (ep : Nat) (op : IngressOp) : Statement (.ingress ep op) :=
  fun h => pick2 (decide (ep < 0x195)) h

theorem Sys2Proof.Laws.Wf.routerHeader (pkt : Nat) (errs : List (Nat × Bool)) : Statement (.routerHeader pkt errs) :=
  fun h => pick3 (true) h

theorem Sys2Proof.Laws.Wf.egress (ep : Nat) (op : EgressOp) : Statement (.egress ep op) :=
  fun h => pick2 (decide (ep < 0x195)) h

theorem Sys2Proof.Laws.Wf.rd (ep pkt : Nat) (faults : List (Nat × LineFault)) (env : PcieEnv) : Statement (.rd ep pkt faults env) :=
  fun h => pick2 (decide (ep < 0x195)) h

theorem Sys2Proof.Laws.Wf.wr (ep pkt : Nat) (faults : List (Nat × LineFault)) (env : PcieEnv) : Statement (.wr ep pkt faults env) :=
  fun h => pick2 (decide (ep < 0x195)) h

theorem Sys2Proof.Laws.Wf.msg (ep pkt : Nat) (faults : List (Nat × LineFault)) (env : PcieEnv) : Statement (.msg ep pkt faults env) :=
  fun h => pick2 (decide (ep < 0x195)) h

theorem Sys2Proof.Laws.Wf.regRd (ep pkt upset : Nat) : Statement (.regRd ep pkt upset) :=
  fun h => pick2 (decide (ep < 0x195)) h

theorem Sys2Proof.Laws.Wf.regWr (ep pkt upset : Nat) : Statement (.regWr ep pkt upset) :=
  fun h => pick2 (decide (ep < 0x195)) h

theorem Sys2Proof.Laws.Wf.rdRsp (ep : Nat) : Statement (.rdRsp ep) :=
  fun h => pick2 (decide (ep < 0x195)) h

theorem Sys2Proof.Laws.Wf.wrRsp (ep : Nat) : Statement (.wrRsp ep) :=
  fun h => pick2 (decide (ep < 0x195)) h

theorem Sys2Proof.Laws.Wf.msgRsp (ep : Nat) : Statement (.msgRsp ep) :=
  fun h => pick2 (decide (ep < 0x195)) h

theorem Sys2Proof.Laws.Wf.regRsp (ep : Nat) : Statement (.regRsp ep) :=
  fun h => pick2 (decide (ep < 0x195)) h

theorem Sys2Proof.Laws.Wf.timeout (ep tag : Nat) : Statement (.timeout ep tag) :=
  fun h => pick5 (decide (ep < 0x195)) (decide (tag < 1024)) h

theorem Sys2Proof.Laws.Wf.flitGap (ep : Nat) : Statement (.flitGap ep) :=
  fun h => pick2 (decide (ep < 0x195)) h

theorem Sys2Proof.Laws.Wf.flushIn (req : Req) (ep : Nat) : Statement (.flushIn req ep) :=
  fun h => pick4 (req.valid) (decide (ep < 0x195)) h

theorem Sys2Proof.Laws.Wf.flushOut (req : Req) (ep : Nat) : Statement (.flushOut req ep) :=
  fun h => pick4 (req.valid) (decide (ep < 0x195)) h

theorem Sys2Proof.Laws.Wf.flushEffect (ep : Nat) (out : Bool) : Statement (.flushEffect ep out) :=
  fun h => pick2 (decide (ep < 0x195)) h

theorem Sys2Proof.Laws.Wf.dropRestIn (req : Req) (ep : Nat) : Statement (.dropRestIn req ep) :=
  fun h => pick4 (req.valid) (decide (ep < 0x195)) h

theorem Sys2Proof.Laws.Wf.dropRestOut (req : Req) (ep : Nat) : Statement (.dropRestOut req ep) :=
  fun h => pick4 (req.valid) (decide (ep < 0x195)) h

theorem Sys2Proof.Laws.Wf.txAbort (ep : Nat) : Statement (.txAbort ep) :=
  fun h => pick2 (decide (ep < 0x195)) h

theorem Sys2Proof.Laws.Wf.drain (ep : Nat) (rsp : Bool) : Statement (.drain ep rsp) :=
  fun h => pick2 (decide (ep < 0x195)) h

theorem Sys2Proof.Laws.Wf.drainEnd (ep : Nat) : Statement (.drainEnd ep) :=
  fun h => pick2 (decide (ep < 0x195)) h

theorem Sys2Proof.Laws.Wf.sweep (dst : Nat) : Statement (.sweep dst) :=
  fun h => pick2 (decide (dst < 0x195)) h

theorem Sys2Proof.Laws.Wf.hbmError (port : Nat) : Statement (.hbmError port) :=
  fun h => pick2 (decide (port < 64)) h

theorem Sys2Proof.Laws.Wf.create (req : Req) (port region : Nat) : Statement (.create req port region) :=
  fun h => pick6 (req.valid) (decide (port < 66)) (decide (region < 32)) h

theorem Sys2Proof.Laws.Wf.zeroingEnd (port : Nat) : Statement (.zeroingEnd port) :=
  fun h => pick2 (decide (port < 66)) h

theorem Sys2Proof.Laws.Wf.destroy (req : Req) (port region : Nat) : Statement (.destroy req port region) :=
  fun h => pick6 (req.valid) (decide (port < 66)) (decide (region < 32)) h

theorem Sys2Proof.Laws.Wf.rekey (req : Req) (port region : Nat) : Statement (.rekey req port region) :=
  fun h => pick6 (req.valid) (decide (port < 66)) (decide (region < 32)) h

theorem Sys2Proof.Laws.Wf.walkTake (port : Nat) (faults : List (Nat × LineFault)) : Statement (.walkTake port faults) :=
  fun h => pick2 (decide (port < 66)) h

theorem Sys2Proof.Laws.Wf.walkDone (port : Nat) : Statement (.walkDone port) :=
  fun h => pick2 (decide (port < 66)) h

theorem Sys2Proof.Laws.Wf.finish (req : Req) (port region : Nat) : Statement (.finish req port region) :=
  fun h => pick6 (req.valid) (decide (port < 66)) (decide (region < 32)) h

theorem Sys2Proof.Laws.Wf.slotZeroise (slot : Nat) (frames : Bool) : Statement (.slotZeroise slot frames) :=
  fun h => pick2 (decide (slot < 128)) h

theorem Sys2Proof.Laws.Wf.wearWarn (req : Req) (value : Nat) : Statement (.wearWarn req value) :=
  fun h => pick0 (req.valid) h

theorem Sys2Proof.Laws.Wf.cxlLinkDown (n : Nat) : Statement (.cxlLinkDown n) :=
  fun h => pick2 (decide (n < 2)) h

theorem Sys2Proof.Laws.Wf.clockForceOff (stall : Nat) : Statement (.clockForceOff stall) :=
  fun h => pick2 (decide (stall < 32)) h

theorem Sys2Proof.Laws.Wf.ffExchange (stall : Nat) (bad : List Nat) : Statement (.ffExchange stall bad) :=
  fun h => pick2 (decide (stall < 32)) h

theorem Sys2Proof.Laws.Wf.swapZeroing (stall : Nat) : Statement (.swapZeroing stall) :=
  fun h => pick2 (decide (stall < 32)) h

theorem Sys2Proof.Laws.Wf.meshQuiet (stall : Nat) : Statement (.meshQuiet stall) :=
  fun h => pick2 (decide (stall < 32)) h

theorem Sys2Proof.Laws.Wf.planeFlip (stall : Nat) : Statement (.planeFlip stall) :=
  fun h => pick2 (decide (stall < 32)) h

theorem Sys2Proof.Laws.Wf.fillEnd (stall : Nat) : Statement (.fillEnd stall) :=
  fun h => pick2 (decide (stall < 32)) h

theorem Sys2Proof.Laws.Wf.loadEnd (stall : Nat) : Statement (.loadEnd stall) :=
  fun h => pick2 (decide (stall < 32)) h

theorem Sys2Proof.Laws.Wf.ring (req : Req) (box : Nat) : Statement (.ring req box) :=
  fun h => pick4 (req.valid) (decide (box < 6)) h

theorem Sys2Proof.Laws.Wf.commandTake (env : CmdEnv) : Statement (.commandTake env) :=
  fun h => pick3 (true) h

theorem Sys2Proof.Laws.Wf.deferredEnd (box ticket : Nat) (copied : Bool) : Statement (.deferredEnd box ticket copied) :=
  fun h => pick2 (decide (box < 6)) h

theorem Sys2Proof.Laws.Wf.cplPop (req : Req) (box : Nat) : Statement (.cplPop req box) :=
  fun h => pick4 (req.valid) (decide (box < 6)) h

theorem Sys2Proof.Laws.Wf.fanoutEnd (id : Nat) (timeout copied : Bool) : Statement (.fanoutEnd id timeout copied) :=
  fun h => pick3 (true) h

theorem Sys2Proof.Laws.Wf.testStart (kind index : Nat) : Statement (.testStart kind index) :=
  fun h => pick3 (true) h

theorem Sys2Proof.Laws.Wf.testEnd (kind index : Nat) (ok : Bool) (data : Nat) : Statement (.testEnd kind index ok data) :=
  fun h => pick3 (true) h

theorem Sys2Proof.Laws.Wf.expired (box ticket : Nat) : Statement (.expired box ticket) :=
  fun h => pick2 (decide (box < 6)) h

theorem Sys2Proof.Laws.Wf.lockstepDisagree (core : Option Nat) : Statement (.lockstepDisagree core) :=
  fun h => pick3 (core.all (fun c => decide (c < 3))) h

theorem Sys2Proof.Laws.Wf.tripleRestore : Statement (.tripleRestore) :=
  fun h => pick3 (true) h

theorem Sys2Proof.Laws.Wf.sramScrub (uncorr : Bool) : Statement (.sramScrub uncorr) :=
  fun h => pick3 (true) h

theorem Sys2Proof.Laws.Wf.eventLogCopy (source index : Nat) : Statement (.eventLogCopy source index) :=
  fun h => pick5 (decide (source < 16)) (decide (index < 2 ^ 16)) h

theorem Sys2Proof.Laws.Wf.tideIn (value crc age : Nat) (first : Bool) : Statement (.tideIn value crc age first) :=
  fun h => pick3 (true) h

theorem Sys2Proof.Laws.Wf.ptmExchange (port value age : Nat) : Statement (.ptmExchange port value age) :=
  fun h => pick2 (decide (port < 4)) h

theorem Sys2Proof.Laws.Wf.sourceLost : Statement (.sourceLost) :=
  fun h => pick3 (true) h

theorem Sys2Proof.Laws.Wf.holdoverExpire : Statement (.holdoverExpire) :=
  fun h => pick3 (true) h

theorem Sys2Proof.Laws.Wf.freezeEnd : Statement (.freezeEnd) :=
  fun h => pick3 (true) h

theorem Sys2Proof.Laws.Wf.alarmFire : Statement (.alarmFire) :=
  fun h => pick3 (true) h

theorem Sys2Proof.Laws.Wf.arm (req : Req) (stall j : Nat) (signal : Bool) : Statement (.arm req stall j signal) :=
  fun h => pick6 (req.valid) (decide (stall < 32)) (decide (j < 4)) h

theorem Sys2Proof.Laws.Wf.disarm (req : Req) (stall j : Nat) : Statement (.disarm req stall j) :=
  fun h => pick6 (req.valid) (decide (stall < 32)) (decide (j < 4)) h

theorem Sys2Proof.Laws.Wf.firedClear (req : Req) (stall j : Nat) : Statement (.firedClear req stall j) :=
  fun h => pick6 (req.valid) (decide (stall < 32)) (decide (j < 4)) h

theorem Sys2Proof.Laws.Wf.tideRefclk (req : Req) (pair : Nat) : Statement (.tideRefclk req pair) :=
  fun h => pick4 (req.valid) (decide (pair < 4)) h

theorem Sys2Proof.Laws.Wf.helloSend : Statement (.helloSend) :=
  fun h => pick3 (true) h

theorem Sys2Proof.Laws.Wf.hello (seen : List (Nat × Nat × Nat × Nat)) : Statement (.hello seen) :=
  fun h => pick3 (true) h

theorem Sys2Proof.Laws.Wf.join (slot serial : Nat) (path : List Nat) : Statement (.join slot serial path) :=
  fun h => pick7 (decide (slot < 16)) (decide (serial < 2 ^ 64)) (path.all (fun p => decide (p < 16))) h

theorem Sys2Proof.Laws.Wf.joinAck (slot : Nat) (path : List Nat) (node : Option Nat) : Statement (.joinAck slot path node) :=
  fun h => pick8 (decide (slot < 16)) (path.all (fun p => decide (p < 16))) h

theorem Sys2Proof.Laws.Wf.treeLeave : Statement (.treeLeave) :=
  fun h => pick3 (true) h

theorem Sys2Proof.Laws.Wf.syncSend : Statement (.syncSend) :=
  fun h => pick3 (true) h

theorem Sys2Proof.Laws.Wf.sync (slot t1 : Nat) : Statement (.sync slot t1) :=
  fun h => pick2 (decide (slot < 16)) h

theorem Sys2Proof.Laws.Wf.delayReq (slot : Nat) : Statement (.delayReq slot) :=
  fun h => pick2 (decide (slot < 16)) h

theorem Sys2Proof.Laws.Wf.delayRsp (slot t4 : Nat) : Statement (.delayRsp slot t4) :=
  fun h => pick2 (decide (slot < 16)) h

theorem Sys2Proof.Laws.Wf.cmd (slot fan node scope : Nat) (words : List Nat) (ret : Option (Nat × Nat)) : Statement (.cmd slot fan node scope words ret) :=
  fun h => pick2 (decide (slot < 16)) h

theorem Sys2Proof.Laws.Wf.cpl (slot fan node serial w0 w1 data : Nat) : Statement (.cpl slot fan node serial w0 w1 data) :=
  fun h => pick2 (decide (slot < 16)) h

theorem Sys2Proof.Laws.Wf.stage (slot fan buffer offset : Nat) (data targets : List Nat) : Statement (.stage slot fan buffer offset data targets) :=
  fun h => pick8 (decide (slot < 16)) (isBytes data) h

theorem Sys2Proof.Laws.Wf.ret (slot fan node offset : Nat) (data : List Nat) : Statement (.ret slot fan node offset data) :=
  fun h => pick8 (decide (slot < 16)) (isBytes data) h

theorem Sys2Proof.Laws.Wf.epochClose : Statement (.epochClose) :=
  fun h => pick3 (true) h

theorem Sys2Proof.Laws.Wf.checkpoint (faults : List LeafFault) (suspects : List (Nat × Nat)) : Statement (.checkpoint faults suspects) :=
  fun h => pick9 (faults.all isLeafFault) (suspects.all (fun x => decide (x.1 < 10) && decide (x.2 < 32))) h

theorem Sys2Proof.Laws.Wf.refclkLoss (pair : Nat) : Statement (.refclkLoss pair) :=
  fun h => pick2 (decide (pair < 8)) h

theorem Sys2Proof.Laws.Wf.fixrefHoldEnd : Statement (.fixrefHoldEnd) :=
  fun h => pick3 (true) h

theorem Sys2Proof.Laws.Wf.refclkReturn (pair : Nat) : Statement (.refclkReturn pair) :=
  fun h => pick2 (decide (pair < 8)) h

theorem Sys2Proof.Laws.Wf.refReturn (env : StartEnv) : Statement (.refReturn env) :=
  fun h => pick3 (true) h

theorem Sys2Proof.Laws.Wf.clockLoss (clock : ClockLost) (env : StartEnv) : Statement (.clockLoss clock env) :=
  fun h => pick3 (true) h

theorem Sys2Proof.Laws.Wf.spineSel (req : Req) (shed value : Nat) : Statement (.spineSel req shed value) :=
  fun h => pick4 (req.valid) (decide (shed < 384)) h

theorem Sys2Proof.Laws.Wf.clksel (shed k : Nat) (level : Bool) : Statement (.clksel shed k level) :=
  fun h => pick5 (decide (shed < 384)) (decide (k < 16)) h

theorem Sys2Proof.Laws.Wf.spineSwitch (shed k : Nat) : Statement (.spineSwitch shed k) :=
  fun h => pick5 (decide (shed < 384)) (decide (k < 16)) h

theorem Sys2Proof.Laws.Wf.force (req : Req) (shed k : Nat) : Statement (.force req shed k) :=
  fun h => pick6 (req.valid) (decide (shed < 384)) (decide (k < 16)) h

theorem Sys2Proof.Laws.Wf.drst (req : Req) (shed k : Nat) : Statement (.drst req shed k) :=
  fun h => pick6 (req.valid) (decide (shed < 384)) (decide (k < 16)) h

theorem Sys2Proof.Laws.Wf.drstRelease (shed k : Nat) : Statement (.drstRelease shed k) :=
  fun h => pick5 (decide (shed < 384)) (decide (k < 16)) h

theorem Sys2Proof.Laws.Wf.pllCfgWrite (req : Req) (yard pll : Nat) (out : Option Nat) (value : Nat) : Statement (.pllCfgWrite req yard pll out value) :=
  fun h => pick10 (req.valid) (decide (yard < 9)) (decide (pll < 8)) (out.all (fun j => decide (j < 4))) h

theorem Sys2Proof.Laws.Wf.fmeasStart (req : Req) (value : Nat) : Statement (.fmeasStart req value) :=
  fun h => pick0 (req.valid) h

theorem Sys2Proof.Laws.Wf.fmeasEnd (edges : Nat) : Statement (.fmeasEnd edges) :=
  fun h => pick3 (true) h

theorem Sys2Proof.Laws.Wf.powerEval : Statement (.powerEval) :=
  fun h => pick3 (true) h

theorem Sys2Proof.Laws.Wf.ltolWrite (req : Req) (port value : Nat) : Statement (.ltolWrite req port value) :=
  fun h => pick4 (req.valid) (decide (port < 4)) h

theorem Sys2Proof.Laws.Wf.wake : Statement (.wake) :=
  fun h => pick3 (true) h

theorem Sys2Proof.Laws.Wf.exitComplete : Statement (.exitComplete) :=
  fun h => pick3 (true) h

theorem Sys2Proof.Laws.Wf.signalDetect (lane : Nat) : Statement (.signalDetect lane) :=
  fun h => pick2 (decide (lane < 160)) h

theorem Sys2Proof.Laws.Wf.cdrLock (lane : Nat) : Statement (.cdrLock lane) :=
  fun h => pick2 (decide (lane < 160)) h

theorem Sys2Proof.Laws.Wf.polarity (lane : Nat) (inverse : Bool) : Statement (.polarity lane inverse) :=
  fun h => pick2 (decide (lane < 160)) h

theorem Sys2Proof.Laws.Wf.adaptDone (lane eye : Nat) : Statement (.adaptDone lane eye) :=
  fun h => pick2 (decide (lane < 160)) h

theorem Sys2Proof.Laws.Wf.alignDone (lane logical : Nat) : Statement (.alignDone lane logical) :=
  fun h => pick5 (decide (lane < 160)) (decide (logical < 64)) h

theorem Sys2Proof.Laws.Wf.stageTimeout (lane : Nat) : Statement (.stageTimeout lane) :=
  fun h => pick2 (decide (lane < 160)) h

theorem Sys2Proof.Laws.Wf.signalLoss (lane : Nat) (unlock : Bool) : Statement (.signalLoss lane unlock) :=
  fun h => pick2 (decide (lane < 160)) h

theorem Sys2Proof.Laws.Wf.calibrationEnd (lane : Nat) (ok : Bool) : Statement (.calibrationEnd lane ok) :=
  fun h => pick2 (decide (lane < 160)) h

theorem Sys2Proof.Laws.Wf.inject (req : Req) (lane : Nat) : Statement (.inject req lane) :=
  fun h => pick4 (req.valid) (decide (lane < 160)) h

theorem Sys2Proof.Laws.Wf.prbsClear (req : Req) (lane : Nat) : Statement (.prbsClear req lane) :=
  fun h => pick4 (req.valid) (decide (lane < 160)) h

theorem Sys2Proof.Laws.Wf.prbsLock (lane : Nat) : Statement (.prbsLock lane) :=
  fun h => pick2 (decide (lane < 160)) h

theorem Sys2Proof.Laws.Wf.prbsLost (lane bits errs : Nat) : Statement (.prbsLost lane bits errs) :=
  fun h => pick2 (decide (lane < 160)) h

theorem Sys2Proof.Laws.Wf.fabCfgWrite (req : Req) (lane value : Nat) : Statement (.fabCfgWrite req lane value) :=
  fun h => pick4 (req.valid) (decide (lane < 160)) h

theorem Sys2Proof.Laws.Wf.txEqWrite (req : Req) (lane value : Nat) : Statement (.txEqWrite req lane value) :=
  fun h => pick4 (req.valid) (decide (lane < 160)) h

theorem Sys2Proof.Laws.Wf.bridgeSend (lane : Nat) (lines : List (BitVec 512)) : Statement (.bridgeSend lane lines) :=
  fun h => pick2 (decide (lane < 160)) h

theorem Sys2Proof.Laws.Wf.bridgeTimer (lane : Nat) (lines : List (BitVec 512)) : Statement (.bridgeTimer lane lines) :=
  fun h => pick2 (decide (lane < 160)) h

theorem Sys2Proof.Laws.Wf.linkUp (ev : LinkEvent) : Statement (.linkUp ev) :=
  fun h => pick3 (isLinkEvent ev) h

theorem Sys2Proof.Laws.Wf.linkDown (link : LinkName) : Statement (.linkDown link) :=
  fun h => pick3 (isLink link) h

theorem Sys2Proof.Laws.Wf.hotReset (port : Nat) (kind : PortReset) : Statement (.hotReset port kind) :=
  fun h => pick2 (decide (port < 4)) h

theorem Sys2Proof.Laws.Wf.bar0 (port func : Nat) (acc : HostAcc) : Statement (.bar0 port func acc) :=
  fun h => pick2 (decide (port < 4)) h

theorem Sys2Proof.Laws.Wf.bar2 (port : Nat) (acc : HostAcc) : Statement (.bar2 port acc) :=
  fun h => pick2 (decide (port < 4)) h

theorem Sys2Proof.Laws.Wf.inbound (port : Nat) (acc : HostAcc) : Statement (.inbound port acc) :=
  fun h => pick2 (decide (port < 4)) h

theorem Sys2Proof.Laws.Wf.cxlMem (port : Nat) (acc : HostAcc) : Statement (.cxlMem port acc) :=
  fun h => pick2 (decide (port < 4)) h

theorem Sys2Proof.Laws.Wf.ptmRequest (port : Nat) : Statement (.ptmRequest port) :=
  fun h => pick2 (decide (port < 4)) h

theorem Sys2Proof.Laws.Wf.fnAssignWrite (req : Req) (port value : Nat) : Statement (.fnAssignWrite req port value) :=
  fun h => pick4 (req.valid) (decide (port < 4)) h

theorem Sys2Proof.Laws.Wf.fnLayoutWrite (req : Req) (port pf value : Nat) : Statement (.fnLayoutWrite req port pf value) :=
  fun h => pick6 (req.valid) (decide (port < 4)) (decide (pf < 16)) h

theorem Sys2Proof.Laws.Wf.windowWrite (req : Req) (inbound : Bool) (port j part value : Nat) : Statement (.windowWrite req inbound port j part value) :=
  fun h => pick11 (req.valid) (decide (port < 4)) (decide (j < 16)) (decide (part < 4)) h

theorem Sys2Proof.Laws.Wf.rpOwnerWrite (req : Req) (port value : Nat) : Statement (.rpOwnerWrite req port value) :=
  fun h => pick4 (req.valid) (decide (port < 4)) h

theorem Sys2Proof.Laws.Wf.ethReceive (mac : Nat) (frame : List Nat) (fcsOk : Bool) : Statement (.ethReceive mac frame fcsOk) :=
  fun h => pick8 (decide (mac < 8)) (isBytes frame) h

theorem Sys2Proof.Laws.Wf.stnCfgWrite (req : Req) (mac j value : Nat) : Statement (.stnCfgWrite req mac j value) :=
  fun h => pick6 (req.valid) (decide (mac < 8)) (decide (j < 32)) h

theorem Sys2Proof.Laws.Wf.skejaSend (k path : Nat) : Statement (.skejaSend k path) :=
  fun h => pick5 (decide (k < 8)) (decide (path < 2)) h

theorem Sys2Proof.Laws.Wf.skejaReceive (k path : Nat) (frame : SkFrame) (fecOk tagOk : Bool) : Statement (.skejaReceive k path frame fecOk tagOk) :=
  fun h => pick5 (decide (k < 8)) (decide (path < 2)) h

theorem Sys2Proof.Laws.Wf.nak (k path ack : Nat) : Statement (.nak k path ack) :=
  fun h => pick5 (decide (k < 8)) (decide (path < 2)) h

theorem Sys2Proof.Laws.Wf.udpTimeout (k frames : Nat) : Statement (.udpTimeout k frames) :=
  fun h => pick2 (decide (k < 8)) h

theorem Sys2Proof.Laws.Wf.pathUp (k path : Nat) : Statement (.pathUp k path) :=
  fun h => pick5 (decide (k < 8)) (decide (path < 2)) h

theorem Sys2Proof.Laws.Wf.handshakeEnd (k path : Nat) (ok : Bool) : Statement (.handshakeEnd k path ok) :=
  fun h => pick5 (decide (k < 8)) (decide (path < 2)) h

theorem Sys2Proof.Laws.Wf.checkMatch (k : Nat) : Statement (.checkMatch k) :=
  fun h => pick2 (decide (k < 8)) h

theorem Sys2Proof.Laws.Wf.pathDown (k path : Nat) : Statement (.pathDown k path) :=
  fun h => pick5 (decide (k < 8)) (decide (path < 2)) h

theorem Sys2Proof.Laws.Wf.weirMil (bundle half data sb err : Nat) (fix : Option Nat) : Statement (.weirMil bundle half data sb err fix) :=
  fun h => pick12 (isBundle bundle) (decide (half < 2)) h

theorem Sys2Proof.Laws.Wf.weirTrib (bundle skip err : Nat) (fix : Option Nat) : Statement (.weirTrib bundle skip err fix) :=
  fun h => pick3 (isBundle bundle) h

theorem Sys2Proof.Laws.Wf.shadowAdvance (bundle half : Nat) : Statement (.shadowAdvance bundle half) :=
  fun h => pick12 (isBundle bundle) (decide (half < 2)) h

theorem Sys2Proof.Laws.Wf.lchkReq (bundle half errs : Nat) : Statement (.lchkReq bundle half errs) :=
  fun h => pick12 (isBundle bundle) (decide (half < 2)) h

theorem Sys2Proof.Laws.Wf.laneCheckEnd (bundle half : Nat) (errs : List (Nat × Nat)) (persists : Bool) : Statement (.laneCheckEnd bundle half errs persists) :=
  fun h => pick12 (isBundle bundle) (decide (half < 2)) h

theorem Sys2Proof.Laws.Wf.clocksLost (bundle bits : Nat) : Statement (.clocksLost bundle bits) :=
  fun h => pick3 (isBundle bundle) h

theorem Sys2Proof.Laws.Wf.repairFuse : Statement (.repairFuse) :=
  fun h => pick3 (true) h

theorem Sys2Proof.Laws.Wf.ucieFail (ford module : Nat) : Statement (.ucieFail ford module) :=
  fun h => pick5 (decide (ford < 4)) (decide (module < 6)) h

theorem Sys2Proof.Laws.Wf.quarantine (die cause : Nat) : Statement (.quarantine die cause) :=
  fun h => pick2 (decide (die < 12)) h

theorem Sys2Proof.Laws.Wf.readmission (die supplier rev : Nat) (admitted : Bool) (env : TrainEnv) : Statement (.readmission die supplier rev admitted env) :=
  fun h => pick2 (decide (die < 12)) h

theorem Sys2Proof.Laws.Wf.railLoss (rail : Rail) (back : Bool) : Statement (.railLoss rail back) :=
  fun h => pick3 (isRail rail) h

theorem Sys2Proof.Laws.Wf.thermTrip : Statement (.thermTrip) :=
  fun h => pick3 (true) h

theorem Sys2Proof.Laws.Wf.idcode (tap : Nat) : Statement (.idcode tap) :=
  fun h => pick2 (decide (tap < 13)) h

theorem Sys2Proof.Laws.Wf.samplePreload (tap value : Nat) : Statement (.samplePreload tap value) :=
  fun h => pick2 (decide (tap < 13)) h

theorem Sys2Proof.Laws.Wf.extest (tap : Nat) : Statement (.extest tap) :=
  fun h => pick2 (decide (tap < 13)) h

theorem Sys2Proof.Laws.Wf.extestPulse (tap : Nat) : Statement (.extestPulse tap) :=
  fun h => pick2 (decide (tap < 13)) h

theorem Sys2Proof.Laws.Wf.extestTrain (tap : Nat) : Statement (.extestTrain tap) :=
  fun h => pick2 (decide (tap < 13)) h

theorem Sys2Proof.Laws.Wf.highz (tap : Nat) : Statement (.highz tap) :=
  fun h => pick2 (decide (tap < 13)) h

theorem Sys2Proof.Laws.Wf.clamp (tap : Nat) : Statement (.clamp tap) :=
  fun h => pick2 (decide (tap < 13)) h

theorem Sys2Proof.Laws.Wf.bypass (tap : Nat) : Statement (.bypass tap) :=
  fun h => pick2 (decide (tap < 13)) h

theorem Sys2Proof.Laws.Wf.mbox (tap : Nat) : Statement (.mbox tap) :=
  fun h => pick2 (decide (tap < 13)) h

theorem Sys2Proof.Laws.Wf.jtagRead (addr : Nat) : Statement (.jtagRead addr) :=
  fun h => pick3 (true) h

theorem Sys2Proof.Laws.Wf.jtagWrite (addr value : Nat) : Statement (.jtagWrite addr value) :=
  fun h => pick3 (true) h

theorem Sys2Proof.Laws.Wf.testLogicReset : Statement (.testLogicReset) :=
  fun h => pick3 (true) h

theorem Sys2Proof.Laws.Wf.func (req : Req) (pin code : Nat) : Statement (.func req pin code) :=
  fun h => pick4 (req.valid) (decide (pin < 384)) h

theorem Sys2Proof.Laws.Wf.switchEdge (pin : Nat) : Statement (.switchEdge pin) :=
  fun h => pick2 (decide (pin < 384)) h

theorem Sys2Proof.Laws.Wf.holdEnd (pin : Nat) : Statement (.holdEnd pin) :=
  fun h => pick2 (decide (pin < 384)) h

theorem Sys2Proof.Laws.Wf.swLate (pin : Nat) : Statement (.swLate pin) :=
  fun h => pick2 (decide (pin < 384)) h

theorem Sys2Proof.Laws.Wf.gpioSet (req : Req) (bank : Nat) (hi : Bool) (bits : Nat) : Statement (.gpioSet req bank hi bits) :=
  fun h => pick4 (req.valid) (decide (bank < 8)) h

theorem Sys2Proof.Laws.Wf.gpioClr (req : Req) (bank : Nat) (hi : Bool) (bits : Nat) : Statement (.gpioClr req bank hi bits) :=
  fun h => pick4 (req.valid) (decide (bank < 8)) h

theorem Sys2Proof.Laws.Wf.gpioTgl (req : Req) (bank : Nat) (hi : Bool) (bits : Nat) : Statement (.gpioTgl req bank hi bits) :=
  fun h => pick4 (req.valid) (decide (bank < 8)) h

theorem Sys2Proof.Laws.Wf.pinEvent (line : Nat) (pad : Bool) : Statement (.pinEvent line pad) :=
  fun h => pick2 (decide (line < 16)) h

theorem Sys2Proof.Laws.Wf.i2cRead (addr : Nat) : Statement (.i2cRead addr) :=
  fun h => pick3 (true) h

theorem Sys2Proof.Laws.Wf.grantExpire (view : Nat) : Statement (.grantExpire view) :=
  fun h => pick2 (decide (view < 6)) h

theorem Sys2Proof.Laws.Wf.endGrant (view : Nat) : Statement (.endGrant view) :=
  fun h => pick2 (decide (view < 6)) h

theorem Sys2Proof.Laws.Wf.peek (view stall : Nat) : Statement (.peek view stall) :=
  fun h => pick5 (decide (view < 6)) (decide (stall < 32)) h

theorem Sys2Proof.Laws.Wf.poke (view stall : Nat) : Statement (.poke view stall) :=
  fun h => pick5 (decide (view < 6)) (decide (stall < 32)) h

theorem Sys2Proof.Laws.Wf.halt (view n : Nat) : Statement (.halt view n) :=
  fun h => pick5 (decide (view < 6)) (decide (n < 512)) h

theorem Sys2Proof.Laws.Wf.engineHalt (n : Nat) : Statement (.engineHalt n) :=
  fun h => pick2 (decide (n < 512)) h

theorem Sys2Proof.Laws.Wf.lockBroken (n : Nat) : Statement (.lockBroken n) :=
  fun h => pick2 (decide (n < 512)) h

theorem Sys2Proof.Laws.Wf.releaseEngine (view n : Nat) : Statement (.releaseEngine view n) :=
  fun h => pick5 (decide (view < 6)) (decide (n < 512)) h

theorem Sys2Proof.Laws.Wf.step (view n count : Nat) : Statement (.step view n count) :=
  fun h => pick5 (decide (view < 6)) (decide (n < 512)) h

theorem Sys2Proof.Laws.Wf.fire (view : Nat) : Statement (.fire view) :=
  fun h => pick2 (decide (view < 6)) h

theorem Sys2Proof.Laws.Wf.dbgTrig (shed : Nat) : Statement (.dbgTrig shed) :=
  fun h => pick2 (decide (shed < 384)) h

theorem Sys2Proof.Laws.Wf.snapEnd (view : Nat) (forced : Bool) : Statement (.snapEnd view forced) :=
  fun h => pick2 (decide (view < 6)) h

theorem Sys2Proof.Laws.Wf.capResume (view : Nat) : Statement (.capResume view) :=
  fun h => pick2 (decide (view < 6)) h

theorem Sys2Proof.Laws.Wf.ringCtlWrite (req : Req) (r value : Nat) : Statement (.ringCtlWrite req r value) :=
  fun h => pick4 (req.valid) (decide (r < 8)) h

theorem Sys2Proof.Laws.Wf.clockEdge (clk : ClockId) (falling : Bool) (elems : List ElemIn) : Statement (.clockEdge clk falling elems) :=
  fun h => pick9 (isClock clk) (elems.all isElem) h

theorem Sys2Proof.Laws.Wf.upset (bit : UpsetAt) : Statement (.upset bit) :=
  fun h => pick3 (true) h

theorem Sys2Proof.Laws.Wf.pairReturn (pair : Nat) : Statement (.pairReturn pair) :=
  fun h => pick2 (decide (pair < 8)) h

theorem Sys2Proof.Laws.Wf.tlpCompletion (port tag : Nat) (result : TlpEnd) : Statement (.tlpCompletion port tag result) :=
  fun h => pick5 (decide (port < 4)) (decide (tag < 1024)) h

theorem Sys2Proof.Laws.Wf.pllLock (yard pll : Nat) : Statement (.pllLock yard pll) :=
  fun h => pick5 (decide (yard < 9)) (decide (pll < 8)) h

theorem Sys2Proof.Laws.Wf.thermAlert (hot : Bool) : Statement (.thermAlert hot) :=
  fun h => pick3 (true) h
end

