-- ==== Sys2Proof/Laws/ResetCommands.lean ====
section
/-! SUPPORT. What the resets and the start sequence come to. -/

namespace Sys2Proof.Machine

theorem mbStat_ne {a b : Nat} (ha : a < 6) (hb : b < 6) (h : a ≠ b) : rMB_STAT a ≠ rMB_STAT b := by
  intro e
  exact h (addr_inj (k := .mbox) (l := .mbox) ha hb (by decide) (by decide) (show PageKind.mbox.addr a + 0x044 = PageKind.mbox.addr b + 0x044 from e)).2.1

theorem accept_fold (s : State) : ∀ l : List Nat, (∀ b ∈ l, b < 6) → ∀ b, b < 6 →
    (l.foldl (fun (t : State) b => t.fset (rMB_STAT b) fMB_STAT_ACCEPTING 1) s).flag (rMB_STAT b) fMB_STAT_ACCEPTING =
      (l.contains b || s.flag (rMB_STAT b) fMB_STAT_ACCEPTING) := by
  intro l
  induction l generalizing s with
  | nil => intro _ b _; simp
  | cons x xs ih =>
    intro hl b hb
    rw [List.foldl_cons, ih _ (fun y hy => hl y (List.mem_cons_of_mem _ hy)) b hb]
    have hx : x < 6 := hl x (by simp)
    by_cases e : b = x
    · subst e
      simp [State.flag, State.fget_fset, fMB_STAT_ACCEPTING]
    · have : (s.fset (rMB_STAT x) fMB_STAT_ACCEPTING 1).flag (rMB_STAT b) fMB_STAT_ACCEPTING = s.flag (rMB_STAT b) fMB_STAT_ACCEPTING := by
        unfold State.flag; rw [State.fget_fset_ne _ _ (by decide) (by decide) (mbStat_ne hb hx e)]
      rw [this]
      simp [e]

theorem accept_effect (s : State) :
    (∀ b ∈ [0, 1, 2, 3, 5], s.accept.flag (rMB_STAT b) fMB_STAT_ACCEPTING = true) ∧ s.accept.fget (rTOL_STAT 0) fTOL_STAT_MODE = 0 := by
  have hl : ∀ b ∈ [0, 1, 2, 3, 5] ++ (if s.role = 2 then [4] else []), b < 6 := by
    intro b hb
    by_cases hr : s.role = 2 <;> simp [hr] at hb <;> omega
  constructor
  · intro b hb
    have hb6 : b < 6 := hl b (List.mem_append_left _ hb)
    unfold State.accept State.flag
    rw [State.fget_fset_ne _ _ (by decide) (by decide)]
    · have := accept_fold s _ hl b hb6
      unfold State.flag at this
      rw [this]
      have : ([0, 1, 2, 3, 5] ++ (if s.role = 2 then [4] else [])).contains b = true := by
        rw [List.contains_iff_mem]; exact List.mem_append_left _ hb
      rw [this]; rfl
    · intro e
      have := (addr_inj (k := .mbox) (l := .tolmorCtl) (j := 0) hb6 (by decide) (by decide) (by decide) (show PageKind.mbox.addr b + 0x044 = PageKind.tolmorCtl.addr 0 + 0x040 from e)).1
      cases this
  · unfold State.accept
    rw [State.fget_fset _ _ _ _ (by decide)]; rfl

theorem start_lit (s : State) (env : StartEnv) (h : env.pairs % 2 ^ 8 ≠ 0) : ∃ u : State, s.start env = u.accept := by
  unfold State.start
  dsimp only
  have hp : ∃ p, firstPair (env.pairs % 2 ^ 8) = some p := by
    have : ∀ x, x < 256 → x ≠ 0 → (firstPair x).isSome = true := by decide +kernel
    exact Option.isSome_iff_exists.1 (this _ (Nat.mod_lt _ (by decide)) h)
  obtain ⟨p, hp⟩ := hp
  rw [hp]
  exact ⟨_, rfl⟩

theorem start_dark (s : State) (env : StartEnv) (h : env.pairs % 2 ^ 8 = 0) :
    s.start env = ((s.takeStraps env.pads).fset (rREF_STAT 0) fREF_STAT_OK 0).setClk { ((s.takeStraps env.pads).fset (rREF_STAT 0) fREF_STAT_OK 0).clk with dark := true } := by
  unfold State.start
  dsimp only
  rw [h]
  rfl

theorem State.setClk_rd32 (s : State) (c : Clk) (b : Nat) : (s.setClk c).rd32 b = s.rd32 b := rfl

theorem State.setClk_dark (s : State) (c : Clk) : (s.setClk { c with dark := true }).clk.dark = true := rfl

theorem dark_effect (s : State) (env : StartEnv) (cause : Nat) (power : Bool) (h : env.pairs % 2 ^ 8 = 0) (hc : cause < 8) :
    let t := (s.resetAll cause power).start env
    t.clk.dark = true ∧ t.rd32 (rRST_CAUSE 0) = cause ∧ t.rd32 (rSTRAP 0) = env.pads % 2 ^ 5 ∧
      State.reset.wordsBut t [rRST_CAUSE 0, rREPAIR_STAT 0, rMGPIO_IN 0, rMGPIO_IN 0 + 4, rSTRAP 0, rTOL_INFO 0, rTREE_STAT 0, rREF_STAT 0] ∧
      t.eddies = [] ∧ t.stalls = [] ∧ t.pins = [] ∧ t.lanes = [] ∧ t.views = [] ∧ t.mem = Mem.reset ∧ t.mil = Mil.reset ∧ t.fab = Fabric.reset ∧
      t.tide = Tide.reset ∧ t.tree = Tree.reset ∧ t.tol = Tol.reset ∧ t.tally = Tally.reset ∧ t.dbg = Dbg.reset ∧ t.ports = Ports.reset ∧
      t.d2d.repair = s.d2d.repair.filter (fun e => !e.sram) ∧ t.d2d.taps = (if power = true then [] else s.d2d.taps) ∧
      t.otp = s.otp ∧ t.out = s.out ∧ t.fresh = s.fresh ∧ t.pending = s.pending := by
  intro t
  have ht : t = _ := start_dark (s.resetAll cause power) env h
  have e1 : rRST_CAUSE 0 = 0x0000f1d0 := rfl
  have e2 : rREPAIR_STAT 0 = 0x00005080 := rfl
  have e3 : rMGPIO_IN 0 = 0x0004a050 := rfl
  have e4 : rSTRAP 0 = 0x0004a058 := rfl
  have e5 : rTOL_INFO 0 = 0x00001044 := rfl
  have e6 : rTREE_STAT 0 = 0x00007040 := rfl
  have e7 : rREF_STAT 0 = 0x0000f040 := rfl
  have hw : ∀ b, t.rd32 b = (((s.resetAll cause power).takeStraps env.pads).fset (rREF_STAT 0) fREF_STAT_OK 0).rd32 b := by intro b; rw [ht]; exact State.setClk_rd32 ..
  unfold State.takeStraps at hw
  dsimp only at hw
  have hne : ∀ b, b ≠ 0x4a050 → b ≠ 0x4a054 → b ≠ 0x4a058 → b ≠ 0x1044 → b ≠ 0x7040 → b ≠ 0xf040 → t.rd32 b = (s.resetAll cause power).rd32 b := by
    intro b h1 h2 h3 h4 h5 h6
    rw [hw, State.rd32_fset _ _ _ _ (by decide), e7, if_neg h6, State.rd32_fset _ _ _ _ (by decide), e6, if_neg h5, State.rd32_fset _ _ _ _ (by decide), e5, if_neg h4,
      State.rd32_fset _ _ _ _ (by decide), if_neg h4, State.rd32_wr32_if, e4, if_neg h3, State.wr64, State.rd32_wr32_if, e3, if_neg h2, State.rd32_wr32_if, if_neg h1]
  have hst : t.rd32 0x4a058 = env.pads % 2 ^ 5 % 2 ^ 32 := by
    rw [hw, State.rd32_fset _ _ _ _ (by decide), e7, if_neg (by decide), State.rd32_fset _ _ _ _ (by decide), e6, if_neg (by decide), State.rd32_fset _ _ _ _ (by decide), e5, if_neg (by decide),
      State.rd32_fset _ _ _ _ (by decide), if_neg (by decide), State.rd32_wr32_if, e4, if_pos rfl]
  have hr : ∀ b, b ≠ 0x5080 → (s.resetAll cause power).rd32 b = if b = 0xf1d0 then cause else State.reset.rd32 b := by
    intro b h1
    unfold State.resetAll
    dsimp only
    rw [State.rd32_fset _ _ _ _ (by decide), e2, if_neg h1, e1, State.rd32_wr32_if, Nat.mod_eq_of_lt (by omega)]
    rfl
  refine ⟨by rw [ht]; exact State.setClk_dark .., ?_, ?_, ?_, ?_⟩
  · rw [e1, hne _ (by decide) (by decide) (by decide) (by decide) (by decide) (by decide), hr _ (by decide), if_pos rfl]
  · rw [e4, hst]; omega
  · intro b hb
    simp only [List.contains_cons, List.contains_nil, Bool.or_false, Bool.or_eq_false_iff, beq_eq_false_iff_ne, e1, e2, e3, e4, e5, e6, e7] at hb
    obtain ⟨h1, h2, h3, h4, h5, h6, h7, h8⟩ := hb
    rw [State.word_eq_iff, hne _ h3 h4 h5 h6 h7 h8, hr _ h2, if_neg h1]
  · rw [ht]
    simp only [State.takeStraps, State.resetAll]
    cases power <;> simp [State.setClk, State.reset, D2D.reset]

end Sys2Proof.Machine
end

