-- ==== Sys2Proof/Laws/TreeCommands.lean ====
section
/-! SUPPORT. The tree of devices (R301–R303): messages slot by slot, joining, and leaving. -/

namespace Sys2Proof.Machine

/-- Messages that go out slot by slot. -/
theorem State.sends (p : Nat → Bool) (m : Nat → Mgmt) (L : List Nat) : ∀ s : State,
    L.foldl (fun t k => if p k then t.sendMgmt k (m k) else t) s = { s with out := s.out ++ (L.filter p).map (fun k => .mgmt k (m k)) } := by
  induction L with
  | nil => intro s; simp
  | cons a L ih =>
    intro s
    rw [List.foldl_cons, ih]
    by_cases h : p a = true
    · rw [if_pos h, List.filter_cons, if_pos h, List.map_cons]
      show { s with out := (s.out ++ [Out.mgmt a (m a)]) ++ _ } = _
      rw [List.append_assoc]; rfl
    · rw [if_neg h, List.filter_cons, if_neg h]

theorem smPut_length {α : Type} (k : Nat) (v : α) (m : SMap α) : (smPut k v m).length ≤ m.length + 1 := by
  induction m with
  | nil => exact Nat.le_refl _
  | cons x m ih =>
    obtain ⟨j, w⟩ := x
    unfold smPut
    split
    · exact Nat.le_refl _
    · split
      · simp
      · simp only [List.length_cons]; omega

/-- The HELLO with the least level, the least slot among equals. -/
theorem helloBest (L : List (Nat × Nat × Nat × Nat)) : ∀ b : Nat × Nat × Nat × Nat,
    ∃ y, L.foldl (fun b x => match b with
      | none => some x
      | some y => if x.2.2.1 < y.2.2.1 ∨ (x.2.2.1 = y.2.2.1 ∧ x.1 < y.1) then some x else b) (some b) = some y ∧ (y = b ∨ y ∈ L) ∧
      (∀ z, z = b ∨ z ∈ L → y.2.2.1 < z.2.2.1 ∨ (y.2.2.1 = z.2.2.1 ∧ y.1 ≤ z.1)) := by
  induction L with
  | nil => intro b; exact ⟨b, rfl, Or.inl rfl, by rintro z (rfl | h); exact Or.inr ⟨rfl, Nat.le_refl _⟩; exact absurd h (by simp)⟩
  | cons a L ih =>
    intro b
    rw [List.foldl_cons]
    dsimp only
    by_cases h : a.2.2.1 < b.2.2.1 ∨ (a.2.2.1 = b.2.2.1 ∧ a.1 < b.1)
    · rw [if_pos h]
      obtain ⟨y, h1, h2, h3⟩ := ih a
      refine ⟨y, h1, ?_, ?_⟩
      · rcases h2 with rfl | h2
        · exact Or.inr (List.mem_cons_self ..)
        · exact Or.inr (List.mem_cons_of_mem _ h2)
      · rintro z (rfl | hz)
        · have := h3 a (Or.inl rfl); omega
        · rcases List.mem_cons.mp hz with rfl | hz
          · exact h3 _ (Or.inl rfl)
          · exact h3 _ (Or.inr hz)
    · rw [if_neg h]
      obtain ⟨y, h1, h2, h3⟩ := ih b
      refine ⟨y, h1, ?_, ?_⟩
      · rcases h2 with rfl | h2
        · exact Or.inl rfl
        · exact Or.inr (List.mem_cons_of_mem _ h2)
      · rintro z (rfl | hz)
        · exact h3 _ (Or.inl rfl)
        · rcases List.mem_cons.mp hz with rfl | hz
          · have := h3 b (Or.inl rfl); omega
          · exact h3 _ (Or.inr hz)

/-- R292: the root state. -/
theorem State.updateRoot_root (s : State) (h : ∀ p, s.tide.parentRoot = some p → p < 8) : s.updateRoot.fget (rTIDE_STAT 0) fTIDE_STAT_ROOT_STATE =
    match s.tide.parentRoot with
    | some p => if tideRank s.tideState < tideRank p then p else s.tideState
    | none => s.tideState := by
  have hs : s.tideState < 8 := State.fget_lt _ _ (by decide)
  let root := match s.tide.parentRoot with
    | some p => if tideRank s.tideState < tideRank p then p else s.tideState
    | none => s.tideState
  have hr : s.updateRoot.regs = (s.fset (rTIDE_STAT 0) fTIDE_STAT_ROOT_STATE root).regs := by
    show (if root = 2 then s.fset (rTIDE_STAT 0) fTIDE_STAT_ROOT_STATE root else (s.fset (rTIDE_STAT 0) fTIDE_STAT_ROOT_STATE root).flagIntervals 4).regs = _
    split
    · rfl
    · exact (State.flagIntervals_facts ..).1
  have hl : root < 8 := by
    show (match s.tide.parentRoot with
    | some p => if tideRank s.tideState < tideRank p then p else s.tideState
    | none => s.tideState) < 8
    cases hp : s.tide.parentRoot with
    | none => exact hs
    | some p => dsimp only; split; exact h p hp; exact hs
  refine (State.fget_same hr _ _).trans ?_
  rw [State.fget_fset_if _ _ _ _ (by decide), if_pos rfl]
  exact Nat.mod_eq_of_lt hl

/-- R302: a child joins. -/
theorem State.childJoins_facts (s : State) (k : Nat) (hk : k < 16) : let t := s.childJoins k
    t.bit (rTREE_LINKS 0) (16 + k) = true ∧ t.bit (rIRQ_RAW (PageKind.treeCtl.addr 0)) 1 = true ∧ t.treeRole = (if s.treeRole = 3 then 2 else s.treeRole) ∧
    (∀ i, i < 32 → i ≠ 16 + k → t.bit (rTREE_LINKS 0) i = s.bit (rTREE_LINKS 0) i) ∧
    s.wordsBut t ([rTREE_LINKS 0, rIRQ_RAW (PageKind.treeCtl.addr 0)] ++ if s.treeRole = 3 then [rTREE_STAT 0] else []) ∧ Within [.regs, .agg] s t := by
  intro t
  obtain ⟨u, hu, u1, u2, u3, u4, u5⟩ : ∃ u, u = (s.setBit (rTREE_LINKS 0) (16 + k) true).irq (PageKind.treeCtl.addr 0) 1 ∧ (∀ i, i < 32 → u.bit (rTREE_LINKS 0) i = if i = 16 + k then true else s.bit (rTREE_LINKS 0) i) ∧
      u.bit (rIRQ_RAW (PageKind.treeCtl.addr 0)) 1 = true ∧ u.treeRole = s.treeRole ∧ s.wordsBut u [rTREE_LINKS 0, rIRQ_RAW (PageKind.treeCtl.addr 0)] ∧ Within [.regs, .agg] s u := by
    have hw : s.wordsBut ((s.setBit (rTREE_LINKS 0) (16 + k) true).irq (PageKind.treeCtl.addr 0) 1) [rTREE_LINKS 0, rIRQ_RAW (PageKind.treeCtl.addr 0)] :=
      State.wordsBut.irq (State.wordsBut_setBit _ _ (by omega) (by simp)) (by decide) (by simp [rIRQ_RAW])
    refine ⟨_, rfl, ?_, ?_, State.fget_wordsBut hw _ (by decide) (by decide), hw, Within.via (State.irq_within ..) rfl (State.setBit_within ..)⟩
    · intro i hi
      rw [State.bit_irq _ _ _ _ _ (by decide) hi, if_neg (show ¬ (rTREE_LINKS 0 = PageKind.treeCtl.addr 0 + 0x010 ∧ i = 1) from fun hh => absurd hh.1 (by decide)), State.bit_setBit_if _ _ _ _ _ _ (by omega) hi]
      by_cases h : i = 16 + k
      · rw [if_pos ⟨rfl, h⟩, if_pos h]
      · rw [if_neg (fun hh => h hh.2), if_neg h]
    · show State.bit _ (PageKind.treeCtl.addr 0 + 0x010) 1 = true
      rw [State.bit_irq _ _ _ _ _ (by decide) (by decide), if_pos ⟨rfl, rfl⟩]
  have ht : t = if s.treeRole = 3 then u.fset (rTREE_STAT 0) fTREE_STAT_ROLE 2 else u := by
    show s.childJoins k = _
    unfold State.childJoins; dsimp only; rw [← hu, u3]
  rw [ht]
  by_cases h : s.treeRole = 3
  · rw [if_pos h, if_pos h, if_pos h]
    have hw := State.wordsBut_fset (a := rTREE_STAT 0) (f := fTREE_STAT_ROLE) (l := [rTREE_STAT 0]) u 2 (by decide) (by simp)
    refine ⟨?_, ?_, ?_, ?_, ?_, Within.via (State.fset_within ..) rfl u5⟩
    · rw [State.bit_wordsBut hw _ _ (by decide) (by omega), u1 _ (by omega), if_pos rfl]
    · rw [State.bit_wordsBut hw _ _ (by decide) (by omega)]; exact u2
    · unfold State.treeRole; rw [State.fget_fset_if _ _ _ _ (by decide), if_pos rfl]; rfl
    · intro i hi hne; rw [State.bit_wordsBut hw _ _ (by decide) hi, u1 _ hi, if_neg hne]
    · exact State.wordsBut_trans (State.wordsBut_mono u4 (by intro a ha; exact List.mem_append_left _ ha)) (State.wordsBut_mono hw (by intro a ha; exact List.mem_append_right _ ha))
  · rw [if_neg h, if_neg h, if_neg h]
    refine ⟨by rw [u1 _ (by omega), if_pos rfl], u2, u3, fun i hi hne => by rw [u1 _ hi, if_neg hne], State.wordsBut_mono u4 (by simp), u5⟩

/-- R302: JOIN_ACK goes down a slot. -/
theorem State.ackDown_facts (s : State) (k : Nat) (path : List Nat) (node : Option Nat) (hk : k < 16) : let t := s.ackDown k path node
    t.out = s.out ++ [.mgmt k (.joinAck path node)] ∧
    (if path = [] ∧ node.isSome = true then
        t.bit (rTREE_LINKS 0) (16 + k) = true ∧ t.bit (rIRQ_RAW (PageKind.treeCtl.addr 0)) 1 = true ∧ t.treeRole = (if s.treeRole = 3 then 2 else s.treeRole) ∧
          (∀ i, i < 32 → i ≠ 16 + k → t.bit (rTREE_LINKS 0) i = s.bit (rTREE_LINKS 0) i)
      else t.word (rTREE_LINKS 0) = s.word (rTREE_LINKS 0) ∧ t.treeRole = s.treeRole) ∧
    s.wordsBut t ([rTREE_LINKS 0, rIRQ_RAW (PageKind.treeCtl.addr 0)] ++ if s.treeRole = 3 then [rTREE_STAT 0] else []) ∧ Within [.regs, .agg, .out] s t ∧
    (node = none → t = { s with out := s.out ++ [.mgmt k (.joinAck path node)] }) := by
  intro t
  have hs : s.sendMgmt k (.joinAck path node) = { s with out := s.out ++ [.mgmt k (.joinAck path node)] } := rfl
  obtain ⟨u, hu, u1, u2, u3⟩ : ∃ u, u = s.sendMgmt k (.joinAck path node) ∧ u.regs = s.regs ∧ u.out = s.out ++ [.mgmt k (.joinAck path node)] ∧ Within [.out] s u := ⟨_, rfl, rfl, rfl, State.emit_within ..⟩
  have ht : t = if path = [] ∧ node.isSome = true then u.childJoins k else u := by
    show s.ackDown k path node = _
    unfold State.ackDown; dsimp only
    rw [← hu]
    cases path <;> cases node <;> rfl
  have hrole : u.treeRole = s.treeRole := State.fget_same u1 _ _
  rw [ht]
  by_cases h : path = [] ∧ node.isSome = true
  · rw [if_pos h, if_pos h]
    obtain ⟨c1, c2, c3, c4, c5, c6⟩ := State.childJoins_facts u k hk
    rw [hrole] at c3 c5
    refine ⟨(c6.2 .out rfl).trans u2, ⟨c1, c2, c3, fun i hi hne => (c4 i hi hne).trans (State.bit_same u1 _ _)⟩, ?_, Within.via c6 rfl (Within.mono u3 rfl), fun hh => by rw [hh] at h; exact absurd h.2 (by decide)⟩
    exact State.wordsBut_trans (State.wordsBut_of_regs _ u1) c5
  · rw [if_neg h, if_neg h]
    exact ⟨u2, ⟨State.word_same u1 _, hrole⟩, State.wordsBut_of_regs _ u1, Within.mono u3 rfl, fun _ => by rw [hu, hs]⟩

/-- R272, R303: a mailbox emptied. -/
theorem State.emptyBox_facts (s : State) (b : Nat) (hb : b < 6) : let t := s.emptyBox b
    (t.mbox b).cpls = [] ∧ (∀ m, m ≠ b → t.mbox m = s.mbox m) ∧ (∀ k, k < 64 → t.rd32 (rMB_CMD b k) = 0) ∧ t.flag (rMB_STAT b) fMB_STAT_BUSY = false ∧
    t.tol.jobs = s.tol.jobs.map (fun j => if j.box = b then { j with orphan := true } else j) ∧
    (∀ a, a / 4096 ≠ 8 + b → t.word a = s.word a) ∧ Within [.regs, .agg, .tol] s t := by
  intro t
  have hp : PageKind.mbox.addr b = 0x8000 + 0x1000 * b := by rw [addr_mbox]; omega
  have hst : rMB_STAT b = 0x8000 + 0x1000 * b + 0x044 := by unfold rMB_STAT; rw [hp]
  have hcm : ∀ k, rMB_CMD b k = 0x8000 + 0x1000 * b + 0x100 + 4 * k := by intro k; unfold rMB_CMD; rw [hp]
  have hfold : ∀ (L : List Nat), (∀ k ∈ L, k < 64) → ∀ u : State, (∀ k ∈ L, (L.foldl (fun t k => t.wr32 (rMB_CMD b k) 0) u).rd32 (rMB_CMD b k) = 0) ∧
      (∀ a, (∀ k ∈ L, a ≠ rMB_CMD b k) → (L.foldl (fun t k => t.wr32 (rMB_CMD b k) 0) u).word a = u.word a) ∧ Within [.regs, .agg] u (L.foldl (fun t k => t.wr32 (rMB_CMD b k) 0) u) := by
    intro L
    induction L with
    | nil => intro _ u; exact ⟨fun _ h => absurd h (by simp), fun _ _ => rfl, Within.refl ..⟩
    | cons x L ih =>
      intro hL u
      obtain ⟨i1, i2, i3⟩ := ih (fun k hk => hL k (List.mem_cons_of_mem _ hk)) (u.wr32 (rMB_CMD b x) 0)
      rw [List.foldl_cons]
      refine ⟨?_, ?_, Within.via i3 rfl (State.wr32_within ..)⟩
      · intro k hk
        by_cases hkL : k ∈ L
        · exact i1 k hkL
        · have hkx : k = x := by rcases List.mem_cons.mp hk with h | h; exact h; exact absurd h hkL
          subst hkx
          refine (congrArg BitVec.toNat (i2 (rMB_CMD b k) ?_)).trans (State.rd32_wr32 ..)
          intro j hj he
          rw [hcm, hcm] at he
          exact hkL ((show k = j by omega) ▸ hj)
      · intro a ha
        rw [i2 a (fun k hk => ha k (List.mem_cons_of_mem _ hk)), State.word_wr32, if_neg (ha x (List.mem_cons_self ..))]
  obtain ⟨u, hu, u1, u2, u3, u4⟩ : ∃ u, u = (List.range 64).foldl (fun t k => t.wr32 (rMB_CMD b k) 0) (s.fset (rMB_STAT b) fMB_STAT_BUSY 0) ∧ (∀ k, k < 64 → u.rd32 (rMB_CMD b k) = 0) ∧
      u.flag (rMB_STAT b) fMB_STAT_BUSY = false ∧ (∀ a, a / 4096 ≠ 8 + b → u.word a = s.word a) ∧ Within [.regs, .agg] s u := by
    obtain ⟨g1, g2, g3⟩ := hfold (List.range 64) (fun k hk => List.mem_range.mp hk) (s.fset (rMB_STAT b) fMB_STAT_BUSY 0)
    refine ⟨_, rfl, fun k hk => g1 k (List.mem_range.mpr hk), ?_, ?_, Within.via g3 rfl (State.fset_within ..)⟩
    · refine (State.flag_of_word (g2 _ (fun k hk => by rw [hst, hcm]; omega)) (by decide)).trans ?_
      unfold State.flag; rw [State.fget_fset_if _ _ _ _ (by decide), if_pos rfl]; rfl
    · intro a ha
      rw [g2 a (fun k hk => by have := List.mem_range.mp hk; rw [hcm]; omega)]
      exact State.wordsBut_fset (l := [rMB_STAT b]) s 0 (by decide) (by simp) a (by rw [hst]; simp; omega)
  have htol : u.tol = s.tol := u4.2 .tol rfl
  have hr : t.regs = u.regs := by show (s.emptyBox b).regs = _; unfold State.emptyBox; dsimp only; rw [← hu]; rfl
  have htt : t.tol = { u.tol with boxes := smSet MBox.reset u.tol.boxes b { u.mbox b with cpls := [] }, jobs := u.tol.jobs.map (fun j => if j.box = b then { j with orphan := true } else j) } := by
    show (s.emptyBox b).tol = _; unfold State.emptyBox; dsimp only; rw [← hu]; rfl
  refine ⟨?_, ?_, ?_, ?_, ?_, ?_, State.emptyBox_within ..⟩
  · unfold State.mbox; rw [htt]; dsimp only; rw [smGet_smSet_same]
  · intro m hm; unfold State.mbox; rw [htt]; dsimp only; rw [smGet_smSet_ne _ _ _ _ hm, htol]
  · intro k hk; exact (State.rd32_same hr _).trans (u1 k hk)
  · exact (State.flag_same hr _ _).trans u2
  · rw [htt]; dsimp only; rw [htol]
  · intro a ha; exact (State.word_same hr a).trans (u3 a ha)

/-- R303: a joined worker leaves the tree. -/
theorem State.treeLeave_facts (s : State) (hj : s.joined = true) : let t := s.treeLeave
    t.rd32 (rTREE_STAT 0) = 4 * 2 ^ 29 ∧ t.fget (rTREE_LINKS 0) fTREE_LINKS_CHILDREN = 0 ∧
      t.fget (rTREE_LINKS 0) fTREE_LINKS_EN = s.fget (rTREE_LINKS 0) fTREE_LINKS_EN ∧ t.bit (rIRQ_RAW (PageKind.treeCtl.addr 0)) 0 = true ∧
      t.tree = { s.tree with joining := none, mgrCmd := none, badStage := none } ∧ (t.mbox 4).cpls = [] ∧ (∀ k, k < 64 → t.rd32 (rMB_CMD 4 k) = 0) ∧ t.flag (rMB_STAT 4) fMB_STAT_BUSY = false ∧
      (∀ m, m ≠ 4 → t.mbox m = s.mbox m) ∧ t.tol.jobs = s.tol.jobs.map (fun j => if j.box = 4 then { j with orphan := true } else j) ∧
      t.tide.t1 = none ∧ t.tide.t2 = none ∧ t.tide.t3 = none ∧ t.tide.parentRoot = none ∧ t.tideState = (if s.tideState = 1 ∨ s.tideState = 2 then 3 else s.tideState) ∧
      (s.flag (rDBG_GRANT 4) fDBG_GRANT_VALID = true → t.rd32 (rDBG_GRANT 4) = 0) ∧ t.pins = s.pins ∧ t.mem = s.mem ∧ t.fab = s.fab ∧ t.ports = s.ports ∧ t.out = s.out := by
  have hrole : s.treeRole ≠ 4 := by
    intro h; unfold State.joined at hj; rw [h] at hj; exact absurd hj (by decide)
  have hwt := State.treeLeave_within s
  obtain ⟨u, hu, u1, u2, u3, u4, u5, u6⟩ : ∃ u, u = ((s.wr32 (rTREE_STAT 0) (4 * 2 ^ 29)).fset (rTREE_LINKS 0) fTREE_LINKS_CHILDREN 0).irq (PageKind.treeCtl.addr 0) 0 ∧
      u.rd32 (rTREE_STAT 0) = 4 * 2 ^ 29 ∧ u.fget (rTREE_LINKS 0) fTREE_LINKS_CHILDREN = 0 ∧ u.fget (rTREE_LINKS 0) fTREE_LINKS_EN = s.fget (rTREE_LINKS 0) fTREE_LINKS_EN ∧
      u.bit (rIRQ_RAW (PageKind.treeCtl.addr 0)) 0 = true ∧ s.wordsBut u [rTREE_STAT 0, rTREE_LINKS 0, rIRQ_RAW (PageKind.treeCtl.addr 0)] ∧ Within [.regs, .agg] s u := by
    have hl : ∀ f : Fld, f.lo + f.width ≤ 32 → (((s.wr32 (rTREE_STAT 0) (4 * 2 ^ 29)).fset (rTREE_LINKS 0) fTREE_LINKS_CHILDREN 0).irq (PageKind.treeCtl.addr 0) 0).fget (rTREE_LINKS 0) f
        = ((s.wr32 (rTREE_STAT 0) (4 * 2 ^ 29)).fset (rTREE_LINKS 0) fTREE_LINKS_CHILDREN 0).fget (rTREE_LINKS 0) f := fun f hf =>
      State.fget_wordsBut (State.wordsBut_irq (l := [PageKind.treeCtl.addr 0 + 0x010]) _ (by decide) (by simp)) _ (by decide) hf
    refine ⟨_, rfl, ?_, ?_, ?_, ?_, ?_, ?_⟩
    · have hb : (s.wr32 (rTREE_STAT 0) (4 * 2 ^ 29)).wordsBut (((s.wr32 (rTREE_STAT 0) (4 * 2 ^ 29)).fset (rTREE_LINKS 0) fTREE_LINKS_CHILDREN 0).irq (PageKind.treeCtl.addr 0) 0) [rTREE_LINKS 0, rIRQ_RAW (PageKind.treeCtl.addr 0)] :=
        State.wordsBut.irq (State.wordsBut_fset _ _ (by decide) (by simp)) (by decide) (by simp [rIRQ_RAW])
      exact (congrArg BitVec.toNat (hb _ (by decide))).trans (State.rd32_wr32 ..)
    · rw [hl _ (by decide), State.fget_fset_if _ _ _ _ (by decide), if_pos rfl]; rfl
    · rw [hl _ (by decide), State.fget_fset_apart _ _ _ _ (by decide) (by decide) (by decide)]
      exact State.fget_wordsBut (State.wordsBut_wr32 (a := rTREE_STAT 0) (l := [rTREE_STAT 0]) _ _ (by simp)) _ (by decide) (by decide)
    · show State.bit _ (PageKind.treeCtl.addr 0 + 0x010) 0 = true
      rw [State.bit_irq _ _ _ _ _ (by decide) (by decide), if_pos ⟨rfl, rfl⟩]
    · exact State.wordsBut.irq (State.wordsBut.fset (State.wordsBut_wr32 (a := rTREE_STAT 0) _ _ (by simp)) (by decide) (by simp)) (by decide) (by simp [rIRQ_RAW])
    · exact Within.via (State.irq_within ..) rfl (Within.via (State.fset_within ..) rfl (State.wr32_within ..))
  obtain ⟨v, hv, v1, v2⟩ : ∃ v, v = u.setTide { u.tide with t1 := none, t2 := none, t3 := none, parentRoot := none } ∧ v.regs = u.regs ∧ v.tide = { u.tide with t1 := none, t2 := none, t3 := none, parentRoot := none } := ⟨_, rfl, rfl, rfl⟩
  have hvs : v.tideState = s.tideState := (State.fget_same v1 _ _).trans (State.fget_wordsBut u5 _ (by decide) (by decide))
  obtain ⟨w, hw, w1, w2, w3, w4⟩ : ∃ w, w = v.sourceLost ∧ w.tideState = (if s.tideState = 1 ∨ s.tideState = 2 then 3 else s.tideState) ∧
      (w.tide.t1 = none ∧ w.tide.t2 = none ∧ w.tide.t3 = none ∧ w.tide.parentRoot = none) ∧ v.wordsBut w [rTIDE_STAT 0, rIRQ_RAW (PageKind.tideCtl.addr 0)] ∧ Within [.regs, .agg, .tally, .tide] v w := by
    refine ⟨_, rfl, ?_⟩
    unfold State.sourceLost
    rw [hvs]
    by_cases h : s.tideState = 1 ∨ s.tideState = 2
    · rw [if_pos h, if_pos h]
      obtain ⟨e1, e2, e3, e4, e5, e6, e7⟩ := State.enterTide_facts v 3 (by decide) (by decide)
      refine ⟨e1, ?_, e6, e7⟩
      rw [e2, v2]; exact ⟨rfl, rfl, rfl, rfl⟩
    · rw [if_neg h, if_neg h]
      refine ⟨hvs, ?_, State.wordsBut_refl _ _, Within.refl ..⟩
      rw [v2]; exact ⟨rfl, rfl, rfl, rfl⟩
  obtain ⟨x, hx, x1, x2, x3⟩ : ∃ x, x = w.updateRoot ∧ x.tideState = w.tideState ∧ x.tide = w.tide ∧ w.wordsBut x [rTIDE_STAT 0] := by
    obtain ⟨r1, r2, r3, r4, r5⟩ := State.updateRoot_facts w
    exact ⟨_, rfl, r1, r2, r4⟩
  obtain ⟨m1, m2, m3, m4, m5, m6, m7⟩ := State.emptyBox_facts x 4 (by decide)
  obtain ⟨y, hy⟩ : ∃ y, y = x.emptyBox 4 := ⟨_, rfl⟩
  rw [← hy] at m1 m2 m3 m4 m5 m6 m7
  obtain ⟨g1, g2, g3⟩ := State.endGrant_facts y 4
  have hgw := State.endGrant_within y 4
  obtain ⟨z, hz⟩ : ∃ z, z = y.endGrant 4 := ⟨_, rfl⟩
  rw [← hz] at g1 g2 g3 hgw
  have ht : s.treeLeave = z.setTree { z.tree with joining := none, mgrCmd := none, badStage := none } := by
    unfold State.treeLeave
    rw [if_neg hrole, if_neg (by rw [hj]; decide)]
    dsimp only
    rw [← hu, ← hv, ← hw, ← hx, ← hy, ← hz]
  intro t
  have htr : t.regs = z.regs := by show s.treeLeave.regs = _; rw [ht]; rfl
  have htt : t.tree = { s.tree with joining := none, mgrCmd := none, badStage := none } := by
    show s.treeLeave.tree = _
    have hzt : z.tree = s.tree := by
      refine (hgw.2 .tree rfl).trans ((m7.2 .tree rfl).trans ?_)
      rw [hx]
      refine ((State.updateRoot_within w).2 .tree rfl).trans ?_
      rw [hw]
      refine ((State.sourceLost_within v).2 .tree rfl).trans ?_
      rw [hv]
      exact u6.2 .tree rfl
    rw [ht]
    show { z.tree with joining := none, mgrCmd := none, badStage := none } = _
    rw [hzt]
  have htol : t.tol = y.tol := by
    show s.treeLeave.tol = _
    rw [ht]; exact hgw.2 .tol rfl
  have hxt : x.tol = s.tol := by
    rw [hx]
    refine ((State.updateRoot_within w).2 .tol rfl).trans ?_
    refine (w4.2 .tol rfl).trans ?_
    rw [hv]
    exact u6.2 .tol rfl
  have htide : t.tide = w.tide := by
    show s.treeLeave.tide = _
    rw [ht]
    exact (hgw.2 .tide rfl).trans ((m7.2 .tide rfl).trans x2)
  -- words of the tree's page
  have hwd : ∀ a, a < 0x01000000 → a / 4096 ≠ 12 → t.word a = x.word a := fun a ha hne => (State.word_same htr a).trans ((g1 a ha).trans (m6 a (by omega)))
  have hwx : ∀ a, a ≠ rTIDE_STAT 0 → a ≠ rIRQ_RAW (PageKind.tideCtl.addr 0) → x.word a = u.word a := fun a h1 h2 =>
    (x3 a (by simpa using h1)).trans ((w3 a (by simpa using ⟨h1, h2⟩)).trans (State.word_same v1 a))
  refine ⟨?_, ?_, ?_, ?_, htt, ?_, ?_, ?_, ?_, ?_, ?_, ?_, ?_, ?_, ?_, ?_, hwt.2 .pins rfl, hwt.2 .mem rfl, hwt.2 .fab rfl, hwt.2 .ports rfl, hwt.2 .out rfl⟩
  · exact (congrArg BitVec.toNat ((hwd _ (by decide) (by decide)).trans (hwx _ (by decide) (by decide)))).trans u1
  · exact (State.fget_of_word _ ((hwd _ (by decide) (by decide)).trans (hwx _ (by decide) (by decide))) (by decide)).trans u2
  · exact (State.fget_of_word _ ((hwd _ (by decide) (by decide)).trans (hwx _ (by decide) (by decide))) (by decide)).trans u3
  · exact (State.bit_of_word 0 (by decide) ((hwd _ (by decide) (by decide)).trans (hwx _ (by decide) (by decide)))).trans u4
  · unfold State.mbox at m1 ⊢; rw [htol]; exact m1
  · intro k hk
    refine (congrArg BitVec.toNat ((State.word_same htr _).trans (g1 _ ?_))).trans (m3 k hk)
    unfold rMB_CMD; rw [addr_mbox]; omega
  · exact (State.flag_of_word ((State.word_same htr _).trans (g1 _ (by decide))) (by decide)).trans m4
  · intro m hm
    have := m2 m hm
    unfold State.mbox at this ⊢; rw [htol, this, hxt]
  · rw [htol, m5, hxt]
  · rw [htide]; exact w2.1
  · rw [htide]; exact w2.2.1
  · rw [htide]; exact w2.2.2.1
  · rw [htide]; exact w2.2.2.2
  · refine (State.fget_of_word _ (hwd _ (by decide) (by decide)) (by decide)).trans (x1.trans w1)
  · intro hg
    refine (State.rd32_same htr _).trans (g3 ?_).1
    refine (State.flag_of_word ((m6 _ (by decide)).trans ((hwx _ (by decide) (by decide)).trans (u5 _ (by decide)))) (by decide)).trans hg

theorem treeStat_role (c k n : Nat) (hc : c < 4) (hk : k < 16) (hn : n < 2 ^ 16) : fTREE_STAT_ROLE.get (3 * 2 ^ 29 + c * 2 ^ 27 + k * 2 ^ 23 + n) = 3 := by
  have : (3 * 2 ^ 29 + c * 2 ^ 27 + k * 2 ^ 23 + n) / 2 ^ 29 = 3 := Nat.div_eq_of_lt_le (by omega) (by omega)
  show (3 * 2 ^ 29 + c * 2 ^ 27 + k * 2 ^ 23 + n) / 2 ^ 29 % 2 ^ 3 = 3
  rw [this]
  try rfl

theorem treeStat_level (c k n : Nat) (hc : c < 4) (hk : k < 16) (hn : n < 2 ^ 16) : fTREE_STAT_LEVEL.get (3 * 2 ^ 29 + c * 2 ^ 27 + k * 2 ^ 23 + n) = c := by
  have : (3 * 2 ^ 29 + c * 2 ^ 27 + k * 2 ^ 23 + n) / 2 ^ 27 = 12 + c := Nat.div_eq_of_lt_le (by omega) (by omega)
  show (3 * 2 ^ 29 + c * 2 ^ 27 + k * 2 ^ 23 + n) / 2 ^ 27 % 2 ^ 2 = c
  rw [this]; omega

theorem treeStat_parent (c k n : Nat) (hk : k < 16) (hn : n < 2 ^ 16) : fTREE_STAT_PARENT.get (3 * 2 ^ 29 + c * 2 ^ 27 + k * 2 ^ 23 + n) = k := by
  have : (3 * 2 ^ 29 + c * 2 ^ 27 + k * 2 ^ 23 + n) / 2 ^ 23 = 192 + 16 * c + k := Nat.div_eq_of_lt_le (by omega) (by omega)
  show (3 * 2 ^ 29 + c * 2 ^ 27 + k * 2 ^ 23 + n) / 2 ^ 23 % 2 ^ 4 = k
  rw [this]; omega

theorem treeStat_node (c k n : Nat) (hn : n < 2 ^ 16) : fTREE_STAT_NODE_ID.get (3 * 2 ^ 29 + c * 2 ^ 27 + k * 2 ^ 23 + n) = n := by
  show (3 * 2 ^ 29 + c * 2 ^ 27 + k * 2 ^ 23 + n) / 2 ^ 0 % 2 ^ 16 = n
  rw [show (3 * 2 ^ 29 + c * 2 ^ 27 + k * 2 ^ 23 + n) = n + 2 ^ 16 * (3 * 2 ^ 13 + c * 2 ^ 11 + k * 2 ^ 7) by omega]
  rw [Nat.pow_zero, Nat.div_one, Nat.add_mul_mod_self_left, Nat.mod_eq_of_lt hn]

end Sys2Proof.Machine
end

