-- ==== Sys2Proof/Laws/TreeMessages.lean ====
section
/-! SUPPORT. The exchange and FANOUT (R305, R308–R310): messages slot by slot and a CMD's words. -/

namespace Sys2Proof.Machine

theorem State.emits_within (s : State) (l : List Out) : Within [.out] s { s with out := s.out ++ l } :=
  ⟨⟨rfl, List.prefix_append _ _, Nat.le_refl _, Otp.grows_refl _, fun h => h⟩, fun p hp => by cases p <;> first | rfl | exact absurd hp (by decide)⟩

/-- Messages that go out slot by slot, each with its own contents. -/
theorem fans_map (g : FanTarget → FanTarget) (id : Nat) (L : List Fan) (i : Nat) (f : Fan) (h : L[i]? = some f) :
    ∃ x, (L.map (fun f => if f.id = id then { f with targets := f.targets.map g } else f))[i]? = some x ∧ (f.id ≠ id → x = f) ∧
      (f.id = id → x = { f with targets := x.targets } ∧ x.targets.length = f.targets.length ∧ ∀ (j : Nat) y, f.targets[j]? = some y → x.targets[j]? = some (g y)) := by
  rw [List.getElem?_map, h]
  by_cases he : f.id = id
  · refine ⟨{ f with targets := f.targets.map g }, congrArg some (if_pos he), fun hne => absurd he hne, fun _ => ⟨rfl, List.length_map .., fun j y hy => ?_⟩⟩
    show (f.targets.map g)[j]? = _
    rw [List.getElem?_map, hy]; rfl
  · exact ⟨f, congrArg some (if_neg he), fun _ => rfl, fun hh => absurd hh he⟩

/-- The words of a CMD in MBOX_MGR's buffer (R308). -/
theorem State.cmdFill (words : List Nat) (L : List Nat) (hL : ∀ k ∈ L, k < 64) : ∀ u : State, u.flag (rMB_STAT 4) fMB_STAT_BUSY = false →
    let t := L.foldl (fun t k => t.mbCmdWrite .mgr 4 k (listGet 0 words k)) u
    (∀ k ∈ L, t.rd32 (rMB_CMD 4 k) = listGet 0 words k % 2 ^ 32) ∧ (∀ a, (∀ k ∈ L, a ≠ rMB_CMD 4 k) → t.word a = u.word a) ∧ Within [.regs, .agg] u t := by
  have hcm : ∀ k, rMB_CMD 4 k = 0xc000 + 0x100 + 4 * k := by intro k; unfold rMB_CMD; rw [addr_mbox]
  induction L with
  | nil => intro u _ t; exact ⟨fun _ h => absurd h (by simp), fun _ _ => rfl, Within.refl ..⟩
  | cons x L ih =>
    intro u hb t
    have hstep : u.mbCmdWrite .mgr 4 x (listGet 0 words x) = u.wr32 (rMB_CMD 4 x) (listGet 0 words x) := by
      unfold State.mbCmdWrite; exact if_neg (by rw [hb]; exact Bool.false_ne_true)
    have hb' : (u.wr32 (rMB_CMD 4 x) (listGet 0 words x)).flag (rMB_STAT 4) fMB_STAT_BUSY = false := by
      refine (State.flag_of_word (State.wordsBut_wr32 (a := rMB_CMD 4 x) (l := [rMB_CMD 4 x]) u _ (by simp) _ ?_) (by decide)).trans hb
      rw [hcm]; unfold rMB_STAT; rw [addr_mbox]; simp; omega
    obtain ⟨i1, i2, i3⟩ := ih (fun k hk => hL k (List.mem_cons_of_mem _ hk)) _ hb'
    have ht : t = L.foldl (fun t k => t.mbCmdWrite .mgr 4 k (listGet 0 words k)) (u.wr32 (rMB_CMD 4 x) (listGet 0 words x)) := by
      show List.foldl _ u (x :: L) = _
      rw [List.foldl_cons, hstep]
    rw [ht]
    refine ⟨?_, ?_, Within.via i3 rfl (State.wr32_within ..)⟩
    · intro k hk
      by_cases hkL : k ∈ L
      · exact i1 k hkL
      · have hkx : k = x := by rcases List.mem_cons.mp hk with h | h; exact h; exact absurd h hkL
        subst hkx
        refine (congrArg BitVec.toNat (i2 (rMB_CMD 4 k) ?_)).trans (State.rd32_wr32 ..)
        intro j hj he
        rw [hcm, hcm] at he
        exact hkL ((show k = j by omega) ▸ hj)
    · intro a ha
      rw [i2 a (fun k hk => ha k (List.mem_cons_of_mem _ hk)), State.word_wr32, if_neg (ha x (List.mem_cons_self ..))]

end Sys2Proof.Machine
end

