-- ==== Sys2Proof/Tests/Slice0.lean ====
section
/-! SUPPORT. The model's own tests: an ill-formed command for each check, commands whose results are read off the spec's tables, and for each
statement with hypotheses a state and operands that meet them. -/

open Sys2Proof Sys2Proof.Machine

/-! ### Well-formedness -/

/-- Each check from that of `regWrite` to that of `start` refuses a command that fails it alone. -/
theorem test_refused_regWrite_to_start :
    ([.regWrite (.host 4) 0 0 0,
      .rcRead (.host 4) 0 0,
      .narrowAccess (.host 4) 0 false none,
      .reg64LowRead (.host 4) 0,
      .reg64LowWrite (.host 4) 0 0,
      .reg64HighWrite (.host 4) 0 0,
      .softRst (.host 4) 16 false,
      .softRst .tolmor 64 false,
      .irqForce (.host 4) 16 0,
      .irqForce .tolmor 64 0,
      .lockPage (.host 4) 16,
      .lockPage .tolmor 64,
      .errFirstClear (.host 4) 16,
      .errFirstClear .tolmor 64,
      .stallWindow 32 0 0 none 0,
      .msixSend 4,
      .aggPop (.host 4) 0,
      .aggPop .tolmor 4,
      .scrubVisit 8,
      .scrubStart 8,
      .fifoReset 384 0,
      .fifoReset 0 60,
      .tribContention 0x8000,
      .start (.host 4) 0] : List Instr).all (fun i => !i.wf) = true := by decide +kernel

/-- Each check from that of `start` to that of `capPop` refuses a command that fails it alone. -/
theorem test_refused_start_to_capPop :
    ([.start .tolmor 512,
      .startExecute 512,
      .stop (.host 4) 0,
      .stop .tolmor 512,
      .stopEffect 512,
      .resume (.host 4) 0,
      .resume .tolmor 512,
      .kick (.host 4) 0,
      .kick .tolmor 512,
      .eddyCfgWrite (.host 4) 0 0,
      .eddyCfgWrite .tolmor 512 0,
      .bundleIssue 512 ⟨0, [], false⟩,
      .lockGrant 512,
      .lockTimeout 512 ⟨0, [], false⟩,
      .watchdog 512 ⟨0, [], false⟩,
      .memDataWrite (.host 4) 0 0 0,
      .memDataWrite .tolmor 512 0 0,
      .memDataRead (.host 4) 0 0,
      .memDataRead .tolmor 512 0,
      .streamFlushIn (.host 4) 0,
      .streamFlushIn .tolmor 512,
      .streamFlushOut (.host 4) 0,
      .streamFlushOut .tolmor 512,
      .capPop (.host 4) 0] : List Instr).all (fun i => !i.wf) = true := by decide +kernel

/-- Each check from that of `capPop` to that of `timeout` refuses a command that fails it alone. -/
theorem test_refused_capPop_to_timeout :
    ([.capPop .tolmor 512,
      .streamSource (.host 4) 0 0,
      .streamSource .tolmor 512 0,
      .stimIn (.host 4) 0 0 0,
      .stimIn .tolmor 512 0 0,
      .stimIn .tolmor 0 8 0,
      .streamIn 512 0,
      .streamOut 512,
      .transferBegin 512,
      .transferLine 512 0 [],
      .transferComplete 512 0 [],
      .ingress 0x195 (.queued 0),
      .egress 0x195 (.arrive 0),
      .rd 0x195 0 [] ⟨true, true, false⟩,
      .wr 0x195 0 [] ⟨true, true, false⟩,
      .msg 0x195 0 [] ⟨true, true, false⟩,
      .regRd 0x195 0 0,
      .regWr 0x195 0 0,
      .rdRsp 0x195,
      .wrRsp 0x195,
      .msgRsp 0x195,
      .regRsp 0x195,
      .timeout 0x195 0,
      .timeout 0 1024] : List Instr).all (fun i => !i.wf) = true := by decide +kernel

/-- Each check from that of `flitGap` to that of `rekey` refuses a command that fails it alone. -/
theorem test_refused_flitGap_to_rekey :
    ([.flitGap 0x195,
      .flushIn (.host 4) 0,
      .flushIn .tolmor 0x195,
      .flushOut (.host 4) 0,
      .flushOut .tolmor 0x195,
      .flushEffect 0x195 false,
      .dropRestIn (.host 4) 0,
      .dropRestIn .tolmor 0x195,
      .dropRestOut (.host 4) 0,
      .dropRestOut .tolmor 0x195,
      .txAbort 0x195,
      .drain 0x195 false,
      .drainEnd 0x195,
      .sweep 0x195,
      .hbmError 64,
      .create (.host 4) 0 0,
      .create .tolmor 66 0,
      .create .tolmor 0 32,
      .zeroingEnd 66,
      .destroy (.host 4) 0 0,
      .destroy .tolmor 66 0,
      .destroy .tolmor 0 32,
      .rekey (.host 4) 0 0,
      .rekey .tolmor 66 0] : List Instr).all (fun i => !i.wf) = true := by decide +kernel

/-- Each check from that of `rekey` to that of `eventLogCopy` refuses a command that fails it alone. -/
theorem test_refused_rekey_to_eventLogCopy :
    ([.rekey .tolmor 0 32,
      .walkTake 66 [],
      .walkDone 66,
      .finish (.host 4) 0 0,
      .finish .tolmor 66 0,
      .finish .tolmor 0 32,
      .slotZeroise 128 false,
      .wearWarn (.host 4) 0,
      .cxlLinkDown 2,
      .clockForceOff 32,
      .ffExchange 32 [],
      .swapZeroing 32,
      .meshQuiet 32,
      .planeFlip 32,
      .fillEnd 32,
      .loadEnd 32,
      .ring (.host 4) 0,
      .ring .tolmor 6,
      .deferredEnd 6 0 false,
      .cplPop (.host 4) 0,
      .cplPop .tolmor 6,
      .expired 6 0,
      .lockstepDisagree (some 3),
      .eventLogCopy 16 0] : List Instr).all (fun i => !i.wf) = true := by decide +kernel

/-- Each check from that of `eventLogCopy` to that of `stage` refuses a command that fails it alone. -/
theorem test_refused_eventLogCopy_to_stage :
    ([.eventLogCopy 0 (2 ^ 16),
      .ptmExchange 4 0 0,
      .arm (.host 4) 0 0 false,
      .arm .tolmor 32 0 false,
      .arm .tolmor 0 4 false,
      .disarm (.host 4) 0 0,
      .disarm .tolmor 32 0,
      .disarm .tolmor 0 4,
      .firedClear (.host 4) 0 0,
      .firedClear .tolmor 32 0,
      .firedClear .tolmor 0 4,
      .tideRefclk (.host 4) 0,
      .tideRefclk .tolmor 4,
      .join 16 0 [],
      .join 0 (2 ^ 64) [],
      .join 0 0 [16],
      .joinAck 16 [] none,
      .joinAck 0 [16] none,
      .sync 16 0,
      .delayReq 16,
      .delayRsp 16 0,
      .cmd 16 0 0 0 [] none,
      .cpl 16 0 0 0 0 0 0,
      .stage 16 0 0 0 [] []] : List Instr).all (fun i => !i.wf) = true := by decide +kernel

/-- Each check from that of `stage` to that of `pllCfgWrite` refuses a command that fails it alone. -/
theorem test_refused_stage_to_pllCfgWrite :
    ([.stage 0 0 0 0 [256] [],
      .ret 16 0 0 0 [],
      .ret 0 0 0 0 [256],
      .checkpoint [.copyA 8 0 0] [],
      .checkpoint [.both 0 0 32] [],
      .checkpoint [] [(10, 0)],
      .checkpoint [] [(0, 32)],
      .refclkLoss 8,
      .refclkReturn 8,
      .spineSel (.host 4) 0 0,
      .spineSel .tolmor 384 0,
      .clksel 384 0 false,
      .clksel 0 16 false,
      .spineSwitch 384 0,
      .spineSwitch 0 16,
      .force (.host 4) 0 0,
      .force .tolmor 384 0,
      .force .tolmor 0 16,
      .drst (.host 4) 0 0,
      .drst .tolmor 384 0,
      .drst .tolmor 0 16,
      .drstRelease 384 0,
      .drstRelease 0 16,
      .pllCfgWrite (.host 4) 0 0 none 0] : List Instr).all (fun i => !i.wf) = true := by decide +kernel

/-- Each check from that of `pllCfgWrite` to that of `txEqWrite` refuses a command that fails it alone. -/
theorem test_refused_pllCfgWrite_to_txEqWrite :
    ([.pllCfgWrite .tolmor 9 0 none 0,
      .pllCfgWrite .tolmor 0 8 none 0,
      .pllCfgWrite .tolmor 0 0 (some 4) 0,
      .fmeasStart (.host 4) 0,
      .ltolWrite (.host 4) 0 0,
      .ltolWrite .tolmor 4 0,
      .signalDetect 160,
      .cdrLock 160,
      .polarity 160 false,
      .adaptDone 160 0,
      .alignDone 160 0,
      .alignDone 0 64,
      .stageTimeout 160,
      .signalLoss 160 false,
      .calibrationEnd 160 false,
      .inject (.host 4) 0,
      .inject .tolmor 160,
      .prbsClear (.host 4) 0,
      .prbsClear .tolmor 160,
      .prbsLock 160,
      .prbsLost 160 0 0,
      .fabCfgWrite (.host 4) 0 0,
      .fabCfgWrite .tolmor 160 0,
      .txEqWrite (.host 4) 0 0] : List Instr).all (fun i => !i.wf) = true := by decide +kernel

/-- Each check from that of `txEqWrite` to that of `windowWrite` refuses a command that fails it alone. -/
theorem test_refused_txEqWrite_to_windowWrite :
    ([.txEqWrite .tolmor 160 0,
      .bridgeSend 160 [],
      .bridgeTimer 160 [],
      .linkUp (.pcie 4 5 16 false false false false),
      .linkUp (.eth 8 false),
      .linkUp (.skeja 8),
      .linkDown (.pcie 4),
      .linkDown (.eth 8),
      .linkDown (.skeja 8),
      .hotReset 4 .perst,
      .bar0 4 0 ⟨0, 0, false, 0, 0⟩,
      .bar2 4 ⟨0, 0, false, 0, 0⟩,
      .inbound 4 ⟨0, 0, false, 0, 0⟩,
      .cxlMem 4 ⟨0, 0, false, 0, 0⟩,
      .ptmRequest 4,
      .fnAssignWrite (.host 4) 0 0,
      .fnAssignWrite .tolmor 4 0,
      .fnLayoutWrite (.host 4) 0 0 0,
      .fnLayoutWrite .tolmor 4 0 0,
      .fnLayoutWrite .tolmor 0 16 0,
      .windowWrite (.host 4) false 0 0 0 0,
      .windowWrite .tolmor false 4 0 0 0,
      .windowWrite .tolmor false 0 16 0 0,
      .windowWrite .tolmor false 0 0 4 0] : List Instr).all (fun i => !i.wf) = true := by decide +kernel

/-- Each check from that of `rpOwnerWrite` to that of `weirTrib` refuses a command that fails it alone. -/
theorem test_refused_rpOwnerWrite_to_weirTrib :
    ([.rpOwnerWrite (.host 4) 0 0,
      .rpOwnerWrite .tolmor 4 0,
      .ethReceive 8 [] false,
      .ethReceive 0 [256] false,
      .stnCfgWrite (.host 4) 0 0 0,
      .stnCfgWrite .tolmor 8 0 0,
      .stnCfgWrite .tolmor 0 32 0,
      .skejaSend 8 0,
      .skejaSend 0 2,
      .skejaReceive 8 0 ⟨0, 0, 0, 0, 0, 0, false, 0, 0, [], []⟩ false false,
      .skejaReceive 0 2 ⟨0, 0, 0, 0, 0, 0, false, 0, 0, [], []⟩ false false,
      .nak 8 0 0,
      .nak 0 2 0,
      .udpTimeout 8 0,
      .pathUp 8 0,
      .pathUp 0 2,
      .handshakeEnd 8 0 false,
      .handshakeEnd 0 2 false,
      .checkMatch 8,
      .pathDown 8 0,
      .pathDown 0 2,
      .weirMil 2048 0 0 0 0 none,
      .weirMil 0 2 0 0 0 none,
      .weirTrib 2048 0 0 none] : List Instr).all (fun i => !i.wf) = true := by decide +kernel

/-- Each check from that of `shadowAdvance` to that of `mbox` refuses a command that fails it alone. -/
theorem test_refused_shadowAdvance_to_mbox :
    ([.shadowAdvance 2048 0,
      .shadowAdvance 0 2,
      .lchkReq 2048 0 0,
      .lchkReq 0 2 0,
      .laneCheckEnd 2048 0 [] false,
      .laneCheckEnd 0 2 [] false,
      .clocksLost 2048 0,
      .ucieFail 4 0,
      .ucieFail 0 6,
      .quarantine 12 0,
      .readmission 12 0 0 false ⟨[], [], [], 0⟩,
      .railLoss (.yard 8) false,
      .railLoss (.ford 4) false,
      .railLoss (.hbm 4) false,
      .railLoss (.io 8) false,
      .idcode 13,
      .samplePreload 13 0,
      .extest 13,
      .extestPulse 13,
      .extestTrain 13,
      .highz 13,
      .clamp 13,
      .bypass 13,
      .mbox 13] : List Instr).all (fun i => !i.wf) = true := by decide +kernel

/-- Each check from that of `func` to that of `releaseEngine` refuses a command that fails it alone. -/
theorem test_refused_func_to_releaseEngine :
    ([.func (.host 4) 0 0,
      .func .tolmor 384 0,
      .switchEdge 384,
      .holdEnd 384,
      .swLate 384,
      .gpioSet (.host 4) 0 false 0,
      .gpioSet .tolmor 8 false 0,
      .gpioClr (.host 4) 0 false 0,
      .gpioClr .tolmor 8 false 0,
      .gpioTgl (.host 4) 0 false 0,
      .gpioTgl .tolmor 8 false 0,
      .pinEvent 16 false,
      .grantExpire 6,
      .endGrant 6,
      .peek 6 0,
      .peek 0 32,
      .poke 6 0,
      .poke 0 32,
      .halt 6 0,
      .halt 0 512,
      .engineHalt 512,
      .lockBroken 512,
      .releaseEngine 6 0,
      .releaseEngine 0 512] : List Instr).all (fun i => !i.wf) = true := by decide +kernel

/-- Each check from that of `step` to that of `pllLock` refuses a command that fails it alone. -/
theorem test_refused_step_to_pllLock :
    ([.step 6 0 0,
      .step 0 512 0,
      .fire 6,
      .dbgTrig 384,
      .snapEnd 6 false,
      .capResume 6,
      .ringCtlWrite (.host 4) 0 0,
      .ringCtlWrite .tolmor 8 0,
      .clockEdge (.spine 384 0) false [],
      .clockEdge (.spine 0 16) false [],
      .clockEdge (.device 32) false [],
      .clockEdge (.ypage 8) false [],
      .clockEdge (.device 0) false [.tileAsync 0 5760],
      .clockEdge (.device 0) false [.drive 0 960 false],
      .clockEdge (.device 0) false [.river 0x8000],
      .clockEdge (.device 0) false [.landing 384 0],
      .clockEdge (.device 0) false [.pin 0 48 0 false 0 false],
      .pairReturn 8,
      .tlpCompletion 4 0 .timeout,
      .tlpCompletion 0 1024 .timeout,
      .pllLock 9 0,
      .pllLock 0 8] : List Instr).all (fun i => !i.wf) = true := by decide +kernel

/-! ### Small results -/

/-- Table MAP-1, Table MEM-6: the page of HBMP_0 and the first region's RGN_CFG. -/
theorem test_region_register_address : rRGN_CFG 64 0 = 0x0A050100 := by decide +kernel
end

section
/-! SUPPORT. The flip-flops of a tile on a clock edge (R28–R30, Table LGC-2): which edge is the tile's own, what such an edge leaves of the state,
and what it does to each bit. -/

namespace Sys2Proof.Machine

/-! ### Reads of flip-flops after writes -/

/-- A shed has fewer than 8192 tiles, so two tiles share no key of the flip-flops' map. -/
theorem setFfs_ffs_ne (s : State) {sh tile sh' tile' : Nat} (v : Nat) (h : tile < 8192) (h' : tile' < 8192) (hne : (sh', tile') ≠ (sh, tile)) :
    (s.setFfs sh tile v).ffs sh' tile' = s.ffs sh' tile' := by
  have hkey : 8192 * sh' + tile' ≠ 8192 * sh + tile := by
    intro e
    exact hne (Prod.ext (by dsimp only; omega) (by dsimp only; omega))
  exact smGet_smSet_ne _ _ _ _ hkey

@[simp] theorem setPlane_ffs (s : State) (sh p : Nat) (x : Plane) (sh' tile : Nat) : (s.setPlane sh p x).ffs sh' tile = s.ffs sh' tile := rfl

/-! ### One tile on an edge -/

/-- The live configuration of a tile. -/
def State.tileCfg (s : State) (sh tile : Nat) : TileCfg := smGet TileCfg.blank (s.liveCfg sh).tiles tile

/-- R28, R78: whether an edge is an active edge of a tile's clock: the spine clock that the tile selects, in its polarity, and it reaches the shed's logic. -/
def State.tileRuns (s : State) (clk : ClockId) (falling : Bool) (sh tile : Nat) : Bool :=
  decide (clk = .spine sh (s.tileCfg sh tile).clk) && decide (falling = (s.tileCfg sh tile).clkInv) && s.spineOn sh (s.tileCfg sh tile).clk

/-- An active edge writes the tile's flip-flops and, for a tile in a memory mode, its tables in a plane. -/
theorem clockEdge_tile_active (s : State) (clk : ClockId) (falling : Bool) (sh tile : Nat) (i : TileIn) (h : s.tileRuns clk falling sh tile = true) :
    ∃ p x, s.clockEdge clk falling [.tile sh tile i] = (s.setFfs sh tile (tileFfs (s.tileCfg sh tile) i (s.ffs sh tile) 8)).setPlane sh p x :=
  ⟨_, _, if_pos h⟩

theorem clockEdge_tile_idle (s : State) (clk : ClockId) (falling : Bool) (sh tile : Nat) (i : TileIn) (h : s.tileRuns clk falling sh tile = false) :
    s.clockEdge clk falling [.tile sh tile i] = s :=
  if_neg (Bool.eq_false_iff.mp h)

/-- TRST with no edge (R30): the clock that the command names plays no part. -/
theorem clockEdge_tileAsync (s : State) (clk : ClockId) (falling : Bool) (sh tile : Nat) :
    s.clockEdge clk falling [.tileAsync sh tile] =
      if s.gated sh then s else s.setFfs sh tile (tileAsyncFfs (s.tileCfg sh tile) (s.ffs sh tile) 8) := rfl

/-! ### What the edge does and leaves -/

theorem clockEdge_tile_active_ffs (s : State) (clk : ClockId) (falling : Bool) (sh tile : Nat) (i : TileIn) (h : s.tileRuns clk falling sh tile = true) :
    (s.clockEdge clk falling [.tile sh tile i]).ffs sh tile = tileFfs (s.tileCfg sh tile) i (s.ffs sh tile) 8 := by
  obtain ⟨p, x, e⟩ := clockEdge_tile_active s clk falling sh tile i h
  rw [e, setPlane_ffs, setFfs_ffs]

theorem clockEdge_tile_active_frame (s : State) (clk : ClockId) (falling : Bool) (sh tile : Nat) (i : TileIn) (ht : tile < 8192)
    (h : s.tileRuns clk falling sh tile = true) :
    let t := s.clockEdge clk falling [.tile sh tile i]
    (∀ sh' tile', (sh', tile') ≠ (sh, tile) → tile' < 8192 → t.ffs sh' tile' = s.ffs sh' tile') ∧ t.regs = s.regs ∧ Within [.fab] s t := by
  obtain ⟨p, x, e⟩ := clockEdge_tile_active s clk falling sh tile i h
  dsimp only
  rw [e]
  refine ⟨fun sh' tile' hne ht' => ?_, rfl, (State.setFfs_within ..).trans (State.setPlane_within ..)⟩
  rw [setPlane_ffs, setFfs_ffs_ne s _ ht ht' hne]

/-- Where TRST is 1 with no edge, each bit takes its TRST value if its tile is ASYNC, it uses TRST and its shed is not gated. -/
theorem clockEdge_tileAsync_bit (s : State) (clk : ClockId) (falling : Bool) (sh tile k : Nat) (kb : Bool) (hk : k < 8) :
    let c := s.tileCfg sh tile
    let f := if kb then (c.cell k).kb else (c.cell k).ka
    ((s.clockEdge clk falling [.tileAsync sh tile]).ffs sh tile).testBit (2 * k + b2n kb) =
      if !s.gated sh && c.async && f.trstUse then xor f.trstVal f.inv else (s.ffs sh tile).testBit (2 * k + b2n kb) := by
  dsimp only
  rw [clockEdge_tileAsync]
  cases hg : s.gated sh with
  | true => rfl
  | false => exact (congrArg (·.testBit (2 * k + b2n kb)) (setFfs_ffs ..)).trans ((tileAsync_bits _ _ 8).2 k kb hk)

theorem clockEdge_tileAsync_frame (s : State) (clk : ClockId) (falling : Bool) (sh tile : Nat) :
    let t := s.clockEdge clk falling [.tileAsync sh tile]
    t.regs = s.regs ∧ Within [.fab] s t := by
  dsimp only
  rw [clockEdge_tileAsync]
  split
  · exact ⟨rfl, Within.refl _ _⟩
  · exact ⟨rfl, State.setFfs_within ..⟩

/-- Settles O9, by whether the edge is an active one of the tile's clock, and bit by bit. -/
theorem flipFlopsOnAnEdge : Obligations.FlipFlopsOnAnEdge := by
  intro s sh tile i clk falling hc hsh ht hk c runs
  have hel : isElem (.tile sh tile i) = true := by simp [isElem, hsh, ht]
  have hela : isElem (.tileAsync sh tile) = true := by simp [isElem, hsh, ht]
  refine ⟨fun hr => ?_, fun hr => ?_, ?_⟩
  · refine Answers.intro (run_clockEdge clk falling _ s hc hk hel) ⟨fun k kb hkb => ?_, ?_⟩
    · rw [clockEdge_tile_active_ffs s clk falling sh tile i hr]
      exact (tileFfs_bits _ i _ 8).2 k kb hkb
    · exact clockEdge_tile_active_frame s clk falling sh tile i (by omega) hr
  · exact Answers.intro (run_clockEdge clk falling _ s hc hk hel) (clockEdge_tile_idle s clk falling sh tile i hr)
  · exact Answers.intro (run_clockEdge clk falling _ s hc hk hela)
      ⟨fun k kb hkb => clockEdge_tileAsync_bit s clk falling sh tile k kb hkb, clockEdge_tileAsync_frame s clk falling sh tile⟩

/-- A running shed whose tile 5 has every flip-flop at 1 and a blank configuration: spine clock 0, rising, D from a zero table. -/
def edgeStart : State := (State.reset.setGated 0 false).setFfs 0 5 0xFFFF

/-- A tile's inputs, all 0. -/
def quietIn : TileIn := ⟨[], false, false, false, false⟩

/-- `edgeStart` and an edge meet the hypotheses of O9's first clause, by which the flip-flop KA of cell 0 falls from 1 to 0. -/
theorem edgeStart_falls :
    Answers (.clockEdge (.spine 0 0) false [.tile 0 5 quietIn]) edgeStart
      fun t => (edgeStart.ffs 0 5).testBit 0 = true ∧ (t.ffs 0 5).testBit 0 = false := by
  obtain ⟨t, he, hbit, -⟩ := (flipFlopsOnAnEdge edgeStart 0 5 quietIn (.spine 0 0) false
    (by decide +kernel) (by decide) (by decide) (by decide)).1 (by decide +kernel)
  exact ⟨t, he, by decide +kernel, (hbit 0 false (by decide)).trans (by decide +kernel)⟩

end Sys2Proof.Machine
end

section
/-! SUPPORT. The run-state commands of the Eddy engines (R126, R130–R132, R139): what a taken write of EDDY_RUN or EDDY_CFG comes to, what each of
its bits makes of its engine, and that the other engines stay. -/

namespace Sys2Proof.Machine

/-! ### One engine changed -/

/-- From `s` to `t`, engine `n` becomes `e` and every other engine stays. -/
def State.EddyBecomes (s t : State) (n : Nat) (e : Eddy) : Prop := t.eddy n = e ∧ ∀ m, m ≠ n → t.eddy m = s.eddy m

theorem State.eddyBecomes_refl (s : State) (n : Nat) : s.EddyBecomes s n (s.eddy n) := ⟨rfl, fun _ _ => rfl⟩

theorem State.setEddy_becomes (s : State) (n : Nat) (e : Eddy) : s.EddyBecomes (s.setEddy n e) n e :=
  ⟨(s.setEddy_eddy n e n).trans (if_pos rfl), fun m hm => (s.setEddy_eddy n e m).trans (if_neg hm)⟩

theorem State.EddyBecomes.trans {s t u : State} {n : Nat} {e e' : Eddy} (h : s.EddyBecomes t n e) (g : t.EddyBecomes u n e') : s.EddyBecomes u n e' :=
  ⟨g.1, fun m hm => (g.2 m hm).trans (h.2 m hm)⟩

/-! ### What the bits of EDDY_RUN do -/

/-- R130: START asks for a start. -/
theorem State.engineStart_becomes (s : State) (n : Nat) :
    s.EddyBecomes (s.engineStart n) n { s.eddy n with issue := { (s.eddy n).issue with startReq := true } } :=
  s.setEddy_becomes n _

/-- R131: STOP acts on a RUNNING engine alone. -/
theorem State.engineStop_becomes (s : State) (n : Nat) :
    s.EddyBecomes (s.engineStop n) n
      (if (s.eddy n).run = .running then { s.eddy n with issue := { (s.eddy n).issue with stopReq := true } } else s.eddy n) := by
  unfold State.engineStop
  dsimp only
  split
  · exact s.setEddy_becomes n _
  · exact s.eddyBecomes_refl n

/-- R139: the counter and the limit in force are both EDDY_WDOG_LIMIT. -/
theorem State.reloadWdog_becomes (s : State) (n : Nat) :
    s.EddyBecomes (s.reloadWdog n) n
      { s.eddy n with issue := { (s.eddy n).issue with wdog := s.rd32 (rEDDY_WDOG_LIMIT n), wdogLimit := s.rd32 (rEDDY_WDOG_LIMIT n) } } :=
  s.setEddy_becomes n _

/-- R132: RESUME makes the engine RUNNING, drops its requests and reloads its watchdog. -/
theorem State.engineResume_becomes (s : State) (n : Nat) :
    s.EddyBecomes (s.engineResume n) n
      { s.eddy n with run := .running, issue := { (s.eddy n).issue with startReq := false, stopReq := false, wdog := s.rd32 (rEDDY_WDOG_LIMIT n),
                                                                        wdogLimit := s.rd32 (rEDDY_WDOG_LIMIT n) } } := by
  unfold State.engineResume
  have hrun := s.setEddy_becomes n { s.eddy n with run := .running, issue := { (s.eddy n).issue with startReq := false, stopReq := false } }
  have hwdog := hrun.trans (State.reloadWdog_becomes _ n)
  rw [hrun.1] at hwdog
  exact hwdog

/-- R139: KICK acts on a RUNNING engine alone. -/
theorem State.engineKick_becomes (s : State) (n : Nat) :
    s.EddyBecomes (s.engineKick n) n
      (if (s.eddy n).run = .running then
        { s.eddy n with issue := { (s.eddy n).issue with wdog := s.rd32 (rEDDY_WDOG_LIMIT n), wdogLimit := s.rd32 (rEDDY_WDOG_LIMIT n) } }
      else s.eddy n) := by
  unfold State.engineKick
  split
  · exact s.reloadWdog_becomes n
  · exact s.eddyBecomes_refl n

/-! ### A taken write of EDDY_RUN or EDDY_CFG -/

/-- What a write to engine `n`'s page leaves before the register's rule acts: the requester's view holds nothing of the page. -/
def State.clearEddyView (s : State) (req : Req) (n : Nat) : State := s.setViewBuf req (PageKind.eddy.addr n) ViewBuf.empty

@[simp] theorem State.clearEddyView_eddy (s : State) (req : Req) (n m : Nat) : (s.clearEddyView req n).eddy m = s.eddy m := rfl
@[simp] theorem State.clearEddyView_eddies (s : State) (req : Req) (n : Nat) : (s.clearEddyView req n).eddies = s.eddies := rfl
@[simp] theorem State.clearEddyView_fget (s : State) (req : Req) (n a : Nat) (f : Fld) : (s.clearEddyView req n).fget a f = s.fget a f := rfl

theorem State.clearEddyView_within (s : State) (req : Req) (n : Nat) : Within [.views] s (s.clearEddyView req n) := State.setViewBuf_within ..

/-- EDDY_CFG as the register map gives it. -/
def eddyCfgReg : RegDef := ⟨0x040, [], false, [⟨17, 8, .rw, 128⟩, ⟨1, 1, .rw, 1⟩, ⟨0, 0, .rw, 0⟩]⟩

theorem findReg_eddyCfg : findReg 0x040 PageKind.eddy.regs = some (eddyCfgReg, 0x040) := rfl

theorem putReg_eddyRun (s : State) (req : Req) (n v : Nat) (hv : req.valid = true) (hn : n < 512) (ht : s.takes req .eddy n 0x050 = true) :
    s.putReg req (rEDDY_RUN n) v = (s.clearEddyView req n).eddyRun req n v :=
  (s.putReg_body req .eddy v hv hn (by decide) (by decide) (by decide) (by simp) ht rfl rfl).trans (body_eddyRun ..)

theorem putReg_eddyCfg (s : State) (req : Req) (n v : Nat) (hv : req.valid = true) (hn : n < 512) (ht : s.takes req .eddy n 0x040 = true) :
    s.putReg req (rEDDY_CFG n) v = (s.clearEddyView req n).eddyCfgWrite req n eddyCfgReg (rEDDY_CFG n) v :=
  (s.putReg_body req .eddy v hv hn (by decide) (by decide) (by decide) (by simp) ht findReg_eddyCfg rfl).trans (body_eddyCfg ..)

/-- A run-state change of engine `n` after a write to its page, against the state before the write. -/
theorem State.EddyBecomes.afterClearView {s t : State} {req : Req} {n : Nat} {e : Eddy} (h : (s.clearEddyView req n).EddyBecomes t n e)
    (hw : Within [.eddies] (s.clearEddyView req n) t) : t.eddy n = e ∧ (∀ m, m ≠ n → t.eddy m = s.eddy m) ∧ Within [.views, .eddies] s t :=
  ⟨h.1, h.2, hw.via rfl ((s.clearEddyView_within req n).mono rfl)⟩

/-- R461: a refused write to engine `n`'s page is recorded there, and no engine changes. -/
theorem clearEddyView_refuse (s : State) (req : Req) {n o : Nat} (c : Nat) (hv : req.valid = true) (hn : n < 512) (ho : o < 4096) (hc : c < 8) :
    let t := (s.clearEddyView req n).refuse req (PageKind.eddy.addr n + o) c
    t.eddies = s.eddies ∧ t.bit (rIRQ_RAW (PageKind.eddy.addr n)) 31 = true ∧
      t.fget (rERR_COUNT (PageKind.eddy.addr n)) fERR_COUNT_COUNT = satInc 16 (s.fget (rERR_COUNT (PageKind.eddy.addr n)) fERR_COUNT_COUNT) ∧
      Within [.regs, .views, .agg] s t := by
  obtain ⟨hcount, hirq, -⟩ := (s.clearEddyView req n).refuse_effect req .eddy c hv hc hn ho
  exact ⟨State.refuse_eddies .., hirq, hcount, (State.refuse_within ..).via rfl ((s.clearEddyView_within req n).mono rfl)⟩

/-- R126: EDDY_CFG of a stopped engine takes the three fields of the value. -/
theorem eddyCfgWrite_stopped (s : State) (req : Req) (n v : Nat) (h : (s.eddy n).isStopped = true) :
    let t := (s.clearEddyView req n).eddyCfgWrite req n eddyCfgReg (rEDDY_CFG n) v
    t.fget (rEDDY_CFG n) fEDDY_CFG_LOCK_LIMIT = fEDDY_CFG_LOCK_LIMIT.get v ∧ t.fget (rEDDY_CFG n) fEDDY_CFG_EXC_IRQ = fEDDY_CFG_EXC_IRQ.get v ∧
      t.fget (rEDDY_CFG n) fEDDY_CFG_ROUND_COMPAT = fEDDY_CFG_ROUND_COMPAT.get v ∧ s.wordsBut t [rEDDY_CFG n] ∧ Within [.regs, .views, .agg] s t := by
  dsimp only
  have hplain : (s.clearEddyView req n).eddyCfgWrite req n eddyCfgReg (rEDDY_CFG n) v = (s.clearEddyView req n).plainWrite eddyCfgReg (rEDDY_CFG n) v := if_pos h
  rw [hplain]
  obtain ⟨hfields, hframe⟩ := (s.clearEddyView req n).plainWrite_word (r := eddyCfgReg) (rEDDY_CFG n) v (by decide) rfl
  exact ⟨hfields ⟨17, 8, .rw, 128⟩ (by decide) rfl, hfields ⟨1, 1, .rw, 1⟩ (by decide) rfl, hfields ⟨0, 0, .rw, 0⟩ (by decide) rfl, hframe,
    (State.plainWrite_within ..).via rfl ((s.clearEddyView_within req n).mono rfl)⟩

theorem eddyCfgWrite_refused (s : State) (req : Req) (n v : Nat) (h : (s.eddy n).isStopped = false) :
    (s.clearEddyView req n).eddyCfgWrite req n eddyCfgReg (rEDDY_CFG n) v = (s.clearEddyView req n).refuse req (rEDDY_CFG n) causeRule :=
  if_neg (Bool.eq_false_iff.mp h)

/-! ### The commands -/

section
variable {s : State} {req : Req} {n : Nat} (hc : s.clocked = true) (hv : req.valid = true) (hn : n < 512)
include hc hv hn

theorem run_start (ht : s.takes req .eddy n 0x050 = true) :
    exec (.start req n) s =
      .next (if (s.eddy n).isStopped = true then (s.clearEddyView req n).engineStart n else (s.clearEddyView req n).refuse req (rEDDY_RUN n) causeRule) := by
  rw [exec_start req n s (by simp [Instr.wf, hv, hn]) hc, putReg_eddyRun s req n 1 hv hn ht, eddyRun_start, s.clearEddyView_eddy]

theorem run_stop (ht : s.takes req .eddy n 0x050 = true) : exec (.stop req n) s = .next ((s.clearEddyView req n).engineStop n) := by
  rw [exec_stop req n s (by simp [Instr.wf, hv, hn]) hc, putReg_eddyRun s req n 2 hv hn ht, eddyRun_stop]

theorem run_resume (ht : s.takes req .eddy n 0x050 = true) :
    exec (.resume req n) s =
      .next (if (s.eddy n).run = .stopped ∨ (s.eddy n).run = .done then (s.clearEddyView req n).engineResume n
        else (s.clearEddyView req n).refuse req (rEDDY_RUN n) causeRule) := by
  rw [exec_resume req n s (by simp [Instr.wf, hv, hn]) hc, putReg_eddyRun s req n 4 hv hn ht, eddyRun_resume, s.clearEddyView_eddy]

theorem run_kick (ht : s.takes req .eddy n 0x050 = true) : exec (.kick req n) s = .next ((s.clearEddyView req n).engineKick n) := by
  rw [exec_kick req n s (by simp [Instr.wf, hv, hn]) hc, putReg_eddyRun s req n 8 hv hn ht, eddyRun_kick]

theorem run_eddyCfgWrite (v : Nat) (ht : s.takes req .eddy n 0x040 = true) :
    exec (.eddyCfgWrite req n v) s = .next ((s.clearEddyView req n).eddyCfgWrite req n eddyCfgReg (rEDDY_CFG n) v) := by
  rw [exec_eddyCfgWrite req n v s (by simp [Instr.wf, hv, hn]) hc, putReg_eddyCfg s req n v hv hn ht]

end

/-- Settles O15, by the command and whether the engine's run state accepts it. -/
theorem runCommands : Obligations.RunCommands := by
  intro s req n v hc hv hn e same refused
  refine ⟨fun ht => ⟨fun hs => ?start, fun hs => ?startRefused, ?stop, fun hr => ?resume, fun hr => ?resumeRefused, ?kick⟩,
    fun ht => ⟨fun hs => ?cfg, fun hs => ?cfgRefused⟩⟩
  case start =>
    exact Answers.intro ((run_start hc hv hn ht).trans (congrArg _ (if_pos hs))) ((State.engineStart_becomes _ n).afterClearView (State.engineStart_within ..))
  case startRefused =>
    exact Answers.intro ((run_start hc hv hn ht).trans (congrArg _ (if_neg (Bool.eq_false_iff.mp hs))))
      (clearEddyView_refuse s req causeRule hv hn (by decide) (by decide))
  case stop =>
    exact Answers.intro (run_stop hc hv hn ht) ((State.engineStop_becomes _ n).afterClearView (State.engineStop_within ..))
  case resume =>
    exact Answers.intro ((run_resume hc hv hn ht).trans (congrArg _ (if_pos hr))) ((State.engineResume_becomes _ n).afterClearView (State.engineResume_within ..))
  case resumeRefused =>
    exact Answers.intro ((run_resume hc hv hn ht).trans (congrArg _ (if_neg hr))) (clearEddyView_refuse s req causeRule hv hn (by decide) (by decide))
  case kick =>
    exact Answers.intro (run_kick hc hv hn ht) ((State.engineKick_becomes _ n).afterClearView (State.engineKick_within ..))
  case cfg =>
    exact Answers.intro (run_eddyCfgWrite hc hv hn v ht) (eddyCfgWrite_stopped s req n v hs)
  case cfgRefused =>
    exact Answers.intro ((run_eddyCfgWrite hc hv hn v ht).trans (congrArg _ (eddyCfgWrite_refused s req n v hs)))
      (clearEddyView_refuse s req causeRule hv hn (by decide) (by decide))

/-- Engine 3 is DONE; every other engine is OFF. -/
def doneStart : State := State.reset.setEddy 3 { State.reset.eddy 3 with run := .done }

/-- `doneStart` and Tolmor meet the hypotheses of O15's RESUME clause, by which engine 3 runs. -/
theorem doneStart_resumes : Answers (.resume .tolmor 3) doneStart fun t => (t.eddy 3).run = .running := by
  obtain ⟨hrun, -⟩ := runCommands doneStart .tolmor 3 0 (by decide +kernel) rfl (by decide)
  obtain ⟨-, -, -, hresume, -⟩ := hrun (by decide +kernel)
  obtain ⟨t, ht, hbecomes, -⟩ := hresume (.inr (by decide +kernel))
  exact ⟨t, ht, congrArg Eddy.run hbecomes⟩

/-- `doneStart` and Tolmor meet the hypotheses of O15's START refusal: engine 4 is OFF, and the refusal sets IRQ_RAW[31] of its page. -/
theorem doneStart_refuses :
    Answers (.start .tolmor 4) doneStart fun t => doneStart.bit (rIRQ_RAW (PageKind.eddy.addr 4)) 31 = false ∧ t.bit (rIRQ_RAW (PageKind.eddy.addr 4)) 31 = true := by
  obtain ⟨hrun, -⟩ := runCommands doneStart .tolmor 4 0 (by decide +kernel) rfl (by decide)
  obtain ⟨-, hrefuse, -⟩ := hrun (by decide +kernel)
  obtain ⟨t, ht, -, hirq, -⟩ := hrefuse (by decide +kernel)
  exact ⟨t, ht, by decide +kernel, hirq⟩

end Sys2Proof.Machine
end

section
/-! SUPPORT. The machine as a whole: every command acts where it is well formed, within the parts that `Instr.touches` names for it, and what a step
keeps of what is done. -/

namespace Sys2Proof.Machine

/-! ### Every command -/

/-- A command answers a next state, which where the command is ill formed is the state itself, and which differs in the parts named for it alone. -/
def Instr.Acts (c : Instr) (s : State) : Prop := ∃ t, exec c s = .next (if c.wf = true then t else s) ∧ Within c.touches s t

theorem Instr.Acts.anyTime {c : Instr} {s t : State} (h : exec c s = .next (if c.wf = true then t else s)) (hw : Within c.touches s t) : Instr.Acts c s :=
  ⟨t, h, hw⟩

/-- A command that needs clocks leaves the state as it is where none runs (R414, R479). -/
theorem Instr.Acts.whenClocked {c : Instr} {s t : State} (h : exec c s = .next (if (c.wf && s.clocked) = true then t else s)) (hw : Within c.touches s t) :
    Instr.Acts c s := by
  refine ⟨if s.clocked = true then t else s, ?_, ?_⟩
  · rw [h]
    cases c.wf <;> cases s.clocked <;> rfl
  · split
    · exact hw
    · exact Within.refl _ _

theorem Within.ite {F : List StatePart} {s t : State} {b : Bool} (h : b = true → Within F s t) : Within F s (if b = true then t else s) := by
  split
  case isTrue hb => exact h hb
  case isFalse => exact Within.refl _ _

/-- Each command's meaning is guarded by its well-formedness, and what it does within is said by the operation it calls. -/
theorem Instr.acts (c : Instr) (s : State) : Instr.Acts c s := by
  match c with
  | .regWrite .. => exact .whenClocked rfl ((State.regWrite_within ..).mono rfl)
  | .rcRead .. => exact .whenClocked rfl ((State.regRead_within ..).mono rfl)
  | .narrowAccess _ _ _ write =>
    cases write with
    | none => exact .whenClocked rfl ((State.regRead_within ..).mono rfl)
    | some v => exact .whenClocked rfl ((State.regWrite_within ..).mono rfl)
  | .reg64LowRead .. => exact .whenClocked rfl ((State.regRead_within ..).mono rfl)
  | .reg64LowWrite .. => exact .whenClocked rfl ((State.regWrite_within ..).mono rfl)
  | .reg64HighWrite .. => exact .whenClocked rfl ((State.regWrite_within ..).mono rfl)
  | .softRst .. => exact .whenClocked rfl ((State.putReg_within ..).mono rfl)
  | .irqForce .. => exact .whenClocked rfl ((State.putReg_within ..).mono rfl)
  | .lockPage .. => exact .whenClocked rfl ((State.putReg_within ..).mono rfl)
  | .errFirstClear .. => exact .whenClocked rfl ((State.putReg_within ..).mono rfl)
  | .stallWindow .. => exact .whenClocked rfl (Within.ite fun _ => State.showEnd_within _ _ _ ((State.regAccess_within ..).mono rfl) rfl)
  | .summaryPush .. => exact .whenClocked rfl ((State.summaryPush_within ..).mono rfl)
  | .msixSend .. => exact .whenClocked rfl ((State.msixSend_within ..).mono rfl)
  | .aggPop .. => exact .whenClocked rfl ((State.putReg_within ..).mono rfl)
  | .deviceReset .. => exact .anyTime rfl ((State.deviceReset_within ..).mono rfl)
  | .powerGood .. => exact .anyTime rfl ((State.powerGood_within ..).mono rfl)
  | .sysRst .. => exact .anyTime rfl ((State.deviceReset_within ..).mono rfl)
  | .scrubVisit .. => exact .whenClocked rfl ((State.scrubVisit_within ..).mono rfl)
  | .scrubStart .. => exact .whenClocked rfl ((State.scrubStart_within ..).mono rfl)
  | .fifoReset .. => exact .anyTime rfl ((State.fifoReset_within ..).mono rfl)
  | .tribContention .. => exact .whenClocked rfl ((State.contention_within ..).mono rfl)
  | .start .. => exact .whenClocked rfl ((State.putReg_within ..).mono rfl)
  | .startExecute .. => exact .whenClocked rfl ((State.startExecute_within ..).mono rfl)
  | .stop .. => exact .whenClocked rfl ((State.putReg_within ..).mono rfl)
  | .stopEffect .. => exact .whenClocked rfl ((State.stopEffect_within ..).mono rfl)
  | .resume .. => exact .whenClocked rfl ((State.putReg_within ..).mono rfl)
  | .kick .. => exact .whenClocked rfl ((State.putReg_within ..).mono rfl)
  | .eddyCfgWrite .. => exact .whenClocked rfl ((State.putReg_within ..).mono rfl)
  | .bundleIssue .. => exact .whenClocked rfl ((State.dbgIssue_within ..).mono rfl)
  | .lockGrant .. => exact .whenClocked rfl ((State.lockGrant_within ..).mono rfl)
  | .lockTimeout .. => exact .whenClocked rfl (Within.ite fun _ => (State.dbgIssue_within ..).mono rfl)
  | .watchdog .. => exact .whenClocked rfl (Within.ite fun _ => (State.dbgIssue_within ..).mono rfl)
  | .memDataWrite .. => exact .whenClocked rfl (State.showEnd_within _ _ _ ((State.accessTo_within ..).mono rfl) rfl)
  | .memDataRead .. => exact .whenClocked rfl (State.showEnd_within _ _ _ ((State.accessTo_within ..).mono rfl) rfl)
  | .streamFlushIn .. => exact .whenClocked rfl ((State.putReg_within ..).mono rfl)
  | .streamFlushOut .. => exact .whenClocked rfl ((State.putReg_within ..).mono rfl)
  | .capPop .. => exact .whenClocked rfl ((State.putReg_within ..).mono rfl)
  | .streamSource .. => exact .whenClocked rfl ((State.putReg_within ..).mono rfl)
  | .stimIn .. => exact .whenClocked rfl ((State.putReg_within ..).mono rfl)
  | .streamIn .. => exact .whenClocked rfl ((State.streamInWord_within ..).mono rfl)
  | .streamOut .. => exact .whenClocked rfl ((State.streamOutWord_within ..).mono rfl)
  | .transferBegin .. => exact .whenClocked rfl ((State.transferBegin_within ..).mono rfl)
  | .transferLine .. => exact .whenClocked rfl ((State.transferLine_within ..).mono rfl)
  | .transferComplete .. => exact .whenClocked rfl ((State.transferComplete_within ..).mono rfl)
  | .ingress .. => exact .whenClocked rfl ((State.ingress_within ..).mono rfl)
  | .routerHeader .. => exact .whenClocked rfl ((State.routerHop_within ..).mono rfl)
  | .egress .. => exact .whenClocked rfl ((State.egress_within ..).mono rfl)
  | .rd .. => exact .whenClocked rfl (State.stoppedOr_within _ _ ((State.serve_within ..).mono rfl) rfl)
  | .wr .. => exact .whenClocked rfl (State.stoppedOr_within _ _ ((State.serve_within ..).mono rfl) rfl)
  | .msg .. => exact .whenClocked rfl (State.stoppedOr_within _ _ ((State.serve_within ..).mono rfl) rfl)
  | .regRd .. => exact .whenClocked rfl (State.stoppedOr_within _ _ ((State.regAgent_within ..).mono rfl) rfl)
  | .regWr .. => exact .whenClocked rfl (State.stoppedOr_within _ _ ((State.regAgent_within ..).mono rfl) rfl)
  | .rdRsp .. => exact .whenClocked rfl ((State.takeRsp_within ..).mono rfl)
  | .wrRsp .. => exact .whenClocked rfl ((State.takeRsp_within ..).mono rfl)
  | .msgRsp .. => exact .whenClocked rfl ((State.takeRsp_within ..).mono rfl)
  | .regRsp .. => exact .whenClocked rfl ((State.takeRsp_within ..).mono rfl)
  | .timeout .. => exact .whenClocked rfl ((State.completeTracked_within ..).mono rfl)
  | .flitGap .. => exact .whenClocked rfl ((State.flitGap_within ..).mono rfl)
  | .flushIn .. => exact .whenClocked rfl ((State.putReg_within ..).mono rfl)
  | .flushOut .. => exact .whenClocked rfl ((State.putReg_within ..).mono rfl)
  | .flushEffect .. => exact .whenClocked rfl ((State.flushEffect_within ..).mono rfl)
  | .dropRestIn .. => exact .whenClocked rfl ((State.putReg_within ..).mono rfl)
  | .dropRestOut .. => exact .whenClocked rfl ((State.putReg_within ..).mono rfl)
  | .txAbort .. => exact .whenClocked rfl ((State.txAbort_within ..).mono rfl)
  | .drain .. =>
    refine .whenClocked rfl ?_
    split
    · exact Within.refl _ _
    · exact (State.enterDrain_within ..).mono rfl
  | .drainEnd .. => exact .whenClocked rfl ((State.drainEnd_within ..).mono rfl)
  | .sweep .. => exact .whenClocked rfl ((State.sweep_within ..).mono rfl)
  | .hbmError .. => exact .whenClocked rfl ((State.hbmIfError_within ..).mono rfl)
  | .create .. => exact .whenClocked rfl ((State.putReg_within ..).mono rfl)
  | .zeroingEnd .. => exact .whenClocked rfl ((State.zeroingEnd_within ..).mono rfl)
  | .destroy .. => exact .whenClocked rfl ((State.putReg_within ..).mono rfl)
  | .rekey .. => exact .whenClocked rfl ((State.putReg_within ..).mono rfl)
  | .walkTake .. => exact .whenClocked rfl ((State.walkTake_within ..).mono rfl)
  | .walkDone .. => exact .whenClocked rfl ((State.walkDone_within ..).mono rfl)
  | .finish .. => exact .whenClocked rfl ((State.putReg_within ..).mono rfl)
  | .slotZeroise .. => exact .whenClocked rfl ((State.slotZeroise_within ..).mono rfl)
  | .wearWarn .. => exact .whenClocked rfl ((State.putReg_within ..).mono rfl)
  | .cxlLinkDown .. => exact .whenClocked rfl ((State.cxlLinkDown_within ..).mono rfl)
  | .clockForceOff .. => exact .whenClocked rfl ((State.forceOff_within ..).mono rfl)
  | .ffExchange .. => exact .whenClocked rfl ((State.exchange_within ..).mono rfl)
  | .swapZeroing .. => exact .whenClocked rfl ((State.swapZero_within ..).mono rfl)
  | .meshQuiet .. => exact .whenClocked rfl ((State.meshQuiet_within ..).mono rfl)
  | .planeFlip .. => exact .whenClocked rfl ((State.planeFlip_within ..).mono rfl)
  | .fillEnd .. => exact .whenClocked rfl ((State.fillEnd_within ..).mono rfl)
  | .loadEnd .. => exact .whenClocked rfl ((State.loadEnd_within ..).mono rfl)
  | .ring .. => exact .whenClocked rfl ((State.putReg_within ..).mono rfl)
  | .commandTake .. => exact .whenClocked rfl (State.ownerChange_within ((State.commandTake_within ..).mono rfl) rfl rfl)
  | .deferredEnd .. => exact .whenClocked rfl (State.ownerChange_within ((State.deferredEnd_within ..).mono rfl) rfl rfl)
  | .cplPop .. => exact .whenClocked rfl ((State.putReg_within ..).mono rfl)
  | .fanoutEnd .. => exact .whenClocked rfl ((State.fanEnd_within ..).mono rfl)
  | .testStart .. => exact .whenClocked rfl ((State.testRunStart_within ..).mono rfl)
  | .testEnd .. => exact .whenClocked rfl ((State.testEnd_within ..).mono rfl)
  | .expired .. => exact .whenClocked rfl ((State.testExpired_within ..).mono rfl)
  | .lockstepDisagree .. => exact .whenClocked rfl ((State.lockstepDisagree_within ..).mono rfl)
  | .tripleRestore .. => exact .whenClocked rfl ((State.tripleRestore_within ..).mono rfl)
  | .sramScrub .. => exact .whenClocked rfl ((State.sramScrub_within ..).mono rfl)
  | .eventLogCopy .. => exact .whenClocked rfl ((State.eventLogCopy_within ..).mono rfl)
  | .tideIn .. => exact .whenClocked rfl ((State.tideInFrame_within ..).mono rfl)
  | .ptmExchange .. => exact .whenClocked rfl ((State.ptmExchange_within ..).mono rfl)
  | .sourceLost .. => exact .whenClocked rfl ((State.sourceLost_within ..).mono rfl)
  | .holdoverExpire .. => exact .whenClocked rfl ((State.holdoverExpire_within ..).mono rfl)
  | .freezeEnd .. => exact .whenClocked rfl ((State.freezeEnd_within ..).mono rfl)
  | .alarmFire .. => exact .whenClocked rfl ((State.alarmFire_within ..).mono rfl)
  | .arm .. => exact .whenClocked rfl ((State.putReg_within ..).mono rfl)
  | .disarm .. => exact .whenClocked rfl ((State.putReg_within ..).mono rfl)
  | .firedClear .. => exact .whenClocked rfl ((State.putReg_within ..).mono rfl)
  | .tideRefclk .. => exact .whenClocked rfl ((State.putReg_within ..).mono rfl)
  | .helloSend .. => exact .whenClocked rfl ((State.helloSend_within ..).mono rfl)
  | .hello .. => exact .whenClocked rfl ((State.hello_within ..).mono rfl)
  | .join .. => exact .whenClocked rfl ((State.join_within ..).mono rfl)
  | .joinAck .. => exact .whenClocked rfl ((State.joinAck_within ..).mono rfl)
  | .treeLeave .. => exact .whenClocked rfl ((State.treeLeave_within ..).mono rfl)
  | .syncSend .. => exact .whenClocked rfl ((State.syncSend_within ..).mono rfl)
  | .sync .. => exact .whenClocked rfl ((State.sync_within ..).mono rfl)
  | .delayReq .. => exact .whenClocked rfl ((State.delayReq_within ..).mono rfl)
  | .delayRsp .. => exact .whenClocked rfl ((State.delayRsp_within ..).mono rfl)
  | .cmd .. => exact .whenClocked rfl ((State.cmd_within ..).mono rfl)
  | .cpl .. => exact .whenClocked rfl ((State.cpl_within ..).mono rfl)
  | .stage .. => exact .whenClocked rfl ((State.stageMsg_within ..).mono rfl)
  | .ret .. => exact .whenClocked rfl ((State.retMsg_within ..).mono rfl)
  | .epochClose .. => exact .whenClocked rfl ((State.closeEpoch_within ..).mono rfl)
  | .checkpoint .. => exact .whenClocked rfl ((State.checkpoint_within ..).mono rfl)
  | .refclkLoss .. => exact .whenClocked rfl ((State.refLoss_within ..).mono rfl)
  | .fixrefHoldEnd .. => exact .whenClocked rfl ((State.holdEnds_within ..).mono rfl)
  | .refclkReturn .. => exact .whenClocked rfl ((State.pairRelocks_within ..).mono rfl)
  | .refReturn .. => exact .anyTime rfl ((State.refReturn_within ..).mono rfl)
  | .clockLoss .. => exact .whenClocked rfl ((State.clockLoss_within ..).mono rfl)
  | .spineSel .. => exact .whenClocked rfl ((State.putReg_within ..).mono rfl)
  | .clksel .. => exact .whenClocked rfl ((State.clkselChange_within ..).mono rfl)
  | .spineSwitch .. => exact .whenClocked rfl ((State.spineSwitch_within ..).mono rfl)
  | .force .. => exact .whenClocked rfl ((State.putReg_within ..).mono rfl)
  | .drst .. => exact .whenClocked rfl ((State.putReg_within ..).mono rfl)
  | .drstRelease .. => exact .whenClocked rfl ((State.drstRelease_within ..).mono rfl)
  | .pllCfgWrite _ _ _ out _ => cases out <;> exact .whenClocked rfl ((State.putReg_within ..).mono rfl)
  | .fmeasStart .. => exact .whenClocked rfl ((State.putReg_within ..).mono rfl)
  | .fmeasEnd .. => exact .whenClocked rfl ((State.fmeasEnd_within ..).mono rfl)
  | .powerEval .. => exact .whenClocked rfl ((State.powerStateEval_within ..).mono rfl)
  | .ltolWrite .. => exact .whenClocked rfl ((State.putReg_within ..).mono rfl)
  | .wake .. => exact .whenClocked rfl ((State.wake_within ..).mono rfl)
  | .exitComplete .. => exact .whenClocked rfl ((State.powerExit_within ..).mono rfl)
  | .signalDetect .. => exact .whenClocked rfl ((State.signalDetect_within ..).mono rfl)
  | .cdrLock .. => exact .whenClocked rfl ((State.cdrLock_within ..).mono rfl)
  | .polarity .. => exact .whenClocked rfl ((State.polarity_within ..).mono rfl)
  | .adaptDone .. => exact .whenClocked rfl ((State.adaptDone_within ..).mono rfl)
  | .alignDone .. => exact .whenClocked rfl ((State.alignDone_within ..).mono rfl)
  | .stageTimeout .. => exact .whenClocked rfl ((State.stageTimeout_within ..).mono rfl)
  | .signalLoss .. => exact .whenClocked rfl ((State.signalLoss_within ..).mono rfl)
  | .calibrationEnd .. => exact .whenClocked rfl ((State.calEnd_within ..).mono rfl)
  | .inject .. => exact .whenClocked rfl ((State.putReg_within ..).mono rfl)
  | .prbsClear .. => exact .whenClocked rfl ((State.putReg_within ..).mono rfl)
  | .prbsLock .. => exact .whenClocked rfl ((State.prbsLock_within ..).mono rfl)
  | .prbsLost .. => exact .whenClocked rfl ((State.prbsLost_within ..).mono rfl)
  | .fabCfgWrite .. => exact .whenClocked rfl ((State.putReg_within ..).mono rfl)
  | .txEqWrite .. => exact .whenClocked rfl ((State.putReg_within ..).mono rfl)
  | .bridgeSend .. => exact .whenClocked rfl ((State.bridgeRx_within ..).mono rfl)
  | .bridgeTimer .. => exact .whenClocked rfl ((State.bridgeTimer_within ..).mono rfl)
  | .linkUp .. => exact .whenClocked rfl ((State.linkUp_within ..).mono rfl)
  | .linkDown .. => exact .whenClocked rfl ((State.linkDown_within ..).mono rfl)
  | .hotReset .. => exact .whenClocked rfl ((State.portReset_within ..).mono rfl)
  | .bar0 .. => exact .whenClocked rfl ((State.bar0_within ..).via rfl ((State.wake_within s).mono rfl))
  | .bar2 .. => exact .whenClocked rfl ((State.bar2_within ..).via rfl ((State.wake_within s).mono rfl))
  | .inbound .. => exact .whenClocked rfl ((State.inbound_within ..).mono rfl)
  | .cxlMem .. => exact .whenClocked rfl ((State.cxlMem_within ..).via rfl ((State.wake_within s).mono rfl))
  | .ptmRequest .. => exact .whenClocked rfl ((State.ptmRequest_within ..).mono rfl)
  | .fnAssignWrite .. => exact .whenClocked rfl ((State.putReg_within ..).mono rfl)
  | .fnLayoutWrite .. => exact .whenClocked rfl ((State.putReg_within ..).mono rfl)
  | .windowWrite .. =>
    refine .whenClocked rfl ?_
    repeat' split
    · exact (State.putReg64_within ..).mono rfl
    · exact (State.putReg_within ..).mono rfl
    · exact (State.putReg_within ..).mono rfl
    · exact (State.putReg64_within ..).mono rfl
  | .rpOwnerWrite .. => exact .whenClocked rfl ((State.putReg_within ..).mono rfl)
  | .ethReceive .. => exact .whenClocked rfl ((State.ethReceive_within ..).mono rfl)
  | .stnCfgWrite .. => exact .whenClocked rfl ((State.putReg_within ..).mono rfl)
  | .skejaSend .. => exact .whenClocked rfl ((State.skjSend_within ..).mono rfl)
  | .skejaReceive .. => exact .whenClocked rfl ((State.skjReceive_within ..).mono rfl)
  | .nak .. => exact .whenClocked rfl ((State.nak_within ..).mono rfl)
  | .udpTimeout .. => exact .whenClocked rfl ((State.udpTimeout_within ..).mono rfl)
  | .pathUp .. => exact .whenClocked rfl ((State.pathStart_within ..).mono rfl)
  | .handshakeEnd .. => exact .whenClocked rfl ((State.handshakeEnd_within ..).mono rfl)
  | .checkMatch .. => exact .whenClocked rfl ((State.checkMatch_within ..).mono rfl)
  | .pathDown .. => exact .whenClocked rfl ((State.pathDown_within ..).mono rfl)
  | .weirMil .. => exact .whenClocked rfl ((State.weirMilFlit_within ..).mono rfl)
  | .weirTrib .. => exact .whenClocked rfl ((State.weirTribFlit_within ..).mono rfl)
  | .shadowAdvance .. => exact .whenClocked rfl ((State.shadowAdvance_within ..).mono rfl)
  | .lchkReq .. => exact .whenClocked rfl ((State.lchkReq_within ..).mono rfl)
  | .laneCheckEnd .. => exact .whenClocked rfl ((State.laneCheckEnd_within ..).mono rfl)
  | .clocksLost .. => exact .whenClocked rfl ((State.clocksLost_within ..).mono rfl)
  | .repairFuse .. => exact .whenClocked rfl ((State.repairFuse_within ..).mono rfl)
  | .ucieFail .. => exact .whenClocked rfl ((State.ucieModuleFail_within ..).mono rfl)
  | .quarantine .. => exact .whenClocked rfl ((State.quarantine_within ..).mono rfl)
  | .readmission .. => exact .whenClocked rfl (State.ownerChange_within ((State.readmit_within ..).mono rfl) rfl rfl)
  | .railLoss .. => exact .anyTime rfl ((State.railLoss_within ..).mono rfl)
  | .thermTrip .. => exact .anyTime rfl ((State.thermTrip_within ..).mono rfl)
  | .idcode .. => exact .anyTime rfl ((State.tapInstr_within ..).mono rfl)
  | .samplePreload .. => exact .anyTime rfl ((State.tapSample_within ..).mono rfl)
  | .extest .. => exact .anyTime rfl ((State.tapDrive_within ..).mono rfl)
  | .extestPulse .. => exact .anyTime rfl ((State.tapDrive_within ..).mono rfl)
  | .extestTrain .. => exact .anyTime rfl ((State.tapDrive_within ..).mono rfl)
  | .highz .. => exact .anyTime rfl ((State.tapDrive_within ..).mono rfl)
  | .clamp .. => exact .anyTime rfl ((State.tapDrive_within ..).mono rfl)
  | .bypass .. => exact .anyTime rfl ((State.tapInstr_within ..).mono rfl)
  | .mbox .. => exact .anyTime rfl ((State.tapInstr_within ..).mono rfl)
  | .jtagRead .. => exact .whenClocked rfl ((State.jtagAccess_within ..).mono rfl)
  | .jtagWrite .. => exact .whenClocked rfl ((State.jtagAccess_within ..).mono rfl)
  | .testLogicReset .. => exact .anyTime rfl ((State.testLogicReset_within ..).mono rfl)
  | .func .. => exact .whenClocked rfl ((State.putReg_within ..).mono rfl)
  | .switchEdge .. => exact .whenClocked rfl ((State.switchEdge_within ..).mono rfl)
  | .holdEnd .. => exact .whenClocked rfl ((State.holdEnd_within ..).mono rfl)
  | .swLate .. => exact .whenClocked rfl ((State.swLate_within ..).mono rfl)
  | .gpioSet .. => exact .whenClocked rfl ((State.putReg_within ..).mono rfl)
  | .gpioClr .. => exact .whenClocked rfl ((State.putReg_within ..).mono rfl)
  | .gpioTgl .. => exact .whenClocked rfl ((State.putReg_within ..).mono rfl)
  | .pinEvent .. => exact .whenClocked rfl ((State.pinEvent_within ..).mono rfl)
  | .i2cRead .. => exact .whenClocked rfl ((State.i2cRead_within ..).mono rfl)
  | .grantExpire .. => exact .whenClocked rfl ((State.grantExpire_within ..).mono rfl)
  | .endGrant .. => exact .whenClocked rfl ((State.putReg_within ..).mono rfl)
  | .peek .. => exact .whenClocked rfl ((State.putReg_within ..).mono rfl)
  | .poke .. => exact .whenClocked rfl ((State.putReg_within ..).mono rfl)
  | .halt .. => exact .whenClocked rfl ((State.putReg_within ..).mono rfl)
  | .engineHalt .. => exact .whenClocked rfl ((State.engineHalt_within ..).mono rfl)
  | .lockBroken .. => exact .whenClocked rfl ((State.lockBroken_within ..).mono rfl)
  | .releaseEngine .. => exact .whenClocked rfl ((State.putReg_within ..).mono rfl)
  | .step .. => exact .whenClocked rfl ((State.putReg_within ..).mono rfl)
  | .fire .. => exact .whenClocked rfl ((State.putReg_within ..).mono rfl)
  | .dbgTrig .. => exact .whenClocked rfl ((State.dbgTrig_within ..).mono rfl)
  | .snapEnd .. => exact .whenClocked rfl ((State.snapEnd_within ..).mono rfl)
  | .capResume .. => exact .whenClocked rfl ((State.putReg_within ..).mono rfl)
  | .ringCtlWrite .. => exact .whenClocked rfl ((State.putReg_within ..).mono rfl)
  | .clockEdge .. => exact .whenClocked rfl ((State.clockEdge_within ..).mono rfl)
  | .upset .. => exact .anyTime rfl ((State.upset_within ..).mono rfl)
  | .pairReturn .. => exact .anyTime rfl ((State.refPairReturn_within ..).mono rfl)
  | .tlpCompletion .. => exact .whenClocked rfl ((State.tlpCompletion_within ..).mono rfl)
  | .pllLock .. => exact .whenClocked rfl ((State.pllLock_within ..).mono rfl)
  | .thermAlert .. => exact .anyTime rfl ((State.thermAlert_within ..).mono rfl)

/-- Settles O47: a command that acts does so within its parts, and one that does not leaves the state. -/
theorem everyCommandAnswers : Obligations.EveryCommandAnswers := by
  intro c s
  obtain ⟨t, he, hw⟩ := Instr.acts c s
  exact ⟨_, he, Within.ite fun _ => hw⟩

/-- Settles O48: every meaning is guarded by its command's well-formedness. -/
theorem illFormedChangesNothing : Obligations.IllFormedChangesNothing := by
  intro c s hill
  obtain ⟨t, he, -⟩ := Instr.acts c s
  rw [he, hill]
  rfl

/-! ### One step -/

/-- Settles O44: it is what `step` says of a queue that is not empty. -/
theorem stepRunsTheFrontCommand : Obligations.StepRunsTheFrontCommand := fun _ _ _ => rfl

/-- A step takes the command at the front of the queue, and evolves the state with the rest of it. -/
theorem step_evolves {s t : State} (h : step s = .next t) : Evolves { s with pending := s.pending.tail } t := by
  cases hq : s.pending with
  | nil =>
    have htick : s.tick = t := by simpa only [step, hq, Host.Outcome.next.injEq] using h
    have hs : { s with pending := s.pending.tail } = s := by rw [hq, List.tail_nil, ← hq]
    rw [← hq, hs, ← htick]
    exact s.tick_within.1
  | cons c rest =>
    have hexec : exec c { s with pending := rest } = .next t := by simpa only [step, hq] using h
    obtain ⟨u, hu, hw⟩ := everyCommandAnswers c { s with pending := rest }
    rw [hexec, Host.Outcome.next.injEq] at hu
    exact hu ▸ hw.1

/-- Settles O49: the canonical form does not speak of the queue, and what evolves keeps it. -/
theorem stepKeepsCanonicalForm : Obligations.StepKeepsCanonicalForm :=
  fun _ _ hs h => (step_evolves h).form hs

/-- Settles O50, by what evolving keeps. -/
theorem stepKeepsWhatIsDone : Obligations.StepKeepsWhatIsDone := by
  intro s t h
  obtain ⟨queue, shown, used, fused, -⟩ := step_evolves h
  exact ⟨queue, shown, used, fused⟩

/-- Settles O46. -/
theorem resetIsCanonical : Obligations.ResetIsCanonical := ⟨by decide, rfl, rfl, rfl⟩

end Sys2Proof.Machine
end

section
/-! SUPPORT. Register accesses (R5–R8, R461, R464, R466, R470): what a served access comes to on its page, and what a write or a read of a whole
register does to its fields and leaves. -/

namespace Sys2Proof.Machine

/-! ### What a served access comes to -/

theorem showEnd_serveReg_write (s : State) (req q : Req) (g : PageRef) (o size v u a : Nat) :
    State.showEnd (s.serveReg req g o size (some v) u) q a false = s.pageWrite req g o size v u := by
  rw [serveReg_write, State.showEnd_write]

theorem showEnd_serveReg_read (s : State) (req q : Req) (g : PageRef) (o size u a : Nat) :
    State.showEnd (s.serveReg req g o size none u) q a true = (s.pageRead req g o size u).1.emit (.regData q a (s.pageRead req g o size u).2) := by
  rw [serveReg_read, State.showEnd_read]

/-- What any access of a page leaves of the requester's view first (R6). -/
def State.clearView (s : State) (req : Req) (p : Nat) : State := s.setViewBuf req p ViewBuf.empty

theorem State.emit_viewBuf (s : State) (x : Out) (req : Req) (p : Nat) : (s.emit x).viewBuf req p = s.viewBuf req p := rfl

theorem State.clearView_within (s : State) (req : Req) (p : Nat) : Within [.views] s (s.clearView req p) := State.setViewBuf_within ..

/-- The register that starts at an offset is not the hub's command register (R445), whose accesses do not end at once, where it is wide. -/
theorem not_startsAcc_of_wide {k : PageKind} {o : Nat} {r : RegDef} (hr : findReg o k.regs = some (r, o)) (hw : r.wide = true) : ¬ (k = .dbgSess ∧ o = 0x060) := by
  rintro ⟨rfl, rfl⟩
  have hnarrow : (findReg 0x060 PageKind.dbgSess.regs).all (fun x => !x.1.wide) = true := by decide
  rw [hr] at hnarrow
  simp [hw] at hnarrow

theorem not_startsAcc_of_plain {k : PageKind} {o : Nat} (h : plainAt k o = true) : ¬ (k = .dbgSess ∧ o = 0x060) := by
  rintro ⟨rfl, rfl⟩
  revert h
  decide

theorem not_startsAcc_of_stored {k : PageKind} (o : Nat) (h : storedKind k = true) : ¬ (k = .dbgSess ∧ o = 0x060) := by
  rintro ⟨rfl, -⟩
  cases h

/-! ### A whole register written or read -/

section
variable {s : State} {req : Req} {k : PageKind} {i o : Nat} {r : RegDef}

/-- The size of a whole register in bytes. -/
def RegDef.size (r : RegDef) : Nat := if r.wide then 8 else 4

theorem RegDef.size_mem (r : RegDef) : [1, 2, 4, 8].contains r.size = true := by
  unfold RegDef.size
  split <;> rfl

/-- A taken write of a whole register is the register's own rule. -/
theorem pageWrite_whole (hr : findReg o k.regs = some (r, o)) (ht : s.takes req k i o = true) (v u : Nat) :
    s.pageWrite req ⟨k, i, k.addr i⟩ o r.size v u = (s.clearView req (k.addr i)).writeWhole req ⟨k, i, k.addr i⟩ r o v u := by
  cases hw : r.wide with
  | false =>
    have hsize : r.size = 4 := by simp [RegDef.size, hw]
    rw [hsize, pageWrite_word]
    exact s.writeWord_taken req k v u ht hr hw
  | true =>
    have hsize : r.size = 8 := by simp [RegDef.size, hw]
    unfold State.pageWrite
    rw [hsize, if_pos rfl]
    dsimp only
    rw [hr]
    dsimp only
    rw [if_pos ⟨hw, rfl⟩, s.writeRefusal_none req k ViewBuf.empty (by decide) ht]
    rfl

/-- A full read of a whole register is the register's own value and effect. -/
theorem pageRead_whole (hr : findReg o k.regs = some (r, o)) (hf : s.readsFull req k i o = true) (u : Nat) :
    s.pageRead req ⟨k, i, k.addr i⟩ o r.size u = (s.clearView req (k.addr i)).readWhole req ⟨k, i, k.addr i⟩ r o u := by
  cases hw : r.wide with
  | false =>
    have hsize : r.size = 4 := by simp [RegDef.size, hw]
    rw [hsize, pageRead_word]
    unfold State.readWord
    dsimp only
    rw [hf, hr]
    simp only [hw, Bool.not_true, Bool.not_false, Bool.false_eq_true, if_false, if_true, State.clearView]
  | true =>
    have hsize : r.size = 8 := by simp [RegDef.size, hw]
    unfold State.pageRead
    rw [hsize, if_pos rfl]
    dsimp only
    rw [hr]
    dsimp only
    rw [if_pos ⟨hw, rfl⟩, if_pos hf]
    rfl

/-- Table SCP-4: what a write of a whole register makes of its fields and bits, and what it leaves. -/
theorem writeWhole_plain (ho : 0x040 ≤ o) (hp : plainAt k o = true) (hr : findReg o k.regs = some (r, o)) (v u : Nat) :
    let a := k.addr i + o
    let t := (s.clearView req (k.addr i)).writeWhole req ⟨k, i, k.addr i⟩ r o v u
    (∀ f ∈ r.fields, f.fld.get (t.regVal r a) = match f.acc with
      | .rw => f.fld.get v
      | .w1c => f.fld.get (s.regVal r a) - Nat.land (f.fld.get (s.regVal r a)) (f.fld.get v)
      | .w1s => Nat.lor (f.fld.get (s.regVal r a)) (f.fld.get v)
      | _ => f.fld.get (s.regVal r a)) ∧
    (∀ b, (∀ f ∈ r.fields, b < f.fld.lo ∨ f.fld.lo + f.fld.width ≤ b) → (t.regVal r a).testBit b = false) ∧
    s.wordsBut t [a, if r.wide then a + 4 else a] ∧ Within [.regs, .views, .agg] s t ∧ t.views = (s.clearView req (k.addr i)).views := by
  intro a t
  have htidy := findReg_tidy hr
  have ht : t = (s.clearView req (k.addr i)).setReg r a (r.written (s.regVal r a) v) := by
    show State.writeWhole _ _ _ _ _ _ _ = _
    unfold State.writeWhole
    rw [if_neg (by omega)]
    exact State.bodyWrite_plain _ req k i _ r o v u hp
  have hval : t.regVal r a = r.written (s.regVal r a) v := by
    rw [ht]
    exact State.regVal_setReg _ _ _ (RegDef.written_lt htidy _ _)
  refine ⟨fun f hf => ?_, fun b hb => ?_, fun b hb => ?_, ?_, ?_⟩
  · rw [hval]
    exact RegDef.get_written htidy _ _ hf
  · rw [hval]
    exact RegDef.written_rsv r _ _ b hb
  · rw [ht, State.word_setReg]
    · rfl
    · rintro rfl
      simp at hb
    · rintro hw rfl
      simp [hw] at hb
  · rw [ht]
    exact (State.setReg_within ..).via rfl ((s.clearView_within ..).mono rfl)
  · rw [ht]
    exact (State.setReg_within ..).2 .views rfl

end

/-! ### Whole registers (R7, R8, Table SCP-4) -/

/-- Settles O1: by REG_WRITE or through the window, the access is the write of the whole register. -/
theorem writeFollowsAccessTypes : Obligations.WriteFollowsAccessTypes := by
  intro s req k i o v r hc hv hi ho ho' hp hr ht a size after
  have hn := not_startsAcc_of_plain hp
  have hg := State.getsTo_of_takes ht
  have hz : [1, 2, 4, 8].contains size = true := r.size_mem
  obtain ⟨hfields, hrsv, hwords, hwithin, -⟩ := writeWhole_plain (s := s) (req := req) (i := i) ho' hp hr v 0
  refine ⟨fun hs => Answers.intro (run_regWrite req a size v s hv hc) ?_, fun n w u hreq hw htgt hal => ?_⟩
  · have hrun : s.regWrite req a size v = (s.clearView req (k.addr i)).writeWhole req ⟨k, i, k.addr i⟩ r o v 0 := by
      unfold State.regWrite
      rw [s.regAccess_served req k (some v) 0 hv hs hi ho hz (findReg_aligned hr) hn hg, showEnd_serveReg_write]
      exact pageWrite_whole hr ht v 0
    rw [hrun]
    exact ⟨hfields, hrsv, hwords, hwithin⟩
  · subst hreq
    refine Answers.intro (run_stallWindow n w size (some v) u s hv hw hc) ?_
    rw [s.window_served n w k (some v) u hi ho hw htgt hz hal hg, Option.isNone_some, showEnd_serveReg_write]
    obtain ⟨hfields, hrsv, hwords, hwithin, -⟩ := writeWhole_plain (s := s) (req := .stall n) (i := i) ho' hp hr v u
    rw [show s.pageWrite (.stall n) ⟨k, i, k.addr i⟩ o size v u = _ from pageWrite_whole hr ht v u]
    exact ⟨hfields, hrsv, hwords, hwithin⟩

/-- R8: a full read of a whole register of a kind that stores what it reads as, and what is then shown. -/
theorem readWhole_shown {s : State} {req : Req} {k : PageKind} {i o : Nat} {r : RegDef} (ho : 0x040 ≤ o) (hp : storedKind k = true)
    (hr : findReg o k.regs = some (r, o)) (q : Req) (at' u : Nat) :
    let a := k.addr i + o
    let x := (s.clearView req (k.addr i)).readWhole req ⟨k, i, k.addr i⟩ r o u
    let t := x.1.emit (.regData q at' x.2)
    (∃ v : Nat, t.out = s.out ++ [Out.regData q at' v] ∧ ∀ f ∈ r.fields, f.fld.get v = if f.acc = .wo then 0 else f.fld.get (s.regVal r a)) ∧
      (∀ f ∈ r.fields, f.fld.get (t.regVal r a) = if f.acc = .rc then 0 else f.fld.get (s.regVal r a)) ∧
      s.wordsBut t [a, if r.wide then a + 4 else a] ∧ Within [.regs, .views, .agg, .out] s t := by
  intro a x t
  obtain ⟨hval, hfields, hwords, hwithin, hout⟩ := s.readWhole_stored _ req k i o r u ho hp hr rfl
  refine ⟨⟨x.2, ?_, fun f hf => ?_⟩, hfields, hwords, (State.emit_within ..).via rfl (hwithin.mono rfl)⟩
  · exact congrArg (· ++ [Out.regData q at' x.2]) hout
  · rw [show x.2 = r.shown (s.regVal r a) from hval]
    refine (RegDef.get_keep (findReg_tidy hr) _ _ hf).trans ?_
    by_cases hwo : f.acc = .wo <;> simp [hwo]

/-- Settles O2: by RC_READ or through the window, the access is the read of the whole register. -/
theorem readReturnsThenClears : Obligations.ReadReturnsThenClears := by
  intro s req k i o r hc hv hi ho ho' hp hr hg hf a size after
  have hn := not_startsAcc_of_stored o hp
  have hz : [1, 2, 4, 8].contains size = true := r.size_mem
  refine ⟨fun hs => Answers.intro (run_rcRead req a size s hv hc) ?_, fun n w hreq hw htgt hal => ?_⟩
  · have hrun : s.pageRead req ⟨k, i, k.addr i⟩ o size 0 = _ := pageRead_whole hr hf 0
    unfold State.regRead
    rw [s.regAccess_served req k none 0 hv hs hi ho hz (findReg_aligned hr) hn hg, showEnd_serveReg_read, hrun]
    exact readWhole_shown ho' hp hr req a 0
  · subst hreq
    have hrun : s.pageRead (.stall n) ⟨k, i, k.addr i⟩ o size 0 = _ := pageRead_whole hr hf 0
    refine Answers.intro (run_stallWindow n w size none 0 s hv hw hc) ?_
    rw [s.window_served n w k none 0 hi ho hw htgt hz hal hg, Option.isNone_none, showEnd_serveReg_read, hrun]
    exact readWhole_shown ho' hp hr (.stall n) w 0

/-! ### Refused writes (R5, R461, R464, R466) -/

/-- R461: what a write refused on its page leaves, counted from the state before it. -/
theorem clearView_refuse (s : State) (req : Req) (k : PageKind) {i o : Nat} (c : Nat) (hv : req.valid = true) (hc : c < 8) (hi : i < k.count) (ho : o < 4096) :
    let p := k.addr i
    let t := (s.clearView req p).refuse req (p + o) c
    t.fget (rERR_COUNT p) fERR_COUNT_COUNT = satInc 16 (s.fget (rERR_COUNT p) fERR_COUNT_COUNT) ∧ t.bit (rIRQ_RAW p) 31 = true ∧
      (s.flag (rERR_FIRST p) fERR_FIRST_VALID = true → t.word (rERR_FIRST p) = s.word (rERR_FIRST p)) ∧
      (s.flag (rERR_FIRST p) fERR_FIRST_VALID = false → t.flag (rERR_FIRST p) fERR_FIRST_VALID = true ∧
        t.fget (rERR_FIRST p) fERR_FIRST_CAUSE = c ∧ t.fget (rERR_FIRST p) fERR_FIRST_OFFSET = o) ∧
      s.wordsBut t [rERR_COUNT p, rIRQ_RAW p, rERR_FIRST p] ∧ Within [.regs, .views, .agg] s t := by
  obtain ⟨hcount, hirq, hkept, hfirst, hwords⟩ := (s.clearView req (k.addr i)).refuse_effect req k c hv hc hi ho
  exact ⟨hcount, hirq, hkept, hfirst, hwords, (State.refuse_within ..).via rfl ((s.clearView_within ..).mono rfl)⟩

/-- Settles O3, by the first check that refuses the write. -/
theorem refusedWriteIsCounted : Obligations.RefusedWriteIsCounted := by
  intro s req k i o v hc hv hs hi ho hn a p locked after
  have hn4 : ¬ (k = .dbgSess ∧ o = 0x060) := fun ⟨hk, h⟩ => hn ⟨hk, by omega⟩
  have hword : ∀ c, c < 8 → s.getsTo req k i o = true → o % 4 = 0 →
      (s.setViewBuf req (k.addr i) ViewBuf.empty).writeRefusal req ⟨k, i, k.addr i⟩ o 4 = some c → Answers (.regWrite req a 4 v) s (after c) := by
    intro c hlt hg ha href
    refine Answers.intro (run_regWrite req a 4 v s hv hc) ?_
    rw [regWrite_refused s req k v c hv hs hi ho ha hn4 hg href]
    exact clearView_refuse s req k c hv hlt hi ho
  refine ⟨fun hg ha hm => hword _ (by decide) hg ha ?_, fun hg ha hm hl => hword _ (by decide) hg ha ?_, fun half hg ha hm hl => ?_⟩
  · rw [refusal_cases, if_pos hm]
  · rw [refusal_cases, if_neg (by simp [hm]), if_pos hl]
  · have hsize : (if half then 2 else 1) < 4 := by cases half <;> decide
    have hz : [1, 2, 4, 8].contains (if half then 2 else 1) = true := by cases half <;> decide
    have hlocked : (decide (0x040 ≤ o / 4 * 4) && s.flag (rLOCK (k.addr i)) fLOCK_LOCKED && decide (req ≠ .tolmor)) = false := by
      rw [show decide (0x040 ≤ o / 4 * 4) = decide (0x040 ≤ o) from decide_eq_decide.mpr (by omega)]
      exact hl
    have href : (s.setViewBuf req (k.addr i) ViewBuf.empty).writeRefusal req ⟨k, i, k.addr i⟩ (o / 4 * 4) (if half then 2 else 1) = some causeWidth := by
      rw [refusal_cases, if_neg (by simp [hm]), hlocked, if_neg Bool.false_ne_true, if_pos hsize]
    refine Answers.intro (exec_narrowAccess req a half (some v) s hv hc) ?_
    dsimp only
    unfold State.regWrite
    rw [s.regAccess_served req k (some v) 0 hv hs hi ho hz ha hn4 hg, showEnd_serveReg_write,
      pageWrite_narrow s req ⟨k, i, k.addr i⟩ half v causeWidth href]
    exact clearView_refuse s req k _ hv (by decide) hi ho

/-! ### Narrow reads (R5) -/

/-- A narrow read is a read of the whole 32-bit register, cut to the addressed bytes in place. -/
theorem pageRead_narrow {s : State} {req : Req} {k : PageKind} {i o : Nat} {r : RegDef} (half : Bool) (hr : findReg (o / 4 * 4) k.regs = some (r, o / 4 * 4))
    (hf : s.readsFull req k i (o / 4 * 4) = true) :
    let x := (s.clearView req (k.addr i)).readWhole req ⟨k, i, k.addr i⟩ r (o / 4 * 4) 0
    s.pageRead req ⟨k, i, k.addr i⟩ o (if half then 2 else 1) 0 = (x.1, Nat.land (x.2 % 2 ^ 32) ((if half then 0xFFFF else 0xFF) * 2 ^ (8 * (o % 4)))) := by
  unfold State.pageRead
  rw [if_neg (by cases half <;> decide), if_neg (by cases half <;> decide)]
  dsimp only
  rw [hf, hr]
  simp only [Bool.not_true, Bool.false_eq_true, if_false, Nat.sub_self, Nat.mul_zero, Nat.pow_zero, Nat.div_one]
  cases half <;> rfl

/-- Settles O4: the bytes of the value that a read of the whole register returns. -/
theorem narrowReadReturnsBytes : Obligations.NarrowReadReturnsBytes := by
  intro s req k i o half r hc hv hs hi ho ho' ha hp hr hnarrow hg hf
  have hz : [1, 2, 4, 8].contains (if half then 2 else 1) = true := by cases half <;> decide
  have hreg : ∀ t : State, t.regVal r (k.addr i + o / 4 * 4) = t.rd32 (k.addr i + o / 4 * 4) := fun t => by simp [State.regVal, hnarrow]
  obtain ⟨hval, hfields, hwords, hwithin, hout⟩ := s.readWhole_stored _ req k i (o / 4 * 4) r 0 (by omega) hp hr rfl
  have hlt : r.shown (s.rd32 (k.addr i + o / 4 * 4)) < 2 ^ 32 := by
    have hkeep := RegDef.keep_lt (findReg_tidy hr) (fun a => decide (a ≠ .wo)) (s.rd32 (k.addr i + o / 4 * 4))
    rwa [hnarrow] at hkeep
  refine Answers.intro (exec_narrowAccess req _ half none s hv hc) ?_
  dsimp only
  unfold State.regRead
  rw [s.regAccess_served req k none 0 hv hs hi ho hz ha (not_startsAcc_of_stored o hp) hg, showEnd_serveReg_read, pageRead_narrow half hr hf]
  rw [hreg] at hval
  refine ⟨⟨_, ?_, hlt, fun f hf => ?_⟩, fun f hf => ?_, ?_, (State.emit_within ..).via rfl (hwithin.mono rfl)⟩
  · dsimp only
    rw [show ((s.clearView req (k.addr i)).readWhole req ⟨k, i, k.addr i⟩ r (o / 4 * 4) 0).2 = _ from hval, Nat.mod_eq_of_lt hlt]
    exact congrArg (· ++ [_]) hout
  · refine (RegDef.get_keep (findReg_tidy hr) _ _ hf).trans ?_
    by_cases hwo : f.acc = .wo <;> simp [hwo]
  · rw [← hreg, ← hreg]
    exact hfields f hf
  · exact State.wordsBut_mono hwords (by simp [hnarrow])

/-! ### 64-bit registers by words (R6) -/

/-- Settles O5, by the word and the direction of the access. -/
theorem wideRegisterByWords : Obligations.WideRegisterByWords := by
  intro s req k i o v r hc hv hs hi ho ho' ha hr hr4 hw a p
  have hreg : ∀ t : State, t.regVal r a = t.rd64 a := fun t => by simp [State.regVal, hw]
  have hn := not_startsAcc_of_wide hr hw
  refine ⟨fun hp hg hf => ?lowRead, fun ht hrw => ?lowWrite, fun hp ht => ?highWrite⟩
  case lowRead =>
    obtain ⟨hval, hfields, hwords, hwithin, hout⟩ := s.readWhole_stored _ req k i o r 0 ho' hp hr rfl
    refine Answers.intro (exec_low req a s hv hc) ?_
    unfold State.regRead
    rw [s.regAccess_served req k none 0 hv hs hi (by omega) rfl (by omega) hn hg, showEnd_serveReg_read, pageRead_word,
      readWord_low s req ⟨k, i, k.addr i⟩ 0 hr hw hf]
    dsimp only
    rw [hval, hreg]
    refine ⟨_, fun f hf => ?_, congrArg (· ++ [_]) hout, (State.emit_viewBuf ..).trans (viewBuf_set ..), ?_, ?_⟩
    · refine (RegDef.get_keep (findReg_tidy hr) _ _ hf).trans ?_
      by_cases hwo : f.acc = .wo <;> simp [hwo]
    · rw [if_pos hw] at hwords
      exact hwords
    · exact (State.emit_within ..).via rfl ((State.setViewBuf_within ..).via rfl (hwithin.mono rfl))
  case lowWrite =>
    refine Answers.intro (exec_loww req a v s hv hc) ?_
    unfold State.regWrite
    rw [s.regAccess_served req k (some v) 0 hv hs hi (by omega) rfl (by omega) hn (State.getsTo_of_takes ht), showEnd_serveReg_write, pageWrite_word,
      writeWord_low s req k v 0 hr hw hrw ht]
    exact ⟨viewBuf_set .., (State.setViewBuf_within ..).via rfl (State.setViewBuf_within ..)⟩
  case highWrite =>
    have hn4 : ¬ (k = .dbgSess ∧ o + 4 = 0x060) := fun ⟨_, h⟩ => by omega
    refine Answers.intro (exec_highw req (a + 4) v s hv hc) ?_
    unfold State.regWrite
    rw [show a + 4 = k.addr i + (o + 4) from Nat.add_assoc .., s.regAccess_served req k (some v) 0 hv hs hi (by omega) rfl (by omega) hn4 (State.getsTo_of_takes ht),
      showEnd_serveReg_write, pageWrite_word, writeWord_high s req k v 0 hr4 hw ht]
    intro low
    obtain ⟨hfields, -, hwords, hwithin, hviews⟩ := writeWhole_plain (s := s) (req := req) (i := i) ho' hp hr (low + v * 2 ^ 32) 0
    refine ⟨fun f hf hrw => ?_, ?_, ?_, hwithin⟩
    · rw [← hreg]
      refine (hfields f hf).trans ?_
      rw [hrw]
    · refine Eq.trans ?_ (viewBuf_set s req p ViewBuf.empty)
      exact congrArg (fun m => smGet ViewBuf.empty m (viewKey req p)) hviews
    · rw [if_pos hw] at hwords
      exact hwords

end Sys2Proof.Machine
end

section
/-! SUPPORT. The header's own commands (R460, R461, R465, R466) and interrupt aggregation (R471–R473). -/

namespace Sys2Proof.Machine

/-! ### The header's registers -/

section
variable (s : State) (k : PageKind) (p : Nat) (r : RegDef)

/-- R465: SOFT_RST sets four header words to their reset values, and ENABLE as the write says. -/
theorem headerWrite_softRst (enable : Bool) :
    let t := s.headerWrite k r p 0x008 (2 + b2n enable)
    t.word (rIRQ_RAW p) = 0 ∧ t.word (rIRQ_EN p) = 0 ∧ t.word (rERR_FIRST p) = 0 ∧ t.word (rERR_COUNT p) = 0 ∧
      t.fget (rPAGE_CTRL p) fPAGE_CTRL_ENABLE = b2n enable ∧ s.wordsBut t [rPAGE_CTRL p, rIRQ_RAW p, rIRQ_EN p, rERR_FIRST p, rERR_COUNT p] := by
  intro t
  have hrst : fPAGE_CTRL_SOFT_RST.get (2 + b2n enable) = 1 := by cases enable <;> rfl
  have hen : fPAGE_CTRL_ENABLE.get (2 + b2n enable) = b2n enable := by cases enable <;> rfl
  have ht : t = ((((s.fset (rPAGE_CTRL p) fPAGE_CTRL_ENABLE (b2n enable)).wr32 (rIRQ_RAW p) 0).wr32 (rIRQ_EN p) 0).wr32 (rERR_FIRST p) 0).wr32 (rERR_COUNT p) 0 := by
    show State.headerWrite .. = _
    unfold State.headerWrite
    rw [if_pos rfl, hen]
    exact if_pos hrst
  rw [ht]
  refine ⟨?_, ?_, ?_, ?_, ?_, ?_⟩
  · simp [State.word_wr32, rIRQ_RAW, rIRQ_EN, rERR_FIRST, rERR_COUNT]
  · simp [State.word_wr32, rIRQ_EN, rERR_FIRST, rERR_COUNT]
  · simp [State.word_wr32, rERR_FIRST, rERR_COUNT]
  · simp [State.word_wr32]
  · have hset := s.fget_fset (rPAGE_CTRL p) fPAGE_CTRL_ENABLE (b2n enable) (by decide)
    rw [State.fget_word _ _ (by decide)] at hset ⊢
    simp only [State.rd32_wr32_if, rPAGE_CTRL, rIRQ_RAW, rIRQ_EN, rERR_FIRST, rERR_COUNT, Nat.add_left_cancel_iff, Nat.reduceEqDiff, if_false]
    refine hset.trans ?_
    cases enable <;> rfl
  · exact ((((State.wordsBut_fset s _ (by decide) (by simp)).wr32 (by simp)).wr32 (by simp)).wr32 (by simp)).wr32 (by simp)

/-- R460: IRQ_FORCE sets bits that the page has. -/
theorem headerWrite_irqForce (bits : Nat) :
    s.headerWrite k r p 0x018 bits = s.wr32 (rIRQ_RAW p) (Nat.lor (s.rd32 (rIRQ_RAW p)) (Nat.land bits (k.irqMask + 2 ^ 31))) := rfl

/-- R461: writing 1 to VALID clears ERR_FIRST whole. -/
theorem headerWrite_errFirst : s.headerWrite k r p 0x020 (2 ^ 31) = s.wr32 (rERR_FIRST p) 0 := rfl

/-- R466: LOCK is written as any other register. -/
theorem headerWrite_lock (v : Nat) : s.headerWrite k r p 0x02C v = s.plainWrite r (p + 0x02C) v := rfl

end

/-- A change of words after a command on a page, against the state before the command. -/
theorem Within.afterClearView {s t : State} {req : Req} {p : Nat} (h : Within [.regs, .agg] (s.clearView req p) t) : Within [.regs, .views, .agg] s t :=
  h.via rfl ((s.clearView_within req p).mono rfl)

/-- LOCK as the register map gives it. -/
def lockReg : RegDef := ⟨0x02c, [], false, [⟨0, 0, .w1s, 0⟩]⟩

/-- R466: writing 1 to LOCK sets it, whatever it was. -/
theorem plainWrite_lock (s : State) (p : Nat) : (s.plainWrite lockReg (p + 0x02C) 1).flag (rLOCK p) fLOCK_LOCKED = true := by
  have hset : fLOCK_LOCKED.get ((s.plainWrite lockReg (p + 0x02C) 1).regVal lockReg (rLOCK p)) = Nat.lor (fLOCK_LOCKED.get (s.rd32 (p + 0x02C))) 1 :=
    (congrArg fLOCK_LOCKED.get (s.regVal_setReg (p + 0x02C) _ (RegDef.written_lt (by decide) _ _))).trans
      (RegDef.get_written (r := lockReg) (by decide) _ 1 (List.mem_singleton.mpr rfl))
  have hbit : fLOCK_LOCKED.get (s.rd32 (p + 0x02C)) < 2 := Fld.get_lt ..
  have hone : ∀ x, x < 2 → Nat.lor x 1 = 1 := by decide
  unfold State.flag
  rw [State.fget_word _ _ (by decide)]
  exact decide_eq_true (hset.trans (hone _ hbit))

/-- Settles O6, by the header word that each command writes. -/
theorem headerCommands : Obligations.HeaderCommands := by
  intro s req k i hc hv hi p
  have hpage := isPage_addr k hi
  have hbase : 4096 * (p / 4096) = p := page_div k hi
  refine ⟨fun enable ht => ?softRst, fun bits ht => ?irqForce, fun ht => ?lock, fun ht => ?errFirst⟩
  case softRst =>
    refine Answers.intro (exec_softRst req _ enable s (by simp [Instr.wf, hv, hpage, p]) hc) ?_
    rw [hbase, show rPAGE_CTRL p = k.addr i + 0x008 from rfl, putReg_header s req k _ hv hi (by decide) rfl ht rfl rfl]
    obtain ⟨hraw, hen, hfirst, hcount, henable, hwords⟩ := headerWrite_softRst (s.clearView req p) k p ⟨0x008, [], false, [⟨1, 1, .wo, 0⟩, ⟨0, 0, .rw, 1⟩]⟩ enable
    exact ⟨hraw, hen, hfirst, hcount, henable, hwords, (State.headerWrite_within ..).afterClearView⟩
  case irqForce =>
    refine Answers.intro (exec_irqForce req _ bits s (by simp [Instr.wf, hv, hpage, p]) hc) ?_
    rw [hbase, show rIRQ_FORCE p = k.addr i + 0x018 from rfl, putReg_header s req k _ hv hi (by decide) rfl ht rfl rfl, headerWrite_irqForce]
    refine ⟨?_, State.wordsBut_wr32 _ _ (by simp [p]), (State.wr32_within ..).afterClearView⟩
    rw [State.word_wr32, if_pos rfl]
    exact (BitVec.ofNat_or ..).trans (congr (congrArg (· ||| ·) (BitVec.ofNat_toNat ..)) (BitVec.ofNat_and ..))
  case lock =>
    refine Answers.intro (exec_lockPage req _ s (by simp [Instr.wf, hv, hpage, p]) hc) ?_
    rw [hbase, show rLOCK p = k.addr i + 0x02C from rfl, putReg_header s req k _ hv hi (by decide) rfl ht (show findReg 0x02C regsHeader = some (lockReg, 0x02C) from rfl) rfl,
      headerWrite_lock]
    exact ⟨plainWrite_lock .., ((s.clearView req p).plainWrite_word (r := lockReg) (p + 0x02C) 1 (by decide) rfl).2, (State.plainWrite_within ..).afterClearView⟩
  case errFirst =>
    refine Answers.intro (exec_errFirstClear req _ s (by simp [Instr.wf, hv, hpage, p]) hc) ?_
    rw [hbase, show rERR_FIRST p = k.addr i + 0x020 from rfl, putReg_header s req k _ hv hi (by decide) rfl ht rfl rfl, headerWrite_errFirst]
    exact ⟨by simp [State.word_wr32, rERR_FIRST], State.wordsBut_wr32 _ _ (by simp [rERR_FIRST]), (State.wr32_within ..).afterClearView⟩

/-! ### Interrupt aggregation -/

/-- R473: settling an episode leaves the queues. -/
theorem State.aggSettle_queues (s : State) (v : Nat) : (s.aggSettle v).agg.queues = s.agg.queues := by
  unfold State.aggSettle
  split <;> rfl

theorem State.aggSettle_regs (s : State) (v : Nat) : (s.aggSettle v).regs = s.regs := by
  unfold State.aggSettle
  split <;> rfl

/-- AGG_POP (R472): the view's queue loses its head, and no other queue changes. -/
theorem State.aggPop_queue (s : State) (v w : Nat) : (s.aggPop v).aggQueue w = if w = v then (s.aggQueue v).tail else s.aggQueue w := by
  unfold State.aggPop State.aggQueue
  rw [State.aggSettle_queues]
  exact smGet_smSet ..

theorem State.aggPop_regs (s : State) (v : Nat) : (s.aggPop v).regs = s.regs := State.aggSettle_regs ..

/-- What AGG_POP's register does with a 1 (R472). -/
theorem body_aggPop (s : State) (req : Req) (v p : Nat) (r : RegDef) (u : Nat) : s.bodyWrite req .irqAgg v p r 0x04C 1 u = s.aggPop v := rfl

/-- R471, R472: SUMMARY_PUSH with a page's rise the oldest. -/
theorem summaryPush_page (s : State) {p : Nat} {ps : List Nat} {k : PageKind} {i : Nat} (hq : s.agg.rises = p :: ps) (hp : pageOf (4096 * p) = some (k, i)) :
    s.summaryPush = (List.range 4).foldl (fun t v => if t.routed k i v then t.aggPush v p else t) { s with agg := { s.agg with rises := ps } } := by
  unfold State.summaryPush
  rw [hq]
  dsimp only
  rw [hp]

/-- Settles O7, by the command. -/
theorem interruptAggregation : Obligations.InterruptAggregation := by
  intro s v hc hv
  refine ⟨fun p ps k i hq hp => ?push, fun req hreq ht => ?pop, fun hen hup hne hsent => ?send⟩
  case push =>
    refine Answers.intro (exec_summaryPush s rfl hc) ?_
    obtain ⟨-, -, hwords, hrises, -, hqueues⟩ := push_fold s k i p (pageOf_count hp) { s with agg := { s.agg with rises := ps } } rfl rfl (fun _ _ => rfl)
      (List.range 4) (fun _ => List.mem_range.mp) List.nodup_range
    rw [← summaryPush_page s hq hp] at hwords hrises hqueues
    obtain ⟨hqueue, hovf⟩ := hqueues v (List.mem_range.mpr hv)
    refine ⟨hrises, hqueue, hovf, fun a ha => hwords a fun w hw e => ?_, State.summaryPush_within s⟩
    have hmem : ((List.range 4).map rAGG_STAT).contains a = true := List.contains_iff_mem.mpr (e ▸ List.mem_map_of_mem (List.mem_range.mpr hw))
    rw [ha] at hmem
    cases hmem
  case pop =>
    refine Answers.intro (exec_aggPop req v s (by simp [Instr.wf, hreq, hv]) hc) ?_
    rw [show rAGG_POP v = PageKind.irqAgg.addr v + 0x04C from rfl,
      s.putReg_body req .irqAgg 1 hreq hv (by decide) (by decide) rfl (by simp) ht rfl rfl, body_aggPop]
    exact ⟨(State.aggPop_queue ..).trans (if_pos rfl), fun w hw => (State.aggPop_queue ..).trans (if_neg hw), State.aggPop_regs ..,
      (State.aggPop_within ..).via rfl ((s.clearView_within req _).mono rfl)⟩
  case send =>
    refine Answers.intro (exec_msixSend v s (by simp [Instr.wf, hv]) hc) ?_
    have hsend : s.msixSend v = ({ s with agg := { s.agg with sent := smSet false s.agg.sent v true } } : State).emit (.msix v) :=
      if_pos (by simp [hen, hup, hne, hsent])
    refine ⟨?_, ?_, ?_, State.msixSend_within s v⟩ <;> rw [hsend]
    · rfl
    · exact smGet_smSet_same false true s.agg.sent v
    · rfl

end Sys2Proof.Machine
end

section
/-! SUPPORT. The blocks of the fabric on an edge (R43, R48–R50, R61, R71), upsets and the scrubber (R55–R60), and contention (R83, R85). -/

namespace Sys2Proof.Machine

/-! ### Blocks on an edge -/

theorem setTrib_trib (s : State) (t : Nat) (x : Trib) (u : Nat) : (s.setTrib t x).trib u = if u = t then x else s.trib u := smGet_smSet ..

theorem setFmb_fmb (s : State) (sh b : Nat) (x : Fmb) : (s.setFmb sh b x).fmb sh b = x := smGet_smSet_same ..

/-- R48, R49: an edge of the spine clock that a fabric MAC block selects, where the clock reaches the shed. -/
theorem clockEdge_fmb (s : State) (sh b : Nat) (i : FmbIn) {c : FmbCfg} (hc : cfgAt (s.liveCfg sh).fmbs b = some c) (hon : s.spineOn sh c.clk = true) :
    let lo := if b = 0 then Fmb.zero else s.fmb sh (b - 1)
    s.clockEdge (.spine sh c.clk) false [.fmb sh b i] = s.setFmb sh b (fmbEdge c (s.fmb sh b) i lo.acc lo.xr lo.wr) := by
  intro lo
  simp only [State.clockEdge, List.foldl_cons, List.foldl_nil, State.clockElem, hc]
  exact if_pos (by simp [onSpine, hon])

/-- R71: a drive register on an edge of the device clock that its slot selects. -/
theorem clockEdge_drive (s : State) {k sh slot : Nat} (d : Bool) (hon : slotOn (s.liveCfg sh).drivers slot k = true) (hg : s.gated sh = false) :
    s.clockEdge (.device k) false [.drive sh slot d] =
      { s with fab := { s.fab with drive := smSet 0 s.fab.drive sh (putBits (smGet 0 s.fab.drive sh) slot 1 (b2n d)) } } :=
  if_pos (by simp [hon, hg])

/-- R71: a Riverbed register on an edge of a device clock of the tributary. -/
theorem clockEdge_river (s : State) {k tr : Nat} (hon : s.tribOnClock tr k = true) :
    s.clockEdge (.device k) false [.river tr] = s.setTrib tr { s.trib tr with reg := s.selValue tr } :=
  if_pos (by simp [hon])

/-- R50: a MAC block with no operand register, on an enabled edge. -/
theorem fmbEdge_accumulates {c : FmbCfg} (x : Fmb) {i : FmbIn} (ci xci wci : Int) (hen : i.en = true)
    (hplain : c.xpipe = false ∧ c.wpipe = false ∧ c.gpipe = false ∧ c.mpipe = false ∧ c.apipe = true ∧ c.xChain = false ∧ c.wChain = false) :
    let z : Int := match i.zsel with
      | .zero => 0 | .acc => x.acc | .n => wrapS 58 i.n | .accCi => ci
    let k : Int := if i.ksel = 1 then c.konst else if i.ksel = 2 then -c.konst else 0
    let r := fmbMultiplicand i.pre (wrapS 27 i.x) (wrapS 27 i.g) * wrapS 24 i.w + z + k
    (fmbEdge c x i ci xci wci).acc = (fmbLimit c.sat r).1 ∧ (fmbEdge c x i ci xci wci).ovf = (fmbLimit c.sat r).2 := by
  obtain ⟨hx, hw, hg, hm, ha, hxc, hwc⟩ := hplain
  unfold fmbEdge
  refine ⟨?_, ?_⟩ <;> simp only [hen, hx, hw, hg, hm, ha, hxc, hwc, if_true, Bool.false_eq_true, if_false] <;> rfl

/-- Settles O10, by the kind of the block. -/
theorem blocksOnAnEdge : Obligations.BlocksOnAnEdge := by
  intro s sh b i c hc hsh hb hclk hcfg hon
  refine ⟨fun hplain => ?mac, fun k slot d hk hslot hdrv hg => ?drive, fun k tr hk htr hclk => ?river⟩
  case mac =>
    refine Answers.intro (run_clockEdge _ false _ s hc (by simp [isClock, hsh, hclk]) (by simp [isElem, hsh, hb])) ?_
    have hci : (if b = 0 then Fmb.zero else s.fmb sh (b - 1)).acc = if b = 0 then 0 else (s.fmb sh (b - 1)).acc := by split <;> rfl
    rw [clockEdge_fmb s sh b i hcfg hon, setFmb_fmb, hci]
    intro g x m z k r
    refine ⟨fun hen => ?_, fun hen => ?_, State.setFmb_within ..⟩
    · obtain ⟨hacc, hovf⟩ := fmbEdge_accumulates (s.fmb sh b) (if b = 0 then 0 else (s.fmb sh (b - 1)).acc)
        (if b = 0 then Fmb.zero else s.fmb sh (b - 1)).xr (if b = 0 then Fmb.zero else s.fmb sh (b - 1)).wr hen hplain
      exact ⟨hovf.trans (fmbLimit_eq c.sat r).1, hacc.trans (fmbLimit_eq c.sat r).2⟩
    · simp [fmbEdge, hen]
  case drive =>
    have hel : isElem (.drive sh slot d) = true := by simp [isElem, hsh, hslot]
    refine Answers.intro (run_clockEdge _ false _ s hc (by simp [isClock, hk]) hel) ?_
    rw [clockEdge_drive s d hdrv hg]
    refine ⟨?_, (Within.refl [.fab] s).fab rfl⟩
    rw [smGet_smSet_same]
    exact putBits_one ..
  case river =>
    refine Answers.intro (run_clockEdge _ false _ s hc (by simp [isClock, hk]) (by simp [isElem, htr])) ?_
    rw [clockEdge_river s hclk]
    refine ⟨?_, State.setTrib_within ..⟩
    rw [setTrib_trib, if_pos rfl]

/-! ### FIFO resets (R43, R61) -/

/-- Settles O11: the reset values of a BM36 FIFO, and its mirror bit. -/
theorem fifoResetEmpties : Obligations.FifoResetEmpties := by
  intro s sh b c hsh hb hcfg hmode
  have hrun : s.fifoReset sh b = (s.setBm sh b (bmFifoReset (s.bm sh b))).setFifoOvr sh b false := by
    unfold State.fifoReset
    rw [hcfg]
    exact if_pos hmode
  have hmirror : ∀ u : State, u.setFifoOvr sh b false = u.setBit (if b < 32 then rFIFO_OVR_LO sh else rFIFO_OVR_HI sh) (b % 32) false := by
    intro u
    unfold State.setFifoOvr
    split
    · rw [Nat.mod_eq_of_lt (by assumption)]
    · rw [show b - 32 = b % 32 by omega]
  have hbit : b % 32 < 32 := Nat.mod_lt _ (by decide)
  refine Answers.intro (exec_fifoReset sh b s (by simp [Instr.wf, hsh, hb])) ?_
  have hbm : (s.fifoReset sh b).bm sh b = bmFifoReset (s.bm sh b) := by
    rw [hrun, setFifoOvr_bm, setBm_bm]
  rw [hbm]
  refine ⟨rfl, rfl, rfl, rfl, rfl, rfl, ?_, ?_, State.fifoReset_within ..⟩ <;> rw [hrun, hmirror]
  · rw [State.bit_setBit_if _ _ _ _ _ _ hbit hbit, if_pos ⟨rfl, rfl⟩]
  · exact State.wordsBut_setBit (s.setBm sh b (bmFifoReset (s.bm sh b))) false hbit (List.mem_singleton.mpr rfl)

/-! ### Upsets (R56, R59, R83) -/

/-- Settles O12, by what the upset strikes. -/
theorem upsetFlipsOneBit : Obligations.UpsetFlipsOneBit := by
  intro s sh p frame word bit hsh hp hframe hword hbit
  refine ⟨fun hmem => ?word, fun tr tap ab htr htap => ?select, ?livePlane⟩
  case word =>
    refine Answers.intro (exec_upset _ s rfl) ?_
    have hrun : s.upset (.word sh p frame word bit) =
        (s.flipLut sh p frame word (2 ^ bit)).setUpset (wordKey sh p frame word) (Nat.xor (s.upsetMask (wordKey sh p frame word)) (2 ^ bit)) := by
      unfold State.upset
      dsimp only
      rw [if_pos ⟨hsh, hp, hframe, hword, hbit⟩, hmem, flipLut_upsetMask]
      rfl
    refine ⟨?_, fun k hk => ?_, State.upset_within ..⟩ <;> rw [hrun, setUpset_mask]
    · exact if_pos rfl
    · rw [if_neg hk, flipLut_upsetMask]
  case select =>
    refine Answers.intro (exec_upset _ s rfl) ?_
    have hrun : s.upset (.select tr tap ab) = s.setTrib tr (if ab = 0 then { s.trib tr with drvA := Nat.xor (s.trib tr).drvA (2 ^ tap) }
        else { s.trib tr with drvB := Nat.xor (s.trib tr).drvB (2 ^ tap) }) := by
      unfold State.upset
      dsimp only
      rw [if_pos ⟨htr, htap⟩]
      split <;> rfl
    rw [hrun]
    refine ⟨fun k => ?_, fun k => ?_, ?_, fun u hu => ?_, State.setTrib_within ..⟩
    · rw [setTrib_trib, if_pos rfl]
      split
      · rw [xor_pow_testBit]; simp [*]
      · simp [*]
    · rw [setTrib_trib, if_pos rfl]
      split
      · simp [*]
      · rw [xor_pow_testBit]; simp [*]
    · rw [setTrib_trib, if_pos rfl]
      split <;> rfl
    · rw [setTrib_trib, if_neg hu]
  case livePlane =>
    refine Answers.intro (exec_upset _ s rfl) ?_
    have hrun : s.upset (.livePlane sh) = { s with fab := { s.fab with liveFlip := smSet false s.fab.liveFlip sh (!smGet false s.fab.liveFlip sh) } } :=
      if_pos hsh
    have hlive := s.livePlane_lt sh
    have hsel : ∀ u, (s.upset (.livePlane sh)).selPlane u = (s.livePlane u + b2n (if u = sh then !smGet false s.fab.liveFlip sh else smGet false s.fab.liveFlip u)) % 2 := by
      intro u
      rw [hrun]
      unfold State.selPlane
      rw [smGet_smSet]
      rfl
    refine ⟨?_, fun u hu => ?_, (congrArg State.regs hrun :), State.upset_within ..⟩
    · rw [hsel, if_pos rfl]
      unfold State.selPlane
      cases smGet false s.fab.liveFlip sh <;> simp only [Bool.not_true, Bool.not_false, b2n, if_true, Bool.false_eq_true, if_false] <;> omega
    · rw [hsel, if_neg hu]
      rfl

/-! ### The scrubber (R55–R58) -/

section
variable {s : State} {y : Nat}

/-- The shed and the plane that a yard's scrubber visits next. -/
def State.scrubShed (s : State) (y : Nat) : Nat := 48 * y + (s.scrubPos y).shed
def State.scrubPlane (s : State) (y : Nat) : Nat := if (s.scrubPos y).bg then s.bgPlane (s.scrubShed y) else s.livePlane (s.scrubShed y)

/-- R58: the visited frame read: each of its upset words, but none of a plane that is being loaded. -/
def State.scrubRead (s : State) (y : Nat) : State :=
  if s.planeState (s.scrubShed y) (s.scrubPlane y) = plLOADING then s
  else (s.frameWords (s.scrubShed y) (s.scrubPlane y) (s.scrubPos y).frame).foldl
    (fun t w => t.scrubWord y (s.scrubShed y) (s.scrubPlane y) (s.scrubPos y).frame w) s

/-- R56: where a scrubber at `pos` goes from a frame: to the next one, or past the last to the next shed. -/
def ScrubPos.next (pos : ScrubPos) (frame shed : Nat) : ScrubPos :=
  if frame + 1 < 2304 then { pos with frame := frame + 1, bg := false } else { pos with shed := shed + 1, frame := 0, bg := false }

/-- A visit of an active scrubber of a running yard. -/
theorem scrubVisit_eq (hon : s.flag (rSCRUB_CTRL y) fSCRUB_CTRL_EN = true) (hact : s.flag (rSCRUB_STAT y) fSCRUB_STAT_ACTIVE = true) (hrun : s.yardRuns y = true) :
    s.scrubVisit y =
      if s.inSwap (s.scrubShed y) then s.scrubMove y { s.scrubPos y with shed := (s.scrubPos y).shed + 1, frame := 0, bg := false }
      else if !(s.scrubPos y).bg && s.scrubsBg y (s.scrubShed y) then (s.scrubRead y).scrubMove y { (s.scrubRead y).scrubPos y with bg := true }
      else (s.scrubRead y).scrubMove y (((s.scrubRead y).scrubPos y).next (s.scrubPos y).frame (s.scrubPos y).shed) := by
  have hskip : ¬ (!s.flag (rSCRUB_CTRL y) fSCRUB_CTRL_EN || !s.flag (rSCRUB_STAT y) fSCRUB_STAT_ACTIVE || !s.yardRuns y) = true := by simp [hon, hact, hrun]
  unfold State.scrubVisit ScrubPos.next
  rw [if_neg hskip, apply_ite (State.scrubMove (s.scrubRead y) y)]
  rfl

/-- A visit that reads no upset word, and after which no background plane is due, only moves. -/
theorem scrubVisit_moves (hon : s.flag (rSCRUB_CTRL y) fSCRUB_CTRL_EN = true) (hact : s.flag (rSCRUB_STAT y) fSCRUB_STAT_ACTIVE = true) (hrun : s.yardRuns y = true)
    (hclean : s.inSwap (s.scrubShed y) = true ∨ s.frameWords (s.scrubShed y) (s.scrubPlane y) (s.scrubPos y).frame = [])
    (hbg : (s.scrubPos y).bg = false ∧ s.inSwap (s.scrubShed y) = false → s.scrubsBg y (s.scrubShed y) = false) :
    s.scrubVisit y = s.scrubMove y (if s.inSwap (s.scrubShed y) then { s.scrubPos y with shed := (s.scrubPos y).shed + 1, frame := 0, bg := false }
      else (s.scrubPos y).next (s.scrubPos y).frame (s.scrubPos y).shed) := by
  rw [scrubVisit_eq hon hact hrun]
  cases hswap : s.inSwap (s.scrubShed y) with
  | true => rw [if_pos rfl, if_pos rfl]
  | false =>
    have hread : s.scrubRead y = s := by
      unfold State.scrubRead
      rw [hclean.resolve_left (by simp [hswap])]
      exact ite_self _
    have hstay : (!(s.scrubPos y).bg && s.scrubsBg y (s.scrubShed y)) = false := by
      cases hb : (s.scrubPos y).bg with
      | true => rfl
      | false => exact hbg ⟨hb, hswap⟩
    rw [hread, hstay, if_neg Bool.false_ne_true, if_neg Bool.false_ne_true, if_neg Bool.false_ne_true]

/-- A visit that reads words, as far as they go: it reads them and moves. -/
theorem scrubVisit_reads (hon : s.flag (rSCRUB_CTRL y) fSCRUB_CTRL_EN = true) (hact : s.flag (rSCRUB_STAT y) fSCRUB_STAT_ACTIVE = true) (hrun : s.yardRuns y = true)
    (hswap : s.inSwap (s.scrubShed y) = false) : ∃ pos, s.scrubVisit y = (s.scrubRead y).scrubMove y pos := by
  rw [scrubVisit_eq hon hact hrun, hswap, if_neg Bool.false_ne_true]
  split
  · exact ⟨_, rfl⟩
  · exact ⟨_, rfl⟩

end

/-- R58: a word with a single upset bit is corrected, counted, and nothing of the upsets of other words changes. -/
theorem scrubWord_corrects (s : State) (y sh p frame w : Nat) (h1 : popCount 72 (s.upsetMask (wordKey sh p frame w)) = 1) :
    let t := s.scrubWord y sh p frame w
    (∀ k, t.upsetMask k = if k = wordKey sh p frame w then 0 else s.upsetMask k) ∧
      t.fget (rSCRUB_CORR y) fSCRUB_CORR_COUNT = satInc 32 (s.fget (rSCRUB_CORR y) fSCRUB_CORR_COUNT) := by
  intro t
  have h0 : s.upsetMask (wordKey sh p frame w) ≠ 0 := by
    intro h
    rw [h] at h1
    exact absurd h1 (by decide)
  let u := ((s.flipLut sh p frame w (s.upsetMask (wordKey sh p frame w))).setUpset (wordKey sh p frame w) 0)
  have hcount : (u.finc (rSCRUB_CORR y) fSCRUB_CORR_COUNT).fget (rSCRUB_CORR y) fSCRUB_CORR_COUNT = satInc 32 (s.fget (rSCRUB_CORR y) fSCRUB_CORR_COUNT) :=
    (fget_finc u (by decide)).trans (congrArg (satInc 32) (State.fget_same ((State.flipLut_within ..).2 .regs rfl) ..))
  have hmask : ∀ k, (u.finc (rSCRUB_CORR y) fSCRUB_CORR_COUNT).upsetMask k = if k = wordKey sh p frame w then 0 else s.upsetMask k := by
    intro k
    rw [upsetMask_fab (State.finc_fab ..), setUpset_mask, flipLut_upsetMask]
  have ht : t = if (s.scrubPos y).uncorrSeen then (u.finc (rSCRUB_CORR y) fSCRUB_CORR_COUNT).irq (PageKind.yardScrub.addr y) 0
      else (u.finc (rSCRUB_CORR y) fSCRUB_CORR_COUNT).wr64 (rSCRUB_LAST y) (lowBit 72 0 (s.upsetMask (wordKey sh p frame w)) * 2 ^ 32 + b2n false * 2 ^ 31 + sh % 48 * 2 ^ 25 + p * 2 ^ 24 + frame * 2 ^ 12 + w * 2 ^ 6) := by
    show State.scrubWord .. = _
    unfold State.scrubWord
    dsimp only
    rw [if_neg h0, if_pos h1]
  rw [ht]
  split
  · refine ⟨fun k => (upsetMask_fab (State.irq_fab ..) k).trans (hmask k), ?_⟩
    rw [State.fget_wordsBut (State.wordsBut_irq (l := [PageKind.yardScrub.addr y + 0x010]) _ (by decide) (by simp)) _ (by simp [rSCRUB_CORR]) (by decide), hcount]
  · refine ⟨fun k => (upsetMask_fab ((State.wr64_within ..).2 .fab rfl) k).trans (hmask k), ?_⟩
    rw [State.fget_wordsBut (State.wordsBut_wr64 (l := [rSCRUB_LAST y, rSCRUB_LAST y + 4]) _ _ (by simp) (by simp)) _ (by simp [rSCRUB_CORR, rSCRUB_LAST]) (by decide), hcount]

/-- R56: a pass begins at the yard's first shed and frame. -/
theorem scrubStart_facts (s : State) (y : Nat) (hon : s.flag (rSCRUB_CTRL y) fSCRUB_CTRL_EN = true) (hact : s.flag (rSCRUB_STAT y) fSCRUB_STAT_ACTIVE = false)
    (hrun : s.yardRuns y = true) :
    let t := s.scrubStart y
    t.rd32 (rSCRUB_STAT y) = s.fget (rSCRUB_STAT y) fSCRUB_STAT_PASS_COUNT * 2 ^ 8 + s.livePlane (48 * y) * 2 + 1 ∧
      t.scrubPos y = { s.scrubPos y with shed := 0, frame := 0, bg := false } ∧ s.wordsBut t [rSCRUB_STAT y] := by
  intro t
  have ht : t = (s.setScrubPos y { s.scrubPos y with shed := 0, frame := 0, bg := false }).wr32 (rSCRUB_STAT y)
      (s.fget (rSCRUB_STAT y) fSCRUB_STAT_PASS_COUNT * 2 ^ 8 + s.livePlane (48 * y) * 2 + 1) := by
    show State.scrubStart .. = _
    unfold State.scrubStart
    rw [if_neg (by simp [hon, hact, hrun])]
    rfl
  have hpass : s.fget (rSCRUB_STAT y) fSCRUB_STAT_PASS_COUNT < 2 ^ 24 := State.fget_lt _ _ (by decide)
  have hlive := s.livePlane_lt (48 * y)
  rw [ht]
  refine ⟨(State.rd32_wr32 ..).trans (Nat.mod_eq_of_lt (by omega)), ?_, ?_⟩
  · rw [scrubPos_fab ((State.wr32_within ..).2 .fab rfl), setScrubPos_pos]
  · exact State.wordsBut_wr32 (s.setScrubPos y _) _ (List.mem_singleton.mpr rfl)

/-- Settles O13, by the visit's kind. -/
theorem scrubberVisits : Obligations.ScrubberVisits := by
  intro s y hc hy hon hrun pos sh p next
  refine ⟨fun hact hshed hclean hbg => ?moves, fun w hact hswap hload hwords hpop => ?corrects, fun hact => ?starts⟩
  case moves =>
    refine Answers.intro (exec_scrubVisit y s (by simp [Instr.wf, hy]) hc) ?_
    rw [scrubVisit_moves hon hact hrun hclean hbg]
    obtain ⟨hpos, hframe, -⟩ := scrubMove_facts s y (if s.inSwap (s.scrubShed y) then { s.scrubPos y with shed := (s.scrubPos y).shed + 1, frame := 0, bg := false }
      else (s.scrubPos y).next (s.scrubPos y).frame (s.scrubPos y).shed)
    refine ⟨?_, hframe, State.scrubMove_within ..⟩
    rw [hpos]
    have hnext : next = if s.inSwap (s.scrubShed y) then (pos.shed + 1, 0, false) else if pos.frame + 1 < 2304 then (pos.shed, pos.frame + 1, false) else (pos.shed + 1, 0, false) := rfl
    rw [hnext]
    unfold ScrubPos.next
    have hshed' : (s.scrubPos y).shed < 48 := hshed
    cases s.inSwap (s.scrubShed y) with
    | true => simp only [if_true, pos]; split <;> rfl
    | false =>
      by_cases hlast : (s.scrubPos y).frame + 1 < 2304
      · simp [pos, hlast, hshed']
      · simp only [pos, hlast, if_false, Bool.false_eq_true]; split <;> rfl
  case corrects =>
    refine Answers.intro (exec_scrubVisit y s (by simp [Instr.wf, hy]) hc) ?_
    obtain ⟨q, hq⟩ := scrubVisit_reads hon hact hrun hswap
    have hread : s.scrubRead y = s.scrubWord y sh p pos.frame w := by
      unfold State.scrubRead
      rw [if_neg (show ¬ s.planeState (s.scrubShed y) (s.scrubPlane y) = plLOADING from hload), show s.frameWords (s.scrubShed y) (s.scrubPlane y) (s.scrubPos y).frame = [w] from hwords]
      rfl
    obtain ⟨hmask, hcount⟩ := scrubWord_corrects s y sh p pos.frame w hpop
    obtain ⟨-, hframe, hkeep⟩ := scrubMove_facts (s.scrubWord y sh p pos.frame w) y q
    rw [hq, hread]
    refine ⟨?_, ?_, fun k hk => ?_, ?_⟩
    · rw [hkeep, hmask, if_pos rfl]
    · rw [State.fget_wordsBut hframe _ (by simp [rSCRUB_CORR, rSCRUB_STAT]) (by decide), hcount]
    · rw [hkeep, hmask, if_neg hk]
    · exact (State.scrubWord_within ..).1.trans (State.scrubMove_within ..).1
  case starts =>
    refine Answers.intro (exec_scrubStart y s (by simp [Instr.wf, hy]) hc) ?_
    obtain ⟨hstat, hpos, hframe⟩ := scrubStart_facts s y hon hact hrun
    have hlive := s.livePlane_lt (48 * y)
    refine ⟨?_, ?_, ?_, ?_, hframe, State.scrubStart_within ..⟩
    · unfold State.flag
      rw [State.fget_word _ _ (by decide), hstat]
      simp only [Fld.get, fSCRUB_STAT_ACTIVE]
      exact decide_eq_true (by omega)
    · rw [State.fget_word _ _ (by decide), hstat]
      simp only [Fld.get, fSCRUB_STAT_SHED]
      omega
    · have hpass : s.fget (rSCRUB_STAT y) fSCRUB_STAT_PASS_COUNT < 2 ^ 24 := State.fget_lt _ _ (by decide)
      rw [State.fget_word (s.scrubStart y) _ (by decide), hstat]
      generalize s.fget (rSCRUB_STAT y) fSCRUB_STAT_PASS_COUNT = n at hpass ⊢
      simp only [Fld.get, fSCRUB_STAT_PASS_COUNT]
      omega
    · rw [hpos]

/-! ### Contention (R83, R85) -/

/-- Settles O14: by whether a tap is blocked, and whether one of the sheds involved is owned. -/
theorem contentionIsRecorded : Obligations.ContentionIsRecorded := by
  intro s tr hc ht sheds
  refine ⟨fun hnone => Answers.intro (exec_tribContention tr s (by simp [Instr.wf, ht]) hc) (if_pos hnone), ?_, ?_⟩
  · exact contention_unowned s tr hc ht
  · exact contention_owned s tr hc ht

end Sys2Proof.Machine
end

section
/-! SUPPORT. The Eddy engines at work: starts and stops (R130, R131), a cycle of a running engine (R99–R103, R124, R127), the exceptions of locks and
watchdogs (R122, R140), and the grant of a lock (R119). -/

namespace Sys2Proof.Machine

/-! ### START and STOP take effect -/

/-- R130: what an accepted START applies once no transfer is outstanding. -/
theorem startExecute_accepted {s : State} {n : Nat} (hreq : (s.eddy n).issue.startReq = true) (hstopped : (s.eddy n).isStopped = true) (hx : (s.eddy n).xfers = []) :
    ∃ excIrq, s.startExecute n = s.setEddy n (startEngine (s.eddy n) (s.fget (rEDDY_START_PC n) fEDDY_START_PC_PC) (s.fget (rEDDY_CFG n) fEDDY_CFG_LOCK_LIMIT)
      (s.rd32 (rEDDY_WDOG_LIMIT n)) (s.flag (rEDDY_CFG n) fEDDY_CFG_ROUND_COMPAT) excIrq) := by
  refine ⟨decide (fEDDY_CFG_EXC_IRQ.get (s.rd32 (rEDDY_CFG n)) = 1), ?_⟩
  unfold State.flag
  rw [s.fget_word (rEDDY_CFG n) (f := fEDDY_CFG_LOCK_LIMIT) (by decide), s.fget_word (rEDDY_CFG n) (f := fEDDY_CFG_ROUND_COMPAT) (by decide)]
  exact if_neg (by simp [hreq, hstopped, hx])

/-- R131: a STOP with no lock held leaves the engine STOPPED before its next bundle, and raises IRQ_RAW[2]. -/
theorem stopEffect_stops {s : State} {n : Nat} (hrun : (s.eddy n).run = .running) (hreq : (s.eddy n).issue.stopReq = true) (hheld : (s.eddy n).issue.held = none) :
    s.stopEffect n = (s.setEddy n { s.eddy n with
      run := .stopped, issue := { (s.eddy n).issue with stopReq := false, waiting := false, lockReq := none } }).irq (PageKind.eddy.addr n) 2 :=
  if_pos ⟨hrun, hreq, by rw [hheld]; rfl⟩

/-- An engine written and an interrupt raised. -/
theorem setEddy_irq_becomes (s : State) (n : Nat) (e : Eddy) (p k : Nat) : s.EddyBecomes ((s.setEddy n e).irq p k) n e :=
  (s.setEddy_becomes n e).trans ⟨(State.eddy_eddies (State.irq_eddies ..) n).trans (s.setEddy_becomes n e).1, fun m _ => State.eddy_eddies (State.irq_eddies ..) m⟩

/-- Settles O16: the accepted START, and the requested STOP. -/
theorem engineStartsAndStops : Obligations.EngineStartsAndStops := by
  intro s n hc hn e
  refine ⟨fun hreq hstopped hx => ?start, fun hrun hreq hheld => ?stop⟩
  case start =>
    obtain ⟨excIrq, hstart⟩ := startExecute_accepted hreq hstopped hx
    refine Answers.intro (exec_startExecute n s (by simp [Instr.wf, hn]) hc) ?_
    obtain ⟨hself, hothers⟩ := s.setEddy_becomes n (startEngine (s.eddy n) (s.fget (rEDDY_START_PC n) fEDDY_START_PC_PC) (s.fget (rEDDY_CFG n) fEDDY_CFG_LOCK_LIMIT)
      (s.rd32 (rEDDY_WDOG_LIMIT n)) (s.flag (rEDDY_CFG n) fEDDY_CFG_ROUND_COMPAT) excIrq)
    rw [hstart, hself]
    exact ⟨rfl, rfl, rfl, rfl, rfl, rfl, rfl, rfl, rfl, rfl, rfl, hothers, State.setEddy_within ..⟩
  case stop =>
    refine Answers.intro (exec_stopEffect n s (by simp [Instr.wf, hn]) hc) ?_
    rw [stopEffect_stops hrun hreq hheld]
    obtain ⟨hself, hothers⟩ := setEddy_irq_becomes s n { s.eddy n with
      run := .stopped, issue := { (s.eddy n).issue with stopReq := false, waiting := false, lockReq := none } } (PageKind.eddy.addr n) 2
    rw [hself]
    refine ⟨rfl, rfl, rfl, rfl, rfl, rfl, ?_, State.wordsBut_irq (s.setEddy n _) (by decide) (List.mem_singleton.mpr rfl), hothers,
      (State.irq_within ..).via rfl ((State.setEddy_within ..).mono rfl)⟩
    rw [State.bit_irq _ _ _ _ _ (by decide) (by decide)]
    exact if_pos ⟨rfl, rfl⟩

/-! ### One cycle of a running engine -/

/-- R140: a bundle that reloads the watchdog meets no exception that it would not meet otherwise. -/
theorem dueExc_reload {e : Eddy} {hold : Nat} (h : dueExc e hold false = none) (r : Bool) : dueExc e hold r = none := by
  cases r with
  | false => exact h
  | true =>
    unfold dueExc at h ⊢
    split at h
    · cases h
    · rename_i hlock
      rw [if_neg hlock]
      cases hx : e.issue.xport with
      | some a => rw [hx] at h; cases h
      | none => exact if_neg (by simp)

section
variable {s : State} {n : Nat} {env : IssueEnv} (hrun : (s.eddy n).run = .running) (hstop : (s.eddy n).issue.stopReq = false)
  (hhalt : (s.eddy n).issue.haltReq = false) (hstep : (s.eddy n).issue.stepLeft = 0) (hhold : (s.eddy n).issue.hold = 0) (hposted : (s.eddy n).posted = [])
  (hdef : smGet 0 s.dbg.deferred n = 0) (hwp : ∀ k, k < 4 → s.fget (rWP_CFG n k) fWP_CFG_KIND = 0)
include hrun hstop hhalt hstep hhold hposted hdef hwp

/-- R124: a cancelled bundle leaves its engine FAULTED where it was, with its lock free and its registers as they were but for CYCLE. -/
theorem dbgIssue_cancelled {x : Exc} (hx : bundleExc (settlePosted s.eddies n) n env (s.eddy n).bundle = some x) :
    let e' := (s.dbgIssue n env).eddy n
    e'.run = .faulted ∧ e'.pc = (s.eddy n).pc ∧ { e'.regs with cycle := (s.eddy n).regs.cycle } = (s.eddy n).regs ∧ e'.issue.held = none ∧
      (issueCycle s.eddies n env (s.capFull n)).2 = .excepts x (s.eddy n).pc := by
  intro e'
  obtain ⟨hcancel, -⟩ := issueCycle_cases s.eddies n env (s.capFull n) hrun hhold hposted
  obtain ⟨esC, -, hself, hcycle⟩ := hcancel x hx
  obtain ⟨hexc, -⟩ := dbgIssue_eddies s n env hrun hstop hhalt (by rw [hstep]; decide) hdef hwp
  obtain ⟨hfaulted, hpc, hregs, hheld⟩ := faultEngine_at esC n
  have he : e' = eddyAt (faultEngine esC n) n := by
    show eddyAt (s.dbgIssue n env).eddies n = _
    rw [hexc x (s.eddy n).pc (congrArg Prod.snd hcycle), hcycle]
  rw [he, hregs, hpc, hself]
  exact ⟨hfaulted, rfl, rfl, hheld, congrArg Prod.snd hcycle⟩

/-- R101, R103: a bundle that waits changes no register but CYCLE. -/
theorem dbgIssue_waits (hx : bundleExc (settlePosted s.eddies n) n env (s.eddy n).bundle = none)
    (hdue : dueExc (cycleEngine (s.eddy n)) (s.eddy n).issue.holdCount false = none)
    (hw : bundleWaits (settlePosted s.eddies n) n env (s.capFull n) (s.eddy n).bundle = true) :
    ∃ req, s.EddyBecomes (s.dbgIssue n env) n
      { cycleEngine (s.eddy n) with issue := { (cycleEngine (s.eddy n)).issue with waiting := true, lockReq := req } } := by
  obtain ⟨-, -, hwaits, -⟩ := issueCycle_cases s.eddies n env (s.capFull n) hrun hhold hposted
  obtain ⟨-, hkeeps, -⟩ := dbgIssue_eddies s n env hrun hstop hhalt (by rw [hstep]; decide) hdef hwp
  have hcycle := hwaits hx hw hdue
  have heddies : (s.dbgIssue n env).eddies = _ := (hkeeps (congrArg Prod.snd hcycle)).trans (congrArg Prod.fst hcycle)
  have hat : ∀ m, (s.dbgIssue n env).eddy m = eddyAt (s.dbgIssue n env).eddies m := fun _ => rfl
  refine ⟨askLock (s.eddy n) n (s.eddy n).bundle, ?_, fun m hm => ?_⟩
  · rw [hat, heddies, eddyAt_put, if_pos rfl]
    rfl
  · rw [hat, heddies, eddyAt_put, if_neg hm]
    exact settle_at s.eddies n hposted m

/-- R99: what the engine and the others are after a bundle whose slot S alone holds an instruction. -/
theorem dbgIssue_slotS (hx : bundleExc (settlePosted s.eddies n) n env (s.eddy n).bundle = none)
    (hdue : dueExc (cycleEngine (s.eddy n)) (s.eddy n).issue.holdCount false = none)
    (hw : bundleWaits (settlePosted s.eddies n) n env (s.capFull n) (s.eddy n).bundle = false) (hg : guardOf (s.eddy n).regs (s.eddy n).bundle 0 = true)
    {i : SInsn} (hb : decodeBundle (s.eddy n).bundle = ⟨i, .nop, .nop, .nop⟩) (hunlock : i ≠ .unlock) (hdone : i ≠ .done) :
    let e' := (s.dbgIssue n env).eddy n
    let r := runS n (s.eddy n) (s.eddy n).regs i
    e'.regs = { r.1 with cycle := r.1.cycle + 1 } ∧ e'.pc = r.2.1 ∧ e'.run = .running ∧ e'.data = (s.eddy n).data ∧
      e'.issue.hold = (if r.2.2 then 2 else 0) ∧ ∀ m, m ≠ n → (s.dbgIssue n env).eddy m = s.eddy m := by
  intro e' r
  obtain ⟨-, -, -, hissues⟩ := issueCycle_cases s.eddies n env (s.capFull n) hrun hhold hposted
  obtain ⟨-, -, hkeeps⟩ := dbgIssue_eddies s n env hrun hstop hhalt (by rw [hstep]; decide) hdef hwp
  have hcycle := hissues hx hw (dueExc_reload hdue _)
  have hnot : (decide ((decodeBundle (eddyAt s.eddies n).bundle).s = .done) && guardOf (eddyAt s.eddies n).regs (eddyAt s.eddies n).bundle 0) = false := by
    rw [show decodeBundle (eddyAt s.eddies n).bundle = _ from hb, decide_eq_false (show ¬ i = .done from hdone)]
    rfl
  dsimp only at hcycle
  rw [hnot] at hcycle
  have hl : bundleAccess s.eddies n (s.eddy n).bundle = none := bundleAccess_nop _ _ _ (by rw [hb])
  have heddies : (s.dbgIssue n env).eddies = _ := (hkeeps _ _ (congrArg Prod.snd hcycle) hl).trans (congrArg Prod.fst hcycle)
  have hat : ∀ m, (s.dbgIssue n env).eddy m = eddyAt (s.dbgIssue n env).eddies m := fun _ => rfl
  have hse : ∀ m, eddyAt (settlePosted s.eddies n) m = s.eddy m := settle_at s.eddies n hposted
  obtain ⟨hothers, hregs, hpc, hrun', hdata, hhold'⟩ := issueBundle_slotS (settlePosted s.eddies n) n env (s.eddy n).bundle i hb (by rw [hse]; exact hg) hunlock
  rw [hse] at hregs hpc hrun' hdata hhold'
  have hself : e' = _ := (hat n).trans ((congrArg (eddyAt · n) heddies).trans ((eddyAt_put ..).trans (if_pos rfl)))
  refine ⟨?_, ?_, ?_, ?_, ?_, fun m hm => ?_⟩
  · rw [hself, ← hregs]
    rfl
  · exact (congrArg Eddy.pc hself).trans hpc
  · exact (congrArg Eddy.run hself).trans (hrun'.trans hrun)
  · exact (congrArg Eddy.data hself).trans hdata
  · exact (congrArg (fun e : Eddy => e.issue.hold) hself).trans hhold'
  · rw [hat, heddies, eddyAt_put, if_neg hm, ← hse]
    exact hothers m hm

end

/-- Settles O17, by what the cycle comes to: an exception, a wait, or the issue of an operation or a branch. -/
theorem bundleIssues : Obligations.BundleIssues := by
  intro s n env hc hn e es b hrun hstop hhalt hstep hhold hposted hdef hwp
  have hexec := exec_bundleIssue n env s (by simp [Instr.wf, hn]) hc
  have hevolves := (s.dbgIssue_within n env).1
  refine ⟨fun x hx hcause => ?cancelled, fun hx hdue hw => ?waits, fun hx hdue hw hg => ⟨fun op sat sd sa sb hb => ?operation, fun target hb => ?branch⟩⟩
  case cancelled =>
    obtain ⟨hfaulted, hpc, hregs, hheld, hcycle⟩ := dbgIssue_cancelled hrun hstop hhalt hstep hhold hposted hdef hwp hx
    obtain ⟨hfirst, hkept⟩ := dbgIssue_exc s n env hn hrun hstop hhalt hdef hwp x _ hcycle hcause
    exact Answers.intro hexec ⟨hfaulted, hpc, hregs, hheld, hfirst, hkept, hevolves⟩
  case waits =>
    obtain ⟨req, hself, hothers⟩ := dbgIssue_waits hrun hstop hhalt hstep hhold hposted hdef hwp hx hdue hw
    refine Answers.intro hexec ?_
    rw [hself]
    exact ⟨hrun, rfl, rfl, rfl, rfl, hothers, hevolves⟩
  case operation =>
    obtain ⟨hregs, hpc, hrun', hdata, -, hothers⟩ := dbgIssue_slotS hrun hstop hhalt hstep hhold hposted hdef hwp hx hdue hw hg hb (by simp) (by simp)
    refine Answers.intro hexec ?_
    rw [hregs]
    refine ⟨?_, rfl, fun k hk => ?_, rfl, rfl, rfl, hpc, hrun', hdata, hothers, hevolves⟩
    · exact (congrArg BitVec.toNat (smGet_smSet_same ..)).trans (BitVec.toNat_ofNat ..)
    · exact congrArg BitVec.toNat (smGet_smSet_ne _ _ _ _ hk)
  case branch =>
    obtain ⟨hregs, hpc, -, hdata, hhold', hothers⟩ := dbgIssue_slotS hrun hstop hhalt hstep hhold hposted hdef hwp hx hdue hw hg hb (by simp) (by simp)
    exact Answers.intro hexec ⟨hpc, hhold', hregs, hdata, hothers, hevolves⟩

/-! ### Locks and watchdogs -/

/-- Settles O18: where neither is due nothing happens; else what is due is the cycle's exception. -/
theorem lockAndWatchdogExceptions : Obligations.LockAndWatchdogExceptions := by
  intro s n env hc hn e es b
  have hlock := exec_lockTimeout n env s (by simp [Instr.wf, hn]) hc
  have hwdog := exec_watchdog n env s (by simp [Instr.wf, hn]) hc
  have hevolves := (s.dbgIssue_within n env).1
  refine ⟨fun h => Answers.intro hlock (by rw [h]; rfl), fun h => Answers.intro hwdog (by rw [h]; rfl), ?_⟩
  intro hrun hstop hhalt hstep hhold hposted hdef hwp hvalid hx hreload
  have hdue := fun x => due_exception s n env x hn hrun hstop hhalt hstep hhold hposted hdef hwp hvalid hx hreload
  refine ⟨fun h => ?lockTimeout, fun h hheld hxport => ?watchdog⟩
  case lockTimeout =>
    have hdueLock : dueExc (cycleEngine e) e.issue.holdCount false = some ⟨8, none, e.issue.holdCount⟩ := if_pos (by simpa [State.lockDue, cycleEngine] using h)
    obtain ⟨hfaulted, hfree, hcause, hpc, hinfo⟩ := hdue _ hdueLock (show 8 < 32 by decide)
    rw [h] at hlock
    exact Answers.intro hlock ⟨hfaulted, hfree, hcause, hpc, hinfo, hevolves⟩
  case watchdog =>
    have hdueWdog : dueExc (cycleEngine e) e.issue.holdCount false = some ⟨0x0C, some 0, e.issue.wdogLimit⟩ := by
      unfold dueExc
      rw [if_neg (by simp [cycleEngine, hheld]), show (cycleEngine e).issue.xport = none from hxport]
      exact if_pos (by simpa [State.wdogDue, cycleEngine, Nat.sub_eq_zero_iff_le] using h)
    obtain ⟨hfaulted, -, hcause, hpc, hinfo⟩ := hdue _ hdueWdog (show 0x0C < 32 by decide)
    rw [h] at hwdog
    exact Answers.intro hwdog ⟨hfaulted, hcause, hpc, hinfo, hevolves⟩

/-- R119: a free memory with a single engine asking goes to that engine. -/
theorem lockGrant_single {s : State} {m k : Nat} (hfree : (s.eddy m).lockedBy = none)
    (hone : (((List.range 5).map (fun r => regionEngine m r)).filterMap (fun x => x)).filter
      (fun k => decide ((s.eddy k).run = .running) && decide ((s.eddy k).issue.lockReq = some m) && (s.eddy k).issue.held.isNone) = [k]) :
    let s1 := s.setEddy m { s.eddy m with lockedBy := some k, lockNext := k + 1 }
    s.lockGrant m = s1.setEddy k { s1.eddy k with issue := { (s1.eddy k).issue with held := some m, holdCount := 0 } } := by
  unfold State.lockGrant
  dsimp only
  rw [if_neg (by simp [hfree]), hone]
  by_cases hnext : (s.eddy m).lockNext ≤ k <;> simp [hnext]

/-- Settles O19: by whether the memory is free and anyone asks. -/
theorem lockIsGranted : Obligations.LockIsGranted := by
  intro s m hc hm asks order
  have hexec := exec_lockGrant m s (by simp [Instr.wf, hm]) hc
  refine ⟨fun hlocked => Answers.intro hexec (if_pos hlocked), fun hnone => Answers.intro hexec ?_, fun k hfree hone => Answers.intro hexec ?_⟩
  · unfold State.lockGrant
    dsimp only
    rw [show (((List.range 5).map (fun r => regionEngine m r)).filterMap (fun x => x)).filter _ = [] from hnone]
    exact ite_self _
  · rw [lockGrant_single hfree hone]
    have hm' : ∀ j, (s.setEddy m { s.eddy m with lockedBy := some k, lockNext := k + 1 }).eddy j =
        if j = m then { s.eddy m with lockedBy := some k, lockNext := k + 1 } else s.eddy j := s.setEddy_eddy m _
    refine ⟨?_, ?_, ?_, ?_, ?_, fun j hjm hjk => ?_, (State.setEddy_within ..).via rfl (State.setEddy_within ..)⟩
    · rw [State.setEddy_eddy, hm', hm', if_pos rfl]
      split
      · next h => rw [← h, if_pos rfl]
      · rfl
    · rw [State.setEddy_eddy, if_pos rfl]
    · rw [State.setEddy_eddy, if_pos rfl]
    · rw [State.setEddy_eddy, if_pos rfl, hm']
      split
      · next h => rw [h]
      · rfl
    · rw [State.setEddy_eddy, hm', hm', if_pos rfl]
      split
      · next h => rw [← h, if_pos rfl]
      · rfl
    · rw [State.setEddy_eddy, if_neg hjk, hm', if_neg hjm]

end Sys2Proof.Machine
end

section
/-! SUPPORT. Stream commands, stream words and engine-port transfers (R142–R152): what each makes of its engine. -/

namespace Sys2Proof.Machine

/-! ### The queues of an engine -/

theorem State.setQueues_becomes (s : State) (n : Nat) (q : EddyQueues) : s.EddyBecomes (s.setQueues n q) n { s.eddy n with queues := q } :=
  s.setEddy_becomes n _

theorem State.setQueues_eddy (s : State) (n : Nat) (q : EddyQueues) : (s.setQueues n q).eddy n = { s.eddy n with queues := q } :=
  (s.setQueues_becomes n q).1

theorem State.EddyBecomes.setEddy {s t : State} {n : Nat} {e : Eddy} (h : s.EddyBecomes t n e) (e' : Eddy) : s.EddyBecomes (t.setEddy n e') n e' :=
  h.trans (t.setEddy_becomes n e')

/-- R144: a flush inwards empties the input and stimulus queues and ends the begun stream-in transfers. -/
theorem State.flushStreamIn_becomes (s : State) (n : Nat) :
    s.EddyBecomes (s.flushStreamIn n) n (Eddy.abortStreams { s.eddy n with queues := { (s.eddy n).queues with inQ := [], stimQ := [], stim := 0 } } 2) := by
  rw [← s.setQueues_eddy]
  exact (s.setQueues_becomes n _).setEddy _

/-- R144: a flush outwards empties the output and capture queues and ends the begun stream-out transfers. -/
theorem State.flushStreamOut_becomes (s : State) (n : Nat) :
    s.EddyBecomes (s.flushStreamOut n) n (Eddy.abortStreams { s.eddy n with queues := { (s.eddy n).queues with outQ := [], capQ := [] } } 3) := by
  rw [← s.setQueues_eddy]
  exact (s.setQueues_becomes n _).setEddy _

/-! ### Writes of STREAM_CTL and of the staging words -/

theorem rSTIM_IN_addr (n k : Nat) : rSTIM_IN n k = PageKind.eddyIo.addr n + (0x050 + 4 * k) := by
  simp only [rSTIM_IN]
  omega

section
variable {s : State} {req : Req} {n : Nat} (hv : req.valid = true) (hn : n < 512)
include hv hn

theorem putReg_streamCtl (v : Nat) (ht : s.takes req .eddyIo n 0x040 = true) :
    s.putReg req (rSTREAM_CTL n) v = (s.clearView req (PageKind.eddyIo.addr n)).streamCtl req n v :=
  (s.putReg_body req .eddyIo v hv hn (by decide) (by decide) (by decide) (by simp) ht rfl rfl).trans (body_streamCtl ..)

theorem putReg_stimIn (v : Nat) {k : Nat} (hk : k < 8) (ht : s.takes req .eddyIo n (0x050 + 4 * k) = true) :
    s.putReg req (rSTIM_IN n k) v = (s.clearView req (PageKind.eddyIo.addr n)).stimWrite req n k v := by
  rw [rSTIM_IN_addr, s.putReg_body req .eddyIo v hv hn (by omega) (by omega) (by omega) (by simp) ht (findReg_stimIn k hk) rfl, body_stimIn _ _ _ _ _ _ _ _ hk]
  rfl

/-- R147: word 7 written while the stimulus queue is full is refused, and the queue stays. -/
theorem stimWrite_full (v : Nat) (hfull : 8 ≤ (s.eddy n).queues.stimQ.length) :
    let t := s.stimWrite req n 7 v
    (t.eddy n).queues.stimQ = (s.eddy n).queues.stimQ ∧ t.bit (rIRQ_RAW (PageKind.eddyIo.addr n)) 31 = true ∧ (∀ m, m ≠ n → t.eddy m = s.eddy m) ∧
      Within [.regs, .agg, .eddies] s t := by
  intro t
  obtain ⟨staged, hrefuse⟩ : ∃ w, t = (s.setQueues n { (s.eddy n).queues with stim := w }).refuse req (PageKind.eddyIo.addr n + (0x050 + 4 * 7)) causeRule := by
    refine ⟨BitVec.ofNat 256 (putBits (s.eddy n).queues.stim.toNat (32 * 7) 32 v), ?_⟩
    rw [← rSTIM_IN_addr]
    show s.stimWrite req n 7 v = _
    unfold State.stimWrite
    dsimp only
    rw [if_pos rfl, if_neg (Nat.not_lt.mpr hfull)]
  rw [hrefuse]
  have hkept := State.eddy_eddies (State.refuse_eddies (s.setQueues n { (s.eddy n).queues with stim := staged }) req (PageKind.eddyIo.addr n + (0x050 + 4 * 7)) causeRule)
  obtain ⟨hengine, honly⟩ := s.setQueues_becomes n { (s.eddy n).queues with stim := staged }
  refine ⟨?_, (State.refuse_effect _ req .eddyIo causeRule hv (by decide) hn (by decide)).2.1, fun m hm => (hkept m).trans (honly m hm),
    (State.refuse_within ..).via rfl ((State.setQueues_within ..).mono rfl)⟩
  rw [hkept, hengine]

end

section
variable (s : State) (req : Req) (n : Nat)

/-- R144, R148: a write that keeps the sources, by its command bits. -/
theorem State.streamCtl_bits {v : Nat} {flushIn flushOut pop : Bool} (hsame : v % 4 = s.rd32 (rSTREAM_CTL n) % 4) (hin : v.testBit 8 = flushIn)
    (hout : v.testBit 9 = flushOut) (hpop : v.testBit 10 = pop) :
    s.streamCtl req n v =
      if pop then (if flushOut then (if flushIn then s.flushStreamIn n else s).flushStreamOut n else (if flushIn then s.flushStreamIn n else s)).capPop n
      else (if flushOut then (if flushIn then s.flushStreamIn n else s).flushStreamOut n else (if flushIn then s.flushStreamIn n else s)) := by
  subst hin hout hpop
  exact streamCtl_same s req n v hsame

theorem State.streamCtl_flushIn : s.streamCtl req n (2 ^ 8 + s.rd32 (rSTREAM_CTL n) % 4) = s.flushStreamIn n := by
  obtain ⟨hin, hout, hpop, hsame, -⟩ := ctlBits _ (Nat.mod_lt (s.rd32 (rSTREAM_CTL n)) (by decide : 0 < 4))
  exact s.streamCtl_bits req n hsame hin hout hpop

theorem State.streamCtl_flushOut : s.streamCtl req n (2 ^ 9 + s.rd32 (rSTREAM_CTL n) % 4) = s.flushStreamOut n := by
  obtain ⟨-, -, -, -, hin, hout, hpop, hsame, -⟩ := ctlBits _ (Nat.mod_lt (s.rd32 (rSTREAM_CTL n)) (by decide : 0 < 4))
  exact s.streamCtl_bits req n hsame hin hout hpop

theorem State.streamCtl_capPop : s.streamCtl req n (2 ^ 10 + s.rd32 (rSTREAM_CTL n) % 4) = s.capPop n := by
  obtain ⟨-, -, -, -, -, -, -, -, hin, hout, hpop, hsame, -⟩ := ctlBits _ (Nat.mod_lt (s.rd32 (rSTREAM_CTL n)) (by decide : 0 < 4))
  exact s.streamCtl_bits req n hsame hin hout hpop

/-- R146: a write of new sources alone, by whether the engine's state lets them change. -/
theorem State.streamCtl_source {v : Nat} (hv : v % 4 ≠ s.rd32 (rSTREAM_CTL n) % 4) :
    s.streamCtl req n (v % 4) =
      if (s.eddy n).isStopped = true ∨ (s.eddy n).run = .off ∨ ((s.eddy n).run = .halted ∧ req.src.1 = 7) then s.wr32 (rSTREAM_CTL n) (v % 4)
      else s.refuse req (rSTREAM_CTL n) causeRule := by
  obtain ⟨-, -, -, -, -, -, -, -, -, -, -, -, h8, h9, h10⟩ := ctlBits _ (Nat.mod_lt v (by decide : 0 < 4))
  unfold State.streamCtl
  dsimp only
  rw [h8, h9, h10, Nat.mod_mod, if_neg hv]
  simp only [Bool.false_eq_true, if_false]

end

/-! ### Words that move -/

section
variable {s : State} {n : Nat}

theorem streamInWord_fabric {w : BitVec 256} (hroom : ¬ 16 ≤ (s.eddy n).queues.inQ.length) (hsrc : s.flag (rSTREAM_CTL n) fSTREAM_CTL_IN_SRC = false)
    (hcon : s.streamConnected n = true) : s.streamInWord n w = s.setQueues n { (s.eddy n).queues with inQ := (s.eddy n).queues.inQ ++ [w] } := by
  unfold State.streamInWord
  dsimp only
  rw [if_neg hroom, if_neg (by simp [hsrc]), if_pos hcon]

theorem streamInWord_stim {w x : BitVec 256} {xs : List (BitVec 256)} (hroom : ¬ 16 ≤ (s.eddy n).queues.inQ.length)
    (hsrc : s.flag (rSTREAM_CTL n) fSTREAM_CTL_IN_SRC = true) (hq : (s.eddy n).queues.stimQ = x :: xs) :
    s.streamInWord n w = s.setQueues n { (s.eddy n).queues with inQ := (s.eddy n).queues.inQ ++ [x], stimQ := xs } := by
  unfold State.streamInWord
  dsimp only
  rw [if_neg hroom, if_pos hsrc, hq]

theorem streamOutWord_fabric {x : BitVec 256} {xs : List (BitVec 256)} (hq : (s.eddy n).queues.outQ = x :: xs)
    (hdst : s.flag (rSTREAM_CTL n) fSTREAM_CTL_OUT_DST = false) (hcon : s.streamConnected n = true) :
    s.streamOutWord n = (s.setQueues n { (s.eddy n).queues with outQ := xs }).emit (.streamWord n x) := by
  unfold State.streamOutWord
  dsimp only
  rw [hq]
  dsimp only
  rw [if_neg (by simp [hdst]), if_pos hcon]

theorem streamOutWord_capture {x : BitVec 256} {xs : List (BitVec 256)} (hq : (s.eddy n).queues.outQ = x :: xs)
    (hdst : s.flag (rSTREAM_CTL n) fSTREAM_CTL_OUT_DST = true) (hroom : (s.eddy n).queues.capQ.length < 8) :
    s.streamOutWord n = s.setQueues n { (s.eddy n).queues with outQ := xs, capQ := (s.eddy n).queues.capQ ++ [x] } := by
  unfold State.streamOutWord
  dsimp only
  rw [hq]
  dsimp only
  rw [if_pos hdst, if_pos hroom]

end

/-- A change of engines after a write to a page, against the state before the write. -/
theorem State.EddyBecomes.afterView {s t : State} {req : Req} {p n : Nat} {e : Eddy} (h : (s.clearView req p).EddyBecomes t n e)
    (hw : Within [.eddies] (s.clearView req p) t) : t.eddy n = e ∧ (∀ m, m ≠ n → t.eddy m = s.eddy m) ∧ Within [.views, .eddies] s t :=
  ⟨h.1, h.2, hw.via rfl ((s.clearView_within req p).mono rfl)⟩

/-- Settles O21, by the command. -/
theorem streamsMove : Obligations.StreamsMove := by
  intro s req n hc hv hn e q only ended out src
  refine ⟨fun ht => ⟨?flushIn, ?flushOut, ?capPop, fun v hstopped hnew => ?source, fun v hrun hnew => ?sourceRefused⟩,
    fun k v hk _ ht hroom => ?stim, fun k v hk ht hfull => ?stimFull, fun w hroom => ⟨fun hsrc hcon => ?inWord, fun x xs hsrc hq => ?stimWord⟩,
    fun w hfull => ?inFull, fun x xs hq => ⟨fun hdst hcon => ?outWord, fun hdst hroom => ?capWord⟩⟩
  case flushIn =>
    refine Answers.intro (exec_streamFlushIn req n s (by simp [Instr.wf, hv, hn]) hc) ?_
    rw [putReg_streamCtl hv hn _ ht, show s.rd32 (rSTREAM_CTL n) = (s.clearView req (PageKind.eddyIo.addr n)).rd32 (rSTREAM_CTL n) from rfl, State.streamCtl_flushIn]
    obtain ⟨hengine, honly, hwithin⟩ := ((s.clearView req _).flushStreamIn_becomes n).afterView (State.flushStreamIn_within ..)
    exact ⟨congrArg Eddy.queues hengine, congrArg Eddy.xfers hengine, honly, hwithin⟩
  case flushOut =>
    refine Answers.intro (exec_streamFlushOut req n s (by simp [Instr.wf, hv, hn]) hc) ?_
    rw [putReg_streamCtl hv hn _ ht, show s.rd32 (rSTREAM_CTL n) = (s.clearView req (PageKind.eddyIo.addr n)).rd32 (rSTREAM_CTL n) from rfl, State.streamCtl_flushOut]
    obtain ⟨hengine, honly, hwithin⟩ := ((s.clearView req _).flushStreamOut_becomes n).afterView (State.flushStreamOut_within ..)
    exact ⟨congrArg Eddy.queues hengine, congrArg Eddy.xfers hengine, honly, hwithin⟩
  case capPop =>
    refine Answers.intro (exec_capPop req n s (by simp [Instr.wf, hv, hn]) hc) ?_
    rw [putReg_streamCtl hv hn _ ht, show s.rd32 (rSTREAM_CTL n) = (s.clearView req (PageKind.eddyIo.addr n)).rd32 (rSTREAM_CTL n) from rfl, State.streamCtl_capPop]
    exact ((s.clearView req _).setQueues_becomes n _).afterView (State.setQueues_within ..)
  case source =>
    refine Answers.intro (exec_streamSource req n v s (by simp [Instr.wf, hv, hn]) hc) ?_
    rw [putReg_streamCtl hv hn _ ht, State.streamCtl_source _ _ _ (by exact hnew), if_pos (by exact hstopped.imp_right .inl)]
    refine ⟨?_, State.wordsBut_wr32 _ _ (List.mem_singleton.mpr rfl), State.wr32_eddies .., Within.afterClearView (State.wr32_within ..)⟩
    rw [State.rd32_wr32]
    exact Nat.mod_eq_of_lt (by omega)
  case sourceRefused =>
    refine Answers.intro (exec_streamSource req n v s (by simp [Instr.wf, hv, hn]) hc) ?_
    have hrefused : ¬ (((s.clearView req (PageKind.eddyIo.addr n)).eddy n).isStopped = true ∨ ((s.clearView req (PageKind.eddyIo.addr n)).eddy n).run = .off ∨
        (((s.clearView req (PageKind.eddyIo.addr n)).eddy n).run = .halted ∧ req.src.1 = 7)) := by
      show ¬ ((s.eddy n).isStopped = true ∨ (s.eddy n).run = .off ∨ ((s.eddy n).run = .halted ∧ req.src.1 = 7))
      simp [Eddy.isStopped, show (s.eddy n).run = .running from hrun]
    rw [putReg_streamCtl hv hn _ ht, State.streamCtl_source _ _ _ (by exact hnew), if_neg hrefused]
    obtain ⟨-, hirq, -, -, hwords, hwithin⟩ := clearView_refuse s req .eddyIo (o := 0x040) causeRule hv (by decide) hn (by decide)
    exact ⟨hirq, hwords _ (by simp [rSTREAM_CTL, rERR_COUNT, rIRQ_RAW, rERR_FIRST]), State.refuse_eddies .., hwithin⟩
  case stim =>
    refine Answers.intro (exec_stimIn req n k v s (by simp [Instr.wf, hv, hn, hk]) hc) ?_
    rw [putReg_stimIn hv hn v hk ht]
    unfold State.stimWrite
    dsimp only
    split
    · next h7 =>
      rw [if_pos (by exact hroom h7)]
      obtain ⟨hengine, honly, hwithin⟩ := ((s.clearView req _).setQueues_becomes n _).afterView (State.setQueues_within ..)
      exact ⟨fun h => absurd h7 h, fun _ => hengine, honly, hwithin⟩
    · next h7 =>
      obtain ⟨hengine, honly, hwithin⟩ := ((s.clearView req _).setQueues_becomes n _).afterView (State.setQueues_within ..)
      exact ⟨fun _ => hengine, fun h => absurd h h7, honly, hwithin⟩
  case stimFull =>
    subst hk
    refine Answers.intro (exec_stimIn req n 7 v s (by simp [Instr.wf, hv, hn]) hc) ?_
    rw [putReg_stimIn hv hn v (by decide) ht]
    have hwrite := stimWrite_full (s := s.clearView req (PageKind.eddyIo.addr n)) (n := n) hv hn v hfull
    obtain ⟨hstim, hirq, honly, hwithin⟩ := hwrite
    exact ⟨hstim, hirq, honly, hwithin.via rfl ((s.clearView_within ..).mono rfl)⟩
  case inWord =>
    refine Answers.intro (exec_streamIn n w s (by simp [Instr.wf, hn]) hc) ?_
    rw [streamInWord_fabric (Nat.not_le.mpr hroom) hsrc hcon]
    exact ⟨s.setQueues_eddy n _, (s.setQueues_becomes n _).2, State.setQueues_within ..⟩
  case stimWord =>
    refine Answers.intro (exec_streamIn n w s (by simp [Instr.wf, hn]) hc) ?_
    rw [streamInWord_stim (Nat.not_le.mpr hroom) hsrc hq]
    exact ⟨s.setQueues_eddy n _, (s.setQueues_becomes n _).2, State.setQueues_within ..⟩
  case inFull =>
    exact Answers.intro (exec_streamIn n w s (by simp [Instr.wf, hn]) hc) (if_pos hfull)
  case outWord =>
    refine Answers.intro (exec_streamOut n s (by simp [Instr.wf, hn]) hc) ?_
    rw [streamOutWord_fabric hq hdst hcon]
    exact ⟨s.setQueues_eddy n _, rfl, (s.setQueues_becomes n _).2, (State.emit_within ..).via rfl ((State.setQueues_within ..).mono rfl)⟩
  case capWord =>
    refine Answers.intro (exec_streamOut n s (by simp [Instr.wf, hn]) hc) ?_
    rw [streamOutWord_capture hq hdst hroom]
    exact ⟨s.setQueues_eddy n _, (s.setQueues_becomes n _).2, State.setQueues_within ..⟩

end Sys2Proof.Machine
end

section
/-! SUPPORT. Engine-port transfers (R142, R150–R152): what each step of a transfer makes of its engine. -/

namespace Sys2Proof.Machine

/-! ### The transfer list of an engine -/

section
variable {s : State} {n : Nat} {x : Xfer} {pre post : List Xfer} (hx : (s.eddy n).xfers = pre ++ x :: post)
include hx

theorem eddy_xfer : (s.eddy n).xfers[pre.length]? = some x := by rw [hx, get_mid]

theorem setXfer_becomes (y : Xfer) : s.EddyBecomes (s.setXfer n pre.length y) n { s.eddy n with xfers := pre ++ y :: post } := by
  have hset : listSet (s.eddy n).xfers pre.length y = pre ++ y :: post := by
    rw [hx]
    exact listModify_mid ..
  rw [← hset]
  exact s.setEddy_becomes n _

theorem setXfer_eddy (y : Xfer) : (s.setXfer n pre.length y).eddy n = { s.eddy n with xfers := pre ++ y :: post } := (setXfer_becomes hx y).1

/-- R150: the first transfer that has not begun is checked. -/
theorem transferBegin_first (hbegun : x.begun = false) (hpre : pre.all (fun y => y.begun) = true) :
    s.transferBegin n =
      s.setXfer n pre.length { x with begun := true, status := if x.descBad then .dmemUncorr else if x.badDesc then .badDesc else .pending } := by
  unfold State.transferBegin
  rw [show (s.eddy n).xfers.findIdx? (fun x => !x.begun) = some pre.length by rw [hx]; exact findIdx_mid pre x post hpre hbegun]
  dsimp only
  rw [eddy_xfer hx]

section
variable (hbegun : x.begun = true) (hfree : (s.eddy n).lockedBy = none)
include hbegun hfree

/-- R151: a line received goes to data memory. -/
theorem transferLine_received {k v : Nat} {rest : List (Nat × Nat × Bool)} (hop : x.op = 0) (hgot : x.got = (k, v, false) :: rest) :
    s.transferLine n pre.length [] =
      let s1 := s.setXfer n pre.length { x with got := rest, moved := x.moved + 1 }
      s1.setEddy n { s1.eddy n with data := writeData (s1.eddy n).data ((x.loc + 64 * k) / 4) (wordsOf 16 v) } := by
  unfold State.transferLine
  dsimp only
  rw [eddy_xfer hx]
  dsimp only
  rw [if_neg (by simp [hbegun, hfree]), if_pos hop, hgot]
  exact if_neg Bool.false_ne_true

section
variable (hpending : x.status = .pending)
include hpending

/-- R151: a line of a write becomes a packet of the engine's port. -/
theorem transferLine_write (hop : x.op = 1) (hleft : x.sent < x.lines) (hroom : s.qLevel ((s.ep (0xC0 + n / 4)).reqIn) < 31) :
    s.transferLine n pre.length [] =
      ((s.setXfer n pre.length { x with sent := x.sent + 1 }).fadd (rEDDY_DMEM_CORR n) fEDDY_DMEM_CORR_DMEM_CORR 0).enginePacket n
        (xferHdr x x.sent tWR) [((s.eddy n).lineAt (x.loc + 64 * x.sent), false)] (.engine n x.desc x.sent 1) := by
  unfold State.transferLine
  dsimp only
  rw [eddy_xfer hx]
  dsimp only
  rw [if_neg (by simp [hbegun, hfree]), if_neg (by omega), if_neg (by simp [hpending]), if_pos hop, if_neg (by omega), anyDouble_nil, countSingle_nil]
  exact if_neg Bool.false_ne_true

/-- R142: two stream words become a line of data memory. -/
theorem transferLine_streamIn {a b : BitVec 256} {q : List (BitVec 256)} (hop : x.op = 2) (hleft : x.moved < x.lines)
    (hfirst : (s.eddy n).streamBehind pre.length 2 = false) (hq : (s.eddy n).queues.inQ = a :: b :: q) :
    s.transferLine n pre.length [] =
      let s1 := (s.setXfer n pre.length { x with moved := x.moved + 1 }).setQueues n { (s.eddy n).queues with inQ := q }
      s1.setEddy n { s1.eddy n with data := writeData (s1.eddy n).data ((x.loc + 64 * x.moved) / 4) (wordsOf 16 (a.toNat + b.toNat * 2 ^ 256)) } := by
  unfold State.transferLine
  dsimp only
  rw [eddy_xfer hx]
  dsimp only
  rw [if_neg (by simp [hbegun, hfree]), if_neg (by omega), if_neg (by simp [hpending]), if_neg (by omega), if_neg (by simp [hop, hfirst, hleft]), if_pos hop, hq]

/-- R142: a line of data memory becomes two stream words. -/
theorem transferLine_streamOut (hop : x.op = 3) (hleft : x.moved < x.lines) (hfirst : (s.eddy n).streamBehind pre.length 3 = false)
    (hroom : (s.eddy n).queues.outQ.length ≤ 14) :
    s.transferLine n pre.length [] =
      let v := ((s.eddy n).lineAt (x.loc + 64 * x.moved)).toNat
      ((s.setXfer n pre.length { x with moved := x.moved + 1 }).setQueues n
        { (s.eddy n).queues with outQ := (s.eddy n).queues.outQ ++ [BitVec.ofNat 256 v, BitVec.ofNat 256 (v / 2 ^ 256)] }).fadd (rEDDY_DMEM_CORR n)
        fEDDY_DMEM_CORR_DMEM_CORR 0 := by
  unfold State.transferLine
  dsimp only
  rw [eddy_xfer hx]
  dsimp only
  rw [if_neg (by simp [hbegun, hfree]), if_neg (by omega), if_neg (by simp [hpending]), if_neg (by omega), if_neg (by simp [hop, hfirst, hleft]), if_neg (by omega),
    if_neg (by omega), anyDouble_nil, countSingle_nil]
  exact if_neg Bool.false_ne_true

end
end

/-- An engine with a transfer list and a data memory of its own: what an ended transfer leaves (R151). -/
def Eddy.leaving (e : Eddy) (left : List Xfer) (data : SMap (BitVec 32)) : Eddy := { e with xfers := left, data := data }

/-- The data memory with the STATUS of an ended transfer written. -/
def Eddy.statusWritten (e : Eddy) (x : Xfer) (st : XStatus) : SMap (BitVec 32) :=
  smSet 0 e.data ((x.desc + 0x18) / 4) (BitVec.ofNat 32 (st.code + x.moved * 2 ^ 16))

omit hx in
theorem Eddy.leaving_facts (e : Eddy) (left : List Xfer) (data : SMap (BitVec 32)) :
    (e.leaving left data).xfers = left ∧ (e.leaving left data).data = data ∧ (e.leaving left data).queues = e.queues := ⟨rfl, rfl, rfl⟩

omit hx in
theorem Eddy.leaving_left {e : Eddy} {data : SMap (BitVec 32)} {i : Nat} {r : Eddy × Bool} (hr : r = (e.leaving e.xfers data, true)) :
    { r.1 with xfers := listDrop r.1.xfers i } = e.leaving (listDrop e.xfers i) data := by
  subst hr
  rfl

/-- R151: an outcome other than OK is counted and raises IRQ_RAW[3]. -/
def State.xportErr (s : State) (n : Nat) : State := (s.finc (rXPORT_ERR n) fXPORT_ERR_COUNT).irq (PageKind.eddy.addr n) 3

/-- R152: the exception that a failed transfer makes due to its RUNNING engine where its descriptor asks for it. -/
def State.xportDue (s : State) (n : Nat) (x : Xfer) : State :=
  let e := s.eddy n
  if (x.descBad ∨ x.word 0 / 16 % 2 = 1) ∧ e.run = .running then s.setEddy n { e with issue := { e.issue with xport := some x.desc } } else s

section
variable (hended : x.ended = true) (hfree : (s.eddy n).lockedBy = none) (hfirst : x.op = 2 ∨ x.op = 3 → (s.eddy n).streamBehind pre.length x.op = false)
include hended hfree hfirst

/-- R151: an ended transfer leaves the list and writes its STATUS. -/
theorem transferComplete_eq {st : XStatus} (hst : (if x.status = .pending then XStatus.ok else x.status) = st) :
    s.transferComplete n pre.length [] =
      if st = .ok then s.setEddy n ((s.eddy n).leaving (pre ++ post) ((s.eddy n).statusWritten x st))
      else ((s.setEddy n ((s.eddy n).leaving (pre ++ post) ((s.eddy n).statusWritten x st))).xportErr n).xportDue n x := by
  have hturn : (decide (2 ≤ x.op) && decide (x.op < 4) && (s.eddy n).streamBehind pre.length x.op) = false := by
    by_cases hop : x.op = 2 ∨ x.op = 3
    · simp [hfirst hop]
    · simp only [Bool.and_eq_false_iff, decide_eq_false_iff_not]
      omega
  unfold State.transferComplete
  extract_lets e
  rw [show e.xfers[pre.length]? = some x from eddy_xfer hx]
  refine Eq.trans (if_neg (by simp [e, hended, hfree, hturn])) ?_
  extract_lets outcome r _ s1 s2
  obtain rfl : outcome = st := hst
  have hr : r = ((s.eddy n).leaving (s.eddy n).xfers ((s.eddy n).statusWritten x outcome), true) := writeStatus_nil ..
  have hs1 : s1 = s.setEddy n ((s.eddy n).leaving (pre ++ post) ((s.eddy n).statusWritten x outcome)) :=
    congrArg (s.setEddy n) ((Eddy.leaving_left hr).trans (by rw [hx, listDrop_mid]))
  rw [← hs1, show s1.xportErr n = s2 from rfl]
  clear_value s2
  by_cases hok : outcome = .ok
  · rw [if_pos hok]
    exact if_pos ⟨hok, by rw [hr]⟩
  · rw [if_neg hok]
    unfold State.xportDue
    exact if_neg fun h => hok h.1

end
end

/-- A packet queued at an engine's port (R151): it is the packet of the next number, at the end of the port's request queue. -/
theorem State.enginePacket_facts (s : State) (n : Nat) {h : Header} (flits : List (BitVec 512 × Bool)) (o : Origin) (hwr : hget h hTYPE = tWR) :
    let t := s.enginePacket n h flits o
    (t.ep (0xC0 + n / 4)).reqIn = (s.ep (0xC0 + n / 4)).reqIn ++ [s.mil.next] ∧ (t.pkt s.mil.next).hdr = h ∧ (t.pkt s.mil.next).flits = flits ∧
      (t.pkt s.mil.next).origin = o ∧ t.eddies = s.eddies := by
  have hhdr : s.reqHdr h = h := s.reqHdr_other (by rw [hwr]; decide) (by rw [hwr]; decide)
  have hreq : isRsp h = false := by
    unfold isRsp
    rw [hwr]
    rfl
  obtain ⟨hpkt, -, hep, -⟩ := s.useFree.pushIn_facts (0xC0 + n / 4) { mkPkt h flits .inQ false o with eng := some (n % 4) }
  have hpkt' : (s.enginePacket n h flits o).pkt s.mil.next = { mkPkt h flits .inQ false o with eng := some (n % 4), place := .inQ } := by
    unfold State.enginePacket
    rw [hhdr]
    exact hpkt
  refine ⟨?_, by rw [hpkt']; rfl, by rw [hpkt']; rfl, by rw [hpkt']; rfl, (State.enginePacket_within ..).2 .eddies rfl⟩
  unfold State.enginePacket
  rw [hhdr, hep, show isRsp (mkPkt h flits .inQ false o).hdr = false from hreq]
  rfl

theorem State.EddyBecomes.ofEddies {s t u : State} {n : Nat} {e : Eddy} (h : s.EddyBecomes t n e) (heq : u.eddies = t.eddies) : s.EddyBecomes u n e :=
  ⟨(State.eddy_eddies heq n).trans h.1, fun m hm => (State.eddy_eddies heq m).trans (h.2 m hm)⟩

theorem State.xportDue_becomes (s : State) (n : Nat) (x : Xfer) :
    (∃ issue, s.EddyBecomes (s.xportDue n x) n { s.eddy n with issue := issue }) ∧ (s.xportDue n x).regs = s.regs := by
  unfold State.xportDue
  dsimp only
  split
  · exact ⟨⟨_, s.setEddy_becomes n _⟩, rfl⟩
  · exact ⟨⟨_, s.eddyBecomes_refl n⟩, rfl⟩

/-- R151: an outcome other than OK is counted in XPORT_ERR and raises IRQ_RAW[3]; no engine changes. -/
theorem State.xportErr_facts (s : State) {n : Nat} (hn : n < 512) :
    let t := s.xportErr n
    t.fget (rXPORT_ERR n) fXPORT_ERR_COUNT = satInc 16 (s.fget (rXPORT_ERR n) fXPORT_ERR_COUNT) ∧ t.bit (rIRQ_RAW (PageKind.eddy.addr n)) 3 = true ∧
      s.EddyBecomes t n (s.eddy n) := by
  have hapart : rXPORT_ERR n ≠ PageKind.eddy.addr n + 0x010 :=
    fun h => absurd (addr_inj (k := .eddyIo) (l := .eddy) (o := 0x090) (q := 0x010) hn hn (by decide) (by decide) h).1 (by decide)
  unfold State.xportErr
  refine ⟨?_, ?_, (s.eddyBecomes_refl n).ofEddies ((State.irq_eddies ..).trans (State.finc_eddies ..))⟩
  · rw [State.fget_wordsBut (State.wordsBut_irq (l := [PageKind.eddy.addr n + 0x010]) _ (by decide) (List.mem_singleton.mpr rfl)) _ (by simpa using hapart) (by decide),
      fget_finc _ (by decide)]
    rfl
  · rw [State.bit_irq _ _ _ _ _ (by decide) (by decide), if_pos ⟨rfl, rfl⟩]

/-- R151, R152: a failed transfer is counted, and of the engines it changes at most what is due to this one. -/
theorem State.xportFails_facts (s : State) {n : Nat} (x : Xfer) (hn : n < 512) :
    let t := (s.xportErr n).xportDue n x
    (∃ issue, s.EddyBecomes t n { s.eddy n with issue := issue }) ∧
      t.fget (rXPORT_ERR n) fXPORT_ERR_COUNT = satInc 16 (s.fget (rXPORT_ERR n) fXPORT_ERR_COUNT) ∧ t.bit (rIRQ_RAW (PageKind.eddy.addr n)) 3 = true := by
  obtain ⟨hcount, hirq, hsame⟩ := s.xportErr_facts hn
  obtain ⟨⟨issue, hdue⟩, hregs⟩ := (s.xportErr n).xportDue_becomes n x
  have hfget : ∀ a f, f.lo + f.width ≤ 32 → ((s.xportErr n).xportDue n x).fget a f = (s.xportErr n).fget a f :=
    fun a f hf => State.fget_wordsBut (State.wordsBut_of_regs [] hregs) a rfl hf
  rw [hsame.1] at hdue
  exact ⟨⟨issue, hsame.trans hdue⟩, (hfget _ _ (by decide)).trans hcount, (congrArg (fun v => decide (v = 1)) (hfget _ ⟨3, 1⟩ (by decide))).trans hirq⟩

/-- Settles O22, by the step of the transfer. -/
theorem transfersRun : Obligations.TransfersRun := by
  intro s n i x pre post hc hn e hx hi only moved
  subst hi
  refine ⟨fun hbegun hpre => ?begins, fun hbegun hfree => ⟨fun a b q hop hpending hleft hfirst hq => ?streamIn, fun hop hpending hleft hfirst hroom => ?streamOut,
    fun k v rest hop hgot => ?received, fun hop hpending hleft hroom => ?write⟩, fun hended hfree hfirst => ?complete⟩
  case begins =>
    refine Answers.intro (exec_transferBegin n s (by simp [Instr.wf, hn]) hc) ?_
    rw [transferBegin_first hx hbegun hpre]
    obtain ⟨hengine, honly⟩ := setXfer_becomes hx { x with begun := true, status := if x.descBad then .dmemUncorr else if x.badDesc then .badDesc else .pending }
    exact ⟨(congrArg Eddy.xfers hengine :), by rw [hengine], honly, State.setXfer_within ..⟩
  case streamIn =>
    refine Answers.intro (exec_transferLine n pre.length [] s (by simp [Instr.wf, hn]) hc) ?_
    rw [transferLine_streamIn hx hbegun hfree hpending hop hleft hfirst hq]
    dsimp only
    rw [State.setQueues_eddy, setXfer_eddy hx]
    obtain ⟨hengine, honly⟩ := ((setXfer_becomes hx { x with moved := x.moved + 1 }).trans (State.setQueues_becomes _ n { (s.eddy n).queues with inQ := q })).setEddy
      { s.eddy n with
        xfers := pre ++ { x with moved := x.moved + 1 } :: post, queues := { (s.eddy n).queues with inQ := q },
        data := writeData (s.eddy n).data ((x.loc + 64 * x.moved) / 4) (wordsOf 16 (a.toNat + b.toNat * 2 ^ 256)) }
    exact ⟨(congrArg Eddy.xfers hengine :), (congrArg Eddy.queues hengine :), (congrArg Eddy.data hengine :), honly,
      (State.setEddy_within ..).via rfl ((State.setQueues_within ..).via rfl (State.setXfer_within ..))⟩
  case streamOut =>
    refine Answers.intro (exec_transferLine n pre.length [] s (by simp [Instr.wf, hn]) hc) ?_
    rw [transferLine_streamOut hx hbegun hfree hpending hop hleft hfirst hroom]
    dsimp only
    have hline : ((s.eddy n).lineAt (x.loc + 64 * x.moved)).toNat = readData e.data ((x.loc + 64 * x.moved) / 4) 16 % 2 ^ 512 := by
      unfold Eddy.lineAt
      rw [BitVec.toNat_ofNat]
    rw [hline]
    generalize readData e.data ((x.loc + 64 * x.moved) / 4) 16 % 2 ^ 512 = v
    have hqueues := State.setQueues_becomes (s.setXfer n pre.length { x with moved := x.moved + 1 }) n
      { (s.eddy n).queues with outQ := (s.eddy n).queues.outQ ++ [BitVec.ofNat 256 v, BitVec.ofNat 256 (v / 2 ^ 256)] }
    rw [setXfer_eddy hx] at hqueues
    obtain ⟨hengine, honly⟩ := ((setXfer_becomes hx { x with moved := x.moved + 1 }).trans hqueues).ofEddies
      ((State.fadd_within _ (rEDDY_DMEM_CORR n) fEDDY_DMEM_CORR_DMEM_CORR 0).2 .eddies rfl)
    exact ⟨(congrArg Eddy.xfers hengine :), (congrArg Eddy.queues hengine :), (congrArg Eddy.data hengine :), honly,
      (State.fadd_within ..).via rfl ((State.setQueues_within ..).via rfl ((State.setXfer_within ..).mono rfl))⟩
  case received =>
    refine Answers.intro (exec_transferLine n pre.length [] s (by simp [Instr.wf, hn]) hc) ?_
    rw [transferLine_received hx hbegun hfree hop hgot]
    dsimp only
    rw [setXfer_eddy hx]
    obtain ⟨hengine, honly⟩ := (setXfer_becomes hx { x with got := rest, moved := x.moved + 1 }).setEddy
      { s.eddy n with
        xfers := pre ++ { x with got := rest, moved := x.moved + 1 } :: post, data := writeData (s.eddy n).data ((x.loc + 64 * k) / 4) (wordsOf 16 v) }
    exact ⟨(congrArg Eddy.xfers hengine :), (congrArg Eddy.data hengine :), (congrArg Eddy.queues hengine :), honly,
      (State.setEddy_within ..).via rfl (State.setXfer_within ..)⟩
  case write =>
    refine Answers.intro (exec_transferLine n pre.length [] s (by simp [Instr.wf, hn]) hc) ?_
    have hevolves := (State.transferLine_within s n pre.length []).1
    rw [transferLine_write hx hbegun hfree hpending hop hleft hroom] at hevolves ⊢
    have hmil : ((s.setXfer n pre.length { x with sent := x.sent + 1 }).fadd (rEDDY_DMEM_CORR n) fEDDY_DMEM_CORR_DMEM_CORR 0).mil = s.mil :=
      (State.fadd_within ..).2 .mil rfl
    obtain ⟨hqueued, hhdr, hflits, horigin, heddies⟩ := State.enginePacket_facts
      ((s.setXfer n pre.length { x with sent := x.sent + 1 }).fadd (rEDDY_DMEM_CORR n) fEDDY_DMEM_CORR_DMEM_CORR 0) n
      [((s.eddy n).lineAt (x.loc + 64 * x.sent), false)] (.engine n x.desc x.sent 1) (xferHdr_wr x x.sent).1
    rw [State.ep_mil hmil, hmil] at hqueued
    rw [hmil] at hhdr hflits horigin
    obtain ⟨hengine, honly⟩ := (setXfer_becomes hx { x with sent := x.sent + 1 }).ofEddies (heddies.trans ((State.fadd_within ..).2 .eddies rfl))
    exact ⟨(congrArg Eddy.xfers hengine :), hqueued, by rw [hhdr]; exact (xferHdr_wr x x.sent).1, by rw [hhdr]; exact (xferHdr_wr x x.sent).2, hflits, horigin,
      (congrArg Eddy.data hengine :), honly, hevolves⟩
  case complete =>
    refine Answers.intro (exec_transferComplete n pre.length [] s (by simp [Instr.wf, hn]) hc) ?_
    have hwithin := State.transferComplete_within s n pre.length []
    generalize hst : (if x.status = XStatus.pending then XStatus.ok else x.status) = st
    rw [transferComplete_eq hx hended hfree hfirst hst] at hwithin ⊢
    have hwritten := s.setEddy_becomes n ((s.eddy n).leaving (pre ++ post) ((s.eddy n).statusWritten x st))
    obtain ⟨hxfers, hdata, hqueues⟩ := (s.eddy n).leaving_facts (pre ++ post) ((s.eddy n).statusWritten x st)
    by_cases hok : st = .ok
    · rw [if_pos hok] at hwithin ⊢
      obtain ⟨hengine, honly⟩ := hwritten
      rw [hengine]
      exact ⟨hxfers, hdata, hqueues, fun _ => State.wordsBut_of_regs _ rfl, fun h => absurd hok h, honly, hwithin⟩
    · rw [if_neg hok] at hwithin ⊢
      obtain ⟨⟨issue, hfails⟩, hcounted⟩ := State.xportFails_facts (s.setEddy n ((s.eddy n).leaving (pre ++ post) ((s.eddy n).statusWritten x st))) x hn
      rw [hwritten.1] at hfails
      obtain ⟨hengine, honly⟩ := hwritten.trans hfails
      rw [hengine]
      exact ⟨hxfers, hdata, hqueues, fun h => absurd h hok, fun _ => hcounted, honly, hwithin⟩

end Sys2Proof.Machine
end

section
/-! SUPPORT. The ingress of an endpoint (R160, R162, R176, R183, R184, R489): what becomes of a request offered or queued there. -/

namespace Sys2Proof.Machine

/-- R160: stamping keeps whether a packet is a response. -/
theorem isRsp_stamp (s : State) {e : Nat} (p : Pkt) (he : e < 1024) (ho : ∀ l, p.origin ≠ .lane l) : isRsp (s.stamp e p) = isRsp p.hdr := by
  obtain ⟨-, -, -, htype, -⟩ := s.stamp_facts e p he ho
  unfold isRsp
  rw [htype]

theorem ne_lane_of_tenant {o : Origin} (h : o = .tenant) (l : Nat) : o ≠ .lane l := by
  subst h
  exact Origin.noConfusion

/-! ### A request at the head of the queue -/

section
variable {s : State} {e i : Nat} {q : List Nat} (he : e < 0x195) (hq : (s.ep e).reqIn = i :: q) (hwaiting : (s.pkt i).accepted = false)
  (horigin : (s.pkt i).origin = .tenant) (hreq : isRsp (s.pkt i).hdr = false)
include he horigin hreq

/-- R489: the header of a tenant's request taken: refused by its first failing check, or stamped and tracked. -/
theorem takeHeader_tenant :
    s.takeHeader e i = match s.ingressCheck e (s.pkt i) (s.stamp e (s.pkt i)) with
      | some st => (s.killPkt e i).completeLocal e (s.stamp e (s.pkt i)) .tenant st
      | none => (s.setPkt i { s.pkt i with hdr := s.stamp e (s.pkt i), accepted := true }).putTrack e (hget (s.pkt i).hdr hTAG)
          { hdr := s.stamp e (s.pkt i), fenced := false, origin := .tenant } :=
  s.takeHeader_request e i horigin hreq ((isRsp_stamp s _ (by omega) (ne_lane_of_tenant horigin)).trans hreq)

include hq hwaiting

omit he horigin hreq in
/-- R162, R489: a queued request whose endpoint may inject has its header taken. -/
theorem ingress_queued (hvalid : fEP_CFG_VALID.get (s.idWord e (s.pkt i)) = 1) :
    s.ingress e (.queued 0) = (s.takeHeader e i).tryEnter e false := by
  have hmay : s.mayInject e (s.pkt i) = true := by
    unfold State.mayInject
    rw [hvalid]
    simp
  unfold State.ingress
  dsimp only
  rw [show (s.ep e).inQ (decide ((0 : Nat) = 1)) = i :: q from hq]
  dsimp only
  rw [hmay, hwaiting]
  rfl

/-- R183, R489: a request refused at the ingress completes at once, and lets nothing else into the mesh. -/
theorem ingress_refused {st : Nat} (hvalid : fEP_CFG_VALID.get (s.idWord e (s.pkt i)) = 1)
    (hfresh : ∀ j ∈ i :: q, j < s.mil.next ∧ (s.pkt j).accepted = false) (hcheck : s.ingressCheck e (s.pkt i) (s.stamp e (s.pkt i)) = some st) :
    s.ingress e (.queued 0) = (s.killPkt e i).completeLocal e (s.stamp e (s.pkt i)) .tenant st := by
  obtain ⟨hnotOk, hlt⟩ := State.ingressCheck_lt hcheck
  rw [ingress_queued hq hwaiting hvalid, takeHeader_tenant he horigin hreq, hcheck]
  refine State.tryEnter_wait _ e false fun j r hj => ?_
  obtain ⟨hkpkt, hkep, -, hknext, -⟩ := s.killPkt_facts e i
  obtain ⟨-, hpkts, hep, -⟩ := (s.killPkt e i).completeLocal_facts e (s.stamp e (s.pkt i)) .tenant st hnotOk hlt
  have hmem : j ∈ q.filter (fun j => j ≠ i) := by
    have hqueue : ((s.killPkt e i).ep e).reqIn = j :: r := by rw [hep] at hj; exact hj
    rw [hkep, s.unqueue_ep] at hqueue
    have hall : (i :: q).filter (fun j => j ≠ i) = j :: r := by rw [← hq]; exact hqueue
    rw [List.filter_cons_of_neg (by simp)] at hall
    rw [hall]
    exact List.mem_cons_self
  obtain ⟨hjq, hji⟩ := List.mem_filter.mp hmem
  obtain ⟨hjlt, hjwait⟩ := hfresh j (List.mem_cons_of_mem _ hjq)
  rw [hpkts j (by omega), hkpkt, if_neg (by simpa using hji)]
  exact hjwait

end

/-! ### A header offered by a tenant design -/

section
variable {s : State} {e : Nat} {hdr : Header} {flits : List (BitVec 512 × Bool)} {eop : Bool}

/-- R173: a port whose tenant interface is not connected takes no header. -/
theorem ingress_unconnected (hcon : s.portConnected e = false) : s.ingress e (.header hdr flits eop) = s := by
  unfold State.ingress
  dsimp only
  rw [if_pos (by simp [hcon])]

/-- R178: flits of a refused packet are discarded up to its tail. -/
theorem ingress_skipped (hskip : (s.ep e).skipIn ≠ 0) : s.ingress e (.more flits eop) = s.setEp e { s.ep e with skipIn := b2n (!eop) } := if_pos hskip

/-- The current packet is the one that still takes flits. -/
theorem openIn_cur {i : Nat} (hcur : (s.ep e).curIn = some i) : s.openIn e = some i := by
  unfold State.openIn
  rw [hcur]

/-- R176: flits of a packet that is already in the mesh follow it. -/
theorem ingress_follow {i : Nat} (hskip : (s.ep e).skipIn = 0) (hcur : (s.ep e).curIn = some i) :
    s.ingress e (.more flits eop) =
      (let s1 := s.setPkt i { s.pkt i with flits := (s.pkt i).flits ++ flits, eop := eop }
       (if eop then s1.setEp e { s1.ep e with curIn := none } else s1).meterLink e (hget (s.pkt i).hdr hSTALL) flits.length) := by
  unfold State.ingress
  dsimp only
  rw [if_neg (by simp [hskip]), openIn_cur hcur]
  exact if_pos hcur

/-- A packet of a header that a tenant design offers. -/
def offeredPkt (hdr : Header) (flits : List (BitVec 512 × Bool)) (eop : Bool) : Pkt := { mkPkt hdr flits .inQ false .tenant with eop := eop }

section
variable (hempty : (s.ep e).reqIn = []) (hreq : isRsp hdr = false)
include hempty hreq

/-- A request offered to an empty queue waits there alone. -/
theorem pushIn_offered :
    let t := s.pushIn e (offeredPkt hdr flits eop)
    t.pkt s.mil.next = offeredPkt hdr flits eop ∧ (∀ j, j ≠ s.mil.next → t.pkt j = s.pkt j) ∧ t.ep e = { s.ep e with reqIn := [s.mil.next] } ∧
      (∀ m, m ≠ e → t.ep m = s.ep m) ∧ t.regs = s.regs ∧ t.mil.track = s.mil.track ∧ ∀ m, (t.ep m).unreach = (s.ep m).unreach := by
  obtain ⟨hpkt, hpkts, hep, heps, -, htrack⟩ := s.pushIn_facts e (offeredPkt hdr flits eop)
  have hep' : (s.pushIn e (offeredPkt hdr flits eop)).ep e = { s.ep e with reqIn := [s.mil.next] } := by
    rw [hep, show isRsp (offeredPkt hdr flits eop).hdr = false from hreq]
    show { s.ep e with reqIn := (s.ep e).reqIn ++ [s.mil.next] } = _
    rw [hempty]
    rfl
  refine ⟨hpkt, hpkts, hep', heps, (State.pushIn_within ..).2 .regs rfl, htrack, fun m => ?_⟩
  by_cases hm : m = e
  · rw [hm, hep']
  · rw [heps m hm]

/-- R489: a request's header whose checks pass at a connected port with nothing queued: it is queued, taken and let in. -/
theorem ingress_header (he : e < 0x195) (hport : isFabricPort e = true) (hcon : s.portConnected e = true) (hskip : (s.ep e).skipIn = 0) (hopen : s.openIn e = none)
    (hcheck : s.ingressCheck e (offeredPkt hdr flits eop) (s.stamp e (offeredPkt hdr flits eop)) = none) :
    s.ingress e (.header hdr flits eop) =
      (((s.pushIn e (offeredPkt hdr flits eop)).setPkt s.mil.next
          { (s.pushIn e (offeredPkt hdr flits eop)).pkt s.mil.next with hdr := s.stamp e (offeredPkt hdr flits eop), accepted := true }).putTrack e
        (hget ((s.pushIn e (offeredPkt hdr flits eop)).pkt s.mil.next).hdr hTAG)
        { hdr := s.stamp e (offeredPkt hdr flits eop), fenced := false, origin := .tenant }).tryEnter e false := by
  obtain ⟨hpkt, -, hep, -, hregs, htrack, hunreach⟩ := pushIn_offered (s := s) (e := e) (flits := flits) (eop := eop) hempty hreq
  have htaken := takeHeader_tenant (s := s.pushIn e (offeredPkt hdr flits eop)) (i := s.mil.next) he (by rw [hpkt]; rfl) (by rw [hpkt]; exact hreq)
  have hstamp : (s.pushIn e (offeredPkt hdr flits eop)).stamp e ((s.pushIn e (offeredPkt hdr flits eop)).pkt s.mil.next) = s.stamp e (offeredPkt hdr flits eop) := by
    rw [hpkt, State.stamp_congr hregs]
  rw [hstamp, show State.ingressCheck _ e ((s.pushIn e (offeredPkt hdr flits eop)).pkt s.mil.next) _ = none by
    rw [hpkt, State.ingressCheck_congr hregs htrack hunreach, hcheck]] at htaken
  dsimp only at htaken
  have hgoes : s.ingress e (.header hdr flits eop) = ((s.pushIn e (offeredPkt hdr flits eop)).takeHeader e s.mil.next).tryEnter e false := by
    unfold State.ingress
    dsimp only
    rw [if_neg (by simp [hport, hcon, hskip, hopen, hreq, Ep.inQ, hempty, State.qLevel]), hreq]
    refine if_pos ?_
    show s.mil.next ∈ (((s.pushIn e (offeredPkt hdr flits eop)).takeHeader e s.mil.next).ep e).reqIn
    rw [htaken]
    show s.mil.next ∈ ((s.pushIn e (offeredPkt hdr flits eop)).ep e).reqIn
    rw [hep]
    exact List.mem_singleton.mpr rfl
  rw [hgoes, htaken]

end

end

/-- Settles O23, by what reaches the ingress and, for a request, by its checks. -/
theorem ingressStampsAndChecks : Obligations.IngressStampsAndChecks := by
  intro s e hc he ready
  have hwf : ∀ op, (Instr.ingress e op).wf = true := fun op => by simp [Instr.wf, he]
  refine ⟨fun i q hq hfresh horigin hreq hvalid => ⟨?stamped, fun st hcheck => ?refused, fun hcheck => ?entered⟩,
    fun hdr flits eop hport hcon hskip hopen hempty hreq hcheck => ?header, fun hdr flits eop hcon => ?unconnected,
    fun flits eop hskip => ?skipped, fun i flits eop hskip hcur => ?follow⟩
  case stamped =>
    obtain ⟨hsrc, hdev, hclaim, -, hdst, htag, haddr, -⟩ := s.stamp_facts e (s.pkt i) (by omega) (ne_lane_of_tenant horigin)
    obtain ⟨hstall, hkey⟩ := hclaim hreq
    exact ⟨hsrc, hdev, hstall, hkey, hdst, htag, haddr⟩
  case refused =>
    refine Answers.intro (exec_ingress e _ s (hwf _) hc) ?_
    obtain ⟨hsrc, -, -, htype, hdst, htag, -⟩ := s.stamp_facts e (s.pkt i) (by omega) (ne_lane_of_tenant horigin)
    obtain ⟨hilt, hwaiting⟩ := hfresh i List.mem_cons_self
    obtain ⟨hnotOk, hlt⟩ := State.ingressCheck_lt hcheck
    rw [ingress_refused he hq hwaiting horigin hreq hvalid hfresh hcheck]
    obtain ⟨hkpkt, hkep, hkeps, hknext, hktrack, hkregs, -⟩ := s.killPkt_facts e i
    obtain ⟨hrsp, hpkts, hep, heps, htrack, hlast, hirq, hwords, -⟩ := (s.killPkt e i).completeLocal_facts e (s.stamp e (s.pkt i)) .tenant st hnotOk hlt
    rw [hknext] at hrsp hpkts hep
    obtain ⟨hflits, -, -, -, hstatus, hrtag, hrdst, hrtype, -⟩ := hrsp
    rw [hkep, s.unqueue_ep] at hep
    have hdropped : (s.ep e).reqIn.filter (fun j => j ≠ i) = q.filter (fun j => j ≠ i) := by rw [hq, List.filter_cons_of_neg (by simp)]
    refine ⟨?_, ?_, ?_, hstatus, hrtag.trans htag, hrdst.trans hsrc, hrtype.trans (congrArg rspTypeOf htype), hflits, ?_, hirq,
      fun a b => (htrack a b).trans (State.trackAt_mil hktrack a b), fun m hm => (heps m hm).trans (hkeps m hm),
      State.wordsBut_trans (State.wordsBut_of_regs _ hkregs) hwords, (State.completeLocal_within ..).via rfl ((State.killPkt_within ..).mono rfl)⟩
    · rw [hpkts i (by omega), hkpkt, if_pos rfl]
    · rw [hep]
      exact hdropped
    · rw [hep]
    · rw [hlast, hdst, htag]
  case entered =>
    refine Answers.intro (exec_ingress e _ s (hwf _) hc) ?_
    obtain ⟨-, hwaiting⟩ := hfresh i List.mem_cons_self
    rw [ingress_queued hq hwaiting hvalid, takeHeader_tenant he horigin hreq, show s.ingressCheck e (s.pkt i) (s.stamp e (s.pkt i)) = none from hcheck]
    exact s.enteredRequest e i q _ hq hwaiting
  case header =>
    refine Answers.intro (exec_ingress e _ s (hwf _) hc) ?_
    rw [ingress_header hempty hreq he hport hcon hskip hopen hcheck]
    obtain ⟨hpkt, hpkts, hep, -, hregs, -⟩ := pushIn_offered (s := s) (e := e) (flits := flits) (eop := eop) hempty hreq
    have hcur : (s.ep e).curIn = none := by
      cases hcur : (s.ep e).curIn with
      | none => rfl
      | some i => rw [openIn_cur hcur] at hopen; cases hopen
    have hentered := (s.pushIn e (offeredPkt hdr flits eop)).enteredRequest e s.mil.next [] (s.stamp e (offeredPkt hdr flits eop)) (by rw [hep]) (by rw [hpkt]; rfl)
    have hgoes : ((decide (clampCt ((s.pushIn e (offeredPkt hdr flits eop)).fget (rEPQ_CTL e) fEPQ_CTL_CT_IN) ≤
        ((s.pushIn e (offeredPkt hdr flits eop)).pkt s.mil.next).nflits) || ((s.pushIn e (offeredPkt hdr flits eop)).pkt s.mil.next).eop) &&
        ((s.pushIn e (offeredPkt hdr flits eop)).ep e).curIn.isNone) = ready (offeredPkt hdr flits eop) := by
      rw [hpkt, hep, State.fget_wordsBut (State.wordsBut_of_regs [] hregs) _ rfl (by decide), hcur, Option.isNone_none, Bool.and_true]
    dsimp only at hentered
    rw [hgoes] at hentered
    obtain ⟨htracked, htpkt, htep, -, htpkts, hwithin⟩ := hentered
    refine ⟨?_, ?_, ?_, ?_, fun hready => ⟨?_, ?_⟩, fun hready => ⟨?_, ?_⟩, fun j hj => (htpkts j hj).trans (hpkts j hj), hwithin.via rfl ((State.pushIn_within ..).mono rfl)⟩
    · rw [hpkt] at htracked ⊢
      exact htracked
    · rw [htpkt]
      rfl
    · rw [htpkt, hpkt]
      rfl
    · rw [htpkt, hpkt]
      rfl
    · rw [htpkt]
      exact if_pos hready
    · rw [htep, if_pos (by exact hready)]
    · rw [htpkt, hpkt]
      exact if_neg (Bool.eq_false_iff.mp hready)
    · rw [htep, if_neg (by exact Bool.eq_false_iff.mp hready), hep]
  case unconnected =>
    exact Answers.intro (exec_ingress e _ s (hwf _) hc) (ingress_unconnected hcon)
  case skipped =>
    refine Answers.intro (exec_ingress e _ s (hwf _) hc) ?_
    rw [ingress_skipped hskip]
    exact ⟨s.ep_setEp_self e _, fun m hm => (s.setEp_ep e _ m).trans (if_neg hm), fun _ => rfl, State.setEp_within ..⟩
  case follow =>
    refine Answers.intro (exec_ingress e _ s (hwf _) hc) ?_
    rw [ingress_follow hskip hcur]
    generalize hsent : ({ s.pkt i with flits := (s.pkt i).flits ++ flits, eop := eop } : Pkt) = sent
    cases eop with
    | true => exact ⟨(s.setPkt_pkt i sent i).trans (if_pos rfl), State.ep_setEp_self .., fun m hm => (State.setEp_ep ..).trans (if_neg hm),
        fun j hj => (s.setPkt_pkt i sent j).trans (if_neg hj),
        (State.meterLink_within ..).via rfl ((State.setEp_within ..).via rfl ((State.setPkt_within ..).mono rfl))⟩
    | false => exact ⟨(s.setPkt_pkt i sent i).trans (if_pos rfl), by rw [if_neg Bool.false_ne_true, ← hcur]; rfl, fun _ _ => rfl,
        fun j hj => (s.setPkt_pkt i sent j).trans (if_neg hj), (State.meterLink_within ..).via rfl ((State.setPkt_within ..).mono rfl)⟩

end Sys2Proof.Machine
end

section
/-! SUPPORT. Packets in the mesh and at their destination (R165–R167, R175, R176, R182, R186, R188). -/

namespace Sys2Proof.Machine

/-! ### At a router -/

section
variable {s : State} {i rt : Nat}

theorem routerHop_elsewhere (hat : (s.pkt i).atRouter = none) (errs : List (Nat × Bool)) : s.routerHop i errs = s := by
  unfold State.routerHop
  rw [hat]

section
variable (hat : (s.pkt i).atRouter = some rt)
include hat

/-- R166: at its destination router a packet waits. -/
theorem routerHop_arrived (hroute : s.route rt (s.pkt i).hdr = none) : s.routerHop i [] = s := by
  unfold State.routerHop
  rw [hat]
  dsimp only
  unfold State.flitErrs
  rw [if_neg (by simp [hat]), hroute]

/-- R186: a double-bit error in a header loses its packet. -/
theorem routerHop_headerError : s.routerHop i [(0, true)] = (s.flitErr rt (s.pkt i) true true).losePkt i := by
  have hnflits : 0 < (s.pkt i).nflits := Nat.succ_le_of_lt (by unfold Pkt.nflits; omega)
  have hlost : s.flitErrs rt i [(0, true)] = (s.flitErr rt (s.pkt i) true true).losePkt i := by
    unfold State.flitErrs
    dsimp only
    rw [if_pos hnflits]
    rfl
  have hgone : (s.flitErrs rt i [(0, true)]).pkt i = Pkt.none := by
    rw [hlost]
    exact (State.losePkt_facts _ i).1
  unfold State.routerHop
  rw [hat]
  dsimp only
  rw [hgone, if_pos (by simp [Pkt.atRouter, Pkt.none]), hlost]

end
end

/-! ### At the destination interface -/

section
variable {s : State} {e i : Nat} (hat : (s.pkt i).atRouter = some (epRouter e)) (hdst : hget (s.pkt i).hdr hDST = e) (hturn : s.behindFlow i = false)
  (htrunc : (s.pkt i).trunc = false) (hreach : (s.ep e).unreach = 0)
include hat hdst hturn htrunc hreach

/-- R176: a packet that nothing refuses joins its OUT queue where there is room. -/
theorem arrive_joins (hok : isRsp (s.pkt i).hdr = true ∨ s.egressRefusal e (s.pkt i).hdr = none) (hroom : s.qLevel ((s.ep e).outQ (isRsp (s.pkt i).hdr)) < 32)
    (hdrain : (s.ep e).drain = false) (hfrozen : s.portFrozen e = false) :
    s.arrive e i = (s.setPkt i { s.pkt i with place := .outQ, holds := none, accepted := false, origin := .tenant }).setEp e
      ((s.ep e).setOut (isRsp (s.pkt i).hdr) ((s.ep e).outQ (isRsp (s.pkt i).hdr) ++ [i])) := by
  have hnone : (if isRsp (s.pkt i).hdr then none else s.egressRefusal e (s.pkt i).hdr) = none := by
    rcases hok with hrsp | hrefusal
    · rw [if_pos hrsp]
    · rw [hrefusal, ite_self]
  unfold State.arrive
  dsimp only
  rw [if_neg (by simp [hat, hdst, hturn]), if_neg (by simp [htrunc]), if_neg (by simp [State.unreachFor, State.unreachable, hreach]), hnone]
  dsimp only
  rw [if_neg (by omega), if_neg (by simp [hdrain, hfrozen])]

/-- R188: a request that the port refuses is answered with its status. -/
theorem arrive_refused {st : Nat} (hreq : isRsp (s.pkt i).hdr = false) (hrefusal : s.egressRefusal e (s.pkt i).hdr = some st) :
    s.arrive e i = (s.losePkt i).madeRsp e (s.pkt i).hdr st := by
  unfold State.arrive
  dsimp only
  rw [if_neg (by simp [hat, hdst, hturn]), if_neg (by simp [htrunc]), if_neg (by simp [State.unreachFor, State.unreachable, hreach]), if_neg (by simp [hreq]), hrefusal]

end

/-- R183: the response that the Millrace makes at an endpoint, at the end of its response queue. -/
theorem State.madeRsp_facts (s : State) (e : Nat) (h : Header) {status : Nat} (hlt : status < 16) :
    let t := s.madeRsp e h status
    (∀ j, j ≠ s.mil.next → t.pkt j = s.pkt j) ∧ hget (t.pkt s.mil.next).hdr hSTATUS = status ∧ hget (t.pkt s.mil.next).hdr hTAG = hget h hTAG ∧
      hget (t.pkt s.mil.next).hdr hDST = hget h hSRC ∧ t.ep e = { s.ep e with rspIn := (s.ep e).rspIn ++ [s.mil.next] } ∧ ∀ m, m ≠ e → t.ep m = s.ep m := by
  obtain ⟨hdst, -, -, -, -, -, -, -, htag, hstatus⟩ := openRsp_facts s h status 0 hlt (by decide)
  obtain ⟨hpkt, hpkts, hep, heps, -⟩ := s.useFree.pushIn_facts e (mkPkt (s.openRsp h status 0) [] .inQ true .tenant)
  have hrsp : isRsp (mkPkt (s.openRsp h status 0) [] .inQ true .tenant).hdr = true := isRsp_openRsp s h status 0 hlt (by decide)
  rw [hrsp] at hep
  unfold State.madeRsp State.injectRsp
  rw [State.useFree_mil] at hpkt hpkts hep
  dsimp only
  rw [hpkt]
  exact ⟨hpkts, hstatus, htag, hdst, hep, heps⟩

/-! ### Presentation -/

section
variable {s : State} {e i ready n : Nat} (hport : isFabricPort e = true) (hcon : s.portConnected e = true) (hpresented : s.presented e ready = some i) (hn : 1 ≤ n)
  (hleft : (s.pkt i).taken < (s.pkt i).nflits)
include hport hcon hpresented hn hleft

/-- R175: the endpoint takes flits of the packet presented, and after the tail the packet is gone. -/
theorem egress_present :
    let p := s.pkt i
    let k := min n (p.nflits - p.taken)
    let s1 := s.emit (.localFlits e p.hdr ((((p.hdr, false) :: p.flits).drop p.taken).take k) false)
    s.egress e (.present ready n) =
      if p.taken + k = p.nflits ∧ p.eop then s1.killPkt e i else (s1.setPkt i { p with taken := p.taken + k }).setEp e { s1.ep e with curOut := some i } := by
  unfold State.egress State.present
  dsimp only
  rw [if_pos hport, if_neg (by simp [hcon]), hpresented]
  dsimp only
  rw [if_neg (by omega)]

end

/-- Settles O24, by where the packet is and what becomes of it there. -/
theorem packetsMove : Obligations.PacketsMove := by
  intro s i hc p others
  have hhop : ∀ errs, (Instr.routerHeader i errs).wf = true := fun _ => rfl
  refine ⟨fun hat => ?elsewhere, fun rt hat => ⟨fun hroute => ?arrived, fun d ch rt' hroute hnext halone => ?hop, fun hrt => ?headerError⟩,
    fun e he hat hdst hturn htrunc hreach hok hroom hdrain hfrozen => ?joins,
    fun e st he hi hat hdst hturn htrunc hreach hreq hrefusal hcur => ?refused, fun e ready n hport hcon hpresented hn hleft => ?present⟩
  case elsewhere => exact Answers.intro (exec_routerHeader i [] s (hhop _) hc) (routerHop_elsewhere hat [])
  case arrived => exact Answers.intro (exec_routerHeader i [] s (hhop _) hc) (routerHop_arrived hat hroute)
  case hop =>
    refine Answers.intro (exec_routerHeader i [] s (hhop _) hc) ?_
    obtain ⟨x, hx⟩ := s.routerHop_alone i rt d ch rt' hat hroute hnext halone
    rw [hx]
    exact ⟨(s.setPkt_pkt i _ i).trans (if_pos rfl), fun j hj => (s.setPkt_pkt i _ j).trans (if_neg hj), fun _ => rfl, fun _ _ => rfl,
      (State.setChan_within ..).via rfl (State.setPkt_within ..)⟩
  case headerError =>
    refine Answers.intro (exec_routerHeader i _ s (hhop _) hc) ?_
    rw [routerHop_headerError hat]
    obtain ⟨hcount, hirq, hmil, hwithin⟩ := s.flitErr_header rt (s.pkt i)
    obtain ⟨hgone, hpkts, hregs, -⟩ := (s.flitErr rt (s.pkt i) true true).losePkt_facts i
    have hfget : ∀ a f, f.lo + f.width ≤ 32 → State.fget _ a f = _ := fun a f hf => State.fget_wordsBut (State.wordsBut_of_regs [] hregs) a rfl hf
    exact ⟨hgone, fun j hj => (hpkts j hj).trans (State.pkt_mil hmil j), (hfget _ _ (by decide)).trans hcount,
      (congrArg (fun v => decide (v = 1)) (hfget _ ⟨0, 1⟩ (by decide))).trans hirq, (State.losePkt_within ..).via rfl (hwithin.mono rfl)⟩
  case joins =>
    refine Answers.intro (exec_egress e _ s (by simp [Instr.wf, he]) hc) ?_
    show _ ∧ _
    rw [show s.egress e (.arrive i) = s.arrive e i from rfl, arrive_joins hat hdst hturn htrunc hreach hok hroom hdrain hfrozen]
    exact ⟨(s.setPkt_pkt i _ i).trans (if_pos rfl), fun j hj => (s.setPkt_pkt i _ j).trans (if_neg hj), State.ep_setEp_self .., fun m hm => (State.setEp_ep ..).trans (if_neg hm),
      (State.setEp_within ..).via rfl (State.setPkt_within ..)⟩
  case refused =>
    refine Answers.intro (exec_egress e _ s (by simp [Instr.wf, he]) hc) ?_
    rw [show s.egress e (.arrive i) = s.arrive e i from rfl, arrive_refused hat hdst hturn htrunc hreach hreq hrefusal]
    obtain ⟨hgone, -, -, hkept⟩ := s.losePkt_facts i
    obtain ⟨hnext, heps⟩ := hkept hcur
    obtain ⟨hpkts, hstatus, htag, hrdst, hep, hothers⟩ := (s.losePkt i).madeRsp_facts e p.hdr (State.egressRefusal_lt hrefusal)
    rw [hnext] at hpkts hstatus htag hrdst hep
    rw [heps] at hep
    exact ⟨(hpkts i (by omega)).trans hgone, hstatus, htag, hrdst, hep, fun m hm => (hothers m hm).trans (heps m),
      (State.madeRsp_within ..).via rfl ((State.losePkt_within ..).mono rfl)⟩
  case present =>
    have he : e < 0x195 := by
      have hfabric := of_decide_eq_true hport
      omega
    refine Answers.intro (exec_egress e _ s (by simp [Instr.wf, he]) hc) ?_
    rw [egress_present hport hcon hpresented hn hleft]
    dsimp only
    generalize hout : Out.localFlits e (s.pkt i).hdr _ false = flits
    by_cases htail : (s.pkt i).taken + min n ((s.pkt i).nflits - (s.pkt i).taken) = (s.pkt i).nflits ∧ (s.pkt i).eop = true
    · rw [if_pos htail]
      obtain ⟨hpkts, -, heps, -⟩ := (s.emit flits).killPkt_facts e i
      exact ⟨(State.killPkt_within ..).2 .out rfl, fun _ => (hpkts i).trans (if_pos rfl), fun h => absurd htail h, fun j hj => (hpkts j).trans (if_neg hj), heps,
        (State.killPkt_within ..).via rfl ((State.emit_within ..).mono rfl)⟩
    · rw [if_neg htail]
      exact ⟨rfl, fun h => absurd h htail, fun _ => ⟨(State.setPkt_pkt _ i _ i).trans (if_pos rfl), State.ep_setEp_self ..⟩,
        fun j hj => (State.setPkt_pkt _ i _ j).trans (if_neg hj), fun m hm => (State.setEp_ep ..).trans (if_neg hm),
        (State.setEp_within ..).via rfl ((State.setPkt_within ..).via rfl ((State.emit_within ..).mono rfl))⟩

end Sys2Proof.Machine
end

section
/-! SUPPORT. Requests at their responders (R164, R196–R200, R206, R211): memory ports and register agents. -/

namespace Sys2Proof.Machine

/-! ### Answers -/

/-- An answer of a memory port, metered (R196, R311): a response of EXT 0 to the request, and no line changes. -/
theorem State.answer_metered (s : State) (e i : Nat) {st lines : Nat} (flits : List (BitVec 512 × Bool)) (port : Nat) (h : Header) (n : Nat) (hi : i < s.mil.next)
    (hst : st < 16) (hlines : lines < 8) :
    let t := (s.answer e i st lines (some 0) flits).meterMem port h n
    (t.pkt i = Pkt.none ∧ hget (t.pkt s.mil.next).hdr hSTATUS = st ∧ hget (t.pkt s.mil.next).hdr hTAG = hget (s.pkt i).hdr hTAG ∧
      hget (t.pkt s.mil.next).hdr hDST = hget (s.pkt i).hdr hSRC ∧ hget (t.pkt s.mil.next).hdr hTYPE = rspTypeOf (hget (s.pkt i).hdr hTYPE) ∧
      (t.ep e).rspIn = (s.ep e).rspIn.filter (fun j => j ≠ i) ++ [s.mil.next]) ∧
    hget (t.pkt s.mil.next).hdr hLINES = lines ∧ hget (t.pkt s.mil.next).hdr hEXT = 0 ∧ (t.pkt s.mil.next).flits = flits ∧ t.mem = s.mem ∧
    Within [.mil, .fresh, .tally] s t := by
  obtain ⟨hanswered, hrlines, hext, hflits, hwithin⟩ := s.answer_facts e i st lines 0 flits hi hst hlines
  obtain ⟨hpkts, heps, hmem, hmetered⟩ := (s.answer e i st lines (some 0) flits).meterMem_facts port h n
  dsimp only at hanswered hrlines hext hflits ⊢
  rw [hpkts, hpkts, heps]
  exact ⟨hanswered, hrlines, hext.trans (Nat.zero_mod _), hflits, hmem.trans ((State.answer_within ..).2 .mem rfl), hmetered.via rfl (hwithin.mono rfl)⟩

/-! ### A memory port -/

section
variable {s : State} {e i : Nat}

theorem stoppedOr_serves (hrunning : s.stoppedEp e = false) (huntested : s.memTesting e i = false) (t : State) : s.stoppedOr e i t = t := by
  unfold State.stoppedOr
  rw [if_neg (by simp [hrunning]), if_neg (by simp [huntested])]

theorem reqAt_type {type : Nat} (hat : s.reqAt e i type = true) : hget (s.pkt i).hdr hTYPE = type := by
  unfold State.reqAt at hat
  simp only [Bool.and_eq_true, decide_eq_true_eq] at hat
  exact hat.1.1.2

theorem serve_memory {type port : Nat} {faults : List (Nat × LineFault)} {env : PcieEnv} (hat : s.reqAt e i type = true)
    (hport : memPortOf e (hget (s.pkt i).hdr hADDR) = some port) : s.serve e i type faults env = s.memRequest e port i faults := by
  unfold State.serve
  rw [if_neg (by simp [hat])]
  dsimp only
  rw [hport]

section
variable {port : Nat} (hturn : s.memBehind e i = false)
include hturn

/-- R206: a request that fails a check is answered with its status. -/
theorem memRequest_refused {st : Nat} (hcheck : s.memCheck port (s.pkt i).hdr = some st) : s.memRequest e port i [] = s.answer e i st 0 (some 0) [] := by
  unfold State.memRequest
  dsimp only
  rw [if_neg (by simp [hturn]), hcheck]

section
variable (hcheck : s.memCheck port (s.pkt i).hdr = none) (hup : s.memUp port = true)
include hcheck hup

/-- R197: an RD of sound lines is answered with their data. -/
theorem memRequest_read (htype : hget (s.pkt i).hdr hTYPE = tRD)
    (hsound : ∀ k, k < hget (s.pkt i).hdr hLINES → (s.line (s.lineKey port (reqRgn (s.pkt i).hdr) (reqLine (s.pkt i).hdr + k))).poison = false ∧
      s.keyMatches port (reqRgn (s.pkt i).hdr) (reqLine (s.pkt i).hdr + k) = true) :
    s.memRequest e port i [] =
      (s.answer e i stOK (hget (s.pkt i).hdr hLINES) (some 0) ((List.range (hget (s.pkt i).hdr hLINES)).map (fun k =>
        ((s.line (s.lineKey port (reqRgn (s.pkt i).hdr) (reqLine (s.pkt i).hdr + k))).plain, false)))).meterMem port (s.pkt i).hdr (hget (s.pkt i).hdr hLINES) := by
  have hread := s.readLines_sound port (reqRgn (s.pkt i).hdr) (hget (s.pkt i).hdr hSRC) ((List.range (hget (s.pkt i).hdr hLINES)).map (fun k => reqLine (s.pkt i).hdr + k))
    (fun l hl => by
      obtain ⟨k, hk, rfl⟩ := List.mem_map.mp hl
      exact hsound k (List.mem_range.mp hk))
  rw [List.map_map] at hread
  unfold State.memRequest
  dsimp only
  rw [if_neg (by simp [hturn]), hcheck]
  dsimp only
  rw [if_neg (by simp [hup]), if_pos htype, hread]
  dsimp only
  rw [if_neg (by simp)]
  rfl

/-- R199: a WR that need not wait stores its lines, and is answered. -/
theorem memRequest_write (htype : hget (s.pkt i).hdr hTYPE = tWR) (hheld : s.writeHeld port (s.pkt i).hdr = false) {t : State}
    (hwrite : s.writeLines port (reqRgn (s.pkt i).hdr) (hget (s.pkt i).hdr hSRC) (hget (s.pkt i).hdr hBE) []
      (((List.range (hget (s.pkt i).hdr hLINES)).map (fun k => reqLine (s.pkt i).hdr + k)).zip (s.pkt i).flits) = (t, false)) :
    s.memRequest e port i [] = (t.answer e i stOK 0 (some 0) []).meterMem port (s.pkt i).hdr (if hget (s.pkt i).hdr hBE = 0 then 0 else hget (s.pkt i).hdr hLINES) := by
  unfold State.memRequest
  dsimp only
  rw [if_neg (by simp [hturn]), hcheck]
  dsimp only
  rw [if_neg (by simp [hup]), if_neg (by rw [htype]; decide), if_neg (by simp [hheld]), hwrite]
  rfl

end
end

/-- R199: a line written whole, or merged into a sound one, under the slot that serves it. -/
theorem writeLine_stored {port rg src l be : Nat} {d : BitVec 512} (hbe : be ≠ 0)
    (hsound : be = 2 ^ 64 - 1 ∨ ((s.line (s.lineKey port rg l)).poison = false ∧ s.keyMatches port rg l = true)) :
    s.writeLine port rg src l be (d, false) none =
      (s.storeLine port rg l (if be = 2 ^ 64 - 1 then d else mergeBytes be (s.line (s.lineKey port rg l)).plain d), false) := by
  unfold State.writeLine
  rw [if_neg hbe, if_neg Bool.false_ne_true]
  by_cases hfull : be = 2 ^ 64 - 1
  · rw [if_pos hfull, if_pos hfull]
  · obtain ⟨hclean, hkey⟩ := hsound.resolve_left hfull
    have hfault : s.lineFault port rg l none = none := by
      unfold State.lineFault
      simp [hkey]
    rw [if_neg hfull, if_neg hfull]
    dsimp only
    rw [if_neg (by simp [hclean]), hfault]
    simp only [reduceCtorEq, if_false]
    rw [if_pos hkey]

end

theorem writeLines_one {s t : State} {port rg src l be : Nat} {d : BitVec 512 × Bool} {b : Bool} (hwrite : s.writeLine port rg src l be d none = (t, b)) :
    s.writeLines port rg src be [] [(l, d)] = (t, b) := by
  unfold State.writeLines
  rw [show ([] : List (Nat × LineFault)).lookup l = none from rfl, hwrite]
  simp [State.writeLines]

/-! ### Tolmor's endpoint -/

/-- R163: Tolmor's endpoint refuses every request. -/
theorem serve_tolmor {s : State} {i type : Nat} {faults : List (Nat × LineFault)} {env : PcieEnv} (hat : s.reqAt epTolmor i type = true)
    (hbridge : bridgeMsg epTolmor (s.pkt i).hdr = none) :
    s.serve epTolmor i type faults env = s.answer epTolmor i (if hget (s.pkt i).hdr hDEV = 0 then stREFUSED_OWNER else stBAD_ADDR) 0 none [] := by
  have hport : memPortOf epTolmor (hget (s.pkt i).hdr hADDR) = none := by
    unfold memPortOf
    rw [if_neg (by decide), if_neg (fun h => absurd h.1 (by decide))]
  unfold State.serve
  rw [if_neg (by simp [hat])]
  dsimp only
  rw [hport, hbridge]
  dsimp only
  rw [if_neg (by decide), if_neg (by decide), if_neg (by decide), if_pos rfl]

/-! ### A register agent -/

section
variable {s : State} {e i off size upset : Nat} {req : Req} (hrange : beRange (hget (s.pkt i).hdr hBE % 2 ^ 8) = some (off, size))
  (hreq : State.regRequester (s.pkt i).hdr = some req) (hagent : agentOf (hget (s.pkt i).hdr hADDR + off) = e)
include hrange hreq hagent

/-- R164: the agent performs the access and answers it. -/
theorem regAgent_answers (write : Bool) (hat : s.reqAt e i (if write then tREG_WR else tREG_RD) = true) :
    let x := s.regAccess req (hget (s.pkt i).hdr hADDR + off) size
      (if write then some (hget (s.pkt i).hdr hEXT % 2 ^ 64 / 2 ^ (8 * off) % 2 ^ (8 * size)) else none) upset
    x.2.1 ≠ .unreachable → s.regAgent e i write upset = x.1.agentAnswer e i stOK (if write then none else some (regLanes off size x.2.2)) := by
  intro x hreached
  unfold State.regAgent
  rw [if_neg (by simp [hat])]
  dsimp only
  rw [hrange, hreq]
  dsimp only
  rw [if_neg (by simp [hagent])]
  split
  · next hx => exact absurd hx hreached
  · rfl

end

/-- R164: a register agent's answer, with the value read, if any, in EXT[63:0] (Table MIL-4). -/
theorem State.agentAnswer_facts (s : State) (e : Nat) {i : Nat} (val : Option Nat) (hi : i < s.mil.next) :
    let t := s.agentAnswer e i stOK val
    (t.pkt i = Pkt.none ∧ hget (t.pkt s.mil.next).hdr hSTATUS = stOK ∧ hget (t.pkt s.mil.next).hdr hTAG = hget (s.pkt i).hdr hTAG ∧
      hget (t.pkt s.mil.next).hdr hDST = hget (s.pkt i).hdr hSRC ∧ hget (t.pkt s.mil.next).hdr hTYPE = rspTypeOf (hget (s.pkt i).hdr hTYPE) ∧
      (t.ep e).rspIn = (s.ep e).rspIn.filter (fun j => j ≠ i) ++ [s.mil.next]) ∧
    (∀ v, val = some v → hget (t.pkt s.mil.next).hdr ⟨256, 64⟩ = v % 2 ^ 64) ∧ Within [.mil, .fresh] s t := by
  cases val with
  | none =>
    obtain ⟨hanswered, -, -, hwithin⟩ := s.respond_facts e i stOK 0 (fun h => h) (fun h => mkPkt h [] .inQ true .tenant) hi (by decide) (by decide) (fun _ _ _ => rfl)
      (fun _ => rfl)
    exact ⟨hanswered, fun _ h => (Option.some_ne_none _ h.symm).elim, hwithin⟩
  | some v =>
    obtain ⟨hanswered, -, hpkt, hwithin⟩ := s.respond_facts e i stOK 0 (fun h => hset h ⟨256, 64⟩ v) (fun h => mkPkt h [] .inQ true .tenant) hi (by decide) (by decide)
      (fun h f hf => hget_hset_ne h v (by decide) (Or.inl hf)) (fun _ => rfl)
    refine ⟨hanswered, fun w hw => ?_, hwithin⟩
    obtain rfl : v = w := Option.some.inj hw
    exact (congrArg (fun p : Pkt => hget p.hdr ⟨256, 64⟩) hpkt).trans (hget_hset _ v (by decide))

/-- The lines of a WR with their data: each line once, with its flit. -/
theorem writtenLines {first n : Nat} {flits : List (BitVec 512 × Bool)} (hlen : flits.length = n) (hsound : flits.all (fun f => !f.2) = true) :
    (∀ x ∈ ((List.range n).map (fun k => first + k)).zip flits, x.2.2 = false ∧ ∃ k, k < n ∧ x.1 = first + k) ∧
      ((((List.range n).map (fun k => first + k)).zip flits).map (fun x => x.1)).Nodup ∧
      ∀ k, k < n → (first + k, flits.getD k (0, false)) ∈ ((List.range n).map (fun k => first + k)).zip flits := by
  refine ⟨fun x hx => ?_, ?_, fun k hk => ?_⟩
  · obtain ⟨hline, hflit⟩ := List.of_mem_zip (a := x.1) (b := x.2) hx
    obtain ⟨k, hk, hkx⟩ := List.mem_map.mp hline
    exact ⟨by simpa using List.all_eq_true.mp hsound x.2 hflit, k, List.mem_range.mp hk, hkx.symm⟩
  · rw [List.map_fst_zip (by simp [hlen])]
    exact List.Pairwise.map _ (fun _ _ hne heq => hne (Nat.add_left_cancel heq)) List.nodup_range
  · refine List.mem_iff_getElem.mpr ⟨k, by simp [hlen, hk], ?_⟩
    simp [List.getD_eq_getElem?_getD, hlen, hk]

/-- R199: a WR with every byte enabled to a region without encryption stores its sound lines as they come. -/
theorem writeLines_whole (s : State) {port rg first n : Nat} (src : Nat) {flits : List (BitVec 512 × Bool)} (hplain : s.rgnCrypt port rg = false)
    (hlen : flits.length = n) (hsound : flits.all (fun f => !f.2) = true) :
    ∃ t, s.writeLines port rg src (2 ^ 64 - 1) [] (((List.range n).map (fun k => first + k)).zip flits) = (t, false) ∧ Within [.mem] s t ∧
      (∀ k, k < n → t.line (s.lineKey port rg (first + k)) = ⟨(flits.getD k (0, false)).1, 0, false⟩) ∧
      ∀ a, (∀ k, k < n → a ≠ s.lineKey port rg (first + k)) → t.line a = s.line a := by
  obtain ⟨hzip, hnodup, hmem⟩ := writtenLines (first := first) hlen hsound
  obtain ⟨hdone, hwithin, hstored, hkept⟩ := State.writeLines_plain port rg src _ s hplain (fun x hx => (hzip x hx).1) hnodup
  refine ⟨_, Prod.ext rfl hdone, hwithin, fun k hk => hstored _ (hmem k hk), fun a ha => hkept a fun x hx => ?_⟩
  obtain ⟨-, k, hk, hxk⟩ := hzip x hx
  rw [hxk]
  exact ha k hk

theorem State.line_mem {s t : State} (h : t.mem = s.mem) (a : Nat) : t.line a = s.line a := by
  unfold State.line
  rw [h]

/-- Settles O25, by the responder, and at a memory port by the checks and the TYPE. -/
theorem requestsAreServed : Obligations.RequestsAreServed := by
  intro s e i hc he hi hrunning huntested p h answered
  have hserves := stoppedOr_serves hrunning huntested
  have hrd : ∀ env, (Instr.rd e i [] env).wf = true := fun env => by simp [Instr.wf, he]
  have hwr : ∀ env, (Instr.wr e i [] env).wf = true := fun env => by simp [Instr.wf, he]
  have hlines : hget h hLINES < 8 := Fld.get_lt ..
  refine ⟨fun port env hport hturn => ⟨fun st hcheck => ⟨fun hat => ?rdRefused, fun hat => ?wrRefused⟩,
    fun hcheck hup => ⟨fun hat hsound => ?rd, fun hat hheld hlen hclean => ⟨fun hfull hplain => ?wrWhole, fun d hd hbe hsound => ?wrLine⟩⟩⟩,
    fun off size req u hrange hreq hagent => ⟨fun hat hreached hpkt hlt => ?regRd, fun hat hreached hpkt hlt => ?regWr⟩, fun env hTolmor hat hbridge => ?msg⟩
  case rdRefused =>
    refine Answers.intro (exec_rd e i [] env s (hrd env) hc) ?_
    rw [hserves, serve_memory hat hport, memRequest_refused hturn hcheck]
    obtain ⟨hanswered, -, -, -, hwithin⟩ := s.answer_facts e i st 0 0 [] hi (memCheck_lt hcheck) (by decide)
    exact ⟨hanswered, hwithin.2 .mem rfl, hwithin⟩
  case wrRefused =>
    refine Answers.intro (exec_wr e i [] env s (hwr env) hc) ?_
    rw [hserves, serve_memory hat hport, memRequest_refused hturn hcheck]
    obtain ⟨hanswered, -, -, -, hwithin⟩ := s.answer_facts e i st 0 0 [] hi (memCheck_lt hcheck) (by decide)
    exact ⟨hanswered, hwithin.2 .mem rfl, hwithin⟩
  case rd =>
    refine Answers.intro (exec_rd e i [] env s (hrd env) hc) ?_
    rw [hserves, serve_memory hat hport, memRequest_read hturn hcheck hup (reqAt_type hat) hsound]
    exact s.answer_metered e i _ port _ _ hi (by decide) hlines
  case wrWhole =>
    refine Answers.intro (exec_wr e i [] env s (hwr env) hc) ?_
    obtain ⟨t, hwrite, hwithin, hstored, hkept⟩ := writeLines_whole s (first := reqLine h) (hget h hSRC) hplain hlen hclean
    rw [hserves, serve_memory hat hport, memRequest_write hturn hcheck hup (reqAt_type hat) hheld (by rw [hfull]; exact hwrite)]
    have hmil : t.mil = s.mil := hwithin.2 .mil rfl
    obtain ⟨hanswered, -, -, -, hlinesKept, hmetered⟩ := t.answer_metered e i (st := stOK) (lines := 0) [] port h (if hget h hBE = 0 then 0 else hget h hLINES)
      (by rw [hmil]; exact hi) (by decide) (by decide)
    rw [State.pkt_mil hmil, State.ep_mil hmil, hmil] at hanswered
    exact ⟨hanswered, fun k hk => (State.line_mem hlinesKept _).trans (hstored k hk), fun a ha => (State.line_mem hlinesKept _).trans (hkept a ha),
      hmetered.via rfl (hwithin.mono rfl)⟩
  case wrLine =>
    refine Answers.intro (exec_wr e i [] env s (hwr env) hc) ?_
    have hone : hget h hLINES = 1 := by rw [← hlen, hd]; rfl
    have hwrite := writeLine_stored (s := s) (src := hget h hSRC) (d := d) hbe hsound
    generalize hdata : (if hget h hBE = 2 ^ 64 - 1 then d else mergeBytes (hget h hBE) _ d) = data at hwrite
    rw [hserves, serve_memory hat hport, memRequest_write hturn hcheck hup (reqAt_type hat) hheld (t := s.storeLine port (reqRgn h) (reqLine h) data) (by
      rw [show (((List.range (hget (s.pkt i).hdr hLINES)).map (fun k => reqLine (s.pkt i).hdr + k)).zip (s.pkt i).flits) = [(reqLine h, (d, false))] by
        rw [show hget (s.pkt i).hdr hLINES = 1 from hone, show (s.pkt i).flits = [(d, false)] from hd]
        rfl]
      exact writeLines_one hwrite)]
    obtain ⟨hstored, hkept, hwithin⟩ := s.storeLine_facts port (reqRgn h) (reqLine h) data
    have hmil : (s.storeLine port (reqRgn h) (reqLine h) data).mil = s.mil := hwithin.2 .mil rfl
    obtain ⟨hanswered, -, -, -, hlinesKept, hmetered⟩ := (s.storeLine port (reqRgn h) (reqLine h) data).answer_metered e i (st := stOK) (lines := 0) [] port h
      (if hget h hBE = 0 then 0 else hget h hLINES) (by rw [hmil]; exact hi) (by decide) (by decide)
    rw [State.pkt_mil hmil, State.ep_mil hmil, hmil] at hanswered
    refine ⟨hanswered, ?_, fun a ha => (State.line_mem hlinesKept _).trans (hkept a ha), hmetered.via rfl (hwithin.mono rfl)⟩
    rw [← hdata] at hstored hlinesKept ⊢
    exact (State.line_mem hlinesKept _).trans hstored
  case regRd =>
    refine Answers.intro (exec_regRd e i u s (by simp [Instr.wf, he]) hc) ?_
    rw [hserves, regAgent_answers hrange hreq hagent false hat hreached]
    obtain ⟨hanswered, hval, hwithin⟩ := State.agentAnswer_facts _ e (some _) hlt
    rw [hpkt] at hanswered
    exact ⟨hanswered, hval _ rfl, hwithin⟩
  case regWr =>
    refine Answers.intro (exec_regWr e i u s (by simp [Instr.wf, he]) hc) ?_
    rw [hserves, regAgent_answers hrange hreq hagent true hat hreached]
    obtain ⟨hanswered, -, hwithin⟩ := State.agentAnswer_facts _ e none hlt
    rw [hpkt] at hanswered
    exact ⟨hanswered, hwithin⟩
  case msg =>
    subst hTolmor
    refine Answers.intro (exec_msg epTolmor i [] env s (by simp [Instr.wf, he]) hc) ?_
    rw [hserves, serve_tolmor hat hbridge]
    obtain ⟨hanswered, -, -, hwithin⟩ := s.respond_facts epTolmor i (if hget h hDEV = 0 then stREFUSED_OWNER else stBAD_ADDR) 0 (fun h => h)
      (fun h => mkPkt h [] .inQ false .tenant) hi (by split <;> decide) (by decide) (fun _ _ _ => rfl) (fun _ => rfl)
    exact ⟨hanswered, hwithin⟩

end Sys2Proof.Machine
end

section
/-! SUPPORT. Completions at the requester (R183–R185, R189, R191). -/

namespace Sys2Proof.Machine

/-! ### Responses -/

/-- R184, R191: what a response that answers an outstanding request leaves. -/
theorem accepted_facts (s : State) (e i tag peer : Nat) (p : Pkt) {status : Nat} (hlt : status < 16) (hpeer : peer < 1024) (htag : tag < 1024) :
    let t := ((s.setPkt i p).dropTrack e tag).noteCompletion e peer tag status
    t.pkt i = p ∧ t.trackAt e tag = none ∧ (∀ m, t.ep m = s.ep m) ∧ (∀ j, j ≠ i → t.pkt j = s.pkt j) ∧ (status = stOK → s.wordsBut t []) ∧
      (status ≠ stOK → t.rd32 (rEP_ERR_LAST e) = 2 ^ 31 + status * 2 ^ 27 + peer * 2 ^ 17 + tag * 2 ^ 7 ∧ t.bit (rIRQ_RAW (PageKind.milEp.addr e)) 0 = true) ∧
      Within [.regs, .agg, .mil] s t := by
  have hmil : (((s.setPkt i p).dropTrack e tag).noteCompletion e peer tag status).mil = ((s.setPkt i p).dropTrack e tag).mil := (State.noteCompletion_within ..).2 .mil rfl
  refine ⟨(State.pkt_mil hmil i).trans ((s.setPkt_pkt i p i).trans (if_pos rfl)), ?_, fun m => State.ep_mil hmil m,
    fun j hj => (State.pkt_mil hmil j).trans ((s.setPkt_pkt i p j).trans (if_neg hj)), fun hok => ?_, fun herr => ?_,
    (State.noteCompletion_within ..).via rfl ((State.dropTrack_within ..).via rfl ((State.setPkt_within ..).mono rfl))⟩
  · rw [State.trackAt_mil (congrArg Mil.track hmil), State.dropTrack_trackAt, if_pos rfl]
  · unfold State.noteCompletion
    rw [if_pos hok]
    exact State.wordsBut_of_regs _ rfl
  · obtain ⟨hlast, hirq, -⟩ := ((s.setPkt i p).dropTrack e tag).noteCompletion_facts e peer tag status herr
    rw [Nat.mod_eq_of_lt hlt, Nat.mod_eq_of_lt hpeer, Nat.mod_eq_of_lt htag] at hlast
    exact ⟨hlast, hirq⟩

/-- R185: a response that nothing waits for is discarded and counted. -/
theorem late_facts (s : State) {e i : Nat} {q : List Nat} (hq : (s.ep e).rspOut = i :: q) :
    let t := (s.killPkt e i).late e
    t.pkt i = Pkt.none ∧ (t.ep e).rspOut = q.filter (fun j => j ≠ i) ∧ t.fget (rEP_ERR_CNT e) fEP_ERR_CNT_LATE = satInc 8 (s.fget (rEP_ERR_CNT e) fEP_ERR_CNT_LATE) ∧
      s.wordsBut t [rEP_ERR_CNT e] ∧ (∀ m, m ≠ e → t.ep m = s.ep m) ∧ Within [.regs, .agg, .mil] s t := by
  obtain ⟨hpkts, hep, heps, -, -, hregs, -⟩ := s.killPkt_facts e i
  have hmil : ((s.killPkt e i).late e).mil = (s.killPkt e i).mil := (State.late_within ..).2 .mil rfl
  refine ⟨?_, ?_, ?_, State.wordsBut_trans (State.wordsBut_of_regs _ hregs) (State.wordsBut_finc _ (by decide) (List.mem_singleton.mpr rfl)),
    fun m hm => (State.ep_mil hmil m).trans (heps m hm), (State.late_within ..).via rfl ((State.killPkt_within ..).mono rfl)⟩
  · rw [State.pkt_mil hmil, hpkts, if_pos rfl]
  · rw [State.ep_mil hmil, hep, s.unqueue_ep, hq]
    show (i :: q).filter (fun j => j ≠ i) = _
    rw [List.filter_cons_of_neg (by simp)]
  · unfold State.late
    rw [fget_finc _ (by decide), State.fget_same hregs]
    rfl

/-! ### Requests that end without a response -/

section
variable {s : State} {e tag : Nat}

theorem completeTracked_none (hfree : s.trackAt e tag = none) (st : Nat) : s.completeTracked e tag st = s := by
  unfold State.completeTracked
  rw [hfree]

theorem completeTracked_some {k : Track} (hk : s.trackAt e tag = some k) (hfenced : k.fenced = false) (st : Nat) :
    s.completeTracked e tag st = (s.dropTrack e tag).completeLocal e k.hdr k.origin st := by
  unfold State.completeTracked
  rw [hk]
  exact if_neg (by simp [hfenced])

/-- R189: nothing is swept for an endpoint that can be reached. -/
theorem sweep_reachable (hreach : s.unreachable e = false) : s.sweep e = s := by
  have hnone : s.tracksTo e = [] := by
    unfold State.tracksTo
    rw [List.map_eq_nil_iff, List.filter_eq_nil_iff]
    intro x _
    simp [State.unreachFor, hreach]
  unfold State.sweep
  rw [hnone]
  rfl

end

/-- Settles O26, by what reaches the requester. -/
theorem requestsComplete : Obligations.RequestsComplete := by
  intro s e hc he
  refine ⟨fun c ty i q hmem hq hwaiting htype => ?response, fun tag htag => ⟨fun hfree => ?noRequest, fun k hk hfenced => ?timeout⟩, ?sweep⟩
  case response =>
    have hexec : exec c s = .next (s.takeRsp e ty) := by
      have hwf := decide_eq_true he
      simp only [List.mem_cons, List.not_mem_nil, or_false, Prod.mk.injEq] at hmem
      rcases hmem with ⟨rfl, rfl⟩ | ⟨rfl, rfl⟩ | ⟨rfl, rfl⟩ | ⟨rfl, rfl⟩
      · exact exec_rdRsp e s hwf hc
      · exact exec_wrRsp e s hwf hc
      · exact exec_msgRsp e s hwf hc
      · exact exec_regRsp e s hwf hc
    refine ⟨fun k hk hfenced horigin hsrc => Answers.intro hexec ?_, fun hnone => Answers.intro hexec ?_⟩
    · rw [s.takeRsp_hit e ty i q k hq hwaiting htype hk hfenced horigin hsrc]
      exact accepted_facts s e i _ _ _ (Fld.get_lt ..) (Fld.get_lt ..) (Fld.get_lt ..)
    · rw [s.takeRsp_late e ty i q hq hwaiting htype hnone]
      exact late_facts s hq
  case noRequest =>
    exact Answers.intro (exec_timeout e tag s (by simp [Instr.wf, he, htag]) hc) (completeTracked_none hfree _)
  case timeout =>
    refine Answers.intro (exec_timeout e tag s (by simp [Instr.wf, he, htag]) hc) ?_
    have htrack := completeTracked_trackAt s e tag stTIMEOUT (by decide) (by decide) e tag
    rw [if_pos rfl] at htrack
    rw [completeTracked_some hk hfenced] at htrack ⊢
    obtain ⟨hrsp, hpkts, hep, heps, -, -, hirq, -⟩ := (s.dropTrack e tag).completeLocal_facts e k.hdr k.origin stTIMEOUT (by decide) (by decide)
    obtain ⟨-, -, horigin, -, hstatus, hrtag, -⟩ := hrsp
    exact ⟨htrack, (congrArg Ep.rspOut hep :), hstatus, hrtag, horigin, hirq, hpkts, heps, (State.completeLocal_within ..).via rfl ((State.dropTrack_within ..).mono rfl)⟩
  case sweep =>
    refine Answers.intro (exec_sweep e s (by simp [Instr.wf, he]) hc) ?_
    obtain ⟨hswept, hfree⟩ := sweep_fold stUNREACHABLE (by decide) (by decide) (s.tracksTo e) s
    exact ⟨hswept, hfree, sweep_reachable, State.sweep_within ..⟩

end Sys2Proof.Machine
end

section
/-! SUPPORT. Region commands (R205, R217, R218, R220, R223, R230): what each writes and what it leaves. -/

namespace Sys2Proof.Machine

/-- The references to a slot by regions (R205). -/
def State.rgnRefs (s : State) (k : Nat) : Nat := s.fget (rSLUICE_SLOT 0 k) fSLUICE_SLOT_RGN_REFS

theorem State.keyCur_lt (s : State) (port i : Nat) : s.keyCur port i < 128 := s.fget_lt _ (by decide)

theorem State.keyNext_lt (s : State) (port i : Nat) : s.keyNext port i < 128 := s.fget_lt _ (by decide)

/-- What every region command leaves (R217): lines, keys, the other ports' work, and the words of every other region and slot. -/
def State.RegionKept (s t : State) (port i : Nat) : Prop :=
  t.mem.lines = s.mem.lines ∧ t.mem.slots = s.mem.slots ∧ (∀ p, p ≠ port → t.portWork p = s.portWork p) ∧
    s.wordsBut t [rRGN_CFG port i, rRGN_WM port i, rRGN_KEY port i, rHBMP_STAT port, rSLUICE_SLOT 0 (s.keyCur port i), rSLUICE_SLOT 0 (s.keyNext port i)] ∧
    Within [.regs, .agg, .mem] s t

section
variable {s : State} {port i : Nat} (hp : port < 66) (hi : i < 32)
include hp hi

/-- A command that queues a region: its state, a reference to one of its slots, and the queue. -/
theorem regionQueued_kept {v k : Nat} (w : PortWork) (hv : v < 8) (hk : k = s.keyCur port i ∨ k = s.keyNext port i) :
    let t := (((s.setRgnState port i v).wr32 (rRGN_WM port i) 0).rgnRef k true).setPortWork port w
    t.rgnState port i = v ∧ t.rgnWm port i = 0 ∧ t.portWork port = w ∧ t.rgnRefs k = (s.rgnRefs k + 1) % 2 ^ 12 ∧ s.RegionKept t port i := by
  have hlt : k < 128 := hk.elim (fun h => h ▸ s.keyCur_lt port i) (fun h => h ▸ s.keyNext_lt port i)
  obtain ⟨hstate, hwm, hwork, hrefs, hlines, hslots, hothers, hwords, hwithin⟩ := s.regionQueued_facts port i v k w hv hp hi hlt
  refine ⟨hstate, hwm, hwork, hrefs, hlines, hslots, hothers, State.wordsBut_mono hwords ?_, hwithin⟩
  rcases hk with rfl | rfl <;> simp

/-- R218: CREATE enters INIT and queues the region for zeroing. -/
theorem rgnCreate_facts :
    let t := s.rgnCreate port i
    t.rgnState port i = 1 ∧ t.rgnWm port i = 0 ∧ t.portWork port = { s.portWork port with zeroQ := (s.portWork port).zeroQ ++ [i] } ∧
      t.rgnRefs (s.keyCur port i) = (s.rgnRefs (s.keyCur port i) + 1) % 2 ^ 12 ∧ s.RegionKept t port i :=
  regionQueued_kept hp hi _ (by decide) (.inl rfl)

/-- R220: REKEY enters WALK and queues the region for the walker. -/
theorem rgnRekey_facts :
    let t := s.rgnRekey port i
    t.rgnState port i = 3 ∧ t.rgnWm port i = 0 ∧ t.portWork port = { s.portWork port with walkQ := (s.portWork port).walkQ ++ [i] } ∧
      t.rgnRefs (s.keyNext port i) = (s.rgnRefs (s.keyNext port i) + 1) % 2 ^ 12 ∧ s.RegionKept t port i :=
  regionQueued_kept hp hi _ (by decide) (.inr rfl)

/-- R218: what DESTROY gives back: the reference to KEY_CUR and, in WALK and SETTLE, the one to KEY_NEXT. -/
def State.rgnRelease (s : State) (port i : Nat) : State :=
  let s1 := s.rgnRef (s.keyCur port i) false
  if s.rgnState port i = 3 ∨ s.rgnState port i = 4 then s1.rgnRef (s.keyNext port i) false else s1

omit hp hi in
theorem State.rgnRefs_wordsBut {s t : State} {l : List Nat} (h : s.wordsBut t l) {k : Nat} (hk : l.contains (rSLUICE_SLOT 0 k) = false) : t.rgnRefs k = s.rgnRefs k :=
  State.fget_wordsBut h _ hk (by decide)

omit hp hi in
theorem rgnRelease_facts :
    let t := s.rgnRelease port i
    (s.keyCur port i ≠ s.keyNext port i → t.rgnRefs (s.keyCur port i) = (s.rgnRefs (s.keyCur port i) - 1) % 2 ^ 12 ∧
      t.rgnRefs (s.keyNext port i) = if s.rgnState port i = 3 ∨ s.rgnState port i = 4 then (s.rgnRefs (s.keyNext port i) - 1) % 2 ^ 12 else s.rgnRefs (s.keyNext port i)) ∧
    s.wordsBut t [rSLUICE_SLOT 0 (s.keyCur port i), rSLUICE_SLOT 0 (s.keyNext port i)] ∧ t.mem = s.mem ∧ Within [.regs, .agg] s t := by
  obtain ⟨hcurWords, hcurRefs, hcurMem, hcurWithin⟩ := s.rgnRef_facts (s.keyCur port i) false
  obtain ⟨hnextWords, hnextRefs, hnextMem, hnextWithin⟩ := (s.rgnRef (s.keyCur port i) false).rgnRef_facts (s.keyNext port i) false
  have hbefore : s.keyCur port i ≠ s.keyNext port i → (s.rgnRef (s.keyCur port i) false).rgnRefs (s.keyNext port i) = s.rgnRefs (s.keyNext port i) :=
    fun hne => State.rgnRefs_wordsBut hcurWords (by simpa using slot_apart _ _ hne.symm)
  unfold State.rgnRelease
  dsimp only
  split
  · refine ⟨fun hne => ⟨?_, ?_⟩, State.wordsBut_trans (State.wordsBut_mono hcurWords (by simp)) (State.wordsBut_mono hnextWords (by simp)), hnextMem.trans hcurMem,
      hnextWithin.via rfl hcurWithin⟩
    · exact (State.rgnRefs_wordsBut hnextWords (by simpa using slot_apart _ _ hne)).trans hcurRefs
    · refine hnextRefs.trans ?_
      rw [← hbefore hne]
      rfl
  · exact ⟨fun hne => ⟨hcurRefs, hbefore hne⟩, State.wordsBut_mono hcurWords (by simp), hcurMem, hcurWithin⟩

/-- The work of a port with one region taken out of the zeroing and the walk (R218). -/
def PortWork.without (w : PortWork) (i : Nat) : PortWork :=
  { w with zeroQ := w.zeroQ.filter (fun j => j ≠ i), walkQ := w.walkQ.filter (fun j => j ≠ i), held := if w.walkQ.head? = some i then none else w.held }

/-- R218: DESTROY enters FREE at once. -/
theorem rgnDestroy_facts (hstate : s.rgnState port i ≠ 0) :
    let t := s.rgnDestroy port i
    t.rgnState port i = 0 ∧ t.rgnWm port i = 0 ∧ t.portWork port = (s.portWork port).without i ∧
      (s.keyCur port i ≠ s.keyNext port i → t.rgnRefs (s.keyCur port i) = (s.rgnRefs (s.keyCur port i) - 1) % 2 ^ 12 ∧
        t.rgnRefs (s.keyNext port i) = if s.rgnState port i = 3 ∨ s.rgnState port i = 4 then (s.rgnRefs (s.keyNext port i) - 1) % 2 ^ 12 else s.rgnRefs (s.keyNext port i)) ∧
      s.RegionKept t port i := by
  have hdestroy : s.rgnDestroy port i = (((s.rgnRelease port i).setRgnState port i 0).wr32 (rRGN_WM port i) 0).setPortWork port ((s.portWork port).without i) := if_neg hstate
  obtain ⟨hrefs, hrelWords, hrelMem, hrelWithin⟩ := rgnRelease_facts (s := s) (port := port) (i := i)
  have hapart := fun k hk => mem_apart port i k hp hi hk
  obtain ⟨hzero, hwm, hregWords, hregMem, hregWithin⟩ := (s.rgnRelease port i).setRegion_facts port i 0 (by decide) (hapart 0 (by decide)).1
  obtain ⟨hwords, hlines, hslots, hwork, hothers, hwithin⟩ :=
    (((s.rgnRelease port i).setRgnState port i 0).wr32 (rRGN_WM port i) 0).setPortWork_facts port ((s.portWork port).without i)
  have hmem := hregMem.trans hrelMem
  have hkeep : ∀ k, k < 128 → State.rgnRefs _ k = (s.rgnRelease port i).rgnRefs k := fun k hk => by
    obtain ⟨-, -, -, hcfg, -, -, hwmk, -, -, hstat, -⟩ := hapart k hk
    exact (State.rgnRefs_wordsBut hwords (by simpa using hstat.symm)).trans (State.rgnRefs_wordsBut hregWords (by simpa using ⟨hcfg.symm, hwmk.symm⟩))
  obtain ⟨-, -, hcfgStat, -, -, hwmStat, -⟩ := hapart 0 (by decide)
  rw [hdestroy]
  refine ⟨?_, ?_, hwork, fun hne => ?_, hlines.trans (congrArg Mem.lines hmem), hslots.trans (congrArg Mem.slots hmem), fun p hne => ?_, ?_,
    hwithin.via rfl ((hregWithin.via rfl hrelWithin).mono rfl)⟩
  · exact (State.fget_wordsBut hwords _ (by simpa using hcfgStat) (by decide)).trans hzero
  · exact (State.fget_wordsBut hwords _ (by simpa using hwmStat) (by decide)).trans hwm
  · rw [hkeep _ (s.keyCur_lt port i), hkeep _ (s.keyNext_lt port i)]
    exact hrefs hne
  · rw [hothers p hne]
    unfold State.portWork
    rw [hmem]
  · exact State.wordsBut_trans (State.wordsBut_mono hrelWords (by simp)) (State.wordsBut_trans (State.wordsBut_mono hregWords (by simp)) (State.wordsBut_mono hwords (by simp)))

/-- R223: FINISH makes KEY_NEXT the key and enters READY. -/
theorem rgnFinish_facts :
    let t := s.rgnFinish port i
    t.rgnState port i = 2 ∧ t.rgnWm port i = 0 ∧ t.keyCur port i = s.keyNext port i ∧ t.mem = s.mem ∧
      t.rgnRefs (s.keyCur port i) = (s.rgnRefs (s.keyCur port i) - 1) % 2 ^ 12 ∧ s.RegionKept t port i := by
  obtain ⟨hcfgWm, hcfgKey, -, hcfgSlot, hwmKey, -, hwmSlot, -, hkeySlot, -⟩ := mem_apart port i (s.keyCur port i) hp hi (s.keyCur_lt port i)
  obtain ⟨hrelWords, hrelRefs, hrelMem, hrelWithin⟩ := s.rgnRef_facts (s.keyCur port i) false
  have hkeyWords := State.wordsBut_fset (s.rgnRef (s.keyCur port i) false) (a := rRGN_KEY port i) (f := fRGN_KEY_KEY_CUR) (l := [rRGN_KEY port i]) (s.keyNext port i)
    (by decide) (List.mem_singleton.mpr rfl)
  have hwmWords := State.wordsBut_wr32 ((s.rgnRef (s.keyCur port i) false).fset (rRGN_KEY port i) fRGN_KEY_KEY_CUR (s.keyNext port i)) (a := rRGN_WM port i)
    (l := [rRGN_WM port i]) 0 (List.mem_singleton.mpr rfl)
  have hcfgWords := State.wordsBut_fset (((s.rgnRef (s.keyCur port i) false).fset (rRGN_KEY port i) fRGN_KEY_KEY_CUR (s.keyNext port i)).wr32 (rRGN_WM port i) 0)
    (a := rRGN_CFG port i) (f := fRGN_CFG_STATE) (l := [rRGN_CFG port i]) 2 (by decide) (List.mem_singleton.mpr rfl)
  have hmem : (s.rgnFinish port i).mem = s.mem := (State.rgnFinish_within ..).2 .mem rfl
  refine ⟨?_, ?_, ?_, hmem, ?_, congrArg Mem.lines hmem, congrArg Mem.slots hmem, fun p _ => ?_, ?_, (State.rgnFinish_within ..).mono rfl⟩
  · exact State.fget_fset _ _ _ _ (by decide)
  · exact rd_wr_zero _ _ port i (hcfgWords _ (by simpa using hcfgWm.symm))
  · refine (State.fget_wordsBut hcfgWords _ (by simpa using hcfgKey.symm) (by decide)).trans ((State.fget_wordsBut hwmWords _ (by simpa using hwmKey.symm) (by decide)).trans ?_)
    rw [State.fget_fset _ _ _ _ (by decide)]
    exact Nat.mod_eq_of_lt (s.keyNext_lt port i)
  · exact (State.rgnRefs_wordsBut hcfgWords (by simpa using hcfgSlot.symm)).trans
      ((State.rgnRefs_wordsBut hwmWords (by simpa using hwmSlot.symm)).trans ((State.rgnRefs_wordsBut hkeyWords (by simpa using hkeySlot.symm)).trans hrelRefs))
  · unfold State.portWork
    rw [hmem]
  · exact State.wordsBut_trans (State.wordsBut_mono hrelWords (by simp)) (State.wordsBut_trans (State.wordsBut_mono hkeyWords (by simp))
      (State.wordsBut_trans (State.wordsBut_mono hwmWords (by simp)) (State.wordsBut_mono hcfgWords (by simp))))

/-- R230: a region command that is not allowed is counted at its port. -/
theorem rgnRefused_facts (req : Req) :
    let t := s.refuse req (rRGN_CMD port i) causeRule
    t.mem = s.mem ∧ t.bit (rIRQ_RAW (PageKind.hbmp.addr port)) 31 = true ∧ t.word (rRGN_CFG port i) = s.word (rRGN_CFG port i) := by
  have haddr : rRGN_CMD port i = PageKind.hbmp.addr port + (0x114 + 0x20 * i) := by
    unfold rRGN_CMD
    omega
  rw [haddr]
  obtain ⟨hirq, hwords⟩ := s.refuse_plain req (PageKind.hbmp.addr port) (0x114 + 0x20 * i) causeRule (hbmp_page port _ hp (by omega))
  refine ⟨State.refuse_mem .., hirq, hwords _ ?_⟩
  simp only [rRGN_CFG, rERR_COUNT, rIRQ_RAW, rERR_FIRST, List.contains_cons, List.contains_nil, Bool.or_false, Bool.or_eq_false_iff, beq_eq_false_iff_ne]
  omega

end

/-- What a command leaves, against the state before its page was touched. -/
theorem State.RegionKept.afterView {s t : State} {req : Req} {q port i : Nat} (h : (s.clearView req q).RegionKept t port i) :
    t.mem.lines = s.mem.lines ∧ t.mem.slots = s.mem.slots ∧ (∀ p, p ≠ port → t.portWork p = s.portWork p) ∧
      s.wordsBut t [rRGN_CFG port i, rRGN_WM port i, rRGN_KEY port i, rHBMP_STAT port, rSLUICE_SLOT 0 (s.keyCur port i), rSLUICE_SLOT 0 (s.keyNext port i)] ∧
      Within [.regs, .views, .agg, .mem] s t := by
  obtain ⟨hlines, hslots, hothers, hwords, hwithin⟩ := h
  exact ⟨hlines, hslots, hothers, hwords, hwithin.via rfl ((s.clearView_within req q).mono rfl)⟩

/-- Settles O28, by the command and whether the region's state allows it. -/
theorem regionCommands : Obligations.RegionCommands := by
  intro s req port i hc hv hp hi ht w kc kn refs kept refused
  have hwf : (req.valid && decide (port < 66) && decide (i < 32)) = true := by simp [hv, hp, hi]
  have hput : ∀ v, ∃ q, s.putReg req (rRGN_CMD port i) v = (s.clearView req q).rgnCmd req port i v := fun v => s.putRgnCmd req port i v hv hp hi ht
  have hrefused : ∀ q, refused ((s.clearView req q).refuse req (rRGN_CMD port i) causeRule) := by
    intro q
    obtain ⟨hmem, hirq, hcfg⟩ := rgnRefused_facts (s := s.clearView req q) hp hi req
    exact ⟨hmem, hirq, hcfg, (State.refuse_within ..).via rfl ((s.clearView_within req q).mono rfl)⟩
  refine ⟨fun hcan => ?create, fun hcan => ?createRefused, fun hfree => ?destroyFree, fun hstate => ?destroy, fun hcan => ?rekey, fun hcan => ?rekeyRefused,
    fun hsettle => ?finish, fun hsettle => ?finishRefused⟩
  case create =>
    obtain ⟨q, hwrite⟩ := hput 1
    refine Answers.intro (exec_create req port i s hwf hc) ?_
    rw [hwrite, State.rgnCmd_create, if_pos (by exact hcan)]
    obtain ⟨hstate, hwm, hwork, hrefs, hkept⟩ := rgnCreate_facts (s := s.clearView req q) hp hi
    exact ⟨hstate, hwm, hwork, hrefs, hkept.afterView⟩
  case createRefused =>
    obtain ⟨q, hwrite⟩ := hput 1
    refine Answers.intro (exec_create req port i s hwf hc) ?_
    rw [hwrite, State.rgnCmd_create, if_neg (by exact Bool.eq_false_iff.mp hcan)]
    exact hrefused q
  case destroyFree =>
    obtain ⟨q, hwrite⟩ := hput 2
    refine Answers.intro (exec_destroy req port i s hwf hc) ?_
    rw [hwrite, State.rgnCmd_destroy, show (s.clearView req q).rgnDestroy port i = s.clearView req q from if_pos hfree]
    exact ⟨rfl, State.wordsBut_of_regs _ rfl, s.clearView_within req q⟩
  case destroy =>
    obtain ⟨q, hwrite⟩ := hput 2
    refine Answers.intro (exec_destroy req port i s hwf hc) ?_
    rw [hwrite, State.rgnCmd_destroy]
    obtain ⟨hfree, hwm, hwork, hrefs, hkept⟩ := rgnDestroy_facts (s := s.clearView req q) hp hi hstate
    exact ⟨hfree, hwm, hwork, hrefs, hkept.afterView⟩
  case rekey =>
    obtain ⟨q, hwrite⟩ := hput 4
    refine Answers.intro (exec_rekey req port i s hwf hc) ?_
    rw [hwrite, State.rgnCmd_rekey, if_pos (by exact hcan)]
    obtain ⟨hstate, hwm, hwork, hrefs, hkept⟩ := rgnRekey_facts (s := s.clearView req q) hp hi
    exact ⟨hstate, hwm, hwork, hrefs, hkept.afterView⟩
  case rekeyRefused =>
    obtain ⟨q, hwrite⟩ := hput 4
    refine Answers.intro (exec_rekey req port i s hwf hc) ?_
    rw [hwrite, State.rgnCmd_rekey, if_neg (by exact Bool.eq_false_iff.mp hcan)]
    exact hrefused q
  case finish =>
    obtain ⟨q, hwrite⟩ := hput 8
    refine Answers.intro (exec_finish req port i s hwf hc) ?_
    rw [hwrite, State.rgnCmd_finish, if_pos (by exact hsettle)]
    obtain ⟨hstate, hwm, hkey, hmem, hrefs, hkept⟩ := rgnFinish_facts (s := s.clearView req q) hp hi
    exact ⟨hstate, hwm, hkey, congrArg (fun m : Mem => smGet PortWork.idle m.work port) hmem, hrefs, hkept.afterView⟩
  case finishRefused =>
    obtain ⟨q, hwrite⟩ := hput 8
    refine Answers.intro (exec_finish req port i s hwf hc) ?_
    rw [hwrite, State.rgnCmd_finish, if_neg (by exact hsettle)]
    exact hrefused q

end Sys2Proof.Machine
end

section
/-! SUPPORT. Zeroing and the walk (R206, R216, R218–R220, R222). -/

namespace Sys2Proof.Machine

/-- The words that counting wear under a slot touches (R216). -/
def wearWords (k : Nat) : List Nat := [rSLUICE_WEAR 0 k, rSLUICE_WEAR 0 k + 4, rSLUICE_SLOT 0 k, rIRQ_RAW (PageKind.sluiceCtl.addr 0)]

/-- A region's registers lie apart from the Sluice's. -/
theorem region_apart_wear {port i k : Nat} (hp : port < 66) (hi : i < 32) (hk : k < 128) :
    (wearWords k).contains (rRGN_CFG port i) = false ∧ (wearWords k).contains (rRGN_WM port i) = false := by
  simp only [wearWords, rRGN_CFG, rRGN_WM, rSLUICE_WEAR, rSLUICE_SLOT, rIRQ_RAW, hbmp_addr, sluice_addr, List.contains_cons, List.contains_nil, Bool.or_false,
    Bool.or_eq_false_iff, beq_eq_false_iff_ne]
  omega

theorem State.rgnState_wordsBut {s t : State} {l : List Nat} (h : s.wordsBut t l) {port i : Nat} (hl : l.contains (rRGN_CFG port i) = false) :
    t.rgnState port i = s.rgnState port i := State.fget_wordsBut h _ hl (by decide)

theorem State.rgnWm_wordsBut {s t : State} {l : List Nat} (h : s.wordsBut t l) {port i : Nat} (hl : l.contains (rRGN_WM port i) = false) :
    t.rgnWm port i = s.rgnWm port i := State.fget_wordsBut h _ hl (by decide)

/-- IRQ_RAW of a port's page is not among the words that its work writes. -/
theorem irqRaw_apart_stat (port : Nat) : [rHBMP_STAT port].contains (rIRQ_RAW (PageKind.hbmp.addr port)) = false := by
  simp [rIRQ_RAW, rHBMP_STAT]

/-- An interrupt of a port's page raised, then its work written: the interrupt is pending, and CFG and WM of a region stay. -/
theorem irq_setPortWork (s : State) {port i b : Nat} (hp : port < 66) (hi : i < 32) (hb : b < 32) (w : PortWork) :
    let t := (s.irq (PageKind.hbmp.addr port) b).setPortWork port w
    t.bit (rIRQ_RAW (PageKind.hbmp.addr port)) b = true ∧ t.rgnState port i = s.rgnState port i ∧ t.rgnWm port i = s.rgnWm port i ∧ t.portWork port = w ∧
      t.mem.lines = s.mem.lines ∧ t.mem.slots = s.mem.slots := by
  obtain ⟨-, -, hcfgStat, -, -, hwmStat, -, -, -, -, -, hcfgIrq, hwmIrq⟩ := mem_apart port i 0 hp hi (by decide)
  obtain ⟨hwords, hlines, hslots, hwork, -, -⟩ := (s.irq (PageKind.hbmp.addr port) b).setPortWork_facts port w
  have hirqWords := s.wordsBut_irq (p := PageKind.hbmp.addr port) (l := [PageKind.hbmp.addr port + 0x010]) hb (List.mem_singleton.mpr rfl)
  have hmem : (s.irq (PageKind.hbmp.addr port) b).mem = s.mem := (State.irq_within ..).2 .mem rfl
  refine ⟨?_, ?_, ?_, hwork, hlines.trans (congrArg Mem.lines hmem), hslots.trans (congrArg Mem.slots hmem)⟩
  · rw [State.bit_wordsBut hwords _ _ (irqRaw_apart_stat port) hb, State.bit_irq _ _ _ _ _ hb hb, if_pos ⟨rfl, rfl⟩]
  · exact (State.rgnState_wordsBut hwords (by simpa using hcfgStat)).trans (State.rgnState_wordsBut hirqWords (by simpa using hcfgIrq))
  · exact (State.rgnWm_wordsBut hwords (by simpa using hwmStat)).trans (State.rgnWm_wordsBut hirqWords (by simpa using hwmIrq))

/-- Wear counted only where the region is encrypted (R216). -/
theorem wearIf_facts (s : State) {port i k : Nat} (crypt : Bool) (hp : port < 66) (hi : i < 32) (hk : k < 128) (n : Nat) :
    let t := if crypt then s.wearUp k n else s
    t.rgnState port i = s.rgnState port i ∧ t.rgnWm port i = s.rgnWm port i ∧ t.mem = s.mem := by
  obtain ⟨hcfg, hwm⟩ := region_apart_wear (port := port) (i := i) hp hi hk
  cases crypt with
  | false => exact ⟨rfl, rfl, rfl⟩
  | true => exact ⟨State.rgnState_wordsBut (s.wearUp_words k n) hcfg, State.rgnWm_wordsBut (s.wearUp_words k n) hwm, s.wearUp_mem k n⟩

/-! ### Zeroing -/

section
variable {s : State} {port : Nat}

theorem zeroingEnd_unreached (hup : s.memUp port = false) : s.zeroingEnd port = s := by
  unfold State.zeroingEnd
  dsimp only
  split
  · rfl
  · rw [if_pos (by simp [hup])]

/-- The lines of a region read 0 after it is zeroed, and no other line changes (R218). -/
theorem zeroRegion_line (s : State) (port i a : Nat) : (s.zeroRegion port i).line a =
    if s.lineKey port i 0 ≤ a ∧ a < s.lineKey port i 0 + 32768 * s.rgnSize port i then HLine.zero else s.line a := by
  unfold State.zeroRegion State.line
  exact (smGet_smClear ..).trans (ite_congr (propext decide_eq_true_iff) (fun _ => rfl) (fun _ => rfl))

/-- R218: when zeroing ends, the region's lines read 0, it is READY, and the next one begins. -/
theorem zeroingEnd_facts {i : Nat} {q : List Nat} (hp : port < 66) (hi : i < 32) (hup : s.memUp port = true) (hq : (s.portWork port).zeroQ = i :: q) :
    let t := s.zeroingEnd port
    t.rgnState port i = 2 ∧ t.portWork port = { s.portWork port with zeroQ := q } ∧ t.bit (rIRQ_RAW (PageKind.hbmp.addr port)) 2 = true ∧
      t.mem.lines = (s.zeroRegion port i).mem.lines ∧ t.mem.slots = s.mem.slots := by
  have hend : s.zeroingEnd port =
      ((if s.rgnCrypt port i then ((s.zeroRegion port i).setRgnState port i 2).wearUp (s.keyCur port i) (32768 * s.rgnSize port i)
        else (s.zeroRegion port i).setRgnState port i 2).irq (PageKind.hbmp.addr port) 2).setPortWork port { s.portWork port with zeroQ := q } := by
    unfold State.zeroingEnd
    dsimp only
    rw [hq]
    exact if_neg (by simp [hup])
  rw [hend]
  obtain ⟨hstate, -, hmem⟩ := wearIf_facts ((s.zeroRegion port i).setRgnState port i 2) (i := i) (s.rgnCrypt port i) hp hi (s.keyCur_lt port i) (32768 * s.rgnSize port i)
  obtain ⟨hirq, hcfg, -, hwork, hlines, hslots⟩ := irq_setPortWork
    (if s.rgnCrypt port i then ((s.zeroRegion port i).setRgnState port i 2).wearUp (s.keyCur port i) (32768 * s.rgnSize port i)
      else (s.zeroRegion port i).setRgnState port i 2) hp hi (b := 2) (by decide) { s.portWork port with zeroQ := q }
  have hset : ((s.zeroRegion port i).setRgnState port i 2).mem = (s.zeroRegion port i).mem := State.fset_mem ..
  refine ⟨hcfg.trans (hstate.trans ?_), hwork, hirq, hlines.trans (congrArg Mem.lines (hmem.trans hset)),
    (hslots.trans (congrArg Mem.slots (hmem.trans hset))).trans rfl⟩
  unfold State.rgnState State.setRgnState
  rw [State.fget_fset _ _ _ _ (by decide)]
  rfl

/-! ### The walk -/

theorem walkTake_unreached (hup : s.memUp port = false) (faults : List (Nat × LineFault)) : s.walkTake port faults = s := by
  unfold State.walkTake
  dsimp only
  split
  · rw [if_pos (by simp [hup])]
  · rfl

theorem walkDone_unreached (hup : s.memUp port = false) : s.walkDone port = s := by
  unfold State.walkDone
  dsimp only
  split
  · rw [if_pos (by simp [hup])]
  · rfl

/-- R219: a sector without a bad line is held for the walk. -/
theorem walkTake_sound {i : Nat} {q : List Nat} (hup : s.memUp port = true) (hheld : (s.portWork port).held = none) (hq : (s.portWork port).walkQ = i :: q)
    (hsound : ∀ k, k < s.sectorLines port i → (s.line (s.lineKey port i (s.rgnWm port i * s.sectorLines port i + k))).poison = false ∧
      (s.rgnTag port i = true → s.keyMatches port i (s.rgnWm port i * s.sectorLines port i + k) = true)) :
    s.walkTake port [] = s.setPortWork port { s.portWork port with held := some [] } := by
  have hlines := s.walkLines_sound port i ((List.range (s.sectorLines port i)).map (fun k => s.rgnWm port i * s.sectorLines port i + k)) fun l hl => by
    obtain ⟨k, hk, rfl⟩ := List.mem_map.mp hl
    exact hsound k (List.mem_range.mp hk)
  unfold State.walkTake
  dsimp only
  rw [hheld, hq]
  dsimp only
  rw [if_neg (by simp [hup]), hlines]

/-- Whether a stored line is of the sector that a walk writes back (R220). -/
def State.walked (s : State) (port i : Nat) (x : Nat × HLine) : Bool :=
  decide (s.lineKey port i (s.rgnWm port i * s.sectorLines port i) ≤ x.1 ∧ x.1 < s.lineKey port i (s.rgnWm port i * s.sectorLines port i) + s.sectorLines port i) &&
    !x.2.poison && decide (x.2.kid ≠ 0)

/-- The state with the lines of a sector under KEY_NEXT (R220). -/
def State.walkedLines (s : State) (port i : Nat) : State :=
  s.mem.lines.foldl (fun t x => if s.walked port i x then t.setLine x.1 { x.2 with kid := (s.slot (s.keyNext port i)).kid } else t) s

/-- R220: a sector written back keeps every line's data and poison, and puts its sound encrypted lines under KEY_NEXT. -/
theorem walkedLines_facts (i : Nat) (hcanon : s.canonical = true) :
    (∀ a, ((s.walkedLines port i).line a).plain = (s.line a).plain ∧ ((s.walkedLines port i).line a).poison = (s.line a).poison) ∧
      (∀ l, s.rgnWm port i * s.sectorLines port i ≤ l → l < (s.rgnWm port i + 1) * s.sectorLines port i → (s.line (s.lineKey port i l)).kid ≠ 0 →
        (s.line (s.lineKey port i l)).poison = false → ((s.walkedLines port i).line (s.lineKey port i l)).kid = (s.slot (s.keyNext port i)).kid) ∧
      Within [.mem] s (s.walkedLines port i) := by
  have hrising : smRising none s.mem.lines = true := by
    unfold State.canonical at hcanon
    simp only [Bool.and_eq_true, smWf] at hcanon
    obtain ⟨⟨⟨⟨⟨⟨-, hlines⟩, -⟩, -⟩, -⟩, -⟩, -⟩ := hcanon
    exact hlines.1
  have hread : ∀ x ∈ s.mem.lines, s.line x.1 = x.2 := fun x hx => (smGet_mem HLine.zero hrising x hx).2
  obtain ⟨hwritten, hkept, hwithin⟩ := walkFold (s.walked port i) (s.slot (s.keyNext port i)).kid s.mem.lines s (smRising_nodup hrising)
  refine ⟨fun a => ?_, fun l hlo hhi hkid hclean => ?_, hwithin⟩
  · by_cases ha : ∃ x ∈ s.mem.lines, x.1 = a ∧ s.walked port i x = true
    · obtain ⟨x, hx, rfl, hwalked⟩ := ha
      have hline : (s.walkedLines port i).line x.1 = _ := hwritten x hx hwalked
      rw [hline, hread x hx]
      exact ⟨rfl, rfl⟩
    · have hline : (s.walkedLines port i).line a = s.line a :=
        hkept a fun x hx hxa => Bool.eq_false_iff.mpr fun hw => ha ⟨x, hx, hxa, hw⟩
      rw [hline]
      exact ⟨rfl, rfl⟩
  · obtain ⟨x, hx, hxl⟩ := smGet_listed HLine.zero s.mem.lines (s.lineKey port i l) fun h => hkid (congrArg HLine.kid h)
    have hxline : s.line (s.lineKey port i l) = x.2 := hxl ▸ hread x hx
    rw [hxline] at hkid hclean
    have hwalked : s.walked port i x = true := by
      rw [Nat.add_mul, Nat.one_mul] at hhi
      unfold State.walked State.lineKey
      unfold State.lineKey at hxl
      rw [hxl, hclean]
      simp only [Bool.not_false, Bool.and_true, Bool.and_eq_true, decide_eq_true_eq]
      exact ⟨by omega, hkid⟩
    rw [← hxl]
    have hline : (s.walkedLines port i).line x.1 = _ := hwritten x hx hwalked
    rw [hline]

/-- The state whose walked sector is under KEY_NEXT, with the wear counted and WM at the next sector (R216, R220). -/
def State.walkedOn (s : State) (port i n : Nat) : State :=
  ((s.walkedLines port i).wearUp (s.keyNext port i) n).wr32 (rRGN_WM port i) (s.rgnWm port i + 1)

theorem walkedOn_facts {i : Nat} (hp : port < 66) (hi : i < 32) (hwm : s.rgnWm port i + 1 < 2 ^ 27) (hwithin : Within [.mem] s (s.walkedLines port i)) (n : Nat) :
    (s.walkedOn port i n).rgnWm port i = s.rgnWm port i + 1 ∧ (s.walkedOn port i n).rgnState port i = s.rgnState port i ∧
      (s.walkedOn port i n).mem = (s.walkedLines port i).mem := by
  obtain ⟨hapart, -⟩ := mem_apart port i 0 hp hi (by decide)
  have hregs : (s.walkedLines port i).regs = s.regs := hwithin.2 .regs rfl
  refine ⟨?_, ?_, ((State.wr32_within ..).2 .mem rfl).trans (State.wearUp_mem ..)⟩
  · have hfits : s.rgnWm port i + 1 < 2 ^ 32 := by omega
    unfold State.rgnWm State.walkedOn
    rw [State.fget_word _ _ (by decide), State.rd32_wr32, Nat.mod_eq_of_lt hfits]
    exact (congrArg (· % 2 ^ 27) (Nat.div_one _)).trans (Nat.mod_eq_of_lt hwm)
  · calc (s.walkedOn port i n).rgnState port i
        = ((s.walkedLines port i).wearUp (s.keyNext port i) n).rgnState port i :=
          State.rgnState_wordsBut (State.wordsBut_wr32 (l := [rRGN_WM port i]) _ _ (List.mem_singleton.mpr rfl)) (by simpa using hapart)
      _ = (s.walkedLines port i).rgnState port i := State.rgnState_wordsBut ((s.walkedLines port i).wearUp_words (s.keyNext port i) n)
          (region_apart_wear hp hi (s.keyNext_lt port i)).1
      _ = s.rgnState port i := State.fget_same hregs ..

theorem walkDone_eq {i : Nat} {q bad : List Nat} (hup : s.memUp port = true) (hcrypt : s.rgnCrypt port i = true)
    (hheld : (s.portWork port).held = some bad) (hq : (s.portWork port).walkQ = i :: q) :
    s.walkDone port = if s.rgnWm port i + 1 < s.sectorCount port i then
        (s.walkedOn port i (s.sectorLines port i - bad.length)).setPortWork port { s.portWork port with held := none }
      else (((s.walkedOn port i (s.sectorLines port i - bad.length)).setRgnState port i 4).irq (PageKind.hbmp.addr port) 1).setPortWork port
        { s.portWork port with held := none, walkQ := q } := by
  unfold State.walkDone
  dsimp only
  rw [hheld, hq]
  dsimp only
  rw [if_neg (by simp [hup]), if_pos hcrypt]
  rfl

/-- R220: a walked sector raises WM, and the last one ends the walk in SETTLE with IRQ_RAW[1]. -/
theorem walkDone_facts {i : Nat} {q bad : List Nat} (hp : port < 66) (hi : i < 32) (hup : s.memUp port = true) (hcrypt : s.rgnCrypt port i = true)
    (hheld : (s.portWork port).held = some bad) (hq : (s.portWork port).walkQ = i :: q) (hwm : s.rgnWm port i + 1 < 2 ^ 27)
    (hwithin : Within [.mem] s (s.walkedLines port i)) :
    let t := s.walkDone port
    let last := decide (s.sectorCount port i ≤ s.rgnWm port i + 1)
    t.rgnWm port i = s.rgnWm port i + 1 ∧ t.rgnState port i = (if last then 4 else s.rgnState port i) ∧
      t.portWork port = { s.portWork port with held := none, walkQ := if last then q else i :: q } ∧
      (last = true → t.bit (rIRQ_RAW (PageKind.hbmp.addr port)) 1 = true) ∧ t.mem.lines = (s.walkedLines port i).mem.lines := by
  obtain ⟨hcfgWm, -, hcfgStat, -, -, hwmStat, -, -⟩ := mem_apart port i 0 hp hi (by decide)
  obtain ⟨honWm, honState, honMem⟩ := walkedOn_facts hp hi hwm hwithin (s.sectorLines port i - bad.length)
  rw [walkDone_eq hup hcrypt hheld hq]
  generalize s.walkedOn port i (s.sectorLines port i - bad.length) = u at honWm honState honMem ⊢
  by_cases hlast : s.sectorCount port i ≤ s.rgnWm port i + 1
  · rw [if_neg (Nat.not_lt.mpr hlast)]
    simp only [hlast, decide_true, if_true]
    obtain ⟨hirq, hcfg, hsame, hwork, hlines, -⟩ := irq_setPortWork (u.setRgnState port i 4) hp hi (b := 1) (by decide)
      { s.portWork port with held := none, walkQ := q }
    have hsetWords : u.wordsBut (u.setRgnState port i 4) [rRGN_CFG port i] := State.wordsBut_fset _ _ (by decide) (List.mem_singleton.mpr rfl)
    have hsetState : (u.setRgnState port i 4).rgnState port i = 4 := State.fget_fset _ _ _ _ (by decide)
    have hsetMem : (u.setRgnState port i 4).mem = u.mem := (State.setRgnState_within ..).2 .mem rfl
    exact ⟨hsame.trans ((State.rgnWm_wordsBut hsetWords (by simpa using hcfgWm.symm)).trans honWm), hcfg.trans hsetState, hwork, fun _ => hirq,
      hlines.trans (congrArg Mem.lines (hsetMem.trans honMem))⟩
  · rw [if_pos (Nat.not_le.mp hlast)]
    simp only [hlast, decide_false, Bool.false_eq_true, if_false, false_implies, true_and]
    obtain ⟨hwords, hlines, -, hwork, -, -⟩ := u.setPortWork_facts port { s.portWork port with held := none }
    exact ⟨(State.rgnWm_wordsBut hwords (by simpa using hwmStat)).trans honWm, (State.rgnState_wordsBut hwords (by simpa using hcfgStat)).trans honState,
      hwork.trans (by rw [← hq]), hlines.trans (congrArg Mem.lines honMem)⟩

end

/-- Settles O29: nothing moves while the memory is unreachable; the zeroing and the walk each take the first region of their queue. -/
theorem regionsAreZeroedAndWalked : Obligations.RegionsAreZeroedAndWalked := by
  unfold Obligations.RegionsAreZeroedAndWalked
  intro s port hc hp w mine
  have hzeroing := exec_zeroingEnd port s (by simpa [Instr.wf] using hp) hc
  have htake := exec_walkTake port [] s (by simpa [Instr.wf] using hp) hc
  have hdone := exec_walkDone port s (by simpa [Instr.wf] using hp) hc
  refine ⟨fun hup => ⟨Answers.intro hzeroing (zeroingEnd_unreached hup), Answers.intro htake (walkTake_unreached hup []),
    Answers.intro hdone (walkDone_unreached hup)⟩, fun i q hi hup hq => ?zeroing, fun i q hi hup hheld hq hsound => ?take,
    fun i q bad hi hcanon hup hcrypt hheld hq hwm => ?done⟩
  case zeroing =>
    refine Answers.intro hzeroing ?_
    obtain ⟨hstate, hwork, hirq, hlines, hslots⟩ := zeroingEnd_facts hp hi hup hq
    have hline : ∀ a, (s.zeroingEnd port).line a = (s.zeroRegion port i).line a := fun a => congrArg (smGet HLine.zero · a) hlines
    refine ⟨hstate, hwork, hirq, fun l hl => ?_, fun a ha => ?_, hslots, State.zeroingEnd_within ..⟩
    · rw [hline, zeroRegion_line]
      exact if_pos (by unfold State.lineKey; omega)
    · rw [hline, zeroRegion_line]
      exact if_neg (by unfold State.lineKey at ha ⊢; omega)
  case take =>
    refine Answers.intro htake ?_
    rw [walkTake_sound hup hheld hq hsound]
    obtain ⟨-, -, -, -, -, hwmStat, -⟩ := mem_apart port i 0 hp hi (by decide)
    obtain ⟨hwords, hlines, -, hwork, -, hwithin⟩ := s.setPortWork_facts port { s.portWork port with held := some [] }
    exact ⟨hwork, hlines, State.rgnWm_wordsBut hwords (by simpa using hwmStat), hwords, hwithin⟩
  case done =>
    refine Answers.intro hdone ?_
    obtain ⟨hdata, hkeyed, hwithin⟩ := walkedLines_facts (port := port) i hcanon
    obtain ⟨hrose, hstate, hwork, hirq, hlines⟩ := walkDone_facts hp hi hup hcrypt hheld hq hwm hwithin
    have hline : ∀ a, (s.walkDone port).line a = (s.walkedLines port i).line a := fun a => congrArg (smGet HLine.zero · a) hlines
    exact ⟨hrose, hstate, hwork, hirq, fun a => by rw [hline]; exact hdata a,
      fun l hlo hhi hkid hclean => by rw [hline]; exact hkeyed l hlo hhi hkid hclean, State.walkDone_within ..⟩

end Sys2Proof.Machine
end

section
/-! SUPPORT. Memory errors, links and key slots (R194, R204, R216, R225, R228). -/

namespace Sys2Proof.Machine

/-! ### HBM_INTERFACE_ERROR -/

theorem Fld.set_one_ne_zero (f : Fld) (v : Nat) (h : 0 < f.width) : f.set v 1 ≠ 0 := fun hzero => by
  have hone : f.get (f.set v 1) = 1 % 2 ^ f.width := Fld.get_set ..
  rw [hzero, Nat.mod_eq_of_lt (Nat.one_lt_two_pow (by omega))] at hone
  simp [Fld.get] at hone

/-- R189, R194: an endpoint made unreachable between packets has empty queues, and no other endpoint changes. -/
theorem State.markUnreach_facts (s : State) (e cause : Nat) (hcur : (s.ep e).curIn = none) :
    let t := s.markUnreach e cause
    t.unreachable e = true ∧
      t.ep e = { s.ep e with reqIn := [], rspIn := [], reqOut := [], rspOut := [], curOut := none, unreach := (t.ep e).unreach } ∧
      (∀ m, m ≠ e → t.ep m = s.ep m) ∧ Within [.mil] s t := by
  obtain ⟨hdel, hwithin⟩ := State.delPkts_facts ((s.ep e).reqIn ++ (s.ep e).rspIn ++ (s.ep e).reqOut ++ (s.ep e).rspOut) s
  unfold State.markUnreach
  dsimp only
  rw [hcur]
  dsimp only
  refine ⟨?_, ?_, fun m hm => ?_, (State.setEp_within ..).via rfl hwithin⟩
  · unfold State.unreachable
    rw [State.ep_setEp_self]
    exact decide_eq_true (Fld.set_one_ne_zero _ _ Nat.one_pos)
  · rw [State.ep_setEp_self]
  · rw [State.setEp_ep, if_neg hm, hdel]

/-- R194: the registers of a port whose interface fails. -/
def State.hbmFailed (s : State) (port : Nat) : State := (s.fset (rHBMP_STAT port) fHBMP_STAT_TRAINED 0).fset (rHBMP_STAT port) fHBMP_STAT_UNREACH 1

theorem hbmIfError_eq (s : State) {port : Nat} (hp : port < 64) : s.hbmIfError port = (s.hbmFailed port).markUnreach (0x140 + port) 2 :=
  if_neg (Nat.not_le.mpr hp)

theorem hbmFailed_within (s : State) (port : Nat) : Within [.regs, .agg] s (s.hbmFailed port) := (State.fset_within ..).via rfl (State.fset_within ..)

/-- R194: a port whose interface fails is untrained and unreachable, whatever packet is in its way. -/
theorem hbmIfError_stat (s : State) {port : Nat} (hp : port < 64) :
    (s.hbmIfError port).flag (rHBMP_STAT port) fHBMP_STAT_TRAINED = false ∧ (s.hbmIfError port).flag (rHBMP_STAT port) fHBMP_STAT_UNREACH = true ∧
      s.wordsBut (s.hbmIfError port) [rHBMP_STAT port] := by
  have hregs : (s.hbmIfError port).regs = (s.hbmFailed port).regs := hbmIfError_eq s hp ▸ (State.markUnreach_within ..).2 .regs rfl
  have hwords : s.wordsBut (s.hbmFailed port) [rHBMP_STAT port] :=
    (State.wordsBut_fset _ _ (by decide) (List.mem_singleton.mpr rfl)).fset (by decide) (List.mem_singleton.mpr rfl)
  refine ⟨?_, ?_, hwords.regs hregs⟩
  · rw [State.flag_same hregs]
    unfold State.flag State.hbmFailed
    rw [State.fget_fset_apart _ _ _ _ (by decide) (by decide) (.inl (by decide)), State.fget_fset _ _ _ _ (by decide)]
    rfl
  · rw [State.flag_same hregs]
    unfold State.flag State.hbmFailed
    rw [State.fget_fset _ _ _ _ (by decide)]
    rfl

theorem hbmIfError_facts (s : State) {port : Nat} (hp : port < 64) (hcur : (s.ep (0x140 + port)).curIn = none) :
    let x := s.ep (0x140 + port)
    let t := s.hbmIfError port
    t.flag (rHBMP_STAT port) fHBMP_STAT_TRAINED = false ∧ t.flag (rHBMP_STAT port) fHBMP_STAT_UNREACH = true ∧ t.unreachable (0x140 + port) = true ∧
      t.ep (0x140 + port) = { x with reqIn := [], rspIn := [], reqOut := [], rspOut := [], curOut := none, unreach := (t.ep (0x140 + port)).unreach } ∧
      (∀ m, m ≠ 0x140 + port → t.ep m = s.ep m) ∧ s.wordsBut t [rHBMP_STAT port] ∧ Within [.regs, .agg, .mil] s t := by
  have hfailed := hbmFailed_within s port
  have heps : ∀ m, (s.hbmFailed port).ep m = s.ep m := fun m => State.ep_mil (hfailed.2 .mil rfl) m
  obtain ⟨hunreach, hep, hother, hwithin⟩ := State.markUnreach_facts (s.hbmFailed port) (0x140 + port) 2 (by rw [heps]; exact hcur)
  obtain ⟨htrained, hflag, hwords⟩ := hbmIfError_stat s hp
  rw [← hbmIfError_eq s hp] at hunreach hep hother hwithin
  rw [heps] at hep
  exact ⟨htrained, hflag, hunreach, hep, fun m hm => (hother m hm).trans (heps m), hwords, hwithin.via rfl (hfailed.mono rfl)⟩

/-! ### CXL_LINK_DOWN -/

theorem pcieStat_ne_hbmpStat {n : Nat} (hn : n < 2) : rPCIE_STAT n ≠ rHBMP_STAT (64 + n) := by
  have hcases : n = 0 ∨ n = 1 := by omega
  rcases hcases with rfl | rfl <;> decide

theorem cxlLinkDown_facts (s : State) {n : Nat} (hn : n < 2) :
    let t := s.cxlLinkDown n
    t.flag (rPCIE_STAT n) fPCIE_STAT_LINK_UP = false ∧ t.cxlUp n = false ∧ t.mem.lines = s.mem.lines ∧ (t.portWork (64 + n)).downLogged = false ∧
      s.wordsBut t [rPCIE_STAT n, rHBMP_STAT (64 + n)] ∧ Within [.regs, .agg, .mem] s t := by
  obtain ⟨hwords, hlines, -, hwork, -, hwithin⟩ := (s.fset (rPCIE_STAT n) fPCIE_STAT_LINK_UP 0).setPortWork_facts (64 + n)
    { (s.fset (rPCIE_STAT n) fPCIE_STAT_LINK_UP 0).portWork (64 + n) with downLogged := false }
  have hdown : (s.cxlLinkDown n).flag (rPCIE_STAT n) fPCIE_STAT_LINK_UP = false := by
    unfold State.flag
    rw [State.cxlLinkDown, State.fget_wordsBut hwords _ (by simpa using pcieStat_ne_hbmpStat hn) (by decide), State.fget_fset _ _ _ _ (by decide)]
    rfl
  have hmem : (s.fset (rPCIE_STAT n) fPCIE_STAT_LINK_UP 0).mem = s.mem := State.fset_mem ..
  refine ⟨hdown, ?_, hlines.trans (congrArg Mem.lines hmem), congrArg PortWork.downLogged hwork, ?_, State.cxlLinkDown_within ..⟩
  · unfold State.cxlUp
    rw [hdown]
    rfl
  · exact State.wordsBut_trans (State.wordsBut_fset _ _ (by decide) (List.mem_cons_self ..))
      (State.wordsBut_mono hwords fun a ha => List.mem_cons_of_mem _ ha)

/-! ### SLOT_ZEROISE -/

/-- The registers of a slot's wear, of the slot and the Sluice's IRQ_RAW lie apart. -/
theorem slotWords_apart {k : Nat} (hk : k < 128) : rSLUICE_WEAR 0 k ≠ rSLUICE_SLOT 0 k ∧ rSLUICE_WEAR 0 k + 4 ≠ rSLUICE_SLOT 0 k ∧
    rSLUICE_WEAR 0 k ≠ PageKind.sluiceCtl.addr 0 + 0x010 ∧ rSLUICE_WEAR 0 k + 4 ≠ PageKind.sluiceCtl.addr 0 + 0x010 ∧
    rSLUICE_SLOT 0 k ≠ PageKind.sluiceCtl.addr 0 + 0x010 := by
  unfold rSLUICE_WEAR rSLUICE_SLOT
  omega

/-- R225: a slot whose registers are cleared with its interrupt raised. -/
theorem slotCleared_facts (s : State) {k : Nat} (hk : k < 128) :
    let t := ((s.wr64 (rSLUICE_WEAR 0 k) 0).wr32 (rSLUICE_SLOT 0 k) 0).irq (PageKind.sluiceCtl.addr 0) 1
    t.rd32 (rSLUICE_SLOT 0 k) = 0 ∧ t.rd32 (rSLUICE_WEAR 0 k) = 0 ∧ t.rd32 (rSLUICE_WEAR 0 k + 4) = 0 ∧
      t.bit (rIRQ_RAW (PageKind.sluiceCtl.addr 0)) 1 = true ∧ s.wordsBut t (wearWords k) := by
  obtain ⟨hwearSlot, hhighSlot, hwearIrq, hhighIrq, hslotIrq⟩ := slotWords_apart hk
  dsimp only
  refine ⟨?_, ?_, ?_, ?_, ?_⟩
  · rw [State.rd32_irq _ _ _ _ (by decide), if_neg hslotIrq, State.rd32_wr32, Nat.zero_mod]
  · rw [State.rd32_irq _ _ _ _ (by decide), if_neg hwearIrq, State.rd32_wr32_ne _ _ hwearSlot, State.wr64, State.rd32_wr32_ne _ _ (by omega), State.rd32_wr32, Nat.zero_mod]
  · rw [State.rd32_irq _ _ _ _ (by decide), if_neg hhighIrq, State.rd32_wr32_ne _ _ hhighSlot, State.wr64, State.rd32_wr32, Nat.zero_div, Nat.zero_mod]
  · rw [State.bit_irq _ _ _ _ _ (by decide) (by decide), if_pos ⟨rfl, rfl⟩]
  · exact (((s.wordsBut_refl _).wr64 (by simp [wearWords]) (by simp [wearWords])).wr32 (by simp [wearWords])).irq (by decide) (by simp [wearWords, rIRQ_RAW])

theorem slotZeroise_facts (s : State) {k : Nat} (hk : k < 128) (h0 : k ≠ 0) (hstate : s.slotState k = 2)
    (hrgn : s.fget (rSLUICE_SLOT 0 k) fSLUICE_SLOT_RGN_REFS = 0) (hlink : s.fget (rSLUICE_SLOT 0 k) fSLUICE_SLOT_LINK_REFS = 0) (hbusy : s.slotBusy k = false) :
    let t := s.slotZeroise k false
    t.slotState k = 0 ∧ t.slot k = KeySlot.empty ∧ (∀ j, j ≠ k → t.slot j = s.slot j) ∧ t.rd32 (rSLUICE_WEAR 0 k) = 0 ∧ t.rd32 (rSLUICE_WEAR 0 k + 4) = 0 ∧
      t.bit (rIRQ_RAW (PageKind.sluiceCtl.addr 0)) 1 = true ∧ t.mem.lines = s.mem.lines ∧ s.wordsBut t (wearWords k) ∧ Within [.regs, .agg, .mem, .tol] s t := by
  let deleted : State := { s with mem := { s.mem with slots := smDel k s.mem.slots } }
  have hzeroise : s.slotZeroise k false =
      (((deleted.wr64 (rSLUICE_WEAR 0 k) 0).wr32 (rSLUICE_SLOT 0 k) 0).irq (PageKind.sluiceCtl.addr 0) 1).eventRecord 9 k := by
    unfold State.slotZeroise
    exact if_neg (by simp [hstate, hrgn, hlink, hbusy, h0])
  obtain ⟨hslot, hwear, hhigh, hirq, hwords⟩ := slotCleared_facts deleted hk
  have hwithin : Within [.regs, .agg] deleted (((deleted.wr64 (rSLUICE_WEAR 0 k) 0).wr32 (rSLUICE_SLOT 0 k) 0).irq (PageKind.sluiceCtl.addr 0) 1) :=
    (State.irq_within ..).via rfl ((State.wr32_within ..).via rfl (State.wr64_within ..))
  have hregs : (s.slotZeroise k false).regs = (((deleted.wr64 (rSLUICE_WEAR 0 k) 0).wr32 (rSLUICE_SLOT 0 k) 0).irq (PageKind.sluiceCtl.addr 0) 1).regs :=
    hzeroise ▸ (State.eventRecord_within ..).2 .regs rfl
  have hmem : (s.slotZeroise k false).mem = deleted.mem := hzeroise ▸ ((State.eventRecord_within ..).2 .mem rfl).trans (hwithin.2 .mem rfl)
  have hslots : ∀ j, (s.slotZeroise k false).slot j = if j = k then KeySlot.empty else s.slot j := fun j =>
    (congrArg (fun m : Mem => smGet KeySlot.empty m.slots j) hmem :).trans (smGet_smDel ..)
  refine ⟨?_, (hslots k).trans (if_pos rfl), fun j hj => (hslots j).trans (if_neg hj), (State.rd32_same hregs _).trans hwear,
    (State.rd32_same hregs _).trans hhigh, (State.bit_same hregs ..).trans hirq, (congrArg Mem.lines hmem :).trans rfl, ?_, State.slotZeroise_within ..⟩
  · unfold State.slotState
    rw [State.fget_same hregs, State.fget_word _ _ (by decide), hslot]
    rfl
  · exact (State.wordsBut_trans (State.wordsBut_of_regs _ rfl) hwords).regs hregs

/-! ### SLUICE_WEAR_WARN_WRITE -/

/-- The slots' registers lie apart from WARN. -/
theorem slotWords_apart_warn (k : Nat) : [rSLUICE_WEAR_WARN 0].contains (rSLUICE_SLOT 0 k) = false ∧
    [rSLUICE_WEAR_WARN 0].contains (rSLUICE_WEAR 0 k) = false ∧ [rSLUICE_WEAR_WARN 0].contains (rSLUICE_WEAR 0 k + 4) = false := by
  simp only [rSLUICE_WEAR_WARN, rSLUICE_WEAR, rSLUICE_SLOT, List.contains_cons, List.contains_nil, Bool.or_false, beq_eq_false_iff_ne]
  omega

theorem putReg_wearWarn (s : State) {req : Req} (v : Nat) (hv : req.valid = true) (ht : s.takes req .sluiceCtl 0 0x040 = true) :
    s.putReg req (rSLUICE_WEAR_WARN 0) v =
      ((s.clearView req (PageKind.sluiceCtl.addr 0)).plainWrite ⟨0x040, [], false, [⟨31, 0, .rw, 65536⟩]⟩ (rSLUICE_WEAR_WARN 0) v).wearWarnWritten :=
  (s.putReg_body req .sluiceCtl (i := 0) (o := 0x040) v hv (by decide) (by decide) (by decide) (by decide) (by decide) ht rfl rfl).trans (body_sluice ..)

/-- R216: a WARN written is compared with the count of every loaded slot. -/
theorem wearWarn_facts (s : State) {req : Req} {v : Nat} (hreq : req.valid = true) (hv : v < 2 ^ 32) (ht : s.takes req .sluiceCtl 0 0x040 = true) :
    let t := s.putReg req (rSLUICE_WEAR_WARN 0) v
    t.fget (rSLUICE_WEAR_WARN 0) fSLUICE_WEAR_WARN_WARN = v ∧
      (∀ k, k < 128 → s.slotState k ≠ 0 → v ≠ 0 → v * 2 ^ 20 ≤ s.fget (rSLUICE_WEAR 0 k) fSLUICE_WEAR_LINES → t.flag (rSLUICE_SLOT 0 k) fSLUICE_SLOT_WORN = true) ∧
      (v = 0 → s.wordsBut t [rSLUICE_WEAR_WARN 0]) ∧ t.mem = s.mem ∧ Within [.regs, .views, .agg, .tol] s t := by
  have hput := putReg_wearWarn s v hreq ht
  have hview := s.clearView_within req (PageKind.sluiceCtl.addr 0)
  obtain ⟨hfields, hplain⟩ := (s.clearView req (PageKind.sluiceCtl.addr 0)).plainWrite_word (r := ⟨0x040, [], false, [⟨31, 0, .rw, 65536⟩]⟩)
    (rSLUICE_WEAR_WARN 0) v (by decide) rfl
  have hwords := (State.wordsBut_setViewBuf ..).mp hplain
  have hplainWithin := (State.plainWrite_within (s.clearView req (PageKind.sluiceCtl.addr 0)) ⟨0x040, [], false, [⟨31, 0, .rw, 65536⟩]⟩
    (rSLUICE_WEAR_WARN 0) v).via (F := [.regs, .views, .agg]) rfl (hview.mono rfl)
  generalize (s.clearView req (PageKind.sluiceCtl.addr 0)).plainWrite ⟨0x040, [], false, [⟨31, 0, .rw, 65536⟩]⟩ (rSLUICE_WEAR_WARN 0) v = u
    at hput hfields hwords hplainWithin
  have hwarn : u.fget (rSLUICE_WEAR_WARN 0) fSLUICE_WEAR_WARN_WARN = v :=
    (hfields _ (List.mem_singleton.mpr rfl) rfl).trans ((congrArg (· % 2 ^ 32) (Nat.div_one v)).trans (Nat.mod_eq_of_lt hv))
  obtain ⟨hkept, -, hworn, hzero⟩ := State.wearFold v (List.range 128) u (fun k hk => List.mem_range.mp hk) hwarn
  dsimp only
  rw [hput]
  refine ⟨hkept, fun k hk hstate hne hcount => hworn k (List.mem_range.mpr hk) ?_ hne ?_, fun h => ?_, ?_, (State.wearWarnWritten_within u).via rfl (hplainWithin.mono rfl)⟩
  · obtain ⟨hslotWord, -, -⟩ := slotWords_apart_warn k
    unfold State.slotState
    rw [State.fget_wordsBut hwords _ hslotWord (by decide)]
    exact hstate
  · obtain ⟨-, hwearWord, hhighWord⟩ := slotWords_apart_warn k
    rw [State.lines_wordsBut hwords k hwearWord hhighWord]
    exact hcount
  · rw [State.wearWarnWritten, hzero h]
    exact hwords
  · exact ((State.wearWarnWritten_within u).2 .mem rfl).trans (hplainWithin.2 .mem rfl)

/-- Settles O30, event by event. -/
theorem memoryEvents : Obligations.MemoryEvents := by
  unfold Obligations.MemoryEvents
  intro s hc
  refine ⟨fun port hp hcur => ?hbm, fun n hn => ?cxl, fun k frames hk => ⟨fun h0 hstate hrgn hlink hbusy => ?zeroised, fun hused => ?stays⟩, fun req v hreq hv ht => ?warn⟩
  case hbm => exact Answers.intro (exec_hbmError port s (by simp [Instr.wf]; omega) hc) (hbmIfError_facts s hp hcur)
  case cxl => exact Answers.intro (exec_cxlLinkDown n s (by simp [Instr.wf]; omega) hc) (cxlLinkDown_facts s hn)
  case zeroised => exact Answers.intro (exec_slotZeroise k false s (by simpa [Instr.wf] using hk) hc) (slotZeroise_facts s hk h0 hstate hrgn hlink hbusy)
  case stays =>
    refine Answers.intro (exec_slotZeroise k frames s (by simpa [Instr.wf] using hk) hc) ?_
    unfold State.slotZeroise
    exact if_pos (by simpa only [or_assoc] using hused.symm)
  case warn => exact Answers.intro (exec_wearWarn req v s (by simpa [Instr.wf] using hreq) hc) (wearWarn_facts s hreq hv ht)

end Sys2Proof.Machine
end

section
/-! SUPPORT. The flip and the release of a swap (R247, R251, R252, R255). -/

namespace Sys2Proof.Machine

theorem planeStat_ne_stallStat {n sh : Nat} (hn : n < 32) (hsh : sh < 384) : rPLANE_STAT sh ≠ rSTALL_STAT n := by
  unfold rPLANE_STAT rSTALL_STAT
  rw [addr_shedCfg, addr_stall]
  omega

/-- A stall's state written reads back, and touches no shed and no stall's maps. -/
theorem State.setStallState_facts (s : State) {n v : Nat} (hn : n < 32) (hv : v < 8) :
    let t := s.setStallState n v
    t.stallState n = v ∧ (∀ sh, sh < 384 → t.word (rPLANE_STAT sh) = s.word (rPLANE_STAT sh)) ∧ t.stalls = s.stalls :=
  ⟨(State.fget_fset _ _ _ _ (by decide)).trans (Nat.mod_eq_of_lt hv),
    fun _ hsh => State.wordsBut_fset _ _ (by decide) (List.mem_singleton.mpr rfl) _ (by simpa using planeStat_ne_stallStat hn hsh),
    (State.setStallState_within ..).2 .stalls rfl⟩

/-- The state after steps 6 of a swap: images and planes have changed places, and the swap's time is recorded. -/
def State.flipped (s : State) (n : Nat) (w : SwapRun) : State :=
  (s.flipAll n w).fset (rSTALL_SWAP_DUR n) fSTALL_SWAP_DUR_SWAP_NS (min (s.tide.ticks - w.at_) (2 ^ 16 - 1))

/-- R247: the images of a flipped stall have changed places, and Tolmor is as it was. -/
theorem State.flipped_images (s : State) {n : Nat} (w : SwapRun) (hn : n < 32) :
    (s.flipped n w).stall n = { s.stall n with live := if w.park = true then none else (s.stall n).bg, bg := (s.stall n).live } ∧
      (s.flipped n w).tol = s.tol := by
  obtain ⟨hstall, -, -, -, -, htol, -⟩ := s.flipAll_facts n w hn (min (s.tide.ticks - w.at_) (2 ^ 16 - 1))
  exact ⟨hstall, htol⟩

/-- A flipped stall still owns its sheds. -/
theorem State.flipped_shedsOf (s : State) {n : Nat} (w : SwapRun) (hn : n < 32) : (s.flipped n w).shedsOf n = s.shedsOf n := by
  obtain ⟨-, -, -, hmine, hother, -, -⟩ := s.flipAll_facts n w hn (min (s.tide.ticks - w.at_) (2 ^ 16 - 1))
  refine State.shedsOf_kept (fun sh hsh => ?_) n
  by_cases hin : sh ∈ s.shedsOf n
  · obtain ⟨-, howner, -, -⟩ := hmine sh hin
    exact howner
  · obtain ⟨-, -, howner⟩ := planeKept_word (hother sh hsh hin)
    exact howner

/-- What the flip of stall `n` leaves for `t`, whichever way the swap goes on: images and planes have changed places. -/
def State.PlacesChanged (s t : State) (n : Nat) (w : SwapRun) : Prop :=
  (∀ sh ∈ s.shedsOf n, shedFlipped (decide (w.was = cCFG_UNCORR ∨ w.was = cTRIB_CONTENTION)) sh s t) ∧
    (∀ sh, sh < 384 → sh ∉ s.shedsOf n → t.word (rPLANE_STAT sh) = s.word (rPLANE_STAT sh)) ∧ (∀ m, m ≠ n → t.stall m = s.stall m)

theorem State.flipped_places (s : State) {n : Nat} (w : SwapRun) (hn : n < 32) : s.PlacesChanged (s.flipped n w) n w := by
  obtain ⟨-, hstalls, -, hmine, hother, -, -⟩ := s.flipAll_facts n w hn (min (s.tide.ticks - w.at_) (2 ^ 16 - 1))
  rw [← Bool.decide_or] at hmine
  exact ⟨hmine, hother, hstalls⟩

/-- What keeps the planes' places and owners, and the sheds of others, keeps what the flip left. -/
theorem State.PlacesChanged.kept {s t u : State} {n : Nat} {w : SwapRun} (h : s.PlacesChanged t n w) (hplanes : ∀ sh, sh < 384 → planeKept sh t u)
    (hwords : ∀ sh, sh < 384 → sh ∉ s.shedsOf n → u.word (rPLANE_STAT sh) = t.word (rPLANE_STAT sh)) (hstalls : ∀ m, m ≠ n → u.stall m = t.stall m) :
    s.PlacesChanged u n w := by
  obtain ⟨hmine, hother, hothers⟩ := h
  exact ⟨fun sh hin => (hmine sh hin).kept (hplanes sh (State.mem_shedsOf.mp hin).1), fun sh hsh hin => (hwords sh hsh hin).trans (hother sh hsh hin),
    fun m hm => (hstalls m hm).trans (hothers m hm)⟩

section
variable {s : State} {n : Nat} {w : SwapRun}

theorem planeFlip_waits (hswap : (s.stall n).swap = some w) (hready : (w.exchanged && w.zeroed && w.quiet && decide (s.stallState n = stSWAPPING)) = false) :
    s.planeFlip n = s := by
  unfold State.planeFlip
  rw [hswap]
  refine if_pos ?_
  cases hsteps : w.exchanged && w.zeroed && w.quiet with
  | false => rfl
  | true =>
    rw [hsteps, Bool.true_and] at hready
    simpa using hready

theorem planeFlip_ready (hswap : (s.stall n).swap = some w) (hready : (w.exchanged && w.zeroed && w.quiet && decide (s.stallState n = stSWAPPING)) = true) :
    s.planeFlip n = if (s.flipped n w).fills n w then (s.flipped n w).setStallState n stFILL else (s.flipped n w).release n w := by
  obtain ⟨hsteps, hstate⟩ := Bool.and_eq_true_iff.mp hready
  unfold State.planeFlip
  rw [hswap]
  exact if_neg (by rw [hsteps]; simpa using hstate)

/-- R251: the swap of a flipped stall whose image has a fill enters FILL. -/
theorem flipped_fill (hn : n < 32) : ((s.flipped n w).setStallState n stFILL).stallState n = stFILL ∧
    ((s.flipped n w).setStallState n stFILL).stall n = (s.flipped n w).stall n ∧ s.PlacesChanged ((s.flipped n w).setStallState n stFILL) n w := by
  obtain ⟨hstate, hwords, hstalls⟩ := (s.flipped n w).setStallState_facts hn (show stFILL < 8 by decide)
  exact ⟨hstate, State.stall_same hstalls n, (s.flipped_places w hn).kept (fun sh hsh => planeKept_word (hwords sh hsh)) (fun sh hsh _ => hwords sh hsh)
    fun m _ => State.stall_same hstalls m⟩

/-- R251, R252: the swap of a flipped stall released. -/
theorem flipped_release (hn : n < 32) : let t := (s.flipped n w).release n w
    s.PlacesChanged t n w ∧ (w.cause = 0 → w.park = false → ∀ sh ∈ s.shedsOf n, t.gated sh = false) := by
  obtain ⟨-, -, hstalls, -, -, -, hplanes, hgated, hwords, -, -, -⟩ := (s.flipped n w).release_facts n w hn
  rw [s.flipped_shedsOf w hn] at hgated hwords
  exact ⟨(s.flipped_places w hn).kept hplanes hwords hstalls, hgated⟩

/-! ### FILL_END -/

/-- The state whose fill is written, before its release (R241, R251). -/
def State.filled (s : State) (n : Nat) (w : SwapRun) : State :=
  (match (s.stall n).live with | some i => s.writeFill i | none => s).fset (rSTALL_SWAP_DUR n) fSTALL_SWAP_DUR_FILL_US
    (min ((s.tide.ticks - w.at_ - s.fget (rSTALL_SWAP_DUR n) fSTALL_SWAP_DUR_SWAP_NS) / 1000) (2 ^ 16 - 1))

theorem fillEnd_released (hswap : (s.stall n).swap = some w) (hstate : s.stallState n = stFILL) : s.fillEnd n = (s.filled n w).release n w := by
  unfold State.fillEnd State.filled
  rw [hswap]
  exact if_neg (not_not_intro hstate)

theorem filled_facts : (s.filled n w).stalls = s.stalls ∧ (s.filled n w).tol = s.tol ∧
    (∀ i, (s.stall n).live = some i → (s.filled n w).fab = (s.writeFill i).fab ∧ (s.filled n w).eddies = (s.writeFill i).eddies) := by
  unfold State.filled
  refine ⟨?_, ?_, fun i hi => ?_⟩
  · refine ((State.fset_within ..).2 .stalls rfl).trans ?_
    cases (s.stall n).live with
    | none => rfl
    | some i => exact (s.writeFill_facts i).2.1
  · refine ((State.fset_within ..).2 .tol rfl).trans ?_
    cases (s.stall n).live with
    | none => rfl
    | some i => exact (s.writeFill_facts i).2.2
  · rw [hi]
    exact ⟨(State.fset_within ..).2 .fab rfl, (State.fset_within ..).2 .eddies rfl⟩

end

/-- Settles O32: a swap flips once its steps are done, and is then released, at once or when its fill ends. -/
theorem swapReleases : Obligations.SwapReleases := by
  unfold Obligations.SwapReleases
  intro s n w hc hn hswap next fills spoilt ready released jobs
  have hflip := exec_planeFlip n s (by simpa [Instr.wf] using hn) hc
  have hfill := exec_fillEnd n s (by simpa [Instr.wf] using hn) hc
  refine ⟨fun hready => Answers.intro hflip (planeFlip_waits hswap hready), fun hready => Answers.intro hflip ?flips,
    fun hstate => Answers.intro hfill ?noFill, fun hstate => Answers.intro hfill ?filled⟩
  case flips =>
    have hwithin := s.planeFlip_within n
    obtain ⟨hstall, htol⟩ := s.flipped_images w hn
    have hfills : (s.flipped n w).fills n w = fills := by
      unfold State.fills
      rw [hstall] <;> rfl
    have hcase := planeFlip_ready hswap hready
    rw [hfills] at hcase
    have hsheds : ∀ {t : State}, s.PlacesChanged t n w → (fills = false → w.cause = 0 → w.park = false → ∀ sh ∈ s.shedsOf n, t.gated sh = false) →
        ∀ sh, (s.shedsOf n).contains sh = true → t.livePlane sh = s.bgPlane sh ∧
          t.planeState sh (s.livePlane sh) = (if s.planeState sh (s.livePlane sh) = plLIVE then (if spoilt then plINVALID else plLOADED)
            else s.planeState sh (s.livePlane sh)) ∧
          t.planeState sh (s.bgPlane sh) = (if s.planeState sh (s.bgPlane sh) = plLOADED then plLIVE else s.planeState sh (s.bgPlane sh)) ∧
          (fills = false → w.cause = 0 → w.park = false → t.gated sh = false) := fun ⟨hmine, _, _⟩ hgated sh hin => by
      have hmem : sh ∈ s.shedsOf n := List.contains_iff_mem.mp hin
      obtain ⟨hlive, -, hout, hincoming⟩ := hmine sh hmem
      exact ⟨hlive, hout, hincoming, fun hf hcause hpark => hgated hf hcause hpark sh hmem⟩
    have hothers : ∀ {t : State}, s.PlacesChanged t n w → ∀ sh, sh < 384 → (s.shedsOf n).contains sh = false → t.word (rPLANE_STAT sh) = s.word (rPLANE_STAT sh) :=
      fun ⟨_, hother, _⟩ sh hsh hin => hother sh hsh (by simpa using hin)
    cases hf : fills with
    | true =>
      rw [hf] at hcase hsheds
      rw [hcase.trans (if_pos rfl)] at hwithin ⊢
      obtain ⟨hstate, hsame, hplaces⟩ := flipped_fill (s := s) (w := w) hn
      have hplace : ((s.flipped n w).setStallState n stFILL).stall n = _ := hsame.trans hstall
      exact ⟨congrArg Stall.live hplace, congrArg Stall.bg hplace, (congrArg Stall.swap hplace).trans hswap, hstate, fun h => absurd h (by decide),
        hsheds hplaces (fun h => absurd h (by decide)), hothers hplaces, hplaces.2.2, hwithin⟩
    | false =>
      rw [hf] at hcase hsheds
      rw [hcase.trans (if_neg Bool.false_ne_true)] at hwithin ⊢
      obtain ⟨hplaces, hgated⟩ := flipped_release (s := s) (w := w) hn
      obtain ⟨hstate, ⟨x, hreleased⟩, -, hirq, hcause, hjobs, -⟩ := (s.flipped n w).release_facts n w hn
      rw [htol] at hjobs
      exact ⟨(congrArg Stall.live hreleased).trans (congrArg Stall.live hstall), (congrArg Stall.bg hreleased).trans (congrArg Stall.bg hstall),
        congrArg Stall.swap hreleased, hstate, fun _ => ⟨hirq, hjobs, hcause⟩, hsheds hplaces (fun _ => hgated), hothers hplaces, hplaces.2.2, hwithin⟩
  case noFill =>
    unfold State.fillEnd
    rw [hswap]
    exact if_pos hstate
  case filled =>
    have hwithin := s.fillEnd_within n
    rw [fillEnd_released hswap hstate] at hwithin ⊢
    obtain ⟨hstalls, htol, hwritten⟩ := filled_facts (s := s) (n := n) (w := w)
    obtain ⟨hreleasedState, ⟨x, hreleased⟩, hothers, hirq, -, hjobs, -, -, -, hfab, hdata, -⟩ := (s.filled n w).release_facts n w hn
    have hstall : ∀ m, (s.filled n w).stall m = s.stall m := fun m => State.stall_same hstalls m
    rw [htol] at hjobs
    exact ⟨(congrArg Stall.live hreleased).trans (congrArg Stall.live (hstall n) :), (congrArg Stall.bg hreleased).trans (congrArg Stall.bg (hstall n) :),
      congrArg Stall.swap hreleased, hreleasedState, hirq, hjobs,
      fun i hi => ⟨hfab.trans (hwritten i hi).1, fun m => (hdata m).trans (congrArg (fun es => (smGet Eddy.reset es m).data) (hwritten i hi).2)⟩,
      fun m hm => (hothers m hm).trans (hstall m), hwithin⟩

end Sys2Proof.Machine
end

section
/-! SUPPORT. The end of a load (R80–R82, R243). -/

namespace Sys2Proof.Machine

/-- What the end of the load `r` of stall `n` leaves: the background image, and the marks of its background planes. -/
def State.LoadClosed (s t : State) (n : Nat) (r : LoadRun) (v : Nat) (bg : Option Image) : Prop :=
  t.stall n = { s.stall n with load := none, bg := bg } ∧
  (∀ m, m ≠ n → t.stall m = s.stall m) ∧
  (∀ sh ∈ s.shedsOf n, shedMarked (if (entrySheds r.image.entries).contains sh then v else plBLANK) sh s t) ∧
  t.word (rSTALL_STAT n) = s.word (rSTALL_STAT n)

section
variable {s t : State} {n : Nat} {r : LoadRun} {v : Nat} {bg : Option Image} (h : s.LoadClosed t n r v bg)
include h

theorem State.LoadClosed.stall : t.stall n = { s.stall n with load := none, bg := bg } := h.1

theorem State.LoadClosed.others : ∀ m, m ≠ n → t.stall m = s.stall m := h.2.1

theorem State.LoadClosed.marked : ∀ sh ∈ s.shedsOf n, shedMarked (if (entrySheds r.image.entries).contains sh then v else plBLANK) sh s t := h.2.2.1

theorem State.LoadClosed.stat : t.word (rSTALL_STAT n) = s.word (rSTALL_STAT n) := h.2.2.2

end

section
variable {s t u : State} {n v : Nat} {r : LoadRun} {bg : Option Image}

/-- What keeps the stalls, the sheds' words and the stall's state keeps what the load left. -/
theorem State.LoadClosed.kept (h : s.LoadClosed t n r v bg) (hstalls : u.stalls = t.stalls)
    (hsheds : ∀ sh, sh < 384 → u.word (rPLANE_STAT sh) = t.word (rPLANE_STAT sh)) (hstat : u.word (rSTALL_STAT n) = t.word (rSTALL_STAT n)) :
    s.LoadClosed u n r v bg :=
  ⟨(State.stall_same hstalls n).trans h.stall, fun m hm => (State.stall_same hstalls m).trans (h.others m hm),
    fun sh hin => (h.marked sh hin).kept (planeKept_word (hsheds sh (State.mem_shedsOf.mp hin).1)), hstat.trans h.stat⟩

/-- The words that the end of a load writes outside the sheds. -/
def loadWords (n : Nat) : List Nat := [rTRIB_REFUSE_LAST 0, rTRIB_REFUSE_ID 0, PageKind.tribCtl.addr 0 + 0x010, PageKind.stall.addr n + 0x010,
  rSTALL_TENANT_BG n, rSTALL_TENANT_BG n + 4]

/-- They lie apart from those that say how stalls and sheds stand. -/
theorem loadWords_apart (hn : n < 32) : (∀ sh, sh < 384 → (loadWords n).contains (rPLANE_STAT sh) = false) ∧ (loadWords n).contains (rSTALL_STAT n) = false := by
  simp only [loadWords, List.contains_cons, List.contains_nil, Bool.or_false, Bool.or_eq_false_iff, beq_eq_false_iff_ne, rPLANE_STAT, rSTALL_STAT,
    rTRIB_REFUSE_LAST, rTRIB_REFUSE_ID, rSTALL_TENANT_BG, addr_shedCfg, addr_stall, addr_tribCtl]
  exact ⟨fun sh hsh => by omega, by omega⟩

theorem State.LoadClosed.wordsBut (h : s.LoadClosed t n r v bg) (hn : n < 32) (hstalls : u.stalls = t.stalls) (hwords : t.wordsBut u (loadWords n)) :
    s.LoadClosed u n r v bg :=
  have ⟨hsheds, hstat⟩ := loadWords_apart hn
  h.kept hstalls (fun sh hsh => hwords _ (hsheds sh hsh)) (hwords _ hstat)

theorem loadUndo_closed (hn : n < 32) (hload : (s.stall n).load = some r) : s.LoadClosed (s.loadUndo n) n r plINVALID none := by
  obtain ⟨hmarked, hwords, hstall, hothers, -⟩ := s.loadUndo_facts n r hload
  refine ⟨hstall, hothers, hmarked, hwords _ ?_⟩
  simpa [List.contains_eq_mem] using fun sh howner heq => planeStat_ne_stallStat hn (State.mem_shedsOf.mp howner).1 heq

/-- R243: after the last interrupt, and the end of the command, a closed load shows what it left. -/
theorem State.LoadClosed.ended (h : s.LoadClosed t n r v bg) (hn : n < 32) (p : Job → Bool) (code d : Nat) :
    let u := (t.irq (PageKind.stall.addr n) 2).endJobs p code d
    (u.stall n).load = none ∧ (u.stall n).bg = bg ∧ (u.stall n).live = (s.stall n).live ∧ u.bit (rIRQ_RAW (PageKind.stall.addr n)) 2 = true ∧
      (∀ sh, (s.shedsOf n).contains sh = true →
        u.planeState sh (s.bgPlane sh) = (if (entrySheds r.image.entries).contains sh then v else plBLANK) ∧ u.livePlane sh = s.livePlane sh ∧
          u.planeState sh (s.livePlane sh) = s.planeState sh (s.livePlane sh)) ∧
      u.stallState n = s.stallState n ∧ ∀ m, m ≠ n → u.stall m = s.stall m := by
  have hirq : (t.irq (PageKind.stall.addr n) 2).stalls = t.stalls := (State.irq_within ..).2 .stalls rfl
  have hended : s.LoadClosed ((t.irq (PageKind.stall.addr n) 2).endJobs p code d) n r v bg :=
    h.wordsBut hn hirq ((State.wordsBut_irq _ (by decide) (by simp [loadWords])).regs rfl)
  refine ⟨congrArg Stall.load hended.stall, congrArg Stall.bg hended.stall, (congrArg Stall.live hended.stall :), ?_, fun sh hin => ?_, ?_, hended.others⟩
  · rw [State.bit_endJobs, State.bit_irq _ _ _ _ _ (by decide) (by decide), if_pos ⟨rfl, rfl⟩]
  · obtain ⟨hlive, -, hkept, hbg⟩ := hended.marked sh (List.contains_iff_mem.mp hin)
    exact ⟨hbg, hlive, hkept⟩
  · exact State.fget_of_word _ hended.stat (by decide)

/-! ### A load turned away -/

/-- R82: TRIB_REFUSE_LAST of a refused frame. -/
def refuseWord (n reason sh : Nat) : Nat := 2 ^ 31 + reason * 2 ^ 28 + n * 2 ^ 23 + sh / 48 * 2 ^ 20 + sh % 48 * 2 ^ 14

/-- R82: the state with a refused frame recorded. -/
def State.refusedRoute (s : State) (n reason sh tr : Nat) : State :=
  ((((s.loadUndo n).wr32 (rTRIB_REFUSE_LAST 0) (refuseWord n reason sh)).wr32 (rTRIB_REFUSE_ID 0) (if reason = 4 then 0 else tr)).irq
    (PageKind.tribCtl.addr 0) 1).eventRecord 4 0

theorem refuseWord_fields {reason sh : Nat} (hn : n < 32) (hreason : reason < 8) (hsh : sh < 384) : refuseWord n reason sh < 2 ^ 32 ∧
    fTRIB_REFUSE_LAST_VALID.get (refuseWord n reason sh) = 1 ∧ fTRIB_REFUSE_LAST_REASON.get (refuseWord n reason sh) = reason ∧
    fTRIB_REFUSE_LAST_STALL.get (refuseWord n reason sh) = n := by
  simp only [Fld.get, fTRIB_REFUSE_LAST_VALID, fTRIB_REFUSE_LAST_REASON, fTRIB_REFUSE_LAST_STALL, refuseWord]
  omega

/-- Words of TRIB_CTL's and of the stall's page lie apart. -/
theorem refuseLast_apart (hn : n < 32) : rTRIB_REFUSE_LAST 0 ≠ PageKind.stall.addr n + 0x010 ∧ rIRQ_RAW (PageKind.tribCtl.addr 0) ≠ PageKind.stall.addr n + 0x010 := by
  simp only [rTRIB_REFUSE_LAST, rIRQ_RAW, addr_tribCtl, addr_stall]
  omega

theorem refusedRoute_closed {reason sh tr : Nat} (hn : n < 32) (hload : (s.stall n).load = some r) :
    s.LoadClosed (s.refusedRoute n reason sh tr) n r plINVALID none := by
  refine (loadUndo_closed hn hload).wordsBut hn ?_ ?_
  · exact ((State.eventRecord_within ..).2 .stalls rfl).trans (((State.irq_within ..).2 .stalls rfl).trans
      (((State.wr32_within ..).2 .stalls rfl).trans ((State.wr32_within ..).2 .stalls rfl)))
  · refine State.wordsBut.regs ?_ ((State.eventRecord_within ..).2 .regs rfl)
    exact (((State.wordsBut_wr32 _ _ (by simp [loadWords])).wr32 (by simp [loadWords])).irq (by decide) (by simp [loadWords]))

/-- R82: a refused frame is recorded, with IRQ_RAW[1] of TRIB_CTL. -/
theorem refusedRoute_recorded (s : State) {reason sh tr : Nat} (hn : n < 32) :
    (reason < 8 → sh < 384 → (s.refusedRoute n reason sh tr).flag (rTRIB_REFUSE_LAST 0) fTRIB_REFUSE_LAST_VALID = true ∧
      (s.refusedRoute n reason sh tr).fget (rTRIB_REFUSE_LAST 0) fTRIB_REFUSE_LAST_REASON = reason ∧
      (s.refusedRoute n reason sh tr).fget (rTRIB_REFUSE_LAST 0) fTRIB_REFUSE_LAST_STALL = n) ∧
    (s.refusedRoute n reason sh tr).bit (rIRQ_RAW (PageKind.tribCtl.addr 0)) 1 = true := by
  have hregs := fun x : State => (State.eventRecord_within x 4 0).2 .regs rfl
  have hrecorded : (s.refusedRoute n reason sh tr).rd32 (rTRIB_REFUSE_LAST 0) = refuseWord n reason sh % 2 ^ 32 := by
    unfold State.refusedRoute
    rw [State.rd32_same (hregs _), State.rd32_irq _ _ _ _ (by decide), if_neg (by decide), State.rd32_wr32_ne _ _ (by decide), State.rd32_wr32]
  refine ⟨fun hreason hsh => ?_, ?_⟩
  · obtain ⟨hfits, hvalid, hcode, hstall⟩ := refuseWord_fields (n := n) hn hreason hsh
    rw [Nat.mod_eq_of_lt hfits] at hrecorded
    unfold State.flag
    rw [State.fget_word _ _ (by decide), State.fget_word _ _ (by decide), State.fget_word _ _ (by decide), hrecorded, hvalid]
    exact ⟨rfl, hcode, hstall⟩
  · unfold State.refusedRoute
    rw [State.bit_same (hregs _), State.bit_irq _ _ _ _ _ (by decide) (by decide), if_pos ⟨rfl, rfl⟩]

/-- What TRIB_CTL shows stays when the load's command ends. -/
theorem tribShown_ended (t : State) (hn : n < 32) (p : Job → Bool) (code d : Nat) (f : Fld) (hf : f.lo + f.width ≤ 32) :
    ((t.irq (PageKind.stall.addr n) 2).endJobs p code d).fget (rTRIB_REFUSE_LAST 0) f = t.fget (rTRIB_REFUSE_LAST 0) f ∧
    ((t.irq (PageKind.stall.addr n) 2).endJobs p code d).bit (rIRQ_RAW (PageKind.tribCtl.addr 0)) 1 = t.bit (rIRQ_RAW (PageKind.tribCtl.addr 0)) 1 := by
  obtain ⟨hlast, hraw⟩ := refuseLast_apart hn
  have hwords : t.wordsBut (t.irq (PageKind.stall.addr n) 2) [PageKind.stall.addr n + 0x010] := State.wordsBut_irq _ (by decide) (List.mem_singleton.mpr rfl)
  rw [State.fget_endJobs, State.bit_endJobs]
  exact ⟨State.fget_wordsBut hwords _ (by simpa using hlast) hf, State.bit_wordsBut hwords _ _ (by simpa using hraw) (by decide)⟩

/-! ### A load taken -/

/-- R243: the state with an accepted image in the background. -/
def State.loadTaken (s : State) (n : Nat) (r : LoadRun) (rs : List (Nat × Nat)) : State :=
  (((s.writeImage n r).setStall n { (s.writeImage n r).stall n with load := none, bg := some { r.image with regions := rs } }).tribRelease n).wr64
    (rSTALL_TENANT_BG n) r.image.tenant

theorem loadTaken_closed {rs : List (Nat × Nat)} (hn : n < 32) (hplaced : Within [.regs, .agg, .mem, .fresh] s t)
    (hwords : ∀ a, a < 0x0a000000 → t.word a = s.word a) : s.LoadClosed (t.loadTaken n r rs) n r plLOADED (some { r.image with regions := rs }) := by
  obtain ⟨hmarked, himageWords⟩ := t.writeImage_facts n r
  have hlow : ∀ sh, sh < 384 → rPLANE_STAT sh < 0x0a000000 := fun sh hsh => by unfold rPLANE_STAT; rw [addr_shedCfg]; omega
  have hkept : ∀ sh, sh < 384 → planeKept sh s t := fun sh hsh => planeKept_word (hwords _ (hlow sh hsh))
  have hsheds : t.shedsOf n = s.shedsOf n := State.shedsOf_kept (fun sh hsh => (hkept sh hsh).2.2) n
  have himage : (t.writeImage n r).stalls = s.stalls := ((State.writeImage_within ..).2 .stalls rfl).trans (hplaced.2 .stalls rfl)
  rw [hsheds] at hmarked himageWords
  have hset : s.LoadClosed ((t.writeImage n r).setStall n { (t.writeImage n r).stall n with load := none, bg := some { r.image with regions := rs } }) n r plLOADED
      (some { r.image with regions := rs }) := by
    refine ⟨?_, fun m hm => ?_, fun sh hin => ?_, ?_⟩
    · rw [State.stall_setStall, if_pos rfl, State.stall_same himage]
    · rw [State.stall_setStall, if_neg hm, State.stall_same himage]
    · have hsh := (State.mem_shedsOf.mp hin).1
      obtain ⟨hlive, howner, hstate, hbg⟩ := hmarked sh hin
      obtain ⟨hliveKept, hstateKept, hownerKept⟩ := hkept sh hsh
      rw [hliveKept, hstateKept _ (State.livePlane_lt ..)] at hstate
      rw [State.bgPlane_word (hwords _ (hlow sh hsh))] at hbg
      exact ⟨hlive.trans hliveKept, howner.trans hownerKept, hstate, hbg⟩
    · refine (himageWords _ ?_).trans (hwords _ (by unfold rSTALL_STAT; rw [addr_stall]; omega))
      simpa [List.contains_eq_mem] using fun sh howner heq => planeStat_ne_stallStat hn (State.mem_shedsOf.mp howner).1 heq
  refine hset.wordsBut hn (((State.wr64_within ..).2 .stalls rfl).trans ((State.tribRelease_within ..).2 .stalls rfl)) ?_
  exact ((State.wordsBut_refl _ _).regs ((State.tribRelease_within ..).2 .regs rfl)).wr64 (by simp [loadWords]) (by simp [loadWords])

theorem loadTaken_tenant {rs : List (Nat × Nat)} (p : Job → Bool) (code d : Nat) :
    (((t.loadTaken n r rs).irq (PageKind.stall.addr n) 2).endJobs p code d).rd64 (rSTALL_TENANT_BG n) = r.image.tenant % 2 ^ 64 := by
  have hlow : rSTALL_TENANT_BG n ≠ PageKind.stall.addr n + 0x010 := by unfold rSTALL_TENANT_BG; omega
  have hhigh : rSTALL_TENANT_BG n + 4 ≠ PageKind.stall.addr n + 0x010 := by unfold rSTALL_TENANT_BG; omega
  rw [State.rd64_endJobs]
  calc ((t.loadTaken n r rs).irq (PageKind.stall.addr n) 2).rd64 (rSTALL_TENANT_BG n)
      = (t.loadTaken n r rs).rd64 (rSTALL_TENANT_BG n) := by
        unfold State.rd64
        rw [State.rd32_irq _ _ _ _ (by decide), if_neg hlow, State.rd32_irq _ _ _ _ (by decide), if_neg hhigh]
    _ = r.image.tenant % 2 ^ 64 := State.rd64_wr64 ..

end

/-- Settles O33, by what turns the load away, if anything does. -/
theorem loadEnds : Obligations.LoadEnds := by
  unfold Obligations.LoadEnds
  intro s n hc hn mine after
  have hwithin := s.loadEnd_within n
  refine ⟨fun hload => Answers.intro (exec_loadEnd n s (by simpa [Instr.wf] using hn) hc) ?idle, fun r hload => ?load⟩
  case idle =>
    unfold State.loadEnd
    rw [hload]
  case load =>
    have hexec := exec_loadEnd n s (by simpa [Instr.wf] using hn) hc
    have hafter : ∀ {t v bg p code d}, s.LoadClosed t n r v bg → s.loadEnd n = (t.irq (PageKind.stall.addr n) 2).endJobs p code d →
        after r v bg (s.loadEnd n) := fun {t v bg p code d} hclosed hend => by
      rw [hend] at hwithin ⊢
      obtain ⟨hload, hbg, hlive, hirq, hsheds, hstate, hothers⟩ := hclosed.ended hn p code d
      exact ⟨hload, hbg, hlive, hirq, hsheds, hstate, hothers, hwithin⟩
    refine ⟨fun reason sh tr hroute => ?route, fun hroute hformed => ?format, fun hroute hformed hplace => ?place, fun u rs hroute hformed hplace => ?taken⟩
    case route =>
      have hend : s.loadEnd n = ((s.refusedRoute n reason sh tr).irq (PageKind.stall.addr n) 2).endJobs (fun j => decide (j.kind = .loadImage n)) ccROUTE 0 := by
        unfold State.loadEnd
        rw [hload]
        dsimp only
        rw [hroute]
        rfl
      obtain ⟨hrecorded, hirq⟩ := refusedRoute_recorded s (reason := reason) (sh := sh) (tr := tr) hn
      have hshown := tribShown_ended (s.refusedRoute n reason sh tr) hn (fun j => decide (j.kind = .loadImage n)) ccROUTE 0
      refine Answers.intro hexec ⟨hafter (refusedRoute_closed hn hload) hend, ?_⟩
      rw [hend, State.flag, (hshown fTRIB_REFUSE_LAST_VALID (by decide)).1, (hshown fTRIB_REFUSE_LAST_REASON (by decide)).1,
        (hshown fTRIB_REFUSE_LAST_STALL (by decide)).1, (hshown fTRIB_REFUSE_LAST_VALID (by decide)).2]
      exact ⟨hrecorded, hirq⟩
    case format =>
      refine Answers.intro hexec (hafter (p := fun j => decide (j.kind = .loadImage n)) (code := ccFORMAT) (d := 0) (loadUndo_closed hn hload) ?_)
      unfold State.loadEnd
      rw [hload]
      dsimp only
      rw [hroute]
      exact if_pos (by simp [hformed])
    case place =>
      refine Answers.intro hexec (hafter (p := fun j => decide (j.kind = .loadImage n)) (code := ccOWNER) (d := 0) (loadUndo_closed hn hload) ?_)
      unfold State.loadEnd
      rw [hload]
      dsimp only
      rw [hroute]
      dsimp only
      rw [if_neg (by simp [hformed]), hplace]
    case taken =>
      have hend : s.loadEnd n = ((u.loadTaken n r rs).irq (PageKind.stall.addr n) 2).endJobs (fun j => decide (j.kind = .loadImage n)) ccDONE 0 := by
        unfold State.loadEnd
        rw [hload]
        dsimp only
        rw [hroute]
        dsimp only
        rw [if_neg (by simp [hformed]), hplace]
        rfl
      have hplaced : Within [.regs, .agg, .mem, .fresh] s u := Within.ofSome1 (State.placeRegions_within ..) hplace
      refine Answers.intro hexec ⟨hafter (loadTaken_closed hn hplaced fun a ha => State.placeRegions_word n r.image.slot r.image.entries ha s u rs hplace) hend, ?_⟩
      rw [hend]
      exact loadTaken_tenant ..

end Sys2Proof.Machine
end

section
/-! SUPPORT. The mailboxes: the doorbell, the pop of a completion, and the take of a command (R264–R272). -/

namespace Sys2Proof.Machine

theorem mbox_page {b o : Nat} (hb : b < 6) (ho : o < 4096) : (PageKind.mbox.addr b + o) / 4096 * 4096 = PageKind.mbox.addr b := by
  rw [addr_mbox]; omega

/-! ### RING -/

section
variable {s : State} {req : Req} {b : Nat}

theorem putReg_ring (hreq : req.valid = true) (hb : b < 6) (ht : s.takes req .mbox b 0x040 = true) :
    s.putReg req (rMB_DOORBELL b) 1 = (s.clearView req (PageKind.mbox.addr b)).ringWake req b :=
  (s.putReg_body req .mbox (i := b) (o := 0x040) 1 hreq hb (by decide) (by decide) (by decide) (by decide) ht rfl rfl).trans (body_ring ..)

/-- R272: a doorbell that hands its buffer over sets BUSY, and wakes the device. -/
theorem ringWake_free (hb : b < 6) (hfree : (s.flag (rMB_STAT b) fMB_STAT_ACCEPTING && !s.flag (rMB_STAT b) fMB_STAT_BUSY) = true) :
    (s.ringWake req b).flag (rMB_STAT b) fMB_STAT_BUSY = true ∧ s.wordsBut (s.ringWake req b) [rMB_STAT b, rPWR_STAT 0] := by
  have hring : s.ringWake req b = (s.fset (rMB_STAT b) fMB_STAT_BUSY 1).wake := by
    unfold State.ringWake State.ring
    rw [if_pos hfree, if_pos hfree]
  have hapart : rMB_STAT b ≠ rPWR_STAT 0 := by unfold rMB_STAT rPWR_STAT; rw [addr_mbox, addr_clkCtl]; omega
  rw [hring]
  refine ⟨?_, State.wordsBut_trans (State.wordsBut_fset _ _ (by decide) (List.mem_cons_self ..)) (State.wordsBut_mono (State.wake_words _) (by simp))⟩
  unfold State.flag
  rw [State.fget_wordsBut (State.wake_words _) _ (by simpa using hapart) (by decide), State.fget_fset _ _ _ _ (by decide)]
  rfl

theorem ringWake_refused (hb : b < 6) (hfree : (s.flag (rMB_STAT b) fMB_STAT_ACCEPTING && !s.flag (rMB_STAT b) fMB_STAT_BUSY) = false) :
    (s.ringWake req b).bit (rIRQ_RAW (PageKind.mbox.addr b)) 31 = true ∧ (s.ringWake req b).word (rMB_STAT b) = s.word (rMB_STAT b) := by
  have hring : s.ringWake req b = s.refuse req (rMB_DOORBELL b) causeRule := by
    unfold State.ringWake State.ring
    rw [if_neg (by simp [hfree]), if_neg (by simp [hfree])]
  obtain ⟨hirq, hwords⟩ := s.refuse_plain req (PageKind.mbox.addr b) 0x040 causeRule (mbox_page hb (by decide))
  rw [hring]
  exact ⟨hirq, hwords _ (by simp [rMB_STAT, rERR_COUNT, rIRQ_RAW, rERR_FIRST])⟩

end

/-! ### MB_CPL_POP -/

theorem putReg_pop {s : State} {req : Req} {b : Nat} (hreq : req.valid = true) (hb : b < 6) (ht : s.takes req .mbox b 0x048 = true) :
    s.putReg req (rMB_CPL_POP b) 1 = (s.clearView req (PageKind.mbox.addr b)).cplPop b :=
  (s.putReg_body req .mbox (i := b) (o := 0x048) 1 hreq hb (by decide) (by decide) (by decide) (by decide) ht rfl rfl).trans (body_pop ..)

theorem State.cplPop_facts (s : State) (b : Nat) :
    ((s.cplPop b).mbox b).cpls = (s.mbox b).cpls.tail ∧ (∀ m, m ≠ b → (s.cplPop b).mbox m = s.mbox m) ∧
      (16 < (s.mbox b).cpls.length → (s.cplPop b).bit (rIRQ_RAW (PageKind.mbox.addr b)) 0 = true) ∧
      (s.cplPop b).tol.jobs = s.tol.jobs ∧ s.wordsBut (s.cplPop b) [rIRQ_RAW (PageKind.mbox.addr b)] := by
  have hpopped := s.setMbox_mbox b { s.mbox b with cpls := (s.mbox b).cpls.tail }
  unfold State.cplPop
  dsimp only
  split
  · have htol := (State.irq_within (s.setMbox b { s.mbox b with cpls := (s.mbox b).cpls.tail }) (PageKind.mbox.addr b) 0).2 .tol rfl
    have hbox := fun m => (State.mbox_tol (congrArg Tol.boxes htol) m).trans (hpopped m)
    refine ⟨congrArg MBox.cpls ((hbox b).trans (if_pos rfl)), fun m hm => (hbox m).trans (if_neg hm), fun _ => ?_, (congrArg Tol.jobs htol :).trans rfl,
      ((State.wordsBut_refl _ _).regs rfl).irq (by decide) (by simp [rIRQ_RAW])⟩
    rw [State.bit_irq _ _ _ _ _ (by decide) (by decide), if_pos ⟨rfl, rfl⟩]
  · rename_i hshort
    exact ⟨congrArg MBox.cpls ((hpopped b).trans (if_pos rfl)), fun m hm => (hpopped m).trans (if_neg hm), fun h => absurd h hshort, rfl, State.wordsBut_of_regs _ rfl⟩

/-! ### COMMAND_TAKE -/

/-- The words of a mailbox's page that the take of its command writes. -/
def takeWords (b : Nat) : List Nat := [rMB_STAT b, rIRQ_RAW (PageKind.mbox.addr b)]

/-- R270: `v` is `s` with the command of mailbox `b` taken and perhaps performed, and not answered yet. -/
def State.Taken (s v : State) (b : Nat) : Prop :=
  v.tol.boxes = s.tol.boxes ∧
  v.tol.jobs = s.tol.jobs ∧
  v.tol.served = b ∧
  v.flag (rMB_STAT b) fMB_STAT_BUSY = false ∧
  v.bit (rIRQ_RAW (PageKind.mbox.addr b)) 1 = true

section
variable {s v : State} {b : Nat} (h : s.Taken v b)
include h

theorem State.Taken.boxes : v.tol.boxes = s.tol.boxes := h.1

theorem State.Taken.jobs : v.tol.jobs = s.tol.jobs := h.2.1

theorem State.Taken.served : v.tol.served = b := h.2.2.1

theorem State.Taken.idle : v.flag (rMB_STAT b) fMB_STAT_BUSY = false := h.2.2.2.1

theorem State.Taken.irq : v.bit (rIRQ_RAW (PageKind.mbox.addr b)) 1 = true := h.2.2.2.2

end

/-- R269–R271: mailbox `b` has its command taken, and the completion `e` posted. -/
def State.Posted (s t : State) (b : Nat) (e : Cpl) : Prop :=
  (t.mbox b).cpls = (s.mbox b).cpls ++ [e] ∧ (∀ m, m ≠ b → t.mbox m = s.mbox m) ∧ t.flag (rMB_STAT b) fMB_STAT_BUSY = false ∧
    t.bit (rIRQ_RAW (PageKind.mbox.addr b)) 1 = true ∧ ((s.mbox b).cpls.length < 16 → t.bit (rIRQ_RAW (PageKind.mbox.addr b)) 0 = true) ∧ t.tol.served = b

section
variable {s v u : State} {b : Nat}

theorem takenState_taken (s : State) (b : Nat) : s.Taken (takenState s b) b := by
  obtain ⟨-, htol, hidle, hirq, -, -⟩ := takenState_facts s b
  exact ⟨(congrArg Tol.boxes htol :), (congrArg Tol.jobs htol :), congrArg Tol.served htol, hidle, hirq⟩

/-- A command that works on other pages leaves its mailbox as the take left it. -/
theorem State.Taken.kept (h : s.Taken v b) {l : List Nat} (hwords : v.wordsBut u l) (hstat : l.contains (rMB_STAT b) = false)
    (hraw : l.contains (rIRQ_RAW (PageKind.mbox.addr b)) = false) (hboxes : u.tol.boxes = v.tol.boxes) (hjobs : u.tol.jobs = v.tol.jobs)
    (hserved : u.tol.served = v.tol.served) : s.Taken u b :=
  ⟨hboxes.trans h.boxes, hjobs.trans h.jobs, hserved.trans h.served, (State.flag_of_word (hwords _ hstat) (by decide)).trans h.idle,
    (State.bit_wordsBut hwords _ _ hraw (by decide)).trans h.irq⟩

theorem statApart (b : Nat) : [rIRQ_RAW (PageKind.mbox.addr b)].contains (rMB_STAT b) = false := by
  simp [rIRQ_RAW, rMB_STAT]

/-- R271: a command completed at once. -/
theorem State.Taken.now (h : s.Taken v b) (fan : Option (Nat × Option (Nat × Nat))) (code : Nat) :
    let t := v.completeNow (cmdIn s b) fan code 0
    s.Posted t b (mkCpl (cmdIn s b).seq (cmdIn s b).op code true 0 0) ∧ t.tol = { v.tol with boxes := t.tol.boxes } ∧
      v.wordsBut t [rIRQ_RAW (PageKind.mbox.addr b)] ∧ Within [.regs, .agg, .tol, .out] v t := by
  obtain ⟨hcpls, hothers, htol, hlevel, hwords, hirqs, hwithin⟩ := v.postUp_facts b (mkCpl (cmdIn s b).seq (cmdIn s b).op code true 0 0) fan
  have hbox : ∀ m, v.mbox m = s.mbox m := State.mbox_tol h.boxes
  rw [hbox] at hcpls hlevel
  exact ⟨⟨hcpls, fun m hm => (hothers m hm).trans (hbox m), (State.flag_of_word (hwords _ (statApart b)) (by decide)).trans h.idle,
    hirqs 1 (by decide) h.irq, hlevel, (congrArg Tol.served htol).trans h.served⟩, htol, hwords, hwithin⟩

/-- R269: a command deferred. -/
theorem State.Taken.later (h : s.Taken v b) (fan : Option (Nat × Option (Nat × Nat))) (k : JobKind) (r : Option (Nat × Nat)) :
    let t := v.defer (cmdIn s b) fan s.tide.now k r
    s.Posted t b (mkCpl (cmdIn s b).seq (cmdIn s b).op ccPENDING false (s.nextTicket b) s.tide.now) ∧
      t.tol.jobs = s.tol.jobs ++ [⟨b, (cmdIn s b).seq, (cmdIn s b).op, s.nextTicket b, false, k, r, fan⟩] ∧
      v.wordsBut t [rIRQ_RAW (PageKind.mbox.addr b)] ∧ Within [.regs, .agg, .tol] v t := by
  obtain ⟨hcpls, hothers, htol, hlevel, hwords, hirqs, hwithin⟩ := v.defer_facts (cmdIn s b) fan s.tide.now k r
  have hbox : ∀ m, v.mbox m = s.mbox m := State.mbox_tol h.boxes
  have hticket : v.nextTicket (cmdIn s b).box = s.nextTicket b := State.nextTicket_tol b h.jobs h.boxes
  rw [hbox, hticket] at hcpls
  rw [hbox] at hlevel
  rw [hticket, h.jobs] at htol
  exact ⟨⟨hcpls, fun m hm => (hothers m hm).trans (hbox m), (State.flag_of_word (hwords _ (statApart b)) (by decide)).trans h.idle,
    hirqs 1 (by decide) h.irq, hlevel, (congrArg Tol.served htol).trans h.served⟩, congrArg Tol.jobs htol, hwords, hwithin⟩

/-- The take of a command that writes the mailbox's page and the Sluice's alone changes no page's owner. -/
theorem ownerChange_taken (hb : b < 6) {t : State} {l : List Nat} (hwords : s.wordsBut t l) (hl : ∀ a ∈ l, a ∈ takeWords b ∨ a / 4096 = 0xa000)
    (hstalls : t.stalls = s.stalls) (heddies : t.eddies = s.eddies) : s.ownerChange t = t := by
  refine State.ownerChange_low hstalls heddies fun a ha => hwords a ?_
  rw [List.contains_eq_mem, decide_eq_false_iff_not]
  intro hmem
  have hlow : a ∈ takeWords b → a < 0x10000 ∧ a ≠ rTOL_INFO 0 := fun hin => by
    simp only [takeWords, List.mem_cons, List.not_mem_nil, or_false, rMB_STAT, rIRQ_RAW, addr_mbox] at hin
    unfold rTOL_INFO
    rw [addr_tolmor]
    omega
  have hinfo : rTOL_INFO 0 / 4096 ≠ 0xa000 := by decide
  rcases hl a hmem with hin | hpage
  · obtain ⟨hbelow, hne⟩ := hlow hin
    rcases ha with ⟨habove, -⟩ | heq
    · omega
    · exact hne heq
  · rcases ha with ⟨-, hapart⟩ | heq
    · exact hapart hpage
    · exact hinfo (heq ▸ hpage)

theorem commandTake_idle (env : CmdEnv) (h : s.dead = true ∨ s.nextBox = none) : s.ownerChange (s.commandTake env) = s := by
  have hsame : s.commandTake env = s := by
    unfold State.commandTake
    rcases h with hdead | hnone
    · rw [if_pos hdead]
    · split
      · rfl
      · rw [hnone]
  rw [hsame]
  exact State.ownerChange_same s s fun _ _ => rfl

/-- A command that a check turns away, and that changes nothing else. -/
theorem commandTake_refused (env : CmdEnv) (hc : s.clocked = true) (hdead : s.dead = false) (hb : s.nextBox = some b) {code : Nat}
    (hjudge : (takenState s b).judgeCmd (cmdIn s b) (s.cmdWord b 0) (s.cmdWord b 1) env = .now code 0 (takenState s b)) :
    Answers (.commandTake env) s fun t => s.Posted t b (mkCpl (cmdIn s b).seq (cmdIn s b).op code true 0 0) ∧ t.tol.jobs = s.tol.jobs ∧
      s.wordsBut t (takeWords b) ∧ Within [.regs, .views, .agg, .tree, .tol, .out] s t := by
  obtain ⟨fan, htake⟩ := s.commandTake_now env b code 0 (takenState s b) hdead hb hjudge
  obtain ⟨-, -, -, -, htaken, hwithinTaken⟩ := takenState_facts s b
  obtain ⟨hposted, htol, hwords, hwithin⟩ := (takenState_taken s b).now fan code
  have hall : s.wordsBut (s.commandTake env) (takeWords b) := htake ▸ State.wordsBut_trans htaken (State.wordsBut_mono hwords (by simp [takeWords]))
  have hin : Within [.regs, .views, .agg, .tree, .tol, .out] s (s.commandTake env) := htake ▸ hwithin.via rfl (hwithinTaken.mono rfl)
  refine Answers.intro (exec_commandTake env s rfl hc) ?_
  rw [ownerChange_taken (s.nextBox_lt hb) hall (fun a ha => .inl ha) (hin.2 .stalls rfl) (hin.2 .eddies rfl)]
  exact ⟨htake ▸ hposted, htake ▸ (congrArg Tol.jobs htol).trans (takenState_taken s b).jobs, hall, hin⟩

/-! ### The checks -/

/-- The checks of a command read nothing that its take has written. -/
theorem takenState_checks (c : CmdIn) (hb : b < 6) : (takenState s b).authorised c = s.authorised c ∧ (takenState s b).ticketsOut b = s.ticketsOut b := by
  obtain ⟨-, htol, -, -, hwords, hwithin⟩ := takenState_facts s b
  refine ⟨State.authorised_same c (hwords _ ?_) (hwords _ ?_) (hwithin.2 .stalls rfl) (congrArg Tol.keyBox htol :), State.ticketsOut_boxes b (congrArg Tol.jobs htol :)⟩
  · simp only [List.contains_cons, List.contains_nil, Bool.or_false, Bool.or_eq_false_iff, beq_eq_false_iff_ne, rTOL_INFO, rMB_STAT, rIRQ_RAW, addr_tolmor, addr_mbox]
    omega
  · simp only [List.contains_cons, List.contains_nil, Bool.or_false, Bool.or_eq_false_iff, beq_eq_false_iff_ne, rDBG_GRANT, rMB_STAT, rIRQ_RAW, addr_dbgSess, addr_mbox]
    omega

section
variable {env : CmdEnv} {w0 w1 : Nat} {masks : List Nat}

theorem judgeCmd_opcode (s : State) {c : CmdIn} (h : cmdMasks c.op = none) : s.judgeCmd c w0 w1 env = .now ccOPCODE 0 s := by
  unfold State.judgeCmd
  rw [h]

variable {c : CmdIn} (hmasks : cmdMasks c.op = some masks)
include hmasks

theorem judgeCmd_format (s : State) (h : c.formed w0 w1 masks = false) : s.judgeCmd c w0 w1 env = .now ccFORMAT 0 s := by
  unfold State.judgeCmd
  rw [hmasks]
  exact if_pos (by simp [h])

theorem judgeCmd_auth (s : State) (hformed : c.formed w0 w1 masks = true) (h : s.authorised c = false) : s.judgeCmd c w0 w1 env = .now ccAUTH 0 s := by
  unfold State.judgeCmd
  rw [hmasks]
  dsimp only
  rw [if_neg (by simp [hformed]), if_pos (by simp [h])]

theorem judgeCmd_checked (s : State) (hformed : c.formed w0 w1 masks = true) (hauth : s.authorised c = true) :
    s.judgeCmd c w0 w1 env = if c.defers && decide (32 ≤ (s.ticketsOut c.box).length) then .now ccBUSY 0 s else s.perform c env := by
  unfold State.judgeCmd
  rw [hmasks]
  dsimp only
  rw [if_neg (by simp [hformed]), if_neg (by simp [hauth])]

end

/-! ### LOAD_KEY and RETIRE_KEY -/

/-- The words that loading or retiring the keys of a slot writes. -/
def slotWords (k : Nat) : List Nat := [rSLUICE_WEAR 0 k, rSLUICE_WEAR 0 k + 4, rSLUICE_SLOT 0 k]

theorem slotWords_page {k : Nat} (hk : k < 128) : ∀ a ∈ slotWords k, a / 4096 = 0xa000 := by
  simp only [slotWords, rSLUICE_WEAR, rSLUICE_SLOT, sluice_addr, List.mem_cons, List.not_mem_nil, or_false]
  rintro a (rfl | rfl | rfl) <;> omega

theorem slotWords_apart_mbox {k b : Nat} (hk : k < 128) (hb : b < 6) : (slotWords k).contains (rMB_STAT b) = false ∧
    (slotWords k).contains (rIRQ_RAW (PageKind.mbox.addr b)) = false ∧ [rIRQ_RAW (PageKind.mbox.addr b)].contains (rSLUICE_SLOT 0 k) = false := by
  simp only [slotWords, List.contains_cons, List.contains_nil, Bool.or_false, Bool.or_eq_false_iff, beq_eq_false_iff_ne, rSLUICE_WEAR, rSLUICE_SLOT, rMB_STAT,
    rIRQ_RAW, sluice_addr, addr_mbox]
  omega

/-- R279: the state with the keys of a mailbox in a slot. -/
def State.keyLoaded (s : State) (b k : Nat) (k1 k2 kt : BitVec 256) : State :=
  (s.loadSlot k k1 k2 kt false).setTol { (s.loadSlot k k1 k2 kt false).tol with keyBox := smSet none (s.loadSlot k k1 k2 kt false).tol.keyBox k (some b) }

theorem State.keyLoaded_facts (s : State) (b k : Nat) (k1 k2 kt : BitVec 256) :
    s.wordsBut (s.keyLoaded b k k1 k2 kt) (slotWords k) ∧ (s.keyLoaded b k k1 k2 kt).slotState k = 1 ∧ (s.keyLoaded b k k1 k2 kt).slot k = ⟨k1, k2, kt, s.mem.nextKid⟩ ∧
      (∀ j, j ≠ k → (s.keyLoaded b k k1 k2 kt).slot j = s.slot j) ∧
      (s.keyLoaded b k k1 k2 kt).tol = { s.tol with keyBox := smSet none s.tol.keyBox k (some b) } ∧ Within [.regs, .agg, .mem, .tol] s (s.keyLoaded b k k1 k2 kt) := by
  obtain ⟨hstate, hslot, hslots, hwords, hwithin⟩ := s.loadSlot_facts k k1 k2 kt
  have hloadTol : (s.loadSlot k k1 k2 kt false).tol = s.tol := hwithin.2 .tol rfl
  unfold State.keyLoaded
  rw [hloadTol]
  generalize s.loadSlot k k1 k2 kt false = u at hstate hslot hslots hwords hwithin
  exact ⟨hwords.regs rfl, hstate, hslot, hslots, rfl, (State.setTol_within ..).via rfl (hwithin.mono rfl)⟩

theorem perform_loadKey (s : State) {c : CmdIn} (env : CmdEnv) (h : c.op = 0x10) : s.perform c env = s.loadKey c env := by
  unfold State.perform
  rw [h] <;> rfl

theorem perform_retireKey (s : State) {c : CmdIn} (env : CmdEnv) (h : c.op = 0x11) : s.perform c env = s.retireKey c := by
  unfold State.perform
  rw [h] <;> rfl

theorem loadKey_done (s : State) {c : CmdIn} {env : CmdEnv} {k1 k2 kt : BitVec 256} (h0 : c.arg 0 ≠ 0) (hstate : s.slotState (c.arg 0) = 0)
    (hsession : (c.arg 1, c.box) ∈ s.tol.sessions) (hkeys : env.keys = some (k1, k2, kt)) :
    s.loadKey c env = .now ccDONE 0 (s.keyLoaded c.box (c.arg 0) k1 k2 kt) := by
  have hany : s.tol.sessions.any (fun x => decide (x.1 = c.arg 1) && decide (x.2 = c.box)) = true :=
    List.any_eq_true.mpr ⟨_, hsession, by simp⟩
  unfold State.loadKey
  dsimp only
  rw [if_neg h0, if_neg (not_not_intro hstate), if_neg (by simp only [hany]; decide), hkeys]
  rfl

theorem retireKey_pending (s : State) {c : CmdIn} (h0 : c.arg 0 ≠ 0) (hstate : s.slotState (c.arg 0) = 1) :
    s.retireKey c = .later (.retireKey (c.arg 0)) none (s.retireSlot (c.arg 0)) := by
  unfold State.retireKey
  dsimp only
  rw [if_neg h0, if_neg (not_not_intro hstate)]

theorem takenState_slots (s : State) {b : Nat} (hb : b < 6) (k : Nat) (hk : k < 128) : (takenState s b).slotState k = s.slotState k ∧ (takenState s b).mem = s.mem := by
  obtain ⟨-, -, -, -, hwords, hwithin⟩ := takenState_facts s b
  refine ⟨State.fget_wordsBut hwords _ ?_ (by decide), hwithin.2 .mem rfl⟩
  simp only [List.contains_cons, List.contains_nil, Bool.or_false, Bool.or_eq_false_iff, beq_eq_false_iff_ne, rSLUICE_SLOT, rMB_STAT, rIRQ_RAW, sluice_addr, addr_mbox]
  omega

/-- R279: LOAD_KEY of a session that wraps keys. -/
theorem commandTake_loadKey {env : CmdEnv} (hc : s.clocked = true) (hdead : s.dead = false) (hb : s.nextBox = some b) {k : Nat} (hk : k < 128)
    {k1 k2 kt : BitVec 256} (hjudge : (takenState s b).judgeCmd (cmdIn s b) (s.cmdWord b 0) (s.cmdWord b 1) env =
      .now ccDONE 0 ((takenState s b).keyLoaded b k k1 k2 kt)) :
    Answers (.commandTake env) s fun t => s.Posted t b (mkCpl (cmdIn s b).seq (cmdIn s b).op ccDONE true 0 0) ∧ t.slotState k = 1 ∧
      t.slot k = ⟨k1, k2, kt, s.mem.nextKid⟩ ∧ (∀ j, j ≠ k → t.slot j = s.slot j) ∧ smGet none t.tol.keyBox k = some b ∧ t.tol.jobs = s.tol.jobs ∧
      Within [.regs, .views, .agg, .mem, .tree, .tol, .out] s t := by
  have hbox := s.nextBox_lt hb
  obtain ⟨fan, htake⟩ := s.commandTake_now env b ccDONE 0 _ hdead hb hjudge
  obtain ⟨-, -, -, -, htaken, hwithinTaken⟩ := takenState_facts s b
  obtain ⟨hstatApart, hrawApart, hslotApart⟩ := slotWords_apart_mbox hk hbox
  obtain ⟨hloadWords, hstate, hslot, hslots, hloadTol, hloadWithin⟩ := (takenState s b).keyLoaded_facts b k k1 k2 kt
  have hmem : (takenState s b).mem = s.mem := (takenState_slots s hbox k hk).2
  have hloaded : s.Taken ((takenState s b).keyLoaded b k k1 k2 kt) b := (takenState_taken s b).kept hloadWords hstatApart hrawApart
    (congrArg Tol.boxes hloadTol :) (congrArg Tol.jobs hloadTol :) (congrArg Tol.served hloadTol :)
  obtain ⟨hposted, htol, hwords, hwithin⟩ := hloaded.now fan ccDONE
  rw [← htake] at hposted htol hwords hwithin
  have hall : s.wordsBut (s.commandTake env) (takeWords b ++ slotWords k) :=
    State.wordsBut_trans (State.wordsBut_mono htaken (by simp [takeWords])) (State.wordsBut_trans (State.wordsBut_mono hloadWords (by simp [slotWords]))
      (State.wordsBut_mono hwords (by simp [takeWords])))
  have hin : Within [.regs, .views, .agg, .mem, .tree, .tol, .out] s (s.commandTake env) := hwithin.via rfl (hloadWithin.via rfl (hwithinTaken.mono rfl))
  have hslotSame : ∀ j, (s.commandTake env).slot j = ((takenState s b).keyLoaded b k k1 k2 kt).slot j := fun j =>
    congrArg (fun m : Mem => smGet KeySlot.empty m.slots j) (hwithin.2 .mem rfl)
  refine Answers.intro (exec_commandTake env s rfl hc) ?_
  rw [ownerChange_taken hbox hall (fun a ha => (List.mem_append.mp ha).imp_right (slotWords_page hk a)) (hin.2 .stalls rfl) (hin.2 .eddies rfl)]
  refine ⟨hposted, (State.fget_wordsBut hwords _ hslotApart (by decide)).trans hstate, ?_, fun j hj => ?_, ?_, (congrArg Tol.jobs htol).trans hloaded.jobs, hin⟩
  · rw [hslotSame, hslot, hmem]
  · rw [hslotSame, hslots j hj]
    exact congrArg (fun m : Mem => smGet KeySlot.empty m.slots j) hmem
  · have hkeyBox : (s.commandTake env).tol.keyBox = smSet none (takenState s b).tol.keyBox k (some b) :=
      (congrArg Tol.keyBox htol).trans (congrArg Tol.keyBox hloadTol :)
    rw [hkeyBox, smGet_smSet, if_pos rfl]

/-- R225: RETIRE_KEY of a LOADED slot. -/
theorem commandTake_retireKey {env : CmdEnv} (hc : s.clocked = true) (hdead : s.dead = false) (hb : s.nextBox = some b) {k : Nat} (hk : k < 128)
    (hjudge : (takenState s b).judgeCmd (cmdIn s b) (s.cmdWord b 0) (s.cmdWord b 1) env = .later (.retireKey k) none ((takenState s b).retireSlot k)) :
    Answers (.commandTake env) s fun t => s.Posted t b (mkCpl (cmdIn s b).seq (cmdIn s b).op ccPENDING false (s.nextTicket b) s.tide.now) ∧ t.slotState k = 2 ∧
      (∃ j : Job, t.tol.jobs = s.tol.jobs ++ [j] ∧ j.box = b ∧ j.ticket = s.nextTicket b ∧ j.kind = .retireKey k) ∧ t.mem = s.mem ∧
      Within [.regs, .views, .agg, .tree, .tol, .out] s t := by
  have hbox := s.nextBox_lt hb
  obtain ⟨fan, htake⟩ := s.commandTake_later env b _ _ _ hdead hb hjudge
  obtain ⟨-, -, -, -, htaken, hwithinTaken⟩ := takenState_facts s b
  obtain ⟨hstatApart, hrawApart, hslotApart⟩ := slotWords_apart_mbox hk hbox
  have hretireWords : (takenState s b).wordsBut ((takenState s b).retireSlot k) (slotWords k) := State.wordsBut_fset _ _ (by decide) (by simp [slotWords])
  have hretireWithin := (takenState s b).retireSlot_within k
  have hretireTol := hretireWithin.2 .tol rfl
  have hretired : s.Taken ((takenState s b).retireSlot k) b := (takenState_taken s b).kept hretireWords hstatApart hrawApart
    (congrArg Tol.boxes hretireTol) (congrArg Tol.jobs hretireTol) (congrArg Tol.served hretireTol)
  have hstate : ((takenState s b).retireSlot k).slotState k = 2 := State.fget_fset _ _ _ _ (by decide)
  obtain ⟨hposted, hjobs, hwords, hwithin⟩ := hretired.later fan (.retireKey k) none
  rw [← htake] at hposted hjobs hwords hwithin
  have hall : s.wordsBut (s.commandTake env) (takeWords b ++ slotWords k) :=
    State.wordsBut_trans (State.wordsBut_mono htaken (by simp [takeWords])) (State.wordsBut_trans (State.wordsBut_mono hretireWords
      (by simp [slotWords])) (State.wordsBut_mono hwords (by simp [takeWords])))
  have hin : Within [.regs, .views, .agg, .tree, .tol, .out] s (s.commandTake env) := hwithin.via rfl (hretireWithin.via rfl (hwithinTaken.mono rfl))
  refine Answers.intro (exec_commandTake env s rfl hc) ?_
  rw [ownerChange_taken hbox hall (fun a ha => (List.mem_append.mp ha).imp_right (slotWords_page hk a)) (hin.2 .stalls rfl) (hin.2 .eddies rfl)]
  exact ⟨hposted, (State.fget_wordsBut hwords _ hslotApart (by decide)).trans hstate, ⟨_, hjobs, rfl, rfl, rfl⟩, hin.2 .mem rfl, hin⟩

end

/-- Settles O34, by what the command comes to at its take. -/
theorem mailboxCommands : Obligations.MailboxCommands := by
  unfold Obligations.MailboxCommands
  intro s hc
  refine ⟨fun req b hreq hb ht => ?ring, fun req b hreq hb ht => ?pop, fun env hidle => ?idle, fun env b hdead hb => ?take⟩
  case ring =>
    intro free
    have hview := s.clearView_within req (PageKind.mbox.addr b)
    have hwithin : Within [.regs, .views, .agg] s ((s.clearView req (PageKind.mbox.addr b)).ringWake req b) := (State.ringWake_within ..).via rfl (hview.mono rfl)
    have hexec := (exec_ring req b s (by simp [Instr.wf, hreq, hb]) hc).trans (congrArg _ (putReg_ring hreq hb ht))
    refine ⟨fun hfree => Answers.intro hexec ?_, fun hfree => Answers.intro hexec ?_⟩
    · obtain ⟨hbusy, hwords⟩ := (ringWake_free hb hfree : ((s.clearView req (PageKind.mbox.addr b)).ringWake req b).flag _ _ = true ∧ _)
      exact ⟨hbusy, hwords, hwithin.2 .tol rfl, hwithin⟩
    · obtain ⟨hirq, hword⟩ := (ringWake_refused hb hfree : ((s.clearView req (PageKind.mbox.addr b)).ringWake req b).bit _ _ = true ∧ _)
      exact ⟨hirq, hword, hwithin.2 .tol rfl, hwithin⟩
  case pop =>
    obtain ⟨hcpls, hothers, hirq, hjobs, hwords⟩ := (s.clearView req (PageKind.mbox.addr b)).cplPop_facts b
    refine Answers.intro ((exec_cplPop req b s (by simp [Instr.wf, hreq, hb]) hc).trans (congrArg _ (putReg_pop hreq hb ht))) ?_
    exact ⟨hcpls, hothers, hirq, hjobs, hwords, (State.cplPop_within ..).via rfl ((s.clearView_within req _).mono rfl)⟩
  case idle => exact Answers.intro (exec_commandTake env s rfl hc) (commandTake_idle env hidle)
  case take =>
    intro w0 w1 c full posted refused
    have hbox := s.nextBox_lt hb
    obtain ⟨hauthSame, htickets⟩ := takenState_checks (s := s) c hbox
    have hbusy : decide (32 ≤ ((takenState s b).ticketsOut c.box).length) = full := by rw [show c.box = b from rfl, htickets]
    refine ⟨fun hop => commandTake_refused env hc hdead hb (judgeCmd_opcode _ hop), fun masks hmasks => ⟨fun hformed => ?format, fun hformed hauth => ?auth,
      fun hformed hauth hfull => ?busy, fun k1 k2 kt hformed hauth hop h0 hstate hsession hkeys => ?load, fun hformed hauth hop hfull h0 hstate => ?retire⟩⟩
    case format => exact commandTake_refused env hc hdead hb (judgeCmd_format hmasks _ hformed)
    case auth => exact commandTake_refused env hc hdead hb (judgeCmd_auth hmasks _ hformed (hauthSame.trans hauth))
    case busy =>
      refine commandTake_refused env hc hdead hb ((judgeCmd_checked hmasks _ hformed (hauthSame.trans hauth)).trans (if_pos ?_))
      exact (congrArg (c.defers && ·) hbusy).trans hfull
    case load =>
      have hmask : masks = [0x7F, wAny] ++ List.replicate 26 wAny := Option.some.inj (hmasks.symm.trans (congrArg cmdMasks hop))
      have hk : c.arg 0 < 128 := Nat.lt_succ_of_le (CmdIn.arg0_le (hmask ▸ hformed))
      have hnow : c.defers = false := by unfold CmdIn.defers; rw [hop]; rfl
      refine commandTake_loadKey hc hdead hb hk ?_
      refine (judgeCmd_checked hmasks _ hformed (hauthSame.trans hauth)).trans ((if_neg (by rw [hnow, Bool.false_and]; decide)).trans ((perform_loadKey _ env hop).trans ?_))
      obtain ⟨-, htol, -, -, -, -⟩ := takenState_facts s b
      exact loadKey_done _ h0 ((takenState_slots s hbox _ hk).1.trans hstate) ((congrArg Tol.sessions htol :) ▸ hsession) hkeys
    case retire =>
      have hmask : masks = [0x7F] := Option.some.inj (hmasks.symm.trans (congrArg cmdMasks hop))
      have hk : c.arg 0 < 128 := Nat.lt_succ_of_le (CmdIn.arg0_le (hmask ▸ hformed))
      obtain ⟨t, hanswer, hposted, hslot, hjob, hmem, hwithin⟩ := commandTake_retireKey (env := env) hc hdead hb hk
        ((judgeCmd_checked hmasks _ hformed (hauthSame.trans hauth)).trans ((if_neg (by rw [hbusy, hfull, Bool.and_false]; decide)).trans
          ((perform_retireKey _ env hop).trans (retireKey_pending _ h0 ((takenState_slots s hbox _ hk).1.trans hstate)))))
      exact ⟨t, hanswer, s.nextTicket b, hposted, s.nextTicket_facts b (by simpa [full] using hfull), hslot, hjob, hmem, hwithin⟩

end Sys2Proof.Machine
end

section
/-! SUPPORT. The ends of deferred commands, and the event log (R263, R269, R272, R286, R310). -/

namespace Sys2Proof.Machine

/-! ### DEFERRED_COMPLETION -/

/-- R269, R272: `t` is `s` with the deferred command `j` ended with CODE and DATA. -/
def State.JobEnded (s t : State) (j : Job) (code data : Nat) : Prop :=
  t.tol.jobs = s.tol.jobs.filter (fun x => !(decide (x.box = j.box) && decide (x.ticket = j.ticket))) ∧
    (j.orphan = false → (t.mbox j.box).cpls = (s.mbox j.box).cpls ++ [mkCpl j.seq j.op code true j.ticket data] ∧ t.tol.log = s.tol.log) ∧
    (j.orphan = true → (∃ e : LogEntry, t.tol.log = (if s.tol.log.length < 1024 then s.tol.log ++ [e] else s.tol.log.tail ++ [e]) ∧ e.source = 8 ∧ e.code = code ∧
      e.seq = s.rd32 (rLOG_NEXT 0)) ∧ t.mbox j.box = s.mbox j.box) ∧ ∀ m, m ≠ j.box → t.mbox m = s.mbox m

section
variable {s : State} {box ticket : Nat} {copied : Bool} {j : Job}

/-- The words that the end of a deferred command writes lie on Tolmor's own page and on its mailbox's. -/
theorem endWords_apart (hb : box < 6) {a : Nat} (ha : (a / 4096 < 8 ∧ a / 4096 ≠ 1) ∨ 13 < a / 4096 ∨ a = rTOL_INFO 0) :
    [rLOG_NEXT 0, rIRQ_RAW (PageKind.mbox.addr box)].contains a = false := by
  simp only [List.contains_cons, List.contains_nil, Bool.or_false, Bool.or_eq_false_iff, beq_eq_false_iff_ne, rLOG_NEXT, rTOL_INFO, rIRQ_RAW, addr_tolmor,
    addr_mbox] at ha ⊢
  omega

/-- R269: the command ended, no page's owner has changed, and the registers of other pages are as they were. -/
theorem finishJob_ended (hb : box < 6) (hbox : j.box = box) (code data : Nat) (hdead : s.dead = false) :
    s.ownerChange (s.finishJob j code data) = s.finishJob j code data ∧ s.JobEnded (s.finishJob j code data) j code data ∧
      (∀ a, a / 4096 ≠ 1 → a / 4096 < 8 ∨ 13 < a / 4096 → (s.finishJob j code data).word a = s.word a) ∧
      Within [.regs, .views, .agg, .tol, .out] s (s.finishJob j code data) := by
  obtain ⟨hjobs, hposted, horphan, hothers, hwords, hwithin⟩ := s.finishJob_facts j code data hdead
  rw [hbox] at hwords
  refine ⟨State.ownerChange_low (hwithin.2 .stalls rfl) (hwithin.2 .eddies rfl) fun a ha => hwords a (endWords_apart hb ?_),
    ⟨hjobs, hposted, horphan, hothers⟩, fun a hpage ha => hwords a (endWords_apart hb ?_), hwithin.mono rfl⟩
  · rcases ha with ⟨habove, -⟩ | hinfo
    · exact .inr (.inl (by omega))
    · exact .inr (.inr hinfo)
  · rcases ha with hlow | hhigh
    · exact .inl ⟨hlow, hpage⟩
    · exact .inr (.inl hhigh)

theorem deferredEnd_none (h : s.dead = true ∨ s.tol.jobs.find? (fun j => decide (j.box = box) && decide (j.ticket = ticket)) = none) :
    s.deferredEnd box ticket copied = s := by
  unfold State.deferredEnd
  rcases h with hdead | hnone
  · rw [if_pos hdead]
  · rw [hnone]
    exact ite_self s

theorem deferredEnd_decided {code data : Nat} (hdead : s.dead = false)
    (hjob : s.tol.jobs.find? (fun j => decide (j.box = box) && decide (j.ticket = ticket)) = some j) (hresult : j.result = some (code, data)) :
    s.deferredEnd box ticket copied = s.finishJob j code data := by
  unfold State.deferredEnd
  rw [if_neg (by simp [hdead]), hjob]
  dsimp only
  rw [hresult]

theorem deferredEnd_ready {code data : Nat} {t : State} (hdead : s.dead = false)
    (hjob : s.tol.jobs.find? (fun j => decide (j.box = box) && decide (j.ticket = ticket)) = some j) (hresult : j.result = none)
    (hready : s.jobReady j copied = some (code, data, t)) : s.deferredEnd box ticket copied = t.finishJob j code data := by
  unfold State.deferredEnd
  rw [if_neg (by simp [hdead]), hjob]
  dsimp only
  rw [hresult]
  dsimp only
  rw [hready]

theorem deferredEnd_waits (hdead : s.dead = false)
    (hjob : s.tol.jobs.find? (fun j => decide (j.box = box) && decide (j.ticket = ticket)) = some j) (hresult : j.result = none)
    (hready : s.jobReady j copied = none) (hkind : ∀ n k, j.kind ≠ .rekeyStall n k) : s.deferredEnd box ticket copied = s := by
  unfold State.deferredEnd
  rw [if_neg (by simp [hdead]), hjob]
  dsimp only
  rw [hresult]
  dsimp only
  rw [hready]
  dsimp only
  split
  · rename_i n k h
    exact absurd h (hkind n k)
  · rfl

theorem jobReady_retireKey {k : Nat} (hkind : j.kind = .retireKey k) :
    s.jobReady j copied = if s.slotState k = 0 then some (ccDONE, 0, s) else none := by
  unfold State.jobReady
  rw [hkind]

theorem jobReady_createRegion {p i : Nat} (hkind : j.kind = .createRegion p i) :
    s.jobReady j copied = if s.rgnState p i = 0 then some (ccABANDONED, 0, s) else if 2 ≤ s.rgnState p i then some (ccDONE, i, s) else none := by
  unfold State.jobReady
  rw [hkind]

end

theorem find?_box {jobs : List Job} {box ticket : Nat} {j : Job} (h : jobs.find? (fun j => decide (j.box = box) && decide (j.ticket = ticket)) = some j) :
    j.box = box := by
  have hfound := List.find?_some h
  simp only [Bool.and_eq_true, decide_eq_true_eq] at hfound
  exact hfound.1

/-! ### FANOUT_END -/

section
variable {s : State} {id : Nat} {timeout copied : Bool}

theorem fanEnd_waits (h : s.dead = true ∨ s.tol.jobs.find? (fun j => decide (j.kind = .fanout id)) = none ∨
    ∀ f, s.tree.fans.find? (fun f => f.id = id) = some f → (timeout || f.targets.all (fun x => !x.reached || x.cpl.isSome)) = false) :
    s.fanEnd id timeout copied = s := by
  unfold State.fanEnd
  split
  · rename_i f j hf hj
    refine if_pos ?_
    rcases h with hdead | hnone | hopen
    · rw [hdead, Bool.or_true]
    · rw [hnone] at hj
      cases hj
    · rw [hopen f hf]
      rfl
  · rfl

/-- R310: a FANOUT that ends has written its results where it can, and completes with the number of its targets or COPY_FAILED. -/
theorem fanEnd_finishes {f : Fan} {j : Job} (hdead : s.dead = false) (hf : s.tree.fans.find? (fun f => f.id = id) = some f)
    (hj : s.tol.jobs.find? (fun j => decide (j.kind = .fanout id)) = some j) (hended : (timeout || f.targets.all (fun x => !x.reached || x.cpl.isSome)) = true) :
    ∃ (u : State) (code data : Nat), s.fanEnd id timeout copied = u.finishJob j code data ∧ (code = ccDONE ∧ data = f.targets.length ∨ code = ccCOPY ∧ data = 0) ∧
      lowSame s u ∧ u.tree = { s.tree with fans := s.tree.fans.filter (fun g => g.id ≠ id) } := by
  have htree : ∀ loc : Loc, (((s.setTree { s.tree with fans := s.tree.fans.filter (fun g => g.id ≠ id) }).writeLoc f.box loc f.result_ copied).1).tree =
      { s.tree with fans := s.tree.fans.filter (fun g => g.id ≠ id) } := fun loc => (State.writeLoc_within ..).2 .tree rfl
  have hlow := fun loc : Loc => lowSame_writeLoc (s.setTree { s.tree with fans := s.tree.fans.filter (fun g => g.id ≠ id) }) f.box loc f.result_ copied
  have hset : lowSame s (s.setTree { s.tree with fans := s.tree.fans.filter (fun g => g.id ≠ id) }) := lowSame_regs rfl rfl
  unfold State.fanEnd
  rw [hf, hj]
  dsimp only
  rw [if_neg (by simp only [hended, hdead]; decide)]
  split
  · rename_i loc hloc
    split
    · exact ⟨_, ccCOPY, 0, rfl, .inr ⟨rfl, rfl⟩, hset, rfl⟩
    · split
      · exact ⟨_, ccDONE, _, rfl, .inl ⟨rfl, rfl⟩, lowSame_trans hset (hlow loc), htree loc⟩
      · exact ⟨_, ccCOPY, 0, rfl, .inr ⟨rfl, rfl⟩, lowSame_trans hset (hlow loc), htree loc⟩
  · exact ⟨_, ccCOPY, 0, rfl, .inr ⟨rfl, rfl⟩, hset, rfl⟩

theorem lowSame_dead {t : State} (h : lowSame s t) : t.dead = s.dead := by
  obtain ⟨-, -, -, hwords⟩ := h
  unfold State.dead
  rw [State.fget_of_word _ (hwords _ (by decide)) (by decide)]

end

/-! ### EVENT_LOG_COPY -/

/-- R286: the event record of a block copied, and those overwritten before it counted. -/
theorem eventLogCopy_facts (s : State) (source index : Nat) (hdead : s.dead = false) (hn : smGet 0 s.tol.unlogged (65536 * source + index) ≠ 0) :
    let t := s.eventLogCopy source index
    (∃ e : LogEntry, t.tol.log = (if s.tol.log.length < 1024 then s.tol.log ++ [e] else s.tol.log.tail ++ [e]) ∧ e.source = source ∧ e.seq = s.rd32 (rLOG_NEXT 0) ∧
        e.tide = s.tide.now ∧ (source ≠ 4 → e.index = index)) ∧
      t.rd32 (rLOG_NEXT 0) = (s.rd32 (rLOG_NEXT 0) + 1) % 2 ^ 32 ∧
      t.fget (rLOG_MISSED 0) fLOG_MISSED_COUNT = satAdd 16 (s.fget (rLOG_MISSED 0) fLOG_MISSED_COUNT) (smGet 0 s.tol.unlogged (65536 * source + index) - 1) ∧
      smGet 0 t.tol.unlogged (65536 * source + index) = 0 ∧ s.wordsBut t [rLOG_NEXT 0, rLOG_MISSED 0] ∧ t.tol.jobs = s.tol.jobs := by
  have hcopy : ∃ (u : State) (index' detail code : Nat), s.eventLogCopy source index = u.logEvent source code index' detail ∧ (source ≠ 4 → index' = index) ∧
      u = (s.setTol { s.tol with unlogged := smSet 0 s.tol.unlogged (65536 * source + index) 0 }).fadd (rLOG_MISSED 0) fLOG_MISSED_COUNT
        (smGet 0 s.tol.unlogged (65536 * source + index) - 1) := by
    unfold State.eventLogCopy
    dsimp only
    rw [if_neg (by simp [hdead, hn])]
    exact ⟨_, _, _, _, rfl, fun h => if_neg h, rfl⟩
  obtain ⟨u, index', detail, code, ht, hindex, hu⟩ := hcopy
  have hwithin : Within [.regs, .agg] (s.setTol { s.tol with unlogged := smSet 0 s.tol.unlogged (65536 * source + index) 0 }) u := hu ▸ State.fadd_within ..
  have hwords : s.wordsBut u [rLOG_MISSED 0] := by
    rw [hu]
    exact State.wordsBut_trans (State.wordsBut_of_regs _ (State.setTol_regs ..)) (State.wordsBut_fset _ _ (by decide) (List.mem_singleton.mpr rfl))
  have htol : u.tol = { s.tol with unlogged := smSet 0 s.tol.unlogged (65536 * source + index) 0 } := hwithin.2 .tol rfl
  have htide : u.tide = s.tide := hwithin.2 .tide rfl
  have hnext : u.rd32 (rLOG_NEXT 0) = s.rd32 (rLOG_NEXT 0) := congrArg BitVec.toNat (hwords (rLOG_NEXT 0) (by decide))
  have hmissed : u.fget (rLOG_MISSED 0) fLOG_MISSED_COUNT = satAdd 16 (s.fget (rLOG_MISSED 0) fLOG_MISSED_COUNT)
      (smGet 0 s.tol.unlogged (65536 * source + index) - 1) := by
    have hfits : satAdd 16 (s.fget (rLOG_MISSED 0) fLOG_MISSED_COUNT) (smGet 0 s.tol.unlogged (65536 * source + index) - 1) < 2 ^ 16 := by
      unfold satAdd
      split <;> omega
    rw [hu]
    exact (State.fget_fset _ _ _ _ (by decide)).trans (Nat.mod_eq_of_lt hfits)
  have hmode : u.fget (rTOL_STAT 0) fTOL_STAT_MODE = s.fget (rTOL_STAT 0) fTOL_STAT_MODE := State.fget_wordsBut hwords _ (by decide) (by decide)
  have hcleared : smGet 0 (smSet 0 s.tol.unlogged (65536 * source + index) 0) (65536 * source + index) = 0 := (smGet_smSet ..).trans (if_pos rfl)
  obtain ⟨hlogTol, hlogNext, hlogWords, -⟩ := u.logEvent_facts source code index' detail (by rw [State.dead, hmode]; exact hdead)
  dsimp only
  rw [ht, hlogTol, htol, hlogNext, hnext]
  refine ⟨⟨_, rfl, rfl, rfl, congrArg Tide.now htide, hindex⟩, rfl, ?_, hcleared, ?_, rfl⟩
  · rw [State.fget_wordsBut hlogWords _ (by decide) (by decide), hmissed]
  · exact State.wordsBut_trans (State.wordsBut_mono hwords (by simp)) (State.wordsBut_mono hlogWords (by simp))

/-- Settles O35, by the command. -/
theorem deferredCommandsEnd : Obligations.DeferredCommandsEnd := by
  unfold Obligations.DeferredCommandsEnd
  intro s hc ended kept
  refine ⟨fun box ticket copied hb => ?deferred, fun id timeout copied => ?fan, fun source index hs hi => ?log⟩
  case deferred =>
    intro job
    have hexec : exec (.deferredEnd box ticket copied) s = .next (s.ownerChange (s.deferredEnd box ticket copied)) :=
      exec_deferredEnd box ticket copied s (by simpa [Instr.wf] using hb) hc
    have hsame : s.ownerChange s = s := State.ownerChange_same s s fun _ _ => rfl
    have hfinish : ∀ {j : Job} (code data : Nat), s.dead = false → job = some j → s.deferredEnd box ticket copied = s.finishJob j code data →
        exec (.deferredEnd box ticket copied) s = .next (s.finishJob j code data) ∧ ended j code data (s.finishJob j code data) ∧ kept (s.finishJob j code data) :=
      fun code data hdead hjob heq => by
        obtain ⟨howner, hended, hwords, hwithin⟩ := finishJob_ended hb (find?_box hjob) code data hdead
        exact ⟨hexec.trans (by rw [heq, howner]), hended, hwords, hwithin⟩
    have hstay : s.deferredEnd box ticket copied = s → exec (.deferredEnd box ticket copied) s = .next s := fun heq => hexec.trans (by rw [heq, hsame])
    refine ⟨fun hidle => Answers.intro (hstay (deferredEnd_none hidle)) rfl, fun j code data hdead hjob hresult => ?decided,
      fun j k hdead hjob hresult hkind => ?retire, fun j p i hdead hjob hresult hkind => ?create⟩
    case decided =>
      obtain ⟨hrun, hshown⟩ := hfinish code data hdead hjob (deferredEnd_decided hdead hjob hresult)
      exact Answers.intro hrun hshown
    case retire =>
      have hready := jobReady_retireKey (s := s) (copied := copied) hkind
      by_cases hstate : s.slotState k = 0
      · obtain ⟨hrun, hshown⟩ := hfinish ccDONE 0 hdead hjob (deferredEnd_ready hdead hjob hresult (hready.trans (if_pos hstate)))
        exact Answers.intro hrun ⟨fun _ => hshown, fun hne => absurd hstate hne⟩
      · refine Answers.intro (hstay (deferredEnd_waits hdead hjob hresult (hready.trans (if_neg hstate)) fun n k h => ?_))
          ⟨fun h => absurd h hstate, fun _ => rfl⟩
        rw [hkind] at h
        cases h
    case create =>
      have hready := jobReady_createRegion (s := s) (copied := copied) hkind
      by_cases hfree : s.rgnState p i = 0
      · obtain ⟨hrun, hshown⟩ := hfinish ccABANDONED 0 hdead hjob (deferredEnd_ready hdead hjob hresult (hready.trans (if_pos hfree)))
        exact Answers.intro hrun ⟨fun _ => hshown, fun h => by omega, fun h => by omega⟩
      · by_cases hsettled : 2 ≤ s.rgnState p i
        · obtain ⟨hrun, hshown⟩ := hfinish ccDONE i hdead hjob (deferredEnd_ready hdead hjob hresult (hready.trans ((if_neg hfree).trans (if_pos hsettled))))
          exact Answers.intro hrun ⟨fun h => absurd h hfree, fun _ => hshown, fun h => by omega⟩
        · refine Answers.intro (hstay (deferredEnd_waits hdead hjob hresult (hready.trans ((if_neg hfree).trans (if_neg hsettled))) fun n k h => ?_))
            ⟨fun h => absurd h hfree, fun h => absurd h hsettled, fun _ => rfl⟩
          rw [hkind] at h
          cases h
  case fan =>
    have hexec := exec_fanoutEnd id timeout copied s rfl hc
    refine ⟨fun f j hdead hf hj hended => Answers.intro hexec ?_, fun hwaits => Answers.intro hexec (fanEnd_waits hwaits)⟩
    have hwithin := s.fanEnd_within id timeout copied
    obtain ⟨u, code, data, hend, hcode, hlow, htree⟩ := fanEnd_finishes (copied := copied) hdead hf hj hended
    obtain ⟨hjobs, hposted, -, -, -, hfinish⟩ := u.finishJob_facts j code data ((lowSame_dead hlow).trans hdead)
    obtain ⟨hboxes, hsameJobs, -, -⟩ := hlow
    rw [hend] at hwithin ⊢
    refine ⟨(hfinish.2 .tree rfl).trans htree, ⟨code, data, hcode, hjobs.trans (by rw [hsameJobs]), fun horphan => ?_⟩, hwithin⟩
    rw [(hposted horphan).1, State.mbox_tol hboxes]
  case log =>
    intro n
    have hexec := exec_eventLogCopy source index s (by simpa [Instr.wf] using ⟨hs, hi⟩) hc
    refine ⟨fun hidle => Answers.intro hexec ?_, fun hdead hn => Answers.intro hexec ?_⟩
    · unfold State.eventLogCopy
      exact if_pos hidle
    · obtain ⟨hlog, hnext, hmissed, hcopied, hwords, hjobs⟩ := eventLogCopy_facts s source index hdead hn
      exact ⟨hlog, hnext, hmissed, hcopied, hwords, hjobs, State.eventLogCopy_within ..⟩

end Sys2Proof.Machine
end

section
/-! SUPPORT. Tolmor's lockstep and SRAM (R259, R262, R263). -/

namespace Sys2Proof.Machine

/-- R263: `t` is `s` with Tolmor in DEAD, whatever its count of disagreements. -/
def State.Died (s t : State) : Prop :=
  t.fget (rTOL_STAT 0) fTOL_STAT_MODE = 2 ∧
    (∀ b, b < 6 → t.flag (rMB_STAT b) fMB_STAT_DEAD = true ∧ t.flag (rMB_STAT b) fMB_STAT_ACCEPTING = false ∧ t.bit (rIRQ_RAW (PageKind.mbox.addr b)) 3 = true) ∧
    (1 ≤ s.powerState → t.flag (rPWR_STAT 0) fPWR_STAT_EXITING = true ∧ t.fget (rPWR_STAT 0) fPWR_STAT_TARGET = 0) ∧
    (s.powerState = 0 → t.word (rPWR_STAT 0) = s.word (rPWR_STAT 0)) ∧
    s.wordsBut t ([rTOL_STAT 0, rPWR_STAT 0] ++ (List.range 6).flatMap (fun b => [rMB_STAT b, rIRQ_RAW (PageKind.mbox.addr b)])) ∧ Within [.regs, .agg] s t

section
variable {s : State}

theorem State.mode_ne_dead (h : s.dead = false) : s.fget (rTOL_STAT 0) fTOL_STAT_MODE ≠ 2 := of_decide_eq_false h

theorem enterDead_died (hdead : s.dead = false) : s.Died s.enterDead := by
  obtain ⟨hmode, -, hrest⟩ := s.enterDead_facts hdead
  exact ⟨hmode, hrest⟩

/-- R262, R263: a fatal disagreement is counted, and Tolmor enters DEAD. -/
theorem countedDeath (hdead : s.dead = false) :
    let t := (s.finc (rTOL_STAT 0) fTOL_STAT_DISAGREE).enterDead
    t.fget (rTOL_STAT 0) fTOL_STAT_DISAGREE = satInc 16 (s.fget (rTOL_STAT 0) fTOL_STAT_DISAGREE) ∧ s.Died t := by
  obtain ⟨hcount, hmode, hwords, hwithin⟩ := s.finc_tolstat
  have halive : (s.finc (rTOL_STAT 0) fTOL_STAT_DISAGREE).dead = false := by
    rw [State.dead, hmode]
    exact hdead
  have hpowerWord : (s.finc (rTOL_STAT 0) fTOL_STAT_DISAGREE).word (rPWR_STAT 0) = s.word (rPWR_STAT 0) := hwords _ (by decide)
  have hpower : (s.finc (rTOL_STAT 0) fTOL_STAT_DISAGREE).powerState = s.powerState := State.fget_of_word _ hpowerWord (by decide)
  obtain ⟨hdied, hkept, hboxes, hexit, hrun, hdeadWords, hdeadWithin⟩ := (s.finc (rTOL_STAT 0) fTOL_STAT_DISAGREE).enterDead_facts halive
  rw [hpower] at hexit hrun
  rw [hpowerWord] at hrun
  exact ⟨hkept.trans hcount, hdied, hboxes, hexit, hrun, State.wordsBut_trans (State.wordsBut_mono hwords (by simp)) hdeadWords, hdeadWithin.via rfl hwithin⟩

theorem lockstepDisagree_fatal {core : Option Nat} (hdead : s.dead = false) (hfatal : core = none ∨ s.tol.outCore.isSome = true) :
    s.lockstepDisagree core = (s.finc (rTOL_STAT 0) fTOL_STAT_DISAGREE).enterDead := by
  unfold State.lockstepDisagree
  rw [if_neg (by simp [hdead])]
  cases core with
  | none => rfl
  | some c => exact if_pos (hfatal.resolve_left (Option.some_ne_none c))

/-- R262: a disagreement counted, and the core named in TOL_STAT. -/
def State.coreNamed (s : State) (c : Nat) : State := (s.finc (rTOL_STAT 0) fTOL_STAT_DISAGREE).fset (rTOL_STAT 0) fTOL_STAT_OUT_CORE c

/-- R262: a core out of the lockstep, with its event logged. -/
def State.coreLogged (s : State) (c : Nat) : State := (s.logEvent 5 0 (c % 4) 0).setTol { (s.logEvent 5 0 (c % 4) 0).tol with outCore := some (c % 4) }

theorem lockstepDisagree_out {c : Nat} (hdead : s.dead = false) (hin : s.tol.outCore = none) :
    s.lockstepDisagree (some c) = if s.fget (rTOL_STAT 0) fTOL_STAT_MODE = 3 then (s.coreNamed c).coreLogged c
      else ((s.coreNamed c).coreLogged c).fset (rTOL_STAT 0) fTOL_STAT_MODE 1 := by
  unfold State.lockstepDisagree
  rw [if_neg (by simp [hdead])]
  exact if_neg (by simp [hin])

theorem coreNamed_facts {c : Nat} (hc : c < 3) :
    (s.coreNamed c).fget (rTOL_STAT 0) fTOL_STAT_DISAGREE = satInc 16 (s.fget (rTOL_STAT 0) fTOL_STAT_DISAGREE) ∧
      (s.coreNamed c).fget (rTOL_STAT 0) fTOL_STAT_OUT_CORE = c ∧ (s.coreNamed c).fget (rTOL_STAT 0) fTOL_STAT_MODE = s.fget (rTOL_STAT 0) fTOL_STAT_MODE ∧
      s.wordsBut (s.coreNamed c) [rTOL_STAT 0] ∧ (s.coreNamed c).tol = s.tol := by
  obtain ⟨hcount, hmode, hwords, hwithin⟩ := s.finc_tolstat
  unfold State.coreNamed
  exact ⟨(State.fget_fset_apart _ _ _ _ (by decide) (by decide) (by decide)).trans hcount,
    (State.fget_fset _ _ _ _ (by decide)).trans (Nat.mod_eq_of_lt (Nat.lt_trans hc (by decide))),
    (State.fget_fset_apart _ _ _ _ (by decide) (by decide) (by decide)).trans hmode, hwords.fset (by decide) (List.mem_singleton.mpr rfl),
    ((State.fset_within ..).2 .tol rfl).trans (hwithin.2 .tol rfl)⟩

theorem coreLogged_facts {c : Nat} (hc : c < 3) (hdead : s.dead = false) :
    (s.coreLogged c).tol.outCore = some c ∧ (∃ e : LogEntry, (s.coreLogged c).tol.log = (if s.tol.log.length < 1024 then s.tol.log ++ [e] else s.tol.log.tail ++ [e]) ∧
      e.source = 5 ∧ e.index = c ∧ e.seq = s.rd32 (rLOG_NEXT 0)) ∧ s.wordsBut (s.coreLogged c) [rLOG_NEXT 0] := by
  have hcore : c % 4 = c := Nat.mod_eq_of_lt (Nat.lt_trans hc (by decide))
  obtain ⟨htol, -, hwords, -⟩ := s.logEvent_facts 5 0 c 0 hdead
  unfold State.coreLogged
  rw [hcore]
  generalize s.logEvent 5 0 c 0 = v at htol hwords
  exact ⟨rfl, ⟨_, congrArg Tol.log htol, rfl, rfl, rfl⟩, hwords.regs (State.setTol_regs ..)⟩

/-- R262: a core put out of the lockstep is counted, named in TOL_STAT and logged. -/
theorem coreOut_facts {c : Nat} (hc : c < 3) (hdead : s.dead = false) :
    let t := (s.coreNamed c).coreLogged c
    t.fget (rTOL_STAT 0) fTOL_STAT_DISAGREE = satInc 16 (s.fget (rTOL_STAT 0) fTOL_STAT_DISAGREE) ∧ t.tol.outCore = some c ∧
      t.fget (rTOL_STAT 0) fTOL_STAT_OUT_CORE = c ∧ t.fget (rTOL_STAT 0) fTOL_STAT_MODE = s.fget (rTOL_STAT 0) fTOL_STAT_MODE ∧
      (∃ e : LogEntry, t.tol.log = (if s.tol.log.length < 1024 then s.tol.log ++ [e] else s.tol.log.tail ++ [e]) ∧ e.source = 5 ∧ e.index = c ∧ e.seq = s.rd32 (rLOG_NEXT 0)) ∧
      s.wordsBut t [rTOL_STAT 0, rLOG_NEXT 0] := by
  obtain ⟨hcount, hnamed, hmode, hwords, htol⟩ := coreNamed_facts (s := s) hc
  have hnext : (s.coreNamed c).rd32 (rLOG_NEXT 0) = s.rd32 (rLOG_NEXT 0) := (State.word_eq_iff ..).mp (hwords (rLOG_NEXT 0) (by decide))
  obtain ⟨hout, hlog, hlogWords⟩ := coreLogged_facts (s := s.coreNamed c) hc (by rw [State.dead, hmode]; exact hdead)
  rw [htol, hnext] at hlog
  have hshown : ∀ {f : Fld}, f.lo + f.width ≤ 32 → ((s.coreNamed c).coreLogged c).fget (rTOL_STAT 0) f = (s.coreNamed c).fget (rTOL_STAT 0) f := fun hf =>
    State.fget_wordsBut hlogWords _ (by decide) hf
  exact ⟨(hshown (by decide)).trans hcount, hout, (hshown (by decide)).trans hnamed, (hshown (by decide)).trans hmode, hlog,
    State.wordsBut_trans (State.wordsBut_mono hwords (by simp)) (State.wordsBut_mono hlogWords (by simp))⟩

theorem sramScrub_fatal : s.sramScrub true = s.enterDead := if_pos rfl

theorem tripleRestore_idle (h : s.dead = true ∨ s.tol.outCore = none) : s.tripleRestore = s := by
  unfold State.tripleRestore
  exact if_pos (h.imp id fun hnone => by simp [hnone])

/-- R262: the reset core rejoins the lockstep. -/
theorem tripleRestore_facts (hdead : s.dead = false) (hout : s.tol.outCore.isSome = true) :
    s.tripleRestore.tol = { s.tol with outCore := none } ∧ s.tripleRestore.fget (rTOL_STAT 0) fTOL_STAT_OUT_CORE = 0 ∧
      s.tripleRestore.fget (rTOL_STAT 0) fTOL_STAT_MODE =
        (if s.fget (rTOL_STAT 0) fTOL_STAT_MODE = 1 then 0 else s.fget (rTOL_STAT 0) fTOL_STAT_MODE) ∧
      s.wordsBut s.tripleRestore [rTOL_STAT 0] := by
  have hwords : s.wordsBut ((s.setTol { s.tol with outCore := none }).fset (rTOL_STAT 0) fTOL_STAT_OUT_CORE 0) [rTOL_STAT 0] :=
    State.wordsBut_trans (State.wordsBut_of_regs _ (State.setTol_regs ..)) (State.wordsBut_fset _ _ (by decide) (List.mem_singleton.mpr rfl))
  have hcore : ((s.setTol { s.tol with outCore := none }).fset (rTOL_STAT 0) fTOL_STAT_OUT_CORE 0).fget (rTOL_STAT 0) fTOL_STAT_OUT_CORE = 0 :=
    State.fget_fset _ _ _ _ (by decide)
  have hmode : ((s.setTol { s.tol with outCore := none }).fset (rTOL_STAT 0) fTOL_STAT_OUT_CORE 0).fget (rTOL_STAT 0) fTOL_STAT_MODE =
      s.fget (rTOL_STAT 0) fTOL_STAT_MODE := (State.fget_fset_apart _ _ _ _ (by decide) (by decide) (by decide)).trans (State.fget_same (State.setTol_regs ..) ..)
  have htol : ((s.setTol { s.tol with outCore := none }).fset (rTOL_STAT 0) fTOL_STAT_OUT_CORE 0).tol = { s.tol with outCore := none } :=
    (State.fset_within ..).2 .tol rfl
  have hrestore : s.tripleRestore = if s.fget (rTOL_STAT 0) fTOL_STAT_MODE = 1 then
      ((s.setTol { s.tol with outCore := none }).fset (rTOL_STAT 0) fTOL_STAT_OUT_CORE 0).fset (rTOL_STAT 0) fTOL_STAT_MODE 0
      else (s.setTol { s.tol with outCore := none }).fset (rTOL_STAT 0) fTOL_STAT_OUT_CORE 0 := by
    unfold State.tripleRestore
    exact if_neg (by simpa [hdead] using Option.isSome_iff_ne_none.mp hout)
  rw [hrestore]
  generalize (s.setTol { s.tol with outCore := none }).fset (rTOL_STAT 0) fTOL_STAT_OUT_CORE 0 = u at hwords hcore hmode htol
  by_cases hdual : s.fget (rTOL_STAT 0) fTOL_STAT_MODE = 1
  · rw [if_pos hdual, if_pos hdual]
    exact ⟨((State.fset_within ..).2 .tol rfl).trans htol, (State.fget_fset_apart _ _ _ _ (by decide) (by decide) (by decide)).trans hcore,
      State.fget_fset _ _ _ _ (by decide), hwords.fset (by decide) (List.mem_singleton.mpr rfl)⟩
  · rw [if_neg hdual, if_neg hdual]
    exact ⟨htol, hcore, hmode, hwords⟩

end

/-- Settles O37, by how many cores are in the lockstep. -/
theorem lockstepAndSram : Obligations.LockstepAndSram := by
  unfold Obligations.LockstepAndSram
  intro s hc mode boxes died counted
  have hrestore := exec_tripleRestore s rfl hc
  refine ⟨fun core hdead => ?dead, fun hdead => ?all, fun c hcore hdead hout => ?second, fun c hcore hdead hin => ?first,
    fun h => Answers.intro hrestore (tripleRestore_idle h), fun hdead hout => ?restored, Answers.intro (exec_sramScrub false s rfl hc) (if_neg Bool.false_ne_true),
    fun hdead => Answers.intro ((exec_sramScrub true s rfl hc).trans (congrArg _ sramScrub_fatal)) (enterDead_died hdead), fun hdead => Answers.intro ((exec_sramScrub true s rfl hc).trans (congrArg _ sramScrub_fatal)) (if_pos hdead)⟩
  case dead =>
    by_cases hwf : (Instr.lockstepDisagree core).wf = true
    · exact Answers.intro (exec_lockstepDisagree core s hwf hc) (if_pos hdead)
    · refine Answers.intro (t := s) ?_ rfl
      show execLockstepDisagree core s = _
      unfold execLockstepDisagree
      rw [if_neg (by simp [hwf])]
  case all =>
    refine Answers.intro (exec_lockstepDisagree none s rfl hc) ?_
    rw [lockstepDisagree_fatal hdead (.inl rfl)]
    exact countedDeath hdead
  case second =>
    refine Answers.intro (exec_lockstepDisagree (some c) s (by simpa [Instr.wf] using hcore) hc) ?_
    rw [lockstepDisagree_fatal hdead (.inr hout)]
    exact countedDeath hdead
  case first =>
    refine Answers.intro (exec_lockstepDisagree (some c) s (by simpa [Instr.wf] using hcore) hc) ?_
    have hwithin := s.lockstepDisagree_within (some c)
    obtain ⟨hcount, hout, hnamed, hmode, hlog, hwords⟩ := coreOut_facts hcore hdead
    rw [lockstepDisagree_out hdead hin] at hwithin ⊢
    by_cases hshut : s.fget (rTOL_STAT 0) fTOL_STAT_MODE = 3
    · rw [if_pos hshut] at hwithin ⊢
      exact ⟨hcount, hout, hnamed, hmode.trans (hshut.trans (if_pos hshut).symm), hlog, hwords, hwithin⟩
    · rw [if_neg hshut] at hwithin ⊢
      have htol : (((s.coreNamed c).coreLogged c).fset (rTOL_STAT 0) fTOL_STAT_MODE 1).tol = ((s.coreNamed c).coreLogged c).tol := (State.fset_within ..).2 .tol rfl
      rw [htol]
      exact ⟨(State.fget_fset_apart _ _ _ _ (by decide) (by decide) (by decide)).trans hcount, hout,
        (State.fget_fset_apart _ _ _ _ (by decide) (by decide) (by decide)).trans hnamed,
        (State.fget_fset _ _ _ _ (by decide)).trans (if_neg hshut).symm, hlog, hwords.fset (by decide) (List.mem_cons_self ..), hwithin⟩
  case restored =>
    obtain ⟨htol, hcore, hmode, hwords⟩ := tripleRestore_facts hdead hout
    exact Answers.intro hrestore ⟨htol, hcore, hmode, hwords, State.tripleRestore_within ..⟩

end Sys2Proof.Machine
end

section
/-! SUPPORT. Self tests and calibrations (R281–R285). -/

namespace Sys2Proof.Machine

/-! ### The requests of a target -/

theorem Job.tests_open {j : Job} {kind index : Nat} {running : Bool} (h : j.tests kind index running = true) : j.result.isNone = true := by
  unfold Job.tests at h
  split at h
  · exact (Bool.and_eq_true_iff.mp h).2
  · cases h

/-- The state whose run on a target has ended with CODE and DATA. -/
def State.testsEnded (s : State) (kind index code data : Nat) : State := s.endJobs (fun j => j.tests kind index true) code data

section
variable (s : State) (kind index : Nat)

theorem testsEnded_jobs (code data : Nat) : (s.testsEnded kind index code data).tol.jobs =
    s.tol.jobs.map (fun j => if j.tests kind index true then { j with result := some (code, data) } else j) :=
  List.map_congr_left fun j _ => ite_congr (by rw [Bool.and_eq_true, and_iff_left_of_imp Job.tests_open]) (fun _ => rfl) (fun _ => rfl)

theorem testsEnded_within (code data : Nat) : Within [.tol] s (s.testsEnded kind index code data) := State.endJobs_within ..

end

/-! ### TEST_RUN_START -/

section
variable {s : State} {kind index : Nat}

theorem testRunStart_idle (h : (s.dead || !s.tol.jobs.any (fun j => j.tests kind index false) || s.testRuns kind index || !s.testQuiet kind index) = true) :
    s.testRunStart kind index = s := if_pos h

theorem testRunStart_runs (hdead : s.dead = false) (hqueued : s.tol.jobs.any (fun j => j.tests kind index false) = true) (hfree : s.testRuns kind index = false)
    (hquiet : s.testQuiet kind index = true) : s.testRunStart kind index = (s.testsRun kind index).testEffect kind index false := by
  unfold State.testRunStart
  exact if_neg (by simp only [hdead, hqueued, hfree, hquiet]; decide)

theorem testEffect_none (s : State) (h11 : kind ≠ 0x11) (h13 : kind ≠ 0x13) : s.testEffect kind index false = s := by
  unfold State.testEffect
  rw [if_neg h11, if_neg h13]
  split
  · exact if_neg Bool.false_ne_true
  · rfl

/-- R283: a lane that is idle enters CAL without a link going down. -/
theorem testEffect_lane (s : State) (hidle : s.laneIdle index = true) : s.testEffect 0x11 index false = s.setStage index sgCAL := by
  unfold State.testEffect
  rw [if_neg (by decide), if_pos rfl]
  dsimp only
  split
  · rw [if_pos hidle]
  · rfl

theorem testEffect_pll (s : State) (hfree : s.pllUsers (index / 8) (index % 8) = []) :
    s.testEffect 0x13 index false = s.setLock (index / 8) (index % 8) false := by
  unfold State.testEffect
  rw [if_neg (by decide), if_neg (by decide), if_pos rfl]
  dsimp only
  rw [hfree]
  rfl

/-- A run touches no register, and no stall. -/
theorem pllUsers_testsRun (s : State) (y i : Nat) : (s.testsRun kind index).pllUsers y i = s.pllUsers y i := rfl

theorem laneIdle_testsRun (s : State) (l : Nat) : (s.testsRun kind index).laneIdle l = s.laneIdle l := rfl

/-! ### TEST_END -/

theorem testEnd_idle {ok : Bool} {data : Nat} (h : s.testRuns kind index = false ∨ kind = 0x11 ∧ s.stage index = sgCAL) : s.testEnd kind index ok data = s := by
  unfold State.testEnd
  refine if_pos ?_
  rcases h with hidle | ⟨rfl, hcal⟩
  · simp [hidle]
  · simp [hcal]

/-- R281, R284, R331: what a run that ends does besides completing its requests. -/
theorem testEnd_eq {ok : Bool} {data : Nat} (hruns : s.testRuns kind index = true) (h11 : kind ≠ 0x11) : s.testEnd kind index ok data =
    if kind = 5 then (s.testsEnded kind index (if ok then ccDONE else ccTEST_FAILED) data).marginWide index
    else if kind = 0x12 ∧ ¬ ok then (s.testsEnded kind index (if ok then ccDONE else ccTEST_FAILED) data).hbmIfError index
    else if kind = 0x13 ∧ ok then (s.testsEnded kind index (if ok then ccDONE else ccTEST_FAILED) data).pllLock (index / 8) (index % 8)
    else s.testsEnded kind index (if ok then ccDONE else ccTEST_FAILED) data := by
  unfold State.testEnd
  rw [if_neg (by simp [hruns, h11])]
  dsimp only
  rw [if_neg h11]
  rfl

theorem testEnd_lane {ok : Bool} {data : Nat} (hruns : s.testRuns 0x11 index = true) (hstage : s.stage index ≠ sgCAL) : s.testEnd 0x11 index ok data =
    s.testsEnded 0x11 index (if s.flag (rLANE_STAT index) fLANE_STAT_CAL_FAIL then ccTEST_FAILED else ccDONE) data := by
  unfold State.testEnd
  rw [if_neg (by simp [hruns, hstage])]
  dsimp only
  rw [if_pos rfl, if_neg (by decide), if_neg (fun h => absurd h.1 (by decide)), if_neg (fun h => absurd h.1 (by decide))]
  cases s.flag (rLANE_STAT index) fLANE_STAT_CAL_FAIL <;> rfl

theorem marginWide_still (s : State) (h : s.bundleState index ≠ 3) : s.marginWide index = s := if_pos (.inl h)

end

/-- Settles O36, by the kind of the test. -/
theorem testsRunAndEnd : Obligations.TestsRunAndEnd := by
  unfold Obligations.TestsRunAndEnd
  intro s hc
  refine ⟨fun kind index => ?start, fun kind index ok data => ?finish, fun box ticket hb => ?expired⟩
  case start =>
    intro queued run
    have hexec := exec_testStart kind index s rfl hc
    have hjobs : (s.testsRun kind index).tol.jobs = s.tol.jobs.map run := s.testsRun_jobs kind index
    have hwithin := s.testsRun_within kind index
    refine ⟨fun hidle => Answers.intro hexec (testRunStart_idle hidle), fun hdead hqueued hfree hquiet => ⟨fun h11 h13 => ?plain, fun h11 => ?lane, fun h13 hnone => ?pll⟩⟩
    case plain =>
      refine Answers.intro (hexec.trans (congrArg _ ((testRunStart_runs hdead hqueued hfree hquiet).trans (testEffect_none _ h11 h13)))) ?_
      exact ⟨hjobs, hwithin⟩
    case lane =>
      subst h11
      obtain ⟨hstage, hlow, hwords, -, hset⟩ := (s.testsRun 0x11 index).setStage_facts index sgCAL (by decide)
      refine Answers.intro (hexec.trans (congrArg _ ((testRunStart_runs hdead hqueued hfree hquiet).trans (testEffect_lane _ hquiet)))) ?_
      exact ⟨(congrArg Tol.jobs (hset.2 .tol rfl)).trans hjobs, hstage, (hlow (by decide)).1, State.wordsBut_trans (State.wordsBut_of_regs _ (hwithin.2 .regs rfl)) hwords,
        hset.via rfl (hwithin.mono rfl)⟩
    case pll =>
      subst h13
      obtain ⟨hlock, hwords, -, -, hset⟩ := (s.testsRun 0x13 index).setLock_facts (index / 8) (index % 8) false (Nat.mod_lt _ (by decide))
      refine Answers.intro (hexec.trans (congrArg _ ((testRunStart_runs hdead hqueued hfree hquiet).trans (testEffect_pll _ hnone)))) ?_
      exact ⟨(congrArg Tol.jobs (hset.2 .tol rfl)).trans hjobs, hlock, State.wordsBut_trans (State.wordsBut_of_regs _ (hwithin.2 .regs rfl)) hwords,
        hset.via rfl (hwithin.mono rfl)⟩
  case finish =>
    intro ended
    have hexec := exec_testEnd kind index ok data s rfl hc
    have hjobs := fun code => testsEnded_jobs s kind index code data
    have hwithin := fun code => testsEnded_within s kind index code data
    refine ⟨fun hidle => Answers.intro hexec (testEnd_idle hidle), fun hruns => ⟨fun h5 h11 h12 h13 => ?plain, fun h5 hfull => ?margin, fun h11 hstage => ?lane,
      fun h12 hbad hindex => ?memory, fun h13 hok hindex hen href => ?pll⟩⟩
    case plain =>
      refine Answers.intro (hexec.trans (congrArg _ ((testEnd_eq hruns h11).trans ?_))) ⟨hjobs _, hwithin _⟩
      rw [if_neg h5, if_neg (fun h => h.2 (h12 h.1)), if_neg (fun h => Bool.false_ne_true ((h13 h.1).symm.trans h.2))]
    case margin =>
      refine Answers.intro (hexec.trans (congrArg _ ((testEnd_eq hruns (by omega)).trans ?_))) ⟨hjobs _, hwithin _⟩
      rw [if_pos h5]
      exact marginWide_still _ hfull
    case lane =>
      subst h11
      exact Answers.intro (hexec.trans (congrArg _ (testEnd_lane hruns hstage))) ⟨hjobs _, hwithin _⟩
    case memory =>
      subst h12 hbad
      have hfails := (testEnd_eq (ok := false) (data := data) hruns (by decide)).trans ((if_neg (by decide)).trans (if_pos ⟨rfl, Bool.false_ne_true⟩))
      obtain ⟨htrained, hunreach, hwords⟩ := hbmIfError_stat (s.testsEnded 0x12 index (if false then ccDONE else ccTEST_FAILED) data) hindex
      have herror := (s.testsEnded 0x12 index (if false then ccDONE else ccTEST_FAILED) data).hbmIfError_within index
      refine Answers.intro (hexec.trans (congrArg _ hfails)) ?_
      exact ⟨(congrArg Tol.jobs (herror.2 .tol rfl)).trans (hjobs _), htrained, hunreach,
        State.wordsBut_trans (State.wordsBut_of_regs _ ((hwithin _).2 .regs rfl)) hwords, herror.via rfl ((hwithin _).mono rfl)⟩
    case pll =>
      subst h13 hok
      have hlocks := (testEnd_eq (ok := true) (data := data) hruns (by decide)).trans ((if_neg (by decide)).trans ((if_neg (by decide)).trans (if_pos ⟨rfl, rfl⟩)))
      obtain ⟨hlock, hwords, -, hset⟩ := (s.testsEnded 0x13 index (if true then ccDONE else ccTEST_FAILED) data).pllLock_facts (index / 8) (index % 8)
        (Nat.mod_lt _ (by decide)) hen href
      refine Answers.intro (hexec.trans (congrArg _ hlocks)) ?_
      exact ⟨(congrArg Tol.jobs (hset.2 .tol rfl)).trans (hjobs _), hlock, State.wordsBut_trans (State.wordsBut_of_regs _ ((hwithin _).2 .regs rfl)) hwords,
        hset.via rfl ((hwithin _).mono rfl)⟩
  case expired =>
    have hwithin := s.testExpired_within box ticket
    refine Answers.intro (exec_expired box ticket s (by simpa [Instr.wf] using hb) hc) ⟨fun hdead => if_pos hdead, fun hdead => ?_, hwithin⟩
    unfold State.testExpired
    rw [if_neg (by simp [hdead])]
    exact List.map_congr_left fun j _ => ite_congr (congrArg (· = true) (Bool.and_right_comm ..)) (fun _ => rfl) (fun _ => rfl)

end Sys2Proof.Machine
end

section
/-! SUPPORT. The states of Tide apart from samples (R289, R291–R294, R298). -/

namespace Sys2Proof.Machine

/-- What a change of state alone leaves of the Tide unit: the counter, the slew, and the other fields of TIDE_STAT. -/
def State.TideKept (s t : State) : Prop :=
  t.tide.now = s.tide.now ∧ t.tide.slew = s.tide.slew ∧ t.tideSource = s.tideSource ∧
    t.flag (rTIDE_STAT 0) fTIDE_STAT_FROZEN = s.flag (rTIDE_STAT 0) fTIDE_STAT_FROZEN ∧
    t.fget (rTIDE_STAT 0) fTIDE_STAT_STEPS = s.fget (rTIDE_STAT 0) fTIDE_STAT_STEPS

theorem State.tideKept_of_fields {s t : State} (hnow : t.tide.now = s.tide.now) (hslew : t.tide.slew = s.tide.slew)
    (hstat : ∀ f, statKept f → t.fget (rTIDE_STAT 0) f = s.fget (rTIDE_STAT 0) f) : s.TideKept t :=
  ⟨hnow, hslew, hstat _ (.inr (by decide)), congrArg (decide <| · = 1) (hstat fTIDE_STAT_FROZEN (.inr (by decide))), hstat _ (.inl (by decide))⟩

section
variable {s : State}

/-- R291: a lost source leads to HOLDOVER. -/
theorem sourceLost_facts (h : s.tideState = 1 ∨ s.tideState = 2) :
    s.sourceLost.tideState = 3 ∧ s.TideKept s.sourceLost ∧ (s.sourceLost.bit (rIRQ_RAW (PageKind.tideCtl.addr 0)) 0 = true ∧ s.sourceLost.tide.locks = 0) ∧
      s.wordsBut s.sourceLost [rTIDE_STAT 0, rIRQ_RAW (PageKind.tideCtl.addr 0)] ∧ Within [.regs, .agg, .tally, .tide] s s.sourceLost := by
  have hlost : s.sourceLost = s.enterTide 3 := if_pos h
  have hne : s.tideState ≠ 3 := by omega
  obtain ⟨hstate, htide, hstat, hirq, -, hwords, hwithin⟩ := s.enterTide_facts 3 (by decide) (by decide)
  rw [if_neg hne] at htide
  rw [hlost]
  exact ⟨hstate, State.tideKept_of_fields (congrArg Tide.now htide :) (congrArg Tide.slew htide :) hstat, ⟨hirq hne, congrArg Tide.locks htide⟩, hwords, hwithin⟩

/-- R298: the end of HOLDOVER is LOST, where every armed swap is abandoned. -/
theorem holdoverExpire_facts (h : s.tideState = 3) :
    s.holdoverExpire.tideState = 4 ∧ s.TideKept s.holdoverExpire ∧
      (s.holdoverExpire.bit (rIRQ_RAW (PageKind.tideCtl.addr 0)) 0 = true ∧ s.holdoverExpire.tide.locks = 0) ∧
      ((∀ n, n < 32 → (s.holdoverExpire.stall n).armed = none) ∧ s.holdoverExpire.bit (rIRQ_RAW (PageKind.tideCtl.addr 0)) 2 = true ∧
        s.holdoverExpire.tol.jobs = s.tol.jobs.map (fun j => if j.result.isNone && (List.range 32).any (fun n => decide (j.kind = .swapStall n) && (s.stall n).armed.isSome)
          then { j with result := some (ccABANDONED, 3) } else j)) := by
  have hexpire : s.holdoverExpire = s.enterTide 4 := if_pos h
  obtain ⟨hstate, htide, hstat, hirq, habandoned, hstalls, hjobs, -⟩ := s.enterLost_facts (by omega)
  rw [hexpire]
  exact ⟨hstate, State.tideKept_of_fields (congrArg Tide.now htide :) (congrArg Tide.slew htide :) hstat, ⟨hirq, congrArg Tide.locks htide⟩, hstalls, habandoned, hjobs⟩

theorem freezeEnd_facts (s : State) : s.freezeEnd.flag (rTIDE_STAT 0) fTIDE_STAT_FROZEN = false ∧ s.freezeEnd.tideState = s.tideState ∧
    s.freezeEnd.tideSource = s.tideSource ∧ s.freezeEnd.fget (rTIDE_STAT 0) fTIDE_STAT_STEPS = s.fget (rTIDE_STAT 0) fTIDE_STAT_STEPS ∧
    s.wordsBut s.freezeEnd [rTIDE_STAT 0] := by
  unfold State.freezeEnd
  refine ⟨?_, State.fget_fset_apart _ _ _ _ (by decide) (by decide) (by decide), State.fget_fset_apart _ _ _ _ (by decide) (by decide) (by decide),
    State.fget_fset_apart _ _ _ _ (by decide) (by decide) (by decide), State.wordsBut_fset _ _ (by decide) (List.mem_singleton.mpr rfl)⟩
  unfold State.flag
  rw [State.fget_fset _ _ _ _ (by decide)]
  rfl

/-! ### TIDE_CFG -/

/-- A write of TIDE_CFG that names pair `pair` alone. -/
def State.cfgPair (s : State) (pair : Nat) : Nat := fTIDE_CFG_REFCLK.set (s.rd32 (rTIDE_CFG 0)) pair

theorem cfgPair_lt (s : State) (pair : Nat) : s.cfgPair pair < 2 ^ 32 := Fld.set_lt _ _ _ _ (s.rd32_lt _) (by decide)

/-- The fields of TIDE_CFG are those of the word written: its reserved bits 3 and 2 read 0. -/
theorem tideCfg_fields {t : State} {v : Nat} (h : t.rd32 (rTIDE_CFG 0) = v / 16 * 16 + fTIDE_CFG_REFCLK.get v) :
    t.fget (rTIDE_CFG 0) fTIDE_CFG_REFCLK = fTIDE_CFG_REFCLK.get v ∧ t.fget (rTIDE_CFG 0) fTIDE_CFG_LOCK_NS = fTIDE_CFG_LOCK_NS.get v ∧
      t.fget (rTIDE_CFG 0) fTIDE_CFG_RESYNC_NS = fTIDE_CFG_RESYNC_NS.get v ∧ t.fget (rTIDE_CFG 0) fTIDE_CFG_HOLDOVER_MS = fTIDE_CFG_HOLDOVER_MS.get v := by
  rw [State.fget_word _ _ (by decide), State.fget_word _ _ (by decide), State.fget_word _ _ (by decide), State.fget_word _ _ (by decide), h]
  simp only [Fld.get, fTIDE_CFG_REFCLK, fTIDE_CFG_LOCK_NS, fTIDE_CFG_RESYNC_NS, fTIDE_CFG_HOLDOVER_MS]
  omega

theorem putReg_tideCfg {req : Req} (v : Nat) (hreq : req.valid = true) (ht : s.takes req .tideCtl 0 0x054 = true) :
    s.putReg req (rTIDE_CFG 0) v = (s.clearView req (PageKind.tideCtl.addr 0)).tideCfgWrite v :=
  (s.putReg_body req .tideCtl (i := 0) (o := 0x054) v hreq (by decide) (by decide) (by decide) (by decide) (by decide) ht rfl rfl).trans
    (by unfold State.bodyWrite; exact if_pos rfl)

/-- R292, R293: a pair named in TIDE_CFG, and what follows where it is another one. -/
theorem cfgPair_facts (s : State) {pair : Nat} (hpair : pair < 4) :
    let t := s.tideCfgWrite (s.cfgPair pair)
    let old := s.fget (rTIDE_CFG 0) fTIDE_CFG_REFCLK
    let clocked := s.bit (rREF_STAT 0) (4 + pair)
    t.fget (rTIDE_CFG 0) fTIDE_CFG_REFCLK = pair ∧ t.fget (rTIDE_CFG 0) fTIDE_CFG_LOCK_NS = s.fget (rTIDE_CFG 0) fTIDE_CFG_LOCK_NS ∧
      t.fget (rTIDE_CFG 0) fTIDE_CFG_RESYNC_NS = s.fget (rTIDE_CFG 0) fTIDE_CFG_RESYNC_NS ∧
      t.fget (rTIDE_CFG 0) fTIDE_CFG_HOLDOVER_MS = s.fget (rTIDE_CFG 0) fTIDE_CFG_HOLDOVER_MS ∧ s.TideKept t ∧
      (pair = old → t.tide = s.tide ∧ t.tideState = s.tideState) ∧
      (pair ≠ old → t.tide.pairLost = !clocked ∧ (s.tideState = 0 → t.tideState = 0) ∧
        (s.tideState ≠ 0 → clocked = true → t.tideState = 3) ∧ (s.tideState ≠ 0 → clocked = false → t.tideState = 4)) := by
  have hnamed : fTIDE_CFG_REFCLK.get (s.cfgPair pair) = pair := (Fld.get_set ..).trans (Nat.mod_eq_of_lt hpair)
  have hother : ∀ {g : Fld}, g.lo + g.width ≤ 32 → 2 ≤ g.lo → g.get (s.cfgPair pair) = s.fget (rTIDE_CFG 0) g := fun hg hlo =>
    (Fld.get_set_ne fTIDE_CFG_REFCLK _ _ _ (.inr hlo)).trans (State.fget_word _ _ hg).symm
  obtain ⟨hcfg, hstat, hnow, hslew, hsame, hchange⟩ := s.tideCfgWrite_facts (s.cfgPair pair) (cfgPair_lt s pair)
  obtain ⟨hrefclk, hlock, hresync, hholdover⟩ := tideCfg_fields hcfg
  rw [hnamed] at hsame hchange hrefclk
  exact ⟨hrefclk, hlock.trans (hother (by decide) (by decide)), hresync.trans (hother (by decide) (by decide)), hholdover.trans (hother (by decide) (by decide)),
    State.tideKept_of_fields hnow hslew hstat, hsame, hchange⟩

end

/-- Settles O39, by the event. -/
theorem tideStatesChange : Obligations.TideStatesChange := by
  unfold Obligations.TideStatesChange
  intro s hc kept told abandoned
  have hlost := exec_sourceLost s rfl hc
  have hexpire := exec_holdoverExpire s rfl hc
  refine ⟨fun h => Answers.intro hlost (sourceLost_facts h), fun h1 h2 => Answers.intro hlost (if_neg (not_or.mpr ⟨h1, h2⟩)), fun h => Answers.intro hexpire ?expires,
    fun h => Answers.intro hexpire (if_neg h), Answers.intro (exec_freezeEnd s rfl hc) ?thaws, fun req pair hreq hpair ht => ?refclk⟩
  case expires =>
    obtain ⟨hstate, hkept, htold, habandoned⟩ := holdoverExpire_facts h
    exact ⟨hstate, hkept, htold, habandoned, State.holdoverExpire_within ..⟩
  case thaws =>
    obtain ⟨hfrozen, hstate, hsource, hsteps, hwords⟩ := freezeEnd_facts s
    exact ⟨hfrozen, hstate, hsource, hsteps, hwords, State.freezeEnd_within ..⟩
  case refclk =>
    have hview := s.clearView_within req (PageKind.tideCtl.addr 0)
    obtain ⟨hrefclk, hlock, hresync, hholdover, hkept, hsame, hchange⟩ := cfgPair_facts (s.clearView req (PageKind.tideCtl.addr 0)) hpair
    refine Answers.intro ((exec_tideRefclk req pair s (by simp [Instr.wf, hreq, hpair]) hc).trans (congrArg _ (putReg_tideCfg _ hreq ht))) ?_
    exact ⟨hrefclk, hlock, hresync, hholdover, hkept, hsame, hchange, (State.tideCfgWrite_within ..).via rfl (hview.mono rfl)⟩

end Sys2Proof.Machine
end

section
/-! SUPPORT. What a time sample does to Tide (R288–R294, R490). -/

namespace Sys2Proof.Machine

/-! ### The effect of a sample -/

/-- R291: the band in which a sample counts towards LOCKED. -/
def State.lockBand (s : State) : Int := max 1 (s.fget (rTIDE_CFG 0) fTIDE_CFG_LOCK_NS)

/-- R292: the offset up to which Tide slews. -/
def State.resync (s : State) : Int := s.fget (rTIDE_CFG 0) fTIDE_CFG_RESYNC_NS

/-- Whether an offset lies in the lock band. -/
def State.nearLock (s : State) (o : Int) : Bool := decide (-s.lockBand ≤ o ∧ o ≤ s.lockBand)

/-- R291, Table TID-2: the state that a sample leads a valid Tide to. -/
def State.sampleState (s : State) (o : Int) : Nat :=
  if s.tideState = 1 then (if s.nearLock o && decide (s.tide.locks + 1 = 4) then 2 else 1)
  else if s.tideState = 2 then (if o < -(2 * s.lockBand) ∨ 2 * s.lockBand < o then 1 else 2) else 1

/-- R291: the samples in the lock band, one after the other. -/
def State.sampleLocks (s : State) (o : Int) : Nat :=
  if s.tideState = 1 ∧ s.nearLock o = true ∧ s.sampleState o = 1 then s.tide.locks + 1 else if s.tideState = 2 ∧ s.sampleState o = 2 then s.tide.locks else 0

/-- An offset cut to the range of TIDE_OFFSET. -/
def cutOffset (o : Int) : Int := if o < -(2 ^ 31) then -(2 ^ 31) else if 2 ^ 31 - 1 < o then 2 ^ 31 - 1 else o

/-- TIDE_STAT.STEPS. -/
def State.tideSteps (s : State) : Nat := s.fget (rTIDE_STAT 0) fTIDE_STAT_STEPS

/-- TIDE_STAT.FROZEN. -/
def State.tideFrozen (s : State) : Bool := s.flag (rTIDE_STAT 0) fTIDE_STAT_FROZEN

/-- R291–R293: `t` is `s` after a sample of offset `o`. -/
def State.Sampled (s t : State) (o : Int) : Prop :=
  (s.tide.pairLost = true → t.tide = { s.tide with t1 := t.tide.t1, t2 := t.tide.t2, t3 := t.tide.t3 } ∧ t.tideState = s.tideState ∧
    s.wordsBut t [rTIDE_STAT 0]) ∧
  (s.tide.pairLost = false → s.tideState = 0 → t.tideState = 1 ∧ t.tide.now = ((s.tide.now : Int) + o).toNat % 2 ^ 64 ∧ t.tide.slew = 0 ∧ t.tide.locks = 0) ∧
  (s.tide.pairLost = false → s.tideState ≠ 0 → -s.resync ≤ o → o ≤ s.resync → t.tideState = s.sampleState o ∧ t.tide.locks = s.sampleLocks o ∧
    t.rd32 (rTIDE_OFFSET 0) = field32 (cutOffset o) % 2 ^ 32 ∧ t.tide.now = s.tide.now ∧ t.tide.slew = o * 1000000000 ∧ t.tideSteps = s.tideSteps ∧
    t.tideFrozen = s.tideFrozen) ∧
  (s.tide.pairLost = false → s.tideState ≠ 0 → s.resync < o → t.tide.now = (s.tide.now + o.toNat) % 2 ^ 64 ∧
    (s.armedAlarms = [] → t.tideState = s.sampleState o ∧ t.tide.slew = 0 ∧ t.tideSteps = satInc 16 s.tideSteps ∧
      t.bit (rIRQ_RAW (PageKind.tideCtl.addr 0)) 1 = true ∧ t.rd32 (rTIDE_OFFSET 0) = field32 (cutOffset o) % 2 ^ 32)) ∧
  (s.tide.pairLost = false → s.tideState ≠ 0 → o < -s.resync → t.tideState = s.sampleState o ∧ t.tide.now = s.tide.now ∧ t.tide.slew = 0 ∧
    t.tideFrozen = true ∧ t.tideSteps = satInc 16 s.tideSteps ∧ t.bit (rIRQ_RAW (PageKind.tideCtl.addr 0)) 1 = true ∧
    t.rd32 (rTIDE_OFFSET 0) = field32 (cutOffset o) % 2 ^ 32) ∧
  t.pins = s.pins ∧ t.mem = s.mem ∧ t.fab = s.fab ∧ t.ports = s.ports ∧ t.tree = s.tree

section
variable {s t : State} {o : Int} (h : s.Sampled t o)
include h

theorem State.Sampled.ignored : s.tide.pairLost = true → t.tide = { s.tide with t1 := t.tide.t1, t2 := t.tide.t2, t3 := t.tide.t3 } ∧ t.tideState = s.tideState ∧
    s.wordsBut t [rTIDE_STAT 0] := h.1

theorem State.Sampled.first : s.tide.pairLost = false → s.tideState = 0 → t.tideState = 1 ∧ t.tide.now = ((s.tide.now : Int) + o).toNat % 2 ^ 64 ∧ t.tide.slew = 0 ∧ t.tide.locks = 0 := h.2.1

theorem State.Sampled.slews : s.tide.pairLost = false → s.tideState ≠ 0 → -s.resync ≤ o → o ≤ s.resync → t.tideState = s.sampleState o ∧ t.tide.locks = s.sampleLocks o ∧
    t.rd32 (rTIDE_OFFSET 0) = field32 (cutOffset o) % 2 ^ 32 ∧ t.tide.now = s.tide.now ∧ t.tide.slew = o * 1000000000 ∧ t.tideSteps = s.tideSteps ∧
    t.tideFrozen = s.tideFrozen := h.2.2.1

theorem State.Sampled.steps : s.tide.pairLost = false → s.tideState ≠ 0 → s.resync < o → t.tide.now = (s.tide.now + o.toNat) % 2 ^ 64 ∧
    (s.armedAlarms = [] → t.tideState = s.sampleState o ∧ t.tide.slew = 0 ∧ t.tideSteps = satInc 16 s.tideSteps ∧
      t.bit (rIRQ_RAW (PageKind.tideCtl.addr 0)) 1 = true ∧ t.rd32 (rTIDE_OFFSET 0) = field32 (cutOffset o) % 2 ^ 32) := h.2.2.2.1

theorem State.Sampled.freezes : s.tide.pairLost = false → s.tideState ≠ 0 → o < -s.resync → t.tideState = s.sampleState o ∧ t.tide.now = s.tide.now ∧ t.tide.slew = 0 ∧
    t.tideFrozen = true ∧ t.tideSteps = satInc 16 s.tideSteps ∧ t.bit (rIRQ_RAW (PageKind.tideCtl.addr 0)) 1 = true ∧
    t.rd32 (rTIDE_OFFSET 0) = field32 (cutOffset o) % 2 ^ 32 := h.2.2.2.2.1

theorem State.Sampled.parts : t.pins = s.pins ∧ t.mem = s.mem ∧ t.fab = s.fab ∧ t.ports = s.ports ∧ t.tree = s.tree := h.2.2.2.2.2

end

/-- No alarm is armed where the alarms' registers are those of a state with none. -/
theorem armedAlarms_wordsBut {s t : State} {l : List Nat} (h : s.wordsBut t l) (hl : ∀ a ∈ l, a / 4096 ≠ 0xe ∧ a < 0x60000) (hnone : s.armedAlarms = []) :
    t.armedAlarms = [] := by
  have hdevice : ∀ {a : Nat}, a / 4096 = 0xe ∨ 0x60000 ≤ a → l.contains a = false := fun {a} ha => by
    rw [List.contains_eq_mem, decide_eq_false_iff_not]
    intro hmem
    obtain ⟨hpage, hlow⟩ := hl a hmem
    omega
  unfold State.armedAlarms at hnone ⊢
  obtain ⟨halarms, hstalls⟩ := List.append_eq_nil_iff.mp hnone
  rw [List.append_eq_nil_iff]
  constructor
  · rw [List.map_eq_nil_iff, List.filter_eq_nil_iff] at halarms ⊢
    refine fun k hk => ?_
    have hword := h (rALARM_STAT 0 k) (hdevice (.inl (by unfold rALARM_STAT; rw [addr_tideAlarm]; have := List.mem_range.mp hk; omega)))
    rw [State.flag_of_word hword (by decide)]
    exact halarms k hk
  · rw [List.map_eq_nil_iff, List.filter_eq_nil_iff] at hstalls ⊢
    refine fun i hi => ?_
    have hword := h (rSTALL_ALARM_CTL (i / 4)) (hdevice (.inr (by unfold rSTALL_ALARM_CTL; rw [addr_tideStall]; omega)))
    rw [State.bit_of_word _ (by omega) hword]
    exact hstalls i hi

section
variable {s : State}

/-- The state judged by a sample, before the correction of its offset. -/
def State.judged (s : State) (o : Int) : State := (s.wr32 (rTIDE_OFFSET 0) (field32 (cutOffset o))).judge o

/-- R291: TIDE_OFFSET takes the offset, and the state moves as Table TID-2 says. -/
theorem judged_facts (o : Int) (h0 : s.tideState ≠ 0) : (s.judged o).tideState = s.sampleState o ∧ (s.judged o).tide = { s.tide with locks := s.sampleLocks o } ∧
    (∀ f, statKept f → (s.judged o).fget (rTIDE_STAT 0) f = s.fget (rTIDE_STAT 0) f) ∧ (s.judged o).rd32 (rTIDE_OFFSET 0) = field32 (cutOffset o) % 2 ^ 32 ∧
    s.wordsBut (s.judged o) [rTIDE_OFFSET 0, rTIDE_STAT 0, rIRQ_RAW (PageKind.tideCtl.addr 0)] := by
  have hwords : s.wordsBut (s.wr32 (rTIDE_OFFSET 0) (field32 (cutOffset o))) [rTIDE_OFFSET 0] := State.wordsBut_wr32 _ _ (List.mem_singleton.mpr rfl)
  have htide : (s.wr32 (rTIDE_OFFSET 0) (field32 (cutOffset o))).tide = s.tide := (State.wr32_within ..).2 .tide rfl
  have hstat : ∀ {f : Fld}, f.lo + f.width ≤ 32 → (s.wr32 (rTIDE_OFFSET 0) (field32 (cutOffset o))).fget (rTIDE_STAT 0) f = s.fget (rTIDE_STAT 0) f :=
    fun hf => State.fget_wordsBut hwords _ (by decide) hf
  have hcfg : ∀ {f : Fld}, f.lo + f.width ≤ 32 → (s.wr32 (rTIDE_OFFSET 0) (field32 (cutOffset o))).fget (rTIDE_CFG 0) f = s.fget (rTIDE_CFG 0) f :=
    fun hf => State.fget_wordsBut hwords _ (by decide) hf
  have hstate : (s.wr32 (rTIDE_OFFSET 0) (field32 (cutOffset o))).tideState = s.tideState := hstat (by decide)
  obtain ⟨hmoved, hlocks, hkept, -, hjudgeWords, -⟩ := (s.wr32 (rTIDE_OFFSET 0) (field32 (cutOffset o))).judge_facts o (by rw [hstate]; exact h0)
  rw [hcfg (by decide), hstate, htide] at hmoved hlocks
  refine ⟨hmoved, hlocks, fun f hf => (hkept f hf).trans (hstat (by unfold statKept at hf; omega)), ?_,
    State.wordsBut_trans (State.wordsBut_mono hwords (by simp)) (State.wordsBut_mono hjudgeWords (by simp))⟩
  exact ((State.word_eq_iff ..).mp (hjudgeWords (rTIDE_OFFSET 0) (by decide))).trans (State.rd32_wr32 ..)

theorem tideSample_valid (src : Nat) (o : Int) (hpair : s.tide.pairLost = false) (h0 : s.tideState ≠ 0) : s.tideSample src o = (s.judged o).correct src o := by
  unfold State.tideSample
  rw [if_neg (by simp [hpair]), if_neg h0]
  rfl

/-- R293: the first sample sets Tide and enters TRACK. -/
theorem tideSample_first (src : Nat) (o : Int) (hpair : s.tide.pairLost = false) (h0 : s.tideState = 0) :
    (s.tideSample src o).tideState = 1 ∧ (s.tideSample src o).tide.now = ((s.tide.now : Int) + o).toNat % 2 ^ 64 ∧ (s.tideSample src o).tide.slew = 0 ∧
      (s.tideSample src o).tide.locks = 0 ∧
      ((s.tideSample src o).tide.t1 = s.tide.t1 ∧ (s.tideSample src o).tide.t2 = s.tide.t2 ∧ (s.tideSample src o).tide.t3 = s.tide.t3) ∧
      (∀ f, statKept f → (s.tideSample src o).fget (rTIDE_STAT 0) f = s.fget (rTIDE_STAT 0) f) := by
  have hset : ∃ u : State, s.tideSample src o = (u.enterTide 1).closeEpoch ∧ u.tideState = s.tideState ∧ u.regs = s.regs ∧
      u.tide.now = ((s.tide.now : Int) + o).toNat % 2 ^ 64 ∧ u.tide.slew = 0 ∧ u.tide.t1 = s.tide.t1 ∧ u.tide.t2 = s.tide.t2 ∧ u.tide.t3 = s.tide.t3 := by
    unfold State.tideSample
    rw [if_neg (by simp [hpair]), if_pos h0]
    exact ⟨_, rfl, rfl, rfl, rfl, rfl, rfl, rfl, rfl⟩
  obtain ⟨u, ht, hstate, hregs, hnow, hslew, ht1, ht2, ht3⟩ := hset
  obtain ⟨hentered, htide, hkept, -, -, -, -⟩ := u.enterTide_facts 1 (by decide) (by decide)
  obtain ⟨hcloseTide, hcloseWords, -⟩ := (u.enterTide 1).closeEpoch_facts
  rw [if_neg (by rw [hstate, h0]; decide)] at htide
  rw [ht, hcloseTide, htide]
  exact ⟨(State.fget_wordsBut hcloseWords _ (by decide) (by decide)).trans hentered, hnow, hslew, rfl, ⟨ht1, ht2, ht3⟩, fun f hf =>
    (State.fget_wordsBut hcloseWords _ (by decide) (by unfold statKept at hf; omega)).trans ((hkept f hf).trans (State.fget_same hregs ..))⟩

/-- A sample of a valid Tide corrects it by the offset: slewing, a step, or a freeze. -/
theorem tideSample_corrects (src : Nat) (o : Int) (hpair : s.tide.pairLost = false) (h0 : s.tideState ≠ 0) :
    (-s.resync ≤ o → o ≤ s.resync → (s.tideSample src o).tideState = s.sampleState o ∧ (s.tideSample src o).tide.locks = s.sampleLocks o ∧
        (s.tideSample src o).rd32 (rTIDE_OFFSET 0) = field32 (cutOffset o) % 2 ^ 32 ∧ (s.tideSample src o).tide.now = s.tide.now ∧
        (s.tideSample src o).tide.slew = o * 1000000000 ∧ (s.tideSample src o).tideSteps = s.tideSteps ∧ (s.tideSample src o).tideFrozen = s.tideFrozen) ∧
      (s.resync < o → (s.tideSample src o).tide.now = (s.tide.now + o.toNat) % 2 ^ 64 ∧
        (s.armedAlarms = [] → (s.tideSample src o).tideState = s.sampleState o ∧ (s.tideSample src o).tide.slew = 0 ∧
          (s.tideSample src o).tideSteps = satInc 16 s.tideSteps ∧ (s.tideSample src o).bit (rIRQ_RAW (PageKind.tideCtl.addr 0)) 1 = true ∧
          (s.tideSample src o).rd32 (rTIDE_OFFSET 0) = field32 (cutOffset o) % 2 ^ 32)) ∧
      (o < -s.resync → (s.tideSample src o).tideState = s.sampleState o ∧ (s.tideSample src o).tide.now = s.tide.now ∧ (s.tideSample src o).tide.slew = 0 ∧
        (s.tideSample src o).tideFrozen = true ∧ (s.tideSample src o).tideSteps = satInc 16 s.tideSteps ∧
        (s.tideSample src o).bit (rIRQ_RAW (PageKind.tideCtl.addr 0)) 1 = true ∧ (s.tideSample src o).rd32 (rTIDE_OFFSET 0) = field32 (cutOffset o) % 2 ^ 32) := by
  obtain ⟨hstate, htide, hkept, hoffset, hwords⟩ := judged_facts o h0
  have hresync : ((s.judged o).fget (rTIDE_CFG 0) fTIDE_CFG_RESYNC_NS : Int) = s.resync := congrArg Nat.cast (State.fget_wordsBut hwords _ (by decide) (by decide))
  have hsteps : (s.judged o).fget (rTIDE_STAT 0) fTIDE_STAT_STEPS = s.tideSteps := hkept _ (.inl (by decide))
  have hfrozen : (s.judged o).tideFrozen = s.tideFrozen := congrArg (decide <| · = 1) (hkept fTIDE_STAT_FROZEN (.inr (by decide)))
  have hnow : (s.judged o).tide.now = s.tide.now := (congrArg Tide.now htide :)
  obtain ⟨hslews, hstep, hfreezes, -, -⟩ := (s.judged o).correct_facts src o
  rw [hresync, hnow] at hslews hstep hfreezes
  dsimp only at hstep hfreezes
  rw [hsteps] at hstep hfreezes
  rw [tideSample_valid src o hpair h0]
  have hshown : ∀ {t : State}, t.word (rTIDE_OFFSET 0) = (s.judged o).word (rTIDE_OFFSET 0) → t.rd32 (rTIDE_OFFSET 0) = field32 (cutOffset o) % 2 ^ 32 :=
    fun h => ((State.word_eq_iff ..).mp h).trans hoffset
  refine ⟨fun hlow hhigh => ?slews, fun hhigh => ?steps, fun hlow => ?freezes⟩
  case slews =>
    obtain ⟨hsameNow, hslew, hlocks, hfreq⟩ := hslews hlow hhigh
    have hstat : ∀ {f : Fld}, f.lo + f.width ≤ 32 → ((s.judged o).correct src o).fget (rTIDE_STAT 0) f = (s.judged o).fget (rTIDE_STAT 0) f :=
      fun hf => State.fget_wordsBut hfreq _ (by decide) hf
    exact ⟨(hstat (by decide)).trans hstate, hlocks.trans (congrArg Tide.locks htide), hshown (hfreq _ (by decide)), hsameNow, hslew,
      (hstat (by decide)).trans hsteps, (congrArg (decide <| · = 1) (hstat (f := fTIDE_STAT_FROZEN) (by decide))).trans hfrozen⟩
  case steps =>
    obtain ⟨hmoved, hquiet⟩ := hstep hhigh
    refine ⟨hmoved, fun hnone => ?_⟩
    obtain ⟨hsameState, hslew, hcounted, hirq, hword⟩ := hquiet (armedAlarms_wordsBut hwords (by decide) hnone)
    exact ⟨hsameState.trans hstate, hslew, hcounted, hirq, hshown hword⟩
  case freezes =>
    obtain ⟨hsameState, hsameNow, hslew, hfroze, hcounted, hirq, hword⟩ := hfreezes hlow
    exact ⟨hsameState.trans hstate, hsameNow, hslew, hfroze, hcounted, hirq, hshown hword⟩

/-- A sample leaves the times of the exchange in progress, and, where no alarm is armed, TIDE_STAT.SOURCE. -/
theorem tideSample_leaves (s : State) (src : Nat) (o : Int) :
    ((s.tideSample src o).tide.t1 = s.tide.t1 ∧ (s.tideSample src o).tide.t2 = s.tide.t2 ∧ (s.tideSample src o).tide.t3 = s.tide.t3) ∧
      (s.armedAlarms = [] → (s.tideSample src o).tideSource = s.tideSource) := by
  cases hpair : s.tide.pairLost with
  | true =>
    have hsame : s.tideSample src o = s := if_pos hpair
    rw [hsame]
    exact ⟨⟨rfl, rfl, rfl⟩, fun _ => rfl⟩
  | false =>
    by_cases h0 : s.tideState = 0
    · obtain ⟨-, -, -, -, htimes, hkept⟩ := tideSample_first src o hpair h0
      exact ⟨htimes, fun _ => hkept _ (.inr (by decide))⟩
    · obtain ⟨-, htide, hkept, -, hwords⟩ := judged_facts o h0
      obtain ⟨-, -, -, ⟨ht1, ht2, ht3⟩, hsource⟩ := (s.judged o).correct_facts src o
      rw [tideSample_valid src o hpair h0]
      refine ⟨⟨ht1.trans (congrArg Tide.t1 htide :), ht2.trans (congrArg Tide.t2 htide :), ht3.trans (congrArg Tide.t3 htide :)⟩, fun hnone => ?_⟩
      exact (hsource (.inl (armedAlarms_wordsBut hwords (by decide) hnone)) fTIDE_STAT_SOURCE (by decide) (.inr (by decide)) (by decide)).trans (hkept _ (.inr (by decide)))

theorem tideSample_sampled (s : State) (src : Nat) (o : Int) : s.Sampled (s.tideSample src o) o := by
  refine ⟨fun hpair => ?ignored, fun hpair h0 => ?first, fun hpair h0 => (tideSample_corrects src o hpair h0).1,
    fun hpair h0 => (tideSample_corrects src o hpair h0).2.1, fun hpair h0 => (tideSample_corrects src o hpair h0).2.2, ?parts⟩
  case ignored =>
    have hsame : s.tideSample src o = s := if_pos hpair
    rw [hsame]
    exact ⟨rfl, rfl, State.wordsBut_refl _ _⟩
  case first =>
    obtain ⟨hstate, hnow, hslew, hlocks, -, -⟩ := tideSample_first src o hpair h0
    exact ⟨hstate, hnow, hslew, hlocks⟩
  case parts =>
    have hwithin := s.tideSample_within src o
    exact ⟨hwithin.2 .pins rfl, hwithin.2 .mem rfl, hwithin.2 .fab rfl, hwithin.2 .ports rfl, hwithin.2 .tree rfl⟩

/-! ### Where a sample comes from -/

/-- `u` is `s` but for TIDE_STAT.SOURCE and the times of an exchange: a sample does to it what it does to `s`. -/
def State.SampleBase (s u : State) : Prop :=
  u.tide = { s.tide with t1 := u.tide.t1, t2 := u.tide.t2, t3 := u.tide.t3 } ∧
  s.wordsBut u [rTIDE_STAT 0] ∧
  (∀ f : Fld, f.lo + f.width ≤ 26 ∨ 29 ≤ f.lo → f.lo + f.width ≤ 32 → u.fget (rTIDE_STAT 0) f = s.fget (rTIDE_STAT 0) f) ∧
  Within [.regs, .agg, .tide] s u

section
variable {s u : State} (h : s.SampleBase u)
include h

theorem State.SampleBase.tide : u.tide = { s.tide with t1 := u.tide.t1, t2 := u.tide.t2, t3 := u.tide.t3 } := h.1

theorem State.SampleBase.words : s.wordsBut u [rTIDE_STAT 0] := h.2.1

theorem State.SampleBase.stat : ∀ f : Fld, f.lo + f.width ≤ 26 ∨ 29 ≤ f.lo → f.lo + f.width ≤ 32 → u.fget (rTIDE_STAT 0) f = s.fget (rTIDE_STAT 0) f := h.2.2.1

theorem State.SampleBase.within : Within [.regs, .agg, .tide] s u := h.2.2.2

end

theorem State.SampleBase.sampled {u t : State} {o : Int} (h : s.SampleBase u) (ht : u.Sampled t o) : s.Sampled t o := by
  have hcfg : ∀ {f : Fld}, f.lo + f.width ≤ 32 → u.fget (rTIDE_CFG 0) f = s.fget (rTIDE_CFG 0) f := fun hf => State.fget_wordsBut h.words _ (by decide) hf
  have hpair : u.tide.pairLost = s.tide.pairLost := (congrArg Tide.pairLost h.tide :)
  have hnow : u.tide.now = s.tide.now := (congrArg Tide.now h.tide :)
  have hlocks : u.tide.locks = s.tide.locks := (congrArg Tide.locks h.tide :)
  have hstate : u.tideState = s.tideState := h.stat _ (.inr (by decide)) (by decide)
  have hband : u.lockBand = s.lockBand := congrArg (fun x : Nat => max 1 (x : Int)) (hcfg (by decide))
  have hresync : u.resync = s.resync := congrArg Nat.cast (hcfg (by decide))
  have hmoved : u.sampleState o = s.sampleState o := by unfold State.sampleState State.nearLock; rw [hstate, hband, hlocks]
  have hcount : u.sampleLocks o = s.sampleLocks o := by unfold State.sampleLocks State.nearLock; rw [hmoved, hstate, hband, hlocks]
  have hsteps : u.tideSteps = s.tideSteps := h.stat _ (.inl (by decide)) (by decide)
  have hfrozen : u.tideFrozen = s.tideFrozen := congrArg (decide <| · = 1) (h.stat fTIDE_STAT_FROZEN (.inl (by decide)) (by decide))
  obtain ⟨hignored, hfirst, hslews, hstep, hfreezes, hpins, hmem, hfab, hports, htree⟩ := ht
  rw [hpair] at hignored hfirst hslews hstep hfreezes
  rw [hstate] at hignored hfirst hslews hstep hfreezes
  rw [hnow] at hfirst hslews hstep hfreezes
  rw [hresync, hmoved, hsteps] at hslews hstep hfreezes
  rw [hcount, hfrozen] at hslews
  refine ⟨fun hlost => ?ignored, hfirst, hslews, fun hvalid h0 hhigh => ?steps, hfreezes, hpins.trans (h.within.2 .pins rfl),
    hmem.trans (h.within.2 .mem rfl), hfab.trans (h.within.2 .fab rfl), hports.trans (h.within.2 .ports rfl), htree.trans (h.within.2 .tree rfl)⟩
  case ignored =>
    obtain ⟨htide, hsame, hwords⟩ := hignored hlost
    exact ⟨by rw [htide, h.tide], hsame, State.wordsBut_trans h.words hwords⟩
  case steps =>
    obtain ⟨hmovedNow, hquiet⟩ := hstep hvalid h0 hhigh
    exact ⟨hmovedNow, fun hnone => hquiet (armedAlarms_wordsBut h.words (by decide) hnone)⟩

/-- R294: TIDE_IN made the source. -/
theorem sampleBase_source (s : State) : s.SampleBase (s.fset (rTIDE_STAT 0) fTIDE_STAT_SOURCE 5) := by
  have htide : (s.fset (rTIDE_STAT 0) fTIDE_STAT_SOURCE 5).tide = s.tide := (State.fset_within ..).2 .tide rfl
  exact ⟨by rw [htide], State.wordsBut_fset _ _ (by decide) (List.mem_singleton.mpr rfl),
    fun f hf hw => State.fget_fset_apart _ _ _ _ (by decide) hw (hf.imp id id), (State.fset_within ..).mono rfl⟩

/-- R305: the exchange ended. -/
theorem sampleBase_exchange (s : State) : s.SampleBase (s.setTide { s.tide with t1 := none, t2 := none, t3 := none }) :=
  ⟨rfl, State.wordsBut_of_regs _ rfl, fun _ _ _ => rfl, (State.setTide_within ..).mono rfl⟩

/-- R290, R294: a good TIDE_IN frame is a sample where TIDE_IN is the source or becomes it. -/
theorem tideInFrame_sample {v c : Nat} (age : Nat) {first : Bool} (hcrc : c = crc16 64 v 0xFFFF)
    (hmine : s.tideSource = 5 ∨ first = true ∧ s.tideSource = 7 ∧ s.role ≠ 2) : ∃ u, s.SampleBase u ∧ u.tideSource = 5 ∧
      s.tideInFrame v c age first = u.tideSample 5 (((v % 2 ^ 64 + s.rd32 (rTIDE_IN_DELAY 0) + age : Nat) : Int) - s.tide.now) := by
  rcases hmine with hsource | ⟨hfirst, hsource, hrole⟩
  · refine ⟨s, ⟨rfl, State.wordsBut_refl _ _, fun _ _ _ => rfl, Within.refl ..⟩, hsource, ?_⟩
    unfold State.tideInFrame
    dsimp only
    rw [if_neg (not_not_intro hcrc), if_neg (c := (first && decide (s.tideSource = 7) && decide (s.role ≠ 2)) = true) (by simp [hsource]), if_neg (not_not_intro hsource)]
  · have hbase := sampleBase_source s
    have hnamed : (s.fset (rTIDE_STAT 0) fTIDE_STAT_SOURCE 5).tideSource = 5 := State.fget_fset _ _ _ _ (by decide)
    have hdelay : (s.fset (rTIDE_STAT 0) fTIDE_STAT_SOURCE 5).rd32 (rTIDE_IN_DELAY 0) = s.rd32 (rTIDE_IN_DELAY 0) :=
      (State.word_eq_iff ..).mp (hbase.words _ (by decide))
    have htide : (s.fset (rTIDE_STAT 0) fTIDE_STAT_SOURCE 5).tide = s.tide := (State.fset_within ..).2 .tide rfl
    refine ⟨_, hbase, hnamed, ?_⟩
    unfold State.tideInFrame
    dsimp only
    rw [if_neg (not_not_intro hcrc), if_pos (c := (first && decide (s.tideSource = 7) && decide (s.role ≠ 2)) = true) (by simp [hfirst, hsource, hrole]),
      if_neg (not_not_intro hnamed), hdelay, htide]

theorem tideInFrame_other {v c : Nat} (age : Nat) {first : Bool}
    (h : c ≠ crc16 64 v 0xFFFF ∨ ¬ (s.tideSource = 5 ∨ first = true ∧ s.tideSource = 7 ∧ s.role ≠ 2)) : s.tideInFrame v c age first = s := by
  unfold State.tideInFrame
  rcases h with hcrc | hother
  · exact if_pos hcrc
  · obtain ⟨hsource, hfirst⟩ := not_or.mp hother
    dsimp only
    rw [if_neg (c := (first && decide (s.tideSource = 7) && decide (s.role ≠ 2)) = true) (by simpa [and_assoc] using hfirst), if_pos hsource]
    exact ite_self s

/-- R305: the DELAY_RSP that ends an exchange is a sample of the parent. -/
theorem delayRsp_sample {k t4 t1 t2 t3 : Nat} (h1 : s.tide.t1 = some t1) (h2 : s.tide.t2 = some t2) (h3 : s.tide.t3 = some t3)
    (hparent : s.fromParent k = true) (hsource : s.tideSource = 0) :
    s.delayRsp k t4 = (s.setTide { s.tide with t1 := none, t2 := none, t3 := none }).tideSample 0
      (-(Int.fdiv (((t2 : Int) - t1) - ((t4 : Int) - t3) - signed16 (s.fget (rTIDE_ASYM 0 k) fTIDE_ASYM_A)) 2)) := by
  unfold State.delayRsp
  rw [if_neg (by simp [hparent]), h1, h2, h3]
  exact if_pos hsource

theorem delayRsp_idle {k t4 : Nat} (h : s.fromParent k = false ∨ s.tide.t1 = none) : s.delayRsp k t4 = s := by
  unfold State.delayRsp
  rcases h with hother | hnone
  · exact if_pos (by simp [hother])
  · rw [hnone]
    exact ite_self s

end

/-- Settles O38: each sample is one of a state that differs in TIDE_STAT.SOURCE and the exchange's times alone. -/
theorem samplesCorrectTide : Obligations.SamplesCorrectTide := by
  unfold Obligations.SamplesCorrectTide
  intro s hc resync lock near cut moved steps frozen sampled
  have hsampled : ∀ {o t}, s.Sampled t o → sampled o t := fun h =>
    ⟨h.ignored, h.first, fun hvalid h0 => ⟨h.slews hvalid h0, h.steps hvalid h0, h.freezes hvalid h0⟩, h.parts⟩
  refine ⟨fun v c age first => ?frame, fun n v age hn => ?ptm, fun k t4 t1 t2 t3 hk h1 h2 h3 hparent hsource => ?delay, fun k t4 hk hidle => ?noDelay⟩
  case frame =>
    intro mine
    have hexec := exec_tideIn v c age first s rfl hc
    refine ⟨fun hcrc hmine => Answers.intro hexec ?_, fun hnot => Answers.intro hexec ?_⟩
    · obtain ⟨u, hbase, hsource, hframe⟩ := tideInFrame_sample age hcrc hmine
      rw [hframe]
      exact ⟨fun hnone => ((tideSample_leaves ..).2 (armedAlarms_wordsBut hbase.words (by decide) hnone)).trans hsource, hsampled (hbase.sampled (tideSample_sampled ..))⟩
    · exact tideInFrame_other age (hnot.imp id id)
  case ptm =>
    refine Answers.intro (exec_ptmExchange n v age s (by simpa [Instr.wf] using hn) hc) ⟨fun hsource hready => ?_, fun hnot => if_neg ?_⟩
    · have hsample : s.ptmExchange n v age = s.tideSample (1 + n) (((v + age : Nat) : Int) - s.tide.now) := if_pos (by simp [hsource, hready])
      rw [hsample]
      exact hsampled (tideSample_sampled ..)
    · rcases hnot with hother | hdown
      · simp [hother]
      · simp [hdown]
  case delay =>
    refine Answers.intro (exec_delayRsp k t4 s (by simpa [Instr.wf] using hk) hc) ?_
    rw [delayRsp_sample h1 h2 h3 hparent hsource]
    obtain ⟨⟨hgone1, hgone2, hgone3⟩, -⟩ := tideSample_leaves (s.setTide { s.tide with t1 := none, t2 := none, t3 := none }) 0
      (-(Int.fdiv (((t2 : Int) - t1) - ((t4 : Int) - t3) - signed16 (s.fget (rTIDE_ASYM 0 k) fTIDE_ASYM_A)) 2))
    exact ⟨hgone1, hgone2, hgone3, hsampled ((sampleBase_exchange s).sampled (tideSample_sampled ..))⟩
  case noDelay => exact Answers.intro (exec_delayRsp k t4 s (by simpa [Instr.wf] using hk) hc) (delayRsp_idle hidle)

end Sys2Proof.Machine
end

section
/-! SUPPORT. Alarms (R295, R296, R299): the alarm that fires, and ARM, DISARM and FIRED on one alarm of a stall. -/

namespace Sys2Proof.Machine

/-! ### ALARM_FIRE -/

/-- The words that the close of an epoch writes. -/
def epochWords : List Nat := [rTALLY_EPOCH 0, rTALLY_EPOCH 0 + 4, rIRQ_RAW (PageKind.tallyCtl.addr 0)]

theorem alarmPage_not_epochWord {a : Nat} (h : 0x4000 ≤ a) : epochWords.contains a = false := by
  simp only [epochWords, List.contains_cons, List.contains_nil, Bool.or_false, Bool.or_eq_false_iff, beq_eq_false_iff_ne, rTALLY_EPOCH, rIRQ_RAW, addr_tallyCtl]
  omega

section
variable {s : State}

theorem State.closeEpoch_tide (s : State) : s.closeEpoch.tide = s.tide := s.closeEpoch_facts.1

theorem State.closeEpoch_word {a : Nat} (h : 0x4000 ≤ a) : s.closeEpoch.word a = s.word a := s.closeEpoch_facts.2.1 a (alarmPage_not_epochWord h)

theorem State.closeEpoch_rd32 {a : Nat} (h : 0x4000 ≤ a) : s.closeEpoch.rd32 a = s.rd32 a := by
  unfold State.rd32; rw [State.closeEpoch_word h]

theorem State.closeEpoch_rd64 {a : Nat} (h : 0x4000 ≤ a) : s.closeEpoch.rd64 a = s.rd64 a := by
  unfold State.rd64; rw [State.closeEpoch_rd32 h, State.closeEpoch_rd32 (by omega)]

theorem State.closeEpoch_flag {a : Nat} {f : Fld} (h : 0x4000 ≤ a) (hf : f.lo + f.width ≤ 32) : s.closeEpoch.flag a f = s.flag a f := by
  unfold State.flag; rw [State.fget_wordsBut s.closeEpoch_facts.2.1 _ (alarmPage_not_epochWord h) hf]

theorem State.closeEpoch_bit {a k : Nat} (h : 0x4000 ≤ a) (hk : k < 32) : s.closeEpoch.bit a k = s.bit a k :=
  State.closeEpoch_flag h (show k + 1 ≤ 32 by omega)

theorem State.alarmFire_none (h : s.nextAlarm false = none) : s.alarmFire = s := by unfold State.alarmFire; rw [h]

theorem State.alarmFire_device {T o k : Nat} (h : s.nextAlarm false = some (T, o, k)) (hk : k < 64) : s.alarmFire = s.closeEpoch.fireDevice k false := by
  unfold State.alarmFire State.fireAlarm; rw [h]; exact if_pos hk

theorem State.alarmFire_stall {T o n j : Nat} (h : s.nextAlarm false = some (T, o, 0x100 + 4 * n + j)) (hj : j < 4) : s.alarmFire = s.closeEpoch.fireStall n j false := by
  unfold State.alarmFire State.fireAlarm
  rw [h]
  dsimp only
  rw [if_neg (by omega), show (0x100 + 4 * n + j - 0x100) / 4 = n by omega, show (0x100 + 4 * n + j - 0x100) % 4 = j by omega]

end

/-! ### One alarm of a stall: ARM, DISARM and FIRED -/

/-- Where `bits` are the alarm bits of stall n, and `tide` is Tide, after a write of STALL_ALARM_CTL. -/
def State.StallAlarms (n : Nat) (s t : State) (bits : Nat → Bool) (tide : Tide) : Prop :=
  (∀ i, i < 32 → t.bit (rSTALL_ALARM_CTL n) i = bits i) ∧
  t.tide = tide ∧
  s.wordsBut t [rSTALL_ALARM_CTL n] ∧
  Within [.regs, .agg, .tide] s t

section
variable {n : Nat} {s t : State} {b : Nat → Bool} {td : Tide} (h : State.StallAlarms n s t b td)
include h

theorem State.StallAlarms.bits : ∀ i, i < 32 → t.bit (rSTALL_ALARM_CTL n) i = b i := h.1

theorem State.StallAlarms.tide : t.tide = td := h.2.1

theorem State.StallAlarms.words : s.wordsBut t [rSTALL_ALARM_CTL n] := h.2.2.1

theorem State.StallAlarms.within : Within [.regs, .agg, .tide] s t := h.2.2.2

end

section
variable {s t : State} {n j : Nat} {b : Nat → Bool} {td : Tide}

theorem sameAlarms.stallAlarms (h : sameAlarms n s t) : State.StallAlarms n s t (s.bit (rSTALL_ALARM_CTL n)) s.tide :=
  ⟨h.1, h.2.1, h.2.2.1, h.2.2.2.mono rfl⟩

theorem State.StallAlarms.same {u : State} (h : State.StallAlarms n s t b td) (hu : sameAlarms n t u) : State.StallAlarms n s u b td := by
  obtain ⟨hbits, htide, hwords, hwithin⟩ := hu
  exact ⟨fun i hi => (hbits i hi).trans (h.bits i hi), htide.trans h.tide, State.wordsBut_trans h.words hwords, hwithin.via rfl h.within⟩

theorem State.StallAlarms.congr {b' : Nat → Bool} (h : State.StallAlarms n s t b td) (hb : ∀ i, i < 32 → b i = b' i) : State.StallAlarms n s t b' td :=
  ⟨fun i hi => (h.bits i hi).trans (hb i hi), h.tide, h.words, h.within⟩

theorem State.StallAlarms.setBit (h : State.StallAlarms n s t b td) {k : Nat} (hk : k < 32) (x : Bool) :
    State.StallAlarms n s (t.setBit (rSTALL_ALARM_CTL n) k x) (fun i => if i = k then x else b i) td := by
  refine ⟨fun i hi => ?_, ((State.setBit_within ..).2 .tide rfl).trans h.tide, h.words.setBit hk (by simp), (State.setBit_within ..).via rfl h.within⟩
  rw [State.bit_setBit_if _ _ _ _ _ _ hk hi, h.bits i hi]
  simp only [true_and]

theorem State.StallAlarms.setTide (h : State.StallAlarms n s t b td) (td' : Tide) : State.StallAlarms n s (t.setTide td') b td' :=
  ⟨h.bits, rfl, h.words.regs rfl, (State.setTide_within ..).via rfl h.within⟩

/-- An alarm's time is no word of STALL_ALARM_CTL. -/
theorem State.StallAlarms.time (h : State.StallAlarms n s t b td) (j : Nat) : t.rd64 (rSTALL_ALARM_T n j) = s.rd64 (rSTALL_ALARM_T n j) := by
  have hapart : ∀ a, rSTALL_ALARM_CTL n < a → t.word a = s.word a := fun a ha => h.words a (by simp; omega)
  unfold State.rd64 State.rd32
  rw [hapart _ (by unfold rSTALL_ALARM_CTL rSTALL_ALARM_T; omega), hapart _ (by unfold rSTALL_ALARM_CTL rSTALL_ALARM_T; omega)]

theorem State.StallAlarms.tideState (h : State.StallAlarms n s t b td) : t.tideState = s.tideState := by
  have hapart : rTIDE_STAT 0 ≠ rSTALL_ALARM_CTL n := by unfold rTIDE_STAT rSTALL_ALARM_CTL; rw [addr_tideCtl, addr_tideStall]; omega
  exact State.fget_wordsBut h.words _ (by simpa using hapart) (by decide)

/-- A write that leaves the alarm bits as they are leaves their word. -/
theorem State.StallAlarms.word (h : State.StallAlarms n s t (s.bit (rSTALL_ALARM_CTL n)) td) : s.wordsBut t [] := by
  intro a _
  by_cases ha : a = rSTALL_ALARM_CTL n
  · rw [ha]; exact State.word_of_bits _ h.bits
  · exact h.words a (by simpa using ha)

/-- A write that asks something of alarm j alone: what alarm j's part does is what the write does. -/
theorem State.stallAlarmWrite_one {v : Nat} {r : Bool} (req : Req) (hj : j < 4)
    (hv : ∀ k, k < 4 → k ≠ j → v.testBit k = false ∧ v.testBit (4 + k) = false ∧ v.testBit (8 + k) = false ∧ v.testBit (16 + k) = s.bit (rSTALL_ALARM_CTL n) (16 + k))
    (hone : ∀ u, sameAlarms n s u → State.StallAlarms n s (alarmOne n v (u, false) j).1 b td ∧ (alarmOne n v (u, false) j).2 = r)
    (hb : ∀ k, k < 4 → k ≠ j → b (16 + k) = s.bit (rSTALL_ALARM_CTL n) (16 + k)) :
    ∃ w, State.StallAlarms n s w b td ∧ s.stallAlarmWrite req n v = if r then w.refuse req (rSTALL_ALARM_CTL n) causeRule else w := by
  obtain ⟨u, hu, hfold⟩ := alarmFold n v j hj s hv
  obtain ⟨hset, hr⟩ := hone u hu
  obtain ⟨w, hw, heq⟩ := hfold (fun k hk hne => ((hset.bits _ (by omega)).trans (hb k hk hne)).trans (hu.1 _ (by omega)).symm)
  refine ⟨w, hset.same hw, ?_⟩
  rw [State.stallAlarmWrite_eq, heq, hr]

/-! #### What each command asks of its alarm -/

section
variable {v : Nat} {u : State} {signal : Bool}

theorem alarmOne_arm (hu : sameAlarms n s u) (hj : j < 4) (hv : v.testBit j = true ∧ v.testBit (4 + j) = false ∧ v.testBit (8 + j) = false ∧ v.testBit (16 + j) = signal)
    (hidle : s.bit (rSTALL_ALARM_CTL n) j = false) (hset : s.tideState ≠ 0) (hfuture : s.tide.now + 1000 < s.rd64 (rSTALL_ALARM_T n j)) :
    State.StallAlarms n s (alarmOne n v (u, false) j).1 (fun i => if i = j then true else if i = 16 + j then signal else s.bit (rSTALL_ALARM_CTL n) i)
      { s.tide with periods := smSet 0 s.tide.periods (4 * n + j) 0 } ∧ (alarmOne n v (u, false) j).2 = false := by
  have hs := hu.stallAlarms
  obtain ⟨h1, h2, h3, h4⟩ := hv
  have hidle' : u.bit (rSTALL_ALARM_CTL n) j = false := (hs.bits j (by omega)).trans hidle
  have hallowed : (decide (u.tideState = 0) || decide (u.rd64 (rSTALL_ALARM_T n j) ≤ u.tide.now + 1000)) = false := by
    rw [hs.tideState, hs.time, hs.tide]; simpa using ⟨hset, hfuture⟩
  have hone : alarmOne n v (u, false) j = (((u.setBit (rSTALL_ALARM_CTL n) (16 + j) signal).setBit (rSTALL_ALARM_CTL n) j true).setTide
      { (u.setBit (rSTALL_ALARM_CTL n) (16 + j) signal).tide with periods := smSet 0 (u.setBit (rSTALL_ALARM_CTL n) (16 + j) signal).tide.periods (4 * n + j) 0 }, false) := by
    unfold alarmOne
    simp only [h1, h2, h3, h4, hidle', hallowed, Bool.false_eq_true, if_false, Bool.and_false, if_true]
  have hsig := hs.setBit (k := 16 + j) (by omega) signal
  rw [hone, hsig.tide]
  exact ⟨(hsig.setBit (k := j) (by omega) true).setTide _, rfl⟩

/-- R299: an alarm that may not be armed, or that is armed with another SIGNAL. -/
theorem alarmOne_armRefused (hu : sameAlarms n s u) (hj : j < 4) (hv : v.testBit j = true ∧ v.testBit (4 + j) = false ∧ v.testBit (8 + j) = false ∧ v.testBit (16 + j) = signal)
    (h : (s.bit (rSTALL_ALARM_CTL n) j = false ∧ (s.tideState = 0 ∨ s.rd64 (rSTALL_ALARM_T n j) ≤ s.tide.now + 1000)) ∨
      (s.bit (rSTALL_ALARM_CTL n) j = true ∧ signal ≠ s.bit (rSTALL_ALARM_CTL n) (16 + j))) :
    State.StallAlarms n s (alarmOne n v (u, false) j).1 (s.bit (rSTALL_ALARM_CTL n)) s.tide ∧ (alarmOne n v (u, false) j).2 = true := by
  have hs := hu.stallAlarms
  obtain ⟨h1, h2, h3, h4⟩ := hv
  have hone : alarmOne n v (u, false) j = (u, true) := by
    unfold alarmOne
    rcases h with ⟨hidle, hlate⟩ | ⟨harmed, hsig⟩
    · have hbar : (decide (u.tideState = 0) || decide (u.rd64 (rSTALL_ALARM_T n j) ≤ u.tide.now + 1000)) = true := by
        rw [hs.tideState, hs.time, hs.tide]; simpa using hlate
      simp only [h1, h2, h3, (hs.bits j (by omega)).trans hidle, hbar, Bool.false_eq_true, if_false, Bool.and_false, Bool.and_true, if_true]
    · have hnew : (signal != u.bit (rSTALL_ALARM_CTL n) (16 + j)) = true := by
        rw [hs.bits _ (by omega)]; simpa using hsig
      simp only [h1, h2, h3, h4, (hs.bits j (by omega)).trans harmed, hnew, Bool.false_eq_true, if_false, Bool.and_false, if_true]
  rw [hone]
  exact ⟨hs, rfl⟩

theorem alarmOne_disarm (hu : sameAlarms n s u) (hj : j < 4)
    (hv : v.testBit j = false ∧ v.testBit (4 + j) = true ∧ v.testBit (8 + j) = false ∧ v.testBit (16 + j) = s.bit (rSTALL_ALARM_CTL n) (16 + j)) :
    State.StallAlarms n s (alarmOne n v (u, false) j).1 (fun i => if i = j then false else s.bit (rSTALL_ALARM_CTL n) i) s.tide ∧ (alarmOne n v (u, false) j).2 = false := by
  have hs := hu.stallAlarms
  obtain ⟨h1, h2, h3, h4⟩ := hv
  have hsame : (s.bit (rSTALL_ALARM_CTL n) (16 + j) != u.bit (rSTALL_ALARM_CTL n) (16 + j)) = false := by
    rw [hs.bits _ (by omega)]; simp
  cases harmed : s.bit (rSTALL_ALARM_CTL n) j with
  | true =>
    have hone : alarmOne n v (u, false) j = (u.setBit (rSTALL_ALARM_CTL n) j false, false) := by
      unfold alarmOne
      simp only [h1, h2, h3, h4, (hs.bits j (by omega)).trans harmed, hsame, Bool.false_eq_true, if_false, Bool.false_and, if_true]
    rw [hone]
    exact ⟨hs.setBit (by omega) false, rfl⟩
  | false =>
    have hone : alarmOne n v (u, false) j = (u.setBit (rSTALL_ALARM_CTL n) (16 + j) (s.bit (rSTALL_ALARM_CTL n) (16 + j)), false) := by
      unfold alarmOne
      simp only [h1, h2, h3, h4, (hs.bits j (by omega)).trans harmed, Bool.false_eq_true, if_false, Bool.false_and]
    rw [hone]
    refine ⟨(hs.setBit (by omega) _).congr fun i _ => ?_, rfl⟩
    by_cases hi : i = j
    · subst hi; rw [if_neg (by omega), if_pos rfl, harmed]
    · rw [if_neg hi]; split
      · next h => rw [h]
      · rfl

/-- R299: FIRED of alarm j cleared, and its signal dropped. -/
def Tide.dropSignal (td : Tide) (n j : Nat) : Tide :=
  { td with signals := smSet 0 td.signals n (smGet 0 td.signals n - (if (smGet 0 td.signals n).testBit j then 2 ^ j else 0)) }

theorem Tide.dropSignal_signals (td : Tide) (n j : Nat) : (smGet 0 (td.dropSignal n j).signals n).testBit j = false ∧
    (∀ i, i ≠ j → (smGet 0 (td.dropSignal n j).signals n).testBit i = (smGet 0 td.signals n).testBit i) ∧
    (∀ m, m ≠ n → smGet 0 (td.dropSignal n j).signals m = smGet 0 td.signals m) := by
  have hbits := testBit_sub_pow (smGet 0 td.signals n) j
  have hsame : smGet 0 (td.dropSignal n j).signals n = smGet 0 td.signals n - (if (smGet 0 td.signals n).testBit j then 2 ^ j else 0) := smGet_smSet_same ..
  rw [hsame]
  exact ⟨hbits.1, hbits.2, fun m hm => smGet_smSet_ne _ _ _ _ hm⟩

theorem alarmOne_fired (hu : sameAlarms n s u) (hj : j < 4)
    (hv : v.testBit j = false ∧ v.testBit (4 + j) = false ∧ v.testBit (8 + j) = true ∧ v.testBit (16 + j) = s.bit (rSTALL_ALARM_CTL n) (16 + j)) :
    State.StallAlarms n s (alarmOne n v (u, false) j).1 (fun i => if i = 8 + j then false else s.bit (rSTALL_ALARM_CTL n) i) (s.tide.dropSignal n j) ∧
      (alarmOne n v (u, false) j).2 = false := by
  have hs := hu.stallAlarms
  obtain ⟨h1, h2, h3, h4⟩ := hv
  obtain ⟨w, hw, hwset⟩ : ∃ w, w = (u.setBit (rSTALL_ALARM_CTL n) (8 + j) false).setTide (u.tide.dropSignal n j) ∧
      State.StallAlarms n s w (fun i => if i = 8 + j then false else s.bit (rSTALL_ALARM_CTL n) i) (s.tide.dropSignal n j) := by
    refine ⟨_, rfl, ?_⟩
    rw [hs.tide]
    exact (hs.setBit (by omega) false).setTide _
  have hsig : w.bit (rSTALL_ALARM_CTL n) (16 + j) = s.bit (rSTALL_ALARM_CTL n) (16 + j) := (hwset.bits _ (by omega)).trans (if_neg (by omega))
  have hsame : (s.bit (rSTALL_ALARM_CTL n) (16 + j) != w.bit (rSTALL_ALARM_CTL n) (16 + j)) = false := by rw [hsig]; simp
  have hone : alarmOne n v (u, false) j =
      if w.bit (rSTALL_ALARM_CTL n) j then (w, false) else (w.setBit (rSTALL_ALARM_CTL n) (16 + j) (s.bit (rSTALL_ALARM_CTL n) (16 + j)), false) := by
    unfold alarmOne
    dsimp only
    rw [h3, if_pos rfl, ← show w = (u.setBit (rSTALL_ALARM_CTL n) (8 + j) false).setTide { u.tide with signals := smSet 0 u.tide.signals n (smGet 0 u.tide.signals n - (if (smGet 0 u.tide.signals n).testBit j then 2 ^ j else 0)) } from hw]
    simp only [h1, h2, h4, hsame, Bool.false_eq_true, if_false, Bool.false_and]
  rw [hone]
  split
  · exact ⟨hwset, rfl⟩
  · refine ⟨(hwset.setBit (by omega) _).congr fun i _ => ?_, rfl⟩
    by_cases hi : i = 16 + j
    · rw [if_pos hi, if_neg (by omega), hi]
    · rw [if_neg hi]

end

/-! #### The words written -/

section
variable (s n j)

theorem State.signals_lt : s.fget (rSTALL_ALARM_CTL n) fSTALL_ALARM_CTL_SIGNAL < 16 := State.fget_lt s (rSTALL_ALARM_CTL n) (f := fSTALL_ALARM_CTL_SIGNAL) (by decide)

theorem armWord (hj : j < 4) (signal : Bool) {k : Nat} (hk : k < 4) : let v := Fld.set ⟨16 + j, 1⟩ (s.alarmSignals n) (b2n signal) + 2 ^ j
    v.testBit k = decide (k = j) ∧ v.testBit (4 + k) = false ∧ v.testBit (8 + k) = false ∧ v.testBit (16 + k) = if k = j then signal else s.bit (rSTALL_ALARM_CTL n) (16 + k) := by
  rw [← s.signal_testBit n k hk]
  exact armBits _ (s.signals_lt n) j hj signal k hk

theorem disarmWord (hj : j < 4) {k : Nat} (hk : k < 4) : let v := s.alarmSignals n + 2 ^ (4 + j)
    v.testBit k = false ∧ v.testBit (4 + k) = decide (k = j) ∧ v.testBit (8 + k) = false ∧ v.testBit (16 + k) = s.bit (rSTALL_ALARM_CTL n) (16 + k) := by
  rw [← s.signal_testBit n k hk]
  exact disarmBits _ (s.signals_lt n) j hj k hk

theorem firedWord (hj : j < 4) {k : Nat} (hk : k < 4) : let v := s.alarmSignals n + 2 ^ (8 + j)
    v.testBit k = false ∧ v.testBit (4 + k) = false ∧ v.testBit (8 + k) = decide (k = j) ∧ v.testBit (16 + k) = s.bit (rSTALL_ALARM_CTL n) (16 + k) := by
  rw [← s.signal_testBit n k hk]
  exact firedBits _ (s.signals_lt n) j hj k hk

end

/-! #### The writes -/

theorem State.armWrite {signal : Bool} (req : Req) (hj : j < 4) (hidle : s.bit (rSTALL_ALARM_CTL n) j = false) (hset : s.tideState ≠ 0)
    (hfuture : s.tide.now + 1000 < s.rd64 (rSTALL_ALARM_T n j)) :
    State.StallAlarms n s (s.stallAlarmWrite req n (Fld.set ⟨16 + j, 1⟩ (s.alarmSignals n) (b2n signal) + 2 ^ j))
      (fun i => if i = j then true else if i = 16 + j then signal else s.bit (rSTALL_ALARM_CTL n) i) { s.tide with periods := smSet 0 s.tide.periods (4 * n + j) 0 } := by
  have hword := fun k hk => armWord s n j hj signal (k := k) hk
  obtain ⟨w, hw, heq⟩ := State.stallAlarmWrite_one (s := s) (n := n) req hj (r := false) (fun k hk hne => by simpa [hne] using hword k hk)
    (fun u hu => alarmOne_arm (signal := signal) hu hj (by simpa using hword j hj) hidle hset hfuture)
    (fun k hk hne => by rw [if_neg (by omega), if_neg (by omega)])
  rw [heq]
  exact hw

theorem State.armWrite_refused {signal : Bool} (req : Req) (hj : j < 4)
    (h : (s.bit (rSTALL_ALARM_CTL n) j = false ∧ (s.tideState = 0 ∨ s.rd64 (rSTALL_ALARM_T n j) ≤ s.tide.now + 1000)) ∨
      (s.bit (rSTALL_ALARM_CTL n) j = true ∧ signal ≠ s.bit (rSTALL_ALARM_CTL n) (16 + j))) :
    ∃ w, State.StallAlarms n s w (s.bit (rSTALL_ALARM_CTL n)) s.tide ∧
      s.stallAlarmWrite req n (Fld.set ⟨16 + j, 1⟩ (s.alarmSignals n) (b2n signal) + 2 ^ j) = w.refuse req (rSTALL_ALARM_CTL n) causeRule := by
  have hword := fun k hk => armWord s n j hj signal (k := k) hk
  exact State.stallAlarmWrite_one (s := s) (n := n) req hj (r := true) (fun k hk hne => by simpa [hne] using hword k hk)
    (fun u hu => alarmOne_armRefused (signal := signal) hu hj (by simpa using hword j hj) h) (fun _ _ _ => rfl)

theorem State.disarmWrite (req : Req) (hj : j < 4) : State.StallAlarms n s (s.stallAlarmWrite req n (s.alarmSignals n + 2 ^ (4 + j)))
    (fun i => if i = j then false else s.bit (rSTALL_ALARM_CTL n) i) s.tide := by
  have hword := fun k hk => disarmWord s n j hj (k := k) hk
  obtain ⟨w, hw, heq⟩ := State.stallAlarmWrite_one (s := s) (n := n) req hj (r := false) (fun k hk hne => by simpa [hne] using hword k hk)
    (fun u hu => alarmOne_disarm hu hj (by simpa using hword j hj)) (fun k hk hne => if_neg (by omega))
  rw [heq]
  exact hw

theorem State.firedWrite (req : Req) (hj : j < 4) : State.StallAlarms n s (s.stallAlarmWrite req n (s.alarmSignals n + 2 ^ (8 + j)))
    (fun i => if i = 8 + j then false else s.bit (rSTALL_ALARM_CTL n) i) (s.tide.dropSignal n j) := by
  have hword := fun k hk => firedWord s n j hj (k := k) hk
  obtain ⟨w, hw, heq⟩ := State.stallAlarmWrite_one (s := s) (n := n) req hj (r := false) (fun k hk hne => by simpa [hne] using hword k hk)
    (fun u hu => alarmOne_fired hu hj (by simpa using hword j hj)) (fun k hk hne => if_neg (by omega))
  rw [heq]
  exact hw

/-- A write refused after leaving the alarms as they were is counted, and nothing else. -/
theorem State.StallAlarms.refused {req : Req} (h : State.StallAlarms n s t (s.bit (rSTALL_ALARM_CTL n)) s.tide) (hv : req.valid = true) (hn : n < 32) :
    let p := PageKind.tideStall.addr n
    let r := t.refuse req (rSTALL_ALARM_CTL n) causeRule
    (r.fget (rERR_COUNT p) fERR_COUNT_COUNT = satInc 16 (s.fget (rERR_COUNT p) fERR_COUNT_COUNT) ∧ r.bit (rIRQ_RAW p) 31 = true ∧ r.tide = s.tide ∧
      s.wordsBut r [rERR_COUNT p, rIRQ_RAW p, rERR_FIRST p]) ∧ Within [.regs, .agg, .tide] s r := by
  intro p r
  obtain ⟨hcount, hirq, -, -, hwords⟩ := t.refuse_effect req .tideStall (o := 0x040) causeRule hv (by decide) hn (by decide)
  refine ⟨⟨hcount.trans (congrArg _ (State.fget_wordsBut h.word _ (by simp) (by decide))), hirq, (State.refuse_tide ..).trans h.tide,
    State.wordsBut_trans (State.wordsBut_mono h.word (by simp)) hwords⟩, (State.refuse_within ..).via rfl h.within⟩

end

/-- Settles O40: the close of an epoch leaves Tide and the alarms' words, so that the alarm taken fires as it stood; a write of STALL_ALARM_CTL that asks something
of one alarm is that alarm's part of the write, the others being left with their own bits. -/
theorem alarmsFire : Obligations.AlarmsFire := by
  unfold Obligations.AlarmsFire
  intro s hc closed
  refine ⟨fun hnone => ?none, fun T o k hnext hk hact => ?device, fun T o n j hn hj hnext => ?stall, fun req n j signal hreq hn hj ht => ?_⟩
  case none => exact Answers.intro (exec_alarmFire s rfl hc) (State.alarmFire_none hnone)
  case device =>
    have hpage : 0x4000 ≤ PageKind.tideAlarm.addr 0 := by rw [addr_tideAlarm]; omega
    have hat : 0x4000 ≤ rALARM_T 0 k ∧ 0x4000 ≤ rALARM_STAT 0 k ∧ 0x4000 ≤ rALARM_ACT 0 k := by unfold rALARM_T rALARM_STAT rALARM_ACT; omega
    obtain ⟨hT, hS, hA⟩ := hat
    obtain ⟨hfired, hlate, hirq, hone, hper, hwords, hwithin⟩ := s.closeEpoch.fireDevice_event k hk (by rw [State.closeEpoch_rd32 hA]; exact hact)
    obtain ⟨htide, hclosed, hcw⟩ := s.closeEpoch_facts
    rw [State.closeEpoch_rd32 hA] at hone hper
    rw [State.closeEpoch_rd64 hT, State.closeEpoch_flag hS (by decide), htide] at hper
    refine Answers.intro (exec_alarmFire s rfl hc) ?_
    rw [State.alarmFire_device hnext hk]
    exact ⟨hfired, hlate, hirq, hone, hper, (hwithin.2 .tide rfl).trans htide,
      State.wordsBut_trans (State.wordsBut_mono hclosed (by simp [closed])) (State.wordsBut_mono hwords (by simp)), hwithin.via rfl (hcw.mono rfl)⟩
  case stall =>
    have hpage : 0x4000 ≤ PageKind.tideStall.addr n := by rw [addr_tideStall]; omega
    have hT : 0x4000 ≤ rSTALL_ALARM_T n j := by unfold rSTALL_ALARM_T; omega
    have hC : 0x4000 ≤ rSTALL_ALARM_CTL n := by unfold rSTALL_ALARM_CTL; omega
    obtain ⟨hfired, hlate, hirq, hone, hper, hbits, hsig, hwords, hwithin⟩ := s.closeEpoch.fireStall_facts n j hj
    obtain ⟨htide, hclosed, hcw⟩ := s.closeEpoch_facts
    rw [htide, State.closeEpoch_rd64 hT] at hone hper
    rw [State.closeEpoch_bit hC (by omega)] at hper
    rw [htide, State.closeEpoch_bit hC (by omega)] at hsig
    refine Answers.intro (exec_alarmFire s rfl hc) ?_
    rw [State.alarmFire_stall hnext hj]
    exact ⟨hfired, hlate, hirq, hone, hper, fun i hi h1 h2 h3 => (hbits i hi h1 h2 h3).trans (State.closeEpoch_bit hC hi), hsig,
      State.wordsBut_trans (State.wordsBut_mono hclosed (by simp [closed])) (State.wordsBut_mono hwords (by simp)), hwithin.via rfl (hcw.mono rfl)⟩
  intro c p other counted
  have hput : ∀ v, s.putReg req c v = (s.clearView req p).stallAlarmWrite req n v := fun v => s.putReg_stallAlarm req n v hreq hn ht
  have hview := s.clearView_within req p
  have hrefused : ∀ v, (∃ w, State.StallAlarms n (s.clearView req p) w ((s.clearView req p).bit c) (s.clearView req p).tide ∧ (s.clearView req p).stallAlarmWrite req n v = w.refuse req c causeRule) →
      counted (s.putReg req c v) ∧ Within [.regs, .views, .agg, .tide] s (s.putReg req c v) := by
    rintro v ⟨w, hw, heq⟩
    obtain ⟨hcounted, hwithin⟩ := hw.refused (req := req) hreq hn
    rw [hput v, heq]
    exact ⟨hcounted, hwithin.via rfl (hview.mono rfl)⟩
  have harm : exec (.arm req n j signal) s = .next (s.putReg req c (Fld.set ⟨16 + j, 1⟩ (s.alarmSignals n) (b2n signal) + 2 ^ j)) :=
    exec_arm req n j signal s (by simp [Instr.wf, hreq, hn, hj]) hc
  refine ⟨fun hidle hset hfuture => ?arm, fun hidle hlate => ?late, fun harmed hsig => ?signal, ?disarm, ?fired⟩
  case arm =>
    have hwrite := State.armWrite (s := s.clearView req p) (n := n) (signal := signal) req hj hidle hset hfuture
    refine Answers.intro harm ?_
    rw [hput]
    refine ⟨(hwrite.bits j (by omega)).trans (if_pos rfl), ((hwrite.bits (16 + j) (by omega)).trans (if_neg (by omega))).trans (if_pos rfl), fun i hi hl => ?_, hwrite.tide,
      hwrite.words, hwrite.within.via rfl (hview.mono rfl)⟩
    simp only [List.contains_cons, List.contains_nil, Bool.or_false, Bool.or_eq_false_iff, beq_eq_false_iff_ne] at hl
    exact ((hwrite.bits i hi).trans (if_neg hl.1)).trans (if_neg hl.2)
  case late => exact Answers.intro harm (hrefused _ (State.armWrite_refused (s := s.clearView req p) req hj (.inl ⟨hidle, hlate⟩)))
  case signal => exact Answers.intro harm (hrefused _ (State.armWrite_refused (s := s.clearView req p) req hj (.inr ⟨harmed, hsig⟩)))
  case disarm =>
    have hwrite := State.disarmWrite (s := s.clearView req p) (n := n) req hj
    refine Answers.intro (exec_disarm req n j s (by simp [Instr.wf, hreq, hn, hj]) hc) ?_
    rw [hput]
    refine ⟨(hwrite.bits j (by omega)).trans (if_pos rfl), fun i hi hl => (hwrite.bits i hi).trans (if_neg (by simpa using hl)), hwrite.tide, hwrite.words,
      hwrite.within.via rfl (hview.mono rfl)⟩
  case fired =>
    have hwrite := State.firedWrite (s := s.clearView req p) (n := n) req hj
    obtain ⟨hdropped, hkept, hothers⟩ := s.tide.dropSignal_signals n j
    refine Answers.intro (exec_firedClear req n j s (by simp [Instr.wf, hreq, hn, hj]) hc) ?_
    rw [hput]
    have htide : ((s.clearView req p).stallAlarmWrite req n (s.alarmSignals n + 2 ^ (8 + j))).tide = s.tide.dropSignal n j := hwrite.tide
    refine ⟨(hwrite.bits _ (by omega)).trans (if_pos rfl), fun i hi hl => (hwrite.bits i hi).trans (if_neg (by simpa using hl)), ?_, ?_, ?_, ⟨_, htide⟩, hwrite.words,
      hwrite.within.via rfl (hview.mono rfl)⟩
    · exact htide ▸ hdropped
    · exact htide ▸ hkept
    · exact htide ▸ hothers

end Sys2Proof.Machine
end

section
/-! SUPPORT. The tree of devices (R301–R303): which message is taken, who answers it, and what leaving undoes. -/

namespace Sys2Proof.Machine

/-- R301: of the HELLOs seen, the one with the least level, the least slot among equals. -/
def bestHello (l : List (Nat × Nat × Nat × Nat)) : Option (Nat × Nat × Nat × Nat) :=
  l.foldl (fun b x => match b with
    | none => some x
    | some y => if x.2.2.1 < y.2.2.1 ∨ (x.2.2.1 = y.2.2.1 ∧ x.1 < y.1) then some x else b) none

theorem bestHello_slot {l : List (Nat × Nat × Nat × Nat)} {x : Nat × Nat × Nat × Nat} (hx : x ∈ l)
    (hmin : ∀ y ∈ l, x.2.2.1 < y.2.2.1 ∨ (x.2.2.1 = y.2.2.1 ∧ x.1 ≤ y.1)) : ∃ y, bestHello l = some y ∧ y.1 = x.1 := by
  cases l with
  | nil => exact absurd hx (by simp)
  | cons a l =>
    obtain ⟨y, hy, hmem, hbest⟩ := helloBest l a
    have hyl : y ∈ a :: l := List.mem_cons.mpr hmem
    have hxy := hmin y hyl
    have hyx := hbest x (List.mem_cons.mp hx)
    exact ⟨y, hy, by omega⟩

section
variable {s : State}

theorem State.hello_joining {l : List (Nat × Nat × Nat × Nat)} {y : Nat × Nat × Nat × Nat} (hrole : s.treeRole = 4) (hjoin : s.tree.joining = none)
    (hy : bestHello (l.filter (fun x => s.slotUp x.1)) = some y) :
    s.hello l = (s.setTree { s.tree with joining := some y.1 }).sendMgmt y.1 (.join (s.rd64 (rTOL_SERIAL 0)) []) := by
  unfold State.hello
  dsimp only
  rw [if_pos ⟨hrole, by rw [hjoin]; rfl⟩]
  split
  · next z hz => rw [Option.some.inj (hz.symm.trans hy)]
  · next hz => exact absurd (hz.symm.trans hy) (by simp)

theorem State.hello_root {k node level p : Nat} (hrole : s.treeRole ≠ 4) (hparent : s.fromParent k = true) :
    s.hello [(k, node, level, p)] = (s.setTide { s.tide with parentRoot := some p }).updateRoot := by
  have hup : s.slotUp k = true := by
    unfold State.fromParent at hparent
    exact (Bool.and_eq_true _ _ ▸ hparent).2
  unfold State.hello
  simp only [List.filter_cons, List.filter_nil, hup, if_true, List.find?_cons, hparent]
  rw [if_neg (fun h => hrole h.1)]

theorem State.hello_none {l : List (Nat × Nat × Nat × Nat)} (h : ∀ x ∈ l, s.slotUp x.1 = false) : s.hello l = s := by
  have hnone : l.filter (fun x => s.slotUp x.1) = [] := List.filter_eq_nil_iff.mpr fun x hx => by simp [h x hx]
  unfold State.hello
  rw [hnone]
  simp

/-- Joined, a device is neither the manager nor unjoined. -/
theorem State.joined_role (h : s.joined = true) : s.treeRole ≠ 1 := by
  unfold State.joined at h
  intro h1
  rw [h1] at h
  exact absurd h (by decide)

theorem State.ackDown_refused (k : Nat) (path : List Nat) : s.ackDown k path none = { s with out := s.out ++ [.mgmt k (.joinAck path none)] } := by
  unfold State.ackDown
  rw [Option.isSome_none, Bool.and_false, if_neg Bool.false_ne_true]
  rfl

section
variable {k serial : Nat} {path : List Nat}

theorem State.join_refused (h : s.slotUp k = false ∨ 2 < path.length) : s.join k serial path = s := by
  unfold State.join
  refine if_pos (h.imp (fun hk => ?_) (fun hl => by omega))
  rw [hk]; rfl

theorem State.join_taken (hup : s.slotUp k = true) (hlen : path.length ≤ 2) : ¬ (!s.slotUp k ∨ 3 < path.length + 1) := by
  rintro (h | h)
  · rw [hup] at h; exact absurd h (by decide)
  · omega

theorem State.join_relay (hup : s.slotUp k = true) (hlen : path.length ≤ 2) (hj : s.joined = true) :
    s.join k serial path = s.sendMgmt s.parentSlot (.join serial (k :: path)) := by
  unfold State.join
  rw [if_neg (State.join_taken hup hlen), if_neg (State.joined_role hj), if_pos hj]

/-- The workers that JOIN keeps: all but the one of the same SERIAL. -/
def State.otherWorkers (s : State) (serial : Nat) : SMap Nat := smClear (fun n => decide (smGet (2 ^ 64) s.tree.workers n = serial)) s.tree.workers

/-- R302: the manager counts a new worker. -/
def State.takeWorker (s : State) (serial node : Nat) : State :=
  let w := smPut node serial (s.otherWorkers serial)
  (s.setTree { s.tree with workers := w }).fset (rTREE_WORKERS 0) fTREE_WORKERS_COUNT w.length

theorem State.join_full (hup : s.slotUp k = true) (hlen : path.length ≤ 2) (hrole : s.treeRole = 1) (hfull : 2047 ≤ (s.otherWorkers serial).length) :
    s.join k serial path = s.ackDown k path none := by
  unfold State.join
  rw [if_neg (State.join_taken hup hlen), if_pos hrole]
  exact if_pos hfull

theorem State.join_manager (hup : s.slotUp k = true) (hlen : path.length ≤ 2) (hrole : s.treeRole = 1) (hroom : (s.otherWorkers serial).length < 2047) :
    s.join k serial path = (s.takeWorker serial (nodeOf (k :: path))).ackDown k path (some (nodeOf (k :: path))) := by
  unfold State.join
  rw [if_neg (State.join_taken hup hlen), if_pos hrole]
  exact if_neg (Nat.not_le.mpr hroom)

theorem State.takeWorker_facts (node : Nat) (hroom : (s.otherWorkers serial).length < 2047) : let t := s.takeWorker serial node
    t.fget (rTREE_WORKERS 0) fTREE_WORKERS_COUNT = (smPut node serial (s.otherWorkers serial)).length ∧ t.treeRole = s.treeRole ∧
      t.tree = { s.tree with workers := smPut node serial (s.otherWorkers serial) } ∧ t.out = s.out ∧
      s.wordsBut t [rTREE_WORKERS 0] ∧ Within [.regs, .agg, .tree] s t := by
  intro t
  have hlen := smPut_length node serial (s.otherWorkers serial)
  have hset : s.wordsBut (s.setTree { s.tree with workers := smPut node serial (s.otherWorkers serial) }) [rTREE_WORKERS 0] := State.wordsBut_of_regs _ rfl
  have hwords : s.wordsBut t [rTREE_WORKERS 0] := hset.fset (by decide) (List.mem_singleton.mpr rfl)
  have hwithin := State.fset_within (s.setTree { s.tree with workers := smPut node serial (s.otherWorkers serial) }) (rTREE_WORKERS 0) fTREE_WORKERS_COUNT
    (smPut node serial (s.otherWorkers serial)).length
  refine ⟨(State.fget_fset _ _ _ _ (by decide)).trans (Nat.mod_eq_of_lt ?_), State.fget_wordsBut hwords _ (by decide) (by decide), hwithin.2 .tree rfl, hwithin.2 .out rfl, hwords,
    hwithin.via rfl ((State.setTree_within ..).mono rfl)⟩
  have hwidth : 2 ^ fTREE_WORKERS_COUNT.width = 2048 := rfl
  rw [hwidth]
  omega

end

section
variable {k : Nat}

theorem State.joinAck_idle {node : Option Nat} (h : s.treeRole ≠ 4 ∨ s.tree.joining ≠ some k) : s.joinAck k [] node = s := by
  unfold State.joinAck
  exact if_neg (fun hh => h.elim (fun h1 => h1 hh.1) (fun h2 => h2 hh.2))

theorem State.joinAck_down {c : Nat} {rest : List Nat} {node : Option Nat} :
    s.joinAck k (c :: rest) node = if s.fromParent k then s.ackDown c rest node else s := rfl

/-- R302: the JOIN_ACK that a joining device waits for. -/
theorem State.joinAck_taken {n : Nat} (hrole : s.treeRole = 4) (hjoin : s.tree.joining = some k) : s.joinAck k [] (some n) =
    ((s.setTree { s.tree with joining := none }).wr32 (rTREE_STAT 0) (3 * 2 ^ 29 + nodeLevel n * 2 ^ 27 + k * 2 ^ 23 + n)).irq (PageKind.treeCtl.addr 0) 0 := by
  unfold State.joinAck
  exact if_pos ⟨hrole, hjoin⟩

theorem State.joinAck_denied (hrole : s.treeRole = 4) (hjoin : s.tree.joining = some k) :
    s.joinAck k [] none = (s.setTree { s.tree with joining := none }).fset (rTREE_STAT 0) fTREE_STAT_ROLE 5 := by
  unfold State.joinAck
  exact if_pos ⟨hrole, hjoin⟩

theorem State.joinAck_joined {n : Nat} (hk : k < 16) (hn : n < 2 ^ 16) (hrole : s.treeRole = 4) (hjoin : s.tree.joining = some k) : let t := s.joinAck k [] (some n)
    t.treeRole = 3 ∧ t.level = n / 2 ^ 14 ∧ t.parentSlot = k ∧ t.nodeId = n ∧ t.bit (rIRQ_RAW (PageKind.treeCtl.addr 0)) 0 = true ∧
      t.tree = { s.tree with joining := none } ∧ s.wordsBut t [rTREE_STAT 0, rIRQ_RAW (PageKind.treeCtl.addr 0)] ∧ Within [.regs, .agg, .tree] s t := by
  have hlevel : nodeLevel n = n / 2 ^ 14 := Nat.mod_eq_of_lt (by omega)
  obtain ⟨u, hu⟩ : ∃ u, u = s.setTree { s.tree with joining := none } := ⟨_, rfl⟩
  have huw : Within [.tree] s u := hu ▸ State.setTree_within ..
  have hur : u.regs = s.regs := by rw [hu]; rfl
  have hut : u.tree = { s.tree with joining := none } := by rw [hu]; rfl
  rw [State.joinAck_taken hrole hjoin, ← hu, hlevel]
  obtain ⟨v, hv⟩ : ∃ v, v = 3 * 2 ^ 29 + n / 2 ^ 14 * 2 ^ 27 + k * 2 ^ 23 + n := ⟨_, rfl⟩
  have hv32 : v < 2 ^ 32 := by omega
  rw [← hv]
  intro t
  have hstat : ∀ f : Fld, f.lo + f.width ≤ 32 → t.fget (rTREE_STAT 0) f = f.get v := by
    intro f hf
    rw [State.fget_wordsBut (State.wordsBut_irq (l := [PageKind.treeCtl.addr 0 + 0x010]) _ (by decide) (by simp)) _ (by decide) hf, State.fget_word _ _ hf, State.rd32_wr32,
      Nat.mod_eq_of_lt hv32]
  have hfour : n / 2 ^ 14 < 4 := by omega
  refine ⟨(hstat _ (by decide)).trans ?_, (hstat _ (by decide)).trans ?_, (hstat _ (by decide)).trans ?_, (hstat _ (by decide)).trans ?_, ?_, ?_, ?_, ?_⟩
  · rw [hv]; exact treeStat_role _ _ _ hfour hk hn
  · rw [hv]; exact treeStat_level _ _ _ hfour hk hn
  · rw [hv]; exact treeStat_parent _ _ _ hk hn
  · rw [hv]; exact treeStat_node _ _ _ hn
  · show State.bit _ (PageKind.treeCtl.addr 0 + 0x010) 0 = true
    rw [State.bit_irq _ _ _ _ _ (by decide) (by decide), if_pos ⟨rfl, rfl⟩]
  · exact ((State.irq_within ..).2 .tree rfl).trans (((State.wr32_within ..).2 .tree rfl).trans hut)
  · exact (((State.wordsBut_refl _ _).regs hur).wr32 (by simp)).irq (by decide) (by simp [rIRQ_RAW])
  · exact (State.irq_within ..).via rfl ((State.wr32_within ..).via rfl (huw.mono rfl))

theorem State.joinAck_refused (hrole : s.treeRole = 4) (hjoin : s.tree.joining = some k) : let t := s.joinAck k [] none
    t.treeRole = 5 ∧ t.tree = { s.tree with joining := none } ∧ s.wordsBut t [rTREE_STAT 0] ∧ Within [.regs, .agg, .tree] s t := by
  obtain ⟨u, hu⟩ : ∃ u, u = s.setTree { s.tree with joining := none } := ⟨_, rfl⟩
  have huw : Within [.tree] s u := hu ▸ State.setTree_within ..
  have hur : u.regs = s.regs := by rw [hu]; rfl
  have hut : u.tree = { s.tree with joining := none } := by rw [hu]; rfl
  rw [State.joinAck_denied hrole hjoin, ← hu]
  intro t
  exact ⟨State.fget_fset _ _ _ _ (by decide), ((State.fset_within ..).2 .tree rfl).trans hut, ((State.wordsBut_refl _ _).regs hur).fset (by decide) (by simp),
    (State.fset_within ..).via rfl (huw.mono rfl)⟩

end

end

/-- Settles O41: each message is taken by one branch of the device that receives it; JOIN_ACK's facts say what a slot shows, and leaving is undone step by step. -/
theorem treeForms : Obligations.TreeForms := by
  unfold Obligations.TreeForms
  intro s hc up children greets root linked
  refine ⟨fun hgreets => ?greet, fun hsilent => ?silent, fun l x hrole hjoin hx hup hmin => ?hello, fun k node level p hrole hparent hp => ?root, fun l hl => ?unheard,
    fun k serial path hk hserial hpath hlen hup hrole => ?manager, fun k serial path hk hserial hpath hlen hup hj => ?relay, fun k serial path hk hserial hpath hbad => ?refused,
    fun k node hk hrole hjoin => ⟨fun n hnode hn => ?joined, fun hnode => ?denied⟩, fun k node hk hidle => ?idle, fun k c rest node hk hcslot hrest => ?down,
    fun hrole => ?unjoin, fun hrole hj => ?stay, fun hj => ?leave⟩
  case greet =>
    refine Answers.intro (exec_helloSend s rfl hc) ?_
    unfold State.helloSend
    exact (if_pos hgreets).trans (State.sends (fun k => s.slotUp k && !(s.joined && decide (up = k))) (fun _ => .hello s.nodeId s.level root) _ s)
  case silent =>
    refine Answers.intro (exec_helloSend s rfl hc) ?_
    unfold State.helloSend
    exact if_neg hsilent
  case hello =>
    obtain ⟨y, hy, hslot⟩ := bestHello_slot (l := l.filter (fun x => s.slotUp x.1)) (x := x) (List.mem_filter.mpr ⟨hx, hup⟩)
      (fun y hy => hmin y (List.mem_filter.mp hy).1 (List.mem_filter.mp hy).2)
    refine Answers.intro (exec_hello l s rfl hc) ?_
    rw [State.hello_joining hrole hjoin hy, hslot]
    rfl
  case root =>
    obtain ⟨hstate, htide, -, hwords, hwithin⟩ := (s.setTide { s.tide with parentRoot := some p }).updateRoot_facts
    have hroot := (s.setTide { s.tide with parentRoot := some p }).updateRoot_root (fun q hq => by
      have : some p = some q := hq
      exact Option.some.inj this ▸ hp)
    refine Answers.intro (exec_hello _ s rfl hc) ?_
    rw [State.hello_root hrole hparent]
    exact ⟨htide, hroot, hstate, hwords, hwithin.via rfl ((State.setTide_within ..).mono rfl)⟩
  case unheard => exact Answers.intro (exec_hello l s rfl hc) (State.hello_none hl)
  case manager =>
    intro others node
    have hexec := exec_join k serial path s (by simpa [Instr.wf, hk] using ⟨hserial, hpath⟩) hc
    refine ⟨fun hfull => ?_, fun hroom => ?_⟩
    · exact Answers.intro hexec ((State.join_full hup hlen hrole hfull).trans (State.ackDown_refused k path))
    · obtain ⟨hcount, hkept, htree, hout, hwords, hwithin⟩ := s.takeWorker_facts node hroom
      have hrole' : (s.takeWorker serial node).treeRole = 1 := hkept.trans hrole
      obtain ⟨hsent, hlink, hackwords, hackwithin, -⟩ := (s.takeWorker serial node).ackDown_facts k path (some node) hk
      have hsame : ∀ i, i < 32 → (s.takeWorker serial node).bit (rTREE_LINKS 0) i = s.bit (rTREE_LINKS 0) i := fun i hi => State.bit_wordsBut hwords _ _ (by decide) hi
      rw [hrole'] at hackwords hlink
      rw [if_neg (by decide), List.append_nil] at hackwords
      refine Answers.intro hexec ?_
      rw [State.join_manager hup hlen hrole hroom]
      refine ⟨(hackwithin.2 .tree rfl).trans htree, (State.fget_wordsBut hackwords _ (by decide) (by decide)).trans hcount, hsent.trans (congrArg (· ++ _) hout), ?_,
        State.wordsBut_trans (State.wordsBut_mono hwords (by simp)) (State.wordsBut_mono hackwords (by simp)), hackwithin.via rfl (hwithin.mono rfl)⟩
      show (if path = [] ∧ (some node).isSome = true then _ else _)
      rw [hrole]
      split at hlink
      · next h =>
        obtain ⟨hset, hirq, hnewrole, hrest⟩ := hlink
        rw [if_pos h]
        exact ⟨hset, hirq, hnewrole, fun i hi hne => (hrest i hi hne).trans (hsame i hi)⟩
      · next h =>
        obtain ⟨hword, hnewrole⟩ := hlink
        rw [if_neg h]
        exact ⟨hword.trans (hwords _ (by decide)), hnewrole⟩
  case relay =>
    exact Answers.intro (exec_join k serial path s (by simpa [Instr.wf, hk] using ⟨hserial, hpath⟩) hc) (State.join_relay hup hlen hj)
  case refused =>
    exact Answers.intro (exec_join k serial path s (by simpa [Instr.wf, hk] using ⟨hserial, hpath⟩) hc) (State.join_refused hbad)
  case joined =>
    subst hnode
    exact Answers.intro (exec_joinAck k [] _ s (by simp [Instr.wf, hk]) hc) (State.joinAck_joined hk hn hrole hjoin)
  case denied =>
    subst hnode
    exact Answers.intro (exec_joinAck k [] _ s (by simp [Instr.wf, hk]) hc) (State.joinAck_refused hrole hjoin)
  case idle => exact Answers.intro (exec_joinAck k [] node s (by simp [Instr.wf, hk]) hc) (State.joinAck_idle hidle)
  case down =>
    have hexec := exec_joinAck k (c :: rest) node s (by simpa [Instr.wf, hk, hcslot] using hrest) hc
    refine ⟨fun hparent => Answers.intro hexec ?_, fun hparent => Answers.intro hexec (State.joinAck_down.trans (if_neg (by simp [hparent])))⟩
    obtain ⟨hsent, hlink, hwords, hwithin, -⟩ := s.ackDown_facts c rest node hcslot
    rw [State.joinAck_down, if_pos hparent]
    refine ⟨hsent, hlink, hwithin.2 .tree rfl, State.wordsBut_mono hwords fun a ha => ?_, hwithin⟩
    split at ha <;> simp only [List.mem_append, List.mem_cons, List.not_mem_nil, or_false] at ha ⊢
    · exact ha.elim (Or.imp_right .inr) fun hstat => .inr (.inl hstat)
    · exact ha.imp_right .inr
  case unjoin =>
    refine Answers.intro (exec_treeLeave s rfl hc) ?_
    unfold State.treeLeave
    exact if_pos hrole
  case stay =>
    refine Answers.intro (exec_treeLeave s rfl hc) ?_
    unfold State.treeLeave
    rw [if_neg hrole]
    exact if_pos (by rw [hj]; rfl)
  case leave => exact Answers.intro (exec_treeLeave s rfl hc) (s.treeLeave_facts hj)

end Sys2Proof.Machine
end

section
/-! SUPPORT. The exchange and FANOUT (R305, R308–R310): what a device sends on, what it takes, and what the manager records. -/

namespace Sys2Proof.Machine

/-! ### CMD -/

section
variable (s : State) (fan : Nat) (words : List Nat) (ret : Option (Nat × Nat))

/-- R308: the slots that a CMD goes on to. -/
def State.cmdSlots (node scope : Nat) : List Nat :=
  let me := s.nodeId
  (List.range 16).filter (fun c => s.fromChild c && (decide (scope = 1 ∧ inSubtree node me = true) ||
    (inSubtree me node && decide (nodeLevel me < nodeLevel node) && decide (nodeSlot node (nodeLevel me + 1) = c))))

/-- R308: a CMD gone on to the children. -/
def State.cmdSent (node scope : Nat) : State :=
  { s with out := s.out ++ (s.cmdSlots node scope).map (fun c => .mgmt c (.cmd fan node scope words ret)) }

variable {s fan words ret}
variable {k node scope : Nat}

theorem State.cmd_stranger (h : s.fromParent k = false) : s.cmd k fan node scope words ret = s := by
  unfold State.cmd
  exact if_pos (by rw [h]; rfl)

theorem State.cmd_eq (h : s.fromParent k = true) : s.cmd k fan node scope words ret =
    if node = s.nodeId ∨ (scope = 1 ∧ inSubtree node s.nodeId = true) then (s.cmdSent fan words ret node scope).fanTake fan words ret else s.cmdSent fan words ret node scope := by
  have hsent : (List.range 16).foldl (fun t c => if s.fromChild c && (decide (scope = 1) && inSubtree node s.nodeId ||
      (inSubtree s.nodeId node && decide (nodeLevel s.nodeId < nodeLevel node) && decide (nodeSlot node (nodeLevel s.nodeId + 1) = c)))
        then t.sendMgmt c (.cmd fan node scope words ret) else t) s = s.cmdSent fan words ret node scope := by
    refine (State.sends _ (fun _ => Mgmt.cmd fan node scope words ret) _ s).trans ?_
    unfold State.cmdSent State.cmdSlots
    simp only [Bool.decide_and, Bool.decide_eq_true]
  unfold State.cmd
  rw [if_neg (by rw [h]; decide)]
  dsimp only
  rw [hsent]
  simp only [Bool.and_eq_true, decide_eq_true_eq]

/-- R309: a target whose staged data did not fit answers COPY_FAILED. -/
theorem State.fanTake_badStage (h : s.tree.badStage = some (fan / 4096)) : s.fanTake fan words ret =
    let c := mkCpl (listGet 0 words 0 / 65536) (listGet 0 words 0) ccCOPY true 0 0
    { s with out := s.out ++ if s.dead then [] else [.mgmt s.parentSlot (.cpl fan s.nodeId (s.rd64 (rTOL_SERIAL 0)) c.w0 c.w1 c.data)] } := by
  unfold State.fanTake
  rw [if_pos h]
  split
  · simp only [List.append_nil]
  · rfl

/-- The words of a CMD written to MBOX_MGR, word by word. -/
def State.fillMgr (s : State) (words : List Nat) : State := (List.range 64).foldl (fun t k => t.mbCmdWrite .mgr 4 k (listGet 0 words k)) s

theorem State.fillMgr_within (s : State) (words : List Nat) : Within [.regs, .agg] s (s.fillMgr words) :=
  Within.foldl (fun _ _ => State.mbCmdWrite_within ..) (Within.refl ..)

theorem State.fanTake_busy (h : s.tree.badStage ≠ some (fan / 4096)) (hbusy : (s.flag (rMB_STAT 4) fMB_STAT_ACCEPTING && !s.flag (rMB_STAT 4) fMB_STAT_BUSY) = false) :
    s.fanTake fan words ret = (s.fillMgr words).ring .mgr 4 := by
  unfold State.fanTake
  rw [if_neg h]
  exact if_neg (by rw [hbusy]; exact Bool.false_ne_true)

theorem State.fanTake_free (h : s.tree.badStage ≠ some (fan / 4096)) (hfree : (s.flag (rMB_STAT 4) fMB_STAT_ACCEPTING && !s.flag (rMB_STAT 4) fMB_STAT_BUSY) = true) :
    s.fanTake fan words ret = ((s.fillMgr words).ring .mgr 4).setTree { ((s.fillMgr words).ring .mgr 4).tree with mgrCmd := some (fan, ret) } := by
  unfold State.fanTake
  rw [if_neg h]
  exact if_pos hfree

theorem rMB_CMD_mgr (k : Nat) : rMB_CMD 4 k = 0xc100 + 4 * k := by unfold rMB_CMD; rw [addr_mbox]

theorem rMB_STAT_mgr : rMB_STAT 4 = 0xc044 := rfl

/-- R308: MBOX_MGR written and rung. -/
theorem State.ringMgr_facts (s : State) (words : List Nat) (haccepts : s.flag (rMB_STAT 4) fMB_STAT_ACCEPTING = true) (hidle : s.flag (rMB_STAT 4) fMB_STAT_BUSY = false) :
    let t := (s.fillMgr words).ring .mgr 4
    (∀ i, i < 64 → t.rd32 (rMB_CMD 4 i) = listGet 0 words i % 2 ^ 32) ∧ t.flag (rMB_STAT 4) fMB_STAT_BUSY = true ∧ (∀ a, a / 4096 ≠ 12 → t.word a = s.word a) ∧ Within [.regs, .agg] s t := by
  intro t
  obtain ⟨hcmd, hothers, hfill⟩ := State.cmdFill words (List.range 64) (fun k hk => List.mem_range.mp hk) s hidle
  have hstat : (s.fillMgr words).word (rMB_STAT 4) = s.word (rMB_STAT 4) := hothers _ (fun k _ => by rw [rMB_CMD_mgr, rMB_STAT_mgr]; omega)
  have hring : t = (s.fillMgr words).fset (rMB_STAT 4) fMB_STAT_BUSY 1 := by
    show State.ring .. = _
    unfold State.ring
    rw [State.flag_of_word hstat (by decide), State.flag_of_word hstat (by decide), haccepts, hidle]
    exact if_pos rfl
  have hwords : (s.fillMgr words).wordsBut t [rMB_STAT 4] := hring ▸ State.wordsBut_fset _ _ (by decide) (List.mem_singleton.mpr rfl)
  refine ⟨fun i hi => ?_, ?_, fun a ha => ?_, (State.ring_within ..).via rfl hfill⟩
  · refine (congrArg BitVec.toNat (hwords _ ?_)).trans (hcmd i (List.mem_range.mpr hi))
    rw [rMB_CMD_mgr, rMB_STAT_mgr]
    simp
    omega
  · rw [hring]
    unfold State.flag
    rw [State.fget_fset _ _ _ _ (by decide)]
    rfl
  · refine (hwords a ?_).trans (hothers a fun k hk => ?_)
    · rw [rMB_STAT_mgr]; simp; omega
    · have := List.mem_range.mp hk
      rw [rMB_CMD_mgr]; omega

end

/-! ### STAGE -/

section
variable (s : State) (fan buffer off : Nat) (data targets : List Nat)

/-- The targets below child slot c. -/
def State.targetsBelow (c : Nat) : List Nat :=
  targets.filter (fun n => inSubtree s.nodeId n && decide (nodeLevel s.nodeId < nodeLevel n) && decide (nodeSlot n (nodeLevel s.nodeId + 1) = c))

/-- R309: staged data gone on to the children. -/
def State.stageSent : State :=
  { s with out := s.out ++ ((List.range 16).filter (fun c => s.fromChild c && !(s.targetsBelow targets c).isEmpty)).map (fun c => .mgmt c (.stage fan buffer off data (s.targetsBelow targets c))) }

/-- What a buffer holds once the data is written at its offset. -/
def State.stagedNew : List Nat := bytesAt (if off = 0 then [] else smGet [] s.tol.staged buffer) 0 off ++ data

variable {s fan buffer off data targets}
variable {k : Nat}

theorem State.stageMsg_stranger (h : s.fromParent k = false) : s.stageMsg k fan buffer off data targets = s := by
  unfold State.stageMsg
  exact if_pos (by rw [h]; rfl)

theorem State.stageMsg_eq (h : s.fromParent k = true) : s.stageMsg k fan buffer off data targets =
    let t := s.stageSent fan buffer off data targets
    if !targets.contains s.nodeId then t
    else if buffer < 16 ∧ (s.stagedNew buffer off data).length ≤ 2 ^ 28 ∧ s.stagedTotal buffer (s.stagedNew buffer off data).length ≤ 2 ^ 30 then
      t.setTol { t.tol with staged := smSet [] t.tol.staged buffer (s.stagedNew buffer off data) }
    else t.setTree { t.tree with badStage := some (fan / 4096) } := by
  have hsent := State.sends (fun c => s.fromChild c && !(s.targetsBelow targets c).isEmpty) (fun c => .stage fan buffer off data (s.targetsBelow targets c)) (List.range 16) s
  unfold State.stageMsg
  rw [if_neg (by rw [h]; decide)]
  dsimp only
  unfold State.targetsBelow at hsent
  rw [hsent]
  rfl

end

/-! ### CPL and RETURN -/

section
variable (s : State)

/-- The targets of a FANOUT as the manager changes them. -/
def State.mapTargets (id : Nat) (g : FanTarget → FanTarget) : State :=
  s.setTree { s.tree with fans := s.tree.fans.map (fun f => if f.id = id then { f with targets := f.targets.map g } else f) }

theorem State.mapTargets_facts (id : Nat) (g : FanTarget → FanTarget) : let t := s.mapTargets id g
    t.tree.fans.length = s.tree.fans.length ∧ (∀ (i : Nat) f, s.tree.fans[i]? = some f → ∃ x, t.tree.fans[i]? = some x ∧ (f.id ≠ id → x = f) ∧
      (f.id = id → x = { f with targets := x.targets } ∧ x.targets.length = f.targets.length ∧ ∀ (j : Nat) y, f.targets[j]? = some y → x.targets[j]? = some (g y))) ∧
      Within [.tree] s t :=
  ⟨List.length_map .., fun i f hf => fans_map g id s.tree.fans i f hf, State.setTree_within ..⟩

/-- R310: the first completion of a target that the manager sees. -/
def FanTarget.answered (node entry serial w0 w1 data : Nat) (x : FanTarget) : FanTarget :=
  if x.node = node ∧ x.entry = entry ∧ x.cpl = none then { x with serial := serial, cpl := some (w0, w1, data) } else x

/-- R310: data that a target sends back. -/
def FanTarget.returned (node entry off : Nat) (data : List Nat) (x : FanTarget) : FanTarget :=
  if x.node = node ∧ x.entry = entry then { x with back := bytesAt x.back 0 off ++ data ++ x.back.drop (off + data.length) } else x

variable {s}
variable {k fan node : Nat}

theorem State.cpl_eq {serial w0 w1 data : Nat} (h : s.fromChild k = true) : s.cpl k fan node serial w0 w1 data =
    if s.joined then s.sendMgmt s.parentSlot (.cpl fan node serial w0 w1 data) else s.mapTargets (fan / 4096) (FanTarget.answered node (fan % 4096) serial w0 w1 data) := by
  have hanswered : FanTarget.answered node (fan % 4096) serial w0 w1 data =
      fun x => if x.node = node ∧ x.entry = fan % 4096 ∧ x.cpl.isNone = true then { x with serial := serial, cpl := some (w0, w1, data) } else x := by
    funext x
    unfold FanTarget.answered
    simp only [Option.isNone_iff_eq_none]
  unfold State.cpl State.mapTargets
  rw [if_neg (by rw [h]; decide), hanswered]

theorem State.cpl_stranger {serial w0 w1 data : Nat} (h : s.fromChild k = false) : s.cpl k fan node serial w0 w1 data = s := by
  unfold State.cpl
  exact if_pos (by rw [h]; rfl)

theorem State.retMsg_eq {off : Nat} {data : List Nat} (h : s.fromChild k = true) : s.retMsg k fan node off data =
    if s.joined then s.sendMgmt s.parentSlot (.ret fan node off data) else s.mapTargets (fan / 4096) (FanTarget.returned node (fan % 4096) off data) := by
  unfold State.retMsg State.mapTargets
  rw [if_neg (by rw [h]; decide)]
  rfl

theorem State.retMsg_stranger {off : Nat} {data : List Nat} (h : s.fromChild k = false) : s.retMsg k fan node off data = s := by
  unfold State.retMsg
  exact if_pos (by rw [h]; rfl)

end

/-- Settles O42: what goes on goes out slot by slot; a CMD taken is MBOX_MGR's buffer written and rung; a completion or data coming up changes the targets it names. -/
theorem treeMessages : Obligations.TreeMessages := by
  unfold Obligations.TreeMessages
  intro s hc me up slots
  refine ⟨?syncs, fun k t1 hk => ⟨fun hparent => ?sync, fun hno => ?syncNo⟩, fun k hk => ⟨fun hchild => ?delay, fun hno => ?delayNo⟩,
    fun k fan node scope words ret hk => ?cmd, fun k fan node serial w0 w1 data hk => ?cpl, fun k fan buffer off data targets hk hdata => ?stage,
    fun k fan node off data hk hdata => ?ret⟩
  case syncs => exact Answers.intro (exec_syncSend s rfl hc) (State.sends s.fromChild (fun _ => .sync s.tide.now) _ s)
  case sync =>
    refine Answers.intro (exec_sync k t1 s (by simp [Instr.wf, hk]) hc) ?_
    unfold State.sync
    exact if_pos hparent
  case syncNo =>
    refine Answers.intro (exec_sync k t1 s (by simp [Instr.wf, hk]) hc) ?_
    unfold State.sync
    exact if_neg (by simp [hno])
  case delay =>
    refine Answers.intro (exec_delayReq k s (by simp [Instr.wf, hk]) hc) ?_
    unfold State.delayReq
    exact if_pos hchild
  case delayNo =>
    refine Answers.intro (exec_delayReq k s (by simp [Instr.wf, hk]) hc) ?_
    unfold State.delayReq
    exact if_neg (by simp [hno])
  case cmd =>
    intro all through sent
    have hexec := exec_cmd k fan node scope words ret s (by simp [Instr.wf, hk]) hc
    have hsent : State.cmdSent s fan words ret node scope = { s with out := sent } := rfl
    have htaken : ∀ hparent : s.fromParent k = true, node = me ∨ all → s.cmd k fan node scope words ret = State.fanTake { s with out := sent } fan words ret := fun hparent htarget =>
      (State.cmd_eq hparent).trans (if_pos htarget)
    have hout : Within [.out] s { s with out := sent } := State.emits_within s _
    refine ⟨fun hno => ?stranger, fun hparent hne hall => ?passed, fun hparent htarget hstage haccepts hidle => ?taken, fun hparent htarget hstage hbusy => ?busy,
      fun hparent htarget hstage => ?failed⟩
    case stranger => exact Answers.intro hexec (State.cmd_stranger hno)
    case passed => exact Answers.intro hexec ((State.cmd_eq hparent).trans (if_neg (fun h => h.elim hne hall)))
    case taken =>
      obtain ⟨hwords, hrung, hothers, hwithin⟩ := State.ringMgr_facts { s with out := sent } words haccepts hidle
      have hfree : ((State.flag { s with out := sent } (rMB_STAT 4) fMB_STAT_ACCEPTING && !State.flag { s with out := sent } (rMB_STAT 4) fMB_STAT_BUSY)) = true := by
        show (s.flag (rMB_STAT 4) fMB_STAT_ACCEPTING && !s.flag (rMB_STAT 4) fMB_STAT_BUSY) = true
        rw [haccepts, hidle]; rfl
      refine Answers.intro hexec ?_
      rw [htaken hparent htarget, State.fanTake_free (by exact hstage) hfree]
      have htree : ((State.fillMgr { s with out := sent } words).ring .mgr 4).tree = s.tree := hwithin.2 .tree rfl
      rw [htree]
      exact ⟨hwords, hrung, rfl, hwithin.2 .out rfl, hothers, (State.setTree_within ..).via rfl (hwithin.via rfl (hout.mono rfl))⟩
    case busy =>
      have hnotfree : ((State.flag { s with out := sent } (rMB_STAT 4) fMB_STAT_ACCEPTING && !State.flag { s with out := sent } (rMB_STAT 4) fMB_STAT_BUSY)) = false := by
        show (s.flag (rMB_STAT 4) fMB_STAT_ACCEPTING && !s.flag (rMB_STAT 4) fMB_STAT_BUSY) = false
        rcases hbusy with h | h <;> rw [h]
        · rfl
        · exact Bool.and_false _
      have hwithin : Within [.regs, .agg] { s with out := sent } ((State.fillMgr { s with out := sent } words).ring .mgr 4) := (State.ring_within ..).via rfl (State.fillMgr_within ..)
      refine Answers.intro hexec ?_
      rw [htaken hparent htarget, State.fanTake_busy (by exact hstage) hnotfree]
      exact ⟨hwithin.2 .tree rfl, hwithin.2 .out rfl, hwithin.via rfl (hout.mono rfl)⟩
    case failed =>
      intro c
      refine Answers.intro hexec ?_
      rw [htaken hparent htarget, State.fanTake_badStage (by exact hstage)]
      rfl
  case cpl =>
    have hexec := exec_cpl k fan node serial w0 w1 data s (by simp [Instr.wf, hk]) hc
    refine ⟨fun hno => Answers.intro hexec (State.cpl_stranger hno), fun hchild hj => Answers.intro hexec ((State.cpl_eq hchild).trans (if_pos hj)), fun hchild hj => ?_⟩
    refine Answers.intro hexec ?_
    rw [State.cpl_eq hchild, if_neg (by rw [hj]; exact Bool.false_ne_true)]
    exact s.mapTargets_facts _ _
  case stage =>
    intro below sent new fits
    have hexec := exec_stage k fan buffer off data targets s (by simp [Instr.wf, hk, hdata]) hc
    refine ⟨fun hno => Answers.intro hexec (State.stageMsg_stranger hno), fun hparent hother => ?passed, fun hparent hmine hfits => ?stored, fun hparent hmine hfull => ?failed⟩
    case passed => exact Answers.intro hexec ((State.stageMsg_eq hparent).trans (if_pos (show (!targets.contains s.nodeId) = true by rw [show targets.contains s.nodeId = false from hother]; rfl)))
    case stored =>
      refine Answers.intro hexec ((State.stageMsg_eq hparent).trans ?_)
      dsimp only
      rw [if_neg (by rw [show targets.contains s.nodeId = true from hmine]; decide), if_pos (by exact hfits)]
      rfl
    case failed =>
      refine Answers.intro hexec ((State.stageMsg_eq hparent).trans ?_)
      dsimp only
      rw [if_neg (by rw [show targets.contains s.nodeId = true from hmine]; decide), if_neg (by exact hfull)]
      rfl
  case ret =>
    have hexec := exec_ret k fan node off data s (by simp [Instr.wf, hk, hdata]) hc
    refine ⟨fun hno => Answers.intro hexec (State.retMsg_stranger hno), fun hchild hj => Answers.intro hexec ((State.retMsg_eq hchild).trans (if_pos hj)), fun hchild hj => ?_⟩
    refine Answers.intro hexec ?_
    rw [State.retMsg_eq hchild, if_neg (by rw [hj]; exact Bool.false_ne_true)]
    exact s.mapTargets_facts _ _

end Sys2Proof.Machine
end

section
/-! SUPPORT. The Tally (R313–R316): what a checkpoint keeps, what a fault changes before it, and the records that the end of an epoch stores. -/

namespace Sys2Proof.Machine

/-! ### Checkpoints -/

/-- The words that a checkpoint may write. -/
def tallyWords : List Nat := [rTALLY_ERR 0, rTALLY_LAST 0, rIRQ_RAW (PageKind.tallyCtl.addr 0)]

/-- R314: a checkpoint's leaves, each with the value read as its checkpoint value. -/
def keptLeaves (m : SMap Leaf) : SMap Leaf := smMap Leaf.zero (fun _ l => { l with ckpt := l.a }) m

/-- What the faults found leave of the state at a checkpoint: the records, the epoch, Tide, and every word but the Tally's own. -/
def State.TallyRead (s t : State) : Prop :=
  t.tally.records = s.tally.records ∧
  t.tally.epoch = s.tally.epoch ∧
  s.wordsBut t tallyWords ∧
  Within [.regs, .agg, .tally] s t

section
variable {s t : State} (h : s.TallyRead t)
include h

theorem State.TallyRead.records : t.tally.records = s.tally.records := h.1

theorem State.TallyRead.epoch : t.tally.epoch = s.tally.epoch := h.2.1

theorem State.TallyRead.words : s.wordsBut t tallyWords := h.2.2.1

theorem State.TallyRead.within : Within [.regs, .agg, .tally] s t := h.2.2.2

end

theorem State.TallyRead.refl (s : State) : s.TallyRead s := ⟨rfl, rfl, State.wordsBut_refl _ _, Within.refl ..⟩

theorem State.checkpoint_found (s : State) (faults : List LeafFault) (suspects : List (Nat × Nat)) :
    s.checkpoint faults suspects = (suspects.foldl (fun t x => t.nodeSuspect x.1 x.2) (faults.foldl (fun t f => t.leafFault f) s)).checkpoint [] [] := rfl

theorem State.checkpoint_leaf (s : State) (f : LeafFault) : s.checkpoint [f] [] = (s.leafFault f).checkpoint [] [] := by
  rw [State.checkpoint_found, List.foldl_nil, List.foldl_cons, List.foldl_nil]

theorem State.checkpoint_node (s : State) (node n : Nat) : s.checkpoint [] [(node, n)] = (s.nodeSuspect node n).checkpoint [] [] := by
  rw [State.checkpoint_found, List.foldl_nil, List.foldl_cons, List.foldl_nil]

theorem State.checkpoint_leaves (s : State) : (s.checkpoint [] []).tally.leaves = keptLeaves s.tally.leaves := rfl

theorem State.checkpoint_opened (s : State) : (s.checkpoint [] []).tally.opened = s.tally.opened := rfl

theorem State.checkpoint_openInterval (s : State) (n : Nat) : (s.checkpoint [] []).openInterval n = s.openInterval n := rfl

theorem State.checkpoint_fget (s : State) (a : Nat) (f : Fld) : (s.checkpoint [] []).fget a f = s.fget a f := State.fget_same (State.checkpoint_none_regs s) a f

theorem State.checkpoint_bit (s : State) (a k : Nat) : (s.checkpoint [] []).bit a k = s.bit a k := State.bit_same (State.checkpoint_none_regs s) a k

/-- R314: after the faults, a checkpoint recomputes the nodes and moves nothing but the Tally's own data. -/
theorem State.TallyRead.checkpoint {s t : State} (h : s.TallyRead t) : let u := t.checkpoint [] []
    u.recomputeNodes = u ∧ u.tally.ckptAt = s.tide.ticks ∧ u.tally.records = s.tally.records ∧ u.tally.epoch = s.tally.epoch ∧ s.wordsBut u tallyWords ∧ Within [.regs, .agg, .tally] s u :=
  ⟨rfl, congrArg Tide.ticks (h.within.2 .tide rfl), h.records, h.epoch, h.words.regs (State.checkpoint_none_regs t), (State.checkpoint_within ..).via rfl h.within⟩

/-! ### Faults -/

section
variable {s t : State}

theorem State.tallyLast_words (s : State) (event stall kind index : Nat) : s.wordsBut (s.tallyLast event stall kind index) [rTALLY_LAST 0] := by
  unfold State.tallyLast
  split
  · exact State.wordsBut_refl _ _
  · exact State.wordsBut_wr32 _ _ (List.mem_singleton.mpr rfl)

/-- R315, R316: an event counted in TALLY_ERR and recorded in TALLY_LAST. -/
theorem State.tallyErr_facts (s : State) (f : Fld) (hf : f.lo + f.width ≤ 32) (event stall kind index : Nat) : let t := (s.finc (rTALLY_ERR 0) f).tallyLast event stall kind index
    t.fget (rTALLY_ERR 0) f = satInc f.width (s.fget (rTALLY_ERR 0) f) ∧ s.wordsBut t [rTALLY_ERR 0, rTALLY_LAST 0] ∧ Within [.regs, .agg] s t := by
  intro t
  have hlast := (s.finc (rTALLY_ERR 0) f).tallyLast_words event stall kind index
  refine ⟨?_, State.wordsBut_trans (State.wordsBut_finc _ hf (by simp)) (State.wordsBut_mono hlast (by simp)), (State.tallyLast_within ..).via rfl (State.finc_within ..)⟩
  rw [State.fget_wordsBut hlast _ (by decide) hf]
  exact (State.fget_fset _ _ _ _ hf).trans (Nat.mod_eq_of_lt (satInc_lt ..))

/-- The event counted also raises an interrupt. -/
theorem State.tallyErr_irq (s : State) (f : Fld) (hf : f.lo + f.width ≤ 32) (event stall kind index k : Nat) (hk : k < 32) :
    let t := ((s.finc (rTALLY_ERR 0) f).tallyLast event stall kind index).irq (PageKind.tallyCtl.addr 0) k
    t.fget (rTALLY_ERR 0) f = satInc f.width (s.fget (rTALLY_ERR 0) f) ∧ t.bit (rIRQ_RAW (PageKind.tallyCtl.addr 0)) k = true ∧ s.wordsBut t tallyWords ∧ Within [.regs, .agg] s t := by
  intro t
  obtain ⟨hcount, hwords, hwithin⟩ := s.tallyErr_facts f hf event stall kind index
  have hirq := State.wordsBut_irq (l := [PageKind.tallyCtl.addr 0 + 0x010]) ((s.finc (rTALLY_ERR 0) f).tallyLast event stall kind index) hk (List.mem_singleton.mpr rfl)
  refine ⟨(State.fget_wordsBut hirq _ (by decide) hf).trans hcount, ?_, State.wordsBut_trans (State.wordsBut_mono hwords (by simp [tallyWords])) (State.wordsBut_mono hirq (by simp [tallyWords, rIRQ_RAW])),
    (State.irq_within ..).via rfl hwithin⟩
  show State.bit _ (PageKind.tallyCtl.addr 0 + 0x010) k = true
  rw [State.bit_irq _ _ _ _ _ hk hk, if_pos ⟨rfl, rfl⟩]

/-- A change of the Tally's leaves and intervals, and then of words of its page. -/
theorem State.TallyRead.of {u : State} (hrecords : t.tally.records = s.tally.records) (hepoch : t.tally.epoch = s.tally.epoch) (hregs : t.regs = s.regs) (ht : Within [.tally] s t)
    (hwords : t.wordsBut u tallyWords) (hu : Within [.regs, .agg] t u) : s.TallyRead u := by
  have htally : u.tally = t.tally := hu.2 .tally rfl
  exact ⟨(congrArg Tally.records htally).trans hrecords, (congrArg Tally.epoch htally).trans hepoch, State.wordsBut_trans (State.wordsBut_of_regs _ hregs) hwords,
    hu.via rfl (ht.mono rfl)⟩

/-- R315: one copy rewritten from the other. -/
theorem State.leafFix_facts (s : State) (k : Nat) (useA : Bool) : let t := s.leafFix k useA
    let l := s.leaf k
    t.tally.leaves = smSet Leaf.zero s.tally.leaves k (if useA then ⟨l.a, l.a, l.ckpt⟩ else ⟨l.b, l.b, l.ckpt⟩) ∧
      t.fget (rTALLY_ERR 0) fTALLY_ERR_COPY_FIX = satInc 16 (s.fget (rTALLY_ERR 0) fTALLY_ERR_COPY_FIX) ∧ s.TallyRead t := by
  intro t l
  obtain ⟨u, hu⟩ : ∃ u, u = s.setLeaf k (if useA then { l with b := l.a } else { l with a := l.b }) := ⟨_, rfl⟩
  have hleaves : u.tally.leaves = smSet Leaf.zero s.tally.leaves k (if useA then ⟨l.a, l.a, l.ckpt⟩ else ⟨l.b, l.b, l.ckpt⟩) := by rw [hu]; rfl
  have hrest : u.regs = s.regs ∧ u.tally.records = s.tally.records ∧ u.tally.epoch = s.tally.epoch ∧ Within [.tally] s u := by
    rw [hu]; exact ⟨rfl, rfl, rfl, State.setTally_within ..⟩
  obtain ⟨hregs, hrecords, hepoch, hset⟩ := hrest
  have ht : t = (u.finc (rTALLY_ERR 0) fTALLY_ERR_COPY_FIX).tallyLast 0 (k % 32) (k / 32 / 4096) (leafIndex (k / 32 / 4096) (k / 32 % 4096)) := by rw [hu]; rfl
  obtain ⟨hcount, hwords, hwithin⟩ := u.tallyErr_facts fTALLY_ERR_COPY_FIX (by decide) 0 (k % 32) (k / 32 / 4096) (leafIndex (k / 32 / 4096) (k / 32 % 4096))
  rw [← ht] at hcount hwords hwithin
  exact ⟨(congrArg Tally.leaves (hwithin.2 .tally rfl :)).trans hleaves, hcount.trans (congrArg _ (State.fget_same hregs _ _)),
    State.TallyRead.of hrecords hepoch hregs hset (State.wordsBut_mono hwords (by simp [tallyWords])) hwithin⟩

/-- R315: a leaf whose count is lost goes on from its checkpoint value. -/
theorem State.leafLost_facts (s : State) (k : Nat) : let t := s.leafLost k
    let l := s.leaf k
    t.tally.leaves = smSet Leaf.zero s.tally.leaves k ⟨l.ckpt, l.ckpt, l.ckpt⟩ ∧ t.fget (rTALLY_ERR 0) fTALLY_ERR_UNCERTAIN = satInc 8 (s.fget (rTALLY_ERR 0) fTALLY_ERR_UNCERTAIN) ∧
      t.bit (rIRQ_RAW (PageKind.tallyCtl.addr 0)) 0 = true ∧ s.TallyRead t := by
  intro t l
  obtain ⟨u, ht, hleaves, hregs, hrecords, hepoch, hset⟩ : ∃ u, t = ((u.finc (rTALLY_ERR 0) fTALLY_ERR_UNCERTAIN).tallyLast 2 (k % 32) (k / 32 / 4096)
      (leafIndex (k / 32 / 4096) (k / 32 % 4096))).irq (PageKind.tallyCtl.addr 0) 0 ∧ u.tally.leaves = smSet Leaf.zero s.tally.leaves k ⟨l.ckpt, l.ckpt, l.ckpt⟩ ∧
      u.regs = s.regs ∧ u.tally.records = s.tally.records ∧ u.tally.epoch = s.tally.epoch ∧ Within [.tally] s u := by
    have hleaf : Within [.tally] s (s.setLeaf k ⟨l.ckpt, l.ckpt, l.ckpt⟩) := State.setTally_within ..
    refine ⟨_, rfl, ?_⟩
    dsimp only [leafOf]
    split
    · exact ⟨rfl, rfl, rfl, rfl, (State.setInterval_within ..).via rfl hleaf⟩
    · exact ⟨rfl, rfl, rfl, rfl, hleaf⟩
  obtain ⟨hcount, hirq, hwords, hwithin⟩ := u.tallyErr_irq fTALLY_ERR_UNCERTAIN (by decide) 2 (k % 32) (k / 32 / 4096) (leafIndex (k / 32 / 4096) (k / 32 % 4096)) 0 (by decide)
  rw [← ht] at hcount hirq hwords hwithin
  exact ⟨(congrArg Tally.leaves (hwithin.2 .tally rfl :)).trans hleaves, hcount.trans (congrArg _ (State.fget_same hregs _ _)), hirq,
    State.TallyRead.of hrecords hepoch hregs hset hwords hwithin⟩

theorem find?_smPut {α : Type} (k : Nat) (v : α) (m : SMap α) : (smPut k v m).find? (fun x => decide (x.1 = k)) = some (k, v) := by
  induction m with
  | nil => simp [smPut]
  | cons x m ih =>
    obtain ⟨j, w⟩ := x
    unfold smPut
    split
    · simp
    · split
      · simp
      · next hlt hne => rw [List.find?_cons_of_neg (by simpa using fun h => hne h.symm), ih]

theorem State.openInterval_set (s : State) (n : Nat) (i : Interval) : (s.setInterval n i).openInterval n = some i := by
  unfold State.openInterval State.setInterval State.setTally
  rw [find?_smPut]
  rfl

/-- R316: an uncorrectable node or root is counted and flags the open interval. -/
theorem State.nodeSuspect_facts (s : State) (node n : Nat) : let t := s.nodeSuspect node n
    t.tally.leaves = s.tally.leaves ∧ t.fget (rTALLY_ERR 0) fTALLY_ERR_SUSPECT = satInc 8 (s.fget (rTALLY_ERR 0) fTALLY_ERR_SUSPECT) ∧
      t.bit (rIRQ_RAW (PageKind.tallyCtl.addr 0)) 1 = true ∧ (∀ i, s.openInterval n = some i → t.openInterval n = some { i with flags := Nat.lor i.flags 2 }) ∧ s.TallyRead t := by
  intro t
  obtain ⟨u, ht, hleaves, hopen, hregs, hrecords, hepoch, hset⟩ : ∃ u, t = ((u.finc (rTALLY_ERR 0) fTALLY_ERR_SUSPECT).tallyLast 1 n 7 node).irq (PageKind.tallyCtl.addr 0) 1 ∧
      u.tally.leaves = s.tally.leaves ∧ (∀ i, s.openInterval n = some i → u.openInterval n = some { i with flags := Nat.lor i.flags 2 }) ∧
      u.regs = s.regs ∧ u.tally.records = s.tally.records ∧ u.tally.epoch = s.tally.epoch ∧ Within [.tally] s u := by
    refine ⟨_, rfl, ?_⟩
    split
    · next i hi =>
      exact ⟨rfl, fun j hj => Option.some.inj (hi.symm.trans hj) ▸ State.openInterval_set .., rfl, rfl, rfl, State.setInterval_within ..⟩
    · next hi => exact ⟨rfl, fun j hj => absurd (hi.symm.trans hj) (by simp), rfl, rfl, rfl, Within.refl ..⟩
  obtain ⟨hcount, hirq, hwords, hwithin⟩ := u.tallyErr_irq fTALLY_ERR_SUSPECT (by decide) 1 n 7 node 1 (by decide)
  rw [← ht] at hcount hirq hwords hwithin
  have htally : t.tally = u.tally := hwithin.2 .tally rfl
  have hopened : t.openInterval n = u.openInterval n := by unfold State.openInterval; rw [htally]
  exact ⟨(congrArg Tally.leaves htally).trans hleaves, hcount.trans (congrArg _ (State.fget_same hregs _ _)), hirq, fun i hi => hopened.trans (hopen i hi),
    State.TallyRead.of hrecords hepoch hregs hset hwords hwithin⟩

end

/-! ### The end of an epoch -/

/-- R318: the record of an open interval that goes on past the end of its epoch. -/
def MeterRec.Closes (r : MeterRec) (n epoch stop ticks : Nat) (i : Interval) : Prop :=
  r.stall = n ∧ r.epoch = epoch ∧ r.interval = i.number ∧ r.tenant = i.tenant ∧ r.start = i.start ∧ r.stop = stop ∧ r.bound = i.bound ∧ r.flags.testBit 7 = true ∧ r.ticks = ticks - i.tick

/-- Where the close of an epoch stores records: the open intervals, the epoch, Tide and the words stay. -/
def State.Recording (s t : State) : Prop :=
  t.tally.opened = s.tally.opened ∧
  t.tally.epoch = s.tally.epoch ∧
  t.tide = s.tide ∧
  t.regs = s.regs

section
variable {s t : State} (h : s.Recording t)
include h

theorem State.Recording.opened : t.tally.opened = s.tally.opened := h.1

theorem State.Recording.epoch : t.tally.epoch = s.tally.epoch := h.2.1

theorem State.Recording.tide : t.tide = s.tide := h.2.2.1

theorem State.Recording.regs : t.regs = s.regs := h.2.2.2

end

theorem State.Recording.refl (s : State) : s.Recording s := ⟨rfl, rfl, rfl, rfl⟩

theorem State.Recording.trans {s t u : State} (h : s.Recording t) (h' : t.Recording u) : s.Recording u :=
  ⟨h'.opened.trans h.opened, h'.epoch.trans h.epoch, h'.tide.trans h.tide, h'.regs.trans h.regs⟩

theorem State.Recording.openInterval {s t : State} (h : s.Recording t) (n : Nat) : t.openInterval n = s.openInterval n := by
  unfold State.openInterval; rw [h.opened]

theorem State.Recording.dead {s t : State} (h : s.Recording t) : t.dead = s.dead := by
  unfold State.dead; rw [State.fget_same h.regs]

section
variable (s : State) (n stop : Nat)

theorem State.meterRecord_closes (i : Interval) (energy : Nat) : (s.meterRecord n i stop energy true).Closes n s.tally.epoch stop s.tide.ticks i := by
  refine ⟨rfl, rfl, rfl, rfl, rfl, rfl, rfl, ?_, rfl⟩
  show (Nat.lor i.flags (4 * b2n s.rootUnlocked + 64 * b2n i.carried + 128)).testBit 7 = true
  have hbit : (4 * b2n s.rootUnlocked + 64 * b2n i.carried + 128).testBit 7 = true := by
    cases s.rootUnlocked <;> cases i.carried <;> rfl
  exact (Nat.testBit_or ..).trans (by rw [hbit, Bool.or_true])

theorem State.storeRecord_recording (r : MeterRec) : s.Recording (s.storeRecord r) := by
  unfold State.storeRecord
  split
  · exact .refl s
  · dsimp only
    split
    · exact .refl s
    · split
      · exact ⟨rfl, rfl, rfl, rfl⟩
      · exact ⟨rfl, rfl, rfl, rfl⟩

/-- R318: with room, a record is stored after those that stand. -/
theorem State.storeRecord_records (r : MeterRec) (hdead : s.dead = false) (hroom : 320 * (s.tally.records.length + 1) ≤ 2 ^ 28) :
    (s.storeRecord r).tally.records = s.tally.records ++ [r] := by
  have hmode : s.fget (rTOL_STAT 0) fTOL_STAT_MODE ≠ 2 := by simpa [State.dead] using hdead
  have hlen : (s.tally.records ++ [r]).length = s.tally.records.length + 1 := by simp
  unfold State.storeRecord
  rw [if_neg hmode]
  dsimp only
  split
  · next hnil => exact absurd hnil (by simp)
  · rw [if_neg (by rw [hlen]; omega)]
    rfl

theorem State.recordInterval_recording (goesOn : Bool) : s.Recording (s.recordInterval n stop goesOn) := by
  unfold State.recordInterval
  split
  · next i hi =>
    obtain ⟨hopened, hepoch, htide, hregs⟩ := s.storeRecord_recording (s.meterRecord n i stop (s.freeNat 48) goesOn)
    exact ⟨hopened, hepoch, htide, hregs⟩
  · exact .refl s

/-- R313: an open interval yields its record at the end of the epoch. -/
theorem State.recordInterval_records (hdead : s.dead = false) (hroom : 320 * (s.tally.records.length + 1) ≤ 2 ^ 28) :
    ∃ l : List MeterRec, (s.recordInterval n stop true).tally.records = s.tally.records ++ l ∧ l.length ≤ 1 ∧
      ∀ i, s.openInterval n = some i → ∃ r ∈ l, r.Closes n s.tally.epoch stop s.tide.ticks i := by
  unfold State.recordInterval
  split
  · next i hi =>
    refine ⟨[s.meterRecord n i stop (s.freeNat 48) true], s.storeRecord_records _ hdead hroom, Nat.le_refl _, fun j hj => ?_⟩
    exact ⟨_, List.mem_singleton.mpr rfl, Option.some.inj (hi.symm.trans hj) ▸ s.meterRecord_closes n stop i _⟩
  · next hi => exact ⟨[], (List.append_nil _).symm, Nat.zero_le _, fun j hj => absurd (hi.symm.trans hj) (by simp)⟩

/-- R313: the records of the intervals listed. -/
def State.recordAll (L : List (Nat × Interval)) : State := L.foldl (fun t x => t.recordInterval x.1 stop true) s

theorem State.recordAll_recording (L : List (Nat × Interval)) : s.Recording (s.recordAll stop L) := by
  induction L generalizing s with
  | nil => exact .refl s
  | cons x L ih => exact (s.recordInterval_recording x.1 stop true).trans (ih _)

theorem State.recordAll_records (L : List (Nat × Interval)) (hdead : s.dead = false) (hroom : 320 * (s.tally.records.length + L.length) ≤ 2 ^ 28) :
    ∃ l : List MeterRec, (s.recordAll stop L).tally.records = s.tally.records ++ l ∧
      ∀ x ∈ L, ∀ i, s.openInterval x.1 = some i → ∃ r ∈ l, r.Closes x.1 s.tally.epoch stop s.tide.ticks i := by
  induction L generalizing s with
  | nil => exact ⟨[], (List.append_nil _).symm, fun x hx => absurd hx (by simp)⟩
  | cons x L ih =>
    rw [List.length_cons] at hroom
    obtain ⟨l, hl, hone, hfirst⟩ := s.recordInterval_records x.1 stop hdead (by omega)
    have hrec := s.recordInterval_recording x.1 stop true
    obtain ⟨m, hm, hrest⟩ := ih (s.recordInterval x.1 stop true) (hrec.dead.trans hdead) (by rw [hl, List.length_append]; omega)
    refine ⟨l ++ m, hm.trans (by rw [hl, List.append_assoc]), fun y hy i hi => ?_⟩
    rcases List.mem_cons.mp hy with rfl | hy
    · obtain ⟨r, hr, hcloses⟩ := hfirst i hi
      exact ⟨r, List.mem_append_left _ hr, hcloses⟩
    · obtain ⟨r, hr, hcloses⟩ := hrest y hy i ((hrec.openInterval _).trans hi)
      rw [hrec.epoch, hrec.tide] at hcloses
      exact ⟨r, List.mem_append_right _ hr, hcloses⟩

end

/-- R318: the newest closed epochs, of which 64 at most are held. -/
def heldEpochs (closed : List Nat) (old new : Nat) : List Nat :=
  let l := closed ++ (List.range (min (new - old) 64)).map (fun k => new - min (new - old) 64 + k)
  l.drop (l.length - 64)

/-- The epoch that ends is held, where no more than 64 end at once. -/
theorem old_mem_heldEpochs (closed : List Nat) {old new : Nat} (hlt : old < new) (hle : new - old ≤ 64) : old ∈ heldEpochs closed old new := by
  have hmin : min (new - old) 64 = new - old := Nat.min_eq_left hle
  have hmem : old ∈ (List.range (min (new - old) 64)).map (fun k => new - min (new - old) 64 + k) :=
    List.mem_map.mpr ⟨0, List.mem_range.mpr (by omega), by omega⟩
  unfold heldEpochs
  dsimp only
  have hdrop : closed.length + min (new - old) 64 - 64 - closed.length = 0 := by omega
  rw [List.length_append, List.length_map, List.length_range, List.drop_append, hdrop, List.drop_zero]
  exact List.mem_append_right _ hmem

section
variable (s : State)

/-- R313: the state once every open interval has its record. -/
def State.epochRecorded : State := (s.checkpoint [] []).recordAll ((s.tally.epoch + 1) * 2 ^ 30) s.tally.opened

/-- R313: the Tally at the start of the new epoch. -/
def State.epochTally : Tally :=
  let u := s.epochRecorded
  let new := s.tide.now / 2 ^ 30
  { u.tally with
    leaves := []
    nodes := []
    opened := u.tally.opened.map (fun x => (x.1, { x.2 with start := new * 2 ^ 30, tick := u.tide.ticks, carried := true, flags := 4 * b2n u.rootUnlocked, bound := [0, 0, 0, 0, 0] }))
    epoch := new }

/-- R318: the records that are still held. -/
def Tally.dropOld (t : Tally) (old new : Nat) : Tally :=
  { t with closed := heldEpochs t.closed old new, records := t.records.filter (fun r => (heldEpochs t.closed old new).contains r.epoch || decide (new ≤ r.epoch)) }

theorem State.closeEpoch_due (hdue : s.epochDue = true) : let u := s.epochRecorded
    let t := u.setTally (if u.dead then s.epochTally else s.epochTally.dropOld s.tally.epoch (s.tide.now / 2 ^ 30))
    s.closeEpoch = (t.wr64 (rTALLY_EPOCH 0) (s.tide.now / 2 ^ 30 - 1)).irq (PageKind.tallyCtl.addr 0) 2 := by
  unfold State.closeEpoch
  rw [if_neg (by rw [hdue]; decide)]
  dsimp only
  congr 2
  show (if s.epochRecorded.fget (rTOL_STAT 0) fTOL_STAT_MODE = 2 then s.epochRecorded.setTally s.epochTally else
    s.epochRecorded.setTally (s.epochTally.dropOld s.tally.epoch (s.tide.now / 2 ^ 30))) = _
  unfold State.dead
  by_cases h : s.epochRecorded.fget (rTOL_STAT 0) fTOL_STAT_MODE = 2
  · rw [if_pos h, if_pos (by simpa using h)]
  · rw [if_neg h, if_neg (by simpa using h)]

theorem State.epochRecorded_recording : s.Recording s.epochRecorded := by
  have hcheck : s.Recording (s.checkpoint [] []) := ⟨rfl, rfl, rfl, rfl⟩
  exact hcheck.trans ((s.checkpoint [] []).recordAll_recording _ _)

theorem State.closeEpoch_tally (hdue : s.epochDue = true) :
    s.closeEpoch.tally = if s.dead then s.epochTally else s.epochTally.dropOld s.tally.epoch (s.tide.now / 2 ^ 30) := by
  have hdead := s.epochRecorded_recording.dead
  rw [s.closeEpoch_due hdue]
  refine ((State.irq_within ..).2 .tally rfl).trans (((State.wr64_within ..).2 .tally rfl).trans ?_)
  rw [← hdead]
  rfl

theorem State.epochTally_opened : s.epochTally.opened = s.tally.opened.map (fun x =>
    (x.1, { x.2 with start := s.tide.now / 2 ^ 30 * 2 ^ 30, tick := s.tide.ticks, carried := true, flags := 4 * b2n s.rootUnlocked, bound := [0, 0, 0, 0, 0] })) := by
  have hrec := s.epochRecorded_recording
  have hroot : s.epochRecorded.rootUnlocked = s.rootUnlocked := by unfold State.rootUnlocked; rw [State.fget_same hrec.regs]
  unfold State.epochTally
  dsimp only
  rw [hrec.opened, hrec.tide, hroot]

theorem State.openInterval_mem {n : Nat} {i : Interval} (h : s.openInterval n = some i) : ∃ x ∈ s.tally.opened, x.1 = n := by
  obtain ⟨x, hx, -⟩ := Option.map_eq_some_iff.mp h
  exact ⟨x, List.mem_of_find?_eq_some hx, by simpa using List.find?_some hx⟩

/-- R313: the record of each open interval is among those held. -/
theorem State.closeEpoch_records (hdue : s.epochDue = true) (hdead : s.dead = false) (hfew : s.tide.now / 2 ^ 30 - s.tally.epoch ≤ 64)
    (hroom : 320 * (s.tally.records.length + s.tally.opened.length) ≤ 2 ^ 28) {n : Nat} {i : Interval} (hi : s.openInterval n = some i) :
    ∃ r ∈ s.closeEpoch.tally.records, r.Closes n s.tally.epoch ((s.tally.epoch + 1) * 2 ^ 30) s.tide.ticks i := by
  have hlt : s.tally.epoch < s.tide.now / 2 ^ 30 := by simpa [State.epochDue] using hdue
  have hdead' : (s.checkpoint [] []).dead = false := by
    unfold State.dead at hdead ⊢
    rw [State.checkpoint_fget]; exact hdead
  obtain ⟨l, hl, hall⟩ := (s.checkpoint [] []).recordAll_records ((s.tally.epoch + 1) * 2 ^ 30) s.tally.opened hdead' hroom
  obtain ⟨x, hx, hn⟩ := s.openInterval_mem hi
  obtain ⟨r, hr, hcloses⟩ := hall x hx i (hn ▸ hi)
  rw [hn] at hcloses
  have hrecords : s.epochTally.records = s.tally.records ++ l := hl
  rw [s.closeEpoch_tally hdue, hdead]
  refine ⟨r, List.mem_filter.mpr ⟨by rw [hrecords]; exact List.mem_append_right _ hr, ?_⟩, hcloses⟩
  have hepoch : r.epoch = s.tally.epoch := hcloses.2.1
  rw [hepoch, List.contains_iff_mem.mpr (old_mem_heldEpochs _ hlt hfew)]
  rfl

theorem State.closeEpoch_words (hdue : s.epochDue = true) :
    s.closeEpoch.rd64 (rTALLY_EPOCH 0) = (s.tide.now / 2 ^ 30 - 1) % 2 ^ 64 ∧ s.closeEpoch.bit (rIRQ_RAW (PageKind.tallyCtl.addr 0)) 2 = true := by
  rw [s.closeEpoch_due hdue]
  generalize s.epochRecorded.setTally _ = u
  have hirq := State.wordsBut_irq (l := [PageKind.tallyCtl.addr 0 + 0x010]) (u.wr64 (rTALLY_EPOCH 0) (s.tide.now / 2 ^ 30 - 1)) (k := 2) (by decide) (List.mem_singleton.mpr rfl)
  constructor
  · unfold State.rd64 State.rd32
    rw [hirq _ (by decide), hirq _ (by decide)]
    exact State.rd64_wr64 ..
  · show State.bit _ (PageKind.tallyCtl.addr 0 + 0x010) 2 = true
    rw [State.bit_irq _ _ _ _ _ (by decide) (by decide), if_pos ⟨rfl, rfl⟩]

end

/-- Settles O43: a fault changes one leaf, or flags one interval, and counts itself; the checkpoint that follows keeps what it reads. At the end of an epoch each open
interval's record is stored, in room that the statement asks for, and is among those held. -/
theorem tallyCounts : Obligations.TallyCounts := by
  unfold Obligations.TallyCounts
  intro s hc page kept words clean leaves with_ err
  have hfaulty : ∀ f, isLeafFault f = true → exec (.checkpoint [f] []) s = .next ((s.leafFault f).checkpoint [] []) := fun f hf =>
    (exec_checkpoint [f] [] s (by simp [Instr.wf, hf]) hc).trans (by rw [State.checkpoint_leaf])
  have hsame : ∀ u : State, s.TallyRead u → clean (u.checkpoint [] []) := fun u h => h.checkpoint
  refine ⟨?plain, fun kind unit n hkind hunit hn => ?leaf, fun node n hnode hn => ?node, fun hdue => ?notDue, fun hdue => ?due⟩
  case plain =>
    exact Answers.intro (exec_checkpoint [] [] s rfl hc) ⟨s.checkpoint_leaves, s.checkpoint_opened, hsame s (.refl s), State.wordsBut_of_regs _ (State.checkpoint_none_regs s)⟩
  case leaf =>
    intro k l
    have hwf : ∀ f, f = LeafFault.copyA kind unit n ∨ f = LeafFault.copyB kind unit n ∨ f = LeafFault.both kind unit n ∨ (∃ v, f = LeafFault.bReads kind unit n v) → isLeafFault f = true := by
      rintro f (rfl | rfl | rfl | ⟨v, rfl⟩) <;> simp [isLeafFault, hkind, hunit, hn]
    have hfix : ∀ f useA, s.leafFault f = s.leafFix k useA → isLeafFault f = true → Answers (.checkpoint [f] []) s fun t =>
        with_ k (if useA then ⟨l.a, l.a, l.ckpt⟩ else ⟨l.b, l.b, l.ckpt⟩) t ∧ err fTALLY_ERR_COPY_FIX t = satInc 16 (err fTALLY_ERR_COPY_FIX s) ∧ clean t := by
      intro f useA hf hok
      obtain ⟨hleaves, hcount, hread⟩ := s.leafFix_facts k useA
      refine Answers.intro ((hfaulty f hok).trans (by rw [hf])) ⟨(State.checkpoint_leaves _).trans (congrArg keptLeaves hleaves), (State.checkpoint_fget ..).trans hcount, hsame _ hread⟩
    have hlost : ∀ f, s.leafFault f = s.leafLost k → isLeafFault f = true → Answers (.checkpoint [f] []) s fun t =>
        with_ k ⟨l.ckpt, l.ckpt, l.ckpt⟩ t ∧ err fTALLY_ERR_UNCERTAIN t = satInc 8 (err fTALLY_ERR_UNCERTAIN s) ∧ t.bit (rIRQ_RAW page) 0 = true ∧ clean t := by
      intro f hf hok
      obtain ⟨hleaves, hcount, hirq, hread⟩ := s.leafLost_facts k
      refine Answers.intro ((hfaulty f hok).trans (by rw [hf]))
        ⟨(State.checkpoint_leaves _).trans (congrArg keptLeaves hleaves), (State.checkpoint_fget ..).trans hcount, (State.checkpoint_bit ..).trans hirq, hsame _ hread⟩
    refine ⟨hfix _ false rfl (hwf _ (.inl rfl)), hfix _ true rfl (hwf _ (.inr (.inl rfl))), hlost _ rfl (hwf _ (.inr (.inr (.inl rfl)))), fun v hv => ?_, fun v hv => ?_⟩
    · exact hlost _ (if_neg hv) (hwf _ (.inr (.inr (.inr ⟨v, rfl⟩))))
    · have hf : s.leafFault (.bReads kind unit n v) = s := if_pos hv
      refine Answers.intro ((hfaulty _ (hwf _ (.inr (.inr (.inr ⟨v, rfl⟩))))).trans (by rw [hf])) ⟨s.checkpoint_leaves, hsame s (.refl s), State.wordsBut_of_regs _ (State.checkpoint_none_regs s)⟩
  case node =>
    obtain ⟨hleaves, hcount, hirq, hflagged, hread⟩ := s.nodeSuspect_facts node n
    refine Answers.intro (exec_checkpoint [] [(node, n)] s (by simp [Instr.wf, hnode, hn]) hc) ?_
    rw [State.checkpoint_node]
    exact ⟨(State.checkpoint_leaves _).trans (congrArg keptLeaves hleaves), (State.checkpoint_fget ..).trans hcount, (State.checkpoint_bit ..).trans hirq,
      fun i hi => (State.checkpoint_openInterval ..).trans (hflagged i hi), hsame _ hread⟩
  case notDue =>
    refine Answers.intro (exec_epochClose s rfl hc) ?_
    unfold State.closeEpoch
    exact if_pos (by rw [hdue]; rfl)
  case due =>
    obtain ⟨htide, hwords, hwithin⟩ := s.closeEpoch_facts
    obtain ⟨hepoch, hirq⟩ := s.closeEpoch_words hdue
    have htally : s.closeEpoch.tally.epoch = s.tide.now / 2 ^ 30 ∧ s.closeEpoch.tally.leaves = [] ∧ s.closeEpoch.tally.nodes = [] ∧ s.closeEpoch.tally.opened = s.epochTally.opened := by
      rw [s.closeEpoch_tally hdue]
      split <;> exact ⟨rfl, rfl, rfl, rfl⟩
    obtain ⟨hnew, hleaves, hnodes, hopened⟩ := htally
    exact Answers.intro (exec_epochClose s rfl hc) ⟨hnew, hepoch, hirq, hleaves, hnodes, hopened.trans s.epochTally_opened,
      fun hdead hfew hroom n i hi => s.closeEpoch_records hdue hdead hfew hroom hi, htide, hwords, hwithin⟩

end Sys2Proof.Machine
end

section
/-! SUPPORT. Resets: each of them is one reset of the whole device and its start. -/

namespace Sys2Proof.Machine

/-- Where a reference pair runs there is a first one. -/
theorem firstPair_isSome {ok : Nat} (hok : ok < 2 ^ 8) (h : ok ≠ 0) : (firstPair ok).isSome = true := by
  obtain ⟨i, hi⟩ := Nat.exists_testBit_of_ne_zero h
  have hlt : i < 8 := by
    refine Nat.lt_of_not_le fun hge => ?_
    have hpow : 2 ^ 8 ≤ 2 ^ i := Nat.pow_le_pow_right (by decide) (by omega)
    rw [Nat.testBit_lt_two_pow (by omega)] at hi
    exact Bool.false_ne_true hi
  have hmem : i ∈ [4, 5, 6, 7, 0, 1, 2, 3] := by
    simp only [List.mem_cons, List.not_mem_nil, or_false]
    omega
  exact List.find?_isSome.mpr ⟨i, hmem, hi⟩

/-- The device reset and started (Table CLK-4): causes below 8, cause 0 being power good. -/
def State.restarted (s : State) (cause : Nat) (env : StartEnv) : State := (s.resetAll cause (decide (cause = 0))).start env

section
variable {s : State} {env : StartEnv}

theorem exec_powerGood_restarted : exec (.powerGood env) s = .next (s.restarted 0 env) := exec_powerGood env s rfl

theorem exec_sysRst_restarted : exec (.sysRst env) s = .next (s.restarted 1 env) := exec_sysRst env s rfl

theorem exec_deviceReset_restarted : exec (.deviceReset env) s = .next (s.restarted 2 env) := exec_deviceReset env s rfl

/-- R414: the reference returns to a dark device. -/
theorem exec_refReturn_restarted (hdark : s.clk.dark = true) (hpairs : env.pairs % 2 ^ 8 ≠ 0) : exec (.refReturn env) s = .next (s.restarted 3 env) := by
  refine (exec_refReturn env s rfl).trans (congrArg _ ?_)
  unfold State.refReturn
  exact if_pos ⟨hdark, firstPair_isSome (Nat.mod_lt _ (by decide)) hpairs⟩

/-- R412: the loss of one of the fixed clocks that the device itself runs on. -/
theorem exec_clockLoss_restarted {d : Nat} (hd : d < 20) (hc : s.clocked = true) : exec (.clockLoss (.fixed d) env) s = .next (s.restarted 4 env) := by
  refine (exec_clockLoss (.fixed d) env s rfl hc).trans (congrArg _ ?_)
  show s.fixedLost d env = _
  unfold State.fixedLost
  rw [if_neg (by omega), if_neg (by omega), if_neg (by omega)]
  rfl

end

/-- Settles O8: every reset of the statement is the one restart; where a pair runs it ends in the mailboxes' acceptance, and where none runs the device is dark. -/
theorem resetStartsTheDevice : Obligations.ResetStartsTheDevice := by
  unfold Obligations.ResetStartsTheDevice
  intro s env c cause hcause
  have hrestart : env.pairs % 2 ^ 8 ≠ 0 ∨ cause ≠ 3 → exec c s = .next (s.restarted cause env) := by
    intro hstart
    rcases hcause with h | h | h | ⟨h, hdark⟩ | ⟨d, h, hd, hc⟩ <;> obtain ⟨rfl, rfl⟩ := Prod.mk.inj h
    · exact exec_powerGood_restarted
    · exact exec_sysRst_restarted
    · exact exec_deviceReset_restarted
    · exact exec_refReturn_restarted hdark (hstart.resolve_right (fun hne => hne rfl))
    · exact exec_clockLoss_restarted hd hc
  have hsmall : cause < 8 := by
    rcases hcause with h | h | h | ⟨h, -⟩ | ⟨d, h, -⟩ <;> rw [(Prod.mk.inj h).2] <;> decide
  refine ⟨fun hpairs => ?starts, fun hnone hne => ?dark⟩
  case starts =>
    have hexec := hrestart (.inl hpairs)
    obtain ⟨t, ht, hwithin⟩ := everyCommandAnswers c s
    obtain ⟨u, hu⟩ := start_lit (s.resetAll cause (decide (cause = 0))) env hpairs
    have hfinal : t = u.accept := (Host.Outcome.next.inj (ht.symm.trans hexec)).trans hu
    obtain ⟨haccept, hmode⟩ := accept_effect u
    exact Answers.intro ht ⟨hfinal ▸ haccept, hfinal ▸ hmode, hwithin.1⟩
  case dark =>
    refine Answers.intro (hrestart (.inr hne)) ?_
    have hdark := dark_effect s env cause (decide (cause = 0)) hnone hsmall
    simp only [decide_eq_true_eq] at hdark
    exact hdark

end Sys2Proof.Machine
end
